-- ==== Sys2Proof/Word.lean ====
section
/-! DEFINITION. The word types of the module and the sparse map every memory and register file is held in. -/

namespace Sys2Proof

/-- A BAR0 register or an FP32 bit pattern: 32 bits (00 R14). -/
abbrev W32 := BitVec 32
/-- A 64-bit register (00 R15). -/
abbrev W64 := BitVec 64
/-- One byte of memory. -/
abbrev Byte := BitVec 8

/-- Sparse data by key: keys strictly rising, and no entry equal to the default of the map
(`SMap.wf` in Machine/Bits.lean), so that equal maps are equal data. -/
abbrev SMap (α : Type) := List (Nat × α)

/-- An edge die E0 to E15 (09 R258); the link port LPn lies on die En (Table 9.1). -/
abbrev Die := Fin 16
/-- A reticle field F00 to F55, index 8 × row + column (Table 0.3). -/
abbrev Field := Fin 56

end Sys2Proof
end

