-- ==== Sys2Proof/Syntax.lean ====
section
/-! DEFINITION. The commands of the module: one constructor of `Instr` per row of spec/opcode_table.json,
and the data their operands carry. -/

namespace Sys2Proof

/-- The requesters of register accesses (00 R15). -/
inductive Req | host | m0 | m1 | dbgacc | smbus
  deriving DecidableEq, Repr, Inhabited

/-- A tile's streams (07 R194). -/
inductive Strm | f | b | w
  deriving DecidableEq, Repr, Inhabited

/-- A router's ports (05 R122). -/
inductive Port | n | e | s | w | l
  deriving DecidableEq, Repr, Inhabited

/-- The register pages (17 Table 17.2, 20 Table 20.1). -/
inductive Page
  | mid | cap | cfg | evc | tmb | pwr | clk | thm | sec | dbg | hdm | plc | owl | asq | rdc | cbg
  | edg (e : Die) | hbm (e : Die) (n : Fin 4) | upe (e : Die) | lnk (e : Die) | red (e : Die) | fst (e : Die)
  | fld (f : Field) | fpw (f : Field) | twc
  deriving DecidableEq, Repr, Inhabited

/-- The unit a VU instruction runs on: the vector unit of an image tile, or an Update Engine,
whose four clusters of 64 lanes act together (02 R61, 09 R282, R283). -/
inductive Eng
  | tile (u v : Nat)
  | ue (d : Die)
  deriving DecidableEq, Repr, Inhabited

/-- The position from which a VU instruction's counter is built (12 R372, Table 12.3): generator
stream ID, iteration of the op and position of the instruction in its body. -/
structure VPos where
  gsid : Nat
  iter : Nat
  pos : Nat
  deriving DecidableEq, Repr, Inhabited

/-- One element run of operand storage as LD and ST name it: format code, first element's byte address,
and the scale pair (s to load with, r to store with) as FP32 bit patterns (07 R204, R208). -/
structure VOperand where
  fmt : Nat
  addr : Nat
  s : W32
  r : W32
  deriving DecidableEq, Repr, Inhabited

/-- A mesh flit: 48-bit header, CRC-16 of its sideband, 64-byte payload (05 R126, R127), and the Owl shadows that travel with
its codes: half-byte offset in the payload, Owl stream ID, BF16 code (04 R110). -/
structure Flit where
  hdr : BitVec 48
  crc : BitVec 16
  pay : List Byte
  sh : List (Nat × Nat × Nat) := []
  deriving DecidableEq, Repr, Inhabited

/-- A flowstone bus: its die end (0 W, 1 E, 2 N, 3 S) and its logical row or column (05 R146, Table 6.5). -/
structure Bus where
  die : Fin 4
  idx : Nat
  deriving DecidableEq, Repr, Inhabited

/-- A flowstone block: SEQ, TAG, PART and CRC-16 of its sideband, and its 128 bytes (05 R148). -/
structure FsBlock where
  seq : Nat
  tag : Nat
  part : Bool
  crc : BitVec 16
  data : List Byte
  deriving DecidableEq, Repr, Inhabited

/-- One reduction block on the wire: 32 lanes, agreed exponent byte X and residue byte R (10 Table 10.1);
`pmax` is the PMAX of a partial (10 Table 10.8), 0 otherwise. -/
structure GBlock where
  lanes : List Int
  x : Nat
  r : Nat
  pmax : Nat
  deriving DecidableEq, Repr, Inhabited

/-- One parameter entry: the block's packed codes, next agreed exponent, E8M0 bytes (10 R304). -/
structure PEntry where
  codes : List Byte
  xNext : Nat
  scales : List Byte
  deriving DecidableEq, Repr, Inhabited

/-- A reduction frame: the header of 10 Table 10.7 and its payload by TYPE (10 Table 10.8). -/
structure RFrame where
  typ : Nat
  backup : Bool
  ovf : Bool
  poison : Bool
  resent : Bool
  last : Bool
  takeover : Bool
  chan : Nat
  rseq : Nat
  layer : Nat
  blk0 : Nat
  nblk : Nat
  share : Nat
  src : Nat
  epoch : Nat
  step : Nat
  cscale : W32
  blocks : List GBlock
  params : List PEntry
  words : List W32
  deriving DecidableEq, Repr, Inhabited

/-- KIND of a link flit (11 R337). -/
inductive FlitKind | idle | bulk | control | invalid
  deriving DecidableEq, Repr, Inhabited

/-- The header of a link flit (11 R337). -/
structure FlitHead where
  kind : FlitKind
  sof : Bool
  eof : Bool
  deriving DecidableEq, Repr, Inhabited

/-- A Ngamor frame: link header, body bytes, trailer (11 Tables 11.1 and 11.2). `flits`: as received, the headers of the flits that
came on the port since the frame before it ended, the frame's last among them; as sent, those of the frame's own flits. `fec`:
codewords under those flits that the FEC corrected, and could not correct (R345). -/
structure LFrame where
  flits : List FlitHead
  fec : Nat × Nat
  bulk : Bool              -- its flits are of KIND bulk, else of KIND control
  ltype : Nat
  enc : Bool
  noseq : Bool
  dst : Nat
  src : Nat
  ttl : Nat
  len : Nat
  body : List Byte
  lseq : Nat
  ackv : Bool
  ackseq : Nat
  freev : Bool
  freeseq : Nat
  crc : BitVec 32
  deriving DecidableEq, Repr, Inhabited

/-- What the codeword check of an HBM read found (09 R270). -/
inductive Ecc | clean | corrected | uncorrectable
  deriving DecidableEq, Repr, Inhabited

/-- Codeword errors that have come up in the store, by module HBM address: the command's own reads find those in their sectors, later
reads the others (09 R270). -/
abbrev EccList := List (Nat × Ecc)

/-- A message the edge ring carries (09 R263). -/
inductive RingMsg
  | farSignal (d : Die) (n : Fin 16) (srcMod : Nat) (srcDie : Die)   -- control class
  | regionWrite (addr : Nat) (data : List Byte)                      -- bulk class
  deriving DecidableEq, Repr, Inhabited

/-- The sensors of 13 R402 and the input and manifold readings at one sampling instant: temperatures in
1/16 °C, voltage in 10 mV, current in 100 mA, power in W, flow in 0.1 L/min, pressure in kPa. -/
structure Readings where
  inV : Nat
  inI : Nat
  inP : Nat
  inlet : Nat
  outlet : Nat
  flow : Nat
  dp : Nat
  wafer : List (Nat × List Nat)   -- field, its five diodes NW NE SW SE C
  die : List Nat                  -- E0 to E15
  hbm : List (Nat × Nat)          -- stack index 4 × die + n, temperature
  iCore : List (Nat × Nat)        -- field, VCORE current in A averaged over 1 µs (13 Table 13.8)
  deriving DecidableEq, Repr, Inhabited

/-- How a field's soft-start ends (13 R392, R393): within limits, outside them, or tripped. -/
inductive SoftStart | passed | missed | tripped
  deriving DecidableEq, Repr, Inhabited

/-- The parts of a tile that self-test tries (08 R228): a unit, a router port by number (L, N, E, S, W), a tap, the clock receiver. -/
inductive TilePart | unit | port (p : Fin 5) | tap (v : Bool) | clock
  deriving DecidableEq, Repr, Inhabited

/-- What self-test found (14 R415): failed parts of physical tiles, failed mesh links and bus segments between two tiles and failed
skip paths by the tiles they join (08 R228, R230), failed regulators per field by number, stacks that failed training, failed ring
segments, whether a trip or short ended it, its duration in ms. -/
structure TestReport where
  parts : List (TilePart × Nat × Nat)
  links : List ((Nat × Nat) × (Nat × Nat))
  skips : List ((Nat × Nat) × (Nat × Nat))
  regs : List (Nat × List Nat × List Nat)    -- field, VCORE regulators, VMEM regulators
  hbmFailed : List (Nat × Nat)     -- die, stack
  segs : List Nat                  -- segment k joins ring positions k and k + 1 (09 R265)
  aborted : Bool
  ms : Nat
  deriving DecidableEq, Repr, Inhabited

/-- The transports of SPDM messages (16 R461). -/
inductive Transport | doe | mctp
  deriving DecidableEq, Repr, Inhabited

/-- The two kinds of IDE stream (16 R464). -/
inductive IdeKind | link | selective
  deriving DecidableEq, Repr, Inhabited

/-- What a read of host memory by the module returned (17 R496): bytes, an error completion, or poison. -/
inductive HostRead
  | data (bs : List Byte)
  | failed
  | poisoned
  deriving DecidableEq, Repr, Inhabited

/-- The carrier-supplied rails that report in PWR_RAILS (13 R379). -/
inductive Rail | hbm | vlink | vhbmif
  deriving DecidableEq, Repr, Inhabited

/-- A write's width in bytes, and whether the packet that carried it was poisoned (19 R537). -/
structure BarWrite where
  width : Nat
  poisoned : Bool
  deriving DecidableEq, Repr, Inhabited

/-- The stream a UE load reads, and what its codeword checks found (09 R270, R283). -/
structure StreamRead where
  t : Fin 8
  ecc : EccList
  deriving DecidableEq, Repr, Inhabited

/-- An edge-DMA queue, and what the codeword checks of its descriptor and data reads found (09 R270, R287). -/
structure QueueRead where
  q : Fin 4
  ecc : EccList
  deriving DecidableEq, Repr, Inhabited

/-- How a host-DMA descriptor meets the link and the store: its packets belong to the IDE stream, and what its codeword checks
found (09 R270, 16 R464). -/
structure HostVia where
  ide : Bool
  ecc : EccList
  deriving DecidableEq, Repr, Inhabited

/-- A pin's raw level and the number of consecutive samples that have had it (18 R516). -/
structure PinRun where
  level : Bool
  samples : Nat
  deriving DecidableEq, Repr, Inhabited

/-- What the host's configuration writes set beside the power state: Bus Master Enable, MSI-X Enable, function mask (18 R514, 19 R535). -/
structure HostCtl where
  bme : Bool
  msixEn : Bool
  fmask : Bool
  deriving DecidableEq, Repr, Inhabited

/-- The commands: one constructor per row of spec/opcode_table.json, in the table's order. -/
inductive Instr
  -- register access (00, 17)
  | registerWrite (rq : Req) (off : Nat) (v : W32)
  | bar0NarrowWrite (rq : Req) (off : Nat) (w : BarWrite)
  | bar0NarrowRead (rq : Req) (off width : Nat)
  | lowerHalfRead (rq : Req) (off : Nat)
  | upperHalfRead (rq : Req) (off : Nat)
  | lowerHalfWrite (rq : Req) (off : Nat) (v : W32)
  | upperHalfWrite (rq : Req) (off : Nat) (v : W32)
  | rcFieldRead (rq : Req) (off : Nat) (mask ev : W32)
  | errInjWrite (rq : Req) (pg : Page) (v : W32)
  | srst (rq : Req) (pg : Page)
  | softResetComplete (pg : Page)
  | enWrite (rq : Req) (pg : Page) (b : Bool)
  | rwbWrite (rq : Req) (off : Nat) (v : W32)
  -- sequencer records (07)
  | nop (u v : Nat) (st : Strm)
  | fence (u v : Nat) (st : Strm)
  | fenceRelease (u v : Nat) (st : Strm)
  | signal (u v : Nat) (st : Strm)
  | wait (u v : Nat) (st : Strm)
  | settTimeout (u v : Nat) (st : Strm)
  | ladderEnd (u v : Nat) (st : Strm)
  | barrier (u v : Nat) (st : Strm)
  | fsignal (u v : Nat) (st : Strm)
  -- tile operations (02, 04, 05, 07)
  | matmul (u v : Nat) (st : Strm)
  | matvec (u v : Nat) (st : Strm)
  | xdot (u v : Nat) (st : Strm)
  | xread (u v : Nat) (st : Strm)
  | xclr (u v : Nat) (st : Strm)
  | vload (u v : Nat) (st : Strm)
  | vmap (u v : Nat) (st : Strm)
  | vred (u v : Nat) (st : Strm)
  | vpoly (u v : Nat) (st : Strm)
  | scaleupd (u v : Nat) (st : Strm)
  | lcopy (u v : Nat) (st : Strm)
  | tapin (u v : Nat) (st : Strm)
  | tapout (u v : Nat) (st : Strm)
  | send (u v : Nat) (st : Strm)
  | msend (u v : Nat) (st : Strm)
  | recv (u v : Nat) (st : Strm)
  | tileOpComplete (u v : Nat) (st : Strm) (idx : Nat)
  | eccWriteback (u v word : Nat)
  -- vector unit instructions (02, 09)
  | add (e : Eng) (vd va vb : Fin 16)
  | sub (e : Eng) (vd va vb : Fin 16)
  | mul (e : Eng) (vd va vb : Fin 16)
  | fma (e : Eng) (vd va vb vc : Fin 16)
  | min (e : Eng) (vd va vb : Fin 16)
  | max (e : Eng) (vd va vb : Fin 16)
  | abs (e : Eng) (vd va : Fin 16)
  | neg (e : Eng) (vd va : Fin 16)
  | cmp (e : Eng) (k : Fin 4) (va vb : Fin 16)
  | sel (e : Eng) (vd va vb : Fin 16)
  | split (e : Eng) (vd va vc : Fin 16)
  | scalb (e : Eng) (vd va vb : Fin 16)
  | cvt (e : Eng) (vd va : Fin 16) (fmt : Nat) (r : W32) (sr : Option VPos)
  | rand (e : Eng) (vd : Fin 16) (at_ : VPos)
  | poly (e : Eng) (vd va : Fin 16) (tab : Fin 2)
  | ld (e : Eng) (vd : Fin 16) (o : VOperand)
  | st (e : Eng) (va : Fin 16) (o : VOperand) (sr : Option VPos)
  -- Update Engine instructions (09)
  | lds (d : Die) (vd : Fin 16) (r : StreamRead)
  | sts (d : Die) (va : Fin 16) (t : Fin 8)
  | qout (d : Die) (va : Fin 16) (t : Fin 8)
  | amax (d : Die) (va : Fin 16)
  | xacc (d : Die) (lane : Fin 8) (va vb : Fin 16)
  | xrd (d : Die) (sk : Fin 16) (lane : Fin 8)
  | xchg (d : Die) (accLanes : Bool)
  | xchgComplete (prog : Nat)
  | xchgTimeout (d : Die)
  | scal (d : Die) (vd sk : Fin 16)
  | usig (d : Die) (fsDie : Die) (fsn : Fin 16)
  | end_ (d : Die)
  | ueProgramStart (d : Die)
  -- mesh (05, 06)
  | bulkUnicastFlit (u v : Nat) (p : Port) (f : Flit)
  | bulkMulticastFlit (u v : Nat) (p : Port) (f : Flit)
  | signalFlit (u v : Nat) (p : Port) (f : Flit)
  | combineUp (u v : Nat) (p : Port) (f : Flit)
  | combineDown (u v : Nat) (p : Port) (f : Flit)
  | haltFlit (u v : Nat) (p : Port) (f : Flit)
  | slotWaitExpiry (u v : Nat) (p : Port)
  | creditReturn (u v : Nat) (p : Port)
  | deadlock (u v : Nat)
  | aliveWireLow (u v : Nat) (p : Port)
  -- flowstone (05, 08, 09)
  | blockInject (bus : Bus) (tag seq : Nat)
  | preRead (bus : Bus) (tag seq : Nat) (ecc : EccList)
  | inboundBlock (u v : Nat) (bus : Bus) (b : FsBlock)
  | outboundBlock (u v : Nat) (bus : Bus) (b : FsBlock)
  | collectorBlock (bus : Bus) (b : FsBlock)
  -- tick and step (06, 04, 01)
  | tickMarkerLaunch
  | sleepSample
  | tickBoundary
  | tokAvgOverdraw (u v : Nat)
  | peakOverdraw (u v cost : Nat)
  | ladderDecision (unit : Nat)
  | owlCheckComplete (u v : Nat)
  | stepWatchdog
  | stepBoundary
  -- edge dies and store (07, 09, 17)
  | farSettSignal (d : Die) (n : Fin 16) (srcMod : Nat) (srcDie : Die)
  | ringFlit (seg : Fin 16) (crcOk : Bool) (m : RingMsg)
  | patrolScrubRead (d : Die) (n : Fin 4) (ecc : Ecc)
  | bar2Read (off len : Nat) (ide : Bool) (ecc : EccList)
  | bar2Write (off : Nat) (data : List Byte) (ide poisoned : Bool)
  | dmaqTailWrite (rq : Req) (d : Die) (q : Fin 4) (v : W32)
  | dmaqCtlWrite (rq : Req) (d : Die) (q : Fin 4) (v : W32)
  | edgeDmaDescriptor (d : Die) (r : QueueRead)
  | edgeDmaComplete (d : Die) (q : Fin 4)
  -- reduction (10)
  | contrib8 (f : RFrame)
  | contrib16 (f : RFrame)
  | partial8 (f : RFrame)
  | partial16 (f : RFrame)
  | param (f : RFrame)
  | widen (f : RFrame)
  | resend (f : RFrame)
  | done (f : RFrame)
  | permute (f : RFrame)
  | permDone (f : RFrame)
  | contributionDeadline (chan rseq : Nat)
  | returnDeadline (chan rseq : Nat)
  | omit_ (rq : Req) (chan : Nat)
  | reset (rq : Req) (chan : Nat)
  | permuteTimeout
  -- links (11, 19)
  | portTrained (p : Die) (pmd : Nat)
  | portDown (p : Die)
  | farFrame (p : Die) (f : LFrame)
  | xferFrame (p : Die) (f : LFrame)
  | tunnelFrame (p : Die) (f : LFrame)
  | hello (p : Die) (f : LFrame)
  | tsyncRequest (p : Die) (f : LFrame)
  | tsyncResponse (p : Die) (f : LFrame)
  | ack (p : Die) (f : LFrame)
  | nak (p : Die) (f : LFrame)
  | ackTimer (p : Die)
  | replayTimeout (p : Die)
  | helloTimer (p : Die)
  | neighbourTimeout (p : Die)
  | tsyncTimer
  | pluggableInsert (p : Die) (watts : Nat)
  | pluggableRemove (p : Die)
  | cmisTimeout (p : Die)
  -- counter generator (12)
  | cbgQuery (rq : Req) (v : W32)
  | cbgQctrWrite (rq : Req) (k : Fin 3) (v : W32)
  -- power, clock, cooling (13)
  | inputUndervoltage
  | inputOvervoltage
  | inputOvercurrent
  | regulatorFail (f : Field) (vmem : Bool) (idx : Nat)
  | droopWindow (f : Field) (v2 x y : Nat)
  | tileUndervoltage (u v : Nat)
  | vmemRange (f : Field)
  | fieldSoftStart (f : Field)
  | softStartEnd (f : Field) (r : SoftStart)
  | fieldShort (f : Field)
  | pwrFcmd (rq : Req) (v : W32)
  | pwrVminRst (rq : Req)
  | fpwVminRst (rq : Req) (f : Field)
  | refclkLost
  | pllUnlock
  | upstreamClockLoss (c : Fin 8) (r : Fin 7) (x : Fin 24) (y : Fin 28)   -- field column and row, tile within the field
  | clockTreeSetupDone (pll : Bool) (cands : List (Fin 4)) (silent : List (Nat × Nat))
  | thermalSample (r : Readings)
  | flowTrip
  | flowLow
  | pinLevelChange (pin : Fin 8) (run : PinRun)
  -- start-up and reset (14, 19)
  | pwrEnAssert
  | pwrEnDeassert
  | pwrEnHoldoffEnd
  | inputLoss
  | bootRomStart (addrSel : Fin 4)
  | perstNAssert
  | perstNRelease
  | mgmtSramWindowWrite (rq : Req) (off : Nat) (v : W32)
  | boot (rq : Req)
  | arrayUp (rq : Req)
  | continue_ (rq : Req)
  | pauseTimeout
  | selfTestEnd (r : TestReport)
  | load (rq : Req)
  | loadComplete
  | run (rq : Req)
  | halt (rq : Req)
  | resume (rq : Req)
  | unload (rq : Req)
  | arrayReset (rq : Req)
  | arrayResetComplete
  | moduleReset (rq : Req)
  | portReset (rq : Req) (p : Die)
  | midWdog (rq : Req) (v : W32)
  | wdogExpiry (core1 : Bool)
  -- faults and recovery (15)
  | settProbeComplete (silent : List (Nat × Nat))
  | diagnosisComplete (failed : List (Nat × Nat))
  | replacementComplete
  | rejoin (rq : Req) (own : Bool)
  | recover (rq : Req)
  | abandon (rq : Req)
  -- security (16)
  | getVersion (t : Transport)
  | getCapabilities (t : Transport)
  | negotiateAlgorithms (t : Transport) (ver : Nat) (supported : Bool)
  | getDigests (t : Transport)
  | getCertificate (t : Transport) (slot : Nat)
  | challenge (t : Transport) (slot : Nat) (nonce : List Byte)
  | getMeasurements (t : Transport) (index : Nat) (signed : Bool)
  | keyExchange (t : Transport) (pub : List Byte)
  | finish (t : Transport) (verifyOk : Bool)
  | heartbeat (t : Transport)
  | endSession (t : Transport)
  | setHbmKey (dataKey tweakKey : List Byte)
  | setLinkKey (port : Nat) (rx : Bool) (salt key : List Byte)
  | seal_ (hash : List Byte)
  | unseal_ (spdm : Bool)
  | getSec
  | scrubComplete (ok : Bool) (us : Nat)
  | ideLost
  -- debug (16, 17, 19)
  | dbgLevelWrite (rq : Req) (v : W32)
  | tick1 (rq : Req)
  | prtHop (rq : Req) (v : W32)
  | prtLink (rq : Req) (v : W32)
  | prtTok (rq : Req) (v : W32)
  | prtWake (rq : Req) (v : W32)
  | prtOwl (rq : Req) (v : W32)
  | prtSat (rq : Req) (v : W32)
  | prtRes (rq : Req) (v : W32)
  | prtLate (rq : Req) (v : W32)
  | extest
  | idcode
  | samplePreload (tdi : List Bool)
  | bypass
  | dbgacc (dr : W64)
  | dbgaccComplete
  | tileWindowRead (rq : Req) (off : Nat)
  | windowReadTimeout (rq : Req) (off : Nat)
  | tileWindowWrite (rq : Req) (off : Nat) (v : W32)
  | plcXlIn (rq : Req) (v : W32)
  | peerSelWrite (rq : Req) (v : W32)
  -- configuration, timers (17)
  | commit (rq : Req)
  | rollback (rq : Req)
  | copy (rq : Req)
  | tmrCmpWrite (rq : Req) (n : Fin 4) (hi : W32)
  | timerFire (n : Fin 4)
  -- host DMA and ledger (17)
  | hdqTailWrite (rq : Req) (q : Fin 8) (v : W32)
  | hdqCtlWrite (rq : Req) (q : Fin 8) (v : W32)
  | hostDmaDescriptor (q : Fin 8) (desc : HostRead) (host : List HostRead) (via : HostVia)
  | hostDmaComplete (q : Fin 8)
  | ldgRdWrite (rq : Req) (hi : W32)
  -- event controller and host link (18, 19)
  | pendSetWrite (rq : Req) (w : Fin 32) (v : W32)
  | pendClear (rq : Req) (w : Fin 32) (v fired : W32)
  | vectorTimeExpiry (n : Fin 32)
  | msixUnmask (rq : Req) (n : Fin 32)
  | pcieHotReset
  | pciePowerStateChange (d3hot : Bool) (ctl : HostCtl)
  | setEndpointId (eid : Nat)
  | getEndpointId
  | getMctpVersionSupport (typ : Nat)
  | getMessageTypeSupport
  | getVendorDefinedMessageSupport (sel : Nat)
  | smbusRegisterRead (off : Nat)
  | smbusRegisterWrite (off : Nat) (v : W32)
  | fieldSequencingEnd
  | refclkReturn
  | busbarEnergised (reversed : Bool)
  | hbmRail (d : Die) (r : Rail) (good : Bool)
  | ideKm (k : IdeKind)
  | trstN (level : Bool)
  deriving DecidableEq, Repr

end Sys2Proof
end

