-- ==== Sys2Proof/Machine/Bits.lean ====
section
/-! DEFINITION. Sparse maps, bit fields, byte order and the two CRCs. -/

namespace Sys2Proof.Machine

/-- The entry of key `k`, if it is listed. -/
def mfind {α : Type} : SMap α → Nat → Option α
  | [], _ => none
  | (j, w) :: r, k => if k = j then some w else mfind r k

/-- What key `k` reads as: its entry, or the default of the map. -/
def mget {α : Type} (d : α) (m : SMap α) (k : Nat) : α := (mfind m k).getD d

/-- Insert or replace an entry, keys strictly rising. -/
def minsert {α : Type} (k : Nat) (v : α) : SMap α → SMap α
  | [] => [(k, v)]
  | (j, w) :: r =>
    if k < j then (k, v) :: (j, w) :: r
    else if k = j then (k, v) :: r
    else (j, w) :: minsert k v r

/-- Remove the entry of key `k`. -/
def merase {α : Type} (k : Nat) (m : SMap α) : SMap α := m.filter fun e => e.1 ≠ k

/-- Write `v` at key `k`; writing the default removes the entry, so the map stays canonical. -/
def mput {α : Type} [DecidableEq α] (d : α) (k : Nat) (v : α) (m : SMap α) : SMap α :=
  if v = d then merase k m else minsert k v m

/-- Write a run of values at rising keys from `k`. -/
def mputs {α : Type} [DecidableEq α] (d : α) (k : Nat) (vs : List α) (m : SMap α) : SMap α :=
  match vs with
  | [] => m
  | v :: r => mputs d (k + 1) r (mput d k v m)

/-- The values at `n` keys from `k` on. -/
def mgets {α : Type} (d : α) (m : SMap α) (k n : Nat) : List α :=
  (List.range n).map fun i => mget d m (k + i)

/-- Apply a function to every entry; an entry that becomes the default is dropped. -/
def mmap {α : Type} [DecidableEq α] (d : α) (f : α → α) (m : SMap α) : SMap α :=
  m.foldr (fun e r => mput d e.1 (f e.2) r) []

/-- Canonical form: keys strictly rising, no entry equal to the default. -/
abbrev mwf {α : Type} (d : α) (m : SMap α) : Prop :=
  (m.map Prod.fst).Pairwise (· < ·) ∧ ∀ e ∈ m, e.2 ≠ d

/-- Bits `hi` down to `lo` of a number of any width (00 R11). -/
def fld (w hi lo : Nat) : Nat := (w >>> lo) % 2 ^ (hi - lo + 1)

/-- Bit `i` of a register. -/
def bitOf (w : W32) (i : Nat) : Bool := w.getLsbD i

/-- A register with bit `i` set to `b`. -/
def setBit (w : W32) (i : Nat) (b : Bool) : W32 :=
  if b then w ||| (BitVec.ofNat 32 (2 ^ i)) else w &&& ~~~(BitVec.ofNat 32 (2 ^ i))

/-- A register with bits `hi` down to `lo` replaced by `v`. -/
def setFld (w : W32) (hi lo v : Nat) : W32 :=
  let m := BitVec.ofNat 32 ((2 ^ (hi - lo + 1) - 1) <<< lo)
  (w &&& ~~~m) ||| (BitVec.ofNat 32 (v <<< lo) &&& m)

/-- Write under a mask: bits of `m` from `v`, the others kept (00 R16). -/
def maskWrite (old v m : W32) : W32 := (old &&& ~~~m) ||| (v &&& m)

def w32 (n : Nat) : W32 := BitVec.ofNat 32 n
def loW (n : Nat) : W32 := BitVec.ofNat 32 n
def hiW (n : Nat) : W32 := BitVec.ofNat 32 (n >>> 32)

/-- A counter that saturates at 0xFFFF_FFFF. -/
def satInc (w : W32) (n : Nat := 1) : W32 :=
  if w.toNat + n ≥ 2 ^ 32 then w32 (2 ^ 32 - 1) else w32 (w.toNat + n)

/-- Little-endian value of a byte string (00 R11). -/
def leNat : List Byte → Nat
  | [] => 0
  | b :: r => b.toNat + 256 * leNat r

/-- The `n` little-endian bytes of a value. -/
def natLE : Nat → Nat → List Byte
  | 0, _ => []
  | n + 1, v => BitVec.ofNat 8 v :: natLE n (v / 256)

/-- Big-endian bytes, used by SHA-384 and ECDSA fields only. -/
def natBE (n v : Nat) : List Byte := (natLE n v).reverse

/-- Bytes `o` to `o + n − 1` of a byte string, as a little-endian value; missing bytes count 0. -/
def fieldLE (bs : List Byte) (o n : Nat) : Nat := leNat ((bs.drop o).take n)

/-- A byte of a string, 0 beyond its end. -/
def byteAt (bs : List Byte) (o : Nat) : Nat := (bs.getD o 0).toNat

/-- `n` zero bytes. -/
def zeros (n : Nat) : List Byte := List.replicate n 0

/-- A byte string padded with zero bytes to a multiple of `k`. -/
def padTo (k : Nat) (bs : List Byte) : List Byte :=
  bs ++ zeros ((k - bs.length % k) % k)

/-- Cut a list into runs of `n`; `fuel` bounds their number. -/
def chunksAux {α : Type} (n : Nat) : Nat → List α → List (List α)
  | 0, _ => []
  | f + 1, l => if l.isEmpty then [] else l.take n :: chunksAux n f (l.drop n)

def chunks {α : Type} (n : Nat) (l : List α) : List (List α) := chunksAux n l.length l

def ceilDiv (a b : Nat) : Nat := (a + b - 1) / b

/-- Rotate a 32-bit word left. -/
def rotl (w : W32) (n : Nat) : W32 := w.rotateLeft n

/-- CRC-16, polynomial 0x1021, initial value 0xFFFF, over bytes, most significant bit first (05 R126). -/
def crc16Bit (c : BitVec 16) : Nat → BitVec 16
  | 0 => c
  | n + 1 => crc16Bit (if c.getLsbD 15 then (c <<< 1) ^^^ 0x1021 else c <<< 1) n

def crc16 (bs : List Byte) : BitVec 16 :=
  bs.foldl (fun (c : BitVec 16) (b : Byte) => crc16Bit (c ^^^ ((BitVec.setWidth 16 b) <<< (8 : Nat))) 8) (0xFFFF : BitVec 16)

/-- CRC-32 of IEEE 802.3, bit-reflected, initial and final 0xFFFF_FFFF (11 R345). -/
def crc32Bit (c : W32) : Nat → W32
  | 0 => c
  | n + 1 => crc32Bit (if c.getLsbD 0 then (c >>> 1) ^^^ 0xEDB88320 else c >>> 1) n

def crc32 (bs : List Byte) : W32 :=
  (bs.foldl (fun (c : W32) (b : Byte) => crc32Bit (c ^^^ BitVec.setWidth 32 b) 8) (0xFFFFFFFF : W32)) ^^^ (0xFFFFFFFF : W32)

/-- Two's-complement value of the low `n` bits. -/
def sgn (n v : Nat) : Int :=
  let x := v % 2 ^ n
  if x < 2 ^ (n - 1) then x else (x : Int) - 2 ^ n

/-- The `n`-bit two's-complement code of an integer. -/
def unsgn (n : Nat) (i : Int) : Nat := (i % (2 ^ n : Nat)).toNat

/-- Clamp an integer. -/
def iclamp (lo hi i : Int) : Int := if i < lo then lo else if hi < i then hi else i

/-- Replace the element of a list at an index. -/
def lset {α : Type} (l : List α) (i : Nat) (a : α) : List α := l.set i a

/-- Insert into a list with no repeats, kept in order of arrival. -/
def addNew {α : Type} [DecidableEq α] (a : α) (l : List α) : List α := if a ∈ l then l else l ++ [a]

end Sys2Proof.Machine
end

