-- ==== Sys2Proof/Machine/Cbg.lean ====
section
/-! DEFINITION. The counter generator: key, counter and block function (12 R365 to R372). -/

namespace Sys2Proof.Machine

/-- The four key words (12 R365). -/
structure Key where
  k0 : W32
  k1 : W32
  k2 : W32
  k3 : W32
  deriving DecidableEq, Repr, Inhabited

/-- Four words: a counter c0 to c3 or an output y0 to y3. -/
structure Quad where
  x0 : W32
  x1 : W32
  x2 : W32
  x3 : W32
  deriving DecidableEq, Repr, Inhabited

/-- The key of a 64-bit seed and a 64-bit job ID. -/
def mkKey (seed job : Nat) : Key := ⟨loW seed, hiW seed, loW job, hiW job⟩

/-- The fifth key word (12 R368). -/
def Key.k4 (k : Key) : W32 := k.k0 ^^^ rotl k.k1 8 ^^^ rotl k.k2 16 ^^^ rotl k.k3 24 ^^^ 0x5E1F37A9

/-- Key word number `i`, 0 to 4. -/
def Key.get (k : Key) : Nat → W32
  | 0 => k.k0 | 1 => k.k1 | 2 => k.k2 | 3 => k.k3 | _ => k.k4

/-- The rotation constants of round `r` (12 Table 12.2). -/
def rotRow (r : Nat) : Nat × Nat × Nat × Nat :=
  match r % 3 with
  | 0 => (7, 19, 11, 25)
  | 1 => (3, 22, 14, 29)
  | _ => (9, 17, 27, 5)

/-- The four word updates of one round. -/
def mixRound (r : Nat) (q : Quad) : Quad :=
  let n := rotRow r
  let x0 := q.x0 + (q.x3 ^^^ rotl q.x1 n.1)
  let x1 := q.x1 + (x0 ^^^ rotl q.x2 n.2.1)
  let x2 := q.x2 + (x1 ^^^ rotl q.x3 n.2.2.1)
  let x3 := q.x3 + (x2 ^^^ rotl x0 n.2.2.2)
  ⟨x0, x1, x2, x3⟩

/-- The key injection with number `s`, 1 to 4. -/
def inject (k : Key) (s : Nat) (q : Quad) : Quad :=
  ⟨(q.x0 ^^^ k.get (s % 5)) + w32 s * 0x2F6BC4D1, q.x1 ^^^ k.get ((s + 1) % 5),
   q.x2 ^^^ k.get ((s + 2) % 5), q.x3 ^^^ k.get ((s + 3) % 5)⟩

/-- The number of the injection that follows round `r`, if one does. -/
def injectAfter : Nat → Option Nat
  | 2 => some 1 | 5 => some 2 | 8 => some 3 | 9 => some 4 | _ => none

/-- One round of the block function with the injection that may follow it. -/
def cbgRound (k : Key) (q : Quad) (r : Nat) : Quad :=
  match injectAfter r with
  | some s => inject k s (mixRound r q)
  | none => mixRound r q

/-- The first key addition. -/
def whiten (k : Key) (c : Quad) : Quad := ⟨c.x0 ^^^ k.k0, c.x1 ^^^ k.k1, c.x2 ^^^ k.k2, c.x3 ^^^ k.k3⟩

/-- The block function (12 R368). -/
def cbgBlock (k : Key) (c : Quad) : Quad :=
  [0, 1, 2, 3, 4, 5, 6, 7, 8, 9].foldl (cbgRound k) (whiten k c)

/-- A counter from its fields (12 Table 12.1). -/
def mkCounter (stream step elem lane : Nat) : Quad :=
  let n := (stream % 2 ^ 16) * 2 ^ 112 + (step % 2 ^ 32) * 2 ^ 80 + (elem % 2 ^ 64) * 2 ^ 16 + lane % 2 ^ 16
  ⟨w32 n, w32 (n >>> 32), w32 (n >>> 64), w32 (n >>> 96)⟩

/-- The random word y0 of a use (12 R369). -/
def draw (k : Key) (stream step elem lane : Nat) : W32 := (cbgBlock k (mkCounter stream step elem lane)).x0

/-- ELEM of an accumulator add, a DRAIN conversion or an Owl block (12 Table 12.3). -/
def elemOf (gal row col : Nat) : Nat := (gal % 64) * 2 ^ 58 + (row % 2 ^ 26) * 2 ^ 32 + col % 2 ^ 32

/-- ELEM of an outbound tap add (12 Table 12.3). -/
def tapElem (dieEnd idx seq e : Nat) : Nat := (dieEnd % 4) * 2 ^ 62 + (idx % 2 ^ 14) * 2 ^ 48 + (seq % 2 ^ 16) * 32 + e % 32

end Sys2Proof.Machine
end

