-- ==== Sys2Proof/Config.lean ====
section
/-! DEFINITION. What the manual leaves open: values without a definition, so that nothing can be proved of them
beyond what holds of every value. Each is named in the assumption log. -/

namespace Sys2Proof

/-- A polynomial table (02 R63): segment mode and its constants, outputs for +∞ and −∞, sign rule of BINADE mode
(0 odd, 1 even, 2 clamp to segment 0), degree, and 64 segments of a base b and coefficients c0 to c5. -/
structure PolyTable where
  uniform : Bool
  lo : W32
  invW : W32
  e0 : Nat
  posInf : W32
  negInf : W32
  signRule : Nat
  degree : Nat
  segs : List (W32 × List W32)
  deriving DecidableEq, Repr, Inhabited

namespace Config

/-- Does an ECDSA P-384 signature (r, s) over a digest verify under the fused Drafoholt root key (14 R411)?
The key is fused and no interface reads it. -/
opaque ecdsaOk : (hash sig : List Byte) → Bool

/-- AES-256-GCM opening and sealing of a link frame: salt, key, counter, header and body (11 R345, R347). -/
opaque gcmOpen : (salt key : List Byte) → (ctr : Nat) → (hdr body : List Byte) → Option (List Byte)
opaque gcmSeal : (salt key : List Byte) → (ctr : Nat) → (hdr body : List Byte) → List Byte

/-- Bytes of SPDM responses that the fused device key or its certificates determine (16 R461): by request and
request bytes. -/
opaque spdmBytes : (req : Nat) → (arg : List Byte) → List Byte

/-- A free 32-bit value, a fresh one for each counter value of the state. -/
opaque freeWord : Nat → BitVec 32

/-- The manufacturer code that the stack with index 4 × die + n reports (09 R291). -/
opaque hbmMaker : (stack : Nat) → BitVec 8

/-! Sections of an image whose bytes, or the place of whose entries, the manual does not lay out (06 Table 6.9). -/

/-- Initial counts of a sett plan: tile (u, v), sett, COUNT (07 R209). -/
opaque settCounts : (plan : List Byte) → List (Nat × Nat × Nat × Nat)
/-- Far setts of a sett plan: die, far sett, threshold N, FSn_RELAY word (07 R219). -/
opaque farSetts : (plan : List Byte) → List (Nat × Nat × Nat × Nat)
/-- Sett lists of a sett plan: ladder unit and its setts as (u, v, sett) (04 R104). -/
opaque settLists : (plan : List Byte) → List (Nat × List (Nat × Nat × Nat))
/-- Offset and number of the tensor map entries and of the sump descriptors in a gallery section (08 R247, R249). -/
opaque tensorMap : (sec : List Byte) → Nat × Nat
opaque sumpMap : (sec : List Byte) → Nat × Nat
/-- Does the receive queue of every tile absorb a tick's flits (06 R177)? The answer needs the bank arbitration of each
cycle, which this model does not carry. -/
opaque rxAbsorbs : (imageHash : List Byte) → (tick : Nat) → Bool

/-- A table of a polynomial section: the manual gives what a table holds and not its bytes (02 R63). -/
opaque polyTable : (sec : List Byte) → (index : Nat) → PolyTable

/-! The reserved rows of a tile's SRAM (02 Table 2.2): the manual says what they hold and not how. -/

/-- The polynomial table store, 4,096 bytes, with the tables of a bit mask loaded from a section (02 R64). -/
opaque polyStore : (sec : List Byte) → (tables place : Nat) → BitVec 8
/-- The Owl's ring and scratch rows: by the shadows held (key, Owl stream ID, BF16 code), the cycles of the pending check that are
done, and the byte's place from row 3,000 on (04 R110, R111). -/
opaque ringByte : (shadows : List (Nat × Nat × Nat)) → (spent place : Nat) → BitVec 8

end Config

end Sys2Proof
end

