-- ==== Sys2Proof/Machine/Aes.lean ====
section
/-! DEFINITION. AES-256 (FIPS 197) and its XTS mode (IEEE 1619), the cipher of SEALED regions (09 R273). -/

namespace Sys2Proof.Machine

/-- Multiplication by x in GF(2^8), modulo x^8 + x^4 + x^3 + x + 1. -/
def xtime (a : Nat) : Nat := if a < 128 then 2 * a else (2 * a) % 256 ^^^ 0x1B

/-- Product in GF(2^8). -/
def gfMul (a b : Nat) : Nat :=
  ((List.range 8).foldl (fun (r : Nat × Nat) i => (if b.testBit i then r.1 ^^^ r.2 else r.1, xtime r.2)) (0, a)).1

/-- The affine map of SubBytes. -/
def affine (b : Nat) : Nat :=
  let rot (k : Nat) : Nat := (b * 2 ^ k) % 256 + b / 2 ^ (8 - k)
  b ^^^ rot 1 ^^^ rot 2 ^^^ rot 3 ^^^ rot 4 ^^^ 0x63

/-- Powers of x + 1, which generates the nonzero elements. -/
def gfPowers : Nat → Nat → List Nat
  | 0, _ => []
  | n + 1, a => a :: gfPowers n (a ^^^ xtime a)

/-- The S-box: the inverse of each byte, then the affine map. The inverse of the k-th power of the generator is the (255 - k)-th. -/
def sbox : List Nat :=
  let p := gfPowers 255 1
  let inv : List (Nat × Nat) := p.zip (1 :: (p.drop 1).reverse)
  (List.range 256).map fun a => affine (((inv.find? fun q => q.1 = a).map (·.2)).getD 0)

/-- The inverse S-box. -/
def sboxInv (sb : List Nat) : List Nat := (List.range 256).map fun a => (sb.findIdx? (· = a)).getD 0

/-- The 60 words of the key schedule of a 32-byte key, as 240 bytes: `n` words more. -/
def keyMore (sb : List Nat) : Nat → Nat → List Nat → List Nat
  | 0, _, w => w
  | n + 1, i, w =>
    let t := w.drop (4 * i - 4)
    let t := if i % 8 = 0 then
        ((t.drop 1 ++ t.take 1).map fun b => sb.getD b 0).zipIdx.map fun q =>
          if q.2 = 0 then q.1 ^^^ (gfPowTwo (i / 8 - 1)) else q.1
      else if i % 8 = 4 then t.map fun b => sb.getD b 0 else t
    keyMore sb n (i + 1) (w ++ ((w.drop (4 * i - 32)).take 4).zipWith (· ^^^ ·) t)
where
  /-- Round constants: the powers of x. -/
  gfPowTwo (k : Nat) : Nat := (List.range k).foldl (fun a _ => xtime a) 1

def keySchedule (sb : List Nat) (key : List Byte) : List Nat := keyMore sb 52 8 ((List.range 32).map fun i => (key.getD i 0).toNat)

def addKey (w : List Nat) (r : Nat) (st : List Nat) : List Nat := st.zipWith (· ^^^ ·) ((w.drop (16 * r)).take 16)

/-- ShiftRows, or its inverse, on 16 bytes in columns. -/
def shiftRows (back : Bool) (st : List Nat) : List Nat :=
  (List.range 16).map fun i => st.getD ((i + (if back then 12 else 4) * (i % 4)) % 16) 0

/-- MixColumns with a row of coefficients. -/
def mixColumns (c : List Nat) (st : List Nat) : List Nat :=
  (List.range 16).map fun i =>
    (List.range 4).foldl (fun a j => a ^^^ gfMul (st.getD (i / 4 * 4 + j) 0) (c.getD ((j + 4 - i % 4) % 4) 0)) 0

/-- AES-256 of a 16-byte block. -/
def aesEnc (key : List Byte) (blk : List Byte) : List Byte :=
  let sb := sbox
  let w := keySchedule sb key
  let sub (st : List Nat) : List Nat := shiftRows false (st.map fun b => sb.getD b 0)
  let st := addKey w 0 (blk.map (·.toNat))
  let st := (List.range 13).foldl (fun st r => addKey w (r + 1) (mixColumns [2, 3, 1, 1] (sub st))) st
  (addKey w 14 (sub st)).map (BitVec.ofNat 8)

/-- Its inverse. -/
def aesDec (key : List Byte) (blk : List Byte) : List Byte :=
  let sb := sbox
  let w := keySchedule sb key
  let bx := sboxInv sb
  let sub (st : List Nat) : List Nat := (shiftRows true st).map fun b => bx.getD b 0
  let st := sub (addKey w 14 (blk.map (·.toNat)))
  let st := (List.range 13).foldl (fun st r => sub (mixColumns [14, 11, 13, 9] (addKey w (13 - r) st))) st
  (addKey w 0 st).map (BitVec.ofNat 8)

/-- Multiply a tweak by the primitive element of GF(2^128). -/
def tweakNext (t : List Byte) : List Byte :=
  let v := 2 * (t.foldr (fun b a => b.toNat + 256 * a) 0)
  let v := if 2 ^ 128 ≤ v then (v % 2 ^ 128) ^^^ 0x87 else v
  (List.range 16).map fun i => BitVec.ofNat 8 (v / 256 ^ i)

/-- XTS of the `j`-th 16-byte block of a data unit: `key` holds the data key and the tweak key, `unit` is the unit's number. -/
def xtsBlock (enc : Bool) (key : List Byte × List Byte) (unit j : Nat) (blk : List Byte) : List Byte :=
  let t0 := aesEnc key.2 ((List.range 16).map fun i => BitVec.ofNat 8 (unit / 256 ^ i))
  let t := (List.range j).foldl (fun t _ => tweakNext t) t0
  let x := blk.zipWith (· ^^^ ·) t
  (if enc then aesEnc key.1 x else aesDec key.1 x).zipWith (· ^^^ ·) t

end Sys2Proof.Machine
end

