-- ==== Sys2Proof/Machine/Regs.lean ====
section
/-! DEFINITION. The register map: which page and register a BAR0 offset names, its access code, its writable
bits and its reset value (chapters 00, 17, 20 and the register table of each page's own chapter). -/

namespace Sys2Proof.Machine

/-- What a BAR0 offset names (17 Table 17.1). -/
inductive Space
  | reg (pg : Page) (o : Nat)
  | sram (o : Nat)
  | view (n o : Nat)
  | reserved
  deriving DecidableEq, Repr

/-- The global pages in address order (17 Table 17.2). -/
def globalPage : Nat → Page
  | 0 => .mid | 1 => .cap | 2 => .cfg | 3 => .evc | 4 => .tmb | 5 => .pwr | 6 => .clk | 7 => .thm
  | 8 => .sec | 9 => .dbg | 10 => .hdm | 11 => .plc | 12 => .owl | 13 => .asq | 14 => .rdc | _ => .cbg

/-- The pages of edge die `e` in address order. -/
def diePage (e : Die) : Nat → Option Page
  | 0 => some (.edg e) | 1 => some (.hbm e 0) | 2 => some (.hbm e 1) | 3 => some (.hbm e 2) | 4 => some (.hbm e 3)
  | 5 => some (.upe e) | 6 => some (.lnk e) | 7 => some (.red e) | 8 => some (.fst e) | _ => none

/-- Decode a BAR0 offset (17 R473, R474). -/
def spaceOf (off : Nat) : Space :=
  let o := off % 0x1000
  if off < 0x10000 then .reg (globalPage (off / 0x1000)) o
  else if 0x100000 ≤ off ∧ off < 0x200000 then
    match diePage (Fin.ofNat 16 ((off - 0x100000) / 0x10000)) (off % 0x10000 / 0x1000) with
    | some pg => .reg pg o
    | none => .reserved
  else if 0x400000 ≤ off ∧ off < 0x780000 then
    let f : Field := Fin.ofNat 56 ((off - 0x400000) / 0x10000)
    if off % 0x10000 < 0x1000 then .reg (.fld f) o
    else if off % 0x10000 < 0x2000 then .reg (.fpw f) o
    else .reserved
  else if 0x800000 ≤ off ∧ off < 0xA00000 then .sram (off - 0x800000)
  else if 0x1000000 ≤ off ∧ off < 0x1001000 then .reg .twc o
  else if 0x2000000 ≤ off ∧ off < 0x4000000 then .view ((off - 0x2000000) / 0x200000) (off % 0x200000)
  else .reserved

/-- The base offset of a page (17 Table 17.2, 20 Table 20.1). -/
def pageBase : Page → Nat
  | .mid => 0x0000 | .cap => 0x1000 | .cfg => 0x2000 | .evc => 0x3000 | .tmb => 0x4000 | .pwr => 0x5000
  | .clk => 0x6000 | .thm => 0x7000 | .sec => 0x8000 | .dbg => 0x9000 | .hdm => 0xA000 | .plc => 0xB000
  | .owl => 0xC000 | .asq => 0xD000 | .rdc => 0xE000 | .cbg => 0xF000
  | .edg e => 0x100000 + e.val * 0x10000
  | .hbm e n => 0x100000 + e.val * 0x10000 + (n.val + 1) * 0x1000
  | .upe e => 0x100000 + e.val * 0x10000 + 0x5000
  | .lnk e => 0x100000 + e.val * 0x10000 + 0x6000
  | .red e => 0x100000 + e.val * 0x10000 + 0x7000
  | .fst e => 0x100000 + e.val * 0x10000 + 0x8000
  | .fld f => 0x400000 + f.val * 0x10000
  | .fpw f => 0x400000 + f.val * 0x10000 + 0x1000
  | .twc => 0x1000000

/-- The block type code of a page (20 Table 20.1). -/
def pageType : Page → Nat
  | .mid => 0x01 | .cap => 0x02 | .cfg => 0x03 | .evc => 0x04 | .tmb => 0x05 | .pwr => 0x06 | .clk => 0x07
  | .thm => 0x08 | .sec => 0x09 | .dbg => 0x0A | .hdm => 0x0B | .plc => 0x0C | .owl => 0x0D | .asq => 0x0E
  | .rdc => 0x0F | .cbg => 0x10 | .edg _ => 0x20 | .hbm _ _ => 0x21 | .upe _ => 0x22 | .lnk _ => 0x23
  | .red _ => 0x24 | .fst _ => 0x25 | .fld _ => 0x30 | .fpw _ => 0x31 | .twc => 0x40

/-- The number of a page among those of its type (17 Table 17.2, R477). -/
def pageInst : Page → Nat
  | .edg e => e.val | .hbm e n => 4 * e.val + n.val | .upe e => e.val | .lnk e => e.val | .red e => e.val
  | .fst e => e.val | .fld f => f.val | .fpw f => f.val | _ => 0

/-- PAGE_ID: block type, number, version 1.0 (20 R545). -/
def pageId (pg : Page) : W32 := w32 (pageType pg * 2 ^ 24 + pageInst pg * 2 ^ 16 + 0x0100)

/-- The pages whose EN resets to 1 and cannot be cleared (00 R19, Table 0.7). -/
def alwaysOn : Page → Bool
  | .mid | .cap | .cfg | .evc | .tmb | .pwr | .clk | .thm | .sec => true
  | _ => false

/-- The pages a job needs: LOAD is refused while EN is 0 on any of them (00 Table 0.7). -/
def jobPage : Page → Bool
  | .asq | .plc | .owl | .rdc | .cbg => true
  | .edg _ | .hbm _ _ | .upe _ | .red _ | .fst _ => true
  | _ => false

/-- The reset value of EVT_MAP (18 Table 18.2). -/
def evtMapReset : Page → Nat
  | .asq => 272
  | .edg e => 320 + 40 * e.val
  | .hbm e n => 320 + 40 * e.val + 5 + 3 * n.val
  | .upe e => 320 + 40 * e.val + 17
  | .lnk e => 320 + 40 * e.val + 20
  | .red e => 320 + 40 * e.val + 27
  | .fst e => 320 + 40 * e.val + 30
  | .fpw _ => 960
  | .fld _ => 0
  | .twc => 967
  | pg => 64 + 16 * (pageBase pg / 0x1000)

/-- The access codes (00 Table 0.4). No register of the pages has code RC. -/
inductive Acc | ro | rw | wo | w1c | w1s | rwb
  deriving DecidableEq, Repr

/-- A register: its access code, the bits a write reaches, its reset value. -/
structure RegI where
  acc : Acc
  mask : W32
  rst : W32
  deriving DecidableEq, Repr

def rRO (r : W32 := 0) : Option RegI := some ⟨.ro, 0, r⟩
def rRW (m : W32) (r : W32 := 0) : Option RegI := some ⟨.rw, m, r⟩
def rWO : Option RegI := some ⟨.wo, 0, 0⟩
def rRWB (m : W32) (r : W32 := 0) : Option RegI := some ⟨.rwb, m, r⟩
def rW1C : Option RegI := some ⟨.w1c, 0xFFFFFFFF, 0⟩

/-- A word-aligned offset within a range, both ends included. -/
def inR (o lo hi : Nat) : Bool := lo ≤ o && o ≤ hi && o % 4 == 0

/-- The common page header (00 Table 0.5). -/
def headerReg (pg : Page) (o : Nat) : Option RegI :=
  match o with
  | 0x000 => rRO (pageId pg)
  | 0x004 => rRO
  | 0x008 => rRW 0x3 (if alwaysOn pg then 1 else 0)
  | 0x00C => rRO
  | 0x010 => rW1C
  | 0x014 => rRW 0xFFFFFFFF
  | 0x018 => rWO
  | 0x01C => rRW 0x3FF (w32 (evtMapReset pg))
  | 0x020 => rRO
  | _ => none

def midReg (o : Nat) : Option RegI :=
  match o with
  | 0x084 => rWO | 0x090 => rWO
  | 0x08C => rRO 0xFF
  | 0x0A0 => rRW 0xFFFFFFC0 | 0x0A4 => rRW 0x3FF | 0x0A8 => rRW 0xFFFFFFFF | 0x0AC => rRW 0xFFFFFFFF
  | 0x0B0 => rRO 1
  | 0x080 => rRO 1
  | _ => if inR o 0x040 0x050 || inR o 0x088 0x09C then rRO else none

def capReg (o : Nat) : Option RegI :=
  match o with
  | 0x060 => rRO 0xFFF | 0x064 => rRO 0xE08
  | _ => if inR o 0x040 0x064 then rRO else none

def cfgReg (o : Nat) : Option RegI :=
  match o with
  | 0x044 => rWO | 0x05C => rRW 0xF | 0x060 => rRWB 0x3
  | _ => if inR o 0x040 0x064 then rRO else none

def evcReg (o : Nat) : Option RegI :=
  match o with
  | 0x040 => rRO 0x10200400 | 0x044 => rRW 0x3FF | 0x048 => rRWB 0xC000001F | 0x04C => rRO
  | 0x050 => rRO 0xFFFF | 0x054 => rRWB 0xFFFF | 0x078 => rRO | 0x280 => rRO | 0x600 => rRO
  | _ =>
    if inR o 0x058 0x074 then rRWB 0xFFFF 0x64
    else if inR o 0x080 0x0FC then rRWB 0xE0FFFFFF 0x00010001
    else if inR o 0x100 0x17C then rW1C
    else if inR o 0x180 0x1FC then some ⟨.w1s, 0xFFFFFFFF, 0⟩
    else if inR o 0x200 0x27C then rRO
    else if inR o 0x400 0x5FC then
      (if o % 16 = 12 then rRW 1 1 else if o % 16 = 0 then rRW 0xFFFFFFFC else rRW 0xFFFFFFFF)
    else none

def tmbReg (o : Nat) : Option RegI :=
  match o with
  | 0x070 => some ⟨.w1c, 0xF, 0⟩
  | _ => if inR o 0x040 0x04C then rRO else if inR o 0x050 0x06C then rRW 0xFFFFFFFF else none

def pwrReg (o : Nat) : Option RegI :=
  match o with
  | 0x060 => rWO | 0x068 => rRO 0xFFFF | 0x074 => rRW 0x1 | 0x078 => rRWB 0x1 1
  | _ => if inR o 0x040 0x080 then rRO else none

def clkReg (o : Nat) : Option RegI := if inR o 0x040 0x058 then rRO else none

def thmReg (o : Nat) : Option RegI :=
  match o with
  | 0x058 => rRWB 0xFFFF 0x5A0 | 0x05C => rRWB 0xFFFF 0x2BC
  | _ => if inR o 0x040 0x060 then rRO else none

def secReg (o : Nat) : Option RegI :=
  match o with
  | 0x044 => rWO
  | _ => if inR o 0x040 0x058 || inR o 0x060 0x08C then rRO else none

def dbgReg (o : Nat) : Option RegI :=
  match o with
  | 0x040 => rRW 0x3 | 0x04C => rWO
  | 0x050 => rRW 0xFFF8FFFF | 0x054 => rRW 0xCF0007FF | 0x058 => rRW 0x8000FFFF | 0x05C => rRW 0xC3FFFFFF
  | 0x060 => rRW 0xFFFF0FFF | 0x064 => rRW 0xFFFF0FFF | 0x068 => rRW 0x80FFFFFF | 0x06C => rRW 0xFFFFFFFF
  | _ => if inR o 0x044 0x070 then rRO else none

def hdmReg (o : Nat) : Option RegI :=
  if inR o 0x040 0x13C then
    match (o - 0x040) % 0x20 with
    | 0x00 => rRW 0xFFFFF000 | 0x04 => rRW 0xFFFFFFFF | 0x08 => rRW 0x8000000F | 0x0C => rRW 0xFFFF | 0x10 => rRO
    | _ => none
  else match o with
    | 0x140 => rRW 0xFFFFF000 | 0x144 => rRW 0x3FF | 0x14C => rRWB 0x1FFF | 0x150 => rRWB 0xFFF 0x40
    | 0x164 => rRW 0xFFFFFFFF | 0x168 => rRW 0xFFFFFFFF
    | _ => if inR o 0x148 0x170 then rRO else none

def plcReg (o : Nat) : Option RegI :=
  match o with
  | 0x040 => rRWB 0xFFFFFFFF | 0x044 => rRWB 0xFFFFFFFF | 0x064 => rRW 0x8000FFFF
  | _ => if inR o 0x048 0x0A4 then rRO else none

def owlReg (o : Nat) : Option RegI := if inR o 0x040 0x078 then rRO else none

def asqReg (o : Nat) : Option RegI :=
  match o with
  | 0x0A0 => rRWB 0x1 1 | 0x0A4 => rWO
  | _ => if inR o 0x040 0x090 || inR o 0x0A8 0x0D8 then rRO else none

def rdcReg (o : Nat) : Option RegI :=
  match o with
  | 0x040 => rRW 0xFFFF | 0x04C => rWO | 0x200 => rRWB 0xFFFF | 0x204 => rRWB 0xFFFF | 0x208 => rRO
  | 0x20C => rRWB 0xFFFF | 0x210 => rRWB 0xFFFFFFFF | 0x214 => rRWB 0x3FF | 0x218 => rRWB 0xFFFF | 0x21C => rRWB 0x7F 1
  | 0x220 => rRW 0x3FF | 0x224 => rRWB 0xFFFFFFFF | 0x228 => rRWB 0x8000001F
  | _ => if inR o 0x044 0x088 || inR o 0x22C 0x240 then rRO else none

def cbgReg (o : Nat) : Option RegI :=
  match o with
  | 0x048 => rRWB 0xFFFFFFFF | 0x04C => rRWB 0xFFFFFFFF
  | _ => if inR o 0x054 0x060 then rRW 0xFFFFFFFF else if inR o 0x040 0x074 then rRO else none

def edgReg (o : Nat) : Option RegI :=
  if inR o 0x040 0x05C then rRO
  else if inR o 0x060 0x0DC then
    match (o - 0x060) % 0x20 with
    | 0x00 => rRW 0xFFFFF000 | 0x04 => rRW 0x3FF | 0x08 => rRW 0x8000000F | 0x0C => rRW 0xFFFF | 0x10 => rRO
    | _ => none
  else none

def hbmReg (o : Nat) : Option RegI :=
  match o with
  | 0x05C => rRWB 0xFF 0x18
  | _ => if inR o 0x040 0x06C then rRO else none

def upeReg (o : Nat) : Option RegI := if inR o 0x040 0x058 then rRO else none

def lnkReg (o : Nat) : Option RegI :=
  match o with
  | 0x044 => rRWB 0xF801FF00 0xA00
  | _ => if inR o 0x040 0x08C then rRO else none

def redReg (o : Nat) : Option RegI := if inR o 0x040 0x05C then rRO else none

def fstReg (o : Nat) : Option RegI := if inR o 0x040 0x140 then rRO else none

def fldReg (o : Nat) : Option RegI := if inR o 0x040 0x04C then rRO else none

def fpwReg (o : Nat) : Option RegI :=
  match o with
  | 0x058 => rRO 0xCA20 | 0x060 => rRO 0xFFFF | 0x06C => rRW 0x1
  | _ => if inR o 0x040 0x078 then rRO else none

def twcReg (o : Nat) : Option RegI :=
  if inR o 0x040 0x07C then rRW 0x8000FFFF else if inR o 0x080 0x0BC then rRO else none

/-- The register at offset `o` of a page; `none` is a reserved offset (00 R16, 20 R547). -/
def regI (pg : Page) (o : Nat) : Option RegI :=
  if o < 0x40 then headerReg pg o
  else match pg with
    | .mid => midReg o | .cap => capReg o | .cfg => cfgReg o | .evc => evcReg o | .tmb => tmbReg o
    | .pwr => pwrReg o | .clk => clkReg o | .thm => thmReg o | .sec => secReg o | .dbg => dbgReg o
    | .hdm => hdmReg o | .plc => plcReg o | .owl => owlReg o | .asq => asqReg o | .rdc => rdcReg o
    | .cbg => cbgReg o | .edg _ => edgReg o | .hbm _ _ => hbmReg o | .upe _ => upeReg o | .lnk _ => lnkReg o
    | .red _ => redReg o | .fst _ => fstReg o | .fld _ => fldReg o | .fpw _ => fpwReg o | .twc => twcReg o

/-- Is this the lower half of a 64-bit register (00 R15)? The _LO and _HI pairs of every page. -/
def isLo (pg : Page) (o : Nat) : Bool :=
  match pg with
  | .mid => o ∈ [0x048, 0x0A0, 0x0A8]
  | .cap => o = 0x054
  | .tmb => o ∈ [0x040, 0x048, 0x050, 0x058, 0x060, 0x068]
  | .pwr => o ∈ [0x050, 0x058, 0x06C]
  | .hdm => o ∈ [0x140, 0x154, 0x15C, 0x164] || (inR o 0x040 0x120 && (o - 0x040) % 0x20 = 0)
  | .plc => o ∈ [0x040, 0x05C, 0x070]
  | .asq => o ∈ [0x04C, 0x058, 0x070, 0x0B4, 0x0BC, 0x0C8, 0x0D4]
  | .rdc => o ∈ [0x210, 0x23C]
  | .cbg => o ∈ [0x040, 0x048]
  | .edg _ => inR o 0x060 0x0C0 && (o - 0x060) % 0x20 = 0
  | .hbm _ _ => o = 0x054
  | .upe _ => o = 0x050
  | .lnk _ => o = 0x07C || o = 0x084
  | .fpw _ => o = 0x064
  | _ => false

/-- Is this the upper half of a 64-bit register? -/
def isHi (pg : Page) (o : Nat) : Bool := 4 ≤ o && isLo pg (o - 4)

/-- The reset value of a register or banked entry by its key: a BAR0 offset below 2^26, or a key of an
indirect bank entry (EVC routing, peer table), which resets to 0. -/
def regRst (key : Nat) : W32 :=
  if key < 0x4000000 then
    match spaceOf key with
    | .reg pg o => match regI pg o with | some r => r.rst | none => 0
    | _ => 0
  else 0

/-- Bank key of the routing entry of source `n` (18 R509). -/
def routeKey (n : Nat) : Nat := 0x100000000 + n
/-- Bank keys of PEER_W0 and PEER_W1 of peer entry `n` (11 Table 11.7). -/
def peerW0Key (n : Nat) : Nat := 0x200000000 + n
def peerW1Key (n : Nat) : Nat := 0x300000000 + n

/-- Read and write a register map; it lists only registers away from their reset values. -/
def rget (m : SMap W32) (key : Nat) : W32 := (mfind m key).getD (regRst key)
def rput (key : Nat) (v : W32) (m : SMap W32) : SMap W32 :=
  if v = regRst key then merase key m else minsert key v m

end Sys2Proof.Machine
end

