-- ==== Sys2Proof/Machine/State.lean ====
section
/-! DEFINITION. The state of the module as plain data: every register, memory, queue, counter, mode and pin the
manual gives it, and the queue of commands that wait. Registers at their BAR0 offsets are in `regs` and the two
banks; what no register shows is in the records below. -/

namespace Sys2Proof.Machine

/-- The ordering codes (00 Table 0.1). -/
inductive OrdCode | w56s64p16S | w56s64p16 | w56s32p16 | w56s64p8 | w42s64p16
  deriving DecidableEq, Repr, Inhabited

/-- The power/run states (16 R452, 14 Table 14.8). -/
inductive RunSt | off | boot | ready | run | halt | fault
  deriving DecidableEq, Repr, Inhabited

/-- The boot stages of MID_STATE[7:4] (14 Table 14.8). -/
inductive Stage | waiting | verifying | running | sequencing | paused | clockSetup | selfTest | done
  deriving DecidableEq, Repr, Inhabited

/-- The debug levels (16 R453). -/
inductive DbgLevel | none | observe | intrusive
  deriving DecidableEq, Repr, Inhabited

/-- The MID_CMD command that is BUSY (14 R420). -/
inductive MidOp | load | halt | resume | arrayReset
  deriving DecidableEq, Repr, Inhabited

/-- The CFG command that is pending (17 R483). -/
inductive CfgOp | commit | rollback
  deriving DecidableEq, Repr, Inhabited

/-- The scrub field of SEC_STATE (16 R459, Table 16.8). -/
inductive Scrub | none | running | done | failed
  deriving DecidableEq, Repr, Inhabited

/-- What a scrub ends in: an UNSEAL or the rest of an array reset (16 Table 16.1). -/
inductive ScrubFor | unsealing | arrayReset
  deriving DecidableEq, Repr, Inhabited

/-- One value per requester (00 R15). -/
structure PerReq where
  host : Option (Nat × W32)
  m0 : Option (Nat × W32)
  m1 : Option (Nat × W32)
  dbgacc : Option (Nat × W32)
  smbus : Option (Nat × W32)
  deriving DecidableEq, Repr, Inhabited

/-- The conditions at the module's faces that commands carry in: input (10 mV, 100 mA, W), coolant (1/16 °C,
0.1 L/min, kPa), busbar (19 R521, R523, 13 R402). -/
structure Env where
  busbar : Bool
  reversed : Bool
  inV : Nat
  inI : Nat
  inP : Nat
  inlet : Nat
  outlet : Nat
  flow : Nat
  dp : Nat
  deriving DecidableEq, Repr, Inhabited

/-- A field's power record beside its FPW registers: setpoint in 0.5 mV and its steering counters (13 R386, R388),
soft-start and latches (R392, R393, R384). -/
structure FieldSt where
  on : Bool
  ramping : Bool      -- in soft-start
  failed : Bool       -- missed a soft-start limit without tripping
  tripped : Bool      -- latched dark by a short, converter fault or trip
  lost : Bool         -- lost at self-test or since (R384, R422)
  set : Nat
  calm : Nat
  low : Nat
  vminHalf : Nat      -- exact lowest sample, 0.5 mV; 0xFFFF × 2 after a reset of the record
  hot : Bool          -- a sensor of the field was above 95 °C at the latest sample (13 R401, R405)
  deriving DecidableEq, Repr, Inhabited

def FieldSt.blank : FieldSt := ⟨false, false, false, false, false, 0, 0, 0, 131070, false⟩

/-- The SPDM responder: request stage 0 none, 1 version, 2 capabilities, 3 algorithms, 4 key exchange,
5 session established; negotiated version; measurement and transport of the session (16 R461). -/
structure Spdm where
  stage : Nat
  ver : Nat
  via : Transport        -- what carries the session
  deriving DecidableEq, Repr, Inhabited

/-- The link keys of one port and direction (11 R346): salt, key, and the frame counter of the direction. -/
structure LinkKey where
  salt : List Byte
  key : List Byte
  deriving DecidableEq, Repr, Inhabited

/-- The JTAG port: TRST_N, instruction register, boundary-scan register, DBGACC data register (19 R542 to R544). -/
structure Jtag where
  trstN : Bool
  ir : Nat
  bsr : List Bool
  busy : Option W64
  err : Bool
  data : W32
  off : Nat
  tck : Option Nat    -- the last TCK edge seen (13 R407)
  deriving DecidableEq, Repr, Inhabited

/-- The host link and the sideband (19 R526 to R539). -/
structure HostIf where
  pwrEn : Bool
  holdoff : Bool
  rails : Bool        -- management rails up or ramping
  perstN : Bool
  refclk : Bool
  addrSel : Nat       -- sampled when step 3 completes
  eid : Nat
  linkUp : Bool
  link : Nat × Nat    -- rate code and lanes that training reached; (0, 0) with no link (R532)
  d3hot : Bool
  bme : Bool
  msixEn : Bool
  fmask : Bool
  aerPoison : Nat
  tripOutN : Bool     -- THERMTRIP_OUT_N: false is driven low
  deriving DecidableEq, Repr, Inhabited

/-- The event controller beside its page: per-vector count and first-firing time, firings per source, the fast
banks of M0 and M1 (18 R510 to R513, Table 18.4), pin levels (R516, bit n for EXTn, 1 deasserted). -/
structure Evc where
  vecs : SMap (Nat × Nat)
  fired : SMap W32
  fpend0 : W32
  fpend1 : W32
  fen0 : W32
  fen1 : W32
  cvpend0 : W32
  cvpend1 : W32
  cven0 : W32
  cven1 : W32
  pinFilt : Nat
  pinRaw : Nat
  deriving DecidableEq, Repr, Inhabited

/-- A cage: power its pluggable advertises, and whether it is held in low-power mode (19 R541). -/
structure Cage where
  plugged : Bool
  watts : Nat
  held : Bool
  deriving DecidableEq, Repr, Inhabited

def Cage.blank : Cage := ⟨false, 0, false⟩

/-- A descriptor in progress in a DMA queue: its 32 bytes and its segments' results (17 R495, 09 R287, R288). -/
structure DmaRun where
  desc : List Byte
  bitmap : Nat
  code : Nat
  deriving DecidableEq, Repr, Inhabited

/-! The loaded image (06 R185, R186, R549; 07 R194; 04 R550). -/

/-- A tick record (06 Table 6.10). -/
structure TickRec where
  meshFirst : Nat
  meshN : Nat
  fsFirst : Nat
  fsN : Nat
  recF : Option Nat
  recB : Option Nat
  recW : Option Nat
  nF : Nat
  nB : Nat
  nW : Nat
  owlWin : Bool
  dwin : Option Nat      -- unit whose decision window the tick belongs to
  tokMax : Nat
  deriving DecidableEq, Repr, Inhabited

/-- A detour body entry (06 Table 6.18). -/
structure Body where
  first : Nat
  count : Nat
  unit : Nat
  rung : Nat
  deriving DecidableEq, Repr, Inhabited

/-- A ladder unit descriptor (06 Table 6.11). -/
structure UnitDesc where
  unit : Nat
  stream : Nat
  start : Nat
  top : Nat
  hold : Nat
  ts : Nat
  th : Nat
  estW : Nat
  ncomb : Nat
  mainFirst : Nat
  bodies : List Nat
  deriving DecidableEq, Repr, Inhabited

/-- A mesh slot entry (06 Table 6.4). -/
structure MeshSlot where
  flow : Nat
  su : Nat
  sv : Nat
  du : Nat
  dv : Nat
  mc : Bool
  grel : Bool
  turnWait : Nat
  slot0 : Nat
  count : Nat
  posmask : Nat
  deriving DecidableEq, Repr, Inhabited

/-- A flowstone slot entry (06 Table 6.5). -/
structure FsSlot where
  die : Nat
  outb : Bool
  idx : Nat
  tag : Nat
  slot0 : Nat
  posmask : Nat
  count : Nat
  seq0 : Nat
  iHi : Nat
  iLo : Nat
  deriving DecidableEq, Repr, Inhabited

/-- A scale record entry of section 0x000C (04 Table 4.7). -/
structure ScaleRec where
  unit : Nat
  kind : Nat
  h0 : Nat
  h : Nat
  hold : Nat
  sref : Nat
  fmts : List Nat
  m : List W32
  deriving DecidableEq, Repr, Inhabited

/-- A gallery (08 R246). -/
structure Gal where
  gu : Nat
  gv : Nat
  wlo : Nat
  whi : Nat
  variant : Nat
  deriving DecidableEq, Repr, Inhabited

/-- A tensor map entry (08 R247); the six coefficients are signed. -/
structure TMap where
  otens : Nat
  row0 : Int
  col0 : Int
  ru : Int
  rv : Int
  cu : Int
  cv : Int
  deriving DecidableEq, Repr, Inhabited

/-- A sump descriptor (08 R249). -/
structure SumpTag where
  tag : Nat
  mode : Nat
  fmt : Nat
  dieEnd : Nat
  span : Nat
  nbus : Nat
  deriving DecidableEq, Repr, Inhabited

/-- An HBM region of the die plan (09 Table 9.6), with the base stack unit placement gave it on each stack. -/
structure Region where
  idx : Nat
  owner : Die
  kind : Nat
  gen2 : Bool
  enc : Bool               -- SEALED flag
  arr : Bool
  fmt : Nat
  layer : Nat
  size : Nat
  arrDie : Die
  arrFs : Fin 16
  nblk : Nat
  chlen : Nat
  base : List Nat
  deriving DecidableEq, Repr, Inhabited

/-- A tag entry (09 Table 9.7). -/
structure TagEntry where
  tag : Nat
  cls : Nat
  dieEnd : Nat
  region : Nat
  span : Nat
  bus0 : Nat
  nbus : Nat
  chan : Nat
  deriving DecidableEq, Repr, Inhabited

/-- A stream of a U program (09 Table 9.9): `region` none for the group's sums. -/
structure UStream where
  region : Option Nat
  fmt : Nat
  nextGen : Bool
  elem0 : Nat
  estride : Nat
  deriving DecidableEq, Repr, Inhabited

/-- A U program (09 Table 9.9). -/
structure UProg where
  prog : Nat
  trig : Nat
  group0 : Nat
  ngroups : Nat
  relayDie : Die
  relayFs : Fin 16
  chlen : Nat
  nchan : Nat
  tables : Nat × Nat
  consts : List W32
  streams : List UStream
  passes : List (List W32)
  deriving DecidableEq, Repr, Inhabited

/-- A channel entry (10 Table 10.4), defaults applied. -/
structure Chan where
  num : Nat
  tree : Bool
  shadowed : Bool
  h0 : Nat
  home : Nat
  shome : Nat
  nsh : Nat
  nred : Nat
  shFirst : Nat
  redFirst : Nat
  slack : Nat
  rslack : Nat
  hold : Nat
  openN : Nat
  deriving DecidableEq, Repr, Inhabited

/-- A share entry (10 Table 10.5). -/
structure Share where
  share : Nat
  primary : Nat
  backup0 : Nat
  backup1 : Nat
  parent : Nat
  pshadow : Nat
  deriving DecidableEq, Repr, Inhabited

/-- A reduction entry (10 Table 10.6). -/
structure Redn where
  chan : Nat
  rseq : Nat
  layer : Nat
  gw16 : Bool
  xinit : Nat
  blk0 : Nat
  nblk : Nat
  tblk0 : Nat
  expreg : Nat
  tag : Nat
  deriving DecidableEq, Repr, Inhabited

/-- A permute entry (10 Table 10.10). -/
structure Perm where
  src : Nat
  dst : Nat
  srcBlk : Nat
  nblk : Nat
  dstBlk : Nat
  words : Nat
  deriving DecidableEq, Repr, Inhabited

/-- A reduction plan (10 Table 10.3). -/
structure Plan where
  nmemb : Nat
  ovfCap : Nat
  chans : List Chan
  shares : List Share
  reds : List Redn
  perms : List Perm
  deriving DecidableEq, Repr, Inhabited

/-- A stage entry (11 Table 11.5). -/
structure StageEnt where
  sreg : Nat
  dmemb : Nat
  dreg : Nat
  dfs : Nat
  sfs : Nat
  size : Nat
  deriving DecidableEq, Repr, Inhabited

/-- The image as its LOAD parsed it: header (06 Table 6.8) and sections (Table 6.9). -/
structure Img where
  addr : Nat
  size : Nat
  hash : List Byte
  reqU : Nat
  reqV : Nat
  lmode : Bool
  tickLog2 : Nat
  avg : Nat
  peak : Nat
  settTmo : Nat
  qwd : Nat
  srLog2 : Nat
  seed : Nat
  stepWd : Nat
  owlS : Nat
  needs : Nat
  main : List TickRec
  detours : List TickRec
  bodies : List Body
  meshSlots : List MeshSlot
  fsSlots : List FsSlot
  trees : List Nat             -- 2-byte entries, tree-major, then row-major over the image's routers
  recF : List (List Byte)
  recB : List (List Byte)
  recW : List (List Byte)
  units : List UnitDesc
  scales : List ScaleRec
  polys : List Byte            -- section 0x000D
  gsids : List (Nat × Nat × Nat)
  gw : Nat
  gh : Nat
  gals : List Gal
  tmaps : List TMap
  sumps : List SumpTag
  settInit : SMap Nat          -- initial COUNT by sett, from the sett plan
  settList : SMap (List Nat)   -- setts of each unit's list (04 R104)
  regions : List Region
  tags : List TagEntry
  uprogs : List UProg
  plan : Plan
  stagesT : List StageEnt
  deriving DecidableEq, Repr, Inhabited

/-- The placement in force (08 R226 to R242). -/
structure Place where
  seed : Nat
  pkey : Nat
  u0 : Nat
  v0 : Nat
  nstk : Nat                   -- stacks in use per die
  record : List Byte           -- placement record
  ok : Bool                    -- false after a failed placement
  deriving DecidableEq, Repr, Inhabited

/-- What self-test and the latches leave of the wafer (08 R228 to R234): defective tiles, lost fields, retired
field columns and rows, physical rows retired. -/
structure Geo where
  defects : List (Nat × Nat)
  skips : List ((Nat × Nat) × (Nat × Nat))   -- failed skip paths, by the tiles they join (08 R230)
  fcols : List Nat
  frows : List Nat
  rows : List Nat
  ua : Nat
  va : Nat
  deriving DecidableEq, Repr, Inhabited

/-! The tile (02, 04, 05, 07). -/

/-- A sett (07 R209, Table 7.9). -/
structure Sett where
  count : Nat
  t : Nat                      -- pending targeted signals: bit 0 F, 1 B, 2 W
  queue : List Strm
  lsValid : Bool
  lsU : Nat
  lsV : Nat
  lsStrm : Nat                 -- 0 F, 1 B, 2 W, 3 an edge die
  lsTick : Nat
  spill : Nat
  sat : Bool
  tmo : Bool
  deriving DecidableEq, Repr, Inhabited

def Sett.blank : Sett := ⟨0, 0, [], false, 0, 0, 0, 0, 0, false, false⟩

/-- One lane of the exact accumulator: the sum in units of 2^−320 and the flags (02 R65, R66). -/
structure XaLane where
  sum : Int
  nan : Bool
  pinf : Bool
  ninf : Bool
  sat : Bool
  deriving DecidableEq, Repr, Inhabited

def XaLane.blank : XaLane := ⟨0, false, false, false, false⟩

/-- A pending Owl sample: unit, block element index, op index, the production and reference values of its block
and the log2 of ε (04 R109, R112); `x` is none where a shadow is missing or not finite (R110, R114). `q` is the
number of outputs of Table 4.2, `spent` the cycles of its check done in earlier window ticks (R111). -/
structure OwlSample where
  unit : Nat
  elem : Nat
  opIdx : Nat
  klen : Nat
  eps : Int
  p : List W32
  x : Option (List W32)
  q : Nat
  spent : Nat
  deriving DecidableEq, Repr, Inhabited

/-- One result of a tile operation, applied when the operation completes (02 R68). -/
inductive Wr
  | sram (addr : Nat) (bs : List Byte)           -- bytes of exposed SRAM, clearing poison
  | code (key fmt c : Nat)                       -- one element's code at a half-byte address
  | shadow (key osid bf : Nat)                   -- BF16 shadow of the element at half-byte address key
  | acc (key : Nat) (w : W32)                    -- accumulator word, key = 2,048 × cube + word
  | accSat (key : Nat) (b : Bool)                -- slot saturation bit, key = 32 × cube + slot
  | thin (k : Nat) (w : W32)
  | thinSat (b : Bool)
  | vreg (k : Nat) (b : Byte)
  | vfmt (fmt : Nat) (s : W32) (exps : SMap Nat) (sh : SMap (Nat × Nat))
                                                 -- format, scale, block exponents and shadows of the vector register
  | vuAll (v : SMap W32) (mask sat : SMap Bool)  -- registers, lane mask and lane flags of the VU
  | xa (lane : Nat) (x : XaLane)
  | ovf (unit cause block : Nat)                 -- overflow flag: cause bits (04 Table 4.1) and logical block
  | amax (key : Nat) (w : W32)                   -- maxima of an estimated tensor, key = 65,536 × record + channel
  | recSat (r : Nat)                             -- a conversion of scale record r saturated
  | owl (o : OwlSample)
  | owlSkip (n : Nat)
  deriving DecidableEq, Repr, Inhabited

/-- An operation a stream has issued and that has not completed (07 R217): its record, its results, and for a
transfer what is still to come and what has been taken. -/
structure Op where
  strm : Strm
  idx : Nat
  opc : Nat
  unit : Nat
  bytes : List Byte
  wr : List Wr
  left : Nat
  got : List (Nat × List Byte × List (Nat × Nat × Nat))   -- index (a flit's header in a send), bytes, shadows
  rate : Nat                                              -- tokens of a cycle in which it works (06 Table 6.3)
  deriving DecidableEq, Repr, Inhabited

/-- A stream context (07 R194, R210): next record, sett slept on, ticks slept, records issued in the tick,
waiting on a fence or barrier. -/
structure Ctx where
  pos : Nat
  sleep : Option Nat
  slept : Nat
  issued : Nat
  fenceWait : Bool
  barrier : Option Nat
  act : Option Nat             -- first cycle of its activity not yet charged (06 R171)
  due : Nat                    -- records that the tick gives the stream
  deriving DecidableEq, Repr, Inhabited

def Ctx.blank : Ctx := ⟨0, none, 0, 0, false, none, none, 0⟩

/-- A block held at a tap: bus end (0 to 3 inbound, 4 more outbound), block, time it reached the tap (05 R155, R156). -/
structure Parked where
  port : Nat
  blk : FsBlock
  at_ : Nat
  deriving DecidableEq, Repr, Inhabited

/-- A combine in progress at a router: flags, fifteen maxima, inputs still awaited (05 R142). -/
structure Comb where
  idx : Nat
  flags : Nat
  maxima : List W32
  got : List Port
  deriving DecidableEq, Repr, Inhabited

structure Tile where
  sram : SMap Byte             -- bytes 0 to 1,572,863, reserved rows included (R36)
  live : SMap Bool             -- exposed lines not poisoned (R41); an unlisted line is poisoned
  shadow : SMap (Nat × Nat)    -- Owl shadows by half-byte address: Owl stream ID and BF16 code (04 R110)
  acc : SMap W32
  accSat : SMap Bool
  vreg : SMap Byte
  vfmt : Nat                   -- format, scale and block exponents of the vector its VLOAD found
  vscale : W32
  vexp : SMap Nat
  vsh : SMap (Nat × Nat)       -- shadows of the vector's elements (04 R110)
  thin : SMap W32
  thinSat : Bool
  vu : SMap W32
  vmask : SMap Bool
  vsat : SMap Bool
  xa : SMap XaLane
  poly : Nat                   -- tables loaded in the polynomial table store, a bit each (R64)
  ctr : SMap W32               -- counters by their offset in the status block (17 Table 17.12)
  poisonRd : Bool
  tokPeak : Bool
  tokAvg : Bool
  tok : Nat
  tokLast : Nat
  tokPk : Nat                  -- highest cycle cost of the latest complete tick, and of the current one
  tokPkNow : Nat
  tokHi : Nat                  -- highest cost of a cycle of the current tick that overdrew nothing (17 Table 17.12)
  cyc : Nat × Nat              -- the latest cycle with single charges, and their sum
  droop : Nat                  -- latest sample, 0.5 mV
  fenced : Bool
  landed : List Nat            -- F, B, W (07 R198)
  cF : Ctx
  cB : Ctx
  cW : Ctx
  setts : SMap Sett
  ops : List Op
  ovf : SMap Nat               -- overflow causes by unit (04 R102)
  trig : SMap (Nat × Nat)      -- op index and block of a unit's first trigger in logical order (04 R120)
  amax : SMap W32
  recSat : List Nat
  supd : List Nat              -- units whose SCALEUPD waits for the decision (04 R116)
  owl : Option OwlSample
  bulk : List (Port × Flit)    -- router input buffers, bulk channel, oldest first (05 R135)
  ctl : List (Port × Flit)     -- router input buffers, control channel (05 R134)
  rxq : List Flit              -- receive queue (05 R136)
  comb : List Comb
  halts : List (List Byte)     -- halts already forwarded (05 R129)
  fsIn : List Parked           -- tap buffers (05 R156)
  dep : SMap Nat               -- departures of the tick's mesh slot entries used at this router, by entry (06 R178)
  deriving DecidableEq, Repr, Inhabited

def Tile.blank : Tile :=
  ⟨[], [], [], [], [], [], 0, 0x3F800000, [], [], [], false, [], [], [], [], 0, [], false, false, false, 0, 0, 0, 0, 0, (0, 0),
   0, false,
   [0, 0, 0], Ctx.blank, Ctx.blank, Ctx.blank, [], [], [], [], [], [], [], none, [], [], [], [], [], [], []⟩

/-! The array sequencer (06, 04, 15). -/

/-- A ladder unit's state (04 R101, R103, R107, R117): rung, hold counter, step of the latest raise, decision falls due after
this many tick records, combined causes of the latest attempt, rungs run and scale records raised, each with its step; of steps whose
boundary is still to come. -/
structure UnitSt where
  rung : Nat
  hold : Nat
  raised : Option Nat
  due : Option Nat
  causes : Nat
  rungs : List (Nat × Nat)
  recUp : List (Nat × Nat)
  deriving DecidableEq, Repr, Inhabited

/-- The suspect tiles and stages of a recovery (15 R432 to R439). -/
structure Recov where
  suspects : List (Nat × Nat × Nat)    -- u, v, cause
  starts : Nat
  autoR : Bool                         -- AUTO value the recovery began with (17 Table 17.6)
  hbm : Option Nat                     -- HBM fault of R441 under recovery: sector address
  vstep : Nat
  own : Bool                           -- rejoined with OWN
  target : Nat                         -- step at whose boundary an accepted REJOIN starts
  added : Bool                         -- diagnosis added tiles to the defect map
  deriving DecidableEq, Repr, Inhabited

structure Asq where
  astep : Nat                  -- step whose main program the array runs (01 R28)
  mainPos : Nat                -- main tick record in progress
  det : Option (Nat × Nat)     -- detour body and offset in it
  detQ : List Nat              -- detour bodies still to run at this point of the main program
  stall : Bool                 -- the tick in progress is a stall tick
  holdB : Bool                 -- held at the step boundary (15 R438, 17 R500, 10 R330)
  marker : Bool                -- boundary marker launched for this tick
  sampled : Nat                -- streams that held at the latest sleep sample
  haltPend : Bool              -- a halt falls due at the next boundary
  contract : Bool              -- that halt is a contract fault's
  tick1 : Bool
  units : SMap UnitSt
  results : SMap (Nat × List W32)   -- combined result by index
  savedSetts : SMap Sett            -- setts of a unit's list at its start: key 2^21 × unit + 32 × tile + sett
  ticksRun : Nat               -- of the program in progress
  detSteps : Nat
  skipSteps : Nat
  stallSteps : Nat
  prev : Option (Nat × Nat × Nat × Nat) -- the four counts of a program that has ended before its step (R28)
  stepStart : Nat              -- ns
  voided : Bool                -- the step in progress is voided (15 R433)
  tickAt : Nat                 -- time at which the tick in progress began, ns (06 R130, R162)
  halted : Bool                -- a HALT has passed the routers since the array left Halt (06 R169)
  haltHops : Nat               -- HALTs that crossed the array in the tick in progress (05 R125, R129)
  haltFrom : List (Nat × Nat)  -- the tiles that sent them
  prtVals : SMap W32           -- perturbation registers that have acted in the step, with their values (16 R469)
  recov : Recov
  deriving DecidableEq, Repr, Inhabited

/-! The edge dies (09). -/

/-- A U program in progress: its number, groups held and still to run in the pass, pass, next instruction of the pass,
iteration of the group (09 R284). -/
structure URun where
  prog : Nat
  groups : List Nat
  pass : Nat
  pc : Nat
  iter : Nat
  wait : Bool                  -- at an XCHG
  since : Nat                  -- time at which it began to wait there, ns
  deriving DecidableEq, Repr, Inhabited

/-- A range of module HBM addresses whose bytes no longer read as they are kept: those of a SEALED region once the region or its key
is gone, or what stood there before the region (09 R273). `enc`: a read decrypts the kept bytes with AES-256-XTS under the keys, else
it encrypts them. -/
structure Cipher where
  lo : Nat
  hi : Nat
  enc : Bool
  key : List Byte × List Byte
  deriving DecidableEq, Repr, Inhabited

/-- An Update Engine (09 R282). -/
structure Ue where
  v : SMap W32                 -- key 256 × register + lane
  mask : SMap Bool
  sat : SMap Bool
  s : SMap W32
  acc : SMap XaLane
  chmax : SMap W32
  sram : SMap Byte
  run : Option URun
  ready : List Nat
  deriving DecidableEq, Repr, Inhabited

def Ue.blank : Ue := ⟨[], [], [], [], [], [], [], none, []⟩

/-- A block in the pre-read buffer: bus, tag, sequence number, bytes, read poisoned (09 R276). -/
structure PreBlk where
  bus : Bus
  tag : Nat
  seq : Nat
  data : List Byte
  poison : Bool
  zero : Bool                  -- sump block whose WR is 0
  deriving DecidableEq, Repr, Inhabited

/-- An edge die beside its pages. -/
structure DieSt where
  ue : Ue
  pre : List PreBlk
  sent : SMap Nat              -- place in the tick's injection order that each bus has reached (R276)
  arr : SMap Nat               -- parameter blocks written per ARR region (R281)
  side : SMap Nat              -- sump side bytes by block address (08 R249)
  dma : SMap DmaRun
  ringFail : SMap Nat          -- consecutive failures of a segment's flit (R265), by segment side
  ceRate : SMap (List Nat)     -- times of each stack's latest corrections, newest first (R291)
  scrubAt : SMap Nat           -- sector that each stack's patrol scrub reads next (R272)
  coll : SMap (Nat × Nat)      -- blocks in a bus's collector buffer, and when it held them (05 R156)
  deriving DecidableEq, Repr, Inhabited

def DieSt.blank : DieSt := ⟨Ue.blank, [], [], [], [], [], [], [], [], []⟩

/-! Gradient reduction (10). -/

/-- A sum-area entry: lanes, agreed exponent, residue, largest contribution magnitude, next agreed exponent once the
reduction is complete (10 R309, R321). -/
structure SumEnt where
  lanes : List Int
  x : Nat
  r : Nat
  p : Nat
  xn : Nat
  deriving DecidableEq, Repr, Inhabited

/-- What one adder holds of a reduction (10 R309 to R317). A module adds as home, as an interior member and for each member it
shadows, each with sums of its own. -/
structure AddSt where
  sums : SMap SumEnt           -- by home block
  taken : SMap Bool            -- blocks taken, key 2^32 × share + block
  held : SMap (List (Nat × GBlock))  -- backup blocks held, same key, with their senders (R314)
  prim : SMap (Nat × GBlock)   -- blocks taken, same key, with their senders
  poisoned : SMap Bool         -- primary blocks that came poisoned and wait for a backup's copy (R299)
  next : SMap Nat              -- next block expected, key 2^17 × share + 2 × src + (1 for a backup)
  onext : SMap Nat             -- next own block to take here, by share
  pnext : Option Nat           -- next block of its partial to send (R318)
  fails : Nat                  -- re-sends in this step (R298)
  tE : Option Nat              -- expected arrival E, ns (R315)
  past : Bool                  -- deadline passed
  late : List Nat              -- shares not whole at the deadline (R316)
  subst : List Nat             -- shares substituted
  omitted : List Nat
  holding : Option Nat
  ovf : Bool                   -- a frame taken had OVF set (R302)
  complete : Bool
  reported : Bool
  deriving DecidableEq, Repr, Inhabited

def AddSt.blank : AddSt :=
  ⟨[], [], [], [], [], [], [], none, 0, none, false, [], [], [], none, false, false, false⟩

/-- A reduction at this module: its width, what it has sent and the adders, by the member each adds as. -/
structure RedSt where
  wide : Bool
  widened : Bool
  xnext : SMap Nat             -- next block to send, by share
  resent : Bool                -- its frames carry RESENT (R298)
  doneSeen : Bool
  adds : SMap AddSt
  deriving DecidableEq, Repr, Inhabited

def RedSt.blank : RedSt := ⟨false, false, [], false, false, []⟩

/-- A channel's state (10 R306, R322, R327). -/
structure ChanSt where
  stopped : Bool
  holding : Bool
  takeover : Bool
  h : Nat
  holdCnt : Nat
  widened : Bool               -- widened in this step
  lowest : Nat                 -- lowest incomplete RSEQ
  deriving DecidableEq, Repr, Inhabited

/-- A retained contribution: the block in the two widths, and where its forms lie in HBM (10 R310, R312). -/
structure Kept where
  share : Nat
  blk : Nat
  b8 : GBlock
  b16 : Option GBlock          -- none: each lane of the GW8 form × 256
  sat : Bool                   -- saturated in the width it was converted to
  satFull : Bool               -- saturated with the overflow store full
  backup : Bool
  die : Die                    -- die whose collector formed it
  stored : Bool                -- its GW16 form lies in that die's overflow store (R312)
  place : Option (Nat × Nat)   -- region of kind 4 and offset that hold its B34 form (R310)
  place16 : Option (Nat × Nat) -- and its B66 form
  deriving DecidableEq, Repr, Inhabited

structure Rdc where
  plan : Option Plan           -- plan in force
  chans : SMap ChanSt
  reds : SMap RedSt            -- key 2^16 × channel + RSEQ
  kept : SMap (List Kept)      -- retained, same key
  queue : List RFrame          -- frames of later reductions (R308)
  parGot : SMap Bool           -- parameter blocks written this step, key 2^32 × (2^16 × channel + RSEQ) + block; and those counted
                               -- toward an ARR region, key 2^64 × (region + 1) + block (09 R281)
  shOut : SMap (List RFrame)   -- a shadow home's held output, by reduction (R326)
  shDue : SMap Nat             -- return deadlines, ns
  doneHave : List (Nat × Nat)  -- members whose PERM_DONE is held, with its epoch (R329, 11 R357)
  permGot : SMap Nat           -- words received per permute entry
  permSent : Nat               -- permute entries sent
  permStart : Nat
  epochPend : Bool             -- a committed epoch takes effect at the next step boundary (11 R356)
  deadGrp : List Nat           -- groups whose home sends no more parameters (15 R442)
  deriving DecidableEq, Repr, Inhabited

/-! Ngamor links (11). -/

/-- A logical link and its port (11 R336 to R350). -/
structure LinkSt where
  txSeq : Nat                  -- next LSEQ to assign, counted without wrapping
  rxExp : Nat                  -- LSEQ expected, counted without wrapping
  unacked : List LFrame        -- sent and not acknowledged, oldest first
  queue : List LFrame          -- send queue
  freeSeq : Nat                -- latest FREESEQ received, plus one
  freed : Nat                  -- receive buffers freed, as LSEQ plus one
  report : Bool                -- something to acknowledge
  replays : Nat                -- consecutive replays without progress
  onAlt : Bool
  heldDown : Bool
  altDown : Bool
  portUp : Bool
  upAll : Bool                 -- Up for the whole of the step so far
  nakUntil : Nat
  txCtr : Nat
  rxCtr : Nat
  tagFails : Nat × Nat         -- LSEQ whose tag failed, times in a row
  nbrIv : Nat                  -- HELLO interval of the neighbour, 0 for no neighbour
  far : Nat                    -- module at the far end, 0 before the first HELLO
  conflict : Bool
  t1 : Option Nat              -- departure time of the TSYNC request outstanding
  openB : Option Nat           -- flits taken of the bulk frame that is open in the receive direction (R340)
  openC : Option Nat           -- and of the control frame
  deriving DecidableEq, Repr, Inhabited

def LinkSt.blank : LinkSt :=
  ⟨0, 0, [], [], 0, 0, false, 0, false, false, false, false, false, 0, 0, 0, (0, 0), 0, 0, false, none, none, none⟩

/-- What a peer-table entry holds beside its banked words (11 Table 11.7). -/
structure PeerSt where
  nbr : Bool
  port : Nat
  rtt : Nat
  hello : Nat                  -- time of the last HELLO, ns
  epoch : Nat
  flags : Nat
  job : Nat                    -- job ID of the last HELLO (R352)
  deriving DecidableEq, Repr, Inhabited

def PeerSt.blank : PeerSt := ⟨false, 0, 0, 0, 0, 0, 0⟩

/-- A stage entry's transfers (11 R362): bytes written to SREG, transfers sent, transfer being received, bytes of
it received, stopped after an error. -/
structure StageSt where
  wrote : Nat
  sent : Nat
  rxCount : Nat
  rxOff : Nat
  stopped : Bool
  deriving DecidableEq, Repr, Inhabited

/-- A message that leaves the module at one of its interfaces, newest first in `State.out`. -/
inductive OutMsg
  | rdata (rq : Req) (off : Nat) (v : W32)             -- 32-bit BAR0 read completion
  | rbytes (rq : Req) (off : Nat) (bs : List Byte)     -- read of another width
  | msix (n : Nat) (addr : W64) (data : W32)           -- MSI-X write
  | bar2Data (off : Nat) (bs : List Byte) (poisoned : Bool)
  | bar2Abort (off : Nat)                              -- Completer Abort
  | bar2Unsupported (off : Nat)                        -- Unsupported Request
  | hostWrite (addr : Nat) (bs : List Byte)            -- DMA write to host memory
  | mctp (bs : List Byte)                              -- MCTP response
  | spdm (t : Transport) (bs : List Byte)              -- SPDM response
  | tdo (bits : List Bool)                             -- JTAG data out
  | frame (p : Die) (f : LFrame)                       -- Ngamor frame sent on a port
  deriving DecidableEq, Repr

/-- The root PLL and the forwarded-clock tree (13 R395, R396; 08 R238): what the tree was built from. -/
structure ClkSt where
  locked : Bool                -- the root PLL is in lock
  cand : Option Nat            -- root candidate of the tree; none: no tree
  fail : List (Nat × Nat)      -- tiles whose receivers failed at set-up
  avoid : List (Nat × Nat)     -- tiles that the tree passes over
  cols : List Nat              -- retired field columns
  rows : List Nat              -- retired field rows
  rebuilt : Bool               -- placement has rebuilt the tree
  shown : Bool                 -- CLK_DEPTH and CLK_LOCKFAIL show the tree: no soft reset has come since (00 R23)
  deriving DecidableEq, Repr, Inhabited

def ClkSt.reset : ClkSt := ⟨false, none, [], [], [], [], false, false⟩

/-- The module. -/
structure State where
  -- fused identity (00 Table 0.1, 17 R478)
  code : OrdCode
  silicon : W32
  serial : W64
  mfg : W32
  -- power and run state (16 R452, 14 Table 14.8)
  run : RunSt
  stage : Stage
  qEnd : Nat                  -- time at which the CBG query in progress ends, ns (12 R375)
  testAt : Nat                -- time at which self-test began, ns (14 R415)
  loading : Bool
  busy : Option MidOp
  noArray : Bool              -- self-test result 0x02 or 0x03: every LOAD refused with 0x06 (14 R416)
  stuck : Bool                -- Fault cause that only module reset or power-on clears (14 R422)
  tripLatched : Bool          -- input or thermal trip since power-on (14 R421)
  tripAt : Nat                -- time of that trip, ns (13 R403)
  now : Nat                   -- timebase, ns (17 R489)
  -- registers and configuration banks
  regs : SMap W32
  bankA : SMap W32
  bankB : SMap W32
  activeB : Bool              -- bank B is active (17 R480)
  ver : W32                   -- version in force, which every page's CFG_VER shows (17 R477)
  stepBank : SMap W32         -- RDC and LNK values in force since their effect point (17 Table 17.6)
  pendCfg : Option CfgOp
  touched : Bool              -- RWB write or COPY reached the staging bank since it stopped being active (17 R485)
  rdLatch : PerReq
  wrHeld : PerReq
  viewLatch : List (Nat × List W32)   -- words latched by a tile-view read, by requester (17 R493)
  srst : List Page            -- soft resets in progress (00 R23)
  armed : Nat                 -- bit n: TMB timer n armed (17 R489)
  -- security and debug (16)
  isSealed : Bool
  level : DbgLevel
  refusal : Nat
  scrub : Scrub
  scrubFor : Option ScrubFor
  spdm : Spdm
  ide : Option IdeKind
  hbmKey : Option (List Byte × List Byte)
  cipher : List Cipher
  linkKeys : SMap LinkKey     -- key 2 × port + (1 for receive)
  -- management complex (14)
  sram : SMap W32             -- management SRAM, by word
  winOpen : Bool
  mgmtUp : Bool
  mgmtHash : List Byte
  kick0 : Nat
  kick1 : Nat
  env : Env
  host : HostIf
  jtag : Jtag
  prtHeld : List Nat          -- perturbation registers written since the latest tick boundary (16 R469)
  evc : Evc
  cages : SMap Cage
  -- power, clock (13)
  fields : SMap FieldSt
  fcmdBusy : Option Nat       -- field whose requested soft-start runs (13 R394)
  overTemp : List Nat         -- sensors at or above their trip level at the last sample (13 R403)
  warned : Bool
  inletHigh : Bool
  hot : Bool                  -- a junction above 95 °C at the last sample (13 R401)
  over95 : Nat                -- samples of 10 µs with a junction above 95 °C
  vminHalf : Nat              -- the module's lowest VCORE sample, 0.5 mV (13 R390)
  railLost : List (Die × Rail) -- carrier-supplied rails reported lost (13 R379)
  -- host DMA (17)
  hdq : SMap DmaRun
  -- the wafer and the image (05 to 08)
  image : Option Img
  place : Option Place
  geo : Geo
  keySeed : Nat                -- seed and job ID of the latched generator key (12 R366)
  keyJob : Nat
  priorSus : List (Nat × Nat)  -- physical tiles that have been suspects since power-on (15 R435)
  clk : ClkSt
  tiles : SMap Tile            -- by image coordinates, key 256 × v + u
  offTiles : SMap Tile         -- physical tiles outside the image, key 192 × y + x
  asq : Asq
  -- the parameter store and the dies (09)
  hbm : SMap Byte
  poison : SMap Bool           -- poisoned sectors by address div 64
  flaws : List (Nat × Ecc)     -- codeword errors that the next read of their sector finds, by address (09 R270)
  hbmFailed : List (Nat × Nat)
  dies : SMap DieSt
  ring : List Nat              -- ring segments down
  ledger : Option (Nat × Nat)  -- ledger ring: base address and bytes (17 R498)
  iseq : Nat
  stepItems : Nat
  aheadItems : Nat             -- items of the step that the array has begun ahead of its boundary (17 R499)
  stepLost : Nat
  lostFirst : Nat              -- ISEQ of the first item lost since the latest LOST item
  lostN : Nat                  -- items lost since the latest LOST item (17 R500)
  state3 : Option Nat          -- step-state area on E0 (15 R436)
  -- reduction and links (10, 11)
  rdc : Rdc
  links : SMap LinkSt
  peers : SMap PeerSt
  stageSt : SMap StageSt
  tsynced : Bool
  slew : Int × Nat             -- JOFF that the slewing goes to, and the time since which it slews from the register's value (11 R359)
  -- interfaces
  out : List OutMsg
  fc : Nat                    -- index of the next free value
  pending : List Instr
  deriving DecidableEq, Repr

/-- Why a run of the model stops. -/
inductive Fault
  /-- A BAR0 or BAR2 offset beyond the aperture, which no requester can send (17 R473, R475). Raised by the register, window and
  aperture accesses. Safe: the run stops. -/
  | outsideBar
  deriving DecidableEq, Repr

/-- Why a command is refused by the model. -/
inductive Refusal
  /-- A command that has no meaning yet. Raised by no arm: every command has its meaning. Safe. -/
  | notModelled (mnemonic : String)
  deriving DecidableEq, Repr

def PerReq.none : PerReq := ⟨Option.none, Option.none, Option.none, Option.none, Option.none⟩

/-- No recovery. -/
def Recov.none : Recov := ⟨[], 0, true, Option.none, 0, false, 0, false⟩

/-- The sequencer with no image. -/
def Asq.reset : Asq :=
  ⟨0, 0, none, [], false, false, false, 0, false, false, false, [], [], [], 0, 0, 0, 0, none, 0, false, 0, false, 0, [], [], Recov.none⟩

def Rdc.reset : Rdc := ⟨none, [], [], [], [], [], [], [], [], [], 0, 0, false, []⟩

def Evc.reset : Evc := ⟨[], [], 0, 0, 0, 0, 0, 0, 0, 0, 0xFF, 0xFF⟩

/-- The host link when step 3 of power-up ends: PERST_N still low, no link, TAP held by TRST_N. -/
def HostIf.reset : HostIf :=
  ⟨true, false, true, false, true, 0, 0, false, (0, 0), false, false, false, false, 0, true⟩

def Jtag.reset : Jtag := ⟨false, 0x01, [], none, false, 0, 0, none⟩

/-- The achieved array before any self-test: no defect is known and no shape is reported (17 Table 17.4). -/
def Geo.reset : Geo := ⟨[], [], [], [], [], 0, 0⟩

/-- The conditions at the faces: 50 V, 80 L/min, inlet at 35 °C, the typical values of 13 Tables 13.1 and 13.5. -/
def Env.reset : Env := ⟨true, false, 5000, 0, 0, 560, 560, 800, 120⟩

/-- The module right after power-on reset: step 3 of 14 Table 14.1 has ended, the boot ROM waits for an image; Boot,
Open, None (16 R452); every register at its reset value, both banks empty with bank A active (17 R481). -/
def State.reset : State where
  code := .w56s64p16S
  silicon := 0
  serial := 0
  mfg := 0
  run := .boot
  stage := .waiting
  qEnd := 0
  testAt := 0
  loading := false
  busy := none
  noArray := false
  stuck := false
  tripLatched := false
  tripAt := 0
  now := 0
  regs := []
  bankA := []
  bankB := []
  activeB := false
  ver := 0
  stepBank := []
  pendCfg := none
  touched := false
  rdLatch := PerReq.none
  wrHeld := PerReq.none
  viewLatch := []
  srst := []
  armed := 0
  isSealed := false
  level := .none
  refusal := 0
  scrub := .none
  scrubFor := none
  spdm := ⟨0, 0, .doe⟩
  ide := none
  hbmKey := none
  cipher := []
  linkKeys := []
  sram := []
  winOpen := true
  mgmtUp := false
  mgmtHash := []
  kick0 := 0
  kick1 := 0
  env := Env.reset
  host := HostIf.reset
  jtag := Jtag.reset
  prtHeld := []
  evc := Evc.reset
  cages := []
  fields := []
  fcmdBusy := none
  overTemp := []
  warned := false
  inletHigh := false
  hot := false
  over95 := 0
  vminHalf := 131070
  railLost := []
  hdq := []
  image := none
  place := none
  geo := Geo.reset
  keySeed := 0
  keyJob := 0
  priorSus := []
  clk := ClkSt.reset
  tiles := []
  offTiles := []
  asq := Asq.reset
  hbm := []
  poison := []
  flaws := []
  hbmFailed := []
  dies := []
  ring := []
  ledger := none
  iseq := 0
  stepItems := 0
  aheadItems := 0
  stepLost := 0
  lostFirst := 0
  lostN := 0
  state3 := none
  rdc := Rdc.reset
  links := []
  peers := []
  stageSt := []
  tsynced := false
  slew := (0, 0)
  out := []
  fc := 0
  pending := []

end Sys2Proof.Machine
end

