-- ==== Sys2Proof/Machine/Ops.lean ====
section
/-! DEFINITION. The named operations over registers, banks, events, interrupts and memory that the commands share. -/

namespace Sys2Proof.Machine

/-- The answer of a command: a next state, in this model, for every command and every state but an access beyond an
aperture. -/
abbrev Res := Host.Outcome State Fault Refusal

/-! Fitted units (00 R1 to R5). -/

def sjuFitted (c : OrdCode) : Bool := c = .w56s64p16S

/-- Stacks fitted per die (00 R2). -/
def codeStacks (c : OrdCode) : Nat := if c = .w56s32p16 then 2 else 4

/-- Is link port `p` fitted (00 R3)? -/
def portFitted (c : OrdCode) (p : Die) : Bool := c ≠ .w56s64p8 || p.val % 4 < 2

/-- Is field `f` fitted, neither in a column nor in a row retired by fuse (00 R4)? -/
def fieldFitted (c : OrdCode) (f : Field) : Bool := c ≠ .w42s64p16 || (f.val % 8 ≠ 7 && f.val / 8 ≠ 6)

def pageFitted (c : OrdCode) : Page → Bool
  | .hbm _ n => n.val < codeStacks c
  | .lnk e => portFitted c e
  | .fld f => fieldFitted c f
  | .fpw f => fieldFitted c f
  | _ => true

/-- The fields and minimum shape of an ordering code (00 Table 0.1). -/
def codeFields (c : OrdCode) : Nat := if c = .w42s64p16 then 42 else 56
def codePorts (c : OrdCode) : Nat := if c = .w56s64p8 then 8 else 16
def minShape (c : OrdCode) : Nat × Nat := if c = .w42s64p16 then (154, 168) else (176, 192)

def dies : List Die := List.finRange 16
def allFields : List Field := List.finRange 56
def fittedPorts (c : OrdCode) : List Die := dies.filter (portFitted c)

/-! Registers. -/

/-- The stored value of a register. -/
def reg (s : State) (pg : Page) (o : Nat) : W32 := rget s.regs (pageBase pg + o)

/-- Hardware writes a register. -/
def setReg (pg : Page) (o : Nat) (v : W32) (s : State) : State :=
  { s with regs := rput (pageBase pg + o) v s.regs }

/-- A 64-bit register from its two halves (00 R15). -/
def reg64 (s : State) (pg : Page) (o : Nat) : Nat := (reg s pg o).toNat + 2 ^ 32 * (reg s pg (o + 4)).toNat

def setReg64 (pg : Page) (o : Nat) (v : Nat) (s : State) : State :=
  setReg pg (o + 4) (hiW v) (setReg pg o (loW v) s)

/-- Replace bits `hi` down to `lo` of a register. -/
def setBits (pg : Page) (o hi lo v : Nat) (s : State) : State := setReg pg o (setFld (reg s pg o) hi lo v) s

/-- PAGE_CTL bits (00 Table 0.6). -/
def pageEn (s : State) (pg : Page) : Bool := bitOf (reg s pg 0x008) 0
def pageFrz (s : State) (pg : Page) : Bool := bitOf (reg s pg 0x008) 1

/-- Count in a saturating counter register, unless the page's counters are frozen (00 Table 0.6). -/
def bump (pg : Page) (o : Nat) (s : State) (n : Nat := 1) : State :=
  if pageFrz s pg then s else setReg pg o (satInc (reg s pg o) n) s

/-! Banked registers (17 R480 to R487). -/

def activeBank (s : State) : SMap W32 := if s.activeB then s.bankB else s.bankA
def stagingBank (s : State) : SMap W32 := if s.activeB then s.bankA else s.bankB

/-- The value in force of a banked register that takes effect at the commit. -/
def cfgv (s : State) (pg : Page) (o : Nat) : W32 := rget (activeBank s) (pageBase pg + o)

/-- The value in force of a banked register of the RDC or LNK pages (17 Table 17.6). -/
def stepv (s : State) (pg : Page) (o : Nat) : W32 := rget s.stepBank (pageBase pg + o)

def setStaging (key : Nat) (v : W32) (s : State) : State :=
  if s.activeB then { s with bankA := rput key v s.bankA, touched := true }
  else { s with bankB := rput key v s.bankB, touched := true }

/-! Leaving the module. -/

def emit (m : OutMsg) (s : State) : State := { s with out := m :: s.out }

/-- Does the module's management complex run, so that its pages answer and its interfaces act (14 Table 14.7)? -/
def powered (s : State) : Bool := s.run ≠ .off

/-! Events (18). -/

/-- The routing entry of a source, as the active bank holds it (18 R509). -/
def route (s : State) (n : Nat) : W32 := rget (activeBank s) (routeKey n)

/-- The sources of the fast class in increasing number (18 R511). -/
def fastSources (bank : SMap W32) : List Nat :=
  (List.range 1024).filter fun n => let r := rget bank (routeKey n); bitOf r 31 && bitOf r 30

/-- The fast slot of a source. -/
def fastSlot (s : State) (n : Nat) : Option Nat :=
  let r := route s n
  if bitOf r 31 && bitOf r 30 then some ((List.range n).filter fun k => let q := route s k; bitOf q 31 && bitOf q 30).length
  else none

/-- Send, hold or drop the MSI-X message of entry `n` (18 R514, 19 R535). -/
def msixSend (n : Nat) (s : State) : State :=
  if !s.host.msixEn then s
  else if bitOf (reg s .evc (0x400 + 16 * n + 12)) 0 || s.host.fmask || s.host.d3hot || !s.host.bme then
    setReg .evc 0x600 (setBit (reg s .evc 0x600) n true) s
  else emit (.msix n (BitVec.ofNat 64 (reg64 s .evc (0x400 + 16 * n))) (reg s .evc (0x400 + 16 * n + 8))) s

/-- VECn_CTL in force. -/
def vecCtl (s : State) (n : Nat) : W32 := cfgv s .evc (0x080 + 4 * n)

/-- Vector `n` fires toward its targets; its count returns to 0 (18 R512, R513). -/
def vectorFire (n : Nat) (s : State) : State :=
  let c := vecCtl s n
  let s := { s with evc := { s.evc with
    vecs := mput (0, 0) n (0, 0) s.evc.vecs
    cvpend0 := if bitOf c 30 then setBit s.evc.cvpend0 n true else s.evc.cvpend0
    cvpend1 := if bitOf c 29 then setBit s.evc.cvpend1 n true else s.evc.cvpend1 } }
  let s := bump .evc 0x280 s
  if bitOf c 31 then msixSend n s else s

/-- Count a firing at vector `n`, which fires when the count reaches COUNT (18 R512). -/
def vectorCount (n : Nat) (s : State) : State :=
  let e := mget (0, 0) s.evc.vecs n
  let e := if e.1 = 0 then (1, s.now) else (e.1 + 1, e.2)
  let s := { s with evc := { s.evc with vecs := mput (0, 0) n e s.evc.vecs } }
  if fld (vecCtl s n).toNat 23 16 ≤ e.1 then vectorFire n s else s

/-- Set pending bit and firing count of a source (18 R506); FRZ freezes the count (00 Table 0.6). -/
def markFired (n : Nat) (s : State) : State :=
  let o := 0x100 + 4 * (n / 32)
  let s := setReg .evc o (setBit (reg s .evc o) (n % 32) true) s
  if pageFrz s .evc then s
  else { s with evc := { s.evc with fired := mput 0 n (let c := mget 0 s.evc.fired n; if c.toNat < 0xFFFF then c + 1 else c) s.evc.fired } }

/-- Source `n` fires (18 R506 to R511). -/
def fire (n : Nat) (s : State) : State :=
  let s := markFired n s
  let r := route s n
  if !bitOf r 31 then s
  else match fastSlot s n with
    | some i => { s with evc := { s.evc with fpend0 := setBit s.evc.fpend0 i true, fpend1 := setBit s.evc.fpend1 i true } }
    | none => vectorCount (fld r.toNat 4 0) s

/-- The event of error bit `n` of a page (00 R21, 18 R504): source EVT_MAP + n, or a drop above 1,023. -/
def fireErr (pg : Page) (n : Nat) (s : State) : State :=
  let k := fld (reg s pg 0x01C).toNat 9 0 + n
  if k ≤ 1023 then fire k s
  else
    let s := bump .evc 0x078 s
    let s := setReg .evc 0x010 (setBit (reg s .evc 0x010) 0 true) s
    if bitOf (reg s .evc 0x014) 0 then s else fire (fld (reg s .evc 0x01C).toNat 9 0) s

/-- Block error bit `n` of a page occurs (00 R21, Table 0.7 for FPW). -/
def setErr (pg : Page) (n : Nat) (s : State) : State :=
  let s := setReg pg 0x010 (setBit (reg s pg 0x010) n true) s
  let quiet := match pg with | .fpw _ => !pageEn s pg | _ => false
  if bitOf (reg s pg 0x014) n || quiet then s else fireErr pg n s

/-- ACC_ERR of a page, which raises no event (00 R14, R21). -/
def setAcc (pg : Page) (s : State) : State := setReg pg 0x010 (setBit (reg s pg 0x010) 31 true) s

/-- A denied debug access (16 R465). -/
def denyDbg (s : State) : State := bump .dbg 0x048 (setAcc .dbg s)

/-- The power/run state changes, firing STATE (18 Table 18.1). -/
def setRun (r : RunSt) (s : State) : State := if s.run = r then s else fire 24 { s with run := r }

/-! MID_CMD results (14 R420). -/

/-- A command ends with a result: done, CMD_DONE fires (14 Table 14.8, 18 Table 18.1). -/
def midDone (cmd code : Nat) (s : State) : State :=
  fire 12 (setReg .mid 0x088 (w32 (2 ^ 31 + cmd * 256 + code)) { s with busy := none })

/-- A command is refused: it changes no state and sets CMD_REFUSED (14 R420). The register keeps BUSY while another
command runs. -/
def midRefuse (cmd code : Nat) (s : State) : State :=
  if s.busy.isSome then setErr .mid 3 (setReg .mid 0x088 (w32 (2 ^ 30 + cmd * 256 + code)) s)
  else setErr .mid 3 (fire 12 (setReg .mid 0x088 (w32 (2 ^ 31 + cmd * 256 + code)) s))

/-- A command starts and stays BUSY. -/
def midBusy (cmd : Nat) (op : MidOp) (s : State) : State :=
  setReg .mid 0x088 (w32 (2 ^ 30 + cmd * 256)) { s with busy := some op }

/-! The parameter store (09). -/

/-- Stacks in use on each die, as CAP_STACKS reports (09 R239, R267). -/
def nStk (s : State) : Nat := fld (reg s .cap 0x048).toNat 23 16 / 16

/-- Is a 42-bit module HBM address valid (09 R268)? -/
def hbmValid (s : State) (a : Nat) : Bool :=
  a < 2 ^ 42 && fld a 37 36 < nStk s && fld a 35 0 < 48000000000

/-- The die and the stack of an address. -/
def hbmDie (a : Nat) : Die := Fin.ofNat 16 (fld a 41 38)
def hbmStk (a : Nat) : Fin 4 := Fin.ofNat 4 (fld a 37 36)

/-- Bytes of the store under the ciphers that stand between a read and what is kept; a byte nothing has written reads 0x00. The data
unit is the 4 KiB stripe unit, its number the unit's module HBM address (09 R273). -/
def layerByte (m : SMap Byte) : List Cipher → Nat → Byte
  | [], a => mget 0 m a
  | c :: rest, a =>
    if c.lo ≤ a && a < c.hi then
      let blk := (List.range 16).map fun k => layerByte m rest (a / 16 * 16 + k)
      (xtsBlock (!c.enc) c.key (a / 4096 * 4096) (a % 4096 / 16) blk).getD (a % 16) 0
    else layerByte m rest a

def hbmByte (s : State) (a : Nat) : Byte := layerByte s.hbm s.cipher a
def hbmBytes (s : State) (a n : Nat) : List Byte :=
  if s.cipher.isEmpty then mgets 0 s.hbm a n else (List.range n).map fun k => hbmByte s (a + k)

/-- A range without the bytes from `lo` to before `hi`. -/
def cutCipher (lo hi : Nat) (c : Cipher) : List Cipher :=
  [{ c with hi := min c.hi lo }, { c with lo := max c.lo hi }].filter fun x => x.lo < x.hi

/-- Encryption comes between reads and a range, or goes: what one key did, the same key undoes. -/
def addCipher (c : Cipher) (l : List Cipher) : List Cipher :=
  let undone (x : Cipher) : Bool := x.key = c.key && x.enc != c.enc && c.lo ≤ x.lo && x.hi ≤ c.hi
  (l.filter undone).foldl (fun ps x => ps.flatMap (cutCipher x.lo x.hi)) [c] ++ l.filter fun x => !undone x

/-- 64-byte sectors that `n` bytes from `a` touch. -/
def sectorsOf (a n : Nat) : List Nat :=
  if n = 0 then [] else (List.range ((a + n - 1) / 64 - a / 64 + 1)).map (· + a / 64)

/-- Is any sector of a range poisoned (09 R270)? -/
def hbmPoisoned (s : State) (a n : Nat) : Bool := (sectorsOf a n).any fun k => mget false s.poison k

/-- The controller behind stack `k` of a die: once a stack has failed, the two lowest-numbered working ones are
addressed as stacks 0 and 1 (09 R267). -/
def stkCtl (s : State) (d : Die) (k : Fin 4) : Fin 4 :=
  if s.hbmFailed.isEmpty then k
  else ((List.finRange 4).filter fun n => !decide ((d.val, n.val) ∈ s.hbmFailed)).getD k.val k

/-- Count the 64-byte accesses of a stack (09 Table 9.13): `o` is RD_LINES or WR_LINES. -/
def countLines (o a n : Nat) (s : State) : State :=
  bump (.hbm (hbmDie a) (stkCtl s (hbmDie a) (hbmStk a))) o s (sectorsOf a n).length

/-- Bytes put into the store at `a`. Under a cipher the rest of the first and of the last 16-byte block is written back as it reads. -/
def putBytes (a : Nat) (bs : List Byte) (s : State) : State :=
  if s.cipher.isEmpty || bs.isEmpty then { s with hbm := mputs 0 a bs s.hbm }
  else
    let e := a + bs.length
    let lo := a / 16 * 16
    let hi := (e + 15) / 16 * 16
    { s with hbm := mputs 0 lo (hbmBytes s lo (a - lo) ++ bs ++ hbmBytes s e (hi - e)) s.hbm
             cipher := s.cipher.flatMap (cutCipher lo hi) }

/-- Write bytes; a sector written whole loses its poison (09 R270). -/
def hbmWrite (a : Nat) (bs : List Byte) (s : State) : State :=
  let whole := (sectorsOf a bs.length).filter fun k => a ≤ 64 * k && 64 * k + 64 ≤ a + bs.length
  countLines 0x068 a bs.length
    (putBytes a bs { s with poison := whole.foldl (fun m k => mput false k false m) s.poison })

/-- Mark a sector poisoned. -/
def hbmPoison (a : Nat) (s : State) : State := { s with poison := mput false (a / 64) true s.poison }

/-- A correction: HBM_CE, and CE_RATE at more than 1,024 within one second (R270, R291). -/
def hbmCorrected (a : Nat) (s : State) : State :=
  let d := hbmDie a
  let n := stkCtl s d (hbmStk a)
  let s := bump (.hbm d n) 0x04C s
  let x := mget DieSt.blank s.dies d.val
  let w := s.now :: ((mget [] x.ceRate n.val).filter fun t => s.now < t + 1000000000).take 1024
  let s := { s with dies := mput DieSt.blank d.val { x with ceRate := mput [] n.val w x.ceRate } s.dies }
  if w.length = 1025 then setErr (.hbm d n) 1 s else s

/-- A detected uncorrectable error: HBM_UE, UE_ADDR, UE, and the sector is poisoned (R270, R291). -/
def hbmUncorrectable (a : Nat) (s : State) : State :=
  let d := hbmDie a
  let n := stkCtl s d (hbmStk a)
  setErr (.hbm d n) 0 (setReg64 (.hbm d n) 0x054 (a / 64 * 64) (bump (.hbm d n) 0x050 (hbmPoison a s)))

/-- What the codeword check of a sector's read found. -/
def hbmEcc (e : Ecc) (a : Nat) (s : State) : State :=
  match e with
  | .clean => s
  | .corrected => hbmCorrected a s
  | .uncorrectable => hbmUncorrectable a s

/-- A read of `n` bytes from `a` finds the codeword errors of its sectors. -/
def meetFlaws (a n : Nat) (s : State) : State :=
  if s.flaws.isEmpty then s
  else
    let hits := s.flaws.filter fun e => decide (e.1 / 64 ∈ sectorsOf a n)
    hits.foldl (fun s e => hbmEcc e.2 (e.1 / 64 * 64) s)
      { s with flaws := s.flaws.filter fun e => !decide (e.1 / 64 ∈ sectorsOf a n) }

/-- Codeword errors that a command reports: the reads that come find them. -/
def addFlaws (es : EccList) (s : State) : State := if es.isEmpty then s else { s with flaws := s.flaws ++ es }

/-- A read of the store's data: its codeword checks, and RD_LINES (09 R270, Table 9.13). -/
def hbmTouch (a n : Nat) (s : State) : State := if n = 0 then s else countLines 0x064 a n (meetFlaws a n s)

/-! SEALED regions. -/

/-- Stack rotation q and Update Engine rotation r (Table 8.1). -/
def rotQ (p : Place) : Nat := p.pkey / 12 % 4
def rotR (p : Place) : Nat := p.pkey / 48 % 16

/-- Units of a region in all its generations. -/
def regionUnits (r : Region) : Nat := (if r.gen2 then 2 else 1) * r.size / 4096

/-- Units of a region on stack `k` of `n`. -/
def unitsOn (q n : Nat) (r : Region) (k : Nat) : Nat :=
  let i := (k + n - (q + r.idx) % n) % n
  if regionUnits r ≤ i then 0 else (regionUnits r - i - 1) / n + 1

/-- Fold a state transformer over a list. -/
def forAll {α : Type} (l : List α) (f : α → State → State) (s : State) : State := l.foldl (fun s a => f a s) s

/-- The byte ranges of the ENC regions, stack by stack. -/
def sealRanges (i : Img) (p : Place) : List (Nat × Nat) :=
  let n := max p.nstk 1
  ((i.regions.filter (·.enc)).flatMap fun r => (List.range n).map fun st =>
    let lo := r.owner.val * 2 ^ 38 + st * 2 ^ 36 + r.base.getD st 0 * 4096
    (lo, lo + 4096 * unitsOn (rotQ p) n r st)).filter fun c => c.1 < c.2

/-- The SEALED regions come under the job key in Sealed, or leave it (09 R273). -/
def sealRegions (enc : Bool) (s : State) : State :=
  match s.image, s.place, s.hbmKey with
  | some i, some p, some k =>
    if !s.isSealed then s
    else forAll (sealRanges i p) (fun c s =>
      { s with cipher := addCipher ⟨c.1, c.2, enc, k⟩ s.cipher }) s
  | _, _, _ => s

/-! Dies, tiles, fields, links. -/

def dieSt (s : State) (d : Die) : DieSt := mget DieSt.blank s.dies d.val
def setDie (d : Die) (x : DieSt) (s : State) : State := { s with dies := mput DieSt.blank d.val x s.dies }

def tileKey (u v : Nat) : Nat := 256 * v + u
def tile (s : State) (u v : Nat) : Tile := mget Tile.blank s.tiles (tileKey u v)
def setTile (u v : Nat) (t : Tile) (s : State) : State := { s with tiles := mput Tile.blank (tileKey u v) t s.tiles }

def fieldSt (s : State) (f : Field) : FieldSt := mget FieldSt.blank s.fields f.val
def setField (f : Field) (x : FieldSt) (s : State) : State := { s with fields := mput FieldSt.blank f.val x s.fields }

def linkSt (s : State) (p : Die) : LinkSt := mget LinkSt.blank s.links p.val
def setLink (p : Die) (x : LinkSt) (s : State) : State := { s with links := mput LinkSt.blank p.val x s.links }

/-- Is (u, v) a tile of the loaded image? -/
def inImage (s : State) (u v : Nat) : Bool :=
  match s.image with | some i => u < i.reqU && v < i.reqV | none => false

/-- The image's tiles, row by row. -/
def imageTiles (i : Img) : List (Nat × Nat) :=
  ((List.range i.reqV).map fun v => (List.range i.reqU).map fun u => (u, v)).flatten

/-- Count in a per-tile counter of the status block, unless DBG.PAGE_CTL.FRZ is 1 (05 R158). -/
def tileBump (s : State) (o : Nat) (t : Tile) (n : Nat := 1) : Tile :=
  if pageFrz s .dbg then t else { t with ctr := mput 0 o (satInc (mget 0 t.ctr o) n) t.ctr }

/-- Count an error of Table 5.10 at a tile and raise TILE_NET (18 Table 18.1). -/
def tileNetErr (u v o : Nat) (s : State) : State := fire 14 (setTile u v (tileBump s o (tile s u v)) s)

/-! Time (17 R489, 11 R359). -/

def nowW (s : State) : Nat := s.now % 2 ^ 64
/-- The module's own ID. -/
def ownId (s : State) : Nat := fld (stepv s .rdc 0x200).toNat 15 0

/-- Is the module the time master? -/
def isMaster (s : State) : Bool := fld (cfgv s .rdc 0x218).toNat 15 0 = ownId s

/-- JOFF at this moment: 0 at the time master, else the value held and what it has slewed since, at 100 ppm (11 R359). -/
def joffNow (s : State) : Int :=
  let j := sgn 64 (reg64 s .rdc 0x23C)
  let m : Int := ((s.now - s.slew.2) / 10000 : Nat)
  if isMaster s then 0 else j + iclamp (-m) m (s.slew.1 - j)

/-- JOFF takes a value, to slew on to another. -/
def setJoff (j goal : Int) (s : State) : State := setReg64 .rdc 0x23C (unsgn 64 j) { s with slew := (goal, s.now) }

/-- JTIME: the timebase plus JOFF. -/
def jtime (s : State) : Nat := unsgn 64 (s.now + joffNow s)

/-- A fresh free value. -/
def freshFree (s : State) : State := { s with fc := s.fc + 1 }

/-! The ring of the dies (09 Table 9.1, 15 R444). -/

/-- Ring position of a die (09 Table 9.1). -/
def ringPos (d : Die) : Nat :=
  [0, 1, 2, 3, 11, 10, 9, 8, 15, 14, 13, 12, 4, 5, 6, 7].getD d.val 0

/-- Can two dies reach each other round the ring with its down segments? Segment i joins positions i and i + 1. -/
def ringReach (s : State) (a b : Die) : Bool :=
  let n := (ringPos b + 16 - ringPos a) % 16
  ((List.range n).all fun k => !((ringPos a + k) % 16 ∈ s.ring)) ||
    ((List.range (16 - n)).all fun k => !((ringPos b + k) % 16 ∈ s.ring))

end Sys2Proof.Machine
end

