-- ==== Sys2Proof/Machine/Geometry.lean ====
section
/-! DEFINITION. The wafer's geometry: fields, segments, spares, retirement, the achieved array and the translations
between image and physical coordinates (08 R228 to R236, R257). -/

namespace Sys2Proof.Machine

/-- The wafer holds 192 × 196 physical tiles, 24 × 28 to a field (08 R229, R234). -/
def waferX : Nat := 192
def waferY : Nat := 196

/-- The field of a physical tile (00 Table 0.3). -/
def fieldAt (x y : Nat) : Field := Fin.ofNat 56 (8 * (y / 28) + x / 24)

/-- Defective tiles of segment `s` of physical row `y`. -/
def segDefects (defects : List (Nat × Nat)) (s y : Nat) : List (Nat × Nat) :=
  defects.filter fun p => p.2 = y && p.1 / 12 = s

/-- Is the tile in a retired field column or row? -/
def inRetiredField (g : Geo) (x y : Nat) : Bool := x / 24 ∈ g.fcols || y / 28 ∈ g.frows

/-- The spare position of a segment (R229, Table 8.1). -/
def sparePos (g : Geo) (seed pkey s y : Nat) : Nat :=
  match segDefects g.defects s y with
  | [p] => p.1 % 12
  | _ => if seed = 0 then 11 else (pkey % 12 + s + y) % 12

/-- Physical rows that carry logical rows, in increasing y (R231). -/
def liveRows (g : Geo) : List Nat :=
  (List.range waferY).filter fun y => !(y / 28 ∈ g.frows) && !(y ∈ g.rows)

/-- Segments outside the retired field columns, west to east. -/
def liveSegs (g : Geo) : List Nat := (List.range 16).filter fun s => !(s / 2 ∈ g.fcols)

/-- Achieved tile (a, b) to its physical tile (R229, R231). -/
def achievedPhys (g : Geo) (seed pkey a b : Nat) : Option (Nat × Nat) :=
  match (liveRows g)[b]?, (liveSegs g)[a / 11]? with
  | some y, some s =>
    let k := a % 11
    some (12 * s + k + (if k ≥ sparePos g seed pkey s y then 1 else 0), y)
  | _, _ => none

/-- Image tile (u, v) to its physical tile under a placement (R235). -/
def imagePhys (g : Geo) (p : Place) (u v : Nat) : Option (Nat × Nat) :=
  achievedPhys g p.seed p.pkey (p.u0 + u) (p.v0 + v)

/-- Physical tile to its achieved tile: none for a spare, a retired row or field. -/
def physAchieved (g : Geo) (seed pkey x y : Nat) : Option (Nat × Nat) :=
  match (liveRows g).idxOf? y, (liveSegs g).idxOf? (x / 12) with
  | some b, some i =>
    let d := sparePos g seed pkey (x / 12) y
    let k := x % 12
    if k = d then none else some (11 * i + (if k > d then k - 1 else k), b)
  | _, _ => none

/-- The placement in force, if one succeeded. -/
def placeOk (s : State) : Option Place :=
  match s.place with | some p => if p.ok then some p else none | none => none

/-- The kind of a physical tile and, for an image tile, its image coordinates (R257). -/
def physKind (s : State) (x y : Nat) : Nat × Nat × Nat :=
  if inRetiredField s.geo x y then (5, 0, 0)
  else if (x, y) ∈ s.geo.defects then (4, 0, 0)
  else if y ∈ s.geo.rows then (3, 0, 0)
  else match placeOk s with
    | none => (1, 0, 0)
    | some p =>
      match physAchieved s.geo p.seed p.pkey x y with
      | none => (2, 0, 0)
      | some (a, b) =>
        if p.u0 ≤ a && p.v0 ≤ b && inImage s (a - p.u0) (b - p.v0) then (0, a - p.u0, b - p.v0) else (1, 0, 0)

/-- The physical tile of an image tile, under the placement in force. -/
def physOf (s : State) (t : Nat × Nat) : Option (Nat × Nat) := (placeOk s).bind fun p => imagePhys s.geo p t.1 t.2

/-! Retirement (R231, R232). -/

/-- Runs of two or more adjacent interior members extend to the nearer edge, the far one when equal (R232 step 4).
`n` is the number of columns or rows. -/
def extendRuns (n : Nat) (set : List Nat) : List Nat :=
  (List.range n).filter fun c =>
    c ∈ set ||
    (List.range n).any fun a => (List.range n).any fun b =>
      -- a..b is a maximal run of interior members, at least two long
      1 ≤ a && b ≤ n - 2 && a < b && ((List.range n).all fun k => !(a ≤ k && k ≤ b) || k ∈ set) &&
      !(1 ≤ a - 1 && a - 1 ∈ set) && !(b + 1 ≤ n - 2 && b + 1 ∈ set) &&
      (if a < n - 1 - b then c ≤ b else a ≤ c)

/-- The fields that a set of columns and rows retires, in increasing index. -/
def retiredFields (fc fr : List Nat) : List Nat :=
  (List.range 56).filter fun f => f % 8 ∈ fc || f / 8 ∈ fr

/-- A choice of columns, with the rows of the lost fields that it leaves uncovered, before extension. -/
def coverSet (code : OrdCode) (lost : List Nat) (mask : Nat) : List Nat × List Nat :=
  let w42 := code = .w42s64p16
  let fc := (List.range 8).filter fun c => mask.testBit c || (w42 && c = 7)
  (fc, (List.range 7).filter fun r => (w42 && r = 6) || lost.any fun f => f / 8 = r && !(f % 8 ∈ fc))

/-- Does each column of the choice cover a lost field that no row covers? A covering set retires nothing that it does not need,
or a larger choice could take step 4's place (DEDUCED). -/
def coverLean (code : OrdCode) (lost : List Nat) (mask : Nat) : Bool :=
  let p := coverSet code lost mask
  p.1.all fun c => (code = .w42s64p16 && c = 7) || lost.any fun f => f % 8 = c && !(f / 8 ∈ p.2)

/-- A covering set with its extension (R232 step 4). -/
def coverFor (code : OrdCode) (lost : List Nat) (mask : Nat) : List Nat × List Nat :=
  let p := coverSet code lost mask
  (extendRuns 8 p.1, extendRuns 7 p.2)

/-- Is the first covering set better than the second (R232 steps 1 to 3)? -/
def coverBetter (p q : List Nat × List Nat) : Bool :=
  let n (x : List Nat × List Nat) := (8 - x.1.length) * (7 - x.2.length)
  if n p ≠ n q then n q < n p
  else if p.1.length ≠ q.1.length then p.1.length < q.1.length
  else retiredFields p.1 p.2 < retiredFields q.1 q.2

/-- The retired field columns and rows (R232). One lost field takes its column only, by steps 1 and 2; R234's text and 15
Table 15.5 speak of its row and column, 154 × 168 (DESIGN CHOICE: the steps of R232). -/
def bestCover (code : OrdCode) (lost : List Nat) : List Nat × List Nat :=
  ((List.range 256).filter (coverLean code lost)).foldl (fun best m =>
    let c := coverFor code lost m
    if coverBetter c best then c else best) (coverFor code lost 0)

/-- Physical rows retired for a segment with two or more defects (R231). -/
def badRows (defects : List (Nat × Nat)) (fc fr : List Nat) : List Nat :=
  (List.range waferY).filter fun y =>
    !(y / 28 ∈ fr) && (List.range 16).any fun s => !(s / 2 ∈ fc) && 2 ≤ (segDefects defects s y).length

/-- The defective tiles of a self-test (R228): one with a failed part, and the south or east one of two that a failed link or bus
segment joins. -/
def testDefects (r : TestReport) : List (Nat × Nat) :=
  (r.parts.map (·.2)) ++ r.links.map fun p => if p.1.2 < p.2.2 || (p.1.2 = p.2.2 && p.1.1 < p.2.1) then p.2 else p.1

/-- The segment and row that a failed skip path makes count as two defects, when the mapping needs it (R230): one over a spare, or
one between two logically adjacent tiles of different rows, which the south one's segment answers for. -/
def brokenSkip (g : Geo) (seed pkey : Nat) (p : (Nat × Nat) × (Nat × Nat)) : Option (Nat × Nat) :=
  let w := if p.1.2 < p.2.2 || (p.1.2 = p.2.2 && p.1.1 < p.2.1) then p else (p.2, p.1)
  if w.1.2 = w.2.2 then
    let x := w.1.1 + 1
    if w.2.1 = x + 1 && x % 12 = sparePos g seed pkey (x / 12) w.1.2 then some (x / 12, w.1.2) else none
  else match physAchieved g seed pkey w.1.1 w.1.2, physAchieved g seed pkey w.2.1 w.2.2 with
    | some a, some b => if a.1 = b.1 && b.2 = a.2 + 1 then some (w.2.1 / 12, w.2.2) else none
    | _, _ => none

/-- The field rows and the rows retired for bad rows (R231). -/
def retireRows (bad : List Nat) (fr : List Nat) : List Nat × List Nat :=
  let triple := bad.filter fun y =>
    (y + 1 ∈ bad && y + 2 ∈ bad) || (1 ≤ y && y - 1 ∈ bad && y + 1 ∈ bad) || (2 ≤ y && y - 1 ∈ bad && y - 2 ∈ bad)
  let fr := (List.range 7).filter fun r => r ∈ fr || triple.any fun y => y / 28 = r
  (fr, bad.filter fun y => !(y / 28 ∈ fr))

/-- The array that is left when a set of rows is bad. -/
def shapeOf (g : Geo) (c : List Nat × List Nat) (bad : List Nat) : Geo :=
  let r := retireRows bad c.2
  { defects := g.defects, skips := g.skips, fcols := c.1, frows := r.1, rows := r.2,
    ua := 22 * (8 - c.1.length), va := 28 * (7 - r.1.length) - r.2.length }

/-- The bad rows, with the rows of the failed skip paths that the mapping needs (R230); a row retired for one may make another path
needed, so the search goes on until no more are. -/
def skipRows (g : Geo) (c : List Nat × List Nat) (seed pkey : Nat) : Nat → List Nat → List Nat
  | 0, bad => bad
  | n + 1, bad =>
    let more := (g.skips.filterMap (brokenSkip (shapeOf g c bad) seed pkey)).filterMap fun q =>
      if q.1 / 2 ∈ c.1 || q.2 / 28 ∈ c.2 || q.2 ∈ bad then none else some q.2
    if more.isEmpty then bad else skipRows g c seed pkey n ((List.range waferY).filter fun y => y ∈ bad || y ∈ more)

/-- The achieved array of a defect map, a set of failed skip paths and a set of lost fields (R230 to R234), under a placement's seed
and key. Before any image gives them the mapping is that of seed 0 (DESIGN CHOICE). -/
def achieve (code : OrdCode) (g : Geo) (lost : List Nat) (seed pkey : Nat := 0) : Geo :=
  let c := bestCover code lost
  shapeOf g c (skipRows g c seed pkey waferY (badRows g.defects c.1 c.2))

/-- Fields that are lost or dark, by index (R232, 13 R384). -/
def lostFields (s : State) : List Nat :=
  (allFields.filter fun f => fieldFitted s.code f && (fieldSt s f).lost).map (·.val)

/-! The clock tree (R238, 13 R395, R396). -/

/-- The root candidates in order (13 R395). -/
def rootCands : List (Nat × Nat) := [(84, 97), (85, 97), (84, 98), (85, 98)]

/-- The root of a tree. -/
def ClkSt.root (c : ClkSt) : Option (Nat × Nat) := c.cand.bind fun k => rootCands[k]?

/-- Does the tree span a physical tile? The root's always, whatever field is retired (DESIGN CHOICE). -/
def ClkSt.spans (c : ClkSt) (p : Nat × Nat) : Bool :=
  c.root = some p || !(p ∈ c.avoid || p.1 / 24 ∈ c.cols || p.2 / 28 ∈ c.rows)

/-- The tile that a tile's receiver hears on its east or west side: over a skip path past one tile, and over the bypass lanes of
retired field columns (R230, R233). -/
def ClkSt.side (c : ClkSt) (p : Nat × Nat) (xs : List Nat) : Option (Nat × Nat) :=
  (((xs.filter fun x => !(x / 24 ∈ c.cols) || c.root = some (x, p.2)).take 2).map fun x => (x, p.2)).find? c.spans

/-- The same on its north or south side: at x, x − 1 and x + 1, one to three rows away. Of the paths that reach, the nearest row
and then x comes first (DESIGN CHOICE). -/
def ClkSt.ends (c : ClkSt) (p : Nat × Nat) (ys : List Nat) : Option (Nat × Nat) :=
  let near (y : Nat) : List (Nat × Nat) := [(p.1, y)] ++ (if p.1 = 0 then [] else [(p.1 - 1, y)]) ++
    (if p.1 + 1 < waferX then [(p.1 + 1, y)] else [])
  (((ys.filter fun y => !(y / 28 ∈ c.rows) || (near y).any fun q => c.root = some q).take 3).map near).flatten.find? c.spans

/-- A tile's neighbours in the order N, E, S, W. -/
def ClkSt.around (c : ClkSt) (p : Nat × Nat) : List (Nat × Nat) :=
  [c.ends p (List.range p.2).reverse, c.side p ((List.range (waferX - 1 - p.1)).map fun k => p.1 + 1 + k),
    c.ends p ((List.range (waferY - 1 - p.2)).map fun k => p.2 + 1 + k), c.side p (List.range p.1).reverse].filterMap id

/-- Index of a physical tile. -/
def physIdx (p : Nat × Nat) : Nat := waferX * p.2 + p.1

/-- Depth plus one of every tile, by index; 0 is a tile that no path of 255 hops or fewer reaches. -/
def ClkSt.depths (c : ClkSt) : Array Nat :=
  let near := (Array.range (waferX * waferY)).map fun k =>
    let p := (k % waferX, k / waferX)
    if c.spans p then (c.around p).map physIdx else []
  let zero := Array.replicate (waferX * waferY) 0
  match c.root with
  | none => zero
  | some r => (List.range 255).foldl (fun a d =>
      (Array.range (waferX * waferY)).map fun k =>
        if a.getD k 0 ≠ 0 then a.getD k 0 else if (near.getD k []).any fun n => a.getD n 0 = d + 1 then d + 2 else 0)
      (zero.setIfInBounds (physIdx r) 1)

/-- The deepest tile, in hops (CLK_DEPTH). -/
def ClkSt.depth (c : ClkSt) : Nat := c.depths.foldl max 0 - 1

/-- A tile's upstream: the neighbour of least depth, the first of them in the order N, E, S, W (R238). -/
def ClkSt.upstream (c : ClkSt) (p : Nat × Nat) : Option (Nat × Nat) :=
  let a := c.depths
  let d := a.getD (physIdx p) 0
  if d ≤ 1 then none else (c.around p).find? fun n => a.getD (physIdx n) 0 = d - 1

/-- The tiles that a tree spans and no path of 255 hops or fewer reaches: each counts as one whose receiver does not lock (13 R396). -/
def ClkSt.far (c : ClkSt) : List (Nat × Nat) :=
  if c.cand.isNone then []
  else
    let a := c.depths
    (List.range (waferX * waferY)).filterMap fun k =>
      let p := (k % waferX, k / waferX)
      if c.spans p && a.getD k 0 = 0 then some p else none

/-- The tree that set-up builds (R238): `silent` are the tiles whose receivers do not lock. A tile deeper than 255 hops counts as one
(13 R396). With F27 off no candidate locks. Set-up passes over the fields that are lost by then (DESIGN CHOICE). -/
def setUpTree (code : OrdCode) (lost : List Nat) (f27 : Bool) (silent : List (Nat × Nat)) : ClkSt :=
  let mute := (if f27 then silent else silent ++ rootCands).dedup
  let cov := bestCover code lost
  let c : ClkSt := { locked := f27, cand := rootCands.findIdx? fun p => !(p ∈ mute), fail := mute, avoid := mute, cols := cov.1
                     rows := cov.2, rebuilt := false, shown := true }
  { c with fail := mute ++ c.far }

/-- The tree built again from the defect map and the retired fields (R238). The root stays while its tile has no defect. -/
def rebuildTree (s : State) : State :=
  let ok (p : Nat × Nat) : Bool := !(p ∈ s.geo.defects)
  let root := if (s.clk.root.map ok).getD false then s.clk.cand else rootCands.findIdx? ok
  { s with clk := { s.clk with
      cand := if s.clk.cand.isSome then root else none, avoid := s.geo.defects, cols := s.geo.fcols, rows := s.geo.frows } }

/-- The array and its tree under a seed and key: a tile that the tree does not reach is defective, and both are found again
(13 R396). -/
def settleTree (seed pkey : Nat) : Nat → State → State
  | 0, s => rebuildTree s
  | n + 1, s =>
    let s := rebuildTree { s with geo := achieve s.code s.geo (lostFields s) seed pkey }
    let far := s.clk.far
    if far.isEmpty then s
    else settleTree seed pkey n { s with
      clk := { s.clk with fail := s.clk.fail ++ far }, geo := { s.geo with defects := s.geo.defects ++ far } }

/-- The array and the tree that a placement with a seed and a key finds (R229 to R234, R238). -/
def placeGeo (seed pkey : Nat) (s : State) : State := settleTree seed pkey (waferX * waferY) s

/-- Placement's tree is in force (R238). -/
def placeTree (s : State) : State := { s with clk := { s.clk with rebuilt := true, shown := true } }

/-- Does a minimum shape fit within an achieved one (14 R416)? -/
def meetsMin (s : State) : Bool := (minShape s.code).1 ≤ s.geo.ua && (minShape s.code).2 ≤ s.geo.va

end Sys2Proof.Machine
end

