-- ==== Sys2Proof/Machine/Float.lean ====
section
/-! DEFINITION. The twelve formats, exact values, the two rounding modes, conversions, the step sum and the
accumulator add (chapter 03). A value is exact: sign, integer significand and power of two. -/

namespace Sys2Proof.Machine

/-- An exact value of a floating-point or integer code: NaN, an infinity, or (−1)^neg × m × 2^e
(m = 0 is a zero that keeps its sign, 03 R71). -/
inductive FVal
  | nan
  | inf (neg : Bool)
  | fin (neg : Bool) (m : Nat) (e : Int)
  deriving DecidableEq, Repr, Inhabited

/-- What the all-ones exponent holds (03 Table 3.2). -/
inductive Tops | ieee | nanOnly | finite
  deriving DecidableEq, Repr

/-- Sign, exponent and mantissa widths, bias and top codes of a floating-point format (03 Table 3.2). -/
structure FSpec where
  eb : Nat
  mb : Nat
  bias : Nat
  tops : Tops
  deriving DecidableEq, Repr

def fp32 : FSpec := ⟨8, 23, 127, .ieee⟩
def bf16 : FSpec := ⟨8, 7, 127, .ieee⟩
def fp16 : FSpec := ⟨5, 10, 15, .ieee⟩
def e4m3 : FSpec := ⟨4, 3, 7, .nanOnly⟩
def e5m2 : FSpec := ⟨5, 2, 15, .ieee⟩
def e3m2 : FSpec := ⟨3, 2, 3, .finite⟩
def e2m3 : FSpec := ⟨2, 3, 1, .finite⟩
def e2m1 : FSpec := ⟨2, 1, 1, .finite⟩

/-- The FMT codes 0x0 to 0xB (03 Table 3.1). -/
def fmtSpec : Nat → Option FSpec
  | 0 => some fp32 | 1 => some bf16 | 2 => some fp16 | 3 => some e4m3 | 4 => some e5m2
  | 5 => some e3m2 | 6 => some e2m3 | 7 => some e2m1 | _ => none

/-- Bits per element by FMT code (03 Table 3.1); 0 for an invalid code. -/
def fmtBits : Nat → Nat
  | 0 => 32 | 1 => 16 | 2 => 16 | 3 => 8 | 4 => 8 | 5 => 6 | 6 => 6 | 7 => 4 | 8 => 8 | 9 => 4
  | 10 => 8 | 11 => 16 | _ => 0

/-- Storage bits per element in tile SRAM: a 6-bit element takes a byte (02 R43, Table 2.3). -/
def sramBits (f : Nat) : Nat := if fmtBits f = 6 then 8 else fmtBits f

/-- Columns per 64-byte line (02 Table 2.3). -/
def lineCols (f : Nat) : Nat := if sramBits f = 0 then 1 else 64 / sramBits f

/-- The value of a floating-point code (03 R70, R71). -/
def decF (s : FSpec) (c : Nat) : FVal :=
  let neg := c / 2 ^ (s.eb + s.mb) % 2 = 1
  let ex := c / 2 ^ s.mb % 2 ^ s.eb
  let m := c % 2 ^ s.mb
  let emin : Int := 1 - s.bias
  let top := ex = 2 ^ s.eb - 1
  if top ∧ s.tops = .ieee then (if m = 0 then .inf neg else .nan)
  else if top ∧ s.tops = .nanOnly ∧ m = 2 ^ s.mb - 1 then .nan
  else if ex = 0 then .fin neg m (emin - s.mb)
  else .fin neg (m + 2 ^ s.mb) ((ex : Int) - s.bias - s.mb)

/-- The value of any code of FMT 0x0 to 0xB, scales not applied; a GW mantissa counts as its integer. -/
def decCode (f c : Nat) : FVal :=
  match fmtSpec f with
  | some s => decF s c
  | none => let i := sgn (fmtBits f) c; .fin (i < 0) i.natAbs 0

/-- The largest finite value as significand and exponent (03 Table 3.2). -/
def maxFin (s : FSpec) : Nat × Int :=
  match s.tops with
  | .ieee => (2 ^ (s.mb + 1) - 1, (2 ^ s.eb - 2 : Nat) - (s.bias : Int) - s.mb)
  | .nanOnly => (2 ^ (s.mb + 1) - 2, (2 ^ s.eb - 1 : Nat) - (s.bias : Int) - s.mb)
  | .finite => (2 ^ (s.mb + 1) - 1, (2 ^ s.eb - 1 : Nat) - (s.bias : Int) - s.mb)

/-- Comparison of two magnitudes m × 2^e. -/
def magLe (m₁ : Nat) (e₁ : Int) (m₂ : Nat) (e₂ : Int) : Bool :=
  let e := min e₁ e₂
  m₁ <<< (e₁ - e).toNat ≤ m₂ <<< (e₂ - e).toNat

def magLt (m₁ : Nat) (e₁ : Int) (m₂ : Nat) (e₂ : Int) : Bool := !magLe m₂ e₂ m₁ e₁

/-- The rounding modes: to nearest even (03 R88), or stochastic with its 32-bit word (03 R89). -/
inductive Rnd
  | rne
  | sr (u : W32)
  deriving DecidableEq, Repr

/-- Round m / 2^d to an integer under a mode (03 R88, R89). -/
def roundShift (mode : Rnd) (m d : Nat) : Nat :=
  let lo := m >>> d
  let rem := m % 2 ^ d
  if rem = 0 then lo
  else match mode with
    | .rne => if 2 * rem > 2 ^ d ∨ (2 * rem = 2 ^ d ∧ lo % 2 = 1) then lo + 1 else lo
    | .sr u => if rem * 2 ^ 32 / 2 ^ d + u.toNat ≥ 2 ^ 32 then lo + 1 else lo

/-- A nonzero magnitude rounded once to a format: significand in units of the result's ulp, the ulp's
exponent, before saturation. -/
def roundMag (s : FSpec) (mode : Rnd) (m : Nat) (e : Int) : Nat × Int :=
  let p : Int := Nat.log2 m + e
  let emin : Int := 1 - s.bias
  let q := max p emin - s.mb
  if e ≥ q then (m <<< (e - q).toNat, q) else (roundShift mode m (q - e).toNat, q)

/-- The code of a representable magnitude given in ulp units. -/
def packMag (s : FSpec) (neg : Bool) (m : Nat) (q : Int) : Nat :=
  let (m, q) := if m ≥ 2 ^ (s.mb + 1) then (m / 2, q + 1) else (m, q)
  let sign := if neg then 2 ^ (s.eb + s.mb) else 0
  if m < 2 ^ s.mb then sign + m
  else sign + (q + s.mb + s.bias).toNat * 2 ^ s.mb + (m - 2 ^ s.mb)

/-- The canonical NaN of a format, for formats that have one (03 R72). -/
def nanCode (s : FSpec) : Option Nat :=
  match s.tops with
  | .ieee => some (if s.mb = 23 then 0x7FC00000 else if s.mb = 7 then 0x7FC0 else if s.mb = 10 then 0x7E00 else 0x7E)
  | .nanOnly => some 0x7F
  | .finite => none

def maxCode (s : FSpec) (neg : Bool) : Nat := packMag s neg (maxFin s).1 (maxFin s).2

/-- An exact value written in a floating-point format with one rounding; the flag is a quantization
overflow (03 R86, R94, R95). -/
def encF (s : FSpec) (mode : Rnd) : FVal → Nat × Bool
  | .nan => match nanCode s with | some c => (c, false) | none => (0, true)
  | .inf neg =>
    if s.tops = .ieee then ((if neg then 2 ^ (s.eb + s.mb) else 0) + (2 ^ s.eb - 1) * 2 ^ s.mb, false)
    else (maxCode s neg, true)
  | .fin neg m e =>
    if m = 0 then ((if neg then 2 ^ (s.eb + s.mb) else 0), false)
    else
      let r := roundMag s mode m e
      if magLt (maxFin s).1 (maxFin s).2 r.1 r.2 then (maxCode s neg, true)
      else (packMag s neg r.1 r.2, false)

/-- Round an exact value to an integer under a mode. -/
def roundInt (mode : Rnd) (neg : Bool) (m : Nat) (e : Int) : Int :=
  let a : Nat := if e ≥ 0 then m <<< e.toNat else roundShift mode m (-e).toNat
  if neg then -(a : Int) else a

/-- An exact value written as an n-bit symmetric integer (03 R73, R94, R95, R97). NaN writes `nanV`. -/
def encI (n : Nat) (nanV : Int) (mode : Rnd) : FVal → Nat × Bool
  | .nan => (unsgn n nanV, true)
  | .inf neg => (unsgn n (if neg then -(2 ^ (n - 1) - 1) else 2 ^ (n - 1) - 1), true)
  | .fin neg m e =>
    let b : Int := 2 ^ (n - 1) - 1
    let i := roundInt mode neg m e
    (unsgn n (iclamp (-b) b i), i < -b ∨ b < i)

/-- An exact value written in FMT `f` (03 R94, R95); GW formats saturate NaN to the positive bound. -/
def encCode (f : Nat) (mode : Rnd) (v : FVal) : Nat × Bool :=
  match fmtSpec f with
  | some s => encF s mode v
  | none => encI (fmtBits f) (if f = 10 ∨ f = 11 then 2 ^ (fmtBits f - 1) - 1 else 0) mode v

/-! Exact arithmetic. -/

def negV : FVal → FVal
  | .nan => .nan
  | .inf n => .inf (!n)
  | .fin n m e => .fin (!n) m e

def absV : FVal → FVal
  | .nan => .nan
  | .inf _ => .inf false
  | .fin _ m e => .fin false m e

/-- The product, exact; ∞ × 0 is NaN (03 R81). -/
def mulV : FVal → FVal → FVal
  | .nan, _ => .nan
  | _, .nan => .nan
  | .inf a, .inf b => .inf (a != b)
  | .inf a, .fin b m _ => if m = 0 then .nan else .inf (a != b)
  | .fin a m _, .inf b => if m = 0 then .nan else .inf (a != b)
  | .fin a m e, .fin b n k => .fin (a != b) (m * n) (e + k)

def toInt (neg : Bool) (m : Nat) : Int := if neg then -(m : Int) else m

/-- The sum, exact; an exact zero is +0 unless both addends are −0 (03 R88). -/
def addV : FVal → FVal → FVal
  | .nan, _ => .nan
  | _, .nan => .nan
  | .inf a, .inf b => if a = b then .inf a else .nan
  | .inf a, _ => .inf a
  | _, .inf b => .inf b
  | .fin a m e, .fin b n k =>
    let q := min e k
    let i := toInt a (m <<< (e - q).toNat) + toInt b (n <<< (k - q).toNat)
    if i = 0 then .fin (a && b) 0 q else .fin (i < 0) i.natAbs q

/-- Multiply by 2^k, exact. -/
def scale2 (v : FVal) (k : Int) : FVal :=
  match v with
  | .fin n m e => .fin n m (e + k)
  | v => v

def isNan : FVal → Bool | .nan => true | _ => false
def isInf : FVal → Bool | .inf _ => true | _ => false
def isFin : FVal → Bool | .fin _ _ _ => true | _ => false
def isZero : FVal → Bool | .fin _ 0 _ => true | _ => false

/-- Ordered comparison a < b; false when either is NaN. -/
def ltV (a b : FVal) : Bool :=
  match a, b with
  | .nan, _ => false
  | _, .nan => false
  | .inf x, .inf y => x && !y
  | .inf x, .fin _ _ _ => x
  | .fin _ _ _, .inf y => !y
  | .fin x m e, .fin y n k =>
    let q := min e k
    decide (toInt x (m <<< (e - q).toNat) < toInt y (n <<< (k - q).toNat))

def eqV (a b : FVal) : Bool := !isNan a && !isNan b && !ltV a b && !ltV b a

/-! FP32 words. -/

def dec32 (w : W32) : FVal := decF fp32 w.toNat
def enc32 (mode : Rnd) (v : FVal) : W32 × Bool := let r := encF fp32 mode v; (w32 r.1, r.2)
def add32 (mode : Rnd) (a b : W32) : W32 := (enc32 mode (addV (dec32 a) (dec32 b))).1
def mul32 (a b : W32) : W32 := (enc32 .rne (mulV (dec32 a) (dec32 b))).1
/-- a × b + c with one rounding (02 Table 2.6). -/
def fma32 (a b c : W32) : W32 := (enc32 .rne (addV (mulV (dec32 a) (dec32 b)) (dec32 c))).1
def neg32 (a : W32) : W32 := if isNan (dec32 a) then 0x7FC00000 else a ^^^ 0x80000000
def abs32 (a : W32) : W32 := if isNan (dec32 a) then 0x7FC00000 else a &&& 0x7FFFFFFF
/-- The lesser and the greater of two FP32 words, exact. NaN when either is NaN, and the first of two zeros (DESIGN CHOICE: 03 R72 says
neither). -/
def min32 (a b : W32) : W32 :=
  if isNan (dec32 a) || isNan (dec32 b) then 0x7FC00000 else if ltV (dec32 b) (dec32 a) then b else a
def max32 (a b : W32) : W32 :=
  if isNan (dec32 a) || isNan (dec32 b) then 0x7FC00000 else if ltV (dec32 a) (dec32 b) then b else a

/-- The integer part toward zero of a value, as a value. -/
def truncV : FVal → FVal
  | .fin n m e => if e ≥ 0 then .fin n m e else .fin n (m >>> (-e).toNat) 0
  | v => v

/-- floor of a finite value. -/
def floorI (neg : Bool) (m : Nat) (e : Int) : Int :=
  if e ≥ 0 then toInt neg (m <<< e.toNat)
  else Int.fdiv (toInt neg m) (2 ^ (-e).toNat : Nat)

/-- A quotient a / b of magnitudes, correctly usable for one RNE rounding: enough bits and a sticky bit. -/
def divV (neg : Bool) (m : Nat) (e : Int) (n : Nat) (k : Int) : FVal :=
  let sh := 64 + Nat.log2 n
  let q := (m <<< sh) / n
  let r := (m <<< sh) % n
  .fin neg (2 * q + (if r = 0 then 0 else 1)) (e - k - sh - 1)

/-- r = RNE(1 / s) for a positive normal scale (03 R76). -/
def recip32 (s : W32) : W32 :=
  match dec32 s with
  | .fin n m e => if m = 0 then 0 else (enc32 .rne (divV n 1 0 m e)).1
  | _ => 0

/-- A scale as written: an invalid one becomes 1.0, with the flag of a numeric saturation (03 R76). -/
def writeScale (s : W32) : W32 × W32 × Bool :=
  let ex := fld s.toNat 30 23
  if s.getLsbD 31 ∨ ex = 0 ∨ ex = 255 then (0x3F800000, 0x3F800000, true) else (s, recip32 s, false)

/-- Smallest integer e with m × 2^k / q ≤ 2^e, for positive m and q: ceil(log2 of the quotient), exact. -/
def ceilLog2 (m : Nat) (k : Int) (qm : Nat) (qk : Int) : Int :=
  let g : Int := (Nat.log2 m : Int) + k - (Nat.log2 qm + qk)
  -- the quotient lies in (2^(g−1), 2^(g+1))
  if magLe m k qm (qk + g - 1) then g - 1 else if magLe m k qm (qk + g) then g else g + 1

/-- 2^e as an FP32 word, for e from −126 to 127. -/
def pow2w (e : Int) : W32 := w32 ((e + 127).toNat * 2 ^ 23)

/-- Qmax of the formats that block scaling and the estimator know (04 R116, R118), as m × 2^e. -/
def qmax : Nat → Nat × Int
  | 2 => (2047, 5) | 3 => (7, 6) | 4 => (7, 13) | 5 => (7, 2) | 6 => (15, -1) | 7 => (3, 1) | 8 => (127, 0) | 9 => (7, 0)
  | _ => (1, 0)

/-- The E8M0 exponent of a block of FP32 values and its overflow flag (04 R118, R119). -/
def blockExp (f : Nat) (vs : List FVal) : Nat × Bool :=
  if vs.any isNan then (0xFF, true)
  else if vs.any isInf then (0xFE, true)
  else
    let a := vs.foldl (fun a v => if ltV a (absV v) then absV v else a) (.fin false 0 0)
    match a with
    | .fin _ m e => if m = 0 then (0, false)
      else ((iclamp 0 0xFE (127 + ceilLog2 m e (qmax f).1 (qmax f).2)).toNat, false)
    | _ => (0, false)

/-- A block quantized with its exponent by RNE: codes (04 R118, R119). -/
def blockCodes (f x : Nat) (vs : List FVal) : List Nat :=
  if x = 0xFF then vs.map fun _ => 0
  else vs.map fun v => match v with
    | .inf n => (match fmtSpec f with | some s => maxCode s n | none => unsgn (fmtBits f) (if n then -7 else 7))
    | v => (encCode f .rne (scale2 v (127 - x))).1

/-- Value of an element code with a block exponent: q × 2^(X − 127), m × 2^(X − 133) in GW8, m × 2^(X − 141) in GW16 (03 R75);
exponent 0xFF is NaN (R77). -/
def blockVal (f c x : Nat) : FVal :=
  if x = 0xFF then .nan else scale2 (decCode f c) (x - (match f with | 10 => 133 | 11 => 141 | _ => 127))

/-! The step sum and the accumulator (03 R80 to R87). -/

/-- floor(log2 |p|) of a nonzero finite value. -/
def flog2 (m : Nat) (e : Int) : Int := Nat.log2 m + e

/-- A finite value truncated toward zero to a multiple of 2^w, as an integer count of 2^w. -/
def truncAt (w : Int) : FVal → Int
  | .fin n m e => if e ≥ w then toInt n (m <<< (e - w).toNat) else toInt n (m >>> (w - e).toNat)
  | _ => 0

/-- The step sum of the products of one step, before the block exponents (03 R80, R81). -/
def stepSum (ps : List FVal) : FVal :=
  if ps.any isNan then .nan
  else if ps.any (· == FVal.inf true) && ps.any (· == FVal.inf false) then .nan
  else if ps.any (· == FVal.inf true) then .inf true
  else if ps.any (· == FVal.inf false) then .inf false
  else
    let es := ps.filterMap fun p => match p with | .fin _ m e => if m = 0 then none else some (flog2 m e) | _ => none
    match es with
    | [] => .fin false 0 0
    | e0 :: r =>
      let w := r.foldl max e0 - 63
      let s := (ps.map (truncAt w)).foldl (· + ·) 0
      .fin (s < 0) s.natAbs w

/-- One FP32 accumulator update: exact add, one rounding, saturation bit (03 R83, R86, R87). -/
def accAdd (mode : Rnd) (acc : W32) (s : FVal) : W32 × Bool :=
  let v := addV (dec32 acc) s
  let r := enc32 mode v
  (r.1, r.2 || !isFin v)

/-- One INT32 accumulator update with its bound (03 R83, R85). A non-finite step sum cannot arise from INT8. -/
def accAddI (acc : W32) (s : FVal) : W32 × Bool :=
  let i := acc.toInt + truncAt 0 s
  (w32 (unsgn 32 (iclamp (-(2 ^ 31)) (2 ^ 31 - 1) i)), decide (i < -(2 ^ 31) ∨ 2 ^ 31 - 1 < i))

/-- INT32 to FP32 by RNE (03 R93). -/
def i2f (w : W32) : W32 := (enc32 .rne (.fin (w.toInt < 0) w.toInt.natAbs 0)).1

/-- FP32 gradient value to a GW mantissa with agreed exponent X: 133 for GW8, 141 for GW16 (03 R97). -/
def toGW (wide : Bool) (x : Nat) (v : W32) : Int × Bool :=
  let n := if wide then 16 else 8
  let c := encI n (2 ^ (n - 1) - 1) .rne (scale2 (dec32 v) ((if wide then 141 else 133) - (x : Int)))
  (sgn n c.1, c.2)

/-- An integer mantissa sum as FP32 (03 R97, R98). -/
def fromGW (wide : Bool) (x : Nat) (s : Int) : FVal :=
  .fin (s < 0) s.natAbs ((x : Int) - (if wide then 141 else 133))

end Sys2Proof.Machine
end

