-- ==== Sys2Proof/Machine/Tiles.lean ====
section
/-! DEFINITION. A tile's memories: exposed lines and their poison (02 R36 to R41), the raw form of an exact-accumulator
lane (R66), the sett state word (07 Table 7.9). -/

namespace Sys2Proof.Machine

/-- Exposed lines (R36) and the end of the exposed bytes. -/
def exposedLines : Nat := 24000
def exposedBytes : Nat := 1536000

/-- The lines that `n` bytes from `a` touch. -/
def linesOf (a n : Nat) : List Nat :=
  if n = 0 then [] else (List.range ((a + n - 1) / 64 - a / 64 + 1)).map (· + a / 64)

/-- Is an exposed line poisoned (R41)? -/
def linePoisoned (t : Tile) (l : Nat) : Bool := l < exposedLines && !(mget false t.live l)

/-- A partial write to a poisoned line first writes 0x00 to the rest of the line (R41). -/
def clearPoison (a n : Nat) (t : Tile) : Tile :=
  (linesOf a n).foldl (fun t l =>
    if linePoisoned t l then
      { t with sram := mputs 0 (64 * l) (zeros 64) t.sram, live := mput false l true t.live }
    else t) t

/-- Drop the shadows of the elements at a byte range (04 R110). -/
def dropShadows (a n : Nat) (t : Tile) : Tile :=
  { t with shadow := t.shadow.filter fun e => e.1 < 2 * a || 2 * (a + n) ≤ e.1 }

/-- Write bytes of a conversion: the shadows that go with them follow as their own writes. -/
def sramPut (a : Nat) (bs : List Byte) (t : Tile) : Tile :=
  let t := clearPoison a bs.length t
  { t with sram := mputs 0 a bs t.sram }

/-- Write bytes; shadows of what they replace are gone. -/
def sramWrite (a : Nat) (bs : List Byte) (t : Tile) : Tile := dropShadows a bs.length (sramPut a bs t)

/-- Read bytes: a poisoned line reads as zero bytes (R41). -/
def sramRead (t : Tile) (a n : Nat) : List Byte :=
  (List.range n).map fun i => if linePoisoned t ((a + i) / 64) then 0 else mget 0 t.sram (a + i)

/-- Does a read meet a poisoned line? -/
def readsPoison (t : Tile) (a n : Nat) : Bool := (linesOf a n).any (linePoisoned t)

/-- The raw 80 bytes of a lane: the sum in bits 631 to 0 and the flags in bits 639 to 632 (R66). The places of the four
flags in that byte are a DESIGN CHOICE: NaN 0, +∞ 1, −∞ 2, saturation 3. -/
def xaRaw (x : XaLane) : List Byte :=
  natLE 79 (unsgn 632 x.sum) ++
    [BitVec.ofNat 8 (x.nan.toNat + 2 * x.pinf.toNat + 4 * x.ninf.toNat + 8 * x.sat.toNat)]

/-- A lane from its raw bytes. -/
def xaOfRaw (bs : List Byte) : XaLane :=
  let f := byteAt bs 79
  ⟨sgn 632 (leNat (bs.take 79)), f.testBit 0, f.testBit 1, f.testBit 2, f.testBit 3⟩

/-- A tick starts: token total, highest cycle cost and departures used from zero. -/
def clearTok (t : Tile) : Tile := { t with tok := 0, tokPkNow := 0, tokHi := 0, cyc := (0, 0), dep := [] }
/-- Apply a change to every tile. -/
def mapTiles (f : Tile → Tile) (s : State) : State :=
  { s with tiles := mmap Tile.blank f s.tiles }

def strmCode : Strm → Nat | .f => 0 | .b => 1 | .w => 2

/-- The sett state word (07 Table 7.9). -/
def settWord (x : Sett) : Nat :=
  let q (i : Nat) : Nat := match x.queue[i]? with | some z => strmCode z | none => 0
  x.count % 2 ^ 16 + 2 ^ 19 * (x.t % 8) + 2 ^ 22 * x.tmo.toNat + 2 ^ 23 * x.sat.toNat + 2 ^ 24 * (x.queue.length % 4)
    + 2 ^ 26 * q 2 + 2 ^ 28 * q 1 + 2 ^ 30 * q 0 + 2 ^ 32 * (x.spill % 256) + 2 ^ 77 * x.lsValid.toNat
    + 2 ^ 78 * (x.lsStrm % 4) + 2 ^ 80 * (x.lsV % 256) + 2 ^ 88 * (x.lsU % 256) + 2 ^ 96 * (x.lsTick % 2 ^ 32)

/-- The streams asleep in setts: bit 0 F, 1 B, 2 W. -/
def asleepBits (t : Tile) : Nat :=
  t.cF.sleep.isSome.toNat + 2 * t.cB.sleep.isSome.toNat + 4 * t.cW.sleep.isSome.toNat

/-- The tile status block (17 Table 17.12). -/
def statusWord (t : Tile) (o : Nat) : W32 :=
  match o with
  | 0x000 => w32 t.cF.pos
  | 0x004 => w32 t.cB.pos
  | 0x008 => w32 t.cW.pos
  | 0x00C =>
    let sat := t.accSat.any fun e => e.2
    w32 (t.cF.sleep.isSome.toNat + 2 * t.cW.sleep.isSome.toNat + 4 * t.tokAvg.toNat + 8 * t.tokPeak.toNat
      + 16 * t.poisonRd.toNat + 32 * (sat || t.thinSat).toNat + 2 ^ 30 * t.owl.isSome.toNat + 2 ^ 31 * t.fenced.toNat)
  | 0x010 => w32 (asleepBits t)
  | 0x014 => w32 t.tok
  | 0x018 => w32 t.tokLast
  | 0x01C => w32 (min t.tokPk 0xFFFF)
  | 0x028 => w32 (t.droop / 2)
  | 0x02C => w32 (t.landed.getD 0 0 % 256 + 2 ^ 8 * (t.landed.getD 1 0 % 256) + 2 ^ 16 * (t.landed.getD 2 0 % 256))
  | o => mget 0 t.ctr o

end Sys2Proof.Machine
end

