-- ==== Sys2Proof/Machine/Access.lean ====
section
/-! DEFINITION. Reading registers: rights, the values that hardware drives, banked views, tile views, latches
(00 R14 to R17, 16 R465, 17 R477 to R494, 18 R514 to R517). -/

namespace Sys2Proof.Machine

/-- The access sets (16 Table 16.5). -/
inductive AccSet | n | o | os | i
  deriving DecidableEq, Repr

/-- The access set in force (16 Table 16.4). -/
def accSet (s : State) : AccSet :=
  match s.level, s.isSealed with
  | .none, _ => .n
  | .observe, false => .o
  | .observe, true => .os
  | .intrusive, _ => .i

def levelCode : DbgLevel → Nat | .none => 0 | .observe => 1 | .intrusive => 2
def runCode : RunSt → Nat | .off => 0 | .boot => 1 | .ready => 2 | .run => 3 | .halt => 4 | .fault => 5
def stageCode : Stage → Nat
  | .waiting => 0 | .verifying => 1 | .running => 2 | .sequencing => 3 | .paused => 4 | .clockSetup => 5
  | .selfTest => 6 | .done => 7
def scrubCode : Scrub → Nat | .none => 0 | .running => 1 | .done => 2 | .failed => 3

/-- The self-test phase of MID_STATE[11:8]: phases 1 to 5, then 7, each for its time of R415 (DESIGN CHOICE: Table 14.3 calls the times
typical). -/
def testPhase (s : State) : Nat :=
  if s.stage ≠ .selfTest || s.run ≠ .boot then 0
  else
    let n := (([2500, 14500, 18500, 21500, 36500] : List Nat).filter fun ms => s.testAt + 1000000 * ms ≤ s.now).length
    if n = 5 then 7 else n + 1

/-- MID_STATE (14 Table 14.8). -/
def midState (s : State) : W32 :=
  w32 (runCode s.run + 2 ^ 4 * stageCode s.stage + 2 ^ 8 * testPhase s + 2 ^ 16 * (s.image.isSome && !s.loading).toNat
    + 2 ^ 17 * s.loading.toNat)

/-- The configuration version in force, shown on every page (17 R477, R483). -/
def cfgVer (s : State) : W32 := s.ver
def stagingVer (s : State) : W32 := reg s .cfg (if s.activeB then 0x050 else 0x054)

/-- Is a rollback available (17 R485)? -/
def rollbackOk (s : State) : Bool := stagingVer s ≠ 0 && !s.touched && s.pendCfg.isNone

/-- The bit of CFG_VIEW of a requester (17 Table 17.7); the SMBus endpoint has the host's rights (19 R540). -/
def viewBit : Req → Nat | .host => 0 | .smbus => 0 | .m0 => 1 | .m1 => 2 | .dbgacc => 3
def activeView (s : State) (rq : Req) : Bool := bitOf (reg s .cfg 0x05C) (viewBit rq)

/-- The bank a requester reads (17 R482). -/
def bankFor (s : State) (rq : Req) : SMap W32 := if activeView s rq then activeBank s else stagingBank s

/-- The key behind a banked register: an indirect one is selected by its select register. -/
def bankKey (s : State) (pg : Page) (o : Nat) : Nat :=
  match pg with
  | .evc => if o = 0x048 then routeKey (fld (reg s .evc 0x044).toNat 9 0) else pageBase pg + o
  | .rdc =>
    let n := fld (reg s .rdc 0x220).toNat 9 0
    if o = 0x224 then peerW0Key n else if o = 0x228 then peerW1Key n else pageBase pg + o
  | _ => pageBase pg + o

/-- A fitted port has both its link keys (16 Table 16.8). -/
def bothKeys (s : State) (p : Nat) : Bool := (mfind s.linkKeys (2 * p)).isSome && (mfind s.linkKeys (2 * p + 1)).isSome

/-- Is a port Active: up, with a learned neighbour and, in Sealed, with both its keys (11 Table 11.6, 16 R463)? -/
def portActive (s : State) (p : Die) : Bool :=
  (linkSt s p).portUp && (linkSt s p).nbrIv ≠ 0 && (!s.isSealed || bothKeys s p.val)

/-- The state field of LNK_STS (11 Table 11.6). -/
def setLnkState (p : Die) (v : Nat) (s : State) : State := setBits (.lnk p) 0x040 2 0 v s

/-- LNK_STS of every port that is up and whose link is on it and not held down: Active, or Up. -/
def showActive (s : State) : State :=
  forAll ((fittedPorts s.code).filter fun p => (linkSt s p).portUp && !(linkSt s p).onAlt && !(linkSt s p).heldDown)
    (fun p s => setLnkState p (if portActive s p then 3 else 2) s) s

def secState (s : State) : W32 :=
  w32 (s.isSealed.toNat + 2 ^ 4 * scrubCode s.scrub + 2 ^ 8 * (s.refusal % 16))

def secKeys (s : State) : W32 :=
  if !sjuFitted s.code then 0 else
  w32 (((List.range 16).map fun p => (bothKeys s p).toNat * 2 ^ p).foldl (· + ·) 0
    + 2 ^ 30 * s.ide.isSome.toNat + 2 ^ 31 * s.hbmKey.isSome.toNat)

/-- The perturbation registers of the DBG page (16 Table 16.9). -/
def prtRegs : List Nat := [0x050, 0x054, 0x058, 0x05C, 0x060, 0x064, 0x068, 0x06C]

/-- Is any perturbation enabled (16 Table 16.9)? -/
def anyPrt (s : State) : Bool := prtRegs.any fun o => bitOf (reg s .dbg o) 31

/-- PEER_W2 and PEER_W3 of the selected entry (11 Table 11.7); the time since the last HELLO stands at its reset value until
a HELLO has come (DEDUCED, log). -/
def peerWord (s : State) (o n : Nat) : W32 :=
  let p := mget PeerSt.blank s.peers n
  if o = 0x22C then
    w32 ((if p.hello = 0 then 0 else min ((s.now - p.hello) / 1000) 0xFFFF) + 2 ^ 16 * min p.rtt 0xFFFF)
  else w32 (p.flags % 8 + 2 ^ 16 * (p.epoch % 2 ^ 16))

/-- RDC_CHSTS and RDC_CHHOLD of the selected channel (10 Table 10.11); the open reductions are those of the window of R308
that have begun (DEDUCED). -/
def chanWord (s : State) (o n : Nat) : W32 :=
  let c := mget (⟨false, false, false, 0, 0, false, 0⟩ : ChanSt) s.rdc.chans n
  let w := (s.rdc.plan.bind fun p => p.chans.find? fun c => c.num = n).elim 0 (·.openN)
  let openN := (s.rdc.reds.filter fun e => e.1 / 2 ^ 16 = n && decide (c.lowest ≤ e.1 % 2 ^ 16) &&
    decide (e.1 % 2 ^ 16 < c.lowest + w) && e.2.adds.any fun a => !a.2.complete && !(a.2.taken.isEmpty && a.2.held.isEmpty)).length
  if o = 0x044 then
    w32 (c.lowest % 2 ^ 16 + 2 ^ 16 * (c.h % 256) + 2 ^ 24 * min openN 15 + 2 ^ 28 * c.takeover.toNat
      + 2 ^ 29 * (mget RedSt.blank s.rdc.reds (2 ^ 16 * n + c.lowest)).widened.toNat
      + 2 ^ 30 * c.holding.toNat + 2 ^ 31 * c.stopped.toNat)
  else match (s.rdc.reds.filter fun e => e.1 / 2 ^ 16 = n).flatMap fun e => e.2.adds.filterMap fun a => a.2.holding.map fun x => (e.1, x) with
    | (k, x) :: _ => w32 (x % 2 ^ 16 + 2 ^ 16 * (k % 2 ^ 16))
    | [] => 0

/-- A tile selector's tile: image coordinates if it is an image tile, its physical position and kind; whether the
selection is valid (17 R491). -/
structure Sel where
  valid : Bool
  kind : Nat
  x : Nat
  y : Nat
  u : Nat
  v : Nat
  deriving DecidableEq, Repr

def selection (s : State) (n : Nat) : Sel :=
  let r := (reg s .twc (0x040 + 4 * n)).toNat
  let a := fld r 7 0
  let b := fld r 15 8
  let xy : Option (Nat × Nat) :=
    if r.testBit 31 then (if a < waferX && b < waferY then some (a, b) else none)
    else if inImage s a b then (match placeOk s with | some p => imagePhys s.geo p a b | none => none)
    else none
  match xy with
  | none => ⟨false, 0, 0, 0, 0, 0⟩
  | some (x, y) =>
    let k := physKind s x y
    ⟨!(k.1 = 4 || k.1 = 5) && (fieldSt s (fieldAt x y)).on, k.1, x, y, k.2.1, k.2.2⟩

def selWord (s : State) (n : Nat) : W32 :=
  let e := selection s n
  w32 (e.x % 256 + 2 ^ 8 * (e.y % 256) + 2 ^ 16 * e.kind + 2 ^ 31 * e.valid.toNat)

/-- A bitmap of the fields with a property (13 R404). -/
def fieldBits (s : State) (p : FieldSt → Bool) : Nat :=
  (allFields.filter fun f => p (fieldSt s f)).foldl (fun a f => a + 2 ^ f.val) 0

/-- FLD_STS (17 Table 17.10). -/
def fldSts (s : State) (f : Field) : W32 :=
  let x := fieldSt s f
  let k := if x.tripped then 4 else if x.lost then 3
    else if f.val % 8 ∈ s.geo.fcols || f.val / 8 ∈ s.geo.frows then 2 else 0
  w32 (k + 2 ^ 16 * (s.geo.rows.filter fun y => y / 28 = f.val / 8).length)

/-- The word whose bit n is `p n`. -/
def bitmap (p : Nat → Bool) : W32 := (List.range 32).foldl (fun w n => setBit w n (p n)) 0

/-- Is a rail that the carrier supplies good (13 R379)? Every rail is lost after a trip (14 Table 14.7). -/
def railGood (s : State) (d : Die) (r : Rail) : Bool := s.run ≠ .off && !s.tripLatched && !decide ((d, r) ∈ s.railLost)

/-- PWR_RAILS (13 Table 13.6): VLINK and VHBMIF of a die share a bit. -/
def pwrRails (s : State) : W32 :=
  bitmap fun n => if n < 16 then railGood s (Fin.ofNat 16 n) .hbm
    else railGood s (Fin.ofNat 16 n) .vlink && railGood s (Fin.ofNat 16 n) .vhbmif

/-- CLK_STS: root lock and tree need F27, which holds the root PLL (13 R395, R407). -/
def clkSts (s : State) : W32 :=
  let on := (fieldSt s 27).on
  w32 (s.host.refclk.toNat + 2 * (on && s.clk.locked).toNat + 4 * (on && s.clk.cand.isSome).toNat + 8 * s.clk.rebuilt.toNat
    + 2 ^ 8 * s.clk.cand.getD 0)

/-- Does a clock domain run (13 R399, R407, Table 13.4, 19 R529)? -/
def domainRuns (s : State) (n : Nat) : Bool :=
  s.run ≠ .off &&
    (if n = 0 then bitOf (clkSts s) 1 && bitOf (clkSts s) 2
      else if n < 17 then true
      else if n < 81 then (n - 17) % 4 < codeStacks s.code && railGood s (Fin.ofNat 16 ((n - 17) / 4)) .vhbmif
      else if n < 97 then portFitted s.code (Fin.ofNat 16 (n - 81)) && railGood s (Fin.ofNat 16 (n - 81)) .vlink
      else if n < 100 then true
      else n = 100 && (match s.jtag.tck with | some t => s.now ≤ t + 10000 | none => false))

/-- CLK_DOM0 to CLK_DOM3 (13 R407). -/
def clkDom (s : State) (k : Nat) : W32 := bitmap fun i => domainRuns s (32 * k + i)

/-- Values that hardware drives: `none` where the register is a stored one. -/
def liveValue (s : State) (pg : Page) (o : Nat) : Option W32 :=
  if o = 0x020 then some (cfgVer s)
  else match pg, o with
  | .mid, 0x040 => some 0x0D7A0056
  | .mid, 0x044 => some s.silicon
  | .mid, 0x048 => some (loW s.serial.toNat)
  | .mid, 0x04C => some (hiW s.serial.toNat)
  | .mid, 0x050 => some s.mfg
  | .mid, 0x080 => some (midState s)
  | .plc, 0x048 =>
    if s.run = .halt && fld (reg s .asq 0x0A8).toNat 3 0 = 3 then some (setFld (reg s .plc 0x048) 1 0 1) else none
  | .cbg, 0x064 => some (if s.now < s.qEnd then 0x80000000 else reg s .cbg 0x064)
  | .cap, 0x040 => some (w32 ((sjuFitted s.code).toNat + 2 ^ 3 * codePorts s.code + 2 ^ 8 * (16 * codeStacks s.code)
      + 2 ^ 16 * codeFields s.code))
  | .cap, 0x050 => some (w32 ((minShape s.code).1 + 2 ^ 16 * (minShape s.code).2))
  | .cfg, 0x040 => some (w32 (s.activeB.toNat + 2 * (rollbackOk s).toNat))
  | .evc, 0x04C =>
    let n := fld (reg s .evc 0x044).toNat 9 0
    let f := fastSlot s n
    some (w32 ((mget 0 s.evc.fired n).toNat + 2 ^ 16 * f.getD 0 + 2 ^ 30 * f.isSome.toNat
      + 2 ^ 31 * (bitOf (reg s .evc (0x100 + 4 * (n / 32))) (n % 32)).toNat))
  | .evc, 0x050 => some (w32 (s.evc.pinRaw % 256 + 2 ^ 8 * (s.evc.pinFilt % 256)))
  | .tmb, 0x040 => some (loW (nowW s))
  | .tmb, 0x044 => some (hiW (nowW s))
  | .tmb, 0x048 => some (loW (jtime s))
  | .tmb, 0x04C => some (hiW (jtime s))
  | .rdc, 0x23C => some (loW (unsgn 64 (joffNow s)))
  | .rdc, 0x240 => some (hiW (unsgn 64 (joffNow s)))
  | .pwr, 0x050 => some (loW (fieldBits s (·.on)))
  | .pwr, 0x054 => some (hiW (fieldBits s (·.on)))
  | .pwr, 0x058 => some (loW (fieldBits s fun x => x.tripped || x.failed))
  | .pwr, 0x05C => some (hiW (fieldBits s fun x => x.tripped || x.failed))
  | .pwr, 0x07C => some (pwrRails s)
  | .clk, 0x040 => some (clkSts s)
  | .clk, 0x044 => some (w32 (if s.clk.shown && s.clk.cand.isSome then s.clk.depth else 0))
  | .clk, 0x048 => some (w32 (if s.clk.shown then min s.clk.fail.length 0xFFFF else 0))
  | .clk, 0x04C => some (clkDom s 0)
  | .clk, 0x050 => some (clkDom s 1)
  | .clk, 0x054 => some (clkDom s 2)
  | .clk, 0x058 => some (clkDom s 3)
  | .fpw f, 0x040 => some (w32 ((fieldSt s f).set / 2))
  | .fld f, 0x040 => some (fldSts s f)
  | .sec, 0x040 => some (secState s)
  | .sec, 0x048 => some (secKeys s)
  | .sec, 0x04C => some (w32 (s.spdm.ver % 256 + 2 ^ 31 * (s.spdm.stage = 5 : Bool).toNat))
  | .dbg, 0x040 => some (w32 (levelCode s.level))
  | .dbg, 0x044 => some (w32 (levelCode s.level + 4 * (anyPrt s).toNat))
  | .rdc, 0x044 => some (chanWord s 0x044 (fld (reg s .rdc 0x040).toNat 15 0))
  | .rdc, 0x048 => some (chanWord s 0x048 (fld (reg s .rdc 0x040).toNat 15 0))
  | .rdc, 0x22C => some (peerWord s 0x22C (fld (reg s .rdc 0x220).toNat 9 0))
  | .rdc, 0x230 => some (peerWord s 0x230 (fld (reg s .rdc 0x220).toNat 9 0))
  | .rdc, 0x234 => some (w32 ((List.range 1024).filter fun n => bitOf (rget (activeBank s) (peerW1Key n)) 31).length)
  | .hbm _ _, 0x06C => some (w32 ((sjuFitted s.code).toNat + 2 * s.hbmKey.isSome.toNat))
  | .evc, o =>
    if inR o 0x180 0x1FC then some (reg s .evc (o - 0x80))
    else if inR o 0x200 0x27C then
      let e := mget (0, 0) s.evc.vecs ((o - 0x200) / 4)
      some (if e.1 = 0 then 0 else w32 (min ((s.now - e.2) / 1000) 0xFFFF + 2 ^ 16 * (e.1 % 256)))
    else none
  | .twc, o => if inR o 0x080 0x0BC then some (selWord s ((o - 0x080) / 4)) else none
  | _, _ => none

/-- The neighbour fields of PEER_W1, which are RO (11 Table 11.7). -/
def withNbr (s : State) (w : W32) : W32 :=
  let p := mget PeerSt.blank s.peers (fld (reg s .rdc 0x220).toNat 9 0)
  setFld (setBit w 30 p.nbr) 19 16 (if p.nbr then p.port else 0)

/-- The value of a page register for a requester, without the effects of reading it. -/
def readReg (s : State) (rq : Req) (pg : Page) (o : Nat) : W32 :=
  if !pageFitted s.code pg then 0
  else match regI pg o with
  | none => 0
  | some r =>
    match liveValue s pg o with
    | some v => v
    | none =>
      match r.acc with
      | .wo => 0
      | .rwb =>
        let w := rget (bankFor s rq) (bankKey s pg o)
        if pg = .rdc ∧ o = 0x228 then withNbr s w else w
      | _ => if o = 0x008 then setBit (reg s pg o) 2 (pg ∈ s.srst) else reg s pg o

/-! Latches (00 R15). -/

def latchOf (l : PerReq) : Req → Option (Nat × W32)
  | .host => l.host | .m0 => l.m0 | .m1 => l.m1 | .dbgacc => l.dbgacc | .smbus => l.smbus

def putLatch (rq : Req) (v : Option (Nat × W32)) (l : PerReq) : PerReq :=
  match rq with
  | .host => { l with host := v } | .m0 => { l with m0 := v } | .m1 => { l with m1 := v }
  | .dbgacc => { l with dbgacc := v } | .smbus => { l with smbus := v }

/-- A 32-bit read of a page register with its effects: value and state. -/
def readPage (rq : Req) (pg : Page) (o : Nat) (s : State) : W32 × State :=
  let k := pageBase pg + o
  if isLo pg o then
    (readReg s rq pg o, { s with rdLatch := putLatch rq (some (k, readReg s rq pg (o + 4))) s.rdLatch })
  else if isHi pg o then
    match latchOf s.rdLatch rq with
    | some (j, v) => if j = k - 4 then (v, s) else (readReg s rq pg o, s)
    | none => (readReg s rq pg o, s)
  else (readReg s rq pg o, s)

/-! Tile views (17 R491 to R494). -/

/-- The three kinds of offset in a view (Table 17.11). -/
inductive ViewKind | data | state | reserved
  deriving DecidableEq, Repr

def viewKind (o : Nat) : ViewKind :=
  if o < 0x188400 then .data
  else if 0x189000 ≤ o ∧ o < 0x18B400 then .data
  else if 0x18C000 ≤ o ∧ o < 0x18C200 then .state
  else if 0x18D000 ≤ o ∧ o < 0x18D100 then .state
  else if 0x190000 ≤ o ∧ o < 0x190BB8 then .state
  else .reserved

/-- Four bytes of a byte function as a word. -/
def word4 (f : Nat → Byte) : W32 := w32 (leNat [f 0, f 1, f 2, f 3])

/-- A byte of a tile's SRAM as the device holds it, its reserved rows included (02 R37): the polynomial table store in the last 4 KiB,
the Owl's ring and scratch before it, which hold zeros while no shadow, sample or table is there. `sec` is the image's polynomial
section. -/
def sramByte (sec : List Byte) (t : Tile) (a : Nat) : Byte :=
  if a < exposedBytes then mget 0 t.sram a
  else if 1568768 ≤ a then (if sec.isEmpty || t.poly = 0 then 0 else Config.polyStore sec t.poly (a - 1568768))
  else if t.shadow.isEmpty && t.owl.isNone then 0
  else Config.ringByte t.shadow ((t.owl.map (·.spent)).getD 0) (a - exposedBytes)

/-- The polynomial section of the loaded image. -/
def polySec (s : State) : List Byte := match s.image with | some i => i.polys | none => []

/-- The word at a view offset. -/
def viewWord (sec : List Byte) (t : Tile) (o : Nat) : W32 :=
  if o < 0x180000 then word4 fun i => sramByte sec t (o + i)
  else if o < 0x188000 then mget 0 t.acc ((o - 0x180000) / 4)
  else if o < 0x188400 then
    let bs := xaRaw (mget XaLane.blank t.xa ((o - 0x188000) / 128))
    word4 fun i => bs.getD ((o - 0x188000) % 128 + i) 0
  else if 0x189000 ≤ o ∧ o < 0x18A000 then mget 0 t.vu ((o - 0x189000) / 4)
  else if 0x18A000 ≤ o ∧ o < 0x18B000 then word4 fun i => mget 0 t.vreg (o - 0x18A000 + i)
  else if 0x18B000 ≤ o ∧ o < 0x18B400 then mget 0 t.thin ((o - 0x18B000) / 4)
  else if 0x18C000 ≤ o ∧ o < 0x18C200 then
    w32 (settWord (mget Sett.blank t.setts ((o - 0x18C000) / 16)) >>> (8 * ((o - 0x18C000) % 16)))
  else if 0x18D000 ≤ o ∧ o < 0x18D100 then statusWord t (o - 0x18D000)
  else if 0x190000 ≤ o ∧ o < 0x190BB8 then
    w32 (((List.range 32).map fun i =>
      (linePoisoned t (8 * (o - 0x190000) + i)).toNat * 2 ^ i).foldl (· + ·) 0)
  else 0

def selTile (s : State) (e : Sel) : Tile :=
  if e.kind = 0 then tile s e.u e.v else mget Tile.blank s.offTiles (192 * e.y + e.x)

def setSelTile (e : Sel) (t : Tile) (s : State) : State :=
  if e.kind = 0 then setTile e.u e.v t s else { s with offTiles := mput Tile.blank (192 * e.y + e.x) t s.offTiles }

/-- May a view be read (16 Tables 16.4 and 16.5)? -/
def viewAllowed (s : State) (o : Nat) : Bool :=
  match accSet s, viewKind o with
  | _, .reserved => true
  | .n, _ => false
  | .os, .data => false
  | _, _ => true

def reqIdx : Req → Nat | .host => 0 | .m0 => 1 | .m1 => 2 | .dbgacc => 3 | .smbus => 4

/-- First byte and words of the item a view offset latches whole (R493): a sett state word or an XA flag word. -/
def latchGroup (o : Nat) : Option (Nat × Nat) :=
  if 0x18C000 ≤ o ∧ o < 0x18C200 then some (o / 16 * 16, 4)
  else if 0x188000 ≤ o ∧ o < 0x188400 ∧ 72 ≤ (o - 0x188000) % 128 ∧ (o - 0x188000) % 128 < 80 then some (o / 8 * 8, 2)
  else none

/-- The latch key of a requester, a view and a group. -/
def viewKey (rq : Req) (n b : Nat) : Nat := 2 ^ 40 * reqIdx rq + 2 ^ 24 * n + b

/-- A tile-view read: value and state. -/
def readView (rq : Req) (n o : Nat) (s : State) : W32 × State :=
  if !viewAllowed s o then (0, denyDbg s)
  else if !pageEn s .twc then (0, s)
  else
    let e := selection s n
    if !e.valid || (s.run = .boot && s.level = .observe) then (0, s)
    else
      let t := selTile s e
      match latchGroup o with
      | none => (viewWord (polySec s) t o, s)
      | some (b, k) =>
        if o = b then
          let ws := (List.range k).map fun i => viewWord (polySec s) t (b + 4 * i)
          let rest := s.viewLatch.filter fun p => p.1 / 2 ^ 40 ≠ reqIdx rq
          (viewWord (polySec s) t o, { s with viewLatch := (viewKey rq n b, ws) :: rest })
        else match s.viewLatch.find? fun p => p.1 = viewKey rq n b with
          | some (_, ws) => (ws.getD ((o - b) / 4) 0, s)
          | none => (viewWord (polySec s) t o, s)

/-- The 32-bit read of any aligned BAR0 offset, with its effects: value and state. -/
def busRead (rq : Req) (off : Nat) (s : State) : W32 × State :=
  match spaceOf off with
  | .reg pg o => readPage rq pg o s
  | .sram o => if s.run = .boot && s.winOpen then (mget 0 s.sram (o / 4), s) else (0, s)
  | .view n o => readView rq n o s
  | .reserved => (0, s)

end Sys2Proof.Machine
end

