-- ==== Sys2Proof/Machine/Ledger.lean ====
section
/-! DEFINITION. The run ledger (17 R498 to R500): items, the PAD item, lost items. -/

namespace Sys2Proof.Machine

/-- RUN_TICK and the step number (06 Table 6.17). -/
def runTick (s : State) : Nat := reg64 s .asq 0x04C
def stepNo (s : State) : Nat := reg64 s .asq 0x058

/-- Step whose main program the array runs: the next one's, once the array has gone ahead (01 R28). -/
def arrStep (s : State) : Nat := s.asq.astep

/-- Bytes written and drained (17 Table 17.16). -/
def ldgWr (s : State) : Nat := reg64 s .hdm 0x15C
def ldgRd (s : State) : Nat := reg64 s .hdm 0x164

/-- Free bytes of a ring of `size` bytes. -/
def ldgFree (size : Nat) (s : State) : Nat := size - (ldgWr s - ldgRd s)

/-- The header of an item (17 Table 17.14). -/
def itemHeader (s : State) (step typ len : Nat) : List Byte :=
  natLE 2 typ ++ natLE 2 len ++ natLE 4 s.iseq ++ natLE 8 step ++ natLE 8 (jtime s) ++ natLE 8 (runTick s)

/-- Bytes of the PAD item that an item of `len` bytes needs before it, 0 when it fits before the ring's end. -/
def padLen (size len : Nat) (s : State) : Nat :=
  let off := ldgWr s % size
  if off + len > size then size - off else 0

/-- Does an item of `len` bytes fit in the free space, with its PAD? -/
def itemFits (size len : Nat) (s : State) : Bool := size ≠ 0 && padLen size len s + len ≤ ldgFree size s

/-- Write the PAD item, if one is needed: its header, over the rest of the ring (R499). -/
def writePad (base size len : Nat) (s : State) : State :=
  let p := padLen size len s
  if p = 0 then s
  else setReg64 .hdm 0x15C (ldgWr s + p) (hbmWrite (base + ldgWr s % size) (itemHeader s (stepNo s) 0 p) s)

/-- Write an item of a step, one that fits. -/
def writeItem (base size step typ : Nat) (body : List Byte) (s : State) : State :=
  let len := 32 + body.length
  let s := writePad base size len s
  let s := hbmWrite (base + ldgWr s % size) (itemHeader s step typ len ++ body) s
  setReg64 .hdm 0x15C (ldgWr s + len) { s with
    iseq := s.iseq + 1
    stepItems := s.stepItems + (decide (step ≤ stepNo s)).toNat, aheadItems := s.aheadItems + (decide (stepNo s < step)).toNat }

/-- Lose an item (R500). A lost item takes its item number (DEDUCED from the LOST item's first lost ISEQ). -/
def loseItem (s : State) : State :=
  let s := setErr .hdm 3 (bump .hdm 0x16C s)
  { s with iseq := s.iseq + 1, stepLost := s.stepLost + 1, lostN := s.lostN + 1,
           lostFirst := if s.lostN = 0 then s.iseq else s.lostFirst }

/-- The LOST item, written once space returns (R500). -/
def writeLost (s : State) : State :=
  match s.ledger with
  | none => s
  | some (base, size) =>
    if s.lostN ≠ 0 && itemFits size 64 s then
      let s' := writeItem base size (stepNo s) 0x000C (natLE 4 s.lostN ++ natLE 4 s.lostFirst ++ zeros 24) s
      { s' with lostN := 0 }
    else s

/-- A ledger item of a step with its body (R498, R499): written, lost, or, before the first ring, not produced. -/
def ledgerItemOf (step typ : Nat) (body : List Byte) (s : State) : State :=
  match s.ledger with
  | none => s
  | some (base, size) =>
    let s := writeLost s
    if itemFits size (32 + body.length) s then writeItem base size step typ body s else loseItem s

/-- A ledger item of the step in progress. -/
def ledgerItem (typ : Nat) (body : List Byte) (s : State) : State := ledgerItemOf (stepNo s) typ body s

/-- A ledger item of the step that the array runs (01 R28, 04 R120). -/
def arrItem (typ : Nat) (body : List Byte) (s : State) : State := ledgerItemOf (arrStep s) typ body s

end Sys2Proof.Machine
end

