-- ==== Sys2Proof/Machine/Writes.lean ====
section
/-! DEFINITION. Writing registers by their access codes, banked writes and the two halves of 64-bit registers
(00 R14 to R17, 17 R480 to R483). -/

namespace Sys2Proof.Machine

/-- The content of the staging bank changes: its version becomes 0 (17 R481). -/
def clearStagingVer (s : State) : State :=
  setReg .cfg (if s.activeB then 0x050 else 0x054) 0 { s with touched := true }

/-- A banked write reaches the staging bank unless the requester views the active bank or a CFG command is pending
(17 R482, R483). -/
def bankWrite (rq : Req) (pg : Page) (o : Nat) (v m : W32) (s : State) : State :=
  if activeView s rq || s.pendCfg.isSome then setAcc pg s
  else
    let k := bankKey s pg o
    clearStagingVer (setStaging k (maskWrite (rget (stagingBank s) k) v m) s)

/-- A 32-bit write under the access codes (00 Table 0.4); write-only registers store nothing. -/
def plainWrite (rq : Req) (pg : Page) (o : Nat) (v : W32) (s : State) : State :=
  if !pageFitted s.code pg then s
  else match regI pg o with
  | none => s
  | some r =>
    match r.acc with
    | .ro => s
    | .wo => s
    | .rw => setReg pg o (maskWrite (reg s pg o) v r.mask) s
    | .w1c => setReg pg o (reg s pg o &&& ~~~(v &&& r.mask)) s
    | .w1s => setReg pg (o - 0x80) (reg s pg (o - 0x80) ||| v) s
    | .rwb => bankWrite rq pg o v r.mask s

/-- Hold the lower half of a 64-bit register (00 R15). -/
def holdLow (rq : Req) (pg : Page) (o : Nat) (v : W32) (s : State) : State :=
  { s with wrHeld := putLatch rq (some (pageBase pg + o, v)) s.wrHeld }

/-- The held lower half that belongs to the register at `o`, if the requester holds it. -/
def heldFor (s : State) (rq : Req) (pg : Page) (o : Nat) : Option W32 :=
  match latchOf s.wrHeld rq with
  | some (k, v) => if k = pageBase pg + o then some v else none
  | none => none

/-- Every write to an upper half clears the requester's held write. -/
def dropHeld (rq : Req) (s : State) : State := { s with wrHeld := putLatch rq none s.wrHeld }

/-- Write the upper half at `o + 4`, with the held lower half of the register at `o` if there is one (00 R15). -/
def applyHigh (rq : Req) (pg : Page) (o : Nat) (v : W32) (s : State) : State :=
  let s1 := match heldFor s rq pg o with
    | some lo => plainWrite rq pg o lo s
    | none => s
  dropHeld rq (plainWrite rq pg (o + 4) v s1)

/-- The 64-bit value that an upper-half write would give a stored register. -/
def pairValue (s : State) (rq : Req) (pg : Page) (o : Nat) (hi : W32) : Nat :=
  let lo := match heldFor s rq pg o with | some w => w | none => reg s pg o
  lo.toNat + 2 ^ 32 * hi.toNat

/-- ACC_ERR of the page that an offset concerns: the views belong to TWC, the SRAM window to MID (14 R410). A reserved
range and an absent page set nothing (17 R474, 00 R5). -/
def accErrAt (off : Nat) (s : State) : State :=
  match spaceOf off with
  | .reg pg _ => if pageFitted s.code pg then setAcc pg s else s
  | .sram _ => setAcc .mid s
  | .view _ _ => setAcc .twc s
  | .reserved => s

/-- ERR_INJ (00 R22): each written bit's error occurs. A bit that the page does not define (FLD defines none) acts as the others do:
its ERR_STS bit is set and the event at EVT_MAP + n fires (DESIGN CHOICE). -/
def injectErrs (pg : Page) (v : W32) (s : State) : State :=
  let s := forAll ((List.range 31).filter fun n => bitOf v n) (fun n s => setErr pg n s) s
  if bitOf v 31 then setAcc pg s else s

end Sys2Proof.Machine
end

