-- ==== Sys2Proof/Machine/Cfg.lean ====
section
/-! DEFINITION. Configuration banks: the checks, COMMIT, ROLLBACK and COPY (17 R480 to R488), and the rights of a
requester's write. -/

namespace Sys2Proof.Machine

/-- A write by a requester: in Off nothing answers; JTAG DBGACC writes only in access set I (16 Table 16.5). -/
def barWrite (rq : Req) (f : State → State) (s : State) : State :=
  if !powered s then s
  else if rq = .dbgacc ∧ accSet s ≠ .i then denyDbg s
  else f s

/-- A read by a requester: JTAG DBGACC reads in every set but N. -/
def barRead (rq : Req) (f : State → State) (s : State) : State :=
  if !powered s then s
  else if rq = .dbgacc ∧ accSet s = .n then denyDbg s
  else f s

/-- The first offset of a list that fails a test. -/
def firstBad (l : List Nat) (bad : Nat → Bool) : Option Nat := l.find? bad

/-- The fast entries of a bank (18 R511). -/
def tooManyFast (b : SMap W32) : Bool := 16 < (fastSources b).length

/-- Code 0x01: fields outside their range, by rising BAR0 offset (Table 17.5, 18 R512, Table 18.5). -/
def cfgRange (c : OrdCode) (b : SMap W32) : Option Nat :=
  let v (k : Nat) : Nat := (rget b k).toNat
  let glob : List (Nat × Bool) :=
    [(0x2060, decide (fld (v 0x2060) 1 0 = 3)), (0x3048, tooManyFast b),
     (0x3054, (List.range 8).any fun n => decide (fld (v 0x3054) (2 * n + 1) (2 * n) = 3))]
    ++ (List.range 8).map (fun n => (0x3058 + 4 * n, decide (fld (v (0x3058 + 4 * n)) 15 0 = 0)))
    ++ (List.range 32).map (fun n =>
        let w := v (0x3080 + 4 * n)
        (0x3080 + 4 * n, decide (fld w 23 16 = 0 ∨ fld w 15 0 = 0)))
    ++ [(0xA14C, decide (4096 < fld (v 0xA14C) 12 0)),
        (0xE21C, let w := fld (v 0xE21C) 6 0; decide (w = 0 ∨ 100 < w))]
  let die : List (Nat × Bool) := (dies.map fun e =>
      ((List.finRange 4).filter (fun n => pageFitted c (.hbm e n))).map (fun n =>
        let k := pageBase (.hbm e n) + 0x05C
        (k, decide (168 < fld (v k) 7 0)))
      ++ (if portFitted c e then
            [let k := pageBase (.lnk e) + 0x044; (k, decide (fld (v k) 15 8 = 0))] else [])).flatten
  ((glob ++ die).find? fun p => p.2).map (·.1)

/-- The valid peer entries of a bank (11 Table 11.7). -/
def validPeers (b : SMap W32) : List Nat := (List.range 1024).filter fun n => bitOf (rget b (peerW1Key n)) 31

/-- Code 0x02: two members share a module ID (R355). -/
def cfgDup (b : SMap W32) : Option Nat :=
  let ids := (validPeers b).map fun n => fld (rget b (peerW0Key n)).toNat 31 16
  let own := fld (rget b 0xE200).toNat 15 0
  if own ∈ ids || !ids.Nodup then some 0xE224 else none

/-- Codes 0x03 and 0x04: routes and alternate paths (R355). -/
def cfgAbsent (c : OrdCode) (b : SMap W32) : Option Nat :=
  if (validPeers b).any fun n =>
      let w := rget b (peerW1Key n)
      !bitOf w 4 && !portFitted c (Fin.ofNat 16 (fld w.toNat 3 0)) then some 0xE228
  else ((fittedPorts c).find? fun e =>
      let w := rget b (pageBase (.lnk e) + 0x044)
      bitOf w 27 && !portFitted c (Fin.ofNat 16 (fld w.toNat 31 28))).map fun e => pageBase (.lnk e) + 0x044

def cfgSelfAlt (c : OrdCode) (b : SMap W32) : Option Nat :=
  ((fittedPorts c).find? fun e =>
      let w := rget b (pageBase (.lnk e) + 0x044)
      bitOf w 27 && fld w.toNat 31 28 = e.val).map fun e => pageBase (.lnk e) + 0x044

/-- The checks of R484 step 2: code and offset of the first register that fails the lowest code. -/
def cfgCheck (c : OrdCode) (b : SMap W32) : Option (Nat × Nat) :=
  match cfgRange c b with
  | some o => some (1, o)
  | none => match cfgDup b with
    | some o => some (2, o)
    | none => match cfgAbsent c b with
      | some o => some (3, o)
      | none => match cfgSelfAlt c b with
        | some o => some (4, o)
        | none => none

/-- A CFG command code. -/
def cfgCode : CfgOp → Nat | .commit => 1 | .rollback => 2

/-- CFG_STS with done and a result; CFG_DONE fires (Table 17.7, 18 Table 18.1). -/
def cfgDone (cmd code : Nat) (s : State) : State :=
  fire 15 (setReg .cfg 0x048 (w32 (2 ^ 31 * s.pendCfg.isSome.toNat + 2 ^ 30 + cmd * 256 + code)) s)

/-- A refused command: REFUSED, the code, and for step 2 the register. -/
def cfgRefuse (cmd code : Nat) (o : Option Nat) (s : State) : State :=
  let s := match o with | some k => setReg .cfg 0x04C (w32 k) s | none => s
  setErr .cfg 0 (cfgDone cmd code s)

/-- The CONFIG ledger item (17 Table 17.15). -/
def configItem (cmd : Nat) (s : State) : State :=
  ledgerItem 0x000A (natLE 1 cmd ++ zeros 3 ++ natLE 4 (cfgVer s).toNat ++ zeros 24) s

/-- New limits apply to the firings already counted (18 R515). -/
def vecRecheck (s : State) : State :=
  forAll (List.range 32) (fun n s =>
    let e := mget (0, 0) s.evc.vecs n
    let c := (vecCtl s n).toNat
    if e.1 ≠ 0 && (fld c 23 16 ≤ e.1 || fld c 15 0 * 1000 ≤ s.now - e.2) then vectorFire n s else s) s

/-- Is a bank key one of the LNK pages? -/
def isLnkKey (k : Nat) : Bool := dies.any fun e => pageBase (.lnk e) ≤ k && k < pageBase (.lnk e) + 0x1000

/-- The LNK values of the active bank take effect, and no other. -/
def takeLnk (s : State) : State :=
  let old := s.stepBank.filter fun e => !isLnkKey e.1
  let new := (activeBank s).filter fun e => isLnkKey e.1
  { s with stepBank := new.foldl (fun (m : SMap W32) (e : Nat × W32) => rput e.1 e.2 m) old }

/-- The epoch that a commit has made pending: the active bank's, until the switch (11 R356). -/
def epochNext (s : State) : Nat := fld (cfgv s .rdc 0x204).toNat 15 0

/-- The RDC and LNK values take effect, and with them the epoch. -/
def takeEpoch (s : State) : State := setReg .rdc 0x208 (w32 (epochNext s)) { s with stepBank := activeBank s }

/-- RDC and LNK values take effect: at the commit outside Run, else at the next step boundary (Table 17.6). With an image a change of
epoch waits for that boundary, where the new plan is checked (11 R356; DEDUCED: Table 17.6 has the commit outside Run). -/
def takeStepBank (s : State) : State :=
  if s.image.isSome && w32 (epochNext s) ≠ reg s .rdc 0x208 then takeLnk s else takeEpoch s

/-- A pending COMMIT or ROLLBACK takes effect (R483, R485). -/
def applyCfg (s : State) : State :=
  match s.pendCfg with
  | none => s
  | some op =>
    let ver := match op with
      | .commit => (reg s .cfg 0x058).toNat + 1
      | .rollback => (stagingVer s).toNat
    let s := { s with activeB := !s.activeB, touched := false, pendCfg := none, ver := w32 ver }
    let s := setReg .cfg (if s.activeB then 0x054 else 0x050) (w32 ver) s
    let s := match op with | .commit => setReg .cfg 0x058 (w32 ver) s | .rollback => s
    let s := if s.run = .run then s else takeStepBank s
    vecRecheck (configItem (cfgCode op) (cfgDone (cfgCode op) 0 s))

/-- A COMMIT or ROLLBACK is accepted: pending until the tick boundary in Run and until a LOAD ends, else at once. -/
def cfgAccept (op : CfgOp) (s : State) : State :=
  let s := bump .cfg 0x064 { s with pendCfg := some op }
  let s := setReg .cfg 0x048 (w32 (2 ^ 31 + cfgCode op * 256)) s
  if s.run = .run || s.busy = some .load then s else applyCfg s

def cfgCommit (s : State) : State :=
  if s.pendCfg.isSome then cfgRefuse 1 5 none s
  else match cfgCheck s.code (stagingBank s) with
    | some (c, o) => cfgRefuse 1 c (some o) s
    | none => cfgAccept .commit s

def cfgRollback (s : State) : State :=
  if s.pendCfg.isSome then cfgRefuse 2 5 none s
  else if !rollbackOk s then cfgRefuse 2 6 none s
  else match cfgCheck s.code (stagingBank s) with
    | some (c, o) => cfgRefuse 2 c (some o) s
    | none => cfgAccept .rollback s

/-- COPY (R486), complete at once. -/
def cfgCopy (s : State) : State :=
  if s.pendCfg.isSome then cfgRefuse 3 5 none s
  else
    let s := if s.activeB then { s with bankA := s.bankB } else { s with bankB := s.bankA }
    configItem 3 (cfgDone 3 0 (clearStagingVer s))

/-- RWB_WRITE (17 R480, R482): an offset that holds no RWB register is not this command's and is left alone. -/
def rwbWrite (rq : Req) (off : Nat) (v : W32) (s : State) : State :=
  match spaceOf off with
  | .reg pg o =>
    (match regI pg o with
     | some r => if r.acc = .rwb && pageFitted s.code pg then
         (if isLo pg o then holdLow rq pg o v s
          else if isHi pg o then applyHigh rq pg (o - 4) v s
          else bankWrite rq pg o v r.mask s) else s
     | none => s)
  | _ => s

def execRwbWrite (rq : Req) (off : Nat) (v : W32) (s : State) : Res :=
  if 0x4000000 ≤ off then .fault .outsideBar else .next (barWrite rq (rwbWrite rq off v) s)

end Sys2Proof.Machine
end

