-- ==== Sys2Proof/Machine/Faults.lean ====
section
/-! DEFINITION. Faults: contract faults, tile faults, module faults and trips, their records and the state each leaves
(06 R188 to R191, 13 R377, R403, 15 R428 to R450). -/

namespace Sys2Proof.Machine

/-- The FAULT ledger item (17 Table 17.15): class by its row of 15 Table 15.1, rows counted from 0 (DESIGN CHOICE). -/
def faultItem (cls cause : Nat) (sus : List (Nat × Nat)) (s : State) : State :=
  let sus := sus.take 16
  ledgerItem 0x0008 (natLE 1 cls ++ natLE 1 cause ++ natLE 1 sus.length ++ zeros 1 ++ natLE 8 (stepNo s)
    ++ (sus.map fun p => natLE 2 p.1 ++ natLE 2 p.2).flatten ++ zeros (4 * (16 - sus.length)) ++ zeros 20) s

/-- The FAULT item of a class for which no table gives cause codes: its cause byte is free. -/
def uncodedFault (cls : Nat) (s : State) : State := faultItem cls ((Config.freeWord s.fc).toNat % 256) [] (freshFree s)

/-- REC_STS[3:0] changes; REC fires (18 Table 18.1). -/
def setRec (v : Nat) (s : State) : State :=
  if fld (reg s .asq 0x0A8).toNat 3 0 = v then s else fire 25 (setBits .asq 0x0A8 3 0 v s)

def recState (s : State) : Nat := fld (reg s .asq 0x0A8).toNat 3 0

/-- Is FAULT_CAUSE valid? -/
def faultValid (s : State) : Bool := bitOf (reg s .asq 0x068) 31

/-- Record the first contract fault or Fault in FAULT_CAUSE, FAULT_TILE, FAULT_TICK and FAULT_DETAIL (R188). -/
def recordCause (cause u v detail : Nat) (s : State) : State :=
  if faultValid s then s
  else
    let s := setReg .asq 0x068 (w32 (2 ^ 31 + cause)) s
    let s := setReg .asq 0x06C (w32 (u % 2 ^ 16 + 2 ^ 16 * v)) s
    setReg .asq 0x078 (w32 detail) (setReg64 .asq 0x070 (runTick s) s)

/-- The code of a BUSY command (14 Table 14.4). -/
def midCode : MidOp → Nat | .load => 4 | .halt => 6 | .resume => 7 | .arrayReset => 9

/-- What step 2 of a scrub leaves of a tile: every memory zero, every exposed line poisoned, scale records and shadows
gone; setts, positions and counters stay (16 R458). -/
def scrubTile (t : Tile) : Tile :=
  { t with sram := [], live := [], shadow := [], acc := [], accSat := [], vreg := [],
           vfmt := 0, vscale := 0x3F800000, vexp := [], thin := [],
           thinSat := false, vu := [], vmask := [], vsat := [], xa := [], ops := [], amax := [], owl := none, supd := [], trig := [],
           bulk := [], ctl := [], rxq := [], fsIn := [], comb := [], vsh := [], dep := [], poly := 0 }

def scrubTiles (s : State) : State :=
  { s with
    tiles := mmap Tile.blank scrubTile s.tiles
    offTiles := []
    image := s.image.map fun i => { i with scales := i.scales.map fun r => { r with m := r.m.map fun _ => 0 } } }

/-- Every stage-1 converter is off. -/
def fieldsOff (s : State) : State :=
  { s with fields := mmap FieldSt.blank (fun x => { x with on := false, ramping := false }) s.fields
           fcmdBusy := none }

/-- Every link port is down. -/
def linksDown (s : State) : State :=
  forAll ((fittedPorts s.code).filter fun p => pageEn s (.lnk p)) (fun p s =>
    setBits (.lnk p) 0x040 2 0 5 (setLink p { linkSt s p with portUp := false, upAll := false, openB := none, openC := none } s)) s

/-- The sealed-job keys are erased (16 Table 16.1). -/
def eraseKeys (s : State) : State :=
  let s := sealRegions true s
  showActive { s with hbmKey := none, linkKeys := [],
                      links := mmap LinkSt.blank (fun x => { x with txCtr := 0, rxCtr := 0 }) s.links }

/-- A running scrub stops and fails (16 R459). -/
def failScrub (s : State) : State :=
  if s.scrub = .running then fire 26 (setErr .sec 1 { s with scrub := .failed, scrubFor := none }) else s

/-- The latches of a trip: its time, THERMTRIP_OUT_N, and the store's contents, which lose their refresh. -/
def latchTrip (s : State) : State :=
  { s with tripAt := if s.tripLatched then s.tripAt else s.now, tripLatched := true,
           host := { s.host with tripOutN := false }, hbm := [], poison := [], cipher := [] }

/-- Is a cause of a trip too late to be recorded, or recorded already (13 R403)? -/
def tripPast (bit : Nat) (s : State) : Bool :=
  s.run = .off || (s.tripLatched && (decide (s.tripAt + 2000 < s.now) || bitOf (reg s .pwr 0x080) bit))

/-- What a trip latches (13 R377, R403): `bit` of TRIP_CAUSE, error bit `eb` of page `pg`, every converter off, HBM lost (14
Table 14.7). Causes within 2 µs of the first are recorded. -/
def tripMarks (bit : Nat) (pg : Page) (eb : Nat) (s : State) : State :=
  if tripPast bit s then s
  else
    let s := setErr .pwr 7 (setErr pg eb (setReg .pwr 0x080 (setBit (reg s .pwr 0x080) bit true) s))
    let s := failScrub (linksDown (fieldsOff s))
    latchTrip (if s.isSealed then eraseKeys s else s)

/-- LEAK_N filtered-asserted with LEAK_TRIP set, and THERMTRIP_IN_N filtered-asserted, trip the module (13 R403). -/
def pinMarks (s : State) : State :=
  let s := if !s.evc.pinFilt.testBit 0 && bitOf (cfgv s .pwr 0x078) 0 then tripMarks 6 .thm 6 s else s
  if !s.evc.pinFilt.testBit 1 then tripMarks 5 .thm 5 s else s

/-- A die as an image leaves it: its edge-DMA queues, its scrub and its ring go on. -/
def loadedDie (x : DieSt) : DieSt :=
  { DieSt.blank with dma := x.dma, ringFail := x.ringFail, ceRate := x.ceRate, scrubAt := x.scrubAt }

/-- No image is loaded: placement, tile state, the key and the programs' state are gone. -/
def dropData (s : State) : State :=
  let s := sealRegions true s
  let s := { s with image := none, place := none, tiles := [], offTiles := [], asq := Asq.reset, loading := false,
                    rdc := Rdc.reset, stageSt := [], state3 := none, dies := mmap DieSt.blank loadedDie s.dies }
  let s := setReg64 .cbg 0x040 0 (setReg .cbg 0x050 0 (setReg .plc 0x048 0 (setReg .asq 0x040 0 s)))
  let s := setReg .owl 0x044 0 (setReg .owl 0x040 0 s)
  forAll (allFields.filter fun f => fieldFitted s.code f) (fun f s =>
    setReg (.fld f) 0x048 0 (setBits (.fld f) 0x044 15 0 0 s)) s

/-- The suspects of a recovery that ends have been suspects once since power-on (15 R435). -/
def rememberSus (s : State) : State :=
  { s with priorSus := (s.asq.recov.suspects.filterMap fun q => physOf s (q.1, q.2.1)).foldl (fun l p => addNew p l) s.priorSus }

/-- The RECOVERY item, followed by a PLACE item (17 Table 17.15). -/
def recoveryItem (own : Bool) (memb step : Nat) (s : State) : State :=
  let s := ledgerItem 0x0009 (natLE 1 s.asq.recov.added.toNat ++ natLE 1 own.toNat ++ natLE 2 memb ++ natLE 8 step ++ zeros 20) s
  match s.place with | some p => ledgerItem 0x0002 p.record s | none => s

/-- A recovery that ends before its REJOIN writes its item too (15 R450), with member 0xFFFF and step 0 (DESIGN CHOICE); its suspects
are remembered. -/
def recoveryCut (s : State) : State :=
  rememberSus (if 2 ≤ recState s && recState s ≤ 4 then recoveryItem false 0xFFFF 0 s else s)

/-- The image is dropped by UNLOAD, an array reset or a re-placement that fails. -/
def dropImage (s : State) : State :=
  setRec 0 (setReg .asq 0x048 0 (setReg .asq 0x044 0 (setReg .asq 0x068 0 (dropData (recoveryCut s)))))

/-- The module enters Fault (15 R445): a running command ends with 0x09, a pending configuration command takes effect
(17 R488), a recovery ends (R448), an image that was being
loaded is dropped (14 R418), and a sealed module clears its tile state (16 R460). -/
def enterFault (s : State) : State :=
  if s.run = .fault || s.run = .off then s
  else
    let s := match s.busy with | some op => midDone (midCode op) 9 s | none => s
    let s := if s.pendCfg.isSome then pinMarks (applyCfg s) else s
    let s := setRec 0 (recoveryCut s)
    let s := if s.loading then dropData s else s
    let s := { s with
      asq := { s.asq with haltPend := false, contract := false, tick1 := false, recov := Recov.none,
                          voided := s.asq.voided || s.run = .run || s.run = .halt } }
    let s := if s.isSealed then scrubTiles s else s
    setRun .fault s

/-- A module fault of 15 Table 15.1. -/
def moduleFault (s : State) : State :=
  if s.run = .fault || s.run = .off then s
  else enterFault (uncodedFault 7 s)

/-- Does the array run ticks: in Run, or in Halt for one TICK1 tick (16 R468)? -/
def moving (s : State) : Bool := s.run = .run || (s.run = .halt && s.asq.tick1)

/-- A HALT crosses the array: a halt falls due at the next tick boundary and the step in progress is voided (R169, R433). One that comes
in Halt while a RESUME waits keeps that from taking effect (14 R420); one in a LOAD ends it (14 R418). -/
def callHalt (s : State) : State :=
  if moving s then
    { s with asq := { s.asq with haltPend := true, voided := true, halted := true, haltHops := s.asq.haltHops + 1 } }
  else if s.run = .halt then
    { s with asq := { s.asq with voided := true, haltPend := s.asq.haltPend || s.busy = some .resume } }
  else if s.loading then enterFault s
  else s

/-- A tile sends the HALT on all its links; it costs the tile one link more than the others (05 R125, 06 R169). -/
def haltAt (u v : Nat) (s : State) : State :=
  if moving s && inImage s u v then { s with asq := { s.asq with haltFrom := (u, v) :: s.asq.haltFrom } } else s

/-- A contract fault, causes 0 to 10 (R188). -/
def contractFault (cause u v detail : Nat) (s : State) : State :=
  let s := haltAt u v s
  let s := bump .asq 0x07C (setErr .asq cause s)
  let s := callHalt (recordCause cause u v detail s)
  faultItem 0 cause [] { s with asq := { s.asq with contract := s.run ≠ .fault } }

/-- Fence a tile: it issues nothing more (R430). -/
def fenceTile (u v : Nat) (s : State) : State := setTile u v { tile s u v with fenced := true } s

/-- REC_TICK and REC_VSTEP: when a fault that voids the step was detected, and in which step (15 Table 15.8). -/
def recDetected (s : State) : State := setReg64 .asq 0x0BC (stepNo s) (setReg64 .asq 0x0B4 (runTick s) s)

/-- Suspects join the record, at most 16 of them, image tiles only (R432). -/
def addSuspects (cause : Nat) (l : List (Nat × Nat)) (s : State) : State :=
  let l := l.filter fun p => inImage s p.1 p.2
  let r := s.asq.recov
  let s' := forAll l (fun p s => fenceTile p.1 p.2 s) s
  -- a tile is recorded once; the causes that win over a contract fault (R448) are kept
  let sus := l.foldl (fun a p =>
    if a.any fun q => q.1 = p.1 && q.2.1 = p.2 then
      (if cause = 1 || cause = 2 then a.map fun q => if q.1 = p.1 && q.2.1 = p.2 then (p.1, p.2, cause) else q else a)
    else a ++ [(p.1, p.2, cause)]) r.suspects
  let s' := { s' with asq := { s'.asq with recov := { s'.asq.recov with suspects := sus } } }
  let s' := setReg .asq 0x0B0 (w32 (min sus.length 16)) (setBits .asq 0x0A8 15 8 cause s')
  if r.suspects.isEmpty then
    match sus with
    | (u, v, _) :: _ =>
      recDetected (setReg .asq 0x0AC (w32 (u + 2 ^ 16 * v)) s')
    | [] => s'
  else s'

/-- Recovery cannot run: FAULT_CAUSE becomes 12 (R432, R439). -/
def recoveryFailed (s : State) : State :=
  let s := setErr .asq 12 (recoveryCut s)
  let p := s.asq.recov.suspects.headD (0, 0, 0)
  let s := setReg .asq 0x068 (w32 (2 ^ 31 + 12)) s
  let s := setReg64 .asq 0x070 (runTick s) (setReg .asq 0x06C (w32 (p.1 + 2 ^ 16 * p.2.1)) s)
  setRec 7 s

/-- REC_CTL.AUTO in force (17 Table 17.6). -/
def recAuto (s : State) : Bool := bitOf (cfgv s .asq 0x0A0) 0

/-- Recovery begins, or begins again, at diagnosis (R435, R439). -/
def startDiagnosis (s : State) : State :=
  let n := s.asq.recov.starts + 1
  if 4 < n then recoveryFailed s
  else setRec 2 (setBits .asq 0x0A8 23 20 n { s with asq := { s.asq with recov := { s.asq.recov with starts := n } } })

/-- The array has stopped after a tile fault: recovery starts, or the fault has none (R432, R435, R439). -/
def afterStop (s : State) : State :=
  if s.asq.recov.suspects.length > 16 || !s.asq.recov.autoR then recoveryFailed s else startDiagnosis s

/-- A recovery record begins: the AUTO value in force and the voided step (R432, 17 Table 17.6). -/
def openRecov (s : State) : State :=
  { s with asq := { s.asq with recov := { s.asq.recov with autoR := recAuto s, starts := 0, vstep := stepNo s } } }

/-- A fault that recovery answers: the record begins, or, in a recovery under way, the voided step is the one in progress (R439). -/
def noteFault (s : State) : State :=
  if s.asq.recov.suspects.isEmpty && s.asq.recov.hbm.isNone && recState s = 0 then openRecov s
  else if moving s then { s with asq := { s.asq with recov := { s.asq.recov with vstep := stepNo s } } }
  else s

/-- A tile fault with its suspects (R430): HALT while the array runs; in Halt a recovery starts, or starts afresh (R439). -/
def tileFault (cause : Nat) (l : List (Nat × Nat)) (s : State) : State :=
  if !(l.any fun p => inImage s p.1 p.2) then s
  else
    let s := noteFault s
    if moving s then
      setRec 1 (faultItem 1 cause l (callHalt (addSuspects cause l s)))
    else if s.run = .halt then
      let s := faultItem 1 cause l (callHalt (addSuspects cause l s))
      if recState s = 7 || s.busy = some .resume then s else afterStop s
    else if s.loading then callHalt (faultItem 1 cause l s)
    else s

/-- The die at a ring position; segment `k` joins positions k and k + 1 (09 Table 9.1). -/
def dieAtRing (k : Nat) : Die := (dies.find? fun d => ringPos d = k % 16).getD 0

/-- A segment is declared down (R265, 15 R444): both dies report it; with a second one the module enters Fault. -/
def segmentDown (k : Nat) (s : State) : State :=
  let a := dieAtRing k
  let b := dieAtRing (k + 1)
  let s := setBits (.edg a) 0x048 1 1 1 (setErr (.edg a) 0 s)
  let s := setBits (.edg b) 0x048 0 0 1 (setErr (.edg b) 0 s)
  let s := faultItem 4 15 [] { s with ring := addNew k s.ring }
  if s.ring.length < 2 then s
  else enterFault { recordCause 15 0xFFFF 0xFFFF 0 (setErr .asq 15 s) with stuck := true }

/-- A fault that stops no array ends a LOAD all the same (14 R418). -/
def faultInLoad (s : State) : State := if s.loading then enterFault s else s

/-- Is any field powered? -/
def anyFieldOn (s : State) : Bool := s.fields.any fun e => e.2.on

/-- An input or thermal trip: the module enters Fault once (13 R377, R403). -/
def trip (bit : Nat) (pg : Page) (eb : Nat) (s : State) : State :=
  if tripPast bit s then s else moduleFault (tripMarks bit pg eb s)

/-- A Fault that only a module reset or power-on clears (14 R422). -/
def stuckFault (s : State) : State := moduleFault { s with stuck := true }

end Sys2Proof.Machine
end

