-- ==== Sys2Proof/Machine/Pcie.lean ====
section
/-! DEFINITION. The host link and what the function's configuration space shows (19 R532 to R536). No command of the table reads
configuration space; its registers are written out here beside the state that they show. -/

namespace Sys2Proof.Machine

/-- What training of the host link comes to (19 R532): a rate from 2.5 to 64 GT/s as its code 1 to 6, and 1 to 16 lanes. The link
partner decides it, so it is a free value. -/
def trainedLink (s : State) : Nat × Nat :=
  let w := (Config.freeWord s.fc).toNat
  (1 + w % 6, 2 ^ (w / 8 % 5))

/-- The host link trains, or goes down. -/
def hostLink (up : Bool) (s : State) : State :=
  if up then { s with fc := s.fc + 1, host := { s.host with linkUp := true, link := trainedLink s } }
  else { s with host := { s.host with linkUp := false, link := (0, 0) } }

/-- Link Status: the rate code in [3:0], the lanes in [9:4] (R532). -/
def linkStatus (s : State) : Nat := s.host.link.1 + 2 ^ 4 * s.host.link.2

/-- The 7-bit SMBus address, from the ADDR_SEL levels that were sampled (R531). -/
def smbusAddr (s : State) : Nat := 0x2C + s.host.addrSel

/-- A poisoned write TLP is logged in AER (R537). -/
def logPoison (s : State) : State := { s with host := { s.host with aerPoison := s.host.aerPoison + 1 } }

/-- Fields of the configuration space that Table 19.6, R533 and R534 give. -/
inductive PcieField
  | vendor | device | subVendor | subsystem | revision | classCode | interruptPin | serialNo | msixEntries | flr | linkStatus
  | maxPayload
  deriving DecidableEq, Repr, Inhabited

/-- What a field of the configuration space reads as: there is no legacy INTx (R533) and no Function Level Reset (R534). -/
def pcieRead (s : State) : PcieField → Nat
  | .vendor | .subVendor => 0x0D7A
  | .device => 0x0056
  | .subsystem => 0
  | .revision => fld s.silicon.toNat 31 24
  | .classCode => 0x120000
  | .interruptPin => 0
  | .serialNo => s.serial.toNat
  | .msixEntries => 32
  | .flr => 0
  | .linkStatus => Sys2Proof.Machine.linkStatus s
  | .maxPayload => 512

end Sys2Proof.Machine
end

