-- ==== Sys2Proof/Machine/Power.lean ====
section
/-! DEFINITION. Power, clock and cooling: regulators and derating, droop steering, soft-start, shorts, clock loss, the
thermal samples, the external pins (chapter 13, 18 R516). -/

namespace Sys2Proof.Machine

/-! Level conditions (13 R403). -/

/-- The pins' level conditions are evaluated (13 R403). -/
def pinCheck (s : State) : State :=
  let s := if !s.evc.pinFilt.testBit 0 && bitOf (cfgv s .pwr 0x078) 0 then trip 6 .thm 6 s else s
  if !s.evc.pinFilt.testBit 1 then trip 5 .thm 5 s else s

/-- A pending configuration command takes effect; PWR_CFG may have changed with it (17 R483, 13 R403). -/
def commitNow (s : State) : State := if s.pendCfg.isSome then pinCheck (applyCfg s) else s

/-- COMMIT (17 R483, R484). -/
def execCommit (rq : Req) (s : State) : Res := .next (barWrite rq (fun s => pinCheck (cfgCommit s)) s)
/-- ROLLBACK (17 R485). -/
def execRollback (rq : Req) (s : State) : Res := .next (barWrite rq (fun s => pinCheck (cfgRollback s)) s)
/-- COPY (17 R486). -/
def execCopy (rq : Req) (s : State) : Res := .next (barWrite rq cfgCopy s)

/-- INPUT_UNDERVOLTAGE (13 R377). -/
def execInputUndervoltage (s : State) : Res := .next (trip 0 .pwr 0 s)
/-- INPUT_OVERVOLTAGE (13 R377). -/
def execInputOvervoltage (s : State) : Res := .next (trip 1 .pwr 1 s)
/-- INPUT_OVERCURRENT (13 R377). -/
def execInputOvercurrent (s : State) : Res := .next (trip 2 .pwr 2 s)

/-! Regulators (13 R381 to R383). -/

/-- The derated ceiling D = floor(51,744 × min(1, n_c / 72, n_m / 20)), tokens per cycle (13 R382). -/
def derated (nc nm : Nat) : Nat :=
  min 51744 (min (51744 * nc / 72) (51744 * nm / 20))

/-- Working regulators of a field: ones in its maps. -/
def ones (w : W32) (n : Nat) : Nat := ((List.range n).filter fun i => bitOf w i).length
def workingVc (s : State) (f : Field) : Nat :=
  ones (reg s (.fpw f) 0x048) 32 + ones (reg s (.fpw f) 0x04C) 32 + ones (reg s (.fpw f) 0x050) 16
def workingVm (s : State) (f : Field) : Nat := ones (reg s (.fpw f) 0x054) 24

/-- Recount the working regulators and republish FPW_REG and FPW_DERATE (R381). -/
def republish (f : Field) (s : State) : State :=
  let nc := workingVc s f
  let nm := workingVm s f
  setReg (.fpw f) 0x058 (w32 (derated nc nm)) (setReg (.fpw f) 0x044 (w32 (nc + 2 ^ 16 * nm)) s)

/-- The map register and bit of a regulator. -/
def regMap (vmem : Bool) (idx : Nat) : Nat × Nat :=
  if vmem then (0x054, idx) else (0x048 + 4 * (idx / 32), idx % 32)

/-- Is there such a regulator? -/
def regExists (vmem : Bool) (idx : Nat) : Bool := idx < (if vmem then 24 else 80)

/-- A failing regulator isolates itself (R381); within sharing when D is unchanged (R383). -/
def regulatorFail (f : Field) (vmem : Bool) (idx : Nat) (s : State) : State :=
  let m := regMap vmem idx
  if s.run = .off || !fieldFitted s.code f || !(fieldSt s f).on || !regExists vmem idx
      || !bitOf (reg s (.fpw f) m.1) m.2 then s
  else
    let d := (reg s (.fpw f) 0x058).toNat
    let s := republish f (setReg (.fpw f) m.1 (setBit (reg s (.fpw f) m.1) m.2 false) s)
    let s := setErr (.fpw f) (if vmem then 1 else 0) s
    if (reg s (.fpw f) 0x058).toNat < d then setErr .pwr 5 (setErr (.fpw f) 2 s)
    else uncodedFault 6 (setErr .pwr 4 s)

/-- REGULATOR_FAIL (13 R381, R383). -/
def execRegulatorFail (f : Field) (vmem : Bool) (idx : Nat) (s : State) : Res := .next (regulatorFail f vmem idx s)

/-! Droop (13 R385 to R390). -/

/-- One window's steering of the setpoint, in 0.5 mV (R386): setpoint and calm. -/
def steer (set calm v : Nat) : Nat × Nat :=
  if v < 1290 then (min (set + 20) 1600, 0)
  else if 1330 < v then (if calm + 1 = 16 then (max (set - 5) 1320, 0) else (set, calm + 1))
  else (set, 0)

/-- The lowest-sample records of the field and of the module (R390). -/
def vminRecords (f : Field) (v x y : Nat) (s : State) : State :=
  let s := if v < (fieldSt s f).vminHalf then
      setReg64 (.fpw f) 0x064 (nowW s) (setReg (.fpw f) 0x060 (w32 (v / 2 % 2 ^ 16 + 2 ^ 16 * x + 2 ^ 24 * y))
        (setField f { fieldSt s f with vminHalf := v } s)) else s
  if v < s.vminHalf then
    setReg64 .pwr 0x06C (nowW s) (setReg .pwr 0x068 (w32 (v / 2 % 2 ^ 16 + 2 ^ 16 * f.val)) { s with vminHalf := v })
  else s

/-- The reporting tile's latest sample, for TS_DROOP (17 Table 17.12). -/
def droopSample (f : Field) (v x y : Nat) (s : State) : State :=
  let px := 24 * (f.val % 8) + x
  let py := 28 * (f.val / 8) + y
  let k := physKind s px py
  if k.1 = 0 then setTile k.2.1 k.2.2 { tile s k.2.1 k.2.2 with droop := v } s
  else { s with offTiles := mput Tile.blank (192 * py + px)
                  { mget Tile.blank s.offTiles (192 * py + px) with droop := v } s.offTiles }

/-- Does tile (x, y) of a field report: not a defective one, nor one of a retired field (R385)? -/
def reports (s : State) (f : Field) (x y : Nat) : Bool :=
  let p := (24 * (f.val % 8) + x, 28 * (f.val / 8) + y)
  !(inRetiredField s.geo p.1 p.2 || decide (p ∈ s.geo.defects))

/-- A window of 1,024 cycles ends with minimum `v` in 0.5 mV, reported by tile (x, y) of the field. -/
def droopWindow (f : Field) (v x y : Nat) (s : State) : State :=
  let r := fieldSt s f
  if s.run = .off || !r.on || !reports s f x y then s
  else
    let n := steer r.set r.calm v
    let low := if v < 1290 && r.set = 1600 then r.low + 1 else 0
    let s := setField f { r with set := n.1, calm := n.2, low := low } s
    let s := droopSample f v x y (vminRecords f v x y s)
    if low = 64 then setErr (.fpw f) 3 s else s

/-- DROOP_WINDOW (13 R386, R388, R390). -/
def execDroopWindow (f : Field) (v2 x y : Nat) (s : State) : Res := .next (droopWindow f v2 x y s)

/-- TILE_UNDERVOLTAGE (13 R388): a tile fault with cause 0x5. -/
def execTileUndervoltage (u v : Nat) (s : State) : Res := .next (tileFault 5 [(u, v)] (haltAt u v s))

/-- The image tiles placed in a field. -/
def tilesInField (s : State) (f : Field) : List (Nat × Nat) :=
  match s.image, placeOk s with
  | some i, some p => (imageTiles i).filter fun t =>
      match imagePhys s.geo p t.1 t.2 with | some (x, y) => fieldAt x y = f | none => false
  | _, _ => []

/-- VMEM_RANGE (13 R389): a tile fault with cause 0x6 on every image tile of the field. -/
def execVmemRange (f : Field) (s : State) : Res :=
  .next (if s.run = .off || !(fieldSt s f).on then s
    else tileFault 6 (tilesInField s f) (setErr (.fpw f) 4 s))

/-! Soft-start and shorts (13 R391 to R394). -/

/-- Fields in the order of their slots (R391). -/
def slotLt (f g : Field) : Bool :=
  let d (f : Field) : Nat := ((f.val / 8 : Int) - 3).natAbs + ((f.val % 8 : Int) - 3).natAbs
  d f < d g || (d f = d g && f.val < g.val)

/-- The position p of a field's slot: the fields that come before it. -/
def slotPos (f : Field) : Nat := (allFields.filter fun g => slotLt g f).length

/-- May a field be powered: fitted, not retired, neither lost nor dark, and off (R391)? -/
def canStart (s : State) (f : Field) : Bool :=
  let r := fieldSt s f
  fieldFitted s.code f && !(f.val % 8 ∈ s.geo.fcols) && !(f.val / 8 ∈ s.geo.frows)
    && !r.lost && !r.tripped && !r.on && !r.ramping

/-- A field whose slot is still to come: it may be powered and has had no soft-start. -/
def toStart (s : State) (f : Field) : Bool := canStart s f && !(fieldSt s f).failed

/-- Is it not yet, or no longer, a field's slot: PWR_SEQ stands past it, or a field of an earlier slot has not started (R391)? -/
def outOfSlot (f : Field) (s : State) : Bool :=
  decide (slotPos f < fld (reg s .pwr 0x04C).toNat 5 0) || allFields.any fun g => slotLt g f && toStart s g

/-- A slot begins: the sequence's slot, or the requested soft-start of R394. -/
def fieldSoftStart (f : Field) (s : State) : State :=
  if s.run ≠ .boot then s
  else if s.stage = .sequencing then
    if outOfSlot f s then s
    else
    let s := setReg .pwr 0x04C (w32 (2 ^ 6 + slotPos f)) s
    if toStart s f then setField f { fieldSt s f with ramping := true } s else s
  else if s.stage = .paused && s.fcmdBusy = some f.val && canStart s f then
    setField f { fieldSt s f with ramping := true } s
  else s

/-- FIELD_SOFT_START (13 R391). -/
def execFieldSoftStart (f : Field) (s : State) : Res := .next (fieldSoftStart f s)

/-- The maps of a field whose regulators all work, unless power-on has already seen failures. -/
def fullMaps (f : Field) (s : State) : State :=
  if workingVc s f ≠ 0 || workingVm s f ≠ 0 then s
  else setReg (.fpw f) 0x054 0x00FFFFFF (setReg (.fpw f) 0x050 0x0000FFFF
    (setReg (.fpw f) 0x04C 0xFFFFFFFF (setReg (.fpw f) 0x048 0xFFFFFFFF s)))

/-- A requested soft-start has ended: PWR_FRES done. -/
def fcmdEnd (f : Field) (s : State) : State :=
  if s.fcmdBusy = some f.val then setReg .pwr 0x064 0x80000000 { s with fcmdBusy := none } else s

/-- A field's soft-start ends (R392). A field that missed a limit is off and reported dark; if it did not trip, it may be tried
again (R394, R414). -/
def softStartEnd (f : Field) (r : SoftStart) (s : State) : State :=
  let x := fieldSt s f
  if s.run = .off || !x.ramping then s
  else fcmdEnd f (match r with
    | .passed => republish f (fullMaps f (setField f
        { x with ramping := false, on := true, failed := false, set := 1440, calm := 0, low := 0 } s))
    | .missed => setErr .pwr 3 (setField f { x with ramping := false, failed := true } s)
    | .tripped => setErr .pwr 3 (setErr (.fpw f) 5 (setField f { x with ramping := false, tripped := true } s)))

/-- SOFT_START_END (13 R392). -/
def execSoftStartEnd (f : Field) (r : SoftStart) (s : State) : Res := .next (softStartEnd f r s)

/-- A short or converter fault darkens the field; in Run, in a LOAD and during a recovery the module enters Fault (R393, 14 R418, 15
R448); elsewhere it is entered in the ledger alone (15 R450). -/
def fieldShort (f : Field) (s : State) : State :=
  let x := fieldSt s f
  if s.run = .off || !(x.on || x.ramping) then s
  else
    let s := setField f { x with on := false, ramping := false, tripped := true } s
    let s := fcmdEnd f (setErr .pwr 3 (setErr (.fpw f) 5 s))
    if s.run = .run || s.loading || (s.run = .halt && recState s ≠ 0 && recState s ≠ 7) then moduleFault s else uncodedFault 7 s

/-- FIELD_SHORT (13 R393). -/
def execFieldShort (f : Field) (s : State) : Res := .next (fieldShort f s)

/-- The refusal code of a power-up request, in the order of R394 (Table 13.7). -/
def fcmdCode (s : State) (f : Nat) : Option Nat :=
  if s.run ≠ .boot || s.stage ≠ .paused then some 2
  else if s.fcmdBusy.isSome then some 4
  else if 56 ≤ f then some 1
  else
    let g : Field := Fin.ofNat 56 f
    let r := fieldSt s g
    if !fieldFitted s.code g || f % 8 ∈ s.geo.fcols || f / 8 ∈ s.geo.frows || r.lost then some 1
    else if r.tripped then some 3
    else if r.on then some 5
    else none

/-- A write to PWR_FCMD (R394, R446). -/
def pwrFcmd (v : W32) (s : State) : State :=
  if !bitOf v 31 then s
  else
    let f := fld v.toNat 5 0
    match fcmdCode s f with
    | some c => setReg .pwr 0x064 (w32 (2 ^ 31 + c)) s
    | none => setReg .pwr 0x064 0 { s with fcmdBusy := some f }

/-- PWR_FCMD (13 R394). -/
def execPwrFcmd (rq : Req) (v : W32) (s : State) : Res := .next (barWrite rq (pwrFcmd v) s)

/-- Reset the module's lowest-VCORE record (R390). -/
def pwrVminReset (s : State) : State :=
  setReg64 .pwr 0x06C 0 (setReg .pwr 0x068 0xFFFF { s with vminHalf := 131070 })

def fpwVminReset (f : Field) (s : State) : State :=
  if !fieldFitted s.code f then s
  else setReg64 (.fpw f) 0x064 0 (setReg (.fpw f) 0x060 0xFFFF (setField f { fieldSt s f with vminHalf := 131070 } s))

/-- PWR_VMIN_RST (13 R390). -/
def execPwrVminRst (rq : Req) (s : State) : Res := .next (barWrite rq pwrVminReset s)
/-- FPW_VMIN_RST (13 R390). -/
def execFpwVminRst (rq : Req) (f : Field) (s : State) : Res := .next (barWrite rq (fpwVminReset f) s)

/-! Clock (13 R395 to R399, 19 R529). -/

/-- Advance a queue's HEAD past its current descriptor: `o` is the queue's base register, z its ring size. -/
def headNext (pg : Page) (o : Nat) (s : State) : State :=
  let n := 2 ^ (fld (reg s pg (o + 8)).toNat 3 0 + 4)
  setReg pg (o + 16) (w32 (((reg s pg (o + 16)).toNat + 1) % n)) s

/-- The PCIe link is down: a queue's current descriptor ends, its queue clears EN and HEAD names the next descriptor
(19 R536). A descriptor's segments move in one step of this model, so none of them remains to fail. -/
def queueAbort (q : Nat) (s : State) : State :=
  let s := match mfind s.hdq q with
    | some _ => headNext .hdm (0x040 + 0x20 * q) { s with hdq := merase q s.hdq }
    | none => s
  setReg .hdm (0x048 + 0x20 * q) (setBit (reg s .hdm (0x048 + 0x20 * q)) 31 false) s

def pcieReset (s : State) : State :=
  let s := { s with host := { s.host with msixEn := false, fmask := false, bme := false, d3hot := false } }
  forAll (List.range 8) queueAbort s

/-- REFCLK_LOST (13 R399, 19 R529). -/
def refclkLost (s : State) : State :=
  if s.run = .off || !s.host.refclk then s
  else
    let s := setErr .clk 0 (hostLink false { s with host := { s.host with refclk := false } })
    stuckFault (pcieReset { s with clk := { s.clk with locked := false } })

def execRefclkLost (s : State) : Res := .next (refclkLost s)

/-- REFCLK_RETURN (19 R529): the PCIe link retrains; CLK.ERR_STS[0] stays. -/
def execRefclkReturn (s : State) : Res :=
  .next (if s.host.refclk then s
    else if s.run = .off then { s with host := { s.host with refclk := true } }
    else hostLink s.host.perstN { s with host := { s.host with refclk := true } })

/-- PLL_UNLOCK (13 R399). -/
def execPllUnlock (s : State) : Res :=
  .next (if s.run = .off || !s.clk.locked then s
    else stuckFault (setErr .clk 1 { s with clk := { s.clk with locked := false } }))

/-- The clock of physical tile (x, y) stops with its upstream's (13 R399): TREE, and a tile fault with cause 0x7 on those of the two
tiles that are image tiles. Of the tiles below, whose alive wires fall, ALIVE_WIRE_LOW tells. -/
def clockLoss (x y : Nat) (s : State) : State :=
  if s.run = .off then s
  else
    let two := (x, y) :: (s.clk.upstream (x, y)).toList
    tileFault 7 (two.filterMap fun p => match physKind s p.1 p.2 with | (0, q) => some q | _ => none) (setErr .clk 2 s)

/-- UPSTREAM_CLOCK_LOSS (13 R399) at tile (i, j) of the field in column c and row r. -/
def execUpstreamClockLoss (c : Fin 8) (r : Fin 7) (i : Fin 24) (j : Fin 28) (s : State) : Res :=
  .next (clockLoss (24 * c + i) (28 * r + j) s)

/-- The tiles whose receivers do not lock at set-up: root candidates, by number, and others. -/
def silentTiles (cands : List (Fin 4)) (silent : List (Nat × Nat)) : List (Nat × Nat) :=
  (cands.map fun k => rootCands.getD k (0, 0)) ++ silent

/-- Clock-tree setup ends (14 Table 14.1 step 6): the provisional tree is built, or no candidate locked; self-test begins. Where the
root PLL does not lock (`pll`), no candidate does, as with F27 off. A field that went dark during the setup is lost (R384). -/
def clockTreeSetupDone (pll : Bool) (silent : List (Nat × Nat)) (s : State) : State :=
  if s.run ≠ .boot || s.stage ≠ .clockSetup then s
  else
    let s := forAll (allFields.filter fun f => fieldFitted s.code f && !(fieldSt s f).on) (fun f s =>
      setField f { fieldSt s f with lost := true } s) s
    { s with
      clk := setUpTree s.code (lostFields s) ((fieldSt s 27).on && pll) (silent.filter fun p => p.1 < waferX && p.2 < waferY)
      stage := .selfTest, testAt := s.now }

/-- CLOCK_TREE_SETUP_DONE (13 R395, 14 R408). -/
def execClockTreeSetupDone (pll : Bool) (cands : List (Fin 4)) (silent : List (Nat × Nat)) (s : State) : Res :=
  .next (clockTreeSetupDone pll (silentTiles cands silent) s)

/-! Cooling (13 R400 to R403). -/

/-- The sensors of a sample: number and temperature. Wafer sensor i of field f is 5 × f + i, die e is 1000 + e, stack k
is 2000 + k. -/
def waferSensors (r : Readings) : List (Nat × Nat) :=
  (r.wafer.map fun p => (List.range p.2.length).map fun i => (5 * p.1 + i, p.2.getD i 0)).flatten
def dieSensors (r : Readings) : List (Nat × Nat) := (List.range r.die.length).map fun e => (1000 + e, r.die.getD e 0)
def hbmSensors (r : Readings) : List (Nat × Nat) := r.hbm.map fun p => (2000 + p.1, p.2)

/-- The hottest of a list, the first of equals. -/
def hottest (l : List (Nat × Nat)) : Nat × Nat := l.foldl (fun a p => if a.2 < p.2 then p else a) (l.headD (0, 0))

/-- The readings into the registers of PWR, FPW, THM and HBMn. -/
def showReadings (r : Readings) (s : State) : State :=
  let s := { s with env := { s.env with inV := r.inV, inI := r.inI, inP := r.inP, inlet := r.inlet, outlet := r.outlet,
                                        flow := r.flow, dp := r.dp } }
  let s := setReg .pwr 0x048 (w32 (r.inP % 2 ^ 16)) (setReg .pwr 0x044 (w32 (r.inI % 2 ^ 16))
    (setReg .pwr 0x040 (w32 (r.inV % 2 ^ 16)) s))
  let s := setReg .thm 0x04C (w32 r.dp) (setReg .thm 0x048 (w32 r.flow) (setReg .thm 0x044 (w32 r.outlet)
    (setReg .thm 0x040 (w32 r.inlet) s)))
  let s := forAll r.wafer (fun p s =>
    let f : Field := Fin.ofNat 56 p.1
    let t (i : Nat) : Nat := p.2.getD i 0 % 2 ^ 16
    if !fieldFitted s.code f then s
    else setReg (.fpw f) 0x078 (w32 (t 4)) (setReg (.fpw f) 0x074 (w32 (t 2 + 2 ^ 16 * t 3))
      (setReg (.fpw f) 0x070 (w32 (t 0 + 2 ^ 16 * t 1)) s))) s
  let s := forAll r.iCore (fun p s =>
    let f : Field := Fin.ofNat 56 p.1
    if fieldFitted s.code f then setReg (.fpw f) 0x05C (w32 (p.2 % 2 ^ 16)) s else s) s
  let s := forAll r.hbm (fun p s =>
    setReg (.hbm (Fin.ofNat 16 (p.1 / 4)) (Fin.ofNat 4 p.1)) 0x048 (w32 (min (p.2 / 16) 255)) s) s
  let w := hottest (waferSensors r)
  let e := hottest (dieSensors r)
  setReg .thm 0x054 (w32 (e.2 % 2 ^ 16 + 2 ^ 16 * ((e.1 - 1000) % 16)))
    (setReg .thm 0x050 (w32 (w.2 % 2 ^ 16 + 2 ^ 16 * (w.1 % 5) + 2 ^ 24 * (w.1 / 5))) s)

/-- The sensors at or above their trip level: 110 °C, stacks 105 °C. -/
def tripSensors (r : Readings) : List Nat :=
  (((waferSensors r ++ dieSensors r).filter fun p => 1760 ≤ p.2) ++ (hbmSensors r).filter fun p => 1680 ≤ p.2).map (·.1)

/-- A field's HOT is raised when one of its sensors comes above 95 °C (13 R401, R405). -/
def fieldHot (f : Field) (temps : List Nat) (s : State) : State :=
  let hot := temps.any fun t => 1520 < t
  let x := fieldSt s f
  let s := if hot && !x.hot then setErr (.fpw f) 6 s else s
  setField f { x with hot := hot } s

/-- HOT and WARN are raised when their conditions begin to hold (13 R401, R406); INLET_HIGH, a level condition, also at a sample that
finds its bit cleared (R403). -/
def thermalLevels (r : Readings) (s : State) : State :=
  let junctions := waferSensors r ++ dieSensors r
  let hot := junctions.any fun p => 1520 < p.2
  let warm := (waferSensors r).any fun p => fld (cfgv s .thm 0x058).toNat 15 0 ≤ p.2
  let inlet := 640 < r.inlet
  let s := if hot && !s.hot then setErr .thm 0 s else s
  let s := forAll (r.wafer.filter fun p => p.1 < 56 && fieldFitted s.code (Fin.ofNat 56 p.1)) (fun p s => fieldHot (Fin.ofNat 56 p.1) p.2 s) s
  let s := if warm && !s.warned then setErr .thm 7 s else s
  let s := if inlet && !(s.inletHigh && bitOf (reg s .thm 0x010) 1) then setErr .thm 1 s else s
  let n := if hot && !pageFrz s .thm then s.over95 + 1 else s.over95
  setReg .thm 0x060 (w32 (min (n / 100000) 0xFFFFFFFF)) { s with hot := hot, warned := warm, inletHigh := inlet, over95 := n }

/-- A sampling instant (13 R402, R403): a sensor at its trip level on two consecutive samples trips the module. -/
def thermalSample (r : Readings) (s : State) : State :=
  if s.run = .off then s
  else
    let high := tripSensors r
    let two := high.any fun k => k ∈ s.overTemp
    let s := thermalLevels r (showReadings r { s with overTemp := high })
    let s := if two then trip 3 .thm 3 s else s
    pinCheck s

/-- THERMAL_SAMPLE (13 R402, R403). -/
def execThermalSample (r : Readings) (s : State) : Res := .next (thermalSample r s)

/-- FLOW_TRIP (13 R403): flow below 50 L/min for 100 ms trips only while a field is powered. -/
def execFlowTrip (s : State) : Res := .next (if anyFieldOn s then trip 4 .thm 4 s else s)
/-- FLOW_LOW (13 R403). -/
def execFlowLow (s : State) : Res := .next (if s.run = .off then s else setErr .thm 2 s)

/-! External pins (18 R516). -/

/-- Does a change to a level fire the pin's source (18 Table 18.5, PIN_EDGE)? -/
def edgeFires (s : State) (pin : Fin 8) (level : Bool) : Bool :=
  match fld (cfgv s .evc 0x054).toNat (2 * pin.val + 1) (2 * pin.val) with
  | 0 => !level
  | 1 => level
  | 2 => true
  | _ => false

def withPin (n : Nat) (i : Nat) (b : Bool) : Nat := if b then n ||| 2 ^ i else n &&& (0xFF - 2 ^ i)

/-- A pin's raw level has stood for a run of `n` samples: its filtered level takes it once the run is PINn_FILT samples long. -/
def pinChange (pin : Fin 8) (level : Bool) (n : Nat) (s : State) : State :=
  if s.run = .off then s
  else
    let s := { s with evc := { s.evc with pinRaw := withPin s.evc.pinRaw pin.val level } }
    if n < fld (cfgv s .evc (0x058 + 4 * pin.val)).toNat 15 0 || s.evc.pinFilt.testBit pin.val = level then s
    else
    let s := { s with evc := { s.evc with pinFilt := withPin s.evc.pinFilt pin.val level } }
    let s := if edgeFires s pin level then fire pin.val s else s
    let s := if pin.val = 0 && !level then setErr .thm 6 s else s
    pinCheck s

/-- PIN_LEVEL_CHANGE (18 R516, 13 R403). -/
def execPinLevelChange (pin : Fin 8) (run : PinRun) (s : State) : Res := .next (pinChange pin run.level run.samples s)

/-- The carrier's report of a rail (13 R379): a loss sets HBM_RAIL. -/
def hbmRail (d : Die) (r : Rail) (good : Bool) (s : State) : State :=
  if s.run = .off then s
  else
    let lost := if good then s.railLost.filter (· ≠ (d, r)) else addNew (d, r) s.railLost
    let s' := { s with railLost := lost }
    if good || (d, r) ∈ s.railLost then s' else setErr .pwr 6 s'

/-- HBM_RAIL (13 R379). -/
def execHbmRail (d : Die) (r : Rail) (good : Bool) (s : State) : Res := .next (hbmRail d r good s)

end Sys2Proof.Machine
end

