-- ==== Sys2Proof/Machine/Start.lean ====
section
/-! DEFINITION. Start-up, self-test and resets, the sideband and the PCIe link's resets (chapter 14, 19 R526 to R536). -/

namespace Sys2Proof.Machine

/-! Power (14 R408, R409; 19 R521 to R531). -/

/-- What no power-down takes: the fuses, the conditions at the faces, the queue of commands and what has left the
module; every other field as State.reset has it. -/
def bare (s : State) : State :=
  { State.reset with
    code := s.code, silicon := s.silicon, serial := s.serial, mfg := s.mfg, env := s.env
    cages := mmap Cage.blank (fun x => { x with held := false }) s.cages
    jtag := { Jtag.reset with trstN := s.jtag.trstN }
    host := { HostIf.reset with pwrEn := s.host.pwrEn, holdoff := s.host.holdoff, rails := s.host.rails,
                                perstN := s.host.perstN, refclk := s.host.refclk }
    out := s.out, fc := s.fc, pending := s.pending }

/-- The module in Off: nothing is saved (R409). -/
def goOff (s : State) : State :=
  let s := bare s
  hostLink false { s with run := .off, host := { s.host with rails := false } }

/-- Step 3 of 14 Table 14.1 ends: Boot. -/
def powerOn (sel : Fin 4) (s : State) : State :=
  let s := bare s
  hostLink s.host.perstN { s with run := .boot, host := { s.host with addrSel := sel.val } }

/-- Management rails ramp up when PWR_EN is high, not held off, and the busbar supplies them (R408, R526). -/
def rampRails (s : State) : State :=
  if s.run = .off && s.host.pwrEn && !s.host.holdoff && s.env.busbar && !s.env.reversed then
    { s with host := { s.host with rails := true } } else s

/-- PWR_EN_ASSERT (19 R526). -/
def execPwrEnAssert (s : State) : Res := .next (rampRails { s with host := { s.host with pwrEn := true } })

/-- PWR_EN_DEASSERT (14 R409, 19 R526). -/
def execPwrEnDeassert (s : State) : Res :=
  .next (goOff { s with host := { s.host with pwrEn := false, holdoff := true } })

/-- PWR_EN_HOLDOFF_END (19 R526). -/
def execPwrEnHoldoffEnd (s : State) : Res := .next (rampRails { s with host := { s.host with holdoff := false } })

/-- INPUT_LOSS (14 R409). -/
def execInputLoss (s : State) : Res := .next (goOff { s with env := { s.env with busbar := false } })

/-- BUSBAR_ENERGISED (19 R521, R522): a module already supplied is unchanged. -/
def execBusbarEnergised (reversed : Bool) (s : State) : Res :=
  .next (if s.run ≠ .off then s else rampRails { s with env := { s.env with busbar := true, reversed := reversed } })

/-- BOOT_ROM_START (14 R408, 19 R528, R531). -/
def execBootRomStart (addrSel : Fin 4) (s : State) : Res :=
  .next (if s.run = .off && s.host.rails && s.host.refclk then powerOn addrSel s else s)

/-! Module reset (14 R421, R425). -/

/-- Registers that a module reset keeps (14 Table 14.6, 15 Table 15.8 for what counts since power-on): trip and lowest-sample
records and the reset causes. The regulators' maps and trims are found again (Table 14.6). -/
def keptByReset (k : Nat) : Bool :=
  match spaceOf k with
  | .reg .mid o => o = 0x0B0
  | .reg .asq o => o = 0x0C4
  | .reg .pwr o => o ∈ [0x068, 0x06C, 0x070, 0x080]
  | .reg .thm o => o = 0x060
  | .reg (.fpw _) o => 0x060 ≤ o && o ≤ 0x068
  | _ => false

/-- RST_CAUSE after a module reset: its cause and one more reset (14 Table 14.8). -/
def resetCause (s : State) (bit : Nat) : W32 :=
  let n := fld (reg s .mid 0x0B0).toNat 31 16
  w32 (2 ^ bit + 2 ^ 16 * min (n + 1) 0xFFFF)

/-- The module restarts at step 3 of 14 Table 14.1. -/
def moduleReset (bit : Nat) (s : State) : State :=
  let cause := resetCause s bit
  let b := bare s
  let b := { b with
    run := .boot
    now := s.now
    regs := s.regs.filter fun e => keptByReset e.1
    tripLatched := s.tripLatched, tripAt := s.tripAt
    priorSus := (rememberSus s).priorSus
    over95 := s.over95, vminHalf := s.vminHalf, railLost := s.railLost
    fields := s.fields.foldl (fun m e =>
      mput FieldSt.blank e.1 { FieldSt.blank with tripped := e.2.tripped, lost := e.2.lost, vminHalf := e.2.vminHalf } m) []
    evc := { Evc.reset with pinFilt := s.evc.pinFilt, pinRaw := s.evc.pinRaw }
    host := { s.host with eid := 0 }
    jtag := { s.jtag with busy := none } }
  setReg .mid 0x0B0 cause b

/-- PERST_N falls after step 3 (R421, 19 R527). -/
def perstAssert (s : State) : State :=
  if !s.host.perstN then s
  else
    let s := hostLink false { s with host := { s.host with perstN := false } }
    if s.run = .off then s
    else
      let s := moduleReset 2 s
      { s with host := { s.host with msixEn := false, fmask := false, bme := false, d3hot := false } }

/-- PERST_N_ASSERT (14 R421). -/
def execPerstNAssert (s : State) : Res := .next (perstAssert s)

/-- PERST_N_RELEASE (14 R408): the endpoint becomes ready for link training, and the link trains. -/
def execPerstNRelease (s : State) : Res :=
  .next (hostLink (s.run ≠ .off && s.host.refclk) { s with host := { s.host with perstN := true } })

/-- MODULE_RESET (14 R421): accepted in any state but Off, even while another command runs (R420). -/
def execModuleReset (rq : Req) (s : State) : Res := .next (barWrite rq (moduleReset 1) s)

/-! The management image (14 R410 to R412). -/

/-- MGMT_SRAM_WINDOW_WRITE (R410). -/
def sramWindowWrite (off : Nat) (v : W32) (s : State) : State :=
  if s.run = .boot && s.winOpen then { s with sram := mput 0 (off % 0x200000 / 4) v s.sram } else setAcc .mid s

/-- A write to an offset outside the window is not this command's and leaves the state alone. -/
def execMgmtSramWindowWrite (rq : Req) (off : Nat) (v : W32) (s : State) : Res :=
  if 0x4000000 ≤ off then .fault .outsideBar
  else .next (barWrite rq (fun s =>
    match spaceOf off with | .sram o => sramWindowWrite o v s | _ => s) s)

/-- Bytes of management SRAM. -/
def sramBytes (s : State) (o n : Nat) : List Byte :=
  (List.range n).map fun i => BitVec.ofNat 8 ((mget 0 s.sram ((o + i) / 4)).toNat >>> (8 * ((o + i) % 4)))

/-- The code of R411: the first check that fails, 0x00 when all pass. -/
def bootCheck (s : State) : Nat :=
  let h := sramBytes s 0 256
  let size := fieldLE h 0x08 4
  if h.take 4 ≠ [0x4D, 0x47, 0x4D, 0x54] ∨ fieldLE h 0x06 2 ≠ 1 then 1
  else if size < 256 ∨ 2097152 < size then 2
  else
    let hash := (h.drop 0x40).take 48
    let sig := (h.drop 0x70).take 96
    let body := (h.take 0x40) ++ zeros 144 ++ (h.drop 0xD0) ++ sramBytes s 256 (size - 256)
    let e0 := fieldLE h 0x0C 4
    let e1 := fieldLE h 0x10 4
    if sha384 body ≠ hash then 3
    else if sjuFitted s.code && !Config.ecdsaOk hash sig then 4
    else if size ≤ e0 ∨ e0 % 4 ≠ 0 ∨ size ≤ e1 ∨ e1 % 4 ≠ 0 then 5
    else 0

/-- BOOT: the image is checked and the cores start, or the window opens again (R411). -/
def boot (s : State) : State :=
  if s.busy.isSome then midRefuse 1 2 s
  else if s.run ≠ .boot || s.stage ≠ .waiting then midRefuse 1 1 s
  else
    let c := bootCheck s
    let s := setReg .mid 0x08C (w32 c) s
    let s := if c = 0 then
        { s with winOpen := false, stage := .running, mgmtUp := true, kick0 := s.now, kick1 := s.now,
                 mgmtHash := sramBytes s 0x40 48 }
      else setErr .mid 0 s
    midDone 1 0 s

/-- BOOT (14 R411). -/
def execBoot (rq : Req) (s : State) : Res := .next (barWrite rq boot s)

/-- MID_WDOG (R412). -/
def midWdog (v : W32) (s : State) : State :=
  { s with kick0 := if bitOf v 0 then s.now else s.kick0, kick1 := if bitOf v 1 then s.now else s.kick1 }

def execMidWdog (rq : Req) (v : W32) (s : State) : Res := .next (barWrite rq (midWdog v) s)

/-- A core missed its kick: both cores are held in reset and the module enters Fault, at the next tick boundary if it is
in Run (R412). -/
def wdogExpiry (core1 : Bool) (s : State) : State :=
  if s.run = .off || !s.mgmtUp then s
  else
    let s := setReg .mid 0x094 (setBit (reg s .mid 0x094) (if core1 then 1 else 0) true) (setErr .mid 1 s)
    let s := { s with mgmtUp := false }
    if s.run = .run then { s with stuck := true, asq := { s.asq with haltPend := true, voided := true } }
    else stuckFault s

/-- WDOG_EXPIRY (14 R412). -/
def execWdogExpiry (core1 : Bool) (s : State) : Res := .next (wdogExpiry core1 s)

/-! Array up (14 R413, R414). -/

/-- The limits of R413. -/
def inputOk (s : State) : Bool :=
  4600 ≤ s.env.inV && s.env.inV ≤ 5600 && 800 ≤ s.env.flow && s.env.inlet ≤ 640

def arrayUp (s : State) : State :=
  if s.busy.isSome then midRefuse 2 2 s
  else if s.run ≠ .boot || s.stage ≠ .running then midRefuse 2 1 s
  else if s.tripLatched then midRefuse 2 7 s
  else if !inputOk s then midRefuse 2 3 s
  else midDone 2 0 (setReg .pwr 0x04C (w32 (2 ^ 6)) { s with stage := .sequencing })

/-- ARRAY_UP (14 R413). -/
def execArrayUp (rq : Req) (s : State) : Res := .next (barWrite rq arrayUp s)

/-- Clock-tree setup begins: a field not powered is lost (R414). -/
def beginClockSetup (s : State) : State :=
  let s := forAll (allFields.filter fun f => fieldFitted s.code f && !(fieldSt s f).on) (fun f s =>
    setField f { fieldSt s f with lost := true, ramping := false } s) s
  { s with stage := .clockSetup, fcmdBusy := none }

/-- Field sequencing ends once every slot has passed: a pause if a field missed its limits without tripping (R414, 13 R391). -/
def sequencingEnd (s : State) : State :=
  if s.run ≠ .boot || s.stage ≠ .sequencing || allFields.any (fun f => toStart s f || (fieldSt s f).ramping) then s
  else
    let s := setReg .pwr 0x04C (w32 (2 ^ 7 + 55)) s
    if allFields.any fun f => (fieldSt s f).failed then { s with stage := .paused } else beginClockSetup s

/-- FIELD_SEQUENCING_END (14 R414). -/
def execFieldSequencingEnd (s : State) : Res := .next (sequencingEnd s)

def continueCmd (s : State) : State :=
  if s.busy.isSome then midRefuse 3 2 s
  else if s.run ≠ .boot || s.stage ≠ .paused then midRefuse 3 1 s
  else midDone 3 0 (beginClockSetup s)

/-- CONTINUE (14 R414). -/
def execContinue (rq : Req) (s : State) : Res := .next (barWrite rq continueCmd s)

/-- PAUSE_TIMEOUT (14 R414). -/
def execPauseTimeout (s : State) : Res :=
  .next (if s.run = .boot && s.stage = .paused then beginClockSetup s else s)

/-! Self-test (14 R415, R416). -/

/-- Regulators failing trim clear their bits; a field below R384's counts is lost and its converter is off. -/
def trimField (p : Nat × List Nat × List Nat) (s : State) : State :=
  let f : Field := Fin.ofNat 56 p.1
  if !fieldFitted s.code f || !(fieldSt s f).on then s
  else
    let clear (vmem : Bool) (i : Nat) (s : State) : State :=
      if regExists vmem i then
        let m := regMap vmem i
        setReg (.fpw f) m.1 (setBit (reg s (.fpw f) m.1) m.2 false) s
      else s
    let s := republish f (forAll p.2.2 (clear true) (forAll p.2.1 (clear false) s))
    if workingVc s f < 56 || workingVm s f < 14 then setField f { fieldSt s f with on := false, lost := true } s else s

/-- Stacks in use: every fitted stack works, or two on each die, or none (09 R267). -/
def stacksInUse (c : OrdCode) (failed : List (Nat × Nat)) : Nat :=
  if failed.isEmpty then 16 * codeStacks c
  else if (List.range 16).all fun d => 2 ≤ ((List.range (codeStacks c)).filter fun n => !((d, n) ∈ failed)).length then 32
  else 0

/-- CAP after a self-test or an array reset (17 Table 17.4). -/
def setCap (s : State) : State :=
  let c := s.code
  let n := stacksInUse c s.hbmFailed
  let ports := (fittedPorts c).foldl (fun a p => a + 2 ^ p.val) 0
  let four := ((List.range 16).filter fun d =>
    codeStacks c = 4 && (List.range 4).all fun k => !((d, k) ∈ s.hbmFailed)).foldl (fun a d => a + 2 ^ d) 0
  let work := (allFields.filter fun f =>
    let x := fieldSt s f
    fieldFitted c f && !x.lost && !x.tripped && !(f.val % 8 ∈ s.geo.fcols) && !(f.val / 8 ∈ s.geo.frows)).foldl
      (fun a f => a + 2 ^ f.val) 0
  let s := setReg .cap 0x044 (w32 (ports + 2 ^ 30 * (n ≠ 0 : Bool).toNat + 2 ^ 31 * (sjuFitted c).toNat)) s
  let s := setReg .cap 0x048 (w32 (four + 2 ^ 16 * n)) s
  let s := setReg .cap 0x04C (w32 (s.geo.ua + 2 ^ 16 * s.geo.va)) s
  setReg .cap 0x05C (w32 (48 * n)) (setReg64 .cap 0x054 work s)

/-- The PLC page's view of the achieved array and the FLD pages' defect counts (08 Table 8.7, 17 Table 17.10). -/
def showGeo (s : State) : State :=
  let g := s.geo
  let ones := ((List.range waferY).map fun y =>
    ((List.range 16).filter fun k => (segDefects g.defects k y).length = 1).length).foldl (· + ·) 0
  let bits (l : List Nat) : Nat := l.foldl (fun a i => a + 2 ^ i) 0
  let s := setReg .plc 0x04C (w32 (g.ua + 2 ^ 16 * g.va)) s
  let s := setReg .plc 0x054 (w32 (bits g.fcols + 2 ^ 8 * bits g.frows + 2 ^ 16 * min g.rows.length 255)) s
  let s := setReg .plc 0x058 (w32 (min g.defects.length 0xFFFF + 2 ^ 16 * min ones 0xFFFF)) s
  forAll (allFields.filter fun f => fieldFitted s.code f) (fun f s =>
    setBits (.fld f) 0x044 31 16 (g.defects.filter fun p => fieldAt p.1 p.2 = f).length s) s

/-- The HBM pages after training (09 R266, R267, R291). -/
def showStacks (s : State) : State :=
  forAll (dies.map fun d => (List.finRange 4).map fun n => (d, n)).flatten (fun p s =>
    if !pageFitted s.code (.hbm p.1 p.2) then s
    else if (p.1.val, p.2.val) ∈ s.hbmFailed then setErr (.hbm p.1 p.2) 2 (setBits (.hbm p.1 p.2) 0x00C 0 0 0 s)
    else
      let inUse := s.hbmFailed.isEmpty || stkCtl s p.1 0 = p.2 || stkCtl s p.1 1 = p.2
      setBits (.hbm p.1 p.2) 0x00C 0 0 inUse.toNat
        (setReg (.hbm p.1 p.2) 0x044 9800
          (setReg (.hbm p.1 p.2) 0x040
            (w32 (48 + 2 ^ 16 * 16 + 2 ^ 24 * (Config.hbmMaker (4 * p.1.val + p.2.val)).toNat)) s))) s

/-- The result of R416. -/
def selfTestResult (s : State) (aborted : Bool) : Nat :=
  if aborted then 4
  else if s.clk.cand.isNone || (fieldSt s 27).lost || s.geo.ua = 0 || s.geo.va = 0 then 2
  else if stacksInUse s.code s.hbmFailed = 0 then 3
  else if !meetsMin s then 1
  else 0

/-- Self-test ends (R416). A trip, or another fault, has already taken the module to Fault when the test was aborted by one: the result
is then 0x04 and the Fault stays (R412; for a fault that is neither trip nor short the code is a DESIGN CHOICE). Ring segments that
phase 6 found failed are declared down (09 R265). -/
def selfTestEnd (r : TestReport) (s : State) : State :=
  if s.stage ≠ .selfTest || !(s.run = .boot || s.run = .fault) then s
  else
    let s := forAll r.regs trimField s
    let shorted := allFields.filter fun f => fieldFitted s.code f && (fieldSt s f).tripped && !(fieldSt s f).lost
    let s := forAll shorted (fun f s => setField f { fieldSt s f with lost := true } s) s
    let failed := r.hbmFailed.filter fun p => p.1 < 16 && p.2 < codeStacks s.code
    let defects := ((testDefects r ++ s.clk.fail).filter fun p => p.1 < waferX && p.2 < waferY).dedup
    let s := { s with hbmFailed := failed, geo := achieve s.code { s.geo with defects := defects, skips := r.skips } (lostFields s) }
    let res := selfTestResult s (r.aborted || s.run = .fault || s.tripLatched || !shorted.isEmpty)
    let s := showStacks (showGeo (setCap s))
    let s := setReg .mid 0x09C (w32 (min r.ms 0xFFFFFFFF)) (setReg .mid 0x098
      (w32 (res + 2 ^ 16 * failed.length + 2 ^ 24 * (lostFields s).length)) s)
    let s := if res = 0 then s else setErr .mid 2 s
    let s := fire 27 { s with stage := .done, noArray := res = 2 || res = 3 }
    forAll (r.segs.filter (· < 16)) segmentDown (if res = 4 then enterFault s else setRun .ready s)

/-- SELF_TEST_END (14 R416). -/
def execSelfTestEnd (r : TestReport) (s : State) : Res := .next (selfTestEnd r s)

/-! Images dropped: UNLOAD and the array reset (14 R418, R422). -/

/-- UNLOAD: Ready or Halt with an image loaded (14 Table 14.4). -/
def unload (s : State) : State :=
  if s.busy.isSome then midRefuse 8 2 s
  else if !(s.run = .ready || s.run = .halt) || s.image.isNone then midRefuse 8 1 s
  else midDone 8 0 (setRun .ready (dropImage s))

/-- UNLOAD (14 R418, Table 14.4). -/
def execUnload (rq : Req) (s : State) : Res := .next (barWrite rq unload s)

/-- Steps 1 to 3 of a scrub (16 R458): keys and counters, tile state, edge-die buffers, replay buffers and queues. -/
def scrubKeysTilesDies (s : State) : State :=
  let s := scrubTiles (eraseKeys s)
  { s with
    dies := mmap DieSt.blank (fun x =>
      { x with ue := { Ue.blank with run := x.ue.run, ready := x.ue.ready }, pre := [] }) s.dies
    links := mmap LinkSt.blank (fun x => { x with unacked := [], queue := [] }) s.links }

/-- A scrub begins (16 R459). -/
def startScrub (why : ScrubFor) (s : State) : State :=
  scrubKeysTilesDies { s with scrub := .running, scrubFor := some why }

/-- The array has stopped for a reset: a sealed module scrubs first, then the image goes (R422, 16 Table 16.1). -/
def arrayResetStart (s : State) : State := if s.isSealed then startScrub .arrayReset s else dropImage s

/-- ARRAY_RESET is accepted; in Run by way of a halt at the next tick boundary (14 Table 14.4); a scrub that
failed is left only by a module reset or power-on (16 R459; code 7: DESIGN CHOICE). -/
def arrayReset (s : State) : State :=
  if s.busy.isSome then midRefuse 9 2 s
  else if s.run = .boot || s.run = .off then midRefuse 9 1 s
  else if s.run = .fault && (s.tripLatched || s.stuck) then midRefuse 9 7 s
  else if s.isSealed && s.scrub = .failed then midRefuse 9 7 s
  else
    let s := midBusy 9 .arrayReset s
    if s.run = .run then { s with asq := { s.asq with haltPend := true, voided := true } } else arrayResetStart s

/-- ARRAY_RESET (14 R422). -/
def execArrayReset (rq : Req) (s : State) : Res := .next (barWrite rq arrayReset s)

/-- What PLC shows of a placement is lost with it (14 Table 14.6). -/
def dropPlc (s : State) : State :=
  let s := setReg64 .plc 0x070 0 (setReg64 .plc 0x05C 0 (setReg .plc 0x050 0 s))
  (List.range 12).foldl (fun s k => setReg .plc (0x078 + 4 * k) 0 s) s

/-- The rest of an array reset: dark fields join the lost ones, the shape is found again (R422). With a scrub that
failed the module stays Sealed and the command ends with 0x09 (16 R459). -/
def arrayResetComplete (s : State) : State :=
  if s.busy ≠ some .arrayReset || s.run = .run || s.scrub = .running then s
  else if s.isSealed then midDone 9 9 s
  else
    let s := dropPlc (dropImage s)
    let s := forAll (allFields.filter fun f => fieldFitted s.code f && (fieldSt s f).tripped) (fun f s =>
      setField f { fieldSt s f with lost := true } s) s
    let s := placeGeo 0 0 s
    let dead := (fieldSt s 27).lost || s.geo.ua = 0 || s.geo.va = 0
    let s := { s with noArray := s.noArray || dead }
    let s := setReg .mid 0x0B0 (setBit (reg s .mid 0x0B0) 3 true) (showGeo (setCap s))
    midDone 9 0 (setRun .ready s)

/-- ARRAY_RESET_COMPLETE (14 R422). -/
def execArrayResetComplete (s : State) : Res := .next (arrayResetComplete s)

/-! The PCIe link (19 R535, R536, 18 R514). -/

/-- PCIE_HOT_RESET (19 R536). -/
def execPcieHotReset (s : State) : Res := .next (if s.run = .off then s else hostLink s.host.linkUp (pcieReset s))

/-- Send what the PBA holds for entries that may be sent (18 R514, 19 R535). -/
def flushPba (s : State) : State :=
  if !s.host.msixEn then s
  else forAll (List.range 32) (fun n s =>
    if bitOf (reg s .evc 0x600) n then msixSend n (setReg .evc 0x600 (setBit (reg s .evc 0x600) n false) s) else s) s

/-- PCIE_POWER_STATE_CHANGE (19 R535, 18 R514): the host's configuration writes give the power state, Bus Master Enable, MSI-X Enable
and the function mask. -/
def execPciePowerStateChange (d3hot : Bool) (ctl : HostCtl) (s : State) : Res :=
  .next (if s.run = .off || !s.host.linkUp then s
    else flushPba { s with host := { s.host with d3hot := d3hot, bme := ctl.bme, msixEn := ctl.msixEn, fmask := ctl.fmask } })

/-- MSIX_UNMASK (18 R514): a write of 0 to the entry's mask bit. -/
def msixUnmask (n : Fin 32) (s : State) : State :=
  let s := setReg .evc (0x400 + 16 * n.val + 12) 0 s
  if bitOf (reg s .evc 0x600) n.val then
    msixSend n.val (setReg .evc 0x600 (setBit (reg s .evc 0x600) n.val false) s) else s

def execMsixUnmask (rq : Req) (n : Fin 32) (s : State) : Res := .next (barWrite rq (msixUnmask n) s)

end Sys2Proof.Machine
end

