-- ==== Sys2Proof/Machine/Sec.lean ====
section
/-! DEFINITION. The sealed-job unit: SPDM requests, keys, sealing, unsealing and the scrub (16 R455 to R464). A response
is recorded by the content the manual gives it; its framing is that of DSP0274 and is not represented. -/

namespace Sys2Proof.Machine

/-- An SPDM response leaves the module. -/
def respond (t : Transport) (bs : List Byte) (s : State) : State := emit (.spdm t bs) s

/-- An SPDM request reaches the SJU, when one is fitted and the module is powered (R461). -/
def spdmReq (f : State → State) (s : State) : State := if powered s && sjuFitted s.code then f s else s

/-- The error response. -/
def spdmError (t : Transport) (s : State) : State := respond t [0x7F] s

/-- GET_VERSION: versions 1.2 and 1.3; negotiation starts again. -/
def execGetVersion (t : Transport) (s : State) : Res :=
  .next (spdmReq (fun s => respond t [0x12, 0x13] { s with spdm := ⟨1, 0, .doe⟩ }) s)

/-- GET_CAPABILITIES. -/
def execGetCapabilities (t : Transport) (s : State) : Res :=
  .next (spdmReq (fun s =>
    if s.spdm.stage = 0 then spdmError t s
    else respond t (Config.spdmBytes 0xE1 []) { s with spdm := { s.spdm with stage := max s.spdm.stage 2 } }) s)

/-- NEGOTIATE_ALGORITHMS: the single supported set, under version 1.2 or 1.3. -/
def execNegotiateAlgorithms (t : Transport) (ver : Nat) (supported : Bool) (s : State) : Res :=
  .next (spdmReq (fun s =>
    if s.spdm.stage = 2 && supported && (ver = 0x12 || ver = 0x13) then
      respond t [BitVec.ofNat 8 ver] { s with spdm := ⟨3, ver, .doe⟩ }
    else spdmError t s) s)

/-- Has the connection negotiated its algorithms? -/
def negotiated (s : State) : Bool := 3 ≤ s.spdm.stage

/-- GET_DIGESTS: the digest of the chain in slot 0. -/
def execGetDigests (t : Transport) (s : State) : Res :=
  .next (spdmReq (fun s => if negotiated s then respond t (Config.spdmBytes 0x81 []) s else spdmError t s) s)

/-- GET_CERTIFICATE: slot 0 holds the chain, slots 1 to 7 are empty. -/
def execGetCertificate (t : Transport) (slot : Nat) (s : State) : Res :=
  .next (spdmReq (fun s =>
    if negotiated s && slot = 0 then respond t (Config.spdmBytes 0x82 []) s else spdmError t s) s)

/-- CHALLENGE: signed with the device key. -/
def execChallenge (t : Transport) (slot : Nat) (nonce : List Byte) (s : State) : Res :=
  .next (spdmReq (fun s =>
    if negotiated s && slot = 0 then respond t (Config.spdmBytes 0x83 nonce) s else spdmError t s) s)

/-- Twelve registers as 48 bytes. -/
def hashRegs (s : State) (pg : Page) (o : Nat) : List Byte :=
  ((List.range 12).map fun i => natLE 4 (reg s pg (o + 4 * i)).toNat).flatten

/-- Store 48 bytes in twelve registers. -/
def setHashRegs (pg : Page) (o : Nat) (bs : List Byte) (s : State) : State :=
  forAll (List.range 12) (fun i s => setReg pg (o + 4 * i) (w32 (fieldLE bs (4 * i) 4)) s) s

/-- The bytes of a bank's content. -/
def bankBytes (b : SMap W32) : List Byte := (b.map fun e => natLE 8 e.1 ++ natLE 4 e.2.toNat).flatten

/-- A measurement block (Table 16.3); none for an index without one. -/
def measurement (s : State) (i : Nat) : Option (List Byte) :=
  match i with
  | 1 => some (Config.spdmBytes 0xE0 [1])
  | 2 => some (if s.mgmtHash.isEmpty then zeros 48 else s.mgmtHash)
  | 3 => some (match s.image with | some m => m.hash | none => zeros 48)
  | 4 => some (natLE 4 (cfgVer s).toNat ++ sha384 (bankBytes (activeBank s)))
  | 5 => some (natLE 4 (secState s).toNat ++ natLE 4 (levelCode s.level) ++ hashRegs s .sec 0x060)
  | 6 => some (natLE 4 (readReg s .host .cap 0x040).toNat ++ natLE 4 (reg s .cap 0x04C).toNat)
  | 7 => some (hashRegs s .plc 0x078)
  | _ => none

/-- GET_MEASUREMENTS: the block, with a signature of the device key on request (R462). -/
def execGetMeasurements (t : Transport) (index : Nat) (signed : Bool) (s : State) : Res :=
  .next (spdmReq (fun s =>
    match measurement s index with
    | some b => if negotiated s then respond t (b ++ if signed then Config.spdmBytes 0xE0 b else []) s else spdmError t s
    | none => spdmError t s) s)

/-- KEY_EXCHANGE: one session at a time. -/
def execKeyExchange (t : Transport) (pub : List Byte) (s : State) : Res :=
  .next (spdmReq (fun s =>
    if s.spdm.stage = 3 || s.spdm.stage = 4 then
      respond t (Config.spdmBytes 0xE4 pub) { s with spdm := { s.spdm with stage := 4 } }
    else spdmError t s) s)

/-- FINISH: the session is established when its verification holds. -/
def execFinish (t : Transport) (verifyOk : Bool) (s : State) : Res :=
  .next (spdmReq (fun s =>
    if s.spdm.stage = 4 && verifyOk then respond t [] { s with spdm := { s.spdm with stage := 5, via := t } }
    else spdmError t (if s.spdm.stage = 4 then { s with spdm := { s.spdm with stage := 3 } } else s)) s)

/-- Is a session established? -/
def session (s : State) : Bool := s.spdm.stage = 5

/-- HEARTBEAT. -/
def execHeartbeat (t : Transport) (s : State) : Res :=
  .next (spdmReq (fun s => if session s then respond t [] s else spdmError t s) s)

/-- END_SESSION. -/
def execEndSession (t : Transport) (s : State) : Res :=
  .next (spdmReq (fun s =>
    if session s then respond t [] { s with spdm := { s.spdm with stage := 3 } } else spdmError t s) s)

/-! Vendor-defined requests travel only inside a session (R463). -/

/-- A refused security request changes nothing but the code shown and REFUSED (R456, R471). -/
def secRefuse (code : Nat) (s : State) : State :=
  setErr .sec 0 { s with refusal := code }

/-- Answer a request of a session with its status byte. -/
def secAnswer (code : Nat) (s : State) : State :=
  respond s.spdm.via [BitVec.ofNat 8 code] (if code = 0 then s else secRefuse code s)

/-- A request inside a session; outside one nothing carries it. -/
def inSession (f : State → State) (s : State) : State := if powered s && sjuFitted s.code && session s then f s else s

/-- SET_HBM_KEY: accepted in Open only (R463). -/
def execSetHbmKey (dataKey tweakKey : List Byte) (s : State) : Res :=
  .next (inSession (fun s =>
    if s.isSealed then secAnswer 6 s else secAnswer 0 { s with hbmKey := some (dataKey, tweakKey) }) s)

/-- The state of a port's link (11 Table 11.6). -/
def lnkState (s : State) (p : Die) : Nat := fld (reg s (.lnk p) 0x040).toNat 2 0

/-- Load a key: the frame counter of the direction restarts. -/
def loadLinkKey (p : Die) (rx : Bool) (salt key : List Byte) (s : State) : State :=
  let l := linkSt s p
  let s := { s with linkKeys := minsert (2 * p.val + rx.toNat) ⟨salt, key⟩ s.linkKeys }
  showActive (setLink p (if rx then { l with rxCtr := 0 } else { l with txCtr := 0 }) s)

/-- SET_LINK_KEY (R463, Table 16.2). -/
def execSetLinkKey (port : Nat) (rx : Bool) (salt key : List Byte) (s : State) : Res :=
  .next (inSession (fun s =>
    let p : Die := Fin.ofNat 16 port
    if 16 ≤ port || !portFitted s.code p then secAnswer 8 s
    else if lnkState s p = 3 || lnkState s p = 4 then secAnswer 9 s
    else secAnswer 0 (loadLinkKey p rx salt key s)) s)

/-- The first code of Table 16.2 that refuses a SEAL. -/
def sealCode (s : State) : Nat :=
  if !sjuFitted s.code then 1
  else if s.run ≠ .ready || s.image.isSome then 2
  else if s.level = .intrusive then 3
  else if s.hbmKey.isNone then 4
  else if s.ide.isNone then 5
  else if s.isSealed then 6
  else if s.scrub = .running then 7
  else 0

/-- SEAL (Table 16.1): latch the hash, count, enter Sealed. -/
def sealNow (hash : List Byte) (s : State) : State :=
  setHashRegs .sec 0x060 hash (bump .sec 0x050 (showActive { s with isSealed := true }))

/-- SEAL (16 R456). Without the SJU every SEAL is refused with 0x01 (R455). -/
def execSeal (hash : List Byte) (s : State) : Res :=
  .next (if !powered s then s
    else if !sjuFitted s.code then secRefuse 1 s
    else inSession (fun s =>
      let c := sealCode s
      if c = 0 then secAnswer 0 (sealNow hash s) else secAnswer c s) s)

/-- The first code of Table 16.2 that refuses an UNSEAL. A trip, and a scrub that failed, are left only by a module
reset or power-on (Table 16.1, R459). -/
def unsealCode (s : State) : Nat :=
  if !sjuFitted s.code then 1
  else if !(s.run = .ready || s.run = .halt || s.run = .fault) || s.tripLatched then 2
  else if !s.isSealed then 6
  else if s.scrub = .running then 7
  else if s.scrub = .failed then 2
  else 0

/-- UNSEAL, by SPDM request or by SEC_CMD (16 R456). -/
def execUnseal (spdm : Bool) (s : State) : Res :=
  .next (if !powered s then s
    else
      let c := unsealCode s
      if spdm then inSession (fun s => if c = 0 then secAnswer 0 (startScrub .unsealing s) else secAnswer c s) s
      else if c = 0 then startScrub .unsealing s else secRefuse c s)

/-- GET_SEC: SEC_STATE and SEC_KEYS (R463). -/
def execGetSec (s : State) : Res :=
  .next (inSession (fun s => respond s.spdm.via (0 :: natLE 4 (secState s).toNat ++ natLE 4 (secKeys s).toNat) s) s)

/-! Job regions (R458). -/

/-- Is a byte of the store outside every job region: in the ledger ring, or in the loaded image? -/
def keptByte (s : State) (a : Nat) : Bool :=
  (match s.ledger with | some (b, n) => b ≤ a && a < b + n | none => false)
    || (match s.image with | some m => m.addr ≤ a && a < m.addr + m.size | none => false)

/-- Does a range reach a job region? -/
def jobRange (s : State) (a n : Nat) : Bool :=
  let inside (b k : Nat) : Bool := b ≤ a && a + n ≤ b + k
  !((match s.ledger with | some (b, k) => inside b k | none => false)
    || (match s.image with | some m => inside m.addr m.size | none => false))

/-- A block of zero bytes. -/
def zeroBlock (g : GBlock) : GBlock := ⟨g.lanes.map fun _ => 0, 0, 0, 0⟩

/-- What zero bytes leave of a reduction's sum and hold areas. -/
def zeroAreas (r : RedSt) : RedSt :=
  { r with adds := mmap AddSt.blank (fun a => { a with sums := [], held := [], prim := [] }) r.adds }

/-- Step 4 of a scrub: every job region becomes zero, the sum and hold areas, retained blocks, channel queues and sump side
bytes among them. -/
def zeroJobRegions (s : State) : State :=
  { s with hbm := s.hbm.filter fun e => keptByte s e.1
           poison := s.poison.filter fun e => keptByte s (64 * e.1)
           cipher := []
           dies := mmap DieSt.blank (fun x => { x with side := [] }) s.dies
           rdc := { s.rdc with
             reds := s.rdc.reds.map fun e => (e.1, zeroAreas e.2)
             kept := s.rdc.kept.map fun e => (e.1, e.2.map fun k =>
               { k with b8 := zeroBlock k.b8, b16 := k.b16.map zeroBlock, sat := false, satFull := false })
             queue := []
             shOut := [] } }

/-- A scrub ends (R459): done, leaving Sealed, or failed, staying Sealed; a split ring keeps it from writing the regions. -/
def scrubComplete (ok : Bool) (us : Nat) (s : State) : State :=
  if s.scrub ≠ .running then s
  else if ok && s.ring.length < 2 then
    let s := zeroJobRegions s
    let s := setReg .sec 0x058 (w32 (min us 0xFFFFFFFF)) (bump .sec 0x054 s)
    fire 26 (showActive { s with scrub := .done, isSealed := false })
  else fire 26 (setErr .sec 1 { s with scrub := .failed })

/-- SCRUB_COMPLETE (16 R459). -/
def execScrubComplete (ok : Bool) (us : Nat) (s : State) : Res := .next (scrubComplete ok us s)

/-- IDE_LOST (16 R464). -/
def execIdeLost (s : State) : Res :=
  .next (if s.ide.isNone then s else setErr .sec 2 { s with ide := none })

/-- IDE_KM over the session on DOE: one Link or one Selective stream (16 R464). -/
def execIdeKm (k : IdeKind) (s : State) : Res :=
  .next (inSession (fun s =>
    if s.spdm.via ≠ .doe then s
    else match s.ide with
    | none => respond .doe [0] { s with ide := some k }
    | some j => if j = k then respond .doe [0] s else spdmError .doe s) s)

end Sys2Proof.Machine
end

