-- ==== Sys2Proof/Machine/Debug.lean ====
section
/-! DEFINITION. Debug level, perturbations, TICK1, error injection, JTAG, tile-window writes (16 R453 to R469,
17 R491 to R494, 19 R542 to R544). -/

namespace Sys2Proof.Machine

/-- Does a perturbation register act: EN, in Open with Intrusive, past the tick boundary that it waits for (16 R469)? -/
def prtActs (s : State) (o : Nat) : Bool :=
  bitOf (reg s .dbg o) 31 && !s.isSealed && s.level = .intrusive && !decide (o ∈ s.prtHeld)

/-- The step notes the value of each perturbation register that acts: `force` where a write has just given it one, else the
first (16 R469). -/
def notePrt (force : Option Nat) (s : State) : State :=
  { s with asq := { s.asq with prtVals := prtRegs.foldl (fun m o =>
      if prtActs s o && (force = some o || mget 0 m o = 0) then mput 0 o (reg s .dbg o) m else m) s.asq.prtVals } }

/-- The perturbation registers return to 0 when the level drops below Intrusive (16 R454). -/
def clearPrt (s : State) : State := forAll prtRegs (fun o s => setReg .dbg o 0 s) s

/-- Set a debug level; below Intrusive the perturbations are gone. -/
def setLevel (l : DbgLevel) (s : State) : State :=
  if l = .intrusive then { s with level := l } else clearPrt { notePrt none s with level := l }

/-- A debug level from its code. -/
def levelOf : Nat → Option DbgLevel | 0 => some .none | 1 => some .observe | 2 => some .intrusive | _ => none

/-- May the level be raised to `l` (16 R453, R457; 00 Table 0.7)? -/
def raiseOk (s : State) (l : DbgLevel) : Bool :=
  pageEn s .dbg && !(s.isSealed && l = .intrusive)

/-- A write to DBG_LEVEL. -/
def levelWrite (v : W32) (s : State) : State :=
  match levelOf (fld v.toNat 1 0) with
  | none => setErr .dbg 0 s
  | some l =>
    if levelCode l ≤ levelCode s.level then setLevel l s
    else if raiseOk s l then setLevel l s
    else setErr .dbg 0 s

/-- DBG_LEVEL_WRITE (16 R453). -/
def execDbgLevelWrite (rq : Req) (v : W32) (s : State) : Res := .next (barWrite rq (levelWrite v) s)

/-- Open with Intrusive: the one combination of perturbation, ERR_INJ and TICK1. -/
def openIntrusive (s : State) : Bool := !s.isSealed && s.level = .intrusive

/-- A TICK1 command: one tick from Halt (16 R468). -/
def tick1 (s : State) : State :=
  if !openIntrusive s then denyDbg s
  else if s.run ≠ .halt || faultValid s || s.image.isNone then setAcc .dbg s
  else mapTiles clearTok { s with asq := { s.asq with tick1 := true } }

/-- TICK1 (16 R468). -/
def execTick1 (rq : Req) (s : State) : Res := .next (barWrite rq tick1 s)

/-- The perturbations of the array; they act from the next tick boundary (16 R469). -/
def prtArray : List Nat := [0x050, 0x058, 0x05C, 0x060, 0x064]

/-- A write to a perturbation register (16 R454): refused outside Open with Intrusive and where `bad` holds. One of the array waits
for the tick boundary while ticks run. -/
def prtWrite (o : Nat) (bad : Bool) (v : W32) (s : State) : State :=
  if !openIntrusive s || bad then setErr .dbg 1 s
  else
    let v := match regI .dbg o with | some r => v &&& r.mask | none => 0
    let s := setReg .dbg o v (notePrt none s)
    notePrt (some o) (if moving s && o ∈ prtArray then { s with prtHeld := addNew o s.prtHeld } else s)

/-- A requester's write to a perturbation register: no access set denies it, its only refusal is PRT_REFUSED (16 R454, R465). -/
def prtBus (f : State → State) (s : State) : State := if powered s then f s else s

/-- A counting perturbation's EN clears itself when its count is 0 (R472). -/
def noCount (hi lo : Nat) (v : W32) : W32 := if fld v.toNat hi lo = 0 then setBit v 31 false else v

/-- Is L mode in force for PRT_HOP: the loaded image's mode, else CFG_MODE of the active bank (R454)? -/
def lMode (s : State) : Bool :=
  match s.image with | some i => i.lmode | none => fld (cfgv s .cfg 0x060).toNat 1 0 = 1

/-- PRT_HOP (16 R454, R469). -/
def execPrtHop (_ : Req) (v : W32) (s : State) : Res :=
  .next (prtBus (fun s => prtWrite 0x050 (bitOf v 31 && lMode s) v s) s)
/-- PRT_LINK (16 R454, R469). -/
def execPrtLink (_ : Req) (v : W32) (s : State) : Res :=
  .next (prtBus (prtWrite 0x054 (2000 < fld v.toNat 10 0) v) s)
/-- PRT_TOK (16 R469). -/
def execPrtTok (_ : Req) (v : W32) (s : State) : Res := .next (prtBus (prtWrite 0x058 false v) s)
/-- PRT_WAKE (16 R469). -/
def execPrtWake (_ : Req) (v : W32) (s : State) : Res := .next (prtBus (prtWrite 0x05C false v) s)
/-- PRT_OWL (16 R469). -/
def execPrtOwl (_ : Req) (v : W32) (s : State) : Res := .next (prtBus (prtWrite 0x060 false (noCount 29 16 v)) s)
/-- PRT_SAT (16 R469). -/
def execPrtSat (_ : Req) (v : W32) (s : State) : Res := .next (prtBus (prtWrite 0x064 false (noCount 29 16 v)) s)
/-- PRT_RES (16 R469). -/
def execPrtRes (_ : Req) (v : W32) (s : State) : Res := .next (prtBus (prtWrite 0x068 false (noCount 23 16 v)) s)
/-- PRT_LATE (16 R469). -/
def execPrtLate (_ : Req) (v : W32) (s : State) : Res := .next (prtBus (prtWrite 0x06C false v) s)

/-- One event of a perturbation: PRT_COUNT (16 R469). -/
def prtEvent (s : State) : State := bump .dbg 0x070 (notePrt none s)

/-- Use up one count of PRT_OWL, PRT_SAT or PRT_RES; EN clears itself at 0 (R472). -/
def prtUse (o hi : Nat) (s : State) : State :=
  let s := notePrt none s
  let w := reg s .dbg o
  let n := fld w.toNat hi 16 - 1
  let w := setFld w hi 16 n
  prtEvent (setReg .dbg o (if n = 0 then setBit w 31 false else w) s)

/-- Does PRT_OWL or PRT_SAT act on a unit? -/
def prtUnit (s : State) (o unit : Nat) : Bool :=
  let w := reg s .dbg o
  prtActs s o && (bitOf w 30 || fld w.toNat 11 0 = unit) && fld w.toNat 29 16 ≠ 0

/-- ERR_INJ (00 R22). -/
def errInj (pg : Page) (v : W32) (s : State) : State :=
  if !pageFitted s.code pg then s
  else if !openIntrusive s then denyDbg s
  else injectErrs pg v s

/-- ERR_INJ_WRITE (00 R22). -/
def execErrInjWrite (rq : Req) (pg : Page) (v : W32) (s : State) : Res := .next (barWrite rq (errInj pg v) s)

/-! JTAG (16 R466, 19 R542 to R544). -/

/-- TRST_N: low holds the TAP in Test-Logic-Reset, where IEEE 1149.1 selects IDCODE (PRESUMED). -/
def execTrstN (level : Bool) (s : State) : Res :=
  .next { s with jtag := if level then { s.jtag with trstN := true } else { s.jtag with trstN := false, ir := 0x01 } }

/-- The TAP answers in every state except Off while TRST_N is high. -/
def tapUp (s : State) : Bool := powered s && s.jtag.trstN

def selectIr (ir : Nat) (out : List Bool) (s : State) : State :=
  if tapUp s then emit (.tdo out) { s with jtag := { s.jtag with ir := ir, tck := some s.now } } else s

/-- EXTEST is accepted only in Boot before ARRAY_UP, at Open with Intrusive (R466). -/
def extestOk (s : State) : Bool :=
  s.run = .boot && openIntrusive s && (s.stage = .waiting || s.stage = .verifying || s.stage = .running)

/-- EXTEST: the boundary-scan register drives the pins, or BYPASS. -/
def execExtest (s : State) : Res :=
  .next (if extestOk s then selectIr 0x00 s.jtag.bsr s else selectIr 0xFF [false] s)

/-- IDCODE: 0x1005_6B47, bit 0 first. -/
def execIdcode (s : State) : Res :=
  .next (selectIr 0x01 ((List.range 32).map fun i => bitOf 0x10056B47 i) s)

/-- BYPASS. -/
def execBypass (s : State) : Res := .next (selectIr 0xFF [false] s)

/-- The levels at the pins that the boundary-scan register covers (R543): PERST_N, PWR_EN, PRSNT_N, THERMTRIP_OUT_N,
the two SMBus lines, the two ADDR_SEL lines, EXT0 to EXT7, TMS, TCK, TDI, TDO, TRST_N. The order is a DESIGN CHOICE; a
level that no state holds is free. -/
def scanPins (s : State) : List Bool :=
  let w := Config.freeWord s.fc
  [s.host.perstN, s.host.pwrEn, false, s.host.tripOutN, bitOf w 0, bitOf w 1, bitOf w 2, bitOf w 3]
    ++ (List.range 8).map (fun n => s.evc.pinRaw.testBit n) ++ [bitOf w 4, bitOf w 5, bitOf w 6, bitOf w 7, s.jtag.trstN]

/-- SAMPLE/PRELOAD: the pins are sampled and the register preloaded. -/
def execSamplePreload (tdi : List Bool) (s : State) : Res :=
  .next (if tapUp s then
    let s' := selectIr 0x02 (scanPins s) (freshFree s)
    { s' with jtag := { s'.jtag with bsr := tdi } } else s)

/-- What Capture-DR of DBGACC shows (19 Table 19.10). -/
def dbgCapture (j : Jtag) : W64 :=
  BitVec.ofNat 64 (j.off % 2 ^ 26 + 2 ^ 30 * j.err.toNat + 2 ^ 31 * j.busy.isSome.toNat + 2 ^ 32 * j.data.toNat)

/-- A scan of DBGACC: Capture-DR leaves, bit 0 first; at Update-DR an access starts, or is discarded while one is in progress
(R544). -/
def execDbgacc (dr : W64) (s : State) : Res :=
  .next (if !tapUp s then s
    else emit (.tdo ((List.range 64).map fun i => (dbgCapture s.jtag).getLsbD i)) { s with jtag := if s.jtag.busy.isSome then { s.jtag with ir := 0x20, tck := some s.now, err := true }
                          else { s.jtag with ir := 0x20, tck := some s.now, busy := some dr, off := fld dr.toNat 25 0 } })

/-! Tile-window writes (17 R494). -/

/-- A 32-bit write to a tile's view: SRAM under R41, raw bits elsewhere, only COUNT of a sett word. The answer is none
where the write is discarded with ACC_ERR. -/
def viewWrite (t : Tile) (o : Nat) (v : W32) : Option Tile :=
  if o < exposedBytes then some (sramWrite o (natLE 4 v.toNat) t)
  else if o < 0x180000 then none
  else if o < 0x188000 then some { t with acc := mput 0 ((o - 0x180000) / 4) v t.acc }
  else if o < 0x188400 then
    let k := (o - 0x188000) / 128
    let p := (o - 0x188000) % 128
    if p < 80 then
      let bs := xaRaw (mget XaLane.blank t.xa k)
      some { t with xa := mput XaLane.blank k (xaOfRaw (bs.take p ++ natLE 4 v.toNat ++ bs.drop (p + 4))) t.xa }
    else some t
  else if 0x189000 ≤ o ∧ o < 0x18A000 then some { t with vu := mput 0 ((o - 0x189000) / 4) v t.vu }
  else if 0x18A000 ≤ o ∧ o < 0x18B000 then some { t with vreg := mputs 0 (o - 0x18A000) (natLE 4 v.toNat) t.vreg }
  else if 0x18B000 ≤ o ∧ o < 0x18B400 then some { t with thin := mput 0 ((o - 0x18B000) / 4) v t.thin }
  else if 0x18C000 ≤ o ∧ o < 0x18C200 then
    if (o - 0x18C000) % 16 = 0 then
      let k := (o - 0x18C000) / 16
      some { t with setts := mput Sett.blank k { mget Sett.blank t.setts k with count := fld v.toNat 15 0 } t.setts }
    else some t
  else some t

/-- A tile-view write (R494, 16 Table 16.5). -/
def writeView (n o : Nat) (v : W32) (s : State) : State :=
  if viewKind o = .reserved then s
  else if accSet s ≠ .i || s.run ≠ .halt then denyDbg s
  else if !pageEn s .twc then s
  else
    let e := selection s n
    if !e.valid then s
    else match viewWrite (selTile s e) o v with
      | some t => setSelTile e t s
      | none => setAcc .twc s

/-! Translation queries (08 R257). -/

/-- The answer to a write of PLC_XL_IN. -/
def xlAnswer (s : State) (v : W32) : W32 :=
  let a := fld v.toNat 7 0
  let b := fld v.toNat 15 8
  if bitOf v 31 then
    if a < waferX && b < waferY then
      let k := physKind s a b
      w32 (k.2.1 + 2 ^ 8 * k.2.2 + 2 ^ 16 * k.1 + 2 ^ 31)
    else 0
  else match placeOk s with
    | some p =>
      if inImage s a b then
        (match imagePhys s.geo p a b with
         | some (x, y) => w32 (x + 2 ^ 8 * y + 2 ^ 31)
         | none => 0)
      else 0
    | none => 0

/-- PLC_XL_IN (08 R257). -/
def xlWrite (v : W32) (s : State) : State :=
  let v := v &&& 0x8000FFFF
  setReg .plc 0x068 (xlAnswer s v) (setReg .plc 0x064 v s)

def execPlcXlIn (rq : Req) (v : W32) (s : State) : Res := .next (barWrite rq (xlWrite v) s)

/-- PEER_SEL_WRITE (11 R364): the reads of PEER_W0 to PEER_W3 follow the register. -/
def execPeerSelWrite (rq : Req) (v : W32) (s : State) : Res :=
  .next (barWrite rq (fun s => plainWrite rq .rdc 0x220 v s) s)

/-! Timers (17 R489). -/

/-- A write of the upper half of a compare value arms timer n, or disarms it when the value is 0. -/
def tmrCmpWrite (rq : Req) (n : Fin 4) (hi : W32) (s : State) : State :=
  let v := pairValue s rq .tmb (0x050 + 8 * n.val) hi
  let s := applyHigh rq .tmb (0x050 + 8 * n.val) hi s
  { s with armed := if v = 0 then s.armed &&& (15 - 2 ^ n.val) else s.armed ||| 2 ^ n.val }

/-- TMR_CMP_WRITE (17 R489). -/
def execTmrCmpWrite (rq : Req) (n : Fin 4) (hi : W32) (s : State) : Res := .next (barWrite rq (tmrCmpWrite rq n hi) s)

/-- An armed timer whose value has passed fires once (R489). -/
def timerFire (n : Fin 4) (s : State) : State :=
  if powered s && s.armed.testBit n.val && reg64 s .tmb (0x050 + 8 * n.val) ≤ nowW s then
    fire (8 + n.val) (setReg .tmb 0x070 (setBit (reg s .tmb 0x070) n.val true)
      { s with armed := s.armed &&& (15 - 2 ^ n.val) })
  else s

/-- TIMER_FIRE (17 R489). -/
def execTimerFire (n : Fin 4) (s : State) : Res := .next (timerFire n s)

/-! Event controller (18 R506 to R514). -/

/-- PEND_SET_WRITE: each written bit is a firing of its source (18 R506). -/
def pendSet (w : Fin 32) (v : W32) (s : State) : State :=
  forAll ((List.range 32).filter fun i => bitOf v i) (fun i s => fire (32 * w.val + i) s) s

def execPendSetWrite (rq : Req) (w : Fin 32) (v : W32) (s : State) : Res := .next (barWrite rq (pendSet w v) s)

/-- PEND_CLEAR: written bits clear, and a source that fires in the same cycle stays set (18 R506, R508). -/
def pendClear (w : Fin 32) (v fired : W32) (s : State) : State :=
  pendSet w fired (setReg .evc (0x100 + 4 * w.val) (reg s .evc (0x100 + 4 * w.val) &&& ~~~v) s)

def execPendClear (rq : Req) (w : Fin 32) (v fired : W32) (s : State) : Res :=
  .next (barWrite rq (pendClear w v fired) s)

/-- A vector whose TIME has passed since its first counted firing fires (18 R512). -/
def vectorTime (n : Fin 32) (s : State) : State :=
  let e := mget (0, 0) s.evc.vecs n.val
  if powered s && e.1 ≠ 0 && fld (vecCtl s n.val).toNat 15 0 * 1000 ≤ s.now - e.2 then vectorFire n.val s else s

/-- VECTOR_TIME_EXPIRY (18 R512). -/
def execVectorTimeExpiry (n : Fin 32) (s : State) : Res := .next (vectorTime n s)

/-! MCTP control (19 R539). -/

/-- The endpoint answers whenever the management complex is powered. -/
def mctpReq (f : State → State) (s : State) : State := if powered s then f s else s

/-- SET_ENDPOINT_ID: accepted. The response of DSP0236: completion code, status, assigned EID, pool size (PRESUMED). -/
def execSetEndpointId (eid : Nat) (s : State) : Res :=
  .next (mctpReq (fun s => emit (.mctp [0, 0, BitVec.ofNat 8 eid, 0]) { s with host := { s.host with eid := eid % 256 } }) s)

/-- GET_ENDPOINT_ID. -/
def execGetEndpointId (s : State) : Res :=
  .next (mctpReq (fun s => emit (.mctp [0, BitVec.ofNat 8 s.host.eid]) s) s)

/-- The supported message types. -/
def mctpTypes : List Nat := [0x00, 0x05, 0x06, 0x7E]

/-- GET_MCTP_VERSION_SUPPORT: the version bytes for a supported type are those of its specification and are free. -/
def execGetMctpVersionSupport (typ : Nat) (s : State) : Res :=
  .next (mctpReq (fun s =>
    if typ ∈ mctpTypes || typ = 0xFF then
      emit (.mctp (0 :: natLE 4 (Config.freeWord s.fc).toNat)) (freshFree s)
    else emit (.mctp [0x80]) s) s)

/-- GET_MESSAGE_TYPE_SUPPORT: 0x00, 0x05, 0x06 and 0x7E. -/
def execGetMessageTypeSupport (s : State) : Res :=
  .next (mctpReq (fun s => emit (.mctp ([0, 4] ++ mctpTypes.map (BitVec.ofNat 8))) s) s)

/-- GET_VENDOR_DEFINED_MESSAGE_SUPPORT: PCI vendor ID 0x0D7A, the one set. -/
def execGetVendorDefinedMessageSupport (sel : Nat) (s : State) : Res :=
  .next (mctpReq (fun s =>
    if sel = 0 then emit (.mctp [0, 0xFF, 0x00, 0x0D, 0x7A]) s else emit (.mctp [0x02]) s) s)

end Sys2Proof.Machine
end

