-- ==== Sys2Proof/Machine/Dma.lean ====
section
/-! DEFINITION. BAR2, host DMA and edge DMA, the error counts of the stacks, the ledger's drain pointer and the CBG query
unit (17 R475 to R501, 09 R270 to R272, R287, R288, 12 R375). -/

namespace Sys2Proof.Machine

/-! Errors of the parameter store (09 R270 to R272). -/

/-- Address of sector `k` of a stack. -/
def stackAddr (d : Die) (n : Fin 4) (k : Nat) : Nat := d.val * 2 ^ 38 + n.val * 2 ^ 36 + 64 * k

/-- A range lies in the store, within one stack. -/
def rangeValid (s : State) (a n : Nat) : Bool :=
  n ≠ 0 && hbmValid s a && hbmValid s (a + n - 1) && a / 2 ^ 36 = (a + n - 1) / 2 ^ 36

/-- The patrol scrub's next read (R272): counted only (Table 9.4). -/
def patrolScrub (d : Die) (n : Fin 4) (e : Ecc) (s : State) : State :=
  if !powered s || nStk s ≤ n.val || fld (cfgv s (.hbm d (stkCtl s d n)) 0x05C).toNat 7 0 = 0 then s
  else
    let k := mget 0 (dieSt s d).scrubAt n.val
    let a := stackAddr d n k
    let s := hbmTouch a 64 (addFlaws [(a, e)] s)
    let k := (k + 1) % 750000000
    setReg (.hbm d (stkCtl s d n)) 0x060 (w32 (k / 64)) (setDie d { dieSt s d with scrubAt := mput 0 n.val k (dieSt s d).scrubAt } s)

/-- PATROL_SCRUB_READ (09 R272). -/
def execPatrolScrubRead (d : Die) (n : Fin 4) (ecc : Ecc) (s : State) : Res := .next (patrolScrub d n ecc s)

/-! BAR2 (17 R475, R476, 16 R464, 14 R426, 19 R537). -/

/-- B2_BASE. -/
def b2Base (s : State) : Nat := (reg64 s .hdm 0x140) % 2 ^ 42

/-- Is a job-region access of the host refused: in Sealed without IDE, and in a sealed Fault until a scrub
(16 R464, Table 16.4)? -/
def jobClosed (s : State) (a n : Nat) (ide : Bool) : Bool :=
  s.isSealed && jobRange s a n && (!(ide && s.ide.isSome) || s.run = .fault)

/-- In a sealed Fault the job regions are closed to every path until a scrub (16 Table 16.4). -/
def jobShut (s : State) (a n : Nat) : Bool := s.isSealed && s.run = .fault && jobRange s a n

/-- Does a move put a byte of a job region anywhere else, or another byte into a job region (16 R464)? -/
def jobMixed (s : State) (src dst n : Nat) : Bool :=
  s.isSealed && (List.range n).any fun k => jobRange s (src + k) 1 != jobRange s (dst + k) 1

def bar2Read (off len : Nat) (ide : Bool) (es : EccList) (s : State) : State :=
  let a := b2Base s + off
  if s.run = .off then s
  else if s.run = .boot then emit (.bar2Abort off) s
  else if !rangeValid s a len then emit (.bar2Abort off) (setErr .hdm 2 s)
  else if jobClosed s a len ide then emit (.bar2Unsupported off) s
  else
    let s := hbmTouch a len (addFlaws es s)
    emit (.bar2Data off (hbmBytes s a len) (hbmPoisoned s a len)) s

/-- BAR2_READ (17 R475). -/
def execBar2Read (off len : Nat) (ide : Bool) (ecc : EccList) (s : State) : Res :=
  if 2 ^ 36 < off + len then .fault .outsideBar else .next (bar2Read off len ide ecc s)

def bar2Write (off : Nat) (data : List Byte) (ide poisoned : Bool) (s : State) : State :=
  let a := b2Base s + off
  if s.run = .off then s
  else if poisoned then setErr .hdm 2 (logPoison s)
  else if s.run = .boot then s
  else if !rangeValid s a data.length then setErr .hdm 2 s
  else if jobClosed s a data.length ide then s
  else hbmWrite a data s

/-- BAR2_WRITE (17 R475, 19 R537). -/
def execBar2Write (off : Nat) (data : List Byte) (ide poisoned : Bool) (s : State) : Res :=
  if 2 ^ 36 < off + data.length then .fault .outsideBar else .next (bar2Write off data ide poisoned s)

/-! Descriptors (17 Table 17.13, 09 Table 9.11). -/

structure Desc where
  p : Nat          -- HADDR or SRC
  m : Nat          -- MADDR or DST
  len : Nat
  seg : Nat
  flags : Nat
  utag : Nat
  sts : Nat
  deriving DecidableEq, Repr

def parseDesc (b : List Byte) : Desc :=
  ⟨fieldLE b 0 8, fieldLE b 8 8, fieldLE b 16 4, byteAt b 20, byteAt b 21, fieldLE b 22 2, fieldLE b 24 8⟩

/-- Is a descriptor one that moves anything: reserved flags zero, nonzero length in whole units, at most 64 segments,
addresses aligned (R288, 17 R497)? -/
def descOk (d : Desc) (resBit : Nat) : Bool :=
  d.flags >>> resBit = 0 && d.len ≠ 0 && d.len % 64 = 0 && 12 ≤ d.seg && d.seg ≤ 30 &&
    ceilDiv d.len (2 ^ d.seg) ≤ 64 && d.p % 64 = 0 && d.m % 64 = 0

/-- First byte and length of each segment. -/
def segments (d : Desc) : List (Nat × Nat) :=
  (List.range (ceilDiv d.len (2 ^ d.seg))).map fun i => (i * 2 ^ d.seg, min (2 ^ d.seg) (d.len - i * 2 ^ d.seg))

/-- The 16-byte completion record (R288). -/
def completion (r : DmaRun) : List Byte :=
  natLE 8 r.bitmap ++ natLE 2 (parseDesc r.desc).utag ++ natLE 1 r.code ++ zeros 5

/-- Record a segment's result: bit s of the bitmap, or the first failure's code. -/
def segResult (i code : Nat) (r : DmaRun) : DmaRun :=
  if code = 0 then { r with bitmap := r.bitmap + 2 ^ i } else { r with code := if r.code = 0 then code else r.code }

/-! Host DMA (17 R495 to R497). -/

/-- A host-DMA queue may fetch: HDM enabled, the queue enabled and not empty, the link able to carry its requests
(00 Table 0.7, 19 R535). -/
def hdqReady (s : State) (q : Fin 8) : Bool :=
  let o := 0x040 + 0x20 * q.val
  powered s && pageEn s .hdm && bitOf (reg s .hdm (o + 8)) 31 && (mfind s.hdq q.val).isNone &&
    reg s .hdm (o + 16) ≠ reg s .hdm (o + 12) && s.host.linkUp && s.host.bme && !s.host.d3hot

/-- One segment of a host-DMA descriptor: its failure code, 0 when it completed, and the state. -/
def hostSeg (d : Desc) (seg : Nat × Nat) (h : HostRead) (ide : Bool) (es : EccList) (s : State) : Nat × State :=
  let m := d.m + seg.1
  if !rangeValid s m seg.2 then (1, s)
  else if d.flags.testBit 3 then if jobShut s m seg.2 then (4, s) else (0, hbmWrite m (zeros seg.2) s)
  else if jobClosed s m seg.2 ide then (4, s)
  else if d.flags.testBit 2 then
    let s := hbmTouch m seg.2 (addFlaws es s)
    if hbmPoisoned s m seg.2 then (2, s)
    else (0, emit (.hostWrite (d.p + seg.1) (hbmBytes s m seg.2)) s)
  else match h with
    | .data bs => (0, hbmWrite m ((bs ++ zeros seg.2).take seg.2) s)
    | .failed => (5, s)
    | .poisoned => (6, s)

/-- Run the segments in order. -/
def hostSegs (d : Desc) (ide : Bool) (es : EccList) : List (Nat × Nat) → List HostRead → Nat → DmaRun → State → DmaRun × State
  | [], _, _, r, s => (r, s)
  | seg :: rest, hs, i, r, s =>
    let x := hostSeg d seg (hs.headD .failed) ide es s
    let s := if x.1 = 0 then x.2 else setErr .hdm 0 (bump .hdm 0x148 x.2)
    hostSegs d ide es rest hs.tail (i + 1) (segResult i x.1 r) s

/-- A queue fetches and runs its next descriptor. -/
def hostDescriptor (q : Fin 8) (desc : HostRead) (host : List HostRead) (ide : Bool) (es : EccList) (s : State) : State :=
  if !hdqReady s q then s
  else match desc with
  | .data b =>
    let d := parseDesc b
    let r : DmaRun := ⟨b.take 32, 0, 0⟩
    let x := if descOk d 6 then hostSegs d ide es (segments d) host 0 r s else ({ r with code := 1 }, s)
    { x.2 with hdq := minsert q.val x.1 x.2.hdq }
  | _ =>
    let o := 0x048 + 0x20 * q.val
    setErr .hdm 1 (setReg .hdm o (setBit (reg s .hdm o) 31 false) s)

/-- HOST_DMA_DESCRIPTOR (17 R495, R497). -/
def execHostDmaDescriptor (q : Fin 8) (desc : HostRead) (host : List HostRead) (via : HostVia) (s : State) : Res :=
  .next (hostDescriptor q desc host via.ide via.ecc s)

/-- The completion record is written after the data; HEAD moves on (17 R496, 18 Table 18.1). -/
def hostComplete (q : Fin 8) (s : State) : State :=
  match mfind s.hdq q.val with
  | none => s
  | some r =>
    let d := parseDesc r.desc
    let s := emit (.hostWrite d.sts (completion r)) { s with hdq := merase q.val s.hdq }
    let s := headNext .hdm (0x040 + 0x20 * q.val) s
    if d.flags.testBit 0 then fire (16 + q.val) s else s

/-- HOST_DMA_COMPLETE (17 R496). -/
def execHostDmaComplete (q : Fin 8) (s : State) : Res := .next (hostComplete q s)

/-- A write to a queue's control register: a ring size above 12 is discarded with ACC_ERR (R501, 09 R290). -/
def queueCtl (rq : Req) (pg : Page) (o : Nat) (v : W32) (s : State) : State :=
  if 12 < fld v.toNat 3 0 then setAcc pg s else plainWrite rq pg o v s

/-- HDQ_TAIL_WRITE (17 R495). -/
def execHdqTailWrite (rq : Req) (q : Fin 8) (v : W32) (s : State) : Res :=
  .next (barWrite rq (fun s => plainWrite rq .hdm (0x04C + 0x20 * q.val) v s) s)
/-- HDQ_CTL_WRITE (17 R501). -/
def execHdqCtlWrite (rq : Req) (q : Fin 8) (v : W32) (s : State) : Res :=
  .next (barWrite rq (fun s => queueCtl rq .hdm (0x048 + 0x20 * q.val) v s) s)

/-! Edge DMA (09 R287, R288). -/

/-- One segment of an edge-DMA descriptor on die `e`. -/
def edgeSeg (e : Die) (d : Desc) (seg : Nat × Nat) (es : EccList) (s : State) : Nat × State :=
  let src := d.p + seg.1
  let dst := d.m + seg.1
  let zero := d.flags.testBit 2
  if !rangeValid s dst seg.2 || (!zero && !rangeValid s src seg.2) then (1, s)
  else if !ringReach s e (hbmDie dst) || (!zero && !ringReach s e (hbmDie src)) then (3, s)
  else if jobShut s dst seg.2 || (!zero && jobShut s src seg.2) then (4, s)
  else if zero then (0, hbmWrite dst (zeros seg.2) s)
  else if jobMixed s src dst seg.2 then (4, s)
  else
    let s := hbmTouch src seg.2 (addFlaws es s)
    if hbmPoisoned s src seg.2 then (2, s) else (0, hbmWrite dst (hbmBytes s src seg.2) s)

def edgeSegs (e : Die) (d : Desc) (es : EccList) : List (Nat × Nat) → Nat → DmaRun → State → DmaRun × State
  | [], _, r, s => (r, s)
  | seg :: rest, i, r, s =>
    let x := edgeSeg e d seg es s
    let s := if x.1 = 0 then x.2 else setErr (.edg e) 3 x.2
    edgeSegs e d es rest (i + 1) (segResult i x.1 r) s

/-- A queue of die `e` may run: enabled, not empty, nothing in progress. -/
def dmaqReady (s : State) (e : Die) (q : Fin 4) : Bool :=
  let o := 0x060 + 0x20 * q.val
  powered s && bitOf (reg s (.edg e) (o + 8)) 31 && (mfind (dieSt s e).dma q.val).isNone &&
    reg s (.edg e) (o + 16) ≠ reg s (.edg e) (o + 12)

/-- A queue runs its next descriptor from its ring in the die's own HBM. A descriptor that cannot be read stops the
queue as R497 stops a host queue (DEDUCED). -/
def edgeDescriptor (e : Die) (q : Fin 4) (es : EccList) (s : State) : State :=
  if !dmaqReady s e q then s
  else
    let o := 0x060 + 0x20 * q.val
    let a := (reg64 s (.edg e) o) % 2 ^ 42 + 32 * (reg s (.edg e) (o + 16)).toNat
    let s := if rangeValid s a 32 then hbmTouch a 32 (addFlaws es s) else s
    if !rangeValid s a 32 || hbmPoisoned s a 32 then
      setErr (.edg e) 3 (setReg (.edg e) (o + 8) (setBit (reg s (.edg e) (o + 8)) 31 false) s)
    else
      let b := hbmBytes s a 32
      let d := parseDesc b
      let r : DmaRun := ⟨b, 0, 0⟩
      let x := if descOk d 3 then edgeSegs e d es (segments d) 0 r s else ({ r with code := 1 }, s)
      setDie e { dieSt x.2 e with dma := minsert q.val x.1 (dieSt x.2 e).dma } x.2

/-- EDGE_DMA_DESCRIPTOR (09 R287). -/
def execEdgeDmaDescriptor (d : Die) (r : QueueRead) (s : State) : Res := .next (edgeDescriptor d r.q r.ecc s)

def edgeComplete (e : Die) (q : Fin 4) (s : State) : State :=
  match mfind (dieSt s e).dma q.val with
  | none => s
  | some r =>
    let d := parseDesc r.desc
    let s := setDie e { dieSt s e with dma := merase q.val (dieSt s e).dma } s
    let s := if rangeValid s d.sts 16 then hbmWrite d.sts (completion r) s else s
    let s := headNext (.edg e) (0x060 + 0x20 * q.val) s
    if d.flags.testBit 0 then fire (320 + 40 * e.val + 32 + q.val) s else s

/-- EDGE_DMA_COMPLETE (09 R288, 18 R503). -/
def execEdgeDmaComplete (d : Die) (q : Fin 4) (s : State) : Res := .next (edgeComplete d q s)

/-- DMAQ_TAIL_WRITE (09 R287). -/
def execDmaqTailWrite (rq : Req) (d : Die) (q : Fin 4) (v : W32) (s : State) : Res :=
  .next (barWrite rq (fun s => plainWrite rq (.edg d) (0x06C + 0x20 * q.val) v s) s)
/-- DMAQ_CTL_WRITE (09 R290). -/
def execDmaqCtlWrite (rq : Req) (d : Die) (q : Fin 4) (v : W32) (s : State) : Res :=
  .next (barWrite rq (fun s => queueCtl rq (.edg d) (0x068 + 0x20 * q.val) v s) s)

/-! The ledger's drain pointer (17 R498, R500). -/

/-- A write of the upper half of LDG_RD. -/
def ldgRdWrite (rq : Req) (hi : W32) (s : State) : State :=
  let v := pairValue s rq .hdm 0x164 hi
  if v < ldgRd s || ldgWr s < v || v % 32 ≠ 0 then dropHeld rq (setAcc .hdm s)
  else writeLost (applyHigh rq .hdm 0x164 hi s)

/-- LDG_RD_WRITE (17 R498). -/
def execLdgRdWrite (rq : Req) (hi : W32) (s : State) : Res := .next (barWrite rq (ldgRdWrite rq hi) s)

/-! The query unit of the counter generator (12 R375). -/

/-- The key in force: the latched one (12 R366), or with no image loaded seed 0 and the active bank's job ID (R375). -/
def jobKey (s : State) : Key :=
  if s.image.isSome then mkKey s.keySeed s.keyJob
  else mkKey 0 ((cfgv s .cbg 0x048).toNat + 2 ^ 32 * (cfgv s .cbg 0x04C).toNat)

/-- Is a query under way? It takes the whole of R375's 16 management-clock cycles (DESIGN CHOICE). -/
def qBusy (s : State) : Bool := s.now < s.qEnd

/-- A write to CBG_QCTR3 starts the evaluation of the block function; DONE shows once BUSY has fallen. A write while a query runs is
discarded and sets QBUSY (R375). -/
def cbgQuery (v : W32) (s : State) : State :=
  if qBusy s then setErr .cbg 0 s
  else
    let s := setReg .cbg 0x060 v { s with qEnd := s.now + 160 }
    let y := cbgBlock (jobKey s) ⟨reg s .cbg 0x054, reg s .cbg 0x058, reg s .cbg 0x05C, v⟩
    setReg .cbg 0x064 1 (setReg .cbg 0x074 y.x3 (setReg .cbg 0x070 y.x2 (setReg .cbg 0x06C y.x1 (setReg .cbg 0x068 y.x0 s))))

/-- CBG_QUERY (12 R375). -/
def execCbgQuery (rq : Req) (v : W32) (s : State) : Res := .next (barWrite rq (cbgQuery v) s)

/-- CBG_QCTR_WRITE (12 R375): a counter word, discarded with QBUSY while a query is busy. -/
def execCbgQctrWrite (rq : Req) (k : Fin 3) (v : W32) (s : State) : Res :=
  .next (barWrite rq (fun s => if qBusy s then setErr .cbg 0 s
    else setReg .cbg (0x054 + 4 * k.val) v s) s)

end Sys2Proof.Machine
end

