-- ==== Sys2Proof/Machine/Image.lean ====
section
/-! DEFINITION. The Helgar image container and its sections (06 R185, R186, R549 and the chapter each section names). -/

namespace Sys2Proof.Machine

/-- A section directory entry (06 R185). -/
structure DirEnt where
  typ : Nat
  resv : Nat                   -- its reserved bytes as one number
  items : Nat
  off : Nat
  len : Nat
  deriving DecidableEq, Repr, Inhabited

def dirEnt (b : List Byte) : DirEnt :=
  ⟨fieldLE b 0 2, fieldLE b 2 2 + fieldLE b 24 8, fieldLE b 4 4, fieldLE b 8 8, fieldLE b 16 8⟩

/-- The directory of an image. -/
def directory (img : List Byte) : List DirEnt :=
  (List.range (min (fieldLE img 0x30 4) (img.length / 32))).map fun i => dirEnt ((img.drop (0x100 + 32 * i)).take 32)

/-- The first section of a type: its directory index and entry. -/
def findSec (dir : List DirEnt) (typ : Nat) : Option (Nat × DirEnt) :=
  (dir.zipIdx.find? fun p => p.1.typ = typ).map fun p => (p.2, p.1)

/-- The bytes of a section; a missing section has none. -/
def secBytes (img : List Byte) (dir : List DirEnt) (typ : Nat) : List Byte :=
  match findSec dir typ with | some (_, e) => (img.drop e.off).take e.len | none => []

/-- `n` items of `k` bytes from byte `o`. -/
def items (bs : List Byte) (o k n : Nat) : List (List Byte) :=
  (List.range (min n bs.length)).map fun i => (bs.drop (o + k * i)).take k

def allZero (bs : List Byte) : Bool := bs.all fun b => b = 0
/-- Are bytes `o` to `o + n − 1` all 0? -/
def zeroAt (bs : List Byte) (o n : Nat) : Bool := allZero ((bs.drop o).take n)

/-- Signed 16-bit field. -/
def field16 (bs : List Byte) (o : Nat) : Int := sgn 16 (fieldLE bs o 2)

/-! Items (06). -/

def parseTick (b : List Byte) : TickRec :=
  let opt (o : Nat) : Option Nat := let v := fieldLE b o 4; if v = 0xFFFFFFFF then none else some v
  let n := byteAt b 24
  let fl := byteAt b 25
  { meshFirst := fieldLE b 0 4, meshN := fieldLE b 4 2, fsN := fieldLE b 6 2, fsFirst := fieldLE b 8 4
    recF := opt 12, recB := opt 16, recW := opt 20
    nF := fld n 5 4, nB := fld n 3 2, nW := fld n 1 0
    owlWin := fl.testBit 0, dwin := if fl.testBit 1 then some (fieldLE b 26 2) else none, tokMax := fieldLE b 28 4 }

/-- Reserved bits of a tick record (Table 6.10). -/
def parseBody (b : List Byte) : Body := ⟨fieldLE b 0 4, fieldLE b 4 4, fieldLE b 8 2, byteAt b 10⟩

def parseMesh (b : List Byte) : MeshSlot :=
  ⟨fieldLE b 0 2, byteAt b 2, byteAt b 3, byteAt b 4, byteAt b 5, (byteAt b 6).testBit 0, (byteAt b 6).testBit 1,
   fld (byteAt b 7) 3 0, fieldLE b 8 2, fieldLE b 10 2, fieldLE b 12 2⟩

def parseFs (b : List Byte) : FsSlot :=
  let n := fieldLE b 0 2
  ⟨fld n 15 14, n.testBit 13, fld n 7 0, byteAt b 2, fieldLE b 4 2, fieldLE b 6 2, fieldLE b 8 2, fieldLE b 10 2,
   byteAt b 12, byteAt b 13⟩

def parseUnit (b : List Byte) : UnitDesc :=
  { unit := fieldLE b 0 2, stream := byteAt b 2, start := fld (byteAt b 3) 5 4, top := fld (byteAt b 3) 3 2
    hold := fieldLE b 4 2, ts := fieldLE b 6 2, th := fieldLE b 8 2, estW := byteAt b 10, ncomb := byteAt b 11
    mainFirst := fieldLE b 12 4, bodies := (List.range 4).map fun i => fieldLE b (16 + 4 * i) 4 }

/-! Scale records (04 R550). -/

def parseScale (b : List Byte) : ScaleRec :=
  { unit := fieldLE b 2 2, kind := byteAt b 4, h0 := byteAt b 5, h := byteAt b 6, hold := fieldLE b 8 2
    sref := fieldLE b 10 2, fmts := (List.range 4).map fun i => byteAt b (16 + i)
    m := (List.range (min (fieldLE b 12 4) b.length)).map fun i => w32 (fieldLE b (32 + 4 * i) 4) }

/-- Bytes of a scale record entry with its estimates. -/
def scaleLen (b : List Byte) : Nat := 32 + (4 * fieldLE b 12 4 + 15) / 16 * 16

/-- The raw entries of section 0x000C, in order. -/
def scaleEntries : Nat → List Byte → List (List Byte)
  | 0, _ => []
  | n + 1, b => if b.isEmpty then [] else b.take (scaleLen b) :: scaleEntries n (b.drop (scaleLen b))

/-- Is an estimate no finite value, or negative (R550)? −0.0 counts as 0, not as negative (DESIGN CHOICE). -/
def badEstimate (m : W32) : Bool := fld m.toNat 30 23 = 255 || (m.getLsbD 31 && m ≠ 0x80000000)

/-- R550's refusals of entry number `i`. -/
def scaleBad (i : Nat) (b : List Byte) : Bool :=
  let k := byteAt b 4
  let nch := fieldLE b 12 4
  let r := parseScale b
  b.length < scaleLen b || fieldLE b 0 2 ≠ i || !(k = 1 || k = 2) || (k = 1 && nch ≠ 1) || nch = 0 || 8 < r.h0 || r.h ≠ r.h0 ||
    r.hold ≠ 0 || (r.fmts.any fun f => !(f ∈ [3, 4, 8, 2, 0xFF])) ||
    r.m.any badEstimate || !zeroAt b 7 1 || !zeroAt b 20 12

/-! The die plan (09 R275). -/

def parseRegion (b : List Byte) : Region :=
  { idx := fieldLE b 0 2, owner := Fin.ofNat 16 (byteAt b 2), kind := byteAt b 3, gen2 := (byteAt b 4).testBit 0
    enc := (byteAt b 4).testBit 1, arr := (byteAt b 4).testBit 2, fmt := byteAt b 5, layer := fieldLE b 6 2
    size := fieldLE b 8 8, arrDie := Fin.ofNat 16 (fld (byteAt b 16) 7 4), arrFs := Fin.ofNat 16 (fld (byteAt b 16) 3 0)
    nblk := fieldLE b 20 4, chlen := fieldLE b 24 4, base := [] }

def regionResv (b : List Byte) : Bool :=
  fld (byteAt b 2) 7 4 = 0 && fld (byteAt b 4) 7 3 = 0 && zeroAt b 17 3 && zeroAt b 28 4

def parseTag (b : List Byte) : TagEntry :=
  ⟨byteAt b 0, byteAt b 1, fld (byteAt b 2) 1 0, fieldLE b 4 2, fieldLE b 6 2, fieldLE b 8 2, fieldLE b 10 2, fieldLE b 12 2⟩

def tagResv (b : List Byte) : Bool := fld (byteAt b 2) 7 2 = 0 && zeroAt b 3 1 && zeroAt b 14 2 && byteAt b 1 ∈ [1, 2, 3]

def parseUStream (b : List Byte) : UStream :=
  let r := fieldLE b 0 2
  ⟨if r = 0xFFFF then none else some r, byteAt b 2, (byteAt b 3).testBit 0, fieldLE b 4 4, fieldLE b 8 4⟩

/-- Instructions of pass `i` of a U program. -/
def passLen (b : List Byte) (i : Nat) : Nat := if i < byteAt b 3 then fieldLE b (12 + 2 * i) 2 else 0

/-- Bytes of a U-program record: 256, then its code padded to 64 (Table 9.9). -/
def progLen (b : List Byte) : Nat :=
  256 + (4 * (passLen b 0 + passLen b 1 + passLen b 2 + passLen b 3) + 63) / 64 * 64

def parseProg (b : List Byte) : UProg :=
  let start (i : Nat) : Nat := 256 + 4 * ((List.range i).foldl (fun a k => a + passLen b k) 0)
  { prog := fieldLE b 0 2, trig := byteAt b 2, group0 := fieldLE b 4 4, ngroups := fieldLE b 8 4
    relayDie := Fin.ofNat 16 (fld (byteAt b 21) 7 4), relayFs := Fin.ofNat 16 (fld (byteAt b 21) 3 0)
    chlen := fieldLE b 24 4, nchan := fieldLE b 28 4, tables := (byteAt b 32, byteAt b 33)
    consts := (List.range 15).map fun i => w32 (fieldLE b (64 + 4 * i) 4)
    streams := (List.range (min (byteAt b 20) 8)).map fun i => parseUStream ((b.drop (128 + 16 * i)).take 16)
    passes := (List.range (min (byteAt b 3) 4)).map fun i =>
      (List.range (passLen b i)).map fun k => w32 (fieldLE b (start i + 4 * k) 4) }

def progResv (b : List Byte) : Bool :=
  zeroAt b 22 2 && zeroAt b 34 30 && zeroAt b 124 4 && byteAt b 2 < 4 && 1 ≤ byteAt b 3 && byteAt b 3 ≤ 4 &&
    1 ≤ byteAt b 20 && byteAt b 20 ≤ 8 && fieldLE b 28 4 ≤ 65536 &&
    (List.range 8).all fun i => fld (byteAt b (128 + 16 * i + 3)) 7 1 = 0 && zeroAt b (128 + 16 * i + 12) 4

def progEntries : Nat → List Byte → List (List Byte)
  | 0, _ => []
  | n + 1, b => if b.isEmpty then [] else b.take (progLen b) :: progEntries n (b.drop (progLen b))

/-! The reduction plan (10 R300). Zeros stand for defaults (Table 10.4). -/

def dflt (v d : Nat) : Nat := if v = 0 then d else v

def parseChan (b : List Byte) : Chan :=
  { num := fieldLE b 0 2, tree := (byteAt b 2).testBit 0, shadowed := (byteAt b 2).testBit 1, h0 := byteAt b 3
    home := fieldLE b 4 2, shome := fieldLE b 6 2, nsh := fieldLE b 8 2, nred := fieldLE b 10 2
    shFirst := fieldLE b 12 4, redFirst := fieldLE b 16 4, slack := dflt (fieldLE b 20 2) 20
    rslack := dflt (fieldLE b 22 2) 20, hold := dflt (fieldLE b 24 2) 64, openN := byteAt b 26 }

def parseShare (b : List Byte) : Share :=
  ⟨fieldLE b 0 2, fieldLE b 2 2, fieldLE b 4 2, fieldLE b 6 2, fieldLE b 8 2, fieldLE b 10 2⟩

def parseRedn (b : List Byte) : Redn :=
  ⟨fieldLE b 0 2, fieldLE b 2 2, fieldLE b 4 2, (byteAt b 6).testBit 0, byteAt b 7, fieldLE b 8 4, fieldLE b 12 4,
   fieldLE b 16 4, fieldLE b 20 2, byteAt b 22⟩

def parsePerm (b : List Byte) : Perm :=
  ⟨fieldLE b 0 2, fieldLE b 2 2, fieldLE b 8 4, fieldLE b 12 4, fieldLE b 16 4, byteAt b 20⟩

def planCounts (b : List Byte) : Nat × Nat × Nat × Nat := (fieldLE b 8 4, fieldLE b 12 4, fieldLE b 16 4, fieldLE b 20 4)

def planRaw (b : List Byte) : List (List Byte) × List (List Byte) × List (List Byte) × List (List Byte) :=
  let (nc, ns, nr, np) := planCounts b
  let o1 := 64 + 32 * nc
  let o2 := o1 + 16 * ns
  let o3 := o2 + 32 * nr
  (items b 64 32 nc, items b o1 16 ns, items b o2 32 nr, items b o3 32 np)

def parsePlan (b : List Byte) : Plan :=
  let r := planRaw b
  { nmemb := fieldLE b 4 2, ovfCap := dflt (fieldLE b 24 4) 65536, chans := r.1.map parseChan
    shares := r.2.1.map parseShare, reds := r.2.2.1.map parseRedn, perms := r.2.2.2.map parsePerm }

/-- Reserved fields and field ranges of the plan's entries (Tables 10.3 to 10.6, 10.10). -/
def planResv (b : List Byte) : Bool :=
  let r := planRaw b
  b.isEmpty || (fieldLE b 0 4 = 0x00010000 && zeroAt b 6 2 && zeroAt b 28 36 &&
    (r.1.all fun c => fld (byteAt c 2) 7 2 = 0 && zeroAt c 27 5) && (r.2.1.all fun c => zeroAt c 12 4) &&
    (r.2.2.1.all fun c => fld (byteAt c 6) 7 1 = 0 && zeroAt c 23 9) && (r.2.2.2.all fun c => zeroAt c 4 4 && zeroAt c 21 11))

/-! Galleries, tensor map, sump descriptors (08 R246, R247, R249), stage table (11 R361), stream IDs (12 R373). -/

def parseGal (b : List Byte) : Gal := ⟨fieldLE b 0 2, fieldLE b 2 2, fieldLE b 4 4, fieldLE b 8 4, fieldLE b 12 2⟩

def parseTMap (b : List Byte) : TMap :=
  ⟨fieldLE b 0 2, field16 b 2, field16 b 4, field16 b 6, field16 b 8, field16 b 10, field16 b 12⟩

def parseSump (b : List Byte) : SumpTag :=
  ⟨byteAt b 0, byteAt b 1, byteAt b 2, fld (byteAt b 3) 1 0, fieldLE b 4 2, fieldLE b 6 2⟩

def parseStage (b : List Byte) : StageEnt :=
  ⟨fieldLE b 0 2, fieldLE b 2 2, fieldLE b 4 2, byteAt b 6, byteAt b 7, fieldLE b 8 8⟩

/-- The placement of R246's single gallery when the table is omitted. -/
def noGalTable (b : List Byte) : Bool := b.isEmpty || (fieldLE b 0 2 = 0 && fieldLE b 2 2 = 0)

/-! The whole image. -/

/-- Counts of F, B and W records (07 R194). -/
def recCounts (b : List Byte) : Nat × Nat × Nat := (fieldLE b 0 4, fieldLE b 4 4, fieldLE b 8 4)

/-- Every item of the image, as its bytes say it. The sump regions of the descriptors stand after the region table
(`sumpRegions` in Machine/Place.lean). -/
def parseImg (addr : Nat) (bs : List Byte) : Img :=
  let dir := directory bs
  let sec (t : Nat) : List Byte := secBytes bs dir t
  let cnt (t : Nat) : Nat := match findSec dir t with | some (_, e) => e.items | none => 0
  let u := fieldLE bs 0x10 2
  let v := fieldLE bs 0x12 2
  let s2 := sec 2
  let nbody := fieldLE s2 0 4
  let s6 := sec 6
  let rc := recCounts s6
  let s9 := sec 9
  let nreg := fieldLE s9 0 4
  let ntag := fieldLE s9 4 4
  let sb := sec 0xB
  let tm := Config.tensorMap sb
  let sm := Config.sumpMap sb
  let ng := byteAt bs 0x1C
  { addr := addr, size := fieldLE bs 0x08 8, hash := (bs.drop 0x40).take 48, reqU := u, reqV := v
    lmode := byteAt bs 0x14 = 1, tickLog2 := byteAt bs 0x15, avg := fieldLE bs 0x18 2, peak := fieldLE bs 0x1A 2
    settTmo := byteAt bs 0x1D, qwd := byteAt bs 0x1E, srLog2 := byteAt bs 0x1F, seed := fieldLE bs 0x20 8
    stepWd := fieldLE bs 0x28 2, owlS := byteAt bs 0x2A, needs := fieldLE bs 0x2C 4
    main := (items (sec 1) 0 32 (fieldLE bs 0x34 4)).map parseTick
    detours := (items s2 ((64 + 16 * nbody + 63) / 64 * 64) 32 (fieldLE s2 4 4)).map parseTick
    bodies := (items s2 64 16 nbody).map parseBody
    meshSlots := (items (sec 3) 0 16 (cnt 3)).map parseMesh
    fsSlots := (items (sec 4) 0 16 (cnt 4)).map parseFs
    trees := (items (sec 5) 0 2 ((sec 5).length / 2)).map fun b => fieldLE b 0 2
    recF := items s6 64 64 rc.1
    recB := items s6 (64 + 64 * rc.1) 64 rc.2.1
    recW := items s6 (64 + 64 * (rc.1 + rc.2.1)) 64 rc.2.2
    units := (items (sec 7) 0 32 (cnt 7)).map parseUnit
    scales := (scaleEntries (fieldLE (sec 0xC) 0 4) ((sec 0xC).drop 64)).map parseScale
    polys := sec 0xD
    gsids := (items (sec 0xE) 64 8 (fieldLE (sec 0xE) 0 4)).map fun b => (fieldLE b 0 2, byteAt b 2, fieldLE b 4 2)
    gw := if noGalTable sb then u else fieldLE sb 0 2
    gh := if noGalTable sb then v else fieldLE sb 2 2
    gals := if noGalTable sb then [⟨0, 0, 0, 23999, 0⟩] else (items sb 16 16 ng).map parseGal
    tmaps := (items sb tm.1 16 tm.2).map parseTMap
    sumps := (items sb sm.1 16 sm.2).map parseSump
    settInit := (Config.settCounts (sec 8)).foldl (fun m e =>
      mput 0 (32 * (256 * (e.2.1 % 256) + e.1 % 256) + e.2.2.1 % 32) (e.2.2.2 % 65536) m) []
    settList := (Config.settLists (sec 8)).foldl (fun m e =>
      mput [] e.1 (e.2.map fun p => 32 * (256 * (p.2.1 % 256) + p.1 % 256) + p.2.2 % 32) m) []
    regions := (items s9 64 32 nreg).map parseRegion
    tags := (items s9 (64 + 32 * nreg) 16 ntag).map parseTag
    uprogs := (progEntries (fieldLE s9 8 4) (s9.drop (64 + 32 * nreg + 16 * ntag))).map parseProg
    plan := parsePlan (sec 0xA)
    stagesT := (items (sec 0xF) 64 32 (fieldLE (sec 0xF) 0 4)).map parseStage }

/-! Header checks (06 Table 6.12, codes 0x01 to 0x05). -/

def magicOk (bs : List Byte) : Bool := bs.take 4 = [0x48, 0x4C, 0x47, 0x52] && fieldLE bs 6 2 = 1

/-- HASH is the SHA-384 of the image with the field set to zero (Table 6.8). -/
def hashOk (bs : List Byte) : Bool := sha384 (bs.take 0x40 ++ zeros 48 ++ bs.drop 0x70) = (bs.drop 0x40).take 48

/-- Ranges of the header and of the directory, and reserved bytes that are 0 (R159, R172, R185, R190, R215, R108). -/
def headerOk (bs : List Byte) : Bool :=
  let t := byteAt bs 0x15
  let a := fieldLE bs 0x18 2
  let p := fieldLE bs 0x1A 2
  let n := byteAt bs 0x1C
  let x := byteAt bs 0x1D
  let q := byteAt bs 0x1E
  let r := byteAt bs 0x1F
  let w := fieldLE bs 0x28 2
  let o := byteAt bs 0x2A
  1 ≤ fieldLE bs 0x10 2 && 1 ≤ fieldLE bs 0x12 2 && 8 ≤ t && t ≤ 14 && a ≤ 84 && p ≤ 110 && a ≤ p && 1 ≤ n &&
    4 ≤ x && x ≤ 20 && 8 ≤ q && q ≤ 16 && 10 ≤ r && r ≤ 20 && 1 ≤ w && w ≤ 600 && (o = 0 || (8 ≤ o && o ≤ 20)) &&
    zeroAt bs 0x16 2 && zeroAt bs 0x2B 1 && zeroAt bs 0x38 8 && zeroAt bs 0x70 144 && fld (fieldLE bs 0x2C 4) 15 2 = 0 &&
    0x100 + 32 * fieldLE bs 0x30 4 ≤ bs.length &&
    (directory bs).all fun e => e.resv = 0 && e.off % 64 = 0 && e.off + e.len ≤ bs.length

/-! Own checks of the sections (code 0x0C); the answer is the first section type at fault. -/

/-- R301's refusals of a plan, but for the module's own channels, which need its member number. -/
def planBad (b : List Byte) : Bool :=
  let p := parsePlan b
  !planResv b || (!b.isEmpty && !(1 ≤ p.nmemb && p.nmemb ≤ 1024)) || 65536 < p.chans.length ||
  p.chans.any fun c =>
    let sh := (p.shares.drop c.shFirst).take c.nsh
    let rd := (p.reds.drop c.redFirst).take c.nred
    256 < c.nsh || c.nsh = 0 || 4 < c.h0 || c.openN = 0 || 8 < c.openN ||
    (rd.map fun r => r.rseq) ≠ List.range c.nred || (rd.any fun r => r.chan ≠ c.num) ||
    (c.shadowed && c.shome = c.home) || (sh.any fun x => x.primary = x.backup0 || x.primary = x.backup1) ||
    -- parents reach HOME: each interior member's own share has a parent nearer the home
    (sh.any fun x => ((List.range (sh.length + 1)).foldl (fun m _ =>
      if m = c.home then m else ((sh.find? fun y => y.primary = m).map (·.parent)).getD m) x.parent) ≠ c.home)

/-- Two reductions of one home that cover one home block (R301). -/
def planOverlap (p : Plan) : Bool :=
  let homeOf (r : Redn) : Option Nat := (p.chans.find? fun c => c.num = r.chan).map (·.home)
  let l := p.reds.zipIdx
  l.any fun a => l.any fun b => a.2 < b.2 && homeOf a.1 = homeOf b.1 && a.1.blk0 < b.1.blk0 + b.1.nblk &&
    b.1.blk0 < a.1.blk0 + a.1.nblk

/-- The galleries of R246: same size, inside the image, no overlap, no tile uncovered. -/
def galBad (i : Img) (ngal : Nat) (b : List Byte) : Bool :=
  if noGalTable b then ngal ≠ 1
  else
    64 < ngal || i.gals.length ≠ ngal || i.gw = 0 || i.gh = 0 ||
    (i.gals.any fun g => i.reqU < g.gu + i.gw || i.reqV < g.gv + i.gh || 23999 < g.whi || g.whi < g.wlo) ||
    i.gals.length * (i.gw * i.gh) ≠ i.reqU * i.reqV ||
    i.gals.zipIdx.any fun a => i.gals.zipIdx.any fun c => a.2 < c.2 &&
      a.1.gu < c.1.gu + i.gw && c.1.gu < a.1.gu + i.gw && a.1.gv < c.1.gv + i.gh && c.1.gv < a.1.gv + i.gh

/-- The dies that serve a row or column of the image (R258). -/
def serves (i : Img) (d : Die) : Nat × Nat :=
  let n := if d.val < 8 then i.reqV else i.reqU
  let k := d.val % 4
  (k * n / 4, (k + 1) * n / 4)

/-- The die at an end that serves row or column `j`: ends 0 W, 1 E, 2 N, 3 S. -/
def busDie (i : Img) (dieEnd j : Nat) : Option Die :=
  ((List.finRange 16).filter fun d => d.val / 4 = dieEnd % 4).find? fun d => (serves i d).1 ≤ j && j < (serves i d).2

/-- R275's refusals of a die plan. -/
def diePlanBad (i : Img) (b : List Byte) : Bool :=
  let nreg := fieldLE b 0 4
  let ntag := fieldLE b 4 4
  let rr := items b 64 32 nreg
  let tt := items b (64 + 32 * nreg) 16 ntag
  let pp := progEntries (fieldLE b 8 4) (b.drop (64 + 32 * nreg + 16 * ntag))
  !b.isEmpty && (!zeroAt b 12 52 || (rr.any fun r => !regionResv r) || (tt.any fun t => !tagResv t) ||
    (pp.any fun p => !progResv p) ||
    (i.regions.any fun r => r.size % 4096 ≠ 0 || 7 < r.kind || (r.kind = 7 && r.owner ≠ 0)) ||
    ¬ (i.regions.map (·.idx)).Nodup ||
    i.tags.any fun t => 0xC0 ≤ t.tag ||
      match i.regions.find? fun r => r.idx = t.region with
      | none => true
      | some r => (List.range t.nbus).any fun j => busDie i t.dieEnd (t.bus0 + j) ≠ some r.owner)

/-- Bytes of HBM that a mode takes for a block (08 Table 8.5); mode 1 leaves room for the largest of its forms. -/
def blockRoom (mode fmt : Nat) : Nat := if mode = 2 then (if fmt = 0 then 33 else 66) else 128

/-- R249's refusals of the sump descriptors that need no op record. -/
def sumpBad (i : Img) : Bool :=
  i.sumps.any fun d => d.tag < 0xC0 || 2 < d.mode || d.span = 0 || (d.mode = 2 && !(d.fmt ∈ [0, 1, 2]))

/-- R361's refusals of a stage table. -/
def stageBad (i : Img) (b : List Byte) : Bool :=
  !b.isEmpty && ((items b 64 32 (fieldLE b 0 4)).any fun e => !zeroAt e 16 16 ||
    fieldLE e 8 8 % 64 ≠ 0 || !(i.regions.any fun r => r.idx = fieldLE e 0 2 && r.kind = 6))

/-- R373's refusals of the stream ID section itself. -/
def gsidBad (i : Img) : Bool := !decide ((i.gsids.map fun g => (g.1, g.2.1)).Nodup)

/-- R549's refusals of the detour bodies. -/
def bodyBad (i : Img) : Bool :=
  (i.bodies.any fun x => i.detours.length < x.first + x.count) ||
  i.units.any fun d => (List.range 4).any fun r =>
    let k := d.bodies.getD r 0xFFFFFFFF
    k ≠ 0xFFFFFFFF && match i.bodies[k]? with | none => true | some x => x.unit ≠ d.unit || x.rung ≠ r

/-- The first section whose own checks fail, by type. -/
def sectionBad (i : Img) (bs : List Byte) : Option Nat :=
  let dir := directory bs
  let sec (t : Nat) : List Byte := secBytes bs dir t
  [ (1, decide (i.main.length ≠ fieldLE bs 0x34 4)),
    (2, bodyBad i),
    (8, (List.finRange 16).any fun d =>
      16 < ((Config.farSetts (sec 8)).filter fun e => e.1 = d.val).length),
    (9, diePlanBad i (sec 9)),
    (0xA, planBad (sec 0xA) || planOverlap i.plan),
    (0xB, galBad i (byteAt bs 0x1C) (sec 0xB) || sumpBad i),
    (0xC, !(sec 0xC).isEmpty && (!zeroAt (sec 0xC) 4 60 ||
      (scaleEntries (fieldLE (sec 0xC) 0 4) ((sec 0xC).drop 64)).zipIdx.any fun e => scaleBad e.2 e.1)),
    (0xE, gsidBad i),
    (0xF, stageBad i (sec 0xF)) ].findSome? fun p => if p.2 then some p.1 else none

end Sys2Proof.Machine
end

