-- ==== Sys2Proof/Machine/Place.lean ====
section
/-! DEFINITION. Placement (08 R226 to R243, 09 R258, R259, R269): key, origin, reach, field ceilings, the placement record
and the allocation of HBM regions. -/

namespace Sys2Proof.Machine

/-- The placement seed in force (R226). -/
def seedNow (s : State) : Nat := (cfgv s .plc 0x040).toNat + 2 ^ 32 * (cfgv s .plc 0x044).toNat

/-- PKEY (R227). -/
def pkeyOf (hash : List Byte) (seed : Nat) : Nat := fieldLE (sha384 (hash ++ natLE 8 seed)) 0 8

/-- The die whose engine holds group `g` (R240). -/
def groupDie (p : Place) (g : Nat) : Die := Fin.ofNat 16 (g + rotR p)

/-- The geometry of a placement: seed, key and origin (R235), no record yet. -/
def placeOf (s : State) (i : Img) (seed : Nat) : Place :=
  { seed := seed, pkey := pkeyOf i.hash seed, u0 := (s.geo.ua - i.reqU) / 2, v0 := (s.geo.va - i.reqV) / 2
    nstk := nStk s, record := [], ok := true }

/-- Image tiles placed in each field (R236). -/
def fieldTiles (g : Geo) (p : Place) (i : Img) : SMap Nat :=
  (imageTiles i).foldl (fun m t => match imagePhys g p t.1 t.2 with
    | some (x, y) => let f := (fieldAt x y).val; mput 0 f (mget 0 m f + 1) m
    | none => m) []

/-- The first field whose ceiling exceeds its derated ceiling (R172, R175). -/
def fieldOver (s : State) (p : Place) (i : Img) : Option Field :=
  let n := fieldTiles s.geo p i
  allFields.find? fun f => (reg s (.fpw f) 0x058).toNat < i.avg * mget 0 n f.val

/-- Physical rows or columns that a die reaches (09 R259, Table 9.1). -/
def reach (d : Die) : Nat × Nat :=
  let k := d.val % 4
  if d.val < 8 then (49 * k - 56, min 195 (49 * k + 48 + 56)) else (48 * k - 48, min 191 (48 * k + 47 + 48))

/-- Does every die reach the rows or columns it serves (R259)? A column shifts from row to row (R229); each of its tiles
counts. -/
def reachOk (g : Geo) (p : Place) (i : Img) : Bool :=
  dies.all fun d =>
    let sv := serves i d
    let r := reach d
    (List.range (sv.2 - sv.1)).all fun k =>
      let j := sv.1 + k
      (List.range (if d.val < 8 then 1 else i.reqV)).all fun v =>
        match (if d.val < 8 then imagePhys g p 0 j else imagePhys g p j v) with
        | some (x, y) => let c := if d.val < 8 then y else x; r.1 ≤ c && c ≤ r.2
        | none => false

/-! The placement record (R242, Table 8.2). -/

/-- The defect-map bitmap: defective tiles and tiles of lost fields. -/
def defectBitmap (s : State) : List Byte :=
  let lost := lostFields s
  ((List.range waferY).map fun y => (List.range 24).map fun k =>
    BitVec.ofNat 8 ((List.range 8).foldl (fun a b =>
      let x := 8 * k + b
      if (x, y) ∈ s.geo.defects || (fieldAt x y).val ∈ lost then a + 2 ^ b else a) 0)).flatten

/-- Spare position shown for a segment. -/
def spareNibble (g : Geo) (p : Place) (sg y : Nat) : Nat :=
  if inRetiredField g (12 * sg) y || y ∈ g.rows then 0xF else sparePos g p.seed p.pkey sg y

/-- The placement record; `cause` is bit 0 for an image load, bit 1 for a re-placement. -/
def placeRecord (s : State) (p : Place) (cause : Nat) : List Byte :=
  let g := s.geo
  let bits (l : List Nat) : Nat := l.foldl (fun a i => a + 2 ^ i) 0
  natLE 4 0x00010000 ++ natLE 2 g.ua ++ natLE 2 g.va ++ natLE 2 p.u0 ++ natLE 2 p.v0 ++ natLE 2 (bits g.fcols)
    ++ natLE 2 (bits g.frows) ++ natLE 8 p.seed ++ natLE 8 p.pkey ++ sha384 (defectBitmap s) ++ natLE 16 cause ++ zeros 32
    ++ ((List.range waferY).map fun y => (List.range 8).map fun k =>
        BitVec.ofNat 8 (spareNibble g p (2 * k) y + 16 * spareNibble g p (2 * k + 1) y)).flatten
    ++ zeros 32

/-! Allocation (R239, R241, 09 R269). -/

/-- The regions of the sump descriptors: one for each tag and die that serves some of its buses. They take region
indices above the table's, for the stack rotation (DESIGN CHOICE); `layer` holds the tag. -/
def sumpRegions (i : Img) : List Region :=
  (i.sumps.zipIdx.map fun t => (dies.filter fun d => d.val / 4 = t.1.dieEnd).filterMap fun d =>
    let sv := serves i d
    let n := (min sv.2 t.1.nbus) - sv.1
    if n = 0 then none
    else some { idx := 65536 + 16 * t.2 + d.val, owner := d, kind := 5, gen2 := false, enc := false, arr := false
                fmt := t.1.fmt, layer := t.1.tag, size := (n * t.1.span * blockRoom t.1.mode t.1.fmt + 4095) / 4096 * 4096, arrDie := 0
                arrFs := 0, nblk := 0, chlen := 0, base := [] }).flatten

/-- Stack units of a stack. -/
def stackUnits : Nat := 11718750

/-- Give a region its bases; `ptr` is the next free unit of each stack, index 4 × die + stack. None when it does not
fit. -/
def allocOne (q n : Nat) (ptr : List Nat) (r : Region) : Option (List Nat × Region) :=
  let bases := (List.range n).map fun k => (ptr.getD (4 * r.owner.val + k) 0 + 63) / 64 * 64
  let ends := (List.range n).map fun k => bases.getD k 0 + unitsOn q n r k
  if n ≠ 0 && ends.all fun e => e ≤ stackUnits then
    some ((List.range n).foldl (fun p k => lset p (4 * r.owner.val + k) (ends.getD k 0)) ptr, { r with base := bases })
  else none

/-- The order of R241; regions of kind 6 come last and the ledger ring first, on E0 (DESIGN CHOICE). -/
def kindOrder : List Nat := [2, 0, 1, 3, 4, 5, 6]

/-- Allocate every region: the placed regions in table order, or the section of the first that does not fit. -/
def allocAll (q n ledgerBytes : Nat) (rs : List Region) : Except Nat (List Region) :=
  let start := (List.replicate 64 0).set 0 ((ledgerBytes + 4095) / 4096)
  let ordered := (kindOrder.map fun k => rs.filter fun r => r.kind = k).flatten
  let res := ordered.foldl (fun (a : Except Nat (List Nat × List Region)) r =>
    match a with
    | .error e => .error e
    | .ok (ptr, l) => match allocOne q n ptr r with
      | some (ptr', r') => .ok (ptr', l ++ [r'])
      | none => .error (if r.idx < 65536 then 9 else if r.idx < 131072 then 0xB else 0xA)) (.ok (start, []))
  match res with
  | .error e => .error e
  | .ok (_, l) => .ok (rs.map fun r => (l.find? fun x => x.idx = r.idx).getD r)

/-- The module HBM address of byte `off` of generation `gen` of a region (R239, R269); generation 1 of a GEN2 region
follows generation 0 (DESIGN CHOICE). -/
def regionAddr (p : Place) (r : Region) (gen off : Nat) : Nat :=
  let o := (if r.gen2 then gen % 2 * r.size else 0) + off
  let k := o / 4096
  let st := (rotQ p + r.idx + k) % (max p.nstk 1)
  r.owner.val * 2 ^ 38 + st * 2 ^ 36 + (r.base.getD st 0 + k / max p.nstk 1) * 4096 + o % 4096

/-- The loaded image's placement, for address computations; a placement without one counts as all zero. -/
def placeNow (s : State) : Place := s.place.getD default

def regionOf (i : Img) (idx : Nat) : Option Region := i.regions.find? fun r => r.idx = idx

/-- The kind-2 regions of a program's streams. -/
def stateRegs (i : Img) (u : UProg) : List Region :=
  u.streams.filterMap fun t => (t.region.bind (regionOf i)).bind fun r => if r.kind = 2 then some r else none

/-- Does a die's engine run a program? An engine reaches only its own die's regions (09 R282), so one with state runs on the die that
owns it (DEDUCED from 09 R275 and R282); a span of several dies then has a record for each. -/
def runsOn (i : Img) (u : UProg) (d : Die) : Bool := (stateRegs i u).all fun r => r.owner = d

/-- The groups of a program's span that a die's engine holds and runs it over, in increasing order (R240, 09 R284). -/
def progGroups (i : Img) (p : Place) (u : UProg) (d : Die) : List Nat :=
  if runsOn i u d then ((List.range u.ngroups).map (· + u.group0)).filter fun g => groupDie p g = d else []

/-- Read `n` bytes of a region, stripe unit by stripe unit, as byte addresses. -/
def regionRead (s : State) (r : Region) (gen off n : Nat) : List Byte :=
  (List.range n).map fun i => hbmByte s (regionAddr (placeNow s) r gen (off + i))

/-- A range of a region as the runs of module HBM addresses that hold it: one or two for a range no longer than a stripe unit. -/
def regionRuns (s : State) (r : Region) (gen off n : Nat) : List (Nat × Nat) :=
  let first := min n (4096 - off % 4096)
  [(regionAddr (placeNow s) r gen off, first), (regionAddr (placeNow s) r gen (off + first), n - first)].filter fun q => q.2 ≠ 0

/-- A read of a range of a region, stripe unit by stripe unit: its codeword checks, and RD_LINES (09 R270, Table 9.13). -/
def regionTouch (r : Region) (gen off n : Nat) (s : State) : State :=
  let first := min n (4096 - off % 4096)
  let s := hbmTouch (regionAddr (placeNow s) r gen off) first s
  (List.range ((n - first + 4095) / 4096)).foldl (fun s k =>
    hbmTouch (regionAddr (placeNow s) r gen (off + first + 4096 * k)) (min 4096 (n - first - 4096 * k)) s) s

/-- Does a range of a region touch a poisoned sector? -/
def regionPoisoned (s : State) (r : Region) (gen off n : Nat) : Bool :=
  (sectorsOf off n).any fun k => mget false s.poison (regionAddr (placeNow s) r gen (64 * k) / 64)

/-- Write bytes of a region, in runs that stay inside a stripe unit. -/
def regionWrite (r : Region) (gen off : Nat) (bs : List Byte) (s : State) : State :=
  let first := min bs.length (4096 - off % 4096)
  let s := hbmWrite (regionAddr (placeNow s) r gen off) (bs.take first) s
  (chunks 4096 (bs.drop first)).zipIdx.foldl (fun s c =>
    hbmWrite (regionAddr (placeNow s) r gen (off + first + 4096 * c.2)) c.1 s) s

/-- Show a placement on the PLC page and write its record to the ledger (R242, R257, Table 8.7). -/
def showPlace (p : Place) (s : State) : State :=
  let s := setReg .plc 0x050 (w32 (p.u0 + 2 ^ 16 * p.v0)) (setReg .plc 0x048 2 s)
  let s := setReg64 .plc 0x05C p.pkey s
  let h := sha384 p.record
  let s := (List.range 12).foldl (fun s i => setReg .plc (0x078 + 4 * i) (w32 (fieldLE h (4 * i) 4)) s) s
  ledgerItem 0x0002 p.record s

/-- A placement that fails (R257): PLC_STS, FAIL. -/
def failPlace (code : Nat) (s : State) : State :=
  setErr .plc 0 (setReg .plc 0x048 (w32 (3 + 2 ^ 16 * code)) s)

end Sys2Proof.Machine
end

