-- ==== Sys2Proof/Machine/Operands.lean ====
section
/-! DEFINITION. Op records, their operand descriptors and parameter blocks (07 R203 to R206), galleries, the tick record
in progress, and when a record of a stream may issue (07 R168, R197, R198, R217, 06 R180 to R183). -/

namespace Sys2Proof.Machine

/-- An operand descriptor (07 Table 7.2). -/
structure Operand where
  fmt : Nat
  lay : Bool
  half : Nat
  skew : Nat
  trn : Bool
  scl : Nat
  rows : Nat
  cols : Nat
  addr : Nat
  sref : Nat
  sskew : Nat
  shalf : Nat
  est : Bool
  resv : Nat
  deriving DecidableEq, Repr, Inhabited

def parseOperand (b : List Byte) : Operand :=
  let w := leNat (b.take 12)
  { fmt := fld w 3 0, lay := w.testBit 4, half := fld w 5 5, skew := fld w 7 6, trn := w.testBit 8, scl := fld w 11 9
    rows := fld w 31 16, cols := fld w 47 32, addr := fld w 62 48, sref := fld w 79 64, sskew := fld w 81 80
    shalf := fld w 82 82, est := w.testBit 83, resv := fld w 15 12 + fld w 63 63 + fld w 95 84 }

/-- Is an operand unused: all zeros (R204)? -/
def Operand.unused (o : Operand) : Bool := o = default

/-- An op record (07 Tables 7.1 to 7.3). -/
structure OpRec where
  opc : Nat
  grel : Bool
  owl : Bool
  sra : Bool
  sro : Bool
  fence : Bool
  issue : Nat
  flow : Nat
  gsid : Nat
  osid : Nat
  unit : Nat
  needS : Nat
  needN : Nat
  tag : Nat
  sosid : Nat
  o0 : Operand
  o1 : Operand
  o2 : Operand
  bytes : List Byte
  deriving DecidableEq, Repr, Inhabited

def parseRec (b : List Byte) : OpRec :=
  let f := byteAt b 1
  { opc := byteAt b 0, grel := f.testBit 0, owl := f.testBit 1, sra := f.testBit 2, sro := f.testBit 3, fence := f.testBit 4
    issue := fieldLE b 2 2, flow := fieldLE b 4 2, gsid := fieldLE b 6 2, osid := fieldLE b 8 2
    unit := fld (fieldLE b 10 2) 11 0, needS := fld (byteAt b 12) 7 6, needN := fld (byteAt b 12) 5 0, tag := byteAt b 13
    sosid := fieldLE b 14 2, o0 := parseOperand (b.drop 16), o1 := parseOperand (b.drop 28), o2 := parseOperand (b.drop 40)
    bytes := b }

/-- Bytes of the parameter block, at their offset in the record. -/
def OpRec.p8 (r : OpRec) (o : Nat) : Nat := byteAt r.bytes o
def OpRec.p16 (r : OpRec) (o : Nat) : Nat := fieldLE r.bytes o 2
def OpRec.p32 (r : OpRec) (o : Nat) : Nat := fieldLE r.bytes o 4

/-- Heavy and movement records (Table 7.4). -/
def isHeavy (opc : Nat) : Bool := 0x10 ≤ opc && opc ≤ 0x13
def isMove (opc : Nat) : Bool := opc ∈ [0x20, 0x21, 0x22, 0x23, 0x24, 0x25, 0x28, 0x29, 0x2A, 0x2B, 0x2C, 0x2D]
def isSeq (opc : Nat) : Bool := opc ≤ 0x06

/-- Extension records that follow a record (R206). -/
def extRecs (r : OpRec) : Nat := if r.opc ∈ [0x21, 0x22, 0x24] then r.p8 53 else 0

/-- The unit a record occupies: cubes, thin path, exact accumulator, VU; transfers share the skew writer and the
ports, and are not serialised here. -/
def unitClass (opc : Nat) : Nat :=
  match opc with
  | 0x10 => 1 | 0x11 => 2 | 0x20 => 2 | 0x12 => 3 | 0x13 => 3 | 0x25 => 3
  | 0x21 => 4 | 0x22 => 4 | 0x23 => 4 | 0x24 => 4 | _ => 0

/-! Galleries (08 R246, 07 R205). -/

/-- The gallery of an image tile, with its number. -/
def galleryOf (i : Img) (u v : Nat) : Nat × Gal :=
  match i.gals.zipIdx.find? fun g => g.1.gu ≤ u && u < g.1.gu + i.gw && g.1.gv ≤ v && v < g.1.gv + i.gh with
  | some (g, k) => (k, g)
  | none => (0, ⟨0, 0, 0, 23999, 0⟩)

/-- Absolute line and absolute bank row of a record's field (R205). -/
def absLine (r : OpRec) (g : Gal) (l : Nat) : Nat := if r.grel then l + g.wlo else l
def absRow (r : OpRec) (g : Gal) (p : Nat) : Nat := if r.grel then p + (g.wlo + 7) / 8 else p

/-- Is a line inside the gallery's window (02 R37, R38)? -/
def inWindow (g : Gal) (l : Nat) : Bool := g.wlo ≤ l && l ≤ g.whi && l < exposedLines

/-- The tensor-map origin of OTENS on a tile (08 R247). -/
def origin (i : Img) (otens u v : Nat) : Int × Int :=
  let g := (galleryOf i u v).2
  let du : Int := u - g.gu
  let dv : Int := v - g.gv
  match i.tmaps.find? fun t => t.otens = otens with
  | some t => (t.row0 + t.ru * du + t.rv * dv, t.col0 + t.cu * du + t.cv * dv)
  | none => (0, 0)

/-! The tick in progress. -/

/-- The tick record in progress; none in a stall tick and at the end of the main program. -/
def tickNow (s : State) : Option TickRec :=
  match s.image with
  | none => none
  | some i =>
    if s.asq.stall then none
    else match s.asq.det with
      | some (b, o) => (i.bodies[b]?).bind fun x => i.detours[x.first + o]?
      | none => i.main[s.asq.mainPos]?

/-- The tick index within its body (06 R163). -/
def bodyTick (s : State) : Nat := match s.asq.det with | some (_, o) => o | none => s.asq.mainPos

def recsOf (i : Img) : Strm → List (List Byte) | .f => i.recF | .b => i.recB | .w => i.recW
def firstRec (t : TickRec) : Strm → Option Nat | .f => t.recF | .b => t.recB | .w => t.recW
def numRec (t : TickRec) : Strm → Nat | .f => t.nF | .b => t.nB | .w => t.nW

def getCtx (t : Tile) : Strm → Ctx | .f => t.cF | .b => t.cB | .w => t.cW
def setCtx (st : Strm) (c : Ctx) (t : Tile) : Tile :=
  match st with | .f => { t with cF := c } | .b => { t with cB := c } | .w => { t with cW := c }

/-- Stream of a ladder unit. -/
def unitDesc (i : Img) (u : Nat) : Option UnitDesc := i.units.find? fun d => d.unit = u
def unitSt (s : State) (u : Nat) : UnitSt := mget default s.asq.units u

/-- Is a decision of this boundary still to be made? -/
def deciding (s : State) : Bool := s.asq.units.any fun e => e.2.due = some 0

/-- Is a stream held by a decision window (06 R180)? -/
def inDecision (s : State) (i : Img) (st : Strm) : Bool :=
  i.units.any fun d => d.stream = strmCode st && (unitSt s d.unit).due.isSome

/-- Hops of the combine tree (05 R143). -/
def combHops (i : Img) : Nat :=
  max (i.reqU / 2) (i.reqU - 1 - i.reqU / 2) + max (i.reqV / 2) (i.reqV - 1 - i.reqV / 2)

/-- k_d for `n` combine indices (06 R180). -/
def kd (i : Img) (n : Nat) : Nat := ceilDiv (36 * combHops i + 16 * (n - 1) + 8) (2 ^ i.tickLog2)

/-- Scale records of a unit with their indices, and the keys of its maxima in order (04 R115). -/
def unitScales (i : Img) (unit : Nat) : List (ScaleRec × Nat) := i.scales.zipIdx.filter fun r => r.1.unit = unit
def maxKeys (i : Img) (unit : Nat) : List Nat :=
  ((unitScales i unit).map fun r => (List.range r.1.m.length).map fun c => 65536 * r.2 + c).flatten

/-- Combine indices of a unit's decision (R180). -/
def ncomb (i : Img) (unit : Nat) : Nat := max 1 (ceilDiv (maxKeys i unit).length 15)

/-- Does a decision hold a record of a stream? Every tile issues the LADDER_END that started it, the first record of its tick; whatever
follows waits, a second LADDER_END of the unit too (06 R180). -/
def decisionHolds (s : State) (i : Img) (st : Strm) (c : Ctx) (r : OpRec) : Bool :=
  inDecision s i st && !(r.opc = 0x04 && c.issued = 0 && (unitSt s r.unit).due = some (kd i (ncomb i r.unit)))

/-- Does a unit stand above its starting rung since the step began, so that its main records are held (R182)? -/
def unitHeld (s : State) (i : Img) (u : Nat) : Bool :=
  s.asq.det.isNone && match unitDesc i u with
    | some d => d.start < (unitSt s u).rung && (unitSt s u).raised ≠ some (arrStep s)
    | none => false

/-- Does the array run records: in Run, or for one TICK1 tick (16 R468)? -/
def issuing (s : State) : Bool := s.run = .run || (s.run = .halt && s.asq.tick1)

/-- Every earlier record of a stream has completed (R217). -/
def strmDone (t : Tile) (st : Strm) : Bool := t.ops.all fun o => o.strm ≠ st

/-- The record that a stream of a tile issues next, with its index: conditions of R168, R197 but for its fence. -/
def nextRec (s : State) (u v : Nat) (st : Strm) : Option (Img × Nat × OpRec) :=
  match s.image, tickNow s with
  | some i, some tr =>
    let t := tile s u v
    let c := getCtx t st
    if !issuing s || s.loading || !inImage s u v || t.fenced || deciding s || c.sleep.isSome || c.barrier.isSome
        || numRec tr st ≤ c.issued || (firstRec tr st).isNone then none
    else match (recsOf i st)[c.pos]? with
      | none => none
      | some b =>
        let r := parseRec b
        let need := r.needS = 3 || i.lmode || r.needN ≤ t.landed.getD r.needS 0
        let free := unitClass r.opc = 0 || t.ops.all fun o => unitClass o.opc ≠ unitClass r.opc
        if decisionHolds s i st c r || unitHeld s i r.unit || !need || !free then none else some (i, c.pos, r)
  | _, _ => none

/-- Does an operation see an operand transposed? A 4-bit operand is read as it is stored whatever TRN says (02 R52; DEDUCED: no rule
refuses TRN there). -/
def Operand.turned (o : Operand) : Bool := o.trn && sramBits o.fmt ≠ 4

/-! Tokens (06 R170, R171). A cycle lasts 1 ns, so the time at which a command comes is its cycle. -/

/-- Cost of a cycle in which nothing but the operations at work and the active streams is charged: a stream is active until the last
record that it issues in the tick completes (06 R171). -/
def steady (t : Tile) : Nat :=
  (t.ops.map (·.rate)).sum + 3 * ([Strm.f, .b, .w].filter fun st =>
    let c := getCtx t st
    c.act.isSome && c.sleep.isNone && (c.issued < c.due || c.barrier.isSome || t.ops.any fun o => o.strm = st)).length

/-- Single charges of a cycle: `n` more tokens. The highest cost of a cycle is that of its single charges and of steady work
(DESIGN CHOICE: an operation's work is spread evenly over its cycles). -/
def tokEvent (now n : Nat) (t : Tile) : Tile :=
  let c := (if t.cyc.1 = now then t.cyc.2 else 0) + n
  { t with tok := t.tok + n, cyc := (now, c), tokHi := max t.tokHi (steady t + c) }

/-- A stream issues or completes a record: 3 tokens for each cycle since the latest one charged (R171). -/
def active (now : Nat) (st : Strm) (t : Tile) : Tile :=
  let c := getCtx t st
  tokEvent now 0 (setCtx st { c with act := some (now + 1) } { t with tok := t.tok + 3 * (now + 1 - c.act.getD now) })

/-- A stream moves past a record and its extension records, and is active; one that its decision holds is not (06 R171, R180). -/
def stepPast (now : Nat) (st : Strm) (r : OpRec) (t : Tile) : Tile :=
  let c := getCtx t st
  let t := setCtx st { c with pos := c.pos + 1 + extRecs r, issued := c.issued + 1, fenceWait := false } t
  if r.opc = 0x04 then t else active now st t

/-- Issue the next record of a stream if its op code is `opc`: wait at an unmet fence (R217), else move past the
record and do `f`. A record that cannot issue leaves the state alone. -/
def issue (u v : Nat) (st : Strm) (opc : Nat) (f : Img → Nat → OpRec → State → State) (s : State) : State :=
  match nextRec s u v st with
  | none => s
  | some (i, k, r) =>
    if r.opc ≠ opc then s
    else
      let t := tile s u v
      if (r.fence || opc = 0x01) && !strmDone t st then setTile u v (setCtx st { getCtx t st with fenceWait := true } t) s
      else f i k r (setTile u v (stepPast s.now st r t) s)

/-- Charge tokens to a tile (06 R170). -/
def charge (u v n : Nat) (s : State) : State :=
  if inImage s u v then setTile u v (tokEvent s.now n (tile s u v)) s else s

end Sys2Proof.Machine
end

