-- ==== Sys2Proof/Machine/Setts.lean ====
section
/-! DEFINITION. Setts and far setts (07 R209 to R222). -/

namespace Sys2Proof.Machine

/-- Who signals: logical tile, stream code (3 for an edge die) and tick index (Table 7.6). -/
structure Signaller where
  u : Nat
  v : Nat
  strm : Nat
  tick : Nat
  deriving DecidableEq, Repr, Inhabited

def strmBit (st : Strm) : Nat := 2 ^ strmCode st
def strmOf : Nat → Option Strm | 0 => some .f | 1 => some .b | 2 => some .w | _ => none

/-- COUNT rises by 1, or saturates with SAT (R213). -/
def settUp (x : Sett) : Sett := if x.count < 65535 then { x with count := x.count + 1 } else { x with sat := true }

/-- What a SIGNAL does to a sett: the sett, and the stream it releases (R211). -/
def settSignal (tgt : Option Strm) (x : Sett) : Sett × Option Strm :=
  match tgt with
  | none => match x.queue with
    | q :: r => ({ x with queue := r }, some q)
    | [] => (settUp x, none)
  | some st =>
    if st ∈ x.queue then ({ x with queue := x.queue.erase st }, some st)
    else if x.t / strmBit st % 2 = 0 then ({ x with t := x.t + strmBit st }, none)
    else ({ settUp x with spill := min (x.spill + 1) 255 }, none)

/-- Does a SIGNAL saturate the sett's COUNT (R213)? -/
def settSaturates (tgt : Option Strm) (x : Sett) : Bool :=
  65535 ≤ x.count && match tgt with
    | none => x.queue.isEmpty
    | some st => !decide (st ∈ x.queue) && x.t / strmBit st % 2 = 1

/-- What a WAIT does: the sett, and whether the stream goes on (R210). -/
def settWait (st : Strm) (x : Sett) : Sett × Bool :=
  if x.t / strmBit st % 2 = 1 then ({ x with t := x.t - strmBit st }, true)
  else if 0 < x.count then ({ x with count := x.count - 1 }, true)
  else ({ x with queue := x.queue ++ [st] }, false)

/-- The last-signaller record (R211). -/
def settLast (w : Signaller) (x : Sett) : Sett :=
  { x with lsValid := true, lsU := w.u, lsV := w.v, lsStrm := w.strm, lsTick := w.tick }

/-- Perturbed wake-ups are counted (16 R469). -/
def wakeEvent (u v : Nat) (s : State) : State :=
  let w := reg s .dbg 0x05C
  if prtActs s 0x05C && (bitOf w 30 || (fld w.toNat 7 0 = u && fld w.toNat 15 8 = v)) then prtEvent s else s

/-- A signal arrives at sett `k` of a tile: it wakes at most one stream, and saturation is contract fault 9 (R213). -/
def signalTile (u v k : Nat) (tgt : Option Strm) (w : Signaller) (opIdx : Nat) (s : State) : State :=
  let t := tile s u v
  let x := mget Sett.blank t.setts k
  let r := settSignal tgt x
  let t := { t with setts := mput Sett.blank k (settLast w r.1) t.setts }
  let s := match r.2 with
    | some st => wakeEvent u v (setTile u v (setCtx st { getCtx t st with sleep := none, slept := 0 } t) s)
    | none => setTile u v t s
  if settSaturates tgt x then contractFault 9 u v opIdx s else s

/-! Groups of the home shard. -/

/-- The module's member number. -/
def selfM (s : State) : Nat := fld (stepv s .rdc 0x20C).toNat 15 0

/-- Reductions of a channel in their order. -/
def redsOf (p : Plan) (ch : Chan) : List Redn := (p.reds.drop ch.redFirst).take ch.nred

/-- The reductions that this module completes as home or shadow home. -/
def homeReds (s : State) : List Redn :=
  match s.rdc.plan with
  | none => []
  | some p => (p.chans.filter fun c => selfM s = c.home || (c.shadowed && selfM s = c.shome)).flatMap (redsOf p)

/-- Does the module own state of a group: a reduction completed here covers some of its blocks, or no plan names another home (01 R24,
R25)? -/
def homedGroup (s : State) (g : Nat) : Bool :=
  !(s.rdc.plan.any fun p => !p.chans.isEmpty) || (homeReds s).any fun rn => rn.blk0 < 4096 * (g + 1) && 4096 * g < rn.blk0 + rn.nblk

/-- Groups of a program's span that an engine holds, in increasing order (09 R284). -/
def heldGroups (s : State) (u : UProg) (d : Die) : List Nat :=
  match s.image with
  | some i => (progGroups i (placeNow s) u d).filter (homedGroup s)
  | none => []

/-- Add to a list of ready programs those that become ready together, in rising number (09 R286). -/
def addReady (new : List Nat) (l : List Nat) : List Nat := l ++ new.insertionSort (· ≤ ·)

/-- Queue the RELAY programs of a far sett on every engine that holds groups of their span (09 R286). -/
def readyProgs (want : UProg → Bool) (s : State) : State :=
  match s.image with
  | none => s
  | some i =>
    forAll dies (fun d s =>
      let new := (i.uprogs.filter fun u => want u && !(heldGroups s u d).isEmpty).map (·.prog)
      let x := dieSt s d
      setDie d { x with ue := { x.ue with ready := addReady new x.ue.ready } } s) s

/-- Virtual coordinate of an edge die's control port toward a tile, −1 as 0xFF (05 R131). -/
def dieCoord (i : Img) (d : Die) (u v : Nat) : Nat × Nat :=
  match d.val / 4 with
  | 0 => (0xFF, v) | 1 => (i.reqU, v) | 2 => (u, 0xFF) | _ => (u, i.reqV)

end Sys2Proof.Machine
end

