-- ==== Sys2Proof/Machine/Mesh.lean ====
section
/-! DEFINITION. The mesh (05 R122 to R144): flits cross the routers of their route one by one, from buffer to buffer; combines, halts,
credits and the faults a router reports. Cycle timing is left out: a flit that finds its way free is followed to its destination. -/

namespace Sys2Proof.Machine

/-- The row-first route (R123): the output a flit for (du, dv) takes at (u, v). -/
def outPort (u v du dv : Nat) : Port :=
  if u < du then .e else if du < u then .w else if v < dv then .s else if dv < v then .n else .l

/-- The neighbour behind an output, and the input on which a flit arrives there. -/
def beyond (u v : Nat) : Port → Nat × Nat × Port
  | .e => (u + 1, v, .w) | .w => (u - 1, v, .e) | .s => (u, v + 1, .n) | .n => (u, v - 1, .s) | .l => (u, v, .l)

/-- Is there an image tile behind an output? -/
def hasNbr (i : Img) (u v : Nat) : Port → Bool
  | .e => u + 1 < i.reqU | .w => 0 < u | .s => v + 1 < i.reqV | .n => 0 < v | .l => true

def portNum : Port → Nat | .n => 0 | .e => 1 | .s => 2 | .w => 3 | .l => 4

/-- Counter offsets of 05 Table 5.10 in the tile status block. -/
def crcCtr (p : Port) : Nat := 0x40 + 4 * (portNum p % 4)

/-! Flit headers (Tables 5.2 to 5.4). -/

def flitKind (f : Flit) : Nat := fld f.hdr.toNat 47 46
/-- The CRC a sender computes over header and payload (R126): the header's six bytes, least significant first, then the payload, each
byte from its top bit (DESIGN CHOICE: R126 gives polynomial and initial value only). -/
def flitCrc (f : Flit) : BitVec 16 := crc16 (natLE 6 f.hdr.toNat ++ f.pay)
def mkFlit (hdr : Nat) (pay : List Byte) : Flit :=
  let f : Flit := { hdr := BitVec.ofNat 48 hdr, crc := 0, pay := pay }
  { f with crc := flitCrc f }

def uniHdr (du dv line strm : Nat) (last skw : Bool) : Nat :=
  du % 256 * 2 ^ 38 + dv % 256 * 2 ^ 30 + line % 2 ^ 15 * 2 ^ 15 + strm % 4 * 2 ^ 13 + last.toNat * 2 ^ 12 + skw.toNat * 2 ^ 11
def mcHdr (tree line strm : Nat) (last skw : Bool) : Nat :=
  2 ^ 46 + tree % 256 * 2 ^ 38 + line % 2 ^ 15 * 2 ^ 23 + strm % 4 * 2 ^ 21 + last.toNat * 2 ^ 20 + skw.toNat * 2 ^ 19
def ctlHdr (du dv ctype : Nat) : Nat := 2 ^ 47 + du % 256 * 2 ^ 38 + dv % 256 * 2 ^ 30 + ctype % 16 * 2 ^ 26

/-- LINE, STRM, LAST and SKW of a bulk flit of either kind. -/
def bulkFields (f : Flit) : Nat × Nat × Bool × Bool :=
  let h := f.hdr.toNat
  if flitKind f = 0 then (fld h 29 15, fld h 14 13, h.testBit 12, h.testBit 11)
  else (fld h 37 23, fld h 22 21, h.testBit 20, h.testBit 19)

/-- A router or tap reports a slot collision (L) or a queue overflow (Q) (R135, R136, 06 R178), until a HALT has passed it (06 R169). -/
def slotColl (u v : Nat) (s : State) : State := if s.asq.halted then s else contractFault 0 u v 0 (tileNetErr u v 0x5C s)
def queueOvf (u v : Nat) (s : State) : State := if s.asq.halted then s else contractFault 4 u v 0 (tileNetErr u v 0x60 s)
def overrunsBuffer (u v : Nat) (s : State) : State :=
  match s.image with | some i => if i.lmode then slotColl u v s else queueOvf u v s | none => s

/-- Has a flit of a stream's transfer landed, LAST counted (07 R198)? -/
def landed (strm : Nat) (t : Tile) : Tile := { t with landed := t.landed.set strm (t.landed.getD strm 0 + 1) }

/-- Does a RECV of a tile take flits of a sending stream? -/
def recvTakes (strm : Nat) (o : Op) : Bool := o.opc = 0x2D && byteAt o.bytes 52 % 4 = strm && o.left ≠ 0

/-- Give a SKW flit to the armed receiver: its line, its bytes, and the end of the transfer at LAST (R128, R207). -/
def feedRecv (line strm : Nat) (last : Bool) (pay : List Byte) (sh : List (Nat × Nat × Nat)) : List Op → Option (List Op)
  | [] => none
  | o :: r =>
    if recvTakes strm o then some ({ o with got := o.got ++ [(line, pay, sh)], left := if last then 0 else o.left } :: r)
    else (feedRecv line strm last pay sh r).map (o :: ·)

/-- A bulk flit leaves the router at the L port of its destination (R128, R144). -/
def deliverBulk (u v : Nat) (f : Flit) (s : State) : State :=
  match s.image with
  | none => s
  | some i =>
    let t := tile s u v
    let x := bulkFields f
    if t.fenced then setTile u v (tileBump s 0x58 t) s
    else if x.2.2.2 then
      match feedRecv x.1 x.2.1 x.2.2.1 f.pay f.sh t.ops with
      | some ops =>
        let t := { t with ops := ops }
        setTile u v (if x.2.2.1 then landed x.2.1 t else t) s
      | none => if 64 ≤ t.rxq.length then overrunsBuffer u v s else setTile u v { t with rxq := t.rxq ++ [f] } s
    else if !inWindow (galleryOf i u v).2 x.1 then contractFault 6 u v 0 s
    else
      let t := tokEvent s.now 2 (sramWrite (64 * x.1) f.pay t)
      let t := { t with shadow := f.sh.foldl (fun (m : SMap (Nat × Nat)) e => minsert (128 * x.1 + e.1) e.2 m) t.shadow }
      setTile u v (if x.2.2.1 then landed x.2.1 t else t) s

/-- The tree entry of a router: expected input, outputs, wait (06 R177). -/
def treeEntry (i : Img) (tree u v : Nat) : Nat := i.trees.getD (tree * (i.reqU * i.reqV) + v * i.reqU + u) 0
def treeOuts (e : Nat) : List Port := [Port.n, .e, .s, .w, .l].filter fun p => e.testBit (3 + portNum p)

/-- The outputs that a bulk flit wants at a router. -/
def outsOf (i : Img) (u v : Nat) (f : Flit) : List Port :=
  if flitKind f = 1 then (treeOuts (treeEntry i (fld f.hdr.toNat 45 38) u v)).filter (hasNbr i u v)
  else [outPort u v (fld f.hdr.toNat 45 38) (fld f.hdr.toNat 37 30)]

/-! Departures of L mode (06 R176 to R178). A router uses the departures of a slot entry one after another; which cycle each falls
in is left out. -/

/-- Is (u, v) on the row-first route from one tile to another? -/
def onRoute (su sv du dv u v : Nat) : Bool :=
  (v = sv && min su du ≤ u && u ≤ max su du) || (u = du && min sv dv ≤ v && v ≤ max sv dv)

/-- The places of a slot entry: its own, or one for every gallery. -/
def slotShifts (i : Img) (e : MeshSlot) : List (Nat × Nat) := if e.grel then i.gals.map fun g => (g.gu, g.gv) else [(0, 0)]

/-- Does a slot entry, shifted, assign its departures to a flit at a router; `flow` is the flow number of the record that sends it
here? -/
def slotFor (e : MeshSlot) (o : Nat × Nat) (u v : Nat) (p : Port) (flow : Option Nat) (f : Flit) : Bool :=
  (p ≠ .l || (e.su + o.1 = u && e.sv + o.2 = v && flow.all fun n => n = e.flow)) &&
    if e.mc then flitKind f = 1 && fld f.hdr.toNat 45 38 = e.du
    else flitKind f = 0 && fld f.hdr.toNat 45 38 = e.du + o.1 && fld f.hdr.toNat 37 30 = e.dv + o.2 &&
      onRoute (e.su + o.1) (e.sv + o.2) (e.du + o.1) (e.dv + o.2) u v

/-- The slot entry with a departure left for a flit at a router, as its number in the tick's table and its gallery. -/
def departure (s : State) (i : Img) (u v : Nat) (p : Port) (flow : Option Nat) (f : Flit) : Option Nat :=
  match tickNow s with
  | none => none
  | some tr =>
    ((i.meshSlots.drop tr.meshFirst).take tr.meshN).zipIdx.findSome? fun e =>
      (slotShifts i e.1).zipIdx.findSome? fun o =>
        let k := 64 * e.2 + o.2
        if mget 0 (tile s u v).dep k < e.1.count && slotFor e.1 o.1 u v p flow f then some k else none

/-- A flit takes its departure. -/
def takeDep (i : Img) (u v : Nat) (p : Port) (flow : Option Nat) (f : Flit) (s : State) : State :=
  if !i.lmode then s
  else match departure s i u v p flow f with
    | some k => let t := tile s u v; setTile u v { t with dep := mput 0 k (mget 0 t.dep k + 1) t.dep } s
    | none => s

/-! Buffers (R135, R136, 06 Table 6.2). -/

def bulkHeld (t : Tile) (p : Port) : Nat := (t.bulk.filter fun q => q.1 = p).length

/-- Would a flit at the L port meet a full receive queue? -/
def rxFull (t : Tile) (f : Flit) : Bool :=
  let x := bulkFields f
  !t.fenced && x.2.2.2 && (feedRecv x.1 x.2.1 x.2.2.1 f.pay f.sh t.ops).isNone && 64 ≤ t.rxq.length

/-- Does a flit advance at a router: at an assigned departure in L mode, on the credits of all its outputs in Q mode? -/
def advances (s : State) (i : Img) (u v : Nat) (p : Port) (flow : Option Nat) (f : Flit) : Bool :=
  if i.lmode then (departure s i u v p flow f).isSome
  else (outsOf i u v f).all fun out =>
    if out = .l then !rxFull (tile s u v) f
    else let n := beyond u v out; bulkHeld (tile s n.1 n.2.1) n.2.2 < 8

/-- Two flits of one pair or tree, as far as their headers tell: they keep their order (R124). -/
def sameWay (f g : Flit) : Bool := fld f.hdr.toNat 47 30 = fld g.hdr.toNat 47 30 ||
  (flitKind f = 1 && fld f.hdr.toNat 47 38 = fld g.hdr.toNat 47 38)

/-- Does an older flit of the router go first: of the same way in L mode (R124), for one of the same outputs in Q mode (R136)? -/
def blocked (s : State) (i : Img) (u v : Nat) (p : Port) (f : Flit) : Bool :=
  (tile s u v).bulk.any fun q =>
    if i.lmode then q.1 = p && sameWay q.2 f else (outsOf i u v q.2).any fun o => o ∈ outsOf i u v f

/-- Hold a flit in an input buffer of 8, or overrun it. -/
def bufferBulk (u v : Nat) (p : Port) (f : Flit) (s : State) : State :=
  let t := tile s u v
  if 8 ≤ bulkHeld t p then overrunsBuffer u v s else setTile u v { t with bulk := t.bulk ++ [(p, f)] } s

/-- Replace an operation of a tile. -/
def setOp (o o' : Op) (t : Tile) : Tile := { t with ops := t.ops.map fun x => if x = o then o' else x }

def isSend (o : Op) : Bool := o.opc = 0x2B || o.opc = 0x2C

/-- A flit that its tile's SEND or MSEND injected leaves the router: the operation has one flit less to go (07 R217). -/
def sentOne (u v : Nat) (p : Port) (f : Flit) (s : State) : State :=
  if p ≠ .l then s
  else
    let t := tile s u v
    match t.ops.find? fun o => isSend o && strmCode o.strm = (bulkFields f).2.1 && o.got.length < o.left with
    | some o => setTile u v (setOp o { o with left := o.left - 1 } t) s
    | none => s

/-- Perturbed hops are counted, in Q mode (16 R469). -/
def hopEvent (i : Img) (u v : Nat) (out : Port) (s : State) : State :=
  let w := reg s .dbg 0x050
  if prtActs s 0x050 && !i.lmode && (bitOf w 30 || (fld w.toNat 7 0 = u && fld w.toNat 15 8 = v))
      && fld w.toNat 29 27 = portNum out then prtEvent s else s

/-- A unicast flit at a router goes on to its destination, or waits where it must (R123). `fresh`: it has just come. -/
def walkUni : Nat → Nat → Nat → Port → Option Nat → Bool → Flit → State → State
  | 0, _, _, _, _, _, _, s => s
  | k + 1, u, v, p, flow, fresh, f, s =>
    match s.image with
    | none => s
    | some i =>
      let out := outPort u v (fld f.hdr.toNat 45 38) (fld f.hdr.toNat 37 30)
      if (fresh && blocked s i u v p f) || !advances s i u v p flow f then bufferBulk u v p f s
      else
        let s := sentOne u v p f (takeDep i u v p flow f s)
        if out = .l then deliverBulk u v f s
        else
          let n := beyond u v out
          walkUni k n.1 n.2.1 n.2.2 none true f (hopEvent i u v out (charge u v 2 s))

/-- A multicast flit at a router is copied to every output of its entry (R139, R141). -/
def walkMc : Nat → Nat → Nat → Port → Option Nat → Bool → Flit → State → State
  | 0, _, _, _, _, _, _, s => s
  | k + 1, u, v, p, flow, fresh, f, s =>
    match s.image with
    | none => s
    | some i =>
      if treeEntry i (fld f.hdr.toNat 45 38) u v % 8 ≠ portNum p then sentOne u v p f (tileNetErr u v 0x54 s)
      else if (fresh && blocked s i u v p f) || !advances s i u v p flow f then bufferBulk u v p f s
      else (outsOf i u v f).foldl (fun s o =>
        if o = .l then deliverBulk u v f s
        else
          let n := beyond u v o
          walkMc k n.1 n.2.1 n.2.2 none true f (hopEvent i u v o (charge u v 2 s))) (sentOne u v p f (takeDep i u v p flow f s))

/-- Hops bound of any route or tree of an image. -/
def hopFuel (s : State) : Nat := match s.image with | some i => i.reqU + i.reqV + 2 | none => 0

/-- A bulk flit at a router, checks of R126 and R127 done. -/
def bulkAt (u v : Nat) (p : Port) (flow : Option Nat) (fresh : Bool) (f : Flit) (s : State) : State :=
  if (bulkFields f).2.1 = 3 then tileNetErr u v 0x50 s
  else if flitKind f = 1 then walkMc (hopFuel s) u v p flow fresh f s
  else if inImage s (fld f.hdr.toNat 45 38) (fld f.hdr.toNat 37 30) then walkUni (hopFuel s) u v p flow fresh f s
  else contractFault 6 u v 0 s

/-- The sends of a tile inject their flits, in order, while the L input has room: a flit that would find it full is held in its
operation (R136). -/
def pumpSends : Nat → Nat → Nat → State → State
  | 0, _, _, s => s
  | n + 1, u, v, s =>
    let t := tile s u v
    match t.ops.find? fun o => isSend o && !o.got.isEmpty with
    | none => s
    | some o =>
      match o.got with
      | [] => s
      | g :: rest =>
        if 8 ≤ bulkHeld t .l then s
        else
          let f := { mkFlit g.1 g.2.1 with sh := g.2.2 }
          pumpSends n u v (bulkAt u v .l (some (parseRec o.bytes).flow) true f (setTile u v (setOp o { o with got := rest } t) s))

/-- Flits that the operations of a tile still have to inject. -/
def pumpFuel (t : Tile) : Nat := (t.ops.map fun o => o.got.length).sum + 1

/-- The suspect behind an input: the neighbour that sent the flit (R126). At the edge of the image it is a die, and no tile. -/
def senderOf (s : State) (u v : Nat) (p : Port) : List (Nat × Nat) :=
  match s.image with
  | some i => if hasNbr i u v p then let n := beyond u v p; [(n.1, n.2.1)] else []
  | none => []

/-- A flit that fails its CRC is counted at an input of Table 5.10, which lists none for L. -/
def crcCount (u v : Nat) (p : Port) (s : State) : State := if p = .l then s else tileNetErr u v (crcCtr p) s

/-- Is a control buffer of an input free (R134)? -/
def ctlRoom (t : Tile) (p : Port) : Bool := (t.ctl.filter fun q => q.1 = p).length < 2

/-- A flit arrives at a router: nothing happens outside a running array (array clocks are gated in Ready); a bad CRC
discards it, with the sender as suspect (tile fault 0x2 of 15 Table 15.2). A control flit comes only to a free control buffer
(R134). -/
def flitIn (u v : Nat) (p : Port) (f : Flit) (kind : Nat) (k : State → State) (s : State) : State :=
  if s.image.isNone || s.loading || !(s.run = .run || s.run = .halt) || !inImage s u v then s
  else if kind = 2 && !ctlRoom (tile s u v) p then s
  else if flitCrc f ≠ f.crc then tileFault 2 (senderOf s u v p) (haltAt u v (crcCount u v p s))
  else if flitKind f ≠ kind then tileNetErr u v 0x50 s
  else k s

/-- BULK_UNICAST_FLIT (05 R123 to R128). -/
def execBulkUnicastFlit (u v : Nat) (p : Port) (f : Flit) (s : State) : Res :=
  .next (flitIn u v p f 0 (bulkAt u v p none true f) s)

/-- BULK_MULTICAST_FLIT (05 R139 to R141). -/
def execBulkMulticastFlit (u v : Nat) (p : Port) (f : Flit) (s : State) : Res :=
  .next (flitIn u v p f 1 (bulkAt u v p none true f) s)

/-! The control channel. -/

def ctype (f : Flit) : Nat := fld f.hdr.toNat 29 26

/-- Is a SIGNAL payload well formed (07 R216)? -/
def signalOk (f : Flit) : Bool :=
  let b := f.pay
  byteAt b 0 ≤ 31 && byteAt b 1 ≤ 3 && byteAt b 2 ≤ 3 && byteAt b 5 ≤ 1 && zeroAt b 7 1 && zeroAt b 14 50 &&
    !(byteAt b 5 = 1 && byteAt b 1 = 3) && (byteAt b 5 = 1 || (zeroAt b 6 1 && zeroAt b 12 2))

/-- A SIGNAL flit reaches its tile (07 R216); one for a far sett passes on to the die that carries it. -/
def deliverSignal (u v : Nat) (f : Flit) (far : List Byte → State → State) (s : State) : State :=
  let b := f.pay
  let t := tile s u v
  if t.fenced then setTile u v (tileBump s 0x58 t) s
  else if !signalOk f then tileNetErr u v 0x50 s
  else if byteAt b 5 = 1 then far b s
  else signalTile u v (byteAt b 0) (strmOf (byteAt b 1)) ⟨byteAt b 3, byteAt b 4, byteAt b 2, fieldLE b 8 4⟩ 0 s

/-- The control position of an output (R131). -/
def ctlPos (u v : Nat) : Port → Nat
  | .e => 2 * (u + v) % 16 | .s => 2 * (u + v) % 16
  | .w => (16 - 2 * (u + v) % 16) % 16 | .n => (16 - 2 * (u + v) % 16) % 16
  | .l => 0

/-- Cycles that a control flit with none ahead of it waits for an output: up to its control position in L mode (R132), none in Q mode. -/
def ctlWait (i : Img) (u v : Nat) (out : Port) (cyc : Nat) : Nat :=
  if i.lmode then (16 + ctlPos u v out - cyc % 16) % 16 else 0

/-- CTL_WAIT_MAX (Table 5.10) of a wait at a router. -/
def noteWait (u v w : Nat) (s : State) : State :=
  let t := tile s u v
  if pageFrz s .dbg || w ≤ (mget 0 t.ctr 0x64).toNat then s else setTile u v { t with ctr := mput 0 0x64 (w32 w) t.ctr } s

/-- The output of a SIGNAL flit at a router. -/
def ctlOut (u v : Nat) (f : Flit) : Port := outPort u v (fld f.hdr.toNat 45 38) (fld f.hdr.toNat 37 30)

/-- May a control flit leave a router: it is the oldest for its output, and the next router has a free buffer (R134)? Flits stand in
the order in which they came; two never come in one cycle here, so the tie order of R134 decides nothing. -/
def ctlGoes (s : State) (u v : Nat) (q : Port × Flit) : Bool :=
  let out := ctlOut u v q.2
  (tile s u v).ctl.find? (fun x => ctlOut u v x.2 = out) = some q &&
    (out = .l || let n := beyond u v out; ctlRoom (tile s n.1 n.2.1) n.2.2)

/-- A control flit takes a buffer of a router, or stands in it already (`fresh` false), and crosses its route from buffer to buffer: 2
tokens a hop. `cyc` is the cycle of the tick; at its destination `dl` takes it. -/
def crossCtl : Nat → Nat → Nat → Port → Flit → Bool → Nat → (State → State) → State → State
  | 0, _, _, _, _, _, _, _, s => s
  | k + 1, u, v, p, f, fresh, cyc, dl, s =>
    match s.image with
    | none => s
    | some i =>
      let t := tile s u v
      let s := if fresh then setTile u v { t with ctl := t.ctl ++ [(p, f)] } s else s
      if !ctlGoes s u v (p, f) then s
      else
        let t := tile s u v
        let out := ctlOut u v f
        let w := ctlWait i u v out cyc
        let s := noteWait u v w (setTile u v { t with ctl := t.ctl.erase (p, f) } s)
        if out = .l then dl s
        else
          let n := beyond u v out
          crossCtl k n.1 n.2.1 n.2.2 f true (cyc + w + 2) dl (charge u v 2 s)

/-- A control flit enters the mesh at a router in the cycle that is now. -/
def sendCtl (u v : Nat) (p : Port) (f : Flit) (dl : State → State) (s : State) : State :=
  crossCtl (hopFuel s) u v p f true (s.now - s.asq.tickAt) dl s

/-- The payload of a SIGNAL flit (07 Table 7.6). -/
def signalPay (sett tgt strm su sv : Nat) (far : Bool) (fsn tick tmod : Nat) : List Byte :=
  natLE 1 sett ++ natLE 1 tgt ++ natLE 1 strm ++ natLE 1 su ++ natLE 1 sv ++ natLE 1 far.toNat ++ natLE 1 fsn ++ zeros 1
    ++ natLE 4 tick ++ natLE 2 tmod ++ zeros 50

/-! Combines (R142). -/

/-- The routers whose COMBINE_UP flits a router merges, by input, and its parent's direction; the root has none. -/
def combKids (i : Img) (u v : Nat) : List Port :=
  let cu := i.reqU / 2
  let cv := i.reqV / 2
  let row : List Port := (if u ≤ cu && 0 < u then [.w] else []) ++ (if cu ≤ u && u + 1 < i.reqU then [.e] else [])
  let col : List Port := if u = cu then
    (if v ≤ cv && 0 < v then [.n] else []) ++ (if cv ≤ v && v + 1 < i.reqV then [.s] else []) else []
  row ++ col
def combUp (i : Img) (u v : Nat) : Option Port :=
  let cu := i.reqU / 2
  let cv := i.reqV / 2
  if u < cu then some .e else if cu < u then some .w else if v < cv then some .s else if cv < v then some .n else none

/-- OR of flags and element-wise maximum; a maximum is finite and not negative, so its FP32 order is that of its bits. -/
def mergeMax (a b : List W32) : List W32 :=
  (List.range (max a.length b.length)).map fun k =>
    let x := a.getD k 0
    let y := b.getD k 0
    if x.toNat ≤ y.toNat then y else x

/-- The tiles below a router in the combine tree, itself among them. -/
def combBelow (i : Img) (u v x y : Nat) : Bool :=
  let cu := i.reqU / 2
  let cv := i.reqV / 2
  if u = cu then v = cv || (if v < cv then y ≤ v else v ≤ y) else y = v && (if u < cu then x ≤ u else u ≤ x)

/-- A stream's BARRIER completes; the stream has been active until now (06 R171). -/
def freeBarrier (now : Nat) (st : Strm) (idx : Nat) (t : Tile) : Tile :=
  let c := getCtx t st
  if c.barrier ≠ some idx then t
  else
    let t := setCtx st { c with barrier := none } t
    if c.act.isSome then active now st t else t

/-- The waits of a COMBINE_DOWN flit for the control positions of L mode, from a router down: `cyc` is the cycle in which it comes
there (R132, R142). -/
def downWaits : Nat → Img → Nat → Nat → Nat → State → State
  | 0, _, _, _, _, s => s
  | k + 1, i, u, v, cyc, s =>
    if !i.lmode then s
    else forAll (combKids i u v) (fun q s =>
      let w := ctlWait i u v q cyc
      let n := beyond u v q
      downWaits k i n.1 n.2.1 (cyc + w + 2) (noteWait u v w s)) s

/-- A combine's result travels down from a router, 2 tokens for each link (R125, R142), and frees the barriers on its index; the ASQ
takes it. -/
def combineDown (u v idx flags cyc : Nat) (mx : List W32) (s : State) : State :=
  match s.image with
  | none => s
  | some i =>
    let s := downWaits (hopFuel s) i u v cyc s
    let s := { s with asq := { s.asq with results := mput (0, []) idx (flags % 65536, mx) s.asq.results } }
    forAll ((imageTiles i).filter fun p => combBelow i u v p.1 p.2) (fun p s =>
      let t := tile s p.1 p.2
      setTile p.1 p.2 (tokEvent s.now (2 * (combKids i p.1 p.2).length) ([Strm.f, .b, .w].foldl (fun t st => freeBarrier s.now st idx t) t)) s) s

/-- The result of a combine index at the root: every tile and the ASQ get it. -/
def combineDone (idx flags cyc : Nat) (mx : List W32) (s : State) : State :=
  match s.image with
  | some i => combineDown (i.reqU / 2) (i.reqV / 2) idx flags cyc mx s
  | none => s

/-- Does nothing come up from a router: its tile and every tile below it are fenced (R144)? -/
def silent : Nat → State → Img → Nat → Nat → Bool
  | 0, _, _, _, _ => false
  | k + 1, s, i, u, v => (tile s u v).fenced && (combKids i u v).all fun q => let n := beyond u v q; silent k s i n.1 n.2.1

/-- A router holds one more input of a combine, `.l` its own contribution, come in cycle `cyc`; it forwards when it holds all, in L mode
at its control position (R132). A fenced tile adds nothing of its own (R144). -/
def combineAt : Nat → Nat → Nat → Port → Nat → Nat → Nat → List W32 → State → State
  | 0, _, _, _, _, _, _, _, s => s
  | k + 1, u, v, p, idx, flags, cyc, mx, s =>
    match s.image with
    | none => s
    | some i =>
      let t := tile s u v
      let c := (t.comb.find? fun c => c.idx = idx).getD ⟨idx, 0, [], []⟩
      let c := { c with flags := c.flags ||| flags, maxima := mergeMax c.maxima mx, got := addNew p c.got }
      let all := (combKids i u v).all (fun q => q ∈ c.got || (let n := beyond u v q; silent (hopFuel s) s i n.1 n.2.1))
        && (t.fenced || Port.l ∈ c.got)
      let rest := t.comb.filter fun c => c.idx ≠ idx
      if !all then setTile u v { t with comb := rest ++ [c] } s
      else
        let s := setTile u v { t with comb := rest } s
        match combUp i u v with
        | none => combineDone idx c.flags cyc c.maxima s
        | some out =>
          let n := beyond u v out
          let w := ctlWait i u v out cyc
          combineAt k n.1 n.2.1 n.2.2 idx c.flags (cyc + w + 2) c.maxima (charge u v 2 (noteWait u v w s))

/-- A tile's own contribution to a combine. -/
def contribute (u v idx flags : Nat) (mx : List W32) (s : State) : State := combineAt (hopFuel s) u v .l idx flags (s.now - s.asq.tickAt) mx s

/-- Combines that a fencing has left with nothing more to wait for go on (R144). -/
def combinesGoOn (s : State) : State :=
  match s.image with
  | none => s
  | some i =>
    forAll (imageTiles i) (fun p s =>
      forAll (tile s p.1 p.2).comb (fun c => combineAt (hopFuel s) p.1 p.2 (c.got.headD .l) c.idx 0 (s.now - s.asq.tickAt) []) s) s

/-- Index, flags and maxima of a COMBINE payload (Table 5.5). -/
def combFields (f : Flit) : Nat × Nat × List W32 :=
  (fieldLE f.pay 0 2, fieldLE f.pay 2 2, (List.range 15).map fun k => w32 (fieldLE f.pay (4 + 4 * k) 4))

/-- COMBINE_UP (05 R142): a flit on an input that is no child of the tree is an invalid one. -/
def execCombineUp (u v : Nat) (p : Port) (f : Flit) (s : State) : Res :=
  .next (flitIn u v p f 2 (fun s =>
    match s.image with
    | none => s
    | some i =>
      if ctype f ≠ 1 || !decide (p ∈ combKids i u v) then tileNetErr u v 0x50 s
      else let c := combFields f; combineAt (hopFuel s) u v p c.1 c.2.1 (s.now - s.asq.tickAt) c.2.2 s) s)

/-- COMBINE_DOWN (05 R142): the root's result, delivered down from a router; it comes from the router's parent, at the root from its
own tile. On another input it is an invalid flit. -/
def execCombineDown (u v : Nat) (p : Port) (f : Flit) (s : State) : Res :=
  .next (flitIn u v p f 2 (fun s =>
    match s.image with
    | none => s
    | some i =>
      if ctype f ≠ 2 || (combUp i u v).getD .l ≠ p then tileNetErr u v 0x50 s
      else let c := combFields f; combineDown u v c.1 c.2.1 (s.now - s.asq.tickAt) c.2.2 s) s)

/-! Halts (R129, 06 R169). -/

/-- What the ASQ does with the first copy of a halt (Table 5.11): contract fault or tile fault. Its suspects join the recovery
registers whatever its class; a sett timeout, an HBM fault and an edge fault stop the array, and their own commands decide the
outcome: FAULT_CAUSE names contract faults and Faults (06 Table 6.17), and those classes carry cause 0 (DESIGN CHOICE). FAULT_TICK of a
first contract fault and REC_TICK of a record's first suspect are the halt's DTICK (06 R188, 15 R451). -/
def learnHalt (b : List Byte) (s : State) : State :=
  let cause := byteAt b 1
  let sus : List (Nat × Nat) := if byteAt b 4 = 0xFF && byteAt b 5 = 0xFF then [] else [(byteAt b 4, byteAt b 5)]
  let told (s s' : State) : State :=
    if s.asq.recov.suspects.isEmpty && !s'.asq.recov.suspects.isEmpty then setReg64 .asq 0x0B4 (fieldLE b 8 8) s' else s'
  let joined (s : State) : State := if sus.isEmpty then s else told s (addSuspects 0 sus (noteFault s))
  match byteAt b 0 with
  | 1 =>
    if cause ≤ 11 then
      let first := !faultValid s
      let s := contractFault cause (byteAt b 2) (byteAt b 3) (fieldLE b 16 4) (joined s)
      if first then setReg64 .asq 0x070 (fieldLE b 8 8) s else s
    else s
  | 2 =>
    let more := if byteAt b 6 < 56 then
        match s.image, placeOk s with
        | some i, some p => (imageTiles i).filter fun t =>
            match imagePhys s.geo p t.1 t.2 with | some (x, y) => (fieldAt x y).val = byteAt b 6 | none => false
        | _, _ => []
      else []
    told s (tileFault cause (sus ++ more) s)
  | 5 => callHalt (faultItem 4 cause [] (joined s))
  | _ => callHalt (joined s)

/-- HALT_FLIT (05 R129, 06 R169): each router forwards a given halt once, so it reaches every tile of the image. -/
def execHaltFlit (u v : Nat) (p : Port) (f : Flit) (s : State) : Res :=
  .next (flitIn u v p f 2 (fun s =>
    let id := f.pay.take 16
    if ctype f ≠ 3 || !(1 ≤ byteAt f.pay 0 && byteAt f.pay 0 ≤ 5) then tileNetErr u v 0x50 s
    else if id ∈ (tile s u v).halts then s
    else match s.image with
      | none => s
      | some i =>
        let known := s.tiles.any fun e => decide (id ∈ e.2.halts)
        let s := forAll (imageTiles i) (fun t s => let x := tile s t.1 t.2; setTile t.1 t.2 { x with halts := addNew id x.halts } s) s
        if known then s else learnHalt f.pay s) s)

/-! Waits, credits, watchdogs. -/

/-- Take the oldest flit of an input buffer. -/
def takeBulk (p : Port) (t : Tile) : Option (Flit × Tile) :=
  match t.bulk.find? fun q => q.1 = p with
  | some q => some (q.2, { t with bulk := t.bulk.erase q })
  | none => none

/-- SLOT_WAIT_EXPIRY (06 R178): in L mode the flit that waited is discarded as a slot collision. -/
def slotWaitExpiry (u v : Nat) (p : Port) (s : State) : State :=
  match s.image, takeBulk p (tile s u v) with
  | some i, some (f, t) =>
    if i.lmode then
      let s := slotColl u v (sentOne u v p f (setTile u v t s))
      pumpSends (pumpFuel (tile s u v)) u v s
    else s
  | _, _ => s

def execSlotWaitExpiry (u v : Nat) (p : Port) (s : State) : Res := .next (slotWaitExpiry u v p s)

/-- The flit that goes first when `q` is to go, in Q mode (R136): the oldest that wants an output of `q`, unless a still older one wants
an output of that one, and so on. -/
def goesFirst (s : State) (i : Img) (u v : Nat) : Nat → Port × Flit → Port × Flit
  | 0, q => q
  | n + 1, q =>
    if i.lmode then q
    else
      let x := ((tile s u v).bulk.find? fun x => (outsOf i u v x.2).any fun o => o ∈ outsOf i u v q.2).getD q
      if x = q then q else goesFirst s i u v n x

/-- CREDIT_RETURN (06 R167): held traffic of an input advances if it may, a control flit before bulk ones; a bulk flit uses what no
control flit does (R133), and lets an older one for the same output go first. -/
def creditReturn (u v : Nat) (p : Port) (s : State) : State :=
  match s.image with
  | none => s
  | some i =>
    let t := tile s u v
    match t.ctl.find? fun q => q.1 = p && ctlGoes s u v q with
    | some q =>
      let d := (fld q.2.hdr.toNat 45 38, fld q.2.hdr.toNat 37 30)
      crossCtl (hopFuel s) u v q.1 q.2 false (s.now - s.asq.tickAt) (deliverSignal d.1 d.2 q.2 fun _ s => s) s
    | none =>
      match t.bulk.find? fun q => q.1 = p with
      | none => s
      | some q =>
        let q := goesFirst s i u v t.bulk.length q
        if !advances s i u v q.1 none q.2 then s
        else
          let s := bulkAt u v q.1 none false q.2 (setTile u v { t with bulk := t.bulk.erase q } s)
          pumpSends (pumpFuel (tile s u v)) u v s

def execCreditReturn (u v : Nat) (p : Port) (s : State) : Res := .next (creditReturn u v p s)

/-- DEADLOCK (06 R189): Q mode, in Run. -/
def execDeadlock (u v : Nat) (s : State) : Res :=
  .next (match s.image with
    | some i => if i.lmode || s.run ≠ .run || !inImage s u v then s else contractFault 5 u v 0 s
    | none => s)

/-- ALIVE_WIRE_LOW (15 R430): the router at (u, v) sees the wire of its neighbour on `p` low for two cycles. -/
def execAliveWireLow (u v : Nat) (p : Port) (s : State) : Res :=
  .next (match s.image with
    | some i => if s.loading || !inImage s u v || p = .l || !hasNbr i u v p then s else tileFault 1 (senderOf s u v p) (haltAt u v s)
    | none => s)

/-- SIGNAL_FLIT (05 R127, R131, 07 R216): it crosses the rest of its route; a far-sett signal goes on to its die, and
`far` carries it there. -/
def signalIn (far : List Byte → State → State) (u v : Nat) (p : Port) (f : Flit) (s : State) : State :=
  flitIn u v p f 2 (fun s =>
    let du := fld f.hdr.toNat 45 38
    let dv := fld f.hdr.toNat 37 30
    if ctype f ≠ 0 then tileNetErr u v 0x50 s
    else if byteAt f.pay 5 % 2 = 1 then (if signalOk f then far f.pay s else tileNetErr u v 0x50 s)
    else if inImage s du dv then sendCtl u v p f (deliverSignal du dv f far) s
    else tileNetErr u v 0x50 s) s

/-! Relays and far setts (07 R219 to R222). -/

/-- Where a die's control flit for tile (u, v) enters the array: the edge tile of the tile's row or column, and the input (05 R131). -/
def dieEntry (i : Img) (d : Die) (u v : Nat) : Nat × Nat × Port :=
  match d.val / 4 with
  | 0 => (0, v, .w) | 1 => (i.reqU - 1, v, .e) | 2 => (u, 0, .n) | _ => (u, i.reqV - 1, .s)

/-- Cycles that a control flit waits at a die for the control position of the die's port, in L mode (05 R131, R132). -/
def dieWait (i : Img) (d : Die) (u v cyc : Nat) : Nat :=
  let pos := match d.val / 4 with
    | 0 => (2 * v + 14) % 16 | 1 => (16 - 2 * (i.reqU + v) % 16) % 16
    | 2 => (2 * u + 14) % 16 | _ => (16 - 2 * (u + i.reqV) % 16) % 16
  if i.lmode then (16 + pos - cyc % 16) % 16 else 0

/-- One signal of a far sett to its relay (R219, R220): a SIGNAL flit of its die crosses the array to the tile (05 R125, R131), or the
programs that it triggers get ready. -/
def relayOnce (d : Die) (n : Fin 16) (s : State) : State :=
  let w := (reg s (.fst d) (0x044 + 16 * n.val)).toNat
  let s := bump (.fst d) (0x04C + 16 * n.val) s
  if w.testBit 30 then readyProgs (fun u => u.trig = 2 && u.relayDie = d && u.relayFs = n) s
  else match s.image with
    | none => s
    | some i =>
      let u := fld w 7 0
      let v := fld w 15 8
      let c := dieCoord i d u v
      let f := mkFlit (ctlHdr u v 0) (signalPay (fld w 20 16) (fld w 29 28) 3 c.1 c.2 false 0 (bodyTick s) 0)
      let e := dieEntry i d u v
      let t := s.now - s.asq.tickAt
      if inImage s u v then
        crossCtl (hopFuel s) e.1 e.2.1 e.2.2 f true (t + dieWait i d u v t + 2) (deliverSignal u v f fun _ s => s) s
      else s

/-- Relay signals while COUNT ≥ N; one arrival raises COUNT by 1, so `fuel` counts at most COUNT relays. -/
def relayWhile (d : Die) (n : Fin 16) : Nat → State → State
  | 0, s => s
  | f + 1, s =>
    let w := (reg s (.fst d) (0x040 + 16 * n.val)).toNat
    let N := fld w 31 16
    let c := fld w 15 0
    if N = 0 || c < N then s
    else relayWhile d n f (relayOnce d n (setReg (.fst d) (0x040 + 16 * n.val) (w32 (c - N + 2 ^ 16 * N)) s))

/-- A signal arrives at a far sett (R219, R220, R222); one of this module has crossed the ring, if that still joins the dies (15 R444). -/
def farSignal (d : Die) (n : Fin 16) (srcMod srcDie : Nat) (s : State) : State :=
  let rel := (reg s (.fst d) (0x044 + 16 * n.val)).toNat
  if srcMod = ownId s && !ringReach s (Fin.ofNat 16 srcDie) d then s
  else if !rel.testBit 31 then setErr (.fst d) 1 (bump (.fst d) 0x140 s)
  else
    let w := (reg s (.fst d) (0x040 + 16 * n.val)).toNat
    let c := fld w 15 0
    let last := (reg s (.fst d) (0x048 + 16 * n.val)).toNat % 2
    let s := setReg (.fst d) (0x048 + 16 * n.val) (w32 (srcMod % 2 ^ 16 * 2 ^ 16 + srcDie % 16 * 2 ^ 12 + last)) s
    if 65535 ≤ c then
      contractFault 9 0xFFFF 0xFFFF (16 * d.val + n.val)
        (setErr (.fst d) 0 (setBits (.fst d) (0x048 + 16 * n.val) 0 0 1 s))
    else relayWhile d n (c + 1) (setReg (.fst d) (0x040 + 16 * n.val) (w32 (w + 1)) s)

end Sys2Proof.Machine
end

