-- ==== Sys2Proof/Machine/Seq.lean ====
section
/-! DEFINITION. The sequencer records NOP, FENCE, SIGNAL, WAIT, LADDER_END and BARRIER (07 R195, R210 to R218, 06 R180). -/

namespace Sys2Proof.Machine

/-- NOP (07 R195). -/
def execNop (u v : Nat) (st : Strm) (s : State) : Res := .next (issue u v st 0x00 (fun _ _ _ s => s) s)

/-- FENCE (07 R217): `issue` waits for the stream's earlier records. -/
def execFence (u v : Nat) (st : Strm) (s : State) : Res := .next (issue u v st 0x01 (fun _ _ _ s => s) s)

/-- The fence of a stream is met: a FENCE record has issued; another fenced record issues next (R217). -/
def fenceRelease (u v : Nat) (st : Strm) (s : State) : State :=
  let t := tile s u v
  if !(getCtx t st).fenceWait || !strmDone t st then s
  else
    let s := setTile u v (setCtx st { getCtx t st with fenceWait := false } t) s
    issue u v st 0x01 (fun _ _ _ s => s) s

/-- FENCE_RELEASE (07 R217). -/
def execFenceRelease (u v : Nat) (st : Strm) (s : State) : Res := .next (fenceRelease u v st s)

/-- A SIGNAL or FSIGNAL with no fence while records of its stream are still at work is contract fault 8 (R218). -/
def unfencedCheck (u v : Nat) (st : Strm) (k : Nat) (r : OpRec) (s : State) : State :=
  if !r.fence && !strmDone (tile s u v) st then contractFault 8 u v k s else s

/-- Destination tile of a record, from its two bytes (R205). -/
def destTile (i : Img) (u v : Nat) (r : OpRec) (o : Nat) : Nat × Nat :=
  let g := (galleryOf i u v).2
  if r.grel then (g.gu + r.p8 o, g.gv + r.p8 (o + 1)) else (r.p8 o, r.p8 (o + 1))

/-- A SIGNAL record: its own sett, or a flit to another tile (R211, R214, R216; R123 for a tile outside the image). -/
def signalRec (u v : Nat) (st : Strm) (i : Img) (k : Nat) (r : OpRec) (s : State) : State :=
  let sett := r.p8 52 % 32
  let tgt := strmOf (r.p8 53 % 4)
  let w : Signaller := ⟨u, v, strmCode st, bodyTick s⟩
  let s := unfencedCheck u v st k r s
  if (r.p8 53).testBit 2 then
    let d := destTile i u v r 54
    if !inImage s d.1 d.2 then contractFault 6 u v k s
    else
      let f := mkFlit (ctlHdr d.1 d.2 0) (signalPay sett (r.p8 53 % 4) (strmCode st) u v false 0 (bodyTick s) 0)
      sendCtl u v .l f (fun s =>
        if (tile s d.1 d.2).fenced then setTile d.1 d.2 (tileBump s 0x58 (tile s d.1 d.2)) s
        else signalTile d.1 d.2 sett tgt w k s) s
  else signalTile u v sett tgt w k s

/-- SIGNAL (07 R211). -/
def execSignal (u v : Nat) (st : Strm) (s : State) : Res := .next (issue u v st 0x02 (signalRec u v st) s)

/-- A WAIT record (R210). -/
def waitRec (u v : Nat) (st : Strm) (_ : Img) (_ : Nat) (r : OpRec) (s : State) : State :=
  let k := r.p8 52 % 32
  let t := tile s u v
  let x := settWait st (mget Sett.blank t.setts k)
  let t := { t with setts := mput Sett.blank k x.1 t.setts }
  setTile u v (if x.2 then t else setCtx st { getCtx t st with sleep := some k, slept := 0, act := none } t) s

/-- WAIT (07 R210). -/
def execWait (u v : Nat) (st : Strm) (s : State) : Res := .next (issue u v st 0x03 (waitRec u v st) s)

/-- A wait times out: TMO and a HALT; the ASQ's probe decides what it was (07 R215, 15 R431). -/
def settTimeout (u v : Nat) (st : Strm) (s : State) : State :=
  match s.image with
  | none => s
  | some i =>
    let t := tile s u v
    let c := getCtx t st
    match c.sleep with
    | none => s
    | some k =>
      if s.run ≠ .run || c.slept < 2 ^ i.settTmo then s
      else
        let x := mget Sett.blank t.setts k
        callHalt (haltAt u v (setTile u v { t with setts := mput Sett.blank k { x with tmo := true } t.setts } s))

/-- SETT_TIMEOUT (07 R215). -/
def execSettTimeout (u v : Nat) (st : Strm) (s : State) : Res := .next (settTimeout u v st s)

/-! LADDER_END and BARRIER. -/

/-- The first combine index of a unit's LADDER_END (05 R142 gives a combine 0 to 65,535 and names none for it): the units take their
indices from the top down, in the order of their descriptors, away from the low ones of BARRIER records (DESIGN CHOICE). -/
def combBase (i : Img) (unit : Nat) : Nat :=
  let before := i.units.takeWhile fun d => d.unit ≠ unit
  (65536 - ((before.map fun d => ncomb i d.unit).sum + ncomb i unit) % 65536) % 65536

/-- Is `k` a combine index of a unit's LADDER_END? -/
def combIsOf (i : Img) (unit k : Nat) : Bool := combBase i unit ≤ k && k < combBase i unit + ncomb i unit

/-- A check that its unit's last window left unfinished is abandoned (04 R111). -/
def abandonCheck (u v unit : Nat) (s : State) : State :=
  let t := tile s u v
  match t.owl with
  | some o => if o.unit = unit then setErr .owl 2 (bump .owl 0x05C (setTile u v { t with owl := none } s)) else s
  | none => s

/-- A LADDER_END record: the tile's overflow causes and maxima join the unit's combine, and the unit's decision falls due
k_d tick records later (R180, 04 R103). The maxima and causes of the attempt end with it. -/
def ladderRec (u v : Nat) (i : Img) (_ : Nat) (r : OpRec) (s : State) : State :=
  let s := abandonCheck u v r.unit s
  let t := tile s u v
  let causes := mget 0 t.ovf r.unit
  let keys := maxKeys i r.unit
  let mx := keys.map fun k => mget 0 t.amax k
  let n := ncomb i r.unit
  let t := { t with ovf := mput 0 r.unit 0 t.ovf, amax := keys.foldl (fun m k => mput 0 k 0 m) t.amax }
  let s := setTile u v t s
  let x := unitSt s r.unit
  let s := if x.due.isNone then { s with asq := { s.asq with units := mput default r.unit { x with due := some (kd i n) } s.asq.units } } else s
  (List.range n).foldl (fun s k =>
    contribute u v (combBase i r.unit + k) (if causes = 0 then 0 else 1 + 2 * causes) ((mx.drop (15 * k)).take 15) s) s

/-- LADDER_END (06 R180). -/
def execLadderEnd (u v : Nat) (st : Strm) (s : State) : Res := .next (issue u v st 0x04 (ladderRec u v) s)

/-- A BARRIER record: a combine of no maxima, whose result lets the stream go on (05 R142). -/
def barrierRec (u v : Nat) (st : Strm) (_ : Img) (_ : Nat) (r : OpRec) (s : State) : State :=
  let t := tile s u v
  contribute u v (r.p16 54) 0 [] (setTile u v (setCtx st { getCtx t st with barrier := some (r.p16 54) } t) s)

/-- BARRIER (05 R142). -/
def execBarrier (u v : Nat) (st : Strm) (s : State) : Res := .next (issue u v st 0x05 (barrierRec u v st) s)

end Sys2Proof.Machine
end

