-- ==== Sys2Proof/Machine/Order.lean ====
section
/-! DEFINITION. The order of tick records at run time: skipped ticks, waiting detours, the record that follows (06 R180 to R183). -/

namespace Sys2Proof.Machine

/-- The bits of a position mask, in order. -/
def maskPos (m : Nat) : List Nat := (List.range 16).filter fun p => m.testBit p

/-- Cycle of departure `k`: the k-th set position from slot SLOT0 on. -/
def slotCycle (slot0 mask k : Nat) : Nat :=
  let ps := maskPos mask
  16 * (slot0 + k / ps.length) + ps.getD (k % ps.length) 0

/-- Records of a stream from record `k` on, extension records stepped over. -/
def recsFrom (l : List (List Byte)) : Nat → Nat → List (Nat × OpRec)
  | 0, _ => []
  | n + 1, k => match l[k]? with
    | none => []
    | some b => let r := parseRec b; (k, r) :: recsFrom l n (k + 1 + extRecs r)

/-- Index of the detour body of a unit's rung: the entry that its descriptor's BODY field names (06 R181, R549, Table 6.11). -/
def detourOf (i : Img) (unit rung : Nat) : Option Nat :=
  match unitDesc i unit with
  | none => none
  | some d =>
    let b := d.bodies.getD rung 0xFFFFFFFF
    if b < i.bodies.length then some b else none

/-- Records of a tick record. -/
def recordRecs (i : Img) (tr : TickRec) : List OpRec :=
  [Strm.f, .b, .w].flatMap fun st => match firstRec tr st with
    | some k => (recsFrom (recsOf i st) (numRec tr st) k).map (·.2)
    | none => []

/-- The main tick that holds a unit's LADDER_END. -/
def ladderTick (i : Img) (d : UnitDesc) : Option Nat :=
  (List.range i.main.length).find? fun k => d.mainFirst ≤ k && match i.main[k]? with
    | some tr => (recordRecs i tr).any fun r => r.opc = 4 && r.unit = d.unit
    | none => false

/-- The main tick after a unit's decision window, or the end of the main program (R180). -/
def windowEnd (i : Img) (d : UnitDesc) : Option Nat :=
  (ladderTick i d).map fun k => min (k + kd i (ncomb i d.unit)) i.main.length

/-- Is a main tick skipped: every record belongs to a held unit, or it has none and lies in a held unit's window (R182)? -/
def skips (s : State) (i : Img) (k : Nat) : Bool :=
  match i.main[k]? with
  | none => false
  | some tr =>
    let rs := recordRecs i tr
    if rs.isEmpty then i.units.any fun d => unitHeld s i d.unit && match ladderTick i d, windowEnd i d with
      | some a, some b => a ≤ k && k < b
      | _, _ => false
    else rs.all fun r => unitHeld s i r.unit

/-- The main program reaches tick `k`: the detours of held units whose window ends there fall due (R182). -/
def passTo (i : Img) (k : Nat) (s : State) : State :=
  let due := i.units.filterMap fun d =>
    if unitHeld s i d.unit && windowEnd i d = some k then detourOf i d.unit (unitSt s d.unit).rung else none
  { s with asq := { s.asq with mainPos := k, detQ := s.asq.detQ ++ due } }

/-- The position after the tick that ends; a stall tick leaves it. -/
def nextPos (i : Img) (s : State) : State :=
  if s.asq.stall then s
  else match s.asq.det with
    | some (b, o) => match i.bodies[b]? with
      | some x => { s with asq := { s.asq with det := if o + 1 < x.count then some (b, o + 1) else none } }
      | none => { s with asq := { s.asq with det := none } }
    | none => if s.asq.mainPos < i.main.length then passTo i (s.asq.mainPos + 1) s else s

/-- Waiting detours run first, then the main program goes on past the ticks it skips. -/
def settle (i : Img) : Nat → State → State
  | 0, s => s
  | n + 1, s =>
    if s.asq.det.isSome then s
    else match s.asq.detQ with
      | b :: rest =>
        let empty : Bool := match i.bodies[b]? with | some x => x.count == 0 | none => true
        settle i n { s with asq := { s.asq with detQ := rest, det := if empty then none else some (b, 0) } }
      | [] =>
        if skips s i s.asq.mainPos then
          settle i n (passTo i (s.asq.mainPos + 1) (bump .asq 0x088 { s with asq := { s.asq with skipSteps := s.asq.skipSteps + 1 } }))
        else s

/-- Has the main program run out, with no detour, decision or stall left? -/
def atEnd (s : State) (i : Img) : Bool :=
  i.main.length ≤ s.asq.mainPos && s.asq.det.isNone && s.asq.detQ.isEmpty && s.asq.units.all fun e => e.2.due.isNone

/-- Enough rounds for `settle`. -/
def settleAll (i : Img) (s : State) : State := settle i (2 * i.main.length + s.asq.detQ.length + i.units.length + 2) s

end Sys2Proof.Machine
end

