-- ==== Sys2Proof/Machine/TileOps.lean ====
section
/-! DEFINITION. What tile operations share: element addresses in the two layouts (02 R42 to R46), element reads and
writes under the gallery window (R38, R41), scales (03 R75 to R77, 07 R204), conversions with their overflow causes and
estimates (03 R93 to R96, 04 R102, R115), shadows (04 R110), and starting and completing an operation (02 R68). -/

namespace Sys2Proof.Machine

/-! Addresses. A half-byte address is 2 × byte address, plus 1 for the upper half. -/

/-- Line-columns of a skewed matrix, padded to a multiple of 4 (R44). -/
def clp (fmt cols : Nat) : Nat := ((cols + lineCols fmt - 1) / lineCols fmt + 3) / 4 * 4

/-- Line of line coordinates (r, c) of a skewed matrix (R44). -/
def skewLine (p half skew clp r c : Nat) : Nat := 8 * (p + (r * clp + c) / 4) + 4 * half + (r + c + skew) % 4

/-- Element (i, j) of a skewed matrix. -/
def skewKey (p half skew fmt cols i j : Nat) : Nat :=
  2 * (64 * skewLine p half skew (clp fmt cols) (i / 8) (j / lineCols fmt) + 8 * (i % 8)) + j % lineCols fmt * sramBits fmt / 4

/-- Element number `k` of a linear tensor from line `l`. -/
def linKey (l fmt k : Nat) : Nat := 128 * l + k * sramBits fmt / 4

/-- Element (i, j) of an operand as it is stored (R44, R46, 07 R205). -/
def elemKey (r : OpRec) (g : Gal) (o : Operand) (i j : Nat) : Nat :=
  if o.lay then skewKey (absRow r g o.addr) o.half o.skew o.fmt o.cols i j else linKey (absLine r g o.addr) o.fmt (i * o.cols + j)

/-- The lines of bits [a, b) of a linear tensor from line `l`. -/
def spanLines (l a b : Nat) : List Nat := (List.range ((b + 511) / 512 - a / 512)).map (· + (l + a / 512))

/-- The lines that hold `n` rows from `i0` and `m` columns from `j0` of an operand as it is stored, whole lines (R45). -/
def rangeLines (r : OpRec) (g : Gal) (o : Operand) (i0 n j0 m : Nat) : List Nat :=
  if n = 0 || m = 0 then []
  else if o.lay then
    let w := lineCols o.fmt
    ((List.range ((i0 + n + 7) / 8 - i0 / 8)).map fun a => (List.range ((j0 + m + w - 1) / w - j0 / w)).map fun b =>
      skewLine (absRow r g o.addr) o.half o.skew (clp o.fmt o.cols) (i0 / 8 + a) (j0 / w + b)).flatten
  else
    let l := absLine r g o.addr
    let z := sramBits o.fmt
    if j0 = 0 && m = o.cols then spanLines l (i0 * o.cols * z) ((i0 + n) * o.cols * z)
    else (((List.range n).map fun a => spanLines l (((i0 + a) * o.cols + j0) * z) (((i0 + a) * o.cols + j0 + m) * z)).flatten).dedup

/-- The lines of an operand's elements. -/
def operandLines (r : OpRec) (g : Gal) (o : Operand) : List Nat := rangeLines r g o 0 o.rows 0 o.cols

/-- The lines of an operand's first `e` elements, row by row. -/
def firstLines (r : OpRec) (g : Gal) (o : Operand) (e : Nat) : List Nat :=
  let n := e / max 1 o.cols
  if !o.lay then spanLines (absLine r g o.addr) 0 (e * sramBits o.fmt)
  else (rangeLines r g o 0 n 0 o.cols ++ rangeLines r g o n 1 0 (e % max 1 o.cols)).dedup

/-- The lines of rows and columns of an operand as an operation sees it, transposed when TRN says so (R52). -/
def viewLines (r : OpRec) (g : Gal) (o : Operand) (i0 n j0 m : Nat) : List Nat :=
  if o.turned then rangeLines r g o j0 m i0 n else rangeLines r g o i0 n j0 m

/-- Line `k` of an operand in storage order. -/
def operandLine (r : OpRec) (g : Gal) (o : Operand) (k : Nat) : Nat :=
  if o.lay then let cl := max 1 (clp o.fmt o.cols); skewLine (absRow r g o.addr) o.half o.skew cl (k / cl) (k % cl)
  else absLine r g o.addr + k

/-! Reads and writes of codes. -/

/-- A code at a half-byte address; a line outside the window is not read (R38). -/
def readCode (t : Tile) (g : Gal) (fmt key : Nat) : Nat :=
  if !inWindow g (key / 128) then 0
  else match sramBits fmt with
    | 4 => (leNat (sramRead t (key / 2) 1)) / 16 ^ (key % 2) % 16
    | b => let v := leNat (sramRead t (key / 2) (b / 8)); if fmtBits fmt = 6 then v % 64 else v

def readElem (t : Tile) (r : OpRec) (g : Gal) (o : Operand) (i j : Nat) : Nat := readCode t g o.fmt (elemKey r g o i j)

/-- A word of a line. -/
def readWord (t : Tile) (g : Gal) (line k : Nat) : W32 :=
  if inWindow g ((64 * line + 4 * k) / 64) then w32 (leNat (sramRead t (64 * line + 4 * k) 4)) else 0

/-- Write a code. -/
def writeCode (key fmt c : Nat) (t : Tile) : Tile :=
  match sramBits fmt with
  | 4 =>
    let t := clearPoison (key / 2) 1 t
    let old := (mget 0 t.sram (key / 2)).toNat
    let v := if key % 2 = 0 then old / 16 * 16 + c % 16 else old % 16 + 16 * (c % 16)
    { t with sram := mput 0 (key / 2) (BitVec.ofNat 8 v) t.sram }
  | b => sramPut (key / 2) (natLE (b / 8) c) t

/-! Scales. -/

def one32 : W32 := 0x3F800000

/-- Block size of an SCL code (07 Table 7.2). -/
def blkSize (scl : Nat) : Nat := match scl with | 3 => 16 | 4 => 32 | 5 => 64 | 6 => 128 | _ => 1
def isBlk (o : Operand) : Bool := 3 ≤ o.scl && o.scl ≤ 6

/-- Scale s and multiplier r of channel `c` of `n` (07 R204, R550). -/
def scaleAt (t : Tile) (r : OpRec) (g : Gal) (o : Operand) (n c : Nat) : W32 × W32 :=
  let l := absLine r g o.sref
  match o.scl with
  | 1 => (readWord t g l 0, readWord t g l 1)
  | 2 =>
    let l := if o.est then l + 1 else l
    (readWord t g l c, readWord t g (l + (4 * n + 63) / 64) c)
  | _ => (one32, one32)

/-- E8M0 exponent of row `i`, element `k` along the blocks, of a block-scaled operand with `kn` elements along them
(R48, R53, R77). -/
def expAt (t : Tile) (r : OpRec) (g : Gal) (o : Operand) (kn i k : Nat) : Nat :=
  if isBlk o then
    let b := blkSize o.scl
    readCode t g 8 (skewKey (absRow r g o.sref) o.shalf o.sskew 8 ((kn + b - 1) / b) i (k / b))
  else 127

/-- The lines of the scales an operand is read with: a pair, a vector of `n` channels, or the exponents of rows
`[i0, i0 + q)` and elements `[k0, k0 + m)` of `kn` along the blocks (R53, 07 R204). -/
def scaleLines (r : OpRec) (g : Gal) (o : Operand) (n kn i0 q k0 m : Nat) : List Nat :=
  let l := absLine r g o.sref
  if o.scl = 1 then [l]
  else if o.scl = 2 then (List.range ((4 * n + 63) / 64)).map (· + (if o.est then l + 1 else l))
  else if isBlk o then
    let b := blkSize o.scl
    rangeLines r g { o with fmt := 8, lay := true, half := o.shalf, skew := o.sskew, addr := o.sref, cols := (kn + b - 1) / b }
      i0 q (k0 / b) ((k0 + m + b - 1) / b - k0 / b)
  else []

/-- The lines of the multipliers a destination is written with (R54, 07 R204). -/
def mulLines (r : OpRec) (g : Gal) (o : Operand) : List Nat :=
  let l := absLine r g o.sref
  let z := (4 * o.rows + 63) / 64
  if o.scl = 1 then [l] else if o.scl = 2 then (List.range z).map (· + ((if o.est then l + 1 else l) + z)) else []

/-- Scale record of an estimated operand: the one whose line it names (R204). A record's line counts from the gallery's window
(R550), and the operand's too where GREL says so (R205). -/
def recOf (i : Img) (r : OpRec) (g : Gal) (o : Operand) : Option Nat :=
  if o.est then (i.scales.zipIdx.find? fun x => g.wlo + x.1.sref = absLine r g o.sref).map (·.2) else none

/-! Conversions. -/

/-- Overflow causes of a unit (17 Table 17.15): 0 quantization, 1 accumulator, 2 lane, 3 hard Owl, 4 perturbation. -/
def causeQuant : Nat := 1
def causeAcc : Nat := 2
def causeLane : Nat := 4
def causeOwl : Nat := 8
def causePrt : Nat := 16
/-- Cause of a block-scaled code beyond the FP32 range: Table 4.1 sets the flag, R96 calls it a numeric saturation and no
quantization overflow, and the cause byte has no bit of its own for it; it counts as a lane saturation (DESIGN CHOICE). -/
def causeNum : Nat := causeLane

/-- BF16 shadow of a value (04 Table 4.3). -/
def bf16Of (v : FVal) : Nat := (encF bf16 .rne v).1

/-- Shadow of a written element, for a record that names a consumer (R110). -/
def shadowWr (r : OpRec) (key : Nat) (v : FVal) : List Wr :=
  if r.sosid = 0xFFFF then [] else [.shadow key r.sosid (bf16Of v)]

/-- Convert an FP32 value with a multiplier and write it (R93 step 4, R94, R95): code, shadow, overflow, estimate. -/
def convWr (i : Img) (r : OpRec) (g : Gal) (o : Operand) (key : Nat) (mode : Rnd) (v mul : W32) (chan block : Nat) : List Wr :=
  let c := encCode o.fmt mode (if mul = one32 then dec32 v else mulV (dec32 v) (dec32 mul))
  let est := match recOf i r g o with
    | some k => (if isFin (dec32 v) then [Wr.amax (65536 * k + chan) (abs32 v)] else []) ++ (if c.2 then [Wr.recSat k] else [])
    | none => []
  [Wr.code key o.fmt c.1] ++ shadowWr r key (dec32 v) ++ (if c.2 then [Wr.ovf r.unit causeQuant block] else []) ++ est

/-- Zeros of the padding of a skewed matrix (R45). -/
def padWr (r : OpRec) (g : Gal) (o : Operand) : List Wr :=
  if !o.lay then []
  else
    let rn := (o.rows + 7) / 8 * 8
    let cn := clp o.fmt o.cols * lineCols o.fmt
    ((List.range rn).map fun i => (List.range cn).filterMap fun j =>
      if o.rows ≤ i || o.cols ≤ j then some (Wr.code (elemKey r g o i j) o.fmt 0) else none).flatten

/-! Running an operation. -/

/-- Set a unit's overflow flag on a tile: its causes, and its first trigger in logical order (04 R102, R120). -/
def setOvf (u c k block : Nat) (t : Tile) : Tile :=
  let first := match mfind t.trig u with
    | some (k0, b0) => if k < k0 || (k = k0 && block < b0) then (k, block) else (k0, b0)
    | none => (k, block)
  { t with ovf := mput 0 u (mget 0 t.ovf u ||| c) t.ovf, trig := minsert u first t.trig }

/-- Apply one result of the operation with record index `k` (R68). -/
def applyWr (k : Nat) (w : Wr) (t : Tile) : Tile :=
  match w with
  | .sram a bs => sramWrite a bs t
  | .code key fmt c => writeCode key fmt c { t with shadow := t.shadow.filter fun e => e.1 ≠ key }
  | .shadow key osid bf => { t with shadow := minsert key (osid, bf) t.shadow }
  | .acc key v => { t with acc := mput 0 key v t.acc }
  | .accSat key b => { t with accSat := mput false key b t.accSat }
  | .thin j v => { t with thin := mput 0 j v t.thin }
  | .thinSat b => { t with thinSat := b }
  | .vreg j b => { t with vreg := mput 0 j b t.vreg }
  | .vfmt f sc x sh => { t with vfmt := f, vscale := sc, vexp := x, vsh := sh }
  | .vuAll v m x => { t with vu := v, vmask := m, vsat := x }
  | .xa l x => { t with xa := mput XaLane.blank l x t.xa }
  | .ovf u c b => setOvf u c k b t
  | .amax j v => if (mget 0 t.amax j).toNat < v.toNat then { t with amax := mput 0 j v t.amax } else t
  | .recSat j => { t with recSat := addNew j t.recSat }
  | .owl o => { t with owl := some o }
  | .owlSkip _ => t

/-- Is a write inside the gallery's window, as each access is checked (R38)? -/
def wrInWindow (g : Gal) : Wr → Bool
  | .sram a bs => (linesOf a bs.length).all (inWindow g)
  | .code key _ _ => inWindow g (key / 128)
  | .shadow key _ _ => inWindow g (key / 128)
  | _ => true

/-- Lines that results write: one bank access each (06 Table 6.3). -/
def wrLines (wr : List Wr) : List Nat :=
  (wr.flatMap fun w => match w with | .sram a bs => linesOf a bs.length | .code key _ _ => [key / 128] | _ => []).dedup

/-- Cycles of one step by the wider operand (02 Table 2.4), and its tokens per cube and cycle (06 Table 6.3). -/
def stepCycles (fa fb : Nat) : Nat := match max (sramBits fa) (sramBits fb) with | 32 => 16 | 16 => 4 | _ => 1
def stepTokens (fa fb : Nat) : Nat :=
  match max (sramBits fa) (sramBits fb) with | 32 => 10 | 16 => 12 | 4 => 16 | _ => 15

/-- Lines a quad step reads, each operand's by its own width (02 Table 2.4). -/
def stepLines (fa fb : Nat) : Nat :=
  if sramBits fa = 4 && sramBits fb = 4 then 3 else sramBits fa / 4 + sramBits fb / 4

/-- Tokens of a cycle in which an operation works at its full rate, its bank accesses included (06 Table 6.3). -/
def opRate (r : OpRec) : Nat :=
  match r.opc with
  | 0x10 => 4 * stepTokens r.o0.fmt r.o1.fmt + 2 * (stepLines r.o0.fmt r.o1.fmt / stepCycles r.o0.fmt r.o1.fmt)
  | 0x11 => 20
  | 0x12 => 6 | 0x13 => 6 | 0x25 => 6
  | 0x21 => 10 | 0x22 => 10 | 0x23 => 10 | 0x24 => 8
  | 0x20 => 8
  | 0x28 => 16
  | _ => 0

/-- Start an operation on a tile: its results wait for its completion; an access outside the window is not performed
and is contract fault 6, a read of a poisoned line contract fault 7 (R38, R41). -/
def startOp (u v : Nat) (st : Strm) (k : Nat) (r : OpRec) (left tok : Nat) (reads : List Nat) (wr : List Wr) (s : State) : State :=
  match s.image with
  | none => s
  | some i =>
    let g := (galleryOf i u v).2
    let t := tile s u v
    let badRead := reads.any fun l => !inWindow g l
    let badWrite := wr.any fun w => !wrInWindow g w
    let poison := reads.any fun l => inWindow g l && linePoisoned t l
    let op : Op := ⟨st, k, r.opc, r.unit, r.bytes, wr.filter (wrInWindow g), left, [], opRate r⟩
    -- operand accesses of a MATMUL are counted by its steps
    let reads2 := if r.opc = 0x10 then 0 else 2 * reads.length
    let t := { t with ops := t.ops ++ [op], tok := t.tok + tok + reads2, poisonRd := t.poisonRd || poison }
    let s := setTile u v (tokEvent s.now 0 t) s
    -- an operation reads its operands before it writes its results
    let s := if badRead then contractFault 6 u v k s else s
    let s := if poison then contractFault 7 u v k s else s
    if badWrite then contractFault 6 u v k s else s

/-- Counters that a completed result causes beside its tile (04 R109). -/
def wrEvents (w : Wr) (s : State) : State :=
  match w with
  | .owl _ => bump .owl 0x048 s
  | .owlSkip n => bump .owl 0x058 s n
  | _ => s

/-- The SR word of an accumulator add or a DRAIN (12 Table 12.3). -/
def keyNow (s : State) : Key := mkKey s.keySeed s.keyJob

end Sys2Proof.Machine
end

