-- ==== Sys2Proof/Machine/Heavy.lean ====
section
/-! DEFINITION. The heavy operations MATMUL, MATVEC, XDOT and XREAD, with XCLR and VLOAD (02 R49 to R67, 03 R79 to R96). -/

namespace Sys2Proof.Machine

/-- Is the SR mode in force for the accumulator adds of a record (03 R90)? -/
def srAcc (st : Strm) (r : OpRec) : Bool := r.sra || st = .w

/-- A value multiplied by an FP32 scale with one rounding, saturating (R93 steps 2 and 3): the word, and an overflow. -/
def scaleMul (has : Bool) (v sc : W32) : W32 × Bool :=
  if has then enc32 .rne (mulV (dec32 v) (dec32 sc)) else (v, false)

/-- DRAIN of MATMUL and MATVEC (07 Table 7.3). -/
def bit2 (r : OpRec) : Bool := (r.p8 52).testBit 2

/-- What one heavy operation needs of its tile and record. -/
structure HCtx where
  i : Img
  r : OpRec
  st : Strm
  gn : Nat
  g : Gal
  t : Tile
  key : Key
  step : Nat
  org : Int × Int
  deriving Repr, Inhabited

def hctx (s : State) (u v : Nat) (st : Strm) (i : Img) (r : OpRec) (otens : Nat) : HCtx :=
  let g := galleryOf i u v
  ⟨i, r, st, if i.gals.length ≤ 1 then 0 else g.1, g.2, tile s u v, keyNow s, arrStep s, origin i otens u v⟩

/-- ELEM of output element (i, j) of a record (12 Table 12.3, 07 R205). -/
def HCtx.elem (c : HCtx) (i j : Nat) : Nat :=
  elemOf c.gn (c.org.1 + i).toNat (c.org.2 + j).toNat

/-- Rounding mode of the add of global k-block `kb` into element (i, j), and of its drain. -/
def HCtx.addMode (c : HCtx) (kb i j : Nat) : Rnd :=
  if srAcc c.st c.r then .sr (draw c.key c.r.gsid c.step (c.elem i j) kb) else .rne
def HCtx.drainMode (c : HCtx) (i j : Nat) : Rnd :=
  if c.r.sro then .sr (draw c.key c.r.gsid c.step (c.elem i j) 0xFFFE) else .rne

/-! The operand views: element (m, k) of A and (k, n) of B, transposed when TRN says so (R52). R52 speaks of cube operand ports;
the weights of a MATVEC and the sources of an XDOT are seen the same way (DESIGN CHOICE). -/

def rowsOf (o : Operand) : Nat := if o.turned then o.cols else o.rows
def colsOf (o : Operand) : Nat := if o.turned then o.rows else o.cols
def viewElem (c : HCtx) (o : Operand) (i j : Nat) : Nat :=
  if o.turned then readElem c.t c.r c.g o j i else readElem c.t c.r c.g o i j

/-- The step sum of k-block `kb` (8 products) with its block exponents (R80, R81). Whole lines are covered: an element at or beyond
KLEN counts as it stands, as zero in the padding (02 R45); `klen` is 8 × the number of k-blocks then. -/
def blockSum (fa fb : Nat) (klen kb ea eb : Nat) (a b : Nat → Nat) : FVal :=
  let ps := (List.range 8).map fun x =>
    let k := 8 * kb + x
    if k < klen then mulV (decCode fa (a k)) (decCode fb (b k)) else .fin false 0 0
  if ea = 0xFF || eb = 0xFF then .nan else scale2 (stepSum ps) ((ea : Int) + eb - 254)

/-- The elements along k that the steps of KLEN cover: whole lines of a skewed operand (R45). -/
def wholeK (lay : Bool) (klen : Nat) : Nat := if lay then (klen + 7) / 8 * 8 else klen

/-- Every step of one output element, in increasing k: the word and its saturation (R83 to R87). -/
def runSteps (int : Bool) (n : Nat) (mode : Nat → Rnd) (sum : Nat → FVal) (init : W32) : W32 × Bool :=
  (List.range n).foldl (fun a kb =>
    let x := if int then accAddI a.1 (sum kb) else accAdd (mode kb) a.1 (sum kb)
    (x.1, a.2 || x.2)) (init, false)

/-! Owl samples (04 R108 to R112). -/

/-- log2 of ε by format (04 Table 4.4). -/
def epsOf (f : Nat) : Int :=
  match f with | 0 => -23 | 1 => -7 | 2 => -10 | 3 => -3 | 4 => -2 | 5 => -2 | 6 => -3 | 7 => -1 | 8 => -7 | _ => -3

/-- Value of an operand's code with its scale (03 R75): channel `ch` of `n`, element `k` of `kn` along the blocks. -/
def valueOf (c : HCtx) (o : Operand) (n ch kn k code : Nat) : FVal :=
  if isBlk o then blockVal o.fmt code (expAt c.t c.r c.g o kn ch k)
  else if o.scl = 1 || o.scl = 2 then mulV (decCode o.fmt code) (dec32 (scaleAt c.t c.r c.g o n ch).1)
  else decCode o.fmt code

/-- The Owl's shadow of element (i, j) of an operand: of its value with its scale for FP32, BF16 and FP16, held in the shadow ring
otherwise (04 Table 4.3). An FP16 or BF16 element that was converted on the wafer falls under two rows of that table: here the rows of its
format win, so it needs no shadow of the ring (DESIGN CHOICE). -/
def shadowOf (c : HCtx) (o : Operand) (n ch kn k i j : Nat) : Option FVal :=
  let ij := if o.turned then (j, i) else (i, j)
  let key := elemKey c.r c.g o ij.1 ij.2
  if o.fmt ≤ 2 then some (decF bf16 (bf16Of (valueOf c o n ch kn k (viewElem c o i j))))
  else match mfind c.t.shadow key with
    | some (id, b) => if id = c.r.osid then some (decF bf16 b) else none
    | none => none

/-- Exact sum of shadow products, in units of 2^−320; none when one is missing or not finite. -/
def shadowSum (ps : List (Option FVal × Option FVal)) : Option Int :=
  ps.foldl (fun acc p =>
    match acc, p with
    | some n, (some x, some y) => match mulV x y with
      | .fin ng m e => some (n + toInt ng (m <<< (e + 320).toNat))
      | _ => none
    | _, _ => none) (some 0)

/-- Is an output block selected (R108)? -/
def sampled (c : HCtx) (elem : Nat) : Bool :=
  c.r.owl && c.i.owlS ≠ 0 && (draw c.key c.r.osid c.step elem 0xFFFF).toNat % 2 ^ c.i.owlS = 0

/-- A sample carries the index of the record that took it (04 R111). -/
def owlAt (k : Nat) : Wr → Wr
  | .owl o => .owl { o with opIdx := k }
  | w => w

/-! MATMUL. -/

/-- Saturation forced on a unit's DRAIN (16 R469 PRT_SAT). -/
def forcedSat (s : State) (unit : Nat) : Bool := prtUnit s 0x064 unit

/-- The results of a MATMUL (R49 to R57, R93). INIT 3, which 07 Table 7.3 does not list, acts as ZERO (DESIGN CHOICE). A DRAIN whose output
names block scales, which R93 says it does not produce, converts with multiplier 1.0 and writes no exponents (DESIGN CHOICE). -/
def matmulWr (c : HCtx) (forced : Bool) : List Wr :=
  let r := c.r
  let a := r.o0
  let b := r.o1
  let o := r.o2
  let four := sramBits a.fmt = 4 && sramBits b.fmt = 4
  let w := if four then 16 else 8
  let M := rowsOf a
  let N := colsOf b
  let klen := r.p16 58
  let akoff := r.p16 54
  let bkoff := r.p16 56
  let kg0 := r.p16 60
  let init := r.p8 52 % 4
  let drain := bit2 r
  let base := r.p8 53 % 32
  let nq := (N + 2 * w - 1) / (2 * w)
  let KB := (klen + 7) / 8
  let int := a.fmt = 8
  let mbs := (M + 7) / 8
  let nbs := (N + w - 1) / w
  let slotOf (mb nb : Nat) : Nat := base + mb / 2 * nq + nb / 2
  let cubeOf (mb nb : Nat) : Nat := mb % 2 + 2 * (nb % 2)
  let wordKey (i j : Nat) : Nat := 2048 * cubeOf (i / 8) (j / w) + slotOf (i / 8) (j / w) * 8 * w + i % 8 * w + j % w
  let satKey (mb nb : Nat) : Nat := 32 * cubeOf mb nb + slotOf mb nb
  let ka := colsOf a
  let kb' := rowsOf b
  let initOf (i j : Nat) : W32 :=
    if init = 1 then w32 (readCode c.t c.g 0 (elemKey r c.g { o with fmt := 0 } i j))
    else if init = 2 then mget 0 c.t.acc (wordKey i j) else 0
  let final (i j : Nat) : W32 × Bool :=
    runSteps int KB (fun kb => c.addMode (kg0 + kb) i j) (fun kb =>
      let ea := expAt c.t r c.g a ka i (akoff + 8 * kb)
      let eb := expAt c.t r c.g b kb' j (bkoff + 8 * kb)
      blockSum a.fmt b.fmt (wholeK (a.lay && b.lay) klen) kb ea eb (fun k => viewElem c a i (akoff + k)) (fun k => viewElem c b (bkoff + k) j)) (initOf i j)
  -- steps 1 to 3 of R93: the FP32 value of a slot's word, and a scale overflow
  let scaled (i j : Nat) (x : W32) : W32 × Bool :=
    let v := if int then i2f x else x
    let p := scaleMul (a.scl = 1 || a.scl = 2) v (scaleAt c.t r c.g a M i).1
    let q := scaleMul (b.scl = 1 || b.scl = 2) p.1 (scaleAt c.t r c.g b N j).1
    (q.1, p.2 || q.2)
  let blocks := ((List.range mbs).map fun mb => (List.range nbs).map fun nb => (mb, nb)).flatten
  -- element index of an output block (04 R108)
  let blockOf (bk : Nat × Nat) : Nat :=
    elemOf c.gn ((c.org.1 + 8 * bk.1).toNat / 8) ((c.org.2 + w * bk.2).toNat / w)
  let elems (bk : Nat × Nat) : List (Nat × Nat) :=
    ((List.range 8).map fun x => (List.range w).map fun y => (8 * bk.1 + x, w * bk.2 + y)).flatten
  -- the accumulators
  let accs : List (Wr × Bool × Nat × Nat) := (blocks.map fun bk => (elems bk).map fun e =>
    let f := final e.1 e.2
    (Wr.acc (wordKey e.1 e.2) f.1, f.2, bk.1, bk.2)).flatten
  let satOf (bk : Nat × Nat) : Bool :=
    (init = 2 && mget false c.t.accSat (satKey bk.1 bk.2)) || accs.any fun x => x.2.1 && x.2.2 = bk
  let sats := blocks.map fun bk => (bk, satOf bk)
  -- the drain
  let drains : List Wr :=
    if !drain then []
    else
      ((blocks.map fun bk => ((elems bk).filter fun e => e.1 < M && e.2 < N).map fun e =>
        let v := scaled e.1 e.2 (final e.1 e.2).1
        (if v.2 then [Wr.ovf r.unit causeQuant (blockOf bk)] else []) ++
          convWr c.i r c.g o (elemKey r c.g o e.1 e.2) (c.drainMode e.1 e.2) v.1
            (if o.scl = 1 || o.scl = 2 then (scaleAt c.t r c.g o o.rows e.1).2 else one32) (if o.scl = 2 then e.1 else 0)
            (blockOf bk)).flatten).flatten
      ++ padWr r c.g o
      ++ (if forced then [Wr.ovf r.unit (causeAcc + causePrt) (blockOf (0, 0))] else [])
      ++ ((sats.filter (·.2)).map fun x => Wr.ovf r.unit causeAcc (blockOf x.1))
  -- the Owl's sample
  let sel := (blocks.map fun bk => (bk, blockOf bk)).filter fun x => sampled c x.2
  let owls : List Wr :=
    match sel.argmin (fun x => x.2) with
    | none => []
    | some x =>
      if c.t.owl.isSome || klen > (if four then 480 else 736) then [Wr.owlSkip sel.length]
      else
        let es := (elems x.1).filter fun e => e.1 < M && e.2 < N
        let P := es.map fun e => (scaled e.1 e.2 (final e.1 e.2).1).1
        let X := es.map fun e =>
          let sh := shadowSum ((List.range klen).map fun k =>
            (shadowOf c a M e.1 ka (akoff + k) e.1 (akoff + k), shadowOf c b N e.2 kb' (bkoff + k) (bkoff + k) e.2))
          match sh, dec32 (scaled e.1 e.2 (initOf e.1 e.2)).1 with
          | some n, .fin ng m ex => some (enc32 .rne (addV (.fin (n < 0) n.natAbs (-320)) (.fin ng m ex))).1
          | _, _ => none
        let ref := if X.all (·.isSome) then some (X.map fun x => x.getD 0) else none
        [Wr.owl ⟨r.unit, x.2, 0, klen, max (epsOf a.fmt) (epsOf b.fmt), P, ref, if four then 128 else 64, 0⟩, Wr.owlSkip (sel.length - 1)]
  -- only ZERO and LOAD clear a slot's saturation bit, not the drain (R56)
  (accs.map (·.1)) ++ (sats.map fun x => Wr.accSat (satKey x.1.1 x.1.2) x.2) ++ drains ++ owls

/-- Lines of a per-tensor pair or of a vector of `n` channels (07 R204). -/
def chanLines (scl n : Nat) : Nat := match scl with | 1 => 1 | 2 => (4 * n + 63) / 64 | _ => 0

/-- Tokens of a MATMUL (06 Table 6.3): its steps and their line reads, the exponent lines of a chunk (R53), the cycles of
LOAD and DRAIN (Table 2.8), the lines a LOAD reads and those of the scales and multipliers that a DRAIN reads. -/
def matmulTokens (r : OpRec) : Nat :=
  let a := r.o0
  let b := r.o1
  let four := sramBits a.fmt = 4 && sramBits b.fmt = 4
  let m := rowsOf a
  let n := colsOf b
  let quads := (m + 15) / 16 * ((n + (if four then 31 else 15)) / (if four then 32 else 16))
  let kb := (r.p16 58 + 7) / 8
  let h := if a.half = b.half && stepCycles a.fmt b.fmt = 1 then 2 else 1
  quads * kb * (stepCycles a.fmt b.fmt * h * 4 * stepTokens a.fmt b.fmt + 2 * stepLines a.fmt b.fmt)
    + 2 * (quads * ((kb + 7) / 8) * 2 * ((isBlk a).toNat + (isBlk b).toNat))
    + (if r.p8 52 % 4 = 1 then 4 * ((m * n + 63) / 64 + 6) + 2 * ((m + 7) / 8 * ((n + 1) / 2)) else 0)
    + (if bit2 r then 4 * ((m * n * sramBits r.o2.fmt + 2047) / 2048 + 6)
        + 2 * (chanLines a.scl m + chanLines b.scl n + chanLines r.o2.scl r.o2.rows) else 0)

/-- Lines of the scales of rows [0, n) and columns [0, m) of a tensor read as it is stored. -/
def storedScales (r : OpRec) (g : Gal) (o : Operand) (n m : Nat) : List Nat :=
  if isBlk o && o.trn then scaleLines r g o o.cols o.rows 0 m 0 n else scaleLines r g o o.rows o.cols 0 n 0 m

/-- Lines of whole sources, and of the scales they name. -/
def readLines (r : OpRec) (g : Gal) (os : List Operand) : List Nat :=
  (os.map fun o => operandLines r g o ++ storedScales r g o o.rows o.cols).flatten

/-- Lines of the first `e` elements of sources, and of the scales they name. -/
def firstReads (r : OpRec) (g : Gal) (os : List Operand) (e : Nat) : List Nat :=
  (os.map fun o => firstLines r g o e ++
    storedScales r g o (min o.rows (e / max 1 o.cols + 1)) (min e o.cols)).flatten

/-- Lines of the multipliers with which a VU op writes its stored tensors (R54, 07 R204), and of the one a CVT takes. -/
def mulReads (r : OpRec) (g : Gal) (os : List Operand) (cvt : Bool) : List Nat :=
  (os.flatMap (mulLines r g) ++ (if cvt && r.o2.scl = 1 then mulLines r g r.o2 else [])).dedup

/-- Lines a MATMUL reads: the blocks of A and B that its steps name with their scales (R49, R53), the initial values of a
LOAD, and the multipliers of its drain (R54). -/
def matmulReads (r : OpRec) (g : Gal) : List Nat :=
  let a := r.o0
  let b := r.o1
  let m := rowsOf a
  let n := colsOf b
  let z := r.p16 58
  viewLines r g a 0 m (r.p16 54) z ++ scaleLines r g a m (colsOf a) 0 m (r.p16 54) z ++
    viewLines r g b (r.p16 56) z 0 n ++ scaleLines r g b n (rowsOf b) 0 n (r.p16 56) z ++
    (if r.p8 52 % 4 = 1 then rangeLines r g { r.o2 with fmt := 0 } 0 m 0 n else []) ++
    (if bit2 r then mulLines r g r.o2 else [])

/-- Lines a MATVEC reads: the columns of Wt that it names, their scales, the multipliers of its drain (R58). Of more than 256 rows,
which R58 does not allow and no load check refuses, the first 256 are computed (DESIGN CHOICE). -/
def matvecReads (r : OpRec) (g : Gal) : List Nat :=
  let a := r.o0
  let m := min (rowsOf a) 256
  viewLines r g a 0 m (r.p16 54) (r.p16 58) ++ scaleLines r g a (rowsOf a) (colsOf a) 0 m (r.p16 54) (r.p16 58) ++
    (if bit2 r then mulLines r g r.o2 else [])

/-- Lines a VLOAD reads: K elements of row 0 from KOFF, and their scales (R59). -/
def vloadReads (r : OpRec) (g : Gal) : List Nat :=
  let o := r.o0
  let n := min (r.p16 56) (32768 / max 4 (sramBits o.fmt))
  rangeLines r g o 0 1 (r.p16 54) n ++ scaleLines r g o 1 o.cols 0 1 (r.p16 54) n

/-- Lines an XDOT reads: row 0 of the row source and the columns of the column source, with block exponents (R65). -/
def xdotReads (r : OpRec) (g : Gal) : List Nat :=
  let kn := r.p32 56
  let q := min (r.p8 53) 8
  let sc (o : Operand) (n : Nat) : List Nat :=
    if isBlk o then scaleLines r g o n (if o.lay then colsOf o else o.cols) 0 n 0 kn else []
  viewLines r g r.o0 0 1 0 kn ++ sc r.o0 1 ++ viewLines r g r.o1 0 kn 0 q ++ sc r.o1 q

/-- A MATMUL issues. -/
def matmulRec (u v : Nat) (st : Strm) (i : Img) (k : Nat) (r : OpRec) (s : State) : State :=
  let c := hctx s u v st i r (r.p16 62)
  let drain := bit2 r
  let forced := drain && forcedSat s r.unit
  let wr := (matmulWr c forced).map (owlAt k)
  let s := startOp u v st k r 0 (matmulTokens r) (matmulReads r c.g) wr s
  if forced then prtUse 0x064 29 s else s

/-- MATMUL (02 R49). -/
def execMatmul (u v : Nat) (st : Strm) (s : State) : Res := .next (issue u v st 0x10 (matmulRec u v st) s)

/-! MATVEC and the thin path. -/

/-- Element `k` of the vector register and its block exponent. -/
def vecCode (t : Tile) (k : Nat) : Nat :=
  match sramBits t.vfmt with
  | 4 => (mget 0 t.vreg (k / 2)).toNat / 16 ^ (k % 2) % 16
  | b => leNat (mgets 0 t.vreg (k * b / 8) (b / 8))

/-- The shadow of element `k` of the vector register (04 R110): of its value with its scale for the formats that `shadowOf` takes so
(the same DESIGN CHOICE), else as VLOAD found it. -/
def vecShadow (c : HCtx) (k : Nat) : Option FVal :=
  if c.t.vfmt ≤ 2 then
    let v := decCode c.t.vfmt (vecCode c.t k)
    some (decF bf16 (bf16Of (if c.t.vscale = one32 then v else mulV v (dec32 c.t.vscale))))
  else match mfind c.t.vsh k with
    | some (id, b) => if id = c.r.osid then some (decF bf16 b) else none
    | none => none

/-- The results of a MATVEC: y = Wt × x, column KOFF + k of Wt with element k of the register (R58 to R60). The thin path takes
ZERO and KEEP; INIT 1 or 3 acts as ZERO, and its accumulator has one saturation bit for all outputs, which a drain clears (DESIGN
CHOICE: R59 names no other mode, and R56 speaks of slots). -/
def matvecWr (c : HCtx) (forced : Bool) : List Wr :=
  let r := c.r
  let a := r.o0
  let o := r.o2
  let M := min (rowsOf a) 256
  let klen := r.p16 58
  let koff := r.p16 54
  let KB := (klen + 7) / 8
  let keep := r.p8 52 % 4 = 2
  let drain := bit2 r
  -- the logical column is 0, wherever the tensor map puts the output (12 R371)
  let c0 := { c with org := (c.org.1, 0) }
  -- INT32 accumulation is INT8 with INT8 alone (03 R79)
  let int := a.fmt = 8 && c.t.vfmt = 8
  let rows := (M + 7) / 8 * 8
  let blockOf (b : Nat) : Nat := elemOf c.gn ((c.org.1 + 8 * b).toNat / 8) 0
  let final (i : Nat) : W32 × Bool :=
    runSteps int KB (fun kb => c0.addMode (r.p16 60 + kb) i 0) (fun kb =>
      blockSum a.fmt c.t.vfmt (wholeK a.lay klen) kb (expAt c.t r c.g a (colsOf a) i (koff + 8 * kb)) (mget 127 c.t.vexp (8 * kb))
        (fun k => viewElem c a i (koff + k)) (vecCode c.t)) (if keep then mget 0 c.t.thin i else 0)
  let scaled (i : Nat) (x : W32) : W32 × Bool :=
    let v := if int then i2f x else x
    let p := scaleMul (a.scl = 1 || a.scl = 2) v (scaleAt c.t r c.g a M i).1
    let q := scaleMul (c.t.vscale ≠ one32) p.1 c.t.vscale
    (q.1, p.2 || q.2)
  let fin := (List.range rows).map final
  let sat := (keep && c.t.thinSat) || fin.any (·.2)
  let drains : List Wr := if !drain then [] else
    ((List.range M).map fun i =>
      let v := scaled i (final i).1
      (if v.2 then [Wr.ovf r.unit causeQuant (blockOf (i / 8))] else []) ++
        convWr c.i r c.g o (elemKey r c.g o 0 i) (c0.drainMode i 0) v.1
          (if o.scl = 1 || o.scl = 2 then (scaleAt c.t r c.g o o.rows (if o.scl = 2 then i else 0)).2 else one32)
          (if o.scl = 2 then i else 0) (blockOf (i / 8))).flatten
    ++ (if forced then [Wr.ovf r.unit (causeAcc + causePrt) (blockOf 0)] else [])
    ++ (if keep && c.t.thinSat then [Wr.ovf r.unit causeAcc (blockOf 0)] else [])
    ++ ((fin.zipIdx.filter fun x => x.1.2).map fun x => Wr.ovf r.unit causeAcc (blockOf (x.2 / 8)))
  let groups := (List.range ((M + 7) / 8)).map fun b => (b, blockOf b)
  let sel := groups.filter fun x => sampled c x.2
  let owls : List Wr :=
    match sel.argmin (fun x => x.2) with
    | none => []
    | some x =>
      if c.t.owl.isSome || klen > 1344 then [Wr.owlSkip sel.length]
      else
        let es : List Nat := ((List.range 8).map fun y => 8 * x.1 + y).filter fun y => y < M
        let X := es.map fun i =>
          let sh := shadowSum ((List.range klen).map fun k =>
            (shadowOf c a M i (colsOf a) (koff + k) i (koff + k), vecShadow c k))
          match sh, dec32 (scaled i (if keep then mget 0 c.t.thin i else 0)).1 with
          | some n, .fin ng m ex => some (enc32 .rne (addV (.fin (n < 0) n.natAbs (-320)) (.fin ng m ex))).1
          | _, _ => none
        let ref := if X.all (·.isSome) then some (X.map fun x => x.getD 0) else none
        let P := es.map fun i => (scaled i (final i).1).1
        [Wr.owl ⟨r.unit, x.2, 0, klen, max (epsOf a.fmt) (epsOf c.t.vfmt), P, ref, 8, 0⟩, Wr.owlSkip (sel.length - 1)]
  (fin.zipIdx.map fun x => Wr.thin x.2 x.1.1) ++ [Wr.thinSat (!drain && sat)] ++ drains ++ owls

/-- Cycles of a MATVEC (Table 2.9): a group of four lines covers 256 bits of each of 8 rows (R58). -/
def matvecCycles (r : OpRec) : Nat :=
  let t := if sramBits r.o0.fmt = 8 then 1 else 2
  (rowsOf r.o0 + 7) / 8 * ((r.p16 58 * sramBits r.o0.fmt + 255) / 256) * t + 10
    + (if bit2 r then (rowsOf r.o0 * sramBits r.o2.fmt + 2047) / 2048 + 4 else 0)

def matvecRec (u v : Nat) (st : Strm) (i : Img) (k : Nat) (r : OpRec) (s : State) : State :=
  let c := hctx s u v st i r (r.p16 62)
  let forced := bit2 r && forcedSat s r.unit
  let wr := (matvecWr c forced).map (owlAt k)
  let s := startOp u v st k r 0 (12 * matvecCycles r) (matvecReads r c.g) wr s
  if forced then prtUse 0x064 29 s else s

/-- MATVEC (02 R58). -/
def execMatvec (u v : Nat) (st : Strm) (s : State) : Res := .next (issue u v st 0x11 (matvecRec u v st) s)

/-- VLOAD: K elements of the source from element KOFF into the register, with their format, scale, exponents and shadows (R59, 04
R110), and the zeros that fill up its last eight (DESIGN CHOICE; R45 gives a matrix such zeros). The vector is the one column of a B
operand, so a per-channel scale is that of channel 0 (03 R75, R60: DEDUCED). -/
def vloadRec (u v : Nat) (st : Strm) (i : Img) (k : Nat) (r : OpRec) (s : State) : State :=
  let g := (galleryOf i u v).2
  let t := tile s u v
  let o := r.o0
  let n := min (r.p16 56) (32768 / max 4 (sramBits o.fmt))
  let key (x : Nat) : Nat := elemKey r g o 0 (r.p16 54 + x)
  let codes := ((List.range n).map fun x => readCode t g o.fmt (key x)) ++ List.replicate ((8 - n % 8) % 8) 0
  let sh := (List.range n).foldl (fun (m : SMap (Nat × Nat)) x => match mfind t.shadow (key x) with
    | some e => minsert x e m
    | none => m) []
  let bytes : List Byte :=
    if sramBits o.fmt = 4 then (chunks 2 codes).map fun p => BitVec.ofNat 8 (p.getD 0 0 + 16 * p.getD 1 0)
    else (codes.map fun c => natLE (sramBits o.fmt / 8) c).flatten
  let exps := if isBlk o then (List.range ((n + 7) / 8)).foldl (fun m b =>
      mput 127 (8 * b) (expAt t r g o o.cols 0 (r.p16 54 + 8 * b)) m) [] else []
  let sc := if o.scl = 1 || o.scl = 2 then (scaleAt t r g o 1 0).1 else one32
  startOp u v st k r 0 0 (vloadReads r g)
    ((bytes.zipIdx.map fun b => Wr.vreg b.2 b.1) ++ [Wr.vfmt o.fmt sc exps sh]) s

/-- VLOAD (02 R59). -/
def execVload (u v : Nat) (st : Strm) (s : State) : Res := .next (issue u v st 0x20 (vloadRec u v st) s)

/-! The exact accumulator. -/

/-- Add one product into a lane (R65, R66). -/
def xaAdd (x : XaLane) (p : FVal) : XaLane :=
  match p with
  | .nan => { x with nan := true }
  | .inf false => { x with pinf := true }
  | .inf true => { x with ninf := true }
  | .fin n m e => { x with sum := sgn 640 (unsgn 640 (x.sum + toInt n (m <<< (e + 320).toNat))) }

/-- A lane rounded once to FP32, with its saturation (R66). -/
def xaRound (x : XaLane) : W32 × Bool :=
  if x.nan || (x.pinf && x.ninf) then (0x7FC00000, false)
  else if x.pinf then (0x7F800000, false)
  else if x.ninf then (0xFF800000, false)
  else enc32 .rne (.fin (x.sum < 0) x.sum.natAbs (-320))

/-- The value of an operand element of an XDOT with its block exponent; its FP32 scale is not applied to the exact products (DESIGN
CHOICE: 03 R99 asks the XA for the sum of the products as block exponents scale them, and no rule names FP32 scales there). -/
def exactElem (c : HCtx) (o : Operand) (blkRow k : Nat) (code : Nat) : FVal :=
  if isBlk o then blockVal o.fmt code (expAt c.t c.r c.g o (if o.lay then colsOf o else o.cols) blkRow k) else decCode o.fmt code

/-- XDOT: lane q adds the K products of row 0 of the row source with column q of the column source (R65; the pairing is
a DESIGN CHOICE). -/
def xdotRec (u v : Nat) (st : Strm) (i : Img) (k : Nat) (r : OpRec) (s : State) : State :=
  let c := hctx s u v st i r 0
  let q := min (r.p8 53) 8
  let kn := r.p32 56
  let lane (x : Nat) : XaLane :=
    (List.range kn).foldl (fun l y =>
      xaAdd l (mulV (exactElem c r.o0 0 y (viewElem c r.o0 0 y)) (exactElem c r.o1 x y (viewElem c r.o1 y x))))
      (if (r.p8 52).testBit 0 then mget XaLane.blank c.t.xa x else XaLane.blank)
  startOp u v st k r 0 (6 * ((q + 7) / 8 * (kn + 6) + 8)) (xdotReads r c.g)
    ((List.range q).map fun x => Wr.xa x (lane x)) s

/-- XDOT (02 R65). -/
def execXdot (u v : Nat) (st : Strm) (s : State) : Res := .next (issue u v st 0x12 (xdotRec u v st) s)

/-- XREAD: the lanes of the mask in increasing order, raw or rounded, one after another, 80 or 4 bytes apart, from the destination's
first byte (R66; where a lane lands is a DESIGN CHOICE, and so is its number as its logical block in 04 R120). A saturation sets the lane's flag and the unit's overflow flag (04 Table 4.1). -/
def xreadRec (u v : Nat) (st : Strm) (i : Img) (k : Nat) (r : OpRec) (s : State) : State :=
  let g := (galleryOf i u v).2
  let t := tile s u v
  let lanes := (List.range 8).filter fun l => (r.p8 53).testBit l
  let a := 64 * absLine r g r.o2.addr
  let wr := (lanes.zipIdx.map fun l =>
    let x := mget XaLane.blank t.xa l.1
    if (r.p8 52).testBit 0 then [Wr.sram (a + 80 * l.2) (xaRaw x)]
    else
      let y := xaRound x
      [Wr.sram (a + 4 * l.2) (natLE 4 y.1.toNat)] ++
        (if y.2 then [Wr.xa l.1 { x with sat := true }, Wr.ovf r.unit causeLane l.1] else [])).flatten
  startOp u v st k r 0 (6 * (lanes.length * (if (r.p8 52).testBit 0 then 2 else 1) + 6)) [] wr s

/-- XREAD (02 R66). -/
def execXread (u v : Nat) (st : Strm) (s : State) : Res := .next (issue u v st 0x13 (xreadRec u v st) s)

/-- XCLR (02 R67). -/
def xclrRec (u v : Nat) (st : Strm) (_ : Img) (k : Nat) (r : OpRec) (s : State) : State :=
  startOp u v st k r 0 12 [] ((List.range 8).map fun l => Wr.xa l XaLane.blank) s

/-- XCLR (02 R67). -/
def execXclr (u v : Nat) (st : Strm) (s : State) : Res := .next (issue u v st 0x25 (xclrRec u v st) s)

end Sys2Proof.Machine
end

