-- ==== Sys2Proof/Machine/Vu.lean ====
section
/-! DEFINITION. The vector unit and the clusters of an Update Engine: the instructions of 02 Table 2.6, the records VMAP, VRED
and VPOLY that run them over elements, and SCALEUPD (02 R61 to R64, 07 R206, R208, 12 R371, R372, 09 R283). -/

namespace Sys2Proof.Machine

/-- Registers, lane mask and lane flags of a vector engine of `w` lanes, and the overflow causes met. -/
structure VuSt where
  w : Nat
  v : SMap W32
  mask : SMap Bool
  sat : SMap Bool
  causes : Nat
  deriving DecidableEq, Repr, Inhabited

def VuSt.get (x : VuSt) (r l : Nat) : W32 := mget 0 x.v (x.w * r + l)

/-- Write a register lane by lane. -/
def VuSt.put (x : VuSt) (r : Nat) (f : Nat → W32) : VuSt := { x with v := mputs 0 (x.w * r) ((List.range x.w).map f) x.v }

/-- Set overflow causes when a condition holds. -/
def VuSt.cause (x : VuSt) (b : Bool) (c : Nat) : VuSt := if b then { x with causes := x.causes ||| c } else x

/-! Lane operations. -/

def cmpW (k : Nat) (a b : W32) : Bool :=
  let x := dec32 a
  let y := dec32 b
  match k with | 0 => ltV x y | 1 => ltV x y || eqV x y | 2 => eqV x y | _ => !eqV x y

/-- Integer part, toward zero, and fraction; both exact. -/
def splitW (a : W32) : W32 × W32 :=
  let x := dec32 a
  let i := truncV x
  ((enc32 .rne i).1, (enc32 .rne (addV x (negV i))).1)

/-- a × 2^n with its saturation; the integer part of `n` counts, clamped (DESIGN CHOICE for n that is no integer). -/
def scalbW (a n : W32) : W32 × Bool :=
  match dec32 n with
  | .nan => (0x7FC00000, false)
  | .inf neg => enc32 .rne (scale2 (dec32 a) (if neg then -1000 else 1000))
  | .fin neg m e =>
    match truncV (.fin neg m e) with
    | .fin g q k => enc32 .rne (scale2 (dec32 a) (iclamp (-1000) 1000 (toInt g (if k < 12 then q <<< k.toNat else 1000))))
    | _ => (a, false)

/-- A value through a storage format and back, with its overflow (R61, 03 R94). -/
def cvtW (fmt : Nat) (mode : Rnd) (r a : W32) : W32 × Bool :=
  let c := encCode fmt mode (mulV (dec32 a) (dec32 r))
  ((enc32 .rne (decCode fmt c.1)).1, c.2)

/-- Segment of a value in a table (R63). -/
def polySeg (t : PolyTable) (x : W32) : Nat :=
  if t.uniform then
    match dec32 (mul32 (add32 .rne x (neg32 t.lo)) t.invW) with
    | .fin n m e => (iclamp 0 63 (floorI n m e)).toNat
    | .inf false => 63
    | _ => 0
  else
    let n := x.toNat
    (iclamp 0 63 (4 * ((fld n 30 23 : Int) - t.e0) + fld n 22 21)).toNat

/-- The polynomial of a segment at x, from the degree of the table down. -/
def polyAt (t : PolyTable) (seg : Nat) (x : W32) : W32 :=
  let s := t.segs.getD seg default
  let d := min t.degree 5
  let z := add32 .rne x (neg32 s.1)
  (List.range d).foldl (fun p k => fma32 p z (s.2.getD (d - 1 - k) 0)) (s.2.getD d 0)

/-- POLY (R63); BINADE mode uses the magnitude of x, and the sign rule gives the output for a negative x. -/
def polyW (t : PolyTable) (x : W32) : W32 :=
  if isNan (dec32 x) then 0x7FC00000
  else if x = 0x7F800000 then t.posInf
  else if x = 0xFF800000 then t.negInf
  else if t.uniform || !x.getLsbD 31 then polyAt t (polySeg t x) x
  else
    let m := abs32 x
    match t.signRule with
    | 0 => neg32 (polyAt t (polySeg t m) m)
    | 1 => polyAt t (polySeg t m) m
    | _ => polyAt t 0 x

/-! Instructions on registers. -/

def vAdd (vd va vb : Nat) (x : VuSt) : VuSt := x.put vd fun l => add32 .rne (x.get va l) (x.get vb l)
def vSub (vd va vb : Nat) (x : VuSt) : VuSt := x.put vd fun l => add32 .rne (x.get va l) (neg32 (x.get vb l))
def vMul (vd va vb : Nat) (x : VuSt) : VuSt := x.put vd fun l => mul32 (x.get va l) (x.get vb l)
def vFma (vd va vb vc : Nat) (x : VuSt) : VuSt := x.put vd fun l => fma32 (x.get va l) (x.get vb l) (x.get vc l)
def vMin (vd va vb : Nat) (x : VuSt) : VuSt := x.put vd fun l => min32 (x.get va l) (x.get vb l)
def vMax (vd va vb : Nat) (x : VuSt) : VuSt := x.put vd fun l => max32 (x.get va l) (x.get vb l)
def vAbs (vd va : Nat) (x : VuSt) : VuSt := x.put vd fun l => abs32 (x.get va l)
def vNeg (vd va : Nat) (x : VuSt) : VuSt := x.put vd fun l => neg32 (x.get va l)
def vCmp (k va vb : Nat) (x : VuSt) : VuSt :=
  { x with mask := mputs false 0 ((List.range x.w).map fun l => cmpW k (x.get va l) (x.get vb l)) x.mask }
def vSel (vd va vb : Nat) (x : VuSt) : VuSt := x.put vd fun l => if mget false x.mask l then x.get va l else x.get vb l
def vSplit (vd va vc : Nat) (x : VuSt) : VuSt :=
  (x.put vd fun l => (splitW (x.get va l)).1).put vc fun l => (splitW (x.get va l)).2
def vScalb (vd va vb : Nat) (x : VuSt) : VuSt :=
  let r (l : Nat) := scalbW (x.get va l) (x.get vb l)
  let y := x.put vd fun l => (r l).1
  { y with sat := mputs false 0 ((List.range x.w).map fun l => mget false x.sat l || (r l).2) x.sat }.cause
    ((List.range x.w).any fun l => (r l).2) causeLane
def vCvt (vd va fmt : Nat) (mode : Nat → Rnd) (r : W32) (x : VuSt) : VuSt :=
  (x.put vd fun l => (cvtW fmt (mode l) r (x.get va l)).1).cause
    ((List.range x.w).any fun l => (cvtW fmt (mode l) r (x.get va l)).2) causeQuant
def vPoly (vd va : Nat) (t : PolyTable) (x : VuSt) : VuSt := x.put vd fun l => polyW t (x.get va l)

/-! A vector engine that a command addresses. -/

/-- The instruction word that an engine's program runs next (09 R283, R284). -/
def ueWord (s : State) (d : Die) : Option (URun × UProg × Nat) :=
  match s.image, (dieSt s d).ue.run with
  | some i, some r =>
    if r.wait || s.tripLatched || !powered s then none
    else match i.uprogs.find? fun p => p.prog = r.prog with
      | some p => match (p.passes.getD r.pass [])[r.pc]? with
        | some w => some (r, p, w.toNat)
        | none => none
      | none => none
  | _, _ => none

/-- The fields of a VU instruction (07 R208). -/
def vVop (w : Nat) : Nat := fld w 31 26
def vVd (w : Nat) : Nat := fld w 25 22
def vVa (w : Nat) : Nat := fld w 21 18
def vVb (w : Nat) : Nat := fld w 17 14
def vVc (w : Nat) : Nat := fld w 13 10
def vMod (w : Nat) : Nat := fld w 9 0

/-- Is a word an instruction with this VOP whose fields (hi, lo, value) are as given? -/
def vIs (w vop : Nat) (fs : List (Nat × Nat × Nat)) : Bool := vVop w = vop && fs.all fun f => fld w f.1 f.2.1 = f.2.2

def fVd (n : Nat) : Nat × Nat × Nat := (25, 22, n)
def fVa (n : Nat) : Nat × Nat × Nat := (21, 18, n)
def fVb (n : Nat) : Nat × Nat × Nat := (17, 14, n)
def fVc (n : Nat) : Nat × Nat × Nat := (13, 10, n)

def tileVu (t : Tile) : VuSt := ⟨64, t.vu, t.vmask, t.vsat, 0⟩
def ueVu (e : Ue) : VuSt := ⟨256, e.v, e.mask, e.sat, 0⟩

/-- Does the vector unit of a tile run? -/
def vuRuns (s : State) (u v : Nat) : Bool := issuing s && !s.loading && inImage s u v && !(tile s u v).fenced

/-- The operation that the VU of a tile runs. -/
def vuOp (t : Tile) : Option Op := t.ops.find? fun o => unitClass o.opc = 4

/-- Put back the registers of a tile's VU; overflow causes go to the unit whose operation it runs. -/
def putTileVu (u v : Nat) (x : VuSt) (s : State) : State :=
  let t := tile s u v
  let t := match vuOp t with | some o => if x.causes = 0 then t else setOvf o.unit x.causes o.idx 0 t | none => t
  setTile u v { t with vu := x.v, vmask := x.mask, vsat := x.sat, tok := t.tok + 8 } s

/-- The engine moves to its next instruction. -/
def ueStepPc (d : Die) (s : State) : State :=
  let x := dieSt s d
  setDie d { x with ue := { x.ue with run := x.ue.run.map fun r => { r with pc := r.pc + 1 } } } s

def putUeVu (d : Die) (x : VuSt) (s : State) : State :=
  let y := dieSt s d
  ueStepPc d (setDie d { y with ue := { y.ue with v := x.v, mask := x.mask, sat := x.sat } } s)

/-- Run an instruction on registers: on a tile whose VU runs, or on an engine whose program has it next. -/
def onVu (e : Eng) (vop : Nat) (fs : List (Nat × Nat × Nat)) (f : VuSt → VuSt) (s : State) : State :=
  match e with
  | .tile u v => if vuRuns s u v then putTileVu u v (f (tileVu (tile s u v))) s else s
  | .ue d => match ueWord s d with
    | some (_, _, w) => if vIs w vop fs then putUeVu d (f (ueVu (dieSt s d).ue)) s else s
    | none => s

def execAdd (e : Eng) (vd va vb : Fin 16) (s : State) : Res := .next (onVu e 0x01 [fVd vd, fVa va, fVb vb] (vAdd vd va vb) s)
def execSub (e : Eng) (vd va vb : Fin 16) (s : State) : Res := .next (onVu e 0x02 [fVd vd, fVa va, fVb vb] (vSub vd va vb) s)
def execMul (e : Eng) (vd va vb : Fin 16) (s : State) : Res := .next (onVu e 0x03 [fVd vd, fVa va, fVb vb] (vMul vd va vb) s)
def execFma (e : Eng) (vd va vb vc : Fin 16) (s : State) : Res :=
  .next (onVu e 0x04 [fVd vd, fVa va, fVb vb, fVc vc] (vFma vd va vb vc) s)
def execMin (e : Eng) (vd va vb : Fin 16) (s : State) : Res := .next (onVu e 0x05 [fVd vd, fVa va, fVb vb] (vMin vd va vb) s)
def execMax (e : Eng) (vd va vb : Fin 16) (s : State) : Res := .next (onVu e 0x06 [fVd vd, fVa va, fVb vb] (vMax vd va vb) s)
def execAbs (e : Eng) (vd va : Fin 16) (s : State) : Res := .next (onVu e 0x07 [fVd vd, fVa va] (vAbs vd va) s)
def execNeg (e : Eng) (vd va : Fin 16) (s : State) : Res := .next (onVu e 0x08 [fVd vd, fVa va] (vNeg vd va) s)
/-- CMP sets the lane mask (07 Table 7.5: 0 <, 1 ≤, 2 =, 3 ≠). -/
def execCmp (e : Eng) (k : Fin 4) (va vb : Fin 16) (s : State) : Res :=
  .next (onVu e 0x09 [fVa va, fVb vb, (1, 0, k)] (vCmp k va vb) s)
def execSel (e : Eng) (vd va vb : Fin 16) (s : State) : Res := .next (onVu e 0x0A [fVd vd, fVa va, fVb vb] (vSel vd va vb) s)
def execSplit (e : Eng) (vd va vc : Fin 16) (s : State) : Res :=
  .next (onVu e 0x0B [fVd vd, fVa va, fVc vc] (vSplit vd va vc) s)
def execScalb (e : Eng) (vd va vb : Fin 16) (s : State) : Res :=
  .next (onVu e 0x0C [fVd vd, fVa va, fVb vb] (vScalb vd va vb) s)

/-! Positions of elements (12 R372). -/

/-- ELEM of lane `l` of iteration `j` on a tile. -/
def vuElem (i : Img) (u v j l : Nat) : Nat :=
  let x := galleryOf i u v
  (if i.gals.length ≤ 1 then 0 else x.1 % 64) * 2 ^ 58 + ((v - x.2.gv) * i.gw + (u - x.2.gu)) % 2 ^ 26 * 2 ^ 32 + (64 * j + l) % 2 ^ 32

/-- The random word of a lane: RAND takes LANE 0xFF00 + position, a conversion 0xFF80 + position (12 Table 12.3). -/
def vuDraw (s : State) (u v : Nat) (at_ : VPos) (base l : Nat) : W32 :=
  match s.image with
  | some i => draw (keyNow s) at_.gsid (arrStep s) (vuElem i u v at_.iter l) (base + at_.pos)
  | none => draw (keyNow s) at_.gsid (arrStep s) (64 * at_.iter + l) (base + at_.pos)

/-- The rounding of a conversion of a tile's VU. -/
def vuMode (s : State) (e : Eng) (sr : Option VPos) (l : Nat) : Rnd :=
  match e, sr with
  | .tile u v, some p => .sr (vuDraw s u v p 0xFF80 l)
  | _, _ => .rne

/-- CVT (R61). On an Update Engine every rounding is RNE; an instruction with SR is refused at load (09 R283). -/
def execCvt (e : Eng) (vd va : Fin 16) (fmt : Nat) (r : W32) (sr : Option VPos) (s : State) : Res :=
  .next (onVu e 0x0D [fVd vd, fVa va, (3, 0, fmt), (4, 4, sr.isSome.toNat)] (vCvt vd va fmt (vuMode s e sr) r) s)

/-- RAND (R61); an Update Engine has none (09 R283). -/
def execRand (e : Eng) (vd : Fin 16) (at_ : VPos) (s : State) : Res :=
  .next (match e with
    | .tile u v => onVu e 0x0E [fVd vd] (fun x => x.put vd fun l => vuDraw s u v at_ 0xFF00 l) s
    | .ue _ => s)

/-- The two active tables of an engine: of the image for a tile, of its program for an Update Engine. -/
def tableOf (s : State) (e : Eng) (n : Nat) : PolyTable :=
  match s.image with
  | none => default
  | some i => match e with
    | .tile _ _ => Config.polyTable i.polys n
    | .ue d => match ueWord s d with
      | some (_, p, _) => Config.polyTable i.polys (if n = 0 then p.tables.1 else p.tables.2)
      | none => default

/-- POLY (R63). -/
def execPoly (e : Eng) (vd va : Fin 16) (tab : Fin 2) (s : State) : Res :=
  .next (onVu e 0x0F [fVd vd, fVa va, (0, 0, tab)] (vPoly vd va (tableOf s e tab)) s)

/-! Loads and stores of one register. -/

/-- A byte store's code at a half-byte address. -/
def codeIn (m : SMap Byte) (fmt key : Nat) : Nat :=
  match sramBits fmt with
  | 4 => (mget 0 m (key / 2)).toNat / 16 ^ (key % 2) % 16
  | b => let v := leNat (mgets 0 m (key / 2) (b / 8)); if fmtBits fmt = 6 then v % 64 else v

/-- The byte store with a code written. -/
def putCodeIn (m : SMap Byte) (fmt key c : Nat) : SMap Byte :=
  match sramBits fmt with
  | 4 =>
    let old := (mget 0 m (key / 2)).toNat
    mput 0 (key / 2) (BitVec.ofNat 8 (if key % 2 = 0 then old / 16 * 16 + c % 16 else old % 16 + 16 * (c % 16))) m
  | b => mputs 0 (key / 2) (natLE (b / 8) c) m

/-- A code times a scale as FP32: exact with scale 1, else rounded once; saturated above the range (03 R96, Table 3.5). -/
def scaledS (fmt c : Nat) (s : W32) : W32 × Bool :=
  if s = one32 then enc32 .rne (decCode fmt c) else enc32 .rne (mulV (decCode fmt c) (dec32 s))

/-- The code of an FP32 value with a multiplier. -/
def codeW (fmt : Nat) (mode : Rnd) (r a : W32) : Nat × Bool :=
  encCode fmt mode (if r = one32 then dec32 a else mulV (dec32 a) (dec32 r))

/-- Engine SRAM holds 8 MiB (09 R282). -/
def ueSramBytes : Nat := 8388608

def voKey (o : VOperand) (l : Nat) : Nat := 2 * o.addr + l * sramBits o.fmt / 4

/-- ST (R61): 64 lanes converted and written; a saturating conversion is a quantization overflow. -/
def execSt (e : Eng) (va : Fin 16) (o : VOperand) (sr : Option VPos) (s : State) : Res :=
  .next (match e with
    | .tile u v =>
      match s.image with
      | none => s
      | some i =>
        let t := tile s u v
        let g := (galleryOf i u v).2
        let x := tileVu t
        let cs := (List.range 64).map fun l => codeW o.fmt (vuMode s e sr l) o.r (x.get va l)
        if !vuRuns s u v then s
        else
          let s' := putTileVu u v (x.cause (cs.any (·.2)) causeQuant) s
          let t' := cs.zipIdx.foldl (fun t c => if inWindow g (voKey o c.2 / 128) then
            applyWr 0 (.code (voKey o c.2) o.fmt c.1.1) t else t) (tile s' u v)
          let s' := setTile u v t' s'
          if (linesOf o.addr (64 * sramBits o.fmt / 8)).all (inWindow g) then s' else contractFault 6 u v 0 s'
    | .ue d => match ueWord s d with
      | some (_, _, w) =>
        if vIs w 0x11 [fVa va, (2, 2, sr.isSome.toNat)] then
          let y := dieSt s d
          let x := ueVu y.ue
          let m := (List.range 256).foldl (fun m l =>
            putCodeIn m o.fmt (voKey o l % (2 * ueSramBytes)) (codeW o.fmt .rne o.r (x.get va l)).1) y.ue.sram
          ueStepPc d (setDie d { y with ue := { y.ue with sram := m } } s)
        else s
      | none => s)

/-! The records VMAP, VRED and VPOLY. -/

/-- What the body of a VU record needs: image, record, tile, the row and iteration it is at. -/
structure VBody where
  i : Img
  r : OpRec
  u : Nat
  v : Nat
  key : Key
  step : Nat
  elems : Nat
  row : Nat
  j : Nat
  iter : Nat
  deriving Repr, Inhabited

/-- A body in progress: the VU, the tile as the op's stores leave it, the results so far. -/
structure VRun where
  x : VuSt
  t : Tile
  wr : List Wr
  deriving Repr, Inhabited

def VBody.gal (b : VBody) : Gal := (galleryOf b.i b.u b.v).2
/-- The logical block of a trigger of a VU op: ELEM of the iteration's first lane. -/
def VBody.block (b : VBody) : Nat := vuElem b.i b.u b.v b.iter 0
def VBody.valid (b : VBody) (l : Nat) : Bool := 64 * b.j + l < b.elems
def VBody.rnd (b : VBody) (sr : Bool) (pos l : Nat) : Rnd :=
  if sr then .sr (draw b.key b.r.gsid b.step (vuElem b.i b.u b.v b.iter l) (0xFF80 + pos)) else .rne
def VBody.operand (b : VBody) (n : Nat) : Operand := match n with | 0 => b.r.o0 | 1 => b.r.o1 | _ => b.r.o2
/-- Row and column of the element that lane `l` addresses. -/
def VBody.at (b : VBody) (o : Operand) (l : Nat) : Nat × Nat :=
  let k := b.row * b.elems + 64 * b.j + l
  (k / max 1 o.cols, k % max 1 o.cols)

/-- Exponent of element (i, j) of a block-scaled tensor read or written as it is stored: its blocks lie along its columns, or along
its rows where the descriptor sets TRN, the form of a B operand (02 R48; which bit tells the two apart is a DESIGN CHOICE). -/
def storedExp (t : Tile) (r : OpRec) (g : Gal) (o : Operand) (i j : Nat) : Nat :=
  if o.trn then expAt t r g o o.rows j i else expAt t r g o o.cols i j

/-- An element of an operand as FP32, with an overflow of a block-scaled code (03 R96). -/
def operandW (t : Tile) (r : OpRec) (g : Gal) (o : Operand) (i j : Nat) : W32 × Bool :=
  let c := readElem t r g o i j
  if isBlk o then
    let v := enc32 .rne (blockVal o.fmt c (storedExp t r g o i j))
    (v.1, v.2)
  else scaledS o.fmt c (scaleAt t r g o o.rows i).1

/-- One instruction of a body; `pos` is its position. -/
def bodyInstr (b : VBody) (pos w : Nat) (q : VRun) : VRun :=
  let x := q.x
  let vd := vVd w
  let va := vVa w
  let vb := vVb w
  match vVop w with
  | 0x01 => { q with x := vAdd vd va vb x }
  | 0x02 => { q with x := vSub vd va vb x }
  | 0x03 => { q with x := vMul vd va vb x }
  | 0x04 => { q with x := vFma vd va vb (vVc w) x }
  | 0x05 => { q with x := vMin vd va vb x }
  | 0x06 => { q with x := vMax vd va vb x }
  | 0x07 => { q with x := vAbs vd va x }
  | 0x08 => { q with x := vNeg vd va x }
  | 0x09 => { q with x := vCmp (vMod w % 4) va vb x }
  | 0x0A => { q with x := vSel vd va vb x }
  | 0x0B => { q with x := vSplit vd va (vVc w) x }
  | 0x0C => { q with x := vScalb vd va vb x }
  | 0x0D =>
    let m := if b.r.o2.scl = 1 then (scaleAt q.t b.r b.gal b.r.o2 1 0).2 else one32
    { q with x := vCvt vd va (vMod w % 16) (b.rnd ((vMod w).testBit 4) pos) m x }
  | 0x0E => { q with x := x.put vd fun l => draw b.key b.r.gsid b.step (vuElem b.i b.u b.v b.iter l) (0xFF00 + pos) }
  -- a POLY takes table 1 where the record's byte 60 or its own MOD says so (Tables 7.3 and 7.5; DESIGN CHOICE)
  | 0x0F => { q with x := vPoly vd va (Config.polyTable b.i.polys (max (vMod w % 2) (b.r.p8 60 % 2))) x }
  | 0x10 =>
    let o := b.operand (vMod w % 4)
    let e (l : Nat) : W32 × Bool :=
      if b.valid l then let p := b.at o l; operandW q.t b.r b.gal o p.1 p.2 else (0, false)
    { q with x := (x.put vd fun l => (e l).1).cause ((List.range 64).any fun l => (e l).2) causeNum }
  | 0x11 =>
    let o := b.operand (vMod w % 4)
    let ws := ((List.range 64).filter b.valid).map fun l =>
      let p := b.at o l
      let mul := if o.scl = 1 || o.scl = 2 then (scaleAt q.t b.r b.gal o o.rows p.1).2 else one32
      convWr b.i b.r b.gal o (elemKey b.r b.gal o p.1 p.2) (b.rnd ((vMod w).testBit 2) pos l) (x.get va l) mul (if o.scl = 2 then p.1 else 0) b.block
    { q with t := ws.flatten.foldl (fun t w => match w with | .code _ _ _ => applyWr 0 w t | _ => t) q.t, wr := q.wr ++ ws.flatten }
  | _ => q

/-- The VU instructions of a record: NINS words of its extension records. -/
def bodyWords (i : Img) (st : Strm) (k : Nat) (r : OpRec) : List Nat :=
  let bs := (((recsOf i st).drop (k + 1)).take (r.p8 53)).flatten
  ((List.range 48).take (r.p8 52)).map fun n => fieldLE bs (4 * n) 4

/-- One iteration of a body. -/
def runBody (b : VBody) (ws : List Nat) (q : VRun) : VRun :=
  let q := ws.zipIdx.foldl (fun q w => bodyInstr b w.2 w.1 q) q
  if q.x.causes = 0 then q
  else { q with x := { q.x with causes := 0 }, wr := q.wr ++ [Wr.ovf b.r.unit q.x.causes b.block] }

/-- Cycles of a body for an iteration: instructions, loads or stores, whichever are more. -/
def bodyCycles (ws : List Nat) : Nat :=
  let a := (ws.filter fun w => vVop w = 0x10).length
  let b := (ws.filter fun w => vVop w = 0x11).length
  max (ws.length - a - b) (max a b)

/-- The registers that a VU op leaves. -/
def vuEnd (x : VuSt) : List Wr := [Wr.vuAll x.v x.mask x.sat]

/-- The operands that LD instructions read. -/
def loadsOf (r : OpRec) (ws : List Nat) : List Operand :=
  [r.o0, r.o1, r.o2].zipIdx.filterMap fun o => if ws.any fun w => vVop w = 0x10 && min (vMod w % 4) 2 = o.2 then some o.1 else none

/-- The operands that ST instructions write. -/
def storesOf (r : OpRec) (ws : List Nat) : List Operand :=
  [r.o0, r.o1, r.o2].zipIdx.filterMap fun o => if ws.any fun w => vVop w = 0x11 && min (vMod w % 4) 2 = o.2 then some o.1 else none

/-- Multipliers that a body reads. -/
def bodyMuls (r : OpRec) (g : Gal) (ws : List Nat) : List Nat := mulReads r g (storesOf r ws) (ws.any fun w => vVop w = 0x0D)

/-- The tables that the POLY instructions of a body use (02 R64), as bits. -/
def bodyTables (r : OpRec) (ws : List Nat) : Nat :=
  (ws.filter fun w => vVop w = 0x0F).foldl (fun a w => a ||| 2 ^ max (vMod w % 2) (r.p8 60 % 2)) 0

/-- An op that names a table has it loaded (R64). -/
def loadTables (u v n : Nat) (s : State) : State :=
  let t := tile s u v
  setTile u v { t with poly := t.poly ||| n } s

/-- A VMAP issues: its body once for each 64 elements. -/
def vmapRec (u v : Nat) (st : Strm) (i : Img) (k : Nat) (r : OpRec) (s : State) : State :=
  let t := tile s u v
  let ws := bodyWords i st k r
  let E := r.p32 56
  let n := (E + 63) / 64
  let q := (List.range n).foldl (fun q j => runBody ⟨i, r, u, v, keyNow s, arrStep s, E, 0, j, j⟩ ws q) ⟨tileVu t, t, []⟩
  let g := (galleryOf i u v).2
  loadTables u v (bodyTables r ws)
    (startOp u v st k r 0 (8 * (n * bodyCycles ws)) (firstReads r g (loadsOf r ws) E ++ bodyMuls r g ws) (q.wr ++ vuEnd q.x) s)

/-- VMAP (07 R206, 02 R61). -/
def execVmap (u v : Nat) (st : Strm) (s : State) : Res := .next (issue u v st 0x21 (vmapRec u v st) s)

/-- The pairwise tree over 64 lanes (02 R62); `none` lanes contribute nothing. -/
def treeFold (op : W32 → W32 → W32) (l : List (Option W32)) : Option W32 :=
  ([0, 1, 2, 3, 4, 5].foldl (fun (a : List (Option W32)) _ =>
    (List.range (a.length / 2)).map fun k =>
      match a.getD (2 * k) none, a.getD (2 * k + 1) none with
      | some x, some y => some (op x y)
      | some x, none => some x
      | none, y => y) l).headD none

/-- The reduction of a row (kind 3, which 07 Table 7.3 does not list, acts as the minimum: DESIGN CHOICE): V0 after each iteration, lane
by lane in increasing index, then the tree. In a sum a lane beyond E contributes +0.0; a maximum or minimum leaves it out (DESIGN CHOICE: R62's +0.0 stands beside the sum). -/
def rowReduce (kind elems : Nat) (regs : List (Nat → W32)) : W32 :=
  let op := match kind with | 0 => add32 .rne | 1 => max32 | _ => min32
  let lane (l : Nat) : Option W32 :=
    let xs := (regs.zipIdx.filter fun r => 64 * r.2 + l < elems).map fun r => r.1 l
    match xs with
    | [] => if kind = 0 then some 0 else none
    | x :: rest => some (rest.foldl op x)
  (treeFold op ((List.range 64).map lane)).getD 0

/-- A VRED issues: for each of P rows the body over its registers, then the reduction of V0 into element p of operand 2. That V0, as the
body leaves it after each iteration, is what is reduced is a DESIGN CHOICE: no rule names the register (02 R62). -/
def vredRec (u v : Nat) (st : Strm) (i : Img) (k : Nat) (r : OpRec) (s : State) : State :=
  let t := tile s u v
  let g := (galleryOf i u v).2
  let ws := bodyWords i st k r
  let E := r.p32 56
  let n := (E + 63) / 64
  let o := r.o2
  let q := (List.range (r.p16 54)).foldl (fun (q : VRun) p =>
    let z := (List.range n).foldl (fun (z : VRun × List (Nat → W32)) j =>
      let q := runBody ⟨i, r, u, v, keyNow s, arrStep s, E, p, j, p * n + j⟩ ws z.1
      (q, z.2 ++ [q.x.get 0])) (q, [])
    let y := rowReduce (fld (r.p8 60) 2 1) E z.2
    let mul := if o.scl = 1 || o.scl = 2 then (scaleAt z.1.t r g o o.rows p).2 else one32
    let w := convWr i r g o (elemKey r g o (p / max 1 o.cols) (p % max 1 o.cols)) .rne y mul (if o.scl = 2 then p else 0) (vuElem i u v p 0)
    { z.1 with wr := z.1.wr ++ w }) ⟨tileVu t, t, []⟩
  loadTables u v (bodyTables r ws)
    (startOp u v st k r 0 (8 * (r.p16 54 * n)) (firstReads r g (loadsOf r ws) (r.p16 54 * E) ++ bodyMuls r g ws ++ mulLines r g o) (q.wr ++ vuEnd q.x) s)

/-- VRED (02 R62). -/
def execVred (u v : Nat) (st : Strm) (s : State) : Res := .next (issue u v st 0x22 (vredRec u v st) s)

/-- A VPOLY issues: each element through the table, with the degree the record names (R63); a degree above 5, which no table has,
acts as 5 (DESIGN CHOICE). -/
def vpolyRec (u v : Nat) (st : Strm) (i : Img) (k : Nat) (r : OpRec) (s : State) : State :=
  let t := tile s u v
  let g := (galleryOf i u v).2
  let tab := { Config.polyTable i.polys (r.p8 53 % 2) with degree := min (r.p8 52) 5 }
  let E := r.p32 56
  let o := r.o2
  let wr := ((List.range E).map fun e =>
    let x := operandW t r g r.o0 (e / max 1 r.o0.cols) (e % max 1 r.o0.cols)
    let i' := e / max 1 o.cols
    let mul := if o.scl = 1 || o.scl = 2 then (scaleAt t r g o o.rows i').2 else one32
    let b : VBody := ⟨i, r, u, v, keyNow s, arrStep s, E, 0, e / 64, e / 64⟩
    (if x.2 then [Wr.ovf r.unit causeNum b.block] else []) ++
      convWr i r g o (elemKey r g o i' (e % max 1 o.cols)) (b.rnd r.sro 0 (e % 64)) (polyW tab x.1) mul (if o.scl = 2 then i' else 0) b.block).flatten
  loadTables u v (2 ^ (r.p8 53 % 2))
    (startOp u v st k r 0 (8 * ((E + 63) / 64 * (r.p8 52 + 1))) (firstReads r g [r.o0] E ++ mulLines r g o) wr s)

/-- VPOLY (02 R63). -/
def execVpoly (u v : Nat) (st : Strm) (s : State) : Res := .next (issue u v st 0x23 (vpolyRec u v st) s)

/-- Lines of a scale record (07 R204, 04 R550). -/
def recordLen1 (q : ScaleRec) : Nat := if q.kind = 1 then 1 else 1 + 3 * ((4 * q.m.length + 63) / 64)

/-- A SCALEUPD issues: a record of the unit that lies outside the window is contract fault 6 (02 R38), and the unit's records are updated when the attempt is accepted (04 R116). The tile keeps the unit and
the number of records. -/
def scaleupdRec (u v : Nat) (st : Strm) (i : Img) (k : Nat) (r : OpRec) (s : State) : State :=
  let ws := bodyWords i st k r
  let s := startOp u v st k r 0 (8 * bodyCycles ws) [] [] s
  let g := (galleryOf i u v).2
  let out := (i.scales.filter fun q => q.unit = r.unit).any fun q =>
    (List.range (recordLen1 q)).any fun n => !inWindow g (g.wlo + q.sref + n)
  let s := if out then contractFault 6 u v k s else s
  let t := tile s u v
  setTile u v { t with supd := addNew (r.unit + 4096 * r.p16 54) t.supd } s

/-- SCALEUPD (04 R116). -/
def execScaleupd (u v : Nat) (st : Strm) (s : State) : Res := .next (issue u v st 0x24 (scaleupdRec u v st) s)

end Sys2Proof.Machine
end

