-- ==== Sys2Proof/Machine/Ladder.lean ====
section
/-! DEFINITION. Format ladders, the Owl's checks and the scale estimates (04 R101 to R121, R550). -/

namespace Sys2Proof.Machine

/-! Scale records (R550, R116). -/

/-- The pair of one estimate on a rung's format; 1.0 where the rung carries no estimated scale (R116). -/
def scalePair (fmt h : Nat) (m : W32) : W32 × W32 :=
  if fmt = 0xFF then (one32, one32)
  else match dec32 m with
    | .fin true (_ + 1) _ => (one32, one32)
    | .fin _ q e =>
      let x := if q = 0 then -126 else iclamp (-126) 126 (ceilLog2 q (e + h) (qmax fmt).1 (qmax fmt).2)
      (pow2w x, pow2w (-x))
    | _ => (one32, one32)

def pairsOf (r : ScaleRec) (rung h : Nat) (ms : List W32) : List (W32 × W32) := ms.map (scalePair (r.fmts.getD rung 0xFF) h)

/-- The lines of a record in tile SRAM, from its line SREF. -/
def recordLines (r : ScaleRec) (ps : List (W32 × W32)) : List (Nat × List Byte) :=
  let words (l : List W32) : List Byte := (l.map fun w => natLE 4 w.toNat).flatten
  let p := ps.headD (one32, one32)
  let tail := natLE 1 r.h ++ natLE 1 r.h0 ++ natLE 2 r.hold ++ natLE 4 r.m.length
  if r.kind = 1 then [(0, padTo 64 (words [p.1, p.2] ++ tail ++ words r.m))]
  else
    let n := (4 * r.m.length + 63) / 64
    [(0, padTo 64 (zeros 8 ++ tail)), (1, padTo 64 (words (ps.map (·.1)))), (1 + n, padTo 64 (words (ps.map (·.2)))),
     (1 + 2 * n, padTo 64 (words r.m))]

/-- The same, line by line. -/
def recordCells (r : ScaleRec) (ps : List (W32 × W32)) : List (Nat × List Byte) :=
  (recordLines r ps).flatMap fun l => (chunks 64 l.2).zipIdx.map fun c => (l.1 + c.2, c.1)

/-- Write a record into one tile, at its gallery-relative line; a line outside the window is not written (02 R38). -/
def writeRecord (u v : Nat) (r : ScaleRec) (ps : List (W32 × W32)) (s : State) : State :=
  match s.image with
  | none => s
  | some i =>
    let g := (galleryOf i u v).2
    setTile u v ((recordCells r ps).foldl (fun t l =>
      let n := g.wlo + r.sref + l.1
      if inWindow g n then sramWrite (64 * n) l.2 t else t) (tile s u v)) s

/-- Replace record `k` of the image's scale records. -/
def setScaleRec (k : Nat) (r : ScaleRec) (s : State) : State :=
  { s with image := s.image.map fun i => { i with scales := i.scales.set k r } }

/-- Write a record into every tile of a list. -/
def writeRecordAll (ts : List (Nat × Nat)) (r : ScaleRec) (ps : List (W32 × W32)) (s : State) : State :=
  forAll ts (fun t => writeRecord t.1 t.2 r ps) s

/-- Is a record's scale replaced by 1.0 when it is written: an estimate that is not finite or is negative gives none that is a positive
normal value (03 R76)? R116 keeps every other scale normal. -/
def scaleReplaced (r : ScaleRec) (rung : Nat) (ms : List W32) : Bool :=
  r.fmts.getD rung 0xFF ≠ 0xFF && ms.any badEstimate

/-- The ledger item of a replaced scale, of a step (R120, 17 Table 17.15). -/
def scaleItem (step k rung : Nat) (r : ScaleRec) (ms : List W32) (s : State) : State :=
  if scaleReplaced r rung ms then
    ledgerItemOf step 0x0005 (natLE 1 1 ++ natLE 1 rung ++ natLE 2 r.unit ++ natLE 4 k ++ zeros 24) s
  else s

/-- Write a record's headroom and hold counter, bytes 8 to 11 of its line SREF, into every tile of a list (R117, R550). -/
def writeHeadroom (ts : List (Nat × Nat)) (r : ScaleRec) (s : State) : State :=
  forAll ts (fun p s =>
    match s.image with
    | none => s
    | some i =>
      let g := (galleryOf i p.1 p.2).2
      let n := g.wlo + r.sref
      if inWindow g n then
        setTile p.1 p.2 (sramWrite (64 * n + 8) (natLE 1 r.h ++ natLE 1 r.h0 ++ natLE 2 r.hold) (tile s p.1 p.2)) s
      else s) s

/-- m after an accepted attempt with amax `a` (R116): two roundings. -/
def estimate (w : Nat) (m a : W32) : W32 :=
  let d := add32 .rne a (neg32 m)
  (enc32 .rne (addV (dec32 m) (scale2 (dec32 d) (-(w : Int))))).1

/-- The combined maxima of a unit, and its combined flags; none while a combine is still under way. -/
def unitResult (s : State) (i : Img) (unit : Nat) : Option (Nat × List W32) :=
  (List.range (ncomb i unit)).foldl (fun acc k =>
    match acc, mfind s.asq.results (combBase i unit + k) with
    | some (f, l), some (g, m) => some (f ||| g, l ++ (List.range 15).map fun c => m.getD c 0)
    | _, _ => none) (some (0, []))

/-- The records of a unit with their indices and the maxima of their channels. -/
def unitMaxima (i : Img) (unit : Nat) (mx : List W32) : List (ScaleRec × Nat × List W32) :=
  ((unitScales i unit).foldl (fun (a : List (ScaleRec × Nat × List W32) × List W32) r =>
    (a.1 ++ [(r.1, r.2, (List.range r.1.m.length).map fun c => a.2.getD c 0)], a.2.drop r.1.m.length)) ([], mx)).1

/-- The update that the SCALEUPD of an accepted attempt makes (R116), on the tiles that ran it. -/
def acceptScales (unit rung w : Nat) (mx : List W32) (s : State) : State :=
  match s.image with
  | none => s
  | some i =>
    let on (t : Nat × Nat) : Option Nat := (tile s t.1 t.2).supd.find? fun e => e % 4096 = unit
    let ts := (imageTiles i).filter fun t => (on t).isSome
    let n := (ts.filterMap on).foldl (fun a e => max a (e / 4096)) 0
    ((unitMaxima i unit mx).take n).foldl (fun s x =>
      let r := { x.1 with m := (List.range x.1.m.length).map fun c => estimate w (x.1.m.getD c 0) (x.2.2.getD c 0) }
      scaleItem (arrStep s) x.2.1 rung r r.m (writeRecordAll ts r (pairsOf r rung r.h r.m) (setScaleRec x.2.1 r s))) s

/-- Records of a unit whose conversion saturated on some tile (R117). -/
def saturatedRecs (s : State) (i : Img) (unit : Nat) : List Nat :=
  ((unitScales i unit).map (·.2)).filter fun k => (imageTiles i).any fun t => k ∈ (tile s t.1 t.2).recSat

/-- Headroom and scales for the repeat on a rung (R117): a saturated tensor takes the larger of m and the failed attempt's
maximum and one binade more; another takes its pair for the new rung where its format changes (DEDUCED). -/
def repeatScales (unit rung hold : Nat) (mx : List W32) (s : State) : State :=
  match s.image with
  | none => s
  | some i =>
    let sat := saturatedRecs s i unit
    (unitMaxima i unit mx).foldl (fun s x =>
      if x.2.1 ∈ sat then
        let r := { x.1 with h := min 8 (x.1.h + 1), hold := hold }
        let ms := (List.range r.m.length).map fun c => max32 (r.m.getD c 0) (x.2.2.getD c 0)
        scaleItem (arrStep s) x.2.1 rung r ms (writeRecordAll (imageTiles i) r (pairsOf r rung r.h ms) (setScaleRec x.2.1 r s))
      else if x.1.fmts.getD rung 0xFF ≠ x.1.fmts.getD (rung - 1) 0xFF then
        scaleItem (arrStep s) x.2.1 rung x.1 x.1.m (writeRecordAll (imageTiles i) x.1 (pairsOf x.1 rung x.1.h x.1.m) s)
      else s) s

/-! Decisions (R103 to R107). -/

def setUnit (n : Nat) (x : UnitSt) (s : State) : State := { s with asq := { s.asq with units := mput default n x s.asq.units } }

/-- Restore the setts of a unit's list to what they held at the start of the unit (R104). -/
def restoreSetts (unit : Nat) (s : State) : State :=
  s.asq.savedSetts.foldl (fun s e =>
    if e.1 / 2 ^ 21 ≠ unit then s
    else
      let k := e.1 % 2 ^ 21 / 32
      let t := tile s (k % 256) (k / 256)
      let x := mget Sett.blank t.setts (e.1 % 32)
      let y := { x with count := e.2.count, queue := e.2.queue, lsValid := e.2.lsValid, lsU := e.2.lsU, lsV := e.2.lsV
                        lsStrm := e.2.lsStrm, lsTick := e.2.lsTick }
      setTile (k % 256) (k / 256) { t with setts := mput Sett.blank (e.1 % 32) y t.setts } s) s

/-- Hold what the setts of a unit's list hold at its start (R104). -/
def saveSetts (unit : Nat) (s : State) : State :=
  match s.image with
  | none => s
  | some i =>
    let kept := s.asq.savedSetts.filter fun e => e.1 / 2 ^ 21 ≠ unit
    let now := (mget [] i.settList unit).foldl (fun m k =>
      mput Sett.blank (2 ^ 21 * unit + k % 2 ^ 21)
        (mget Sett.blank (tile s (k % 2 ^ 21 / 32 % 256) (k % 2 ^ 21 / 32 / 256)).setts (k % 32)) m) kept
    { s with asq := { s.asq with savedSetts := now } }

/-- The first trigger of a unit in logical order over all tiles (R120). -/
def firstTrigger (s : State) (i : Img) (unit : Nat) : Nat × Nat :=
  ((imageTiles i).filterMap fun t => mfind (tile s t.1 t.2).trig unit).foldl (fun a b =>
    match a with
    | none => some b
    | some x => if b.1 < x.1 || (b.1 = x.1 && b.2 < x.2) then some b else some x) none |>.getD (0, 0)

/-- What a decision clears on every tile: the unit's triggers, its saturated records and its waiting update. -/
def clearAttempt (unit : Nat) (s : State) : State :=
  match s.image with
  | none => s
  | some i =>
    let recs := (unitScales i unit).map (·.2)
    forAll (imageTiles i) (fun p s =>
      let t := tile s p.1 p.2
      setTile p.1 p.2 { t with trig := merase unit t.trig, recSat := t.recSat.filter fun k => !decide (k ∈ recs)
                               supd := t.supd.filter fun e => e % 4096 ≠ unit } s) s

/-- The decision of a unit with its descriptor and the combine's result (04 R105, R106). QOVF_CNT and ASAT_CNT count a unit once for
each attempt that overflowed (R121; DESIGN CHOICE). -/
def decideWith (unit : Nat) (i : Img) (d : UnitDesc) (flags : Nat) (mx : List W32) (s : State) : State :=
  let x := unitSt s unit
  let causes := flags / 2 % 32
  let up : Bool := flags % 2 = 1
  let s := if up && causes.testBit 0 then bump .owl 0x068 s else s
  let s := if up && (causes.testBit 1 || causes.testBit 2) then bump .owl 0x06C s else s
  let s := { s with asq := { s.asq with results := s.asq.results.filter fun e => !combIsOf i unit e.1 } }
  let x := { x with due := none, causes := causes, rungs := addNew (arrStep s, x.rung) x.rungs }
  if up && x.rung < d.top then
    let t := firstTrigger s i unit
    let s := arrItem 0x0003 (natLE 2 unit ++ natLE 1 x.rung ++ natLE 1 (x.rung + 1) ++ natLE 1 causes ++ zeros 3
      ++ natLE 4 t.1 ++ natLE 8 t.2 ++ zeros 12) s
    let s := setReg .owl 0x078 (w32 (arrStep s)) (setReg .owl 0x074 (w32 ((x.rung + 1) * 2 ^ 28 + unit)) (bump .owl 0x060 s))
    let sat := saturatedRecs s i unit
    let s := clearAttempt unit (restoreSetts unit (repeatScales unit (x.rung + 1) d.hold mx s))
    let s := setUnit unit { x with rung := x.rung + 1, hold := d.hold, raised := some (arrStep s), recUp := sat.foldl (fun a k => addNew (arrStep s, k) a) x.recUp } s
    match detourOf i unit (x.rung + 1) with
    | some b => { s with asq := { s.asq with detQ := s.asq.detQ ++ [b] } }
    | none => s
  else
    let s := if up then
        setErr .owl 0 (bump .owl 0x064 (arrItem 0x0005 (natLE 1 0 ++ natLE 1 x.rung ++ natLE 2 unit ++ zeros 28) s)) else s
    let s := clearAttempt unit (acceptScales unit x.rung d.estW mx s)
    setUnit unit (if up then { x with hold := d.hold } else x) s

/-- Apply the decision of a unit (R103, R106, R116, R117). -/
def decideUnit (unit : Nat) (s : State) : State :=
  match s.image with
  | none => s
  | some i =>
    match unitDesc i unit, unitResult s i unit with
    | some d, some r => decideWith unit i d r.1 r.2 s
    | _, _ => s

/-- A unit's rung at the boundary that ends step `n` (R107). The boundary that ends the step of a raise is excepted, and one before it,
where the array ran ahead: the counter gives H whole steps. H = 0, which no rule refuses, gives no drop at all (DESIGN CHOICE). -/
def stepRung (n : Nat) (d : UnitDesc) (x : UnitSt) : UnitSt :=
  let x := if x.raised.isSome || x.hold = 0 then x
    else if x.hold = 1 then
      let r := max d.start (x.rung - 1)
      { x with rung := r, hold := if d.start < r then d.hold else 0 }
    else { x with hold := x.hold - 1 }
  { x with raised := x.raised.filter (n < ·), rungs := x.rungs.filter (n < ·.1), recUp := x.recUp.filter (n < ·.1) }

/-- A record's headroom at the boundary that ends step `n` (R117): only after a step that converted the tensor with an estimated
scale. -/
def stepRec (n : Nat) (d : UnitDesc) (x : UnitSt) (k : Nat) (r : ScaleRec) : ScaleRec :=
  let used := x.rungs.any fun g => g.1 ≤ n && r.fmts.getD g.2 0xFF ≠ 0xFF
  if !used || (x.recUp.any fun g => g.2 = k) || r.hold = 0 then r
  else if r.hold = 1 then
    let h := max r.h0 (r.h - 1)
    { r with h := h, hold := if r.h0 < h then d.hold else 0 }
  else { r with hold := r.hold - 1 }

/-- The ladders at a step boundary, when the step number has gone on: hold counters, rung drops with the scale pairs of the new rung (DEDUCED), headroom. -/
def ladderStep (s : State) : State :=
  match s.image with
  | none => s
  | some i =>
    forAll i.units (fun d s =>
      let x := unitSt s d.unit
      let n := stepNo s - 1
      let y := stepRung n d x
      let s := (unitScales i d.unit).foldl (fun s r =>
        let q := stepRec n d x r.2 r.1
        let s := if q = r.1 then s else writeHeadroom (imageTiles i) q (setScaleRec r.2 q s)
        if q.fmts.getD y.rung 0xFF ≠ q.fmts.getD x.rung 0xFF then
          scaleItem (stepNo s) r.2 y.rung q q.m (writeRecordAll (imageTiles i) q (pairsOf q y.rung q.h q.m) s) else s) s
      setUnit d.unit y s) s

/-! The Owl's checks (R111 to R114). -/

/-- floor(m·2^e / (n·2^k)), n positive. -/
def floorQuot (m : Nat) (e : Int) (n : Nat) (k : Int) : Nat :=
  if k ≤ e then (m <<< (e - k).toNat) / n else m / (n <<< (k - e).toNat)

/-- D_fx of one element: |P − X| / (ε M) in 8.8, at most 0xFFFF (R112, R114). -/
def disagreement (eps : Int) (big : FVal) (p x : W32) : Nat :=
  match addV (dec32 p) (negV (dec32 x)), big with
  | .fin _ m e, .fin _ n k => min (floorQuot m (e + 8) n (k + eps)) 0xFFFF
  | _, _ => 0xFFFF

/-- The block's reference magnitude: the largest |X|, at least 2^−126. -/
def blockMag (xs : List W32) : FVal :=
  xs.foldl (fun a x => if ltV a (absV (dec32 x)) then absV (dec32 x) else a) (.fin false 1 (-126))

/-- The block's disagreement. -/
def blockD (o : OwlSample) (xs : List W32) : Nat :=
  (o.p.zip xs).foldl (fun a q => max a (disagreement o.eps (blockMag xs) q.1 q.2)) 0

/-- The OWL ledger item of a disagreement (17 Table 17.15). -/
def owlItem (unit rung : Nat) (hard : Bool) (d elem : Nat) (s : State) : State :=
  arrItem 0x0004 (natLE 2 unit ++ natLE 1 hard.toNat ++ natLE 1 rung ++ natLE 2 d ++ zeros 2 ++ natLE 8 elem ++ zeros 16) s

/-- XA cycles of a check: XDOT and rounded XREAD of Q outputs (R111, 02 Table 2.9). -/
def owlCycles (o : OwlSample) : Nat := (o.q + 7) / 8 * (o.klen + 6) + 8 + o.q + 6

/-- A check ends: compared, or not where a shadow was missing or not finite; PRT_OWL forces a hard disagreement (16 R469). -/
def owlCheck (u v : Nat) (s : State) : State :=
  match s.image, tickNow s, (tile s u v).owl with
  | some i, some tr, some o =>
    if !tr.owlWin || !issuing s || s.loading || (tile s u v).fenced then s
    else
      let t := tile s u v
      let s := setTile u v { t with owl := none, tok := t.tok + 6 * (owlCycles o - o.spent) } s
      let forced := prtUnit s 0x060 o.unit
      match (if forced then some 0xFFFF else o.x.map (blockD o)) with
      | none => setErr .owl 2 (bump .owl 0x05C s)
      | some d =>
        let s := bump .owl 0x04C (if forced then prtUse 0x060 29 s else s)
        let s := if pageFrz s .owl then s else setReg .owl 0x070 (w32 (max (reg s .owl 0x070).toNat d))  s
        let un := (unitDesc i o.unit).getD default
        let rung := (unitSt s o.unit).rung
        if forced || un.th ≤ d then
          let t := tile s u v
          let s := setTile u v (setOvf o.unit (causeOwl + (if forced then causePrt else 0)) o.opIdx o.elem t) s
          owlItem o.unit rung true d o.elem (setErr .owl 1 (bump .owl 0x054 s))
        else if un.ts ≤ d then owlItem o.unit rung false d o.elem (bump .owl 0x050 s)
        else s
  | _, _, _ => s

/-- OWL_CHECK_COMPLETE (04 R111 to R114). -/
def execOwlCheckComplete (u v : Nat) (s : State) : Res := .next (owlCheck u v s)

end Sys2Proof.Machine
end

