-- ==== Sys2Proof/Machine/Link.lean ====
section
/-! DEFINITION. Ngamor links: frames, sequence and replay, encryption, alternate paths, routes (11 R334 to R355). -/

namespace Sys2Proof.Machine

/-! Frames (Tables 11.1 and 11.2). -/

/-- Flits of a frame: header, body and trailer in 62-byte contents (R337, R338). -/
def flitsFor (body : Nat) : Nat := (8 + body + 12 + 61) / 62

/-- Bytes under the CRC: header, body, padding, trailer bytes 0 to 7 (R345). -/
def frameHead (f : LFrame) : List Byte :=
  natLE 1 f.ltype ++ natLE 1 (f.enc.toNat + 2 * f.noseq.toNat) ++ natLE 2 f.dst ++ natLE 2 f.src ++ natLE 1 f.ttl ++ natLE 1 f.len
def frameCovered (f : LFrame) : List Byte :=
  frameHead f ++ f.body ++ zeros (62 * f.len - 20 - f.body.length) ++ natLE 2 (f.lseq % 4096)
    ++ natLE 2 (f.ackseq % 4096 + 2 ^ 15 * f.ackv.toNat) ++ natLE 2 (f.freeseq % 4096 + 2 ^ 15 * f.freev.toNat) ++ zeros 2
def frameCrc (f : LFrame) : BitVec 32 := crc32 (frameCovered f)

/-- The class of a frame by its type (Table 11.3): a RED frame has that of its own type (10 R302), a TUNNEL that of its inner frame,
which starts its body. -/
def bulkClass (ltype : Nat) (body : List Byte) : Bool :=
  match ltype with
  | 1 => byteAt body 0 ∈ [1, 2, 3, 4, 5, 0x20]
  | 3 => true
  | 4 => byteAt body 0 = 3 || (byteAt body 0 = 1 && byteAt body 8 ∈ [1, 2, 3, 4, 5, 0x20])
  | _ => false

/-- The flits of a frame as it is sent (R337). -/
def frameFlits (bulk : Bool) (n : Nat) : List FlitHead :=
  (List.range n).map fun k => ⟨if bulk then .bulk else .control, k = 0, k + 1 = n⟩

/-- The bytes of a body of at most `n` that are no padding of its frame, which ends on a flit: a RED body is a multiple of 64 bytes (10
R302), a stage frame's 16 bytes and one (R362), a FAR frame's 18 (R358); encryption adds 24 (R346). -/
def bodyLen (ltype : Nat) (enc : Bool) (n : Nat) : Nat :=
  let x := if enc then 24 else 0
  match ltype with
  | 1 => (n - x) / 64 * 64 + x
  | 2 => min n (18 + x)
  | 3 => (n - x - 16) / 64 * 64 + 16 + x
  | _ => n

/-- A whole frame as bytes, as a TUNNEL carries it, and back. -/
def frameBytes (f : LFrame) : List Byte := frameCovered f ++ natLE 4 f.crc.toNat
def parseFrame (bs : List Byte) : LFrame :=
  let n := fieldLE bs 7 1
  let t := 62 * n - 12
  let body := ((bs.take t).drop 8).take (bodyLen (byteAt bs 0) ((byteAt bs 1).testBit 0) (t - 8))
  let bulk := bulkClass (byteAt bs 0) body
  { flits := if bs.length = 62 * n then frameFlits bulk n else [], fec := (0, 0), bulk := bulk
    ltype := byteAt bs 0, enc := (byteAt bs 1).testBit 0, noseq := (byteAt bs 1).testBit 1
    dst := fieldLE bs 2 2, src := fieldLE bs 4 2, ttl := byteAt bs 6, len := n, body := body
    lseq := fieldLE bs t 2 % 4096, ackv := (fieldLE bs (t + 2) 2).testBit 15, ackseq := fieldLE bs (t + 2) 2 % 4096
    freev := (fieldLE bs (t + 4) 2).testBit 15, freeseq := fieldLE bs (t + 4) 2 % 4096, crc := BitVec.ofNat 32 (fieldLE bs (t + 8) 4) }

/-- Is a frame whole and intact (R338, R343)? One that a codeword without correction touched fails its CRC (R345). -/
def frameOk (f : LFrame) : Bool :=
  !f.flits.isEmpty && f.fec.2 = 0 && 1 ≤ f.len && f.len ≤ 40 && f.body.length + 20 ≤ 62 * f.len && f.crc = frameCrc f

/-- A frame that the module originates. -/
def newFrame (ltype dst src : Nat) (noseq : Bool) (body : List Byte) : LFrame :=
  let n := flitsFor body.length
  let bulk := bulkClass ltype body
  ⟨frameFlits bulk n, (0, 0), bulk, ltype, false, noseq, dst, src, 8, n, body, 0, false, 0, false, 0, 0⟩

/-- DONE and PERM_DONE keep behind the bulk frames before them (R341). -/
def isFence (f : LFrame) : Bool := f.ltype = 1 && byteAt f.body 0 ∈ [0x12, 0x21]

/-! The module's own identity and its routes. -/

def epochNow (s : State) : Nat := fld (reg s .rdc 0x208).toNat 15 0
def peerW0 (s : State) (n : Nat) : Nat := (rget s.stepBank (peerW0Key n)).toNat
def peerW1 (s : State) (n : Nat) : Nat := (rget s.stepBank (peerW1Key n)).toNat
def peerSt (s : State) (n : Nat) : PeerSt := mget PeerSt.blank s.peers n
def setPeer (n : Nat) (x : PeerSt) (s : State) : State := { s with peers := mput PeerSt.blank n x s.peers }

/-- Indices of the peer entries that hold anything, in rising order. -/
def peerIdx (s : State) : List Nat :=
  (s.stepBank.filterMap fun e => if 0x200000000 ≤ e.1 && e.1 < 0x200000400 then some (e.1 - 0x200000000) else none)

/-- The peer entry of a module. -/
def peerOf (s : State) (d : Nat) : Option Nat := (peerIdx s).find? fun n => fld (peerW0 s n) 31 16 = d

/-- The port toward a module (R353). -/
def routePort (s : State) (d : Nat) : Option Die :=
  match (peerIdx s).find? fun n => fld (peerW0 s n) 31 16 = d && (peerW1 s n).testBit 31 with
  | none => none
  | some n =>
    let w := peerW1 s n
    if w.testBit 4 then (if (peerSt s n).nbr then some (Fin.ofNat 16 (peerSt s n).port) else none)
    else some (Fin.ofNat 16 (fld w 3 0))

/-- The module ID behind a member number. -/
def memberModule (s : State) (m : Nat) : Option Nat :=
  if m = fld (stepv s .rdc 0x20C).toNat 15 0 then some (ownId s)
  else ((peerIdx s).find? fun n => (peerW1 s n).testBit 31 && fld (peerW0 s n) 15 0 = m).map fun n => fld (peerW0 s n) 31 16

/-! Ports. -/

def lnkCfg (s : State) (p : Die) : Nat := (stepv s (.lnk p) 0x044).toNat
def altPort (s : State) (p : Die) : Option Die :=
  let w := lnkCfg s p
  if w.testBit 27 then some (Fin.ofNat 16 (fld w 31 28)) else none

/-- May a logical link send now, on its port or on its alternate path? -/
def pathUp (s : State) (p : Die) : Bool :=
  let l := linkSt s p
  if l.heldDown then false
  else if l.onAlt then
    !l.altDown && (match altPort s p with | some q => portActive s q && !(linkSt s q).onAlt | none => false)
  else portActive s p

/-- Non-idle flits of a port. -/
def countFlits (p : Die) (o n : Nat) (s : State) : State :=
  if pageFrz s (.lnk p) then s else setReg64 (.lnk p) o (min (reg64 s (.lnk p) o + n) (2 ^ 64 - 1)) s

/-! Sending. -/

/-- The trailer of a frame of link `p`: acknowledgements of the reverse direction, and the CRC (R342). -/
def withTrailer (l : LinkSt) (f : LFrame) : LFrame :=
  let f := { f with ackv := l.rxExp ≠ 0, ackseq := (l.rxExp + 4095) % 4096, freev := l.freed ≠ 0, freeseq := (l.freed + 4095) % 4096 }
  { f with crc := frameCrc f }

/-- A frame leaves on a port; PRT_LINK counts what it delays (16 R469). -/
def sendDirect (p : Die) (f : LFrame) (s : State) : State :=
  let w := reg s .dbg 0x054
  let s := if prtActs s 0x054 && (bitOf w 30 || fld w.toNat 27 24 = p.val) then prtEvent s else s
  let l := linkSt s p
  let s := setLink p { l with report := false } s
  emit (.frame p (withTrailer l f)) (countFlits p 0x07C f.len s)

/-- AES-256-GCM over the body of a new frame (R346): FCTR, ciphertext, tag. FCTR starts at 1 under a key (16 R463). None without a
key. -/
def encryptFrame (s : State) (p : Die) (f : LFrame) : Option LFrame :=
  if !s.isSealed then some f
  else (mfind s.linkKeys (2 * p.val)).map fun k =>
    let c := (linkSt s p).txCtr + 1
    let n := flitsFor (f.body.length + 24)
    let g := { f with enc := true, len := n, flits := frameFlits f.bulk n }
    { g with body := natLE 8 c ++ Config.gcmSeal k.salt k.key c (frameHead g ++ natLE 8 c) f.body }

/-- A stage frame enters the replay buffer: with the last one of a transfer SFS is signalled (R362). -/
def xferSent (f : LFrame) (s : State) : State :=
  match s.image with
  | none => s
  | some i =>
    if f.ltype ≠ 3 || f.src ≠ ownId s then s
    else match i.stagesT.find? fun e => memberModule s e.dmemb = some f.dst && e.dreg = fieldLE f.body 0 2
        && e.size ≤ fieldLE f.body 8 8 + (f.body.length - 16) with
      | none => s
      | some e => farSignal (Fin.ofNat 16 (e.sfs / 16)) (Fin.ofNat 16 e.sfs) (ownId s)
          (((regionOf i e.sreg).map fun r => r.owner.val).getD 0) s

/-- The queued frame that is sent next: a TUNNEL frame is never tunnelled again, so on the alternate path the link keeps those back, and
with one among the frames not acknowledged, whose LSEQ comes first, it sends no other (R348). -/
def nextOut (l : LinkSt) : Option LFrame :=
  if !l.onAlt then l.queue.head?
  else if l.unacked.any fun f => f.ltype = 4 then none
  else l.queue.find? fun f => f.ltype ≠ 4

/-- Give a frame its LSEQ, encrypt it and keep it until it is acknowledged; none while the window is shut (R342). -/
def takeSeq (p : Die) (s : State) : Option (LFrame × State) :=
  let l := linkSt s p
  match nextOut l with
  | none => none
  | some f =>
    if l.freeSeq + 64 ≤ l.txSeq then none
    else (encryptFrame s p f).map fun g =>
      let g := { g with lseq := l.txSeq % 4096 }
      (g, xferSent f <| setLink p { l with queue := l.queue.erase f, txSeq := l.txSeq + 1, unacked := l.unacked ++ [g], txCtr := l.txCtr + g.enc.toNat } s)

/-- Send what a link's own port may send. -/
def pumpDirect (p : Die) : Nat → State → State
  | 0, s => s
  | k + 1, s =>
    if !portActive s p || (linkSt s p).onAlt || (linkSt s p).heldDown then s
    else match takeSeq p s with
      | some (f, s) => pumpDirect p k (sendDirect p f s)
      | none => s

/-- Rank of a frame in a send queue: control before bulk and forwarded before own (R341, R354). -/
def qRank (own : Nat) (f : LFrame) : Nat := (if f.bulk || isFence f then 2 else 0) + (if f.src = own then 1 else 0)

/-- Where a frame goes in a send queue: behind frames of its rank, a fence behind every bulk frame toward its destination (R341). Own
sources are served round robin (R354): it goes before the frames of another source that has more of them in front. The sources are the
units that make the types of frames (DESIGN CHOICE). `k`: frames of its source and rank in the queue; `seen`: types of those of its rank
in front. -/
def qPut (own : Nat) (f : LFrame) (k : Nat) : List Nat → List LFrame → List LFrame
  | _, [] => [f]
  | seen, g :: r =>
    let same := qRank own g = qRank own f
    let yields := same && f.src = own && g.ltype ≠ f.ltype && k < seen.count g.ltype &&
      !r.any fun x => qRank own x = qRank own f && x.ltype = f.ltype
    if (qRank own g ≤ qRank own f && !yields) || (isFence f && (g :: r).any fun x => x.bulk && x.dst = f.dst) then
      g :: qPut own f k (if same then g.ltype :: seen else seen) r
    else f :: g :: r

def qInsert (own : Nat) (f : LFrame) (l : List LFrame) : List LFrame :=
  qPut own f (l.countP fun g => qRank own g = qRank own f && g.ltype = f.ltype) [] l

/-- Queue a frame on a link. -/
def enqueue (p : Die) (f : LFrame) (s : State) : State :=
  let l := linkSt s p
  setLink p { l with queue := qInsert (ownId s) f l.queue } s

/-- Send a frame of link `p` on its present path: in a TUNNEL on the alternate port, or on its own port (R348). -/
def sendOn (p : Die) (f : LFrame) (s : State) : State :=
  let l := linkSt s p
  if !l.onAlt then sendDirect p f s
  else match altPort s p with
    | none => s
    | some q =>
      let g := withTrailer l f
      let s := setLink p { l with report := false } s
      let t := newFrame 4 l.far (ownId s) false (frameBytes g)
      let t := { t with bulk := g.bulk, flits := frameFlits g.bulk t.len }
      let s := enqueue q t s
      pumpDirect q (linkSt s q).queue.length s

/-- Send queued frames while the path is up and the window open. -/
def pumpAux (p : Die) : Nat → State → State
  | 0, s => s
  | k + 1, s =>
    if !pathUp s p then s
    else match takeSeq p s with
      | some (f, s) => pumpAux p k (sendOn p f s)
      | none => s
def pump (p : Die) (s : State) : State := pumpAux p (linkSt s p).queue.length s

/-- A frame toward a module: to its route's port, or discarded (R353). `at_` is the die whose page counts it; it crosses the ring, if that
still joins the two (15 R444). -/
def sendTo (at_ : Die) (f : LFrame) (s : State) : State :=
  match routePort s f.dst with
  | none => bump (.lnk at_) 0x070 s
  | some p =>
    if !portFitted s.code p then bump (.lnk at_) 0x070 s
    else if !ringReach s at_ p then s
    else pump p (enqueue p f s)

/-! Replay and failover. -/

/-- The frames that a replay from index `k` sends: on the alternate path none from a TUNNEL frame on (R348). -/
def replayed (l : LinkSt) (k : Nat) : List LFrame :=
  if l.onAlt then if (l.unacked.take k).any fun f => f.ltype = 4 then [] else (l.unacked.drop k).takeWhile fun f => f.ltype ≠ 4
  else l.unacked.drop k

/-- Send the unacknowledged frames again from index `k` (R343, R344). -/
def replayFrom (p : Die) (k : Nat) (s : State) : State :=
  if !pathUp s p then s else pump p (forAll (replayed (linkSt s p) k) (fun f s => sendOn p f s) s)

/-- The LINK ledger item (17 Table 17.15). -/
def linkItem (p : Die) (kind : Nat) (s : State) : State :=
  ledgerItem 0x000B (natLE 1 p.val ++ natLE 1 kind ++ natLE 2 (linkSt s p).far ++ zeros 28) s

/-- The current path of a logical link is down (R336, R344, R348, R349); a link that is held down does not fail over (R347). -/
def pathDown (p : Die) (s : State) : State :=
  let l := linkSt s p
  if l.heldDown then s
  else if l.onAlt then setLnkState p 5 (setLink p { l with altDown := true } s)
  else if (altPort s p).isNone then setErr (.lnk p) 2 s
  else
    let s := setLnkState p 4 (setLink p { l with onAlt := true, altDown := false, replays := 0 } s)
    replayFrom p 0 (linkItem p 0 (setErr (.lnk p) 1 (bump (.lnk p) 0x068 s)))

/-- A port is down: its link moves, and links that use it as their alternate path lose that (R348). -/
def portLost (p : Die) (s : State) : State :=
  let l := linkSt s p
  let s := setLnkState p 5 (setReg (.lnk p) 0x040 0 (setLink p { l with portUp := false, upAll := false, nbrIv := 0, openB := none, openC := none } s))
  let s := if l.onAlt then setLnkState p (if l.altDown then 5 else 4) s else pathDown p s
  forAll (dies.filter fun q => (linkSt s q).onAlt && altPort s q = some p) (fun q s => pathDown q s) s

/-- A port or lane fails (R336): a link fault, which changes nothing else of the module (15 Table 15.1, R450). -/
def linkFault (p : Die) (s : State) : State := portLost p (uncodedFault 5 (setErr (.lnk p) 0 s))

/-- Four replays in a row without progress: the present path is down, as for a port failure (R344). -/
def pathFails (p : Die) (s : State) : State :=
  let s := setLink p { linkSt s p with replays := 0 } s
  if (linkSt s p).onAlt then pathDown p (uncodedFault 5 s) else linkFault p s

/-- PORT_DOWN (11 R336). -/
def execPortDown (p : Die) (s : State) : Res :=
  .next (if !powered s || !(linkSt s p).portUp then s else linkFault p s)

/-- HELLO body (R351); the job ID is the one that the latest LOAD latched (12 R366). -/
def helloBody (s : State) (p : Die) : List Byte :=
  natLE 2 (ownId s) ++ natLE 1 p.val ++
    natLE 1 ((sjuFitted s.code).toNat + 2 * s.isSealed.toNat + 4 * (linkSt s p).onAlt.toNat) ++ natLE 2 (epochNow s)
    ++ natLE 1 (fld (lnkCfg s p) 15 8) ++ zeros 1 ++ natLE 8 s.keyJob

def sendHello (p : Die) (s : State) : State := sendDirect p (newFrame 8 (linkSt s p).far (ownId s) true (helloBody s p)) s

/-- PORT_TRAINED (11 R336): a fitted, enabled port reaches Up and sends a HELLO at once (R351); after an input or thermal trip the
ports are off (14 Table 14.7). -/
def execPortTrained (p : Die) (pmd : Nat) (s : State) : Res :=
  .next (if !powered s || s.tripLatched || !portFitted s.code p || !pageEn s (.lnk p) || (linkSt s p).portUp || (mget Cage.blank s.cages p.val).held then s
    else
      let s := setLink p { linkSt s p with portUp := true, nbrIv := 0, conflict := false } s
      let st := if (linkSt s p).onAlt && !(linkSt s p).altDown then 4 else 2
      sendHello p (setReg (.lnk p) 0x040 (w32 (st + 2 ^ 8 * 15 + 2 ^ 16 * (pmd % 256))) s))

/-- HELLO_TIMER (11 R351). -/
def execHelloTimer (p : Die) (s : State) : Res :=
  .next (if powered s && (linkSt s p).portUp then sendHello p s else s)

/-- Clear a port's neighbour entry (R351, 14 R423). -/
def clearNbr (p : Die) (s : State) : State :=
  let id := fld (reg s (.lnk p) 0x048).toNat 31 16
  let s := setReg (.lnk p) 0x048 0 (setLink p { linkSt s p with nbrIv := 0 } s)
  match peerOf s id with
  | none => s
  | some n =>
    let others := dies.filter fun q => q ≠ p && fld (reg s (.lnk q) 0x048).toNat 31 16 = id && (linkSt s q).nbrIv ≠ 0
    match others with
    | q :: _ => setPeer n { peerSt s n with port := q.val } s
    | [] => setPeer n { peerSt s n with nbr := false, port := 0 } s

/-- NEIGHBOUR_TIMEOUT (11 R351): the neighbour's entry goes, also that of a port gone down since; the port leaves Active. -/
def execNeighbourTimeout (p : Die) (s : State) : Res :=
  .next (if !powered s || ((linkSt s p).nbrIv = 0 && fld (reg s (.lnk p) 0x048).toNat 31 16 = 0) then s
    else
      let s := setErr (.lnk p) 5 (clearNbr p s)
      if (linkSt s p).onAlt || !(linkSt s p).portUp then s else setLnkState p 2 s)

/-- PORT_RESET (14 R423, Table 14.4): the port retrains; its link keeps its sequence, buffers and keys. -/
def portReset (p : Die) (s : State) : State :=
  if s.busy.isSome then midRefuse 0x0B 2 s
  else if !portFitted s.code p then midRefuse 0x0B 8 s
  else
    let s := if (linkSt s p).portUp then portLost p s else s
    let s := clearNbr p s
    let s := if (linkSt s p).onAlt then s else setLnkState p (if pageEn s (.lnk p) && !s.tripLatched then 1 else 0) s
    midDone 0x0B 0 s

/-- PORT_RESET (14 R423). -/
def execPortReset (rq : Req) (p : Die) (s : State) : Res := .next (barWrite rq (portReset p) s)

/-! Timers of a link. -/

/-- ACK_TIMER (11 R342). -/
def execAckTimer (p : Die) (s : State) : Res :=
  .next (if powered s && (linkSt s p).report && pathUp s p then sendOn p (newFrame 0x0A (linkSt s p).far (ownId s) true []) s else s)

/-- A replay after a timeout; four in a row with no progress take the path down (R344). -/
def replayTimeout (p : Die) (s : State) : State :=
  let l := linkSt s p
  if !powered s || l.unacked.isEmpty || !pathUp s p then s
  else if 4 ≤ l.replays then pathFails p s
  else replayFrom p 0 (bump (.lnk p) 0x05C (setLink p { l with replays := l.replays + 1 } s))

/-- REPLAY_TIMEOUT (11 R344). -/
def execReplayTimeout (p : Die) (s : State) : Res := .next (replayTimeout p s)

/-! The cages (19 R541). -/

/-- Low-power mode: LNK_STS reads as for an empty cage. -/
def holdCage (p : Die) (s : State) : State :=
  let c := mget Cage.blank s.cages p.val
  let s := { s with cages := mput Cage.blank p.val { c with held := true } s.cages }
  let s := if (linkSt s p).portUp then linkFault p s else s
  setReg (.lnk p) 0x040 0 s

/-- PLUGGABLE_INSERT (19 R541). -/
def execPluggableInsert (p : Die) (watts : Nat) (s : State) : Res :=
  .next (if !portFitted s.code p || (mget Cage.blank s.cages p.val).plugged then s
    else
      let s := { s with cages := mput Cage.blank p.val ⟨true, watts, false⟩ s.cages }
      if !powered s then s
      else if 25 < watts then holdCage p s
      else if pageEn s (.lnk p) && !s.tripLatched then setLnkState p 1 s else s)

/-- PLUGGABLE_REMOVE (19 R541): its port goes down. -/
def execPluggableRemove (p : Die) (s : State) : Res :=
  .next (if !portFitted s.code p then s
    else
      let s := { s with cages := mput Cage.blank p.val Cage.blank s.cages }
      if powered s && (linkSt s p).portUp then linkFault p s
      else if powered s then setReg (.lnk p) 0x040 0 s else s)

/-- CMIS_TIMEOUT (19 R541). -/
def execCmisTimeout (p : Die) (s : State) : Res :=
  .next (if !powered s || !portFitted s.code p || !(mget Cage.blank s.cages p.val).plugged then s else holdCage p s)

/-! At a step boundary (R350). -/

/-- A link returns to its own port if that was Up for the whole step. -/
def linkReturn (s : State) : State :=
  forAll (fittedPorts s.code) (fun p s =>
    let l := linkSt s p
    let s := if l.onAlt && l.portUp && l.upAll then
        let s := setLnkState p (if portActive s p then 3 else 2) (setLink p { l with onAlt := false, altDown := false } s)
        replayFrom p 0 (linkItem p 1 s)
      else s
    setLink p { linkSt s p with upAll := (linkSt s p).portUp } s) s

end Sys2Proof.Machine
end

