-- ==== Sys2Proof/Machine/Reduce.lean ====
section
/-! DEFINITION. Gradient reduction (chapter 10): blocks and residues, the roles a plan gives the module, sums, re-sends,
widening, deadlines and backups, completion, and the parameter return. -/

namespace Sys2Proof.Machine

/-! Blocks (R293 to R299). -/

/-- The residue of a block's lanes (R296). -/
def residue (l : List Int) : Nat := (l.foldl (· + ·) 0 % 255).toNat

/-- Bound of a lane: GW8 or GW16, contribution or partial (R294). -/
def laneBound (wide part : Bool) : Nat :=
  match wide, part with | false, false => 127 | true, false => 32767 | false, true => 32512 | true, true => 8388352

/-- The checks on a block's lanes, exponent and residue (R294, R297). -/
def blockGood (wide part : Bool) (g : GBlock) : Bool :=
  g.lanes.length = 32 && (g.lanes.all fun x => x.natAbs ≤ laneBound wide part) && g.x ≤ 0xF5 && g.r = residue g.lanes

/-- Lane-by-lane sum. -/
def addLanes (a b : List Int) : List Int := (a.zip b).map fun p => p.1 + p.2

/-- The largest contribution lane magnitude of a block: PMAX of a partial. -/
def blockMax (part : Bool) (g : GBlock) : Nat := if part then g.pmax else g.lanes.foldl (fun a x => max a x.natAbs) 0

/-- Add a block into an entry; the first initialises it (R309). The residue is the sum of the residues, which the new lanes must
have (R297). -/
def addEntry (part : Bool) (e : Option SumEnt) (g : GBlock) : SumEnt :=
  match e with
  | none => ⟨g.lanes, g.x, g.r, blockMax part g, 0⟩
  | some e => ⟨addLanes e.lanes g.lanes, e.x, (e.r + g.r) % 255, max e.p (blockMax part g), 0⟩

/-- The next agreed exponent (R321). -/
def nextX (wide : Bool) (h p x : Nat) : Nat :=
  let t : Int := if p = 0 then 0 else
    133 + ceilLog2 p ((x : Int) - (if wide then 141 else 133) + h) 127 0
  (iclamp 0 0xF5 (max t ((x : Int) - 1))).toNat

/-! The plan's roles. -/

def chanOf (p : Plan) (c : Nat) : Option Chan := p.chans.find? fun x => x.num = c
def redOf (p : Plan) (c r : Nat) : Option Redn := p.reds.find? fun x => x.chan = c && x.rseq = r
def sharesOf (p : Plan) (ch : Chan) : List Share := (p.shares.drop ch.shFirst).take ch.nsh
def redKey (c r : Nat) : Nat := 65536 * c + r
def redSt (s : State) (k : Nat) : RedSt := mget RedSt.blank s.rdc.reds k
def setRed (k : Nat) (x : RedSt) (s : State) : State := { s with rdc := { s.rdc with reds := mput RedSt.blank k x s.rdc.reds } }
def chanSt (s : State) (c : Nat) : ChanSt := mget default s.rdc.chans c
def setChan (c : Nat) (x : ChanSt) (s : State) : State := { s with rdc := { s.rdc with chans := mput default c x s.rdc.chans } }

/-- The members as which a module adds a channel's shares: the home (for the home and the shadow home), itself as an interior
member, and the interior members it shadows (R309, R318, R326). -/
def rolesOf (ch : Chan) (sh : List Share) (m : Nat) : List Nat :=
  ((if m = ch.home || (ch.shadowed && m = ch.shome) then [ch.home] else []) ++
    (if m ≠ ch.home && sh.any fun x => x.parent = m then [m] else []) ++
    ((sh.filter fun x => x.pshadow = m && x.parent ≠ ch.home).map (·.parent))).dedup

/-- Shares an adder takes: those whose PARENT it is, and its own. -/
def takesOf (sh : List Share) (role : Nat) : List Share := sh.filter fun x => x.parent = role || x.primary = role

/-- Does a share reach an adder as the partial of an interior member? -/
def isPartial (sh : List Share) (role : Nat) (x : Share) : Bool :=
  x.primary ≠ role && sh.any fun y => y.parent = x.primary && y.share ≠ x.share

/-- The role in which a module takes a share's contributions, or its partials. -/
def frameRole (ch : Chan) (sh : List Share) (m : Nat) (part : Bool) (share : Nat) : Option Nat :=
  (rolesOf ch sh m).find? fun role => (takesOf sh role).any fun x => x.share = share && isPartial sh role x = part

/-- Members that send a share's backup copy to an adder, BACKUP0 first (R314, R318). -/
def backupsOf (sh : List Share) (role : Nat) (x : Share) : List Nat :=
  (if isPartial sh role x then (sh.filter fun y => y.parent = x.primary).map (·.pshadow) else [x.backup0, x.backup1]).dedup.filter
    (· ≠ 0xFFFF)

/-- The shares that the module computes, and whether as a backup: its own first. The plan does not say which gradient is which
share's: the k-th gradient block of a home block in a step is the k-th share's (DESIGN CHOICE). -/
def mySharesOf (sh : List Share) (m : Nat) : List (Share × Bool) :=
  ((sh.filter fun x => x.primary = m).map fun x => (x, false)) ++
    ((sh.filter fun x => x.primary ≠ m && (x.backup0 = m || x.backup1 = m)).map fun x => (x, true))

/-- Members to which a share's contributions go: its adder, which an interior member is for its own share, and the adder's shadow
(R318, R326; a backup sends to where the primary does: DEDUCED). -/
def contribTo (ch : Chan) (sh : List Share) (x : Share) : List Nat :=
  let home : List Nat := ch.home :: (if ch.shadowed then [ch.shome] else [])
  (if x.primary ≠ ch.home && sh.any fun y => y.parent = x.primary then
    x.primary :: (sh.filter fun y => y.parent = x.primary).map (·.pshadow)
   else if x.parent = ch.home then home else [x.parent, x.pshadow]).filter (· ≠ 0xFFFF) |>.dedup

/-- Members to which a partial goes. -/
def partialTo (ch : Chan) (x : Share) : List Nat :=
  ((if x.parent = ch.home then ch.home :: (if ch.shadowed then [ch.shome] else []) else [x.parent, x.pshadow]).filter (· ≠ 0xFFFF)).dedup

/-- Senders whose frames an adder takes. -/
def sendersOf (sh : List Share) (role : Nat) : List Nat :=
  ((takesOf sh role).map fun x => x.primary :: backupsOf sh role x).flatten.dedup

/-- What the module holds of a reduction as one adder. -/
def addSt (s : State) (k role : Nat) : AddSt := mget AddSt.blank (redSt s k).adds role
def setAdd (k role : Nat) (a : AddSt) (s : State) : State :=
  setRed k { redSt s k with adds := mput AddSt.blank role a (redSt s k).adds } s

/-- The agreed exponent of a home block in a generation (R277). -/
def agreedX (s : State) (r : Redn) (b gen : Nat) : Nat :=
  match s.image with
  | some i => match regionOf i r.expreg with
    | some g => leNat (regionRead s g gen (r.tblk0 + b - r.blk0) 1)
    | none => 0
  | none => 0

/-- The die whose engine holds a home block (09 R240): 4,096 blocks to a group. -/
def blockDie (s : State) (b : Nat) : Die := groupDie (placeNow s) (b / 4096)

/-! Frames leave. -/

def redHeader (s : State) (typ : Nat) (rn : Redn) (share : Nat) : RFrame :=
  { typ := typ, backup := false, ovf := false, poison := false, resent := false, last := false, takeover := false
    chan := rn.chan, rseq := rn.rseq, layer := rn.layer, blk0 := rn.blk0, nblk := 0, share := share, src := selfM s
    epoch := epochNow s, step := stepNo s % 2 ^ 32, cscale := 0, blocks := [], params := [], words := [] }

/-- Bytes of a lane in a frame: B34, B66, B98 (Table 10.1). -/
def laneBytes (typ : Nat) : Nat := match typ with | 1 => 1 | 4 => 3 | _ => 2

/-- Zero bytes up to a multiple of 64 (R302). -/
def pad64 (b : List Byte) : List Byte := b ++ zeros ((64 - b.length % 64) % 64)

/-- A reduction frame as bytes (Tables 10.7, 10.8), padded. -/
def frameBody (f : RFrame) : List Byte :=
  let n := laneBytes f.typ
  let flags := f.backup.toNat + 2 * f.ovf.toNat + 4 * f.poison.toNat + 8 * f.resent.toNat + 16 * f.last.toNat + 32 * f.takeover.toNat
  pad64 (natLE 1 f.typ ++ natLE 1 flags ++ natLE 2 f.chan ++ natLE 2 f.rseq ++ natLE 2 f.layer ++ natLE 4 f.blk0 ++ natLE 2 f.nblk
    ++ natLE 2 f.share ++ natLE 2 f.src ++ natLE 2 f.epoch ++ natLE 4 f.step ++ natLE 4 f.cscale.toNat ++ zeros 4
    ++ (f.blocks.map fun g => (g.lanes.map fun x => natLE n (unsgn (8 * n) x)).flatten ++ natLE 1 g.x ++ natLE 1 g.r).flatten
    ++ (if f.typ = 3 then (f.blocks.map fun g => natLE 1 g.pmax).flatten else if f.typ = 4 then
        (f.blocks.map fun g => natLE 2 g.pmax).flatten else [])
    ++ (f.params.map fun e => e.codes ++ natLE 1 e.xNext ++ e.scales).flatten ++ (f.words.map fun w => natLE 4 w.toNat).flatten)

/-- A block from its bytes, lanes of `n` bytes (Table 10.1). -/
def blockAt (n : Nat) (q : List Byte) : GBlock :=
  { lanes := (List.range 32).map fun i => sgn (8 * n) (fieldLE q (n * i) n), x := byteAt q (32 * n), r := byteAt q (32 * n + 1)
    pmax := 0 }

/-- Bytes back to a frame, of which the padding is no part. `par`: bytes of codes and of exponents of a parameter entry; `per`: words of
a permute's block. -/
def parseRed (par : Nat × Nat) (per : Nat) (b : List Byte) : RFrame :=
  let typ := byteAt b 0
  let fl := byteAt b 1
  let n := laneBytes typ
  let nblk := fieldLE b 12 2
  let p := b.drop 32
  let size := 32 * n + 2
  let blocks := if 1 ≤ typ && typ ≤ 4 then (List.range nblk).map fun k =>
      { blockAt n ((p.drop (k * size)).take size) with
        pmax := if typ = 3 then byteAt p (nblk * size + k) else if typ = 4 then fieldLE p (nblk * size + 2 * k) 2 else 0 }
    else []
  let es := par.1 + 1 + par.2
  let params := if typ = 5 then (List.range nblk).map fun k =>
      let q := (p.drop (k * es)).take es
      (⟨q.take par.1, byteAt q par.1, q.drop (par.1 + 1)⟩ : PEntry) else []
  let words := if typ = 0x20 then (List.range (min (p.length / 4) (nblk * per))).map fun k => w32 (fieldLE p (4 * k) 4) else []
  { typ := typ, backup := fl.testBit 0, ovf := fl.testBit 1, poison := fl.testBit 2, resent := fl.testBit 3, last := fl.testBit 4
    takeover := fl.testBit 5, chan := fieldLE b 2 2, rseq := fieldLE b 4 2, layer := fieldLE b 6 2, blk0 := fieldLE b 8 4
    nblk := nblk, share := fieldLE b 14 2, src := fieldLE b 16 2, epoch := fieldLE b 18 2, step := fieldLE b 20 4
    cscale := w32 (fieldLE b 24 4), blocks := blocks, params := params, words := words }

/-- Does PRT_LATE act on a channel (16 R469)? -/
def prtLate (s : State) (c : Nat) : Bool := prtActs s 0x06C && fld (reg s .dbg 0x06C).toNat 15 0 = c

/-- A frame to a member, by its module's route; PRT_LATE with WITHHOLD keeps the module's own frames back. -/
def sendRed (m : Nat) (f : RFrame) (s : State) : State :=
  let s' := if prtLate s f.chan then prtEvent s else s
  if prtLate s f.chan && bitOf (reg s .dbg 0x06C) 30 then s'
  else match memberModule s m with
    | none => s'
    | some d => if d = ownId s then s' else sendTo (blockDie s f.blk0) (newFrame 1 d (ownId s) false (frameBody f)) s'

def sendAll (ms : List Nat) (f : RFrame) (s : State) : State := forAll (ms.filter fun m => m ≠ selfM s) (fun m => sendRed m f) s

/-- The REDUCE ledger item (17 Table 17.15). -/
def reduceItem (kind detail : Nat) (rn : Redn) (a b blk : Nat) (s : State) : State :=
  ledgerItem 0x0006 (natLE 1 kind ++ natLE 1 detail ++ natLE 2 rn.chan ++ natLE 2 rn.rseq ++ natLE 2 rn.layer ++ natLE 2 a
    ++ natLE 2 b ++ natLE 4 blk ++ zeros 16) s

/-- A sequence mismatch (R306): the frame is gone, and its channel stopped where the plan has it. -/
def mismatch (kind : Nat) (f : RFrame) (s : State) : State :=
  let s := setReg .rdc 0x064 (w32 f.chan) (setReg .rdc 0x060 (w32 (kind * 2 ^ 28 + f.rseq % 2 ^ 16)) (setErr .rdc 1 (bump .rdc 0x05C s)))
  let s := if s.rdc.plan.any fun p => (chanOf p f.chan).isSome then setChan f.chan { chanSt s f.chan with stopped := true } s else s
  reduceItem 8 kind ⟨f.chan, f.rseq, f.layer, false, 0, 0, 0, 0, 0, 0⟩ f.src f.share f.blk0 s

/-! What the module computed itself: retained contributions (R310, R312). -/

/-- A GW8 block with each lane × 256 (R312). -/
def times256 (g : GBlock) : GBlock := let l := g.lanes.map (· * 256); ⟨l, g.x, residue l, 0⟩

/-- Where the form of a retained block in a width lies in HBM, with its bytes; none where no store holds it. -/
def keptAt (s : State) (wide : Bool) (k : Kept) : Option (Region × Nat × Nat) :=
  let of (p : Option (Nat × Nat)) (n : Nat) : Option (Region × Nat × Nat) :=
    p.bind fun p => (s.image.bind fun i => regionOf i p.1).map fun r => (r, p.2, n)
  if wide && (k.place16.isSome || k.b16.isSome) then of k.place16 66 else of k.place 34

/-- The form of a retained block in the reduction's present width (R312), as its place in HBM holds it: the GW16 form it has, else
each lane of the GW8 form × 256. -/
def keptForm (s : State) (wide : Bool) (k : Kept) : GBlock :=
  let has16 := k.place16.isSome || k.b16.isSome
  let held : GBlock := match keptAt s wide k with
    | some z => blockAt (if z.2.2 = 66 then 2 else 1) (regionRead s z.1 0 z.2.1 z.2.2)
    | none => if wide then k.b16.getD k.b8 else k.b8
  if wide && !has16 then times256 held else held

/-- Does a retained block read poisoned from its place in HBM (09 R271)? -/
def keptPoison (s : State) (wide : Bool) (q : Kept) : Bool :=
  match keptAt s wide q with
  | none => false
  | some z => regionPoisoned s z.1 0 z.2.1 z.2.2

/-- The read of a retained block from HBM (09 R270, R291). -/
def touchKept (wide : Bool) (q : Kept) (s : State) : State :=
  match keptAt s wide q with
  | none => s
  | some z => regionTouch z.1 0 z.2.1 z.2.2 s

/-- A retained block as it is sent: one that reads poisoned is marked (09 Table 9.4, 15 R443). -/
def asSent (s : State) (wide : Bool) (q : Kept) : GBlock :=
  let g := keptForm s wide q
  if keptPoison s wide q then { g with r := 0xFF } else g

/-- Cut a list of consecutive blocks into frames of at most `n` that stay in one group (R302, R303). -/
def framesOf (n : Nat) : List (Nat × GBlock) → List (List (Nat × GBlock))
  | [] => []
  | x :: r =>
    match framesOf n r with
    | (y :: t) :: fs => if y.1 = x.1 + 1 && y.1 / 4096 = x.1 / 4096 && t.length + 2 ≤ n then (x :: y :: t) :: fs else [x] :: (y :: t) :: fs
    | fs => [x] :: fs

/-- PRT_RES spoils the residue of the next blocks sent on its channel (16 R469). -/
def prtRes (c : Nat) (g : GBlock) (s : State) : GBlock × State :=
  let w := reg s .dbg 0x068
  if prtActs s 0x068 && fld w.toNat 15 0 = c && fld w.toNat 23 16 ≠ 0 then
    ({ g with r := (g.r + 1) % 255 }, prtUse 0x068 23 s)
  else (g, s)

def prtResAll (c : Nat) (l : List (Nat × GBlock)) (s : State) : List (Nat × GBlock) × State :=
  l.foldl (fun a x => let r := prtRes c x.2 a.2; (a.1 ++ [(x.1, r.1)], r.2)) ([], s)

/-! Taking blocks at an adder. -/

def takeKey (share b : Nat) : Nat := 2 ^ 32 * share + b
def nextKey (share src : Nat) (backup : Bool) : Nat := 2 ^ 17 * share + 2 * src + backup.toNat

/-- Blocks of a share that have been taken. -/
def takenOf (x : AddSt) (share : Nat) : Nat := (x.taken.filter fun e => e.1 / 2 ^ 32 = share).length
def shareDone (x : AddSt) (rn : Redn) (share : Nat) : Bool := share ∈ x.omitted || rn.nblk ≤ takenOf x share

/-- HOLD_USED of the die that holds a block. -/
def holdCount (b : Nat) (up : Bool) (s : State) : State :=
  let d := blockDie s b
  let n := (reg s (.red d) 0x05C).toNat
  setReg (.red d) 0x05C (w32 (if up then n + 1 else n - 1)) s

/-- A backup's copy is compared with the block taken (R314): a difference in lanes or X counts and is logged. -/
def compareCopy (rn : Redn) (x : Share) (bk b : Nat) (a g : GBlock) (s : State) : State :=
  if a.lanes = g.lanes && a.x = g.x then s
  else reduceItem 5 0 rn x.primary bk b (setErr .rdc 3 (bump .rdc 0x068 s))

/-- A share is substituted, once (R299, R316): counted and logged with its primary, its backup and the first block taken. -/
def substitute (rn : Redn) (role : Nat) (x : Share) (bk b : Nat) (s : State) : State :=
  let k := redKey rn.chan rn.rseq
  let a := addSt s k role
  if x.share ∈ a.subst then s
  else reduceItem 1 0 rn x.primary bk b (bump .rdc 0x050 (setAdd k role { a with subst := a.subst ++ [x.share] } s))

/-- Discard an adder's sums and held blocks of a reduction and start it again at block `BLK0` (R298, R311); a share that the host has
omitted stays omitted (01 R30). -/
def restartRed (rn : Redn) (role : Nat) (s : State) : State :=
  let k := redKey rn.chan rn.rseq
  let a := addSt s k role
  let s := a.held.foldl (fun s e => e.2.foldl (fun s _ => holdCount (e.1 % 2 ^ 32) false s) s) s
  setAdd k role { AddSt.blank with fails := a.fails, omitted := a.omitted } s

/-- What an adder does with a block that failed its checks, or was poisoned with no backup to wait for: RESEND to every
sender, or the channel stopped at the fourth failure of a step (R298). `check`: 1 residue, 2 exponent, 3 adder. -/
def resendRed (sh : List Share) (role : Nat) (rn : Redn) (check : Nat) (s : State) : State :=
  let k := redKey rn.chan rn.rseq
  let n := (addSt s k role).fails + 1
  let s := restartRed rn role s
  let s := setAdd k role { addSt s k role with fails := n, tE := some s.now } s
  if 4 ≤ n then setErr .rdc 2 (setChan rn.chan { chanSt s rn.chan with stopped := true } s)
  else
    let s := reduceItem 2 check rn (selfM s) 0xFFFF rn.blk0 (bump .rdc 0x054 s)
    sendAll (sendersOf sh role) { redHeader s 0x11 rn 0xFFFF with share := 0xFFFF } s

/-- The second or the third check fails at a block (R297). -/
def addFails (sh : List Share) (role : Nat) (rn : Redn) (b : Nat) (s : State) : State :=
  let d := blockDie s b
  resendRed sh role rn 3 (setErr (.red d) 2 (bump (.red d) 0x04C s))

/-- Add a block into its sum-area entry; false when the second check of R297 fails. -/
def addBlock (sh : List Share) (role : Nat) (rn : Redn) (part : Bool) (x : Share) (src b : Nat) (g : GBlock) (s : State) :
    State × Bool :=
  let k := redKey rn.chan rn.rseq
  let a := addSt s k role
  let e := addEntry part (mfind a.sums b) g
  let s := bump (.red (blockDie s b)) 0x040 s
  if e.r ≠ residue e.lanes then (addFails sh role rn b s, false)
  else (setAdd k role { a with sums := minsert b e a.sums, taken := mput false (takeKey x.share b) true a.taken
                               prim := minsert (takeKey x.share b) (src, g) a.prim } s, true)

/-- The copies held of a block, in the order of the backups (R316). -/
def heldOf (sh : List Share) (role : Nat) (x : Share) (a : AddSt) (b : Nat) : List (Nat × GBlock) :=
  let l := mget [] a.held (takeKey x.share b)
  (backupsOf sh role x).filterMap fun m => l.find? fun e => e.1 = m

/-- Forget the copies held of a block. -/
def freeHeld (k role : Nat) (x : Share) (b : Nat) (s : State) : State :=
  let a := addSt s k role
  let l := mget [] a.held (takeKey x.share b)
  l.foldl (fun s _ => holdCount b false s) (setAdd k role { a with held := merase (takeKey x.share b) a.held } s)

/-- Take a held copy in place of the primary's block; a further copy is compared with it (R299, R316). -/
def takeHeld (sh : List Share) (role : Nat) (rn : Redn) (x : Share) (b : Nat) (s : State) : State × Bool :=
  let k := redKey rn.chan rn.rseq
  match heldOf sh role x (addSt s k role) b with
  | [] => (s, true)
  | (m, h) :: rest =>
    let s := rest.foldl (fun s e => compareCopy rn x e.1 b h e.2 s) (substitute rn role x m b (freeHeld k role x b s))
    addBlock sh role rn (isPartial sh role x) x m b h s

/-- One block of a share arrives at its adder; false when the reduction started over, so that the frame's other blocks are
gone (R297, R299, R314, R316). `mark`: its frame is marked poisoned and no block of it is. A copy that fails its checks after the
reduction is complete is counted and gone: its sums are in use (DESIGN CHOICE). -/
def takeBlock (sh : List Share) (role : Nat) (rn : Redn) (wide part backup mark : Bool) (x : Share) (src b : Nat) (g : GBlock)
    (s : State) : State × Bool :=
  let k := redKey rn.chan rn.rseq
  let a := addSt s k role
  let d := blockDie s b
  let key := takeKey x.share b
  let dead := mark || g.r = 0xFF
  let good := blockGood wide part g
  if x.share ∈ a.omitted then (s, true)
  else if dead || !good || g.x ≠ agreedX s rn b (stepNo s) then
    let s := setErr (.red d) 0 (bump (.red d) (if dead || !good then 0x044 else 0x048) s)
    if a.complete || (dead && !backup && mget false a.taken key) then (s, true)
    else if dead && !backup && !(backupsOf sh role x).isEmpty && !(a.past && (heldOf sh role x a b).isEmpty && !(x.share ∈ a.subst)) then
      if (heldOf sh role x a b).isEmpty then (setAdd k role { a with poisoned := mput false key true a.poisoned } s, true)
      else takeHeld sh role rn x b s
    else (resendRed sh role rn (if dead || !good then 1 else 2) s, false)
  else if mget false a.taken key then
    -- a later copy is compared and gone
    let s := match mfind a.prim key with
      | some p => compareCopy rn x (if backup then src else p.1) b p.2 g s
      | none => s
    (if x.share ∈ a.late then bump .rdc 0x06C s else s, true)
  else if !backup then
    let s := (heldOf sh role x a b).foldl (fun s e => compareCopy rn x e.1 b g e.2 s) (freeHeld k role x b s)
    addBlock sh role rn part x src b g s
  else if mget false a.poisoned key || (a.past && x.share ∈ a.late) then
    addBlock sh role rn part x src b g (substitute rn role x src b s)
  else
    let l := mget [] a.held key
    if l.any fun e => e.1 = src then (s, true)
    else (holdCount b true (setAdd k role { a with held := minsert key (l ++ [(src, g)]) a.held } s), true)

/-- The blocks of a frame, in order, until the reduction starts over. -/
def takeBlocks (sh : List Share) (role : Nat) (rn : Redn) (wide part backup mark : Bool) (x : Share) (src : Nat) :
    List (Nat × GBlock) → State → State
  | [], s => s
  | (b, g) :: rest, s =>
    let r := takeBlock sh role rn wide part backup mark x src b g s
    if r.2 then takeBlocks sh role rn wide part backup mark x src rest r.1 else r.1

/-! Sending what is retained. -/

/-- Consecutive retained blocks of a share from the next one to send. -/
def runFrom (l : List Kept) (share : Nat) : Nat → Nat → List Kept
  | 0, _ => []
  | n + 1, b => match l.find? fun k => k.share = share && k.blk = b with
    | some k => k :: runFrom l share n (b + 1)
    | none => []

/-- Largest number of blocks in a frame of a width (Table 10.8). -/
def maxBlocks (wide part : Bool) : Nat := match wide, part with | false, false => 64 | true, true => 21 | _, _ => 32

/-- Frames of consecutive blocks leave for members. -/
def sendBlocks (hdr : RFrame) (rn : Redn) (wide part : Bool) (dst : List Nat) (bl : List (Nat × GBlock)) (s : State) : State :=
  forAll (framesOf (maxBlocks wide part) bl) (fun f s =>
    let z : Nat := (f.headD (0, default)).1
    sendAll dst { hdr with blk0 := z, nblk := f.length, blocks := f.map (·.2), poison := f.any fun q => q.2.r = 0xFF
                           last := z + f.length = rn.blk0 + rn.nblk } s) s

/-- Frame type of blocks of a width. -/
def blockTyp (wide part : Bool) : Nat := match wide, part with | false, false => 1 | true, false => 2 | false, true => 3 | true, true => 4

/-- Has the module saturated a block of a reduction (Table 10.7)? -/
def ownSat (s : State) (k : Nat) : Bool := (mget [] s.rdc.kept k).any (·.sat)

/-- Send the retained blocks of a share that are next in order, to the members of `dst` (R302, R305). -/
def sendRun (rn : Redn) (x : Share) (backup : Bool) (dst : List Nat) (s : State) : State :=
  let k := redKey rn.chan rn.rseq
  let r := redSt s k
  let l := mget [] s.rdc.kept k
  let b0 := (mfind r.xnext x.share).getD rn.blk0
  let run := runFrom l x.share (rn.blk0 + rn.nblk - b0) b0
  if run.isEmpty then s
  else
    let s := setRed k { r with xnext := minsert x.share (b0 + run.length) r.xnext } s
    let dst := dst.filter (· ≠ selfM s)
    if dst.isEmpty then s
    else
      let s := forAll run (touchKept r.wide) s
      let blocks := prtResAll rn.chan (run.map fun q => (q.blk, asSent s r.wide q)) s
      let hdr := { redHeader blocks.2 (blockTyp r.wide false) rn x.share with backup := backup, ovf := ownSat s k, resent := r.resent }
      sendBlocks hdr rn r.wide false dst blocks.1 blocks.2

/-- Are all of a share's blocks of a reduction sent? -/
def sentAll (s : State) (rn : Redn) (share : Nat) : Bool :=
  (mfind (redSt s (redKey rn.chan rn.rseq)).xnext share).getD rn.blk0 = rn.blk0 + rn.nblk

/-- Send the contributions of one share in increasing RSEQ and block, as far as they are retained (R305). -/
def offerShare (ch : Chan) (sh : List Share) (x : Share) (backup : Bool) : List Redn → State → State
  | [], s => s
  | rn :: rest, s =>
    let s := sendRun rn x backup (contribTo ch sh x) s
    if sentAll s rn x.share then offerShare ch sh x backup rest s else s

/-- Send a channel's contributions, unless it is stopped or the step is voided (15 R433). -/
def offerChan (p : Plan) (ch : Chan) (s : State) : State :=
  if s.asq.voided || (chanSt s ch.num).stopped then s
  else forAll (mySharesOf (sharesOf p ch) (selfM s)) (fun x s => offerShare ch (sharesOf p ch) x.1 x.2 (redsOf p ch) s) s

/-- What the module adds itself it takes from what it retains (R26), over the ring while that joins the dies (15 R444). -/
def takeOwn (ch : Chan) (sh : List Share) (rn : Redn) (s : State) : State :=
  forAll (mySharesOf sh (selfM s)) (fun x s =>
    match frameRole ch sh (selfM s) false x.1.share with
    | none => s
    | some role =>
      let k := redKey rn.chan rn.rseq
      let r := redSt s k
      let a := addSt s k role
      let b0 := (mfind a.onext x.1.share).getD rn.blk0
      let e := (mfind r.xnext x.1.share).getD rn.blk0
      let run := (runFrom (mget [] s.rdc.kept k) x.1.share (e - b0) b0).takeWhile fun q => ringReach s q.die (blockDie s q.blk)
      if run.isEmpty || s.asq.voided || (chanSt s ch.num).stopped then s
      else
        let s := setAdd k role { a with onext := minsert x.1.share (b0 + run.length) a.onext } s
        let s := forAll run (touchKept r.wide) s
        takeBlocks sh role rn r.wide false x.2 false x.1 (selfM s) (run.map fun q => (q.blk, asSent s r.wide q)) s) s

/-! Partials of an interior member (R318). -/

/-- The share whose frames carry an interior member's partial. -/
def roleShare (sh : List Share) (role : Nat) : Option Share := sh.find? fun x => x.primary = role

/-- Home blocks whose every share has been taken, in order from `b`. -/
def partialRun (a : AddSt) (takes : List Share) : Nat → Nat → List Nat
  | 0, _ => []
  | n + 1, b => if takes.all fun x => x.share ∈ a.omitted || mget false a.taken (takeKey x.share b) then b :: partialRun a takes n (b + 1) else []

/-- The partial of a home block; one to which no share came is zero. -/
def partialOf (s : State) (rn : Redn) (a : AddSt) (b : Nat) : GBlock :=
  match mfind a.sums b with
  | some e => ⟨e.lanes, e.x, e.r, e.p⟩
  | none => ⟨List.replicate 32 0, agreedX s rn b (stepNo s), 0, 0⟩

/-- Send an interior member's partials once each of its blocks is whole, after the third check of R297: so no partial holds a share that
the host then omits (01 R30; DESIGN CHOICE: R318 gives no time). -/
def flushPartials (ch : Chan) (sh : List Share) (role : Nat) (rn : Redn) (s : State) : State :=
  match roleShare sh role with
  | none => s
  | some x =>
    if s.asq.voided && role = selfM s then s else
    let k := redKey rn.chan rn.rseq
    let r := redSt s k
    let a := addSt s k role
    let b0 := a.pnext.getD rn.blk0
    let run := partialRun a (takesOf sh role) (rn.blk0 + rn.nblk - b0) b0
    if run.isEmpty || b0 + run.length ≠ rn.blk0 + rn.nblk then s
    else match run.find? fun b => (mfind a.sums b).any fun e => e.r ≠ residue e.lanes with
      | some b => addFails sh role rn b s
      | none =>
        let s := setAdd k role { a with pnext := some (b0 + run.length), complete := true } s
        let hdr := { redHeader s (blockTyp r.wide true) rn x.share with
                     backup := role ≠ selfM s, ovf := a.ovf || (role = selfM s && ownSat s k), resent := r.resent }
        sendBlocks hdr rn r.wide true (partialTo ch x) (run.map fun b => (b, partialOf s rn a b)) s

/-! Completion at a home (R305, R309, R321). -/

/-- The lowest reduction of a channel that is not complete in a role. -/
def lowestOpen (s : State) (p : Plan) (ch : Chan) (role : Nat) : Nat :=
  ((redsOf p ch).find? fun rn => !(addSt s (redKey ch.num rn.rseq) role).complete).elim ch.nred (·.rseq)

/-- Is a group of this home's blocks reported complete for the step? -/
def groupReady (s : State) (p : Plan) (g : Nat) : Bool :=
  let mine := p.chans.filter fun c => selfM s = c.home || (c.shadowed && selfM s = c.shome)
  let hits := (mine.map fun c => ((redsOf p c).filter fun rn => rn.blk0 < 4096 * (g + 1) && 4096 * g < rn.blk0 + rn.nblk).map fun rn => (c, rn)).flatten
  !hits.isEmpty && hits.all fun q => (addSt s (redKey q.2.chan q.2.rseq) q.1.home).reported

/-- SUM_READY programs whose held groups on a die became complete with this report (09 R286). -/
def readySums (p : Plan) (rn : Redn) (before s : State) : State :=
  match s.image with
  | none => s
  | some i =>
    let us := i.uprogs.filter fun u => u.trig = 0 && rn.blk0 < 4096 * (u.group0 + u.ngroups) && 4096 * u.group0 < rn.blk0 + rn.nblk
    forAll dies (fun d s =>
      let new := (us.filter fun u =>
        let gs := heldGroups s u d
        !gs.isEmpty && gs.all (groupReady s p) && !(gs.all (groupReady before p))).map (·.prog)
      let x := dieSt s d
      setDie d { x with ue := { x.ue with ready := addReady new x.ue.ready } } s) s

/-- Report complete reductions in order (R305); a shadow home's return deadline runs from there (R326). -/
def reportChan (p : Plan) (ch : Chan) : List Redn → State → State
  | [], s => s
  | rn :: rest, s =>
    let k := redKey ch.num rn.rseq
    let a := addSt s k ch.home
    if !a.complete then s
    else if a.reported then reportChan p ch rest s
    else
      let t := readySums p rn s (setAdd k ch.home { a with reported := true } s)
      let t := if ch.shadowed && selfM s = ch.shome && selfM s ≠ ch.home then
          { t with rdc := { t.rdc with shDue := minsert k (t.now + 1000 * ch.rslack) t.rdc.shDue } } else t
      reportChan p ch rest t

/-- Numeric saturations that a home logs when a reduction completes (R312, R313): a block of which some contribution has a GW16 lane
at its bound, and an own block that the overflow store could not hold. No field of a frame tells the home of such a block of another
module (its lanes at ±32,512 are also what ±127 widens to), so that module's OVF_FULL alone shows it (DESIGN CHOICE). -/
def logNumSat (rn : Redn) (role : Nat) (s : State) : State :=
  let k := redKey rn.chan rn.rseq
  if !(redSt s k).wide then s
  else
    let sat := ((addSt s k role).sums.filter fun e => 32767 ≤ e.2.p).map (·.1)
    let own := ((mget [] s.rdc.kept k).filter (·.satFull)).map (·.blk)
    forAll (sat ++ own).dedup (fun b s => reduceItem 4 0 rn (selfM s) 0xFFFF b (setErr .rdc 4 (bump .rdc 0x084 s))) s

/-- A home's reduction with every share taken: the third check, then complete (R297, R309). -/
def completeHome (p : Plan) (ch : Chan) (sh : List Share) (rn : Redn) (s : State) : State :=
  let k := redKey rn.chan rn.rseq
  let r := redSt s k
  match (addSt s k ch.home).sums.find? fun e => e.2.r ≠ residue e.2.lanes with
  | some e => addFails sh ch.home rn e.1 s
  | none =>
    let h := (chanSt s ch.num).h
    let s := logNumSat rn ch.home s
    let a := addSt s k ch.home
    let s := setAdd k ch.home
      { a with complete := true, holding := none, sums := a.sums.map fun e => (e.1, { e.2 with xn := nextX r.wide h e.2.p e.2.x }) } s
    reportChan p ch (redsOf p ch) s

/-- Complete a home's reductions in increasing RSEQ (R305). -/
def completeRun (p : Plan) (ch : Chan) (sh : List Share) : List Redn → State → State
  | [], s => s
  | rn :: rest, s =>
    let k := redKey ch.num rn.rseq
    if (addSt s k ch.home).complete then completeRun p ch sh rest s
    else if !((takesOf sh ch.home).all fun x => shareDone (addSt s k ch.home) rn x.share) then s
    else
      let s := completeHome p ch sh rn s
      if (addSt s k ch.home).complete then completeRun p ch sh rest s else s

/-- Send an interior member's partials in increasing RSEQ (R305, R318). -/
def flushRun (ch : Chan) (sh : List Share) (role : Nat) : List Redn → State → State
  | [], s => s
  | rn :: rest, s =>
    let s := flushPartials ch sh role rn s
    if (addSt s (redKey ch.num rn.rseq) role).complete then flushRun ch sh role rest s else s

/-- The expected arrival E of a reduction (R315): the adder's own share is whole, or the first share where it has none. -/
def setE (sh : List Share) (role : Nat) (rn : Redn) (s : State) : State :=
  let k := redKey rn.chan rn.rseq
  let a := addSt s k role
  let own := if s.asq.voided then none else (takesOf sh role).find? fun x => x.primary = selfM s
  let due := match own with | some x => shareDone a rn x.share | none => (takesOf sh role).any fun x => shareDone a rn x.share
  if a.tE.isNone && due then setAdd k role { a with tE := some s.now } s else s

/-- A held reduction's first incomplete share; none once its shares are whole (R317). -/
def moveHold (sh : List Share) (role : Nat) (rn : Redn) (s : State) : State :=
  let k := redKey rn.chan rn.rseq
  let a := addSt s k role
  if a.holding.isNone then s
  else setAdd k role { a with
    holding := if a.complete then none else ((takesOf sh role).find? fun x => !shareDone a rn x.share).map (·.share) } s

/-- What a role does after blocks were taken. -/
def progressRole (p : Plan) (ch : Chan) (role : Nat) (s : State) : State :=
  let sh := sharesOf p ch
  let s := forAll (redsOf p ch) (setE sh role) s
  let s := if role = ch.home then completeRun p ch sh (redsOf p ch) s else flushRun ch sh role (redsOf p ch) s
  forAll (redsOf p ch) (moveHold sh role) s

/-- Does any adder of a reduction hold? -/
def holdsRed (s : State) (k : Nat) : Bool := (redSt s k).adds.any fun e => e.2.holding.isSome

/-- After blocks were taken: E, completion or partials, and what RDC shows of the channel. A stopped channel does nothing (R306). -/
def progress (p : Plan) (ch : Chan) (s : State) : State :=
  let roles := rolesOf ch (sharesOf p ch) (selfM s)
  let s := if (chanSt s ch.num).stopped then s else forAll roles (progressRole p ch) s
  match roles with
  | [] => s
  | role :: _ =>
    setChan ch.num { chanSt s ch.num with
      holding := (redsOf p ch).any fun q => holdsRed s (redKey ch.num q.rseq), lowest := lowestOpen s p ch role } s

/-- Send a channel's contributions and take its own share; each reduction goes on (R305, R315). -/
def offerRound (p : Plan) (ch : Chan) (s : State) : State :=
  progress p ch (forAll (redsOf p ch) (takeOwn ch (sharesOf p ch)) (offerChan p ch s))

/-- As `offerRound`, and once more for a reduction that a check started again (R297, R298): its own share is taken
again from the retained copy. -/
def offerAll (p : Plan) (ch : Chan) (s : State) : State := offerRound p ch (offerRound p ch s)

/-- The member that is a channel's home for this module at this moment (R327). -/
def homeNow (s : State) (ch : Chan) : Nat := if (chanSt s ch.num).takeover then ch.shome else ch.home

/-- A reduction is widened, once in a step (R311): sums gone, WIDEN to every sender and to the shadow home, headroom (R322). -/
def widenRed (p : Plan) (ch : Chan) (rn : Redn) (s : State) : State :=
  let sh := sharesOf p ch
  let k := redKey rn.chan rn.rseq
  if (redSt s k).wide then s
  else
    let s := forAll (rolesOf ch sh (selfM s)) (restartRed rn) s
    let s := setRed k { redSt s k with wide := true, widened := true, xnext := [] } s
    let c := chanSt s ch.num
    let s := setChan ch.num { c with h := min 4 (c.h + 1), holdCnt := ch.hold, widened := true } s
    let s := reduceItem 3 0 rn (selfM s) 0xFFFF rn.blk0 (bump .rdc 0x058 s)
    let all := ((sh.map fun x => [x.primary, x.backup0, x.backup1, x.parent, x.pshadow]).flatten ++
      (if ch.shadowed then [ch.shome] else [])).dedup.filter (· ≠ 0xFFFF)
    let s := if selfM s = homeNow s ch then sendAll all (redHeader s 0x10 rn 0xFFFF) s else s
    offerAll p ch s

/-! Checks on an arriving frame (R306). -/

/-- Does the module send on a channel, as primary, backup, interior member or its shadow? -/
def sendsOn (sh : List Share) (m : Nat) : Bool := sh.any fun x => m ∈ [x.primary, x.backup0, x.backup1, x.parent, x.pshadow]

/-- Does a module take part in a channel at all (R301)? -/
def partOf (ch : Chan) (sh : List Share) (m : Nat) : Bool := sendsOn sh m || m = ch.home || (ch.shadowed && m = ch.shome)

/-- The next block that an adder expects from a sender of a share. -/
def nextFrom (a : AddSt) (rn : Redn) (f : RFrame) : Nat := (mfind a.next (nextKey f.share f.src f.backup)).getD rn.blk0

/-- What an adder finds wrong with the blocks of a frame of a share it takes: order, width, source. A frame sent again may begin with
blocks that the adder has, and a reduction collected again comes after later ones (R298, R311, R326). -/
def blocksBad (s : State) (p : Plan) (ch : Chan) (rn : Redn) (role : Nat) (x : Share) (f : RFrame) (wide : Bool) : Option Nat :=
  let a := addSt s (redKey f.chan f.rseq) role
  let again := f.resent || (redSt s (redKey f.chan f.rseq)).widened || a.fails ≠ 0
  if !f.backup && f.src ≠ x.primary || f.backup && !decide (f.src ∈ backupsOf (sharesOf p ch) role x) then some 8
  else if !again && (redsOf p ch).any fun q => f.rseq < q.rseq &&
      (mfind (addSt s (redKey f.chan q.rseq) role).next (nextKey f.share f.src f.backup)) = some (q.blk0 + q.nblk) then some 5
  else if (if f.resent then nextFrom a rn f < f.blk0 || f.blk0 < rn.blk0 else f.blk0 ≠ nextFrom a rn f)
      || rn.blk0 + rn.nblk < f.blk0 + f.nblk || f.blocks.length ≠ f.nblk then some 6
  else if wide ≠ (redSt s (redKey f.chan f.rseq)).wide then some 7
  else none

/-- What an adder finds wrong with a contribution or partial. -/
def contribBad (s : State) (p : Plan) (f : RFrame) (wide part : Bool) : Option Nat :=
  match chanOf p f.chan with
  | none => some 1
  | some ch =>
    let sh := sharesOf p ch
    let m := selfM s
    if !partOf ch sh m then some 1
    else if (rolesOf ch sh m).isEmpty then some 2
    else if f.step ≠ stepNo s % 2 ^ 32 then some 3
    else match redOf p f.chan f.rseq with
      | none => some 4
      | some rn =>
        if rn.layer ≠ f.layer then some 4
        else match frameRole ch sh m part f.share with
          | none => if (frameRole ch sh m (!part) f.share).isSome then some 2 else some 8
          | some role => match (takesOf sh role).find? fun x => x.share = f.share with
            | none => some 8
            | some x => blocksBad s p ch rn role x f wide

/-- The frame's width is the one before a widening (R311). -/
def oldWidth (s : State) (f : RFrame) (wide : Bool) : Bool := let r := redSt s (redKey f.chan f.rseq); r.widened && !wide

/-- A frame that was under way when its adder started over: it is not the one that the new sending begins with (R298; DESIGN CHOICE:
dropped in silence). -/
def underWay (s : State) (p : Plan) (f : RFrame) (part : Bool) : Bool :=
  match chanOf p f.chan, redOf p f.chan f.rseq with
  | some ch, some rn => (frameRole ch (sharesOf p ch) (selfM s) part f.share).any fun role =>
      let a := addSt s (redKey f.chan f.rseq) role
      a.fails ≠ 0 && !f.resent && (mfind a.next (nextKey f.share f.src f.backup)).isNone && rn.blk0 < f.blk0
  | _, _ => false

/-- Is a reduction inside the window of open ones (R308)? -/
def inOpen (s : State) (p : Plan) (ch : Chan) (role rseq : Nat) : Bool := rseq < lowestOpen s p ch role + ch.openN

/-- Take the blocks of a checked frame. The home that sees OVF widens (R311); a frame of a share that the host has omitted does
nothing (R317, 01 R30). -/
def takeFrame (p : Plan) (ch : Chan) (rn : Redn) (role : Nat) (f : RFrame) (wide part : Bool) (s : State) : State :=
  let sh := sharesOf p ch
  let k := redKey rn.chan rn.rseq
  match (takesOf sh role).find? fun x => x.share = f.share with
  | none => s
  | some x =>
    if x.share ∈ (addSt s k role).omitted then s
    else if f.ovf && !wide && role = ch.home && !(addSt s k role).complete then widenRed p ch rn s
    else
      let s := if f.ovf then setAdd k role { addSt s k role with ovf := true } s else s
      let mark := f.poison && !(f.blocks.any fun g => g.r = 0xFF)
      let bl := f.blocks.zipIdx.map fun g => (f.blk0 + g.2, g.1)
      offerAll p ch (takeBlocks sh role rn wide part f.backup mark x f.src bl s)

/-- Width and kind of a contribution frame. -/
def typWide (f : RFrame) : Bool × Bool := (f.typ = 2 || f.typ = 4, f.typ = 3 || f.typ = 4)

/-- The role in which the module takes a frame. -/
def roleFor (s : State) (p : Plan) (ch : Chan) (f : RFrame) : Option Nat := frameRole ch (sharesOf p ch) (selfM s) (typWide f).2 f.share

/-- Frames queued for reductions that the window has reached (R308); a frame of the width before a widening is dropped and counted
(R311), and a channel that stopped adds nothing more (R306). -/
def drainQueue (p : Plan) (ch : Chan) : Nat → State → State
  | 0, s => s
  | n + 1, s =>
    if (chanSt s ch.num).stopped then s
    else match s.rdc.queue.find? fun f => f.chan = ch.num && (roleFor s p ch f).any fun role => inOpen s p ch role f.rseq with
    | none => s
    | some f =>
      let s := { s with rdc := { s.rdc with queue := s.rdc.queue.erase f } }
      match redOf p f.chan f.rseq, roleFor s p ch f with
      | some rn, some role =>
        if oldWidth s f (typWide f).1 then drainQueue p ch n (bump .rdc 0x070 s)
        else drainQueue p ch n (takeFrame p ch rn role f (typWide f).1 (typWide f).2 s)
      | _, _ => drainQueue p ch n s

/-- The queue of a channel after a change that may have moved its window. -/
def drainAll (p : Plan) (ch : Chan) (s : State) : State := drainQueue p ch s.rdc.queue.length s

/-- Do the dies work: an image is loaded, and no trip has stopped everything (15 R434, R445)? -/
def diesRun (s : State) : Bool := powered s && s.image.isSome && !s.loading && !s.tripLatched

/-- Do the Update Engines run: as the dies work, and for the LOAD programs before Run (09 R286, 14 R418)? -/
def uesRun (s : State) : Bool := powered s && s.image.isSome && !s.tripLatched

/-- A frame of this epoch for a plan in force, or nothing. -/
def redIn (f : RFrame) (k : Plan → State → State) (s : State) : State :=
  if !diesRun s then s
  else if f.epoch ≠ epochNow s then bump .rdc 0x074 s
  else match s.rdc.plan with
    | none => mismatch 1 f s
    | some p => k p s

/-- A checked frame is added, or queued for its reduction (R308). -/
def takeCopy (p : Plan) (ch : Chan) (rn : Redn) (role : Nat) (f : RFrame) (s : State) : State :=
  let k := redKey f.chan f.rseq
  let a := addSt s k role
  let s := setAdd k role { a with next := minsert (nextKey f.share f.src f.backup) (max (nextFrom a rn f) (f.blk0 + f.nblk)) a.next } s
  if !inOpen s p ch role f.rseq then { s with rdc := { s.rdc with queue := s.rdc.queue ++ [f] } }
  else drainAll p ch (takeFrame p ch rn role f (typWide f).1 (typWide f).2 s)

/-- A contribution or partial arrives (R306 to R316). -/
def contribIn (f : RFrame) (s : State) : State :=
  redIn f (fun p s =>
    let w := typWide f
    if (chanSt s f.chan).stopped then s
    else if oldWidth s f w.1 then bump .rdc 0x070 s
    else if underWay s p f w.2 then s
    else match contribBad s p f w.1 w.2 with
      | some k => mismatch k f s
      | none => match chanOf p f.chan, redOf p f.chan f.rseq with
        | some ch, some rn => match roleFor s p ch f with
          | some role => takeCopy p ch rn role f s
          | none => s
        | _, _ => s) s

/-- CONTRIB8 (10 R309). -/
def execContrib8 (f : RFrame) (s : State) : Res := .next (contribIn { f with typ := 1 } s)
/-- CONTRIB16 (10 R311). -/
def execContrib16 (f : RFrame) (s : State) : Res := .next (contribIn { f with typ := 2 } s)
/-- PARTIAL8 (10 R318). -/
def execPartial8 (f : RFrame) (s : State) : Res := .next (contribIn { f with typ := 3 } s)
/-- PARTIAL16 (10 R318). -/
def execPartial16 (f : RFrame) (s : State) : Res := .next (contribIn { f with typ := 4 } s)

/-! WIDEN and RESEND at a sender (R298, R311, R312). -/

/-- Checks common to the frames a home sends: channel, role, step, reduction, source. -/
def ctlBad (s : State) (p : Plan) (f : RFrame) (may : Chan → List Share → Nat → Bool) (src : Chan → List Share → Nat → Bool) :
    Option Nat :=
  match chanOf p f.chan with
  | none => some 1
  | some ch =>
    let sh := sharesOf p ch
    if !partOf ch sh (selfM s) then some 1
    else if !may ch sh (selfM s) then some 2
    else if f.step ≠ stepNo s % 2 ^ 32 then some 3
    else match redOf p f.chan f.rseq with
      | none => some 4
      | some rn => if rn.layer ≠ f.layer then some 4 else if !src ch sh f.src then some 8 else none

/-- A reduction's frames of this module leave again, marked RESENT, for the adder that asks and its shadow (R298); no contribution of a
voided step does (15 R433). -/
def sendAgain (p : Plan) (ch : Chan) (rn : Redn) (asks : Nat) (s : State) : State :=
  let sh := sharesOf p ch
  let k := redKey rn.chan rn.rseq
  let s := setRed k { redSt s k with resent := true } s
  let s := forAll ((mySharesOf sh (selfM s)).filter fun x => !s.asq.voided && asks ∈ contribTo ch sh x.1) (fun x s =>
    sendRun rn x.1 x.2 (contribTo ch sh x.1) (setRed k { redSt s k with xnext := merase x.1.share (redSt s k).xnext } s)) s
  forAll ((rolesOf ch sh (selfM s)).filter fun role => role ≠ ch.home && (roleShare sh role).any fun x => asks ∈ partialTo ch x) (fun role s =>
    flushPartials ch sh role rn (setAdd k role { addSt s k role with pnext := none, complete := false } s)) s

/-- A RESEND arrives (R298). -/
def resendIn (f : RFrame) (s : State) : State :=
  redIn f (fun p s =>
    if (chanSt s f.chan).stopped then s
    else match ctlBad s p f (fun ch sh m => (m ≠ ch.home || (ch.shadowed && f.src = ch.shome)) && sendsOn sh m) (fun ch sh m => m = ch.home || (ch.shadowed && m = ch.shome)
        || sh.any fun x => x.parent = m || x.pshadow = m) with
    | some k => mismatch k f s
    | none => match chanOf p f.chan, redOf p f.chan f.rseq with
      | some ch, some rn => sendAgain p ch rn f.src s
      | _, _ => s) s

/-- RESEND (10 R298). -/
def execResend (f : RFrame) (s : State) : Res := .next (resendIn { f with typ := 0x11 } s)

/-- A sender goes on in GW16; an interior member or a shadow forms its sums again (R311, R312). -/
def goWide (p : Plan) (ch : Chan) (rn : Redn) (s : State) : State :=
  let k := redKey rn.chan rn.rseq
  if (redSt s k).wide then s
  else
    let s := forAll (rolesOf ch (sharesOf p ch) (selfM s)) (restartRed rn) s
    let s := setRed k { redSt s k with wide := true, widened := true, xnext := [] } s
    let c := chanSt s ch.num
    let s := if ch.shadowed && ch.shome = selfM s then
        setChan ch.num { c with h := min 4 (c.h + 1), holdCnt := ch.hold, widened := true } s else s
    offerAll p ch s

/-- A WIDEN arrives (R311, R312). -/
def widenIn (f : RFrame) (s : State) : State :=
  redIn f (fun p s =>
    if (chanSt s f.chan).stopped then s
    else match ctlBad s p f (fun ch sh m => (m ≠ ch.home || f.src = ch.shome) && (sendsOn sh m || (ch.shadowed && ch.shome = m)))
        (fun ch _ m => m = ch.home || (ch.shadowed && m = ch.shome)) with
    | some k => mismatch k f s
    | none => match chanOf p f.chan, redOf p f.chan f.rseq with
      | some ch, some rn => goWide p ch rn s
      | _, _ => s) s

/-- WIDEN (10 R311, R312). -/
def execWiden (f : RFrame) (s : State) : Res := .next (widenIn { f with typ := 0x10 } s)

/-! Deadlines, holds and the host's answers (R315 to R317). -/

/-- Take the copies held of the late shares, block by block, until a check starts the reduction over (R316). -/
def takeAllHeld (sh : List Share) (role : Nat) (rn : Redn) (x : Share) : List Nat → State → State
  | [], s => s
  | b :: rest, s =>
    if mget false (addSt s (redKey rn.chan rn.rseq) role).taken (takeKey x.share b) then takeAllHeld sh role rn x rest s
    else
      let r := takeHeld sh role rn x b s
      if r.2 then takeAllHeld sh role rn x rest r.1 else r.1

/-- Is a copy of a share's missing blocks arriving: has its primary or a backup sent some blocks and not all? -/
def arriving (sh : List Share) (role : Nat) (a : AddSt) (rn : Redn) (x : Share) : Bool :=
  let part (k : Nat) : Bool := match mfind a.next k with
    | some b => b < rn.blk0 + rn.nblk
    | none => false
  part (nextKey x.share x.primary false) || (backupsOf sh role x).any fun m => part (nextKey x.share m true)

/-- The deadline of a reduction passes at `role` (R315, R316): the shares that are late are taken from their backups, and one that
nobody is sending holds the reduction (R317). A poisoned block that no backup covers follows R298 (R299). A copy that was arriving at D
and has not come when the deadline is reported again is arriving no more (DESIGN CHOICE). -/
def passDeadline (p : Plan) (ch : Chan) (rn : Redn) (role e : Nat) (s : State) : State :=
  let sh := sharesOf p ch
  let k := redKey ch.num rn.rseq
  let s := { s with now := max s.now (e + 1000 * ch.slack) }
  let again := (addSt s k role).past
  let late := (takesOf sh role).filter fun x => !shareDone (addSt s k role) rn x.share
  let s := setAdd k role { addSt s k role with past := true, late := ((addSt s k role).late ++ late.map (·.share)).dedup } s
  let s := forAll late (fun (x : Share) s => takeAllHeld sh role rn x ((List.range rn.nblk).map (· + rn.blk0)) s) s
  let a := addSt s k role
  let coming (x : Share) : Bool := !again && arriving sh role a rn x
  let spoiled := (takesOf sh role).any fun (x : Share) => !shareDone a rn x.share && !coming x &&
    a.poisoned.any fun (q : Nat × Bool) => q.1 / 2 ^ 32 = x.share && !mget false a.taken q.1
  let s := if spoiled then resendRed sh role rn 1 s
    else match (takesOf sh role).find? fun (x : Share) => !shareDone a rn x.share && !coming x with
      | some x => setErr .rdc 0 (setAdd k role { a with holding := some x.share } s)
      | none => s
  drainAll p ch (offerAll p ch s)

/-- The adders of a reduction whose deadline is to come, or has passed with a share still missing and no hold, the earliest E first. -/
def dueRoles (s : State) (ch : Chan) (sh : List Share) (rn : Redn) : List (Nat × Nat) :=
  ((rolesOf ch sh (selfM s)).filterMap fun role =>
    let a := addSt s (redKey ch.num rn.rseq) role
    match a.tE with
    | some e => if a.complete || a.holding.isSome || (a.past && (takesOf sh role).all fun x => shareDone a rn x.share) then none else some (role, e)
    | none => none).insertionSort fun x y => x.2 ≤ y.2

/-- The deadline of a reduction passes (R316, R317); its time is past from now on. -/
def contribDeadline (c q : Nat) (s : State) : State :=
  if !diesRun s || (chanSt s c).stopped then s
  else match s.rdc.plan with
    | none => s
    | some p => match chanOf p c, redOf p c q with
      | some ch, some rn => match dueRoles s ch (sharesOf p ch) rn with
        | (role, e) :: _ => passDeadline p ch rn role e s
        | [] => s
      | _, _ => s

/-- CONTRIBUTION_DEADLINE (10 R315 to R317). -/
def execContributionDeadline (chan rseq : Nat) (s : State) : Res := .next (contribDeadline chan rseq s)

/-- The sums of the blocks taken of the shares that are not omitted. -/
def sumsWithout (sh : List Share) (role : Nat) (a : AddSt) : SMap SumEnt :=
  (a.prim.filter fun e => !(e.1 / 2 ^ 32 ∈ a.omitted)).foldl (fun m e =>
    let part := match sh.find? fun x => x.share = e.1 / 2 ^ 32 with | some x => isPartial sh role x | none => false
    minsert (e.1 % 2 ^ 32) (addEntry part (mfind m (e.1 % 2 ^ 32)) e.2.2) m) []

/-- Omit the shares that a reduction still waits for (R317): its sums are those of the others alone (01 R30). -/
def omitNow (p : Plan) (ch : Chan) (rn : Redn) (role : Nat) (s : State) : State :=
  let sh := sharesOf p ch
  let k := redKey ch.num rn.rseq
  let miss := (takesOf sh role).filter fun x => !shareDone (addSt s k role) rn x.share
  let s := forAll miss (fun (x : Share) s => reduceItem 6 0 rn x.primary x.share rn.blk0 (bump .rdc 0x080 s)) s
  let s := forAll miss (fun (x : Share) s => forAll ((List.range rn.nblk).map (· + rn.blk0)) (freeHeld k role x) s) s
  let a := { addSt s k role with omitted := (addSt s k role).omitted ++ miss.map fun (x : Share) => x.share, holding := none }
  let s := setAdd k role { a with sums := sumsWithout sh role a } s
  drainAll p ch (offerAll p ch s)

/-- The adder of a channel's reductions that holds first. -/
def heldRole (s : State) (p : Plan) (ch : Chan) : Option (Redn × Nat) :=
  (redsOf p ch).findSome? fun rn =>
    ((rolesOf ch (sharesOf p ch) (selfM s)).find? fun role => (addSt s (redKey ch.num rn.rseq) role).holding.isSome).map fun role => (rn, role)

/-- OMIT (10 R317): the held reduction completes without the shares that are missing. -/
def omitShares (c : Nat) (s : State) : State :=
  match s.rdc.plan with
  | none => s
  | some p => match chanOf p c with
    | none => s
    | some ch => match heldRole s p ch with
      | some (rn, role) => omitNow p ch rn role s
      | none => s

/-- OMIT (10 R317, Table 10.11). -/
def execOmit (rq : Req) (chan : Nat) (s : State) : Res := .next (barWrite rq (omitShares chan) s)

/-- RESET of a channel (10 R306, R317): sums, held blocks and queued frames of its open reductions go; a module that adds takes its
own share again from the retained copy (DESIGN CHOICE). -/
def resetChan (c : Nat) (s : State) : State :=
  match s.rdc.plan with
  | none => s
  | some p => match chanOf p c with
    | none => s
    | some ch =>
      let s := forAll (redsOf p ch) (fun rn s =>
        forAll (rolesOf ch (sharesOf p ch) (selfM s)) (fun role s =>
          if (addSt s (redKey c rn.rseq) role).complete then s else restartRed rn role s) s) s
      offerAll p ch (setChan c { chanSt s c with stopped := false, holding := false }
        { s with rdc := { s.rdc with queue := s.rdc.queue.filter fun f => f.chan ≠ c } })

/-- RESET (10 R306, Table 10.11). -/
def execReset (rq : Req) (chan : Nat) (s : State) : Res := .next (barWrite rq (resetChan chan) s)

/-! The collector's side (R97, R309 to R312). -/

/-- The port die through which a share's contributions leave: none where no other module takes them. -/
def keptDie (s : State) (ch : Chan) (sh : List Share) (x : Share) : Option Die :=
  ((contribTo ch sh x).find? fun m => m ≠ selfM s).bind fun m => (memberModule s m).bind (routePort s)

/-- Bytes of a reduction's retained block in the form it is first sent in: B34, or B66 where the reduction is GW16 from the start. -/
def keptLen (rn : Redn) : Nat := if rn.gw16 then 66 else 34

/-- Where a retained block lies in HBM: in the first region of kind 4 of the port's die, the forms one after another over the plan's
reductions and this module's shares that leave by that port (DESIGN CHOICE: 09 R280 and 08 R240 give the die, no place in the region). -/
def keptPlace (s : State) (p : Plan) (ch : Chan) (rn : Redn) (x : Share) (b : Nat) : Option (Region × Nat) :=
  match s.image, keptDie s ch (sharesOf p ch) x with
  | some i, some d =>
    match i.regions.find? fun r => r.kind = 4 && r.idx < 65536 && r.owner = d with
    | none => none
    | some r =>
      let all := p.chans.flatMap fun c => (mySharesOf (sharesOf p c) (selfM s)).flatMap fun y =>
        if keptDie s c (sharesOf p c) y.1 = some d then (redsOf p c).map fun q => (q, y.1) else []
      let before := ((all.takeWhile fun q => !(q.1 = rn && q.2 = x)).map fun q => keptLen q.1 * q.1.nblk).sum
      let o := before + keptLen rn * (b - rn.blk0)
      if o + keptLen rn ≤ r.size then some (r, o) else none
  | _, _ => none

/-- A block's B34 or B66 form (Table 10.1). -/
def gwBytes (n : Nat) (g : GBlock) : List Byte :=
  (g.lanes.map fun x => natLE n (unsgn (8 * n) x)).flatten ++ natLE 1 g.x ++ natLE 1 g.r

/-- A free place of a die's overflow store, the lowest (R312): the store is the first part of the region that the LOAD allocates for
the plan's areas of the die (DESIGN CHOICE). -/
def ovfPlace (s : State) (p : Plan) (d : Die) : Option (Region × Nat) :=
  (s.image.bind fun i => regionOf i (131072 + d.val)).bind fun r =>
    let used := (s.rdc.kept.flatMap (·.2)).filterMap fun q => if q.stored then q.place16 else none
    ((List.range p.ovfCap).find? fun k => !decide ((r.idx, 66 * k) ∈ used)).map fun k => (r, 66 * k)

/-- The collector's read of the agreed exponent of a home block (09 R270, R277). -/
def touchX (rn : Redn) (b : Nat) (s : State) : State :=
  match s.image.bind fun i => regionOf i rn.expreg with
  | some g => regionTouch g (stepNo s) (rn.tblk0 + b - rn.blk0) 1 s
  | none => s

/-- A retained block's bytes go to their place. -/
def storeKept (at_ : Option (Region × Nat)) (bs : List Byte) (s : State) : State :=
  match at_ with | some z => regionWrite z.1 0 z.2 bs s | none => s

/-- A gradient block of 32 FP32 values becomes one share's contribution to home block `b` (09 R280). A reduction that is GW16 from the
start takes the GW16 form of each; any other the GW8 form, with the GW16 form of a block that saturates in the die's overflow store
(R312). -/
def collectShare (d : Die) (p : Plan) (ch : Chan) (rn : Redn) (b : Nat) (vals : List W32) (x : Share) (backup : Bool)
    (s : State) : State :=
  let k := redKey ch.num rn.rseq
  let s := touchX rn b s
  let xg := agreedX s rn b (stepNo s)
  let c8 := vals.map (toGW false xg)
  let c16 := vals.map (toGW true xg)
  let mk (l : List Int) : GBlock := ⟨l, xg, residue l, 0⟩
  let sat := (if rn.gw16 then c16 else c8).any (·.2)
  let sat8 := !rn.gw16 && sat
  let s := if sat then bump (.red d) 0x050 s else s
  let used := (reg s (.red d) 0x054).toNat
  let full := sat8 && p.ovfCap ≤ used
  let s := if full then setErr (.red d) 1 (bump (.red d) 0x058 s)
    else if sat8 then setReg (.red d) 0x054 (w32 (used + 1)) s else s
  let stored := sat8 && !full
  let g8 := mk (c8.map (·.1))
  let g16 := mk (c16.map (·.1))
  let own := keptPlace s p ch rn x b
  let ovf := if stored then ovfPlace s p d else none
  let s := storeKept ovf (gwBytes 2 g16) (storeKept own (if rn.gw16 then gwBytes 2 g16 else gwBytes 1 g8) s)
  let pos (z : Option (Region × Nat)) : Option (Nat × Nat) := z.map fun z => (z.1.idx, z.2)
  let q : Kept := ⟨x.share, b, g8, if stored || rn.gw16 then some g16 else none, sat, full, backup, d, stored,
    if rn.gw16 then none else pos own, if rn.gw16 then pos own else pos ovf⟩
  let old := (mget [] s.rdc.kept k).filter fun e => !(e.share = x.share && e.blk = b)
  let s := { s with rdc := { s.rdc with kept := mput [] k (old ++ [q]) s.rdc.kept } }
  let s := if sat8 && selfM s = homeNow s ch && !backup then widenRed p ch rn s else s
  drainAll p ch (offerAll p ch s)

/-- The share whose contribution the next gradient block of a home block is: the first that has none of it yet, else the last. -/
def shareOfNext (s : State) (sh : List Share) (k b : Nat) : Option (Share × Bool) :=
  let l := mySharesOf sh (selfM s)
  (l.find? fun x => !((mget [] s.rdc.kept k).any fun q => q.share = x.1.share && q.blk = b)).orElse fun _ => l.getLast?

/-- A gradient block of 32 FP32 values becomes this module's contribution to home block `b` (09 R280). -/
def collectBlock (d : Die) (p : Plan) (ch : Chan) (rn : Redn) (b : Nat) (vals : List W32) (s : State) : State :=
  match shareOfNext s (sharesOf p ch) (redKey ch.num rn.rseq) b with
  | none => s
  | some y => if s.asq.voided then s else collectShare d p ch rn b vals y.1 y.2 s

/-! Parameter return (R303, R304, R320 to R327). -/

/-- The compute-copy tensor of a reduction's blocks: the kind-0 region of its exponent region's layer and owner die (08 R239), the k-th
where the exponent region is the k-th of kind 1 there (DESIGN CHOICE: no field of the plan names it). -/
def copyRegion (i : Img) (rn : Redn) : Option Region :=
  (regionOf i rn.expreg).bind fun x =>
    let of (kind : Nat) : List Region := i.regions.filter fun r => r.kind = kind && r.layer = x.layer && r.owner = x.owner
    ((of 1).findIdx? fun r => r.idx = x.idx).bind fun k => (of 0)[k]?

/-- Element of that tensor at which block `b` begins: its tag block index × 32, as its exponent lies at its tag block index. -/
def copyEl (rn : Redn) (b : Nat) : Nat := 32 * (rn.tblk0 + b - rn.blk0)

/-- Is a format one that a region without per-channel scales holds block-scaled (04 R118)? -/
def blockFmt (r : Region) (fmt : Nat) : Bool := r.chlen = 0 && fmt ∈ [3, 4, 5, 6, 7, 9]

/-- Bytes of a region's codes: the rest holds the scales (09 Table 9.5). Without NBLK the codes and scales fill SIZE. -/
def codesBytes (r : Region) : Nat :=
  let bits := fmtBits r.fmt
  if r.nblk ≠ 0 then r.nblk * 4 * bits
  else if r.chlen ≠ 0 then r.size * 8 / (bits * r.chlen + 32) * r.chlen * bits / 8
  else if blockFmt r r.fmt then r.size / (4 * bits + 1) * (4 * bits)
  else r.size

/-- Block size of a block-scaled region (03 R77). No field of the region names it: SIZE tells it, where it holds the exponents of
blocks of 16, 64 or 128 and not those of 32 (DESIGN CHOICE). -/
def blockSz (r : Region) : Nat :=
  let up (n : Nat) : Nat := (n + 4095) / 4096 * 4096
  let c := r.nblk * 4 * fmtBits r.fmt
  if r.nblk = 0 || up (c + r.nblk) = r.size then 32
  else if up (c + 2 * r.nblk) = r.size then 16
  else if up (c + (r.nblk + 1) / 2) = r.size then 64
  else if up (c + (r.nblk + 3) / 4) = r.size then 128
  else 32

/-- Byte of a region that holds the E8M0 exponent of an element. -/
def blockByte (r : Region) (el : Nat) : Nat := codesBytes r + el / blockSz r

/-- Bytes of codes and of block exponents in a parameter entry of a reduction (R304). -/
def parShape (i : Img) (rn : Redn) : Nat × Nat :=
  match copyRegion i rn with
  | some r => (4 * fmtBits r.fmt, if !blockFmt r r.fmt then 0 else if blockSz r = 16 then 2 else 1)
  | none => (32, 0)

/-- A reduction frame of the plan in force from its bytes. -/
def redOfBytes (s : State) (b : List Byte) : RFrame :=
  let par := (s.image.bind fun i => (s.rdc.plan.bind fun p => redOf p (fieldLE b 2 2) (fieldLE b 4 2)).map (parShape i)).getD (32, 0)
  let per := ((s.rdc.plan.bind fun p => p.perms[fieldLE b 8 4]?).map fun e => 32 * e.words).getD 0
  parseRed par per b

/-- Does a parameter block read poisoned where its codes, or its next exponent, have been written (09 R271)? -/
def parPoison (s : State) (rn : Redn) (b : Nat) (codes : Option (Region × Nat × Nat)) : Bool :=
  (codes.any fun c => regionPoisoned s c.1 c.2.1 (c.2.2 * fmtBits c.1.fmt / 8) (4 * fmtBits c.1.fmt)) ||
  ((s.image.bind fun i => regionOf i rn.expreg).any fun x => regionPoisoned s x (stepNo s + 1) (rn.tblk0 + b - rn.blk0) 1)

/-- Count a parameter block written into the next generation of an ARR region, each block once; the last one signals its far sett
once (09 R281). -/
def arrCount (r : Region) (gen blk : Nat) (s : State) : State :=
  let key := 2 ^ 64 * (r.idx + 1) + blk
  if !r.arr || gen ≠ stepNo s + 1 || mget false s.rdc.parGot key then s
  else
    let d := dieSt s r.owner
    let n := mget 0 d.arr r.idx + 1
    let s := setDie r.owner { d with arr := mput 0 r.idx n d.arr } { s with rdc := { s.rdc with parGot := mput false key true s.rdc.parGot } }
    if n = r.nblk then farSignal r.arrDie r.arrFs (ownId s) r.owner.val (bump (.edg r.owner) 0x05C s) else s

/-- Write a parameter entry's codes and scales into a compute copy (R304). -/
def writeCodes (r : Region) (gen el : Nat) (e : PEntry) (cscale : W32) (s : State) : State :=
  let s := regionWrite r gen (el * fmtBits r.fmt / 8) e.codes s
  let s := if r.chlen ≠ 0 then regionWrite r gen (codesBytes r + 4 * (el / r.chlen)) (natLE 4 cscale.toNat) s else s
  let s := if e.scales.isEmpty then s else regionWrite r gen (blockByte r el) e.scales s
  arrCount r gen (el / 32) s

/-- Write a block's next agreed exponent into generation n + 1 and note the block as returned in this step. -/
def writeExp (rn : Redn) (b : Nat) (e : PEntry) (s : State) : State :=
  let s := match s.image.bind fun i => regionOf i rn.expreg with
    | some x => arrCount x (stepNo s + 1) (rn.tblk0 + b - rn.blk0) (regionWrite x (stepNo s + 1) (rn.tblk0 + b - rn.blk0) [BitVec.ofNat 8 e.xNext] s)
    | none => s
  { s with rdc := { s.rdc with parGot := mput false (2 ^ 32 * redKey rn.chan rn.rseq + b) true s.rdc.parGot } }

/-- Write one parameter entry into generation n + 1 of the compute copy and the exponents (R304, R323). -/
def writeParam (rn : Redn) (b : Nat) (e : PEntry) (cscale : W32) (s : State) : State :=
  let s := writeExp rn b e s
  match s.image.bind fun i => copyRegion i rn with
  | some r => writeCodes r (stepNo s + 1) (copyEl rn b) e cscale s
  | none => s

def parHas (s : State) (rn : Redn) (b : Nat) : Bool := mget false s.rdc.parGot (2 ^ 32 * redKey rn.chan rn.rseq + b)
def parAll (s : State) (rn : Redn) : Bool :=
  rn.nblk ≤ (s.rdc.parGot.filter fun e => e.1 / 2 ^ 32 = redKey rn.chan rn.rseq).length

/-- Free what is retained of a reduction: contributions and their overflow-store blocks, partials, held output (R310, R324, R326). -/
def freeKept (ch : Chan) (rn : Redn) (s : State) : State :=
  let k := redKey rn.chan rn.rseq
  let s := forAll ((mget [] s.rdc.kept k).filter (·.stored)) (fun q s =>
    setReg (.red q.die) 0x054 (w32 ((reg s (.red q.die) 0x054).toNat - 1)) s) s
  let r := redSt s k
  setRed k { r with adds := r.adds.map fun e => if e.1 = ch.home then e else (e.1, { e.2 with sums := [], prim := [] }) }
    { s with rdc := { s.rdc with kept := merase k s.rdc.kept, shOut := merase k s.rdc.shOut, shDue := merase k s.rdc.shDue } }

/-- Members to which this module passes the parameters of a channel (R323): as its home, and as an interior member. -/
def replicasOf (p : Plan) (ch : Chan) (asHome : Bool) (m : Nat) : List Nat :=
  let sh := sharesOf p ch
  let below (q : Nat) : List Nat := ((sh.filter fun x => x.parent = q).map fun x => [x.primary, x.backup0, x.backup1, x.pshadow]).flatten
  ((if asHome then below ch.home ++ (if ch.shadowed then [ch.shome] else []) else []) ++ below m).filter
    (fun q => q ≠ 0xFFFF && q ≠ m && q ≠ ch.home) |>.dedup

/-- Does a reduction touch a group that was not updated (15 R442)? -/
def touchesDead (s : State) (rn : Redn) : Bool := s.rdc.deadGrp.any fun g => rn.blk0 < 4096 * (g + 1) && 4096 * g < rn.blk0 + rn.nblk

/-- DONE leaves for every replica and the shadow home; the home frees its own copies. -/
def sendDone (p : Plan) (ch : Chan) (rn : Redn) (take : Bool) (s : State) : State :=
  let k := redKey rn.chan rn.rseq
  let s := sendAll (replicasOf p ch true (selfM s)) { redHeader s 0x12 rn 0xFFFF with takeover := take } s
  freeKept ch rn (setRed k { redSt s k with doneSeen := true } s)

/-- A home block's codes go to its place, and its exponent to the kind-1 region the first time. -/
def homeBlock (rn : Redn) (rg : Region) (gen : Nat) (cscale : W32) (e : Nat × Nat × PEntry) (s : State) : State :=
  let s := writeCodes rg gen e.2.1 e.2.2 cscale s
  if parHas s rn e.1 then s else writeExp rn e.1 e.2.2 s

/-- A run of blocks of one reduction that QOUT hands over, with their places in its stream's region (09 Table 9.8): the home writes
and multicasts them, with DONE after the last; a shadow home holds them (R323, R326). Nothing leaves a stopped channel (R306), nor a
reduction that touches a group not updated (15 R442). -/
def homeParams (p : Plan) (rn : Redn) (rg : Region) (gen : Nat) (es : List (Nat × Nat × PEntry)) (cscale : W32) (s : State) : State :=
  match chanOf p rn.chan, es with
  | some ch, e0 :: _ =>
    let k := redKey rn.chan rn.rseq
    let take := (chanSt s ch.num).takeover
    let f := { redHeader s 5 rn 0xFFFF with
               blk0 := e0.1, nblk := es.length, params := es.map (·.2.2), cscale := cscale, takeover := selfM s ≠ ch.home }
    if (chanSt s ch.num).stopped then s
    else if selfM s ≠ ch.home && !take then
      if (redSt s k).doneSeen then s
      else { s with rdc := { s.rdc with shOut := mput [] k (mget [] s.rdc.shOut k ++ [f]) s.rdc.shOut } }
    else
      let new := es.any fun e => !parHas s rn e.1
      let s := forAll es (homeBlock rn rg gen cscale) s
      if !new || touchesDead s rn then s
      else
        let bad := es.any fun e => parPoison s rn e.1 (some (rg, gen, e.2.1))
        let s := sendAll (replicasOf p ch true (selfM s)) { f with last := parAll s rn, poison := bad } s
        if parAll s rn && !(redSt s k).doneSeen then sendDone p ch rn (selfM s ≠ ch.home) s else s
  | _, _ => s

/-- An interior member passes a frame of the home on (R323). -/
def passOn (p : Plan) (ch : Chan) (f : RFrame) (s : State) : State :=
  if ch.tree && (sharesOf p ch).any (fun x => x.parent = selfM s) then sendAll (replicasOf p ch false (selfM s)) f s else s

/-- The parameters of a checked frame: each block once (R325). -/
def takeParams (p : Plan) (ch : Chan) (rn : Redn) (f : RFrame) (s : State) : State :=
  if f.blk0 < rn.blk0 || rn.blk0 + rn.nblk < f.blk0 + f.nblk || f.params.length ≠ f.nblk then mismatch 6 f s
  else
    passOn p ch f (f.params.zipIdx.foldl (fun s e =>
      if parHas s rn (f.blk0 + e.2) then bump .rdc 0x078 s else writeParam rn (f.blk0 + e.2) e.1 f.cscale s) s)

/-- PARAM arrives (R323, R325, R327): only from the channel's home, as this module knows it (R25). -/
def paramIn (f : RFrame) (s : State) : State :=
  redIn f (fun p s =>
    if (chanSt s f.chan).stopped then s
    else match chanOf p f.chan with
    | none => mismatch 1 f s
    | some ch =>
      let s := if f.takeover && ch.shadowed && f.src = ch.shome then setChan ch.num { chanSt s ch.num with takeover := true } s else s
      if (chanSt s ch.num).takeover && f.src = ch.home then bump .rdc 0x06C s
      else match ctlBad s p f (fun c _ m => m ≠ homeNow s c) (fun c _ m => m = homeNow s c) with
        | some k => mismatch k f s
        | none => match redOf p f.chan f.rseq with
          | none => s
          | some rn => takeParams p ch rn f s) s

/-- PARAM (10 R323). -/
def execParam (f : RFrame) (s : State) : Res := .next (paramIn { f with typ := 5 } s)

/-- DONE (10 R323, R324, R326). -/
def doneIn (f : RFrame) (s : State) : State :=
  redIn f (fun p s =>
    if (chanSt s f.chan).stopped then s
    else match ctlBad s p f (fun c _ m => m ≠ homeNow s c) (fun c _ m => m = homeNow s c) with
      | some k => mismatch k f s
      | none => match chanOf p f.chan, redOf p f.chan f.rseq with
        | some ch, some rn =>
          if !parAll s rn then mismatch 6 f s
          else
            let k := redKey f.chan f.rseq
            passOn p ch f (freeKept ch rn (setRed k { redSt s k with doneSeen := true } s))
        | _, _ => s) s

/-- DONE (10 R323). -/
def execDone (f : RFrame) (s : State) : Res := .next (doneIn { f with typ := 0x12 } s)

/-- A shadow home's held output of a reduction leaves: written here, sent with TAKEOVER, DONE after the last (R327). -/
def sendHeld (p : Plan) (ch : Chan) (rn : Redn) (s : State) : State :=
  let k := redKey ch.num rn.rseq
  let out := mget [] s.rdc.shOut k
  if out.isEmpty || (redSt s k).doneSeen then s
  else
    let s := { s with rdc := { s.rdc with shOut := merase k s.rdc.shOut } }
    let s := forAll out (fun f s => f.params.zipIdx.foldl (fun s e =>
      if parHas s rn (f.blk0 + e.2) then s else writeParam rn (f.blk0 + e.2) e.1 f.cscale s) s) s
    let s := forAll out (fun f s =>
      let dst := (s.image.bind fun i => copyRegion i rn).map fun r => (r, stepNo s + 1)
      let bad := (List.range f.nblk).any fun j => parPoison s rn (f.blk0 + j) (dst.map fun t => (t.1, t.2, copyEl rn (f.blk0 + j)))
      sendAll (replicasOf p ch true (selfM s))
        { f with takeover := true, last := parAll s rn && out.getLast? = some f, poison := bad } s) s
    if parAll s rn then sendDone p ch rn true s else s

/-- A shadow home's return deadline passes without the home's DONE (R327): it is the channel's home for the rest of the step. -/
def takeOver (c q : Nat) (s : State) : State :=
  match s.rdc.plan with
  | none => s
  | some p => match chanOf p c, redOf p c q with
    | some ch, some rn =>
      let k := redKey c q
      match mfind s.rdc.shDue k with
      | none => s
      | some t =>
        if !diesRun s || !ch.shadowed || selfM s ≠ ch.shome || (redSt s k).doneSeen || (chanSt s c).stopped || (chanSt s c).takeover then s
        else
          let s := { s with now := max s.now t }
          let s := reduceItem 7 0 rn ch.home ch.shome rn.blk0 (setErr .rdc 6 (bump .rdc 0x07C s))
          forAll (redsOf p ch) (sendHeld p ch) (setChan c { chanSt s c with takeover := true } s)
    | _, _ => s

/-- RETURN_DEADLINE (10 R327). -/
def execReturnDeadline (chan rseq : Nat) (s : State) : Res := .next (takeOver chan rseq s)

/-! The channels at a step boundary (R322, R327). -/

/-- Headroom hold of a channel. -/
def stepChan (ch : Chan) (c : ChanSt) : ChanSt :=
  let c := if c.widened || c.holdCnt = 0 then c
    else if c.holdCnt = 1 then
      let h := max ch.h0 (c.h - 1)
      { c with h := h, holdCnt := if ch.h0 < h then ch.hold else 0 }
    else { c with holdCnt := c.holdCnt - 1 }
  { c with widened := false, takeover := false, holding := false, lowest := 0 }

/-- The reductions of a plan at the start of a step. -/
def freshReds (p : Plan) : SMap RedSt :=
  p.reds.foldl (fun m rn => if rn.gw16 then minsert (redKey rn.chan rn.rseq) { RedSt.blank with wide := true } m else m) []

/-- Start a step's reductions; what is retained waits for its DONE. -/
def reductionStep (s : State) : State :=
  match s.rdc.plan with
  | none => s
  | some p =>
    let s := forAll p.chans (fun ch s => setChan ch.num (stepChan ch (chanSt s ch.num)) s) s
    let s := forAll dies (fun d s => setReg (.red d) 0x05C 0 s) s
    { s with rdc := { s.rdc with reds := freshReds p, parGot := [], queue := [], shOut := [], shDue := [] } }

/-! What the engines hold. -/

/-- Groups of the home shard that a die's engine holds (08 R240). -/
def heldCount (s : State) (d : Die) : Nat :=
  let nb := (homeReds s).foldl (fun a rn => max a (rn.blk0 + rn.nblk)) 0
  ((List.range ((nb + 4095) / 4096)).filter fun g => groupDie (placeNow s) g = d).length

/-- UPE_GROUPS of every die (09 R292). -/
def showGroups (s : State) : State := forAll dies (fun d s => setReg (.upe d) 0x048 (w32 (heldCount s d)) s) s

end Sys2Proof.Machine
end

