-- ==== Sys2Proof/Machine/Permute.lean ====
section
/-! DEFINITION. Membership epochs and re-sharding (10 R328 to R330, 11 R356, R357). -/

namespace Sys2Proof.Machine

/-! State words. The manual gives a permute its words per element and not their places in the store: word w of an element
is the element's entry in the w-th region of kind 2 that the program of its group reads or writes, in stream order
(DESIGN CHOICE). -/

/-- The kind-2 streams of block `b`, in the program that its die's engine runs: region and element of the block's first element. -/
def stateStreams (s : State) (i : Img) (b : Nat) : List (Region × Nat) :=
  let g := b / 4096
  match i.uprogs.find? fun u => g ∈ progGroups i (placeNow s) u (blockDie s b) && !(stateRegs i u).isEmpty with
  | none => []
  | some u => u.streams.filterMap fun t => (t.region.bind (regionOf i)).bind fun rg =>
      if rg.kind = 2 then some (rg, t.elem0 + (g - u.group0) * t.estride + b % 4096 * 32) else none

/-- Word `w` of element `e` (0 to 31) of block `b`. -/
def stateWord (s : State) (i : Img) (b e w : Nat) : W32 :=
  match (stateStreams s i b)[w]? with
  | some (r, el) => w32 (leNat (regionRead s r (stepNo s) (4 * (el + e)) 4))
  | none => 0

def putStateWord (i : Img) (b e w : Nat) (x : W32) (s : State) : State :=
  match (stateStreams s i b)[w]? with
  | some (r, el) => regionWrite r (stepNo s) (4 * (el + e)) (natLE 4 x.toNat) s
  | none => s

/-- The words of `n` blocks from `b`, block by block, element by element. -/
def stateWords (s : State) (i : Img) (words b n : Nat) : List W32 :=
  (List.range (n * 32 * words)).map fun k => stateWord s i (b + k / (32 * words)) (k / words % 32) (k % words)

/-- Write words from word offset `o` of a range that starts at block `b`. -/
def putStateWords (i : Img) (words b o : Nat) (ws : List W32) (s : State) : State :=
  ws.zipIdx.foldl (fun s x =>
    let k := o + x.2
    putStateWord i (b + k / (32 * words)) (k / words % 32) (k % words) x.1 s) s

/-! The permute. -/

/-- Members of the epoch in force beside this one (Table 11.7). -/
def members (s : State) : List Nat :=
  (((peerIdx s).filter fun n => (peerW1 s n).testBit 31 && fld (peerW0 s n) 15 0 ≠ 0xFFFF).map fun n => fld (peerW0 s n) 15 0).dedup

/-- Members whose PERM_DONE of this epoch is held. -/
def heldDone (s : State) : List Nat := (s.rdc.doneHave.filter fun d => d.2 = epochNow s).map (·.1)

def permState (s : State) : Nat := fld (reg s .rdc 0x088).toNat 1 0

/-- PERM_STS: the state, and the members whose PERM_DONE is held, of this epoch or of a pending one (Table 10.11). -/
def setPerm (v : Nat) (s : State) : State := setReg .rdc 0x088 (w32 (v + 2 ^ 16 * (s.rdc.doneHave.map (·.1)).dedup.length)) s

/-- Words of an entry. -/
def permWords (e : Perm) : Nat := e.nblk * 32 * e.words

/-- Entries that this module has run: those it has sent, and those of which it has received every word. -/
def permRun (s : State) (p : Plan) : Nat :=
  (p.perms.zipIdx.filter fun e => (e.1.src = selfM s && e.1.dst ≠ selfM s) ||
    (e.1.dst = selfM s && permWords e.1 ≤ mget 0 s.rdc.permGot e.2)).length

/-- The PERMUTE ledger item (17 Table 17.15): entries run, and the outcome. -/
def permItem (ok : Bool) (s : State) : State :=
  let n := match s.rdc.plan with | some p => permRun s p | none => 0
  ledgerItem 0x0007 (natLE 4 n ++ natLE 1 (if ok then 2 else 3) ++ zeros 27) s

/-- The exchange is over once PERM_DONE of every member and of this one is held (R329). -/
def permFinish (s : State) : State :=
  if permState s ≠ 1 then s
  else if (selfM s :: members s).all fun m => m ∈ heldDone s then permItem true (setPerm 2 s)
  else setPerm 1 s

/-- Has the module received every word of each entry whose TO it is? -/
def permAll (s : State) (p : Plan) : Bool :=
  p.perms.zipIdx.all fun e => e.1.dst ≠ selfM s || permWords e.1 ≤ mget 0 s.rdc.permGot e.2

/-- With all received and all sent, PERM_DONE goes to every member (R329). -/
def permOwnDone (s : State) : State :=
  match s.rdc.plan with
  | none => s
  | some p =>
    if permState s ≠ 1 || selfM s ∈ heldDone s || !permAll s p then s
    else
      let rn : Redn := ⟨0, 0, 0, false, 0, 0, 0, 0, 0, 0⟩
      let s := sendAll (members s) (redHeader s 0x21 rn 0xFFFF) s
      permFinish { s with rdc := { s.rdc with doneHave := addNew (selfM s, epochNow s) s.rdc.doneHave } }

/-- Send one entry's words: frames of at most 2,048 bytes and of whole blocks. -/
def sendEntry (i : Img) (k : Nat) (e : Perm) (s : State) : State :=
  let per := max 1 (16 / max 1 e.words)
  let rn : Redn := ⟨0, 0, 0, false, 0, 0, 0, 0, 0, 0⟩
  forAll (List.range (ceilDiv e.nblk per)) (fun c s =>
    let n := min per (e.nblk - c * per)
    sendRed e.dst { redHeader s 0x20 rn 0xFFFF with blk0 := k, nblk := n, cscale := w32 (c * per * 32 * e.words)
                                                    words := stateWords s i e.words (e.srcBlk + c * per) n } s) s

/-- The permute of a new plan (R328, R329): every outgoing word is read before any location is written. -/
def startPermute (p : Plan) (s : State) : State :=
  match s.image with
  | none => s
  | some i =>
    let s := { s with rdc := { s.rdc with permGot := [], permSent := 0, permStart := s.now,
                                           doneHave := s.rdc.doneHave.filter fun d => d.2 = epochNow s } }
    let s := setPerm 1 s
    let mine := p.perms.zipIdx.filter fun e => e.1.src = selfM s
    let locals : List (Perm × Nat × List W32) := (mine.filter fun e => e.1.dst = selfM s).map fun e =>
      (e.1, e.2, stateWords s i e.1.words e.1.srcBlk e.1.nblk)
    let s := forAll (mine.filter fun e => e.1.dst ≠ selfM s) (fun e s => sendEntry i e.2 e.1 s) s
    let s := { s with rdc := { s.rdc with permSent := mine.length } }
    let s := locals.foldl (fun s x =>
      let s := putStateWords i x.1.words x.1.dstBlk 0 x.2.2 s
      { s with rdc := { s.rdc with permGot := mput 0 x.2.1 (permWords x.1) s.rdc.permGot } }) s
    permOwnDone s

/-- Words arrive for an entry of this module; a frame that matches no entry is dropped (DESIGN CHOICE: R306 names no kind of
mismatch for it). -/
def permuteIn (f : RFrame) (s : State) : State :=
  redIn f (fun p s =>
    match s.image, p.perms[f.blk0]? with
    | some i, some e =>
      if permState s ≠ 1 || e.dst ≠ selfM s || e.src ≠ f.src || permWords e < f.cscale.toNat + f.words.length then s
      else
        let s := putStateWords i e.words e.dstBlk f.cscale.toNat f.words s
        permOwnDone { s with rdc := { s.rdc with permGot := mput 0 f.blk0 (mget 0 s.rdc.permGot f.blk0 + f.words.length) s.rdc.permGot } }
    | _, _ => s) s

/-- PERMUTE (10 R329). -/
def execPermute (f : RFrame) (s : State) : Res := .next (permuteIn { f with typ := 0x20 } s)

/-- A PERM_DONE of the epoch in force counts; one of the pending epoch is held for the switch (11 R357). -/
def permDoneIn (f : RFrame) (s : State) : State :=
  if !diesRun s then s
  else if f.epoch = epochNow s || f.epoch = epochNext s then
    let s := { s with rdc := { s.rdc with doneHave := addNew (f.src, f.epoch) s.rdc.doneHave } }
    permFinish (setPerm (permState s) s)
  else bump .rdc 0x074 s

/-- PERM_DONE (10 R329, 11 R357). -/
def execPermDone (f : RFrame) (s : State) : Res := .next (permDoneIn { f with typ := 0x21 } s)

/-- A permute that is not complete in 2 s fails (R330); the module stays held at the boundary. -/
def permuteTimeout (s : State) : State :=
  if !powered s || permState s ≠ 1 then s
  else
    let s := { s with now := max s.now (s.rdc.permStart + 2000000000) }
    permItem false (setErr .rdc 5 (setPerm 3 s))

/-- PERMUTE_TIMEOUT (10 R330). -/
def execPermuteTimeout (s : State) : Res := .next (permuteTimeout s)

/-! The switch (11 R356). -/

/-- Channels in which a member takes part (R301). -/
def ownChans (p : Plan) (m : Nat) : Nat :=
  (p.chans.filter fun c => let sh := (p.shares.drop c.shFirst).take c.nsh
    m = c.home || (c.shadowed && m = c.shome) || sh.any fun x => m ∈ [x.primary, x.backup0, x.backup1, x.parent, x.pshadow]).length

/-- The bytes of the plan at an HBM address: its 64-byte header gives its length. -/
def planAt (s : State) (a : Nat) : List Byte :=
  let n := planCounts (hbmBytes s a 64)
  hbmBytes s a (64 + 32 * n.1 + 16 * n.2.1 + 32 * n.2.2.1 + 32 * n.2.2.2)

/-- The plan of the values that would take effect, if it passes R301. -/
def nextPlan (s : State) (i : Img) : Option Plan :=
  let a := (cfgv s .rdc 0x210).toNat + 2 ^ 32 * (cfgv s .rdc 0x214).toNat
  let m := fld (cfgv s .rdc 0x20C).toNat 15 0
  if a = 0 then (if 256 < ownChans i.plan m then none else some i.plan)
  else
    let b := planAt s a
    let p := parsePlan b
    if planBad b || planOverlap p || 256 < ownChans p m then none else some p

/-- Channels of a plan, each with its first headroom. -/
def freshChans (p : Plan) : SMap ChanSt :=
  p.chans.foldl (fun m c => mput default c.num { (default : ChanSt) with h := c.h0 } m) []

/-- The RDC and LNK values in force at a step boundary; a changed epoch brings its plan and its permute, or, with a plan that
fails its checks, stays out and holds the module at the boundary (R356, 10 R328). -/
def epochBoundary (s : State) : State :=
  match s.image with
  | none => takeStepBank s
  | some i =>
    if epochNext s = epochNow s && !s.rdc.epochPend then { s with stepBank := activeBank s }
    else match nextPlan s i with
      | none =>
        let s := takeLnk s
        setErr .rdc 5 { s with rdc := { s.rdc with epochPend := true } }
      | some p =>
        let s := takeEpoch s
        let s := { s with rdc := { s.rdc with plan := some p, chans := freshChans p, epochPend := false, deadGrp := [] } }
        startPermute p (showGroups s)

/-- Does the epoch hold the module at the step boundary? -/
def epochHolds (s : State) : Bool := s.rdc.epochPend || permState s = 1 || permState s = 3

end Sys2Proof.Machine
end

