-- ==== Sys2Proof/Machine/LinkRx.lean ====
section
/-! DEFINITION. Frames that arrive on Ngamor links: checks, acknowledgement, delivery and forwarding (11 R339 to R362), and
the signals that travel to far setts of this module and of others (07 R216 to R222). -/

namespace Sys2Proof.Machine

/-! Far setts (07 R220). -/

/-- The die nearest to a tile along its row or column; of equals west, then east, then north (DESIGN CHOICE). -/
def nearestDie (i : Img) (u v : Nat) : Die :=
  let w := u + 1
  let e := i.reqU - u
  let n := v + 1
  let z := i.reqV - v
  let m := min (min w e) (min n z)
  let (side, j) := if w = m then (0, v) else if e = m then (1, v) else if n = m then (2, u) else (3, u)
  (busDie i side j).getD 0

/-- The image tile at the edge before that die. -/
def edgeTile (i : Img) (u v : Nat) : Nat × Nat :=
  match (nearestDie i u v).val / 4 with | 0 => (0, v) | 1 => (i.reqU - 1, v) | 2 => (u, 0) | _ => (u, i.reqV - 1)

/-- A far-sett signal at a die goes to its sett, or in a FAR frame to the module that TMOD names (11 R358). -/
def farGo (d : Die) (pay : List Byte) (s : State) : State :=
  let fs := byteAt pay 6
  let tmod := fieldLE pay 12 2
  if tmod = 0xFFFF || tmod = ownId s then farSignal (Fin.ofNat 16 (fs / 16)) (Fin.ofNat 16 fs) (ownId s) d.val s
  else sendTo d (newFrame 2 tmod (ownId s) false (pay.take 16 ++ natLE 2 (epochNow s))) s

/-- A FAR signal leaves a tile for the edge. -/
def farFrom (u v : Nat) (p : Port) (pay : List Byte) (s : State) : State :=
  match s.image with
  | none => s
  | some i =>
    let e := edgeTile i u v
    let f := mkFlit (ctlHdr e.1 e.2 0) pay
    sendCtl u v p f (fun s => farGo (nearestDie i u v) pay (charge e.1 e.2 2 s)) s

/-- An FSIGNAL record (07 R220). -/
def fsignalRec (u v : Nat) (st : Strm) (_ : Img) (k : Nat) (r : OpRec) (s : State) : State :=
  let s := unfencedCheck u v st k r s
  farFrom u v .l (signalPay 0 0 (strmCode st) u v true (r.p8 52) (bodyTick s) (r.p16 54)) s

/-- FSIGNAL (07 R220). -/
def execFsignal (u v : Nat) (st : Strm) (s : State) : Res := .next (issue u v st 0x06 (fsignalRec u v st) s)

/-- SIGNAL_FLIT (05 R127, 07 R216). -/
def execSignalFlit (u v : Nat) (p : Port) (f : Flit) (s : State) : Res := .next (signalIn (farFrom u v p) u v p f s)

/-! Acknowledgement, NAK, windows (11 R342, R343). -/

/-- The trailer of an intact frame releases frames and buffer credit; what may leave then leaves after (`rxLink`). -/
def takeTrailer (p : Die) (f : LFrame) (s : State) : State :=
  let l := linkSt s p
  let l := if f.ackv then
      match l.unacked.findIdx? fun g => g.lseq % 4096 = f.ackseq with
      | some k => { l with unacked := l.unacked.drop (k + 1), replays := 0 }
      | none => l
    else l
  let l := if f.freev then
      let x := l.freeSeq + (f.freeseq + 1 + 4096 - l.freeSeq % 4096) % 4096
      if x ≤ l.txSeq then { l with freeSeq := x } else l
    else l
  setLink p l s

/-- One NAK with the expected LSEQ, at most one in 2 µs (R343). -/
def sendNak (p : Die) (s : State) : State :=
  let l := linkSt s p
  if s.now < l.nakUntil then s
  else sendOn p (newFrame 0x0B l.far (ownId s) true (natLE 2 (l.rxExp % 4096))) (setLink p { l with nakUntil := s.now + 2000 } s)

/-- On a NAK every unacknowledged frame from the named LSEQ on is sent again (R343). -/
def nakIn (p : Die) (f : LFrame) (s : State) : State :=
  match (linkSt s p).unacked.findIdx? fun g => g.lseq % 4096 = fieldLE f.body 0 2 % 4096 with
  | some k =>
    let l := linkSt s p
    if 4 ≤ l.replays then pathFails p s
    else replayFrom p k (bump (.lnk p) 0x058 (setLink p { l with replays := l.replays + 1 } s))
  | none => s

/-! Neighbours (R351, R352). -/

/-- The peer entry of a neighbour, found or created; none when the table is full. A new entry is not valid as a member; it
stands in both banks and in force (DESIGN CHOICE). -/
def learnPeer (id : Nat) (s : State) : Option (Nat × State) :=
  match peerOf s id with
  | some n => some (n, s)
  | none => ((List.range 1024).find? fun n => !decide (n ∈ peerIdx s)).map fun n =>
      let k := peerW0Key n
      let w := w32 (id * 65536 + 0xFFFF)
      (n, { s with bankA := rput k w s.bankA, bankB := rput k w s.bankB, stepBank := rput k w s.stepBank })

/-- A HELLO arrives on a port (R352). -/
def helloIn (p : Die) (f : LFrame) (s : State) : State :=
  let id := fieldLE f.body 0 2
  if id = 0 || id = 0xFFFF then s
  else if id = ownId s then
    let s := setErr (.lnk p) 4 (setLink p { linkSt s p with conflict := true, nbrIv := 0 } s)
    if (linkSt s p).onAlt then s else setLnkState p 2 s
  else match learnPeer id s with
    | none => bump .rdc 0x238 s
    | some (n, s) =>
      let s := setReg (.lnk p) 0x048 (w32 (id * 65536 + byteAt f.body 2 % 16)) s
      let s := setLink p { linkSt s p with conflict := false, nbrIv := max 1 (byteAt f.body 6), far := id } s
      let ports := dies.filter fun q => q = p || ((linkSt s q).nbrIv ≠ 0 && fld (reg s (.lnk q) 0x048).toNat 31 16 = id)
      let s := setPeer n { peerSt s n with nbr := true, port := (ports.headD p).val, hello := s.now, epoch := fieldLE f.body 4 2
                                           flags := byteAt f.body 3 % 8, job := fieldLE f.body 8 8 } s
      pump p (showActive s)

/-! Job time (R359). A TSYNC body holds its kind (0 request, 1 response), 7 zero bytes, t1, t2 and t3 (DESIGN CHOICE). -/

def tsyncBody (kind t1 t2 t3 : Nat) : List Byte := natLE 1 kind ++ zeros 7 ++ natLE 8 t1 ++ natLE 8 t2 ++ natLE 8 t3

/-- The port toward the time parent. -/
def tparent (s : State) : Option Die := (fittedPorts s.code).find? fun p => (lnkCfg s p).testBit 16

/-- A request is answered at once. -/
def tsyncAnswer (p : Die) (f : LFrame) (s : State) : State :=
  sendDirect p (newFrame 9 f.src (ownId s) true (tsyncBody 1 (fieldLE f.body 8 8) (jtime s) (jtime s))) s

/-- A response yields the offset estimate and the round trip. JOFF takes the estimate at once outside Run; in Run it slews there at no
more than 100 ppm (R359). -/
def tsyncTake (p : Die) (f : LFrame) (s : State) : State :=
  let t1 := fieldLE f.body 8 8
  if (linkSt s p).t1 ≠ some t1 then s
  else
    let t2 := fieldLE f.body 16 8
    let t3 := fieldLE f.body 24 8
    let t4 := jtime s
    let d (a b : Nat) : Int := sgn 64 (a + 2 ^ 64 - b % 2 ^ 64)
    let off := (d t2 t1 - d t4 t3) / 2
    let rtt := d t4 t1 - d t3 t2
    let s := setReg (.lnk p) 0x08C (w32 (unsgn 32 off)) (setLink p { linkSt s p with t1 := none } s)
    let s := match peerOf s (linkSt s p).far with
      | some n => setPeer n { peerSt s n with rtt := (iclamp 0 0xFFFF rtt).toNat } s
      | none => s
    if isMaster s || tparent s ≠ some p then s
    else
      let j := joffNow s
      setJoff (if s.run = .run then j else j + off) (j + off) { s with tsynced := true }

/-- TSYNC_TIMER (11 R359): the time master's JOFF is 0. -/
def execTsyncTimer (s : State) : Res :=
  .next (if !powered s then s
    else if isMaster s then setJoff 0 0 s
    else match tparent s with
      | none => s
      | some p =>
        if !(linkSt s p).portUp then s
        else
          let s := setLink p { linkSt s p with t1 := some (jtime s) } s
          sendDirect p (newFrame 9 (linkSt s p).far (ownId s) true (tsyncBody 0 (jtime s) 0 0)) s)

/-! Delivery. -/

/-- A reduction frame by its type (10 Table 10.8). -/
def redDeliver (f : RFrame) (s : State) : State :=
  if 1 ≤ f.typ && f.typ ≤ 4 then contribIn f s
  else match f.typ with
    | 5 => paramIn f s
    | 0x10 => widenIn f s
    | 0x11 => resendIn f s
    | 0x12 => doneIn f s
    | 0x20 => permuteIn f s
    | 0x21 => permDoneIn f s
    | _ => redIn f (fun _ s => mismatch 2 f s) s

/-- A FAR frame for this module (07 R222). Which die of the sender signalled is not in the frame: that field is free. -/
def farIn (f : LFrame) (s : State) : State :=
  let fs := byteAt f.body 6
  let d : Die := Fin.ofNat 16 (fs / 16)
  if fieldLE f.body 16 2 ≠ epochNow s then setErr (.fst d) 1 (bump (.fst d) 0x140 s)
  else farSignal d (Fin.ofNat 16 fs) f.src ((Config.freeWord s.fc).toNat % 16) (freshFree s)

/-- A refused stage frame (R362): `n` is the entry, 0xFFFF for an unknown DREG. -/
def xferBad (p : Die) (n : Nat) (s : State) : State :=
  let s := setErr (.lnk p) 6 (bump (.lnk p) 0x078 s)
  let s := setReg .rdc 0x064 0xFFFF (setReg .rdc 0x060 (w32 (9 * 2 ^ 28 + n)) (setErr .rdc 1 s))
  if n = 0xFFFF then s else { s with stageSt := mput default n { mget default s.stageSt n with stopped := true } s.stageSt }

/-- A transfer's frame at its stage entry `n` (11 R362). -/
def xferPart (p : Die) (f : LFrame) (e : StageEnt) (n : Nat) (r : Region) (s : State) : State :=
  let cnt := fieldLE f.body 4 4
  let off := fieldLE f.body 8 8
  let data := f.body.drop 16
  let x := mget default s.stageSt n
  if x.stopped then s
  else if cnt ≠ x.rxCount || off ≠ x.rxOff || e.size < off + data.length || data.length % 64 ≠ 0 || data.isEmpty || 2048 < data.length then
    xferBad p n s
  else
    let s := regionWrite r cnt off data s
    if off + data.length = e.size then
      let s := { s with stageSt := mput default n { x with rxCount := x.rxCount + 1, rxOff := 0 } s.stageSt }
      farSignal (Fin.ofNat 16 (e.dfs / 16)) (Fin.ofNat 16 e.dfs) (ownId s) r.owner.val s
    else { s with stageSt := mput default n { x with rxOff := off + data.length } s.stageSt }

/-- A stage frame (R362): the entry is the one whose receiving member and region are this module's. -/
def xferIn (p : Die) (f : LFrame) (s : State) : State :=
  match s.image with
  | none => s
  | some i =>
    let dreg := fieldLE f.body 0 2
    match i.stagesT.zipIdx.find? fun e => e.1.dmemb = selfM s && e.1.dreg = dreg with
    | none => xferBad p 0xFFFF s
    | some e =>
      match regionOf i dreg with
      | none => xferBad p 0xFFFF s
      | some r => xferPart p f e.1 e.2 r s

/-- The die that a reduction frame's blocks go to. -/
def redDie (s : State) (f : RFrame) : Die := if 1 ≤ f.typ && f.typ ≤ 5 then blockDie s f.blk0 else 0

/-- A frame of this module that passed its link: delivered over the ring, if that still joins the dies (15 R444), or forwarded on its
route (R353). -/
def deliverFrame (tunnel : LFrame → State → State) (p : Die) (f : LFrame) (s : State) : State :=
  if !decide (f.ltype ∈ [1, 2, 3, 4]) then bump (.lnk p) 0x074 s
  else if f.dst ≠ ownId s then
    if f.ttl ≤ 1 then bump (.lnk p) 0x06C s
    else
      let n := flitsFor f.body.length
      sendTo p { f with ttl := f.ttl - 1, len := n, enc := false, fec := (0, 0), flits := frameFlits f.bulk n } s
  else match f.ltype with
    | 1 => if ringReach s p (redDie s (redOfBytes s f.body)) then redDeliver (redOfBytes s f.body) s else s
    | 2 => if ringReach s p (Fin.ofNat 16 (byteAt f.body 6 / 16)) then farIn f s else s
    | 3 => xferIn p f s
    | _ => tunnel f s

/-! Reception (R339, R342 to R347). -/

/-- The clear body of a sequenced frame, or what its failure does: none counts in GCM_FAIL. -/
def openFrame (s : State) (p : Die) (f : LFrame) : Option LFrame :=
  if !s.isSealed then (if f.enc then none else some f)
  else if !f.enc then none
  else match mfind s.linkKeys (2 * p.val + 1) with
    | none => none
    | some k =>
      let c := fieldLE f.body 0 8
      if c ≤ (linkSt s p).rxCtr then none
      else (Config.gcmOpen k.salt k.key c (frameHead f ++ natLE 8 c) (f.body.drop 8)).map fun b =>
        { f with body := b, enc := false, bulk := if f.ltype = 4 then f.bulk else bulkClass f.ltype b }

/-- Did a frame come as far as the check of its tag (R347)? -/
def tagChecked (s : State) (p : Die) (f : LFrame) : Bool :=
  s.isSealed && f.enc && (mfind s.linkKeys (2 * p.val + 1)).isSome && (linkSt s p).rxCtr < fieldLE f.body 0 8

/-- A frame that fails R347; the third in a row with one LSEQ whose tag fails holds the link down. -/
def gcmFail (p : Die) (f : LFrame) (s : State) : State :=
  let s := if sjuFitted s.code then bump (.lnk p) 0x064 s else s
  if !tagChecked s p f then s
  else
    let l := linkSt s p
    let n := if l.tagFails.1 = f.lseq + 1 then l.tagFails.2 + 1 else 1
    let s := setLink p { l with tagFails := (f.lseq + 1, n) } s
    if n = 3 then setLnkState p 5 (setErr (.lnk p) 3 (setLink p { linkSt s p with heldDown := true } s)) else s

/-- A sequenced frame: in order it is taken and acknowledged, a duplicate is counted, another asks for a replay. In Sealed a port
without both its keys carries none (16 R463). -/
def rxSequenced (tunnel : LFrame → State → State) (p : Die) (f : LFrame) (s : State) : State :=
  let l := linkSt s p
  if l.heldDown || (s.isSealed && !bothKeys s p.val) then s
  else if f.lseq % 4096 = l.rxExp % 4096 then
    match openFrame s p f with
    | none => gcmFail p f s
    | some g =>
      let ctr := if f.enc then fieldLE f.body 0 8 else l.rxCtr
      let s := setLink p { l with rxExp := l.rxExp + 1, freed := l.rxExp + 1, report := true, tagFails := (0, 0), rxCtr := ctr } s
      deliverFrame tunnel p g s
  else if (l.rxExp + 4096 - f.lseq % 4096) % 4096 ≤ 2048 then
    bump (.lnk p) 0x060 (setLink p { l with report := true } s)
  else sendNak p s

/-- A frame that is never sequenced. -/
def rxUnsequenced (p : Die) (f : LFrame) (s : State) : State :=
  match f.ltype with
  | 0x08 => helloIn p f s
  | 0x09 => if byteAt f.body 0 = 0 then tsyncAnswer p f s else tsyncTake p f s
  | 0x0A => s
  | 0x0B => nakIn p f s
  | _ => bump (.lnk p) 0x074 s

/-- A frame at a logical link. What its trailer lets out leaves before it is taken; but a NAK's replay comes before any new frame
(R343). -/
def rxLink (tunnel : LFrame → State → State) (p : Die) (f : LFrame) (s : State) : State :=
  if !frameOk f then sendNak p (bump (.lnk p) 0x054 s)
  else
    let s := takeTrailer p f s
    let seq := decide (f.ltype ∈ [1, 2, 3, 4]) || (!decide (f.ltype ∈ [8, 9, 0xA, 0xB]) && !f.noseq)
    if seq then rxSequenced tunnel p f (pump p s)
    else if f.ltype = 0x0B then pump p (rxUnsequenced p f s)
    else rxUnsequenced p f (pump p s)

/-- A TUNNEL frame for this module (R348): its inner frame goes to the link of the port that faces the sender; a tunnel in a
tunnel is never sent and is dropped as an unknown type. The inner frame has the class of the flits that carried it. -/
def untunnel (p : Die) (f : LFrame) (s : State) : State :=
  let g := parseFrame (f.body.take (62 * byteAt f.body 7))
  let g := { g with bulk := f.bulk, flits := if g.flits.isEmpty then [] else frameFlits f.bulk g.len }
  match (fittedPorts s.code).find? fun q => (linkSt s q).far = f.src && f.src ≠ 0 with
  | none => bump (.lnk p) 0x070 s
  | some q => rxLink (fun _ s => bump (.lnk q) 0x074 s) q g s

/-- What the flits of a port did: framing errors, and whether the last of them ended a whole frame of so many flits. -/
structure Framing where
  errs : Nat
  openB : Option Nat
  openC : Option Nat
  done : Option Nat

/-- One flit at a receiver of a frame of `len` flits and a class (R340). One of KIND 0b11 is of no class: it discards what is open (DESIGN
CHOICE). A frame of the other class, whose header came before, has at most 40 flits (R338). -/
def takeFlit (bulk : Bool) (len : Nat) (x : Framing) (h : FlitHead) : Framing :=
  let x := { x with done := none }
  let put (o : Option Nat) (x : Framing) : Framing := if h.kind = .bulk then { x with openB := o } else { x with openC := o }
  match h.kind with
  | .idle => x
  | .invalid => { x with errs := x.errs + 1, openB := none, openC := none }
  | _ =>
    let cur := if h.kind = .bulk then x.openB else x.openC
    if h.sof = cur.isSome then put none { x with errs := x.errs + 1 }
    else
      let n := cur.getD 0 + 1
      if (if decide (h.kind = .bulk) = bulk then len else 40) < n then put none { x with errs := x.errs + 1 }
      else if h.eof then put none { x with done := some n } else put (some n) x

/-- The flits of a frame's command pass the receiver. -/
def frameIn (s : State) (p : Die) (f : LFrame) : Framing :=
  f.flits.foldl (takeFlit f.bulk f.len) ⟨0, (linkSt s p).openB, (linkSt s p).openC, none⟩

/-- A frame arrives on a port that is Up. A framing error, or more flits than its LEN, is handled as a CRC failure (R340). -/
def rxFrame (p : Die) (f : LFrame) (s : State) : State :=
  if !powered s || !portFitted s.code p || !(linkSt s p).portUp then s
  else
    let x := frameIn s p f
    let s := setLink p { linkSt s p with openB := x.openB, openC := x.openC } s
    let s := countFlits p 0x084 (f.flits.filter fun h => h.kind ≠ .idle).length s
    let s := bump (.lnk p) 0x050 (bump (.lnk p) 0x04C s f.fec.1) f.fec.2
    let s := (List.range x.errs).foldl (fun s _ => sendNak p (bump (.lnk p) 0x054 s)) s
    match x.done with
    | none => s
    | some n => if n = f.len then rxLink (untunnel p) p f s else sendNak p (bump (.lnk p) 0x054 s)

/-- FAR_FRAME (11 R358). The frame's own LTYPE decides what is done with it, here and in the commands below: so a frame of an
unknown type (R339) or a reduction frame to be forwarded (R353) arrives by these commands too. -/
def execFarFrame (p : Die) (f : LFrame) (s : State) : Res := .next (rxFrame p f s)
/-- XFER_FRAME (11 R362). -/
def execXferFrame (p : Die) (f : LFrame) (s : State) : Res := .next (rxFrame p f s)
/-- TUNNEL_FRAME (11 R348). -/
def execTunnelFrame (p : Die) (f : LFrame) (s : State) : Res := .next (rxFrame p f s)
/-- HELLO (11 R352). -/
def execHello (p : Die) (f : LFrame) (s : State) : Res := .next (rxFrame p f s)
/-- TSYNC_REQUEST (11 R359). -/
def execTsyncRequest (p : Die) (f : LFrame) (s : State) : Res := .next (rxFrame p f s)
/-- TSYNC_RESPONSE (11 R359). -/
def execTsyncResponse (p : Die) (f : LFrame) (s : State) : Res := .next (rxFrame p f s)
/-- ACK (11 R342). -/
def execAck (p : Die) (f : LFrame) (s : State) : Res := .next (rxFrame p f s)
/-- NAK (11 R343). -/
def execNak (p : Die) (f : LFrame) (s : State) : Res := .next (rxFrame p f s)

end Sys2Proof.Machine
end

