-- ==== Sys2Proof/Machine/Ue.lean ====
section
/-! DEFINITION. The Update Engines (09 R282 to R286, R292): streams, the engine's own instructions, exchanges, and the order in
which programs run. -/

namespace Sys2Proof.Machine

/-- The reduction completed here that covers a home block. -/
def redAt (s : State) (b : Nat) : Option Redn := (homeReds s).find? fun rn => rn.blk0 ≤ b && b < rn.blk0 + rn.nblk

/-- Elements of a group: 131,072, or those that the reductions completed here reach in the last one (R240). -/
def groupElems (s : State) (g : Nat) : Nat :=
  let ends := ((homeReds s).filter fun rn => rn.blk0 < 4096 * (g + 1) && 4096 * g < rn.blk0 + rn.nblk).map fun rn => rn.blk0 + rn.nblk
  if ends.isEmpty then 131072 else 32 * (min (4096 * (g + 1)) (ends.foldl max 0) - 4096 * g)

/-! Elements of a region. -/

/-- The element a stream has for element `e` of group `g`, counted from the span's first element (R284). -/
def streamIdx (u : UProg) (t : UStream) (g e : Nat) : Nat := (g - u.group0) * t.estride + e

/-- Bytes that hold an element of a packed region (03 R74). -/
def packSpan (fmt el : Nat) : Nat × Nat :=
  match fmtBits fmt with
  | 4 => (el / 2, 1)
  | 6 => (3 * (el / 4), 3)
  | b => (el * b / 8, b / 8)

/-- The code of an element inside those bytes. -/
def packGet (fmt el v : Nat) : Nat :=
  match fmtBits fmt with
  | 4 => v / 16 ^ (el % 2) % 16
  | 6 => v / 64 ^ (el % 4) % 64
  | _ => v

/-- Those bytes with the code replaced. -/
def packSet (fmt el v c : Nat) : Nat :=
  match fmtBits fmt with
  | 4 => v - v / 16 ^ (el % 2) % 16 * 16 ^ (el % 2) + c % 16 * 16 ^ (el % 2)
  | 6 => v - v / 64 ^ (el % 4) % 64 * 64 ^ (el % 4) + c % 64 * 64 ^ (el % 4)
  | _ => c

def regionCode (s : State) (r : Region) (fmt gen el : Nat) : Nat :=
  let p := packSpan fmt el
  packGet fmt el (leNat (regionRead s r gen p.1 p.2))

def putRegionCode (r : Region) (fmt gen el c : Nat) (s : State) : State :=
  let p := packSpan fmt el
  regionWrite r gen p.1 (natLE p.2 (packSet fmt el (leNat (regionRead s r gen p.1 p.2)) c)) s

/-- An element of a region as FP32, and whether it saturates (03 R96). -/
def regionElemS (s : State) (r : Region) (fmt gen el : Nat) : W32 × Bool :=
  let c := regionCode s r fmt gen el
  if blockFmt r fmt then enc32 .rne (blockVal fmt c (leNat (regionRead s r gen (blockByte r el) 1)))
  else if r.chlen ≠ 0 then scaledS fmt c (w32 (leNat (regionRead s r gen (codesBytes r + 4 * (el / r.chlen)) 4)))
  else scaledS fmt c one32

/-- An element of a region as FP32 (03 R96). -/
def regionElem (s : State) (r : Region) (fmt gen el : Nat) : W32 := (regionElemS s r fmt gen el).1

/-- Bytes of a region that an element is read from: its code, its block exponent and its channel scale. -/
def elemSpans (r : Region) (fmt el : Nat) : List (Nat × Nat) :=
  packSpan fmt el :: ((if blockFmt r fmt then [(blockByte r el, 1)] else []) ++
    if r.chlen ≠ 0 then [(codesBytes r + 4 * (el / r.chlen), 4)] else [])

def elemPoisoned (s : State) (r : Region) (fmt gen el : Nat) : Bool :=
  (elemSpans r fmt el).any fun p => regionPoisoned s r gen p.1 p.2

/-- The reads of elements `el0` to `el1` of a region: codes, block exponents and channel scales. -/
def touchElems (r : Region) (fmt gen el0 el1 : Nat) (s : State) : State :=
  let a := (packSpan fmt el0).1
  let z := packSpan fmt el1
  let s := regionTouch r gen a (z.1 + z.2 - a) s
  let s := if blockFmt r fmt then regionTouch r gen (blockByte r el0) (blockByte r el1 + 1 - blockByte r el0) s else s
  if r.chlen ≠ 0 then regionTouch r gen (codesBytes r + 4 * (el0 / r.chlen)) (4 * (el1 / r.chlen + 1 - el0 / r.chlen)) s else s

/-- The home as which this module adds a channel's blocks. -/
def homeRole (s : State) (rn : Redn) : Nat := ((s.rdc.plan.bind fun p => chanOf p rn.chan).map (·.home)).getD 0

/-- A sum of a home block as FP32: exact (03 R97, R98); a block without a sum counts as +0. -/
def sumElem (s : State) (b e : Nat) : W32 :=
  match redAt s b with
  | some rn =>
    let k := redKey rn.chan rn.rseq
    match mfind (addSt s k (homeRole s rn)).sums b with
    | some x => (enc32 .rne (fromGW (redSt s k).wide x.x (x.lanes.getD e 0))).1
    | none => 0
  | none => 0

/-! The engine. -/

def upeErr (d : Die) (n : Nat) (s : State) : State := setErr (.upe d) n s

def setUeRun (d : Die) (r : Option URun) (s : State) : State :=
  let x := dieSt s d
  let s := setDie d { x with ue := { x.ue with run := r } } s
  match r with
  | some r => setReg (.upe d) 0x044 (w32 (r.groups.headD 0)) (setReg (.upe d) 0x040 (w32 (2 ^ 31 + r.prog % 2 ^ 16)) s)
  | none => setReg (.upe d) 0x044 0 (setReg (.upe d) 0x040 0 s)

/-- Run the engine's next instruction if it is the one a command names. -/
def onUe (d : Die) (vop : Nat) (fs : List (Nat × Nat × Nat)) (f : URun → UProg → State → State) (s : State) : State :=
  match ueWord s d with
  | some (r, u, w) => if vIs w vop fs then f r u s else s
  | none => s

/-- An engine's cycles in its busy counter (R292). -/
def addBusy (d : Die) (n : Nat) (s : State) : State :=
  if pageFrz s (.upe d) then s else setReg64 (.upe d) 0x050 (reg64 s (.upe d) 0x050 + n) s

/-- Position of a pass's first LDS, where each iteration starts (R284). -/
def loopStart (ws : List W32) : Option Nat := ws.findIdx? fun w => vVop w.toNat = 0x20

/-- Cycles of an engine instruction: a POLY takes one for each degree and one more, as Table 9.15 counts it (degree 5: 6). -/
def ueCost (i : Img) (u : UProg) (w : Nat) : Nat :=
  if vVop w = 0x0F then (Config.polyTable i.polys (if vMod w % 2 = 0 then u.tables.1 else u.tables.2)).degree + 1 else 1

/-- Edge-core cycles of instructions run one after another; LDS, STS and END are in no count of them (R284). -/
def codeCycles (i : Img) (u : UProg) (code : List W32) : Nat :=
  (((code.map (·.toNat)).filter fun w => !(vVop w ∈ [0x20, 0x21, 0x29])).map (ueCost i u)).sum

/-- Edge-core cycles of an iteration (R284). -/
def iterCycles (i : Img) (u : UProg) (body : List W32) : Nat :=
  let count (v : Nat) : Nat := (body.filter fun w => vVop w.toNat = v).length
  max (codeCycles i u body) (max (count 0x20) (count 0x21 + count 0x22))

/-- Edge-core cycles of a group's pass (R284); the first group's has the prologue in front. -/
def passCycles (i : Img) (u : UProg) (ws : List W32) (n : Nat) (first : Bool) : Nat :=
  let k := (loopStart ws).getD ws.length
  (n + 255) / 256 * iterCycles i u (ws.drop k) + 40 + (if first then codeCycles i u (ws.take k) else 0)

/-- Edge-core cycles of the part of a pass that a run has done when it stops: its iterations so far, the instructions of the one that
it is in, and the prologue where it is in its first group (DESIGN CHOICE: R284 gives whole passes). -/
def partCycles (i : Img) (u : UProg) (r : URun) (first : Bool) : Nat :=
  let ws := u.passes.getD r.pass []
  let k := (loopStart ws).getD ws.length
  (if first then codeCycles i u (ws.take (min k r.pc)) else 0) + r.iter * iterCycles i u (ws.drop k)
    + codeCycles i u ((ws.take r.pc).drop k)

/-- A program run stops and its groups are not updated: every held group before the last pass, in it the groups that are left
(R271, 15 R442). The part of the pass that it has done counts as busy (R292). -/
def stopInstance (d : Die) (s : State) : State :=
  match s.image, (dieSt s d).ue.run with
  | some i, some r =>
    match i.uprogs.find? fun p => p.prog = r.prog with
    | some u =>
      let gs := if r.pass + 1 = u.passes.length then r.groups else heldGroups s u d
      let s := addBusy d (partCycles i u r ((heldGroups s u d).head? = r.groups.head?)) s
      setUeRun d none { s with rdc := { s.rdc with deadGrp := gs.foldl (fun l g => addNew g l) s.rdc.deadGrp } }
    | none => setUeRun d none s
  | _, _ => s

/-- The lanes of a register of the engine. -/
def ueReg (s : State) (d : Die) (v l : Nat) : W32 := (ueVu (dieSt s d).ue).get v l

/-- A numeric saturation at an engine (R285, 03 R96), logged with the reduction of its block, if one covers it. -/
def numSat (b layer : Nat) (s : State) : State :=
  reduceItem 4 0 ((redAt s b).getD ⟨0xFFFF, 0xFFFF, layer, false, 0, 0, 0, 0, 0, 0⟩) (selfM s) 0xFFFF b (setErr .rdc 4 (bump .rdc 0x084 s))

/-- LD (R61): 64 elements, or 256 of an engine's SRAM, converted to FP32; a scaled value beyond the range is a numeric saturation (03
R96), an engine's of no region's layer. -/
def execLd (e : Eng) (vd : Fin 16) (o : VOperand) (s : State) : Res :=
  .next (match e with
    | .tile u v =>
      match s.image with
      | none => s
      | some i =>
        let t := tile s u v
        let g := (galleryOf i u v).2
        let lines := (linesOf o.addr (64 * sramBits o.fmt / 8))
        let w (l : Nat) := scaledS o.fmt (readCode t g o.fmt (voKey o l)) o.s
        if !vuRuns s u v then s
        else
          let s' := putTileVu u v (((tileVu t).put vd fun l => (w l).1).cause ((List.range 64).any fun l => (w l).2) causeNum) s
          let s' := if lines.all (inWindow g) then s' else contractFault 6 u v 0 s'
          if lines.any fun l => inWindow g l && linePoisoned t l then
            let t' := tile s' u v
            contractFault 7 u v 0 (setTile u v { t' with poisonRd := true } s')
          else s'
    | .ue d =>
      let m := (dieSt s d).ue.sram
      let w (l : Nat) := scaledS o.fmt (codeIn m o.fmt (voKey o l % (2 * ueSramBytes))) o.s
      let t := onVu e 0x10 [fVd vd] (fun x => x.put vd fun l => (w l).1) s
      match ueWord s d with
      | some (r, _, q) =>
        if vIs q 0x10 [fVd vd] && (List.range 256).any fun l => (w l).2 then numSat (4096 * r.groups.headD 0 + 8 * r.iter) 0xFFFF t else t
      | none => t)

/-- Words that a range outside the engine's own die gives: no path of the engine reaches it (R282), so the values are free. -/
def farLanes (s : State) (l : Nat) : W32 := Config.freeWord (s.fc + l)

/-- LDS (Table 9.8): the iteration's elements of a stream; a poisoned sector stops the run, as an HBM fault (R271). -/
def ldsGo (d : Die) (vd t : Nat) (es : EccList) (r : URun) (u : UProg) (s : State) : State :=
  let g := r.groups.headD 0
  let n := groupElems s g
  let at_ (l : Nat) : Nat := 256 * r.iter + l
  match u.streams[t]? with
  | none => ueStepPc d s
  | some q =>
    match q.region with
    | none =>
      let x := (ueVu (dieSt s d).ue).put vd fun l =>
        if at_ l < n then sumElem s (4096 * g + at_ l / 32) (at_ l % 32) else 0
      putUeVu d x s
    | some ri =>
      match s.image.bind fun i => regionOf i ri with
      | none => ueStepPc d s
      | some rg =>
        if rg.owner ≠ d then { putUeVu d ((ueVu (dieSt s d).ue).put vd (farLanes s)) s with fc := s.fc + 256 }
        else
        let gen := stepNo s + q.nextGen.toNat
        let el (l : Nat) : Nat := q.elem0 + streamIdx u q g (at_ l)
        let live := (List.range 256).filter fun l => at_ l < n
        let s := addFlaws es s
        let s := if live.isEmpty then s else touchElems rg q.fmt gen (el 0) (el (live.length - 1)) s
        if live.any fun l => elemPoisoned s rg q.fmt gen (el l) then
          let s := faultItem 3 0 [] (upeErr d 0 (stopInstance d s))
          { s with asq := { s.asq with voided := true } }
        else
          let t := putUeVu d ((ueVu (dieSt s d).ue).put vd fun l =>
            if at_ l < n then regionElem s rg q.fmt gen (el l) else 0) s
          if live.any fun l => (regionElemS s rg q.fmt gen (el l)).2 then numSat (4096 * g + 8 * r.iter) rg.layer t else t

/-- LDS (09 R283, R284). -/
def execLds (d : Die) (vd : Fin 16) (r : StreamRead) (s : State) : Res :=
  .next (onUe d 0x20 [fVd vd, (2, 0, r.t)] (ldsGo d vd r.t r.ecc) s)

/-- Is a home block's channel stopped, so that nothing of it is updated (10 R306)? -/
def blockStopped (s : State) (b : Nat) : Bool := (redAt s b).any fun rn => (chanSt s rn.chan).stopped

/-- STS: a stream's elements from a register, by RNE; a saturation is a quantization overflow (R283, R292). A region of another die is
out of the engine's reach (R282): nothing is written. A SUM_READY program updates no block of a channel that has stopped (10 R306). -/
def stsGo (d : Die) (va t : Nat) (r : URun) (u : UProg) (s : State) : State :=
  let g := r.groups.headD 0
  let n := groupElems s g
  match u.streams[t]? with
  | none => ueStepPc d s
  | some q =>
    match s.image.bind fun i => q.region.bind (regionOf i) with
    | none => ueStepPc d s
    | some rg =>
      if rg.owner ≠ d then ueStepPc d s
      else
      let gen := stepNo s + q.nextGen.toNat
      let live := (List.range 256).filter fun l => 256 * r.iter + l < n
      let cs := live.map fun l => codeW q.fmt .rne one32 (ueReg s d va l)
      let s := if cs.any (·.2) then upeErr d 1 s else s
      let el0 := q.elem0 + streamIdx u q g (256 * r.iter)
      let shut (l : Nat) : Bool := u.trig = 0 && blockStopped s (4096 * g + (256 * r.iter + l) / 32)
      let s := if 8 ≤ fmtBits q.fmt && !live.any shut then
          regionWrite rg gen (el0 * fmtBits q.fmt / 8) (cs.flatMap fun c => natLE (fmtBits q.fmt / 8) c.1) s
        else (cs.zipIdx.filter fun c => !shut c.2).foldl (fun s c => putRegionCode rg q.fmt gen (el0 + c.2) c.1.1 s) s
      ueStepPc d s

/-- STS (09 R283). -/
def execSts (d : Die) (va : Fin 16) (t : Fin 8) (s : State) : Res := .next (onUe d 0x21 [fVa va, (2, 0, t)] (stsGo d va t) s)

/-! QOUT (R285). -/

/-- e_c of a channel maximum; a maximum of 0 gives −126. -/
def chanExp (fmt : Nat) (amax : W32) : Int :=
  match dec32 amax with
  | .fin _ m e => if m = 0 then -126 else iclamp (-126) 126 (ceilLog2 m e (qmax fmt).1 (qmax fmt).2)
  | _ => 126

/-- A home block's codes, packed, with its E8M0 bytes and its scale; `wide` are the values of the blocks that share its exponent
where the format's blocks are of 64 or 128 elements (R285, 04 R118). Without per-channel scales there is no scale, and CSCALE is 0
(10 Table 10.7). -/
def quantBlock (rg : Region) (fmt : Nat) (amax : W32) (vs wide : List W32) : List Byte × List Byte × W32 :=
  let pack (cs : List Nat) : List Byte :=
    natLE (4 * fmtBits fmt) (cs.zipIdx.foldl (fun a c => a + c.1 * 2 ^ (fmtBits fmt * c.2)) 0)
  let fs := vs.map dec32
  if blockFmt rg fmt then
    if blockSz rg ≤ 32 then
      let parts := chunks (blockSz rg) fs
      let xs := parts.map fun p => (blockExp fmt p).1
      (pack ((parts.zip xs).flatMap fun p => blockCodes fmt p.2 p.1), xs.map (BitVec.ofNat 8 ·), 0)
    else
      let x := (blockExp fmt (wide.map dec32)).1
      (pack (blockCodes fmt x fs), [BitVec.ofNat 8 x], 0)
  else if rg.chlen ≠ 0 then
    let e := chanExp fmt amax
    (pack (fs.map fun v => (encCode fmt .rne (scale2 v (-e))).1), [], pow2w e)
  else (pack (fs.map fun v => (encCode fmt .rne v).1), [], 0)

/-- One block of a QOUT: home block, element of the stream's region, channel, values, values of the blocks under the same exponent. -/
structure QBlk where
  b : Nat
  el : Nat
  chan : Nat
  vals : List W32
  wide : List W32
  deriving Repr, Inhabited

/-- Runs of blocks of one reduction and one channel (10 R303). -/
def quantRuns (s : State) : List QBlk → List (List QBlk)
  | [] => []
  | x :: r =>
    match quantRuns s r with
    | (y :: t) :: fs => if x.chan = y.chan && (redAt s x.b).isSome && redAt s x.b = redAt s y.b then (x :: y :: t) :: fs else [x] :: (y :: t) :: fs
    | fs => [x] :: fs

/-- Next agreed exponent of a home block (10 R321). -/
def nextExp (s : State) (rn : Redn) (b : Nat) : Nat :=
  match mfind (addSt s (redKey rn.chan rn.rseq) (homeRole s rn)).sums b with | some e => e.xn | none => 0

/-- One run leaves for the parameter multicast; blocks that no reduction covers are written here only. A non-finite value is logged as
a numeric saturation. -/
def quantSend (rg : Region) (q : UStream) (amaxOf : Nat → W32) (run : List QBlk) (s : State) : State :=
  let qs := run.map fun x => (x, quantBlock rg q.fmt (amaxOf x.chan) x.vals x.wide)
  let gen := stepNo s + q.nextGen.toNat
  match run with
  | [] => s
  | x :: _ =>
    let s := forAll (qs.filter fun z => z.1.vals.any fun v => !isFin (dec32 v)) (fun z s => numSat z.1.b rg.layer s) s
    match s.rdc.plan, redAt s x.b with
    | some p, some rn =>
      homeParams p rn rg gen (qs.map fun z => (z.1.b, z.1.el, ⟨z.2.1, nextExp s rn z.1.b, z.2.2.1⟩)) (qs.headD default).2.2.2 s
    | _, _ => forAll qs (fun z s => writeCodes rg gen z.1.el ⟨z.2.1, 0, z.2.2.1⟩ z.2.2.2 s) s

/-- QOUT: eight home blocks of an iteration into the stream's region, and on to the multicast. -/
def qoutGo (d : Die) (va t : Nat) (r : URun) (u : UProg) (s : State) : State :=
  let g := r.groups.headD 0
  let n := groupElems s g
  match u.streams[t]? with
  | none => ueStepPc d s
  | some q =>
    match s.image.bind fun i => q.region.bind (regionOf i) with
    | none => ueStepPc d s
    | some rg =>
      let vals (k m : Nat) : List W32 := (List.range m).map fun j => ueReg s d va (k + j)
      let z := max 32 (blockSz rg)
      let bs := ((List.range 8).filter fun k => 256 * r.iter + 32 * k < n).map fun k =>
        let e := 256 * r.iter + 32 * k
        let x := streamIdx u q g e
        ({ b := 4096 * g + e / 32, el := q.elem0 + x, chan := if u.chlen = 0 then 0 else x / u.chlen
           vals := vals (32 * k) 32, wide := vals (32 * k / z * z) (min z (n - 256 * r.iter - 32 * k / z * z)) } : QBlk)
      let ue := (dieSt s d).ue
      ueStepPc d (forAll (quantRuns s bs) (quantSend rg q (mget 0 ue.chmax)) s)

/-- QOUT (09 R285). -/
def execQout (d : Die) (va : Fin 16) (t : Fin 8) (s : State) : Res := .next (onUe d 0x22 [fVa va, (2, 0, t)] (qoutGo d va t) s)

/-! Channel maxima, shard sums, constants, signals. -/

/-- The stride of the program's compute-copy stream, from its first QOUT: AMAX counts channels as that stream does. -/
def copyStride (u : UProg) : Nat :=
  match (u.passes.flatten.map (·.toNat)).find? fun w => vVop w = 0x22 with
  | some w => match u.streams[vMod w % 8]? with | some q => q.estride | none => 131072
  | none => 131072

/-- AMAX (Table 9.8): finite magnitudes only. -/
def amaxGo (d : Die) (va : Nat) (r : URun) (u : UProg) (s : State) : State :=
  let g := r.groups.headD 0
  let n := groupElems s g
  let x := dieSt s d
  let live := (List.range 256).filter fun l => 256 * r.iter + l < n
  let m := live.foldl (fun (m : SMap W32) l =>
    let w := ueReg s d va l
    let c := if u.chlen = 0 then 0 else ((g - u.group0) * copyStride u + 256 * r.iter + l) / u.chlen
    if isFin (dec32 w) && (mget 0 m c).toNat < (abs32 w).toNat then mput 0 c (abs32 w) m else m) x.ue.chmax
  ueStepPc d (setDie d { x with ue := { x.ue with chmax := m } } s)

/-- AMAX (09 R283). -/
def execAmax (d : Die) (va : Fin 16) (s : State) : Res := .next (onUe d 0x23 [fVa va] (amaxGo d va) s)

/-- XACC: the exact sum of the products of 256 lanes joins a shard-accumulator lane (R282, 02 R65). -/
def xaccGo (d : Die) (lane va vb : Nat) (s : State) : State :=
  let x := dieSt s d
  let a := (List.range 256).foldl (fun a l => xaAdd a (mulV (dec32 (ueReg s d va l)) (dec32 (ueReg s d vb l)))) (mget XaLane.blank x.ue.acc lane)
  ueStepPc d (setDie d { x with ue := { x.ue with acc := mput XaLane.blank lane a x.ue.acc } } s)

/-- XACC (09 R283). -/
def execXacc (d : Die) (lane : Fin 8) (va vb : Fin 16) (s : State) : Res :=
  .next (onUe d 0x24 [fVa va, fVb vb, (2, 0, lane)] (fun _ _ => xaccGo d lane va vb) s)

/-- XRD: a lane, rounded, to a constant; a saturation sets the lane's flag (02 R66). -/
def xrdGo (d : Die) (sk lane : Nat) (s : State) : State :=
  let x := dieSt s d
  let a := mget XaLane.blank x.ue.acc lane
  let y := xaRound a
  let acc := if y.2 then mput XaLane.blank lane { a with sat := true } x.ue.acc else x.ue.acc
  ueStepPc d (setDie d { x with ue := { x.ue with s := mput 0 sk y.1 x.ue.s, acc := acc } } s)

/-- XRD (09 R283). -/
def execXrd (d : Die) (sk : Fin 16) (lane : Fin 8) (s : State) : Res :=
  .next (onUe d 0x25 [(7, 4, sk), (2, 0, lane)] (fun _ _ => xrdGo d sk lane) s)

/-- SCAL: a constant in every lane. -/
def scalGo (d : Die) (vd sk : Nat) (s : State) : State :=
  let ue := (dieSt s d).ue
  putUeVu d ((ueVu ue).put vd fun _ => mget 0 ue.s sk) s

/-- SCAL (09 R283). -/
def execScal (d : Die) (vd sk : Fin 16) (s : State) : Res := .next (onUe d 0x27 [fVd vd, (3, 0, sk)] (fun _ _ => scalGo d vd sk) s)

/-- USIG: a far sett of the own module is signalled. -/
def execUsig (d : Die) (fsDie : Die) (fsn : Fin 16) (s : State) : Res :=
  .next (onUe d 0x28 [(7, 4, fsDie), (3, 0, fsn)] (fun _ _ s => farSignal fsDie fsn (ownId s) d.val (ueStepPc d s)) s)

/-! Exchanges (R284). -/

/-- XCHG: the engine sends its value and waits. -/
def execXchg (d : Die) (accLanes : Bool) (s : State) : Res :=
  .next (onUe d 0x26 [(1, 0, accLanes.toNat)] (fun r _ s => setUeRun d (some { r with wait := true, since := s.now }) s) s)

/-- Engines that hold groups of a span (R284). -/
def spanDies (s : State) (u : UProg) : List Die :=
  dies.filter fun d => (List.range u.ngroups).any fun k => groupDie (placeNow s) (u.group0 + k) = d && homedGroup s (u.group0 + k)

/-- The run of an engine that waits in an exchange of a program over the same span, with the exchange's kind. -/
def waitsIn (s : State) (u : UProg) (d : Die) : Option (URun × Bool) :=
  match (dieSt s d).ue.run, s.image with
  | some r, some i => match i.uprogs.find? fun p => p.prog = r.prog with
    | some q => if r.wait && q.group0 = u.group0 && q.ngroups = u.ngroups then some (r, bitOf ((q.passes.getD r.pass []).getD r.pc 0) 0) else none
    | none => none
  | _, _ => none

/-- The exact sum of two accumulator lanes, flags joined. -/
def xaJoin (a b : XaLane) : XaLane :=
  ⟨sgn 640 (unsgn 640 (a.sum + b.sum)), a.nan || b.nan, a.pinf || b.pinf, a.ninf || b.ninf, a.sat || b.sat⟩

/-- The exchange of a span completes: every engine that holds a group of it waits in one of the same kind; the values are combined by
maximum or by exact addition and returned to all, over the ring while that joins the dies (15 R444). The wait counts as busy. -/
def xchgDone (prog : Nat) (s : State) : State :=
  match s.image.bind fun i => i.uprogs.find? fun p => p.prog = prog with
  | none => s
  | some u =>
    let ds := spanDies s u
    let rs := ds.filterMap (waitsIn s u)
    let acc := (rs.headD default).2
    if rs.length ≠ ds.length || ds.isEmpty || rs.any (fun r => r.2 ≠ acc || r.1.pass ≠ (rs.headD default).1.pass) || !uesRun s ||
        ds.any (fun d => !ringReach s d (ds.headD 0)) then s
    else
      let es := ds.map fun d => (dieSt s d).ue
      let mx := es.foldl (fun (m : SMap W32) (e : Ue) => e.chmax.foldl (fun (m : SMap W32) (x : Nat × W32) =>
        if (mget 0 m x.1).toNat < x.2.toNat then mput 0 x.1 x.2 m else m) m) []
      let la := (List.range 8).foldl (fun (m : SMap XaLane) k =>
        mput XaLane.blank k (es.foldl (fun a e => xaJoin a (mget XaLane.blank e.acc k)) XaLane.blank) m) []
      forAll ds (fun d s =>
        let x := dieSt s d
        let ue := if acc then { x.ue with acc := la } else { x.ue with chmax := mx }
        let since := (x.ue.run.map (·.since)).getD s.now
        bump (.upe d) 0x058 (addBusy d (s.now - since)
          (setDie d { x with ue := { ue with run := ue.run.map fun r => { r with wait := false, pc := r.pc + 1 } } } s))) s

/-- XCHG_COMPLETE (09 R284). -/
def execXchgComplete (prog : Nat) (s : State) : Res := .next (xchgDone prog s)

/-- XCHG_TIMEOUT (09 R284, 15 R442), 1 ms after the wait began: the group is not updated; the wait counts as busy. -/
def execXchgTimeout (d : Die) (s : State) : Res :=
  .next (match (dieSt s d).ue.run with
    | some r =>
      if r.wait && uesRun s then
        let s := { s with now := max s.now (r.since + 1000000) }
        faultInLoad (faultItem 4 0 [] (upeErr d 2 (stopInstance d (addBusy d (s.now - r.since) s))))
      else s
    | none => s)

/-! Starting and ending. -/

/-- The next pass of a program, or its end. -/
def uePass (d : Die) (r : URun) (u : UProg) (s : State) : State :=
  if r.pass + 1 < u.passes.length then
    setUeRun d (some ⟨r.prog, heldGroups s u d, r.pass + 1, 0, 0, false, 0⟩) s
  else setUeRun d none s

/-- The end of an iteration over group `g`, whose loop starts at `k`. -/
def ueLoop (d : Die) (r : URun) (u : UProg) (k g : Nat) (rest : List Nat) (s : State) : State :=
  let n := groupElems s g
  if 256 * (r.iter + 1) < n then setUeRun d (some { r with pc := k, iter := r.iter + 1 }) s
  else
    let first := (heldGroups s u d).head? = some g
    let c := match s.image with | some i => passCycles i u (u.passes.getD r.pass []) n first | none => 0
    let s := addBusy d c (bump (.upe d) 0x04C s)
    if rest.isEmpty then uePass d r u s else setUeRun d (some { r with groups := rest, pc := k, iter := 0 }) s

/-- END: the next iteration, the next held group, the next pass, or the end of the run. A pass without LDS is all prologue. -/
def endGo (d : Die) (r : URun) (u : UProg) (s : State) : State :=
  match loopStart (u.passes.getD r.pass []) with
  | none => uePass d r u (addBusy d ((s.image.map fun i => codeCycles i u (u.passes.getD r.pass [])).getD 0) s)
  | some k =>
    match r.groups with
    | [] => uePass d r u s
    | g :: rest => ueLoop d r u k g rest s

/-- END (09 R283, R284). -/
def execEnd (d : Die) (s : State) : Res := .next (onUe d 0x29 [] (endGo d) s)

/-- The first ready program starts on an idle engine (R286): constants, S15 the step number by RNE; channel maxima and shard
accumulator start from zero (DESIGN CHOICE). -/
def ueStart (d : Die) (s : State) : State :=
  let x := dieSt s d
  match s.image, x.ue.run, x.ue.ready with
  | some i, none, p :: rest =>
    if !uesRun s then s
    else match i.uprogs.find? fun u => u.prog = p with
      | none => setDie d { x with ue := { x.ue with ready := rest } } s
      | some u =>
        let step := (enc32 .rne (.fin false (stepNo s) 0)).1
        let ue := { x.ue with ready := rest, s := mputs 0 15 [step] (mputs 0 0 (u.consts.take 15) []), acc := [], chmax := [] }
        let s := setDie d { x with ue := ue } s
        setUeRun d (some ⟨p, heldGroups s u d, 0, 0, 0, false, 0⟩) s
  | _, _, _ => s

/-- UE_PROGRAM_START (09 R286). -/
def execUeProgramStart (d : Die) (s : State) : Res := .next (ueStart d s)

/-! Signals and the ring. -/

/-- FAR_SETT_SIGNAL (07 R219). -/
def execFarSettSignal (d : Die) (n : Fin 16) (srcMod : Nat) (srcDie : Die) (s : State) : Res :=
  .next (if diesRun s then farSignal d n srcMod srcDie.val s else s)

/-- What a ring flit that arrives well does. -/
def ringDeliver (m : RingMsg) (s : State) : State :=
  match m with
  | .farSignal d n md sd => if diesRun s then farSignal d n md sd.val s else s
  | .regionWrite a bs => if rangeValid s a bs.length then hbmWrite a bs s else s

/-- A flit crosses a segment (R265): a failed CRC is replayed, the fourth failure of one flit takes the segment down. -/
def ringFlit (k : Nat) (ok : Bool) (m : RingMsg) (s : State) : State :=
  if !powered s || s.tripLatched || k ∈ s.ring then s
  else
    let a := dieAtRing k
    let x := dieSt s a
    let n := mget 0 x.ringFail k
    if ok then ringDeliver m (setDie a { x with ringFail := mput 0 k 0 x.ringFail } s)
    else
      let s := setDie a { x with ringFail := mput 0 k (if 3 ≤ n then 0 else n + 1) x.ringFail } s
      if 3 ≤ n then segmentDown k s else bump (.edg a) 0x04C s

/-- RING_FLIT (09 R265). -/
def execRingFlit (seg : Fin 16) (crcOk : Bool) (m : RingMsg) (s : State) : Res := .next (ringFlit seg.val crcOk m s)

end Sys2Proof.Machine
end

