-- ==== Sys2Proof/Machine/Move.lean ====
section
/-! DEFINITION. Data movement inside a tile and over the mesh: LCOPY, SEND, MSEND and RECV, the skew writer, and the completion of a
tile's operations (02 R40, R47, R48, R68, 05 R128, R138, R139, 07 R206, R207). -/

namespace Sys2Proof.Machine

/-! The skew writer (02 R47). -/

/-- Element `k` of a packed stream of bytes (03 R74). -/
def streamCode (fmt : Nat) (bs : List Byte) (k : Nat) : Nat :=
  let p := packSpan fmt k
  packGet fmt k (fieldLE bs p.1 p.2)

/-- Elements that a number of bytes holds. -/
def streamLen (fmt bytes : Nat) : Nat := if fmtBits fmt = 0 then 0 else bytes * 8 / fmtBits fmt

/-- Lay codes, row by row, in the destination, each with its shadow; a skewed matrix gets its zero padding (R45). -/
def placeCodes (r : OpRec) (g : Gal) (o : Operand) (cs : List (Nat × Option (Nat × Nat))) : List Wr :=
  ((cs.take (o.rows * o.cols)).zipIdx.flatMap fun c =>
    let key := elemKey r g o (c.2 / max 1 o.cols) (c.2 % max 1 o.cols)
    [Wr.code key o.fmt c.1.1] ++ (match c.1.2 with | some (id, b) => [Wr.shadow key id b] | none => [])) ++ padWr r g o

/-- The scale matrix of a block-scaled destination as a stored tensor: a skewed 8-bit matrix with one column per block along k and one
row per element of the other dimension (R48). -/
def scaleMatrix (o : Operand) : Operand :=
  let b := blkSize o.scl
  { o with fmt := 8, lay := true, half := o.shalf, skew := o.sskew, addr := o.sref, rows := if o.trn then o.cols else o.rows
           cols := ((if o.trn then o.rows else o.cols) + b - 1) / b }

/-- Lay FP32 values with block scaling on write: blocks along the destination's columns, or along its rows in the form of a B operand
(`storedExp`), their exponents in the scale matrix, both with their zero padding (R45, R48, 04 R118, R119). The logical block of an overflow's trigger
is the block's number in the scale matrix, row by row (04 R120; DESIGN CHOICE). -/
def placeScaled (r : OpRec) (g : Gal) (o : Operand) (val : Nat → Nat → W32) : List Wr :=
  let b := blkSize o.scl
  let m := scaleMatrix o
  let kn := if o.trn then o.rows else o.cols
  ((List.range m.rows).flatMap fun i => (List.range m.cols).flatMap fun k =>
    let at_ (j : Nat) : Nat × Nat := if o.trn then (b * k + j, i) else (i, b * k + j)
    let n := min b (kn - b * k)
    let vs := (List.range n).map fun j => dec32 (val (at_ j).1 (at_ j).2)
    let x := blockExp o.fmt vs
    let cs := blockCodes o.fmt x.1 vs
    [Wr.code (elemKey r g m i k) 8 x.1] ++
      (if x.2 then [Wr.ovf r.unit causeQuant (i * m.cols + k)] else []) ++
      ((cs.zip vs).zipIdx.flatMap fun c =>
        let key := elemKey r g o (at_ c.2).1 (at_ c.2).2
        [Wr.code key o.fmt c.1.1] ++ shadowWr r key c.1.2)) ++ padWr r g o ++ padWr r g m

/-- Does a record block-scale what it writes? -/
def scalesOnWrite (r : OpRec) : Bool := isBlk r.o2 && ((r.opc = 0x28 && (r.p8 52).testBit 1) || (r.opc = 0x29 && (r.p8 52).testBit 2))

/-- Dequantized value of a code that arrived for an element (03 R75, 04 Table 4.3). -/
def arrivedVal (t : Tile) (r : OpRec) (g : Gal) (o : Operand) (i j c : Nat) : FVal :=
  if isBlk o then blockVal o.fmt c (storedExp t r g o i j)
  else if o.scl = 1 || o.scl = 2 then mulV (decCode o.fmt c) (dec32 (scaleAt t r g o o.rows i).1)
  else decCode o.fmt c

/-- The pieces of a transfer in order of their index. -/
def inOrder (got : List (Nat × List Byte × List (Nat × Nat × Nat))) : List (Nat × List Byte × List (Nat × Nat × Nat)) :=
  got.insertionSort (fun a b => a.1 ≤ b.1)

/-- What a TAPIN writes from its blocks. -/
def tapWr (t : Tile) (r : OpRec) (g : Gal) (got : List (Nat × List Byte × List (Nat × Nat × Nat))) : List Wr :=
  let o := r.o2
  let bs := (inOrder got).flatMap (·.2.1)
  if scalesOnWrite r then
    placeScaled r g o fun i j => let k := i * o.cols + j; if 4 * k + 4 ≤ bs.length then w32 (fieldLE bs (4 * k) 4) else 0
  else
    let n := min (o.rows * o.cols) (streamLen o.fmt bs.length)
    placeCodes r g o ((List.range n).map fun k =>
      let c := streamCode o.fmt bs k
      (c, if r.sosid = 0xFFFF then none else
        some (r.sosid, bf16Of (arrivedVal t r g o (k / max 1 o.cols) (k % max 1 o.cols) c))))

/-- What a RECV writes from its flits: each line at its index within the transfer (Table 5.2), lines as a sender's SRAM holds them,
6-bit elements a byte each; an element that no line brought is not written. -/
def recvWr (r : OpRec) (g : Gal) (got : List (Nat × List Byte × List (Nat × Nat × Nat))) : List Wr :=
  let o := r.o2
  let bits := max 4 (sramBits o.fmt)
  let per := 512 / bits
  ((inOrder got).flatMap fun p => (List.range per).flatMap fun k =>
    let n := p.1 * per + k
    if o.rows * o.cols ≤ n then []
    else
      let c := if bits = 4 then byteAt p.2.1 (k / 2) / 16 ^ (k % 2) % 16 else fieldLE p.2.1 (k * bits / 8) (bits / 8)
      let key := elemKey r g o (n / max 1 o.cols) (n % max 1 o.cols)
      [Wr.code key o.fmt (if fmtBits o.fmt = 6 then c % 64 else c)] ++
        (match p.2.2.find? fun e => e.1 = k * bits / 4 with | some e => [Wr.shadow key e.2.1 e.2.2] | none => [])) ++ padWr r g o

/-- Results of a transfer, known once its last piece is there. -/
def transferWr (i : Img) (u v : Nat) (t : Tile) (o : Op) : List Wr :=
  let r := parseRec o.bytes
  let g := (galleryOf i u v).2
  match o.opc with | 0x29 => tapWr t r g o.got | 0x2D => recvWr r g o.got | _ => []

/-! LCOPY. -/

/-- LCOPY: whole lines between linear tensors; else element by element, transposed where the record says so. -/
def lcopyRec (u v : Nat) (st : Strm) (i : Img) (k : Nat) (r : OpRec) (s : State) : State :=
  let t := tile s u v
  let g := (galleryOf i u v).2
  let a := r.o0
  let b := r.o2
  let trn := (r.p8 52).testBit 0
  let n := r.p32 56
  let shadowAt (key : Nat) : Option (Nat × Nat) := mfind t.shadow key
  if scalesOnWrite r then
    let val (x y : Nat) : W32 :=
      let p := if trn then (y, x) else (x, y)
      if p.1 < a.rows && p.2 < a.cols then (operandW t r g a p.1 p.2).1 else 0
    let sat := (List.range b.rows).any fun x => (List.range b.cols).any fun y =>
      let p := if trn then (y, x) else (x, y)
      p.1 < a.rows && p.2 < a.cols && (operandW t r g a p.1 p.2).2
    startOp u v st k r 0 (3 * ((n + 3) / 4)) (readLines r g [a])
      ((if sat then [Wr.ovf r.unit causeNum 0] else []) ++ placeScaled r g b val) s
  else if !a.lay && !b.lay && !trn then
    let src := (List.range n).map (· + absLine r g a.addr)
    startOp u v st k r 0 0 src
      (src.zipIdx.flatMap fun l =>
        let d := absLine r g b.addr + l.2
        [Wr.sram (64 * d) (if inWindow g l.1 then sramRead t (64 * l.1) 64 else zeros 64)] ++
          ((List.range 128).filterMap fun q => (shadowAt (128 * l.1 + q)).map fun e => Wr.shadow (128 * d + q) e.1 e.2)) s
  else
    let cell (x y : Nat) : Nat × Option (Nat × Nat) :=
      let p := if trn then (y, x) else (x, y)
      if p.1 < a.rows && p.2 < a.cols then (readElem t r g a p.1 p.2, shadowAt (elemKey r g a p.1 p.2)) else (0, none)
    startOp u v st k r 0 0 (operandLines r g a)
      (placeCodes r g b ((List.range (b.rows * b.cols)).map fun q => cell (q / max 1 b.cols) (q % max 1 b.cols))) s

/-- LCOPY (02 R47). -/
def execLcopy (u v : Nat) (st : Strm) (s : State) : Res := .next (issue u v st 0x28 (lcopyRec u v st) s)

/-! SEND, MSEND, RECV. -/

/-- Shadows of a line's elements. -/
def lineShadows (t : Tile) (l : Nat) : List (Nat × Nat × Nat) :=
  (t.shadow.filter fun e => 128 * l ≤ e.1 && e.1 < 128 * l + 128).map fun e => (e.1 - 128 * l, e.2)

/-- A SEND or MSEND: the source's lines in storage order leave as flits for successive lines, as the router takes them (R138, R139). A
destination outside the image is a bounds violation of the record, and nothing is sent (R123); a line that the header's 15 bits cannot
hold is one too, and its flit is not sent (02 R37). -/
def sendRec (mc : Bool) (u v : Nat) (st : Strm) (i : Img) (k : Nat) (r : OpRec) (s : State) : State :=
  let t := tile s u v
  let g := (galleryOf i u v).2
  let n := r.p16 58
  let skw := (r.p8 52).testBit 0
  let line := if skw then r.p16 56 else absLine r g (r.p16 56)
  let src := (List.range n).map (operandLine r g r.o0)
  let d := destTile i u v r 54
  let fits := src.zipIdx.filter fun l => line + l.2 < 2 ^ 15
  let flits := fits.map fun l =>
    let last := l.2 + 1 = n
    let hdr := if mc then mcHdr (r.p8 54) (line + l.2) (strmCode st) last skw else uniHdr d.1 d.2 (line + l.2) (strmCode st) last skw
    (hdr, if inWindow g l.1 then sramRead t (64 * l.1) 64 else zeros 64, lineShadows t l.1)
  if !mc && !inImage s d.1 d.2 then contractFault 6 u v k (startOp u v st k r 0 0 [] [] s)
  else
    let s := startOp u v st k r fits.length 0 src [] s
    let s := if fits.length < n then contractFault 6 u v k s else s
    let x := tile s u v
    pumpSends (n + 1) u v (setTile u v { x with ops := x.ops.map fun o => if o.strm = st && o.idx = k then { o with got := flits } else o } s)

/-- SEND (05 R138). -/
def execSend (u v : Nat) (st : Strm) (s : State) : Res := .next (issue u v st 0x2B (sendRec false u v st) s)
/-- MSEND (05 R139). -/
def execMsend (u v : Nat) (st : Strm) (s : State) : Res := .next (issue u v st 0x2C (sendRec true u v st) s)

/-- Flits of a receive queue that an armed receiver takes, in order. -/
def drainRxq : List Flit → Tile → Tile
  | [], t => t
  | f :: rest, t =>
    let x := bulkFields f
    match feedRecv x.1 x.2.1 x.2.2.1 f.pay f.sh t.ops with
    | some ops =>
      let t := { t with ops := ops, rxq := t.rxq.erase f }
      drainRxq rest (if x.2.2.1 then landed x.2.1 t else t)
    | none => drainRxq rest t

/-- A RECV record arms the skew writer; flits that wait in the receive queue go to it (R207). -/
def recvRec (u v : Nat) (st : Strm) (_ : Img) (k : Nat) (r : OpRec) (s : State) : State :=
  let s := startOp u v st k r (max 1 (r.p16 56)) 0 [] [] s
  let t := tile s u v
  setTile u v (drainRxq t.rxq t) s

/-- RECV (07 R207). -/
def execRecv (u v : Nat) (st : Strm) (s : State) : Res := .next (issue u v st 0x2D (recvRec u v st) s)

/-! Completion. -/

/-- The lines that an operation reads as its blocks arrive: a TAPIN's scales and exponents, where it writes shadows (04 Table 4.3). -/
def lateReads (i : Img) (u v : Nat) (o : Op) : List Nat :=
  let r := parseRec o.bytes
  if o.opc = 0x29 && r.sosid ≠ 0xFFFF && !scalesOnWrite r then
    storedScales r (galleryOf i u v).2 r.o2 r.o2.rows r.o2.cols
  else []

/-- An operation of a tile completes: its results become visible (R68), and what it read late is checked (R38, R41). -/
def completeOp (u v : Nat) (st : Strm) (idx : Nat) (s : State) : State :=
  match s.image with
  | none => s
  | some i =>
    let t := tile s u v
    if s.loading || !(s.run = .run || s.run = .halt) || !inImage s u v then s
    else match t.ops.find? fun o => o.strm = st && o.idx = idx && o.left = 0 with
      | none => s
      | some o =>
        let g := (galleryOf i u v).2
        let late := transferWr i u v t o
        let wr := o.wr ++ late.filter (wrInWindow g)
        let t := if (getCtx t st).act.isSome then active s.now st t else t
        let rd := lateReads i u v o
        let poison := rd.any fun l => inWindow g l && linePoisoned t l
        let t := wr.foldl (fun t w => applyWr idx w t) { t with
          ops := t.ops.erase o, tok := t.tok + 2 * ((wrLines wr).length + rd.length), poisonRd := t.poisonRd || poison }
        let s := forAll wr wrEvents (setTile u v t s)
        let s := if poison then contractFault 7 u v idx s else s
        if late.all (wrInWindow g) && rd.all (inWindow g) then s else contractFault 6 u v idx s

/-- TILE_OP_COMPLETE (02 R68). -/
def execTileOpComplete (u v : Nat) (st : Strm) (idx : Nat) (s : State) : Res := .next (completeOp u v st idx s)

/-- ECC_WRITEBACK (02 R40): the corrected word is written back and counted; its value is the one that readers get. -/
def execEccWriteback (u v word : Nat) (s : State) : Res :=
  .next (if powered s && inImage s u v && word < 196608 then setTile u v (tileBump s 0x24 (tile s u v)) s else s)

end Sys2Proof.Machine
end

