-- ==== Sys2Proof/Machine/Flow.lean ====
section
/-! DEFINITION. The flowstone grid and the dies' injectors and collectors (05 R146 to R156, 08 R249 to R256, 09 R275 to R280,
11 R362, 15 R441). A block is followed along its bus as far as it goes; a block that reaches a tap before the tap's record has
issued is held there. -/

namespace Sys2Proof.Machine

/-! Blocks and taps. -/

/-- The CRC of a block over its bytes and then bits [47:16] of its sideband, least significant byte first (R148; the order is a DESIGN
CHOICE). -/
def blockCrc (b : FsBlock) : BitVec 16 := crc16 (b.data ++ natLE 1 (128 * b.part.toNat) ++ natLE 1 b.tag ++ natLE 2 b.seq)

def mkBlock (seq tag : Nat) (part : Bool) (data : List Byte) : FsBlock :=
  let b : FsBlock := { seq := seq, tag := tag, part := part, crc := 0, data := data }
  { b with crc := blockCrc b }

/-- Taps of a bus. -/
def busLen (i : Img) (bus : Bus) : Nat := if bus.die.val < 2 then i.reqU else i.reqV

/-- The tile of tap `k` of a bus (R147). -/
def tapTile (i : Img) (bus : Bus) (k : Nat) : Nat × Nat :=
  match bus.die.val with
  | 0 => (k, bus.idx) | 1 => (i.reqU - 1 - k, bus.idx) | 2 => (bus.idx, k) | _ => (bus.idx, i.reqV - 1 - k)

/-- The bus of an end through a tile, and the tile's tap on it. -/
def tileBus (i : Img) (dieEnd : Fin 4) (u v : Nat) : Bus × Nat :=
  match dieEnd.val with
  | 0 => (⟨dieEnd, v⟩, u) | 1 => (⟨dieEnd, v⟩, i.reqU - 1 - u) | 2 => (⟨dieEnd, u⟩, v) | _ => (⟨dieEnd, u⟩, i.reqV - 1 - v)

/-! Transfers of the tick in progress; every tile of the image runs the same records. -/

def tickRecs (s : State) (i : Img) (st : Strm) : List (Nat × OpRec) :=
  match tickNow s with
  | some tr => match firstRec tr st with | some k => recsFrom (recsOf i st) (numRec tr st) k | none => []
  | none => []

/-- Transfer records of the tick, with their streams. -/
def tickTransfers (s : State) (i : Img) (opc : Nat) : List (Strm × Nat × OpRec) :=
  [Strm.f, .b, .w].flatMap fun st => ((tickRecs s i st).filter fun r => r.2.opc = opc).map fun r => (st, r)

/-- Index of a block in the window of a TAPIN, if it takes the block (R149). -/
def tapinIdx (r : OpRec) (bus : Bus) (b : FsBlock) : Option Nat :=
  let f := r.p16 54
  let g := max 1 (r.p16 58)
  if r.p8 52 % 4 = bus.die.val && r.tag = b.tag && f ≤ b.seq && (b.seq - f) % g = 0 && (b.seq - f) / g < r.p16 56 then some ((b.seq - f) / g)
  else none

/-- Does a TAPOUT sum a block at tap `k` (R151)? -/
def tapoutHas (r : OpRec) (bus : Bus) (k : Nat) (b : FsBlock) : Bool :=
  r.p8 52 % 4 = bus.die.val && r.tag = b.tag && r.p16 54 ≤ b.seq && b.seq < r.p16 54 + r.p16 56 && r.p8 59 ≤ k && k ≤ r.p8 58

/-- Has a stream of a tile still to issue record `k`? -/
def unissued (t : Tile) (st : Strm) (k : Nat) : Bool := (getCtx t st).pos ≤ k

/-- Will a tap take an inbound block with a record that is still to issue? -/
def willTake (s : State) (i : Img) (bus : Bus) (k : Nat) (b : FsBlock) : Bool :=
  let c := tapTile i bus k
  let t := tile s c.1 c.2
  !t.fenced && (tickTransfers s i 0x29).any fun r => unissued t r.1 r.2.1 && (tapinIdx r.2.2 bus b).isSome

/-- The active operation of a tile that takes a block. -/
def activeTapin (t : Tile) (bus : Bus) (b : FsBlock) : Option (Op × Nat) :=
  t.ops.findSome? fun o => if o.opc = 0x29 && o.left ≠ 0 then
    match tapinIdx (parseRec o.bytes) bus b with
    | some n => if o.got.any fun e => e.1 = n then none else some (o, n)
    | none => none else none

def activeTapout (t : Tile) (bus : Bus) (k : Nat) (b : FsBlock) : Option Op :=
  t.ops.find? fun o => o.opc = 0x2A && o.left ≠ 0 && tapoutHas (parseRec o.bytes) bus k b

/-- Blocks in the buffer of a tile's row tap (bus ends 0 and 1) or column tap (2 and 3): it holds 16 (R147, R156). -/
def tapHeld (t : Tile) (dieEnd : Nat) : Nat := (t.fsIn.filter fun e => e.port % 4 / 2 = dieEnd % 4 / 2).length

/-- A tap with no free place: a slot collision in L mode, a queue overflow in Q mode (R155, R156, 06 R191). -/
def tapFull (i : Img) (u v : Nat) (s : State) : State := if i.lmode then slotColl u v s else queueOvf u v s

/-- Hold a block at a tap. -/
def park (i : Img) (u v port : Nat) (b : FsBlock) (s : State) : State :=
  let t := tile s u v
  if 16 ≤ tapHeld t port then tapFull i u v s else setTile u v { t with fsIn := t.fsIn ++ [⟨port, b, s.now⟩] } s

/-! Faults of a tap (R148, 15 R430, R441). -/

/-- An uncorrectable error in data that a step reads (15 R441): its die sends the HALT. -/
def hbmFault (a : Nat) (s : State) : State :=
  let s := noteFault s
  let s := if s.asq.recov.suspects.isEmpty && s.asq.recov.hbm.isNone then recDetected s else s
  let s := { s with asq := { s.asq with recov := { s.asq.recov with hbm := s.asq.recov.hbm.orElse fun _ => some (a / 64 * 64) } } }
  faultItem 3 14 [] (callHalt s)

/-- A block fails its CRC at tap `k` of a bus; `from` is the tap that handed it on. A block injected poisoned is no tile fault, and
a first inbound tap's fault lies with the die. -/
def tapFault (i : Img) (bus : Bus) (k : Nat) (prev : Option Nat) (poisoned : Bool) (s : State) : State :=
  let c := tapTile i bus k
  let s := tileNetErr c.1 c.2 0x6C s
  if poisoned then s
  else match prev with
    | some q => tileFault 3 [tapTile i bus q] s
    | none => callHalt (faultItem 4 3 [] s)

/-! Inbound (R149). -/

/-- A tap takes a block with an operation. -/
def tapTake (u v : Nat) (o : Op) (n : Nat) (b : FsBlock) (s : State) : State :=
  let t := tile s u v
  let t := setOp o { o with got := o.got ++ [(n, b.data, [])], left := o.left - 1 } t
  setTile u v (tokEvent s.now (1 + if scalesOnWrite (parseRec o.bytes) then 3 else 0) t) s

/-- A block passes the taps of its bus from tap `k`. -/
def walkIn (i : Img) (bus : Bus) : Nat → Nat → FsBlock → State → State
  | 0, _, _, s => s
  | n + 1, k, b, s =>
    if busLen i bus ≤ k then s
    else if b.crc ≠ blockCrc b then
      tapFault i bus k (if k = 0 then none else some (k - 1)) (b.crc = ~~~(blockCrc b)) s
    else
      let c := tapTile i bus k
      let t := tile s c.1 c.2
      let s :=
        if t.fenced then s
        else match activeTapin t bus b with
          | some (o, x) => tapTake c.1 c.2 o x b s
          | none =>
            if !willTake s i bus k b then s else park i c.1 c.2 bus.die.val b s
      walkIn i bus n (k + 1) b s

/-- Does the array carry blocks: it runs, or finishes the tick in which it halts? -/
def flowing (s : State) : Bool := s.image.isSome && !s.loading && (s.run = .run || (s.run = .halt && s.asq.tick1))

/-- INBOUND_BLOCK (05 R149): a block reaches a tap, and goes on along its bus. -/
def inboundAt (u v : Nat) (bus : Bus) (b : FsBlock) (s : State) : State :=
  match s.image with
  | none => s
  | some i =>
    let x := tileBus i bus.die u v
    if !flowing s || !inImage s u v || x.1 ≠ bus then s else walkIn i bus (busLen i bus) x.2 b s

/-- INBOUND_BLOCK (05 R149). -/
def execInboundBlock (u v : Nat) (bus : Bus) (b : FsBlock) (s : State) : Res := .next (inboundAt u v bus b s)

/-- A TAPIN record arms the taps; blocks that wait at the tile are taken in order (R149). -/
def tapinRec (u v : Nat) (st : Strm) (i : Img) (k : Nat) (r : OpRec) (s : State) : State :=
  let s := startOp u v st k r (r.p16 56) 0 [] [] s
  let waiting := (tile s u v).fsIn.filter fun e => e.port < 4
  waiting.foldl (fun s e =>
    let bus := (tileBus i (Fin.ofNat 4 e.port) u v).1
    let t := tile s u v
    match activeTapin t bus e.blk with
    | some (o, n) => tapTake u v o n e.blk (setTile u v { t with fsIn := t.fsIn.erase e } s)
    | none => s) s

/-- TAPIN (05 R149). -/
def execTapin (u v : Nat) (st : Strm) (s : State) : Res := .next (issue u v st 0x29 (tapinRec u v st) s)

/-! The sump (08 R249 to R256). -/

def sumpOf (i : Img) (tag : Nat) : Option SumpTag := i.sumps.find? fun d => d.tag = tag

/-- The region of a sump tag on the die of bus `j`, and the byte offset of a block. -/
def sumpPlace (i : Img) (d : SumpTag) (bus : Bus) (seq : Nat) : Option (Region × Nat) :=
  match busDie i bus.die.val bus.idx with
  | none => none
  | some e => (i.regions.find? fun r => 65536 ≤ r.idx && r.layer = d.tag && r.owner = e).map fun r =>
      (r, ((bus.idx - (serves i e).1) * d.span + seq) * blockRoom d.mode d.fmt)

/-- Bytes per element in mode 1. -/
def planeWidth (fmt : Nat) : Nat := match fmt with | 0 => 4 | 1 => 2 | 2 => 2 | _ => 1

/-- Bits, least significant first, as bytes. -/
def packBits (l : List Bool) : List Byte := (chunks 8 l).map fun c => BitVec.ofNat 8 (c.zipIdx.foldl (fun a b => a + b.1.toNat * 2 ^ b.2) 0)

/-- Mode 1 without its sectors: mask, sign plane, nonzero bytes (R254). -/
def planes (fmt : Nat) (bs : List Byte) : List Byte :=
  let w := planeWidth fmt
  let top (k : Nat) : Bool := k % w = w - 1
  let rest := bs.zipIdx.map fun b => if top b.2 then b.1 &&& 0x7F else b.1
  let signs := (bs.zipIdx.filter fun b => top b.2).map fun b => b.1.getLsbD 7
  packBits (rest.map fun b => b ≠ 0) ++ packBits signs ++ rest.filter fun b => b ≠ 0

/-- Mode 1: the stored bytes, whole 32-byte sectors, or the block itself when that is not smaller. -/
def encMode1 (fmt : Nat) (bs : List Byte) : List Byte :=
  let p := planes fmt bs
  if 96 < p.length then bs else padTo 32 p

/-- Bytes back from the mask, taking the nonzero ones in order. -/
def unmask : List Bool → List Byte → List Byte
  | [], _ => []
  | false :: m, l => 0 :: unmask m l
  | true :: m, l => l.headD 0 :: unmask m l.tail

/-- Mode 1 back (R254). -/
def decMode1 (fmt : Nat) (st : List Byte) : List Byte :=
  if 128 ≤ st.length then st.take 128
  else
    let w := planeWidth fmt
    let bits (l : List Byte) : List Bool := l.flatMap fun b => (List.range 8).map fun k => b.getLsbD k
    let rest := unmask (bits (st.take 16)) (st.drop (16 + 16 / w))
    let signs := bits ((st.drop 16).take (16 / w))
    rest.zipIdx.map fun b => if b.2 % w = w - 1 && signs.getD (b.2 / w) false then b.1 ||| 0x80 else b.1

/-- Mode 2 (R255, R256): E4M3 codes, then one E8M0 byte for each 32 elements, and the non-finite elements met. -/
def encMode2 (fmt : Nat) (bs : List Byte) : List Byte × Nat :=
  let w := planeWidth fmt
  let vs := (List.range (128 / w)).map fun k => decCode fmt (fieldLE bs (w * k) w)
  let parts := (chunks 32 vs).map fun p =>
    let x := (blockExp 3 (p.filter isFin)).1
    ((p.map fun v => if isFin v then (encCode 3 .rne (scale2 v (127 - x))).1 else 0x7F), x)
  (parts.flatMap (fun p => p.1.map fun (c : Nat) => BitVec.ofNat 8 c) ++ parts.map (fun p => BitVec.ofNat 8 p.2), (vs.filter fun v => !isFin v).length)

def decMode2 (fmt : Nat) (st : List Byte) : List Byte :=
  let w := planeWidth fmt
  let n := 128 / w
  (List.range n).flatMap fun k => natLE w (encCode fmt .rne (blockVal 3 (byteAt st k) (byteAt st (n + k / 32)))).1

/-- Bytes that a mode stores for a block; `side` is its side byte. -/
def storedLen (d : SumpTag) (side : Nat) : Nat :=
  if d.mode = 1 then 32 * (side % 4 + 1) else blockRoom d.mode d.fmt

/-- The collector's sump writer. -/
def sumpWrite (e : Die) (d : SumpTag) (r : Region) (off : Nat) (data : List Byte) (s : State) : State :=
  let x := match d.mode with
    | 1 => (encMode1 d.fmt data, 0)
    | 2 => encMode2 d.fmt data
    | _ => (data, 0)
  let side := 128 + (if d.mode = 1 then x.1.length / 32 - 1 else 0)
  let s := if x.2 = 0 then s else bump .plc 0x06C s x.2
  let s := regionWrite r (arrStep s) off x.1 s
  setDie e { dieSt s e with side := mput 0 (regionAddr (placeNow s) r 0 off) side (dieSt s e).side } s

/-! Injectors (R276, R277, 08 R251). -/

/-- The tag entry of a block on its bus, of a class. -/
def tagEntryOf (i : Img) (bus : Bus) (tag : Nat) : Option TagEntry :=
  i.tags.find? fun t => t.tag = tag && t.dieEnd = bus.die.val && t.bus0 ≤ bus.idx && bus.idx < t.bus0 + t.nbus

def tagOffset (t : TagEntry) (bus : Bus) (seq : Nat) : Nat := ((bus.idx - t.bus0) * t.span + seq) * 128

/-- Place of a block in the injection order of its bus in a tick, if the tick injects it: its cycle in the flowstone slot table in
L mode, its place in the TAPINs of the tick in Q mode (06 R176). -/
def injectKey (i : Img) (tr : TickRec) (bus : Bus) (tag seq : Nat) : Option Nat :=
  if i.lmode then
    (((i.fsSlots.drop tr.fsFirst).take tr.fsN).find? fun e =>
      !e.outb && e.die = bus.die.val && e.idx = bus.idx && e.tag = tag && e.seq0 ≤ seq && seq < e.seq0 + e.count).map
      fun e => slotCycle e.slot0 e.posmask (seq - e.seq0)
  else
    let rs := ([Strm.f, .b, .w].flatMap fun st => match firstRec tr st with
      | some k => (recsFrom (recsOf i st) (numRec tr st) k).map (·.2)
      | none => []).filter fun r => r.opc = 0x29
    (rs.zipIdx.filterMap fun r => (tapinIdx r.1 bus ⟨seq, tag, false, 0, []⟩).map fun n => 65536 * r.2 + n).head?

/-- Is a block to be injected in a tick? -/
def injectsIn (i : Img) (tr : TickRec) (bus : Bus) (tag seq : Nat) : Bool := (injectKey i tr bus tag seq).isSome

/-- The tick record that follows the tick in progress, and the step it belongs to. A decision that falls due in between may choose
another one. -/
def tickAfter (s : State) (i : Img) : Nat × Option TickRec :=
  let t := settleAll i (nextPos i s)
  if atEnd t i then (arrStep s + 1, i.main[0]?) else (arrStep s, tickNow { t with asq := { t.asq with stall := false } })

/-- When a block is next due at its injector: the step its generation is of, 0 for the tick in progress or 1 for the one that
follows, and its place in that tick. -/
def injectDue (s : State) (i : Img) (bus : Bus) (tag seq : Nat) : Option (Nat × Nat × Nat) :=
  match (tickNow s).bind fun tr => injectKey i tr bus tag seq with
  | some k => some (arrStep s, 0, k)
  | none =>
    let n := tickAfter s i
    (n.2.bind fun tr => injectKey i tr bus tag seq).map fun k => (n.1, 1, k)

/-- Blocks in a pre-read buffer of 16 MiB (Table 9.2). -/
def preBlocks : Nat := 131072

/-- A bus, as a key. -/
def busKey (bus : Bus) : Nat := 256 * bus.die.val + bus.idx

/-- What an injector reads of a block of a generation: its bytes, the runs of the store that hold them, whether its WR is 0. -/
def preData (s : State) (i : Img) (gen : Nat) (bus : Bus) (tag seq : Nat) : Option (List Byte × List (Nat × Nat) × Bool) :=
  if 0xC0 ≤ tag then
    match sumpOf i tag with
    | none => none
    | some d => match sumpPlace i d bus seq, busDie i bus.die.val bus.idx with
      | some (r, off), some e =>
        let a := regionAddr (placeNow s) r 0 off
        let side := mget 0 (dieSt s e).side a
        if side < 128 then some (zeros 128, [], true)
        else
          let n := storedLen d side
          let st := regionRead s r 0 off n
          some (match d.mode with | 1 => decMode1 d.fmt st | 2 => decMode2 d.fmt st | _ => st, regionRuns s r 0 off n, false)
      | _, _ => none
  else match tagEntryOf i bus tag with
    | none => none
    | some t => match regionOf i t.region with
      | some r => if t.cls ≠ 1 || t.span ≤ seq then none else
          some (regionRead s r gen (tagOffset t bus seq) 128, regionRuns s r gen (tagOffset t bus seq) 128, false)
      | none => none

/-- The first poisoned sector of some runs of the store. -/
def badSector (s : State) (runs : List (Nat × Nat)) : Option Nat :=
  ((runs.flatMap fun q => sectorsOf q.1 q.2).find? fun k => mget false s.poison k).map (64 * ·)

/-- Put a block read from some runs of the store into the pre-read buffer of a die. -/
def preFill (d : Die) (bus : Bus) (tag seq : Nat) (es : EccList) (data : List Byte) (runs : List (Nat × Nat)) (zero : Bool)
    (s : State) : State :=
  let s := runs.foldl (fun s q => hbmTouch q.1 q.2 s) (addFlaws es s)
  let bad := badSector s runs
  let x := dieSt s d
  let s := setDie d { x with pre := x.pre ++ [⟨bus, tag, seq, data, bad.isSome, zero⟩] } s
  match bad with
  | some a => hbmFault a s
  | none => s

/-- Does a block come after the last one injected on its bus and after every buffered block of it, in injection order? -/
def inReadOrder (s : State) (i : Img) (d : Die) (bus : Bus) (t k : Nat) : Bool :=
  (t ≠ 0 || mget 0 (dieSt s d).sent (busKey bus) ≤ k) && ((dieSt s d).pre.filter fun b => b.bus = bus).all fun b => match injectDue s i bus b.tag b.seq with
    | some (_, t', k') => t' < t || (t' = t && k' < k)
    | none => true

/-- PRE_READ: a block of this tick or the next enters the buffer, in the injection order of its bus (R276); an uncorrectable or
poisoned sector is an HBM fault (15 R441). -/
def preRead (bus : Bus) (tag seq : Nat) (es : EccList) (s : State) : State :=
  match s.image with
  | none => s
  | some i =>
    match busDie i bus.die.val bus.idx, injectDue s i bus tag seq with
    | some d, some (gen, t, k) =>
      match preData s i gen bus tag seq with
      | none => s
      | some q =>
        if !flowing s || preBlocks ≤ (dieSt s d).pre.length || !inReadOrder s i d bus t k then s
        else preFill d bus tag seq es q.1 q.2.1 q.2.2 s
    | _, _ => s

/-- PRE_READ (09 R276). -/
def execPreRead (bus : Bus) (tag seq : Nat) (ecc : EccList) (s : State) : Res := .next (preRead bus tag seq ecc s)

/-- In Q mode a bus holds while a tap that will take one of the next 16 blocks has no free buffer entry (R156). -/
def busHolds (s : State) (i : Img) (d : Die) (bus : Bus) : Bool :=
  !i.lmode && (((dieSt s d).pre.filter fun b => b.bus = bus).take 16).any fun p =>
    let b : FsBlock := ⟨p.seq, p.tag, false, 0, []⟩
    (List.range (busLen i bus)).any fun k =>
      let c := tapTile i bus k
      let t := tile s c.1 c.2
      (activeTapin t bus b).isNone && willTake s i bus k b && 16 ≤ tapHeld t bus.die.val

/-- The injections of a bus have come to place `k`. -/
def injected (d : Die) (bus : Bus) (k : Nat) (s : State) : State :=
  setDie d { dieSt s d with sent := mput 0 (busKey bus) (k + 1) (dieSt s d).sent } s

/-- A block of the pre-read buffer enters its bus. -/
def injectBlock (i : Img) (d : Die) (bus : Bus) (k tag seq : Nat) (p : PreBlk) (s : State) : State :=
  let x := dieSt s d
  let b := mkBlock seq tag false p.data
  let b := if p.poison then { b with crc := ~~~b.crc } else b
  if busHolds s i d bus || (!i.lmode && (x.pre.find? fun b => b.bus = bus) ≠ some p) then s
  else
    let s := injected d bus k (setDie d { x with pre := x.pre.erase p } s)
    let s := if p.zero then contractFault 7 0xFFFF 0xFFFF (16 * d.val) s else s
    walkIn i bus (busLen i bus) 0 b s

/-- BLOCK_INJECT: a buffered block enters its bus; poisoned, with its CRC inverted (Table 9.4). In L mode a block that is not
there is late (R276); in Q mode it waits. The fetch of a sump block that was never written is contract fault 7 (08 R251). -/
def blockInject (bus : Bus) (tag seq : Nat) (s : State) : State :=
  match s.image with
  | none => s
  | some i =>
    match busDie i bus.die.val bus.idx, (tickNow s).bind fun tr => injectKey i tr bus tag seq with
    | some d, some k =>
      if !flowing s || k < mget 0 (dieSt s d).sent (busKey bus) then s
      else match (dieSt s d).pre.find? fun b => b.bus = bus && b.tag = tag && b.seq = seq with
        | some p => injectBlock i d bus k tag seq p s
        | none =>
          if i.lmode then
            contractFault 3 0xFFFF 0xFFFF (16 * d.val) (setErr (.edg d) 1 (bump (.edg d) 0x050 (injected d bus k s)))
          else s
    | _, _ => s

/-- BLOCK_INJECT (09 R276). -/
def execBlockInject (bus : Bus) (tag seq : Nat) (s : State) : Res := .next (blockInject bus tag seq s)

/-! Collectors (09 R279, R280). -/

/-- The frames of one stage transfer (11 R362). -/
def stageFrames (s : State) (e : StageEnt) (r : Region) (cnt : Nat) : List (List Byte) :=
  (List.range ((e.size + 2047) / 2048)).map fun k =>
    let off := 2048 * k
    natLE 2 e.dreg ++ zeros 2 ++ natLE 4 cnt ++ natLE 8 off ++ regionRead s r cnt off (min 2048 (e.size - off))

/-- A stage region took a block: at SIZE its generation is sent; SFS is signalled once the last frame has entered the replay buffer
(`xferSent`, 11 R362). -/
def stageCount (i : Img) (r : Region) (n : Nat) (s : State) : State :=
  (i.stagesT.zipIdx.filter fun e => e.1.sreg = r.idx).foldl (fun s e =>
    let x := mget default s.stageSt e.2
    let w := x.wrote + n
    if w < e.1.size then { s with stageSt := mput default e.2 { x with wrote := w } s.stageSt }
    else
      let fs := stageFrames s e.1 r x.sent
      let s := regionTouch r x.sent 0 e.1.size s
      let s := { s with stageSt := mput default e.2 { x with wrote := w - e.1.size, sent := x.sent + 1 } s.stageSt }
      match memberModule s e.1.dmemb with
      | none => s
      | some m =>
        if m = ownId s then
          farSignal (Fin.ofNat 16 (e.1.sfs / 16)) (Fin.ofNat 16 e.1.sfs) (ownId s) r.owner.val
            (forAll fs (fun b => xferIn r.owner (newFrame 3 m m false b)) s)
        else forAll fs (fun b => sendTo r.owner (newFrame 3 m (ownId s) false b)) s) s

/-- A CLASS 3 block is written unchanged; a stage region's generation is its transfer count (R277, 11 R362). -/
def regionBlock (i : Img) (r : Region) (off : Nat) (data : List Byte) (s : State) : State :=
  let gen := match i.stagesT.zipIdx.find? fun e => e.1.sreg = r.idx with
    | some e => (mget default s.stageSt e.2).sent
    | none => arrStep s
  stageCount i r data.length (regionWrite r gen off data s)

/-- A gradient block: PART is counted and voids the step's contribution; else it becomes a contribution to its home block. -/
def gradientBlock (e : Die) (t : TagEntry) (bus : Bus) (b : FsBlock) (s : State) : State :=
  if b.part then
    let s := setErr (.edg e) 4 (bump (.edg e) 0x054 s)
    { s with asq := { s.asq with voided := true } }
  else match s.rdc.plan with
    | none => s
    | some p =>
      let k := (bus.idx - t.bus0) * t.span + b.seq
      match chanOf p t.chan, p.reds.find? fun rn => rn.chan = t.chan && rn.tag = b.tag && rn.tblk0 ≤ k && k < rn.tblk0 + rn.nblk with
      | some ch, some rn =>
        collectBlock e p ch rn (rn.blk0 + k - rn.tblk0) ((List.range 32).map fun x => w32 (fieldLE b.data (4 * x) 4)) s
      | _, _ => s

/-- Blocks that a bus's collector holds now: it passes on one a cycle (05 R156, 09 Table 9.2). -/
def collHeld (s : State) (d : Die) (bus : Bus) : Nat :=
  let x := mget (0, 0) (dieSt s d).coll (busKey bus)
  x.1 - (s.now - x.2)

/-- A block enters a collector's buffer; on its bus it has held until there was room (05 R156). -/
def enterColl (d : Die) (bus : Bus) (s : State) : State :=
  setDie d { dieSt s d with coll := mput (0, 0) (busKey bus) (min 1024 (collHeld s d bus + 1), s.now) (dieSt s d).coll } s

/-- A block arrives at the collector of its bus (R279). -/
def collect (bus : Bus) (b : FsBlock) (s : State) : State :=
  match s.image with
  | none => s
  | some i =>
    match busDie i bus.die.val bus.idx with
    | none => s
    | some e =>
      let unknown (s : State) : State := tileFault 3 [tapTile i bus 0] (setErr (.edg e) 2 (bump (.edg e) 0x058 s))
      let s := enterColl e bus s
      if b.crc ≠ blockCrc b then tileFault 3 [tapTile i bus 0] s
      else if 0xC0 ≤ b.tag then
        match sumpOf i b.tag with
        | some d => match sumpPlace i d bus b.seq with
          | some (r, off) => if b.seq < d.span then sumpWrite e d r off b.data s else unknown s
          | none => unknown s
        | none => unknown s
      else match tagEntryOf i bus b.tag with
        | some t => match t.cls, regionOf i t.region with
          | 2, _ => gradientBlock e t bus b s
          | 3, some r => regionBlock i r (tagOffset t bus b.seq) b.data s
          | _, _ => unknown s
        | none => unknown s

/-- COLLECTOR_BLOCK: a block that finds the collector's buffer of 1,024 full is discarded, the tile of the bus's first tap counting it
(06 R191). -/
def collectorIn (bus : Bus) (b : FsBlock) (s : State) : State :=
  match s.image with
  | none => s
  | some i =>
    match busDie i bus.die.val bus.idx with
    | none => s
    | some e =>
      let c := tapTile i bus 0
      if !flowing s then s
      else if 1024 ≤ collHeld s e bus then tapFull i c.1 c.2 s
      else collect bus b s

/-- COLLECTOR_BLOCK (09 R279). -/
def execCollectorBlock (bus : Bus) (b : FsBlock) (s : State) : Res := .next (collectorIn bus b s)

/-! Outbound (R151 to R156). -/

/-- A tap's contribution to a block: 128 bytes of its linear operand. -/
def contribution (t : Tile) (r : OpRec) (g : Gal) (seq : Nat) : List Byte :=
  let l := absLine r g r.o0.addr + 2 * (seq - r.p16 54)
  if inWindow g l && inWindow g (l + 1) then sramRead t (64 * l) 128 else zeros 128

/-- The block after the tap's add: FP32 sums rounded stochastically, or with a sump tag the contribution unchanged (R151, 08 R250). -/
def tapAdd (s : State) (t : Tile) (r : OpRec) (g : Gal) (bus : Bus) (k : Nat) (b : FsBlock) : FsBlock :=
  let c := contribution t r g b.seq
  if 0xC0 ≤ b.tag then mkBlock b.seq b.tag b.part c
  else mkBlock b.seq b.tag b.part ((List.range 32).flatMap fun e =>
    let u := draw (keyNow s) r.gsid (arrStep s) (tapElem bus.die.val bus.idx b.seq e) k
    natLE 4 (add32 (.sr u) (w32 (fieldLE b.data (4 * e) 4)) (w32 (fieldLE c (4 * e) 4))).toNat)

/-- A transfer's record at a tap whose stream has still to issue it: the block must wait for its contribution. -/
def tapoutDue (s : State) (i : Img) (bus : Bus) (n : Nat) (b : FsBlock) : Option (Strm × Nat × OpRec) :=
  (tickTransfers s i 0x2A).find? fun r => tapoutHas r.2.2 bus n b

/-- Does a block reach its die without being held at a tap whose buffer is full, from tap `n` down? In Q mode a bus holds there
(R156). -/
def outRoom (s : State) (i : Img) (bus : Bus) (b : FsBlock) : Nat → Bool
  | 0 => outAt 0
  | n + 1 => outAt (n + 1) && (outStops (n + 1) || outRoom s i bus b n)
where
  outStops (n : Nat) : Bool :=
    let c := tapTile i bus n
    let t := tile s c.1 c.2
    !t.fenced && (activeTapout t bus n b).isNone && (tapoutDue s i bus n b).any fun r => unissued t r.1 r.2.1
  outAt (n : Nat) : Bool := let c := tapTile i bus n; !outStops n || tapHeld (tile s c.1 c.2) bus.die.val < 16

/-- A block passes the taps of its bus toward the die, from tap `k` down (R151, R154 to R156). -/
def walkOut (i : Img) (bus : Bus) : Nat → FsBlock → State → State
  | n, b, s =>
    let c := tapTile i bus n
    let t := tile s c.1 c.2
    let next (b : FsBlock) (s : State) : State := match n with | 0 => collect bus b s | m + 1 => walkOut i bus m b s
    if b.crc ≠ blockCrc b then tapFault i bus n (if n + 1 < busLen i bus then some (n + 1) else some n) false s
    else
      match tapoutDue s i bus n b with
      | none => next b s
      | some (st, k, _) =>
        if t.fenced then next (mkBlock b.seq b.tag true b.data) (tileNetErr c.1 c.2 0x68 s)
        else match activeTapout t bus n b with
          | some o =>
            let r := parseRec o.bytes
            let b' := tapAdd s t r (galleryOf i c.1 c.2).2 bus n b
            let t := tokEvent s.now 4 (setOp o { o with left := o.left - 1 } t)
            next b' (setTile c.1 c.2 t s)
          | none =>
            if unissued t st k then park i c.1 c.2 (4 + bus.die.val) b s
            else if i.lmode then slotColl c.1 c.2 s
            else next b s

/-- In L mode tap I_HI creates a block in a cycle of an outbound slot entry (R155, 06 R179). -/
def createsAt (s : State) (i : Img) (bus : Bus) (r : OpRec) (seq : Nat) : Bool :=
  !i.lmode || match tickNow s with
    | none => false
    | some tr => ((i.fsSlots.drop tr.fsFirst).take tr.fsN).any fun e =>
        e.outb && e.die = bus.die.val && e.idx = bus.idx && e.tag = r.tag && e.seq0 ≤ seq && seq < e.seq0 + e.count
          && e.iHi = r.p8 58 && e.iLo = r.p8 59

/-- Tap I_HI of a run creates the blocks that its TAPOUT has still to create, with +0.0, as long as the bus does not hold (R151,
R156). A block with no slot entry of its own is a slot collision. -/
def createOut (i : Img) (bus : Bus) (hi : Nat) (st : Strm) (k : Nat) (r : OpRec) : Nat → State → State
  | 0, s => s
  | n + 1, s =>
    let c := tapTile i bus hi
    match (tile s c.1 c.2).ops.find? fun o => o.opc = 0x2A && o.strm = st && o.idx = k && o.left ≠ 0 with
    | none => s
    | some o =>
      let seq := r.p16 54 + (r.p16 56 - o.left)
      let b := mkBlock seq r.tag false (zeros 128)
      if !createsAt s i bus r seq then
        let t := tile s c.1 c.2
        createOut i bus hi st k r n (slotColl c.1 c.2 (setTile c.1 c.2 (setOp o { o with left := o.left - 1 } t) s))
      else if !i.lmode && !outRoom s i bus b hi then s
      else createOut i bus hi st k r n (walkOut i bus hi b s)

/-- The outbound blocks that a tap holds go on, oldest first, while the bus does not hold. In L mode one that came before the tap's
transfer was active is a slot collision (R155). -/
def releaseOut (i : Img) (bus : Bus) (n : Nat) (s : State) : State :=
  let c := tapTile i bus n
  ((tile s c.1 c.2).fsIn.filter fun e => e.port = 4 + bus.die.val).foldl (fun s e =>
    let t := tile s c.1 c.2
    let drop (s : State) : State := setTile c.1 c.2 { t with fsIn := t.fsIn.erase e } s
    if (activeTapout t bus n e.blk).isNone && !t.fenced then s
    else if i.lmode then (if e.at_ < s.now && !t.fenced then slotColl c.1 c.2 (drop s) else walkOut i bus n e.blk (drop s))
    else if !outRoom (drop s) i bus e.blk n then s
    else walkOut i bus n e.blk (drop s)) s

/-- A tap's transfer has become active: its blocks go on, then those that the bus held back behind it, up to the tap that creates
them. -/
def pullOut (i : Img) (bus : Bus) (n : Nat) (st : Strm) (k : Nat) (r : OpRec) (s : State) : State :=
  let s := forAll ((List.range (r.p8 58 + 1 - n)).map (· + n)) (releaseOut i bus) s
  createOut i bus (r.p8 58) st k r (r.p16 56) s

/-- At the end of a tick: blocks held at a tap whose tile has been fenced pass on, marked PART (R154); in L mode the others have missed
their tap's transfer (R155). -/
def tapsAtEnd (s : State) : State :=
  match s.image with
  | none => s
  | some i =>
    forAll (imageTiles i) (fun p s =>
      forAll (tile s p.1 p.2).fsIn (fun e s =>
        let t := tile s p.1 p.2
        let x := tileBus i (Fin.ofNat 4 e.port) p.1 p.2
        let drop (s : State) : State := setTile p.1 p.2 { t with fsIn := t.fsIn.erase e } s
        if t.fenced then (if e.port < 4 then drop s else walkOut i x.1 x.2 e.blk (drop s))
        else if i.lmode then slotColl p.1 p.2 (drop s)
        else s) s) s

/-- OUTBOUND_BLOCK (05 R151): a block reaches a tap, and goes on toward its die. -/
def outboundAt (u v : Nat) (bus : Bus) (b : FsBlock) (s : State) : State :=
  match s.image with
  | none => s
  | some i =>
    let x := tileBus i bus.die u v
    if !flowing s || !inImage s u v || x.1 ≠ bus then s else walkOut i bus x.2 b s

/-- OUTBOUND_BLOCK (05 R151). -/
def execOutboundBlock (u v : Nat) (bus : Bus) (b : FsBlock) (s : State) : Res := .next (outboundAt u v bus b s)

/-- A TAPOUT record: tap I_HI creates the blocks; another tap of the run adds to those that wait, and the bus goes on behind it; any
other tile's record does nothing. -/
def tapoutRec (u v : Nat) (st : Strm) (i : Img) (k : Nat) (r : OpRec) (s : State) : State :=
  let x := tileBus i (Fin.ofNat 4 (r.p8 52)) u v
  let n := r.p16 56
  let g := (galleryOf i u v).2
  if !(r.p8 59 ≤ x.2 && x.2 ≤ r.p8 58) then startOp u v st k r 0 0 [] [] s
  else
    let l := absLine r g r.o0.addr
    let s := startOp u v st k r n 0 ((List.range (2 * n)).map (· + l)) [] s
    if x.2 = r.p8 58 then createOut i x.1 x.2 st k r n s else pullOut i x.1 x.2 st k r s

/-- TAPOUT (05 R151). -/
def execTapout (u v : Nat) (st : Strm) (s : State) : Res := .next (issue u v st 0x2A (tapoutRec u v st) s)

end Sys2Proof.Machine
end

