-- ==== Sys2Proof/Machine/Tick.lean ====
section
/-! DEFINITION. Ticks and steps: the boundary actions, the choice of the next tick record, ladder decisions and detours,
token faults, the step boundary and its records (06 R159 to R193, 07 R201, 04 R103 to R107, 01 R29, 15 R434 to R438,
17 R499, R500). -/

namespace Sys2Proof.Machine

/-! Before the boundary. -/

/-- TICK_MARKER_LAUNCH (13 R398): the marker of the coming boundary is on its way. -/
def execTickMarkerLaunch (s : State) : Res :=
  .next (if moving s then { s with asq := { s.asq with marker := true } } else s)

/-- Does a stream of a tile report a hold: asleep, or with a WAIT or BARRIER of the tick still to issue (07 R201)? A stream
behind a barrier counts as asleep (DEDUCED). -/
def holds (s : State) (i : Img) (u v : Nat) (st : Strm) : Bool :=
  let c := getCtx (tile s u v) st
  c.sleep.isSome || c.barrier.isSome ||
    match tickNow s with
    | some tr => (firstRec tr st).isSome && (recsFrom (recsOf i st) (numRec tr st - c.issued) c.pos).any fun r => r.2.opc = 3 || r.2.opc = 5
    | none => false

/-- The OR over the wafer of the streams that hold: bit 0 F, 1 B, 2 W. -/
def holdBits (s : State) (i : Img) (p : Nat × Nat → Strm → Bool) : Nat :=
  let one (st : Strm) : Nat := if (imageTiles i).any fun t => !(tile s t.1 t.2).fenced && p t st then strmBit st else 0
  one .f + one .b + one .w

/-- SLEEP_SAMPLE (07 R201). -/
def sleepSample (s : State) : State :=
  match s.image with
  | some i => if moving s then { s with asq := { s.asq with sampled := holdBits s i fun t st => holds s i t.1 t.2 st } } else s
  | none => s

def execSleepSample (s : State) : Res := .next (sleepSample s)

/-! Tokens (06 R170 to R175). -/

/-- The two ceilings in force: PRT_TOK lowers them, to no less than 1 (16 R469). -/
def ceilings (s : State) (i : Img) : Nat × Nat :=
  let w := reg s .dbg 0x058
  if prtActs s 0x058 then (max 1 (i.avg - fld w.toNat 7 0), max 1 (i.peak - fld w.toNat 15 8)) else (i.avg, i.peak)

/-- A tile's budget for a tick. -/
def budget (s : State) (i : Img) : Nat := (ceilings s i).1 * 2 ^ i.tickLog2

/-- TOK_AVG_OVERDRAW (R173): the flag of a tile whose total has passed its budget. -/
def tokAvgOverdraw (u v : Nat) (s : State) : State :=
  match s.image with
  | some i =>
    let t := tile s u v
    if moving s && inImage s u v && budget s i < t.tok then setTile u v { t with tokAvg := true } s else s
  | none => s

def execTokAvgOverdraw (u v : Nat) (s : State) : Res := .next (tokAvgOverdraw u v s)

/-- PEAK_OVERDRAW (R174): a cycle of cost above P; the contract fault follows at the boundary. -/
def peakOverdraw (u v cost : Nat) (s : State) : State :=
  match s.image with
  | some i =>
    let t := tile s u v
    if moving s && inImage s u v && (ceilings s i).2 < cost then
      setTile u v { t with tokPeak := true, tokPkNow := max t.tokPkNow cost } s else s
  | none => s

def execPeakOverdraw (u v cost : Nat) (s : State) : Res := .next (peakOverdraw u v cost s)

/-! Steps 1 and 2 of the boundary (R162). -/

/-- Has a stream of a tile left a record of the tick unissued? Records held by a decision, by a rung or by a sleep are not due
in the tick. -/
def leftRecord (s : State) (i : Img) (tr : TickRec) (t : Tile) (st : Strm) : Bool :=
  let c := getCtx t st
  (firstRec tr st).isSome && c.issued < numRec tr st && c.sleep.isNone && c.barrier.isNone &&
    match (recsOf i st)[c.pos]? with
    | some b => let r := parseRec b; !(decisionHolds s i st c r || unitHeld s i r.unit)
    | none => false

/-- Work of the tick that is unfinished on a tile (R161). -/
def unfinished (s : State) (i : Img) (t : Tile) : Bool :=
  !t.ops.isEmpty || !t.bulk.isEmpty || !t.rxq.isEmpty || !t.fsIn.isEmpty ||
    (!t.fenced && match tickNow s with | some tr => [Strm.f, .b, .w].any (leftRecord s i tr t) | none => false)

/-- The index of a late operation: one that works, or one that has not issued; 0 where a flit or block is late (R188). -/
def lateOp (s : State) (i : Img) (t : Tile) : Nat :=
  match t.ops with
  | o :: _ => o.idx
  | [] => match tickNow s with
    | some tr => match [Strm.f, .b, .w].find? (leftRecord s i tr t) with | some st => (getCtx t st).pos | none => 0
    | none => 0

/-- Tick overrun: contract fault 3 at the first tile that is late. -/
def overrunCheck (i : Img) (s : State) : State :=
  match (imageTiles i).find? fun p => unfinished s i (tile s p.1 p.2) with
  | some p => contractFault 3 p.1 p.2 (lateOp s i (tile s p.1 p.2)) s
  | none => s

/-- The tick records that follow in the body in progress. -/
def ticksLeft (s : State) (i : Img) : List TickRec :=
  match s.asq.det with
  | some (b, o) => match i.bodies[b]? with | some x => (i.detours.drop (x.first + o + 1)).take (x.count - (o + 1)) | none => []
  | none => i.main.drop (s.asq.mainPos + 1)

/-- Is there another Owl window before a unit's LADDER_END (04 R111)? -/
def laterWindow (s : State) (i : Img) (unit : Nat) : Bool :=
  ((ticksLeft s i).takeWhile fun tr => !((recordRecs i tr).any fun r => r.opc = 4 && r.unit = unit)).any (·.owlWin)

/-- A window tick ends on a tile: the cycles of the tick but the 8 that save the lanes have gone to its check, at 6 tokens each; a
check not complete at its unit's last window is abandoned (04 R111). -/
def windowEndTile (i : Img) (p : Nat × Nat) (s : State) : State :=
  let t := tile s p.1 p.2
  match t.owl with
  | none => s
  | some o =>
    let n := min (2 ^ i.tickLog2 - 8) (owlCycles o - o.spent)
    let t := { t with tok := t.tok + 6 * n, owl := some { o with spent := o.spent + n } }
    if laterWindow s i o.unit then setTile p.1 p.2 t s
    else setErr .owl 2 (bump .owl 0x05C (setTile p.1 p.2 { t with owl := none } s))

def windowEndAll (i : Img) (s : State) : State :=
  if (tickNow s).any (·.owlWin) then forAll ((imageTiles i).filter fun p => !(tile s p.1 p.2).fenced) (windowEndTile i) s else s

/-- The HALTs that crossed the array in the tick cost each router 2 tokens for every link but the one they came by, and the tile that sent
one 2 more (05 R125, R129). A BARRIER that the tick leaves waiting keeps its stream active to the tick's end (06 R171). -/
def haltTokens (i : Img) (s : State) : State :=
  let s := mapTiles (fun t => [Strm.f, .b, .w].foldl (fun t st =>
    let c := getCtx t st
    match c.barrier, c.act with
    | some _, some a => { t with tok := t.tok + 3 * (s.now - a) }
    | _, _ => t) t) s
  if s.asq.haltHops = 0 then s
  else
    let s := forAll s.asq.haltFrom (fun p => charge p.1 p.2 2) s
    let s := forAll (imageTiles i) (fun p s =>
      charge p.1 p.2 (2 * s.asq.haltHops * (([Port.n, .e, .s, .w].filter (hasNbr i p.1 p.2)).length - 1)) s) s
    { s with asq := { s.asq with haltHops := 0, haltFrom := [] } }

/-- One tile's total and highest cycle against its ceilings: contract faults 1 and 2 (R173, R174). -/
def tokenCheck (i : Img) (p : Nat × Nat) (s : State) : State :=
  let t := tile s p.1 p.2
  let lowered (n m : Nat) (s : State) : State := if n ≤ m then prtEvent s else s
  let s := if budget s i < t.tok then
      lowered t.tok (i.avg * 2 ^ i.tickLog2) (contractFault 1 p.1 p.2 0 (setTile p.1 p.2 { t with tokAvg := true } s)) else s
  if (ceilings s i).2 < t.tokPkNow then lowered t.tokPkNow i.peak (contractFault 2 p.1 p.2 0 s) else s

/-- Totals move to the latest complete tick, landing counts and markers end, sleeps and decision windows age (R163, R180, R202,
07 R198, R215). -/
def endTick (s : State) : State :=
  let detour := s.asq.det.isSome && !s.asq.stall
  let age (c : Ctx) : Ctx :=
    let c := { c with act := none }
    if c.sleep.isSome && !detour then { c with slept := c.slept + 1 } else c
  let top := match s.image with | some i => (ceilings s i).2 | none => 0
  let ran := (tickNow s).isSome
  let stall := s.asq.stall
  let s := mapTiles (fun t => { t with tokLast := t.tok, tokPk := max t.tokPkNow (min t.tokHi top), landed := [0, 0, 0], cF := age t.cF, cB := age t.cB, cW := age t.cW }) s
  let s := notePrt none { s with prtHeld := [], dies := mmap DieSt.blank (fun x => { x with sent := [] }) s.dies }
  let s := setReg64 .asq 0x04C (runTick s + 1) s
  let s := if stall then bump .asq 0x08C s else s
  { s with asq := { s.asq with
      marker := false
      tickAt := s.now
      ticksRun := s.asq.ticksRun + ran.toNat
      stallSteps := s.asq.stallSteps + stall.toNat
      units := if stall then s.asq.units else
        s.asq.units.foldl (fun (m : SMap UnitSt) (e : Nat × UnitSt) => mput default e.1 { e.2 with due := e.2.due.map (· - 1) } m) [] } }

/-- The highest field total of any tick, divided by L (17 Table 17.10). -/
def fieldTokens (i : Img) (s : State) : State :=
  match s.place with
  | none => s
  | some p =>
    let sums : SMap Nat := (imageTiles i).foldl (fun (m : SMap Nat) t => match imagePhys s.geo p t.1 t.2 with
      | some (x, y) => let f := (fieldAt x y).val; mput 0 f (mget 0 m f + (tile s t.1 t.2).tok) m
      | none => m) []
    forAll allFields (fun f s =>
      let n := mget 0 sums f.val / 2 ^ i.tickLog2
      if n ≤ (reg s (.fld f) 0x04C).toNat || pageFrz s (.fld f) then s else setReg (.fld f) 0x04C (w32 n) s) s

/-! Step 3: halts. -/

/-- A decision that falls due at a halting boundary is not applied; the ledger records its unit as undecided (R162). -/
def undecided (s : State) : State :=
  forAll (s.asq.units.filter fun e => e.2.due = some 0) (fun e s =>
    let s := arrItem 0x0005 (natLE 1 2 ++ natLE 1 e.2.rung ++ natLE 2 e.1 ++ zeros 28) s
    let s := clearAttempt e.1 (setUnit e.1 { e.2 with due := none } s)
    { s with asq := { s.asq with results := s.asq.results.filter fun r => !(s.image.any fun i => combIsOf i e.1 r.1) } }) s

/-- The region that holds a module HBM address. -/
def regionAt (s : State) (i : Img) (a : Nat) : Option Region :=
  let p := placeNow s
  i.regions.find? fun r =>
    let st := fld a 37 36
    let n := max p.nstk 1
    let unit := fld a 35 0 / 4096
    r.owner = hbmDie a && st < n && r.base.getD st 0 ≤ unit && unit < r.base.getD st 0 + unitsOn (rotQ p) n r st

/-- Does the job rewrite a region whole before it is read again (15 R441)? -/
def rewritten (r : Region) : Bool := (r.gen2 && r.arr && (r.kind = 0 || r.kind = 1)) || r.kind = 5

/-- The array has stopped after an HBM fault (15 R441): recovery waits for state, or the host repairs the region,
whose sector UE_ADDR names. -/
def hbmStop (a : Nat) (s : State) : State :=
  match s.image with
  | none => s
  | some i =>
    if s.asq.recov.autoR && (regionAt s i a).any rewritten then setRec 4 s
    else
      let n := stkCtl s (hbmDie a) (hbmStk a)
      recordCause 14 0xFFFF 0xFFFF 0 (setErr .asq 14 (setReg64 (.hbm (hbmDie a) n) 0x054 (a / 64 * 64) s))

/-- What follows a stop: recovery from tile faults, unless a contract fault wins (15 R448), or from an HBM fault. -/
def haltOutcome (contract : Bool) (s : State) : State :=
  let r := s.asq.recov
  if !r.suspects.isEmpty then
    if contract && !(r.suspects.any fun q => q.2.2 = 1 || q.2.2 = 2) then
      let s := rememberSus s
      setRec 0 { s with asq := { s.asq with recov := Recov.none } }
    else afterStop s
  else match r.hbm with
    | some a => if contract then s else hbmStop a s
    | none => s

/-- A halt is applied: Halt, or the Fault of a watchdog that waited for the boundary (14 R412); a HALT or ARRAY_RESET command
goes on from here (14 R420, R422). -/
def applyHalt (s : State) : State :=
  let contract := s.asq.contract
  let s := undecided s
  let s := { s with asq := { s.asq with haltPend := false, contract := false, tick1 := false } }
  if s.stuck then moduleFault s
  else
    let s := setRun .halt s
    match s.busy with
    | some .halt => haltOutcome contract (midDone 6 0 s)
    | some .arrayReset => arrayResetStart s
    | _ => haltOutcome contract s

/-! Step 6: the next tick record begins (R181, R201). -/

/-- A stream's context at the start of a tick. -/
def placeCtx (tr : Option TickRec) (st : Strm) (c : Ctx) : Ctx :=
  let c := { c with issued := 0, fenceWait := false, due := (tr.map fun t => numRec t st).getD 0 }
  match tr.bind fun t => firstRec t st with
  | some k => { c with pos := k }
  | none => c

/-- The units whose setts are held at the start of the tick (04 R104). -/
def startingUnits (s : State) (i : Img) : List Nat :=
  match s.asq.det with
  | some (b, 0) => match i.bodies[b]? with | some x => [x.unit] | none => []
  | some _ => []
  | none => (i.units.filter fun d => d.mainFirst = s.asq.mainPos && !unitHeld s i d.unit).map (·.unit)

/-- The streams of a step that has run ahead which the boundary before it still holds: B and W until it is taken, since backward
begins with every generation complete (10 R310), and F while the boundary itself is held (01 R29). -/
def heldAhead (s : State) : Nat :=
  (if s.asq.holdB && stepNo s ≤ arrStep s then strmBit .f else 0) + if stepNo s < arrStep s then strmBit .b + strmBit .w else 0

/-- The chosen record runs, or a stall tick runs in its place (07 R201). -/
def beginTick (i : Img) (s : State) : State :=
  let s := { s with asq := { s.asq with stall := false } }
  let named : Nat := match tickNow s with
    | some tr => [Strm.f, .b, .w].foldl (fun a st => if (firstRec tr st).isSome then a + strmBit st else a) 0
    | none => 0
  let asleep := holdBits s i fun t st => let c := getCtx (tile s t.1 t.2) st; c.sleep.isSome || c.barrier.isSome
  let held := named &&& (s.asq.sampled ||| asleep ||| heldAhead s)
  let s := { s with asq := { s.asq with sampled := 0 } }
  if held ≠ 0 then setReg .asq 0x090 (w32 held) { s with asq := { s.asq with stall := true } }
  else
    let tr := tickNow s
    let s := mapTiles (fun t => { t with cF := placeCtx tr .f t.cF, cB := placeCtx tr .b t.cB, cW := placeCtx tr .w t.cW }) s
    let s := forAll (startingUnits s i) saveSetts s
    match s.asq.det with
    | some (b, o) =>
      let s := if o = 0 then bump .asq 0x084 { s with asq := { s.asq with detSteps := s.asq.detSteps + 1 } } else s
      setReg .asq 0x054 (w32 (2 ^ 31 + ((i.bodies[b]?).map fun x => x.first + o).getD 0)) s
    | none => setReg .asq 0x054 (w32 s.asq.mainPos) s

/-- Has every ARR region reached NBLK? -/
def arrComplete (s : State) (i : Img) : Bool := i.regions.all fun r => !r.arr || r.nblk ≤ mget 0 (dieSt s r.owner).arr r.idx

/-- The array's program begins again, for the step after the one it has run. A program that begins before its step keeps the
counts of the one that ended (01 R28). -/
def beginProgram (i : Img) (s : State) : State :=
  let a := s.asq
  let ahead : Bool := stepNo s ≤ arrStep s
  let s := { s with asq := { a with
      astep := a.astep + 1, stall := false
      prev := if ahead then some (a.ticksRun, a.detSteps, a.skipSteps, a.stallSteps) else a.prev
      ticksRun := if ahead then 0 else a.ticksRun, detSteps := if ahead then 0 else a.detSteps
      skipSteps := if ahead then 0 else a.skipSteps, stallSteps := if ahead then 0 else a.stallSteps } }
  settleAll i (passTo i 0 s)

/-- May the array begin another program: that of the step in progress, or the next one's while parameters of the step in progress
are still to come (01 R28) and no change waits for the boundary (R29)? -/
def mayBegin (s : State) (i : Img) : Bool :=
  s.run = .run && atEnd s i && !s.asq.holdB &&
    (arrStep s < stepNo s || (arrStep s = stepNo s && !s.rdc.epochPend && !arrComplete s i))

/-- Choose and begin the next tick. -/
def selectNext (s : State) : State :=
  match s.image with
  | none => s
  | some i =>
    let s := settleAll i (nextPos i s)
    let s := if mayBegin s i then beginProgram i s else s
    beginTick i (if s.run = .run then mapTiles clearTok s else s)

/-! The boundary. -/

/-- A tick ends in Run or after TICK1: the actions of R162 in their order. A field whose ceiling exceeds its derated one puts
the module into Fault (R175). With decisions due, the next record is chosen after the last of them. -/
def boundary (i : Img) (s : State) : State :=
  let s := overrunCheck i (tapsAtEnd (combinesGoOn (haltTokens i (windowEndAll i s))))
  let s := fieldTokens i (forAll (imageTiles i) (tokenCheck i) s)
  match (placeOk s).bind fun p => fieldOver s p i with
  | some f =>
    let s := recordCause 11 0xFFFF 0xFFFF f.val (setErr .asq 11 s)
    enterFault (faultItem 7 11 [] (setReg .asq 0x078 (w32 f.val) (endTick s)))
  | none =>
    let s := endTick s
    let s := if s.asq.haltPend || s.run = .halt then applyHalt s else s
    let s := commitNow s
    if s.run = .fault || deciding s then s else selectNext s

/-- RESUME takes effect, unless a fault has come since (14 R420). -/
def resumeNow (s : State) : State :=
  if faultValid s || s.asq.haltPend || !s.asq.recov.suspects.isEmpty || s.asq.recov.hbm.isSome then
    let s := midDone 7 9 { s with asq := { s.asq with haltPend := false } }
    if 2 ≤ recState s then s else haltOutcome (faultValid s) s
  else mapTiles clearTok (setRun .run (midDone 7 0 { s with asq := { s.asq with tickAt := s.now, halted := false } }))

/-- TICK_BOUNDARY (R162). -/
def tickBoundary (s : State) : State :=
  match s.image with
  | none => s
  | some i =>
    if s.loading then s
    else if moving s then (if deciding s then s else boundary i s)
    else if s.run = .halt && s.busy = some .resume then resumeNow s
    else s

def execTickBoundary (s : State) : Res := .next (tickBoundary s)

/-- LADDER_DECISION (04 R103): at the boundary at which it falls due. The next tick begins after the last decision. -/
def ladderDecision (unit : Nat) (s : State) : State :=
  if s.run ≠ .run || (unitSt s unit).due ≠ some 0 then s
  else
    let s := decideUnit unit s
    if deciding s then s else selectNext s

def execLadderDecision (unit : Nat) (s : State) : Res := .next (ladderDecision unit s)

/-- STEP_WATCHDOG (R190): the time since the last step boundary has come. -/
def stepWatchdog (s : State) : State :=
  match s.image with
  | some i =>
    if s.run ≠ .run then s
    else contractFault 10 0xFFFF 0xFFFF 0 { s with now := max s.now (s.asq.stepStart + i.stepWd * 1000000000) }
  | none => s

def execStepWatchdog (s : State) : Res := .next (stepWatchdog s)

/-! The step boundary (01 R29, 09 R281). -/

/-- The scale records as section 0x000C lays them out (04 Table 4.7). -/
def scaleBytes (k : Nat) (r : ScaleRec) : List Byte :=
  padTo 16 (natLE 2 k ++ natLE 2 r.unit ++ natLE 1 r.kind ++ natLE 1 r.h0 ++ natLE 1 r.h ++ zeros 1 ++ natLE 2 r.hold ++ natLE 2 r.sref
    ++ natLE 4 r.m.length ++ (r.fmts.map fun f => BitVec.ofNat 8 f) ++ zeros 12 ++ (r.m.map fun m => natLE 4 m.toNat).flatten)

/-- The step-state record of the step it begins (15 Table 15.3). -/
def stepRecord (s : State) (i : Img) : List Byte :=
  let us := i.units.insertionSort fun a b => a.unit ≤ b.unit
  let body := (us.map fun d => let x := unitSt s d.unit; natLE 4 (x.rung % 4 + 2 ^ 16 * x.hold)).flatten
    ++ (i.scales.zipIdx.map fun r => scaleBytes r.2 r.1).flatten
  natLE 8 (stepNo s) ++ i.hash.take 8 ++ natLE 4 (64 + body.length) ++ natLE 2 us.length ++ natLE 2 (selfM s)
    ++ natLE 4 i.scales.length ++ zeros 36 ++ body

/-- Address of a slot of the state area. -/
def slotAddr (s : State) (a k : Nat) : Nat := a + k * (((reg s .asq 0x0D0).toNat + 4095) / 4096 * 4096)

/-- Write the record of the step that begins (15 R436), to the slot of its number mod 2. -/
def writeState (s : State) : State :=
  match s.image, s.state3 with
  | some i, some a =>
    setReg64 .asq 0x0D4 (stepNo s) (hbmWrite (slotAddr s a (stepNo s % 2)) (stepRecord s i) s)
  | _, _ => s

/-- Did a perturbation act in the step (16 R469)? -/
def perturbed (s : State) : Bool := prtRegs.any fun o => mget 0 s.asq.prtVals o ≠ 0 || prtActs s o

/-- The PERTURB item: the values in force in the step. -/
def perturbItem (s : State) : State :=
  if perturbed s then
    ledgerItem 0x000D ((prtRegs.map fun o =>
      natLE 4 (if mget 0 s.asq.prtVals o ≠ 0 then mget 0 s.asq.prtVals o else reg s .dbg o).toNat).flatten) s
  else s

/-- Ticks run, detours, skips and stall ticks of the step in progress. -/
def stepCounts (s : State) : Nat × Nat × Nat × Nat :=
  s.asq.prev.getD (s.asq.ticksRun, s.asq.detSteps, s.asq.skipSteps, s.asq.stallSteps)

/-- Shift of the step (R184). -/
def shiftOf (s : State) (i : Img) : Nat := unsgn 32 (((stepCounts s).1 : Int) - i.main.length)

/-- The STEP item, last of its step (17 Table 17.15). -/
def stepItem (i : Img) (s : State) : State :=
  let flags := (perturbed s).toNat + 2 * (decide (s.stepLost ≠ 0)).toNat + 4 * (s.asq.recov.own && recState s = 6).toNat
  ledgerItem 0x0001 (i.hash ++ natLE 4 (cfgVer s).toNat ++ natLE 2 (epochNow s) ++ natLE 2 flags ++ hashRegs s .plc 0x078
    ++ natLE 4 (shiftOf s i) ++ natLE 4 (stepCounts s).2.1 ++ natLE 4 (stepCounts s).2.2.1 ++ natLE 4 (stepCounts s).2.2.2
    ++ natLE 4 s.stepItems ++ zeros 4) s

/-- Were the module's own contributions of the step taken without substitution (15 R438)? What happened at another module's
parent no frame reports, so it is a free value. -/
def ownTaken (s : State) : Bool :=
  match s.rdc.plan with
  | none => true
  | some p => p.chans.all fun ch =>
    ((sharesOf p ch).filter fun x => x.primary = selfM s).all fun x =>
      if x.parent = selfM s then (redsOf p ch).all fun rn => !decide (x.share ∈ (addSt s (redKey rn.chan rn.rseq) (selfM s)).subst)
      else bitOf (Config.freeWord s.fc) 0

/-- A recovery completes with a whole step whose contributions were taken (15 R438). -/
def recoveryDone (s : State) : State :=
  if recState s ≠ 6 || s.asq.voided then s
  else if ownTaken s then
    let s := freshFree (setReg .asq 0x068 0 (bump .asq 0x0C4 s))
    setRec 0 { s with asq := { s.asq with recov := Recov.none } }
  else freshFree { s with asq := { s.asq with recov := { s.asq.recov with own := false } } }

/-- Does the ledger hold the module at the boundary (17 R500)? -/
def ledgerHolds (s : State) : Bool :=
  match s.ledger with
  | some (_, size) => size ≠ 0 && ldgFree size s < fld (cfgv s .hdm 0x150).toNat 11 0 * 2 ^ 20
  | none => false

/-- Is a STEP program still to run or running (09 R286)? -/
def stepProgs (s : State) (i : Img) : Bool :=
  let isStep (p : Nat) : Bool := i.uprogs.any fun u => u.prog = p && u.trig = 1
  dies.any fun d =>
    let e := (dieSt s d).ue
    e.ready.any isStep || (e.run.map (·.prog)).any isStep

/-- The array runs step `n`, from its first main tick. -/
def startStep (n : Nat) (i : Img) (s : State) : State :=
  let s := passTo i 0 { s with asq := { s.asq with
    astep := n, prev := none, det := none, detQ := [], stall := false, voided := false } }
  beginTick i (mapTiles clearTok (settleAll i { s with asq := { s.asq with tickAt := s.now } }))

/-- A rejoined module starts the step of its record; the steps that its dies have taken since follow it (15 R438). -/
def startRejoined (i : Img) (s : State) : State :=
  startStep s.asq.recov.target i (writeState (setRec 6 (setRun .run { s with asq := { s.asq with haltPend := false, contract := false, halted := false } })))

/-- The held step begins once nothing holds it; an array still in a program goes on (R28, R29). -/
def releaseStep (i : Img) (s : State) : State :=
  let s := if s.rdc.epochPend then epochBoundary s else s
  if epochHolds s || ledgerHolds s || stepProgs s i then s
  else
    let s := { s with asq := { s.asq with holdB := false } }
    if s.run = .run then (if mayBegin s i && !s.asq.haltPend then startStep (stepNo s) i s else s)
    else if recState s = 5 && s.asq.recov.target ≤ stepNo s then startRejoined i s
    else { s with asq := { s.asq with voided := true } }

/-- The step ends: its last items, then the changes that take effect at a step boundary, then what the next step starts with.
A module whose array is down takes the boundary with its dies alone: its ladders and its step-state records stay as the voided
step left them (15 R434; DEDUCED from R437's use of the voided step's own record). -/
def endStep (i : Img) (s : State) : State :=
  let up := s.run = .run
  let s := stepItem i (perturbItem (linkReturn s))
  let s := if up then setReg .asq 0x060 (w32 (shiftOf s i)) s else s
  let s := recoveryDone s
  let s := { s with dies := s.dies.foldl (fun (m : SMap DieSt) (e : Nat × DieSt) => mput DieSt.blank e.1 { e.2 with arr := [] } m) [] }
  let s := setReg64 .asq 0x058 (stepNo s + 1) s
  let s := reductionStep (epochBoundary s)
  let s := if up then writeState (ladderStep s) else s
  let s := readyProgs (fun u => u.trig = 1) s
  let s := if s.asq.prev.isSome then { s with asq := { s.asq with prev := none } }
    else { s with asq := { s.asq with ticksRun := 0, detSteps := 0, skipSteps := 0, stallSteps := 0 } }
  let s := { s with stepItems := s.aheadItems, aheadItems := 0, stepLost := 0, asq := { s.asq with
      holdB := true, stepStart := s.now
      prtVals := [], voided := !up || (s.asq.haltPend && s.asq.voided) } }
  if ledgerHolds s then bump .hdm 0x170 (setErr .hdm 4 s) else s

/-- Has the step reached its boundary: every ARR region is complete (R29, 09 R281)? Where the image has none, it is the end of
the main program (DESIGN CHOICE). -/
def stepDone (s : State) (i : Img) : Bool :=
  arrComplete s i && (i.regions.any (·.arr) || s.run ≠ .run || (atEnd s i && stepNo s ≤ arrStep s))

/-- STEP_BOUNDARY (01 R29): the step is done, of an array that runs, or of a voided step that the dies go on with alone (15 R434);
again, while the boundary holds. -/
def stepBoundary (s : State) : State :=
  match s.image with
  | none => s
  | some i =>
    if !diesRun s || s.run = .ready then s
    else if s.asq.holdB then releaseStep i s
    else if (s.run ≠ .run && !s.asq.voided) || !stepDone s i then s
    else releaseStep i (endStep i s)

def execStepBoundary (s : State) : Res := .next (stepBoundary s)

end Sys2Proof.Machine
end

