-- ==== Sys2Proof/Machine/Checks.lean ====
section
/-! DEFINITION. The load checks of an image, in the order of 06 Table 6.12, and what each refuses (06 R187 and the rules it names). -/

namespace Sys2Proof.Machine

/-! The records of an image. -/

/-- Every record of a stream with its index, extension records stepped over. -/
def allRecs (i : Img) (st : Strm) : List (Nat × OpRec) := recsFrom (recsOf i st) (recsOf i st).length 0

def strms : List Strm := [.f, .b, .w]

/-- The records of a stream in a tick record. -/
def recsOfTick (i : Img) (tr : TickRec) (st : Strm) : List OpRec :=
  match firstRec tr st with
  | some k => (recsFrom (recsOf i st) (numRec tr st) k).map (·.2)
  | none => []

/-- The main program and each detour body, as lists of tick records. -/
def programs (i : Img) : List (List TickRec) := i.main :: i.bodies.map fun b => (i.detours.drop b.first).take b.count

/-! Code 0x07. -/

/-- Does NEEDS name a unit that CAP reports absent (Table 6.8)? -/
def needsAbsent (s : State) (i : Img) : Bool :=
  let u := reg s .cap 0x044
  (i.needs.testBit 0 && !bitOf u 31) || (i.needs.testBit 1 && fld (reg s .cap 0x048).toNat 23 16 ≠ 64) ||
    (List.range 16).any fun p => i.needs.testBit (16 + p) && !bitOf u p

/-! Code 0x08: slots in L mode (R177, R179). -/

/-- One derived departure: router, input and output, arrival and departure cycle. -/
structure Dep where
  u : Nat
  v : Nat
  inp : Port
  out : Port
  arr : Nat
  dep : Nat
  deriving DecidableEq, Repr, Inhabited

/-- Does a unicast route turn at a router? -/
def turns (inp out : Port) : Bool := (inp = .e || inp = .w) && (out = .n || out = .s)

/-- Departures of a unicast flit that reaches a router in cycle `t`. -/
def uniDeps (du dv wait : Nat) : Nat → Nat → Nat → Port → Nat → List Dep
  | 0, _, _, _, _ => []
  | n + 1, u, v, inp, t =>
    let out := outPort u v du dv
    let d := t + (if turns inp out then wait else 0)
    let me : Dep := ⟨u, v, inp, out, t, d⟩
    if out = .l then [me] else let x := beyond u v out; me :: uniDeps du dv wait n x.1 x.2.1 x.2.2 (d + 2)

/-- Departures of a multicast flit at a router and beyond; the root's own departures stand in the slot table. -/
def mcDeps (i : Img) (tree : Nat) : Nat → Nat → Nat → Port → Nat → List Dep
  | 0, _, _, _, _ => []
  | n + 1, u, v, inp, t =>
    let e := treeEntry i tree u v
    let d := t + (if inp = .l then 0 else fld e 11 8)
    (treeOuts e).flatMap fun out =>
      let me : Dep := ⟨u, v, inp, out, t, d⟩
      if out = .l || !hasNbr i u v out then [me] else let x := beyond u v out; me :: mcDeps i tree n x.1 x.2.1 x.2.2 (d + 2)

/-- Every departure of one slot entry, for one gallery origin. -/
def entryDeps (i : Img) (e : MeshSlot) (o : Nat × Nat) : List Dep :=
  (List.range e.count).flatMap fun k =>
    let t := slotCycle e.slot0 e.posmask k
    let n := i.reqU + i.reqV + 2
    if e.mc then mcDeps i e.du n (e.su + o.1) (e.sv + o.2) .l t
    else uniDeps (e.du + o.1) (e.dv + o.2) e.turnWait n (e.su + o.1) (e.sv + o.2) .l t

def tickEntries (i : Img) (tr : TickRec) : List MeshSlot := (i.meshSlots.drop tr.meshFirst).take tr.meshN
def entryOrigins (i : Img) (e : MeshSlot) : List (Nat × Nat) := slotShifts i e
def tickDeps (i : Img) (tr : TickRec) : List Dep := (tickEntries i tr).flatMap fun e => (entryOrigins i e).flatMap (entryDeps i e)

/-- Cycles from the arrival of a flow's last flit at an L port to its completion: 4, or the skew writer's for the lines of a record with
SKW = 1 that names the flow (05 R138, 02 Table 2.9). -/
def flowTail (i : Img) (tr : TickRec) (e : MeshSlot) : Nat :=
  if (strms.flatMap (recsOfTick i tr)).any fun r => (r.opc = 0x2B || r.opc = 0x2C) && r.flow = e.flow && (r.p8 52).testBit 0
  then ceilDiv e.count 4 + 6 else 4

/-- Does a flow end after the tick (R177)? -/
def flowLate (i : Img) (tr : TickRec) (e : MeshSlot) : Bool :=
  (entryOrigins i e).any fun o => (entryDeps i e o).any fun d => d.out = .l && 2 ^ i.tickLog2 ≤ d.dep + flowTail i tr e

/-- Flits that an input holds in a cycle: those that have arrived and leave later. -/
def heldAt (ds : List Dep) (d : Dep) : Nat :=
  (((ds.filter fun x => x.u = d.u && x.v = d.v && x.inp = d.inp && x.arr ≤ d.arr && d.arr < x.dep).map fun x => (x.arr, x.dep)).dedup).length

/-- Does a tile get more than 64 flits in a tick, so that its receive queue may be asked for more than it holds (R177)? -/
def manyFlits (ds : List Dep) : Bool :=
  ds.any fun d => d.out = .l && 64 < (ds.filter fun x => x.out = .l && x.u = d.u && x.v = d.v).length

/-- R177's refusals for one tick record, its number given for the receive queues. -/
def meshConflict (i : Img) (n : Nat) (tr : TickRec) : Bool :=
  let ds := tickDeps i tr
  ((tickEntries i tr).any fun e => e.count ≠ 0 && e.posmask = 0) ||
    (ds.any fun d => d.dep % 16 = ctlPos d.u d.v d.out || 8 < heldAt ds d) || (tickEntries i tr).any (flowLate i tr) ||
    ¬ (ds.map fun d => (d.u, d.v, d.out, d.dep)).Nodup || (manyFlits ds && !Config.rxAbsorbs i.hash n)

def fsEntries (i : Img) (tr : TickRec) : List FsSlot := (i.fsSlots.drop tr.fsFirst).take tr.fsN

/-- R179's refusals for one tick record. -/
def fsConflict (i : Img) (tr : TickRec) : Bool :=
  let es := fsEntries i tr
  (es.any fun e => e.count ≠ 0 && (e.posmask = 0 || (e.outb &&
    2 ^ i.tickLog2 ≤ slotCycle e.slot0 e.posmask (e.count - 1) + 3 * (e.iHi - e.iLo + 1) + e.iLo + 2))) ||
  ¬ (es.flatMap fun e => (List.range e.count).map fun k => (e.die, e.outb, e.idx, slotCycle e.slot0 e.posmask k)).Nodup

/-- The first tick record with a slot conflict: the section whose table holds it. -/
def slotConflict (i : Img) : Option Nat :=
  if !i.lmode then none
  else
    let ts := (i.main ++ i.detours).zipIdx
    if ts.any fun t => meshConflict i t.2 t.1 then some 3 else if ts.any fun t => fsConflict i t.1 then some 4 else none

/-! Code 0x09: multicast trees (05 R140). -/

/-- Routers that a tree reaches from a router on, with the input of each. -/
def treeReach (i : Img) (tree : Nat) : Nat → Nat → Nat → Port → List (Nat × Nat × Port)
  | 0, _, _, _ => []
  | n + 1, u, v, inp =>
    (u, v, inp) :: (treeOuts (treeEntry i tree u v)).flatMap fun o =>
      if o = .l || !hasNbr i u v o then [] else let x := beyond u v o; treeReach i tree n x.1 x.2.1 x.2.2

/-- Does a tree break a rule of R140? -/
def treeBad (i : Img) (tree : Nat) : Bool :=
  let rs := imageTiles i
  let roots := rs.filter fun p => let e := treeEntry i tree p.1 p.2; e % 8 = 4 && !(treeOuts e).isEmpty
  let reached := roots.flatMap fun p => treeReach i tree (i.reqU + i.reqV + 2) p.1 p.2 .l
  ¬ (reached.map fun r => (r.1, r.2.1)).Nodup ||
    (rs.any fun p => (treeOuts (treeEntry i tree p.1 p.2)).any fun o =>
      o ≠ .l && (!hasNbr i p.1 p.2 o || let x := beyond p.1 p.2 o; treeEntry i tree x.1 x.2.1 % 8 ≠ portNum x.2.2)) ||
    reached.any fun r => (r.2.2 = .n || r.2.2 = .s) && (treeOuts (treeEntry i tree r.1 r.2.1)).any fun o => o = .e || o = .w

def treesBad (i : Img) : Bool := (List.range (i.trees.length / (i.reqU * i.reqV))).any (treeBad i)

/-! Code 0x0A: formats, pairs, occupancy, VU instructions (02 R55, 03 R69, R79, 07 R207, R208, 09 R283). -/

def opcodes : List Nat :=
  [0, 1, 2, 3, 4, 5, 6, 0x10, 0x11, 0x12, 0x13, 0x20, 0x21, 0x22, 0x23, 0x24, 0x25, 0x28, 0x29, 0x2A, 0x2B, 0x2C, 0x2D]

/-- The formats of 8, 6 and 4 bits with an FP32 accumulator, but for INT4. -/
def smallFloat (f : Nat) : Bool := 3 ≤ f && f ≤ 7
/-- One direction of Table 3.3. -/
def pairOneWay (a b : Nat) : Bool :=
  match a with
  | 0 => b ≤ 2 || smallFloat b || b = 9
  | 1 | 2 => b = 1 || b = 2 || smallFloat b
  | 8 => b = 8
  | 9 => smallFloat b || b = 1 || b = 2
  | _ => smallFloat a && smallFloat b
def pairOk (a b : Nat) : Bool := pairOneWay a b || pairOneWay b a

/-- Slots of a MATMUL against the accumulator file (02 Table 2.5). -/
def occupancyBad (r : OpRec) : Bool :=
  let four := sramBits r.o0.fmt = 4 && sramBits r.o1.fmt = 4
  let mq := ceilDiv (rowsOf r.o0) 16
  let nq := ceilDiv (colsOf r.o1) (if four then 32 else 16)
  (if four then 16 else 32) < r.p8 53 % 32 + mq * nq

def fmtBad (o : Operand) : Bool := !o.unused && 0xB < o.fmt

/-- Instruction words of a VU record. -/
def vuWords (i : Img) (st : Strm) (k : Nat) (r : OpRec) : List Nat := if r.opc ∈ [0x21, 0x22, 0x24] then bodyWords i st k r else []

/-- A record that code 0x0A refuses. -/
def formBad (i : Img) (st : Strm) (k : Nat) (r : OpRec) : Bool :=
  !decide (r.opc ∈ opcodes) || fmtBad r.o0 || fmtBad r.o1 || fmtBad r.o2 ||
    (r.opc = 0x10 && (!pairOk r.o0.fmt r.o1.fmt || occupancyBad r)) ||
    (r.opc = 0x11 && !(1 ≤ r.o0.fmt && r.o0.fmt ≤ 9)) || (r.opc = 0x20 && !decide (r.o0.fmt ∈ [1, 2, 3, 4, 8])) ||
    (vuWords i st k r).any fun w => !(0x01 ≤ vVop w && vVop w ≤ 0x11) || (vVop w = 0x0D && 0xB < w % 16)

/-- May weights of one format meet a vector of another on the thin path (02 R59, 03 R79)? -/
def thinPair (wt x : Nat) : Bool := pairOk wt x && (if sramBits wt = 16 then sramBits x = 16 else fmtBits x = 8)

/-- Records of a stream in the order in which a program issues them. -/
def progRecs (i : Img) (p : List TickRec) (st : Strm) : List OpRec := p.flatMap fun tr => recsOfTick i tr st

/-- Does a MATVEC meet a vector of a format that it does not take? The vector is that of the latest VLOAD of its stream in the program
(DESIGN CHOICE: a VLOAD of another stream is not followed). -/
def thinBad : List OpRec → Option Nat → Bool
  | [], _ => false
  | r :: rs, x =>
    if r.opc = 0x20 then thinBad rs (some r.o0.fmt)
    else (r.opc = 0x11 && x.any fun x => !thinPair r.o0.fmt x) || thinBad rs x

/-- A U program that code 0x0A refuses. -/
def progFormBad (p : UProg) : Bool :=
  (p.streams.any fun t => 0xB < t.fmt) || p.passes.any fun ws => ws.any fun x =>
    let w := x.toNat
    let vop := vVop w
    !((0x01 ≤ vop && vop ≤ 0x11) || (0x20 ≤ vop && vop ≤ 0x29)) || vop = 0x0E || (vop = 0x0D && (0xB < w % 16 || w.testBit 4)) ||
      (vop = 0x11 && w.testBit 2) || (vop = 0x26 && 1 < w % 4)

/-- The section of the first thing that code 0x0A refuses. -/
def formsBad (i : Img) : Option Nat :=
  if strms.any fun st => ((allRecs i st).any fun r => formBad i st r.1 r.2) || (programs i).any fun p => thinBad (progRecs i p st) none then some 6
  else if (i.regions.any fun r => 0xB < r.fmt) || i.uprogs.any progFormBad then some 9
  else if i.sumps.any fun d => 0xB < d.fmt then some 0xB
  else none

/-! Code 0x0B: ladder units (04 R100, R113, 06 R180). -/

/-- Reserved bits of RUNGS (06 Table 6.11). -/
def rungsResv (b : List Byte) : Bool := fld (byteAt b 3) 7 6 ≠ 0 || fld (byteAt b 3) 1 0 ≠ 0

def unitsBad (i : Img) (raw : List (List Byte)) : Bool :=
  4096 < i.units.length || ¬ (i.units.map (·.unit)).Nodup || (raw.any rungsResv) ||
    i.units.any fun d => d.top < d.start || d.th < d.ts

/-- A record names a unit that no descriptor declares. -/
def unitMissing (i : Img) : Bool :=
  strms.any fun st => (allRecs i st).any fun r => !(i.units.any fun d => d.unit = r.2.unit)

/-- A record of a stream stands in a decision window of that stream beside the LADDER_END that begins it, in one program (R180), or in
a tick that its record flags as one. -/
def windowBad (i : Img) (p : List TickRec) : Bool :=
  (strms.any fun st => p.zipIdx.any fun t => (recsOfTick i t.1 st).any fun r => r.opc = 0x04 &&
    1 < (((p.drop t.2).take (kd i (ncomb i r.unit))).map fun x => (recsOfTick i x st).length).sum) ||
  p.any fun tr => match tr.dwin with
    | none => false
    | some n => i.units.any fun d => d.unit = n && strms.any fun st => strmCode st = d.stream &&
        (recsOfTick i tr st).any fun q => !(q.opc = 0x04 && q.unit = n)

/-- The section of the first ladder declaration or window at fault. -/
def laddersBad (i : Img) (raw : List (List Byte)) : Option Nat :=
  if unitsBad i raw then some 7
  else if unitMissing i then some 6
  else match (programs i).zipIdx.find? fun p => windowBad i p.1 with
    | some p => some (if p.2 = 0 then 1 else 2)
    | none => none

/-! Code 0x0C: the sections' own checks that need more than their bytes. -/

/-- Bits of the parameter block that a record may set, byte by byte from byte 52 (07 Table 7.3). -/
def paramMask (opc : Nat) : List Nat :=
  let z (n : Nat) : List Nat := List.replicate n 0
  let f (n : Nat) : List Nat := List.replicate n 0xFF
  match opc with
  | 0x02 => [0x1F, 0x07] ++ f 2 ++ z 8
  | 0x03 => [0x1F] ++ z 11
  | 0x05 => z 2 ++ f 2 ++ z 8
  | 0x06 => [0xFF, 0] ++ f 2 ++ z 8
  | 0x10 => [0x07, 0x1F] ++ f 10
  | 0x11 => [0x07, 0] ++ f 2 ++ z 2 ++ f 6
  | 0x12 => [0x01, 0xFF] ++ z 2 ++ f 4 ++ z 4
  | 0x13 => [0x01, 0xFF] ++ z 10
  | 0x20 => z 2 ++ f 4 ++ z 6
  | 0x21 => f 8 ++ [0x07] ++ z 3
  | 0x22 => f 8 ++ [0x07] ++ z 3
  | 0x23 => [0xFF, 0x01] ++ z 2 ++ f 4 ++ z 4
  | 0x24 => f 4 ++ z 8
  | 0x28 => [0x03] ++ z 3 ++ f 4 ++ z 4
  | 0x29 => [0x07, 0] ++ f 6 ++ z 4
  | 0x2A => [0x03, 0] ++ f 6 ++ z 4
  | 0x2B => [0x01, 0] ++ f 6 ++ z 4
  | 0x2C => [0x01, 0] ++ f 6 ++ z 4
  | 0x2D => [0x03] ++ z 3 ++ f 2 ++ z 6
  | _ => z 12

/-- A nonzero reserved bit of a record (R203). -/
def recResvBad (r : OpRec) : Bool :=
  fld (byteAt r.bytes 1) 7 5 ≠ 0 || fld (fieldLE r.bytes 10 2) 15 12 ≠ 0 || r.o0.resv ≠ 0 || r.o1.resv ≠ 0 || r.o2.resv ≠ 0 ||
    r.o0.scl = 7 || r.o1.scl = 7 || r.o2.scl = 7 ||
    (paramMask r.opc).zipIdx.any fun m => byteAt r.bytes (52 + m.2) &&& (0xFF - m.1) ≠ 0

/-- Does a record use the generator (12 R373)? -/
def usesGen (i : Img) (st : Strm) (k : Nat) (r : OpRec) : Bool :=
  r.sra || r.sro || (st = .w && (r.opc = 0x10 || r.opc = 0x11)) || r.opc = 0x2A ||
    (vuWords i st k r).any fun w => vVop w = 0x0E || (vVop w = 0x0D && w.testBit 4) || (vVop w = 0x11 && w.testBit 2)

def idKnown (i : Img) (n : Nat) : Bool := i.gsids.any fun g => g.1 = n

/-- R373's refusals of a record. -/
def idsBad (i : Img) (st : Strm) (k : Nat) (r : OpRec) : Bool :=
  (usesGen i st k r && (0xFFF0 ≤ r.gsid || !idKnown i r.gsid)) || (r.owl && (0xFFF0 ≤ r.osid || !idKnown i r.osid)) ||
    (r.sosid ≠ 0xFFFF && (0xFFF0 ≤ r.sosid || !idKnown i r.sosid))

/-- The origin that a MATMUL or MATVEC needs (R205) and its last global k-block (12 R372). -/
def matBad (i : Img) (st : Strm) (r : OpRec) : Bool :=
  (r.opc = 0x10 || r.opc = 0x11) &&
    (0xFEFF < r.p16 60 + ceilDiv (r.p16 58) 8 - 1 ||
      ((r.sra || r.sro || r.owl || st = .w) && !(i.tmaps.any fun t => t.otens = r.p16 62)))

/-- Windows of transfers with a sump tag, and an offload's run (08 R249, R250). -/
def sumpRecBad (i : Img) (r : OpRec) : Bool :=
  0xC0 ≤ r.tag && ((r.opc = 0x2A && r.p8 58 ≠ r.p8 59) ||
    i.sumps.any fun d => d.tag = r.tag &&
      ((r.opc = 0x29 && r.p16 56 ≠ 0 && d.span ≤ r.p16 54 + max 1 (r.p16 58) * (r.p16 56 - 1)) ||
        (r.opc = 0x2A && d.span < r.p16 54 + r.p16 56)))

/-- A record that code 0x0C refuses. -/
def recBad (i : Img) (st : Strm) (k : Nat) (r : OpRec) : Bool :=
  recResvBad r || (i.lmode && 2 ^ i.tickLog2 ≤ r.issue) || matBad i st r || idsBad i st k r || sumpRecBad i r

/-- A tick record that breaks R196 or R200. -/
def tickBad (i : Img) (tr : TickRec) : Bool :=
  let all := strms.flatMap (recsOfTick i tr)
  1 < (all.filter fun r => isHeavy r.opc).length || 2 < (all.filter fun r => isMove r.opc).length ||
    strms.any fun st => let rs := recsOfTick i tr st
      rs.zipIdx.any fun r => (r.1.opc = 0x03 || r.1.opc = 0x05) &&
        (r.2 + 1 ≠ rs.length || (i.lmode && 2 ^ i.tickLog2 < r.1.issue + 64))

/-- Does a fetch read a block that an offload writes? -/
def fetchesFrom (o f : OpRec) : Bool :=
  o.opc = 0x2A && f.opc = 0x29 && 0xC0 ≤ o.tag && o.tag = f.tag && o.p8 52 % 4 = f.p8 52 % 4 &&
    (List.range (f.p16 56)).any fun n => let q := f.p16 54 + max 1 (f.p16 58) * n; o.p16 54 ≤ q && q < o.p16 54 + o.p16 56

/-- Tick records that may run one after the other: of one program, the last and the first of the main program, and the ends of a
detour body with the main ticks around its unit's or the body of the next rung (06 R181 to R183). -/
def tickPairs (i : Img) : List (TickRec × TickRec) :=
  let follow (l : List TickRec) : List (TickRec × TickRec) := l.zip (l.drop 1)
  let body (b : Nat) : List TickRec := match i.bodies[b]? with | some x => (i.detours.drop x.first).take x.count | none => []
  let join (x y : Option TickRec) : List (TickRec × TickRec) := match x, y with | some a, some b => [(a, b)] | _, _ => []
  follow i.main ++ join i.main.getLast? i.main.head? ++ i.bodies.flatMap (fun b => follow ((i.detours.drop b.first).take b.count)) ++
    i.units.flatMap fun d => match windowEnd i d with
      | none => []
      | some k =>
        let bs := (List.range 4).filterMap fun r => (detourOf i d.unit r).map body
        let after : Option TickRec := (i.main[k]?).orElse fun _ => i.main.head?
        (bs.flatMap fun b => join (i.main[k - 1]?) b.head? ++ (if d.mainFirst = 0 then [] else join (i.main[d.mainFirst - 1]?) b.head?) ++
          join b.getLast? after) ++
          (follow' bs).flatMap fun p => join p.1.getLast? p.2.head?
where
  follow' (l : List (List TickRec)) : List (List TickRec × List TickRec) := l.zip (l.drop 1)

/-- A fetch less than 2 ticks after its offload (08 R251). -/
def fetchBad (i : Img) (p : List (TickRec × TickRec)) : Bool :=
  p.any fun a => (strms.flatMap (recsOfTick i a.1)).any fun o => o.opc = 0x2A && 0xC0 ≤ o.tag &&
    (strms.flatMap (recsOfTick i a.2)).any fun f => fetchesFrom o f

/-- Bytes that a die moves for one tick in L mode: blocks injected, and blocks that its collectors write to regions and to the
sump (09 R278). -/
def dieBytes (i : Img) (d : Die) (tr : TickRec) : Nat :=
  128 * (((fsEntries i tr).filter fun e => busDie i e.die e.idx = some d && (!e.outb || 0xC0 ≤ e.tag ||
    i.tags.any fun t => t.tag = e.tag && t.cls = 3 && t.dieEnd = e.die && t.bus0 ≤ e.idx && e.idx < t.bus0 + t.nbus)).map (·.count)).sum

def rateBad (s : State) (i : Img) : Bool :=
  i.lmode && (i.main ++ i.detours).any fun tr => dies.any fun d => (if nStk s = 4 then 8000 else 4000) * 2 ^ i.tickLog2 < dieBytes i d tr

/-- A program's state off its engine's die (R240, 09 R275): kind-2 regions of more than one die, or on a die that holds no group of
the span. -/
def homeBad (p : Place) (i : Img) : Bool :=
  i.uprogs.any fun u => match stateRegs i u with
    | [] => false
    | r :: rest => (rest.any fun x => x.owner ≠ r.owner) ||
        !((List.range (min u.ngroups 16)).any fun g => groupDie p (u.group0 + g) = r.owner)

/-- The section of the first thing that code 0x0C refuses, allocation left out. -/
def checksBad (s : State) (p : Place) (i : Img) (bs : List Byte) : Option Nat :=
  if (strms.any fun st => (allRecs i st).any fun r => recBad i st r.1 r.2) then some 6
  else if i.main.any (tickBad i) then some 1
  else if i.detours.any (tickBad i) then some 2
  else if (programs i).any (fun p => fetchBad i (p.map fun t => (t, t))) || fetchBad i (tickPairs i) then some 6
  else if rateBad s i then some 4
  else if !s.isSealed && (i.regions.any (·.enc)) then some 9
  else if homeBad p i then some 9
  else if (nextPlan s i).isNone then some 0xA
  else sectionBad i bs

/-! The whole. -/

/-- Directory entry of a section; 0 when there is none. -/
def entryNo (dir : List DirEnt) (sec : Nat) : Nat := match findSec dir sec with | some (k, _) => k | none => 0

/-- Bytes of the image at an address, when its header and extent lie in the store (09 R268). -/
def imageBytes (s : State) (a : Nat) : Option (List Byte) :=
  let h := hbmBytes s a 0x100
  let n := fieldLE h 0x08 8
  if !hbmValid s a || n < 0x100 || !hbmValid s (a + n - 1) || hbmDie a ≠ hbmDie (a + n - 1) || hbmStk a ≠ hbmStk (a + n - 1) then none
  else some (hbmBytes s a n)

/-- The bytes a sealed job's image must hash to (16 R457). -/
def sealHash (s : State) : List Byte := (List.range 12).flatMap fun k => natLE 4 (reg s .sec (0x060 + 4 * k)).toNat

/-- Bytes of the image's step-state record and of one slot for it (15 R436, Table 15.3). -/
def recordLen (i : Img) : Nat := 64 + 4 * i.units.length + (i.scales.zipIdx.map fun r => (scaleBytes r.2 r.1).length).sum
def slotLen (i : Img) : Nat := (recordLen i + 4095) / 4096 * 4096

/-- Bytes of the ledger ring that a LOAD allocates (17 R498). -/
def ringBytes (s : State) : Nat := fld (cfgv s .hdm 0x14C).toNat 12 0 * 2 ^ 20

/-- Blocks of a reduction whose groups a die holds. -/
def dieBlocks (p : Place) (rn : Redn) (d : Die) : Nat :=
  let g0 := rn.blk0 / 4096
  let n := if rn.nblk = 0 then 0 else (rn.blk0 + rn.nblk - 1) / 4096 - g0 + 1
  ((List.range n).map fun k => let g := g0 + k
    if groupDie p g = d then min (4096 * g + 4096) (rn.blk0 + rn.nblk) - max (4096 * g) rn.blk0 else 0).sum

/-- Bytes of a die's overflow store, sum areas, hold areas and channel queues under a plan (10 R308, 16 R458). The sizes of their
entries are open (DESIGN CHOICE): 66 bytes for a GW16 block, 98 for a sum; sums and held copies for the widest OPEN reductions in
a row, and queue space for every frame of the later ones. -/
def planBytes (p : Place) (pl : Plan) (m : Nat) (d : Die) : Nat :=
  66 * pl.ovfCap + (pl.chans.map fun ch =>
    let sh := sharesOf pl ch
    let bl := (redsOf pl ch).map fun rn => dieBlocks p rn d
    let win := (List.range bl.length).foldl (fun w k => max w ((bl.drop k).take ch.openN).sum) 0
    ((rolesOf ch sh m).map fun role =>
      let tk := takesOf sh role
      let held := (tk.map fun x => (backupsOf sh role x).length).sum
      98 * win + 66 * held * win + 66 * (tk.length + held) * (bl.drop ch.openN).sum).sum).sum

/-- Those areas, as regions of kind 4 with indices above the sump's. -/
def planRegions (s : State) (p : Place) (i : Img) : List Region :=
  let pl := (nextPlan s i).getD i.plan
  let m := fld (cfgv s .rdc 0x20C).toNat 15 0
  dies.filterMap fun d =>
    let n := planBytes p pl m d
    if pl.chans.isEmpty || n = 0 then none
    else some { idx := 131072 + d.val, owner := d, kind := 4, gen2 := false, enc := false, arr := false, fmt := 0, layer := 0
                size := (n + 4095) / 4096 * 4096, arrDie := 0, arrFs := 0, nblk := 0, chlen := 0, base := [] }

/-- R187: the image and its placement with every region allocated, or the first reason found, the directory entry concerned and the
failure code of a placement that failed (0 when it was not placement). The ledger ring and the state area come first on E0. -/
def checkImage (s : State) (a seed : Nat) : Except (Nat × Nat × Nat) (Img × Place) :=
  match imageBytes s a with
  | none => .error (0x01, 0, 0)
  | some bs =>
    let dir := directory bs
    let i := parseImg a bs
    let p := placeOf s i seed
    let stop (code sec plc : Nat) : Except (Nat × Nat × Nat) (Img × Place) := .error (code, entryNo dir sec, plc)
    if !magicOk bs then .error (0x01, 0, 0)
    else if !hashOk bs || (s.isSealed && i.hash ≠ sealHash s) then .error (0x02, 0, 0)
    else if s.geo.ua < i.reqU || s.geo.va < i.reqV then .error (0x03, 0, 0)
    else if byteAt bs 0x14 ≠ fld (cfgv s .cfg 0x060).toNat 1 0 || byteAt bs 0x14 = 0 then .error (0x04, 0, 0)
    else if !headerOk bs then .error (0x05, 0, 0)
    else if (fieldOver s p i).isSome then .error (0x06, 0, 0)
    else if needsAbsent s i then .error (0x07, 0, 0)
    else match slotConflict i with
      | some c => stop 0x08 c 0
      | none =>
        if treesBad i then stop 0x09 5 0
        else match formsBad i with
          | some c => stop 0x0A c 0
          | none => match laddersBad i (items (secBytes bs dir 7) 0 32 i.units.length) with
            | some c => stop 0x0B c 0
            | none => match checksBad s p i bs with
              | some c => stop 0x0C c (if c = 0xB && sumpBad i then 3 else 0)
              | none =>
                if !reachOk s.geo p i then .error (0x03, 0, 1)
                else match allocAll (rotQ p) p.nstk (ringBytes s + 3 * slotLen i) (i.regions ++ sumpRegions i ++ planRegions s p i) with
                  | .error c => stop 0x0C c 2
                  | .ok rs => .ok ({ i with regions := rs }, p)

end Sys2Proof.Machine
end

