-- ==== Sys2Proof/Machine/Load.lean ====
section
/-! DEFINITION. LOAD, RUN, HALT and RESUME (14 R417 to R420, 06 R187, 08 R226 to R242). -/

namespace Sys2Proof.Machine

/-! The tiles (R418 stage 3). -/

/-- A tile as an image leaves it: every line poisoned, both tables loaded, the sett plan's counts (02 R41, R64, 07 R209). -/
def loadedTile (i : Img) (u v : Nat) : Tile :=
  let setts := (List.range 32).foldl (fun (m : SMap Sett) k =>
    mput Sett.blank k { Sett.blank with count := mget 0 i.settInit (32 * tileKey u v + k) } m) []
  { Tile.blank with poly := 3, setts := setts }

/-- The scale records of every unit, on its rung, in every tile (04 R101, R550). -/
def writeScales (s : State) : State :=
  match s.image with
  | none => s
  | some i => i.scales.foldl (fun s r =>
      writeRecordAll (imageTiles i) r (pairsOf r (unitSt s r.unit).rung r.h r.m) s) s

/-- Every tile of the image as it is loaded; a re-placed tile keeps nothing (08 R243). -/
def loadTiles (i : Img) (s : State) : State :=
  writeScales { s with tiles := (imageTiles i).foldl (fun (m : SMap Tile) t => mput Tile.blank (tileKey t.1 t.2) (loadedTile i t.1 t.2) m) [] }

/-- Tiles and ceilings shown by the FLD pages (17 Table 17.10). -/
def showFields (p : Place) (i : Img) (s : State) : State :=
  let n := fieldTiles s.geo p i
  forAll (allFields.filter fun f => fieldFitted s.code f) (fun f s =>
    let k := mget 0 n f.val
    setReg (.fld f) 0x048 (w32 (i.avg * k)) (setBits (.fld f) 0x044 15 0 k s)) s

/-! The dies (R418 stage 4). -/

/-- The far setts of the sett plan; an absent one is disabled (07 R219, Table 7.7). -/
def loadFarSetts (plan : List (Nat × Nat × Nat × Nat)) (s : State) : State :=
  forAll dies (fun d s =>
    (List.range 16).foldl (fun s n =>
      let e := (plan.find? fun e => e.1 = d.val && e.2.1 = n).map (·.2.2)
      let st := (e.map fun x => x.1 % 2 ^ 16 * 2 ^ 16).getD 0
      let rl := (e.map fun x => x.2).getD 0
      let o := 0x040 + 16 * n
      setReg (.fst d) (o + 12) 0 (setReg (.fst d) (o + 8) 0 (setReg (.fst d) (o + 4) (w32 rl) (setReg (.fst d) o (w32 st) s)))) s) s

/-- X_INIT into generation 0 of each exponent region (10 Table 10.6). -/
def loadXInit (i : Img) (p : Plan) (s : State) : State :=
  p.reds.foldl (fun s rn => match regionOf i rn.expreg with
    | some r => regionWrite r 0 rn.tblk0 (List.replicate rn.nblk (BitVec.ofNat 8 rn.xinit)) s
    | none => s) s

def loadDies (i : Img) (p : Plan) (far : List (Nat × Nat × Nat × Nat)) (s : State) : State :=
  let s := takeEpoch s
  let s := { s with
    dies := s.dies.foldl (fun (m : SMap DieSt) (e : Nat × DieSt) => mput DieSt.blank e.1 (loadedDie e.2) m) []
    rdc := { Rdc.reset with
      plan := some p, chans := freshChans p
      reds := freshReds p }
    stageSt := [] }
  let s := forAll dies (fun d s =>
    let sv := serves i d
    let rc := reach d
    let s := setReg (.edg d) 0x040 (w32 (sv.1 + 2 ^ 16 * (sv.2 - 1))) s
    let s := setReg (.edg d) 0x044 (w32 (rc.1 + 2 ^ 16 * rc.2)) s
    setReg (.upe d) 0x044 0 (setReg (.upe d) 0x040 0 s)) s
  loadXInit i p (loadFarSetts far (showGroups s))

/-! Counters (R418 stage 5): those that image load clears (04 R121, 06 R193, 09 R290, 10 R331, R332, 07 R223). -/

def zeroRegs (pg : Page) (l : List Nat) (s : State) : State := l.foldl (fun s o => setReg pg o 0 s) s

def clearCounters (s : State) : State :=
  let s := zeroRegs .asq [0x04C, 0x050, 0x054, 0x060, 0x07C, 0x080, 0x084, 0x088, 0x08C, 0x090] s
  let s := zeroRegs .asq [0x0A8, 0x0AC, 0x0B0, 0x0B4, 0x0B8, 0x0BC, 0x0C0, 0x0D4, 0x0D8] s
  let s := zeroRegs .owl [0x048, 0x04C, 0x050, 0x054, 0x058, 0x05C, 0x060, 0x064, 0x068, 0x06C, 0x070] s
  let s := zeroRegs .rdc [0x050, 0x054, 0x058, 0x05C, 0x068, 0x06C, 0x070, 0x074, 0x078, 0x07C, 0x080, 0x084, 0x088] s
  let s := forAll (allFields.filter fun f => fieldFitted s.code f) (fun f s => setReg (.fld f) 0x04C 0 s) s
  forAll dies (fun d s =>
    zeroRegs (.fst d) [0x140] (zeroRegs (.red d) [0x040, 0x044, 0x048, 0x04C, 0x050, 0x054, 0x058, 0x05C]
      (zeroRegs (.edg d) [0x04C, 0x050, 0x054, 0x058, 0x05C] s))) s

/-! LOAD. -/

/-- IMG_ADDR and IMG_STEP0 (R417). -/
def imgAddr (s : State) : Nat := reg64 s .mid 0x0A0
def imgStep0 (s : State) : Nat := reg64 s .mid 0x0A8

/-- The ledger ring and the step-state area on E0: the ring first (17 R498, 15 R436). -/
def loadAreas (i : Img) (s : State) : State :=
  let n := ringBytes s
  let s := setReg64 .hdm 0x154 0 (setReg64 .hdm 0x15C 0 (setReg64 .hdm 0x164 0 s))
  let s := { s with ledger := some (0, n), iseq := 0, stepItems := 0, aheadItems := 0, stepLost := 0, lostFirst := 0, lostN := 0, state3 := some n }
  setReg .asq 0x0D0 (w32 (recordLen i)) (setReg64 .asq 0x0C8 n s)

/-- The generator key and the step number (12 R366, R418 stage 6). -/
def loadKey (i : Img) (s : State) : State :=
  let job := (cfgv s .cbg 0x048).toNat + 2 ^ 32 * (cfgv s .cbg 0x04C).toNat
  let s := { s with keySeed := i.seed, keyJob := job }
  setReg64 .asq 0x058 (imgStep0 s) (setReg .cbg 0x050 1 (setReg64 .cbg 0x040 i.seed s))

/-- What ASQ and OWL show of the image (06 Table 6.17, 04 Table 4.5). -/
def showImage (i : Img) (s : State) : State :=
  let s := setReg .asq 0x040 (w32 ((if i.lmode then 1 else 2) + 2 ^ 8 * i.tickLog2)) s
  let s := setReg .asq 0x048 (w32 (i.avg + 2 ^ 16 * i.peak)) (setReg .asq 0x044 (w32 (i.reqU + 2 ^ 16 * i.reqV)) s)
  let s := setReg .asq 0x064 (w32 (kd i 1)) s
  setReg .owl 0x044 0x10000200 (setReg .owl 0x040 (w32 ((decide (i.owlS ≠ 0)).toNat + 2 ^ 16 * i.owlS)) s)

/-- PRT_HOP acts on no L-mode image (16 R454). -/
def dropHop (i : Img) (s : State) : State := if i.lmode then setReg .dbg 0x050 (setBit (reg s .dbg 0x050) 31 false) s else s

/-- Bytes allocated to the sump (08 Table 8.7). -/
def sumpBytes (i : Img) : Nat := ((i.regions.filter fun r => r.kind = 5).map fun r => 4096 * regionUnits r).sum

/-- Stages 2 to 7 for an image that has passed its checks; the LOAD programs are ready, and LOAD stays BUSY. -/
def loadImage (i : Img) (p : Place) (far : List (Nat × Nat × Nat × Nat)) (plan : Plan) (s : State) : State :=
  let s := { s with
    image := some i, loading := true, offTiles := [], stepBank := activeBank s
    asq := { Asq.reset with
      units := i.units.foldl (fun (m : SMap UnitSt) d => mput default d.unit { (default : UnitSt) with rung := d.start } m) [] } }
  let s := clearCounters s
  let s := loadKey i (loadAreas i s)
  let p := { p with record := placeRecord s p 1 }
  let s := showGeo (placeTree (sealRegions false { s with place := some p }))
  let s := setReg64 .plc 0x070 (sumpBytes i) (showPlace p s)
  let s := showFields p i (loadTiles i s)
  let s := dropHop i (showImage i (loadDies i plan far s))
  readyProgs (fun u => u.trig = 3) s

/-- The far-sett plan of the image at an address. -/
def farPlan (s : State) (a : Nat) : List (Nat × Nat × Nat × Nat) :=
  match imageBytes s a with | some bs => Config.farSetts (secBytes bs (directory bs) 8) | none => []

/-- The image with what is written into tiles read again from where it lies in the store, with whatever has changed there since LOAD
(14 R417, 08 R243); the ASQ's own programs, units and scale estimates stay. -/
def reread (s : State) (i : Img) : Img :=
  match imageBytes s i.addr with
  | none => i
  | some bs =>
    let j := parseImg i.addr bs
    { i with recF := j.recF, recB := j.recB, recW := j.recW, trees := j.trees, meshSlots := j.meshSlots, fsSlots := j.fsSlots
             polys := j.polys, settInit := j.settInit }

/-- Is a page that a job needs disabled (00 R20, Table 0.7)? -/
def jobPages : List Page :=
  [.asq, .plc, .owl, .rdc, .cbg] ++ dies.flatMap fun d =>
    [Page.edg d, .upe d, .red d, .fst d] ++ (List.finRange 4).map fun n => Page.hbm d n
def jobPageOff (s : State) : Bool := jobPages.any fun pg => pageFitted s.code pg && !pageEn s pg

/-- A refused LOAD records its code and directory entry, and a placement that failed (R259). -/
def loadRefuse (e : Nat × Nat × Nat) (s : State) : State :=
  let s := setReg .asq 0x080 (w32 (e.1 + 2 ^ 8 * e.2.1)) s
  midRefuse 4 4 (if e.2.2 = 0 then s else failPlace e.2.2 s)

/-- The array and the tree as the image at IMG_ADDR and the seed in force place them (R418 stage 2). -/
def loadGeo (s : State) : State :=
  match imageBytes s (imgAddr s) with
  | some bs => placeGeo (seedNow s) (pkeyOf ((bs.drop 0x40).take 48) (seedNow s)) s
  | none => s

/-- LOAD: refused with a reason, or under way until LOAD_COMPLETE (14 R418). -/
def load (s : State) : State :=
  if s.busy.isSome then midRefuse 4 2 s
  else if s.run ≠ .ready || s.image.isSome then midRefuse 4 1 s
  else if s.noArray then midRefuse 4 6 s
  else if jobPageOff s then midRefuse 4 0xA s
  else match checkImage (loadGeo s) (imgAddr s) (seedNow s) with
    | .error e => loadRefuse e s
    | .ok r => loadImage r.1 r.2 (farPlan s (imgAddr s)) ((nextPlan s r.1).getD r.1.plan) (midBusy 4 .load (loadGeo s))

/-- LOAD (14 R418). -/
def execLoad (rq : Req) (s : State) : Res := .next (barWrite rq load s)

/-- Does an engine still have a LOAD program to run? -/
def loadProgs (s : State) (i : Img) : Bool :=
  let isLoad (n : Nat) : Bool := i.uprogs.any fun u => u.prog = n && u.trig = 3
  dies.any fun d =>
    let e := (dieSt s d).ue
    e.ready.any isLoad || (e.run.map (·.prog)).any isLoad

/-- LOAD_COMPLETE (R418): the LOAD programs have run; a pending configuration command takes effect (17 R488). -/
def loadComplete (s : State) : State :=
  match s.image with
  | some i => if s.busy ≠ some .load || loadProgs s i then s else commitNow (midDone 4 0 { s with loading := false })
  | none => s

def execLoadComplete (s : State) : Res := .next (loadComplete s)

/-! RUN, HALT, RESUME (R419, R420). -/

/-- RUN: tick 0 of Run begins, in step IMG_STEP0; its step-state record is written (DEDUCED from 15 R437, whose OWN uses the own record
of any voided step). -/
def run (s : State) : State :=
  if s.busy.isSome then midRefuse 5 2 s
  else match s.image with
    | none => midRefuse 5 1 s
    | some i =>
      if s.run ≠ .ready then midRefuse 5 1 s
      else
        let s := setReg64 .asq 0x04C 0 (setRun .run (midDone 5 0 s))
        startStep (stepNo s) i (writeState { s with asq := { s.asq with stepStart := s.now, prtVals := [] } })

/-- RUN (14 R419). -/
def execRun (rq : Req) (s : State) : Res := .next (barWrite rq run s)

/-- HALT: BUSY until the next tick boundary; the step in progress is not voided. -/
def halt (s : State) : State :=
  if s.busy.isSome then midRefuse 6 2 s
  else if s.run ≠ .run then midRefuse 6 1 s
  else let s := midBusy 6 .halt s; { s with asq := { s.asq with haltPend := true } }

/-- HALT (14 R419). -/
def execHalt (rq : Req) (s : State) : Res := .next (barWrite rq halt s)

/-- RESUME: BUSY until a tick boundary; refused while FAULT_CAUSE is valid. -/
def resume (s : State) : State :=
  if s.busy.isSome then midRefuse 7 2 s
  else if s.run ≠ .halt then midRefuse 7 1 s
  else if faultValid s then midRefuse 7 5 s
  else midBusy 7 .resume s

/-- RESUME (14 R419). -/
def execResume (rq : Req) (s : State) : Res := .next (barWrite rq resume s)

end Sys2Proof.Machine
end

