-- ==== Sys2Proof/Machine/Recover.lean ====
section
/-! DEFINITION. The sett probe, diagnosis, re-placement and rejoin (15 R431 to R441, 08 R243). -/

namespace Sys2Proof.Machine

/-- Has any tile a sett that has timed out? -/
def anyTimeout (s : State) : Bool := s.tiles.any fun e => e.2.setts.any fun x => x.2.tmo

/-- The probe after a sett timeout ends (R431): silent tiles are suspects, or the module stays in Halt with FAULT_CAUSE 13. -/
def settProbe (silent : List (Nat × Nat)) (s : State) : State :=
  if s.run ≠ .halt || !anyTimeout s || (faultValid s && fld (reg s .asq 0x068).toNat 3 0 = 13) then s
  else if silent.any fun p => inImage s p.1 p.2 then tileFault 8 silent s
  else faultItem 2 13 [] (recordCause 13 0xFFFF 0xFFFF 0 (setErr .asq 13 s))

/-- SETT_PROBE_COMPLETE (15 R431). -/
def execSettProbeComplete (silent : List (Nat × Nat)) (s : State) : Res := .next (settProbe silent s)

/-- The physical tiles that a diagnosis examines: each suspect and its four neighbours in the achieved array, parked ones too (R435
stage 2). -/
def examined (s : State) : List (Nat × Nat) :=
  match placeOk s with
  | none => []
  | some p => (s.asq.recov.suspects.flatMap fun q =>
      let a := p.u0 + q.1
      let b := p.v0 + q.2.1
      ([(a, b), (a + 1, b), (a, b + 1)] ++ (if a = 0 then [] else [(a - 1, b)]) ++ (if b = 0 then [] else [(a, b - 1)])).filterMap fun c =>
        achievedPhys s.geo p.seed p.pkey c.1 c.2).dedup

/-- Diagnosis ends: a tile that failed (`failed`, physical), and a suspect that passed but has been one in an earlier recovery since
power-on, are defects. -/
def diagnosed (failed : List (Nat × Nat)) (s : State) : State :=
  if recState s ≠ 2 || s.run ≠ .halt then s
  else
    let sus := s.asq.recov.suspects.filterMap fun q => physOf s (q.1, q.2.1)
    let bad := (failed.filter fun p => p ∈ examined s) ++ sus.filter fun p => p ∈ s.priorSus
    let defects := bad.foldl (fun l p => addNew p l) s.geo.defects
    setRec 3 { s with
      geo := { s.geo with defects := defects }
      asq := { s.asq with recov := { s.asq.recov with added := !bad.isEmpty } } }

/-- DIAGNOSIS_COMPLETE (15 R435). -/
def execDiagnosisComplete (failed : List (Nat × Nat)) (s : State) : Res := .next (diagnosed failed s)

/-- The sequencer with nothing in progress; ladders, recovery and the step's counts stay. -/
def idleAsq (a : Asq) : Asq :=
  { a with
    mainPos := 0, det := none, detQ := [], stall := false, marker := false, sampled := 0, haltPend := false, contract := false
    tick1 := false, results := [], savedSetts := [] }

/-- Re-placement fails: no image, Ready (08 R243). -/
def replaceFails (code : Nat) (s : State) : State := failPlace code (setRun .ready (dropImage s))

/-- Re-placement ends (08 R243): the wafer's shape and the placement are found again with the same seed and every tile is
reloaded, or the module returns to Ready. -/
def replaced (s : State) : State :=
  match s.image, s.place with
  | some i, some p =>
    if recState s ≠ 3 || s.run ≠ .halt then s
    else
      let s := showGeo (placeGeo p.seed p.pkey (rememberSus s))
      let q := placeOf s i p.seed
      if s.geo.ua < i.reqU || s.geo.va < i.reqV || !reachOk s.geo q i then replaceFails 1 s
      else if (fieldOver s q i).isSome then replaceFails 4 s
      else
        let q := { q with record := placeRecord s q 2 }
        let s := showFields q i (showPlace q (placeTree { s with place := some q }))
        let i := reread s i
        let s := loadTiles i { s with image := some i, asq := idleAsq s.asq, offTiles := [] }
        setRec 4 { s with asq := { s.asq with recov := { s.asq.recov with suspects := [] } } }
  | _, _ => s

/-- REPLACEMENT_COMPLETE (08 R243). -/
def execReplacementComplete (s : State) : Res := .next (replaced s)

/-! REC_CMD (R437 to R439). -/

/-- REC_STS[31:24]. -/
def rejoinCode (n : Nat) (s : State) : State := setBits .asq 0x0A8 31 24 n s

/-- The step-state record in a slot of the state area. -/
def slotBytes (s : State) (i : Img) (k : Nat) : List Byte :=
  match s.state3 with | some a => hbmBytes s (slotAddr s a k) (recordLen i) | none => []

/-- The refusal of a REJOIN with a record (R437); 0 when there is none. A step before the present one counts as begun too long
ago. -/
def rejoinRefusal (s : State) (i : Img) (own : Bool) (b : List Byte) : Nat :=
  let step := fieldLE b 0 8
  if (b.drop 8).take 8 ≠ i.hash.take 8 then 1
  else if fieldLE b 16 4 ≠ recordLen i then 2
  else if !own && (step < stepNo s || (step = stepNo s && !s.asq.holdB && s.asq.stepStart + 1000000 < s.now)) then 3
  else 0

/-- UNITS and SCALES of a record, each scale that is replaced logged (04 R120), written into the ladder state and the scale records (R438). -/
def takeRecord (i : Img) (b : List Byte) (s : State) : State :=
  let us := i.units.insertionSort fun a c => a.unit ≤ c.unit
  let units := us.zipIdx.foldl (fun (m : SMap UnitSt) d =>
    let w := fieldLE b (64 + 4 * d.2) 4
    mput default d.1.unit { (default : UnitSt) with rung := w % 4, hold := w / 2 ^ 16 } m) []
  let rs := (scaleEntries i.scales.length (b.drop (64 + 4 * us.length))).map parseScale
  let scales := i.scales.zipIdx.map fun r => match rs[r.2]? with
    | some q => { r.1 with h := q.h, hold := q.hold, m := q.m }
    | none => r.1
  let s := { s with image := some { i with scales := scales }, asq := { s.asq with units := units } }
  scales.zipIdx.foldl (fun s r => scaleItem (fieldLE b 0 8) r.2 (unitSt s r.1.unit).rung r.1 r.1.m s) s

/-- REJOIN: the record is taken, every tile comes from the image, and the step starts at once or at its boundary (R438). -/
def rejoin (own : Bool) (s : State) : State :=
  match s.image with
  | none => rejoinCode 4 s
  | some i =>
    if recState s ≠ 4 || s.run ≠ .halt then rejoinCode 4 s
    else
      let b := slotBytes s i (if own then s.asq.recov.vstep % 2 else 2)
      let code := rejoinRefusal s i own b
      if code ≠ 0 then rejoinCode code s
      else
        let s := takeRecord (reread s i) b (recoveryItem own (fieldLE b 22 2) (fieldLE b 0 8) (rejoinCode 0 s))
        let target := fieldLE b 0 8
        let s := { s with asq := { idleAsq s.asq with recov := { s.asq.recov with hbm := none, own := own, target := target } } }
        match s.image with
        | none => s
        | some i =>
          let s := loadTiles i s
          if target ≤ stepNo s && !s.asq.holdB then startRejoined i s else setRec 5 s

/-- A write to REC_CMD (15 Table 15.8). -/
def execRejoin (rq : Req) (own : Bool) (s : State) : Res := .next (barWrite rq (rejoin own) s)

/-- RECOVER: at diagnosis after a failed recovery, or at stage 3 once the host has repaired an HBM region (R439, R441). -/
def recover (s : State) : State :=
  if s.run ≠ .halt || s.image.isNone then s
  else if recState s = 7 then startDiagnosis { s with asq := { s.asq with recov := { s.asq.recov with starts := 0, autoR := true } } }
  else if recState s = 0 && s.asq.recov.hbm.isSome then setRec 3 s
  else s

/-- RECOVER (15 R439). -/
def execRecover (rq : Req) (s : State) : Res := .next (barWrite rq recover s)

/-- ABANDON (15 R439): recovery ends. -/
def abandon (s : State) : State :=
  let s := recoveryCut s
  setRec 0 { s with asq := { s.asq with recov := Recov.none } }

def execAbandon (rq : Req) (s : State) : Res := .next (barWrite rq abandon s)

end Sys2Proof.Machine
end

