-- ==== Sys2Proof/Machine/Bus.lean ====
section
/-! DEFINITION. BAR0 accesses as a requester sends them: one write and one read over every page, window and view, with
the effects each register has, the page header's EN and SRST, and the SMBus and JTAG ways to the same registers
(00 R14 to R23, 14 Table 14.4, 17 R473 to R494, 19 R540 to R544). -/

namespace Sys2Proof.Machine

/-! EN and SRST (00 R19, R20, R23). -/

/-- A write to PAGE_CTL.EN (00 R20, Table 0.7). While a LOAD is in progress an image counts as loaded (DESIGN CHOICE: the table
speaks of a loaded image). Clearing a port's EN takes it down as PORT_DOWN does but sets no ERR_STS bit, since no link was lost (DESIGN
CHOICE). -/
def enWrite (pg : Page) (b : Bool) (s : State) : State :=
  if !pageFitted s.code pg || alwaysOn pg then s
  else if !b && jobPage pg && s.image.isSome then setAcc pg s
  else
    let s1 := setBits pg 0x008 0 0 b.toNat s
    match pg with
    | .lnk p =>
      if pageEn s pg = b then s1
      else if b then (if (linkSt s1 p).onAlt || (linkSt s1 p).altDown then s1 else setLnkState p 1 s1)
      else
        let s2 := if (linkSt s1 p).portUp then portLost p s1 else s1
        if (linkSt s2 p).onAlt then s2 else setLnkState p 0 s2
    | .dbg => if b then s1 else setLevel .none s1
    | _ => s1

/-- EN_WRITE (00 R20). -/
def execEnWrite (rq : Req) (pg : Page) (b : Bool) (s : State) : Res := .next (barWrite rq (enWrite pg b) s)

/-- A die's adder drops the blocks of the reductions that are not complete (00 R23). -/
def redAbort (e : Die) (s : State) : State :=
  let keep (k : Nat) : Bool := blockDie s (k % 2 ^ 32) ≠ e
  let cut (a : AddSt) : AddSt := if a.complete then a else { a with
    sums := a.sums.filter fun q => keep q.1, taken := a.taken.filter fun q => keep q.1, held := a.held.filter fun q => keep q.1
    prim := a.prim.filter fun q => keep q.1, poisoned := a.poisoned.filter fun q => keep q.1 }
  { s with rdc := { s.rdc with reds := s.rdc.reds.map fun q => (q.1, { q.2 with adds := q.2.adds.map fun a => (a.1, cut a.2) }) } }

/-- What a soft reset aborts in a block (00 R23): no requester hears of it. A start-up stage that MID carries out goes back to where
ARRAY_UP was accepted (DESIGN CHOICE). A scrub that is cut short reads as failed, as a
trip leaves it (16 R459, DEDUCED). -/
def abortOps (pg : Page) (s : State) : State :=
  match pg with
  | .mid =>
    let up := s.stage ∈ [.sequencing, .paused, .clockSetup, .selfTest]
    let s1 := { s with
      busy := none, stage := if up then .running else s.stage
      asq := { s.asq with haltPend := s.asq.haltPend && s.busy ≠ some .halt } }
    if s.busy = some .load then dropImage s1 else s1
  | .cfg => { s with pendCfg := none }
  | .evc => { s with evc := { Evc.reset with pinFilt := s.evc.pinFilt, pinRaw := s.evc.pinRaw } }
  | .tmb => { s with armed := 0 }
  | .pwr => { s with fcmdBusy := none }
  | .sec => failScrub { s with refusal := 0 }
  | .dbg => setLevel .none { s with asq := { s.asq with tick1 := false } }
  | .hdm => { s with hdq := [] }
  | .asq => let s := rememberSus s; { s with asq := { s.asq with recov := Recov.none } }
  | .rdc => { s with rdc := { s.rdc with queue := [], reds := s.rdc.reds.map fun (e : Nat × RedSt) =>
      (e.1, { e.2 with adds := e.2.adds.filter fun (a : Nat × AddSt) => a.2.complete }) } }
  | .edg e => setDie e { dieSt s e with dma := [] } s
  | .red e => redAbort e s
  | .owl => mapTiles (fun t => { t with owl := none }) s
  | .upe e => setDie e { dieSt s e with ue := { (dieSt s e).ue with run := none, ready := [] } } s
  | .lnk p => if (linkSt s p).portUp then portLost p s else s
  | _ => s

/-- A write of 1 to SRST: the reset starts (00 R23). -/
def softReset (pg : Page) (s : State) : State :=
  if !pageFitted s.code pg then s else abortOps pg { s with srst := if pg ∈ s.srst then s.srst else pg :: s.srst }

/-- SRST (00 R23). -/
def execSrst (rq : Req) (pg : Page) (s : State) : Res := .next (barWrite rq (softReset pg) s)

/-- The register that a soft reset leaves beside PAGE_CTL[0], CFG_VER and the RWB registers, which are kept elsewhere: EVT_MAP (R23). -/
def keptBySrst (o : Nat) : Bool := o = 0x01C

/-- What a page shows of state that stands elsewhere goes to its reset value with the registers (R23); PEER_W0 and PEER_W1 are
banked. A port whose page is enabled trains again. -/
def resetShown (pg : Page) (en : Bool) (s : State) : State :=
  match pg with
  | .cbg => { s with qEnd := 0 }
  | .clk => { s with clk := { s.clk with shown := false } }
  | .thm => { s with over95 := 0 }
  | .pwr => { s with vminHalf := 131070 }
  | .fpw f => setField f { fieldSt s f with vminHalf := 131070 } s
  | .hbm e n =>
    let stks := (List.finRange 4).filter fun k => stkCtl s e k = n
    setDie e { dieSt s e with scrubAt := stks.foldl (fun m k => mput 0 k.val 0 m) (dieSt s e).scrubAt
                              ceRate := mput [] n.val [] (dieSt s e).ceRate } s
  | .rdc => { s with rdc := { s.rdc with chans := [], doneHave := [] }, peers := [], slew := (0, s.now) }
  | .lnk p => setLnkState p (if (linkSt s p).onAlt then (if (linkSt s p).altDown then 5 else 4) else if en then 1 else 0) s
  | _ => s

/-- The soft reset completes: registers at their reset values, SRST reads 0 (00 R23). -/
def softResetDone (pg : Page) (s : State) : State :=
  if !(pg ∈ s.srst) then s
  else
    let en := bitOf (reg s pg 0x008) 0
    let s1 := { s with
      srst := s.srst.filter fun q => q ≠ pg
      regs := s.regs.filter fun (e : Nat × W32) => match spaceOf e.1 with
        | .reg q o => q ≠ pg || keptBySrst o
        | _ => true }
    setBits pg 0x008 0 0 en.toNat (resetShown pg en s1)

/-- SOFT_RESET_COMPLETE (00 R23). -/
def execSoftResetComplete (pg : Page) (s : State) : Res := .next (softResetDone pg s)

/-! Writes with effects of their own. -/

/-- A write to PAGE_CTL (00 Table 0.6). -/
def pageCtlWrite (pg : Page) (v : W32) (s : State) : State :=
  if !pageFitted s.code pg then s
  else
    let s := setBits pg 0x008 1 1 (bitOf v 1).toNat (enWrite pg (bitOf v 0) s)
    if bitOf v 2 then softReset pg s else s

/-- A write to MID_CMD (14 Table 14.4); a code the table does not give is refused with 0x01 (DESIGN CHOICE). -/
def midCmdWrite (v : W32) (s : State) : State :=
  match fld v.toNat 7 0 with
  | 0x01 => boot s
  | 0x02 => arrayUp s
  | 0x03 => continueCmd s
  | 0x04 => load s
  | 0x05 => run s
  | 0x06 => halt s
  | 0x07 => resume s
  | 0x08 => unload s
  | 0x09 => arrayReset s
  | 0x0A => moduleReset 1 s
  | 0x0B => portReset (Fin.ofNat 16 (fld v.toNat 19 16)) s
  | c => if s.busy.isSome then midRefuse c 2 s else midRefuse c 1 s

/-- A write to CFG_CMD (17 Table 17.7). -/
def cfgCmdWrite (v : W32) (s : State) : State :=
  match fld v.toNat 7 0 with
  | 1 => pinCheck (cfgCommit s)
  | 2 => pinCheck (cfgRollback s)
  | 3 => cfgCopy s
  | _ => s

/-- A write to REC_CMD (15 Table 15.8). -/
def recCmdWrite (v : W32) (s : State) : State :=
  match fld v.toNat 1 0 with
  | 1 => rejoin (bitOf v 2) s
  | 2 => recover s
  | 3 => abandon s
  | _ => s

/-- A write to RDC_CMD (10 Table 10.11). -/
def rdcCmdWrite (v : W32) (s : State) : State :=
  match fld v.toNat 1 0 with
  | 1 => omitShares (fld v.toNat 31 16) s
  | 2 => resetChan (fld v.toNat 31 16) s
  | _ => s

/-- A write to a perturbation register with the conditions of 16 R454 and R472. -/
def prtRegWrite (o : Nat) (v : W32) (s : State) : State :=
  match o with
  | 0x050 => prtWrite o (bitOf v 31 && lMode s) v s
  | 0x054 => prtWrite o (2000 < fld v.toNat 10 0) v s
  | 0x060 => prtWrite o false (noCount 29 16 v) s
  | 0x064 => prtWrite o false (noCount 29 16 v) s
  | 0x068 => prtWrite o false (noCount 23 16 v) s
  | _ => prtWrite o false v s

/-- A write to SEC_CMD: UNSEAL, the one command (16 Table 16.8). -/
def secCmdWrite (v : W32) (s : State) : State :=
  if fld v.toNat 7 0 = 4 then
    let c := unsealCode s
    if c = 0 then startScrub .unsealing s else secRefuse c s
  else s

/-- A counter word of the query unit (12 R375). -/
def qctrWrite (o : Nat) (v : W32) (s : State) : State :=
  if o = 0x060 then cbgQuery v s else if qBusy s then setErr .cbg 0 s else setReg .cbg o v s

/-- A write to a register whose effect goes past its bits, or `none` where it has only its access code. -/
def specialWrite (rq : Req) (pg : Page) (o : Nat) (v : W32) (s : State) : Option State :=
  if o = 0x008 then some (pageCtlWrite pg v s)
  else if o = 0x018 then some (errInj pg v s)
  else match pg with
  | .mid => if o = 0x084 then some (midCmdWrite v s) else if o = 0x090 then some (midWdog v s) else none
  | .cfg => if o = 0x044 then some (cfgCmdWrite v s) else none
  | .evc =>
    if inR o 0x180 0x1FC then some (pendSet (Fin.ofNat 32 ((o - 0x180) / 4)) v s)
    else if inR o 0x400 0x5FC && o % 16 = 12 && !bitOf v 0 then some (msixUnmask (Fin.ofNat 32 ((o - 0x400) / 16)) s)
    else none
  | .tmb => if inR o 0x050 0x06C && o % 8 = 4 then some (tmrCmpWrite rq (Fin.ofNat 4 ((o - 0x050) / 8)) v s) else none
  | .pwr => if o = 0x060 then some (pwrFcmd v s)
    else if o = 0x074 then some (if bitOf v 0 then pwrVminReset s else s) else none
  | .fpw f => if o = 0x06C then some (if bitOf v 0 then fpwVminReset f s else s) else none
  | .sec => if o = 0x044 then some (secCmdWrite v s) else none
  | .dbg =>
    if o = 0x040 then some (levelWrite v s)
    else if o = 0x04C then some (if fld v.toNat 7 0 = 1 then Sys2Proof.Machine.tick1 s else s)
    else if inR o 0x050 0x06C then some (prtRegWrite o v s)
    else none
  | .hdm =>
    if inR o 0x040 0x13C && (o - 0x040) % 0x20 = 0x08 then some (queueCtl rq pg o v s)
    else if o = 0x168 then some (ldgRdWrite rq v s)
    else none
  | .plc => if o = 0x064 then some (xlWrite v s) else none
  | .asq => if o = 0x0A4 then some (recCmdWrite v s) else none
  | .rdc => if o = 0x04C then some (rdcCmdWrite v s) else none
  | .cbg => if inR o 0x054 0x060 then some (qctrWrite o v s) else none
  | .edg _ => if inR o 0x060 0x0DC && (o - 0x060) % 0x20 = 0x08 then some (queueCtl rq pg o v s) else none
  | _ => none

/-- An aligned 32-bit write to a page register (00 R14 to R17). -/
def pageWrite (rq : Req) (pg : Page) (o : Nat) (v : W32) (s : State) : State :=
  if !pageFitted s.code pg then s
  else match specialWrite rq pg o v s with
    | some t => t
    | none =>
      if isLo pg o then holdLow rq pg o v s
      else if isHi pg o then applyHigh rq pg (o - 4) v s
      else plainWrite rq pg o v s

/-- The 32-bit write of any BAR0 offset; one that is not aligned is discarded with ACC_ERR (00 R14). -/
def busWrite (rq : Req) (off : Nat) (v : W32) (s : State) : State :=
  if off % 4 ≠ 0 then accErrAt off s
  else match spaceOf off with
    | .reg pg o => pageWrite rq pg o v s
    | .sram o => sramWindowWrite o v s
    | .view n o => writeView n o v s
    | .reserved => s

/-- REGISTER_WRITE (00 R16, Table 0.4). -/
def execRegisterWrite (rq : Req) (off : Nat) (v : W32) (s : State) : Res :=
  if 0x4000000 ≤ off then .fault .outsideBar else .next (barWrite rq (busWrite rq off v) s)

/-! Accesses of other widths (00 R14). -/

/-- Is a write of `width` bytes one that R14 discards? -/
def narrowBad (off width : Nat) : Bool := !(width = 4 && off % 4 = 0)

/-- BAR0_NARROW_WRITE: discarded with ACC_ERR, as a poisoned write of the host is at any width (19 R537); another aligned 32-bit write
is not this command's and leaves the state alone. -/
def execBar0NarrowWrite (rq : Req) (off : Nat) (w : BarWrite) (s : State) : Res :=
  if 0x4000000 ≤ off then .fault .outsideBar
  else .next (barWrite rq (fun s =>
    if w.poisoned && rq = .host then accErrAt off (logPoison s) else if narrowBad off w.width then accErrAt off s else s) s)

/-- 32-bit reads of `n` consecutive words in increasing order: their bytes and the state after. -/
def readWords (rq : Req) : Nat → Nat → State → List Byte × State
  | _, 0, s => ([], s)
  | off, n + 1, s =>
    let r := busRead rq off s
    let q := readWords rq (off + 4) n r.2
    (natLE 4 r.1.toNat ++ q.1, q.2)

/-- The bytes that a read of `width` bytes returns, with each touched register read once (R14). -/
def narrowRead (rq : Req) (off width : Nat) (s : State) : State :=
  if width = 0 then s
  else
    let w0 := off / 4
    let n := (off + width - 1) / 4 - w0 + 1
    let r := readWords rq (4 * w0) n s
    emit (.rbytes rq off ((r.1.drop (off % 4)).take width)) r.2

/-- BAR0_NARROW_READ (00 R14). -/
def execBar0NarrowRead (rq : Req) (off width : Nat) (s : State) : Res :=
  if 0x4000000 < off + width then .fault .outsideBar else .next (barRead rq (narrowRead rq off width) s)

/-! The two halves of 64-bit registers (00 R15). -/

/-- A read whose value leaves the module. -/
def readOut (rq : Req) (off : Nat) (s : State) : State :=
  let r := busRead rq off s
  emit (.rdata rq off r.1) r.2

/-- Does an offset name a lower half, or an upper half? -/
def lowOff (off : Nat) : Bool := match spaceOf off with | .reg pg o => isLo pg o | _ => false
def highOff (off : Nat) : Bool := match spaceOf off with | .reg pg o => isHi pg o | _ => false

/-- LOWER_HALF_READ; an offset that is no lower half is not this command's and leaves the state alone. -/
def execLowerHalfRead (rq : Req) (off : Nat) (s : State) : Res :=
  if 0x4000000 ≤ off then .fault .outsideBar
  else .next (barRead rq (fun s => if lowOff off then readOut rq off s else s) s)

/-- UPPER_HALF_READ. -/
def execUpperHalfRead (rq : Req) (off : Nat) (s : State) : Res :=
  if 0x4000000 ≤ off then .fault .outsideBar
  else .next (barRead rq (fun s => if highOff off then readOut rq off s else s) s)

/-- LOWER_HALF_WRITE. -/
def execLowerHalfWrite (rq : Req) (off : Nat) (v : W32) (s : State) : Res :=
  if 0x4000000 ≤ off then .fault .outsideBar
  else .next (barWrite rq (fun s => if lowOff off then busWrite rq off v s else s) s)

/-- UPPER_HALF_WRITE. -/
def execUpperHalfWrite (rq : Req) (off : Nat) (v : W32) (s : State) : Res :=
  if 0x4000000 ≤ off then .fault .outsideBar
  else .next (barWrite rq (fun s => if highOff off then busWrite rq off v s else s) s)

/-! RC fields (00 R17). -/

/-- A read of the RC field `mask` of a register, with the events `ev` that reach the field in the same cycle. No register of
the pages has access code RC, so the command itself says which bits are one. -/
def rcRead (rq : Req) (off : Nat) (mask ev : W32) (s : State) : State :=
  match spaceOf off with
  | .reg pg o =>
    if !pageFitted s.code pg || (regI pg o).isNone then emit (.rdata rq off 0) s
    else
      let w := reg s pg o
      emit (.rdata rq off w) (setReg pg o ((w &&& ~~~mask) ||| (ev &&& mask)) s)
  | _ => s

/-- RC_FIELD_READ (00 R17). -/
def execRcFieldRead (rq : Req) (off : Nat) (mask ev : W32) (s : State) : Res :=
  if 0x4000000 ≤ off then .fault .outsideBar else .next (barRead rq (rcRead rq off mask ev) s)

/-! Tile views (17 R491 to R494). -/

/-- Apply to an offset in a tile view, aligned to 32 bits; another offset is not this command's. -/
def atView (off : Nat) (f : Nat → Nat → State → State) (s : State) : State :=
  match spaceOf off with
  | .view n o => if off % 4 = 0 then f n o s else s
  | _ => s

/-- TILE_WINDOW_READ (17 R493). -/
def execTileWindowRead (rq : Req) (off : Nat) (s : State) : Res :=
  if 0x4000000 ≤ off then .fault .outsideBar
  else .next (barRead rq (atView off fun n o s =>
    let r := readView rq n o s
    emit (.rdata rq off r.1) r.2) s)

/-- A window read of SRAM in Run that finds no unclaimed bank cycle: 0, and BUSY_DROP (17 R493). -/
def windowTimeout (rq : Req) (off n o : Nat) (s : State) : State :=
  if s.run ≠ .run || 0x180000 ≤ o || !viewAllowed s o || !pageEn s .twc || !(selection s n).valid then s
  else setErr .twc 0 (emit (.rdata rq off 0) s)

/-- WINDOW_READ_TIMEOUT (17 R493). -/
def execWindowReadTimeout (rq : Req) (off : Nat) (s : State) : Res :=
  if 0x4000000 ≤ off then .fault .outsideBar else .next (barRead rq (atView off (windowTimeout rq off)) s)

/-- TILE_WINDOW_WRITE (17 R494). -/
def execTileWindowWrite (rq : Req) (off : Nat) (v : W32) (s : State) : Res :=
  if 0x4000000 ≤ off then .fault .outsideBar
  else .next (barWrite rq (atView off fun n o s => writeView n o v s) s)

/-! The SMBus endpoint (19 R540). -/

/-- The response of Table 19.7. -/
def smbusReply (cmd cc off : Nat) (v : W32) (s : State) : State :=
  emit (.mctp ([BitVec.ofNat 8 cmd, BitVec.ofNat 8 cc, 0, 0] ++ natLE 4 off ++ natLE 4 v.toNat)) s

/-- Was an access denied, or did it set ACC_ERR: an ACC_ERR bit newly set on any page, or a denied debug access counted. A bit
already set that the access sets again is seen by clearing it first. -/
def accSetBy (f : State → State) (pg : Page) (s : State) : Bool :=
  let clean := setReg pg 0x010 (setBit (reg s pg 0x010) 31 false) s
  bitOf (reg (f clean) pg 0x010) 31

/-- The page an access concerns, when it is fitted: the SRAM window's is MID, the views' TWC. -/
def pageOf (s : State) (off : Nat) : Option Page :=
  match spaceOf off with
  | .reg pg _ => if pageFitted s.code pg then some pg else none
  | .sram _ => some .mid
  | .view _ _ => some .twc
  | .reserved => none

/-- The completion code of an access: 0x02 for an offset that is misaligned or beyond BAR0, 0x01 denied or ACC_ERR set. -/
def smbusCc (off : Nat) (f : State → State) (s : State) : Nat :=
  if 0x4000000 ≤ off || off % 4 ≠ 0 then 2
  else
    let acc := match pageOf s off with | some pg => accSetBy f pg s | none => false
    if acc || accSetBy f .dbg s then 1 else 0

/-- SMBUS_REGISTER_READ (19 R540). -/
def smbusRead (off : Nat) (s : State) : State :=
  let cc := smbusCc off (fun s => (busRead .smbus off s).2) s
  if cc = 2 then smbusReply 1 2 off 0 s
  else
    let r := busRead .smbus off s
    smbusReply 1 cc off r.1 r.2

def execSmbusRegisterRead (off : Nat) (s : State) : Res := .next (mctpReq (smbusRead off) s)

/-- SMBUS_REGISTER_WRITE (19 R540). -/
def smbusWrite (off : Nat) (v : W32) (s : State) : State :=
  let cc := smbusCc off (busWrite .smbus off v) s
  if cc = 2 then smbusReply 2 2 off 0 s else smbusReply 2 cc off v (busWrite .smbus off v s)

def execSmbusRegisterWrite (off : Nat) (v : W32) (s : State) : Res := .next (mctpReq (smbusWrite off v) s)

/-! JTAG DBGACC (19 R544). -/

/-- The access in the DBGACC data register completes: data or ERR latched, BUSY clear (R544, Table 19.10). ERR is a denied or
refused access, or an offset that is misaligned. -/
def dbgaccDone (dr : W64) (s : State) : State :=
  let off := fld dr.toNat 25 0
  let w := dr.toNat.testBit 31
  let s := { s with jtag := { s.jtag with busy := none, off := off } }
  if off % 4 ≠ 0 then { s with jtag := { s.jtag with err := true } }
  else
    let v := hiW dr.toNat
    let acc (f : State → State) : Bool :=
      (match pageOf s off with | some pg => accSetBy f pg s | none => false) || accSetBy f .dbg s
    if w then
      let prt := match spaceOf off with | .reg .dbg o => decide (o ∈ prtRegs) | _ => false
      let f := if prt then busWrite .dbgacc off v else barWrite .dbgacc (busWrite .dbgacc off v)
      let e := acc f
      let t := f s
      { t with jtag := { t.jtag with err := e } }
    else
      let f := barRead .dbgacc fun s => (busRead .dbgacc off s).2
      let e := acc f
      let d := if accSet s = .n then 0 else (busRead .dbgacc off s).1
      let t := f s
      { t with jtag := { t.jtag with err := e, data := d } }

/-- DBGACC_COMPLETE (19 R544). -/
def execDbgaccComplete (s : State) : Res :=
  .next (match s.jtag.busy with
    | some dr => if powered s then dbgaccDone dr s else s
    | none => s)

end Sys2Proof.Machine
end

