-- ==== Sys2Proof/Machine/Dispatch.lean ====
section
/-! DEFINITION. One arm per command: a direct call of its meaning. -/

namespace Sys2Proof.Machine
open Sys2Proof

def exec (i : Instr) (s : State) : Host.Outcome State Fault Refusal :=
  match i with
  | .registerWrite rq off v => Sys2Proof.Machine.execRegisterWrite rq off v s
  | .bar0NarrowWrite rq off w => Sys2Proof.Machine.execBar0NarrowWrite rq off w s
  | .bar0NarrowRead rq off width => Sys2Proof.Machine.execBar0NarrowRead rq off width s
  | .lowerHalfRead rq off => Sys2Proof.Machine.execLowerHalfRead rq off s
  | .upperHalfRead rq off => Sys2Proof.Machine.execUpperHalfRead rq off s
  | .lowerHalfWrite rq off v => Sys2Proof.Machine.execLowerHalfWrite rq off v s
  | .upperHalfWrite rq off v => Sys2Proof.Machine.execUpperHalfWrite rq off v s
  | .rcFieldRead rq off mask ev => Sys2Proof.Machine.execRcFieldRead rq off mask ev s
  | .errInjWrite rq pg v => Sys2Proof.Machine.execErrInjWrite rq pg v s
  | .srst rq pg => Sys2Proof.Machine.execSrst rq pg s
  | .softResetComplete pg => Sys2Proof.Machine.execSoftResetComplete pg s
  | .enWrite rq pg b => Sys2Proof.Machine.execEnWrite rq pg b s
  | .rwbWrite rq off v => Sys2Proof.Machine.execRwbWrite rq off v s
  | .nop u v st => Sys2Proof.Machine.execNop u v st s
  | .fence u v st => Sys2Proof.Machine.execFence u v st s
  | .fenceRelease u v st => Sys2Proof.Machine.execFenceRelease u v st s
  | .signal u v st => Sys2Proof.Machine.execSignal u v st s
  | .wait u v st => Sys2Proof.Machine.execWait u v st s
  | .settTimeout u v st => Sys2Proof.Machine.execSettTimeout u v st s
  | .ladderEnd u v st => Sys2Proof.Machine.execLadderEnd u v st s
  | .barrier u v st => Sys2Proof.Machine.execBarrier u v st s
  | .fsignal u v st => Sys2Proof.Machine.execFsignal u v st s
  | .matmul u v st => Sys2Proof.Machine.execMatmul u v st s
  | .matvec u v st => Sys2Proof.Machine.execMatvec u v st s
  | .xdot u v st => Sys2Proof.Machine.execXdot u v st s
  | .xread u v st => Sys2Proof.Machine.execXread u v st s
  | .xclr u v st => Sys2Proof.Machine.execXclr u v st s
  | .vload u v st => Sys2Proof.Machine.execVload u v st s
  | .vmap u v st => Sys2Proof.Machine.execVmap u v st s
  | .vred u v st => Sys2Proof.Machine.execVred u v st s
  | .vpoly u v st => Sys2Proof.Machine.execVpoly u v st s
  | .scaleupd u v st => Sys2Proof.Machine.execScaleupd u v st s
  | .lcopy u v st => Sys2Proof.Machine.execLcopy u v st s
  | .tapin u v st => Sys2Proof.Machine.execTapin u v st s
  | .tapout u v st => Sys2Proof.Machine.execTapout u v st s
  | .send u v st => Sys2Proof.Machine.execSend u v st s
  | .msend u v st => Sys2Proof.Machine.execMsend u v st s
  | .recv u v st => Sys2Proof.Machine.execRecv u v st s
  | .tileOpComplete u v st idx => Sys2Proof.Machine.execTileOpComplete u v st idx s
  | .eccWriteback u v word => Sys2Proof.Machine.execEccWriteback u v word s
  | .add e vd va vb => Sys2Proof.Machine.execAdd e vd va vb s
  | .sub e vd va vb => Sys2Proof.Machine.execSub e vd va vb s
  | .mul e vd va vb => Sys2Proof.Machine.execMul e vd va vb s
  | .fma e vd va vb vc => Sys2Proof.Machine.execFma e vd va vb vc s
  | .min e vd va vb => Sys2Proof.Machine.execMin e vd va vb s
  | .max e vd va vb => Sys2Proof.Machine.execMax e vd va vb s
  | .abs e vd va => Sys2Proof.Machine.execAbs e vd va s
  | .neg e vd va => Sys2Proof.Machine.execNeg e vd va s
  | .cmp e k va vb => Sys2Proof.Machine.execCmp e k va vb s
  | .sel e vd va vb => Sys2Proof.Machine.execSel e vd va vb s
  | .split e vd va vc => Sys2Proof.Machine.execSplit e vd va vc s
  | .scalb e vd va vb => Sys2Proof.Machine.execScalb e vd va vb s
  | .cvt e vd va fmt r sr => Sys2Proof.Machine.execCvt e vd va fmt r sr s
  | .rand e vd at_ => Sys2Proof.Machine.execRand e vd at_ s
  | .poly e vd va tab => Sys2Proof.Machine.execPoly e vd va tab s
  | .ld e vd o => Sys2Proof.Machine.execLd e vd o s
  | .st e va o sr => Sys2Proof.Machine.execSt e va o sr s
  | .lds d vd r => Sys2Proof.Machine.execLds d vd r s
  | .sts d va t => Sys2Proof.Machine.execSts d va t s
  | .qout d va t => Sys2Proof.Machine.execQout d va t s
  | .amax d va => Sys2Proof.Machine.execAmax d va s
  | .xacc d lane va vb => Sys2Proof.Machine.execXacc d lane va vb s
  | .xrd d sk lane => Sys2Proof.Machine.execXrd d sk lane s
  | .xchg d accLanes => Sys2Proof.Machine.execXchg d accLanes s
  | .xchgComplete prog => Sys2Proof.Machine.execXchgComplete prog s
  | .xchgTimeout d => Sys2Proof.Machine.execXchgTimeout d s
  | .scal d vd sk => Sys2Proof.Machine.execScal d vd sk s
  | .usig d fsDie fsn => Sys2Proof.Machine.execUsig d fsDie fsn s
  | .end_ d => Sys2Proof.Machine.execEnd d s
  | .ueProgramStart d => Sys2Proof.Machine.execUeProgramStart d s
  | .bulkUnicastFlit u v p f => Sys2Proof.Machine.execBulkUnicastFlit u v p f s
  | .bulkMulticastFlit u v p f => Sys2Proof.Machine.execBulkMulticastFlit u v p f s
  | .signalFlit u v p f => Sys2Proof.Machine.execSignalFlit u v p f s
  | .combineUp u v p f => Sys2Proof.Machine.execCombineUp u v p f s
  | .combineDown u v p f => Sys2Proof.Machine.execCombineDown u v p f s
  | .haltFlit u v p f => Sys2Proof.Machine.execHaltFlit u v p f s
  | .slotWaitExpiry u v p => Sys2Proof.Machine.execSlotWaitExpiry u v p s
  | .creditReturn u v p => Sys2Proof.Machine.execCreditReturn u v p s
  | .deadlock u v => Sys2Proof.Machine.execDeadlock u v s
  | .aliveWireLow u v p => Sys2Proof.Machine.execAliveWireLow u v p s
  | .blockInject bus tag seq => Sys2Proof.Machine.execBlockInject bus tag seq s
  | .preRead bus tag seq ecc => Sys2Proof.Machine.execPreRead bus tag seq ecc s
  | .inboundBlock u v bus b => Sys2Proof.Machine.execInboundBlock u v bus b s
  | .outboundBlock u v bus b => Sys2Proof.Machine.execOutboundBlock u v bus b s
  | .collectorBlock bus b => Sys2Proof.Machine.execCollectorBlock bus b s
  | .tickMarkerLaunch => Sys2Proof.Machine.execTickMarkerLaunch s
  | .sleepSample => Sys2Proof.Machine.execSleepSample s
  | .tickBoundary => Sys2Proof.Machine.execTickBoundary s
  | .tokAvgOverdraw u v => Sys2Proof.Machine.execTokAvgOverdraw u v s
  | .peakOverdraw u v cost => Sys2Proof.Machine.execPeakOverdraw u v cost s
  | .ladderDecision unit => Sys2Proof.Machine.execLadderDecision unit s
  | .owlCheckComplete u v => Sys2Proof.Machine.execOwlCheckComplete u v s
  | .stepWatchdog => Sys2Proof.Machine.execStepWatchdog s
  | .stepBoundary => Sys2Proof.Machine.execStepBoundary s
  | .farSettSignal d n srcMod srcDie => Sys2Proof.Machine.execFarSettSignal d n srcMod srcDie s
  | .ringFlit seg crcOk m => Sys2Proof.Machine.execRingFlit seg crcOk m s
  | .patrolScrubRead d n ecc => Sys2Proof.Machine.execPatrolScrubRead d n ecc s
  | .bar2Read off len ide ecc => Sys2Proof.Machine.execBar2Read off len ide ecc s
  | .bar2Write off data ide poisoned => Sys2Proof.Machine.execBar2Write off data ide poisoned s
  | .dmaqTailWrite rq d q v => Sys2Proof.Machine.execDmaqTailWrite rq d q v s
  | .dmaqCtlWrite rq d q v => Sys2Proof.Machine.execDmaqCtlWrite rq d q v s
  | .edgeDmaDescriptor d r => Sys2Proof.Machine.execEdgeDmaDescriptor d r s
  | .edgeDmaComplete d q => Sys2Proof.Machine.execEdgeDmaComplete d q s
  | .contrib8 f => Sys2Proof.Machine.execContrib8 f s
  | .contrib16 f => Sys2Proof.Machine.execContrib16 f s
  | .partial8 f => Sys2Proof.Machine.execPartial8 f s
  | .partial16 f => Sys2Proof.Machine.execPartial16 f s
  | .param f => Sys2Proof.Machine.execParam f s
  | .widen f => Sys2Proof.Machine.execWiden f s
  | .resend f => Sys2Proof.Machine.execResend f s
  | .done f => Sys2Proof.Machine.execDone f s
  | .permute f => Sys2Proof.Machine.execPermute f s
  | .permDone f => Sys2Proof.Machine.execPermDone f s
  | .contributionDeadline chan rseq => Sys2Proof.Machine.execContributionDeadline chan rseq s
  | .returnDeadline chan rseq => Sys2Proof.Machine.execReturnDeadline chan rseq s
  | .omit_ rq chan => Sys2Proof.Machine.execOmit rq chan s
  | .reset rq chan => Sys2Proof.Machine.execReset rq chan s
  | .permuteTimeout => Sys2Proof.Machine.execPermuteTimeout s
  | .portTrained p pmd => Sys2Proof.Machine.execPortTrained p pmd s
  | .portDown p => Sys2Proof.Machine.execPortDown p s
  | .farFrame p f => Sys2Proof.Machine.execFarFrame p f s
  | .xferFrame p f => Sys2Proof.Machine.execXferFrame p f s
  | .tunnelFrame p f => Sys2Proof.Machine.execTunnelFrame p f s
  | .hello p f => Sys2Proof.Machine.execHello p f s
  | .tsyncRequest p f => Sys2Proof.Machine.execTsyncRequest p f s
  | .tsyncResponse p f => Sys2Proof.Machine.execTsyncResponse p f s
  | .ack p f => Sys2Proof.Machine.execAck p f s
  | .nak p f => Sys2Proof.Machine.execNak p f s
  | .ackTimer p => Sys2Proof.Machine.execAckTimer p s
  | .replayTimeout p => Sys2Proof.Machine.execReplayTimeout p s
  | .helloTimer p => Sys2Proof.Machine.execHelloTimer p s
  | .neighbourTimeout p => Sys2Proof.Machine.execNeighbourTimeout p s
  | .tsyncTimer => Sys2Proof.Machine.execTsyncTimer s
  | .pluggableInsert p watts => Sys2Proof.Machine.execPluggableInsert p watts s
  | .pluggableRemove p => Sys2Proof.Machine.execPluggableRemove p s
  | .cmisTimeout p => Sys2Proof.Machine.execCmisTimeout p s
  | .cbgQuery rq v => Sys2Proof.Machine.execCbgQuery rq v s
  | .cbgQctrWrite rq k v => Sys2Proof.Machine.execCbgQctrWrite rq k v s
  | .inputUndervoltage => Sys2Proof.Machine.execInputUndervoltage s
  | .inputOvervoltage => Sys2Proof.Machine.execInputOvervoltage s
  | .inputOvercurrent => Sys2Proof.Machine.execInputOvercurrent s
  | .regulatorFail f vmem idx => Sys2Proof.Machine.execRegulatorFail f vmem idx s
  | .droopWindow f v2 x y => Sys2Proof.Machine.execDroopWindow f v2 x y s
  | .tileUndervoltage u v => Sys2Proof.Machine.execTileUndervoltage u v s
  | .vmemRange f => Sys2Proof.Machine.execVmemRange f s
  | .fieldSoftStart f => Sys2Proof.Machine.execFieldSoftStart f s
  | .softStartEnd f r => Sys2Proof.Machine.execSoftStartEnd f r s
  | .fieldShort f => Sys2Proof.Machine.execFieldShort f s
  | .pwrFcmd rq v => Sys2Proof.Machine.execPwrFcmd rq v s
  | .pwrVminRst rq => Sys2Proof.Machine.execPwrVminRst rq s
  | .fpwVminRst rq f => Sys2Proof.Machine.execFpwVminRst rq f s
  | .refclkLost => Sys2Proof.Machine.execRefclkLost s
  | .pllUnlock => Sys2Proof.Machine.execPllUnlock s
  | .upstreamClockLoss c r x y => Sys2Proof.Machine.execUpstreamClockLoss c r x y s
  | .clockTreeSetupDone pll cands silent => Sys2Proof.Machine.execClockTreeSetupDone pll cands silent s
  | .thermalSample r => Sys2Proof.Machine.execThermalSample r s
  | .flowTrip => Sys2Proof.Machine.execFlowTrip s
  | .flowLow => Sys2Proof.Machine.execFlowLow s
  | .pinLevelChange pin run => Sys2Proof.Machine.execPinLevelChange pin run s
  | .pwrEnAssert => Sys2Proof.Machine.execPwrEnAssert s
  | .pwrEnDeassert => Sys2Proof.Machine.execPwrEnDeassert s
  | .pwrEnHoldoffEnd => Sys2Proof.Machine.execPwrEnHoldoffEnd s
  | .inputLoss => Sys2Proof.Machine.execInputLoss s
  | .bootRomStart addrSel => Sys2Proof.Machine.execBootRomStart addrSel s
  | .perstNAssert => Sys2Proof.Machine.execPerstNAssert s
  | .perstNRelease => Sys2Proof.Machine.execPerstNRelease s
  | .mgmtSramWindowWrite rq off v => Sys2Proof.Machine.execMgmtSramWindowWrite rq off v s
  | .boot rq => Sys2Proof.Machine.execBoot rq s
  | .arrayUp rq => Sys2Proof.Machine.execArrayUp rq s
  | .continue_ rq => Sys2Proof.Machine.execContinue rq s
  | .pauseTimeout => Sys2Proof.Machine.execPauseTimeout s
  | .selfTestEnd r => Sys2Proof.Machine.execSelfTestEnd r s
  | .load rq => Sys2Proof.Machine.execLoad rq s
  | .loadComplete => Sys2Proof.Machine.execLoadComplete s
  | .run rq => Sys2Proof.Machine.execRun rq s
  | .halt rq => Sys2Proof.Machine.execHalt rq s
  | .resume rq => Sys2Proof.Machine.execResume rq s
  | .unload rq => Sys2Proof.Machine.execUnload rq s
  | .arrayReset rq => Sys2Proof.Machine.execArrayReset rq s
  | .arrayResetComplete => Sys2Proof.Machine.execArrayResetComplete s
  | .moduleReset rq => Sys2Proof.Machine.execModuleReset rq s
  | .portReset rq p => Sys2Proof.Machine.execPortReset rq p s
  | .midWdog rq v => Sys2Proof.Machine.execMidWdog rq v s
  | .wdogExpiry core1 => Sys2Proof.Machine.execWdogExpiry core1 s
  | .settProbeComplete silent => Sys2Proof.Machine.execSettProbeComplete silent s
  | .diagnosisComplete failed => Sys2Proof.Machine.execDiagnosisComplete failed s
  | .replacementComplete => Sys2Proof.Machine.execReplacementComplete s
  | .rejoin rq own => Sys2Proof.Machine.execRejoin rq own s
  | .recover rq => Sys2Proof.Machine.execRecover rq s
  | .abandon rq => Sys2Proof.Machine.execAbandon rq s
  | .getVersion t => Sys2Proof.Machine.execGetVersion t s
  | .getCapabilities t => Sys2Proof.Machine.execGetCapabilities t s
  | .negotiateAlgorithms t ver supported => Sys2Proof.Machine.execNegotiateAlgorithms t ver supported s
  | .getDigests t => Sys2Proof.Machine.execGetDigests t s
  | .getCertificate t slot => Sys2Proof.Machine.execGetCertificate t slot s
  | .challenge t slot nonce => Sys2Proof.Machine.execChallenge t slot nonce s
  | .getMeasurements t index signed => Sys2Proof.Machine.execGetMeasurements t index signed s
  | .keyExchange t pub => Sys2Proof.Machine.execKeyExchange t pub s
  | .finish t verifyOk => Sys2Proof.Machine.execFinish t verifyOk s
  | .heartbeat t => Sys2Proof.Machine.execHeartbeat t s
  | .endSession t => Sys2Proof.Machine.execEndSession t s
  | .setHbmKey dataKey tweakKey => Sys2Proof.Machine.execSetHbmKey dataKey tweakKey s
  | .setLinkKey port rx salt key => Sys2Proof.Machine.execSetLinkKey port rx salt key s
  | .seal_ hash => Sys2Proof.Machine.execSeal hash s
  | .unseal_ spdm => Sys2Proof.Machine.execUnseal spdm s
  | .getSec => Sys2Proof.Machine.execGetSec s
  | .scrubComplete ok us => Sys2Proof.Machine.execScrubComplete ok us s
  | .ideLost => Sys2Proof.Machine.execIdeLost s
  | .dbgLevelWrite rq v => Sys2Proof.Machine.execDbgLevelWrite rq v s
  | .tick1 rq => Sys2Proof.Machine.execTick1 rq s
  | .prtHop rq v => Sys2Proof.Machine.execPrtHop rq v s
  | .prtLink rq v => Sys2Proof.Machine.execPrtLink rq v s
  | .prtTok rq v => Sys2Proof.Machine.execPrtTok rq v s
  | .prtWake rq v => Sys2Proof.Machine.execPrtWake rq v s
  | .prtOwl rq v => Sys2Proof.Machine.execPrtOwl rq v s
  | .prtSat rq v => Sys2Proof.Machine.execPrtSat rq v s
  | .prtRes rq v => Sys2Proof.Machine.execPrtRes rq v s
  | .prtLate rq v => Sys2Proof.Machine.execPrtLate rq v s
  | .extest => Sys2Proof.Machine.execExtest s
  | .idcode => Sys2Proof.Machine.execIdcode s
  | .samplePreload tdi => Sys2Proof.Machine.execSamplePreload tdi s
  | .bypass => Sys2Proof.Machine.execBypass s
  | .dbgacc dr => Sys2Proof.Machine.execDbgacc dr s
  | .dbgaccComplete => Sys2Proof.Machine.execDbgaccComplete s
  | .tileWindowRead rq off => Sys2Proof.Machine.execTileWindowRead rq off s
  | .windowReadTimeout rq off => Sys2Proof.Machine.execWindowReadTimeout rq off s
  | .tileWindowWrite rq off v => Sys2Proof.Machine.execTileWindowWrite rq off v s
  | .plcXlIn rq v => Sys2Proof.Machine.execPlcXlIn rq v s
  | .peerSelWrite rq v => Sys2Proof.Machine.execPeerSelWrite rq v s
  | .commit rq => Sys2Proof.Machine.execCommit rq s
  | .rollback rq => Sys2Proof.Machine.execRollback rq s
  | .copy rq => Sys2Proof.Machine.execCopy rq s
  | .tmrCmpWrite rq n hi => Sys2Proof.Machine.execTmrCmpWrite rq n hi s
  | .timerFire n => Sys2Proof.Machine.execTimerFire n s
  | .hdqTailWrite rq q v => Sys2Proof.Machine.execHdqTailWrite rq q v s
  | .hdqCtlWrite rq q v => Sys2Proof.Machine.execHdqCtlWrite rq q v s
  | .hostDmaDescriptor q desc host via => Sys2Proof.Machine.execHostDmaDescriptor q desc host via s
  | .hostDmaComplete q => Sys2Proof.Machine.execHostDmaComplete q s
  | .ldgRdWrite rq hi => Sys2Proof.Machine.execLdgRdWrite rq hi s
  | .pendSetWrite rq w v => Sys2Proof.Machine.execPendSetWrite rq w v s
  | .pendClear rq w v fired => Sys2Proof.Machine.execPendClear rq w v fired s
  | .vectorTimeExpiry n => Sys2Proof.Machine.execVectorTimeExpiry n s
  | .msixUnmask rq n => Sys2Proof.Machine.execMsixUnmask rq n s
  | .pcieHotReset => Sys2Proof.Machine.execPcieHotReset s
  | .pciePowerStateChange d3hot ctl => Sys2Proof.Machine.execPciePowerStateChange d3hot ctl s
  | .setEndpointId eid => Sys2Proof.Machine.execSetEndpointId eid s
  | .getEndpointId => Sys2Proof.Machine.execGetEndpointId s
  | .getMctpVersionSupport typ => Sys2Proof.Machine.execGetMctpVersionSupport typ s
  | .getMessageTypeSupport => Sys2Proof.Machine.execGetMessageTypeSupport s
  | .getVendorDefinedMessageSupport sel => Sys2Proof.Machine.execGetVendorDefinedMessageSupport sel s
  | .smbusRegisterRead off => Sys2Proof.Machine.execSmbusRegisterRead off s
  | .smbusRegisterWrite off v => Sys2Proof.Machine.execSmbusRegisterWrite off v s
  | .fieldSequencingEnd => Sys2Proof.Machine.execFieldSequencingEnd s
  | .refclkReturn => Sys2Proof.Machine.execRefclkReturn s
  | .busbarEnergised reversed => Sys2Proof.Machine.execBusbarEnergised reversed s
  | .hbmRail d r good => Sys2Proof.Machine.execHbmRail d r good s
  | .ideKm k => Sys2Proof.Machine.execIdeKm k s
  | .trstN level => Sys2Proof.Machine.execTrstN level s

end Sys2Proof.Machine
end

