-- ==== Sys2Proof/Machine/Step.lean ====
section
/-! DEFINITION. One step: the command at the front of the queue, or a nanosecond of the timebase. -/

namespace Sys2Proof.Machine

/-- The module with nothing commanded: the timebase counts one nanosecond while the management complex is powered
(17 R489; DESIGN CHOICE: the step on an empty queue is the tick of that clock). -/
def idle (s : State) : State := if powered s then { s with now := s.now + 1 } else s

/-- One step. -/
def step (s : State) : Host.Outcome State Fault Refusal :=
  match s.pending with
  | [] => .next (idle s)
  | c :: rest => exec c { s with pending := rest }

/-- The command a word spells, put at the front of the queue. No row of the table gives bits, so no word spells one. -/
def State.withFetchWord (s : State) (nbits w : Nat) : State :=
  match Sys2Proof.decodeTableWord nbits w with
  | some c => { s with pending := c :: s.pending }
  | none => s

end Sys2Proof.Machine
end

