-- ==== Sys2Proof/Safety.lean ====
section
/-! DEFINITION. What the statements call safe: the parameter store in canonical form, the rules of 16 R455 and R457 on
the mode, and what a change leaves alone. -/

namespace Sys2Proof

open Machine

/-- The parameter store keeps its canonical form. -/
abbrev memWf (s : Machine.State) : Prop := mwf 0 s.hbm

/-- A sealed module is not at debug level Intrusive (16 R457), and a module without the SJU is never sealed (R455). -/
structure SealRule (s : Machine.State) : Prop where
  quiet : s.isSealed = true → s.level ≠ .intrusive
  fitted : s.isSealed = true → sjuFitted s.code = true

/-- What every command leaves alone: the fuses (00 Table 0.1, 17 R478) and the commands that wait. And what every
command keeps if it held before: the canonical form of the parameter store, and the rules on the mode. -/
structure Keeps (a t : Machine.State) : Prop where
  code : t.code = a.code
  silicon : t.silicon = a.silicon
  serial : t.serial = a.serial
  mfg : t.mfg = a.mfg
  pending : t.pending = a.pending
  mem : memWf a → memWf t
  mode : SealRule a → SealRule t

/-- May a requester's write act: the management complex runs, and JTAG DBGACC is in access set I (16 Table 16.5)? -/
def MayWrite (rq : Req) (s : Machine.State) : Prop := powered s = true ∧ (rq = .dbgacc → accSet s = .i)

/-- May a requester's read act: the management complex runs, and JTAG DBGACC is not in access set N? -/
def MayRead (rq : Req) (s : Machine.State) : Prop := powered s = true ∧ (rq = .dbgacc → accSet s ≠ .n)

/-- Is a register key on the event controller's page? -/
def onEvc (k : Nat) : Prop := 0x3000 ≤ k ∧ k < 0x4000

/-- `t` is `s` after events, and no more: only the event controller, its page's registers and the messages that left
the module may differ (18 R506 to R514). -/
def OnlyEvents (s t : Machine.State) : Prop :=
  ∃ e r o, t = { s with evc := e, regs := r, out := o } ∧ ∀ k, ¬ onEvc k → rget r k = rget s.regs k

end Sys2Proof
end

