-- ==== Sys2Proof/Frames.lean ====
section
/-! DEFINITION. What the statements say a change leaves alone, and the conditions they share: records that issue, flits that
arrive intact. -/

namespace Sys2Proof

open Machine

/-- Of the tiles only (u, v) may differ, and nothing else does. -/
def OnlyTile (u v : Nat) (s t : Machine.State) : Prop :=
  ∃ m, t = { s with tiles := m } ∧ ∀ k, k ≠ tileKey u v → mget Tile.blank m k = mget Tile.blank s.tiles k

/-- Of the registers only those with the listed keys may differ, and nothing else does. -/
def OnlyRegs (l : List Nat) (s t : Machine.State) : Prop :=
  ∃ r, t = { s with regs := r } ∧ ∀ k, k ∉ l → rget r k = rget s.regs k

/-- Only events, with the messages they send, and the registers with the listed keys may differ. -/
def Noted (l : List Nat) (s t : Machine.State) : Prop :=
  ∃ e r o, t = { s with evc := e, regs := r, out := o } ∧ ∀ k, ¬ onEvc k → k ∉ l → rget r k = rget s.regs k

/-- The next record of a stream is record `k` of image `i`, it is `r` with op code `opc`, and every earlier record of the
stream has completed, so that no fence holds it (07 R195, R217). -/
def NextIs (s : Machine.State) (u v : Nat) (st : Strm) (opc : Nat) (i : Img) (k : Nat) (r : OpRec) : Prop :=
  nextRec s u v st = some (i, k, r) ∧ r.opc = opc ∧ strmDone (tile s u v) st = true

/-- What a tile keeps through traffic of the routers: its memories, accumulators, setts, operations and positions. -/
structure TileKeeps (a b : Tile) : Prop where
  sram : b.sram = a.sram
  live : b.live = a.live
  acc : b.acc = a.acc
  setts : b.setts = a.setts
  ops : b.ops = a.ops
  posF : b.cF.pos = a.cF.pos
  posB : b.cB.pos = a.cB.pos
  posW : b.cW.pos = a.cW.pos

/-- A flit of a kind arrives intact at a router of a loaded image whose array is not gated, a control flit at an input with a free
buffer (05 R126, R127, R134). -/
structure FlitGood (s : Machine.State) (i : Img) (u v : Nat) (p : Port) (f : Flit) (kind : Nat) : Prop where
  img : s.image = some i
  idle : s.loading = false
  live : s.run = .run ∨ s.run = .halt
  here : inImage s u v = true
  crc : flitCrc f = f.crc
  sort : flitKind f = kind
  room : kind = 2 → ctlRoom (tile s u v) p = true

/-- A bulk flit at a router is not held: no older flit waits there, in L mode it has an assigned departure, and it is not one that an
operation of the tile has still to count out (05 R135, R136, 07 R217). -/
structure BulkGoes (s : Machine.State) (i : Img) (u v : Nat) (p : Port) (f : Flit) : Prop where
  first : (tile s u v).bulk = []
  slot : i.lmode = true → (departure s i u v p none f).isSome = true
  unsent : p = .l → ∀ o ∈ (tile s u v).ops, isSend o = false

/-- Tile `b` is `a` after a payload of 64 bytes was written to a line: the line's bytes, its poison gone, 2 tokens, the
landing count; the other lines, the accumulators, setts and operations as before (05 R128, 07 R198). -/
structure LineWritten (a b : Tile) (line strm : Nat) (last : Bool) (pay : List Byte) : Prop where
  bytes : ∀ j, j < 64 → mget 0 b.sram (64 * line + j) = pay.getD j 0
  others : ∀ x, x < 64 * line ∨ 64 * line + 64 ≤ x → mget 0 b.sram x = mget 0 a.sram x
  clean : linePoisoned b line = false
  poison : ∀ l, l ≠ line → linePoisoned b l = linePoisoned a l
  landed : b.landed = if last then a.landed.set strm (a.landed.getD strm 0 + 1) else a.landed
  tok : b.tok = a.tok + 2
  acc : b.acc = a.acc
  setts : b.setts = a.setts
  ops : b.ops = a.ops

/-- Every tile keeps that. -/
def TilesKeep (s t : Machine.State) : Prop :=
  ∀ k, TileKeeps (mget Tile.blank s.tiles k) (mget Tile.blank t.tiles k)

/-- The state with a stream past a record (07 R195). -/
def passed (u v : Nat) (st : Strm) (r : OpRec) (s : Machine.State) : Machine.State :=
  setTile u v (stepPast s.now st r (tile s u v)) s

/-- An operation of a record issued. Tile (u, v) is `a`, but the operation waits there, its results inside the gallery
window with it, and tokens and a read of poison may count; the other tiles are as before. Nothing else changed where every
access is inside the window and no line read is poisoned; otherwise contract fault 6 or 7 (02 R38, R41, R68, 07 R217). -/
structure Issued (u v : Nat) (st : Strm) (i : Img) (k : Nat) (r : OpRec) (a : Tile) (left : Nat) (reads : List Nat)
    (wr : List Wr) (s t : Machine.State) : Prop where
  tile : ∃ n h c p, tile t u v = { a with
    ops := (tile s u v).ops ++ [⟨st, k, r.opc, r.unit, r.bytes, wr.filter (wrInWindow (galleryOf i u v).2), left, [], opRate r⟩]
    tok := n
    tokHi := h
    cyc := c
    poisonRd := p }
  others : ∀ x, x ≠ tileKey u v → mget Tile.blank t.tiles x = mget Tile.blank s.tiles x
  clean : (∀ l ∈ reads, inWindow (galleryOf i u v).2 l = true ∧ linePoisoned (Machine.tile s u v) l = false) →
    (∀ w ∈ wr, wrInWindow (galleryOf i u v).2 w = true) → OnlyTile u v s t
  wild : (∃ l ∈ reads, inWindow (galleryOf i u v).2 l = false) ∨ (∃ w ∈ wr, wrInWindow (galleryOf i u v).2 w = false) →
    bitOf (reg t .asq 0x010) 6 = true
  poison : (∃ l ∈ reads, inWindow (galleryOf i u v).2 l = true ∧ linePoisoned (Machine.tile s u v) l = true) →
    bitOf (reg t .asq 0x010) 7 = true

/-! Vector engines: the 64 lanes of a tile's unit, the 256 of an Update Engine (02 R61, 09 R282). -/

def vuOf (e : Eng) (s : Machine.State) : VuSt :=
  match e with | .tile u v => tileVu (tile s u v) | .ue d => ueVu (dieSt s d).ue
def vLanes (e : Eng) : Nat := match e with | .tile _ _ => 64 | .ue _ => 256
def vLane (e : Eng) (s : Machine.State) (r l : Nat) : W32 := (vuOf e s).get r l
def vMask (e : Eng) (s : Machine.State) (l : Nat) : Bool := mget false (vuOf e s).mask l
def vSat (e : Eng) (s : Machine.State) (l : Nat) : Bool := mget false (vuOf e s).sat l

/-- May an engine run an instruction: the vector unit of a tile that runs, or an engine whose program has it next (07 R208,
09 R284)? -/
def VuReady (e : Eng) (vop : Nat) (fs : List (Nat × Nat × Nat)) (s : Machine.State) : Prop :=
  match e with
  | .tile u v => vuRuns s u v = true
  | .ue d => ∃ r p w, ueWord s d = some (r, p, w) ∧ vIs w vop fs = true

/-- Only the registers, lane mask and lane flags of an engine may differ; with them a tile's tokens and overflow causes, and an
engine's place in its program, which is one instruction on. -/
def VuFrame (e : Eng) (s t : Machine.State) : Prop :=
  match e with
  | .tile u v => OnlyTile u v s t ∧ ∃ a b c n h y o g, tile t u v = { tile s u v with
      vu := a
      vmask := b
      vsat := c
      tok := n
      tokHi := h
      cyc := y
      ovf := o
      trig := g }
  | .ue d => ∃ a b c, t = ueStepPc d (setDie d { dieSt s d with ue := { (dieSt s d).ue with
      v := a
      mask := b
      sat := c } } s)

/-- Register `vd` has lane values `f`; the other registers, and the mask, are as before. -/
def VuWrites (e : Eng) (vd : Nat) (f : Nat → W32) (s t : Machine.State) : Prop :=
  ∀ l, l < vLanes e → (∀ r, vLane e t r l = if r = vd then f l else vLane e s r l) ∧ vMask e t l = vMask e s l

/-! Reduction (10 R305 to R318). -/

/-- A channel waits: it is the plan's; what the module retains for it is sent and added as far as it can be; its adders have
noted their first share, hold on the first share that is missing or not at all, and have no partial to pass on and no reduction to
complete; and no queued frame is inside the window. -/
structure ChanWaits (s : Machine.State) (p : Plan) (ch : Chan) : Prop where
  plan : s.rdc.plan = some p
  own : ∀ rn ∈ redsOf p ch, redOf p ch.num rn.rseq = some rn
  sent : ∀ rn ∈ redsOf p ch, ∀ x ∈ mySharesOf (sharesOf p ch) (selfM s),
    let k := redKey ch.num rn.rseq
    let n := (mfind (redSt s k).xnext x.1.share).getD rn.blk0
    runFrom (mget [] s.rdc.kept k) x.1.share (rn.blk0 + rn.nblk - n) n = []
  added : ∀ rn ∈ redsOf p ch, ∀ x ∈ mySharesOf (sharesOf p ch) (selfM s), ∀ role,
    frameRole ch (sharesOf p ch) (selfM s) false x.1.share = some role →
    let k := redKey ch.num rn.rseq
    let n := (mfind (addSt s k role).onext x.1.share).getD rn.blk0
    runFrom (mget [] s.rdc.kept k) x.1.share ((mfind (redSt s k).xnext x.1.share).getD rn.blk0 - n) n = []
  noted : ∀ rn ∈ redsOf p ch, ∀ role ∈ rolesOf ch (sharesOf p ch) (selfM s), (addSt s (redKey ch.num rn.rseq) role).tE.isSome = true
  holds : ∀ rn ∈ redsOf p ch, ∀ role ∈ rolesOf ch (sharesOf p ch) (selfM s),
    let a := addSt s (redKey ch.num rn.rseq) role
    a.holding.isSome = true → a.complete = false ∧
      a.holding = ((takesOf (sharesOf p ch) role).find? fun x => !shareDone a rn x.share).map (·.share)
  passed : ∀ rn ∈ redsOf p ch, ∀ role ∈ rolesOf ch (sharesOf p ch) (selfM s), role ≠ ch.home →
    let a := addSt s (redKey ch.num rn.rseq) role
    let n := a.pnext.getD rn.blk0
    partialRun a (takesOf (sharesOf p ch) role) (rn.blk0 + rn.nblk - n) n = []
  open_ : ∀ rn ∈ redsOf p ch, ch.home ∈ rolesOf ch (sharesOf p ch) (selfM s) →
    let a := addSt s (redKey ch.num rn.rseq) ch.home
    a.complete = true ∨ ∃ y ∈ takesOf (sharesOf p ch) ch.home, shareDone a rn y.share = false
  queued : ∀ f ∈ s.rdc.queue, f.chan = ch.num → ∀ role, roleFor s p ch f = some role → inOpen s p ch role f.rseq = false

/-! Links (11 R339 to R347). -/

/-- The flits that a frame's command brings break no framing rule and end a whole frame of its length (R337, R340). -/
def WholeFrame (s : Machine.State) (p : Die) (f : LFrame) : Prop :=
  (frameIn s p f).errs = 0 ∧ (frameIn s p f).done = some f.len

/-- A frame arrives intact on a port that is up, in order, for this module, in Open, and acknowledges nothing; the link has
nothing else to send. -/
structure InOrder (p : Die) (f : LFrame) (s : Machine.State) : Prop where
  power : powered s = true
  fitted : portFitted s.code p = true
  up : (linkSt s p).portUp = true
  held : (linkSt s p).heldDown = false
  queue : (linkSt s p).queue = []
  whole : WholeFrame s p f
  ok : frameOk f = true
  plain : s.isSealed = false ∧ f.enc = false ∧ f.ackv = false ∧ f.freev = false
  seq : f.lseq % 4096 = (linkSt s p).rxExp % 4096
  dst : f.dst = ownId s

/-- State `a` is `s` after link `p` took one frame in order: it expects the next one and has something to report; only that
link and its page differ. -/
structure Taken (p : Die) (s a : Machine.State) : Prop where
  seq : (linkSt a p).rxExp = (linkSt s p).rxExp + 1
  report : (linkSt a p).report = true
  links : ∀ q, q ≠ p → linkSt a q = linkSt s q
  rest : ∃ l r, a = { s with links := l, regs := r } ∧
    ∀ k, ¬ (pageBase (.lnk p) ≤ k ∧ k < pageBase (.lnk p) + 0x1000) → rget r k = rget s.regs k

end Sys2Proof
end

