-- ==== Sys2Proof/Certificates/Slice0/Obligations.lean ====
section
/-! DEFINITION. The statements for the provers. Each docstring says which rule of the manual a statement formalises. -/

open Sys2Proof Sys2Proof.Machine

/-- A step runs the command at the front of the queue. For every command c, queue and state: a step with c at the front of
the queue is exec of c on the state with the rest of the queue; with nothing queued the timebase of a powered module
counts one nanosecond and nothing else changes (the tick on an empty queue is the model's choice, log entry 2).
(derived: 17_registers_and_configuration.md) -/
def Obligations.StepRunsFrontCommand : Prop :=
  (∀ (c : Instr) (rest : List Instr) (s : State), s.pending = c :: rest → step s = exec c { s with pending := rest }) ∧
  (∀ s : State, s.pending = [] → powered s = true → step s = .next { s with now := s.now + 1 }) ∧
  (∀ s : State, s.pending = [] → powered s = false → step s = .next s)

/-- PAGE_CTL.EN after reset. In the state after reset EN is 1 on exactly the MID, CAP, CFG, EVC, TMB, PWR, CLK, THM and
SEC pages. (stated: R19) -/
def Obligations.ResetEnablesPages : Prop :=
  ∀ pg : Page, pageEn State.reset pg = true ↔ pg ∈ [Page.mid, .cap, .cfg, .evc, .tmb, .pwr, .clk, .thm, .sec]

/-- A page of an absent unit reads 0 and ignores writes. For every ordering code, page of a unit the code does not fit,
offset of that page, requester and value: a read returns 0 and changes only the requester's read latch, if any, and a
write changes nothing. (stated: R5) -/
def Obligations.AbsentPagesReadZero : Prop :=
  ∀ (rq : Req) (pg : Page) (off o : Nat) (v : W32) (s : State), pageFitted s.code pg = false →
    off % 4 = 0 → off < 0x4000000 → spaceOf off = .reg pg o →
    (readReg s rq pg o = 0) ∧
    (MayWrite rq s → exec (.registerWrite rq off v) s = .next s)

/-- A write stores the writable fields by the access code. For every requester that may write, fitted page, aligned offset
that names a register with no effect beyond its bits and no half of a 64-bit register: an RW register takes the
writable bits and keeps the others, a W1C register loses the bits written 1, an RO register and a reserved offset keep
their value; each answers a next state that differs in that register alone. (derived: 00_scope.md R14, R16, Table 0.4) -/
def Obligations.RegisterWriteByAccessCode : Prop :=
  ∀ (rq : Req) (pg : Page) (off o : Nat) (v : W32) (s : State), MayWrite rq s → pageFitted s.code pg = true →
    off % 4 = 0 → off < 0x4000000 → spaceOf off = .reg pg o →
    specialWrite rq pg o v s = none → isLo pg o = false → isHi pg o = false →
    (∀ m r, regI pg o = some ⟨.rw, m, r⟩ →
      exec (.registerWrite rq off v) s = .next (setReg pg o ((reg s pg o &&& ~~~m) ||| (v &&& m)) s)) ∧
    (∀ m r, regI pg o = some ⟨.w1c, m, r⟩ →
      exec (.registerWrite rq off v) s = .next (setReg pg o (reg s pg o &&& ~~~(v &&& m)) s)) ∧
    (∀ m r, regI pg o = some ⟨.ro, m, r⟩ → exec (.registerWrite rq off v) s = .next s) ∧
    (regI pg o = none → exec (.registerWrite rq off v) s = .next s)

/-- Accesses of other widths and the halves of 64-bit registers. A write of any width other than an aligned 32-bit one
changes nothing but ERR_STS[31] (ACC_ERR) of the fitted page concerned; a poisoned write of the host, whatever its
width, does the same and is logged in the endpoint (log entry 133). A read of other width of a page register that is
no half of a 64-bit register returns the addressed bytes of its value and changes no register; an 8-byte read of a
64-bit register returns both halves, the upper one through the latch the read of the lower one leaves, and changes no
register. A read of a lower half returns it and latches the upper half for that requester alone; a read of an upper
half returns the latched value when the latch holds that register, else the current one; a write of a lower half is
held for that requester; a write of the upper half of a read-write register applies the held lower half of the same
register with it, or the upper half alone, and clears the held write whichever register it belonged to. (The model's
choices it may rest on: log entry 14.) (derived: 00_scope.md R14, R15) -/
def Obligations.AccessWidthsAndHalves : Prop :=
  (∀ (rq : Req) (pg : Page) (off width o : Nat) (s : State), MayWrite rq s → pageFitted s.code pg = true →
    off < 0x4000000 → spaceOf off = .reg pg o →
    (∀ p : Bool, ¬ (width = 4 ∧ off % 4 = 0) → (p = true → rq ≠ .host) →
      exec (.bar0NarrowWrite rq off ⟨width, p⟩) s = .next (setReg pg 0x010 (setBit (reg s pg 0x010) 31 true) s)) ∧
    (rq = .host → exec (.bar0NarrowWrite rq off ⟨width, true⟩) s =
      .next { setReg pg 0x010 (setBit (reg s pg 0x010) 31 true) s with
        host := { s.host with aerPoison := s.host.aerPoison + 1 } })) ∧
  (∀ (rq : Req) (pg : Page) (off k n o : Nat) (s : State), MayRead rq s → off % 4 = 0 → 0 < n → k + n ≤ 4 →
    off + 4 ≤ 0x4000000 → spaceOf off = .reg pg o → isLo pg o = false → isHi pg o = false →
    exec (.bar0NarrowRead rq (off + k) n) s =
      .next (emit (.rbytes rq (off + k) (((natLE 4 (readReg s rq pg o).toNat).drop k).take n)) s)) ∧
  (∀ (rq : Req) (pg : Page) (off o : Nat) (s : State), MayRead rq s → off % 4 = 0 → off + 8 ≤ 0x4000000 →
    spaceOf off = .reg pg o → spaceOf (off + 4) = .reg pg (o + 4) → isLo pg o = true → isLo pg (o + 4) = false →
    ∃ t, exec (.bar0NarrowRead rq off 8) s = .next t ∧ t.regs = s.regs ∧
      t.out = .rbytes rq off (natLE 4 (readReg s rq pg o).toNat ++ natLE 4 (readReg s rq pg (o + 4)).toNat) :: s.out) ∧
  (∀ (rq : Req) (pg : Page) (off o : Nat) (s : State), MayRead rq s → off < 0x4000000 → spaceOf off = .reg pg o →
    isLo pg o = true → exec (.lowerHalfRead rq off) s = .next { s with
      rdLatch := putLatch rq (some (pageBase pg + o, readReg s rq pg (o + 4))) s.rdLatch
      out := .rdata rq off (readReg s rq pg o) :: s.out }) ∧
  (∀ (rq : Req) (pg : Page) (off o : Nat) (s : State), MayRead rq s → off < 0x4000000 → spaceOf off = .reg pg o →
    isHi pg o = true → isLo pg o = false →
    (∀ v, latchOf s.rdLatch rq = some (pageBase pg + o - 4, v) →
      exec (.upperHalfRead rq off) s = .next { s with out := .rdata rq off v :: s.out }) ∧
    ((∀ v, latchOf s.rdLatch rq ≠ some (pageBase pg + o - 4, v)) →
      exec (.upperHalfRead rq off) s = .next { s with out := .rdata rq off (readReg s rq pg o) :: s.out })) ∧
  (∀ (rq : Req) (pg : Page) (off o : Nat) (v : W32) (s : State), MayWrite rq s → off < 0x4000000 → off % 4 = 0 →
    spaceOf off = .reg pg o → pageFitted s.code pg = true → isLo pg o = true → specialWrite rq pg o v s = none →
    exec (.lowerHalfWrite rq off v) s =
      .next { s with wrHeld := putLatch rq (some (pageBase pg + o, v)) s.wrHeld }) ∧
  (∀ (rq : Req) (pg : Page) (off o : Nat) (v m0 r0 m1 r1 : W32) (s : State), MayWrite rq s → off < 0x4000000 →
    off % 4 = 0 → spaceOf off = .reg pg (o + 4) → pageFitted s.code pg = true → isLo pg o = true →
    isLo pg (o + 4) = false → specialWrite rq pg (o + 4) v s = none →
    regI pg o = some ⟨.rw, m0, r0⟩ → regI pg (o + 4) = some ⟨.rw, m1, r1⟩ →
    ∃ t, exec (.upperHalfWrite rq off v) s = .next t ∧ latchOf t.wrHeld rq = none ∧
      reg t pg (o + 4) = maskWrite (reg s pg (o + 4)) v m1 ∧
      (∀ w, latchOf s.wrHeld rq = some (pageBase pg + o, w) → reg t pg o = maskWrite (reg s pg o) w m0) ∧
      ((∀ w, latchOf s.wrHeld rq ≠ some (pageBase pg + o, w)) → reg t pg o = reg s pg o) ∧
      (∀ q, q ≠ rq → latchOf t.wrHeld q = latchOf s.wrHeld q ∧ latchOf t.rdLatch q = latchOf s.rdLatch q))

/-- A read of a read-clear field keeps the events of its cycle. A read of a field of code RC returns the register as it
was before the cycle, clears the field, and leaves in it the events of that cycle; the bits outside the field are
unchanged, and so is every other register. (stated: R17) -/
def Obligations.ReadClearFieldKeepsNewEvents : Prop :=
  ∀ (rq : Req) (pg : Page) (off o : Nat) (mask ev : W32) (s : State), MayRead rq s → off < 0x4000000 →
    spaceOf off = .reg pg o → pageFitted s.code pg = true → (regI pg o).isSome = true →
    ∃ t, exec (.rcFieldRead rq off mask ev) s = .next t ∧ t.out = .rdata rq off (reg s pg o) :: s.out ∧
      (reg t pg o &&& mask = ev &&& mask) ∧ (reg t pg o &&& ~~~mask = reg s pg o &&& ~~~mask) ∧
      (∀ k, k ≠ pageBase pg + o → rget t.regs k = rget s.regs k) ∧ t.hbm = s.hbm

/-- ERR_INJ acts only in Open at Intrusive. In Open at debug level Intrusive a write to ERR_INJ of a fitted page sets
every written bit of its ERR_STS and changes nothing but registers, the event controller and messages; in any other
combination the write is a denied debug access: ACC_ERR of the DBG page is set, DBG_DENY counts it unless the page's
counters are frozen, and nothing else changes. A page that is not fitted ignores the write. (The model's choices it
may rest on: log entry 152.) (stated: R22) -/
def Obligations.ErrorInjectionNeedsIntrusive : Prop :=
  (∀ (rq : Req) (pg : Page) (v : W32) (s : State), MayWrite rq s → s.isSealed = false → s.level = .intrusive →
    pageFitted s.code pg = true →
    exec (.errInjWrite rq pg v) s = .next (injectErrs pg v s) ∧
      (∃ e r o, injectErrs pg v s = { s with evc := e, regs := r, out := o }) ∧
      ∀ n, n < 32 → bitOf v n = true → bitOf (reg (injectErrs pg v s) pg 0x010) n = true) ∧
  (∀ (rq : Req) (pg : Page) (v : W32) (s : State), MayWrite rq s → pageFitted s.code pg = false →
    exec (.errInjWrite rq pg v) s = .next s) ∧
  (∀ (rq : Req) (pg : Page) (v : W32) (s : State), MayWrite rq s → pageFitted s.code pg = true →
    ¬ (s.isSealed = false ∧ s.level = .intrusive) →
    ∃ t, exec (.errInjWrite rq pg v) s = .next t ∧ (∃ r, t = { s with regs := r }) ∧
      bitOf (reg t .dbg 0x010) 31 = true ∧
      reg t .dbg 0x048 = (if pageFrz s .dbg then reg s .dbg 0x048 else satInc (reg s .dbg 0x048)) ∧
      (∀ k, k ≠ pageBase .dbg + 0x010 → k ≠ pageBase .dbg + 0x048 → rget t.regs k = rget s.regs k))

/-- Writes to PAGE_CTL.EN. A write to EN of a fitted page: on a page whose EN cannot be cleared it is ignored; on a job
page a 0 while an image is loaded is ignored and sets ACC_ERR; otherwise EN takes the written value. On DBG a 0 leaves
the level at None; on LNK a 0 leaves the port not up. Every other page's registers are unchanged where the page is
neither LNK nor DBG. (The model's choices it may rest on: log entry 151.) (derived: 00_scope.md R20, Table 0.7,
16_security_debug_and_states.md) -/
def Obligations.EnableBitWrites : Prop :=
  (∀ (rq : Req) (pg : Page) (b : Bool) (s : State), MayWrite rq s → pageFitted s.code pg = true →
    alwaysOn pg = true → exec (.enWrite rq pg b) s = .next s) ∧
  (∀ (rq : Req) (pg : Page) (s : State), MayWrite rq s → pageFitted s.code pg = true → jobPage pg = true →
    s.image.isSome = true →
    exec (.enWrite rq pg false) s = .next (setReg pg 0x010 (setBit (reg s pg 0x010) 31 true) s)) ∧
  (∀ (rq : Req) (pg : Page) (b : Bool) (s : State), MayWrite rq s → pageFitted s.code pg = true →
    alwaysOn pg = false → (jobPage pg = true → b = false → s.image = none) →
    (∀ p, pg ≠ .lnk p) → pg ≠ .dbg →
    exec (.enWrite rq pg b) s = .next (setReg pg 0x008 (setFld (reg s pg 0x008) 0 0 b.toNat) s)) ∧
  (∀ (rq : Req) (s : State), MayWrite rq s →
    ∃ t, exec (.enWrite rq .dbg false) s = .next t ∧ t.level = .none ∧ pageEn t .dbg = false ∧
      (∃ r m, t = { s with regs := r, level := .none, asq := { s.asq with prtVals := m } })) ∧
  (∀ (rq : Req) (p : Die) (s : State), MayWrite rq s → pageFitted s.code (.lnk p) = true → pageEn s (.lnk p) = true →
    ∃ t, exec (.enWrite rq (.lnk p) false) s = .next t ∧ (linkSt t p).portUp = false)

/-- SRST and its completion. A write of 1 to SRST of a fitted page: SRST reads 1 from then on and the operations in
progress in the block end: a command of MID, a pending configuration command, armed timers, a requested soft-start, a
scrub, the debug level, DMA queues, an Update Engine's program, a port; where the abort is only to drop such work no
register is at once changed and no requester hears of it. When the reset completes, the page's registers are at their
reset values but for EN, EVT_MAP and, on a LNK page, the state that its port is in, SRST reads 0, the banks, the
configuration in force and every other page's registers are unchanged. (The model's choices it may rest on: log
entries 18, 19.) (derived: 00_scope.md R23, Table 0.6) -/
def Obligations.SoftResetOfABlock : Prop :=
  (∀ (rq : Req) (pg : Page) (s : State), MayWrite rq s → pageFitted s.code pg = true →
    ∃ t, exec (.srst rq pg) s = .next t ∧ pg ∈ t.srst ∧ t.bankA = s.bankA ∧ t.bankB = s.bankB ∧
      ((∀ p, pg ≠ .lnk p) → (pg ≠ .mid ∨ s.busy ≠ some .load ∨ s.ledger = none) → t.hbm = s.hbm) ∧
      (pg = .plc ∨ pg = .owl ∨ pg = .cbg ∨ pg = .pwr ∨ pg = .tmb ∨ pg = .hdm ∨ pg = .cfg → t.regs = s.regs ∧ t.out = s.out) ∧
      (pg = .mid → t.busy = none ∧ (s.busy = some .load → t.image = none) ∧
        t.stage = if s.stage ∈ [.sequencing, .paused, .clockSetup, .selfTest] then .running else s.stage) ∧
      (pg = .cfg → t.pendCfg = none) ∧ (pg = .tmb → t.armed = 0) ∧ (pg = .pwr → t.fcmdBusy = none) ∧ (pg = .hdm → t.hdq = []) ∧
      (pg = .sec → t.refusal = 0 ∧ t.scrub = if s.scrub = .running then .failed else s.scrub) ∧ (pg = .dbg → t.level = .none) ∧
      (∀ d, pg = .edg d → (dieSt t d).dma = []) ∧ (∀ d, pg = .upe d → (dieSt t d).ue.run = none ∧ (dieSt t d).ue.ready = []) ∧
      (∀ p, pg = .lnk p → (linkSt t p).portUp = false)) ∧
  (∀ (pg : Page) (s : State), pg ∈ s.srst →
    ∃ t, exec (.softResetComplete pg) s = .next t ∧ pg ∉ t.srst ∧ pageEn t pg = pageEn s pg ∧
      (∀ o, o < 0x1000 → o ≠ 0x008 → o ≠ 0x01C → (o = 0x040 → ∀ p, pg ≠ .lnk p) → reg t pg o = regRst (pageBase pg + o)) ∧
      reg t pg 0x01C = reg s pg 0x01C ∧
      (∀ p, pg = .lnk p → fld (reg t pg 0x040).toNat 2 0 =
        if (linkSt s p).onAlt then (if (linkSt s p).altDown then 5 else 4) else (pageEn s pg).toNat) ∧
      (∀ q o, q ≠ pg → o < 0x1000 → reg t q o = reg s q o) ∧
      t.bankA = s.bankA ∧ t.bankB = s.bankB ∧ t.ver = s.ver ∧ t.hbm = s.hbm ∧ t.tiles = s.tiles ∧ t.asq = s.asq ∧ t.run = s.run ∧
      ((∀ d n, pg ≠ .hbm d n) → t.dies = s.dies) ∧ ((∀ g, pg ≠ .fpw g) → t.fields = s.fields) ∧
      (pg ≠ .rdc → t.rdc = s.rdc ∧ t.peers = s.peers) ∧ (pg = .cbg → t.qEnd = 0) ∧ (pg = .pwr → t.vminHalf = 131070))

/-- A banked write reaches the staging bank alone. A write to an RWB register, by a requester that views the staging bank
while no CFG command is pending, puts the writable bits into the staging bank, takes the staging version to 0, and
leaves the active bank, so every value in force, unchanged; a write while the requester views the active bank or a CFG
command is pending sets ACC_ERR of the page and changes neither bank. (derived: 17_registers_and_configuration.md
R480, R481, R482, R483) -/
def Obligations.BankedWritesReachStaging : Prop :=
  (∀ (rq : Req) (pg : Page) (off o : Nat) (v m r : W32) (s : State), MayWrite rq s → off < 0x4000000 →
    spaceOf off = .reg pg o → pageFitted s.code pg = true → regI pg o = some ⟨.rwb, m, r⟩ →
    isLo pg o = false → isHi pg o = false → activeView s rq = false → s.pendCfg = none →
    ∃ t, exec (.rwbWrite rq off v) s = .next t ∧ activeBank t = activeBank s ∧ t.activeB = s.activeB ∧
      rget (stagingBank t) (bankKey s pg o) = maskWrite (rget (stagingBank s) (bankKey s pg o)) v m ∧
      (∀ k, k ≠ bankKey s pg o → rget (stagingBank t) k = rget (stagingBank s) k) ∧
      stagingVer t = 0 ∧ t.touched = true ∧ t.stepBank = s.stepBank ∧ t.hbm = s.hbm) ∧
  (∀ (rq : Req) (pg : Page) (off o : Nat) (v m r : W32) (s : State), MayWrite rq s → off < 0x4000000 →
    spaceOf off = .reg pg o → pageFitted s.code pg = true → regI pg o = some ⟨.rwb, m, r⟩ →
    isLo pg o = false → isHi pg o = false → (activeView s rq = true ∨ s.pendCfg.isSome = true) →
    exec (.rwbWrite rq off v) s = .next (setReg pg 0x010 (setBit (reg s pg 0x010) 31 true) s))

/-- COMMIT, ROLLBACK and COPY. With no CFG command pending, outside Run, with no LOAD under way and every event pin high:
a COMMIT whose staging bank passes the checks makes that bank the active one, its version one more than the highest
assigned, answers done with code 0 and leaves nothing pending; a ROLLBACK that is available swaps the banks back with
the version the bank had; a COPY makes the staging bank equal to the active one and takes its version to 0. A COMMIT
in Run stays pending. While one is pending every CFG command is refused with code 0x05. (derived:
17_registers_and_configuration.md R481, R483, R484, R485, R486, Table 17.7) -/
def Obligations.CommitRollbackCopy : Prop :=
  (∀ (rq : Req) (s : State), MayWrite rq s → s.pendCfg = none → s.run ≠ .run → s.busy ≠ some .load →
    s.evc.pinFilt = 0xFF → cfgCheck s.code (stagingBank s) = none →
    ∃ t, exec (.commit rq) s = .next t ∧ t.activeB = !s.activeB ∧ activeBank t = stagingBank s ∧
      stagingBank t = activeBank s ∧ t.pendCfg = none ∧ t.touched = false ∧ (s.image = none → t.stepBank = stagingBank s) ∧
      cfgVer t = w32 ((reg s .cfg 0x058).toNat + 1) ∧ reg t .cfg 0x058 = w32 ((reg s .cfg 0x058).toNat + 1) ∧
      reg t .cfg 0x048 = 0x40000100 ∧ t.run = s.run ∧ t.tiles = s.tiles ∧ (s.ledger = none → t.hbm = s.hbm)) ∧
  (∀ (rq : Req) (s : State), MayWrite rq s → s.pendCfg = none → s.run = .run →
    s.evc.pinFilt = 0xFF → cfgCheck s.code (stagingBank s) = none →
    ∃ t, exec (.commit rq) s = .next t ∧ t.pendCfg = some .commit ∧ reg t .cfg 0x048 = 0x80000100 ∧
      OnlyRegs [pageBase .cfg + 0x048, pageBase .cfg + 0x064] { s with pendCfg := some .commit } t) ∧
  (∀ (rq : Req) (s : State), MayWrite rq s → s.pendCfg = none → rollbackOk s = true → s.run ≠ .run →
    s.busy ≠ some .load → s.evc.pinFilt = 0xFF → cfgCheck s.code (stagingBank s) = none →
    ∃ t, exec (.rollback rq) s = .next t ∧ t.activeB = !s.activeB ∧ activeBank t = stagingBank s ∧
      stagingBank t = activeBank s ∧ t.pendCfg = none ∧ cfgVer t = stagingVer s ∧ reg t .cfg 0x058 = reg s .cfg 0x058 ∧
      reg t .cfg 0x048 = 0x40000200 ∧ t.run = s.run ∧ t.tiles = s.tiles) ∧
  (∀ (rq : Req) (s : State), MayWrite rq s → s.pendCfg = none →
    ∃ t, exec (.copy rq) s = .next t ∧ t.activeB = s.activeB ∧ activeBank t = activeBank s ∧
      stagingBank t = activeBank s ∧ stagingVer t = 0 ∧ reg t .cfg 0x048 = 0x40000300 ∧ t.run = s.run ∧
      t.tiles = s.tiles ∧ (s.ledger = none → t.hbm = s.hbm)) ∧
  (∀ (rq : Req) (s : State) (op : CfgOp), MayWrite rq s → s.pendCfg = some op → s.evc.pinFilt = 0xFF →
    ∀ (c : Req → Instr) (n : Nat), (c, n) ∈ [(Instr.commit, 1), (Instr.rollback, 2), (Instr.copy, 3)] →
    ∃ t, exec (c rq) s = .next t ∧ reg t .cfg 0x048 = w32 (0xC0000000 + n * 256 + 5) ∧ bitOf (reg t .cfg 0x010) 0 = true ∧
      Noted [pageBase .cfg + 0x048, pageBase .cfg + 0x010] s t)

/-- Reads and writes of a tile view. For every requester that may access, view n and aligned offset o in it, TWC enabled:
a read allowed by the access set, of a valid selection, outside an item that is latched whole, answers the word the
view gives of the selected tile and changes nothing but the messages out; of an invalid selection it answers 0. A
denied read answers 0 and is a denied debug access. In Run a read of SRAM that finds no unclaimed cycle answers 0 and
sets BUSY_DROP, changing nothing else but events. A write in Halt at Intrusive to a valid selection gives that one
tile the write of the view and no other tile anything, or sets ACC_ERR of TWC; outside Halt or Intrusive it is a
denied debug access. (The model's choices it may rest on: log entries 22, 23, 137.) (derived:
17_registers_and_configuration.md R491, R493, R494, 16_security_debug_and_states.md R465) -/
def Obligations.TileViews : Prop :=
  (∀ (rq : Req) (off n o : Nat) (s : State), MayRead rq s → off < 0x4000000 → off % 4 = 0 → spaceOf off = .view n o →
    pageEn s .twc = true → viewAllowed s o = true → (s.run ≠ .boot ∨ s.level ≠ .observe) →
    (selection s n).valid = true → latchGroup o = none →
    exec (.tileWindowRead rq off) s =
      .next { s with out := .rdata rq off (viewWord (polySec s) (selTile s (selection s n)) o) :: s.out }) ∧
  (∀ (rq : Req) (off n o : Nat) (s : State), MayRead rq s → off < 0x4000000 → off % 4 = 0 → spaceOf off = .view n o →
    pageEn s .twc = true → viewAllowed s o = true → (selection s n).valid = false →
    exec (.tileWindowRead rq off) s = .next { s with out := .rdata rq off 0 :: s.out }) ∧
  (∀ (rq : Req) (off n o : Nat) (s : State), MayRead rq s → off < 0x4000000 → off % 4 = 0 → spaceOf off = .view n o →
    viewAllowed s o = false →
    exec (.tileWindowRead rq off) s = .next { denyDbg s with out := .rdata rq off 0 :: s.out }) ∧
  (∀ (rq : Req) (off n o : Nat) (s : State), MayRead rq s → off < 0x4000000 → off % 4 = 0 → spaceOf off = .view n o →
    o < 0x180000 → pageEn s .twc = true → viewAllowed s o = true → (selection s n).valid = true → s.run = .run →
    ∃ t, exec (.windowReadTimeout rq off) s = .next t ∧
      OnlyEvents (setReg .twc 0x010 (setBit (reg s .twc 0x010) 0 true) { s with out := .rdata rq off 0 :: s.out }) t) ∧
  (∀ (rq : Req) (off n o : Nat) (v : W32) (s : State), MayWrite rq s → off < 0x4000000 → off % 4 = 0 →
    spaceOf off = .view n o → viewKind o ≠ .reserved → s.level = .intrusive → s.run = .halt → pageEn s .twc = true →
    (selection s n).valid = true →
    (∀ t, viewWrite (selTile s (selection s n)) o v = some t →
      exec (.tileWindowWrite rq off v) s = .next (setSelTile (selection s n) t s)) ∧
    (viewWrite (selTile s (selection s n)) o v = none →
      exec (.tileWindowWrite rq off v) s =
        .next (setReg .twc 0x010 (setBit (reg s .twc 0x010) 31 true) s))) ∧
  (∀ (rq : Req) (off n o : Nat) (v : W32) (s : State), MayWrite rq s → off < 0x4000000 → off % 4 = 0 →
    spaceOf off = .view n o → viewKind o ≠ .reserved → ¬ (s.level = .intrusive ∧ s.run = .halt) →
    exec (.tileWindowWrite rq off v) s = .next (denyDbg s))

/-- SMBus accesses, the SRAM window, PLC_XL_IN and PEER_SEL. While the management complex runs: an SMBus read of an
aligned BAR0 offset whose access neither is denied nor sets ACC_ERR answers completion code 0, the offset and the
value the bus read gives, with the state of that read; an SMBus write likewise applies the bus write; a misaligned or
too high offset is answered with code 2 and changes nothing else. A write to the management SRAM window in Boot while
it is open changes that word alone; otherwise it sets ACC_ERR of MID. A write to PLC_XL_IN stores the selection and
puts the answer in PLC_XL_OUT; a write to PEER_SEL stores its writable bits; neither changes anything else. (The
model's choices it may rest on: log entry 119.) (derived: 19_host_interface_and_connectors.md R540, Table 19.7,
14_startup_and_reset.md R410, 08_placement_and_residency.md, 11_ngamor_links_and_jobs.md Table 11.7) -/
def Obligations.SidebandAndWindows : Prop :=
  (∀ (off : Nat) (s : State), powered s = true → off < 0x4000000 → off % 4 = 0 →
    smbusCc off (fun s => (busRead .smbus off s).2) s = 0 →
    ∃ t, exec (.smbusRegisterRead off) s = .next t ∧ t = { (busRead .smbus off s).2 with
      out := .mctp ([1, 0, 0, 0] ++ natLE 4 off ++ natLE 4 (busRead .smbus off s).1.toNat) ::
        (busRead .smbus off s).2.out }) ∧
  (∀ (off : Nat) (v : W32) (s : State), powered s = true → off < 0x4000000 → off % 4 = 0 →
    smbusCc off (busWrite .smbus off v) s = 0 →
    ∃ t, exec (.smbusRegisterWrite off v) s = .next t ∧ t = { busWrite .smbus off v s with
      out := .mctp ([2, 0, 0, 0] ++ natLE 4 off ++ natLE 4 v.toNat) :: (busWrite .smbus off v s).out }) ∧
  (∀ (off : Nat) (v : W32) (s : State), powered s = true → (0x4000000 ≤ off ∨ off % 4 ≠ 0) →
    exec (.smbusRegisterRead off) s = .next { s with out := .mctp ([1, 2, 0, 0] ++ natLE 4 off ++ natLE 4 0) :: s.out } ∧
    exec (.smbusRegisterWrite off v) s =
      .next { s with out := .mctp ([2, 2, 0, 0] ++ natLE 4 off ++ natLE 4 0) :: s.out }) ∧
  (∀ (rq : Req) (off : Nat) (v : W32) (s : State), MayWrite rq s → 0x800000 ≤ off → off < 0xA00000 →
    (s.run = .boot → s.winOpen = true → exec (.mgmtSramWindowWrite rq off v) s =
      .next { s with sram := mput 0 ((off - 0x800000) / 4) v s.sram }) ∧
    (¬ (s.run = .boot ∧ s.winOpen = true) → exec (.mgmtSramWindowWrite rq off v) s =
      .next (setReg .mid 0x010 (setBit (reg s .mid 0x010) 31 true) s))) ∧
  (∀ (rq : Req) (v : W32) (s : State), MayWrite rq s →
    ∃ t, exec (.plcXlIn rq v) s = .next t ∧ reg t .plc 0x064 = v &&& 0x8000FFFF ∧
      reg t .plc 0x068 = xlAnswer s (v &&& 0x8000FFFF) ∧
      ∃ r, t = { s with regs := r } ∧
        ∀ k, k ≠ pageBase .plc + 0x064 → k ≠ pageBase .plc + 0x068 → rget r k = rget s.regs k) ∧
  (∀ (rq : Req) (v : W32) (s : State), MayWrite rq s →
    exec (.peerSelWrite rq v) s = .next (setReg .rdc 0x220 (maskWrite (reg s .rdc 0x220) v 0x3FF) s))

/-- Compare timers. A write of the upper half of TMRn_CMP applies the pair, arms timer n when the value is nonzero and
disarms it when it is 0, and changes nothing else but the requester's held write. An armed timer whose value TMB_NOW
has reached sets its TMR_STS bit, disarms, and fires event source 8 + n; beside the event controller nothing else
changes. A timer that is not armed, or whose value lies ahead, does nothing. (The model's choices it may rest on: log
entry 3.) (derived: 17_registers_and_configuration.md R489, Table 17.9, 18_events_and_interrupts.md Table 18.1) -/
def Obligations.TimersArmAndFire : Prop :=
  (∀ (rq : Req) (n : Fin 4) (hi : W32) (s : State), MayWrite rq s →
    ∃ t, exec (.tmrCmpWrite rq n hi) s = .next t ∧
      reg64 t .tmb (0x050 + 8 * n.val) = pairValue s rq .tmb (0x050 + 8 * n.val) hi ∧
      t.armed.testBit n.val = decide (pairValue s rq .tmb (0x050 + 8 * n.val) hi ≠ 0) ∧
      (∀ m : Nat, m < 4 → m ≠ n.val → t.armed.testBit m = s.armed.testBit m) ∧
      ∃ r l a, t = { s with regs := r, wrHeld := l, armed := a } ∧
        ∀ k, k ≠ pageBase .tmb + (0x050 + 8 * n.val) → k ≠ pageBase .tmb + (0x054 + 8 * n.val) →
          rget r k = rget s.regs k) ∧
  (∀ (n : Fin 4) (s : State), powered s = true → s.armed.testBit n.val = true →
    reg64 s .tmb (0x050 + 8 * n.val) ≤ s.now % 2 ^ 64 →
    ∃ t, exec (.timerFire n) s = .next t ∧ t.armed.testBit n.val = false ∧
      bitOf (reg t .tmb 0x070) n.val = true ∧ bitOf (reg t .evc 0x100) (8 + n.val) = true ∧
      OnlyEvents (setReg .tmb 0x070 (setBit (reg s .tmb 0x070) n.val true) { s with armed := t.armed }) t) ∧
  (∀ (n : Fin 4) (s : State), s.armed.testBit n.val = false ∨ s.now % 2 ^ 64 < reg64 s .tmb (0x050 + 8 * n.val) →
    exec (.timerFire n) s = .next s)

/-- Pending bits. A firing sets its source's pending bit and no other. A write of PEND_SET is a firing of every written
source: their pending bits are set and the others keep their value. A write of PEND clears the written bits but for
the sources that fire in the same cycle, and clears no ERR_STS bit. A write of ERR_STS of any page clears no pending
bit. Beside the event controller nothing changes. (stated: R506) -/
def Obligations.PendingBits : Prop :=
  (∀ (n : Nat) (s : State), n < 1024 → ∀ (w : Fin 32) (i : Nat), i < 32 →
    bitOf (reg (fire n s) .evc (0x100 + 4 * w.val)) i =
      (decide (32 * w.val + i = n) || bitOf (reg s .evc (0x100 + 4 * w.val)) i)) ∧
  (∀ (rq : Req) (w : Fin 32) (v : W32) (s : State), MayWrite rq s →
    ∃ t, exec (.pendSetWrite rq w v) s = .next t ∧ OnlyEvents s t ∧
      t = ((List.range 32).filter fun i => bitOf v i).foldl (fun s i => fire (32 * w.val + i) s) s ∧
      (∀ i, i < 32 → bitOf (reg t .evc (0x100 + 4 * w.val)) i =
        (bitOf v i || bitOf (reg s .evc (0x100 + 4 * w.val)) i)) ∧
      (∀ x : Fin 32, x ≠ w → reg t .evc (0x100 + 4 * x.val) = reg s .evc (0x100 + 4 * x.val))) ∧
  (∀ (rq : Req) (w : Fin 32) (v fired : W32) (s : State), MayWrite rq s →
    ∃ t, exec (.pendClear rq w v fired) s = .next t ∧ OnlyEvents s t ∧
      (∀ i, i < 32 → bitOf (reg t .evc (0x100 + 4 * w.val)) i =
        (bitOf fired i || (bitOf (reg s .evc (0x100 + 4 * w.val)) i && !bitOf v i))) ∧
      (∀ x : Fin 32, x ≠ w → reg t .evc (0x100 + 4 * x.val) = reg s .evc (0x100 + 4 * x.val)) ∧
      (∀ pg, reg t pg 0x010 = reg s pg 0x010)) ∧
  (∀ (rq : Req) (pg : Page) (off : Nat) (v : W32) (s : State), MayWrite rq s → pageFitted s.code pg = true →
    off % 4 = 0 → off < 0x4000000 → spaceOf off = .reg pg 0x010 →
    ∃ t, exec (.registerWrite rq off v) s = .next t ∧
      (∀ i, i < 32 → bitOf (reg t pg 0x010) i = (bitOf (reg s pg 0x010) i && !bitOf v i)) ∧
      ∀ w : Fin 32, reg t .evc (0x100 + 4 * w.val) = reg s .evc (0x100 + 4 * w.val))

/-- Vector timers and MSI-X entries. A vector with firings counted whose TIME has passed returns its count to 0, sets its
CVPEND bit in each core its control word names and, where HOST is set and MSI-X deliverable and unmasked, sends the
message of its entry. Unmasking an MSI-X entry whose pending bit is set, with MSI-X deliverable, sends the entry's
message and clears the bit; with the bit clear it only unmasks. Beside the event controller and the messages out
nothing changes. (derived: 18_events_and_interrupts.md R512, R513, R514) -/
def Obligations.VectorsAndMsix : Prop :=
  (∀ (n : Fin 32) (s : State), powered s = true → (mget (0, 0) s.evc.vecs n.val).1 ≠ 0 →
    fld (vecCtl s n.val).toNat 15 0 * 1000 ≤ s.now - (mget (0, 0) s.evc.vecs n.val).2 →
    ∃ t, exec (.vectorTimeExpiry n) s = .next t ∧ OnlyEvents s t ∧ mget (0, 0) t.evc.vecs n.val = (0, 0) ∧
      bitOf t.evc.cvpend0 n.val = (bitOf (vecCtl s n.val) 30 || bitOf s.evc.cvpend0 n.val) ∧
      bitOf t.evc.cvpend1 n.val = (bitOf (vecCtl s n.val) 29 || bitOf s.evc.cvpend1 n.val) ∧
      (bitOf (vecCtl s n.val) 31 = true → s.host.msixEn = true → s.host.fmask = false → s.host.d3hot = false →
        s.host.bme = true → bitOf (reg s .evc (0x400 + 16 * n.val + 12)) 0 = false →
        t.out = .msix n.val (BitVec.ofNat 64 (reg64 s .evc (0x400 + 16 * n.val)))
          (reg s .evc (0x400 + 16 * n.val + 8)) :: s.out)) ∧
  (∀ (rq : Req) (n : Fin 32) (s : State), MayWrite rq s → bitOf (reg s .evc 0x600) n.val = true →
    s.host.msixEn = true → s.host.fmask = false → s.host.d3hot = false → s.host.bme = true →
    ∃ t, exec (.msixUnmask rq n) s = .next t ∧ bitOf (reg t .evc 0x600) n.val = false ∧
      bitOf (reg t .evc (0x400 + 16 * n.val + 12)) 0 = false ∧
      t.out = .msix n.val (BitVec.ofNat 64 (reg64 s .evc (0x400 + 16 * n.val)))
        (reg s .evc (0x400 + 16 * n.val + 8)) :: s.out ∧ OnlyEvents s t) ∧
  (∀ (rq : Req) (n : Fin 32) (s : State), MayWrite rq s → bitOf (reg s .evc 0x600) n.val = false →
    exec (.msixUnmask rq n) s = .next (setReg .evc (0x400 + 16 * n.val + 12) 0 s))

/-- The query unit of the counter generator. A write of CBG_QCTR3 while no query runs evaluates the block function under
the key in force on the four counter words, puts its four words into CBG_QOUT0 to CBG_QOUT3, sets DONE, keeps the unit
busy for 160 ns, and changes no other register and nothing else. A write of another counter word stores it while the
unit is idle. While a query runs any such write is discarded and QBUSY occurs. The key in force is the latched one, or
with no image loaded seed 0 and the job ID of the active bank. (That DONE stands in the register while BUSY hides it,
and the 160 ns, are the model's choice.) (The model's choices it may rest on: log entry 194.) (derived:
12_counter_generator.md R368, R375, Table 12.5) -/
def Obligations.CounterGeneratorQueries : Prop :=
  (∀ (rq : Req) (v : W32) (s : State), MayWrite rq s → qBusy s = false →
    ∃ t, exec (.cbgQuery rq v) s = .next t ∧
      (⟨reg t .cbg 0x068, reg t .cbg 0x06C, reg t .cbg 0x070, reg t .cbg 0x074⟩ : Quad) =
        cbgBlock (jobKey s) ⟨reg s .cbg 0x054, reg s .cbg 0x058, reg s .cbg 0x05C, v⟩ ∧
      reg t .cbg 0x060 = v ∧ bitOf (reg t .cbg 0x064) 0 = true ∧ qBusy t = true ∧ qBusy { t with now := t.now + 160 } = false ∧
      ∃ r q, t = { s with regs := r, qEnd := q } ∧ ∀ k, ¬ (pageBase .cbg + 0x060 ≤ k ∧ k ≤ pageBase .cbg + 0x074) →
        rget r k = rget s.regs k) ∧
  (∀ (rq : Req) (k : Fin 3) (v : W32) (s : State), MayWrite rq s → qBusy s = false →
    exec (.cbgQctrWrite rq k v) s = .next (setReg .cbg (0x054 + 4 * k.val) v s)) ∧
  (∀ (rq : Req) (k : Fin 3) (v : W32) (s : State), MayWrite rq s → qBusy s = true →
    exec (.cbgQuery rq v) s = .next (setErr .cbg 0 s) ∧ exec (.cbgQctrWrite rq k v) s = .next (setErr .cbg 0 s) ∧
      OnlyEvents (setReg .cbg 0x010 (setBit (reg s .cbg 0x010) 0 true) s) (setErr .cbg 0 s)) ∧
  (∀ s : State, s.image.isSome = true → jobKey s = mkKey s.keySeed s.keyJob) ∧
  (∀ s : State, s.image = none →
    jobKey s = mkKey 0 ((cfgv s .cbg 0x048).toNat + 2 ^ 32 * (cfgv s .cbg 0x04C).toNat))

/-- The block function is a bijection for a fixed key. For every key the block function maps the 128-bit counters one to
one onto the four output words: two different counters never give the same four words, and every four words are the
output of some counter. (derived: 12_counter_generator.md R368) -/
def Obligations.BlockFunctionIsABijection : Prop :=
  ∀ k : Key, (∀ c d : Quad, cbgBlock k c = cbgBlock k d → c = d) ∧ (∀ y : Quad, ∃ c, cbgBlock k c = y)

/-- NOP, FENCE and the release of a fence. A NOP or FENCE that is its stream's next record, all earlier records of the
stream complete, moves the stream past it and does nothing else. A FENCE, or a record with its fence flag, whose
stream has records at work makes the stream wait and does nothing else. A stream that waits, all its records complete,
is released: a FENCE issues with that. Moving past a record adds 1 and its extension records to the position, charges
the cycles the stream was active since its latest charge, 3 tokens each, and leaves the other streams and the rest of
the tile but for its count of tokens. (derived: 07_streams_and_setts.md R195, R206, R217, Table 7.4,
06_tick_and_contract.md R171) -/
def Obligations.SequencerRecords : Prop :=
  (∀ (u v : Nat) (st : Strm) (i : Img) (k : Nat) (r : OpRec) (s : State), NextIs s u v st 0x00 i k r →
    exec (.nop u v st) s = .next (setTile u v (stepPast s.now st r (tile s u v)) s)) ∧
  (∀ (u v : Nat) (st : Strm) (i : Img) (k : Nat) (r : OpRec) (s : State), NextIs s u v st 0x01 i k r →
    exec (.fence u v st) s = .next (setTile u v (stepPast s.now st r (tile s u v)) s)) ∧
  (∀ (u v : Nat) (st : Strm) (i : Img) (k : Nat) (r : OpRec) (s : State), nextRec s u v st = some (i, k, r) →
    strmDone (tile s u v) st = false →
    (r.opc = 0x01 → exec (.fence u v st) s = .next (setTile u v
      (setCtx st { getCtx (tile s u v) st with fenceWait := true } (tile s u v)) s)) ∧
    (r.opc = 0x00 → r.fence = true → exec (.nop u v st) s = .next (setTile u v
      (setCtx st { getCtx (tile s u v) st with fenceWait := true } (tile s u v)) s))) ∧
  (∀ (u v : Nat) (st : Strm) (i : Img) (k : Nat) (r : OpRec) (s : State), NextIs s u v st 0x01 i k r →
    (getCtx (tile s u v) st).fenceWait = true →
    ∃ t, exec (.fenceRelease u v st) s = .next t ∧ OnlyTile u v s t ∧ tile t u v = stepPast s.now st r (tile s u v)) ∧
  (∀ (now : Nat) (st : Strm) (r : OpRec) (a : Tile),
    let busy (n : Nat) : Nat := if r.opc = 0x04 then 0 else 3 * n
    getCtx (stepPast now st r a) st = { getCtx a st with
      pos := (getCtx a st).pos + 1 + extRecs r
      issued := (getCtx a st).issued + 1
      fenceWait := false
      act := if r.opc = 0x04 then (getCtx a st).act else some (now + 1) } ∧
    (stepPast now st r a).tok = a.tok + busy (now + 1 - (getCtx a st).act.getD now) ∧
    (∀ st', st' ≠ st → getCtx (stepPast now st r a) st' = getCtx a st') ∧
    ∃ c n y h, stepPast now st r a = setCtx st c { a with
      tok := n
      cyc := y
      tokHi := h })

/-- WAIT on a sett. A WAIT that is its stream's next record moves the stream past it and acts on sett number k of its own
tile: with the stream's bit of T set the bit is cleared and the stream goes on; otherwise with COUNT above 0 COUNT
drops by 1 and the stream goes on; otherwise the stream joins the end of the waiter queue and sleeps. No other sett,
stream, tile or memory changes; the tile's count of tokens may. (derived: 07_streams_and_setts.md R210) -/
def Obligations.WaitOnASett : Prop :=
  ∀ (u v : Nat) (st : Strm) (i : Img) (k : Nat) (r : OpRec) (s : State), NextIs s u v st 0x03 i k r →
    ∃ t, exec (.wait u v st) s = .next t ∧ OnlyTile u v s t ∧
      let a := tile s u v
      let b := tile t u v
      let n := r.p8 52 % 32
      let x := mget Sett.blank a.setts n
      (∃ c y n z h, b = setCtx st c { a with
        setts := y
        tok := n
        cyc := z
        tokHi := h }) ∧ (getCtx b st).pos = (getCtx a st).pos + 1 ∧
      (∀ j, j ≠ n → mget Sett.blank b.setts j = mget Sett.blank a.setts j) ∧
      (x.t / strmBit st % 2 = 1 → mget Sett.blank b.setts n = { x with t := x.t - strmBit st } ∧
        (getCtx b st).sleep = none) ∧
      (x.t / strmBit st % 2 = 0 → 0 < x.count → mget Sett.blank b.setts n = { x with count := x.count - 1 } ∧
        (getCtx b st).sleep = none) ∧
      (x.t / strmBit st % 2 = 0 → x.count = 0 → mget Sett.blank b.setts n = { x with queue := x.queue ++ [st] } ∧
        (getCtx b st).sleep = some n)

/-- SIGNAL on a sett of the own tile. A SIGNAL to its own tile, its stream's next record with all earlier ones complete,
moves the stream past it and acts on sett number k: untargeted it releases the first waiter, or raises COUNT below
65,535; targeted at X it releases X from the queue, else sets T[X], else raises COUNT and SPILL. The last-signaller
record is replaced, at most one stream wakes, and nothing else changes but PRT_COUNT and the note of perturbation
values in force. (derived: 07_streams_and_setts.md R211) -/
def Obligations.SignalOnASett : Prop :=
  ∀ (u v : Nat) (st : Strm) (i : Img) (k : Nat) (r : OpRec) (s : State), NextIs s u v st 0x02 i k r →
    (r.p8 53).testBit 2 = false → (mget Sett.blank (tile s u v).setts (r.p8 52 % 32)).count < 65535 →
    ∃ t, exec (.signal u v st) s = .next t ∧
      (∃ m q a, t = { s with tiles := m, regs := q, asq := { s.asq with prtVals := a } } ∧
        (∀ j, j ≠ tileKey u v → mget Tile.blank m j = mget Tile.blank s.tiles j) ∧
        ∀ j, j ≠ pageBase .dbg + 0x070 → rget q j = rget s.regs j) ∧
      let a := tile s u v
      let b := tile t u v
      let n := r.p8 52 % 32
      let x := settLast ⟨u, v, strmCode st, bodyTick s⟩ (mget Sett.blank a.setts n)
      let woken (w : Strm) : Prop := (getCtx b w).sleep = none ∧ ∀ w', w' ≠ w → (getCtx b w').sleep = (getCtx a w').sleep
      let asleep : Prop := ∀ w, (getCtx b w).sleep = (getCtx a w).sleep
      (getCtx b st).pos = (getCtx a st).pos + 1 ∧
      (∀ j, j ≠ n → mget Sett.blank b.setts j = mget Sett.blank a.setts j) ∧
      (strmOf (r.p8 53 % 4) = none → x.queue = [] → mget Sett.blank b.setts n = { x with count := x.count + 1 } ∧ asleep) ∧
      (∀ w q, strmOf (r.p8 53 % 4) = none → x.queue = w :: q → mget Sett.blank b.setts n = { x with queue := q } ∧ woken w) ∧
      (∀ w, strmOf (r.p8 53 % 4) = some w → w ∈ x.queue →
        mget Sett.blank b.setts n = { x with queue := x.queue.erase w } ∧ woken w) ∧
      (∀ w, strmOf (r.p8 53 % 4) = some w → w ∉ x.queue → x.t / strmBit w % 2 = 0 →
        mget Sett.blank b.setts n = { x with t := x.t + strmBit w } ∧ asleep) ∧
      (∀ w, strmOf (r.p8 53 % 4) = some w → w ∉ x.queue → x.t / strmBit w % 2 = 1 →
        mget Sett.blank b.setts n = { x with count := x.count + 1, spill := min (x.spill + 1) 255 } ∧ asleep)

/-- A SIGNAL that would raise COUNT above 65,535. Outside Fault and with no LOAD under way, a signal that would raise the
COUNT of a sett that stands at 65,535 leaves it there and sets the SAT flag; that is contract fault 9, recorded in
CONTRACT_FAULTS and, as the first fault, in FAULT_CAUSE; the last-signaller record is replaced as by any signal.
(Stated for an untargeted signal that finds no waiter and a targeted one whose bit is set.) (stated: R213) -/
def Obligations.SettSaturation : Prop :=
  ∀ (u v k : Nat) (tgt : Option Strm) (w : Signaller) (opIdx : Nat) (s : State),
    s.loading = false → s.run ≠ .fault → (mget Sett.blank (tile s u v).setts k).count = 65535 →
    (settSignal tgt (mget Sett.blank (tile s u v).setts k)).2 = none →
    (∀ st, tgt = some st → (mget Sett.blank (tile s u v).setts k).t / strmBit st % 2 = 1) →
    let x := mget Sett.blank (tile s u v).setts k
    let t := signalTile u v k tgt w opIdx s
    (mget Sett.blank (tile t u v).setts k).count = 65535 ∧ (mget Sett.blank (tile t u v).setts k).sat = true ∧
    (mget Sett.blank (tile t u v).setts k).lsU = w.u ∧ (mget Sett.blank (tile t u v).setts k).lsV = w.v ∧
    (mget Sett.blank (tile t u v).setts k).lsStrm = w.strm ∧ (mget Sett.blank (tile t u v).setts k).lsTick = w.tick ∧
    (mget Sett.blank (tile t u v).setts k).queue = x.queue ∧ (mget Sett.blank (tile t u v).setts k).t = x.t ∧
    bitOf (reg t .asq 0x010) 9 = true ∧ t.asq.contract = true ∧
    (pageFrz s .asq = false → reg t .asq 0x07C = satInc (reg s .asq 0x07C)) ∧
    (faultValid s = false → reg t .asq 0x068 = w32 (2 ^ 31 + 9))

/-- SETT_TIMEOUT, LADDER_END and BARRIER. In Run a stream that has slept on a sett for 2^SETT_TMO ticks sets that sett's
TMO flag, calls a halt for the next tick boundary and voids the step; nothing else changes. A LADDER_END that is its
stream's next record moves the stream past it, makes the unit's decision due k_d tick records later where none was
due, and clears the tile's overflow causes of the unit. A BARRIER moves past and makes the stream wait for the combine
of its index, unless that completes with it and frees every stream. Every tile keeps its memories, setts and
operations through both, and the parameter store is unchanged. (The model's choices it may rest on: log entry 66.)
(derived: 07_streams_and_setts.md R215, 06_tick_and_contract.md R180, 05_wafer_network.md R142,
15_faults_and_recovery.md R431) -/
def Obligations.TimeoutLadderEndBarrier : Prop :=
  (∀ (u v : Nat) (st : Strm) (i : Img) (k : Nat) (s : State), s.image = some i → s.run = .run →
    (getCtx (tile s u v) st).sleep = some k → 2 ^ i.settTmo ≤ (getCtx (tile s u v) st).slept →
    ∃ t, exec (.settTimeout u v st) s = .next t ∧ t.asq = { s.asq with
        haltPend := true
        voided := true
        halted := true
        haltHops := s.asq.haltHops + 1
        haltFrom := if inImage s u v then (u, v) :: s.asq.haltFrom else s.asq.haltFrom } ∧
      OnlyTile u v { s with asq := t.asq } t ∧
      ∃ x, x = { mget Sett.blank (tile s u v).setts k with tmo := true } ∧
        tile t u v = { tile s u v with setts := mput Sett.blank k x (tile s u v).setts }) ∧
  (∀ (u v : Nat) (st : Strm) (i : Img) (k : Nat) (r : OpRec) (s : State), NextIs s u v st 0x04 i k r →
    ∃ t, exec (.ladderEnd u v st) s = .next t ∧
      (∃ m a q e o, t = { s with tiles := m, asq := a, regs := q, evc := e, out := o }) ∧
      (getCtx (tile t u v) st).pos = (getCtx (tile s u v) st).pos + 1 ∧ mget 0 (tile t u v).ovf r.unit = 0 ∧
      ((unitSt s r.unit).due = none → (unitSt t r.unit).due = some (kd i (ncomb i r.unit))) ∧
      (∀ d, (unitSt s r.unit).due = some d → (unitSt t r.unit).due = some d) ∧
      (∀ j, (mget Tile.blank t.tiles j).sram = (mget Tile.blank s.tiles j).sram ∧
        (mget Tile.blank t.tiles j).acc = (mget Tile.blank s.tiles j).acc ∧
        (mget Tile.blank t.tiles j).setts = (mget Tile.blank s.tiles j).setts ∧
        (mget Tile.blank t.tiles j).ops = (mget Tile.blank s.tiles j).ops)) ∧
  (∀ (u v : Nat) (st : Strm) (i : Img) (k : Nat) (r : OpRec) (s : State), NextIs s u v st 0x05 i k r →
    ∃ t, exec (.barrier u v st) s = .next t ∧ (∃ m a, t = { s with tiles := m, asq := a }) ∧
      (getCtx (tile t u v) st).pos = (getCtx (tile s u v) st).pos + 1 ∧
      ((getCtx (tile t u v) st).barrier = some (r.p16 54) ∨
        ∀ x y st', inImage s x y = true → (getCtx (tile t x y) st').barrier ≠ some (r.p16 54)) ∧
      (∀ j, (mget Tile.blank t.tiles j).sram = (mget Tile.blank s.tiles j).sram ∧
        (mget Tile.blank t.tiles j).acc = (mget Tile.blank s.tiles j).acc ∧
        (mget Tile.blank t.tiles j).setts = (mget Tile.blank s.tiles j).setts ∧
        (mget Tile.blank t.tiles j).ops = (mget Tile.blank s.tiles j).ops))

/-- Bulk flits at their destination. An intact unicast flit at the router of its destination tile, not fenced, that no
older flit holds up and that has its departure in L mode, with STRM below 3 and SKW 0 and its line inside the gallery
window, writes its 64 bytes to that line, clears the line's poison, counts a landing when LAST is set and costs 2
tokens; nothing else of the tile's memories and nothing else of the module changes. With SKW 1 and no receiver armed
it waits in the receive queue. A multicast flit at a leaf of its tree does the same, and so does a flit held in an
input buffer when a credit returns, where it goes first and may advance. (The model's choices it may rest on: log
entries 67, 186.) (derived: 05_wafer_network.md R123, R126, R127, R128, R136, R139, 07_streams_and_setts.md R198,
06_tick_and_contract.md R167) -/
def Obligations.BulkFlitsLand : Prop :=
  (∀ (u v : Nat) (p : Port) (f : Flit) (i : Img) (s : State), FlitGood s i u v p f 0 →
    BulkGoes s i u v p f → fld f.hdr.toNat 45 38 = u → fld f.hdr.toNat 37 30 = v → (bulkFields f).2.1 ≠ 3 →
    (tile s u v).fenced = false →
    ((bulkFields f).2.2.2 = false → inWindow (galleryOf i u v).2 (bulkFields f).1 = true → f.pay.length = 64 →
      ∃ t, exec (.bulkUnicastFlit u v p f) s = .next t ∧ OnlyTile u v s t ∧
        LineWritten (tile s u v) (tile t u v) (bulkFields f).1 (bulkFields f).2.1 (bulkFields f).2.2.1 f.pay) ∧
    ((bulkFields f).2.2.2 = true → (tile s u v).ops = [] → (tile s u v).rxq.length < 64 →
      ∃ t d, exec (.bulkUnicastFlit u v p f) s = .next t ∧ OnlyTile u v s t ∧
        tile t u v = { tile s u v with
          rxq := (tile s u v).rxq ++ [f]
          dep := d })) ∧
  (∀ (u v : Nat) (p : Port) (f : Flit) (i : Img) (s : State), FlitGood s i u v p f 1 →
    BulkGoes s i u v p f → treeEntry i (fld f.hdr.toNat 45 38) u v % 8 = portNum p → treeOuts (treeEntry i (fld f.hdr.toNat 45 38) u v) = [.l] →
    (bulkFields f).2.1 ≠ 3 → (tile s u v).fenced = false → (bulkFields f).2.2.2 = false →
    inWindow (galleryOf i u v).2 (bulkFields f).1 = true → f.pay.length = 64 →
    ∃ t, exec (.bulkMulticastFlit u v p f) s = .next t ∧ OnlyTile u v s t ∧
      LineWritten (tile s u v) (tile t u v) (bulkFields f).1 (bulkFields f).2.1 (bulkFields f).2.2.1 f.pay) ∧
  (∀ (u v : Nat) (p : Port) (f : Flit) (i : Img) (b : Tile) (s : State), FlitGood s i u v p f 0 →
    takeBulk p (tile s u v) = some (f, b) → fld f.hdr.toNat 45 38 = u → fld f.hdr.toNat 37 30 = v →
    (∀ q ∈ (tile s u v).ctl, q.1 = p → ctlGoes s u v q = false) → goesFirst s i u v (tile s u v).bulk.length (p, f) = (p, f) → advances s i u v p none f = true →
    (∀ o ∈ (tile s u v).ops, isSend o = false) →
    (bulkFields f).2.1 ≠ 3 → (tile s u v).fenced = false → (bulkFields f).2.2.2 = false →
    inWindow (galleryOf i u v).2 (bulkFields f).1 = true → f.pay.length = 64 →
    ∃ t, exec (.creditReturn u v p) s = .next t ∧ OnlyTile u v s t ∧
      (tile t u v).bulk = (tile s u v).bulk.erase (p, f) ∧
      LineWritten b (tile t u v) (bulkFields f).1 (bulkFields f).2.1 (bulkFields f).2.2.1 f.pay)

/-- SIGNAL, COMBINE and HALT flits. An intact SIGNAL flit at its tile, which holds no other control flit, signals the
named sett as any signal does; of the tile's counters only CTL_WAIT_MAX may change. A COMBINE_UP flit from a child
merges OR of flags and maxima into the router's entry of its index while inputs are missing (one from a part of the
tree that is wholly fenced is not); at the root, with all inputs there, the result reaches the sequencer and frees
every barrier on the index, and every tile keeps its memories, setts and operations. A COMBINE_DOWN flit from the
router's parent does the same with its payload for the tiles below the router. A HALT flit not yet forwarded reaches
every tile of the image, and one of class 1 with cause 0 to 11 records that contract fault; one already forwarded
changes nothing. The element-wise maximum that routers form of a combine's maxima is commutative and associative, and
a merge of a list with itself is that list, so the result is the same in any order of merging. (The model's choices it
may rest on: log entries 67, 135, 142, 186.) (derived: 05_wafer_network.md R127, R129, R134, R142, R144,
07_streams_and_setts.md R211, R216, 05_wafer_network.md R142) -/
def Obligations.ControlFlits : Prop :=
  (∀ (u v : Nat) (p : Port) (f : Flit) (i : Img) (s : State), FlitGood s i u v p f 2 → ctype f = 0 → signalOk f = true →
    byteAt f.pay 5 = 0 → fld f.hdr.toNat 45 38 = u → fld f.hdr.toNat 37 30 = v → (tile s u v).fenced = false →
    (tile s u v).ctl = [] →
    ∃ a c, OnlyTile u v s a ∧ tile a u v = { tile s u v with ctr := c } ∧
      (∀ o, o ≠ 0x64 → mget 0 c o = mget 0 (tile s u v).ctr o) ∧
      exec (.signalFlit u v p f) s = .next (signalTile u v (byteAt f.pay 0) (strmOf (byteAt f.pay 1))
        ⟨byteAt f.pay 3, byteAt f.pay 4, byteAt f.pay 2, fieldLE f.pay 8 4⟩ 0 a)) ∧
  (∀ (u v : Nat) (p : Port) (f : Flit) (i : Img) (s : State), FlitGood s i u v p f 2 → ctype f = 1 → p ∈ combKids i u v →
    let n := (combFields f).1
    let c := ((tile s u v).comb.find? fun c => c.idx = n).getD ⟨n, 0, [], []⟩
    let g := addNew p c.got
    let full := (∀ q ∈ combKids i u v, q ∈ g ∨
      silent (hopFuel s) s i (beyond u v q).1 (beyond u v q).2.1 = true) ∧ ((tile s u v).fenced = true ∨ Port.l ∈ g)
    let fl := c.flags ||| (combFields f).2.1
    let mx := mergeMax c.maxima (combFields f).2.2
    (¬ full → ∃ t, exec (.combineUp u v p f) s = .next t ∧ OnlyTile u v s t ∧ TilesKeep s t ∧
      (tile t u v).comb = ((tile s u v).comb.filter fun c => c.idx ≠ n) ++ [⟨n, fl, mx, g⟩]) ∧
    (full → combUp i u v = none → ∃ t, exec (.combineUp u v p f) s = .next t ∧ TilesKeep s t ∧
      (∃ m, t = { s with tiles := m, asq := { s.asq with
        results := mput (0, []) n (fl % 65536, mx) s.asq.results } }) ∧
      ∀ x y st, inImage s x y = true → (getCtx (tile t x y) st).barrier ≠ some n)) ∧
  (∀ (u v : Nat) (p : Port) (f : Flit) (i : Img) (s : State), FlitGood s i u v p f 2 → ctype f = 2 →
    (combUp i u v).getD .l = p →
    ∃ t, exec (.combineDown u v p f) s = .next t ∧ TilesKeep s t ∧
      (∃ m, t = { s with tiles := m, asq := { s.asq with
        results := mput (0, []) (combFields f).1 ((combFields f).2.1 % 65536, (combFields f).2.2) s.asq.results } }) ∧
      ∀ x y st, inImage s x y = true → combBelow i u v x y = true →
        (getCtx (tile t x y) st).barrier ≠ some (combFields f).1) ∧
  (∀ (u v : Nat) (p : Port) (f : Flit) (i : Img) (s : State), FlitGood s i u v p f 2 → ctype f = 3 →
    1 ≤ byteAt f.pay 0 → byteAt f.pay 0 ≤ 5 →
    (f.pay.take 16 ∈ (tile s u v).halts → exec (.haltFlit u v p f) s = .next s) ∧
    (f.pay.take 16 ∉ (tile s u v).halts →
      ∃ t, exec (.haltFlit u v p f) s = .next t ∧
        (s.run = .run ∨ byteAt f.pay 0 ≠ 2 → ∀ x y, x < i.reqU → y < i.reqV → f.pay.take 16 ∈ (tile t x y).halts) ∧
        (byteAt f.pay 0 = 1 → byteAt f.pay 1 ≤ 11 → (∀ e ∈ s.tiles, f.pay.take 16 ∉ e.2.halts) →
          bitOf (reg t .asq 0x010) (byteAt f.pay 1) = true ∧ t.asq.contract = true))) ∧
  (∀ a b : List W32, mergeMax a b = mergeMax b a) ∧
  (∀ a b c : List W32, mergeMax (mergeMax a b) c = mergeMax a (mergeMax b c)) ∧
  (∀ a : List W32, mergeMax a a = a) ∧
  (∀ (a b : List W32) (k : Nat), k < max a.length b.length →
    ((mergeMax a b).getD k 0).toNat = max (a.getD k 0).toNat (b.getD k 0).toNat)

/-- Faults that the routers report. In Run: a flit whose CRC does not match, or an alive wire that is low, fences the
sending neighbour, calls a halt, voids the step and puts the recovery state at 1; the flit is lost. A watchdog report
in Q mode is contract fault 5; the expiry of a wait in L mode discards the flit that waited and, where no halt has
been called, is contract fault 0; both set their ASQ error bit and call a halt. (The model's choices it may rest on:
log entries 31, 80.) (derived: 05_wafer_network.md R126, 06_tick_and_contract.md R178, R188, R189,
15_faults_and_recovery.md R430, R432, Table 15.2) -/
def Obligations.NetworkFaults : Prop :=
  (∀ (u v : Nat) (p : Port) (f : Flit) (i : Img) (x y : Nat) (s : State), s.image = some i → s.loading = false →
    s.run = .run → inImage s u v = true → flitCrc f ≠ f.crc → senderOf s u v p = [(x, y)] → inImage s x y = true →
    let good (t : State) : Prop := (tile t x y).fenced = true ∧ t.asq.haltPend = true ∧ t.asq.voided = true ∧
      recState t = 1 ∧ TilesKeep s t
    (∃ t, exec (.bulkUnicastFlit u v p f) s = .next t ∧ good t) ∧
    (∃ t, exec (.bulkMulticastFlit u v p f) s = .next t ∧ good t) ∧
    (ctlRoom (tile s u v) p = true → ∃ t, exec (.signalFlit u v p f) s = .next t ∧ good t) ∧
    (ctlRoom (tile s u v) p = true → ∃ t, exec (.combineUp u v p f) s = .next t ∧ good t) ∧
    (ctlRoom (tile s u v) p = true → ∃ t, exec (.haltFlit u v p f) s = .next t ∧ good t) ∧
    (p ≠ .l → hasNbr i u v p = true → ∃ t, exec (.aliveWireLow u v p) s = .next t ∧ good t)) ∧
  (∀ (u v : Nat) (i : Img) (s : State), s.image = some i → i.lmode = false → s.run = .run → inImage s u v = true →
    ∃ t, exec (.deadlock u v) s = .next t ∧ bitOf (reg t .asq 0x010) 5 = true ∧ t.asq.contract = true ∧
      t.asq.haltPend = true ∧ t.tiles = s.tiles) ∧
  (∀ (u v : Nat) (p : Port) (f : Flit) (b : Tile) (i : Img) (s : State), s.image = some i → i.lmode = true →
    s.run = .run → takeBulk p (tile s u v) = some (f, b) → s.asq.halted = false →
    (∀ o ∈ (tile s u v).ops, isSend o = false) →
    ∃ t, exec (.slotWaitExpiry u v p) s = .next t ∧ bitOf (reg t .asq 0x010) 0 = true ∧ t.asq.contract = true ∧
      t.asq.haltPend = true ∧ (tile t u v).bulk = (tile s u v).bulk.erase (p, f) ∧ TilesKeep s t)

/-- MATMUL, MATVEC, XDOT, XREAD, XCLR. A heavy operation that is its stream's next record issues: the stream moves past
the record and the operation waits with the results that the rules give: of a MATMUL and a MATVEC computed from the
tile as the record finds it, an XDOT the lanes it names, an XREAD the bytes of the lanes of its mask, an XCLR eight
empty lanes. Until it completes no memory, accumulator or register of the tile shows them. (The model's choices it may
rest on: log entries 54, 57, 58, 59, 125, 126, 127, 179, 180, 181, 182, 187.) (derived: 02_tile_and_cubes.md R49, R58,
R65, R66, R67, R68, 07_streams_and_setts.md R195, R217) -/
def Obligations.HeavyOperationsIssue : Prop :=
  (∀ (u v : Nat) (st : Strm) (i : Img) (k : Nat) (r : OpRec) (s : State), NextIs s u v st 0x10 i k r → (bit2 r && forcedSat s r.unit) = false →
    let c := hctx (passed u v st r s) u v st i r (r.p16 62)
    ∃ t, exec (.matmul u v st) s = .next t ∧ Issued u v st i k r (stepPast s.now st r (tile s u v)) 0
      (matmulReads r c.g)
      ((matmulWr c false).map (owlAt k)) s t) ∧
  (∀ (u v : Nat) (st : Strm) (i : Img) (k : Nat) (r : OpRec) (s : State), NextIs s u v st 0x11 i k r → (bit2 r && forcedSat s r.unit) = false →
    let c := hctx (passed u v st r s) u v st i r (r.p16 62)
    ∃ t, exec (.matvec u v st) s = .next t ∧ Issued u v st i k r (stepPast s.now st r (tile s u v)) 0
      (matvecReads r c.g) ((matvecWr c false).map (owlAt k)) s t) ∧
  (∀ (u v : Nat) (st : Strm) (i : Img) (k : Nat) (r : OpRec) (s : State), NextIs s u v st 0x12 i k r →
    let c := hctx (passed u v st r s) u v st i r 0
    ∃ t, exec (.xdot u v st) s = .next t ∧ ∃ wr, Issued u v st i k r (stepPast s.now st r (tile s u v)) 0
      (xdotReads r c.g) wr s t ∧
      ∀ w, w ∈ wr ↔ ∃ x, x < min (r.p8 53) 8 ∧ w = .xa x ((List.range (r.p32 56)).foldl (fun l y =>
        xaAdd l (mulV (exactElem c r.o0 0 y (viewElem c r.o0 0 y)) (exactElem c r.o1 x y (viewElem c r.o1 y x))))
        (if (r.p8 52).testBit 0 then mget XaLane.blank (tile s u v).xa x else XaLane.blank))) ∧
  (∀ (u v : Nat) (st : Strm) (i : Img) (k : Nat) (r : OpRec) (s : State), NextIs s u v st 0x13 i k r →
    ∃ t, exec (.xread u v st) s = .next t ∧ ∃ wr, Issued u v st i k r (stepPast s.now st r (tile s u v)) 0 [] wr s t ∧
      let lanes := (List.range 8).filter fun l => (r.p8 53).testBit l
      let a := 64 * absLine r (galleryOf i u v).2 r.o2.addr
      ∀ n l, lanes[n]? = some l →
        ((r.p8 52).testBit 0 = true → Wr.sram (a + 80 * n) (xaRaw (mget XaLane.blank (tile s u v).xa l)) ∈ wr) ∧
        ((r.p8 52).testBit 0 = false →
          Wr.sram (a + 4 * n) (natLE 4 (xaRound (mget XaLane.blank (tile s u v).xa l)).1.toNat) ∈ wr)) ∧
  (∀ (u v : Nat) (st : Strm) (i : Img) (k : Nat) (r : OpRec) (s : State), NextIs s u v st 0x25 i k r →
    ∃ t, exec (.xclr u v st) s = .next t ∧ Issued u v st i k r (stepPast s.now st r (tile s u v)) 0 []
      ((List.range 8).map fun l => Wr.xa l XaLane.blank) s t)

/-- VLOAD, VMAP, VRED, VPOLY, SCALEUPD. A record of the vector unit that is its stream's next record issues: a VLOAD with
the codes of its source for the vector register, its format and its scale; a VMAP and a VRED with the results of their
body, which end with the registers of the vector unit; a VPOLY with one conversion or more for each element and its
table marked loaded, as a body's POLY marks the tables it uses; a SCALEUPD notes its unit and its number of records
and has no results of its own, and with a line of a record outside the gallery window it is contract fault 6. Nothing
of the tile shows the results until completion. (The model's choices it may rest on: log entries 54, 60, 61, 126, 130,
132, 178.) (derived: 02_tile_and_cubes.md R59, R61, R62, R63, R68, 04_numerics_guard_and_scales.md R116,
07_streams_and_setts.md R195, R206, R217) -/
def Obligations.VectorRecordsIssue : Prop :=
  (∀ (u v : Nat) (st : Strm) (i : Img) (k : Nat) (r : OpRec) (s : State), NextIs s u v st 0x20 i k r →
    ∃ t, exec (.vload u v st) s = .next t ∧ ∃ wr, Issued u v st i k r (stepPast s.now st r (tile s u v)) 0
      (vloadReads r (galleryOf i u v).2) wr s t ∧
      (∃ x y, Wr.vfmt r.o0.fmt (if r.o0.scl = 1 ∨ r.o0.scl = 2 then (scaleAt (tile s u v) r (galleryOf i u v).2 r.o0 1 0).1 else one32) x y ∈ wr) ∧
      (sramBits r.o0.fmt = 8 → ∀ x, x < min (r.p16 56) 4096 →
        Wr.vreg x (BitVec.ofNat 8 (readCode (tile s u v) (galleryOf i u v).2 r.o0.fmt
          (elemKey r (galleryOf i u v).2 r.o0 0 (r.p16 54 + x)))) ∈ wr)) ∧
  (∀ (u v : Nat) (st : Strm) (i : Img) (k : Nat) (r : OpRec) (s : State), NextIs s u v st 0x21 i k r →
    let g := (galleryOf i u v).2
    let ws := bodyWords i st k r
    ∃ t, exec (.vmap u v st) s = .next t ∧ ∃ wr x, Issued u v st i k r
      { stepPast s.now st r (tile s u v) with poly := (tile s u v).poly ||| bodyTables r ws } 0
      (firstReads r g (loadsOf r ws) (r.p32 56) ++ bodyMuls r g ws) (wr ++ vuEnd x) s t ∧
      (r.p32 56 = 0 → wr = [] ∧ x = tileVu (tile s u v)) ∧
      (1 ≤ r.p32 56 → r.p32 56 ≤ 64 →
        let q := runBody ⟨i, r, u, v, keyNow s, arrStep s, r.p32 56, 0, 0, 0⟩ ws
          ⟨tileVu (tile s u v), stepPast s.now st r (tile s u v), []⟩
        wr = q.wr ∧ x = q.x)) ∧
  (∀ (u v : Nat) (st : Strm) (i : Img) (k : Nat) (r : OpRec) (s : State), NextIs s u v st 0x22 i k r →
    let g := (galleryOf i u v).2
    let ws := bodyWords i st k r
    ∃ t, exec (.vred u v st) s = .next t ∧ ∃ wr x, Issued u v st i k r
      { stepPast s.now st r (tile s u v) with poly := (tile s u v).poly ||| bodyTables r ws } 0
      (firstReads r g (loadsOf r ws) (r.p16 54 * r.p32 56) ++ bodyMuls r g ws ++ mulLines r g r.o2) (wr ++ vuEnd x) s t ∧
      (r.p16 54 = 1 → 1 ≤ r.p32 56 → r.p32 56 ≤ 64 → r.o2.scl = 0 → r.sosid = 0xFFFF → r.o2.est = false →
        let q := runBody ⟨i, r, u, v, keyNow s, arrStep s, r.p32 56, 0, 0, 0⟩ ws
          ⟨tileVu (tile s u v), stepPast s.now st r (tile s u v), []⟩
        x = q.x ∧ (∀ w ∈ q.wr, w ∈ wr) ∧
        Wr.code (elemKey r g r.o2 0 0) r.o2.fmt
          (encCode r.o2.fmt .rne (dec32 (rowReduce (fld (r.p8 60) 2 1) (r.p32 56) [q.x.get 0]))).1 ∈ wr)) ∧
  (∀ (u v : Nat) (st : Strm) (i : Img) (k : Nat) (r : OpRec) (s : State), NextIs s u v st 0x23 i k r →
    ∃ t, exec (.vpoly u v st) s = .next t ∧ ∃ wr, Issued u v st i k r
      { stepPast s.now st r (tile s u v) with poly := (tile s u v).poly ||| 2 ^ (r.p8 53 % 2) } 0
      (firstReads r (galleryOf i u v).2 [r.o0] (r.p32 56) ++ mulLines r (galleryOf i u v).2 r.o2) wr s t ∧
      (r.o2.scl = 0 → r.sro = false → ∀ e, e < r.p32 56 →
        Wr.code (elemKey r (galleryOf i u v).2 r.o2 (e / max 1 r.o2.cols) (e % max 1 r.o2.cols)) r.o2.fmt
          (encCode r.o2.fmt .rne (dec32 (polyW { Config.polyTable i.polys (r.p8 53 % 2) with degree := min (r.p8 52) 5 }
            (operandW (tile s u v) r (galleryOf i u v).2 r.o0 (e / max 1 r.o0.cols) (e % max 1 r.o0.cols)).1))).1 ∈ wr)) ∧
  (∀ (u v : Nat) (st : Strm) (i : Img) (k : Nat) (r : OpRec) (s : State), NextIs s u v st 0x24 i k r →
    let g := (galleryOf i u v).2
    let inside : Prop := ∀ q ∈ i.scales, q.unit = r.unit → ∀ n, n < recordLen1 q → inWindow g (g.wlo + q.sref + n) = true
    ∃ t, exec (.scaleupd u v st) s = .next t ∧
      (inside → Issued u v st i k r
        { stepPast s.now st r (tile s u v) with supd := addNew (r.unit + 4096 * r.p16 54) (tile s u v).supd } 0 [] [] s t) ∧
      (¬ inside → bitOf (reg t .asq 0x010) 6 = true ∧ r.unit + 4096 * r.p16 54 ∈ (tile t u v).supd))

/-- LCOPY, TAPIN, TAPOUT, SEND, MSEND, RECV. A movement record that is its stream's next record issues: an LCOPY with the
codes it copies, whole lines of a linear source unchanged; a TAPIN and a RECV with the number of blocks or flits still
to come; a TAPOUT outside its run with nothing to do, inside it with the lines of its contribution read and at tap
I_HI with blocks of +0.0 that go out, in a cycle of their slot in L mode and while the bus does not hold in Q mode; a
SEND in Q mode with the routers' buffers empty lays its source's lines, in storage order, in successive lines of its
destination, whose other lines are unchanged; a MSEND of one line whose tree leaves only to its own tile lays it
there. (The model's choices it may rest on: log entries 54, 63, 64, 72, 188.) (derived: 02_tile_and_cubes.md R47, R68,
05_wafer_network.md R128, R138, R139, R149, R151, R155, R156, 07_streams_and_setts.md R195, R206, R207) -/
def Obligations.MovementRecordsIssue : Prop :=
  (∀ (u v : Nat) (st : Strm) (i : Img) (k : Nat) (r : OpRec) (s : State), NextIs s u v st 0x28 i k r →
    let g := (galleryOf i u v).2
    let src := absLine r g r.o0.addr
    ∃ t, exec (.lcopy u v st) s = .next t ∧ ∃ reads wr, Issued u v st i k r (stepPast s.now st r (tile s u v)) 0 reads wr s t ∧
      (scalesOnWrite r = false → r.o0.lay = false → r.o2.lay = false → (r.p8 52).testBit 0 = false →
        reads = (List.range (r.p32 56)).map (· + src) ∧
        ∀ l, l < r.p32 56 → inWindow g (l + src) = true →
          Wr.sram (64 * (absLine r g r.o2.addr + l)) (sramRead (tile s u v) (64 * (l + src)) 64) ∈ wr) ∧
      (scalesOnWrite r = false → (r.o0.lay = true ∨ r.o2.lay = true) → reads = operandLines r g r.o0 ∧
        ∀ x y, x < r.o2.rows → y < r.o2.cols → x < r.o0.rows → y < r.o0.cols → (r.p8 52).testBit 0 = false →
          Wr.code (elemKey r g r.o2 x y) r.o2.fmt (readElem (tile s u v) r g r.o0 x y) ∈ wr)) ∧
  (∀ (u v : Nat) (st : Strm) (i : Img) (k : Nat) (r : OpRec) (s : State), NextIs s u v st 0x29 i k r → (∀ e ∈ (tile s u v).fsIn, 4 ≤ e.port) →
    ∃ t, exec (.tapin u v st) s = .next t ∧ Issued u v st i k r (stepPast s.now st r (tile s u v)) (r.p16 56) [] [] s t) ∧
  (∀ (u v : Nat) (st : Strm) (i : Img) (k : Nat) (r : OpRec) (s : State), NextIs s u v st 0x2A i k r →
    let x := tileBus i (Fin.ofNat 4 (r.p8 52)) u v
    let lines := (List.range (2 * r.p16 56)).map (· + absLine r (galleryOf i u v).2 r.o0.addr)
    (¬ (r.p8 59 ≤ x.2 ∧ x.2 ≤ r.p8 58) →
      ∃ t, exec (.tapout u v st) s = .next t ∧ Issued u v st i k r (stepPast s.now st r (tile s u v)) 0 [] [] s t) ∧
    (r.p8 59 ≤ x.2 → x.2 < r.p8 58 → r.p8 58 < busLen i x.1 →
      (∀ n, x.2 ≤ n → n ≤ r.p8 58 → ∀ e ∈ (tile s (tapTile i x.1 n).1 (tapTile i x.1 n).2).fsIn, e.port < 4) →
      (∀ o ∈ (tile s (tapTile i x.1 (r.p8 58)).1 (tapTile i x.1 (r.p8 58)).2).ops, ¬ (o.opc = 0x2A ∧ o.strm = st ∧ o.idx = k)) →
      ∃ t, exec (.tapout u v st) s = .next t ∧ Issued u v st i k r (stepPast s.now st r (tile s u v)) (r.p16 56) lines [] s t) ∧
    (r.p8 59 ≤ x.2 → x.2 = r.p8 58 →
      ∃ a, Issued u v st i k r (stepPast s.now st r (tile s u v)) (r.p16 56) lines [] s a ∧
        exec (.tapout u v st) s = .next (createOut i x.1 x.2 st k r (r.p16 56) a) ∧
        let b := mkBlock (r.p16 54) r.tag false (zeros 128)
        (r.p16 56 = 1 → createsAt s i x.1 r (r.p16 54) = true → (i.lmode = true ∨ outRoom a i x.1 b x.2 = true) →
          exec (.tapout u v st) s = .next (walkOut i x.1 x.2 b a)))) ∧
  (∀ (u v : Nat) (st : Strm) (i : Img) (k : Nat) (r : OpRec) (s : State) (x y : Nat), NextIs s u v st 0x2B i k r → destTile i u v r 54 = (x, y) → (x, y) ≠ (u, v) →
    inImage s x y = true → (tile s x y).fenced = false → (r.p8 52).testBit 0 = false → i.lmode = false →
    (∀ e ∈ s.tiles, e.2.bulk = []) → (∀ o ∈ (tile s u v).ops, isSend o = false) → openIntrusive s = false → i.reqU ≤ 256 → i.reqV ≤ 256 →
    let g := (galleryOf i u v).2
    let line := absLine r g (r.p16 56)
    (∀ l, l < r.p16 58 → inWindow (galleryOf i x y).2 (line + l) = true ∧
      inWindow g (operandLine r g r.o0 l) = true ∧ linePoisoned (tile s u v) (operandLine r g r.o0 l) = false) →
    line + r.p16 58 ≤ 32768 →
    ∃ t, exec (.send u v st) s = .next t ∧
      (∃ n y h p, tile t u v = { stepPast s.now st r (tile s u v) with
        ops := (tile s u v).ops ++ [⟨st, k, r.opc, r.unit, r.bytes, [], 0, [], opRate r⟩]
        tok := n
        cyc := y
        tokHi := h
        poisonRd := p }) ∧
      (∀ l j, l < r.p16 58 → j < 64 → mget 0 (tile t x y).sram (64 * (line + l) + j) =
        mget 0 (tile s u v).sram (64 * operandLine r g r.o0 l + j)) ∧
      (∀ a, a < 64 * line ∨ 64 * (line + r.p16 58) ≤ a → mget 0 (tile t x y).sram a = mget 0 (tile s x y).sram a) ∧
      (∃ m, t = { s with tiles := m })) ∧
  (∀ (u v : Nat) (st : Strm) (i : Img) (k : Nat) (r : OpRec) (s : State), NextIs s u v st 0x2C i k r → treeEntry i (r.p8 54) u v % 8 = 4 → treeOuts (treeEntry i (r.p8 54) u v) = [.l] →
    (r.p8 52).testBit 0 = false → r.p16 58 = 1 → i.lmode = false → (tile s u v).bulk = [] → (tile s u v).fenced = false →
    (∀ o ∈ (tile s u v).ops, isSend o = false) →
    let g := (galleryOf i u v).2
    let line := absLine r g (r.p16 56)
    inWindow g line = true → inWindow g (operandLine r g r.o0 0) = true → line < 32768 →
    linePoisoned (tile s u v) (operandLine r g r.o0 0) = false →
    ∃ t a, Issued u v st i k r (stepPast s.now st r (tile s u v)) 0 [operandLine r g r.o0 0] [] s a ∧
      exec (.msend u v st) s = .next t ∧ OnlyTile u v s t ∧
      LineWritten (tile a u v) (tile t u v) line (strmCode st) true (sramRead (tile s u v) (64 * operandLine r g r.o0 0) 64)) ∧
  (∀ (u v : Nat) (st : Strm) (i : Img) (k : Nat) (r : OpRec) (s : State), NextIs s u v st 0x2D i k r → (tile s u v).rxq = [] →
    ∃ t, exec (.recv u v st) s = .next t ∧ Issued u v st i k r (stepPast s.now st r (tile s u v)) (max 1 (r.p16 56)) [] [] s t)

/-- TILE_OP_COMPLETE and ECC_WRITEBACK. An operation of a stream with nothing left to come completes: it leaves the tile's
list and its results, and those of its transfer inside the gallery window, are applied to the tile in order; no other
tile changes; a line that it reads as its blocks arrive is contract fault 6 outside the window and 7 where poisoned,
and nothing else where its results cause no event. So eight empty lanes follow an XCLR. Where there is no such
operation nothing changes. A corrected SRAM word counts in the tile's ECC counter and changes no byte. (The model's
choices it may rest on: log entries 54, 65.) (derived: 02_tile_and_cubes.md R38, R40, R67, R68,
06_tick_and_contract.md R167) -/
def Obligations.CompletionOfAnOperation : Prop :=
  (∀ (u v : Nat) (st : Strm) (idx : Nat) (i : Img) (o : Op) (s : State), s.image = some i → s.loading = false →
    (s.run = .run ∨ s.run = .halt) → inImage s u v = true →
    (tile s u v).ops.find? (fun o => o.strm = st && o.idx = idx && o.left = 0) = some o →
    let g := (galleryOf i u v).2
    let late := transferWr i u v (tile s u v) o
    let rd := lateReads i u v o
    let sound : Prop := ∀ l ∈ rd, inWindow g l = true ∧ linePoisoned (tile s u v) l = false
    ∃ t, exec (.tileOpComplete u v st idx) s = .next t ∧
      (∃ x n y h p, tile t u v = (o.wr ++ late.filter (wrInWindow g)).foldl (fun t w => applyWr idx w t)
        (setCtx st { getCtx (tile s u v) st with act := x } { tile s u v with
          ops := (tile s u v).ops.erase o
          tok := n
          cyc := y
          tokHi := h
          poisonRd := p })) ∧
      (∀ x, x ≠ tileKey u v → mget Tile.blank t.tiles x = mget Tile.blank s.tiles x) ∧
      ((∀ w ∈ late, wrInWindow g w = true) → sound → (∀ w ∈ o.wr, (∀ x, w ≠ .owl x) ∧ ∀ n, w ≠ .owlSkip n) →
        OnlyTile u v s t) ∧
      (o.opc = 0x25 → o.wr = (List.range 8).map (fun l => Wr.xa l XaLane.blank) →
        (∀ l, l < 8 → mget XaLane.blank (tile t u v).xa l = XaLane.blank) ∧ (tile t u v).sram = (tile s u v).sram ∧
        (tile t u v).acc = (tile s u v).acc) ∧
      ((∃ w ∈ late, wrInWindow g w = false) ∨ (∃ l ∈ rd, inWindow g l = false) → bitOf (reg t .asq 0x010) 6 = true) ∧
      ((∃ l ∈ rd, inWindow g l = true ∧ linePoisoned (tile s u v) l = true) → bitOf (reg t .asq 0x010) 7 = true)) ∧
  (∀ (u v : Nat) (st : Strm) (idx : Nat) (s : State), s.loading = false →
    (tile s u v).ops.find? (fun o => o.strm = st && o.idx = idx && o.left = 0) = none →
    exec (.tileOpComplete u v st idx) s = .next s) ∧
  (∀ (u v word : Nat) (s : State), powered s = true → inImage s u v = true → word < 196608 →
    ∃ t, exec (.eccWriteback u v word) s = .next t ∧ OnlyTile u v s t ∧ (tile t u v).sram = (tile s u v).sram ∧
      (pageFrz s .dbg = false → mget 0 (tile t u v).ctr 0x24 = satInc (mget 0 (tile s u v).ctr 0x24)))

/-- Signals to a far sett, FSIGNAL and USIG. A signal that reaches a far sett without a relay raises bit 1 of its page and
the drop counter. Otherwise the signaller is recorded and COUNT rises by 1; while COUNT is then at least N, N is above
0, N is taken off COUNT and the relay is signalled: with COUNT + 1 equal to N, where no control flit waits in the
mesh, a relay to a tile signals that tile's sett once. COUNT at 65,535 is contract fault 9 and SAT. An FSIGNAL record
for a far sett of its own module, where no control flit waits in the mesh, and a USIG, do the same. A signal of the
own module between dies that the ring no longer joins does not arrive. (The model's choices it may rest on: log
entries 111, 112.) (derived: 07_streams_and_setts.md R219, R220, R222, Table 7.4, 09_edge_dies_and_parameter_home.md
R283, Table 9.8) -/
def Obligations.FarSetts : Prop :=
  (∀ (d : Die) (n : Fin 16) (m : Nat) (e : Die) (s : State), diesRun s = true →
    let rel := reg s (.fst d) (0x044 + 16 * n.val)
    let w := (reg s (.fst d) (0x040 + 16 * n.val)).toNat
    let last := w32 (m % 2 ^ 16 * 2 ^ 16 + e.val % 16 * 2 ^ 12 + (reg s (.fst d) (0x048 + 16 * n.val)).toNat % 2)
    (m = ownId s → ringReach s e d = false → exec (.farSettSignal d n m e) s = .next s) ∧
    ((m = ownId s → ringReach s e d = true) →
    (bitOf rel 31 = false →
      ∃ t, exec (.farSettSignal d n m e) s = .next t ∧ bitOf (reg t (.fst d) 0x010) 1 = true ∧
        reg t (.fst d) (0x040 + 16 * n.val) = reg s (.fst d) (0x040 + 16 * n.val) ∧
        (pageFrz s (.fst d) = false → reg t (.fst d) 0x140 = satInc (reg s (.fst d) 0x140)) ∧ t.tiles = s.tiles) ∧
    (bitOf rel 31 = true → fld w 15 0 < 65535 → (fld w 31 16 = 0 ∨ fld w 15 0 + 1 < fld w 31 16) →
      exec (.farSettSignal d n m e) s = .next (setReg (.fst d) (0x040 + 16 * n.val) (w32 (w + 1))
        (setReg (.fst d) (0x048 + 16 * n.val) last s))) ∧
    (bitOf rel 31 = true → bitOf rel 30 = false → fld w 15 0 < 65535 → fld w 15 0 + 1 = fld w 31 16 →
      (∀ e ∈ s.tiles, e.2.ctl = []) → ∀ i, s.image = some i → inImage s (fld rel.toNat 7 0) (fld rel.toNat 15 8) = true →
      (tile s (fld rel.toNat 7 0) (fld rel.toNat 15 8)).fenced = false →
      ∃ t a, exec (.farSettSignal d n m e) s = .next t ∧ reg a (.fst d) (0x040 + 16 * n.val) = w32 (2 ^ 16 * fld w 31 16) ∧
        reg a (.fst d) (0x048 + 16 * n.val) = last ∧ (∃ r m, a = { s with
          regs := r
          tiles := m }) ∧ TilesKeep s a ∧
        t = signalTile (fld rel.toNat 7 0) (fld rel.toNat 15 8) (fld rel.toNat 20 16) (strmOf (fld rel.toNat 29 28))
          ⟨(dieCoord i d (fld rel.toNat 7 0) (fld rel.toNat 15 8)).1 % 256, (dieCoord i d (fld rel.toNat 7 0) (fld rel.toNat 15 8)).2 % 256,
            3, bodyTick s % 2 ^ 32⟩ 0 a) ∧
    (bitOf rel 31 = true → fld w 15 0 = 65535 →
      ∃ t, exec (.farSettSignal d n m e) s = .next t ∧ bitOf (reg t .asq 0x010) 9 = true ∧
        bitOf (reg t (.fst d) (0x048 + 16 * n.val)) 0 = true ∧
        reg t (.fst d) (0x040 + 16 * n.val) = reg s (.fst d) (0x040 + 16 * n.val)))) ∧
  (∀ (u v : Nat) (st : Strm) (i : Img) (k : Nat) (r : OpRec) (s : State) (d : Die) (n : Fin 16), NextIs s u v st 0x06 i k r → (∀ e ∈ s.tiles, e.2.ctl = []) →
    ringReach s (nearestDie i u v) d = true →
    r.p16 54 = 0xFFFF → r.p8 52 = 16 * d.val + n.val →
    bitOf (reg s (.fst d) (0x044 + 16 * n.val)) 31 = true → fld (reg s (.fst d) (0x040 + 16 * n.val)).toNat 31 16 = 0 →
    fld (reg s (.fst d) (0x040 + 16 * n.val)).toNat 15 0 < 65535 →
    ∃ t m, exec (.fsignal u v st) s = .next t ∧
      t = { setReg (.fst d) (0x040 + 16 * n.val) (w32 ((reg s (.fst d) (0x040 + 16 * n.val)).toNat + 1))
        (setReg (.fst d) (0x048 + 16 * n.val) (w32 (ownId s % 2 ^ 16 * 2 ^ 16 + (nearestDie i u v).val % 16 * 2 ^ 12 +
          (reg s (.fst d) (0x048 + 16 * n.val)).toNat % 2)) s) with tiles := m } ∧
      (∃ c y h z, tile t u v = { stepPast s.now st r (tile s u v) with
        tok := c
        cyc := y
        tokHi := h
        ctr := z }) ∧ ∀ x, (mget Tile.blank m x).sram = (mget Tile.blank s.tiles x).sram) ∧
  (∀ (d d' : Die) (n : Fin 16) (r : URun) (p : UProg) (w : Nat) (s : State), ueWord s d = some (r, p, w) →
    vIs w 0x28 [(7, 4, d'.val), (3, 0, n.val)] = true →
    exec (.usig d d' n) s = .next (farSignal d' n (ownId s) d.val (ueStepPc d s)))

/-- Blocks on the flowstone grid. A block of this tick or the next that its die reads without error, in the injection
order of its bus, enters the pre-read buffer with the bytes of the parameter store. A due buffered block, in Q mode
the first of its bus, leaves the buffer for its bus. An intact inbound block at a tap whose TAPIN takes it joins that
operation. An intact outbound block that no TAPOUT of the tick sums reaches the collector unchanged, and the last
tap's TAPOUT adds to it first. At the collector a raw sump block lands at its place in the store, marked written, and
a gradient block with PART set is counted and voids the step. A block with a bad CRC at the collector makes its last
tap a suspect. The last three hold while the collector's buffer has room. (The model's choices it may rest on: log
entries 69, 70, 71, 72, 171, 173, 186.) (derived: 05_wafer_network.md R147, R149, R151, 08_placement_and_residency.md
R250, R251, 09_edge_dies_and_parameter_home.md R276, R277, R279) -/
def Obligations.FlowstoneBlocks : Prop :=
  (∀ (bus : Bus) (tag seq gen due at_ : Nat) (runs : List (Nat × Nat)) (zero : Bool) (data : List Byte) (i : Img) (d : Die) (s : State),
    s.image = some i → busDie i bus.die.val bus.idx = some d → injectDue s i bus tag seq = some (gen, due, at_) →
    preData s i gen bus tag seq = some (data, runs, zero) → inReadOrder s i d bus due at_ = true →
    flowing s = true → (dieSt s d).pre.length < preBlocks → s.flaws = [] → badSector s runs = none →
    ∃ t, exec (.preRead bus tag seq []) s = .next t ∧
      (dieSt t d).pre = (dieSt s d).pre ++ [⟨bus, tag, seq, data, false, zero⟩] ∧
      (∀ e, e ≠ d → dieSt t e = dieSt s e) ∧ t.tiles = s.tiles ∧ t.hbm = s.hbm ∧ t.asq = s.asq) ∧
  (∀ (bus : Bus) (tag seq k : Nat) (i : Img) (d : Die) (tr : TickRec) (p : PreBlk) (s : State), s.image = some i →
    busDie i bus.die.val bus.idx = some d → flowing s = true → tickNow s = some tr → injectKey i tr bus tag seq = some k →
    mget 0 (dieSt s d).sent (busKey bus) ≤ k → (i.lmode = true ∨ (dieSt s d).pre.find? (fun b => b.bus = bus) = some p) →
    (dieSt s d).pre.find? (fun b => b.bus = bus && b.tag = tag && b.seq = seq) = some p → p.poison = false → p.zero = false →
    busHolds s i d bus = false →
    ∃ t, exec (.blockInject bus tag seq) s = .next t ∧ (dieSt t d).pre = (dieSt s d).pre.erase p ∧
      t = walkIn i bus (busLen i bus) 0 (mkBlock seq tag false p.data)
        (injected d bus k (setDie d { dieSt s d with pre := (dieSt s d).pre.erase p } s))) ∧
  (∀ (u v k x : Nat) (bus : Bus) (b : FsBlock) (i : Img) (o : Op) (s : State), s.image = some i → flowing s = true →
    inImage s u v = true → tileBus i bus.die u v = (bus, k) → b.crc = blockCrc b → (tile s u v).fenced = false →
    activeTapin (tile s u v) bus b = some (o, x) →
    ∃ t n y h, exec (.inboundBlock u v bus b) s = .next t ∧
      tile t u v = { setOp o { o with got := o.got ++ [(x, b.data, [])], left := o.left - 1 } (tile s u v) with
        tok := n
        cyc := y
        tokHi := h }) ∧
  (∀ (u v k : Nat) (bus : Bus) (b : FsBlock) (i : Img) (s : State), s.image = some i → flowing s = true →
    inImage s u v = true → tileBus i bus.die u v = (bus, k) → b.crc = blockCrc b →
    (tickTransfers s i 0x2A = [] → exec (.outboundBlock u v bus b) s = .next (collect bus b s)) ∧
    (∀ st r j o, k = 0 → (tickTransfers s i 0x2A).find? (fun r => tapoutHas r.2.2 bus 0 b) = some (st, j, r) →
      (tile s u v).fenced = false → activeTapout (tile s u v) bus 0 b = some o →
      exec (.outboundBlock u v bus b) s = .next (collect bus
        (tapAdd s (tile s u v) (parseRec o.bytes) (galleryOf i u v).2 bus 0 b)
        (setTile u v (tokEvent s.now 4 (setOp o { o with left := o.left - 1 } (tile s u v))) s)))) ∧
  (∀ (bus : Bus) (b : FsBlock) (i : Img) (e : Die) (d : SumpTag) (r : Region) (off : Nat) (s : State), s.image = some i →
    flowing s = true → busDie i bus.die.val bus.idx = some e → collHeld s e bus < 1024 → b.crc = blockCrc b → 0xC0 ≤ b.tag → sumpOf i b.tag = some d →
    sumpPlace i d bus b.seq = some (r, off) → b.seq < d.span → d.mode = 0 → b.data.length = 128 →
    ∃ t, exec (.collectorBlock bus b) s = .next t ∧
      hbmBytes t (regionAddr (placeNow s) r (arrStep s) off) 128 = b.data ∧
      mget 0 (dieSt t e).side (regionAddr (placeNow s) r 0 off) = 128 ∧ t.tiles = s.tiles ∧ t.asq = s.asq) ∧
  (∀ (bus : Bus) (b : FsBlock) (i : Img) (e : Die) (g : TagEntry) (s : State), s.image = some i →
    flowing s = true → busDie i bus.die.val bus.idx = some e → collHeld s e bus < 1024 → b.crc = blockCrc b → b.tag < 0xC0 →
    tagEntryOf i bus b.tag = some g → g.cls = 2 → b.part = true →
    ∃ t, exec (.collectorBlock bus b) s = .next t ∧ t.asq.voided = true ∧ bitOf (reg t (.edg e) 0x010) 4 = true ∧
      t.rdc = s.rdc ∧ t.tiles = s.tiles) ∧
  (∀ (bus : Bus) (b : FsBlock) (i : Img) (e : Die) (s : State), s.image = some i → s.run = .run → flowing s = true →
    busDie i bus.die.val bus.idx = some e → collHeld s e bus < 1024 → b.crc ≠ blockCrc b → inImage s (tapTile i bus 0).1 (tapTile i bus 0).2 = true →
    ∃ t, exec (.collectorBlock bus b) s = .next t ∧ t.asq.haltPend = true ∧ t.asq.voided = true ∧ recState t = 1)

/-- ADD, SUB, MUL, FMA, MIN, MAX, ABS, NEG, SEL, SPLIT. On a tile whose vector unit runs, and on an Update Engine whose
program has the instruction next, each lane of the destination takes the result of the lanes of the sources, read
before anything is written: FP32 sum, difference and product by RNE, the product and sum of FMA with one rounding,
minimum, maximum, magnitude, negation; SEL takes the first source where the lane mask is set, else the second; SPLIT
writes integer part and fraction. Other registers, the lane mask, every memory and every other engine are unchanged.
(derived: 02_tile_and_cubes.md R61, Table 2.6, 07_streams_and_setts.md R208, Table 7.5,
09_edge_dies_and_parameter_home.md R282, R283) -/
def Obligations.LaneArithmetic : Prop :=
  (∀ (e : Eng) (vd va vb : Fin 16) (s : State), VuReady e 0x01 [fVd vd, fVa va, fVb vb] s → ∃ t, exec (.add e vd va vb) s = .next t ∧ VuFrame e s t ∧
    VuWrites e vd (fun l => add32 .rne (vLane e s va l) (vLane e s vb l)) s t) ∧
  (∀ (e : Eng) (vd va vb : Fin 16) (s : State), VuReady e 0x02 [fVd vd, fVa va, fVb vb] s → ∃ t, exec (.sub e vd va vb) s = .next t ∧ VuFrame e s t ∧
    VuWrites e vd (fun l => add32 .rne (vLane e s va l) (neg32 (vLane e s vb l))) s t) ∧
  (∀ (e : Eng) (vd va vb : Fin 16) (s : State), VuReady e 0x03 [fVd vd, fVa va, fVb vb] s → ∃ t, exec (.mul e vd va vb) s = .next t ∧ VuFrame e s t ∧
    VuWrites e vd (fun l => mul32 (vLane e s va l) (vLane e s vb l)) s t) ∧
  (∀ (e : Eng) (vd va vb : Fin 16) (s : State), VuReady e 0x05 [fVd vd, fVa va, fVb vb] s → ∃ t, exec (.min e vd va vb) s = .next t ∧ VuFrame e s t ∧
    VuWrites e vd (fun l => min32 (vLane e s va l) (vLane e s vb l)) s t) ∧
  (∀ (e : Eng) (vd va vb : Fin 16) (s : State), VuReady e 0x06 [fVd vd, fVa va, fVb vb] s → ∃ t, exec (.max e vd va vb) s = .next t ∧ VuFrame e s t ∧
    VuWrites e vd (fun l => max32 (vLane e s va l) (vLane e s vb l)) s t) ∧
  (∀ (e : Eng) (vd va vb : Fin 16) (s : State), VuReady e 0x0A [fVd vd, fVa va, fVb vb] s → ∃ t, exec (.sel e vd va vb) s = .next t ∧ VuFrame e s t ∧
    VuWrites e vd (fun l => if vMask e s l then vLane e s va l else vLane e s vb l) s t) ∧
  (∀ (e : Eng) (vd va vb vc : Fin 16) (s : State), VuReady e 0x04 [fVd vd, fVa va, fVb vb, fVc vc] s →
    ∃ t, exec (.fma e vd va vb vc) s = .next t ∧ VuFrame e s t ∧
      VuWrites e vd (fun l => fma32 (vLane e s va l) (vLane e s vb l) (vLane e s vc l)) s t) ∧
  (∀ (e : Eng) (vd va : Fin 16) (s : State), VuReady e 0x07 [fVd vd, fVa va] s →
    ∃ t, exec (.abs e vd va) s = .next t ∧ VuFrame e s t ∧ VuWrites e vd (fun l => abs32 (vLane e s va l)) s t) ∧
  (∀ (e : Eng) (vd va : Fin 16) (s : State), VuReady e 0x08 [fVd vd, fVa va] s →
    ∃ t, exec (.neg e vd va) s = .next t ∧ VuFrame e s t ∧ VuWrites e vd (fun l => neg32 (vLane e s va l)) s t) ∧
  (∀ (e : Eng) (vd va vc : Fin 16) (s : State), VuReady e 0x0B [fVd vd, fVa va, fVc vc] s →
    ∃ t, exec (.split e vd va vc) s = .next t ∧ VuFrame e s t ∧ ∀ l, l < vLanes e → vMask e t l = vMask e s l ∧
      ∀ r, vLane e t r l = if r = vc.val then (splitW (vLane e s va l)).2 else if r = vd.val then (splitW (vLane e s va l)).1 else vLane e s r l)

/-- CMP, SCALB, CVT, RAND, POLY, LD, ST. CMP sets the lane mask by <, ≤, = or ≠ and no register; SCALB scales by a power
of two and marks the lanes that saturate; CVT passes each lane through a storage format, rounded to nearest or, on a
tile with SR, by the random word of its element; RAND on a tile gives each lane the random word of its element; POLY
evaluates the selected table. LD brings the lanes of a vector of codes, scaled, from SRAM, and a scaled value that an
engine saturates counts as a numeric saturation; ST to clean lines converts each lane and writes its code, and no
other byte changes. (The model's choices it may rest on: log entries 60, 61, 62, 128.) (derived: 02_tile_and_cubes.md
R61, R63, Table 2.6, 07_streams_and_setts.md Table 7.5, 12_counter_generator.md R371, R372, Table 12.3,
03_formats_and_accumulation.md R94, R96, 09_edge_dies_and_parameter_home.md R282, R283) -/
def Obligations.LaneMaskAndConversions : Prop :=
  (∀ (e : Eng) (k : Fin 4) (va vb : Fin 16) (s : State), VuReady e 0x09 [fVa va, fVb vb, (1, 0, k.val)] s →
    ∃ t, exec (.cmp e k va vb) s = .next t ∧ VuFrame e s t ∧ ∀ l, l < vLanes e → (∀ r, vLane e t r l = vLane e s r l) ∧
      vMask e t l = (match k.val with
        | 0 => ltV (dec32 (vLane e s va l)) (dec32 (vLane e s vb l))
        | 1 => ltV (dec32 (vLane e s va l)) (dec32 (vLane e s vb l)) || eqV (dec32 (vLane e s va l)) (dec32 (vLane e s vb l))
        | 2 => eqV (dec32 (vLane e s va l)) (dec32 (vLane e s vb l))
        | _ => !eqV (dec32 (vLane e s va l)) (dec32 (vLane e s vb l)))) ∧
  (∀ (e : Eng) (vd va vb : Fin 16) (s : State), VuReady e 0x0C [fVd vd, fVa va, fVb vb] s → ∃ t, exec (.scalb e vd va vb) s = .next t ∧ VuFrame e s t ∧
    VuWrites e vd (fun l => (scalbW (vLane e s va l) (vLane e s vb l)).1) s t ∧
    ∀ l, l < vLanes e → vSat e t l = (vSat e s l || (scalbW (vLane e s va l) (vLane e s vb l)).2)) ∧
  (∀ (e : Eng) (vd va : Fin 16) (fmt : Nat) (r : W32) (sr : Option VPos) (s : State),
    VuReady e 0x0D [fVd vd, fVa va, (3, 0, fmt), (4, 4, sr.isSome.toNat)] s →
    ∃ t, exec (.cvt e vd va fmt r sr) s = .next t ∧ VuFrame e s t ∧
      VuWrites e vd (fun l => (cvtW fmt (match e, sr with
        | .tile u v, some p => .sr (vuDraw s u v p 0xFF80 l)
        | _, _ => .rne) r (vLane e s va l)).1) s t) ∧
  (∀ (u v : Nat) (vd : Fin 16) (p : VPos) (s : State), vuRuns s u v = true →
    ∃ t, exec (.rand (.tile u v) vd p) s = .next t ∧ VuFrame (.tile u v) s t ∧
      VuWrites (.tile u v) vd (fun l => vuDraw s u v p 0xFF00 l) s t) ∧
  (∀ (e : Eng) (vd va : Fin 16) (tab : Fin 2) (s : State), VuReady e 0x0F [fVd vd, fVa va, (0, 0, tab.val)] s →
    ∃ t, exec (.poly e vd va tab) s = .next t ∧ VuFrame e s t ∧
      VuWrites e vd (fun l => polyW (tableOf s e tab.val) (vLane e s va l)) s t) ∧
  (∀ (u v : Nat) (vd : Fin 16) (o : VOperand) (i : Img) (s : State), vuRuns s u v = true → s.image = some i →
    (∀ l ∈ linesOf o.addr (64 * sramBits o.fmt / 8), inWindow (galleryOf i u v).2 l = true ∧ linePoisoned (tile s u v) l = false) →
    ∃ t, exec (.ld (.tile u v) vd o) s = .next t ∧ VuFrame (.tile u v) s t ∧ VuWrites (.tile u v) vd (fun l =>
      (scaledS o.fmt (readCode (tile s u v) (galleryOf i u v).2 o.fmt (voKey o l)) o.s).1) s t) ∧
  (∀ (u v : Nat) (vd : Fin 16) (o : VOperand) (i : Img) (s : State), vuRuns s u v = true → s.image = some i →
    ∃ t, exec (.ld (.tile u v) vd o) s = .next t ∧
      ((∃ l ∈ linesOf o.addr (64 * sramBits o.fmt / 8), inWindow (galleryOf i u v).2 l = false) →
        bitOf (reg t .asq 0x010) 6 = true) ∧
      ((∃ l ∈ linesOf o.addr (64 * sramBits o.fmt / 8), inWindow (galleryOf i u v).2 l = true ∧ linePoisoned (tile s u v) l = true) →
        bitOf (reg t .asq 0x010) 7 = true)) ∧
  (∀ (d : Die) (vd : Fin 16) (o : VOperand) (s : State), VuReady (.ue d) 0x10 [fVd vd] s →
    let x (l : Nat) := scaledS o.fmt (codeIn (dieSt s d).ue.sram o.fmt (voKey o l % (2 * ueSramBytes))) o.s
    ∃ t, exec (.ld (.ue d) vd o) s = .next t ∧ VuWrites (.ue d) vd (fun l => (x l).1) s t ∧
      ((∀ l, l < 256 → (x l).2 = false) → VuFrame (.ue d) s t) ∧
      ((∃ l, l < 256 ∧ (x l).2 = true) → pageFrz s .rdc = false → reg t .rdc 0x084 = satInc (reg s .rdc 0x084))) ∧
  (∀ (u v : Nat) (va : Fin 16) (o : VOperand) (sr : Option VPos) (i : Img) (s : State), vuRuns s u v = true → s.image = some i →
    (∀ l ∈ linesOf o.addr (64 * sramBits o.fmt / 8), inWindow (galleryOf i u v).2 l = true ∧
      linePoisoned (tile s u v) l = false) →
    let b := sramBits o.fmt
    let code (l : Nat) : Nat := (codeW o.fmt (vuMode s (.tile u v) sr l) o.r (vLane (.tile u v) s va l)).1
    ∃ t, exec (.st (.tile u v) va o sr) s = .next t ∧ OnlyTile u v s t ∧
      (8 ≤ b → ∀ l, l < 64 → sramRead (tile t u v) (o.addr + l * (b / 8)) (b / 8) = natLE (b / 8) (code l)) ∧
      (b = 4 → ∀ l, l < 64 → (mget 0 (tile t u v).sram (o.addr + l / 2)).toNat / 16 ^ (l % 2) % 16 = code l % 16) ∧
      (∀ a, a < o.addr ∨ o.addr + 64 * b / 8 ≤ a → mget 0 (tile t u v).sram a = mget 0 (tile s u v).sram a) ∧
      (tile t u v).acc = (tile s u v).acc ∧ (tile t u v).vu = (tile s u v).vu ∧ (tile t u v).setts = (tile s u v).setts) ∧
  (∀ (d : Die) (va : Fin 16) (o : VOperand) (sr : Option VPos) (s : State), VuReady (.ue d) 0x11 [fVa va, (2, 2, sr.isSome.toNat)] s →
    8 ≤ sramBits o.fmt → o.addr + 32 * sramBits o.fmt ≤ ueSramBytes →
    ∃ t m, exec (.st (.ue d) va o sr) s = .next t ∧
      t = ueStepPc d (setDie d { dieSt s d with ue := { (dieSt s d).ue with sram := m } } s) ∧
      (∀ l, l < 256 → mgets 0 m (o.addr + l * (sramBits o.fmt / 8)) (sramBits o.fmt / 8) =
        natLE (sramBits o.fmt / 8) (codeW o.fmt .rne o.r (vLane (.ue d) s va l)).1) ∧
      ∀ a, a < o.addr ∨ o.addr + 32 * sramBits o.fmt ≤ a → mget 0 m a = mget 0 (dieSt s d).ue.sram a)

/-- LDS, STS, QOUT, AMAX, XACC, XRD, SCAL on an Update Engine. When an engine's program has the instruction next: LDS
brings the iteration's 256 elements of a stream, sums or elements of a region of its die, and zero beyond the group,
to a register, and a poisoned sector stops the run instead (a region of another die gives free values); STS writes the
elements of a byte-wide or wider format to the stream's region of its die, and to no other, and a SUM_READY program
writes no block of a stopped channel; QOUT quantizes the blocks of the iteration, where no reduction covers them, and
writes them to a region that reports no arrivals; AMAX raises the channel maximum to the largest finite magnitude;
XACC adds 256 exact products to a lane; XRD rounds a lane into a constant; SCAL copies a constant to every lane. The
engine goes on to its next instruction and no other engine changes. (The model's choices it may rest on: log entries
52, 99, 100, 101, 102, 129, 206.) (derived: 09_edge_dies_and_parameter_home.md R271, R282, R283, R284, R285, R292,
Table 9.8, 02_tile_and_cubes.md R65, R66) -/
def Obligations.UpdateEngineInstructions : Prop :=
  (∀ (d : Die) (r : URun) (p : UProg) (w : Nat) (s : State) (vd : Fin 16) (t : Fin 8) (q : UStream), ueWord s d = some (r, p, w) → vIs w 0x20 [fVd vd, (2, 0, t.val)] = true →
    p.streams[t.val]? = some q → q.region = none →
    ∃ x, exec (.lds d vd ⟨t, []⟩) s = .next x ∧ VuFrame (.ue d) s x ∧ VuWrites (.ue d) vd (fun l =>
      if 256 * r.iter + l < groupElems s (r.groups.headD 0) then
        sumElem s (4096 * r.groups.headD 0 + (256 * r.iter + l) / 32) ((256 * r.iter + l) % 32) else 0) s x) ∧
  (∀ (d : Die) (r : URun) (p : UProg) (w : Nat) (s : State) (vd : Fin 16) (t : Fin 8) (q : UStream) (ri : Nat) (i : Img) (rg : Region), ueWord s d = some (r, p, w) →
    vIs w 0x20 [fVd vd, (2, 0, t.val)] = true → p.streams[t.val]? = some q → q.region = some ri → s.image = some i →
    regionOf i ri = some rg → rg.owner = d → s.flaws = [] →
    let g := r.groups.headD 0
    let gen := stepNo s + q.nextGen.toNat
    let el (l : Nat) : Nat := q.elem0 + streamIdx p q g (256 * r.iter + l)
    ((∀ l, l < 256 → 256 * r.iter + l < groupElems s g → elemPoisoned s rg q.fmt gen (el l) = false ∧
        (regionElemS s rg q.fmt gen (el l)).2 = false) →
      ∃ x rs, exec (.lds d vd ⟨t, []⟩) s = .next x ∧ VuFrame (.ue d) { s with regs := rs } x ∧ VuWrites (.ue d) vd (fun l =>
        if 256 * r.iter + l < groupElems s g then regionElem s rg q.fmt gen (el l) else 0) s x) ∧
    ((∃ l, l < 256 ∧ 256 * r.iter + l < groupElems s g ∧ elemPoisoned s rg q.fmt gen (el l) = true) →
      ∃ x, exec (.lds d vd ⟨t, []⟩) s = .next x ∧ (dieSt x d).ue.run = none ∧ x.asq.voided = true ∧
        bitOf (reg x (.upe d) 0x010) 0 = true)) ∧
  (∀ (d : Die) (r : URun) (p : UProg) (w : Nat) (s : State) (vd : Fin 16) (t : Fin 8) (q : UStream) (ri : Nat) (i : Img) (rg : Region), ueWord s d = some (r, p, w) →
    vIs w 0x20 [fVd vd, (2, 0, t.val)] = true → p.streams[t.val]? = some q → q.region = some ri → s.image = some i →
    regionOf i ri = some rg → rg.owner ≠ d →
    ∃ x f n, exec (.lds d vd ⟨t, []⟩) s = .next x ∧ VuFrame (.ue d) { s with fc := n } x ∧ VuWrites (.ue d) vd f s x) ∧
  (∀ (d : Die) (r : URun) (p : UProg) (w : Nat) (s : State) (va : Fin 16) (t : Fin 8) (q : UStream) (ri : Nat) (i : Img) (rg : Region), ueWord s d = some (r, p, w) →
    vIs w 0x21 [fVa va, (2, 0, t.val)] = true → p.streams[t.val]? = some q → q.region = some ri → s.image = some i →
    regionOf i ri = some rg → (rg.owner ≠ d → exec (.sts d va t) s = .next (ueStepPc d s)) ∧
    (rg.owner = d → 8 ≤ fmtBits q.fmt →
    let g := r.groups.headD 0
    let live := (List.range 256).filter fun l => 256 * r.iter + l < groupElems s g
    let shut (l : Nat) : Bool := p.trig = 0 && blockStopped s (4096 * g + (256 * r.iter + l) / 32)
    (∀ l ∈ live, (codeW q.fmt .rne one32 (ueReg s d va l)).2 = false) →
    (live ≠ [] → (∀ l ∈ live, shut l = true) → exec (.sts d va t) s = .next (ueStepPc d s)) ∧
    ((∀ l ∈ live, shut l = false) → exec (.sts d va t) s = .next (ueStepPc d (regionWrite rg (stepNo s + q.nextGen.toNat)
      ((q.elem0 + streamIdx p q g (256 * r.iter)) * fmtBits q.fmt / 8)
      (live.flatMap fun l => natLE (fmtBits q.fmt / 8) (codeW q.fmt .rne one32 (ueReg s d va l)).1) s))))) ∧
  (∀ (d : Die) (r : URun) (p : UProg) (w : Nat) (s : State) (va : Fin 16) (t : Fin 8) (q : UStream) (ri : Nat) (i : Img) (rg : Region), ueWord s d = some (r, p, w) →
    vIs w 0x22 [fVa va, (2, 0, t.val)] = true → p.streams[t.val]? = some q → q.region = some ri → s.image = some i →
    regionOf i ri = some rg → p.chlen = 0 → rg.chlen = 0 → blockFmt rg q.fmt = false →
    let g := r.groups.headD 0
    let bs := (List.range 8).filter fun k => 256 * r.iter + 32 * k < groupElems s g
    let vals (k : Nat) : List W32 := (List.range 32).map fun j => ueReg s d va (32 * k + j)
    rg.arr = false → (∀ k ∈ bs, redAt s (4096 * g + 8 * r.iter + k) = none ∧ ∀ v ∈ vals k, isFin (dec32 v) = true) →
    exec (.qout d va t) s = .next (ueStepPc d (bs.foldl (fun x k => regionWrite rg (stepNo s + q.nextGen.toNat)
      ((q.elem0 + streamIdx p q g (256 * r.iter + 32 * k)) * fmtBits rg.fmt / 8)
      (quantBlock rg q.fmt (mget 0 (dieSt s d).ue.chmax 0) (vals k) []).1 x) s))) ∧
  (∀ (d : Die) (r : URun) (p : UProg) (w : Nat) (s : State) (va : Fin 16), ueWord s d = some (r, p, w) → vIs w 0x23 [fVa va] = true → p.chlen = 0 →
    ∃ m, exec (.amax d va) s = .next (ueStepPc d (setDie d { dieSt s d with ue := { (dieSt s d).ue with chmax := m } } s)) ∧
      let live (l : Nat) : Prop := l < 256 ∧ 256 * r.iter + l < groupElems s (r.groups.headD 0) ∧
        isFin (dec32 (ueReg s d va l)) = true
      (∀ l, live l → (abs32 (ueReg s d va l)).toNat ≤ (mget 0 m 0).toNat) ∧
      (mget 0 (dieSt s d).ue.chmax 0).toNat ≤ (mget 0 m 0).toNat ∧
      (mget 0 m 0 = mget 0 (dieSt s d).ue.chmax 0 ∨ ∃ l, live l ∧ mget 0 m 0 = abs32 (ueReg s d va l)) ∧
      ∀ c, c ≠ 0 → mget 0 m c = mget 0 (dieSt s d).ue.chmax c) ∧
  (∀ (d : Die) (r : URun) (p : UProg) (w : Nat) (s : State) (k : Fin 8) (va vb : Fin 16), ueWord s d = some (r, p, w) → vIs w 0x24 [fVa va, fVb vb, (2, 0, k.val)] = true →
    ∃ m, exec (.xacc d k va vb) s = .next (ueStepPc d (setDie d { dieSt s d with ue := { (dieSt s d).ue with acc := m } } s)) ∧
      mget XaLane.blank m k.val = (List.range 256).foldl (fun a l =>
        xaAdd a (mulV (dec32 (ueReg s d va l)) (dec32 (ueReg s d vb l)))) (mget XaLane.blank (dieSt s d).ue.acc k.val) ∧
      ∀ j, j ≠ k.val → mget XaLane.blank m j = mget XaLane.blank (dieSt s d).ue.acc j) ∧
  (∀ (d : Die) (r : URun) (p : UProg) (w : Nat) (s : State) (sk : Fin 16) (k : Fin 8), ueWord s d = some (r, p, w) → vIs w 0x25 [(7, 4, sk.val), (2, 0, k.val)] = true →
    let a := mget XaLane.blank (dieSt s d).ue.acc k.val
    ∃ c m, exec (.xrd d sk k) s = .next (ueStepPc d (setDie d { dieSt s d with ue :=
        { (dieSt s d).ue with s := c, acc := m } } s)) ∧
      mget 0 c sk.val = (xaRound a).1 ∧ (∀ j, j ≠ sk.val → mget 0 c j = mget 0 (dieSt s d).ue.s j) ∧
      mget XaLane.blank m k.val = { a with sat := a.sat || (xaRound a).2 } ∧
      ∀ j, j ≠ k.val → mget XaLane.blank m j = mget XaLane.blank (dieSt s d).ue.acc j) ∧
  (∀ (d : Die) (r : URun) (p : UProg) (w : Nat) (s : State) (vd sk : Fin 16), ueWord s d = some (r, p, w) → vIs w 0x27 [fVd vd, (3, 0, sk.val)] = true →
    ∃ x, exec (.scal d vd sk) s = .next x ∧ VuFrame (.ue d) s x ∧
      VuWrites (.ue d) vd (fun _ => mget 0 (dieSt s d).ue.s sk.val) s x)

/-- Program start, END and exchanges of the Update Engines. The first ready program starts on an idle engine with its
constants, S15 the step number, empty maxima and accumulator, and the groups it holds. END goes to the next iteration
of the group, then to the next group, then to the next pass, then ends the run; a pass without LDS, or without a
group, is over at once. XCHG makes the engine wait; when every engine of the span waits at an exchange of the same
kind in the same pass, and the ring joins them, it completes and all go on with the largest channel maxima or the
exact sums of the accumulator lanes; a timeout ends the run with error bit 2, and in a LOAD it is a Fault. (The
model's choices it may rest on: log entries 52, 98, 99, 199.) (derived: 09_edge_dies_and_parameter_home.md R283, R284,
R286, Table 9.8, 15_faults_and_recovery.md R442) -/
def Obligations.UpdateEngineRuns : Prop :=
  (∀ (d : Die) (i : Img) (n : Nat) (rest : List Nat) (p : UProg) (s : State), s.image = some i → (dieSt s d).ue.run = none →
    (dieSt s d).ue.ready = n :: rest → uesRun s = true → i.uprogs.find? (fun u => u.prog = n) = some p →
    ∃ t c, exec (.ueProgramStart d) s = .next t ∧
      (dieSt t d).ue = { (dieSt s d).ue with
        ready := rest, s := c, acc := [], chmax := [], run := some ⟨n, heldGroups s p d, 0, 0, 0, false, 0⟩ } ∧
      mget 0 c 15 = (enc32 .rne (.fin false (stepNo s) 0)).1 ∧
      (∀ k, k < 15 → k < p.consts.length → mget 0 c k = p.consts.getD k 0) ∧
      reg t (.upe d) 0x040 = w32 (2 ^ 31 + n % 2 ^ 16) ∧ (∀ e, e ≠ d → dieSt t e = dieSt s e) ∧ t.hbm = s.hbm) ∧
  (∀ (d : Die) (r : URun) (p : UProg) (w : Nat) (s : State) (k g : Nat) (rest : List Nat), ueWord s d = some (r, p, w) → vIs w 0x29 [] = true →
    loopStart (p.passes.getD r.pass []) = some k → r.groups = g :: rest →
    ∃ t, exec (.end_ d) s = .next t ∧ (∀ e, e ≠ d → dieSt t e = dieSt s e) ∧ t.hbm = s.hbm ∧ t.tiles = s.tiles ∧
      (256 * (r.iter + 1) < groupElems s g → (dieSt t d).ue.run = some { r with pc := k, iter := r.iter + 1 }) ∧
      (groupElems s g ≤ 256 * (r.iter + 1) → rest ≠ [] →
        (dieSt t d).ue.run = some { r with groups := rest, pc := k, iter := 0 }) ∧
      (groupElems s g ≤ 256 * (r.iter + 1) → rest = [] → r.pass + 1 < p.passes.length →
        (dieSt t d).ue.run = some ⟨r.prog, heldGroups s p d, r.pass + 1, 0, 0, false, 0⟩) ∧
      (groupElems s g ≤ 256 * (r.iter + 1) → rest = [] → p.passes.length ≤ r.pass + 1 → (dieSt t d).ue.run = none) ∧
      (pageFrz s (.upe d) = false → groupElems s g ≤ 256 * (r.iter + 1) →
        reg t (.upe d) 0x04C = satInc (reg s (.upe d) 0x04C))) ∧
  (∀ (d : Die) (r : URun) (p : UProg) (w : Nat) (s : State), ueWord s d = some (r, p, w) → vIs w 0x29 [] = true → loopStart (p.passes.getD r.pass []) = none ∨ r.groups = [] →
    ∃ t, exec (.end_ d) s = .next t ∧ (∀ e, e ≠ d → dieSt t e = dieSt s e) ∧ t.hbm = s.hbm ∧ t.tiles = s.tiles ∧
      (r.pass + 1 < p.passes.length → (dieSt t d).ue.run = some ⟨r.prog, heldGroups s p d, r.pass + 1, 0, 0, false, 0⟩) ∧
      (p.passes.length ≤ r.pass + 1 → (dieSt t d).ue.run = none)) ∧
  (∀ (d : Die) (r : URun) (p : UProg) (w : Nat) (s : State) (b : Bool), ueWord s d = some (r, p, w) → vIs w 0x26 [(1, 0, b.toNat)] = true →
    ∃ t, exec (.xchg d b) s = .next t ∧ (dieSt t d).ue = { (dieSt s d).ue with run := some { r with wait := true, since := s.now } } ∧
      (∀ e, e ≠ d → dieSt t e = dieSt s e) ∧ t.hbm = s.hbm) ∧
  (∀ (n p0 : Nat) (b : Bool) (i : Img) (p : UProg) (s : State), s.image = some i → i.uprogs.find? (fun u => u.prog = n) = some p →
    uesRun s = true → spanDies s p ≠ [] → (∀ d ∈ spanDies s p, ringReach s d ((spanDies s p).headD 0) = true) →
    (∀ d ∈ spanDies s p, ∃ r, waitsIn s p d = some (r, b) ∧ r.pass = p0) →
    ∃ t, exec (.xchgComplete n) s = .next t ∧
      (∀ d ∈ spanDies s p, ∀ r, waitsIn s p d = some (r, b) → (dieSt t d).ue.run = some { r with wait := false, pc := r.pc + 1 }) ∧
      (b = false → ∀ d ∈ spanDies s p, ∀ e ∈ spanDies s p,
        (dieSt t d).ue.acc = (dieSt s d).ue.acc ∧ (dieSt t d).ue.chmax = (dieSt t e).ue.chmax ∧
        (mwf 0 (dieSt s e).ue.chmax → ∀ c, (mget 0 (dieSt s e).ue.chmax c).toNat ≤ (mget 0 (dieSt t d).ue.chmax c).toNat)) ∧
      (b = true → ∀ d ∈ spanDies s p, ∀ k, k < 8 →
        (dieSt t d).ue.chmax = (dieSt s d).ue.chmax ∧
        mget XaLane.blank (dieSt t d).ue.acc k =
          (spanDies s p).foldl (fun a e => xaJoin a (mget XaLane.blank (dieSt s e).ue.acc k)) XaLane.blank) ∧
      (∀ d, d ∉ spanDies s p → dieSt t d = dieSt s d)) ∧
  (∀ (d : Die) (r : URun) (s : State), (dieSt s d).ue.run = some r → r.wait = true → uesRun s = true →
    ∃ t, exec (.xchgTimeout d) s = .next t ∧ (s.loading = true → t.run = .fault) ∧
      (s.loading = false → (dieSt t d).ue.run = none ∧ bitOf (reg t (.upe d) 0x010) 2 = true ∧
        ∀ e, e ≠ d → dieSt t e = dieSt s e))

/-- The edge ring, the patrol scrub and BAR2. A ring flit that crosses well delivers its message; a failed one counts a
replay; the fourth failure in a row of one segment takes it down, with the bits of both dies, and a second segment
down puts the module in Fault. A patrol read moves its pointer on by one sector. A BAR2 read of a valid range answers
with the bytes that the parameter store reads as from B2_BASE on, and a BAR2 write puts its bytes there and changes no
other byte; a range outside the store sets error bit 2; an offset beyond the aperture is a fault of the model. (The
model's choices it may rest on: log entries 6, 155, 167, 206.) (derived: 09_edge_dies_and_parameter_home.md R265,
R268, R272, 17_registers_and_configuration.md R475, R476, 15_faults_and_recovery.md R444,
16_security_debug_and_states.md R464) -/
def Obligations.RingScrubAndBar2 : Prop :=
  (∀ (k : Fin 16) (m : RingMsg) (s : State), powered s = true → s.tripLatched = false → k.val ∉ s.ring →
    let a := dieAtRing k.val
    exec (.ringFlit k true m) s = .next (ringDeliver m
      (setDie a { dieSt s a with ringFail := mput 0 k.val 0 (dieSt s a).ringFail } s)) ∧
    (mget 0 (dieSt s a).ringFail k.val < 3 →
      ∃ t, exec (.ringFlit k false m) s = .next t ∧ mget 0 (dieSt t a).ringFail k.val = mget 0 (dieSt s a).ringFail k.val + 1 ∧
        t.hbm = s.hbm ∧ t.ring = s.ring ∧ (pageFrz s (.edg a) = false → reg t (.edg a) 0x04C = satInc (reg s (.edg a) 0x04C))) ∧
    (3 ≤ mget 0 (dieSt s a).ringFail k.val →
      ∃ t, exec (.ringFlit k false m) s = .next t ∧ k.val ∈ t.ring ∧ bitOf (reg t (.edg a) 0x048) 1 = true ∧
        bitOf (reg t (.edg (dieAtRing (k.val + 1))) 0x048) 0 = true ∧ (s.ring = [] → t.run = s.run) ∧
        (s.ring ≠ [] → t.run = .fault ∧ t.stuck = true))) ∧
  (∀ (a : Nat) (bs : List Byte) (s : State), diesRun s = true → rangeValid s a bs.length = true →
    ringDeliver (.regionWrite a bs) s = hbmWrite a bs s) ∧
  (∀ (d d' : Die) (n : Fin 16) (m : Nat) (s : State), diesRun s = true →
    ringDeliver (.farSignal d n m d') s = farSignal d n m d'.val s) ∧
  (∀ (d : Die) (n : Fin 4) (s : State), powered s = true → n.val < nStk s →
    fld (cfgv s (.hbm d (stkCtl s d n)) 0x05C).toNat 7 0 ≠ 0 → s.flaws = [] →
    ∃ t, exec (.patrolScrubRead d n .clean) s = .next t ∧
      mget 0 (dieSt t d).scrubAt n.val = (mget 0 (dieSt s d).scrubAt n.val + 1) % 750000000 ∧ t.hbm = s.hbm ∧
      t.poison = s.poison ∧ (∀ e, e ≠ d → dieSt t e = dieSt s e) ∧
      reg t (.hbm d (stkCtl s d n)) 0x060 = w32 ((mget 0 (dieSt s d).scrubAt n.val + 1) % 750000000 / 64)) ∧
  (∀ (off len : Nat) (ide : Bool) (s : State), off + len ≤ 2 ^ 36 → powered s = true → s.run ≠ .boot →
    rangeValid s (b2Base s + off) len = true → jobClosed s (b2Base s + off) len ide = false → s.flaws = [] →
    ∃ t, exec (.bar2Read off len ide []) s = .next t ∧ (∃ r, t = { s with regs := r, out := t.out }) ∧
      t.out = .bar2Data off (hbmBytes s (b2Base s + off) len) (hbmPoisoned s (b2Base s + off) len) :: s.out) ∧
  (∀ (off : Nat) (data : List Byte) (ide : Bool) (s : State), off + data.length ≤ 2 ^ 36 → powered s = true → s.run ≠ .boot →
    rangeValid s (b2Base s + off) data.length = true → jobClosed s (b2Base s + off) data.length ide = false →
    ∃ t, exec (.bar2Write off data ide false) s = .next t ∧ (∃ r p h c, t = { s with regs := r, poison := p, hbm := h, cipher := c }) ∧
      hbmBytes t (b2Base s + off) data.length = data ∧
      ∀ a, a < b2Base s + off ∨ b2Base s + off + data.length ≤ a → hbmByte t a = hbmByte s a) ∧
  (∀ (off len : Nat) (data : List Byte) (ide : Bool) (s : State), powered s = true → s.run ≠ .boot →
    (off + len ≤ 2 ^ 36 → rangeValid s (b2Base s + off) len = false →
      ∃ t, exec (.bar2Read off len ide []) s = .next t ∧ bitOf (reg t .hdm 0x010) 2 = true ∧ t.hbm = s.hbm) ∧
    (off + data.length ≤ 2 ^ 36 → rangeValid s (b2Base s + off) data.length = false →
      ∃ t, exec (.bar2Write off data ide false) s = .next t ∧ bitOf (reg t .hdm 0x010) 2 = true ∧ t.hbm = s.hbm) ∧
    (2 ^ 36 < off + len → exec (.bar2Read off len ide []) s = .fault .outsideBar) ∧
    (2 ^ 36 < off + data.length → exec (.bar2Write off data ide false) s = .fault .outsideBar))

/-- The DMA queues and the ledger drain pointer. A write to the TAIL of a queue takes its low 16 bits; a write to its
control register with a ring size above 12 is discarded with ACC_ERR and otherwise takes EN and the size. A ready host
queue that fetches a descriptor it can run moves its one segment and waits to complete; one whose descriptor cannot be
read stops with error bit 1. An edge queue runs the descriptor in its ring. Completion writes the record, moves HEAD
on and frees the queue. A write to LDG_RD moves the drain pointer within what is written, else sets ACC_ERR. (The
model's choices it may rest on: log entries 115, 205, 206.) (derived: 17_registers_and_configuration.md R495, R496,
R497, R498, R501, Table 17.13, 09_edge_dies_and_parameter_home.md R287, R288, R290, Table 9.11) -/
def Obligations.DmaQueues : Prop :=
  (∀ (rq : Req) (v : W32) (s : State), MayWrite rq s →
    (∀ (d : Die) (q : Fin 4),
      exec (.dmaqTailWrite rq d q v) s = .next (setReg (.edg d) (0x06C + 0x20 * q.val)
        (maskWrite (reg s (.edg d) (0x06C + 0x20 * q.val)) v 0xFFFF) s) ∧
      (fld v.toNat 3 0 ≤ 12 → exec (.dmaqCtlWrite rq d q v) s = .next (setReg (.edg d) (0x068 + 0x20 * q.val)
        (maskWrite (reg s (.edg d) (0x068 + 0x20 * q.val)) v 0x8000000F) s)) ∧
      (12 < fld v.toNat 3 0 → exec (.dmaqCtlWrite rq d q v) s = .next (setAcc (.edg d) s))) ∧
    (∀ (q : Fin 8),
      exec (.hdqTailWrite rq q v) s = .next (setReg .hdm (0x04C + 0x20 * q.val)
        (maskWrite (reg s .hdm (0x04C + 0x20 * q.val)) v 0xFFFF) s) ∧
      (fld v.toNat 3 0 ≤ 12 → exec (.hdqCtlWrite rq q v) s = .next (setReg .hdm (0x048 + 0x20 * q.val)
        (maskWrite (reg s .hdm (0x048 + 0x20 * q.val)) v 0x8000000F) s)) ∧
      (12 < fld v.toNat 3 0 → exec (.hdqCtlWrite rq q v) s = .next (setAcc .hdm s)))) ∧
  (∀ (q : Fin 8) (b bs : List Byte) (s : State), hdqReady s q = true →
    let d := parseDesc b
    (descOk d 6 = true → d.len ≤ 2 ^ d.seg → d.flags.testBit 2 = false → d.flags.testBit 3 = false →
      rangeValid s d.m d.len = true → s.isSealed = false → bs.length = d.len →
      ∃ t, exec (.hostDmaDescriptor q (.data b) [.data bs] ⟨false, []⟩) s = .next t ∧
        mfind t.hdq q.val = some ⟨b.take 32, 1, 0⟩ ∧ hbmBytes t d.m d.len = bs ∧
        (∀ a, a < d.m ∨ d.m + d.len ≤ a → hbmByte t a = hbmByte s a) ∧
        (∃ r p h c z, t = { s with regs := r, poison := p, hbm := h, cipher := c, hdq := z })) ∧
    (descOk d 6 = false → ∃ t, exec (.hostDmaDescriptor q (.data b) [.data bs] ⟨false, []⟩) s = .next t ∧
      mfind t.hdq q.val = some ⟨b.take 32, 0, 1⟩ ∧ t.hbm = s.hbm) ∧
    (∃ t, exec (.hostDmaDescriptor q .failed [] ⟨false, []⟩) s = .next t ∧ bitOf (reg t .hdm 0x010) 1 = true ∧
      bitOf (reg t .hdm (0x048 + 0x20 * q.val)) 31 = false ∧ t.hbm = s.hbm ∧ t.hdq = s.hdq)) ∧
  (∀ (q : Fin 8) (x : DmaRun) (s : State), mfind s.hdq q.val = some x →
    ∃ t, exec (.hostDmaComplete q) s = .next t ∧ mfind t.hdq q.val = none ∧
      OutMsg.hostWrite (parseDesc x.desc).sts (completion x) ∈ t.out ∧ t.hbm = s.hbm ∧
      reg t .hdm (0x050 + 0x20 * q.val) = w32 (((reg s .hdm (0x050 + 0x20 * q.val)).toNat + 1) %
        2 ^ (fld (reg s .hdm (0x048 + 0x20 * q.val)).toNat 3 0 + 4))) ∧
  (∀ (e : Die) (q : Fin 4) (s : State), dmaqReady s e q = true →
    let o := 0x060 + 0x20 * q.val
    let a := reg64 s (.edg e) o % 2 ^ 42 + 32 * (reg s (.edg e) (o + 16)).toNat
    let d := parseDesc (hbmBytes s a 32)
    s.flaws = [] →
    (rangeValid s a 32 = true → hbmPoisoned s a 32 = false → descOk d 3 = true → d.len ≤ 2 ^ d.seg →
      d.flags.testBit 2 = false → rangeValid s d.p d.len = true → rangeValid s d.m d.len = true → s.ring = [] →
      s.isSealed = false → hbmPoisoned s d.p d.len = false →
      ∃ t, exec (.edgeDmaDescriptor e ⟨q, []⟩) s = .next t ∧ mfind (dieSt t e).dma q.val = some ⟨hbmBytes s a 32, 1, 0⟩ ∧
        hbmBytes t d.m d.len = hbmBytes s d.p d.len ∧
        ∀ a, a < d.m ∨ d.m + d.len ≤ a → hbmByte t a = hbmByte s a) ∧
    (rangeValid s a 32 = false ∨ hbmPoisoned s a 32 = true →
      ∃ t, exec (.edgeDmaDescriptor e ⟨q, []⟩) s = .next t ∧ bitOf (reg t (.edg e) 0x010) 3 = true ∧
        bitOf (reg t (.edg e) (o + 8)) 31 = false ∧ t.hbm = s.hbm)) ∧
  (∀ (e : Die) (q : Fin 4) (x : DmaRun) (s : State), mfind (dieSt s e).dma q.val = some x →
    rangeValid s (parseDesc x.desc).sts 16 = true →
    ∃ t, exec (.edgeDmaComplete e q) s = .next t ∧ mfind (dieSt t e).dma q.val = none ∧
      hbmBytes t (parseDesc x.desc).sts 16 = completion x ∧
      reg t (.edg e) (0x070 + 0x20 * q.val) = w32 (((reg s (.edg e) (0x070 + 0x20 * q.val)).toNat + 1) %
        2 ^ (fld (reg s (.edg e) (0x068 + 0x20 * q.val)).toNat 3 0 + 4))) ∧
  (∀ (rq : Req) (hi : W32) (s : State), MayWrite rq s →
    let v := pairValue s rq .hdm 0x164 hi
    (ldgRd s ≤ v → v ≤ ldgWr s → v % 32 = 0 → s.lostN = 0 →
      ∃ t, exec (.ldgRdWrite rq hi) s = .next t ∧ ldgRd t = v ∧ t.hbm = s.hbm ∧ ldgWr t = ldgWr s) ∧
    (v < ldgRd s ∨ ldgWr s < v ∨ v % 32 ≠ 0 →
      ∃ t, exec (.ldgRdWrite rq hi) s = .next t ∧ ldgRd t = ldgRd s ∧ bitOf (reg t .hdm 0x010) 31 = true ∧ t.hbm = s.hbm))

/-- The tick: marker launch, sleep samples, token ceilings and the boundary. While the array runs ticks: a marker launch
marks the marker on its way; a sleep sample stores which streams hold anywhere on the wafer; a tile whose token total
exceeds its budget gets its average flag and one whose cycle cost exceeds P its peak flag with the highest cost;
nothing else changes. Within the ceilings, and in a module that runs no ticks, nothing changes. At a boundary with no
decision due, RUN_TICK goes on by 1. First what the tick still has under way ends: cycles of an Owl window, HALTs that
crossed the array, streams that wait at a barrier, open combines, blocks at taps; where there is none of these nothing
changes. Then, where every tile has finished its work within its ceilings, no field exceeds its derated ceiling and
nothing asks for a halt, the module stays in Run and every tile keeps its memories, accumulators, setts and
operations. Unfinished work is contract fault 3, a total above its budget contract fault 1, a peak above P contract
fault 2. A halt that is due takes the module to Halt. A RESUME that waits takes it to Run and is done, when no fault
stands. (The model's choices it may rest on: log entries 74, 75, 76, 77, 78, 134, 136, 138.) (derived:
06_tick_and_contract.md R170, R173, R174, 07_streams_and_setts.md R201, 13_power_clock_cooling.md R398,
06_tick_and_contract.md R161, R162, R163, R169, R173, R174, R188, 14_startup_and_reset.md R420) -/
def Obligations.TickPreparationAndBoundary : Prop :=
  (∀ s : State, exec .tickMarkerLaunch s =
    .next (if moving s = true then { s with asq := { s.asq with marker := true } } else s)) ∧
  (∀ (i : Img) (s : State), s.image = some i → moving s = true →
    ∃ n, exec .sleepSample s = .next { s with asq := { s.asq with sampled := n } } ∧
      ∀ st : Strm, n.testBit (strmCode st) = true ↔
        ∃ p ∈ imageTiles i, (tile s p.1 p.2).fenced = false ∧ holds s i p.1 p.2 st = true) ∧
  (∀ (u v : Nat) (i : Img) (s : State), s.image = some i → moving s = true → inImage s u v = true →
    (budget s i < (tile s u v).tok →
      exec (.tokAvgOverdraw u v) s = .next (setTile u v { tile s u v with tokAvg := true } s)) ∧
    ((tile s u v).tok ≤ budget s i → exec (.tokAvgOverdraw u v) s = .next s)) ∧
  (∀ (u v cost : Nat) (i : Img) (s : State), s.image = some i → moving s = true → inImage s u v = true →
    ((ceilings s i).2 < cost → exec (.peakOverdraw u v cost) s = .next (setTile u v { tile s u v with
      tokPeak := true, tokPkNow := max (tile s u v).tokPkNow cost } s)) ∧
    (cost ≤ (ceilings s i).2 → exec (.peakOverdraw u v cost) s = .next s)) ∧
  (∀ (u v cost : Nat) (s : State), moving s = false →
    exec .sleepSample s = .next s ∧ exec (.tokAvgOverdraw u v) s = .next s ∧ exec (.peakOverdraw u v cost) s = .next s) ∧
  (∀ (i : Img) (s : State), s.image = some i → s.loading = false → s.run = .run → deciding s = false →
    let b := tapsAtEnd (combinesGoOn (haltTokens i (windowEndAll i s)))
    let late := ∃ p ∈ imageTiles i, unfinished b i (tile b p.1 p.2) = true
    let spent := ∃ p ∈ imageTiles i, budget b i < (tile b p.1 p.2).tok
    let peak := ∃ p ∈ imageTiles i, (ceilings b i).2 < (tile b p.1 p.2).tokPkNow
    (s.asq.haltHops = 0 → mwf Tile.blank s.tiles →
      (∀ e ∈ s.tiles, e.2.cF.barrier = none ∧ e.2.cB.barrier = none ∧ e.2.cW.barrier = none) → (∀ tr, tickNow s = some tr → tr.owlWin = false) →
      (∀ p ∈ imageTiles i, (tile s p.1 p.2).comb = [] ∧ (tile s p.1 p.2).fsIn = []) → b = s) ∧
    ∃ t, exec .tickBoundary s = .next t ∧ reg64 t .asq 0x04C = (reg64 s .asq 0x04C + 1) % 2 ^ 64 ∧
      (late → bitOf (reg t .asq 0x010) 3 = true) ∧ (spent → bitOf (reg t .asq 0x010) 1 = true) ∧
      (peak → bitOf (reg t .asq 0x010) 2 = true) ∧
      (¬ late → ¬ spent → ¬ peak → (∀ p, placeOk b = some p → fieldOver b p i = none) → b.asq.haltPend = false →
        b.run = .run → b.pendCfg = none → t.run = .run ∧ t.asq.haltPend = false ∧ t.hbm = b.hbm ∧ t.links = b.links ∧
        ∀ k, (mget Tile.blank t.tiles k).sram = (mget Tile.blank b.tiles k).sram ∧
          (mget Tile.blank t.tiles k).acc = (mget Tile.blank b.tiles k).acc ∧
          (mget Tile.blank t.tiles k).setts = (mget Tile.blank b.tiles k).setts ∧
          (mget Tile.blank t.tiles k).ops = (mget Tile.blank b.tiles k).ops) ∧
      (b.asq.haltPend = true → b.stuck = false → b.busy = none → b.pendCfg = none → (∀ p, placeOk b = some p → fieldOver b p i = none) →
        t.run = .halt ∧ t.asq.haltPend = false)) ∧
  (∀ (i : Img) (s : State), s.image = some i → s.loading = false → s.run = .halt → s.busy = some .resume → s.asq.tick1 = false →
    s.asq.haltPend = false → faultValid s = false → s.asq.recov.suspects = [] → s.asq.recov.hbm = none →
    ∃ t, exec .tickBoundary s = .next t ∧ t.run = .run ∧ t.busy = none ∧ reg t .mid 0x088 = w32 (2 ^ 31 + 7 * 256) ∧
      t.hbm = s.hbm)

/-- LADDER_DECISION and OWL_CHECK_COMPLETE. A decision that is due is taken: with no overflow in the combined flags the
attempt stands, the rung is unchanged; with one, below the top rung, the unit goes to the next rung with its hold
count and the repeat is counted; at the top rung error bit 0 of OWL is set and the rung stays. The unit then has no
decision due. A check of the Owl that completes frees the Owl and costs its tile 6 tokens for each cycle of the check
not yet charged; with a missing shadow it is counted as not compared with error bit 2; otherwise it is counted, and a
disagreement of at least the hard threshold sets error bit 1 and the unit's overflow cause 3. (The model's choices it
may rest on: log entries 66, 79, 90, 138, 177.) (derived: 04_numerics_guard_and_scales.md R103, R105, R106, R111,
R113, R114) -/
def Obligations.DecisionsAndChecks : Prop :=
  (∀ (unit flags : Nat) (mx : List W32) (i : Img) (d : UnitDesc) (s : State), s.image = some i → s.run = .run →
    (unitSt s unit).due = some 0 → unitDesc i unit = some d → unitResult s i unit = some (flags, mx) →
    ∃ t, exec (.ladderDecision unit) s = .next t ∧ (unitSt t unit).due = none ∧
      (flags % 2 = 0 → (unitSt t unit).rung = (unitSt s unit).rung ∧ (unitSt t unit).hold = (unitSt s unit).hold) ∧
      (flags % 2 = 1 → (unitSt s unit).rung < d.top →
        (unitSt t unit).rung = (unitSt s unit).rung + 1 ∧ (unitSt t unit).hold = d.hold ∧ (unitSt t unit).raised = some (arrStep s) ∧
        (pageFrz s .owl = false → reg t .owl 0x060 = satInc (reg s .owl 0x060))) ∧
      (flags % 2 = 1 → d.top ≤ (unitSt s unit).rung →
        (unitSt t unit).rung = (unitSt s unit).rung ∧ (unitSt t unit).hold = d.hold ∧ bitOf (reg t .owl 0x010) 0 = true)) ∧
  (∀ (u v : Nat) (i : Img) (tr : TickRec) (o : OwlSample) (s : State), s.image = some i → tickNow s = some tr →
    (tile s u v).owl = some o → tr.owlWin = true → issuing s = true → s.loading = false → (tile s u v).fenced = false →
    prtUnit s 0x060 o.unit = false →
    ∃ t, exec (.owlCheckComplete u v) s = .next t ∧ (tile t u v).owl = none ∧ (tile t u v).sram = (tile s u v).sram ∧
      (tile t u v).tok = (tile s u v).tok + 6 * (owlCycles o - o.spent) ∧
      (∀ k, k ≠ tileKey u v → mget Tile.blank t.tiles k = mget Tile.blank s.tiles k) ∧ t.asq = s.asq ∧
      (o.x = none → bitOf (reg t .owl 0x010) 2 = true ∧ (pageFrz s .owl = false → reg t .owl 0x05C = satInc (reg s .owl 0x05C)) ∧
        (tile t u v).ovf = (tile s u v).ovf) ∧
      (∀ xs, o.x = some xs → (pageFrz s .owl = false → reg t .owl 0x04C = satInc (reg s .owl 0x04C)) ∧
        (((unitDesc i o.unit).getD default).th ≤ blockD o xs → bitOf (reg t .owl 0x010) 1 = true ∧
          (mget 0 (tile t u v).ovf o.unit).testBit 3 = true) ∧
        (blockD o xs < ((unitDesc i o.unit).getD default).th → (tile t u v).ovf = (tile s u v).ovf)))

/-- The step boundary and the step watchdog. In Run, and in a voided step in which the dies go on alone, the step boundary
ends the step once every ARR region has reached its block count (in an image without one, at the end of the main
program of the step): STEP goes on by 1 and no more. Before that nothing happens. While the ledger has too little room
the boundary holds: error bit 4 of HDM is set. The step watchdog in Run is contract fault 10. (The model's choices it
may rest on: log entries 84, 85, 86, 154, 172.) (derived: 01_one_step_through_the_module.md R29,
06_tick_and_contract.md R190, 09_edge_dies_and_parameter_home.md R281, 15_faults_and_recovery.md R434,
17_registers_and_configuration.md R499, R500) -/
def Obligations.StepBoundary : Prop :=
  (∀ (i : Img) (s : State), s.image = some i → diesRun s = true → s.run ≠ .ready → s.asq.holdB = false →
    let due := (s.run = .run ∨ s.asq.voided = true) ∧
      (∀ r ∈ i.regions, r.arr = true → r.nblk ≤ mget 0 (dieSt s r.owner).arr r.idx) ∧
      ((∃ r ∈ i.regions, r.arr = true) ∨ s.run ≠ .run ∨ (atEnd s i = true ∧ stepNo s ≤ arrStep s))
    (due → ∃ t, exec .stepBoundary s = .next t ∧ reg64 t .asq 0x058 = (reg64 s .asq 0x058 + 1) % 2 ^ 64) ∧
    (¬ due → exec .stepBoundary s = .next s)) ∧
  (∀ (i : Img) (s : State), s.image = some i → diesRun s = true → s.run ≠ .ready → s.asq.holdB = true →
    s.rdc.epochPend = false → (epochHolds s = true ∨ ledgerHolds s = true ∨ stepProgs s i = true) →
    exec .stepBoundary s = .next s) ∧
  (∀ (i : Img) (s : State), s.image = some i → s.run = .run → s.loading = false →
    ∃ t, exec .stepWatchdog s = .next t ∧ bitOf (reg t .asq 0x010) 10 = true ∧ t.asq.contract = true ∧
      t.asq.haltPend = true ∧ t.tiles = s.tiles ∧ t.now = max s.now (s.asq.stepStart + i.stepWd * 1000000000)) ∧
  (∀ (i : Img) (s : State), ledgerHolds s = true → ∀ a, endStep i a = s → bitOf (reg s .hdm 0x010) 4 = true)

/-- CONTRIB8, CONTRIB16, PARTIAL8, PARTIAL16. At the home of a channel that waits, a frame of one block that passes its
checks, in an open reduction, of a share not yet taken and not a backup's copy, adds its block to the sum of its home
block: lanes, residue and largest magnitude. The block counts as taken; with another share still missing the reduction
is not complete. The sums of the other home blocks, every other reduction and the parameter store are unchanged. A
block whose residue does not match, or after which the residue of the summed lanes does not, starts the reduction over
and counts, with error bit 0 or 2 of RED; the fourth in a step stops the channel with error bit 2 of RDC. (The model's
choices it may rest on: log entries 106, 149, 196.) (derived: 10_gradient_reduction.md R294, R296, R297, R298, R306,
R308, R309) -/
def Obligations.ContributionsAreAdded : Prop :=
  ∀ (c : RFrame → Instr) (ty : Nat), (c, ty) ∈ [(Instr.contrib8, 1), (Instr.contrib16, 2), (Instr.partial8, 3), (Instr.partial16, 4)] →
  ∀ (f0 : RFrame) (g : GBlock) (p : Plan) (ch : Chan) (rn : Redn) (x : Share) (s : State),
    let f : RFrame := { f0 with typ := ty }
    let w := typWide f
    let k := redKey f.chan f.rseq
    let a := addSt s k ch.home
    let sh := sharesOf p ch
    diesRun s = true → f.epoch = epochNow s → ChanWaits s p ch → (chanSt s f.chan).stopped = false →
    oldWidth s f w.1 = false → underWay s p f w.2 = false → contribBad s p f w.1 w.2 = none →
    chanOf p f.chan = some ch → redOf p f.chan f.rseq = some rn → rn ∈ redsOf p ch → roleFor s p ch f = some ch.home →
    inOpen s p ch ch.home f.rseq = true → f.blocks = [g] → f.poison = false → f.backup = false → f.ovf = false →
    (takesOf sh ch.home).find? (fun y => y.share = f.share) = some x → f.blk0 < 2 ^ 32 → x.share ∉ a.omitted →
    mget false a.taken (takeKey x.share f.blk0) = false → mget [] a.held (takeKey x.share f.blk0) = [] →
    (∃ y ∈ takesOf sh ch.home, y.share ≠ x.share ∧ shareDone a rn y.share = false) →
    (blockGood w.1 w.2 g = true → g.x = agreedX s rn f.blk0 (stepNo s) →
      (addEntry w.2 (mfind a.sums f.blk0) g).r = residue (addEntry w.2 (mfind a.sums f.blk0) g).lanes →
      ∃ t, exec (c f0) s = .next t ∧
        mfind (addSt t k ch.home).sums f.blk0 = some (addEntry w.2 (mfind a.sums f.blk0) g) ∧
        (∀ b, b ≠ f.blk0 → mfind (addSt t k ch.home).sums b = mfind a.sums b) ∧
        mget false (addSt t k ch.home).taken (takeKey x.share f.blk0) = true ∧ (addSt t k ch.home).complete = a.complete ∧
        (∀ role, role ≠ ch.home → addSt t k role = addSt s k role) ∧
        (∀ j, j ≠ k → redSt t j = redSt s j) ∧ t.hbm = s.hbm ∧ t.tiles = s.tiles) ∧
    (∀ d, ((g.r ≠ 0xFF ∧ g.r ≠ residue g.lanes ∧ d = 0) ∨ (blockGood w.1 w.2 g = true ∧ g.x = agreedX s rn f.blk0 (stepNo s) ∧
        (addEntry w.2 (mfind a.sums f.blk0) g).r ≠ residue (addEntry w.2 (mfind a.sums f.blk0) g).lanes ∧ d = 2)) →
      ∃ t, exec (c f0) s = .next t ∧ bitOf (reg t (.red (blockDie s f.blk0)) 0x010) d = true ∧
        a.fails < (addSt t k ch.home).fails ∧
        (a.fails < 3 → mget [] s.rdc.kept k = [] → (addSt t k ch.home).sums = [] ∧ (addSt t k ch.home).fails = a.fails + 1) ∧
        (3 ≤ a.fails → (chanSt t f.chan).stopped = true ∧ bitOf (reg t .rdc 0x010) 2 = true))

/-- Sums and residues do not depend on the order of arrival. Whatever the order in which the blocks of the shares of a
reduction arrive, the sum area entry of a home block ends the same, where all have 32 lanes and the agreed exponent;
and where every block's residue is that of its lanes, the residue of the entry is that of the summed lanes, so that
the third check passes exactly when the adder added right. (derived: 10_gradient_reduction.md R295, R296, R297, R309) -/
def Obligations.SumsDoNotDependOnOrder : Prop :=
  (∀ (part : Bool) (e : Nat) (l l' : List GBlock), l.Perm l' → (∀ g ∈ l, g.lanes.length = 32 ∧ g.x = e ∧ g.r < 255) →
    l.foldl (fun a g => some (addEntry part a g)) none = l'.foldl (fun a g => some (addEntry part a g)) none) ∧
  (∀ (part : Bool) (l : List GBlock) (y : SumEnt), (∀ g ∈ l, g.lanes.length = 32 ∧ g.r = residue g.lanes) →
    l.foldl (fun a g => some (addEntry part a g)) none = some y →
    y.lanes.length = 32 ∧ y.r = residue y.lanes ∧
    ∀ j, j < 32 → y.lanes.getD j 0 = (l.map fun g => g.lanes.getD j 0).sum)

/-- WIDEN, RESEND, PARAM, DONE, PERMUTE, PERM_DONE. A frame of this epoch on a channel of the plan that is not stopped and
passes its checks: a WIDEN makes the reduction wide, once; a RESEND makes a sender send again from its retained
copies, which stay, marked RESENT, unless the step is voided; a PARAM of one entry not yet held writes that entry to
the store, and a second copy only counts; a DONE with every entry held marks the reduction done and frees its retained
copies, and one before that stops the channel with error bit 1; a PERMUTE puts its words in the store and counts them;
a PERM_DONE of the epoch in force is held. A frame of another epoch only counts. (The model's choices it may rest on:
log entries 106, 107, 108, 148, 149, 150, 202.) (derived: 10_gradient_reduction.md R298, R306, R310, R311, R312, R323,
R324, R329, R330, 11_ngamor_links_and_jobs.md R357) -/
def Obligations.ReductionControlFrames : Prop :=
  (∀ (f : RFrame) (p : Plan) (ch : Chan) (rn : Redn) (s : State),
    diesRun s = true → f.epoch = epochNow s → s.rdc.plan = some p → (chanSt s f.chan).stopped = false →
    chanOf p f.chan = some ch → redOf p f.chan f.rseq = some rn → f.step = stepNo s % 2 ^ 32 → rn.layer = f.layer →
    let k := redKey f.chan f.rseq
    let sh := sharesOf p ch
    (partOf ch sh (selfM s) = true → selfM s ≠ ch.home → (f.src = ch.home ∨ ch.shadowed = true ∧ f.src = ch.shome) →
      (sendsOn sh (selfM s) = true ∨ ch.shadowed = true ∧ ch.shome = selfM s) →
      ((redSt s k).wide = false →
        ∃ t, exec (.widen f) s = .next t ∧ (redSt t k).wide = true ∧ (redSt t k).widened = true ∧ t.tiles = s.tiles) ∧
      ((redSt s k).wide = true → exec (.widen f) s = .next s)) ∧
    (sendsOn sh (selfM s) = true → selfM s ≠ ch.home →
      (f.src = ch.home ∨ ch.shadowed = true ∧ f.src = ch.shome ∨ ∃ x ∈ sh, x.parent = f.src ∨ x.pshadow = f.src) →
      ∃ t, exec (.resend f) s = .next t ∧ t.rdc.kept = s.rdc.kept ∧ (redSt t k).resent = true ∧ t.tiles = s.tiles ∧
        ((∀ role ∈ rolesOf ch sh (selfM s), role ≠ ch.home → ∀ y, roleShare sh role = some y → f.src ∉ partialTo ch y) →
          rn.chan = f.chan → s.asq.voided = false → t.hbm = s.hbm ∧ (redSt t k).adds = (redSt s k).adds ∧
          ∀ x ∈ mySharesOf sh (selfM s), f.src ∈ contribTo ch sh x.1 →
            let run := runFrom (mget [] s.rdc.kept k) x.1.share rn.nblk rn.blk0
            mfind (redSt t k).xnext x.1.share = if run = [] then none else some (rn.blk0 + run.length))) ∧
    (∀ e, partOf ch sh (selfM s) = true → selfM s ≠ ch.home → f.src = ch.home → (chanSt s ch.num).takeover = false → f.takeover = false →
      f.params = [e] → f.nblk = 1 → rn.blk0 ≤ f.blk0 → f.blk0 + 1 ≤ rn.blk0 + rn.nblk →
      ((parHas s rn f.blk0 = false → ∃ t, exec (.param f) s = .next t ∧ t.hbm = (writeParam rn f.blk0 e f.cscale s).hbm ∧
          parHas t rn f.blk0 = true) ∧
       (parHas s rn f.blk0 = true → ∃ t, exec (.param f) s = .next t ∧ t.hbm = s.hbm ∧ t.rdc.parGot = s.rdc.parGot))) ∧
    (partOf ch sh (selfM s) = true → selfM s ≠ ch.home → f.src = ch.home → (chanSt s ch.num).takeover = false →
      (parAll s rn = true → ∃ t, exec (.done f) s = .next t ∧ (redSt t k).doneSeen = true ∧ mget [] t.rdc.kept k = [] ∧
        t.hbm = s.hbm) ∧
      (parAll s rn = false → ∃ t, exec (.done f) s = .next t ∧ (chanSt t f.chan).stopped = true ∧
        bitOf (reg t .rdc 0x010) 1 = true ∧ redSt t k = redSt s k))) ∧
  (∀ (f : RFrame) (i : Img) (p : Plan) (e : Perm) (s : State), diesRun s = true → f.epoch = epochNow s → s.rdc.plan = some p →
    s.image = some i → p.perms[f.blk0]? = some e → permState s = 1 → e.dst = selfM s → e.src = f.src →
    f.cscale.toNat + f.words.length ≤ permWords e →
    ∃ t, exec (.permute f) s = .next t ∧ mget 0 t.rdc.permGot f.blk0 = mget 0 s.rdc.permGot f.blk0 + f.words.length ∧
      (s.ledger = none → t.hbm = (putStateWords i e.words e.dstBlk f.cscale.toNat f.words s).hbm)) ∧
  (∀ (f : RFrame) (s : State), diesRun s = true → (f.epoch = epochNow s ∨ f.epoch = epochNext s) →
    ∃ t, exec (.permDone f) s = .next t ∧ (f.src, f.epoch) ∈ t.rdc.doneHave ∧ t.tiles = s.tiles ∧
      (permState s = 1 → (∀ m, m = selfM s ∨ m ∈ members s → m = f.src ∧ f.epoch = epochNow s ∨ m ∈ heldDone s) → permState t = 2)) ∧
  (∀ (f : RFrame) (s : State), diesRun s = true → f.epoch ≠ epochNow s → f.epoch ≠ epochNext s →
    exec (.widen f) s = .next (bump .rdc 0x074 s) ∧ exec (.resend f) s = .next (bump .rdc 0x074 s) ∧
    exec (.param f) s = .next (bump .rdc 0x074 s) ∧ exec (.done f) s = .next (bump .rdc 0x074 s) ∧
    exec (.permute f) s = .next (bump .rdc 0x074 s) ∧ exec (.permDone f) s = .next (bump .rdc 0x074 s))

/-- Deadlines of reductions, OMIT, RESET, the permute timeout. When the deadline of a reduction passes with a share
missing that has no backup and of which no copy is arriving, the reduction is held on the first missing share and
error bit 0 of RDC is set. OMIT omits every share that the held reduction misses and ends the hold. RESET ends the
stop and the holds of a channel and empties the sums of its open reductions and its queue; of what the module itself
retains nothing goes, and its own share is taken again from there. When the return deadline passes at a shadow home
without the home's DONE, it takes the channel over, with error bit 6: what it holds of the reduction is written and
sent, and with every block of it the reduction is done. A permute not complete in time fails with state 3 and error
bit 5. (The model's choices it may rest on: log entries 3, 140, 195, 197.) (derived: 10_gradient_reduction.md R306,
R315, R316, R317, R327, R330, Table 10.11) -/
def Obligations.ReductionDeadlines : Prop :=
  (∀ (c q e role : Nat) (l : List (Nat × Nat)) (p : Plan) (ch : Chan) (rn : Redn) (x : Share) (s : State), diesRun s = true →
    ChanWaits s p ch → chanOf p c = some ch → redOf p c q = some rn → rn ∈ redsOf p ch →
    let k := redKey c q
    dueRoles s ch (sharesOf p ch) rn = (role, e) :: l → (chanSt s c).stopped = false →
    (∀ y ∈ takesOf (sharesOf p ch) role, backupsOf (sharesOf p ch) role y = []) → (addSt s k role).poisoned = [] →
    (takesOf (sharesOf p ch) role).find? (fun y => !shareDone (addSt s k role) rn y.share) = some x →
    ((addSt s k role).past = true ∨ ∀ y ∈ takesOf (sharesOf p ch) role, arriving (sharesOf p ch) role (addSt s k role) rn y = false) →
    ∃ t, exec (.contributionDeadline c q) s = .next t ∧ (addSt t k role).past = true ∧
      (addSt t k role).holding = some x.share ∧ bitOf (reg t .rdc 0x010) 0 = true ∧
      t.now = max s.now (e + 1000 * ch.slack) ∧ (addSt t k role).sums = (addSt s k role).sums) ∧
  (∀ (rq : Req) (c role : Nat) (p : Plan) (ch : Chan) (rn : Redn) (s : State), MayWrite rq s → ChanWaits s p ch →
    chanOf p c = some ch → heldRole s p ch = some (rn, role) → (∀ f ∈ s.rdc.queue, f.chan ≠ c) →
    let k := redKey c rn.rseq
    (∀ e ∈ (addSt s k role).prim, e.2.2.lanes.length = 32 ∧ e.2.2.r = residue e.2.2.lanes) →
    ∃ t, exec (.omit_ rq c) s = .next t ∧ (addSt t k role).holding = none ∧
      ∀ y ∈ takesOf (sharesOf p ch) role, shareDone (addSt s k role) rn y.share = false → y.share ∈ (addSt t k role).omitted) ∧
  (∀ (rq : Req) (c : Nat) (p : Plan) (ch : Chan) (s : State), MayWrite rq s → s.rdc.plan = some p → chanOf p c = some ch →
    (∀ rn ∈ redsOf p ch, redOf p c rn.rseq = some rn) →
    ∃ t, exec (.reset rq c) s = .next t ∧ (∀ f ∈ t.rdc.queue, f.chan ≠ c) ∧ t.rdc.kept = s.rdc.kept ∧
      (∀ d, d ≠ c → chanSt t d = chanSt s d) ∧
      ((∀ rn ∈ redsOf p ch, mget [] s.rdc.kept (redKey c rn.rseq) = []) →
        (∀ rn ∈ redsOf p ch, ∀ role ∈ rolesOf ch (sharesOf p ch) (selfM s), role ≠ ch.home →
          let a := addSt s (redKey c rn.rseq) role
          a.complete = true → a.pnext = some (rn.blk0 + rn.nblk)) →
        (chanSt t c).stopped = false ∧ t.hbm = s.hbm ∧
        ∀ rn ∈ redsOf p ch, ∀ role ∈ rolesOf ch (sharesOf p ch) (selfM s), (addSt s (redKey c rn.rseq) role).complete = false →
          (addSt t (redKey c rn.rseq) role).sums = [] ∧ (addSt t (redKey c rn.rseq) role).taken = [] ∧
          (addSt t (redKey c rn.rseq) role).holding = none)) ∧
  (∀ (c q v : Nat) (p : Plan) (ch : Chan) (rn : Redn) (s : State), s.rdc.plan = some p → chanOf p c = some ch →
    redOf p c q = some rn → rn ∈ redsOf p ch → (∀ r ∈ redsOf p ch, redOf p c r.rseq = some r) → rn.blk0 + rn.nblk ≤ 2 ^ 32 →
    let k := redKey c q
    mfind s.rdc.shDue k = some v → diesRun s = true → ch.shadowed = true → selfM s = ch.shome →
    (redSt s k).doneSeen = false → (chanSt s c).stopped = false → (chanSt s c).takeover = false →
    ∃ t, exec (.returnDeadline c q) s = .next t ∧ (chanSt t c).takeover = true ∧ mget [] t.rdc.shOut k = [] ∧
      bitOf (reg t .rdc 0x010) 6 = true ∧ t.now = max s.now v ∧
      (mget [] s.rdc.shOut k ≠ [] → (∀ b, rn.blk0 ≤ b → b < rn.blk0 + rn.nblk →
          ∃ f ∈ mget [] s.rdc.shOut k, f.blk0 ≤ b ∧ b < f.blk0 + f.params.length) →
        (redSt t k).doneSeen = true)) ∧
  (∀ s : State, powered s = true → permState s = 1 →
    ∃ t, exec .permuteTimeout s = .next t ∧ permState t = 3 ∧ bitOf (reg t .rdc 0x010) 5 = true ∧ t.tiles = s.tiles ∧
      t.rdc = s.rdc)

/-- Frames that arrive on a link. An intact frame in order, for this module, is taken: the link expects the next and owes
an acknowledgement; a FAR frame then acts as a far-sett signal, an XFER frame as a part of a stage transfer, a TUNNEL
frame as the frame inside it. A FAR frame between dies that the ring no longer joins is lost. A FAR frame of this
epoch signals its far sett, and one of another epoch is dropped with error bit 1 of its FST page; the expected XFER
part is written to its region. An ACK releases the frames up to the one it names; a NAK of a frame still held has the
frames from it on sent again and counts; a HELLO of a known other module makes it the neighbour; a HELLO with the own
ID is a conflict with error bit 4; a TSYNC request is answered with its own t1, and a response that answers no request
changes nothing of the job time. (The model's choices it may rest on: log entries 112, 113, 156, 159, 203.) (derived:
11_ngamor_links_and_jobs.md R339, R342, R343, R348, R352, R358, R359, R362, 07_streams_and_setts.md R222) -/
def Obligations.LinkFrames : Prop :=
  (∀ (p : Die) (f : LFrame) (s : State), InOrder p f s →
    (f.ltype = 2 → ringReach s p (Fin.ofNat 16 (byteAt f.body 6 / 16)) = true → ∃ a, Taken p s a ∧ exec (.farFrame p f) s = .next (farIn f a)) ∧
    (f.ltype = 2 → ringReach s p (Fin.ofNat 16 (byteAt f.body 6 / 16)) = false → ∃ a, Taken p s a ∧ exec (.farFrame p f) s = .next a) ∧
    (f.ltype = 3 → ∃ a, Taken p s a ∧ exec (.xferFrame p f) s = .next (xferIn p f a)) ∧
    (f.ltype = 4 → ∃ a, Taken p s a ∧ exec (.tunnelFrame p f) s = .next (untunnel p f a))) ∧
  (∀ (f : LFrame) (s : State),
    let d : Die := Fin.ofNat 16 (byteAt f.body 6 / 16)
    (fieldLE f.body 16 2 = epochNow s → ∃ n, n < 16 ∧ farIn f s = farSignal d (Fin.ofNat 16 (byteAt f.body 6)) f.src n (freshFree s)) ∧
    (fieldLE f.body 16 2 ≠ epochNow s → bitOf (reg (farIn f s) (.fst d) 0x010) 1 = true)) ∧
  (∀ (p : Die) (f : LFrame) (e : StageEnt) (n : Nat) (r : Region) (s : State),
    let x := mget default s.stageSt n
    let off := fieldLE f.body 8 8
    let data := f.body.drop 16
    x.stopped = false → fieldLE f.body 4 4 = x.rxCount → off = x.rxOff → off + data.length < e.size → data.length % 64 = 0 →
    data ≠ [] → data.length ≤ 2048 →
    ∃ t, xferPart p f e n r s = t ∧ t.hbm = (regionWrite r (fieldLE f.body 4 4) off data s).hbm ∧
      mget default t.stageSt n = { x with rxOff := off + data.length }) ∧
  (∀ (p : Die) (f : LFrame) (k : Nat) (s : State), powered s = true → portFitted s.code p = true → (linkSt s p).portUp = true →
    (linkSt s p).queue = [] → WholeFrame s p f → frameOk f = true → f.ltype = 0x0A → f.ackv = true → f.freev = false →
    (linkSt s p).unacked.findIdx? (fun g => g.lseq % 4096 = f.ackseq) = some k →
    ∃ t, exec (.ack p f) s = .next t ∧ (linkSt t p).unacked = (linkSt s p).unacked.drop (k + 1) ∧ (linkSt t p).replays = 0 ∧
      (linkSt t p).rxExp = (linkSt s p).rxExp ∧ (∀ q, q ≠ p → linkSt t q = linkSt s q) ∧ t.out = s.out) ∧
  (∀ (p : Die) (f : LFrame) (k : Nat) (s : State), powered s = true → portFitted s.code p = true → portActive s p = true →
    (linkSt s p).onAlt = false → (linkSt s p).heldDown = false → (linkSt s p).queue = [] → WholeFrame s p f → frameOk f = true → f.ltype = 0x0B →
    f.ackv = false → f.freev = false → (linkSt s p).replays < 4 →
    (linkSt s p).unacked.findIdx? (fun g => g.lseq % 4096 = fieldLE f.body 0 2 % 4096) = some k →
    ∃ t, exec (.nak p f) s = .next t ∧ (linkSt t p).unacked = (linkSt s p).unacked ∧ (linkSt t p).replays = (linkSt s p).replays + 1 ∧
      (∀ g ∈ (linkSt s p).unacked.drop k, ∃ h, OutMsg.frame p h ∈ t.out ∧ h.lseq = g.lseq ∧ h.body = g.body ∧ h.ltype = g.ltype) ∧
      (pageFrz s (.lnk p) = false → reg t (.lnk p) 0x058 = satInc (reg s (.lnk p) 0x058))) ∧
  (∀ (p : Die) (f : LFrame) (s : State), powered s = true → portFitted s.code p = true → (linkSt s p).portUp = true →
    (linkSt s p).queue = [] → WholeFrame s p f → frameOk f = true → f.ltype = 8 → f.ackv = false → f.freev = false →
    let id := fieldLE f.body 0 2
    (∀ n, id ≠ 0 → id ≠ 0xFFFF → id ≠ ownId s → peerOf s id = some n →
      ∃ t, exec (.hello p f) s = .next t ∧ (linkSt t p).far = id ∧ (linkSt t p).nbrIv = max 1 (byteAt f.body 6) ∧
        (linkSt t p).conflict = false ∧ (peerSt t n).nbr = true ∧ (peerSt t n).hello = s.now ∧
        reg t (.lnk p) 0x048 = w32 (id * 65536 + byteAt f.body 2 % 16)) ∧
    (id = ownId s → id ≠ 0 → id ≠ 0xFFFF →
      ∃ t, exec (.hello p f) s = .next t ∧ (linkSt t p).conflict = true ∧ (linkSt t p).nbrIv = 0 ∧
        bitOf (reg t (.lnk p) 0x010) 4 = true)) ∧
  (∀ (p : Die) (f : LFrame) (s : State), powered s = true → portFitted s.code p = true → (linkSt s p).portUp = true →
    (linkSt s p).queue = [] → WholeFrame s p f → frameOk f = true → f.ltype = 9 → f.ackv = false → f.freev = false →
    (byteAt f.body 0 = 0 →
      ∃ t h, exec (.tsyncRequest p f) s = .next t ∧ t.out = .frame p h :: s.out ∧ h.ltype = 9 ∧ h.dst = f.src ∧
        h.body = tsyncBody 1 (fieldLE f.body 8 8) (jtime s) (jtime s)) ∧
    (byteAt f.body 0 = 1 → (linkSt s p).t1 ≠ some (fieldLE f.body 8 8) →
      ∃ t, exec (.tsyncResponse p f) s = .next t ∧ reg64 t .rdc 0x23C = reg64 s .rdc 0x23C ∧ t.tsynced = s.tsynced ∧ t.out = s.out) ∧
    (byteAt f.body 0 = 1 → (linkSt s p).t1 = some (fieldLE f.body 8 8) →
      ∃ t, exec (.tsyncResponse p f) s = .next t ∧ (linkSt t p).t1 = none ∧
        (isMaster s = false → tparent s = some p → t.tsynced = true)))

/-- Ports, their timers and cages. A fitted, enabled port that trains is up, without a neighbour, and sends a HELLO at
once; a port that goes down is not up, has no neighbour, with error bit 0; the HELLO timer sends a HELLO; a silent
neighbour is forgotten with error bit 5; the ACK timer sends what the link owes; a replay timeout sends the
unacknowledged frames again and counts, and the fifth in a row takes the path down as a failed port does, with error
bit 2 where it has no alternate. The time master's JOFF is 0; another module sends a request to its time parent. A
cage takes a pluggable and holds one of more than 25 W, as one that times out; removing it empties the cage;
PORT_RESET forgets the neighbour and keeps the link's sequence. (The model's choices it may rest on: log entries 3,
109, 110, 114.) (derived: 11_ngamor_links_and_jobs.md R336, R342, R344, R348, R351, R359, 14_startup_and_reset.md
R423, Table 14.4, 19_host_interface_and_connectors.md R541) -/
def Obligations.LinkPorts : Prop :=
  (∀ (p : Die) (pmd : Nat) (s : State), powered s = true → portFitted s.code p = true → pageEn s (.lnk p) = true →
    s.tripLatched = false → (linkSt s p).portUp = false → (mget Cage.blank s.cages p.val).held = false →
    ∃ t h, exec (.portTrained p pmd) s = .next t ∧ (linkSt t p).portUp = true ∧ (linkSt t p).nbrIv = 0 ∧
      t.out = .frame p h :: s.out ∧ h.ltype = 8 ∧ h.body = helloBody s p ∧ (∀ q, q ≠ p → linkSt t q = linkSt s q) ∧
      ((linkSt s p).onAlt = false → reg t (.lnk p) 0x040 = w32 (2 + 2 ^ 8 * 15 + 2 ^ 16 * (pmd % 256)))) ∧
  (∀ (p : Die) (s : State), powered s = true → (linkSt s p).portUp = true → altPort s p = none → (linkSt s p).onAlt = false →
    (linkSt s p).heldDown = false →
    ∃ t, exec (.portDown p) s = .next t ∧ (linkSt t p).portUp = false ∧ (linkSt t p).nbrIv = 0 ∧
      bitOf (reg t (.lnk p) 0x010) 0 = true ∧ bitOf (reg t (.lnk p) 0x010) 2 = true) ∧
  (∀ (p : Die) (s : State), powered s = true → (linkSt s p).portUp = true →
    ∃ t h, exec (.helloTimer p) s = .next t ∧ t.out = .frame p h :: s.out ∧ h.ltype = 8 ∧ h.body = helloBody s p ∧ h.noseq = true) ∧
  (∀ (p : Die) (s : State), powered s = true → (linkSt s p).nbrIv ≠ 0 →
    ∃ t, exec (.neighbourTimeout p) s = .next t ∧ (linkSt t p).nbrIv = 0 ∧ bitOf (reg t (.lnk p) 0x010) 5 = true ∧
      reg t (.lnk p) 0x048 = 0 ∧ (linkSt t p).unacked = (linkSt s p).unacked) ∧
  (∀ (p : Die) (s : State), powered s = true → (linkSt s p).report = true → portActive s p = true → (linkSt s p).onAlt = false →
    (linkSt s p).heldDown = false →
    ∃ t h, exec (.ackTimer p) s = .next t ∧ t.out = .frame p h :: s.out ∧ h.ltype = 0x0A ∧ (linkSt t p).report = false ∧
      ((linkSt s p).rxExp ≠ 0 → h.ackv = true ∧ h.ackseq = ((linkSt s p).rxExp + 4095) % 4096)) ∧
  (∀ (p : Die) (s : State), powered s = true → (linkSt s p).unacked ≠ [] → portActive s p = true → (linkSt s p).onAlt = false →
    (linkSt s p).heldDown = false → (linkSt s p).queue = [] →
    ((linkSt s p).replays < 4 →
      ∃ t, exec (.replayTimeout p) s = .next t ∧ (linkSt t p).replays = (linkSt s p).replays + 1 ∧
        (linkSt t p).unacked = (linkSt s p).unacked ∧
        (pageFrz s (.lnk p) = false → reg t (.lnk p) 0x05C = satInc (reg s (.lnk p) 0x05C)) ∧
        ∀ g ∈ (linkSt s p).unacked, ∃ h, OutMsg.frame p h ∈ t.out ∧ h.lseq = g.lseq ∧ h.body = g.body) ∧
    (4 ≤ (linkSt s p).replays → altPort s p = none →
      ∃ t, exec (.replayTimeout p) s = .next t ∧ bitOf (reg t (.lnk p) 0x010) 2 = true ∧ (linkSt t p).portUp = false ∧
        (linkSt t p).unacked = (linkSt s p).unacked)) ∧
  (∀ (s : State), powered s = true →
    (isMaster s = true → ∃ t, exec .tsyncTimer s = .next t ∧ reg64 t .rdc 0x23C = 0 ∧ t.links = s.links) ∧
    (∀ p, isMaster s = false → tparent s = some p → (linkSt s p).portUp = true →
      ∃ t h, exec .tsyncTimer s = .next t ∧ (linkSt t p).t1 = some (jtime s) ∧ t.out = .frame p h :: s.out ∧ h.ltype = 9 ∧
        h.body = tsyncBody 0 (jtime s) 0 0)) ∧
  (∀ (p : Die) (w : Nat) (s : State), portFitted s.code p = true → powered s = true → (linkSt s p).portUp = false →
    ((mget Cage.blank s.cages p.val).plugged = false → ∃ t, exec (.pluggableInsert p w) s = .next t ∧
      mget Cage.blank t.cages p.val = ⟨true, w, decide (25 < w)⟩ ∧ (25 < w → reg t (.lnk p) 0x040 = 0) ∧ t.links = s.links) ∧
    ((mget Cage.blank s.cages p.val).plugged = true → ∃ t, exec (.cmisTimeout p) s = .next t ∧
      (mget Cage.blank t.cages p.val).held = true ∧ reg t (.lnk p) 0x040 = 0 ∧ t.links = s.links) ∧
    (∃ t, exec (.pluggableRemove p) s = .next t ∧ mget Cage.blank t.cages p.val = Cage.blank ∧ reg t (.lnk p) 0x040 = 0 ∧
      t.links = s.links)) ∧
  (∀ (rq : Req) (p : Die) (s : State), MayWrite rq s → s.busy = none →
    (portFitted s.code p = true → (linkSt s p).portUp = false →
      ∃ t, exec (.portReset rq p) s = .next t ∧ (linkSt t p).nbrIv = 0 ∧ (linkSt t p).txSeq = (linkSt s p).txSeq ∧
        (linkSt t p).rxExp = (linkSt s p).rxExp ∧ (linkSt t p).unacked = (linkSt s p).unacked ∧
        reg t .mid 0x088 = w32 (2 ^ 31 + 0x0B * 256)) ∧
    (portFitted s.code p = false → ∃ t, exec (.portReset rq p) s = .next t ∧ reg t .mid 0x088 = w32 (2 ^ 31 + 0x0B * 256 + 8) ∧
      t.links = s.links ∧ bitOf (reg t .mid 0x010) 3 = true))

/-- REGULATOR_FAIL, DROOP_WINDOW, TILE_UNDERVOLTAGE, VMEM_RANGE, HBM_RAIL. A working regulator of a powered field that
fails clears its map bit; FPW_REG and FPW_DERATE are the new counts and D = floor(51,744 × min(1, n_c / 72, n_m /
20)); a lower D sets DERATE and PWR.ERR_STS[5], an unchanged D PWR.ERR_STS[4]. A droop window with a minimum below 645
mV raises the setpoint by 10 mV, to at most 800; the sixteenth in a row above 665 mV lowers it by 2.5 mV, to at least
660; the lowest sample is recorded with its time; 64 windows in a row below at 800 mV set bit 3. Undervoltage and VMEM
out of range are tile faults that fence their tiles. A lost HBM or link supply clears its bit of 13 Table 13.6 and
sets PWR.ERR_STS[6]. (The model's choices it may rest on: log entry 12.) (derived: 13_power_clock_cooling.md R379,
R381, R382, R383, R386, R388, R389, R390, Table 13.6, 15_faults_and_recovery.md R430, R432) -/
def Obligations.RegulatorsAndDroop : Prop :=
  (∀ (f : Field) (vm : Bool) (idx : Nat) (s : State), s.run ≠ .off → fieldFitted s.code f = true → (fieldSt s f).on = true →
    regExists vm idx = true → bitOf (reg s (.fpw f) (regMap vm idx).1) (regMap vm idx).2 = true →
    let nc := workingVc s f - (if vm then 0 else 1)
    let nm := workingVm s f - (if vm then 1 else 0)
    let d := min 51744 (min (51744 * nc / 72) (51744 * nm / 20))
    ∃ t, exec (.regulatorFail f vm idx) s = .next t ∧
      reg t (.fpw f) (regMap vm idx).1 = setBit (reg s (.fpw f) (regMap vm idx).1) (regMap vm idx).2 false ∧
      reg t (.fpw f) 0x044 = w32 (nc + 2 ^ 16 * nm) ∧ reg t (.fpw f) 0x058 = w32 d ∧
      bitOf (reg t (.fpw f) 0x010) (if vm then 1 else 0) = true ∧
      (d < (reg s (.fpw f) 0x058).toNat → bitOf (reg t (.fpw f) 0x010) 2 = true ∧ bitOf (reg t .pwr 0x010) 5 = true ∧
        Noted [pageBase (.fpw f) + (regMap vm idx).1, pageBase (.fpw f) + 0x044, pageBase (.fpw f) + 0x058,
          pageBase (.fpw f) + 0x010, pageBase .pwr + 0x010] s t) ∧
      ((reg s (.fpw f) 0x058).toNat ≤ d → bitOf (reg t .pwr 0x010) 4 = true) ∧
      t.run = s.run ∧ t.fields = s.fields ∧ t.tiles = s.tiles ∧ t.asq = s.asq) ∧
  (∀ (f : Field) (v x y : Nat) (s : State), s.run ≠ .off → (fieldSt s f).on = true → reports s f x y = true →
    ∃ t, exec (.droopWindow f v x y) s = .next t ∧
      (v < 1290 → (fieldSt t f).set = min ((fieldSt s f).set + 20) 1600 ∧ (fieldSt t f).calm = 0) ∧
      (1330 < v → (fieldSt s f).calm = 15 → (fieldSt t f).set = max ((fieldSt s f).set - 5) 1320 ∧ (fieldSt t f).calm = 0) ∧
      (1330 < v → (fieldSt s f).calm < 15 → (fieldSt t f).set = (fieldSt s f).set ∧
        (fieldSt t f).calm = (fieldSt s f).calm + 1) ∧
      (1290 ≤ v → v ≤ 1330 → (fieldSt t f).set = (fieldSt s f).set ∧ (fieldSt t f).calm = 0) ∧
      (v < (fieldSt s f).vminHalf → (fieldSt t f).vminHalf = v ∧ reg64 t (.fpw f) 0x064 = nowW s ∧
        reg t (.fpw f) 0x060 = w32 (v / 2 % 2 ^ 16 + 2 ^ 16 * x + 2 ^ 24 * y)) ∧
      ((fieldSt s f).vminHalf ≤ v → (fieldSt t f).vminHalf = (fieldSt s f).vminHalf ∧
        reg t (.fpw f) 0x060 = reg s (.fpw f) 0x060) ∧
      (v < 1290 → (fieldSt s f).set = 1600 → (fieldSt s f).low = 63 → bitOf (reg t (.fpw f) 0x010) 3 = true) ∧
      (∀ g, g ≠ f → fieldSt t g = fieldSt s g) ∧ t.run = s.run ∧ t.asq = s.asq ∧ t.hbm = s.hbm) ∧
  (∀ (u v : Nat) (s : State), s.run = .run → inImage s u v = true →
    ∃ t, exec (.tileUndervoltage u v) s = .next t ∧ (tile t u v).fenced = true ∧ t.asq.haltPend = true ∧
      t.asq.voided = true ∧ recState t = 1 ∧ TilesKeep s t) ∧
  (∀ (f : Field) (s : State), s.run = .run → (fieldSt s f).on = true →
    ∃ t, exec (.vmemRange f) s = .next t ∧ bitOf (reg t (.fpw f) 0x010) 4 = true ∧ TilesKeep s t ∧
      (∀ p ∈ tilesInField s f, inImage s p.1 p.2 = true → (tile t p.1 p.2).fenced = true ∧ t.asq.haltPend = true ∧
        recState t = 1) ∧
      (tilesInField s f = [] → Noted [pageBase (.fpw f) + 0x010] s t)) ∧
  (∀ (d : Die) (r : Rail) (s : State), s.run ≠ .off → (d, r) ∉ s.railLost →
    let b := if r = .hbm then d.val else 16 + d.val
    ∃ t, exec (.hbmRail d r false) s = .next t ∧ (∀ rq, bitOf (readReg t rq .pwr 0x07C) b = false) ∧
      bitOf (reg t .pwr 0x010) 6 = true ∧
      (∀ rq n, n < 32 → n ≠ b → bitOf (readReg t rq .pwr 0x07C) n = bitOf (readReg s rq .pwr 0x07C) n) ∧
      Noted [pageBase .pwr + 0x010] { s with railLost := t.railLost } t) ∧
  (∀ (d : Die) (r : Rail) (s : State), s.run ≠ .off → s.tripLatched = false → (∀ q, (d, q) ∈ s.railLost → q = r) →
    exec (.hbmRail d r true) s = .next { s with railLost := s.railLost.filter (· ≠ (d, r)) } ∧
    ∀ rq, bitOf (readReg { s with railLost := s.railLost.filter (· ≠ (d, r)) } rq .pwr 0x07C) d.val = true ∧
      bitOf (readReg { s with railLost := s.railLost.filter (· ≠ (d, r)) } rq .pwr 0x07C) (16 + d.val) = true)

/-- FIELD_SOFT_START, SOFT_START_END, FIELD_SHORT, PWR_FCMD and the VMIN resets. In sequencing a field whose slot is not
the next does nothing; the next field's slot shows its position and starts the field where it may start; in the pause
only the requested field starts. A field that passes is on at 720 mV with its maps full and D = 51,744 where power-on
has seen no failure; one that misses a limit is reported dark with PWR.ERR_STS[3] and may be tried again; one that
trips is dark for good, with the same bit and SHORT of its page. The end of a requested soft-start answers done. A
short darkens a field, and in Run, a LOAD or a recovery takes the module to Fault. PWR_FCMD with bit 31 clear does
nothing; otherwise it is refused with the first code of R394 that applies, or starts the request. The VMIN resets put
their records at reset values. (The model's choices it may rest on: log entries 32, 158, 191.) (derived:
13_power_clock_cooling.md R390, R391, R392, R393, R394, Table 13.7, 14_startup_and_reset.md R414) -/
def Obligations.SoftStartsAndShorts : Prop :=
  (∀ (f : Field) (s : State), s.run = .boot →
    (s.stage = .sequencing → outOfSlot f s = true → exec (.fieldSoftStart f) s = .next s) ∧
    (s.stage = .sequencing → outOfSlot f s = false → canStart s f = true → (fieldSt s f).failed = false →
      exec (.fieldSoftStart f) s = .next (setField f { fieldSt s f with ramping := true }
        (setReg .pwr 0x04C (w32 (2 ^ 6 + slotPos f)) s))) ∧
    (s.stage = .sequencing → outOfSlot f s = false → canStart s f = false ∨ (fieldSt s f).failed = true →
      exec (.fieldSoftStart f) s = .next (setReg .pwr 0x04C (w32 (2 ^ 6 + slotPos f)) s)) ∧
    (s.stage = .paused → s.fcmdBusy = some f.val → canStart s f = true →
      exec (.fieldSoftStart f) s = .next (setField f { fieldSt s f with ramping := true } s))) ∧
  (∀ (f : Field) (s : State), s.run ≠ .off → (fieldSt s f).ramping = true →
    (∃ t, exec (.softStartEnd f .passed) s = .next t ∧
      fieldSt t f = { fieldSt s f with
        ramping := false
        on := true
        failed := false
        set := 1440
        calm := 0
        low := 0 } ∧
      (workingVc s f = 0 → workingVm s f = 0 → reg t (.fpw f) 0x058 = 51744 ∧ reg t (.fpw f) 0x044 = 0x00180050) ∧
      (∀ g, g ≠ f → fieldSt t g = fieldSt s g) ∧ t.run = s.run ∧ t.out = s.out) ∧
    (∃ t, exec (.softStartEnd f .missed) s = .next t ∧
      fieldSt t f = { fieldSt s f with
        ramping := false
        failed := true } ∧
      bitOf (reg t .pwr 0x010) 3 = true ∧ canStart t f = (fieldFitted s.code f && !(f.val % 8 ∈ s.geo.fcols) && !(f.val / 8 ∈ s.geo.frows) &&
        !(fieldSt s f).lost && !(fieldSt s f).tripped && !(fieldSt s f).on) ∧
      (∀ g, g ≠ f → fieldSt t g = fieldSt s g) ∧ t.run = s.run) ∧
    (∃ t, exec (.softStartEnd f .tripped) s = .next t ∧ (fieldSt t f).tripped = true ∧ (fieldSt t f).ramping = false ∧
      bitOf (reg t .pwr 0x010) 3 = true ∧ bitOf (reg t (.fpw f) 0x010) 5 = true ∧ canStart t f = false ∧ t.run = s.run) ∧
    (s.fcmdBusy = some f.val → ∀ r, ∃ t, exec (.softStartEnd f r) s = .next t ∧ t.fcmdBusy = none ∧
      reg t .pwr 0x064 = 0x80000000)) ∧
  (∀ (f : Field) (s : State), s.run ≠ .off → ((fieldSt s f).on = true ∨ (fieldSt s f).ramping = true) →
    ∃ t, exec (.fieldShort f) s = .next t ∧ (fieldSt t f).on = false ∧ (fieldSt t f).tripped = true ∧
      bitOf (reg t .pwr 0x010) 3 = true ∧ bitOf (reg t (.fpw f) 0x010) 5 = true ∧
      (s.pendCfg = none → ∀ g, g ≠ f → fieldSt t g = fieldSt s g) ∧
      let ends : Prop := s.run = .run ∨ s.loading = true ∨ s.run = .halt ∧ recState s ≠ 0 ∧ recState s ≠ 7
      (ends → t.run = .fault) ∧ (¬ ends → t.run = s.run ∧ t.image = s.image ∧ t.tiles = s.tiles)) ∧
  (∀ (rq : Req) (v : W32) (s : State), MayWrite rq s →
    let f := fld v.toNat 5 0
    (bitOf v 31 = false → exec (.pwrFcmd rq v) s = .next s) ∧
    (bitOf v 31 = true → (s.run ≠ .boot ∨ s.stage ≠ .paused) →
      exec (.pwrFcmd rq v) s = .next (setReg .pwr 0x064 0x80000002 s)) ∧
    (bitOf v 31 = true → s.run = .boot → s.stage = .paused → s.fcmdBusy.isSome = true →
      exec (.pwrFcmd rq v) s = .next (setReg .pwr 0x064 0x80000004 s)) ∧
    (bitOf v 31 = true → s.run = .boot → s.stage = .paused → s.fcmdBusy = none → (h : f < 56) →
      let x := fieldSt s ⟨f, h⟩
      fieldFitted s.code ⟨f, h⟩ = true → f % 8 ∉ s.geo.fcols → f / 8 ∉ s.geo.frows → x.lost = false →
      (x.tripped = true → exec (.pwrFcmd rq v) s = .next (setReg .pwr 0x064 0x80000003 s)) ∧
      (x.tripped = false → x.on = true → exec (.pwrFcmd rq v) s = .next (setReg .pwr 0x064 0x80000005 s)) ∧
      (x.tripped = false → x.on = false →
        exec (.pwrFcmd rq v) s = .next (setReg .pwr 0x064 0 { s with fcmdBusy := some f }))) ∧
    exec (.pwrVminRst rq) s = .next (setReg64 .pwr 0x06C 0 (setReg .pwr 0x068 0xFFFF { s with vminHalf := 131070 })) ∧
    (∀ f, fieldFitted s.code f = true → ∃ t, exec (.fpwVminRst rq f) s = .next t ∧ reg t (.fpw f) 0x060 = 0xFFFF ∧
      reg64 t (.fpw f) 0x064 = 0 ∧ fieldSt t f = { fieldSt s f with vminHalf := 131070 } ∧
      ∀ g, g ≠ f → fieldSt t g = fieldSt s g))

/-- Trips, clock faults, thermal samples and pins. Unless the module is in Off or an earlier trip is more than 2 µs old or
of the same cause, each input or thermal trip sets its bit of TRIP_CAUSE and its error bits, switches every field off,
drives THERMTRIP_OUT_N low and takes the module to Fault. Loss of REFCLK or of the PLL's lock is a Fault that only a
reset clears. REFCLK's return lets the link train again. A tile that loses its upstream clock is a tile fault on those
of the two tiles that are image tiles; a tile's upstream is a neighbour one hop nearer the root. A clock-tree set-up
takes the first root candidate that locks, where F27 is on, reports the receivers that failed and begins the self-
test. A thermal sample shows its readings, raises HOT above 95 °C and trips on a sensor at its trip level in two
samples running. Low flow sets bit 2. A pin's raw level that has not stood for its filter's samples only shows as the
raw level; one that has is the new filtered level, fires its source on its edge, and LEAK_N and THERMTRIP_IN_N low
trip. (The model's choices it may rest on: log entries 28, 29, 30, 143.) (derived: 13_power_clock_cooling.md R377,
R395, R399, R401, R402, R403, R406, 14_startup_and_reset.md R408, R422, 18_events_and_interrupts.md R516,
19_host_interface_and_connectors.md R529) -/
def Obligations.TripsAndClockFaults : Prop :=
  (∀ (c : Instr) (bit eb : Nat) (pg : Page) (s : State),
    (c, bit, pg, eb) ∈ [(Instr.inputUndervoltage, 0, .pwr, 0), (Instr.inputOvervoltage, 1, .pwr, 1),
      (Instr.inputOvercurrent, 2, .pwr, 2), (Instr.flowTrip, 4, .thm, 4)] →
    s.run ≠ .off → (s.tripLatched = true → s.now ≤ s.tripAt + 2000 ∧ bitOf (reg s .pwr 0x080) bit = false) → (c = .flowTrip → anyFieldOn s = true) →
    ∃ t, exec c s = .next t ∧ t.run = .fault ∧ bitOf (reg t .pwr 0x080) bit = true ∧ bitOf (reg t pg 0x010) eb = true ∧
      bitOf (reg t .pwr 0x010) 7 = true ∧ anyFieldOn t = false ∧ t.tripLatched = true ∧ t.host.tripOutN = false ∧
      (s.isSealed = true → t.hbmKey = none) ∧ t.geo = s.geo) ∧
  (∀ (s : State), anyFieldOn s = false → exec .flowTrip s = .next s) ∧
  (∀ (s : State), s.run ≠ .off →
    (∃ t, exec .flowLow s = .next t ∧ bitOf (reg t .thm 0x010) 2 = true ∧ Noted [pageBase .thm + 0x010] s t) ∧
    (s.host.refclk = true →
      ∃ t, exec .refclkLost s = .next t ∧ t.run = .fault ∧ bitOf (reg t .clk 0x010) 0 = true ∧
        (∀ rq, bitOf (readReg t rq .clk 0x040) 0 = false ∧ bitOf (readReg t rq .clk 0x040) 1 = false) ∧ t.host.refclk = false ∧
        t.host.linkUp = false ∧ t.stuck = true ∧ ∀ q, q < 8 → bitOf (reg t .hdm (0x048 + 0x20 * q)) 31 = false) ∧
    (s.host.refclk = false →
      ∃ t, exec .refclkReturn s = .next t ∧ t.host.refclk = true ∧ t.host.linkUp = s.host.perstN ∧
        (∀ rq, bitOf (readReg t rq .clk 0x040) 0 = true) ∧
        t = { s with
          host := t.host
          fc := t.fc }) ∧
    (s.clk.locked = true →
      ∃ t, exec .pllUnlock s = .next t ∧ t.run = .fault ∧ t.stuck = true ∧ bitOf (reg t .clk 0x010) 1 = true ∧
        ∀ rq, bitOf (readReg t rq .clk 0x040) 1 = false)) ∧
  (∀ (c : Fin 8) (r : Fin 7) (i : Fin 24) (j : Fin 28) (u v : Nat) (s : State), let x := 24 * c.val + i.val; let y := 28 * r.val + j.val
    s.run = .run → physKind s x y = (0, u, v) →
    ∃ t, exec (.upstreamClockLoss c r i j) s = .next t ∧ bitOf (reg t .clk 0x010) 2 = true ∧
      (tile t u v).fenced = true ∧ (∀ q a b, s.clk.upstream (x, y) = some q → physKind s q.1 q.2 = (0, a, b) → (tile t a b).fenced = true) ∧
      t.asq.haltPend = true ∧ t.asq.voided = true ∧ recState t = 1 ∧ TilesKeep s t) ∧
  (∀ (c : Fin 8) (r : Fin 7) (i : Fin 24) (j : Fin 28) (s : State), let x := 24 * c.val + i.val; let y := 28 * r.val + j.val
    s.run ≠ .off → (physKind s x y).1 ≠ 0 → (∀ q, s.clk.upstream (x, y) = some q → (physKind s q.1 q.2).1 ≠ 0) →
    ∃ t, exec (.upstreamClockLoss c r i j) s = .next t ∧ bitOf (reg t .clk 0x010) 2 = true ∧ Noted [pageBase .clk + 0x010] s t) ∧
  (∀ (c : ClkSt) (p q : Nat × Nat), c.upstream p = some q →
    q ∈ c.around p ∧ c.depths.getD (physIdx q) 0 + 1 = c.depths.getD (physIdx p) 0) ∧
  (∀ (pll : Bool) (cands : List (Fin 4)) (others : List (Nat × Nat)) (s : State), s.run = .boot → s.stage = .clockSetup →
    let silent := silentTiles cands others
    ∃ t, exec (.clockTreeSetupDone pll cands others) s = .next t ∧ t.stage = .selfTest ∧ t.run = .boot ∧ t.out = s.out ∧ t.geo = s.geo ∧
      (∀ p ∈ silent, p.1 < 192 → p.2 < 196 → p ∈ t.clk.fail ∧ p ∈ t.clk.avoid) ∧
      (∀ rq, readReg t rq .clk 0x048 = w32 (min t.clk.fail.length 0xFFFF)) ∧
      ((fieldSt s 27).on = true → pll = true → t.clk.cand = [(84, 97), (85, 97), (84, 98), (85, 98)].findIdx? (fun p => decide (p ∉ silent)) ∧
        ∀ rq, bitOf (readReg t rq .clk 0x040) 1 = true ∧ bitOf (readReg t rq .clk 0x040) 2 = t.clk.cand.isSome ∧
          fld (readReg t rq .clk 0x040).toNat 9 8 = t.clk.cand.getD 0) ∧
      ((fieldSt s 27).on = false ∨ pll = false → t.clk.cand = none ∧
        ∀ rq, bitOf (readReg t rq .clk 0x040) 1 = false ∧ bitOf (readReg t rq .clk 0x040) 2 = false)) ∧
  (∀ (r : Readings) (s : State), s.run ≠ .off →
    ∃ t, exec (.thermalSample r) s = .next t ∧ reg t .pwr 0x040 = w32 (r.inV % 2 ^ 16) ∧
      reg t .pwr 0x044 = w32 (r.inI % 2 ^ 16) ∧ reg t .thm 0x040 = w32 r.inlet ∧ reg t .thm 0x044 = w32 r.outlet ∧
      t.overTemp = tripSensors r ∧
      (s.hot = false → (∃ p ∈ waferSensors r ++ dieSensors r, 1520 < p.2) → bitOf (reg t .thm 0x010) 0 = true ∧ t.hot = true) ∧
      (640 < r.inlet → (s.inletHigh = false ∨ bitOf (reg s .thm 0x010) 1 = false) → bitOf (reg t .thm 0x010) 1 = true) ∧
      ((∃ k ∈ tripSensors r, k ∈ s.overTemp) → s.tripLatched = false →
        t.run = .fault ∧ bitOf (reg t .pwr 0x080) 3 = true ∧ bitOf (reg t .thm 0x010) 3 = true) ∧
      ((∀ k ∈ tripSensors r, k ∉ s.overTemp) → s.evc.pinFilt = 0xFF → t.run = s.run ∧ t.tiles = s.tiles ∧
        (∀ g, fieldSt t g = { fieldSt s g with hot := (fieldSt t g).hot }) ∧ t.hbm = s.hbm ∧ t.asq = s.asq)) ∧
  (∀ (pin : Fin 8) (level : Bool) (n : Nat) (s : State), s.run ≠ .off → n < fld (cfgv s .evc (0x058 + 4 * pin.val)).toNat 15 0 →
    exec (.pinLevelChange pin ⟨level, n⟩) s = .next { s with evc := { s.evc with pinRaw := withPin s.evc.pinRaw pin.val level } }) ∧
  (∀ (pin : Fin 8) (level : Bool) (n : Nat) (s : State), s.run ≠ .off → s.evc.pinFilt.testBit pin.val = !level →
    fld (cfgv s .evc (0x058 + 4 * pin.val)).toNat 15 0 ≤ n →
    ∃ t, exec (.pinLevelChange pin ⟨level, n⟩) s = .next t ∧ t.evc.pinFilt.testBit pin.val = level ∧
      (∀ p : Fin 8, p ≠ pin → t.evc.pinFilt.testBit p.val = s.evc.pinFilt.testBit p.val) ∧
      (edgeFires s pin level = true → bitOf (reg t .evc 0x100) pin.val = true) ∧
      (pin = 0 → level = false → bitOf (reg t .thm 0x010) 6 = true) ∧
      (pin = 0 → level = false → bitOf (cfgv s .pwr 0x078) 0 = true → s.tripLatched = false →
        t.run = .fault ∧ bitOf (reg t .pwr 0x080) 6 = true) ∧
      (pin = 1 → level = false → s.tripLatched = false → t.run = .fault ∧ bitOf (reg t .pwr 0x080) 5 = true) ∧
      (s.tripLatched = true → s.tripAt + 2000 < s.now → Noted [pageBase .thm + 0x010] { s with evc := t.evc } t))

/-- PWR_EN, the input, the boot ROM, PERST_N, MODULE_RESET and the PCIe link. The management rails rise when PWR_EN is
high, its hold-off has ended and the busbar supplies the right polarity; loss of either leaves the module in Off with
nothing saved but the fuses. The boot ROM takes the module to Boot, waiting for an image, with both banks at reset
values. A module reset, by MID_CMD or by PERST_N's fall, restarts at that point: its cause is in RST_CAUSE and
counted, the image and the keys are gone, the debug level is None, the trip records and the dark and lost fields stay.
A hot reset of the link leaves the run state and takes MSI-X, bus mastering and D3hot down. A change of power state
shows, and at D0 with bus mastering the waiting messages go. (The model's choices it may rest on: log entries 8, 157,
166.) (derived: 13_power_clock_cooling.md R377, 14_startup_and_reset.md R408, R409, R421, Table 14.6, Table 14.8,
19_host_interface_and_connectors.md R521, R522, R526, R527, R528, R531, R535, R536) -/
def Obligations.PowerStatesAndResets : Prop :=
  (∀ (s : State),
    exec .pwrEnAssert s = .next { s with host := { s.host with
      pwrEn := true
      rails := s.host.rails || (decide (s.run = .off) && !s.host.holdoff && s.env.busbar && !s.env.reversed) } }) ∧
  (∀ (s : State),
    exec .pwrEnHoldoffEnd s = .next { s with host := { s.host with
      holdoff := false
      rails := s.host.rails || (decide (s.run = .off) && s.host.pwrEn && s.env.busbar && !s.env.reversed) } }) ∧
  (∀ (rev : Bool) (s : State), (s.run ≠ .off → exec (.busbarEnergised rev) s = .next s) ∧
    (s.run = .off → exec (.busbarEnergised rev) s = .next { s with
      env := { s.env with
        busbar := true
        reversed := rev }
      host := { s.host with rails := s.host.rails || (s.host.pwrEn && !s.host.holdoff && !rev) } })) ∧
  (∀ (s : State),
    let off (t : State) : Prop := t.run = .off ∧ t.host.rails = false ∧ t.host.linkUp = false ∧ t.host.link = (0, 0) ∧
      t.regs = [] ∧ t.bankA = [] ∧ t.bankB = [] ∧ t.image = none ∧ t.tiles = [] ∧ t.hbm = [] ∧ t.hbmKey = none ∧
      t.isSealed = false ∧ t.level = .none ∧ t.code = s.code ∧ t.silicon = s.silicon ∧ t.serial = s.serial ∧ t.mfg = s.mfg ∧
      t.out = s.out ∧ t.pending = s.pending
    (∃ t, exec .pwrEnDeassert s = .next t ∧ off t ∧ t.host.pwrEn = false ∧ t.host.holdoff = true ∧ t.env = s.env) ∧
    (∃ t, exec .inputLoss s = .next t ∧ off t ∧ t.host.pwrEn = s.host.pwrEn ∧ t.host.holdoff = s.host.holdoff ∧
      t.env = { s.env with busbar := false })) ∧
  (∀ (sel : Fin 4) (s : State),
    (s.run = .off → s.host.rails = true → s.host.refclk = true →
      ∃ t, exec (.bootRomStart sel) s = .next t ∧ t.run = .boot ∧ t.stage = .waiting ∧ t.winOpen = true ∧ t.isSealed = false ∧
        t.level = .none ∧ t.host.addrSel = sel.val ∧ t.host.linkUp = s.host.perstN ∧ t.bankA = [] ∧ t.bankB = [] ∧
        t.activeB = false ∧ ∀ pg o, reg t pg o = regRst (pageBase pg + o)) ∧
    ((s.run ≠ .off ∨ s.host.rails = false ∨ s.host.refclk = false) → exec (.bootRomStart sel) s = .next s)) ∧
  (∀ (rq : Req) (s : State), powered s = true →
    let restarted (bit : Nat) (t : State) : Prop := t.run = .boot ∧ t.stage = .waiting ∧ t.winOpen = true ∧ t.mgmtUp = false ∧
      t.image = none ∧ t.place = none ∧ t.tiles = [] ∧ t.busy = none ∧ t.pendCfg = none ∧ t.bankA = [] ∧ t.bankB = [] ∧
      t.activeB = false ∧ t.isSealed = false ∧ t.level = .none ∧ t.hbmKey = none ∧ t.linkKeys = [] ∧
      reg t .mid 0x0B0 = w32 (2 ^ bit + 2 ^ 16 * min (fld (reg s .mid 0x0B0).toNat 31 16 + 1) 0xFFFF) ∧
      reg t .pwr 0x080 = reg s .pwr 0x080 ∧ t.tripLatched = s.tripLatched ∧
      t.code = s.code ∧ t.silicon = s.silicon ∧ t.serial = s.serial ∧ t.mfg = s.mfg ∧ t.now = s.now ∧ t.pending = s.pending
    (MayWrite rq s → ∃ t, exec (.moduleReset rq) s = .next t ∧ restarted 1 t ∧ t.host = { s.host with eid := 0 }) ∧
    (s.host.perstN = true → ∃ t, exec .perstNAssert s = .next t ∧ restarted 2 t ∧ t.host = { s.host with
      perstN := false
      linkUp := false
      link := (0, 0)
      eid := 0
      msixEn := false
      fmask := false
      bme := false
      d3hot := false })) ∧
  (∀ (s : State), s.host.perstN = false → exec .perstNAssert s = .next s) ∧
  (∀ (s : State),
    (powered s = true → s.host.refclk = true → ∃ r w, 1 ≤ r ∧ r ≤ 6 ∧ w ∈ [1, 2, 4, 8, 16] ∧
      exec .perstNRelease s = .next { s with
        fc := s.fc + 1
        host := { s.host with
          perstN := true
          linkUp := true
          link := (r, w) } }) ∧
    ((powered s = false ∨ s.host.refclk = false) → exec .perstNRelease s = .next { s with host := { s.host with
      perstN := true
      linkUp := false
      link := (0, 0) } })) ∧
  (∀ (s : State), powered s = true →
    ∃ t, exec .pcieHotReset s = .next t ∧
      t.host = { s.host with
        link := t.host.link
        msixEn := false
        fmask := false
        bme := false
        d3hot := false } ∧
      (s.host.linkUp = false → t.host.link = (0, 0)) ∧
      (∀ q, q < 8 → bitOf (reg t .hdm (0x048 + 0x20 * q)) 31 = false ∧ reg t .hdm (0x04C + 0x20 * q) = reg s .hdm (0x04C + 0x20 * q)) ∧
      (∃ r h n, t = { s with
        regs := r
        hdq := h
        fc := n
        host := t.host })) ∧
  (∀ (d3 bme en mask : Bool) (s : State),
    (powered s = true → s.host.linkUp = true → (en = false ∨ reg s .evc 0x600 = 0) →
      exec (.pciePowerStateChange d3 ⟨bme, en, mask⟩) s = .next { s with host := { s.host with
        d3hot := d3
        bme := bme
        msixEn := en
        fmask := mask } }) ∧
    (powered s = true → s.host.linkUp = true →
      ∃ t, exec (.pciePowerStateChange d3 ⟨bme, en, mask⟩) s = .next t ∧ t.host = { s.host with
          d3hot := d3
          bme := bme
          msixEn := en
          fmask := mask } ∧ t.run = s.run ∧
        (en = true → mask = false → d3 = false → bme = true → (∀ n, n < 32 →
          bitOf (reg s .evc (0x40C + 16 * n)) 0 = false) → reg t .evc 0x600 = 0)) ∧
    (s.host.linkUp = false → exec (.pciePowerStateChange d3 ⟨bme, en, mask⟩) s = .next s))

/-- BOOT, watchdogs, ARRAY_UP, sequencing, the pause and the self-test. BOOT in the waiting stage runs the checks of R411:
with none failing the cores start and the window closes, else it shows the failing code and MID.ERR_STS[0]. A kick
restarts a core's time; a core that misses it takes the module to Fault, at a tick boundary in Run. ARRAY_UP is
refused with 0x01, 0x02, 0x03 or 0x07, else sequencing begins. Sequencing ends once no field is left to start or
ramping, in a pause where a field may be tried again, else in clock set-up with every field that is not on lost;
CONTINUE and the end of the pause go there too. The self-test ends, with at most one ring segment failed, in Ready, or
in Fault when a fault, a trip or a short aborted it, with its result, the failed stacks and the lost fields shown;
every tile that failed it or that the clock does not reach is a defect. (The model's choices it may rest on: log
entries 143, 144, 146, 190, 191, 193.) (derived: 14_startup_and_reset.md R411, R412, R413, R414, R416, Table 14.4) -/
def Obligations.BringUp : Prop :=
  (∀ (rq : Req) (s : State), MayWrite rq s →
    (s.busy = none → s.run = .boot → s.stage = .waiting →
      ∃ t, exec (.boot rq) s = .next t ∧ reg t .mid 0x08C = w32 (bootCheck s) ∧ reg t .mid 0x088 = 0x80000100 ∧
        (bootCheck s = 0 → t.stage = .running ∧ t.mgmtUp = true ∧ t.winOpen = false ∧ t.kick0 = s.now ∧ t.kick1 = s.now) ∧
        (bootCheck s ≠ 0 → t.stage = .waiting ∧ t.mgmtUp = s.mgmtUp ∧ t.winOpen = s.winOpen ∧ bitOf (reg t .mid 0x010) 0 = true) ∧
        t.run = .boot ∧ t.sram = s.sram) ∧
    (s.busy = none → (s.run ≠ .boot ∨ s.stage ≠ .waiting) →
      ∃ t, exec (.boot rq) s = .next t ∧ reg t .mid 0x088 = 0x80000101 ∧ bitOf (reg t .mid 0x010) 3 = true ∧
        Noted [pageBase .mid + 0x088, pageBase .mid + 0x010] s t)) ∧
  (∀ (rq : Req) (v : W32) (s : State), MayWrite rq s →
    exec (.midWdog rq v) s = .next { s with
      kick0 := if bitOf v 0 then s.now else s.kick0
      kick1 := if bitOf v 1 then s.now else s.kick1 }) ∧
  (∀ (core1 : Bool) (s : State),
    ((powered s = false ∨ s.mgmtUp = false) → exec (.wdogExpiry core1) s = .next s) ∧
    (powered s = true → s.mgmtUp = true →
      ∃ t, exec (.wdogExpiry core1) s = .next t ∧ t.mgmtUp = false ∧ t.stuck = true ∧ bitOf (reg t .mid 0x010) 1 = true ∧
        bitOf (reg t .mid 0x094) (if core1 then 1 else 0) = true ∧
        (s.run ≠ .run → t.run = .fault) ∧
        (s.run = .run → t.run = .run ∧ t.asq.haltPend = true ∧ t.asq.voided = true ∧ t.tiles = s.tiles))) ∧
  (∀ (rq : Req) (s : State), MayWrite rq s → s.busy = none →
    (∀ n, (s.run ≠ .boot ∨ s.stage ≠ .running) ∧ n = 1 ∨
        s.run = .boot ∧ s.stage = .running ∧ s.tripLatched = true ∧ n = 7 ∨
        s.run = .boot ∧ s.stage = .running ∧ s.tripLatched = false ∧ n = 3 ∧
          (s.env.inV < 4600 ∨ 5600 < s.env.inV ∨ s.env.flow < 800 ∨ 640 < s.env.inlet) →
      ∃ t, exec (.arrayUp rq) s = .next t ∧ reg t .mid 0x088 = w32 (0x80000200 + n) ∧ bitOf (reg t .mid 0x010) 3 = true ∧
        t.stage = s.stage ∧ t.run = s.run) ∧
    (s.run = .boot → s.stage = .running → s.tripLatched = false → 4600 ≤ s.env.inV → s.env.inV ≤ 5600 → 800 ≤ s.env.flow →
      s.env.inlet ≤ 640 →
      ∃ t, exec (.arrayUp rq) s = .next t ∧ t.stage = .sequencing ∧ reg t .mid 0x088 = 0x80000200 ∧ t.run = .boot ∧
        t.fields = s.fields)) ∧
  (∀ (s : State), s.run = .boot → s.stage = .sequencing →
    ((∃ f, toStart s f = true ∨ (fieldSt s f).ramping = true) → exec .fieldSequencingEnd s = .next s) ∧
    ((∀ f, toStart s f = false ∧ (fieldSt s f).ramping = false) →
    ((∃ f, (fieldSt s f).failed = true) → ∃ t, exec .fieldSequencingEnd s = .next t ∧ t.stage = .paused ∧ t.fields = s.fields ∧
      reg t .pwr 0x04C = w32 (2 ^ 7 + 55)) ∧
    ((∀ f, (fieldSt s f).failed = false) → ∃ t, exec .fieldSequencingEnd s = .next t ∧ t.stage = .clockSetup ∧
      ∀ f, fieldFitted s.code f = true → (fieldSt t f).lost = ((fieldSt s f).lost || !(fieldSt s f).on)))) ∧
  (∀ (rq : Req) (s : State), s.run = .boot → s.stage = .paused →
    let good (t : State) : Prop := t.stage = .clockSetup ∧ t.fcmdBusy = none ∧ t.run = .boot ∧
      (∀ f, fieldFitted s.code f = true → (fieldSt t f).on = (fieldSt s f).on ∧
        (fieldSt t f).lost = ((fieldSt s f).lost || !(fieldSt s f).on)) ∧
      ∀ f, fieldFitted s.code f = false → fieldSt t f = fieldSt s f
    (∃ t, exec .pauseTimeout s = .next t ∧ good t ∧ t.regs = s.regs) ∧
    (MayWrite rq s → s.busy = none →
      ∃ t, exec (.continue_ rq) s = .next t ∧ good t ∧ reg t .mid 0x088 = 0x80000300)) ∧
  (∀ (r : TestReport) (s : State), s.stage = .selfTest →
    let short := ∃ f, fieldFitted s.code f = true ∧ (fieldSt s f).tripped = true ∧ (fieldSt s f).lost = false
    (s.run = .boot → r.aborted = false → s.tripLatched = false → ¬ short → s.ring = [] → r.segs.dedup.length ≤ 1 →
      ∃ t n, exec (.selfTestEnd r) s = .next t ∧ t.run = .ready ∧ t.stage = .done ∧ n < 4 ∧
        reg t .mid 0x098 = w32 (n + 2 ^ 16 * t.hbmFailed.length + 2 ^ 24 * (lostFields t).length) ∧
        reg t .mid 0x09C = w32 (min r.ms 0xFFFFFFFF) ∧ t.noArray = decide (n = 2 ∨ n = 3) ∧
        (n = 2 ↔ s.clk.cand = none ∨ (fieldSt t 27).lost = true ∨ t.geo.ua = 0 ∨ t.geo.va = 0) ∧
        (n = 0 ↔ s.clk.cand ≠ none ∧ (fieldSt t 27).lost = false ∧ t.geo.ua ≠ 0 ∧ t.geo.va ≠ 0 ∧
          stacksInUse s.code t.hbmFailed ≠ 0 ∧ meetsMin t = true) ∧
        (∀ p, p ∈ testDefects r ∨ p ∈ s.clk.fail → p.1 < waferX → p.2 < waferY → p ∈ t.geo.defects) ∧
        t.geo.skips = r.skips ∧ t.image = s.image ∧ ∀ k ∈ r.segs, k < 16 → k ∈ t.ring) ∧
    ((r.aborted = true ∨ s.tripLatched = true ∨ short) → (s.run = .boot ∨ s.run = .fault) →
      ∃ t, exec (.selfTestEnd r) s = .next t ∧ t.run = .fault ∧ t.stage = .done ∧ fld (reg t .mid 0x098).toNat 15 0 = 4 ∧
        bitOf (reg t .mid 0x010) 2 = true))

/-- LOAD, RUN, HALT, RESUME, UNLOAD and the array reset. MID_CMD refuses with 0x02 while a command runs and with 0x01 in a
state that does not allow the command; LOAD without a working array with 0x06, with a job page off with 0x0A, and with
0x04 and the check's code in LOAD_STS for an image that fails a check; RESUME while FAULT_CAUSE is valid with 0x05; an
array reset in a Fault, or after a failed scrub, that only a module reset clears with 0x07. A LOAD whose image passes
is under way with that image, its placement and its key, and its completion answers done. RUN begins tick 0. HALT
stops at the next tick boundary with the step not voided; RESUME waits for one. UNLOAD leaves Ready with no image. An
array reset drops the image and its completion is in Ready. (The model's choices it may rest on: log entries 41, 42,
44, 48, 146, 192.) (derived: 14_startup_and_reset.md R417, R418, R419, R420, R422, Table 14.4,
15_faults_and_recovery.md R437) -/
def Obligations.JobCommands : Prop :=
  (∀ (rq : Req) (s : State) (op : MidOp), MayWrite rq s → s.busy = some op →
    ∀ (c : Req → Instr) (n : Nat), (c, n) ∈ [(Instr.boot, 1), (Instr.arrayUp, 2), (Instr.continue_, 3), (Instr.load, 4),
      (Instr.run, 5), (Instr.halt, 6), (Instr.resume, 7), (Instr.unload, 8), (Instr.arrayReset, 9)] →
    ∃ t, exec (c rq) s = .next t ∧ reg t .mid 0x088 = w32 (0x40000000 + n * 256 + 2) ∧ bitOf (reg t .mid 0x010) 3 = true ∧
      Noted [pageBase .mid + 0x088, pageBase .mid + 0x010] s t) ∧
  (∀ (rq : Req) (s : State), MayWrite rq s → s.busy = none →
    ∀ (c : Req → Instr) (n code : Nat),
      (c = Instr.load ∧ n = 4 ∧ code = 1 ∧ (s.run ≠ .ready ∨ s.image.isSome = true) ∨
        c = Instr.load ∧ n = 4 ∧ code = 6 ∧ s.run = .ready ∧ s.image = none ∧ s.noArray = true ∨
        c = Instr.load ∧ n = 4 ∧ code = 10 ∧ s.run = .ready ∧ s.image = none ∧ s.noArray = false ∧ jobPageOff s = true ∨
        c = Instr.run ∧ n = 5 ∧ code = 1 ∧ (s.run ≠ .ready ∨ s.image = none) ∨
        c = Instr.halt ∧ n = 6 ∧ code = 1 ∧ s.run ≠ .run ∨
        c = Instr.resume ∧ n = 7 ∧ code = 1 ∧ s.run ≠ .halt ∨
        c = Instr.resume ∧ n = 7 ∧ code = 5 ∧ s.run = .halt ∧ faultValid s = true ∨
        c = Instr.unload ∧ n = 8 ∧ code = 1 ∧ (s.run ≠ .ready ∧ s.run ≠ .halt ∨ s.image = none) ∨
        c = Instr.arrayReset ∧ n = 9 ∧ code = 1 ∧ s.run = .boot ∨
        c = Instr.arrayReset ∧ n = 9 ∧ code = 7 ∧ s.run = .fault ∧ (s.tripLatched = true ∨ s.stuck = true) ∨
        c = Instr.arrayReset ∧ n = 9 ∧ code = 7 ∧ s.run ≠ .boot ∧ s.isSealed = true ∧ s.scrub = .failed) →
    ∃ t, exec (c rq) s = .next t ∧ reg t .mid 0x088 = w32 (0x80000000 + n * 256 + code) ∧ bitOf (reg t .mid 0x010) 3 = true ∧
      Noted [pageBase .mid + 0x088, pageBase .mid + 0x010] s t) ∧
  (∀ (rq : Req) (s : State), MayWrite rq s → s.busy = none → s.run = .ready → s.image = none → s.noArray = false →
    jobPageOff s = false →
    (∀ e, checkImage (loadGeo s) (reg64 s .mid 0x0A0) (seedNow s) = .error e →
      ∃ t, exec (.load rq) s = .next t ∧ reg t .asq 0x080 = w32 (e.1 + 2 ^ 8 * e.2.1) ∧ reg t .mid 0x088 = 0x80000404 ∧
        t.image = none ∧ t.run = .ready ∧ t.tiles = s.tiles ∧ t.hbm = s.hbm) ∧
    (∀ i p, checkImage (loadGeo s) (reg64 s .mid 0x0A0) (seedNow s) = .ok (i, p) →
      ∃ t, exec (.load rq) s = .next t ∧ t.image = some i ∧ t.loading = true ∧ t.busy = some .load ∧ t.run = .ready ∧
        reg t .mid 0x088 = 0x40000400 ∧ reg64 t .asq 0x058 = reg64 s .mid 0x0A8 ∧ t.keySeed = i.seed ∧
        t.keyJob = (cfgv s .cbg 0x048).toNat + 2 ^ 32 * (cfgv s .cbg 0x04C).toNat ∧
        reg t .asq 0x040 = w32 ((if i.lmode then 1 else 2) + 2 ^ 8 * i.tickLog2))) ∧
  (∀ (i : Img) (s : State), s.image = some i → s.busy = some .load →
    (loadProgs s i = true → exec .loadComplete s = .next s) ∧
    (loadProgs s i = false → s.pendCfg = none →
      ∃ t, exec .loadComplete s = .next t ∧ t.loading = false ∧ t.busy = none ∧ reg t .mid 0x088 = 0x80000400 ∧
        Noted [pageBase .mid + 0x088] { s with
          loading := false
          busy := none } t)) ∧
  (∀ (rq : Req) (i : Img) (s : State), MayWrite rq s → s.busy = none →
    (s.run = .ready → s.image = some i →
      ∃ t, exec (.run rq) s = .next t ∧ t.run = .run ∧ runTick t = 0 ∧ stepNo t = stepNo s ∧ reg t .mid 0x088 = 0x80000500 ∧
        t.asq.voided = false ∧ t.asq.stepStart = s.now ∧ t.geo = s.geo ∧
        (∀ a, s.state3 = some a → t.hbm = (hbmWrite (slotAddr s a (stepNo s % 2)) (stepRecord s i) s).hbm)) ∧
    (s.run = .run →
      ∃ t, exec (.halt rq) s = .next t ∧ t.run = .run ∧ t.asq = { s.asq with haltPend := true } ∧ t.busy = some .halt ∧
        reg t .mid 0x088 = 0x40000600 ∧
        OnlyRegs [pageBase .mid + 0x088] { s with
          busy := some .halt
          asq := t.asq } t) ∧
    (s.run = .halt → faultValid s = false →
      exec (.resume rq) s = .next (setReg .mid 0x088 0x40000700 { s with busy := some .resume })) ∧
    ((s.run = .ready ∨ s.run = .halt) → s.image.isSome = true →
      ∃ t, exec (.unload rq) s = .next t ∧ t.run = .ready ∧ t.image = none ∧ t.place = none ∧ t.tiles = [] ∧
        reg t .mid 0x088 = 0x80000800 ∧ reg t .asq 0x068 = 0 ∧ recState t = 0 ∧ (s.ledger = none → t.hbm = s.hbm) ∧ t.geo = s.geo ∧
        t.bankA = s.bankA ∧ t.bankB = s.bankB) ∧
    (s.run = .ready ∨ s.run = .halt ∨ s.run = .fault ∧ s.tripLatched = false ∧ s.stuck = false → s.isSealed = false →
      ∃ t, exec (.arrayReset rq) s = .next t ∧ t.busy = some .arrayReset ∧ t.image = none ∧ t.tiles = [] ∧ t.run = s.run ∧
        (s.ledger = none → t.hbm = s.hbm)) ∧
    (s.run = .run → (s.isSealed = true → s.scrub ≠ .failed) →
      ∃ t, exec (.arrayReset rq) s = .next t ∧ t.busy = some .arrayReset ∧ t.asq.haltPend = true ∧ t.asq.voided = true ∧
        t.run = .run ∧ t.tiles = s.tiles)) ∧
  (∀ (s : State), s.busy = some .arrayReset → s.run ≠ .run → s.run ≠ .off → s.isSealed = false → s.scrub ≠ .running →
    ∃ t, exec .arrayResetComplete s = .next t ∧ t.busy = none ∧ t.run = .ready ∧ t.image = none ∧
      reg t .mid 0x088 = 0x80000900 ∧ bitOf (reg t .mid 0x0B0) 3 = true ∧ t.geo = (placeGeo 0 0 { s with fields := t.fields }).geo ∧
      (∀ f, fieldFitted s.code f = true → (fieldSt s f).tripped = true → (fieldSt t f).lost = true) ∧
      (s.ledger = none → t.hbm = s.hbm))

/-- The sett probe, diagnosis, re-placement, REC_CMD. In Halt after a sett timeout, a probe that no tile stays silent to
is a Fault with FAULT_CAUSE 13, and a silent tile is a tile fault. At the end of diagnosis the failed tiles among
those examined, and a suspect that has been one before, join the defects, and the recovery state is 3. Every suspect
is remembered when re-placement or ABANDON ends its recovery. Re-placement with room for the image leaves state 4 with
the new placement and the tiles as loaded from the image in HBM; without room it ends in Ready with no image and PLC
code 0x01. REJOIN outside state 4 shows code 4 and changes no more; a record that does not fit shows 1, 2 or 3; else,
for a step still to come, it waits in state 5, and for the step in progress, or with OWN one before it, the array
starts in state 6 at the record's step. RECOVER restarts at diagnosis after a failed recovery and at stage 3 after an
HBM repair. ABANDON ends recovery. (The model's choices it may rest on: log entries 92, 93, 94, 95, 96, 97, 144, 146,
169.) (derived: 08_placement_and_residency.md R243, 15_faults_and_recovery.md R431, R435, R437, R438, R439, R441,
Table 15.8) -/
def Obligations.RecoveryCommands : Prop :=
  (∀ (silent : List (Nat × Nat)) (s : State), s.run = .halt → anyTimeout s = true → faultValid s = false →
    ((∀ p ∈ silent, inImage s p.1 p.2 = false) →
      ∃ t, exec (.settProbeComplete silent) s = .next t ∧ reg t .asq 0x068 = 0x8000000D ∧ bitOf (reg t .asq 0x010) 13 = true ∧
        t.run = .halt ∧ t.tiles = s.tiles ∧ t.asq = s.asq) ∧
    (∀ p, silent = [p] → inImage s p.1 p.2 = true →
      ∃ t, exec (.settProbeComplete silent) s = .next t ∧ (tile t p.1 p.2).fenced = true ∧ t.asq.voided = true ∧
        t.run = .halt ∧ TilesKeep s t)) ∧
  (∀ (failed : List (Nat × Nat)) (s : State), s.run = .halt → recState s = 2 →
    ∃ t, exec (.diagnosisComplete failed) s = .next t ∧ recState t = 3 ∧
      (∀ p, p ∈ failed → p ∈ examined s → p ∈ t.geo.defects) ∧
      (∀ x q, x ∈ s.asq.recov.suspects → physOf s (x.1, x.2.1) = some q → q ∈ s.priorSus → q ∈ t.geo.defects) ∧
      (∀ q ∈ s.geo.defects, q ∈ t.geo.defects) ∧ t.tiles = s.tiles ∧ t.image = s.image ∧ t.run = .halt) ∧
  (∀ (i : Img) (p : Place) (s : State), s.image = some i → s.place = some p → s.run = .halt → recState s = 3 →
    let b := showGeo (placeGeo p.seed p.pkey (rememberSus s))
    let g := b.geo
    let remembered (t : State) : Prop := ∀ x q, x ∈ s.asq.recov.suspects → physOf s (x.1, x.2.1) = some q → q ∈ t.priorSus
    (i.reqU ≤ g.ua → i.reqV ≤ g.va → reachOk g (placeOf b i p.seed) i = true →
      fieldOver b (placeOf b i p.seed) i = none →
      ∃ t, exec .replacementComplete s = .next t ∧ recState t = 4 ∧ t.run = .halt ∧ t.geo = g ∧ t.image = some (reread s i) ∧
        t.asq.recov.suspects = [] ∧ remembered t ∧
        (∃ r, t.place = some { placeOf b i p.seed with record := r }) ∧
        (∀ a, (∀ x ∈ imageTiles i, tileKey x.1 x.2 ≠ a) → mget Tile.blank t.tiles a = Tile.blank)) ∧
    ((g.ua < i.reqU ∨ g.va < i.reqV) →
      ∃ t, exec .replacementComplete s = .next t ∧ t.run = .ready ∧ t.image = none ∧ recState t = 0 ∧
        reg t .plc 0x048 = 0x00010003 ∧ bitOf (reg t .plc 0x010) 0 = true ∧ t.geo = g ∧ remembered t ∧
        (s.ledger = none → t.hbm = s.hbm))) ∧
  (∀ (rq : Req) (own : Bool) (s : State), MayWrite rq s →
    ((s.image = none ∨ recState s ≠ 4 ∨ s.run ≠ .halt) →
      exec (.rejoin rq own) s = .next (setReg .asq 0x0A8 (setFld (reg s .asq 0x0A8) 31 24 4) s)) ∧
    (∀ i, s.image = some i → recState s = 4 → s.run = .halt →
      let b := slotBytes s i (if own then s.asq.recov.vstep % 2 else 2)
      (∀ n, ((b.drop 8).take 8 ≠ i.hash.take 8 ∧ n = 1 ∨
          (b.drop 8).take 8 = i.hash.take 8 ∧ fieldLE b 16 4 ≠ recordLen i ∧ n = 2 ∨
          (b.drop 8).take 8 = i.hash.take 8 ∧ fieldLE b 16 4 = recordLen i ∧ own = false ∧ n = 3 ∧
            (fieldLE b 0 8 < stepNo s ∨ fieldLE b 0 8 = stepNo s ∧ s.asq.holdB = false ∧ s.asq.stepStart + 1000000 < s.now)) →
        exec (.rejoin rq own) s = .next (setReg .asq 0x0A8 (setFld (reg s .asq 0x0A8) 31 24 n) s)) ∧
      ((b.drop 8).take 8 = i.hash.take 8 → fieldLE b 16 4 = recordLen i → own = false → stepNo s < fieldLE b 0 8 →
        ∃ t, exec (.rejoin rq own) s = .next t ∧ recState t = 5 ∧ t.asq.recov.target = fieldLE b 0 8 ∧
          t.asq.recov.own = false ∧ t.asq.recov.hbm = none ∧ t.run = .halt ∧ t.place = s.place) ∧
      ((b.drop 8).take 8 = i.hash.take 8 → fieldLE b 16 4 = recordLen i → own = false → fieldLE b 0 8 = stepNo s → s.asq.holdB = false →
        s.now ≤ s.asq.stepStart + 1000000 →
        ∃ t, exec (.rejoin rq own) s = .next t ∧ recState t = 6 ∧ t.run = .run ∧ stepNo t = stepNo s ∧ arrStep t = stepNo s) ∧
      ((b.drop 8).take 8 = i.hash.take 8 → fieldLE b 16 4 = recordLen i → own = true →
        ∃ t, exec (.rejoin rq own) s = .next t ∧ stepNo t = stepNo s ∧ t.asq.recov.own = true ∧
          (fieldLE b 0 8 ≤ stepNo s → s.asq.holdB = false → recState t = 6 ∧ t.run = .run ∧ arrStep t = fieldLE b 0 8) ∧
          (stepNo s < fieldLE b 0 8 ∨ s.asq.holdB = true → recState t = 5 ∧ t.run = .halt)))) ∧
  (∀ (rq : Req) (s : State), MayWrite rq s → s.run = .halt → s.image.isSome = true →
    (recState s = 7 → ∃ t, exec (.recover rq) s = .next t ∧ recState t = 2 ∧ t.asq.recov.starts = 1 ∧ t.run = .halt ∧
      t.tiles = s.tiles) ∧
    (recState s = 0 → s.asq.recov.hbm.isSome = true → ∃ t, exec (.recover rq) s = .next t ∧ recState t = 3 ∧
      t.asq = s.asq ∧ t.tiles = s.tiles) ∧
    (recState s ≠ 7 → (recState s ≠ 0 ∨ s.asq.recov.hbm = none) → exec (.recover rq) s = .next s)) ∧
  (∀ (rq : Req) (s : State), MayWrite rq s →
    ∃ t, exec (.abandon rq) s = .next t ∧ recState t = 0 ∧ t.asq = { s.asq with recov := Recov.none } ∧
      reg t .asq 0x068 = reg s .asq 0x068 ∧ t.tiles = s.tiles ∧ t.run = s.run ∧
      ∀ x q, x ∈ s.asq.recov.suspects → physOf s (x.1, x.2.1) = some q → q ∈ t.priorSus)

/-- SPDM requests, keys and IDE. On a module with the sealed-job unit: GET_VERSION answers 1.2 and 1.3 and restarts
negotiation; the requests run in their order and out of it answer the error; certificates stand in slot 0 alone; the
seven measurements answer their blocks, with a signature when asked. FINISH with its verification establishes the one
session, END_SESSION leaves it. Inside a session an HBM key is taken in Open only, a link key for a fitted port whose
LNK_STS shows neither 3 nor 4, restarting its counter; the answers go where FINISH came (log entry 131); outside one
these requests do nothing. IDE_KM sets the one stream; its loss sets SEC.ERR_STS[2]. Without the unit, or in Off, a
request is not answered. (The model's choices it may rest on: log entries 27, 162.) (derived:
16_security_debug_and_states.md R456, R461, R462, R463, R464, Table 16.2, Table 16.3) -/
def Obligations.SpdmRequests : Prop :=
  (∀ (t : Transport) (s : State), powered s = true → sjuFitted s.code = true →
    exec (.getVersion t) s = .next { s with
      spdm := ⟨1, 0, .doe⟩
      out := .spdm t [0x12, 0x13] :: s.out } ∧
    (0 < s.spdm.stage → exec (.getCapabilities t) s = .next { s with
      spdm := { s.spdm with stage := max s.spdm.stage 2 }
      out := .spdm t (Config.spdmBytes 0xE1 []) :: s.out }) ∧
    (s.spdm.stage = 2 → ∀ ver, ver = 0x12 ∨ ver = 0x13 →
      exec (.negotiateAlgorithms t ver true) s = .next { s with
        spdm := ⟨3, ver, .doe⟩
        out := .spdm t [BitVec.ofNat 8 ver] :: s.out }) ∧
    (∀ ver b, s.spdm.stage ≠ 2 ∨ b = false → exec (.negotiateAlgorithms t ver b) s =
      .next { s with out := .spdm t [0x7F] :: s.out }) ∧
    (3 ≤ s.spdm.stage →
      exec (.getDigests t) s = .next { s with out := .spdm t (Config.spdmBytes 0x81 []) :: s.out } ∧
      exec (.getCertificate t 0) s = .next { s with out := .spdm t (Config.spdmBytes 0x82 []) :: s.out } ∧
      (∀ n, exec (.challenge t 0 n) s = .next { s with out := .spdm t (Config.spdmBytes 0x83 n) :: s.out }) ∧
      (∀ k b, measurement s k = some b →
        exec (.getMeasurements t k false) s = .next { s with out := .spdm t b :: s.out } ∧
        exec (.getMeasurements t k true) s = .next { s with out := .spdm t (b ++ Config.spdmBytes 0xE0 b) :: s.out })) ∧
    (∀ k, k ∉ [1, 2, 3, 4, 5, 6, 7] → measurement s k = none ∧ ∀ b, exec (.getMeasurements t k b) s =
      .next { s with out := .spdm t [0x7F] :: s.out }) ∧
    (s.spdm.stage = 3 ∨ s.spdm.stage = 4 → ∀ k, exec (.keyExchange t k) s = .next { s with
      spdm := { s.spdm with stage := 4 }
      out := .spdm t (Config.spdmBytes 0xE4 k) :: s.out }) ∧
    (s.spdm.stage = 4 → exec (.finish t true) s = .next { s with
      spdm := { s.spdm with
        stage := 5
        via := t }
      out := .spdm t [] :: s.out }) ∧
    (session s = true → exec (.heartbeat t) s = .next { s with out := .spdm t [] :: s.out } ∧
      exec (.endSession t) s = .next { s with
        spdm := { s.spdm with stage := 3 }
        out := .spdm t [] :: s.out } ∧
      ∀ k, exec (.keyExchange t k) s = .next { s with out := .spdm t [0x7F] :: s.out })) ∧
  (∀ (t : Transport) (s : State), powered s = false ∨ sjuFitted s.code = false →
    exec (.getVersion t) s = .next s ∧ exec (.getDigests t) s = .next s ∧ exec (.heartbeat t) s = .next s ∧
    ∀ k, exec (.keyExchange t k) s = .next s) ∧
  (∀ (s : State), powered s = true → sjuFitted s.code = true → session s = true →
    (∀ a b, s.isSealed = false → exec (.setHbmKey a b) s = .next { s with
      hbmKey := some (a, b)
      out := .spdm s.spdm.via [0] :: s.out }) ∧
    (∀ a b, s.isSealed = true → ∃ t, exec (.setHbmKey a b) s = .next t ∧ t.hbmKey = s.hbmKey ∧ t.refusal = 6 ∧
      bitOf (reg t .sec 0x010) 0 = true ∧ t.isSealed = true ∧ .spdm s.spdm.via [6] ∈ t.out) ∧
    (∀ (p : Die) rx salt key, portFitted s.code p = true → fld (reg s (.lnk p) 0x040).toNat 2 0 ∉ [3, 4] →
      ∃ t, exec (.setLinkKey p.val rx salt key) s = .next t ∧ mfind t.linkKeys (2 * p.val + rx.toNat) = some ⟨salt, key⟩ ∧
        (if rx then (linkSt t p).rxCtr else (linkSt t p).txCtr) = 0 ∧ (∀ q, q ≠ p → linkSt t q = linkSt s q) ∧
        (∀ k, (∀ q : Die, k ≠ pageBase (.lnk q) + 0x040) → rget t.regs k = rget s.regs k)) ∧
    (∀ (p : Die) rx salt key, portFitted s.code p = true → fld (reg s (.lnk p) 0x040).toNat 2 0 ∈ [3, 4] →
      ∃ t, exec (.setLinkKey p.val rx salt key) s = .next t ∧ t.refusal = 9 ∧ t.linkKeys = s.linkKeys) ∧
    exec .getSec s = .next { s with
      out := .spdm s.spdm.via (0 :: natLE 4 (secState s).toNat ++ natLE 4 (secKeys s).toNat) :: s.out } ∧
    (∀ k, s.spdm.via = .doe → s.ide = none ∨ s.ide = some k → exec (.ideKm k) s = .next { s with
      ide := some k
      out := .spdm .doe [0] :: s.out }) ∧
    (∀ k, s.spdm.via ≠ .doe → exec (.ideKm k) s = .next s)) ∧
  (∀ (s : State), session s = false →
    (∀ a b, exec (.setHbmKey a b) s = .next s) ∧ (∀ k, exec (.ideKm k) s = .next s) ∧
    (∀ p rx a b, exec (.setLinkKey p rx a b) s = .next s) ∧ exec .getSec s = .next s) ∧
  (∀ (s : State), (s.ide = none → exec .ideLost s = .next s) ∧
    (s.ide.isSome = true → ∃ t, exec .ideLost s = .next t ∧ t.ide = none ∧ bitOf (reg t .sec 0x010) 2 = true ∧
      Noted [pageBase .sec + 0x010] { s with ide := none } t))

/-- SEAL, UNSEAL and the scrub. A SEAL in a session is refused with the first code of 16 Table 16.2 that applies: outside
Ready or with an image loaded 0x02, at Intrusive 0x03, without an HBM key 0x04, without IDE 0x05, sealed 0x06, and
without the unit 0x01; otherwise the module is Sealed, the hash is latched and the count rises. An UNSEAL that no code
refuses starts a scrub at once: keys and counters, tile memories, edge-die buffers and link queues are cleared and the
module stays Sealed. A scrub that ends well on an edge ring that is not split zeroes every job region, counts, and
leaves Open; one that fails stays Sealed and sets SEC.ERR_STS[1]. (The model's choices it may rest on: log entry 161.)
(derived: 16_security_debug_and_states.md R455, R456, R458, R459, R460, Table 16.1, Table 16.2) -/
def Obligations.SealingAndUnsealing : Prop :=
  (∀ (h : List Byte) (s : State), powered s = true → sjuFitted s.code = true → session s = true →
    (s.run = .ready → s.image = none → s.level ≠ .intrusive → s.hbmKey.isSome = true → s.ide.isSome = true →
      s.isSealed = false → s.scrub ≠ .running →
      ∃ t, exec (.seal_ h) s = .next t ∧ t.isSealed = true ∧ (pageFrz s .sec = false → reg t .sec 0x050 = satInc (reg s .sec 0x050)) ∧
        (∀ i, i < 12 → reg t .sec (0x060 + 4 * i) = w32 (fieldLE h (4 * i) 4)) ∧
        ∃ r, t = { s with
          isSealed := true
          regs := r
          out := .spdm s.spdm.via [0] :: s.out }) ∧
    (∀ n, ((s.run ≠ .ready ∨ s.image.isSome = true) ∧ n = 2 ∨
        s.run = .ready ∧ s.image = none ∧ s.level = .intrusive ∧ n = 3 ∨
        s.run = .ready ∧ s.image = none ∧ s.level ≠ .intrusive ∧ s.hbmKey = none ∧ n = 4 ∨
        s.run = .ready ∧ s.image = none ∧ s.level ≠ .intrusive ∧ s.hbmKey.isSome = true ∧ s.ide = none ∧ n = 5 ∨
        s.run = .ready ∧ s.image = none ∧ s.level ≠ .intrusive ∧ s.hbmKey.isSome = true ∧ s.ide.isSome = true ∧
          s.isSealed = true ∧ n = 6) →
      ∃ t, exec (.seal_ h) s = .next t ∧ t.isSealed = s.isSealed ∧ t.refusal = n ∧ bitOf (reg t .sec 0x010) 0 = true ∧
        reg t .sec 0x050 = reg s .sec 0x050)) ∧
  (∀ (h : List Byte) (s : State), powered s = true → sjuFitted s.code = false →
    ∃ t, exec (.seal_ h) s = .next t ∧ t.refusal = 1 ∧ t.isSealed = s.isSealed ∧ bitOf (reg t .sec 0x010) 0 = true) ∧
  (∀ (spdm : Bool) (s : State), sjuFitted s.code = true → (s.run = .ready ∨ s.run = .halt ∨ s.run = .fault) →
    s.tripLatched = false → s.isSealed = true → (s.scrub = .none ∨ s.scrub = .done) → (spdm = true → session s = true) →
    ∃ t, exec (.unseal_ spdm) s = .next t ∧ t.scrub = .running ∧ t.isSealed = true ∧ t.hbmKey = none ∧ t.linkKeys = [] ∧
      t.run = s.run ∧ t.hbm = s.hbm ∧
      (∀ k, (mget Tile.blank t.tiles k).sram = [] ∧ (mget Tile.blank t.tiles k).acc = [] ∧
        (mget Tile.blank t.tiles k).setts = (mget Tile.blank s.tiles k).setts) ∧
      (∀ p, (linkSt t p).unacked = [] ∧ (linkSt t p).queue = [] ∧ (linkSt t p).txCtr = 0 ∧ (linkSt t p).rxCtr = 0)) ∧
  (∀ (s : State), powered s = true → sjuFitted s.code = true → (s.run = .ready ∨ s.run = .halt ∨ s.run = .fault) →
    s.tripLatched = false → s.isSealed = false →
    ∃ t, exec (.unseal_ false) s = .next t ∧ t.refusal = 6 ∧ t.isSealed = false ∧ t.hbmKey = s.hbmKey) ∧
  (∀ (us : Nat) (s : State), s.scrub = .running →
    (s.ring.length < 2 → ∃ t, exec (.scrubComplete true us) s = .next t ∧ t.isSealed = false ∧ t.scrub = .done ∧
      (pageFrz s .sec = false → reg t .sec 0x054 = satInc (reg s .sec 0x054)) ∧ reg t .sec 0x058 = w32 (min us 0xFFFFFFFF) ∧
      (∀ a, mget 0 t.hbm a = if keptByte s a then mget 0 s.hbm a else 0)) ∧
    (∀ ok : Bool, ok = false ∨ 2 ≤ s.ring.length →
      ∃ t, exec (.scrubComplete ok us) s = .next t ∧ t.isSealed = s.isSealed ∧ t.scrub = .failed ∧
      bitOf (reg t .sec 0x010) 1 = true ∧ t.hbm = s.hbm)) ∧
  (∀ (ok : Bool) (us : Nat) (s : State), s.scrub ≠ .running → exec (.scrubComplete ok us) s = .next s)

/-- DBG_LEVEL, TICK1, the perturbation registers. A written level at or below the present one takes effect, and a higher
one when DBG is enabled and, for Intrusive, the module is Open; a refused one sets DBG.ERR_STS[0]. Below Intrusive the
perturbations are 0. TICK1 in Open at Intrusive, from Halt with an image and no FAULT_CAUSE, runs one tick. A
perturbation register, by any path, takes its writable bits in Open at Intrusive, EN clear where its count is 0; in
any other state, PRT_HOP with EN in L mode, or PRT_LINK with more than 2,000, sets DBG.ERR_STS[1] and changes nothing.
(The model's choices it may rest on: log entries 91, 163.) (derived: 16_security_debug_and_states.md R453, R454, R457,
R468, R469, R472) -/
def Obligations.DebugAndPerturbation : Prop :=
  (∀ (rq : Req) (v : W32) (s : State), MayWrite rq s →
    (∀ n l, fld v.toNat 1 0 = n → (n, l) ∈ [(0, DbgLevel.none), (1, .observe), (2, .intrusive)] →
      ((n ≤ levelCode s.level ∨ pageEn s .dbg = true ∧ (s.isSealed = false ∨ l ≠ .intrusive)) →
        ∃ t, exec (.dbgLevelWrite rq v) s = .next t ∧ t.level = l ∧
          (l ≠ .intrusive → ∀ o ∈ [0x050, 0x054, 0x058, 0x05C, 0x060, 0x064, 0x068, 0x06C], reg t .dbg o = 0) ∧
          (∃ m, t.asq = { s.asq with prtVals := m }) ∧
          OnlyRegs ([0x050, 0x054, 0x058, 0x05C, 0x060, 0x064, 0x068, 0x06C].map (pageBase .dbg + ·)) { s with
            level := l
            asq := t.asq } t) ∧
      (levelCode s.level < n → (pageEn s .dbg = false ∨ s.isSealed = true ∧ l = .intrusive) →
        ∃ t, exec (.dbgLevelWrite rq v) s = .next t ∧ bitOf (reg t .dbg 0x010) 0 = true ∧ Noted [pageBase .dbg + 0x010] s t))) ∧
  (∀ (rq : Req) (s : State), MayWrite rq s →
    (openIntrusive s = false → ∃ t, exec (.tick1 rq) s = .next t ∧ bitOf (reg t .dbg 0x010) 31 = true ∧ t.asq = s.asq) ∧
    (openIntrusive s = true → s.run = .halt → faultValid s = false → s.image.isSome = true →
      ∃ t, exec (.tick1 rq) s = .next t ∧ t.asq = { s.asq with tick1 := true } ∧ TilesKeep s t ∧
        ∃ m, t = { s with
          asq := t.asq
          tiles := m }) ∧
    (openIntrusive s = true → (s.run ≠ .halt ∨ faultValid s = true ∨ s.image = none) →
      exec (.tick1 rq) s = .next (setReg .dbg 0x010 (setBit (reg s .dbg 0x010) 31 true) s))) ∧
  (∀ (rq : Req) (v : W32) (s : State), powered s = true → openIntrusive s = true →
    let stores (c : Instr) (o : Nat) (w : W32) : Prop := ∃ t m, exec c s = .next t ∧ t = { setReg .dbg o w s with
        prtHeld := if moving s && decide (o ∈ prtArray) then addNew o s.prtHeld else s.prtHeld
        asq := { s.asq with prtVals := m } } ∧
      (prtActs t o = true → mget 0 m o = w)
    let counted (hi : Nat) : W32 := if fld v.toNat hi 16 = 0 then setBit v 31 false else v
    (¬ (bitOf v 31 = true ∧ lMode s = true) → stores (.prtHop rq v) 0x050 (v &&& 0xFFF8FFFF)) ∧
    (fld v.toNat 10 0 ≤ 2000 → stores (.prtLink rq v) 0x054 (v &&& 0xCF0007FF)) ∧
    stores (.prtTok rq v) 0x058 (v &&& 0x8000FFFF) ∧
    stores (.prtWake rq v) 0x05C (v &&& 0xC3FFFFFF) ∧
    stores (.prtOwl rq v) 0x060 (counted 29 &&& 0xFFFF0FFF) ∧
    stores (.prtSat rq v) 0x064 (counted 29 &&& 0xFFFF0FFF) ∧
    stores (.prtRes rq v) 0x068 (counted 23 &&& 0x80FFFFFF) ∧
    stores (.prtLate rq v) 0x06C v) ∧
  (∀ (rq : Req) (v : W32) (s : State), powered s = true → ∀ c : Instr,
    (openIntrusive s = false ∧ c ∈ [.prtHop rq v, .prtLink rq v, .prtTok rq v, .prtWake rq v, .prtOwl rq v, .prtSat rq v,
        .prtRes rq v, .prtLate rq v] ∨
      bitOf v 31 = true ∧ lMode s = true ∧ c = .prtHop rq v ∨ 2000 < fld v.toNat 10 0 ∧ c = .prtLink rq v) →
    ∃ t, exec c s = .next t ∧ bitOf (reg t .dbg 0x010) 1 = true ∧ Noted [pageBase .dbg + 0x010] s t)

/-- The JTAG instructions, DBGACC and the MCTP control requests. While the TAP is up: IDCODE shifts out 0x1005_6B47 bit 0
first, BYPASS one 0, SAMPLE/PRELOAD the pins while it takes the new contents; EXTEST drives the boundary-scan register
only in Boot before ARRAY_UP in Open at Intrusive, else it is BYPASS; TRST_N low selects IDCODE. DBGACC starts an
access, or sets ERR while one is in progress; its completion at an aligned register latches the word the bus reads, or
applies the write, which outside set I is refused: at a perturbation register with DBG.ERR_STS[1], else with ACC_ERR.
SET_ENDPOINT_ID sets the endpoint ID and GET_ENDPOINT_ID answers it; the supported types are 0x00, 0x05, 0x06 and
0x7E; the vendor set is 0x0D7A. (The model's choices it may rest on: log entries 24, 25, 26.) (derived:
16_security_debug_and_states.md R466, 19_host_interface_and_connectors.md R539, R542, R543, R544, Table 19.10) -/
def Obligations.JtagAndMctp : Prop :=
  (∀ (s : State), tapUp s = true →
    exec .idcode s = .next { s with
      jtag := { s.jtag with
        ir := 0x01
        tck := some s.now }
      out := .tdo ((List.range 32).map fun i => (0x10056B47 : Nat).testBit i) :: s.out } ∧
    exec .bypass s = .next { s with
      jtag := { s.jtag with
        ir := 0xFF
        tck := some s.now }
      out := .tdo [false] :: s.out } ∧
    (s.run = .boot → (s.stage = .waiting ∨ s.stage = .verifying ∨ s.stage = .running) → openIntrusive s = true →
      exec .extest s = .next { s with
        jtag := { s.jtag with
          ir := 0x00
          tck := some s.now }
        out := .tdo s.jtag.bsr :: s.out }) ∧
    ((s.run ≠ .boot ∨ openIntrusive s = false) → exec .extest s = exec .bypass s) ∧
    (∀ l, ∃ t bits, exec (.samplePreload l) s = .next t ∧ t.jtag = { s.jtag with
        ir := 0x02
        tck := some s.now
        bsr := l } ∧ t.out = .tdo bits :: s.out ∧ bits[0]? = some s.host.perstN ∧ bits[1]? = some s.host.pwrEn ∧
      bits.length = 21 ∧ ∃ n, t = { s with
        jtag := t.jtag
        out := t.out
        fc := n }) ∧
    (let scanned : List Bool := (List.range 64).map fun i => (dbgCapture s.jtag).getLsbD i
     (∀ dr, s.jtag.busy = none → exec (.dbgacc dr) s = .next { s with
      jtag := { s.jtag with
        ir := 0x20
        tck := some s.now
        busy := some dr
        off := fld dr.toNat 25 0 }
      out := .tdo scanned :: s.out }) ∧
     (∀ dr, s.jtag.busy.isSome = true → exec (.dbgacc dr) s = .next { s with
      jtag := { s.jtag with
        ir := 0x20
        tck := some s.now
        err := true }
      out := .tdo scanned :: s.out }) ∧
     (∀ i, i < 32 → (dbgCapture s.jtag).getLsbD (32 + i) = s.jtag.data.getLsbD i) ∧
     (dbgCapture s.jtag).getLsbD 30 = s.jtag.err ∧ (dbgCapture s.jtag).getLsbD 31 = s.jtag.busy.isSome)) ∧
  (∀ (s : State), tapUp s = false → exec .idcode s = .next s ∧ exec .bypass s = .next s ∧
    (∀ l, exec (.samplePreload l) s = .next s) ∧ ∀ dr, exec (.dbgacc dr) s = .next s) ∧
  (∀ (s : State), exec (.trstN true) s = .next { s with jtag := { s.jtag with trstN := true } } ∧
    exec (.trstN false) s = .next { s with jtag := { s.jtag with
      trstN := false
      ir := 0x01 } }) ∧
  (∀ (dr : W64) (s : State), powered s = true → s.jtag.busy = some dr →
    let off := fld dr.toNat 25 0
    let v := w32 (dr.toNat / 2 ^ 32)
    let a := { s with jtag := { s.jtag with
      busy := none
      off := off } }
    (off % 4 ≠ 0 → exec .dbgaccComplete s = .next { a with jtag := { a.jtag with err := true } }) ∧
    (off % 4 = 0 → dr.toNat.testBit 31 = false → accSet s ≠ .n →
      ∃ t e, exec .dbgaccComplete s = .next t ∧ t.jtag.data = (busRead .dbgacc off a).1 ∧ t.jtag.busy = none ∧
        t = { (busRead .dbgacc off a).2 with jtag := { (busRead .dbgacc off a).2.jtag with
          err := e
          data := (busRead .dbgacc off a).1 } }) ∧
    (off % 4 = 0 → dr.toNat.testBit 31 = true → accSet s = .i →
      ∃ t e, exec .dbgaccComplete s = .next t ∧
        t = { busWrite .dbgacc off v a with jtag := { (busWrite .dbgacc off v a).jtag with err := e } }) ∧
    (off % 4 = 0 → dr.toNat.testBit 31 = true → accSet s ≠ .i → (∀ o, spaceOf off = .reg .dbg o → o ∉ prtRegs) →
      ∃ t, exec .dbgaccComplete s = .next t ∧ t.jtag.err = true ∧ t.jtag.busy = none ∧ bitOf (reg t .dbg 0x010) 31 = true ∧
        t.tiles = s.tiles ∧ t.hbm = s.hbm) ∧
    (off % 4 = 0 → dr.toNat.testBit 31 = true → accSet s ≠ .i → ∀ o ∈ prtRegs, spaceOf off = .reg .dbg o →
      ∃ t, exec .dbgaccComplete s = .next t ∧ t.jtag.busy = none ∧ bitOf (reg t .dbg 0x010) 1 = true ∧
        t.tiles = s.tiles ∧ t.hbm = s.hbm)) ∧
  (∀ (s : State), powered s = true →
    (∀ n, n < 256 → exec (.setEndpointId n) s = .next { s with
      host := { s.host with eid := n }
      out := .mctp [0, 0, BitVec.ofNat 8 n, 0] :: s.out }) ∧
    exec .getEndpointId s = .next { s with out := .mctp [0, BitVec.ofNat 8 s.host.eid] :: s.out } ∧
    (∀ n, n ∈ [0x00, 0x05, 0x06, 0x7E, 0xFF] → ∃ t b, exec (.getMctpVersionSupport n) s = .next t ∧
      t.out = .mctp (0 :: b) :: s.out ∧ ∃ k, t = { s with
        out := t.out
        fc := k }) ∧
    (∀ n, n ∉ [0x00, 0x05, 0x06, 0x7E, 0xFF] → exec (.getMctpVersionSupport n) s =
      .next { s with out := .mctp [0x80] :: s.out }) ∧
    exec .getMessageTypeSupport s = .next { s with out := .mctp [0, 4, 0x00, 0x05, 0x06, 0x7E] :: s.out } ∧
    exec (.getVendorDefinedMessageSupport 0) s = .next { s with out := .mctp [0, 0xFF, 0x00, 0x0D, 0x7A] :: s.out })

/-- Every step keeps the rules on memory and mode. For every state in which the parameter store is in canonical form, a
sealed module is not at Intrusive and a module without the sealed-job unit is not sealed: if step answers a next
state, the same holds there, the ordering code, silicon, serial number and manufacturing data are unchanged, and the
commands that wait are those that waited, without the one at the front. The one outcome that is no next state is the
fault of an offset beyond the apertures. (The model's choices it may rest on: log entry 5.) (derived: 00_scope.md R1,
Table 0.1, 16_security_debug_and_states.md R455, R457, 17_registers_and_configuration.md R475, R478) -/
def Obligations.StepKeepsInvariant : Prop :=
  (∀ s t : State, step s = .next t → memWf s → SealRule s →
    memWf t ∧ SealRule t ∧ t.code = s.code ∧ t.silicon = s.silicon ∧ t.serial = s.serial ∧ t.mfg = s.mfg ∧
    t.pending = s.pending.tail) ∧
  (∀ s : State, (∃ t, step s = .next t) ∨ step s = .fault .outsideBar)

/-- The state after reset. Reset leaves the module in Boot, Open, at debug level None, with bank A active and both banks
at their reset values, no image, an empty queue of commands and every register at the value its row gives; the
parameter store lists nothing and the mode meets the rules. (The model's choices it may rest on: log entries 6, 7, 8,
10.) (derived: 14_startup_and_reset.md R408, 16_security_debug_and_states.md R452, R455, R457,
17_registers_and_configuration.md R481) -/
def Obligations.ResetMeetsInvariant : Prop :=
  memWf State.reset ∧ SealRule State.reset ∧ State.reset.run = .boot ∧ State.reset.isSealed = false ∧
  State.reset.level = .none ∧ State.reset.activeB = false ∧ State.reset.bankA = [] ∧ State.reset.bankB = [] ∧
  State.reset.pendCfg = none ∧ State.reset.image = none ∧ State.reset.pending = [] ∧
  (∀ pg o, reg State.reset pg o = regRst (pageBase pg + o)) ∧ ∀ k, rget State.reset.bankA k = regRst k
end

