-- ==== Sys2Proof/Laws/Maps.lean ====
section
/-! SUPPORT. Sparse maps: reading after writing, for every map, and the canonical form that every map operation
keeps. -/

namespace Sys2Proof.Machine

variable {α : Type}

@[simp] theorem mfind_nil (k : Nat) : mfind ([] : SMap α) k = none := rfl
@[simp] theorem mget_nil (d : α) (k : Nat) : mget d [] k = d := rfl
theorem mwf_nil (d : α) : mwf d ([] : SMap α) := by simp [mwf]

/-- Lookup after an insert. -/
theorem mfind_minsert (k j : Nat) (v : α) (m : SMap α) :
    mfind (minsert k v m) j = if j = k then some v else mfind m j := by
  induction m with
  | nil => simp only [minsert, mfind]
  | cons e r ih =>
    obtain ⟨i, w⟩ := e
    simp only [minsert]
    by_cases h1 : k < i
    · simp only [if_pos h1, mfind]
    · rw [if_neg h1]
      by_cases h2 : k = i
      · subst h2
        simp only [if_pos, mfind]
        by_cases h3 : j = k <;> simp [h3]
      · rw [if_neg h2]
        simp only [mfind, ih]
        by_cases h3 : j = i
        · have : ¬ i = k := fun e => h2 e.symm
          simp [h3, this]
        · simp [h3]

/-- Lookup after an erase. -/
theorem mfind_merase (k j : Nat) (m : SMap α) : mfind (merase k m) j = if j = k then none else mfind m j := by
  induction m with
  | nil => simp [merase]
  | cons e r ih =>
    obtain ⟨i, w⟩ := e
    simp only [merase, List.filter_cons] at ih ⊢
    by_cases h : i = k
    · subst h
      simp only [ne_eq, not_true, decide_false, Bool.false_eq_true, if_false, mfind]
      rw [ih]
      by_cases h3 : j = i <;> simp [h3]
    · simp only [ne_eq, h, not_false_eq_true, decide_true, if_true, mfind]
      rw [ih]
      by_cases h3 : j = i
      · simp [h3, h]
      · simp [h3]

theorem mem_minsert {k : Nat} {v : α} {m : SMap α} {e : Nat × α} (h : e ∈ minsert k v m) : e = (k, v) ∨ e ∈ m := by
  induction m with
  | nil => simp only [minsert, List.mem_singleton] at h; exact .inl h
  | cons x r ih =>
    obtain ⟨i, w⟩ := x
    simp only [minsert] at h
    split at h
    · simpa using h
    · split at h
      · simp only [List.mem_cons] at h ⊢
        rcases h with h | h
        · exact .inl h
        · exact .inr (.inr h)
      · simp only [List.mem_cons] at h ⊢
        rcases h with h | h
        · exact .inr (.inl h)
        · exact (ih h).imp id .inr

theorem rising_minsert (k : Nat) (v : α) {m : SMap α} (h : (m.map Prod.fst).Pairwise (· < ·)) :
    ((minsert k v m).map Prod.fst).Pairwise (· < ·) := by
  induction m with
  | nil => simp [minsert]
  | cons x r ih =>
    obtain ⟨i, w⟩ := x
    have h' := h
    simp only [List.map_cons, List.pairwise_cons] at h'
    simp only [minsert]
    split
    · rename_i hk
      refine List.pairwise_cons.2 ⟨fun a ha => ?_, h⟩
      rcases List.mem_cons.1 ha with rfl | ha
      · exact hk
      · exact Nat.lt_trans hk (h'.1 a ha)
    · split
      · rename_i hk
        subst hk
        exact h
      · rename_i h1 h2
        refine List.pairwise_cons.2 ⟨fun a ha => ?_, ih h'.2⟩
        obtain ⟨y, hy, rfl⟩ := List.mem_map.1 ha
        rcases mem_minsert hy with rfl | hy
        · show i < k
          omega
        · exact h'.1 _ (List.mem_map_of_mem hy)

/-- Any part of a canonical map is canonical. -/
theorem mwf_sublist {d : α} {m n : SMap α} (h : n.Sublist m) (w : mwf d m) : mwf d n :=
  ⟨w.1.sublist (h.map _), fun e he => w.2 e (h.subset he)⟩

theorem mwf_filter {d : α} {m : SMap α} (p : Nat × α → Bool) (w : mwf d m) : mwf d (m.filter p) :=
  mwf_sublist List.filter_sublist w

theorem mwf_merase {d : α} {m : SMap α} (k : Nat) (w : mwf d m) : mwf d (merase k m) := mwf_filter _ w

/-- Reading a map after an insert. -/
theorem mget_minsert {d : α} {m : SMap α} (k j : Nat) (v : α) :
    mget d (minsert k v m) j = if j = k then v else mget d m j := by
  unfold mget
  rw [mfind_minsert]
  split <;> simp

/-- Reading a map after an erase. -/
theorem mget_merase {d : α} {m : SMap α} (k j : Nat) :
    mget d (merase k m) j = if j = k then d else mget d m j := by
  unfold mget
  rw [mfind_merase]
  split <;> simp

variable [DecidableEq α]

/-- A write keeps the canonical form. -/
theorem mwf_mput {d : α} {m : SMap α} (k : Nat) (v : α) (w : mwf d m) : mwf d (mput d k v m) := by
  unfold mput
  split
  · exact mwf_merase k w
  · rename_i hv
    refine ⟨rising_minsert k v w.1, fun e he => ?_⟩
    rcases mem_minsert he with rfl | he
    · exact hv
    · exact w.2 e he

/-- A run of writes keeps the canonical form. -/
theorem mwf_mputs {d : α} {m : SMap α} (k : Nat) (vs : List α) (w : mwf d m) : mwf d (mputs d k vs m) := by
  induction vs generalizing k m with
  | nil => exact w
  | cons v r ih => exact ih (k + 1) (mwf_mput k v w)

/-- Reading a map after a write: the value written at its key, the old value elsewhere. -/
theorem mget_mput {d : α} {m : SMap α} (k j : Nat) (v : α) :
    mget d (mput d k v m) j = if j = k then v else mget d m j := by
  unfold mput
  split
  · rename_i hv
    rw [mget_merase, hv]
  · rw [mget_minsert]

@[simp] theorem mget_mput_same {d : α} {m : SMap α} (k : Nat) (v : α) : mget d (mput d k v m) k = v := by
  simp [mget_mput]

theorem mget_mput_ne {d : α} {m : SMap α} {k j : Nat} (v : α) (h : j ≠ k) :
    mget d (mput d k v m) j = mget d m j := by simp [mget_mput, h]

/-- A run of writes leaves every key outside the run alone. -/
theorem mget_mputs_out {d : α} {m : SMap α} (k j : Nat) (vs : List α) (hj : j < k ∨ k + vs.length ≤ j) :
    mget d (mputs d k vs m) j = mget d m j := by
  induction vs generalizing k m with
  | nil => rfl
  | cons v r ih =>
    simp only [List.length_cons] at hj
    rw [mputs, ih (k + 1) (by omega), mget_mput, if_neg (by omega)]

/-- A run of writes gives each key of the run its value. -/
theorem mget_mputs_in {d : α} {m : SMap α} (k : Nat) (vs : List α) (i : Nat) (hi : i < vs.length) :
    mget d (mputs d k vs m) (k + i) = vs[i] := by
  induction vs generalizing k m i with
  | nil => simp at hi
  | cons v r ih =>
    cases i with
    | zero =>
      rw [mputs, mget_mputs_out (k + 1) (k + 0) r (by omega), mget_mput]
      simp
    | succ i =>
      rw [mputs, show k + (i + 1) = (k + 1) + i by omega, ih (k + 1) i (by simpa using hi)]
      simp

/-! Register maps. -/

/-- Reading a register map after a write. -/
theorem rget_rput (k j : Nat) (v : W32) (m : SMap W32) : rget (rput k v m) j = if j = k then v else rget m j := by
  unfold rput rget
  split
  · rename_i hv
    rw [mfind_merase]
    split
    · rename_i h
      simp [h, hv]
    · rfl
  · rw [mfind_minsert]
    split <;> simp

@[simp] theorem rget_rput_same (k : Nat) (v : W32) (m : SMap W32) : rget (rput k v m) k = v := by simp [rget_rput]

theorem rget_rput_ne {k j : Nat} (v : W32) (m : SMap W32) (h : j ≠ k) : rget (rput k v m) j = rget m j := by
  simp [rget_rput, h]

/-- What a key reads as after a function was applied to every entry. -/
theorem mget_mmap {d : α} (f : α → α) (m : SMap α) (k : Nat) :
    mget d (mmap d f m) k = if (mfind m k).isSome then f (mget d m k) else d := by
  unfold mmap
  induction m with
  | nil => simp
  | cons e m ih =>
    obtain ⟨j, w⟩ := e
    simp only [List.foldr_cons, mget_mput, ih]
    by_cases h : k = j
    · simp [h, mfind, mget]
    · simp [h, mfind, mget]

/-- The same where the function keeps the default. -/
theorem mget_mmap_of {d : α} {f : α → α} (h : f d = d) (m : SMap α) (k : Nat) :
    mget d (mmap d f m) k = f (mget d m k) := by
  rw [mget_mmap]
  cases hk : mfind m k with
  | none => simp [mget, hk, h]
  | some w => simp

theorem mwf_mmap {d : α} (f : α → α) (m : SMap α) : mwf d (mmap d f m) := by
  unfold mmap
  induction m with
  | nil => exact mwf_nil d
  | cons e m ih => exact mwf_mput _ _ ih

end Sys2Proof.Machine
end

