-- ==== Sys2Proof/Laws/State.lean ====
section
/-! SUPPORT. What each shared operation on the state changes, and, field by field, what it leaves alone. -/

namespace Sys2Proof.Machine

/-! Operations that write one field. -/

@[simp] theorem setReg_code (pg o v s) : (setReg pg o v s).code = s.code := rfl
@[simp] theorem setReg_silicon (pg o v s) : (setReg pg o v s).silicon = s.silicon := rfl
@[simp] theorem setReg_serial (pg o v s) : (setReg pg o v s).serial = s.serial := rfl
@[simp] theorem setReg_mfg (pg o v s) : (setReg pg o v s).mfg = s.mfg := rfl
@[simp] theorem setReg_run (pg o v s) : (setReg pg o v s).run = s.run := rfl
@[simp] theorem setReg_stage (pg o v s) : (setReg pg o v s).stage = s.stage := rfl
@[simp] theorem setReg_qEnd (pg o v s) : (setReg pg o v s).qEnd = s.qEnd := rfl
@[simp] theorem setReg_testAt (pg o v s) : (setReg pg o v s).testAt = s.testAt := rfl
@[simp] theorem setReg_loading (pg o v s) : (setReg pg o v s).loading = s.loading := rfl
@[simp] theorem setReg_busy (pg o v s) : (setReg pg o v s).busy = s.busy := rfl
@[simp] theorem setReg_noArray (pg o v s) : (setReg pg o v s).noArray = s.noArray := rfl
@[simp] theorem setReg_stuck (pg o v s) : (setReg pg o v s).stuck = s.stuck := rfl
@[simp] theorem setReg_tripLatched (pg o v s) : (setReg pg o v s).tripLatched = s.tripLatched := rfl
@[simp] theorem setReg_tripAt (pg o v s) : (setReg pg o v s).tripAt = s.tripAt := rfl
@[simp] theorem setReg_now (pg o v s) : (setReg pg o v s).now = s.now := rfl
@[simp] theorem setReg_bankA (pg o v s) : (setReg pg o v s).bankA = s.bankA := rfl
@[simp] theorem setReg_bankB (pg o v s) : (setReg pg o v s).bankB = s.bankB := rfl
@[simp] theorem setReg_activeB (pg o v s) : (setReg pg o v s).activeB = s.activeB := rfl
@[simp] theorem setReg_ver (pg o v s) : (setReg pg o v s).ver = s.ver := rfl
@[simp] theorem setReg_stepBank (pg o v s) : (setReg pg o v s).stepBank = s.stepBank := rfl
@[simp] theorem setReg_pendCfg (pg o v s) : (setReg pg o v s).pendCfg = s.pendCfg := rfl
@[simp] theorem setReg_touched (pg o v s) : (setReg pg o v s).touched = s.touched := rfl
@[simp] theorem setReg_rdLatch (pg o v s) : (setReg pg o v s).rdLatch = s.rdLatch := rfl
@[simp] theorem setReg_wrHeld (pg o v s) : (setReg pg o v s).wrHeld = s.wrHeld := rfl
@[simp] theorem setReg_viewLatch (pg o v s) : (setReg pg o v s).viewLatch = s.viewLatch := rfl
@[simp] theorem setReg_srst (pg o v s) : (setReg pg o v s).srst = s.srst := rfl
@[simp] theorem setReg_armed (pg o v s) : (setReg pg o v s).armed = s.armed := rfl
@[simp] theorem setReg_isSealed (pg o v s) : (setReg pg o v s).isSealed = s.isSealed := rfl
@[simp] theorem setReg_level (pg o v s) : (setReg pg o v s).level = s.level := rfl
@[simp] theorem setReg_refusal (pg o v s) : (setReg pg o v s).refusal = s.refusal := rfl
@[simp] theorem setReg_scrub (pg o v s) : (setReg pg o v s).scrub = s.scrub := rfl
@[simp] theorem setReg_scrubFor (pg o v s) : (setReg pg o v s).scrubFor = s.scrubFor := rfl
@[simp] theorem setReg_spdm (pg o v s) : (setReg pg o v s).spdm = s.spdm := rfl
@[simp] theorem setReg_ide (pg o v s) : (setReg pg o v s).ide = s.ide := rfl
@[simp] theorem setReg_hbmKey (pg o v s) : (setReg pg o v s).hbmKey = s.hbmKey := rfl
@[simp] theorem setReg_cipher (pg o v s) : (setReg pg o v s).cipher = s.cipher := rfl
@[simp] theorem setReg_linkKeys (pg o v s) : (setReg pg o v s).linkKeys = s.linkKeys := rfl
@[simp] theorem setReg_sram (pg o v s) : (setReg pg o v s).sram = s.sram := rfl
@[simp] theorem setReg_winOpen (pg o v s) : (setReg pg o v s).winOpen = s.winOpen := rfl
@[simp] theorem setReg_mgmtUp (pg o v s) : (setReg pg o v s).mgmtUp = s.mgmtUp := rfl
@[simp] theorem setReg_mgmtHash (pg o v s) : (setReg pg o v s).mgmtHash = s.mgmtHash := rfl
@[simp] theorem setReg_kick0 (pg o v s) : (setReg pg o v s).kick0 = s.kick0 := rfl
@[simp] theorem setReg_kick1 (pg o v s) : (setReg pg o v s).kick1 = s.kick1 := rfl
@[simp] theorem setReg_env (pg o v s) : (setReg pg o v s).env = s.env := rfl
@[simp] theorem setReg_host (pg o v s) : (setReg pg o v s).host = s.host := rfl
@[simp] theorem setReg_jtag (pg o v s) : (setReg pg o v s).jtag = s.jtag := rfl
@[simp] theorem setReg_prtHeld (pg o v s) : (setReg pg o v s).prtHeld = s.prtHeld := rfl
@[simp] theorem setReg_evc (pg o v s) : (setReg pg o v s).evc = s.evc := rfl
@[simp] theorem setReg_cages (pg o v s) : (setReg pg o v s).cages = s.cages := rfl
@[simp] theorem setReg_fields (pg o v s) : (setReg pg o v s).fields = s.fields := rfl
@[simp] theorem setReg_fcmdBusy (pg o v s) : (setReg pg o v s).fcmdBusy = s.fcmdBusy := rfl
@[simp] theorem setReg_overTemp (pg o v s) : (setReg pg o v s).overTemp = s.overTemp := rfl
@[simp] theorem setReg_warned (pg o v s) : (setReg pg o v s).warned = s.warned := rfl
@[simp] theorem setReg_inletHigh (pg o v s) : (setReg pg o v s).inletHigh = s.inletHigh := rfl
@[simp] theorem setReg_hot (pg o v s) : (setReg pg o v s).hot = s.hot := rfl
@[simp] theorem setReg_over95 (pg o v s) : (setReg pg o v s).over95 = s.over95 := rfl
@[simp] theorem setReg_vminHalf (pg o v s) : (setReg pg o v s).vminHalf = s.vminHalf := rfl
@[simp] theorem setReg_railLost (pg o v s) : (setReg pg o v s).railLost = s.railLost := rfl
@[simp] theorem setReg_hdq (pg o v s) : (setReg pg o v s).hdq = s.hdq := rfl
@[simp] theorem setReg_image (pg o v s) : (setReg pg o v s).image = s.image := rfl
@[simp] theorem setReg_place (pg o v s) : (setReg pg o v s).place = s.place := rfl
@[simp] theorem setReg_geo (pg o v s) : (setReg pg o v s).geo = s.geo := rfl
@[simp] theorem setReg_keySeed (pg o v s) : (setReg pg o v s).keySeed = s.keySeed := rfl
@[simp] theorem setReg_keyJob (pg o v s) : (setReg pg o v s).keyJob = s.keyJob := rfl
@[simp] theorem setReg_priorSus (pg o v s) : (setReg pg o v s).priorSus = s.priorSus := rfl
@[simp] theorem setReg_clk (pg o v s) : (setReg pg o v s).clk = s.clk := rfl
@[simp] theorem setReg_tiles (pg o v s) : (setReg pg o v s).tiles = s.tiles := rfl
@[simp] theorem setReg_offTiles (pg o v s) : (setReg pg o v s).offTiles = s.offTiles := rfl
@[simp] theorem setReg_asq (pg o v s) : (setReg pg o v s).asq = s.asq := rfl
@[simp] theorem setReg_hbm (pg o v s) : (setReg pg o v s).hbm = s.hbm := rfl
@[simp] theorem setReg_poison (pg o v s) : (setReg pg o v s).poison = s.poison := rfl
@[simp] theorem setReg_flaws (pg o v s) : (setReg pg o v s).flaws = s.flaws := rfl
@[simp] theorem setReg_hbmFailed (pg o v s) : (setReg pg o v s).hbmFailed = s.hbmFailed := rfl
@[simp] theorem setReg_dies (pg o v s) : (setReg pg o v s).dies = s.dies := rfl
@[simp] theorem setReg_ring (pg o v s) : (setReg pg o v s).ring = s.ring := rfl
@[simp] theorem setReg_ledger (pg o v s) : (setReg pg o v s).ledger = s.ledger := rfl
@[simp] theorem setReg_iseq (pg o v s) : (setReg pg o v s).iseq = s.iseq := rfl
@[simp] theorem setReg_stepItems (pg o v s) : (setReg pg o v s).stepItems = s.stepItems := rfl
@[simp] theorem setReg_aheadItems (pg o v s) : (setReg pg o v s).aheadItems = s.aheadItems := rfl
@[simp] theorem setReg_stepLost (pg o v s) : (setReg pg o v s).stepLost = s.stepLost := rfl
@[simp] theorem setReg_lostFirst (pg o v s) : (setReg pg o v s).lostFirst = s.lostFirst := rfl
@[simp] theorem setReg_lostN (pg o v s) : (setReg pg o v s).lostN = s.lostN := rfl
@[simp] theorem setReg_state3 (pg o v s) : (setReg pg o v s).state3 = s.state3 := rfl
@[simp] theorem setReg_rdc (pg o v s) : (setReg pg o v s).rdc = s.rdc := rfl
@[simp] theorem setReg_links (pg o v s) : (setReg pg o v s).links = s.links := rfl
@[simp] theorem setReg_peers (pg o v s) : (setReg pg o v s).peers = s.peers := rfl
@[simp] theorem setReg_stageSt (pg o v s) : (setReg pg o v s).stageSt = s.stageSt := rfl
@[simp] theorem setReg_tsynced (pg o v s) : (setReg pg o v s).tsynced = s.tsynced := rfl
@[simp] theorem setReg_slew (pg o v s) : (setReg pg o v s).slew = s.slew := rfl
@[simp] theorem setReg_out (pg o v s) : (setReg pg o v s).out = s.out := rfl
@[simp] theorem setReg_fc (pg o v s) : (setReg pg o v s).fc = s.fc := rfl
@[simp] theorem setReg_pending (pg o v s) : (setReg pg o v s).pending = s.pending := rfl

@[simp] theorem emit_code (m s) : (emit m s).code = s.code := rfl
@[simp] theorem emit_silicon (m s) : (emit m s).silicon = s.silicon := rfl
@[simp] theorem emit_serial (m s) : (emit m s).serial = s.serial := rfl
@[simp] theorem emit_mfg (m s) : (emit m s).mfg = s.mfg := rfl
@[simp] theorem emit_run (m s) : (emit m s).run = s.run := rfl
@[simp] theorem emit_stage (m s) : (emit m s).stage = s.stage := rfl
@[simp] theorem emit_qEnd (m s) : (emit m s).qEnd = s.qEnd := rfl
@[simp] theorem emit_testAt (m s) : (emit m s).testAt = s.testAt := rfl
@[simp] theorem emit_loading (m s) : (emit m s).loading = s.loading := rfl
@[simp] theorem emit_busy (m s) : (emit m s).busy = s.busy := rfl
@[simp] theorem emit_noArray (m s) : (emit m s).noArray = s.noArray := rfl
@[simp] theorem emit_stuck (m s) : (emit m s).stuck = s.stuck := rfl
@[simp] theorem emit_tripLatched (m s) : (emit m s).tripLatched = s.tripLatched := rfl
@[simp] theorem emit_tripAt (m s) : (emit m s).tripAt = s.tripAt := rfl
@[simp] theorem emit_now (m s) : (emit m s).now = s.now := rfl
@[simp] theorem emit_regs (m s) : (emit m s).regs = s.regs := rfl
@[simp] theorem emit_bankA (m s) : (emit m s).bankA = s.bankA := rfl
@[simp] theorem emit_bankB (m s) : (emit m s).bankB = s.bankB := rfl
@[simp] theorem emit_activeB (m s) : (emit m s).activeB = s.activeB := rfl
@[simp] theorem emit_ver (m s) : (emit m s).ver = s.ver := rfl
@[simp] theorem emit_stepBank (m s) : (emit m s).stepBank = s.stepBank := rfl
@[simp] theorem emit_pendCfg (m s) : (emit m s).pendCfg = s.pendCfg := rfl
@[simp] theorem emit_touched (m s) : (emit m s).touched = s.touched := rfl
@[simp] theorem emit_rdLatch (m s) : (emit m s).rdLatch = s.rdLatch := rfl
@[simp] theorem emit_wrHeld (m s) : (emit m s).wrHeld = s.wrHeld := rfl
@[simp] theorem emit_viewLatch (m s) : (emit m s).viewLatch = s.viewLatch := rfl
@[simp] theorem emit_srst (m s) : (emit m s).srst = s.srst := rfl
@[simp] theorem emit_armed (m s) : (emit m s).armed = s.armed := rfl
@[simp] theorem emit_isSealed (m s) : (emit m s).isSealed = s.isSealed := rfl
@[simp] theorem emit_level (m s) : (emit m s).level = s.level := rfl
@[simp] theorem emit_refusal (m s) : (emit m s).refusal = s.refusal := rfl
@[simp] theorem emit_scrub (m s) : (emit m s).scrub = s.scrub := rfl
@[simp] theorem emit_scrubFor (m s) : (emit m s).scrubFor = s.scrubFor := rfl
@[simp] theorem emit_spdm (m s) : (emit m s).spdm = s.spdm := rfl
@[simp] theorem emit_ide (m s) : (emit m s).ide = s.ide := rfl
@[simp] theorem emit_hbmKey (m s) : (emit m s).hbmKey = s.hbmKey := rfl
@[simp] theorem emit_cipher (m s) : (emit m s).cipher = s.cipher := rfl
@[simp] theorem emit_linkKeys (m s) : (emit m s).linkKeys = s.linkKeys := rfl
@[simp] theorem emit_sram (m s) : (emit m s).sram = s.sram := rfl
@[simp] theorem emit_winOpen (m s) : (emit m s).winOpen = s.winOpen := rfl
@[simp] theorem emit_mgmtUp (m s) : (emit m s).mgmtUp = s.mgmtUp := rfl
@[simp] theorem emit_mgmtHash (m s) : (emit m s).mgmtHash = s.mgmtHash := rfl
@[simp] theorem emit_kick0 (m s) : (emit m s).kick0 = s.kick0 := rfl
@[simp] theorem emit_kick1 (m s) : (emit m s).kick1 = s.kick1 := rfl
@[simp] theorem emit_env (m s) : (emit m s).env = s.env := rfl
@[simp] theorem emit_host (m s) : (emit m s).host = s.host := rfl
@[simp] theorem emit_jtag (m s) : (emit m s).jtag = s.jtag := rfl
@[simp] theorem emit_prtHeld (m s) : (emit m s).prtHeld = s.prtHeld := rfl
@[simp] theorem emit_evc (m s) : (emit m s).evc = s.evc := rfl
@[simp] theorem emit_cages (m s) : (emit m s).cages = s.cages := rfl
@[simp] theorem emit_fields (m s) : (emit m s).fields = s.fields := rfl
@[simp] theorem emit_fcmdBusy (m s) : (emit m s).fcmdBusy = s.fcmdBusy := rfl
@[simp] theorem emit_overTemp (m s) : (emit m s).overTemp = s.overTemp := rfl
@[simp] theorem emit_warned (m s) : (emit m s).warned = s.warned := rfl
@[simp] theorem emit_inletHigh (m s) : (emit m s).inletHigh = s.inletHigh := rfl
@[simp] theorem emit_hot (m s) : (emit m s).hot = s.hot := rfl
@[simp] theorem emit_over95 (m s) : (emit m s).over95 = s.over95 := rfl
@[simp] theorem emit_vminHalf (m s) : (emit m s).vminHalf = s.vminHalf := rfl
@[simp] theorem emit_railLost (m s) : (emit m s).railLost = s.railLost := rfl
@[simp] theorem emit_hdq (m s) : (emit m s).hdq = s.hdq := rfl
@[simp] theorem emit_image (m s) : (emit m s).image = s.image := rfl
@[simp] theorem emit_place (m s) : (emit m s).place = s.place := rfl
@[simp] theorem emit_geo (m s) : (emit m s).geo = s.geo := rfl
@[simp] theorem emit_keySeed (m s) : (emit m s).keySeed = s.keySeed := rfl
@[simp] theorem emit_keyJob (m s) : (emit m s).keyJob = s.keyJob := rfl
@[simp] theorem emit_priorSus (m s) : (emit m s).priorSus = s.priorSus := rfl
@[simp] theorem emit_clk (m s) : (emit m s).clk = s.clk := rfl
@[simp] theorem emit_tiles (m s) : (emit m s).tiles = s.tiles := rfl
@[simp] theorem emit_offTiles (m s) : (emit m s).offTiles = s.offTiles := rfl
@[simp] theorem emit_asq (m s) : (emit m s).asq = s.asq := rfl
@[simp] theorem emit_hbm (m s) : (emit m s).hbm = s.hbm := rfl
@[simp] theorem emit_poison (m s) : (emit m s).poison = s.poison := rfl
@[simp] theorem emit_flaws (m s) : (emit m s).flaws = s.flaws := rfl
@[simp] theorem emit_hbmFailed (m s) : (emit m s).hbmFailed = s.hbmFailed := rfl
@[simp] theorem emit_dies (m s) : (emit m s).dies = s.dies := rfl
@[simp] theorem emit_ring (m s) : (emit m s).ring = s.ring := rfl
@[simp] theorem emit_ledger (m s) : (emit m s).ledger = s.ledger := rfl
@[simp] theorem emit_iseq (m s) : (emit m s).iseq = s.iseq := rfl
@[simp] theorem emit_stepItems (m s) : (emit m s).stepItems = s.stepItems := rfl
@[simp] theorem emit_aheadItems (m s) : (emit m s).aheadItems = s.aheadItems := rfl
@[simp] theorem emit_stepLost (m s) : (emit m s).stepLost = s.stepLost := rfl
@[simp] theorem emit_lostFirst (m s) : (emit m s).lostFirst = s.lostFirst := rfl
@[simp] theorem emit_lostN (m s) : (emit m s).lostN = s.lostN := rfl
@[simp] theorem emit_state3 (m s) : (emit m s).state3 = s.state3 := rfl
@[simp] theorem emit_rdc (m s) : (emit m s).rdc = s.rdc := rfl
@[simp] theorem emit_links (m s) : (emit m s).links = s.links := rfl
@[simp] theorem emit_peers (m s) : (emit m s).peers = s.peers := rfl
@[simp] theorem emit_stageSt (m s) : (emit m s).stageSt = s.stageSt := rfl
@[simp] theorem emit_tsynced (m s) : (emit m s).tsynced = s.tsynced := rfl
@[simp] theorem emit_slew (m s) : (emit m s).slew = s.slew := rfl
@[simp] theorem emit_fc (m s) : (emit m s).fc = s.fc := rfl
@[simp] theorem emit_pending (m s) : (emit m s).pending = s.pending := rfl

@[simp] theorem setTile_code (u v x s) : (setTile u v x s).code = s.code := rfl
@[simp] theorem setTile_silicon (u v x s) : (setTile u v x s).silicon = s.silicon := rfl
@[simp] theorem setTile_serial (u v x s) : (setTile u v x s).serial = s.serial := rfl
@[simp] theorem setTile_mfg (u v x s) : (setTile u v x s).mfg = s.mfg := rfl
@[simp] theorem setTile_run (u v x s) : (setTile u v x s).run = s.run := rfl
@[simp] theorem setTile_stage (u v x s) : (setTile u v x s).stage = s.stage := rfl
@[simp] theorem setTile_qEnd (u v x s) : (setTile u v x s).qEnd = s.qEnd := rfl
@[simp] theorem setTile_testAt (u v x s) : (setTile u v x s).testAt = s.testAt := rfl
@[simp] theorem setTile_loading (u v x s) : (setTile u v x s).loading = s.loading := rfl
@[simp] theorem setTile_busy (u v x s) : (setTile u v x s).busy = s.busy := rfl
@[simp] theorem setTile_noArray (u v x s) : (setTile u v x s).noArray = s.noArray := rfl
@[simp] theorem setTile_stuck (u v x s) : (setTile u v x s).stuck = s.stuck := rfl
@[simp] theorem setTile_tripLatched (u v x s) : (setTile u v x s).tripLatched = s.tripLatched := rfl
@[simp] theorem setTile_tripAt (u v x s) : (setTile u v x s).tripAt = s.tripAt := rfl
@[simp] theorem setTile_now (u v x s) : (setTile u v x s).now = s.now := rfl
@[simp] theorem setTile_regs (u v x s) : (setTile u v x s).regs = s.regs := rfl
@[simp] theorem setTile_bankA (u v x s) : (setTile u v x s).bankA = s.bankA := rfl
@[simp] theorem setTile_bankB (u v x s) : (setTile u v x s).bankB = s.bankB := rfl
@[simp] theorem setTile_activeB (u v x s) : (setTile u v x s).activeB = s.activeB := rfl
@[simp] theorem setTile_ver (u v x s) : (setTile u v x s).ver = s.ver := rfl
@[simp] theorem setTile_stepBank (u v x s) : (setTile u v x s).stepBank = s.stepBank := rfl
@[simp] theorem setTile_pendCfg (u v x s) : (setTile u v x s).pendCfg = s.pendCfg := rfl
@[simp] theorem setTile_touched (u v x s) : (setTile u v x s).touched = s.touched := rfl
@[simp] theorem setTile_rdLatch (u v x s) : (setTile u v x s).rdLatch = s.rdLatch := rfl
@[simp] theorem setTile_wrHeld (u v x s) : (setTile u v x s).wrHeld = s.wrHeld := rfl
@[simp] theorem setTile_viewLatch (u v x s) : (setTile u v x s).viewLatch = s.viewLatch := rfl
@[simp] theorem setTile_srst (u v x s) : (setTile u v x s).srst = s.srst := rfl
@[simp] theorem setTile_armed (u v x s) : (setTile u v x s).armed = s.armed := rfl
@[simp] theorem setTile_isSealed (u v x s) : (setTile u v x s).isSealed = s.isSealed := rfl
@[simp] theorem setTile_level (u v x s) : (setTile u v x s).level = s.level := rfl
@[simp] theorem setTile_refusal (u v x s) : (setTile u v x s).refusal = s.refusal := rfl
@[simp] theorem setTile_scrub (u v x s) : (setTile u v x s).scrub = s.scrub := rfl
@[simp] theorem setTile_scrubFor (u v x s) : (setTile u v x s).scrubFor = s.scrubFor := rfl
@[simp] theorem setTile_spdm (u v x s) : (setTile u v x s).spdm = s.spdm := rfl
@[simp] theorem setTile_ide (u v x s) : (setTile u v x s).ide = s.ide := rfl
@[simp] theorem setTile_hbmKey (u v x s) : (setTile u v x s).hbmKey = s.hbmKey := rfl
@[simp] theorem setTile_cipher (u v x s) : (setTile u v x s).cipher = s.cipher := rfl
@[simp] theorem setTile_linkKeys (u v x s) : (setTile u v x s).linkKeys = s.linkKeys := rfl
@[simp] theorem setTile_sram (u v x s) : (setTile u v x s).sram = s.sram := rfl
@[simp] theorem setTile_winOpen (u v x s) : (setTile u v x s).winOpen = s.winOpen := rfl
@[simp] theorem setTile_mgmtUp (u v x s) : (setTile u v x s).mgmtUp = s.mgmtUp := rfl
@[simp] theorem setTile_mgmtHash (u v x s) : (setTile u v x s).mgmtHash = s.mgmtHash := rfl
@[simp] theorem setTile_kick0 (u v x s) : (setTile u v x s).kick0 = s.kick0 := rfl
@[simp] theorem setTile_kick1 (u v x s) : (setTile u v x s).kick1 = s.kick1 := rfl
@[simp] theorem setTile_env (u v x s) : (setTile u v x s).env = s.env := rfl
@[simp] theorem setTile_host (u v x s) : (setTile u v x s).host = s.host := rfl
@[simp] theorem setTile_jtag (u v x s) : (setTile u v x s).jtag = s.jtag := rfl
@[simp] theorem setTile_prtHeld (u v x s) : (setTile u v x s).prtHeld = s.prtHeld := rfl
@[simp] theorem setTile_evc (u v x s) : (setTile u v x s).evc = s.evc := rfl
@[simp] theorem setTile_cages (u v x s) : (setTile u v x s).cages = s.cages := rfl
@[simp] theorem setTile_fields (u v x s) : (setTile u v x s).fields = s.fields := rfl
@[simp] theorem setTile_fcmdBusy (u v x s) : (setTile u v x s).fcmdBusy = s.fcmdBusy := rfl
@[simp] theorem setTile_overTemp (u v x s) : (setTile u v x s).overTemp = s.overTemp := rfl
@[simp] theorem setTile_warned (u v x s) : (setTile u v x s).warned = s.warned := rfl
@[simp] theorem setTile_inletHigh (u v x s) : (setTile u v x s).inletHigh = s.inletHigh := rfl
@[simp] theorem setTile_hot (u v x s) : (setTile u v x s).hot = s.hot := rfl
@[simp] theorem setTile_over95 (u v x s) : (setTile u v x s).over95 = s.over95 := rfl
@[simp] theorem setTile_vminHalf (u v x s) : (setTile u v x s).vminHalf = s.vminHalf := rfl
@[simp] theorem setTile_railLost (u v x s) : (setTile u v x s).railLost = s.railLost := rfl
@[simp] theorem setTile_hdq (u v x s) : (setTile u v x s).hdq = s.hdq := rfl
@[simp] theorem setTile_image (u v x s) : (setTile u v x s).image = s.image := rfl
@[simp] theorem setTile_place (u v x s) : (setTile u v x s).place = s.place := rfl
@[simp] theorem setTile_geo (u v x s) : (setTile u v x s).geo = s.geo := rfl
@[simp] theorem setTile_keySeed (u v x s) : (setTile u v x s).keySeed = s.keySeed := rfl
@[simp] theorem setTile_keyJob (u v x s) : (setTile u v x s).keyJob = s.keyJob := rfl
@[simp] theorem setTile_priorSus (u v x s) : (setTile u v x s).priorSus = s.priorSus := rfl
@[simp] theorem setTile_clk (u v x s) : (setTile u v x s).clk = s.clk := rfl
@[simp] theorem setTile_offTiles (u v x s) : (setTile u v x s).offTiles = s.offTiles := rfl
@[simp] theorem setTile_asq (u v x s) : (setTile u v x s).asq = s.asq := rfl
@[simp] theorem setTile_hbm (u v x s) : (setTile u v x s).hbm = s.hbm := rfl
@[simp] theorem setTile_poison (u v x s) : (setTile u v x s).poison = s.poison := rfl
@[simp] theorem setTile_flaws (u v x s) : (setTile u v x s).flaws = s.flaws := rfl
@[simp] theorem setTile_hbmFailed (u v x s) : (setTile u v x s).hbmFailed = s.hbmFailed := rfl
@[simp] theorem setTile_dies (u v x s) : (setTile u v x s).dies = s.dies := rfl
@[simp] theorem setTile_ring (u v x s) : (setTile u v x s).ring = s.ring := rfl
@[simp] theorem setTile_ledger (u v x s) : (setTile u v x s).ledger = s.ledger := rfl
@[simp] theorem setTile_iseq (u v x s) : (setTile u v x s).iseq = s.iseq := rfl
@[simp] theorem setTile_stepItems (u v x s) : (setTile u v x s).stepItems = s.stepItems := rfl
@[simp] theorem setTile_aheadItems (u v x s) : (setTile u v x s).aheadItems = s.aheadItems := rfl
@[simp] theorem setTile_stepLost (u v x s) : (setTile u v x s).stepLost = s.stepLost := rfl
@[simp] theorem setTile_lostFirst (u v x s) : (setTile u v x s).lostFirst = s.lostFirst := rfl
@[simp] theorem setTile_lostN (u v x s) : (setTile u v x s).lostN = s.lostN := rfl
@[simp] theorem setTile_state3 (u v x s) : (setTile u v x s).state3 = s.state3 := rfl
@[simp] theorem setTile_rdc (u v x s) : (setTile u v x s).rdc = s.rdc := rfl
@[simp] theorem setTile_links (u v x s) : (setTile u v x s).links = s.links := rfl
@[simp] theorem setTile_peers (u v x s) : (setTile u v x s).peers = s.peers := rfl
@[simp] theorem setTile_stageSt (u v x s) : (setTile u v x s).stageSt = s.stageSt := rfl
@[simp] theorem setTile_tsynced (u v x s) : (setTile u v x s).tsynced = s.tsynced := rfl
@[simp] theorem setTile_slew (u v x s) : (setTile u v x s).slew = s.slew := rfl
@[simp] theorem setTile_out (u v x s) : (setTile u v x s).out = s.out := rfl
@[simp] theorem setTile_fc (u v x s) : (setTile u v x s).fc = s.fc := rfl
@[simp] theorem setTile_pending (u v x s) : (setTile u v x s).pending = s.pending := rfl

@[simp] theorem setDie_code (d x s) : (setDie d x s).code = s.code := rfl
@[simp] theorem setDie_silicon (d x s) : (setDie d x s).silicon = s.silicon := rfl
@[simp] theorem setDie_serial (d x s) : (setDie d x s).serial = s.serial := rfl
@[simp] theorem setDie_mfg (d x s) : (setDie d x s).mfg = s.mfg := rfl
@[simp] theorem setDie_run (d x s) : (setDie d x s).run = s.run := rfl
@[simp] theorem setDie_stage (d x s) : (setDie d x s).stage = s.stage := rfl
@[simp] theorem setDie_qEnd (d x s) : (setDie d x s).qEnd = s.qEnd := rfl
@[simp] theorem setDie_testAt (d x s) : (setDie d x s).testAt = s.testAt := rfl
@[simp] theorem setDie_loading (d x s) : (setDie d x s).loading = s.loading := rfl
@[simp] theorem setDie_busy (d x s) : (setDie d x s).busy = s.busy := rfl
@[simp] theorem setDie_noArray (d x s) : (setDie d x s).noArray = s.noArray := rfl
@[simp] theorem setDie_stuck (d x s) : (setDie d x s).stuck = s.stuck := rfl
@[simp] theorem setDie_tripLatched (d x s) : (setDie d x s).tripLatched = s.tripLatched := rfl
@[simp] theorem setDie_tripAt (d x s) : (setDie d x s).tripAt = s.tripAt := rfl
@[simp] theorem setDie_now (d x s) : (setDie d x s).now = s.now := rfl
@[simp] theorem setDie_regs (d x s) : (setDie d x s).regs = s.regs := rfl
@[simp] theorem setDie_bankA (d x s) : (setDie d x s).bankA = s.bankA := rfl
@[simp] theorem setDie_bankB (d x s) : (setDie d x s).bankB = s.bankB := rfl
@[simp] theorem setDie_activeB (d x s) : (setDie d x s).activeB = s.activeB := rfl
@[simp] theorem setDie_ver (d x s) : (setDie d x s).ver = s.ver := rfl
@[simp] theorem setDie_stepBank (d x s) : (setDie d x s).stepBank = s.stepBank := rfl
@[simp] theorem setDie_pendCfg (d x s) : (setDie d x s).pendCfg = s.pendCfg := rfl
@[simp] theorem setDie_touched (d x s) : (setDie d x s).touched = s.touched := rfl
@[simp] theorem setDie_rdLatch (d x s) : (setDie d x s).rdLatch = s.rdLatch := rfl
@[simp] theorem setDie_wrHeld (d x s) : (setDie d x s).wrHeld = s.wrHeld := rfl
@[simp] theorem setDie_viewLatch (d x s) : (setDie d x s).viewLatch = s.viewLatch := rfl
@[simp] theorem setDie_srst (d x s) : (setDie d x s).srst = s.srst := rfl
@[simp] theorem setDie_armed (d x s) : (setDie d x s).armed = s.armed := rfl
@[simp] theorem setDie_isSealed (d x s) : (setDie d x s).isSealed = s.isSealed := rfl
@[simp] theorem setDie_level (d x s) : (setDie d x s).level = s.level := rfl
@[simp] theorem setDie_refusal (d x s) : (setDie d x s).refusal = s.refusal := rfl
@[simp] theorem setDie_scrub (d x s) : (setDie d x s).scrub = s.scrub := rfl
@[simp] theorem setDie_scrubFor (d x s) : (setDie d x s).scrubFor = s.scrubFor := rfl
@[simp] theorem setDie_spdm (d x s) : (setDie d x s).spdm = s.spdm := rfl
@[simp] theorem setDie_ide (d x s) : (setDie d x s).ide = s.ide := rfl
@[simp] theorem setDie_hbmKey (d x s) : (setDie d x s).hbmKey = s.hbmKey := rfl
@[simp] theorem setDie_cipher (d x s) : (setDie d x s).cipher = s.cipher := rfl
@[simp] theorem setDie_linkKeys (d x s) : (setDie d x s).linkKeys = s.linkKeys := rfl
@[simp] theorem setDie_sram (d x s) : (setDie d x s).sram = s.sram := rfl
@[simp] theorem setDie_winOpen (d x s) : (setDie d x s).winOpen = s.winOpen := rfl
@[simp] theorem setDie_mgmtUp (d x s) : (setDie d x s).mgmtUp = s.mgmtUp := rfl
@[simp] theorem setDie_mgmtHash (d x s) : (setDie d x s).mgmtHash = s.mgmtHash := rfl
@[simp] theorem setDie_kick0 (d x s) : (setDie d x s).kick0 = s.kick0 := rfl
@[simp] theorem setDie_kick1 (d x s) : (setDie d x s).kick1 = s.kick1 := rfl
@[simp] theorem setDie_env (d x s) : (setDie d x s).env = s.env := rfl
@[simp] theorem setDie_host (d x s) : (setDie d x s).host = s.host := rfl
@[simp] theorem setDie_jtag (d x s) : (setDie d x s).jtag = s.jtag := rfl
@[simp] theorem setDie_prtHeld (d x s) : (setDie d x s).prtHeld = s.prtHeld := rfl
@[simp] theorem setDie_evc (d x s) : (setDie d x s).evc = s.evc := rfl
@[simp] theorem setDie_cages (d x s) : (setDie d x s).cages = s.cages := rfl
@[simp] theorem setDie_fields (d x s) : (setDie d x s).fields = s.fields := rfl
@[simp] theorem setDie_fcmdBusy (d x s) : (setDie d x s).fcmdBusy = s.fcmdBusy := rfl
@[simp] theorem setDie_overTemp (d x s) : (setDie d x s).overTemp = s.overTemp := rfl
@[simp] theorem setDie_warned (d x s) : (setDie d x s).warned = s.warned := rfl
@[simp] theorem setDie_inletHigh (d x s) : (setDie d x s).inletHigh = s.inletHigh := rfl
@[simp] theorem setDie_hot (d x s) : (setDie d x s).hot = s.hot := rfl
@[simp] theorem setDie_over95 (d x s) : (setDie d x s).over95 = s.over95 := rfl
@[simp] theorem setDie_vminHalf (d x s) : (setDie d x s).vminHalf = s.vminHalf := rfl
@[simp] theorem setDie_railLost (d x s) : (setDie d x s).railLost = s.railLost := rfl
@[simp] theorem setDie_hdq (d x s) : (setDie d x s).hdq = s.hdq := rfl
@[simp] theorem setDie_image (d x s) : (setDie d x s).image = s.image := rfl
@[simp] theorem setDie_place (d x s) : (setDie d x s).place = s.place := rfl
@[simp] theorem setDie_geo (d x s) : (setDie d x s).geo = s.geo := rfl
@[simp] theorem setDie_keySeed (d x s) : (setDie d x s).keySeed = s.keySeed := rfl
@[simp] theorem setDie_keyJob (d x s) : (setDie d x s).keyJob = s.keyJob := rfl
@[simp] theorem setDie_priorSus (d x s) : (setDie d x s).priorSus = s.priorSus := rfl
@[simp] theorem setDie_clk (d x s) : (setDie d x s).clk = s.clk := rfl
@[simp] theorem setDie_tiles (d x s) : (setDie d x s).tiles = s.tiles := rfl
@[simp] theorem setDie_offTiles (d x s) : (setDie d x s).offTiles = s.offTiles := rfl
@[simp] theorem setDie_asq (d x s) : (setDie d x s).asq = s.asq := rfl
@[simp] theorem setDie_hbm (d x s) : (setDie d x s).hbm = s.hbm := rfl
@[simp] theorem setDie_poison (d x s) : (setDie d x s).poison = s.poison := rfl
@[simp] theorem setDie_flaws (d x s) : (setDie d x s).flaws = s.flaws := rfl
@[simp] theorem setDie_hbmFailed (d x s) : (setDie d x s).hbmFailed = s.hbmFailed := rfl
@[simp] theorem setDie_ring (d x s) : (setDie d x s).ring = s.ring := rfl
@[simp] theorem setDie_ledger (d x s) : (setDie d x s).ledger = s.ledger := rfl
@[simp] theorem setDie_iseq (d x s) : (setDie d x s).iseq = s.iseq := rfl
@[simp] theorem setDie_stepItems (d x s) : (setDie d x s).stepItems = s.stepItems := rfl
@[simp] theorem setDie_aheadItems (d x s) : (setDie d x s).aheadItems = s.aheadItems := rfl
@[simp] theorem setDie_stepLost (d x s) : (setDie d x s).stepLost = s.stepLost := rfl
@[simp] theorem setDie_lostFirst (d x s) : (setDie d x s).lostFirst = s.lostFirst := rfl
@[simp] theorem setDie_lostN (d x s) : (setDie d x s).lostN = s.lostN := rfl
@[simp] theorem setDie_state3 (d x s) : (setDie d x s).state3 = s.state3 := rfl
@[simp] theorem setDie_rdc (d x s) : (setDie d x s).rdc = s.rdc := rfl
@[simp] theorem setDie_links (d x s) : (setDie d x s).links = s.links := rfl
@[simp] theorem setDie_peers (d x s) : (setDie d x s).peers = s.peers := rfl
@[simp] theorem setDie_stageSt (d x s) : (setDie d x s).stageSt = s.stageSt := rfl
@[simp] theorem setDie_tsynced (d x s) : (setDie d x s).tsynced = s.tsynced := rfl
@[simp] theorem setDie_slew (d x s) : (setDie d x s).slew = s.slew := rfl
@[simp] theorem setDie_out (d x s) : (setDie d x s).out = s.out := rfl
@[simp] theorem setDie_fc (d x s) : (setDie d x s).fc = s.fc := rfl
@[simp] theorem setDie_pending (d x s) : (setDie d x s).pending = s.pending := rfl

@[simp] theorem setField_code (f x s) : (setField f x s).code = s.code := rfl
@[simp] theorem setField_silicon (f x s) : (setField f x s).silicon = s.silicon := rfl
@[simp] theorem setField_serial (f x s) : (setField f x s).serial = s.serial := rfl
@[simp] theorem setField_mfg (f x s) : (setField f x s).mfg = s.mfg := rfl
@[simp] theorem setField_run (f x s) : (setField f x s).run = s.run := rfl
@[simp] theorem setField_stage (f x s) : (setField f x s).stage = s.stage := rfl
@[simp] theorem setField_qEnd (f x s) : (setField f x s).qEnd = s.qEnd := rfl
@[simp] theorem setField_testAt (f x s) : (setField f x s).testAt = s.testAt := rfl
@[simp] theorem setField_loading (f x s) : (setField f x s).loading = s.loading := rfl
@[simp] theorem setField_busy (f x s) : (setField f x s).busy = s.busy := rfl
@[simp] theorem setField_noArray (f x s) : (setField f x s).noArray = s.noArray := rfl
@[simp] theorem setField_stuck (f x s) : (setField f x s).stuck = s.stuck := rfl
@[simp] theorem setField_tripLatched (f x s) : (setField f x s).tripLatched = s.tripLatched := rfl
@[simp] theorem setField_tripAt (f x s) : (setField f x s).tripAt = s.tripAt := rfl
@[simp] theorem setField_now (f x s) : (setField f x s).now = s.now := rfl
@[simp] theorem setField_regs (f x s) : (setField f x s).regs = s.regs := rfl
@[simp] theorem setField_bankA (f x s) : (setField f x s).bankA = s.bankA := rfl
@[simp] theorem setField_bankB (f x s) : (setField f x s).bankB = s.bankB := rfl
@[simp] theorem setField_activeB (f x s) : (setField f x s).activeB = s.activeB := rfl
@[simp] theorem setField_ver (f x s) : (setField f x s).ver = s.ver := rfl
@[simp] theorem setField_stepBank (f x s) : (setField f x s).stepBank = s.stepBank := rfl
@[simp] theorem setField_pendCfg (f x s) : (setField f x s).pendCfg = s.pendCfg := rfl
@[simp] theorem setField_touched (f x s) : (setField f x s).touched = s.touched := rfl
@[simp] theorem setField_rdLatch (f x s) : (setField f x s).rdLatch = s.rdLatch := rfl
@[simp] theorem setField_wrHeld (f x s) : (setField f x s).wrHeld = s.wrHeld := rfl
@[simp] theorem setField_viewLatch (f x s) : (setField f x s).viewLatch = s.viewLatch := rfl
@[simp] theorem setField_srst (f x s) : (setField f x s).srst = s.srst := rfl
@[simp] theorem setField_armed (f x s) : (setField f x s).armed = s.armed := rfl
@[simp] theorem setField_isSealed (f x s) : (setField f x s).isSealed = s.isSealed := rfl
@[simp] theorem setField_level (f x s) : (setField f x s).level = s.level := rfl
@[simp] theorem setField_refusal (f x s) : (setField f x s).refusal = s.refusal := rfl
@[simp] theorem setField_scrub (f x s) : (setField f x s).scrub = s.scrub := rfl
@[simp] theorem setField_scrubFor (f x s) : (setField f x s).scrubFor = s.scrubFor := rfl
@[simp] theorem setField_spdm (f x s) : (setField f x s).spdm = s.spdm := rfl
@[simp] theorem setField_ide (f x s) : (setField f x s).ide = s.ide := rfl
@[simp] theorem setField_hbmKey (f x s) : (setField f x s).hbmKey = s.hbmKey := rfl
@[simp] theorem setField_cipher (f x s) : (setField f x s).cipher = s.cipher := rfl
@[simp] theorem setField_linkKeys (f x s) : (setField f x s).linkKeys = s.linkKeys := rfl
@[simp] theorem setField_sram (f x s) : (setField f x s).sram = s.sram := rfl
@[simp] theorem setField_winOpen (f x s) : (setField f x s).winOpen = s.winOpen := rfl
@[simp] theorem setField_mgmtUp (f x s) : (setField f x s).mgmtUp = s.mgmtUp := rfl
@[simp] theorem setField_mgmtHash (f x s) : (setField f x s).mgmtHash = s.mgmtHash := rfl
@[simp] theorem setField_kick0 (f x s) : (setField f x s).kick0 = s.kick0 := rfl
@[simp] theorem setField_kick1 (f x s) : (setField f x s).kick1 = s.kick1 := rfl
@[simp] theorem setField_env (f x s) : (setField f x s).env = s.env := rfl
@[simp] theorem setField_host (f x s) : (setField f x s).host = s.host := rfl
@[simp] theorem setField_jtag (f x s) : (setField f x s).jtag = s.jtag := rfl
@[simp] theorem setField_prtHeld (f x s) : (setField f x s).prtHeld = s.prtHeld := rfl
@[simp] theorem setField_evc (f x s) : (setField f x s).evc = s.evc := rfl
@[simp] theorem setField_cages (f x s) : (setField f x s).cages = s.cages := rfl
@[simp] theorem setField_fcmdBusy (f x s) : (setField f x s).fcmdBusy = s.fcmdBusy := rfl
@[simp] theorem setField_overTemp (f x s) : (setField f x s).overTemp = s.overTemp := rfl
@[simp] theorem setField_warned (f x s) : (setField f x s).warned = s.warned := rfl
@[simp] theorem setField_inletHigh (f x s) : (setField f x s).inletHigh = s.inletHigh := rfl
@[simp] theorem setField_hot (f x s) : (setField f x s).hot = s.hot := rfl
@[simp] theorem setField_over95 (f x s) : (setField f x s).over95 = s.over95 := rfl
@[simp] theorem setField_vminHalf (f x s) : (setField f x s).vminHalf = s.vminHalf := rfl
@[simp] theorem setField_railLost (f x s) : (setField f x s).railLost = s.railLost := rfl
@[simp] theorem setField_hdq (f x s) : (setField f x s).hdq = s.hdq := rfl
@[simp] theorem setField_image (f x s) : (setField f x s).image = s.image := rfl
@[simp] theorem setField_place (f x s) : (setField f x s).place = s.place := rfl
@[simp] theorem setField_geo (f x s) : (setField f x s).geo = s.geo := rfl
@[simp] theorem setField_keySeed (f x s) : (setField f x s).keySeed = s.keySeed := rfl
@[simp] theorem setField_keyJob (f x s) : (setField f x s).keyJob = s.keyJob := rfl
@[simp] theorem setField_priorSus (f x s) : (setField f x s).priorSus = s.priorSus := rfl
@[simp] theorem setField_clk (f x s) : (setField f x s).clk = s.clk := rfl
@[simp] theorem setField_tiles (f x s) : (setField f x s).tiles = s.tiles := rfl
@[simp] theorem setField_offTiles (f x s) : (setField f x s).offTiles = s.offTiles := rfl
@[simp] theorem setField_asq (f x s) : (setField f x s).asq = s.asq := rfl
@[simp] theorem setField_hbm (f x s) : (setField f x s).hbm = s.hbm := rfl
@[simp] theorem setField_poison (f x s) : (setField f x s).poison = s.poison := rfl
@[simp] theorem setField_flaws (f x s) : (setField f x s).flaws = s.flaws := rfl
@[simp] theorem setField_hbmFailed (f x s) : (setField f x s).hbmFailed = s.hbmFailed := rfl
@[simp] theorem setField_dies (f x s) : (setField f x s).dies = s.dies := rfl
@[simp] theorem setField_ring (f x s) : (setField f x s).ring = s.ring := rfl
@[simp] theorem setField_ledger (f x s) : (setField f x s).ledger = s.ledger := rfl
@[simp] theorem setField_iseq (f x s) : (setField f x s).iseq = s.iseq := rfl
@[simp] theorem setField_stepItems (f x s) : (setField f x s).stepItems = s.stepItems := rfl
@[simp] theorem setField_aheadItems (f x s) : (setField f x s).aheadItems = s.aheadItems := rfl
@[simp] theorem setField_stepLost (f x s) : (setField f x s).stepLost = s.stepLost := rfl
@[simp] theorem setField_lostFirst (f x s) : (setField f x s).lostFirst = s.lostFirst := rfl
@[simp] theorem setField_lostN (f x s) : (setField f x s).lostN = s.lostN := rfl
@[simp] theorem setField_state3 (f x s) : (setField f x s).state3 = s.state3 := rfl
@[simp] theorem setField_rdc (f x s) : (setField f x s).rdc = s.rdc := rfl
@[simp] theorem setField_links (f x s) : (setField f x s).links = s.links := rfl
@[simp] theorem setField_peers (f x s) : (setField f x s).peers = s.peers := rfl
@[simp] theorem setField_stageSt (f x s) : (setField f x s).stageSt = s.stageSt := rfl
@[simp] theorem setField_tsynced (f x s) : (setField f x s).tsynced = s.tsynced := rfl
@[simp] theorem setField_slew (f x s) : (setField f x s).slew = s.slew := rfl
@[simp] theorem setField_out (f x s) : (setField f x s).out = s.out := rfl
@[simp] theorem setField_fc (f x s) : (setField f x s).fc = s.fc := rfl
@[simp] theorem setField_pending (f x s) : (setField f x s).pending = s.pending := rfl

@[simp] theorem setLink_code (p x s) : (setLink p x s).code = s.code := rfl
@[simp] theorem setLink_silicon (p x s) : (setLink p x s).silicon = s.silicon := rfl
@[simp] theorem setLink_serial (p x s) : (setLink p x s).serial = s.serial := rfl
@[simp] theorem setLink_mfg (p x s) : (setLink p x s).mfg = s.mfg := rfl
@[simp] theorem setLink_run (p x s) : (setLink p x s).run = s.run := rfl
@[simp] theorem setLink_stage (p x s) : (setLink p x s).stage = s.stage := rfl
@[simp] theorem setLink_qEnd (p x s) : (setLink p x s).qEnd = s.qEnd := rfl
@[simp] theorem setLink_testAt (p x s) : (setLink p x s).testAt = s.testAt := rfl
@[simp] theorem setLink_loading (p x s) : (setLink p x s).loading = s.loading := rfl
@[simp] theorem setLink_busy (p x s) : (setLink p x s).busy = s.busy := rfl
@[simp] theorem setLink_noArray (p x s) : (setLink p x s).noArray = s.noArray := rfl
@[simp] theorem setLink_stuck (p x s) : (setLink p x s).stuck = s.stuck := rfl
@[simp] theorem setLink_tripLatched (p x s) : (setLink p x s).tripLatched = s.tripLatched := rfl
@[simp] theorem setLink_tripAt (p x s) : (setLink p x s).tripAt = s.tripAt := rfl
@[simp] theorem setLink_now (p x s) : (setLink p x s).now = s.now := rfl
@[simp] theorem setLink_regs (p x s) : (setLink p x s).regs = s.regs := rfl
@[simp] theorem setLink_bankA (p x s) : (setLink p x s).bankA = s.bankA := rfl
@[simp] theorem setLink_bankB (p x s) : (setLink p x s).bankB = s.bankB := rfl
@[simp] theorem setLink_activeB (p x s) : (setLink p x s).activeB = s.activeB := rfl
@[simp] theorem setLink_ver (p x s) : (setLink p x s).ver = s.ver := rfl
@[simp] theorem setLink_stepBank (p x s) : (setLink p x s).stepBank = s.stepBank := rfl
@[simp] theorem setLink_pendCfg (p x s) : (setLink p x s).pendCfg = s.pendCfg := rfl
@[simp] theorem setLink_touched (p x s) : (setLink p x s).touched = s.touched := rfl
@[simp] theorem setLink_rdLatch (p x s) : (setLink p x s).rdLatch = s.rdLatch := rfl
@[simp] theorem setLink_wrHeld (p x s) : (setLink p x s).wrHeld = s.wrHeld := rfl
@[simp] theorem setLink_viewLatch (p x s) : (setLink p x s).viewLatch = s.viewLatch := rfl
@[simp] theorem setLink_srst (p x s) : (setLink p x s).srst = s.srst := rfl
@[simp] theorem setLink_armed (p x s) : (setLink p x s).armed = s.armed := rfl
@[simp] theorem setLink_isSealed (p x s) : (setLink p x s).isSealed = s.isSealed := rfl
@[simp] theorem setLink_level (p x s) : (setLink p x s).level = s.level := rfl
@[simp] theorem setLink_refusal (p x s) : (setLink p x s).refusal = s.refusal := rfl
@[simp] theorem setLink_scrub (p x s) : (setLink p x s).scrub = s.scrub := rfl
@[simp] theorem setLink_scrubFor (p x s) : (setLink p x s).scrubFor = s.scrubFor := rfl
@[simp] theorem setLink_spdm (p x s) : (setLink p x s).spdm = s.spdm := rfl
@[simp] theorem setLink_ide (p x s) : (setLink p x s).ide = s.ide := rfl
@[simp] theorem setLink_hbmKey (p x s) : (setLink p x s).hbmKey = s.hbmKey := rfl
@[simp] theorem setLink_cipher (p x s) : (setLink p x s).cipher = s.cipher := rfl
@[simp] theorem setLink_linkKeys (p x s) : (setLink p x s).linkKeys = s.linkKeys := rfl
@[simp] theorem setLink_sram (p x s) : (setLink p x s).sram = s.sram := rfl
@[simp] theorem setLink_winOpen (p x s) : (setLink p x s).winOpen = s.winOpen := rfl
@[simp] theorem setLink_mgmtUp (p x s) : (setLink p x s).mgmtUp = s.mgmtUp := rfl
@[simp] theorem setLink_mgmtHash (p x s) : (setLink p x s).mgmtHash = s.mgmtHash := rfl
@[simp] theorem setLink_kick0 (p x s) : (setLink p x s).kick0 = s.kick0 := rfl
@[simp] theorem setLink_kick1 (p x s) : (setLink p x s).kick1 = s.kick1 := rfl
@[simp] theorem setLink_env (p x s) : (setLink p x s).env = s.env := rfl
@[simp] theorem setLink_host (p x s) : (setLink p x s).host = s.host := rfl
@[simp] theorem setLink_jtag (p x s) : (setLink p x s).jtag = s.jtag := rfl
@[simp] theorem setLink_prtHeld (p x s) : (setLink p x s).prtHeld = s.prtHeld := rfl
@[simp] theorem setLink_evc (p x s) : (setLink p x s).evc = s.evc := rfl
@[simp] theorem setLink_cages (p x s) : (setLink p x s).cages = s.cages := rfl
@[simp] theorem setLink_fields (p x s) : (setLink p x s).fields = s.fields := rfl
@[simp] theorem setLink_fcmdBusy (p x s) : (setLink p x s).fcmdBusy = s.fcmdBusy := rfl
@[simp] theorem setLink_overTemp (p x s) : (setLink p x s).overTemp = s.overTemp := rfl
@[simp] theorem setLink_warned (p x s) : (setLink p x s).warned = s.warned := rfl
@[simp] theorem setLink_inletHigh (p x s) : (setLink p x s).inletHigh = s.inletHigh := rfl
@[simp] theorem setLink_hot (p x s) : (setLink p x s).hot = s.hot := rfl
@[simp] theorem setLink_over95 (p x s) : (setLink p x s).over95 = s.over95 := rfl
@[simp] theorem setLink_vminHalf (p x s) : (setLink p x s).vminHalf = s.vminHalf := rfl
@[simp] theorem setLink_railLost (p x s) : (setLink p x s).railLost = s.railLost := rfl
@[simp] theorem setLink_hdq (p x s) : (setLink p x s).hdq = s.hdq := rfl
@[simp] theorem setLink_image (p x s) : (setLink p x s).image = s.image := rfl
@[simp] theorem setLink_place (p x s) : (setLink p x s).place = s.place := rfl
@[simp] theorem setLink_geo (p x s) : (setLink p x s).geo = s.geo := rfl
@[simp] theorem setLink_keySeed (p x s) : (setLink p x s).keySeed = s.keySeed := rfl
@[simp] theorem setLink_keyJob (p x s) : (setLink p x s).keyJob = s.keyJob := rfl
@[simp] theorem setLink_priorSus (p x s) : (setLink p x s).priorSus = s.priorSus := rfl
@[simp] theorem setLink_clk (p x s) : (setLink p x s).clk = s.clk := rfl
@[simp] theorem setLink_tiles (p x s) : (setLink p x s).tiles = s.tiles := rfl
@[simp] theorem setLink_offTiles (p x s) : (setLink p x s).offTiles = s.offTiles := rfl
@[simp] theorem setLink_asq (p x s) : (setLink p x s).asq = s.asq := rfl
@[simp] theorem setLink_hbm (p x s) : (setLink p x s).hbm = s.hbm := rfl
@[simp] theorem setLink_poison (p x s) : (setLink p x s).poison = s.poison := rfl
@[simp] theorem setLink_flaws (p x s) : (setLink p x s).flaws = s.flaws := rfl
@[simp] theorem setLink_hbmFailed (p x s) : (setLink p x s).hbmFailed = s.hbmFailed := rfl
@[simp] theorem setLink_dies (p x s) : (setLink p x s).dies = s.dies := rfl
@[simp] theorem setLink_ring (p x s) : (setLink p x s).ring = s.ring := rfl
@[simp] theorem setLink_ledger (p x s) : (setLink p x s).ledger = s.ledger := rfl
@[simp] theorem setLink_iseq (p x s) : (setLink p x s).iseq = s.iseq := rfl
@[simp] theorem setLink_stepItems (p x s) : (setLink p x s).stepItems = s.stepItems := rfl
@[simp] theorem setLink_aheadItems (p x s) : (setLink p x s).aheadItems = s.aheadItems := rfl
@[simp] theorem setLink_stepLost (p x s) : (setLink p x s).stepLost = s.stepLost := rfl
@[simp] theorem setLink_lostFirst (p x s) : (setLink p x s).lostFirst = s.lostFirst := rfl
@[simp] theorem setLink_lostN (p x s) : (setLink p x s).lostN = s.lostN := rfl
@[simp] theorem setLink_state3 (p x s) : (setLink p x s).state3 = s.state3 := rfl
@[simp] theorem setLink_rdc (p x s) : (setLink p x s).rdc = s.rdc := rfl
@[simp] theorem setLink_peers (p x s) : (setLink p x s).peers = s.peers := rfl
@[simp] theorem setLink_stageSt (p x s) : (setLink p x s).stageSt = s.stageSt := rfl
@[simp] theorem setLink_tsynced (p x s) : (setLink p x s).tsynced = s.tsynced := rfl
@[simp] theorem setLink_slew (p x s) : (setLink p x s).slew = s.slew := rfl
@[simp] theorem setLink_out (p x s) : (setLink p x s).out = s.out := rfl
@[simp] theorem setLink_fc (p x s) : (setLink p x s).fc = s.fc := rfl
@[simp] theorem setLink_pending (p x s) : (setLink p x s).pending = s.pending := rfl

/-! Events. -/

theorem onlyEvents_refl (s : State) : OnlyEvents s s := ⟨s.evc, s.regs, s.out, rfl, fun _ _ => rfl⟩

theorem onlyEvents_trans {a b c : State} (h : OnlyEvents a b) (g : OnlyEvents b c) : OnlyEvents a c := by
  obtain ⟨e, r, o, rfl, h⟩ := h
  obtain ⟨e', r', o', rfl, g⟩ := g
  exact ⟨e', r', o', rfl, fun k hk => (g k hk).trans (h k hk)⟩

/-- A write to a register of the event controller's page is an event's. -/
theorem onlyEvents_setReg {o : Nat} (v : W32) {a s : State} (ho : o < 0x1000) (h : OnlyEvents a s) :
    OnlyEvents a (setReg .evc o v s) := by
  refine onlyEvents_trans h ⟨s.evc, _, s.out, rfl, fun k hk => rget_rput_ne v s.regs fun e => hk ?_⟩
  simp only [onEvc, pageBase] at e ⊢
  omega

theorem onlyEvents_evc (e : Evc) {a s : State} (h : OnlyEvents a s) : OnlyEvents a { s with evc := e } :=
  onlyEvents_trans h ⟨e, s.regs, s.out, rfl, fun _ _ => rfl⟩

theorem onlyEvents_emit (m : OutMsg) {a s : State} (h : OnlyEvents a s) : OnlyEvents a (emit m s) :=
  onlyEvents_trans h ⟨s.evc, s.regs, _, rfl, fun _ _ => rfl⟩

theorem onlyEvents_bump {o : Nat} (n : Nat) {a s : State} (ho : o < 0x1000) (h : OnlyEvents a s) :
    OnlyEvents a (bump .evc o s n) := by
  unfold bump
  split
  · exact h
  · exact onlyEvents_setReg _ ho h

/-- Sending, holding or dropping an MSI-X message. -/
theorem onlyEvents_msixSend (n : Nat) {a s : State} (h : OnlyEvents a s) : OnlyEvents a (msixSend n s) := by
  unfold msixSend
  split
  · exact h
  · split
    · exact onlyEvents_setReg _ (by omega) h
    · exact onlyEvents_emit _ h

theorem onlyEvents_vectorFire (n : Nat) {a s : State} (h : OnlyEvents a s) : OnlyEvents a (vectorFire n s) := by
  unfold vectorFire
  dsimp only
  split
  · exact onlyEvents_msixSend n (onlyEvents_bump _ (by omega) (onlyEvents_evc _ h))
  · exact onlyEvents_bump _ (by omega) (onlyEvents_evc _ h)

theorem onlyEvents_ite {c : Prop} [Decidable c] {a s t : State} (h : OnlyEvents a s) (g : OnlyEvents a t) :
    OnlyEvents a (if c then s else t) := by
  split <;> assumption

theorem onlyEvents_vectorCount (n : Nat) {a s : State} (h : OnlyEvents a s) : OnlyEvents a (vectorCount n s) :=
  onlyEvents_ite (onlyEvents_vectorFire n (onlyEvents_evc _ h)) (onlyEvents_evc _ h)

theorem onlyEvents_markFired {n : Nat} (hn : n < 1024) {a s : State} (h : OnlyEvents a s) :
    OnlyEvents a (markFired n s) := by
  unfold markFired
  dsimp only
  split
  · exact onlyEvents_setReg _ (by omega) h
  · exact onlyEvents_evc _ (onlyEvents_setReg _ (by omega) h)

/-- A firing source changes only the event controller and what it sends. -/
theorem onlyEvents_fire {n : Nat} (hn : n < 1024) {a s : State} (h : OnlyEvents a s) : OnlyEvents a (fire n s) := by
  unfold fire
  dsimp only
  split
  · exact onlyEvents_markFired hn h
  · split
    · exact onlyEvents_evc _ (onlyEvents_markFired hn h)
    · exact onlyEvents_vectorCount _ (onlyEvents_markFired hn h)

theorem fld_lt (w hi lo : Nat) : fld w hi lo < 2 ^ (hi - lo + 1) := Nat.mod_lt _ (by positivity)

/-- The event of an error bit. -/
theorem onlyEvents_fireErr (pg : Page) (n : Nat) {a s : State} (h : OnlyEvents a s) : OnlyEvents a (fireErr pg n s) := by
  unfold fireErr
  dsimp only
  split
  · exact onlyEvents_fire (by omega) h
  · have h1 := onlyEvents_setReg (setBit (reg (bump .evc 0x078 s) .evc 0x010) 0 true) (o := 0x010) (by omega)
      (onlyEvents_bump 1 (o := 0x078) (by omega) h)
    split
    · exact h1
    · exact onlyEvents_fire (fld_lt _ 9 0) h1

/-- An error bit changes the page's ERR_STS bit; all else is its event's (00 R21). -/
theorem onlyEvents_setErr (pg : Page) (n : Nat) (s : State) :
    OnlyEvents (setReg pg 0x010 (setBit (reg s pg 0x010) n true) s) (setErr pg n s) := by
  unfold setErr
  exact onlyEvents_ite (onlyEvents_refl _) (onlyEvents_fireErr pg n (onlyEvents_refl _))

/-- A change of the power and run state (18 Table 18.1). -/
theorem onlyEvents_setRun (r : RunSt) (s : State) : OnlyEvents { s with run := r } (setRun r s) := by
  unfold setRun
  split
  · rename_i h
    subst h
    exact onlyEvents_refl _
  · exact onlyEvents_fire (by omega) (onlyEvents_refl _)

/-- A command ends (14 R420). -/
theorem onlyEvents_midDone (cmd code : Nat) (s : State) :
    OnlyEvents (setReg .mid 0x088 (w32 (2 ^ 31 + cmd * 256 + code)) { s with busy := none }) (midDone cmd code s) :=
  onlyEvents_fire (by omega) (onlyEvents_refl _)

/-- What events leave alone, read through the register map. -/
theorem onlyEvents_reg {s t : State} (h : OnlyEvents s t) {pg : Page} {o : Nat} (hk : ¬ onEvc (pageBase pg + o)) :
    reg t pg o = reg s pg o := by
  obtain ⟨e, r, x, rfl, h⟩ := h
  exact h _ hk

/-! Operations that write few fields. -/

theorem bump_shape (pg : Page) (o n : Nat) (s : State) :
    ∃ regs', bump pg o s n = { s with regs := regs' } := by
  unfold bump
  split <;> exact ⟨_, rfl⟩

@[simp] theorem bump_code (pg o n s) : (bump pg o s n).code = s.code := by obtain ⟨_, h⟩ := bump_shape pg o n s; rw [h]
@[simp] theorem bump_silicon (pg o n s) : (bump pg o s n).silicon = s.silicon := by obtain ⟨_, h⟩ := bump_shape pg o n s; rw [h]
@[simp] theorem bump_serial (pg o n s) : (bump pg o s n).serial = s.serial := by obtain ⟨_, h⟩ := bump_shape pg o n s; rw [h]
@[simp] theorem bump_mfg (pg o n s) : (bump pg o s n).mfg = s.mfg := by obtain ⟨_, h⟩ := bump_shape pg o n s; rw [h]
@[simp] theorem bump_run (pg o n s) : (bump pg o s n).run = s.run := by obtain ⟨_, h⟩ := bump_shape pg o n s; rw [h]
@[simp] theorem bump_stage (pg o n s) : (bump pg o s n).stage = s.stage := by obtain ⟨_, h⟩ := bump_shape pg o n s; rw [h]
@[simp] theorem bump_qEnd (pg o n s) : (bump pg o s n).qEnd = s.qEnd := by obtain ⟨_, h⟩ := bump_shape pg o n s; rw [h]
@[simp] theorem bump_testAt (pg o n s) : (bump pg o s n).testAt = s.testAt := by obtain ⟨_, h⟩ := bump_shape pg o n s; rw [h]
@[simp] theorem bump_loading (pg o n s) : (bump pg o s n).loading = s.loading := by obtain ⟨_, h⟩ := bump_shape pg o n s; rw [h]
@[simp] theorem bump_busy (pg o n s) : (bump pg o s n).busy = s.busy := by obtain ⟨_, h⟩ := bump_shape pg o n s; rw [h]
@[simp] theorem bump_noArray (pg o n s) : (bump pg o s n).noArray = s.noArray := by obtain ⟨_, h⟩ := bump_shape pg o n s; rw [h]
@[simp] theorem bump_stuck (pg o n s) : (bump pg o s n).stuck = s.stuck := by obtain ⟨_, h⟩ := bump_shape pg o n s; rw [h]
@[simp] theorem bump_tripLatched (pg o n s) : (bump pg o s n).tripLatched = s.tripLatched := by obtain ⟨_, h⟩ := bump_shape pg o n s; rw [h]
@[simp] theorem bump_tripAt (pg o n s) : (bump pg o s n).tripAt = s.tripAt := by obtain ⟨_, h⟩ := bump_shape pg o n s; rw [h]
@[simp] theorem bump_now (pg o n s) : (bump pg o s n).now = s.now := by obtain ⟨_, h⟩ := bump_shape pg o n s; rw [h]
@[simp] theorem bump_bankA (pg o n s) : (bump pg o s n).bankA = s.bankA := by obtain ⟨_, h⟩ := bump_shape pg o n s; rw [h]
@[simp] theorem bump_bankB (pg o n s) : (bump pg o s n).bankB = s.bankB := by obtain ⟨_, h⟩ := bump_shape pg o n s; rw [h]
@[simp] theorem bump_activeB (pg o n s) : (bump pg o s n).activeB = s.activeB := by obtain ⟨_, h⟩ := bump_shape pg o n s; rw [h]
@[simp] theorem bump_ver (pg o n s) : (bump pg o s n).ver = s.ver := by obtain ⟨_, h⟩ := bump_shape pg o n s; rw [h]
@[simp] theorem bump_stepBank (pg o n s) : (bump pg o s n).stepBank = s.stepBank := by obtain ⟨_, h⟩ := bump_shape pg o n s; rw [h]
@[simp] theorem bump_pendCfg (pg o n s) : (bump pg o s n).pendCfg = s.pendCfg := by obtain ⟨_, h⟩ := bump_shape pg o n s; rw [h]
@[simp] theorem bump_touched (pg o n s) : (bump pg o s n).touched = s.touched := by obtain ⟨_, h⟩ := bump_shape pg o n s; rw [h]
@[simp] theorem bump_rdLatch (pg o n s) : (bump pg o s n).rdLatch = s.rdLatch := by obtain ⟨_, h⟩ := bump_shape pg o n s; rw [h]
@[simp] theorem bump_wrHeld (pg o n s) : (bump pg o s n).wrHeld = s.wrHeld := by obtain ⟨_, h⟩ := bump_shape pg o n s; rw [h]
@[simp] theorem bump_viewLatch (pg o n s) : (bump pg o s n).viewLatch = s.viewLatch := by obtain ⟨_, h⟩ := bump_shape pg o n s; rw [h]
@[simp] theorem bump_srst (pg o n s) : (bump pg o s n).srst = s.srst := by obtain ⟨_, h⟩ := bump_shape pg o n s; rw [h]
@[simp] theorem bump_armed (pg o n s) : (bump pg o s n).armed = s.armed := by obtain ⟨_, h⟩ := bump_shape pg o n s; rw [h]
@[simp] theorem bump_isSealed (pg o n s) : (bump pg o s n).isSealed = s.isSealed := by obtain ⟨_, h⟩ := bump_shape pg o n s; rw [h]
@[simp] theorem bump_level (pg o n s) : (bump pg o s n).level = s.level := by obtain ⟨_, h⟩ := bump_shape pg o n s; rw [h]
@[simp] theorem bump_refusal (pg o n s) : (bump pg o s n).refusal = s.refusal := by obtain ⟨_, h⟩ := bump_shape pg o n s; rw [h]
@[simp] theorem bump_scrub (pg o n s) : (bump pg o s n).scrub = s.scrub := by obtain ⟨_, h⟩ := bump_shape pg o n s; rw [h]
@[simp] theorem bump_scrubFor (pg o n s) : (bump pg o s n).scrubFor = s.scrubFor := by obtain ⟨_, h⟩ := bump_shape pg o n s; rw [h]
@[simp] theorem bump_spdm (pg o n s) : (bump pg o s n).spdm = s.spdm := by obtain ⟨_, h⟩ := bump_shape pg o n s; rw [h]
@[simp] theorem bump_ide (pg o n s) : (bump pg o s n).ide = s.ide := by obtain ⟨_, h⟩ := bump_shape pg o n s; rw [h]
@[simp] theorem bump_hbmKey (pg o n s) : (bump pg o s n).hbmKey = s.hbmKey := by obtain ⟨_, h⟩ := bump_shape pg o n s; rw [h]
@[simp] theorem bump_cipher (pg o n s) : (bump pg o s n).cipher = s.cipher := by obtain ⟨_, h⟩ := bump_shape pg o n s; rw [h]
@[simp] theorem bump_linkKeys (pg o n s) : (bump pg o s n).linkKeys = s.linkKeys := by obtain ⟨_, h⟩ := bump_shape pg o n s; rw [h]
@[simp] theorem bump_sram (pg o n s) : (bump pg o s n).sram = s.sram := by obtain ⟨_, h⟩ := bump_shape pg o n s; rw [h]
@[simp] theorem bump_winOpen (pg o n s) : (bump pg o s n).winOpen = s.winOpen := by obtain ⟨_, h⟩ := bump_shape pg o n s; rw [h]
@[simp] theorem bump_mgmtUp (pg o n s) : (bump pg o s n).mgmtUp = s.mgmtUp := by obtain ⟨_, h⟩ := bump_shape pg o n s; rw [h]
@[simp] theorem bump_mgmtHash (pg o n s) : (bump pg o s n).mgmtHash = s.mgmtHash := by obtain ⟨_, h⟩ := bump_shape pg o n s; rw [h]
@[simp] theorem bump_kick0 (pg o n s) : (bump pg o s n).kick0 = s.kick0 := by obtain ⟨_, h⟩ := bump_shape pg o n s; rw [h]
@[simp] theorem bump_kick1 (pg o n s) : (bump pg o s n).kick1 = s.kick1 := by obtain ⟨_, h⟩ := bump_shape pg o n s; rw [h]
@[simp] theorem bump_env (pg o n s) : (bump pg o s n).env = s.env := by obtain ⟨_, h⟩ := bump_shape pg o n s; rw [h]
@[simp] theorem bump_host (pg o n s) : (bump pg o s n).host = s.host := by obtain ⟨_, h⟩ := bump_shape pg o n s; rw [h]
@[simp] theorem bump_jtag (pg o n s) : (bump pg o s n).jtag = s.jtag := by obtain ⟨_, h⟩ := bump_shape pg o n s; rw [h]
@[simp] theorem bump_prtHeld (pg o n s) : (bump pg o s n).prtHeld = s.prtHeld := by obtain ⟨_, h⟩ := bump_shape pg o n s; rw [h]
@[simp] theorem bump_evc (pg o n s) : (bump pg o s n).evc = s.evc := by obtain ⟨_, h⟩ := bump_shape pg o n s; rw [h]
@[simp] theorem bump_cages (pg o n s) : (bump pg o s n).cages = s.cages := by obtain ⟨_, h⟩ := bump_shape pg o n s; rw [h]
@[simp] theorem bump_fields (pg o n s) : (bump pg o s n).fields = s.fields := by obtain ⟨_, h⟩ := bump_shape pg o n s; rw [h]
@[simp] theorem bump_fcmdBusy (pg o n s) : (bump pg o s n).fcmdBusy = s.fcmdBusy := by obtain ⟨_, h⟩ := bump_shape pg o n s; rw [h]
@[simp] theorem bump_overTemp (pg o n s) : (bump pg o s n).overTemp = s.overTemp := by obtain ⟨_, h⟩ := bump_shape pg o n s; rw [h]
@[simp] theorem bump_warned (pg o n s) : (bump pg o s n).warned = s.warned := by obtain ⟨_, h⟩ := bump_shape pg o n s; rw [h]
@[simp] theorem bump_inletHigh (pg o n s) : (bump pg o s n).inletHigh = s.inletHigh := by obtain ⟨_, h⟩ := bump_shape pg o n s; rw [h]
@[simp] theorem bump_hot (pg o n s) : (bump pg o s n).hot = s.hot := by obtain ⟨_, h⟩ := bump_shape pg o n s; rw [h]
@[simp] theorem bump_over95 (pg o n s) : (bump pg o s n).over95 = s.over95 := by obtain ⟨_, h⟩ := bump_shape pg o n s; rw [h]
@[simp] theorem bump_vminHalf (pg o n s) : (bump pg o s n).vminHalf = s.vminHalf := by obtain ⟨_, h⟩ := bump_shape pg o n s; rw [h]
@[simp] theorem bump_railLost (pg o n s) : (bump pg o s n).railLost = s.railLost := by obtain ⟨_, h⟩ := bump_shape pg o n s; rw [h]
@[simp] theorem bump_hdq (pg o n s) : (bump pg o s n).hdq = s.hdq := by obtain ⟨_, h⟩ := bump_shape pg o n s; rw [h]
@[simp] theorem bump_image (pg o n s) : (bump pg o s n).image = s.image := by obtain ⟨_, h⟩ := bump_shape pg o n s; rw [h]
@[simp] theorem bump_place (pg o n s) : (bump pg o s n).place = s.place := by obtain ⟨_, h⟩ := bump_shape pg o n s; rw [h]
@[simp] theorem bump_geo (pg o n s) : (bump pg o s n).geo = s.geo := by obtain ⟨_, h⟩ := bump_shape pg o n s; rw [h]
@[simp] theorem bump_keySeed (pg o n s) : (bump pg o s n).keySeed = s.keySeed := by obtain ⟨_, h⟩ := bump_shape pg o n s; rw [h]
@[simp] theorem bump_keyJob (pg o n s) : (bump pg o s n).keyJob = s.keyJob := by obtain ⟨_, h⟩ := bump_shape pg o n s; rw [h]
@[simp] theorem bump_priorSus (pg o n s) : (bump pg o s n).priorSus = s.priorSus := by obtain ⟨_, h⟩ := bump_shape pg o n s; rw [h]
@[simp] theorem bump_clk (pg o n s) : (bump pg o s n).clk = s.clk := by obtain ⟨_, h⟩ := bump_shape pg o n s; rw [h]
@[simp] theorem bump_tiles (pg o n s) : (bump pg o s n).tiles = s.tiles := by obtain ⟨_, h⟩ := bump_shape pg o n s; rw [h]
@[simp] theorem bump_offTiles (pg o n s) : (bump pg o s n).offTiles = s.offTiles := by obtain ⟨_, h⟩ := bump_shape pg o n s; rw [h]
@[simp] theorem bump_asq (pg o n s) : (bump pg o s n).asq = s.asq := by obtain ⟨_, h⟩ := bump_shape pg o n s; rw [h]
@[simp] theorem bump_hbm (pg o n s) : (bump pg o s n).hbm = s.hbm := by obtain ⟨_, h⟩ := bump_shape pg o n s; rw [h]
@[simp] theorem bump_poison (pg o n s) : (bump pg o s n).poison = s.poison := by obtain ⟨_, h⟩ := bump_shape pg o n s; rw [h]
@[simp] theorem bump_flaws (pg o n s) : (bump pg o s n).flaws = s.flaws := by obtain ⟨_, h⟩ := bump_shape pg o n s; rw [h]
@[simp] theorem bump_hbmFailed (pg o n s) : (bump pg o s n).hbmFailed = s.hbmFailed := by obtain ⟨_, h⟩ := bump_shape pg o n s; rw [h]
@[simp] theorem bump_dies (pg o n s) : (bump pg o s n).dies = s.dies := by obtain ⟨_, h⟩ := bump_shape pg o n s; rw [h]
@[simp] theorem bump_ring (pg o n s) : (bump pg o s n).ring = s.ring := by obtain ⟨_, h⟩ := bump_shape pg o n s; rw [h]
@[simp] theorem bump_ledger (pg o n s) : (bump pg o s n).ledger = s.ledger := by obtain ⟨_, h⟩ := bump_shape pg o n s; rw [h]
@[simp] theorem bump_iseq (pg o n s) : (bump pg o s n).iseq = s.iseq := by obtain ⟨_, h⟩ := bump_shape pg o n s; rw [h]
@[simp] theorem bump_stepItems (pg o n s) : (bump pg o s n).stepItems = s.stepItems := by obtain ⟨_, h⟩ := bump_shape pg o n s; rw [h]
@[simp] theorem bump_aheadItems (pg o n s) : (bump pg o s n).aheadItems = s.aheadItems := by obtain ⟨_, h⟩ := bump_shape pg o n s; rw [h]
@[simp] theorem bump_stepLost (pg o n s) : (bump pg o s n).stepLost = s.stepLost := by obtain ⟨_, h⟩ := bump_shape pg o n s; rw [h]
@[simp] theorem bump_lostFirst (pg o n s) : (bump pg o s n).lostFirst = s.lostFirst := by obtain ⟨_, h⟩ := bump_shape pg o n s; rw [h]
@[simp] theorem bump_lostN (pg o n s) : (bump pg o s n).lostN = s.lostN := by obtain ⟨_, h⟩ := bump_shape pg o n s; rw [h]
@[simp] theorem bump_state3 (pg o n s) : (bump pg o s n).state3 = s.state3 := by obtain ⟨_, h⟩ := bump_shape pg o n s; rw [h]
@[simp] theorem bump_rdc (pg o n s) : (bump pg o s n).rdc = s.rdc := by obtain ⟨_, h⟩ := bump_shape pg o n s; rw [h]
@[simp] theorem bump_links (pg o n s) : (bump pg o s n).links = s.links := by obtain ⟨_, h⟩ := bump_shape pg o n s; rw [h]
@[simp] theorem bump_peers (pg o n s) : (bump pg o s n).peers = s.peers := by obtain ⟨_, h⟩ := bump_shape pg o n s; rw [h]
@[simp] theorem bump_stageSt (pg o n s) : (bump pg o s n).stageSt = s.stageSt := by obtain ⟨_, h⟩ := bump_shape pg o n s; rw [h]
@[simp] theorem bump_tsynced (pg o n s) : (bump pg o s n).tsynced = s.tsynced := by obtain ⟨_, h⟩ := bump_shape pg o n s; rw [h]
@[simp] theorem bump_slew (pg o n s) : (bump pg o s n).slew = s.slew := by obtain ⟨_, h⟩ := bump_shape pg o n s; rw [h]
@[simp] theorem bump_out (pg o n s) : (bump pg o s n).out = s.out := by obtain ⟨_, h⟩ := bump_shape pg o n s; rw [h]
@[simp] theorem bump_fc (pg o n s) : (bump pg o s n).fc = s.fc := by obtain ⟨_, h⟩ := bump_shape pg o n s; rw [h]
@[simp] theorem bump_pending (pg o n s) : (bump pg o s n).pending = s.pending := by obtain ⟨_, h⟩ := bump_shape pg o n s; rw [h]

theorem msixSend_shape (n : Nat) (s : State) :
    ∃ regs' out', msixSend n s = { s with regs := regs', out := out' } := by
  unfold msixSend
  split
  · exact ⟨_, _, rfl⟩
  · split <;> exact ⟨_, _, rfl⟩


theorem markFired_shape (n : Nat) (s : State) :
    ∃ evc' regs', markFired n s = { s with evc := evc', regs := regs' } := by
  unfold markFired
  dsimp only
  split <;> exact ⟨_, _, rfl⟩


theorem vectorFire_shape (n : Nat) (s : State) :
    ∃ evc' regs' out', vectorFire n s = { s with evc := evc', regs := regs', out := out' } := by
  obtain ⟨_, _, _, h, _⟩ := onlyEvents_vectorFire n (onlyEvents_refl s)
  exact ⟨_, _, _, h⟩


theorem vectorCount_shape (n : Nat) (s : State) :
    ∃ evc' regs' out', vectorCount n s = { s with evc := evc', regs := regs', out := out' } := by
  obtain ⟨_, _, _, h, _⟩ := onlyEvents_vectorCount n (onlyEvents_refl s)
  exact ⟨_, _, _, h⟩


theorem fire_shape (n : Nat) (s : State) :
    ∃ evc' regs' out', fire n s = { s with evc := evc', regs := regs', out := out' } := by
  unfold fire
  dsimp only
  obtain ⟨_, _, h⟩ := markFired_shape n s
  rw [h]
  split
  · exact ⟨_, _, _, rfl⟩
  · split
    · exact ⟨_, _, _, rfl⟩
    · obtain ⟨_, _, _, h⟩ := vectorCount_shape _ _
      rw [h]
      exact ⟨_, _, _, rfl⟩

@[simp] theorem fire_code (n s) : (fire n s).code = s.code := by obtain ⟨_, _, _, h⟩ := fire_shape n s; rw [h]
@[simp] theorem fire_silicon (n s) : (fire n s).silicon = s.silicon := by obtain ⟨_, _, _, h⟩ := fire_shape n s; rw [h]
@[simp] theorem fire_serial (n s) : (fire n s).serial = s.serial := by obtain ⟨_, _, _, h⟩ := fire_shape n s; rw [h]
@[simp] theorem fire_mfg (n s) : (fire n s).mfg = s.mfg := by obtain ⟨_, _, _, h⟩ := fire_shape n s; rw [h]
@[simp] theorem fire_run (n s) : (fire n s).run = s.run := by obtain ⟨_, _, _, h⟩ := fire_shape n s; rw [h]
@[simp] theorem fire_stage (n s) : (fire n s).stage = s.stage := by obtain ⟨_, _, _, h⟩ := fire_shape n s; rw [h]
@[simp] theorem fire_qEnd (n s) : (fire n s).qEnd = s.qEnd := by obtain ⟨_, _, _, h⟩ := fire_shape n s; rw [h]
@[simp] theorem fire_testAt (n s) : (fire n s).testAt = s.testAt := by obtain ⟨_, _, _, h⟩ := fire_shape n s; rw [h]
@[simp] theorem fire_loading (n s) : (fire n s).loading = s.loading := by obtain ⟨_, _, _, h⟩ := fire_shape n s; rw [h]
@[simp] theorem fire_busy (n s) : (fire n s).busy = s.busy := by obtain ⟨_, _, _, h⟩ := fire_shape n s; rw [h]
@[simp] theorem fire_noArray (n s) : (fire n s).noArray = s.noArray := by obtain ⟨_, _, _, h⟩ := fire_shape n s; rw [h]
@[simp] theorem fire_stuck (n s) : (fire n s).stuck = s.stuck := by obtain ⟨_, _, _, h⟩ := fire_shape n s; rw [h]
@[simp] theorem fire_tripLatched (n s) : (fire n s).tripLatched = s.tripLatched := by obtain ⟨_, _, _, h⟩ := fire_shape n s; rw [h]
@[simp] theorem fire_tripAt (n s) : (fire n s).tripAt = s.tripAt := by obtain ⟨_, _, _, h⟩ := fire_shape n s; rw [h]
@[simp] theorem fire_now (n s) : (fire n s).now = s.now := by obtain ⟨_, _, _, h⟩ := fire_shape n s; rw [h]
@[simp] theorem fire_bankA (n s) : (fire n s).bankA = s.bankA := by obtain ⟨_, _, _, h⟩ := fire_shape n s; rw [h]
@[simp] theorem fire_bankB (n s) : (fire n s).bankB = s.bankB := by obtain ⟨_, _, _, h⟩ := fire_shape n s; rw [h]
@[simp] theorem fire_activeB (n s) : (fire n s).activeB = s.activeB := by obtain ⟨_, _, _, h⟩ := fire_shape n s; rw [h]
@[simp] theorem fire_ver (n s) : (fire n s).ver = s.ver := by obtain ⟨_, _, _, h⟩ := fire_shape n s; rw [h]
@[simp] theorem fire_stepBank (n s) : (fire n s).stepBank = s.stepBank := by obtain ⟨_, _, _, h⟩ := fire_shape n s; rw [h]
@[simp] theorem fire_pendCfg (n s) : (fire n s).pendCfg = s.pendCfg := by obtain ⟨_, _, _, h⟩ := fire_shape n s; rw [h]
@[simp] theorem fire_touched (n s) : (fire n s).touched = s.touched := by obtain ⟨_, _, _, h⟩ := fire_shape n s; rw [h]
@[simp] theorem fire_rdLatch (n s) : (fire n s).rdLatch = s.rdLatch := by obtain ⟨_, _, _, h⟩ := fire_shape n s; rw [h]
@[simp] theorem fire_wrHeld (n s) : (fire n s).wrHeld = s.wrHeld := by obtain ⟨_, _, _, h⟩ := fire_shape n s; rw [h]
@[simp] theorem fire_viewLatch (n s) : (fire n s).viewLatch = s.viewLatch := by obtain ⟨_, _, _, h⟩ := fire_shape n s; rw [h]
@[simp] theorem fire_srst (n s) : (fire n s).srst = s.srst := by obtain ⟨_, _, _, h⟩ := fire_shape n s; rw [h]
@[simp] theorem fire_armed (n s) : (fire n s).armed = s.armed := by obtain ⟨_, _, _, h⟩ := fire_shape n s; rw [h]
@[simp] theorem fire_isSealed (n s) : (fire n s).isSealed = s.isSealed := by obtain ⟨_, _, _, h⟩ := fire_shape n s; rw [h]
@[simp] theorem fire_level (n s) : (fire n s).level = s.level := by obtain ⟨_, _, _, h⟩ := fire_shape n s; rw [h]
@[simp] theorem fire_refusal (n s) : (fire n s).refusal = s.refusal := by obtain ⟨_, _, _, h⟩ := fire_shape n s; rw [h]
@[simp] theorem fire_scrub (n s) : (fire n s).scrub = s.scrub := by obtain ⟨_, _, _, h⟩ := fire_shape n s; rw [h]
@[simp] theorem fire_scrubFor (n s) : (fire n s).scrubFor = s.scrubFor := by obtain ⟨_, _, _, h⟩ := fire_shape n s; rw [h]
@[simp] theorem fire_spdm (n s) : (fire n s).spdm = s.spdm := by obtain ⟨_, _, _, h⟩ := fire_shape n s; rw [h]
@[simp] theorem fire_ide (n s) : (fire n s).ide = s.ide := by obtain ⟨_, _, _, h⟩ := fire_shape n s; rw [h]
@[simp] theorem fire_hbmKey (n s) : (fire n s).hbmKey = s.hbmKey := by obtain ⟨_, _, _, h⟩ := fire_shape n s; rw [h]
@[simp] theorem fire_cipher (n s) : (fire n s).cipher = s.cipher := by obtain ⟨_, _, _, h⟩ := fire_shape n s; rw [h]
@[simp] theorem fire_linkKeys (n s) : (fire n s).linkKeys = s.linkKeys := by obtain ⟨_, _, _, h⟩ := fire_shape n s; rw [h]
@[simp] theorem fire_sram (n s) : (fire n s).sram = s.sram := by obtain ⟨_, _, _, h⟩ := fire_shape n s; rw [h]
@[simp] theorem fire_winOpen (n s) : (fire n s).winOpen = s.winOpen := by obtain ⟨_, _, _, h⟩ := fire_shape n s; rw [h]
@[simp] theorem fire_mgmtUp (n s) : (fire n s).mgmtUp = s.mgmtUp := by obtain ⟨_, _, _, h⟩ := fire_shape n s; rw [h]
@[simp] theorem fire_mgmtHash (n s) : (fire n s).mgmtHash = s.mgmtHash := by obtain ⟨_, _, _, h⟩ := fire_shape n s; rw [h]
@[simp] theorem fire_kick0 (n s) : (fire n s).kick0 = s.kick0 := by obtain ⟨_, _, _, h⟩ := fire_shape n s; rw [h]
@[simp] theorem fire_kick1 (n s) : (fire n s).kick1 = s.kick1 := by obtain ⟨_, _, _, h⟩ := fire_shape n s; rw [h]
@[simp] theorem fire_env (n s) : (fire n s).env = s.env := by obtain ⟨_, _, _, h⟩ := fire_shape n s; rw [h]
@[simp] theorem fire_host (n s) : (fire n s).host = s.host := by obtain ⟨_, _, _, h⟩ := fire_shape n s; rw [h]
@[simp] theorem fire_jtag (n s) : (fire n s).jtag = s.jtag := by obtain ⟨_, _, _, h⟩ := fire_shape n s; rw [h]
@[simp] theorem fire_prtHeld (n s) : (fire n s).prtHeld = s.prtHeld := by obtain ⟨_, _, _, h⟩ := fire_shape n s; rw [h]
@[simp] theorem fire_cages (n s) : (fire n s).cages = s.cages := by obtain ⟨_, _, _, h⟩ := fire_shape n s; rw [h]
@[simp] theorem fire_fields (n s) : (fire n s).fields = s.fields := by obtain ⟨_, _, _, h⟩ := fire_shape n s; rw [h]
@[simp] theorem fire_fcmdBusy (n s) : (fire n s).fcmdBusy = s.fcmdBusy := by obtain ⟨_, _, _, h⟩ := fire_shape n s; rw [h]
@[simp] theorem fire_overTemp (n s) : (fire n s).overTemp = s.overTemp := by obtain ⟨_, _, _, h⟩ := fire_shape n s; rw [h]
@[simp] theorem fire_warned (n s) : (fire n s).warned = s.warned := by obtain ⟨_, _, _, h⟩ := fire_shape n s; rw [h]
@[simp] theorem fire_inletHigh (n s) : (fire n s).inletHigh = s.inletHigh := by obtain ⟨_, _, _, h⟩ := fire_shape n s; rw [h]
@[simp] theorem fire_hot (n s) : (fire n s).hot = s.hot := by obtain ⟨_, _, _, h⟩ := fire_shape n s; rw [h]
@[simp] theorem fire_over95 (n s) : (fire n s).over95 = s.over95 := by obtain ⟨_, _, _, h⟩ := fire_shape n s; rw [h]
@[simp] theorem fire_vminHalf (n s) : (fire n s).vminHalf = s.vminHalf := by obtain ⟨_, _, _, h⟩ := fire_shape n s; rw [h]
@[simp] theorem fire_railLost (n s) : (fire n s).railLost = s.railLost := by obtain ⟨_, _, _, h⟩ := fire_shape n s; rw [h]
@[simp] theorem fire_hdq (n s) : (fire n s).hdq = s.hdq := by obtain ⟨_, _, _, h⟩ := fire_shape n s; rw [h]
@[simp] theorem fire_image (n s) : (fire n s).image = s.image := by obtain ⟨_, _, _, h⟩ := fire_shape n s; rw [h]
@[simp] theorem fire_place (n s) : (fire n s).place = s.place := by obtain ⟨_, _, _, h⟩ := fire_shape n s; rw [h]
@[simp] theorem fire_geo (n s) : (fire n s).geo = s.geo := by obtain ⟨_, _, _, h⟩ := fire_shape n s; rw [h]
@[simp] theorem fire_keySeed (n s) : (fire n s).keySeed = s.keySeed := by obtain ⟨_, _, _, h⟩ := fire_shape n s; rw [h]
@[simp] theorem fire_keyJob (n s) : (fire n s).keyJob = s.keyJob := by obtain ⟨_, _, _, h⟩ := fire_shape n s; rw [h]
@[simp] theorem fire_priorSus (n s) : (fire n s).priorSus = s.priorSus := by obtain ⟨_, _, _, h⟩ := fire_shape n s; rw [h]
@[simp] theorem fire_clk (n s) : (fire n s).clk = s.clk := by obtain ⟨_, _, _, h⟩ := fire_shape n s; rw [h]
@[simp] theorem fire_tiles (n s) : (fire n s).tiles = s.tiles := by obtain ⟨_, _, _, h⟩ := fire_shape n s; rw [h]
@[simp] theorem fire_offTiles (n s) : (fire n s).offTiles = s.offTiles := by obtain ⟨_, _, _, h⟩ := fire_shape n s; rw [h]
@[simp] theorem fire_asq (n s) : (fire n s).asq = s.asq := by obtain ⟨_, _, _, h⟩ := fire_shape n s; rw [h]
@[simp] theorem fire_hbm (n s) : (fire n s).hbm = s.hbm := by obtain ⟨_, _, _, h⟩ := fire_shape n s; rw [h]
@[simp] theorem fire_poison (n s) : (fire n s).poison = s.poison := by obtain ⟨_, _, _, h⟩ := fire_shape n s; rw [h]
@[simp] theorem fire_flaws (n s) : (fire n s).flaws = s.flaws := by obtain ⟨_, _, _, h⟩ := fire_shape n s; rw [h]
@[simp] theorem fire_hbmFailed (n s) : (fire n s).hbmFailed = s.hbmFailed := by obtain ⟨_, _, _, h⟩ := fire_shape n s; rw [h]
@[simp] theorem fire_dies (n s) : (fire n s).dies = s.dies := by obtain ⟨_, _, _, h⟩ := fire_shape n s; rw [h]
@[simp] theorem fire_ring (n s) : (fire n s).ring = s.ring := by obtain ⟨_, _, _, h⟩ := fire_shape n s; rw [h]
@[simp] theorem fire_ledger (n s) : (fire n s).ledger = s.ledger := by obtain ⟨_, _, _, h⟩ := fire_shape n s; rw [h]
@[simp] theorem fire_iseq (n s) : (fire n s).iseq = s.iseq := by obtain ⟨_, _, _, h⟩ := fire_shape n s; rw [h]
@[simp] theorem fire_stepItems (n s) : (fire n s).stepItems = s.stepItems := by obtain ⟨_, _, _, h⟩ := fire_shape n s; rw [h]
@[simp] theorem fire_aheadItems (n s) : (fire n s).aheadItems = s.aheadItems := by obtain ⟨_, _, _, h⟩ := fire_shape n s; rw [h]
@[simp] theorem fire_stepLost (n s) : (fire n s).stepLost = s.stepLost := by obtain ⟨_, _, _, h⟩ := fire_shape n s; rw [h]
@[simp] theorem fire_lostFirst (n s) : (fire n s).lostFirst = s.lostFirst := by obtain ⟨_, _, _, h⟩ := fire_shape n s; rw [h]
@[simp] theorem fire_lostN (n s) : (fire n s).lostN = s.lostN := by obtain ⟨_, _, _, h⟩ := fire_shape n s; rw [h]
@[simp] theorem fire_state3 (n s) : (fire n s).state3 = s.state3 := by obtain ⟨_, _, _, h⟩ := fire_shape n s; rw [h]
@[simp] theorem fire_rdc (n s) : (fire n s).rdc = s.rdc := by obtain ⟨_, _, _, h⟩ := fire_shape n s; rw [h]
@[simp] theorem fire_links (n s) : (fire n s).links = s.links := by obtain ⟨_, _, _, h⟩ := fire_shape n s; rw [h]
@[simp] theorem fire_peers (n s) : (fire n s).peers = s.peers := by obtain ⟨_, _, _, h⟩ := fire_shape n s; rw [h]
@[simp] theorem fire_stageSt (n s) : (fire n s).stageSt = s.stageSt := by obtain ⟨_, _, _, h⟩ := fire_shape n s; rw [h]
@[simp] theorem fire_tsynced (n s) : (fire n s).tsynced = s.tsynced := by obtain ⟨_, _, _, h⟩ := fire_shape n s; rw [h]
@[simp] theorem fire_slew (n s) : (fire n s).slew = s.slew := by obtain ⟨_, _, _, h⟩ := fire_shape n s; rw [h]
@[simp] theorem fire_fc (n s) : (fire n s).fc = s.fc := by obtain ⟨_, _, _, h⟩ := fire_shape n s; rw [h]
@[simp] theorem fire_pending (n s) : (fire n s).pending = s.pending := by obtain ⟨_, _, _, h⟩ := fire_shape n s; rw [h]

theorem fireErr_shape (pg : Page) (n : Nat) (s : State) :
    ∃ evc' regs' out', fireErr pg n s = { s with evc := evc', regs := regs', out := out' } := by
  obtain ⟨_, _, _, h, _⟩ := onlyEvents_fireErr pg n (onlyEvents_refl s)
  exact ⟨_, _, _, h⟩


theorem setErr_shape (pg : Page) (n : Nat) (s : State) :
    ∃ evc' regs' out', setErr pg n s = { s with evc := evc', regs := regs', out := out' } := by
  obtain ⟨_, _, _, h, _⟩ := onlyEvents_setErr pg n s
  exact ⟨_, _, _, h⟩

@[simp] theorem setErr_code (pg n s) : (setErr pg n s).code = s.code := by obtain ⟨_, _, _, h⟩ := setErr_shape pg n s; rw [h]
@[simp] theorem setErr_silicon (pg n s) : (setErr pg n s).silicon = s.silicon := by obtain ⟨_, _, _, h⟩ := setErr_shape pg n s; rw [h]
@[simp] theorem setErr_serial (pg n s) : (setErr pg n s).serial = s.serial := by obtain ⟨_, _, _, h⟩ := setErr_shape pg n s; rw [h]
@[simp] theorem setErr_mfg (pg n s) : (setErr pg n s).mfg = s.mfg := by obtain ⟨_, _, _, h⟩ := setErr_shape pg n s; rw [h]
@[simp] theorem setErr_run (pg n s) : (setErr pg n s).run = s.run := by obtain ⟨_, _, _, h⟩ := setErr_shape pg n s; rw [h]
@[simp] theorem setErr_stage (pg n s) : (setErr pg n s).stage = s.stage := by obtain ⟨_, _, _, h⟩ := setErr_shape pg n s; rw [h]
@[simp] theorem setErr_qEnd (pg n s) : (setErr pg n s).qEnd = s.qEnd := by obtain ⟨_, _, _, h⟩ := setErr_shape pg n s; rw [h]
@[simp] theorem setErr_testAt (pg n s) : (setErr pg n s).testAt = s.testAt := by obtain ⟨_, _, _, h⟩ := setErr_shape pg n s; rw [h]
@[simp] theorem setErr_loading (pg n s) : (setErr pg n s).loading = s.loading := by obtain ⟨_, _, _, h⟩ := setErr_shape pg n s; rw [h]
@[simp] theorem setErr_busy (pg n s) : (setErr pg n s).busy = s.busy := by obtain ⟨_, _, _, h⟩ := setErr_shape pg n s; rw [h]
@[simp] theorem setErr_noArray (pg n s) : (setErr pg n s).noArray = s.noArray := by obtain ⟨_, _, _, h⟩ := setErr_shape pg n s; rw [h]
@[simp] theorem setErr_stuck (pg n s) : (setErr pg n s).stuck = s.stuck := by obtain ⟨_, _, _, h⟩ := setErr_shape pg n s; rw [h]
@[simp] theorem setErr_tripLatched (pg n s) : (setErr pg n s).tripLatched = s.tripLatched := by obtain ⟨_, _, _, h⟩ := setErr_shape pg n s; rw [h]
@[simp] theorem setErr_tripAt (pg n s) : (setErr pg n s).tripAt = s.tripAt := by obtain ⟨_, _, _, h⟩ := setErr_shape pg n s; rw [h]
@[simp] theorem setErr_now (pg n s) : (setErr pg n s).now = s.now := by obtain ⟨_, _, _, h⟩ := setErr_shape pg n s; rw [h]
@[simp] theorem setErr_bankA (pg n s) : (setErr pg n s).bankA = s.bankA := by obtain ⟨_, _, _, h⟩ := setErr_shape pg n s; rw [h]
@[simp] theorem setErr_bankB (pg n s) : (setErr pg n s).bankB = s.bankB := by obtain ⟨_, _, _, h⟩ := setErr_shape pg n s; rw [h]
@[simp] theorem setErr_activeB (pg n s) : (setErr pg n s).activeB = s.activeB := by obtain ⟨_, _, _, h⟩ := setErr_shape pg n s; rw [h]
@[simp] theorem setErr_ver (pg n s) : (setErr pg n s).ver = s.ver := by obtain ⟨_, _, _, h⟩ := setErr_shape pg n s; rw [h]
@[simp] theorem setErr_stepBank (pg n s) : (setErr pg n s).stepBank = s.stepBank := by obtain ⟨_, _, _, h⟩ := setErr_shape pg n s; rw [h]
@[simp] theorem setErr_pendCfg (pg n s) : (setErr pg n s).pendCfg = s.pendCfg := by obtain ⟨_, _, _, h⟩ := setErr_shape pg n s; rw [h]
@[simp] theorem setErr_touched (pg n s) : (setErr pg n s).touched = s.touched := by obtain ⟨_, _, _, h⟩ := setErr_shape pg n s; rw [h]
@[simp] theorem setErr_rdLatch (pg n s) : (setErr pg n s).rdLatch = s.rdLatch := by obtain ⟨_, _, _, h⟩ := setErr_shape pg n s; rw [h]
@[simp] theorem setErr_wrHeld (pg n s) : (setErr pg n s).wrHeld = s.wrHeld := by obtain ⟨_, _, _, h⟩ := setErr_shape pg n s; rw [h]
@[simp] theorem setErr_viewLatch (pg n s) : (setErr pg n s).viewLatch = s.viewLatch := by obtain ⟨_, _, _, h⟩ := setErr_shape pg n s; rw [h]
@[simp] theorem setErr_srst (pg n s) : (setErr pg n s).srst = s.srst := by obtain ⟨_, _, _, h⟩ := setErr_shape pg n s; rw [h]
@[simp] theorem setErr_armed (pg n s) : (setErr pg n s).armed = s.armed := by obtain ⟨_, _, _, h⟩ := setErr_shape pg n s; rw [h]
@[simp] theorem setErr_isSealed (pg n s) : (setErr pg n s).isSealed = s.isSealed := by obtain ⟨_, _, _, h⟩ := setErr_shape pg n s; rw [h]
@[simp] theorem setErr_level (pg n s) : (setErr pg n s).level = s.level := by obtain ⟨_, _, _, h⟩ := setErr_shape pg n s; rw [h]
@[simp] theorem setErr_refusal (pg n s) : (setErr pg n s).refusal = s.refusal := by obtain ⟨_, _, _, h⟩ := setErr_shape pg n s; rw [h]
@[simp] theorem setErr_scrub (pg n s) : (setErr pg n s).scrub = s.scrub := by obtain ⟨_, _, _, h⟩ := setErr_shape pg n s; rw [h]
@[simp] theorem setErr_scrubFor (pg n s) : (setErr pg n s).scrubFor = s.scrubFor := by obtain ⟨_, _, _, h⟩ := setErr_shape pg n s; rw [h]
@[simp] theorem setErr_spdm (pg n s) : (setErr pg n s).spdm = s.spdm := by obtain ⟨_, _, _, h⟩ := setErr_shape pg n s; rw [h]
@[simp] theorem setErr_ide (pg n s) : (setErr pg n s).ide = s.ide := by obtain ⟨_, _, _, h⟩ := setErr_shape pg n s; rw [h]
@[simp] theorem setErr_hbmKey (pg n s) : (setErr pg n s).hbmKey = s.hbmKey := by obtain ⟨_, _, _, h⟩ := setErr_shape pg n s; rw [h]
@[simp] theorem setErr_cipher (pg n s) : (setErr pg n s).cipher = s.cipher := by obtain ⟨_, _, _, h⟩ := setErr_shape pg n s; rw [h]
@[simp] theorem setErr_linkKeys (pg n s) : (setErr pg n s).linkKeys = s.linkKeys := by obtain ⟨_, _, _, h⟩ := setErr_shape pg n s; rw [h]
@[simp] theorem setErr_sram (pg n s) : (setErr pg n s).sram = s.sram := by obtain ⟨_, _, _, h⟩ := setErr_shape pg n s; rw [h]
@[simp] theorem setErr_winOpen (pg n s) : (setErr pg n s).winOpen = s.winOpen := by obtain ⟨_, _, _, h⟩ := setErr_shape pg n s; rw [h]
@[simp] theorem setErr_mgmtUp (pg n s) : (setErr pg n s).mgmtUp = s.mgmtUp := by obtain ⟨_, _, _, h⟩ := setErr_shape pg n s; rw [h]
@[simp] theorem setErr_mgmtHash (pg n s) : (setErr pg n s).mgmtHash = s.mgmtHash := by obtain ⟨_, _, _, h⟩ := setErr_shape pg n s; rw [h]
@[simp] theorem setErr_kick0 (pg n s) : (setErr pg n s).kick0 = s.kick0 := by obtain ⟨_, _, _, h⟩ := setErr_shape pg n s; rw [h]
@[simp] theorem setErr_kick1 (pg n s) : (setErr pg n s).kick1 = s.kick1 := by obtain ⟨_, _, _, h⟩ := setErr_shape pg n s; rw [h]
@[simp] theorem setErr_env (pg n s) : (setErr pg n s).env = s.env := by obtain ⟨_, _, _, h⟩ := setErr_shape pg n s; rw [h]
@[simp] theorem setErr_host (pg n s) : (setErr pg n s).host = s.host := by obtain ⟨_, _, _, h⟩ := setErr_shape pg n s; rw [h]
@[simp] theorem setErr_jtag (pg n s) : (setErr pg n s).jtag = s.jtag := by obtain ⟨_, _, _, h⟩ := setErr_shape pg n s; rw [h]
@[simp] theorem setErr_prtHeld (pg n s) : (setErr pg n s).prtHeld = s.prtHeld := by obtain ⟨_, _, _, h⟩ := setErr_shape pg n s; rw [h]
@[simp] theorem setErr_cages (pg n s) : (setErr pg n s).cages = s.cages := by obtain ⟨_, _, _, h⟩ := setErr_shape pg n s; rw [h]
@[simp] theorem setErr_fields (pg n s) : (setErr pg n s).fields = s.fields := by obtain ⟨_, _, _, h⟩ := setErr_shape pg n s; rw [h]
@[simp] theorem setErr_fcmdBusy (pg n s) : (setErr pg n s).fcmdBusy = s.fcmdBusy := by obtain ⟨_, _, _, h⟩ := setErr_shape pg n s; rw [h]
@[simp] theorem setErr_overTemp (pg n s) : (setErr pg n s).overTemp = s.overTemp := by obtain ⟨_, _, _, h⟩ := setErr_shape pg n s; rw [h]
@[simp] theorem setErr_warned (pg n s) : (setErr pg n s).warned = s.warned := by obtain ⟨_, _, _, h⟩ := setErr_shape pg n s; rw [h]
@[simp] theorem setErr_inletHigh (pg n s) : (setErr pg n s).inletHigh = s.inletHigh := by obtain ⟨_, _, _, h⟩ := setErr_shape pg n s; rw [h]
@[simp] theorem setErr_hot (pg n s) : (setErr pg n s).hot = s.hot := by obtain ⟨_, _, _, h⟩ := setErr_shape pg n s; rw [h]
@[simp] theorem setErr_over95 (pg n s) : (setErr pg n s).over95 = s.over95 := by obtain ⟨_, _, _, h⟩ := setErr_shape pg n s; rw [h]
@[simp] theorem setErr_vminHalf (pg n s) : (setErr pg n s).vminHalf = s.vminHalf := by obtain ⟨_, _, _, h⟩ := setErr_shape pg n s; rw [h]
@[simp] theorem setErr_railLost (pg n s) : (setErr pg n s).railLost = s.railLost := by obtain ⟨_, _, _, h⟩ := setErr_shape pg n s; rw [h]
@[simp] theorem setErr_hdq (pg n s) : (setErr pg n s).hdq = s.hdq := by obtain ⟨_, _, _, h⟩ := setErr_shape pg n s; rw [h]
@[simp] theorem setErr_image (pg n s) : (setErr pg n s).image = s.image := by obtain ⟨_, _, _, h⟩ := setErr_shape pg n s; rw [h]
@[simp] theorem setErr_place (pg n s) : (setErr pg n s).place = s.place := by obtain ⟨_, _, _, h⟩ := setErr_shape pg n s; rw [h]
@[simp] theorem setErr_geo (pg n s) : (setErr pg n s).geo = s.geo := by obtain ⟨_, _, _, h⟩ := setErr_shape pg n s; rw [h]
@[simp] theorem setErr_keySeed (pg n s) : (setErr pg n s).keySeed = s.keySeed := by obtain ⟨_, _, _, h⟩ := setErr_shape pg n s; rw [h]
@[simp] theorem setErr_keyJob (pg n s) : (setErr pg n s).keyJob = s.keyJob := by obtain ⟨_, _, _, h⟩ := setErr_shape pg n s; rw [h]
@[simp] theorem setErr_priorSus (pg n s) : (setErr pg n s).priorSus = s.priorSus := by obtain ⟨_, _, _, h⟩ := setErr_shape pg n s; rw [h]
@[simp] theorem setErr_clk (pg n s) : (setErr pg n s).clk = s.clk := by obtain ⟨_, _, _, h⟩ := setErr_shape pg n s; rw [h]
@[simp] theorem setErr_tiles (pg n s) : (setErr pg n s).tiles = s.tiles := by obtain ⟨_, _, _, h⟩ := setErr_shape pg n s; rw [h]
@[simp] theorem setErr_offTiles (pg n s) : (setErr pg n s).offTiles = s.offTiles := by obtain ⟨_, _, _, h⟩ := setErr_shape pg n s; rw [h]
@[simp] theorem setErr_asq (pg n s) : (setErr pg n s).asq = s.asq := by obtain ⟨_, _, _, h⟩ := setErr_shape pg n s; rw [h]
@[simp] theorem setErr_hbm (pg n s) : (setErr pg n s).hbm = s.hbm := by obtain ⟨_, _, _, h⟩ := setErr_shape pg n s; rw [h]
@[simp] theorem setErr_poison (pg n s) : (setErr pg n s).poison = s.poison := by obtain ⟨_, _, _, h⟩ := setErr_shape pg n s; rw [h]
@[simp] theorem setErr_flaws (pg n s) : (setErr pg n s).flaws = s.flaws := by obtain ⟨_, _, _, h⟩ := setErr_shape pg n s; rw [h]
@[simp] theorem setErr_hbmFailed (pg n s) : (setErr pg n s).hbmFailed = s.hbmFailed := by obtain ⟨_, _, _, h⟩ := setErr_shape pg n s; rw [h]
@[simp] theorem setErr_dies (pg n s) : (setErr pg n s).dies = s.dies := by obtain ⟨_, _, _, h⟩ := setErr_shape pg n s; rw [h]
@[simp] theorem setErr_ring (pg n s) : (setErr pg n s).ring = s.ring := by obtain ⟨_, _, _, h⟩ := setErr_shape pg n s; rw [h]
@[simp] theorem setErr_ledger (pg n s) : (setErr pg n s).ledger = s.ledger := by obtain ⟨_, _, _, h⟩ := setErr_shape pg n s; rw [h]
@[simp] theorem setErr_iseq (pg n s) : (setErr pg n s).iseq = s.iseq := by obtain ⟨_, _, _, h⟩ := setErr_shape pg n s; rw [h]
@[simp] theorem setErr_stepItems (pg n s) : (setErr pg n s).stepItems = s.stepItems := by obtain ⟨_, _, _, h⟩ := setErr_shape pg n s; rw [h]
@[simp] theorem setErr_aheadItems (pg n s) : (setErr pg n s).aheadItems = s.aheadItems := by obtain ⟨_, _, _, h⟩ := setErr_shape pg n s; rw [h]
@[simp] theorem setErr_stepLost (pg n s) : (setErr pg n s).stepLost = s.stepLost := by obtain ⟨_, _, _, h⟩ := setErr_shape pg n s; rw [h]
@[simp] theorem setErr_lostFirst (pg n s) : (setErr pg n s).lostFirst = s.lostFirst := by obtain ⟨_, _, _, h⟩ := setErr_shape pg n s; rw [h]
@[simp] theorem setErr_lostN (pg n s) : (setErr pg n s).lostN = s.lostN := by obtain ⟨_, _, _, h⟩ := setErr_shape pg n s; rw [h]
@[simp] theorem setErr_state3 (pg n s) : (setErr pg n s).state3 = s.state3 := by obtain ⟨_, _, _, h⟩ := setErr_shape pg n s; rw [h]
@[simp] theorem setErr_rdc (pg n s) : (setErr pg n s).rdc = s.rdc := by obtain ⟨_, _, _, h⟩ := setErr_shape pg n s; rw [h]
@[simp] theorem setErr_links (pg n s) : (setErr pg n s).links = s.links := by obtain ⟨_, _, _, h⟩ := setErr_shape pg n s; rw [h]
@[simp] theorem setErr_peers (pg n s) : (setErr pg n s).peers = s.peers := by obtain ⟨_, _, _, h⟩ := setErr_shape pg n s; rw [h]
@[simp] theorem setErr_stageSt (pg n s) : (setErr pg n s).stageSt = s.stageSt := by obtain ⟨_, _, _, h⟩ := setErr_shape pg n s; rw [h]
@[simp] theorem setErr_tsynced (pg n s) : (setErr pg n s).tsynced = s.tsynced := by obtain ⟨_, _, _, h⟩ := setErr_shape pg n s; rw [h]
@[simp] theorem setErr_slew (pg n s) : (setErr pg n s).slew = s.slew := by obtain ⟨_, _, _, h⟩ := setErr_shape pg n s; rw [h]
@[simp] theorem setErr_fc (pg n s) : (setErr pg n s).fc = s.fc := by obtain ⟨_, _, _, h⟩ := setErr_shape pg n s; rw [h]
@[simp] theorem setErr_pending (pg n s) : (setErr pg n s).pending = s.pending := by obtain ⟨_, _, _, h⟩ := setErr_shape pg n s; rw [h]

theorem denyDbg_shape  (s : State) :
    ∃ regs', denyDbg s = { s with regs := regs' } := by
  unfold denyDbg
  obtain ⟨_, h⟩ := bump_shape .dbg 0x048 1 (setAcc .dbg s)
  exact ⟨_, h⟩


theorem setRun_shape (r : RunSt) (s : State) :
    ∃ evc' regs' out' run', setRun r s = { s with evc := evc', regs := regs', out := out', run := run' } := by
  obtain ⟨_, _, _, h, _⟩ := onlyEvents_setRun r s
  exact ⟨_, _, _, _, h⟩

@[simp] theorem setRun_code (r s) : (setRun r s).code = s.code := by obtain ⟨_, _, _, _, h⟩ := setRun_shape r s; rw [h]
@[simp] theorem setRun_silicon (r s) : (setRun r s).silicon = s.silicon := by obtain ⟨_, _, _, _, h⟩ := setRun_shape r s; rw [h]
@[simp] theorem setRun_serial (r s) : (setRun r s).serial = s.serial := by obtain ⟨_, _, _, _, h⟩ := setRun_shape r s; rw [h]
@[simp] theorem setRun_mfg (r s) : (setRun r s).mfg = s.mfg := by obtain ⟨_, _, _, _, h⟩ := setRun_shape r s; rw [h]
@[simp] theorem setRun_stage (r s) : (setRun r s).stage = s.stage := by obtain ⟨_, _, _, _, h⟩ := setRun_shape r s; rw [h]
@[simp] theorem setRun_qEnd (r s) : (setRun r s).qEnd = s.qEnd := by obtain ⟨_, _, _, _, h⟩ := setRun_shape r s; rw [h]
@[simp] theorem setRun_testAt (r s) : (setRun r s).testAt = s.testAt := by obtain ⟨_, _, _, _, h⟩ := setRun_shape r s; rw [h]
@[simp] theorem setRun_loading (r s) : (setRun r s).loading = s.loading := by obtain ⟨_, _, _, _, h⟩ := setRun_shape r s; rw [h]
@[simp] theorem setRun_busy (r s) : (setRun r s).busy = s.busy := by obtain ⟨_, _, _, _, h⟩ := setRun_shape r s; rw [h]
@[simp] theorem setRun_noArray (r s) : (setRun r s).noArray = s.noArray := by obtain ⟨_, _, _, _, h⟩ := setRun_shape r s; rw [h]
@[simp] theorem setRun_stuck (r s) : (setRun r s).stuck = s.stuck := by obtain ⟨_, _, _, _, h⟩ := setRun_shape r s; rw [h]
@[simp] theorem setRun_tripLatched (r s) : (setRun r s).tripLatched = s.tripLatched := by obtain ⟨_, _, _, _, h⟩ := setRun_shape r s; rw [h]
@[simp] theorem setRun_tripAt (r s) : (setRun r s).tripAt = s.tripAt := by obtain ⟨_, _, _, _, h⟩ := setRun_shape r s; rw [h]
@[simp] theorem setRun_now (r s) : (setRun r s).now = s.now := by obtain ⟨_, _, _, _, h⟩ := setRun_shape r s; rw [h]
@[simp] theorem setRun_bankA (r s) : (setRun r s).bankA = s.bankA := by obtain ⟨_, _, _, _, h⟩ := setRun_shape r s; rw [h]
@[simp] theorem setRun_bankB (r s) : (setRun r s).bankB = s.bankB := by obtain ⟨_, _, _, _, h⟩ := setRun_shape r s; rw [h]
@[simp] theorem setRun_activeB (r s) : (setRun r s).activeB = s.activeB := by obtain ⟨_, _, _, _, h⟩ := setRun_shape r s; rw [h]
@[simp] theorem setRun_ver (r s) : (setRun r s).ver = s.ver := by obtain ⟨_, _, _, _, h⟩ := setRun_shape r s; rw [h]
@[simp] theorem setRun_stepBank (r s) : (setRun r s).stepBank = s.stepBank := by obtain ⟨_, _, _, _, h⟩ := setRun_shape r s; rw [h]
@[simp] theorem setRun_pendCfg (r s) : (setRun r s).pendCfg = s.pendCfg := by obtain ⟨_, _, _, _, h⟩ := setRun_shape r s; rw [h]
@[simp] theorem setRun_touched (r s) : (setRun r s).touched = s.touched := by obtain ⟨_, _, _, _, h⟩ := setRun_shape r s; rw [h]
@[simp] theorem setRun_rdLatch (r s) : (setRun r s).rdLatch = s.rdLatch := by obtain ⟨_, _, _, _, h⟩ := setRun_shape r s; rw [h]
@[simp] theorem setRun_wrHeld (r s) : (setRun r s).wrHeld = s.wrHeld := by obtain ⟨_, _, _, _, h⟩ := setRun_shape r s; rw [h]
@[simp] theorem setRun_viewLatch (r s) : (setRun r s).viewLatch = s.viewLatch := by obtain ⟨_, _, _, _, h⟩ := setRun_shape r s; rw [h]
@[simp] theorem setRun_srst (r s) : (setRun r s).srst = s.srst := by obtain ⟨_, _, _, _, h⟩ := setRun_shape r s; rw [h]
@[simp] theorem setRun_armed (r s) : (setRun r s).armed = s.armed := by obtain ⟨_, _, _, _, h⟩ := setRun_shape r s; rw [h]
@[simp] theorem setRun_isSealed (r s) : (setRun r s).isSealed = s.isSealed := by obtain ⟨_, _, _, _, h⟩ := setRun_shape r s; rw [h]
@[simp] theorem setRun_level (r s) : (setRun r s).level = s.level := by obtain ⟨_, _, _, _, h⟩ := setRun_shape r s; rw [h]
@[simp] theorem setRun_refusal (r s) : (setRun r s).refusal = s.refusal := by obtain ⟨_, _, _, _, h⟩ := setRun_shape r s; rw [h]
@[simp] theorem setRun_scrub (r s) : (setRun r s).scrub = s.scrub := by obtain ⟨_, _, _, _, h⟩ := setRun_shape r s; rw [h]
@[simp] theorem setRun_scrubFor (r s) : (setRun r s).scrubFor = s.scrubFor := by obtain ⟨_, _, _, _, h⟩ := setRun_shape r s; rw [h]
@[simp] theorem setRun_spdm (r s) : (setRun r s).spdm = s.spdm := by obtain ⟨_, _, _, _, h⟩ := setRun_shape r s; rw [h]
@[simp] theorem setRun_ide (r s) : (setRun r s).ide = s.ide := by obtain ⟨_, _, _, _, h⟩ := setRun_shape r s; rw [h]
@[simp] theorem setRun_hbmKey (r s) : (setRun r s).hbmKey = s.hbmKey := by obtain ⟨_, _, _, _, h⟩ := setRun_shape r s; rw [h]
@[simp] theorem setRun_cipher (r s) : (setRun r s).cipher = s.cipher := by obtain ⟨_, _, _, _, h⟩ := setRun_shape r s; rw [h]
@[simp] theorem setRun_linkKeys (r s) : (setRun r s).linkKeys = s.linkKeys := by obtain ⟨_, _, _, _, h⟩ := setRun_shape r s; rw [h]
@[simp] theorem setRun_sram (r s) : (setRun r s).sram = s.sram := by obtain ⟨_, _, _, _, h⟩ := setRun_shape r s; rw [h]
@[simp] theorem setRun_winOpen (r s) : (setRun r s).winOpen = s.winOpen := by obtain ⟨_, _, _, _, h⟩ := setRun_shape r s; rw [h]
@[simp] theorem setRun_mgmtUp (r s) : (setRun r s).mgmtUp = s.mgmtUp := by obtain ⟨_, _, _, _, h⟩ := setRun_shape r s; rw [h]
@[simp] theorem setRun_mgmtHash (r s) : (setRun r s).mgmtHash = s.mgmtHash := by obtain ⟨_, _, _, _, h⟩ := setRun_shape r s; rw [h]
@[simp] theorem setRun_kick0 (r s) : (setRun r s).kick0 = s.kick0 := by obtain ⟨_, _, _, _, h⟩ := setRun_shape r s; rw [h]
@[simp] theorem setRun_kick1 (r s) : (setRun r s).kick1 = s.kick1 := by obtain ⟨_, _, _, _, h⟩ := setRun_shape r s; rw [h]
@[simp] theorem setRun_env (r s) : (setRun r s).env = s.env := by obtain ⟨_, _, _, _, h⟩ := setRun_shape r s; rw [h]
@[simp] theorem setRun_host (r s) : (setRun r s).host = s.host := by obtain ⟨_, _, _, _, h⟩ := setRun_shape r s; rw [h]
@[simp] theorem setRun_jtag (r s) : (setRun r s).jtag = s.jtag := by obtain ⟨_, _, _, _, h⟩ := setRun_shape r s; rw [h]
@[simp] theorem setRun_prtHeld (r s) : (setRun r s).prtHeld = s.prtHeld := by obtain ⟨_, _, _, _, h⟩ := setRun_shape r s; rw [h]
@[simp] theorem setRun_cages (r s) : (setRun r s).cages = s.cages := by obtain ⟨_, _, _, _, h⟩ := setRun_shape r s; rw [h]
@[simp] theorem setRun_fields (r s) : (setRun r s).fields = s.fields := by obtain ⟨_, _, _, _, h⟩ := setRun_shape r s; rw [h]
@[simp] theorem setRun_fcmdBusy (r s) : (setRun r s).fcmdBusy = s.fcmdBusy := by obtain ⟨_, _, _, _, h⟩ := setRun_shape r s; rw [h]
@[simp] theorem setRun_overTemp (r s) : (setRun r s).overTemp = s.overTemp := by obtain ⟨_, _, _, _, h⟩ := setRun_shape r s; rw [h]
@[simp] theorem setRun_warned (r s) : (setRun r s).warned = s.warned := by obtain ⟨_, _, _, _, h⟩ := setRun_shape r s; rw [h]
@[simp] theorem setRun_inletHigh (r s) : (setRun r s).inletHigh = s.inletHigh := by obtain ⟨_, _, _, _, h⟩ := setRun_shape r s; rw [h]
@[simp] theorem setRun_hot (r s) : (setRun r s).hot = s.hot := by obtain ⟨_, _, _, _, h⟩ := setRun_shape r s; rw [h]
@[simp] theorem setRun_over95 (r s) : (setRun r s).over95 = s.over95 := by obtain ⟨_, _, _, _, h⟩ := setRun_shape r s; rw [h]
@[simp] theorem setRun_vminHalf (r s) : (setRun r s).vminHalf = s.vminHalf := by obtain ⟨_, _, _, _, h⟩ := setRun_shape r s; rw [h]
@[simp] theorem setRun_railLost (r s) : (setRun r s).railLost = s.railLost := by obtain ⟨_, _, _, _, h⟩ := setRun_shape r s; rw [h]
@[simp] theorem setRun_hdq (r s) : (setRun r s).hdq = s.hdq := by obtain ⟨_, _, _, _, h⟩ := setRun_shape r s; rw [h]
@[simp] theorem setRun_image (r s) : (setRun r s).image = s.image := by obtain ⟨_, _, _, _, h⟩ := setRun_shape r s; rw [h]
@[simp] theorem setRun_place (r s) : (setRun r s).place = s.place := by obtain ⟨_, _, _, _, h⟩ := setRun_shape r s; rw [h]
@[simp] theorem setRun_geo (r s) : (setRun r s).geo = s.geo := by obtain ⟨_, _, _, _, h⟩ := setRun_shape r s; rw [h]
@[simp] theorem setRun_keySeed (r s) : (setRun r s).keySeed = s.keySeed := by obtain ⟨_, _, _, _, h⟩ := setRun_shape r s; rw [h]
@[simp] theorem setRun_keyJob (r s) : (setRun r s).keyJob = s.keyJob := by obtain ⟨_, _, _, _, h⟩ := setRun_shape r s; rw [h]
@[simp] theorem setRun_priorSus (r s) : (setRun r s).priorSus = s.priorSus := by obtain ⟨_, _, _, _, h⟩ := setRun_shape r s; rw [h]
@[simp] theorem setRun_clk (r s) : (setRun r s).clk = s.clk := by obtain ⟨_, _, _, _, h⟩ := setRun_shape r s; rw [h]
@[simp] theorem setRun_tiles (r s) : (setRun r s).tiles = s.tiles := by obtain ⟨_, _, _, _, h⟩ := setRun_shape r s; rw [h]
@[simp] theorem setRun_offTiles (r s) : (setRun r s).offTiles = s.offTiles := by obtain ⟨_, _, _, _, h⟩ := setRun_shape r s; rw [h]
@[simp] theorem setRun_asq (r s) : (setRun r s).asq = s.asq := by obtain ⟨_, _, _, _, h⟩ := setRun_shape r s; rw [h]
@[simp] theorem setRun_hbm (r s) : (setRun r s).hbm = s.hbm := by obtain ⟨_, _, _, _, h⟩ := setRun_shape r s; rw [h]
@[simp] theorem setRun_poison (r s) : (setRun r s).poison = s.poison := by obtain ⟨_, _, _, _, h⟩ := setRun_shape r s; rw [h]
@[simp] theorem setRun_flaws (r s) : (setRun r s).flaws = s.flaws := by obtain ⟨_, _, _, _, h⟩ := setRun_shape r s; rw [h]
@[simp] theorem setRun_hbmFailed (r s) : (setRun r s).hbmFailed = s.hbmFailed := by obtain ⟨_, _, _, _, h⟩ := setRun_shape r s; rw [h]
@[simp] theorem setRun_dies (r s) : (setRun r s).dies = s.dies := by obtain ⟨_, _, _, _, h⟩ := setRun_shape r s; rw [h]
@[simp] theorem setRun_ring (r s) : (setRun r s).ring = s.ring := by obtain ⟨_, _, _, _, h⟩ := setRun_shape r s; rw [h]
@[simp] theorem setRun_ledger (r s) : (setRun r s).ledger = s.ledger := by obtain ⟨_, _, _, _, h⟩ := setRun_shape r s; rw [h]
@[simp] theorem setRun_iseq (r s) : (setRun r s).iseq = s.iseq := by obtain ⟨_, _, _, _, h⟩ := setRun_shape r s; rw [h]
@[simp] theorem setRun_stepItems (r s) : (setRun r s).stepItems = s.stepItems := by obtain ⟨_, _, _, _, h⟩ := setRun_shape r s; rw [h]
@[simp] theorem setRun_aheadItems (r s) : (setRun r s).aheadItems = s.aheadItems := by obtain ⟨_, _, _, _, h⟩ := setRun_shape r s; rw [h]
@[simp] theorem setRun_stepLost (r s) : (setRun r s).stepLost = s.stepLost := by obtain ⟨_, _, _, _, h⟩ := setRun_shape r s; rw [h]
@[simp] theorem setRun_lostFirst (r s) : (setRun r s).lostFirst = s.lostFirst := by obtain ⟨_, _, _, _, h⟩ := setRun_shape r s; rw [h]
@[simp] theorem setRun_lostN (r s) : (setRun r s).lostN = s.lostN := by obtain ⟨_, _, _, _, h⟩ := setRun_shape r s; rw [h]
@[simp] theorem setRun_state3 (r s) : (setRun r s).state3 = s.state3 := by obtain ⟨_, _, _, _, h⟩ := setRun_shape r s; rw [h]
@[simp] theorem setRun_rdc (r s) : (setRun r s).rdc = s.rdc := by obtain ⟨_, _, _, _, h⟩ := setRun_shape r s; rw [h]
@[simp] theorem setRun_links (r s) : (setRun r s).links = s.links := by obtain ⟨_, _, _, _, h⟩ := setRun_shape r s; rw [h]
@[simp] theorem setRun_peers (r s) : (setRun r s).peers = s.peers := by obtain ⟨_, _, _, _, h⟩ := setRun_shape r s; rw [h]
@[simp] theorem setRun_stageSt (r s) : (setRun r s).stageSt = s.stageSt := by obtain ⟨_, _, _, _, h⟩ := setRun_shape r s; rw [h]
@[simp] theorem setRun_tsynced (r s) : (setRun r s).tsynced = s.tsynced := by obtain ⟨_, _, _, _, h⟩ := setRun_shape r s; rw [h]
@[simp] theorem setRun_slew (r s) : (setRun r s).slew = s.slew := by obtain ⟨_, _, _, _, h⟩ := setRun_shape r s; rw [h]
@[simp] theorem setRun_fc (r s) : (setRun r s).fc = s.fc := by obtain ⟨_, _, _, _, h⟩ := setRun_shape r s; rw [h]
@[simp] theorem setRun_pending (r s) : (setRun r s).pending = s.pending := by obtain ⟨_, _, _, _, h⟩ := setRun_shape r s; rw [h]

theorem midDone_shape (cmd code : Nat) (s : State) :
    ∃ evc' regs' out' busy', midDone cmd code s = { s with evc := evc', regs := regs', out := out', busy := busy' } := by
  obtain ⟨_, _, _, h, _⟩ := onlyEvents_midDone cmd code s
  exact ⟨_, _, _, _, h⟩

@[simp] theorem midDone_code (cmd code s) : (midDone cmd code s).code = s.code := by obtain ⟨_, _, _, _, h⟩ := midDone_shape cmd code s; rw [h]
@[simp] theorem midDone_silicon (cmd code s) : (midDone cmd code s).silicon = s.silicon := by obtain ⟨_, _, _, _, h⟩ := midDone_shape cmd code s; rw [h]
@[simp] theorem midDone_serial (cmd code s) : (midDone cmd code s).serial = s.serial := by obtain ⟨_, _, _, _, h⟩ := midDone_shape cmd code s; rw [h]
@[simp] theorem midDone_mfg (cmd code s) : (midDone cmd code s).mfg = s.mfg := by obtain ⟨_, _, _, _, h⟩ := midDone_shape cmd code s; rw [h]
@[simp] theorem midDone_run (cmd code s) : (midDone cmd code s).run = s.run := by obtain ⟨_, _, _, _, h⟩ := midDone_shape cmd code s; rw [h]
@[simp] theorem midDone_stage (cmd code s) : (midDone cmd code s).stage = s.stage := by obtain ⟨_, _, _, _, h⟩ := midDone_shape cmd code s; rw [h]
@[simp] theorem midDone_qEnd (cmd code s) : (midDone cmd code s).qEnd = s.qEnd := by obtain ⟨_, _, _, _, h⟩ := midDone_shape cmd code s; rw [h]
@[simp] theorem midDone_testAt (cmd code s) : (midDone cmd code s).testAt = s.testAt := by obtain ⟨_, _, _, _, h⟩ := midDone_shape cmd code s; rw [h]
@[simp] theorem midDone_loading (cmd code s) : (midDone cmd code s).loading = s.loading := by obtain ⟨_, _, _, _, h⟩ := midDone_shape cmd code s; rw [h]
@[simp] theorem midDone_noArray (cmd code s) : (midDone cmd code s).noArray = s.noArray := by obtain ⟨_, _, _, _, h⟩ := midDone_shape cmd code s; rw [h]
@[simp] theorem midDone_stuck (cmd code s) : (midDone cmd code s).stuck = s.stuck := by obtain ⟨_, _, _, _, h⟩ := midDone_shape cmd code s; rw [h]
@[simp] theorem midDone_tripLatched (cmd code s) : (midDone cmd code s).tripLatched = s.tripLatched := by obtain ⟨_, _, _, _, h⟩ := midDone_shape cmd code s; rw [h]
@[simp] theorem midDone_tripAt (cmd code s) : (midDone cmd code s).tripAt = s.tripAt := by obtain ⟨_, _, _, _, h⟩ := midDone_shape cmd code s; rw [h]
@[simp] theorem midDone_now (cmd code s) : (midDone cmd code s).now = s.now := by obtain ⟨_, _, _, _, h⟩ := midDone_shape cmd code s; rw [h]
@[simp] theorem midDone_bankA (cmd code s) : (midDone cmd code s).bankA = s.bankA := by obtain ⟨_, _, _, _, h⟩ := midDone_shape cmd code s; rw [h]
@[simp] theorem midDone_bankB (cmd code s) : (midDone cmd code s).bankB = s.bankB := by obtain ⟨_, _, _, _, h⟩ := midDone_shape cmd code s; rw [h]
@[simp] theorem midDone_activeB (cmd code s) : (midDone cmd code s).activeB = s.activeB := by obtain ⟨_, _, _, _, h⟩ := midDone_shape cmd code s; rw [h]
@[simp] theorem midDone_ver (cmd code s) : (midDone cmd code s).ver = s.ver := by obtain ⟨_, _, _, _, h⟩ := midDone_shape cmd code s; rw [h]
@[simp] theorem midDone_stepBank (cmd code s) : (midDone cmd code s).stepBank = s.stepBank := by obtain ⟨_, _, _, _, h⟩ := midDone_shape cmd code s; rw [h]
@[simp] theorem midDone_pendCfg (cmd code s) : (midDone cmd code s).pendCfg = s.pendCfg := by obtain ⟨_, _, _, _, h⟩ := midDone_shape cmd code s; rw [h]
@[simp] theorem midDone_touched (cmd code s) : (midDone cmd code s).touched = s.touched := by obtain ⟨_, _, _, _, h⟩ := midDone_shape cmd code s; rw [h]
@[simp] theorem midDone_rdLatch (cmd code s) : (midDone cmd code s).rdLatch = s.rdLatch := by obtain ⟨_, _, _, _, h⟩ := midDone_shape cmd code s; rw [h]
@[simp] theorem midDone_wrHeld (cmd code s) : (midDone cmd code s).wrHeld = s.wrHeld := by obtain ⟨_, _, _, _, h⟩ := midDone_shape cmd code s; rw [h]
@[simp] theorem midDone_viewLatch (cmd code s) : (midDone cmd code s).viewLatch = s.viewLatch := by obtain ⟨_, _, _, _, h⟩ := midDone_shape cmd code s; rw [h]
@[simp] theorem midDone_srst (cmd code s) : (midDone cmd code s).srst = s.srst := by obtain ⟨_, _, _, _, h⟩ := midDone_shape cmd code s; rw [h]
@[simp] theorem midDone_armed (cmd code s) : (midDone cmd code s).armed = s.armed := by obtain ⟨_, _, _, _, h⟩ := midDone_shape cmd code s; rw [h]
@[simp] theorem midDone_isSealed (cmd code s) : (midDone cmd code s).isSealed = s.isSealed := by obtain ⟨_, _, _, _, h⟩ := midDone_shape cmd code s; rw [h]
@[simp] theorem midDone_level (cmd code s) : (midDone cmd code s).level = s.level := by obtain ⟨_, _, _, _, h⟩ := midDone_shape cmd code s; rw [h]
@[simp] theorem midDone_refusal (cmd code s) : (midDone cmd code s).refusal = s.refusal := by obtain ⟨_, _, _, _, h⟩ := midDone_shape cmd code s; rw [h]
@[simp] theorem midDone_scrub (cmd code s) : (midDone cmd code s).scrub = s.scrub := by obtain ⟨_, _, _, _, h⟩ := midDone_shape cmd code s; rw [h]
@[simp] theorem midDone_scrubFor (cmd code s) : (midDone cmd code s).scrubFor = s.scrubFor := by obtain ⟨_, _, _, _, h⟩ := midDone_shape cmd code s; rw [h]
@[simp] theorem midDone_spdm (cmd code s) : (midDone cmd code s).spdm = s.spdm := by obtain ⟨_, _, _, _, h⟩ := midDone_shape cmd code s; rw [h]
@[simp] theorem midDone_ide (cmd code s) : (midDone cmd code s).ide = s.ide := by obtain ⟨_, _, _, _, h⟩ := midDone_shape cmd code s; rw [h]
@[simp] theorem midDone_hbmKey (cmd code s) : (midDone cmd code s).hbmKey = s.hbmKey := by obtain ⟨_, _, _, _, h⟩ := midDone_shape cmd code s; rw [h]
@[simp] theorem midDone_cipher (cmd code s) : (midDone cmd code s).cipher = s.cipher := by obtain ⟨_, _, _, _, h⟩ := midDone_shape cmd code s; rw [h]
@[simp] theorem midDone_linkKeys (cmd code s) : (midDone cmd code s).linkKeys = s.linkKeys := by obtain ⟨_, _, _, _, h⟩ := midDone_shape cmd code s; rw [h]
@[simp] theorem midDone_sram (cmd code s) : (midDone cmd code s).sram = s.sram := by obtain ⟨_, _, _, _, h⟩ := midDone_shape cmd code s; rw [h]
@[simp] theorem midDone_winOpen (cmd code s) : (midDone cmd code s).winOpen = s.winOpen := by obtain ⟨_, _, _, _, h⟩ := midDone_shape cmd code s; rw [h]
@[simp] theorem midDone_mgmtUp (cmd code s) : (midDone cmd code s).mgmtUp = s.mgmtUp := by obtain ⟨_, _, _, _, h⟩ := midDone_shape cmd code s; rw [h]
@[simp] theorem midDone_mgmtHash (cmd code s) : (midDone cmd code s).mgmtHash = s.mgmtHash := by obtain ⟨_, _, _, _, h⟩ := midDone_shape cmd code s; rw [h]
@[simp] theorem midDone_kick0 (cmd code s) : (midDone cmd code s).kick0 = s.kick0 := by obtain ⟨_, _, _, _, h⟩ := midDone_shape cmd code s; rw [h]
@[simp] theorem midDone_kick1 (cmd code s) : (midDone cmd code s).kick1 = s.kick1 := by obtain ⟨_, _, _, _, h⟩ := midDone_shape cmd code s; rw [h]
@[simp] theorem midDone_env (cmd code s) : (midDone cmd code s).env = s.env := by obtain ⟨_, _, _, _, h⟩ := midDone_shape cmd code s; rw [h]
@[simp] theorem midDone_host (cmd code s) : (midDone cmd code s).host = s.host := by obtain ⟨_, _, _, _, h⟩ := midDone_shape cmd code s; rw [h]
@[simp] theorem midDone_jtag (cmd code s) : (midDone cmd code s).jtag = s.jtag := by obtain ⟨_, _, _, _, h⟩ := midDone_shape cmd code s; rw [h]
@[simp] theorem midDone_prtHeld (cmd code s) : (midDone cmd code s).prtHeld = s.prtHeld := by obtain ⟨_, _, _, _, h⟩ := midDone_shape cmd code s; rw [h]
@[simp] theorem midDone_cages (cmd code s) : (midDone cmd code s).cages = s.cages := by obtain ⟨_, _, _, _, h⟩ := midDone_shape cmd code s; rw [h]
@[simp] theorem midDone_fields (cmd code s) : (midDone cmd code s).fields = s.fields := by obtain ⟨_, _, _, _, h⟩ := midDone_shape cmd code s; rw [h]
@[simp] theorem midDone_fcmdBusy (cmd code s) : (midDone cmd code s).fcmdBusy = s.fcmdBusy := by obtain ⟨_, _, _, _, h⟩ := midDone_shape cmd code s; rw [h]
@[simp] theorem midDone_overTemp (cmd code s) : (midDone cmd code s).overTemp = s.overTemp := by obtain ⟨_, _, _, _, h⟩ := midDone_shape cmd code s; rw [h]
@[simp] theorem midDone_warned (cmd code s) : (midDone cmd code s).warned = s.warned := by obtain ⟨_, _, _, _, h⟩ := midDone_shape cmd code s; rw [h]
@[simp] theorem midDone_inletHigh (cmd code s) : (midDone cmd code s).inletHigh = s.inletHigh := by obtain ⟨_, _, _, _, h⟩ := midDone_shape cmd code s; rw [h]
@[simp] theorem midDone_hot (cmd code s) : (midDone cmd code s).hot = s.hot := by obtain ⟨_, _, _, _, h⟩ := midDone_shape cmd code s; rw [h]
@[simp] theorem midDone_over95 (cmd code s) : (midDone cmd code s).over95 = s.over95 := by obtain ⟨_, _, _, _, h⟩ := midDone_shape cmd code s; rw [h]
@[simp] theorem midDone_vminHalf (cmd code s) : (midDone cmd code s).vminHalf = s.vminHalf := by obtain ⟨_, _, _, _, h⟩ := midDone_shape cmd code s; rw [h]
@[simp] theorem midDone_railLost (cmd code s) : (midDone cmd code s).railLost = s.railLost := by obtain ⟨_, _, _, _, h⟩ := midDone_shape cmd code s; rw [h]
@[simp] theorem midDone_hdq (cmd code s) : (midDone cmd code s).hdq = s.hdq := by obtain ⟨_, _, _, _, h⟩ := midDone_shape cmd code s; rw [h]
@[simp] theorem midDone_image (cmd code s) : (midDone cmd code s).image = s.image := by obtain ⟨_, _, _, _, h⟩ := midDone_shape cmd code s; rw [h]
@[simp] theorem midDone_place (cmd code s) : (midDone cmd code s).place = s.place := by obtain ⟨_, _, _, _, h⟩ := midDone_shape cmd code s; rw [h]
@[simp] theorem midDone_geo (cmd code s) : (midDone cmd code s).geo = s.geo := by obtain ⟨_, _, _, _, h⟩ := midDone_shape cmd code s; rw [h]
@[simp] theorem midDone_keySeed (cmd code s) : (midDone cmd code s).keySeed = s.keySeed := by obtain ⟨_, _, _, _, h⟩ := midDone_shape cmd code s; rw [h]
@[simp] theorem midDone_keyJob (cmd code s) : (midDone cmd code s).keyJob = s.keyJob := by obtain ⟨_, _, _, _, h⟩ := midDone_shape cmd code s; rw [h]
@[simp] theorem midDone_priorSus (cmd code s) : (midDone cmd code s).priorSus = s.priorSus := by obtain ⟨_, _, _, _, h⟩ := midDone_shape cmd code s; rw [h]
@[simp] theorem midDone_clk (cmd code s) : (midDone cmd code s).clk = s.clk := by obtain ⟨_, _, _, _, h⟩ := midDone_shape cmd code s; rw [h]
@[simp] theorem midDone_tiles (cmd code s) : (midDone cmd code s).tiles = s.tiles := by obtain ⟨_, _, _, _, h⟩ := midDone_shape cmd code s; rw [h]
@[simp] theorem midDone_offTiles (cmd code s) : (midDone cmd code s).offTiles = s.offTiles := by obtain ⟨_, _, _, _, h⟩ := midDone_shape cmd code s; rw [h]
@[simp] theorem midDone_asq (cmd code s) : (midDone cmd code s).asq = s.asq := by obtain ⟨_, _, _, _, h⟩ := midDone_shape cmd code s; rw [h]
@[simp] theorem midDone_hbm (cmd code s) : (midDone cmd code s).hbm = s.hbm := by obtain ⟨_, _, _, _, h⟩ := midDone_shape cmd code s; rw [h]
@[simp] theorem midDone_poison (cmd code s) : (midDone cmd code s).poison = s.poison := by obtain ⟨_, _, _, _, h⟩ := midDone_shape cmd code s; rw [h]
@[simp] theorem midDone_flaws (cmd code s) : (midDone cmd code s).flaws = s.flaws := by obtain ⟨_, _, _, _, h⟩ := midDone_shape cmd code s; rw [h]
@[simp] theorem midDone_hbmFailed (cmd code s) : (midDone cmd code s).hbmFailed = s.hbmFailed := by obtain ⟨_, _, _, _, h⟩ := midDone_shape cmd code s; rw [h]
@[simp] theorem midDone_dies (cmd code s) : (midDone cmd code s).dies = s.dies := by obtain ⟨_, _, _, _, h⟩ := midDone_shape cmd code s; rw [h]
@[simp] theorem midDone_ring (cmd code s) : (midDone cmd code s).ring = s.ring := by obtain ⟨_, _, _, _, h⟩ := midDone_shape cmd code s; rw [h]
@[simp] theorem midDone_ledger (cmd code s) : (midDone cmd code s).ledger = s.ledger := by obtain ⟨_, _, _, _, h⟩ := midDone_shape cmd code s; rw [h]
@[simp] theorem midDone_iseq (cmd code s) : (midDone cmd code s).iseq = s.iseq := by obtain ⟨_, _, _, _, h⟩ := midDone_shape cmd code s; rw [h]
@[simp] theorem midDone_stepItems (cmd code s) : (midDone cmd code s).stepItems = s.stepItems := by obtain ⟨_, _, _, _, h⟩ := midDone_shape cmd code s; rw [h]
@[simp] theorem midDone_aheadItems (cmd code s) : (midDone cmd code s).aheadItems = s.aheadItems := by obtain ⟨_, _, _, _, h⟩ := midDone_shape cmd code s; rw [h]
@[simp] theorem midDone_stepLost (cmd code s) : (midDone cmd code s).stepLost = s.stepLost := by obtain ⟨_, _, _, _, h⟩ := midDone_shape cmd code s; rw [h]
@[simp] theorem midDone_lostFirst (cmd code s) : (midDone cmd code s).lostFirst = s.lostFirst := by obtain ⟨_, _, _, _, h⟩ := midDone_shape cmd code s; rw [h]
@[simp] theorem midDone_lostN (cmd code s) : (midDone cmd code s).lostN = s.lostN := by obtain ⟨_, _, _, _, h⟩ := midDone_shape cmd code s; rw [h]
@[simp] theorem midDone_state3 (cmd code s) : (midDone cmd code s).state3 = s.state3 := by obtain ⟨_, _, _, _, h⟩ := midDone_shape cmd code s; rw [h]
@[simp] theorem midDone_rdc (cmd code s) : (midDone cmd code s).rdc = s.rdc := by obtain ⟨_, _, _, _, h⟩ := midDone_shape cmd code s; rw [h]
@[simp] theorem midDone_links (cmd code s) : (midDone cmd code s).links = s.links := by obtain ⟨_, _, _, _, h⟩ := midDone_shape cmd code s; rw [h]
@[simp] theorem midDone_peers (cmd code s) : (midDone cmd code s).peers = s.peers := by obtain ⟨_, _, _, _, h⟩ := midDone_shape cmd code s; rw [h]
@[simp] theorem midDone_stageSt (cmd code s) : (midDone cmd code s).stageSt = s.stageSt := by obtain ⟨_, _, _, _, h⟩ := midDone_shape cmd code s; rw [h]
@[simp] theorem midDone_tsynced (cmd code s) : (midDone cmd code s).tsynced = s.tsynced := by obtain ⟨_, _, _, _, h⟩ := midDone_shape cmd code s; rw [h]
@[simp] theorem midDone_slew (cmd code s) : (midDone cmd code s).slew = s.slew := by obtain ⟨_, _, _, _, h⟩ := midDone_shape cmd code s; rw [h]
@[simp] theorem midDone_fc (cmd code s) : (midDone cmd code s).fc = s.fc := by obtain ⟨_, _, _, _, h⟩ := midDone_shape cmd code s; rw [h]
@[simp] theorem midDone_pending (cmd code s) : (midDone cmd code s).pending = s.pending := by obtain ⟨_, _, _, _, h⟩ := midDone_shape cmd code s; rw [h]

theorem midRefuse_shape (cmd code : Nat) (s : State) :
    ∃ evc' regs' out', midRefuse cmd code s = { s with evc := evc', regs := regs', out := out' } := by
  unfold midRefuse
  split
  · obtain ⟨_, _, _, h⟩ := setErr_shape .mid 3 (setReg .mid 0x088 (w32 (2 ^ 30 + cmd * 256 + code)) s)
    exact ⟨_, _, _, h⟩
  · obtain ⟨_, _, _, h⟩ := setErr_shape .mid 3 (fire 12 (setReg .mid 0x088 (w32 (2 ^ 31 + cmd * 256 + code)) s))
    rw [h]
    obtain ⟨_, _, _, h⟩ := fire_shape 12 (setReg .mid 0x088 (w32 (2 ^ 31 + cmd * 256 + code)) s)
    rw [h]
    exact ⟨_, _, _, rfl⟩

@[simp] theorem midRefuse_code (cmd code s) : (midRefuse cmd code s).code = s.code := by obtain ⟨_, _, _, h⟩ := midRefuse_shape cmd code s; rw [h]
@[simp] theorem midRefuse_silicon (cmd code s) : (midRefuse cmd code s).silicon = s.silicon := by obtain ⟨_, _, _, h⟩ := midRefuse_shape cmd code s; rw [h]
@[simp] theorem midRefuse_serial (cmd code s) : (midRefuse cmd code s).serial = s.serial := by obtain ⟨_, _, _, h⟩ := midRefuse_shape cmd code s; rw [h]
@[simp] theorem midRefuse_mfg (cmd code s) : (midRefuse cmd code s).mfg = s.mfg := by obtain ⟨_, _, _, h⟩ := midRefuse_shape cmd code s; rw [h]
@[simp] theorem midRefuse_run (cmd code s) : (midRefuse cmd code s).run = s.run := by obtain ⟨_, _, _, h⟩ := midRefuse_shape cmd code s; rw [h]
@[simp] theorem midRefuse_stage (cmd code s) : (midRefuse cmd code s).stage = s.stage := by obtain ⟨_, _, _, h⟩ := midRefuse_shape cmd code s; rw [h]
@[simp] theorem midRefuse_qEnd (cmd code s) : (midRefuse cmd code s).qEnd = s.qEnd := by obtain ⟨_, _, _, h⟩ := midRefuse_shape cmd code s; rw [h]
@[simp] theorem midRefuse_testAt (cmd code s) : (midRefuse cmd code s).testAt = s.testAt := by obtain ⟨_, _, _, h⟩ := midRefuse_shape cmd code s; rw [h]
@[simp] theorem midRefuse_loading (cmd code s) : (midRefuse cmd code s).loading = s.loading := by obtain ⟨_, _, _, h⟩ := midRefuse_shape cmd code s; rw [h]
@[simp] theorem midRefuse_busy (cmd code s) : (midRefuse cmd code s).busy = s.busy := by obtain ⟨_, _, _, h⟩ := midRefuse_shape cmd code s; rw [h]
@[simp] theorem midRefuse_noArray (cmd code s) : (midRefuse cmd code s).noArray = s.noArray := by obtain ⟨_, _, _, h⟩ := midRefuse_shape cmd code s; rw [h]
@[simp] theorem midRefuse_stuck (cmd code s) : (midRefuse cmd code s).stuck = s.stuck := by obtain ⟨_, _, _, h⟩ := midRefuse_shape cmd code s; rw [h]
@[simp] theorem midRefuse_tripLatched (cmd code s) : (midRefuse cmd code s).tripLatched = s.tripLatched := by obtain ⟨_, _, _, h⟩ := midRefuse_shape cmd code s; rw [h]
@[simp] theorem midRefuse_tripAt (cmd code s) : (midRefuse cmd code s).tripAt = s.tripAt := by obtain ⟨_, _, _, h⟩ := midRefuse_shape cmd code s; rw [h]
@[simp] theorem midRefuse_now (cmd code s) : (midRefuse cmd code s).now = s.now := by obtain ⟨_, _, _, h⟩ := midRefuse_shape cmd code s; rw [h]
@[simp] theorem midRefuse_bankA (cmd code s) : (midRefuse cmd code s).bankA = s.bankA := by obtain ⟨_, _, _, h⟩ := midRefuse_shape cmd code s; rw [h]
@[simp] theorem midRefuse_bankB (cmd code s) : (midRefuse cmd code s).bankB = s.bankB := by obtain ⟨_, _, _, h⟩ := midRefuse_shape cmd code s; rw [h]
@[simp] theorem midRefuse_activeB (cmd code s) : (midRefuse cmd code s).activeB = s.activeB := by obtain ⟨_, _, _, h⟩ := midRefuse_shape cmd code s; rw [h]
@[simp] theorem midRefuse_ver (cmd code s) : (midRefuse cmd code s).ver = s.ver := by obtain ⟨_, _, _, h⟩ := midRefuse_shape cmd code s; rw [h]
@[simp] theorem midRefuse_stepBank (cmd code s) : (midRefuse cmd code s).stepBank = s.stepBank := by obtain ⟨_, _, _, h⟩ := midRefuse_shape cmd code s; rw [h]
@[simp] theorem midRefuse_pendCfg (cmd code s) : (midRefuse cmd code s).pendCfg = s.pendCfg := by obtain ⟨_, _, _, h⟩ := midRefuse_shape cmd code s; rw [h]
@[simp] theorem midRefuse_touched (cmd code s) : (midRefuse cmd code s).touched = s.touched := by obtain ⟨_, _, _, h⟩ := midRefuse_shape cmd code s; rw [h]
@[simp] theorem midRefuse_rdLatch (cmd code s) : (midRefuse cmd code s).rdLatch = s.rdLatch := by obtain ⟨_, _, _, h⟩ := midRefuse_shape cmd code s; rw [h]
@[simp] theorem midRefuse_wrHeld (cmd code s) : (midRefuse cmd code s).wrHeld = s.wrHeld := by obtain ⟨_, _, _, h⟩ := midRefuse_shape cmd code s; rw [h]
@[simp] theorem midRefuse_viewLatch (cmd code s) : (midRefuse cmd code s).viewLatch = s.viewLatch := by obtain ⟨_, _, _, h⟩ := midRefuse_shape cmd code s; rw [h]
@[simp] theorem midRefuse_srst (cmd code s) : (midRefuse cmd code s).srst = s.srst := by obtain ⟨_, _, _, h⟩ := midRefuse_shape cmd code s; rw [h]
@[simp] theorem midRefuse_armed (cmd code s) : (midRefuse cmd code s).armed = s.armed := by obtain ⟨_, _, _, h⟩ := midRefuse_shape cmd code s; rw [h]
@[simp] theorem midRefuse_isSealed (cmd code s) : (midRefuse cmd code s).isSealed = s.isSealed := by obtain ⟨_, _, _, h⟩ := midRefuse_shape cmd code s; rw [h]
@[simp] theorem midRefuse_level (cmd code s) : (midRefuse cmd code s).level = s.level := by obtain ⟨_, _, _, h⟩ := midRefuse_shape cmd code s; rw [h]
@[simp] theorem midRefuse_refusal (cmd code s) : (midRefuse cmd code s).refusal = s.refusal := by obtain ⟨_, _, _, h⟩ := midRefuse_shape cmd code s; rw [h]
@[simp] theorem midRefuse_scrub (cmd code s) : (midRefuse cmd code s).scrub = s.scrub := by obtain ⟨_, _, _, h⟩ := midRefuse_shape cmd code s; rw [h]
@[simp] theorem midRefuse_scrubFor (cmd code s) : (midRefuse cmd code s).scrubFor = s.scrubFor := by obtain ⟨_, _, _, h⟩ := midRefuse_shape cmd code s; rw [h]
@[simp] theorem midRefuse_spdm (cmd code s) : (midRefuse cmd code s).spdm = s.spdm := by obtain ⟨_, _, _, h⟩ := midRefuse_shape cmd code s; rw [h]
@[simp] theorem midRefuse_ide (cmd code s) : (midRefuse cmd code s).ide = s.ide := by obtain ⟨_, _, _, h⟩ := midRefuse_shape cmd code s; rw [h]
@[simp] theorem midRefuse_hbmKey (cmd code s) : (midRefuse cmd code s).hbmKey = s.hbmKey := by obtain ⟨_, _, _, h⟩ := midRefuse_shape cmd code s; rw [h]
@[simp] theorem midRefuse_cipher (cmd code s) : (midRefuse cmd code s).cipher = s.cipher := by obtain ⟨_, _, _, h⟩ := midRefuse_shape cmd code s; rw [h]
@[simp] theorem midRefuse_linkKeys (cmd code s) : (midRefuse cmd code s).linkKeys = s.linkKeys := by obtain ⟨_, _, _, h⟩ := midRefuse_shape cmd code s; rw [h]
@[simp] theorem midRefuse_sram (cmd code s) : (midRefuse cmd code s).sram = s.sram := by obtain ⟨_, _, _, h⟩ := midRefuse_shape cmd code s; rw [h]
@[simp] theorem midRefuse_winOpen (cmd code s) : (midRefuse cmd code s).winOpen = s.winOpen := by obtain ⟨_, _, _, h⟩ := midRefuse_shape cmd code s; rw [h]
@[simp] theorem midRefuse_mgmtUp (cmd code s) : (midRefuse cmd code s).mgmtUp = s.mgmtUp := by obtain ⟨_, _, _, h⟩ := midRefuse_shape cmd code s; rw [h]
@[simp] theorem midRefuse_mgmtHash (cmd code s) : (midRefuse cmd code s).mgmtHash = s.mgmtHash := by obtain ⟨_, _, _, h⟩ := midRefuse_shape cmd code s; rw [h]
@[simp] theorem midRefuse_kick0 (cmd code s) : (midRefuse cmd code s).kick0 = s.kick0 := by obtain ⟨_, _, _, h⟩ := midRefuse_shape cmd code s; rw [h]
@[simp] theorem midRefuse_kick1 (cmd code s) : (midRefuse cmd code s).kick1 = s.kick1 := by obtain ⟨_, _, _, h⟩ := midRefuse_shape cmd code s; rw [h]
@[simp] theorem midRefuse_env (cmd code s) : (midRefuse cmd code s).env = s.env := by obtain ⟨_, _, _, h⟩ := midRefuse_shape cmd code s; rw [h]
@[simp] theorem midRefuse_host (cmd code s) : (midRefuse cmd code s).host = s.host := by obtain ⟨_, _, _, h⟩ := midRefuse_shape cmd code s; rw [h]
@[simp] theorem midRefuse_jtag (cmd code s) : (midRefuse cmd code s).jtag = s.jtag := by obtain ⟨_, _, _, h⟩ := midRefuse_shape cmd code s; rw [h]
@[simp] theorem midRefuse_prtHeld (cmd code s) : (midRefuse cmd code s).prtHeld = s.prtHeld := by obtain ⟨_, _, _, h⟩ := midRefuse_shape cmd code s; rw [h]
@[simp] theorem midRefuse_cages (cmd code s) : (midRefuse cmd code s).cages = s.cages := by obtain ⟨_, _, _, h⟩ := midRefuse_shape cmd code s; rw [h]
@[simp] theorem midRefuse_fields (cmd code s) : (midRefuse cmd code s).fields = s.fields := by obtain ⟨_, _, _, h⟩ := midRefuse_shape cmd code s; rw [h]
@[simp] theorem midRefuse_fcmdBusy (cmd code s) : (midRefuse cmd code s).fcmdBusy = s.fcmdBusy := by obtain ⟨_, _, _, h⟩ := midRefuse_shape cmd code s; rw [h]
@[simp] theorem midRefuse_overTemp (cmd code s) : (midRefuse cmd code s).overTemp = s.overTemp := by obtain ⟨_, _, _, h⟩ := midRefuse_shape cmd code s; rw [h]
@[simp] theorem midRefuse_warned (cmd code s) : (midRefuse cmd code s).warned = s.warned := by obtain ⟨_, _, _, h⟩ := midRefuse_shape cmd code s; rw [h]
@[simp] theorem midRefuse_inletHigh (cmd code s) : (midRefuse cmd code s).inletHigh = s.inletHigh := by obtain ⟨_, _, _, h⟩ := midRefuse_shape cmd code s; rw [h]
@[simp] theorem midRefuse_hot (cmd code s) : (midRefuse cmd code s).hot = s.hot := by obtain ⟨_, _, _, h⟩ := midRefuse_shape cmd code s; rw [h]
@[simp] theorem midRefuse_over95 (cmd code s) : (midRefuse cmd code s).over95 = s.over95 := by obtain ⟨_, _, _, h⟩ := midRefuse_shape cmd code s; rw [h]
@[simp] theorem midRefuse_vminHalf (cmd code s) : (midRefuse cmd code s).vminHalf = s.vminHalf := by obtain ⟨_, _, _, h⟩ := midRefuse_shape cmd code s; rw [h]
@[simp] theorem midRefuse_railLost (cmd code s) : (midRefuse cmd code s).railLost = s.railLost := by obtain ⟨_, _, _, h⟩ := midRefuse_shape cmd code s; rw [h]
@[simp] theorem midRefuse_hdq (cmd code s) : (midRefuse cmd code s).hdq = s.hdq := by obtain ⟨_, _, _, h⟩ := midRefuse_shape cmd code s; rw [h]
@[simp] theorem midRefuse_image (cmd code s) : (midRefuse cmd code s).image = s.image := by obtain ⟨_, _, _, h⟩ := midRefuse_shape cmd code s; rw [h]
@[simp] theorem midRefuse_place (cmd code s) : (midRefuse cmd code s).place = s.place := by obtain ⟨_, _, _, h⟩ := midRefuse_shape cmd code s; rw [h]
@[simp] theorem midRefuse_geo (cmd code s) : (midRefuse cmd code s).geo = s.geo := by obtain ⟨_, _, _, h⟩ := midRefuse_shape cmd code s; rw [h]
@[simp] theorem midRefuse_keySeed (cmd code s) : (midRefuse cmd code s).keySeed = s.keySeed := by obtain ⟨_, _, _, h⟩ := midRefuse_shape cmd code s; rw [h]
@[simp] theorem midRefuse_keyJob (cmd code s) : (midRefuse cmd code s).keyJob = s.keyJob := by obtain ⟨_, _, _, h⟩ := midRefuse_shape cmd code s; rw [h]
@[simp] theorem midRefuse_priorSus (cmd code s) : (midRefuse cmd code s).priorSus = s.priorSus := by obtain ⟨_, _, _, h⟩ := midRefuse_shape cmd code s; rw [h]
@[simp] theorem midRefuse_clk (cmd code s) : (midRefuse cmd code s).clk = s.clk := by obtain ⟨_, _, _, h⟩ := midRefuse_shape cmd code s; rw [h]
@[simp] theorem midRefuse_tiles (cmd code s) : (midRefuse cmd code s).tiles = s.tiles := by obtain ⟨_, _, _, h⟩ := midRefuse_shape cmd code s; rw [h]
@[simp] theorem midRefuse_offTiles (cmd code s) : (midRefuse cmd code s).offTiles = s.offTiles := by obtain ⟨_, _, _, h⟩ := midRefuse_shape cmd code s; rw [h]
@[simp] theorem midRefuse_asq (cmd code s) : (midRefuse cmd code s).asq = s.asq := by obtain ⟨_, _, _, h⟩ := midRefuse_shape cmd code s; rw [h]
@[simp] theorem midRefuse_hbm (cmd code s) : (midRefuse cmd code s).hbm = s.hbm := by obtain ⟨_, _, _, h⟩ := midRefuse_shape cmd code s; rw [h]
@[simp] theorem midRefuse_poison (cmd code s) : (midRefuse cmd code s).poison = s.poison := by obtain ⟨_, _, _, h⟩ := midRefuse_shape cmd code s; rw [h]
@[simp] theorem midRefuse_flaws (cmd code s) : (midRefuse cmd code s).flaws = s.flaws := by obtain ⟨_, _, _, h⟩ := midRefuse_shape cmd code s; rw [h]
@[simp] theorem midRefuse_hbmFailed (cmd code s) : (midRefuse cmd code s).hbmFailed = s.hbmFailed := by obtain ⟨_, _, _, h⟩ := midRefuse_shape cmd code s; rw [h]
@[simp] theorem midRefuse_dies (cmd code s) : (midRefuse cmd code s).dies = s.dies := by obtain ⟨_, _, _, h⟩ := midRefuse_shape cmd code s; rw [h]
@[simp] theorem midRefuse_ring (cmd code s) : (midRefuse cmd code s).ring = s.ring := by obtain ⟨_, _, _, h⟩ := midRefuse_shape cmd code s; rw [h]
@[simp] theorem midRefuse_ledger (cmd code s) : (midRefuse cmd code s).ledger = s.ledger := by obtain ⟨_, _, _, h⟩ := midRefuse_shape cmd code s; rw [h]
@[simp] theorem midRefuse_iseq (cmd code s) : (midRefuse cmd code s).iseq = s.iseq := by obtain ⟨_, _, _, h⟩ := midRefuse_shape cmd code s; rw [h]
@[simp] theorem midRefuse_stepItems (cmd code s) : (midRefuse cmd code s).stepItems = s.stepItems := by obtain ⟨_, _, _, h⟩ := midRefuse_shape cmd code s; rw [h]
@[simp] theorem midRefuse_aheadItems (cmd code s) : (midRefuse cmd code s).aheadItems = s.aheadItems := by obtain ⟨_, _, _, h⟩ := midRefuse_shape cmd code s; rw [h]
@[simp] theorem midRefuse_stepLost (cmd code s) : (midRefuse cmd code s).stepLost = s.stepLost := by obtain ⟨_, _, _, h⟩ := midRefuse_shape cmd code s; rw [h]
@[simp] theorem midRefuse_lostFirst (cmd code s) : (midRefuse cmd code s).lostFirst = s.lostFirst := by obtain ⟨_, _, _, h⟩ := midRefuse_shape cmd code s; rw [h]
@[simp] theorem midRefuse_lostN (cmd code s) : (midRefuse cmd code s).lostN = s.lostN := by obtain ⟨_, _, _, h⟩ := midRefuse_shape cmd code s; rw [h]
@[simp] theorem midRefuse_state3 (cmd code s) : (midRefuse cmd code s).state3 = s.state3 := by obtain ⟨_, _, _, h⟩ := midRefuse_shape cmd code s; rw [h]
@[simp] theorem midRefuse_rdc (cmd code s) : (midRefuse cmd code s).rdc = s.rdc := by obtain ⟨_, _, _, h⟩ := midRefuse_shape cmd code s; rw [h]
@[simp] theorem midRefuse_links (cmd code s) : (midRefuse cmd code s).links = s.links := by obtain ⟨_, _, _, h⟩ := midRefuse_shape cmd code s; rw [h]
@[simp] theorem midRefuse_peers (cmd code s) : (midRefuse cmd code s).peers = s.peers := by obtain ⟨_, _, _, h⟩ := midRefuse_shape cmd code s; rw [h]
@[simp] theorem midRefuse_stageSt (cmd code s) : (midRefuse cmd code s).stageSt = s.stageSt := by obtain ⟨_, _, _, h⟩ := midRefuse_shape cmd code s; rw [h]
@[simp] theorem midRefuse_tsynced (cmd code s) : (midRefuse cmd code s).tsynced = s.tsynced := by obtain ⟨_, _, _, h⟩ := midRefuse_shape cmd code s; rw [h]
@[simp] theorem midRefuse_slew (cmd code s) : (midRefuse cmd code s).slew = s.slew := by obtain ⟨_, _, _, h⟩ := midRefuse_shape cmd code s; rw [h]
@[simp] theorem midRefuse_fc (cmd code s) : (midRefuse cmd code s).fc = s.fc := by obtain ⟨_, _, _, h⟩ := midRefuse_shape cmd code s; rw [h]
@[simp] theorem midRefuse_pending (cmd code s) : (midRefuse cmd code s).pending = s.pending := by obtain ⟨_, _, _, h⟩ := midRefuse_shape cmd code s; rw [h]

theorem midBusy_shape (cmd : Nat) (op : MidOp) (s : State) :
    ∃ busy' regs', midBusy cmd op s = { s with busy := busy', regs := regs' } := by
  exact ⟨_, _, rfl⟩


theorem countLines_shape (o a n : Nat) (s : State) :
    ∃ regs', countLines o a n s = { s with regs := regs' } := by
  obtain ⟨_, h⟩ := bump_shape (.hbm (hbmDie a) (stkCtl s (hbmDie a) (hbmStk a))) o (sectorsOf a n).length s
  exact ⟨_, h⟩

@[simp] theorem countLines_code (o a n s) : (countLines o a n s).code = s.code := by obtain ⟨_, h⟩ := countLines_shape o a n s; rw [h]
@[simp] theorem countLines_silicon (o a n s) : (countLines o a n s).silicon = s.silicon := by obtain ⟨_, h⟩ := countLines_shape o a n s; rw [h]
@[simp] theorem countLines_serial (o a n s) : (countLines o a n s).serial = s.serial := by obtain ⟨_, h⟩ := countLines_shape o a n s; rw [h]
@[simp] theorem countLines_mfg (o a n s) : (countLines o a n s).mfg = s.mfg := by obtain ⟨_, h⟩ := countLines_shape o a n s; rw [h]
@[simp] theorem countLines_run (o a n s) : (countLines o a n s).run = s.run := by obtain ⟨_, h⟩ := countLines_shape o a n s; rw [h]
@[simp] theorem countLines_stage (o a n s) : (countLines o a n s).stage = s.stage := by obtain ⟨_, h⟩ := countLines_shape o a n s; rw [h]
@[simp] theorem countLines_qEnd (o a n s) : (countLines o a n s).qEnd = s.qEnd := by obtain ⟨_, h⟩ := countLines_shape o a n s; rw [h]
@[simp] theorem countLines_testAt (o a n s) : (countLines o a n s).testAt = s.testAt := by obtain ⟨_, h⟩ := countLines_shape o a n s; rw [h]
@[simp] theorem countLines_loading (o a n s) : (countLines o a n s).loading = s.loading := by obtain ⟨_, h⟩ := countLines_shape o a n s; rw [h]
@[simp] theorem countLines_busy (o a n s) : (countLines o a n s).busy = s.busy := by obtain ⟨_, h⟩ := countLines_shape o a n s; rw [h]
@[simp] theorem countLines_noArray (o a n s) : (countLines o a n s).noArray = s.noArray := by obtain ⟨_, h⟩ := countLines_shape o a n s; rw [h]
@[simp] theorem countLines_stuck (o a n s) : (countLines o a n s).stuck = s.stuck := by obtain ⟨_, h⟩ := countLines_shape o a n s; rw [h]
@[simp] theorem countLines_tripLatched (o a n s) : (countLines o a n s).tripLatched = s.tripLatched := by obtain ⟨_, h⟩ := countLines_shape o a n s; rw [h]
@[simp] theorem countLines_tripAt (o a n s) : (countLines o a n s).tripAt = s.tripAt := by obtain ⟨_, h⟩ := countLines_shape o a n s; rw [h]
@[simp] theorem countLines_now (o a n s) : (countLines o a n s).now = s.now := by obtain ⟨_, h⟩ := countLines_shape o a n s; rw [h]
@[simp] theorem countLines_bankA (o a n s) : (countLines o a n s).bankA = s.bankA := by obtain ⟨_, h⟩ := countLines_shape o a n s; rw [h]
@[simp] theorem countLines_bankB (o a n s) : (countLines o a n s).bankB = s.bankB := by obtain ⟨_, h⟩ := countLines_shape o a n s; rw [h]
@[simp] theorem countLines_activeB (o a n s) : (countLines o a n s).activeB = s.activeB := by obtain ⟨_, h⟩ := countLines_shape o a n s; rw [h]
@[simp] theorem countLines_ver (o a n s) : (countLines o a n s).ver = s.ver := by obtain ⟨_, h⟩ := countLines_shape o a n s; rw [h]
@[simp] theorem countLines_stepBank (o a n s) : (countLines o a n s).stepBank = s.stepBank := by obtain ⟨_, h⟩ := countLines_shape o a n s; rw [h]
@[simp] theorem countLines_pendCfg (o a n s) : (countLines o a n s).pendCfg = s.pendCfg := by obtain ⟨_, h⟩ := countLines_shape o a n s; rw [h]
@[simp] theorem countLines_touched (o a n s) : (countLines o a n s).touched = s.touched := by obtain ⟨_, h⟩ := countLines_shape o a n s; rw [h]
@[simp] theorem countLines_rdLatch (o a n s) : (countLines o a n s).rdLatch = s.rdLatch := by obtain ⟨_, h⟩ := countLines_shape o a n s; rw [h]
@[simp] theorem countLines_wrHeld (o a n s) : (countLines o a n s).wrHeld = s.wrHeld := by obtain ⟨_, h⟩ := countLines_shape o a n s; rw [h]
@[simp] theorem countLines_viewLatch (o a n s) : (countLines o a n s).viewLatch = s.viewLatch := by obtain ⟨_, h⟩ := countLines_shape o a n s; rw [h]
@[simp] theorem countLines_srst (o a n s) : (countLines o a n s).srst = s.srst := by obtain ⟨_, h⟩ := countLines_shape o a n s; rw [h]
@[simp] theorem countLines_armed (o a n s) : (countLines o a n s).armed = s.armed := by obtain ⟨_, h⟩ := countLines_shape o a n s; rw [h]
@[simp] theorem countLines_isSealed (o a n s) : (countLines o a n s).isSealed = s.isSealed := by obtain ⟨_, h⟩ := countLines_shape o a n s; rw [h]
@[simp] theorem countLines_level (o a n s) : (countLines o a n s).level = s.level := by obtain ⟨_, h⟩ := countLines_shape o a n s; rw [h]
@[simp] theorem countLines_refusal (o a n s) : (countLines o a n s).refusal = s.refusal := by obtain ⟨_, h⟩ := countLines_shape o a n s; rw [h]
@[simp] theorem countLines_scrub (o a n s) : (countLines o a n s).scrub = s.scrub := by obtain ⟨_, h⟩ := countLines_shape o a n s; rw [h]
@[simp] theorem countLines_scrubFor (o a n s) : (countLines o a n s).scrubFor = s.scrubFor := by obtain ⟨_, h⟩ := countLines_shape o a n s; rw [h]
@[simp] theorem countLines_spdm (o a n s) : (countLines o a n s).spdm = s.spdm := by obtain ⟨_, h⟩ := countLines_shape o a n s; rw [h]
@[simp] theorem countLines_ide (o a n s) : (countLines o a n s).ide = s.ide := by obtain ⟨_, h⟩ := countLines_shape o a n s; rw [h]
@[simp] theorem countLines_hbmKey (o a n s) : (countLines o a n s).hbmKey = s.hbmKey := by obtain ⟨_, h⟩ := countLines_shape o a n s; rw [h]
@[simp] theorem countLines_cipher (o a n s) : (countLines o a n s).cipher = s.cipher := by obtain ⟨_, h⟩ := countLines_shape o a n s; rw [h]
@[simp] theorem countLines_linkKeys (o a n s) : (countLines o a n s).linkKeys = s.linkKeys := by obtain ⟨_, h⟩ := countLines_shape o a n s; rw [h]
@[simp] theorem countLines_sram (o a n s) : (countLines o a n s).sram = s.sram := by obtain ⟨_, h⟩ := countLines_shape o a n s; rw [h]
@[simp] theorem countLines_winOpen (o a n s) : (countLines o a n s).winOpen = s.winOpen := by obtain ⟨_, h⟩ := countLines_shape o a n s; rw [h]
@[simp] theorem countLines_mgmtUp (o a n s) : (countLines o a n s).mgmtUp = s.mgmtUp := by obtain ⟨_, h⟩ := countLines_shape o a n s; rw [h]
@[simp] theorem countLines_mgmtHash (o a n s) : (countLines o a n s).mgmtHash = s.mgmtHash := by obtain ⟨_, h⟩ := countLines_shape o a n s; rw [h]
@[simp] theorem countLines_kick0 (o a n s) : (countLines o a n s).kick0 = s.kick0 := by obtain ⟨_, h⟩ := countLines_shape o a n s; rw [h]
@[simp] theorem countLines_kick1 (o a n s) : (countLines o a n s).kick1 = s.kick1 := by obtain ⟨_, h⟩ := countLines_shape o a n s; rw [h]
@[simp] theorem countLines_env (o a n s) : (countLines o a n s).env = s.env := by obtain ⟨_, h⟩ := countLines_shape o a n s; rw [h]
@[simp] theorem countLines_host (o a n s) : (countLines o a n s).host = s.host := by obtain ⟨_, h⟩ := countLines_shape o a n s; rw [h]
@[simp] theorem countLines_jtag (o a n s) : (countLines o a n s).jtag = s.jtag := by obtain ⟨_, h⟩ := countLines_shape o a n s; rw [h]
@[simp] theorem countLines_prtHeld (o a n s) : (countLines o a n s).prtHeld = s.prtHeld := by obtain ⟨_, h⟩ := countLines_shape o a n s; rw [h]
@[simp] theorem countLines_evc (o a n s) : (countLines o a n s).evc = s.evc := by obtain ⟨_, h⟩ := countLines_shape o a n s; rw [h]
@[simp] theorem countLines_cages (o a n s) : (countLines o a n s).cages = s.cages := by obtain ⟨_, h⟩ := countLines_shape o a n s; rw [h]
@[simp] theorem countLines_fields (o a n s) : (countLines o a n s).fields = s.fields := by obtain ⟨_, h⟩ := countLines_shape o a n s; rw [h]
@[simp] theorem countLines_fcmdBusy (o a n s) : (countLines o a n s).fcmdBusy = s.fcmdBusy := by obtain ⟨_, h⟩ := countLines_shape o a n s; rw [h]
@[simp] theorem countLines_overTemp (o a n s) : (countLines o a n s).overTemp = s.overTemp := by obtain ⟨_, h⟩ := countLines_shape o a n s; rw [h]
@[simp] theorem countLines_warned (o a n s) : (countLines o a n s).warned = s.warned := by obtain ⟨_, h⟩ := countLines_shape o a n s; rw [h]
@[simp] theorem countLines_inletHigh (o a n s) : (countLines o a n s).inletHigh = s.inletHigh := by obtain ⟨_, h⟩ := countLines_shape o a n s; rw [h]
@[simp] theorem countLines_hot (o a n s) : (countLines o a n s).hot = s.hot := by obtain ⟨_, h⟩ := countLines_shape o a n s; rw [h]
@[simp] theorem countLines_over95 (o a n s) : (countLines o a n s).over95 = s.over95 := by obtain ⟨_, h⟩ := countLines_shape o a n s; rw [h]
@[simp] theorem countLines_vminHalf (o a n s) : (countLines o a n s).vminHalf = s.vminHalf := by obtain ⟨_, h⟩ := countLines_shape o a n s; rw [h]
@[simp] theorem countLines_railLost (o a n s) : (countLines o a n s).railLost = s.railLost := by obtain ⟨_, h⟩ := countLines_shape o a n s; rw [h]
@[simp] theorem countLines_hdq (o a n s) : (countLines o a n s).hdq = s.hdq := by obtain ⟨_, h⟩ := countLines_shape o a n s; rw [h]
@[simp] theorem countLines_image (o a n s) : (countLines o a n s).image = s.image := by obtain ⟨_, h⟩ := countLines_shape o a n s; rw [h]
@[simp] theorem countLines_place (o a n s) : (countLines o a n s).place = s.place := by obtain ⟨_, h⟩ := countLines_shape o a n s; rw [h]
@[simp] theorem countLines_geo (o a n s) : (countLines o a n s).geo = s.geo := by obtain ⟨_, h⟩ := countLines_shape o a n s; rw [h]
@[simp] theorem countLines_keySeed (o a n s) : (countLines o a n s).keySeed = s.keySeed := by obtain ⟨_, h⟩ := countLines_shape o a n s; rw [h]
@[simp] theorem countLines_keyJob (o a n s) : (countLines o a n s).keyJob = s.keyJob := by obtain ⟨_, h⟩ := countLines_shape o a n s; rw [h]
@[simp] theorem countLines_priorSus (o a n s) : (countLines o a n s).priorSus = s.priorSus := by obtain ⟨_, h⟩ := countLines_shape o a n s; rw [h]
@[simp] theorem countLines_clk (o a n s) : (countLines o a n s).clk = s.clk := by obtain ⟨_, h⟩ := countLines_shape o a n s; rw [h]
@[simp] theorem countLines_tiles (o a n s) : (countLines o a n s).tiles = s.tiles := by obtain ⟨_, h⟩ := countLines_shape o a n s; rw [h]
@[simp] theorem countLines_offTiles (o a n s) : (countLines o a n s).offTiles = s.offTiles := by obtain ⟨_, h⟩ := countLines_shape o a n s; rw [h]
@[simp] theorem countLines_asq (o a n s) : (countLines o a n s).asq = s.asq := by obtain ⟨_, h⟩ := countLines_shape o a n s; rw [h]
@[simp] theorem countLines_hbm (o a n s) : (countLines o a n s).hbm = s.hbm := by obtain ⟨_, h⟩ := countLines_shape o a n s; rw [h]
@[simp] theorem countLines_poison (o a n s) : (countLines o a n s).poison = s.poison := by obtain ⟨_, h⟩ := countLines_shape o a n s; rw [h]
@[simp] theorem countLines_flaws (o a n s) : (countLines o a n s).flaws = s.flaws := by obtain ⟨_, h⟩ := countLines_shape o a n s; rw [h]
@[simp] theorem countLines_hbmFailed (o a n s) : (countLines o a n s).hbmFailed = s.hbmFailed := by obtain ⟨_, h⟩ := countLines_shape o a n s; rw [h]
@[simp] theorem countLines_dies (o a n s) : (countLines o a n s).dies = s.dies := by obtain ⟨_, h⟩ := countLines_shape o a n s; rw [h]
@[simp] theorem countLines_ring (o a n s) : (countLines o a n s).ring = s.ring := by obtain ⟨_, h⟩ := countLines_shape o a n s; rw [h]
@[simp] theorem countLines_ledger (o a n s) : (countLines o a n s).ledger = s.ledger := by obtain ⟨_, h⟩ := countLines_shape o a n s; rw [h]
@[simp] theorem countLines_iseq (o a n s) : (countLines o a n s).iseq = s.iseq := by obtain ⟨_, h⟩ := countLines_shape o a n s; rw [h]
@[simp] theorem countLines_stepItems (o a n s) : (countLines o a n s).stepItems = s.stepItems := by obtain ⟨_, h⟩ := countLines_shape o a n s; rw [h]
@[simp] theorem countLines_aheadItems (o a n s) : (countLines o a n s).aheadItems = s.aheadItems := by obtain ⟨_, h⟩ := countLines_shape o a n s; rw [h]
@[simp] theorem countLines_stepLost (o a n s) : (countLines o a n s).stepLost = s.stepLost := by obtain ⟨_, h⟩ := countLines_shape o a n s; rw [h]
@[simp] theorem countLines_lostFirst (o a n s) : (countLines o a n s).lostFirst = s.lostFirst := by obtain ⟨_, h⟩ := countLines_shape o a n s; rw [h]
@[simp] theorem countLines_lostN (o a n s) : (countLines o a n s).lostN = s.lostN := by obtain ⟨_, h⟩ := countLines_shape o a n s; rw [h]
@[simp] theorem countLines_state3 (o a n s) : (countLines o a n s).state3 = s.state3 := by obtain ⟨_, h⟩ := countLines_shape o a n s; rw [h]
@[simp] theorem countLines_rdc (o a n s) : (countLines o a n s).rdc = s.rdc := by obtain ⟨_, h⟩ := countLines_shape o a n s; rw [h]
@[simp] theorem countLines_links (o a n s) : (countLines o a n s).links = s.links := by obtain ⟨_, h⟩ := countLines_shape o a n s; rw [h]
@[simp] theorem countLines_peers (o a n s) : (countLines o a n s).peers = s.peers := by obtain ⟨_, h⟩ := countLines_shape o a n s; rw [h]
@[simp] theorem countLines_stageSt (o a n s) : (countLines o a n s).stageSt = s.stageSt := by obtain ⟨_, h⟩ := countLines_shape o a n s; rw [h]
@[simp] theorem countLines_tsynced (o a n s) : (countLines o a n s).tsynced = s.tsynced := by obtain ⟨_, h⟩ := countLines_shape o a n s; rw [h]
@[simp] theorem countLines_slew (o a n s) : (countLines o a n s).slew = s.slew := by obtain ⟨_, h⟩ := countLines_shape o a n s; rw [h]
@[simp] theorem countLines_out (o a n s) : (countLines o a n s).out = s.out := by obtain ⟨_, h⟩ := countLines_shape o a n s; rw [h]
@[simp] theorem countLines_fc (o a n s) : (countLines o a n s).fc = s.fc := by obtain ⟨_, h⟩ := countLines_shape o a n s; rw [h]
@[simp] theorem countLines_pending (o a n s) : (countLines o a n s).pending = s.pending := by obtain ⟨_, h⟩ := countLines_shape o a n s; rw [h]

theorem putBytes_shape (a : Nat) (bs : List Byte) (s : State) :
    ∃ hbm' cipher', putBytes a bs s = { s with hbm := hbm', cipher := cipher' } := by
  unfold putBytes
  split <;> exact ⟨_, _, rfl⟩


theorem hbmWrite_shape (a : Nat) (bs : List Byte) (s : State) :
    ∃ regs' hbm' poison' cipher', hbmWrite a bs s = { s with regs := regs', hbm := hbm', poison := poison', cipher := cipher' } := by
  unfold hbmWrite
  dsimp only
  generalize (((sectorsOf a bs.length).filter _).foldl _ _ : SMap Bool) = m
  obtain ⟨_, _, e⟩ := putBytes_shape a bs { s with poison := m }
  obtain ⟨_, h⟩ := countLines_shape 0x068 a bs.length (putBytes a bs { s with poison := m })
  rw [e] at h
  rw [e, h]
  exact ⟨_, _, _, _, rfl⟩

@[simp] theorem hbmWrite_code (a bs s) : (hbmWrite a bs s).code = s.code := by obtain ⟨_, _, _, _, h⟩ := hbmWrite_shape a bs s; rw [h]
@[simp] theorem hbmWrite_silicon (a bs s) : (hbmWrite a bs s).silicon = s.silicon := by obtain ⟨_, _, _, _, h⟩ := hbmWrite_shape a bs s; rw [h]
@[simp] theorem hbmWrite_serial (a bs s) : (hbmWrite a bs s).serial = s.serial := by obtain ⟨_, _, _, _, h⟩ := hbmWrite_shape a bs s; rw [h]
@[simp] theorem hbmWrite_mfg (a bs s) : (hbmWrite a bs s).mfg = s.mfg := by obtain ⟨_, _, _, _, h⟩ := hbmWrite_shape a bs s; rw [h]
@[simp] theorem hbmWrite_run (a bs s) : (hbmWrite a bs s).run = s.run := by obtain ⟨_, _, _, _, h⟩ := hbmWrite_shape a bs s; rw [h]
@[simp] theorem hbmWrite_stage (a bs s) : (hbmWrite a bs s).stage = s.stage := by obtain ⟨_, _, _, _, h⟩ := hbmWrite_shape a bs s; rw [h]
@[simp] theorem hbmWrite_qEnd (a bs s) : (hbmWrite a bs s).qEnd = s.qEnd := by obtain ⟨_, _, _, _, h⟩ := hbmWrite_shape a bs s; rw [h]
@[simp] theorem hbmWrite_testAt (a bs s) : (hbmWrite a bs s).testAt = s.testAt := by obtain ⟨_, _, _, _, h⟩ := hbmWrite_shape a bs s; rw [h]
@[simp] theorem hbmWrite_loading (a bs s) : (hbmWrite a bs s).loading = s.loading := by obtain ⟨_, _, _, _, h⟩ := hbmWrite_shape a bs s; rw [h]
@[simp] theorem hbmWrite_busy (a bs s) : (hbmWrite a bs s).busy = s.busy := by obtain ⟨_, _, _, _, h⟩ := hbmWrite_shape a bs s; rw [h]
@[simp] theorem hbmWrite_noArray (a bs s) : (hbmWrite a bs s).noArray = s.noArray := by obtain ⟨_, _, _, _, h⟩ := hbmWrite_shape a bs s; rw [h]
@[simp] theorem hbmWrite_stuck (a bs s) : (hbmWrite a bs s).stuck = s.stuck := by obtain ⟨_, _, _, _, h⟩ := hbmWrite_shape a bs s; rw [h]
@[simp] theorem hbmWrite_tripLatched (a bs s) : (hbmWrite a bs s).tripLatched = s.tripLatched := by obtain ⟨_, _, _, _, h⟩ := hbmWrite_shape a bs s; rw [h]
@[simp] theorem hbmWrite_tripAt (a bs s) : (hbmWrite a bs s).tripAt = s.tripAt := by obtain ⟨_, _, _, _, h⟩ := hbmWrite_shape a bs s; rw [h]
@[simp] theorem hbmWrite_now (a bs s) : (hbmWrite a bs s).now = s.now := by obtain ⟨_, _, _, _, h⟩ := hbmWrite_shape a bs s; rw [h]
@[simp] theorem hbmWrite_bankA (a bs s) : (hbmWrite a bs s).bankA = s.bankA := by obtain ⟨_, _, _, _, h⟩ := hbmWrite_shape a bs s; rw [h]
@[simp] theorem hbmWrite_bankB (a bs s) : (hbmWrite a bs s).bankB = s.bankB := by obtain ⟨_, _, _, _, h⟩ := hbmWrite_shape a bs s; rw [h]
@[simp] theorem hbmWrite_activeB (a bs s) : (hbmWrite a bs s).activeB = s.activeB := by obtain ⟨_, _, _, _, h⟩ := hbmWrite_shape a bs s; rw [h]
@[simp] theorem hbmWrite_ver (a bs s) : (hbmWrite a bs s).ver = s.ver := by obtain ⟨_, _, _, _, h⟩ := hbmWrite_shape a bs s; rw [h]
@[simp] theorem hbmWrite_stepBank (a bs s) : (hbmWrite a bs s).stepBank = s.stepBank := by obtain ⟨_, _, _, _, h⟩ := hbmWrite_shape a bs s; rw [h]
@[simp] theorem hbmWrite_pendCfg (a bs s) : (hbmWrite a bs s).pendCfg = s.pendCfg := by obtain ⟨_, _, _, _, h⟩ := hbmWrite_shape a bs s; rw [h]
@[simp] theorem hbmWrite_touched (a bs s) : (hbmWrite a bs s).touched = s.touched := by obtain ⟨_, _, _, _, h⟩ := hbmWrite_shape a bs s; rw [h]
@[simp] theorem hbmWrite_rdLatch (a bs s) : (hbmWrite a bs s).rdLatch = s.rdLatch := by obtain ⟨_, _, _, _, h⟩ := hbmWrite_shape a bs s; rw [h]
@[simp] theorem hbmWrite_wrHeld (a bs s) : (hbmWrite a bs s).wrHeld = s.wrHeld := by obtain ⟨_, _, _, _, h⟩ := hbmWrite_shape a bs s; rw [h]
@[simp] theorem hbmWrite_viewLatch (a bs s) : (hbmWrite a bs s).viewLatch = s.viewLatch := by obtain ⟨_, _, _, _, h⟩ := hbmWrite_shape a bs s; rw [h]
@[simp] theorem hbmWrite_srst (a bs s) : (hbmWrite a bs s).srst = s.srst := by obtain ⟨_, _, _, _, h⟩ := hbmWrite_shape a bs s; rw [h]
@[simp] theorem hbmWrite_armed (a bs s) : (hbmWrite a bs s).armed = s.armed := by obtain ⟨_, _, _, _, h⟩ := hbmWrite_shape a bs s; rw [h]
@[simp] theorem hbmWrite_isSealed (a bs s) : (hbmWrite a bs s).isSealed = s.isSealed := by obtain ⟨_, _, _, _, h⟩ := hbmWrite_shape a bs s; rw [h]
@[simp] theorem hbmWrite_level (a bs s) : (hbmWrite a bs s).level = s.level := by obtain ⟨_, _, _, _, h⟩ := hbmWrite_shape a bs s; rw [h]
@[simp] theorem hbmWrite_refusal (a bs s) : (hbmWrite a bs s).refusal = s.refusal := by obtain ⟨_, _, _, _, h⟩ := hbmWrite_shape a bs s; rw [h]
@[simp] theorem hbmWrite_scrub (a bs s) : (hbmWrite a bs s).scrub = s.scrub := by obtain ⟨_, _, _, _, h⟩ := hbmWrite_shape a bs s; rw [h]
@[simp] theorem hbmWrite_scrubFor (a bs s) : (hbmWrite a bs s).scrubFor = s.scrubFor := by obtain ⟨_, _, _, _, h⟩ := hbmWrite_shape a bs s; rw [h]
@[simp] theorem hbmWrite_spdm (a bs s) : (hbmWrite a bs s).spdm = s.spdm := by obtain ⟨_, _, _, _, h⟩ := hbmWrite_shape a bs s; rw [h]
@[simp] theorem hbmWrite_ide (a bs s) : (hbmWrite a bs s).ide = s.ide := by obtain ⟨_, _, _, _, h⟩ := hbmWrite_shape a bs s; rw [h]
@[simp] theorem hbmWrite_hbmKey (a bs s) : (hbmWrite a bs s).hbmKey = s.hbmKey := by obtain ⟨_, _, _, _, h⟩ := hbmWrite_shape a bs s; rw [h]
@[simp] theorem hbmWrite_linkKeys (a bs s) : (hbmWrite a bs s).linkKeys = s.linkKeys := by obtain ⟨_, _, _, _, h⟩ := hbmWrite_shape a bs s; rw [h]
@[simp] theorem hbmWrite_sram (a bs s) : (hbmWrite a bs s).sram = s.sram := by obtain ⟨_, _, _, _, h⟩ := hbmWrite_shape a bs s; rw [h]
@[simp] theorem hbmWrite_winOpen (a bs s) : (hbmWrite a bs s).winOpen = s.winOpen := by obtain ⟨_, _, _, _, h⟩ := hbmWrite_shape a bs s; rw [h]
@[simp] theorem hbmWrite_mgmtUp (a bs s) : (hbmWrite a bs s).mgmtUp = s.mgmtUp := by obtain ⟨_, _, _, _, h⟩ := hbmWrite_shape a bs s; rw [h]
@[simp] theorem hbmWrite_mgmtHash (a bs s) : (hbmWrite a bs s).mgmtHash = s.mgmtHash := by obtain ⟨_, _, _, _, h⟩ := hbmWrite_shape a bs s; rw [h]
@[simp] theorem hbmWrite_kick0 (a bs s) : (hbmWrite a bs s).kick0 = s.kick0 := by obtain ⟨_, _, _, _, h⟩ := hbmWrite_shape a bs s; rw [h]
@[simp] theorem hbmWrite_kick1 (a bs s) : (hbmWrite a bs s).kick1 = s.kick1 := by obtain ⟨_, _, _, _, h⟩ := hbmWrite_shape a bs s; rw [h]
@[simp] theorem hbmWrite_env (a bs s) : (hbmWrite a bs s).env = s.env := by obtain ⟨_, _, _, _, h⟩ := hbmWrite_shape a bs s; rw [h]
@[simp] theorem hbmWrite_host (a bs s) : (hbmWrite a bs s).host = s.host := by obtain ⟨_, _, _, _, h⟩ := hbmWrite_shape a bs s; rw [h]
@[simp] theorem hbmWrite_jtag (a bs s) : (hbmWrite a bs s).jtag = s.jtag := by obtain ⟨_, _, _, _, h⟩ := hbmWrite_shape a bs s; rw [h]
@[simp] theorem hbmWrite_prtHeld (a bs s) : (hbmWrite a bs s).prtHeld = s.prtHeld := by obtain ⟨_, _, _, _, h⟩ := hbmWrite_shape a bs s; rw [h]
@[simp] theorem hbmWrite_evc (a bs s) : (hbmWrite a bs s).evc = s.evc := by obtain ⟨_, _, _, _, h⟩ := hbmWrite_shape a bs s; rw [h]
@[simp] theorem hbmWrite_cages (a bs s) : (hbmWrite a bs s).cages = s.cages := by obtain ⟨_, _, _, _, h⟩ := hbmWrite_shape a bs s; rw [h]
@[simp] theorem hbmWrite_fields (a bs s) : (hbmWrite a bs s).fields = s.fields := by obtain ⟨_, _, _, _, h⟩ := hbmWrite_shape a bs s; rw [h]
@[simp] theorem hbmWrite_fcmdBusy (a bs s) : (hbmWrite a bs s).fcmdBusy = s.fcmdBusy := by obtain ⟨_, _, _, _, h⟩ := hbmWrite_shape a bs s; rw [h]
@[simp] theorem hbmWrite_overTemp (a bs s) : (hbmWrite a bs s).overTemp = s.overTemp := by obtain ⟨_, _, _, _, h⟩ := hbmWrite_shape a bs s; rw [h]
@[simp] theorem hbmWrite_warned (a bs s) : (hbmWrite a bs s).warned = s.warned := by obtain ⟨_, _, _, _, h⟩ := hbmWrite_shape a bs s; rw [h]
@[simp] theorem hbmWrite_inletHigh (a bs s) : (hbmWrite a bs s).inletHigh = s.inletHigh := by obtain ⟨_, _, _, _, h⟩ := hbmWrite_shape a bs s; rw [h]
@[simp] theorem hbmWrite_hot (a bs s) : (hbmWrite a bs s).hot = s.hot := by obtain ⟨_, _, _, _, h⟩ := hbmWrite_shape a bs s; rw [h]
@[simp] theorem hbmWrite_over95 (a bs s) : (hbmWrite a bs s).over95 = s.over95 := by obtain ⟨_, _, _, _, h⟩ := hbmWrite_shape a bs s; rw [h]
@[simp] theorem hbmWrite_vminHalf (a bs s) : (hbmWrite a bs s).vminHalf = s.vminHalf := by obtain ⟨_, _, _, _, h⟩ := hbmWrite_shape a bs s; rw [h]
@[simp] theorem hbmWrite_railLost (a bs s) : (hbmWrite a bs s).railLost = s.railLost := by obtain ⟨_, _, _, _, h⟩ := hbmWrite_shape a bs s; rw [h]
@[simp] theorem hbmWrite_hdq (a bs s) : (hbmWrite a bs s).hdq = s.hdq := by obtain ⟨_, _, _, _, h⟩ := hbmWrite_shape a bs s; rw [h]
@[simp] theorem hbmWrite_image (a bs s) : (hbmWrite a bs s).image = s.image := by obtain ⟨_, _, _, _, h⟩ := hbmWrite_shape a bs s; rw [h]
@[simp] theorem hbmWrite_place (a bs s) : (hbmWrite a bs s).place = s.place := by obtain ⟨_, _, _, _, h⟩ := hbmWrite_shape a bs s; rw [h]
@[simp] theorem hbmWrite_geo (a bs s) : (hbmWrite a bs s).geo = s.geo := by obtain ⟨_, _, _, _, h⟩ := hbmWrite_shape a bs s; rw [h]
@[simp] theorem hbmWrite_keySeed (a bs s) : (hbmWrite a bs s).keySeed = s.keySeed := by obtain ⟨_, _, _, _, h⟩ := hbmWrite_shape a bs s; rw [h]
@[simp] theorem hbmWrite_keyJob (a bs s) : (hbmWrite a bs s).keyJob = s.keyJob := by obtain ⟨_, _, _, _, h⟩ := hbmWrite_shape a bs s; rw [h]
@[simp] theorem hbmWrite_priorSus (a bs s) : (hbmWrite a bs s).priorSus = s.priorSus := by obtain ⟨_, _, _, _, h⟩ := hbmWrite_shape a bs s; rw [h]
@[simp] theorem hbmWrite_clk (a bs s) : (hbmWrite a bs s).clk = s.clk := by obtain ⟨_, _, _, _, h⟩ := hbmWrite_shape a bs s; rw [h]
@[simp] theorem hbmWrite_tiles (a bs s) : (hbmWrite a bs s).tiles = s.tiles := by obtain ⟨_, _, _, _, h⟩ := hbmWrite_shape a bs s; rw [h]
@[simp] theorem hbmWrite_offTiles (a bs s) : (hbmWrite a bs s).offTiles = s.offTiles := by obtain ⟨_, _, _, _, h⟩ := hbmWrite_shape a bs s; rw [h]
@[simp] theorem hbmWrite_asq (a bs s) : (hbmWrite a bs s).asq = s.asq := by obtain ⟨_, _, _, _, h⟩ := hbmWrite_shape a bs s; rw [h]
@[simp] theorem hbmWrite_flaws (a bs s) : (hbmWrite a bs s).flaws = s.flaws := by obtain ⟨_, _, _, _, h⟩ := hbmWrite_shape a bs s; rw [h]
@[simp] theorem hbmWrite_hbmFailed (a bs s) : (hbmWrite a bs s).hbmFailed = s.hbmFailed := by obtain ⟨_, _, _, _, h⟩ := hbmWrite_shape a bs s; rw [h]
@[simp] theorem hbmWrite_dies (a bs s) : (hbmWrite a bs s).dies = s.dies := by obtain ⟨_, _, _, _, h⟩ := hbmWrite_shape a bs s; rw [h]
@[simp] theorem hbmWrite_ring (a bs s) : (hbmWrite a bs s).ring = s.ring := by obtain ⟨_, _, _, _, h⟩ := hbmWrite_shape a bs s; rw [h]
@[simp] theorem hbmWrite_ledger (a bs s) : (hbmWrite a bs s).ledger = s.ledger := by obtain ⟨_, _, _, _, h⟩ := hbmWrite_shape a bs s; rw [h]
@[simp] theorem hbmWrite_iseq (a bs s) : (hbmWrite a bs s).iseq = s.iseq := by obtain ⟨_, _, _, _, h⟩ := hbmWrite_shape a bs s; rw [h]
@[simp] theorem hbmWrite_stepItems (a bs s) : (hbmWrite a bs s).stepItems = s.stepItems := by obtain ⟨_, _, _, _, h⟩ := hbmWrite_shape a bs s; rw [h]
@[simp] theorem hbmWrite_aheadItems (a bs s) : (hbmWrite a bs s).aheadItems = s.aheadItems := by obtain ⟨_, _, _, _, h⟩ := hbmWrite_shape a bs s; rw [h]
@[simp] theorem hbmWrite_stepLost (a bs s) : (hbmWrite a bs s).stepLost = s.stepLost := by obtain ⟨_, _, _, _, h⟩ := hbmWrite_shape a bs s; rw [h]
@[simp] theorem hbmWrite_lostFirst (a bs s) : (hbmWrite a bs s).lostFirst = s.lostFirst := by obtain ⟨_, _, _, _, h⟩ := hbmWrite_shape a bs s; rw [h]
@[simp] theorem hbmWrite_lostN (a bs s) : (hbmWrite a bs s).lostN = s.lostN := by obtain ⟨_, _, _, _, h⟩ := hbmWrite_shape a bs s; rw [h]
@[simp] theorem hbmWrite_state3 (a bs s) : (hbmWrite a bs s).state3 = s.state3 := by obtain ⟨_, _, _, _, h⟩ := hbmWrite_shape a bs s; rw [h]
@[simp] theorem hbmWrite_rdc (a bs s) : (hbmWrite a bs s).rdc = s.rdc := by obtain ⟨_, _, _, _, h⟩ := hbmWrite_shape a bs s; rw [h]
@[simp] theorem hbmWrite_links (a bs s) : (hbmWrite a bs s).links = s.links := by obtain ⟨_, _, _, _, h⟩ := hbmWrite_shape a bs s; rw [h]
@[simp] theorem hbmWrite_peers (a bs s) : (hbmWrite a bs s).peers = s.peers := by obtain ⟨_, _, _, _, h⟩ := hbmWrite_shape a bs s; rw [h]
@[simp] theorem hbmWrite_stageSt (a bs s) : (hbmWrite a bs s).stageSt = s.stageSt := by obtain ⟨_, _, _, _, h⟩ := hbmWrite_shape a bs s; rw [h]
@[simp] theorem hbmWrite_tsynced (a bs s) : (hbmWrite a bs s).tsynced = s.tsynced := by obtain ⟨_, _, _, _, h⟩ := hbmWrite_shape a bs s; rw [h]
@[simp] theorem hbmWrite_slew (a bs s) : (hbmWrite a bs s).slew = s.slew := by obtain ⟨_, _, _, _, h⟩ := hbmWrite_shape a bs s; rw [h]
@[simp] theorem hbmWrite_out (a bs s) : (hbmWrite a bs s).out = s.out := by obtain ⟨_, _, _, _, h⟩ := hbmWrite_shape a bs s; rw [h]
@[simp] theorem hbmWrite_fc (a bs s) : (hbmWrite a bs s).fc = s.fc := by obtain ⟨_, _, _, _, h⟩ := hbmWrite_shape a bs s; rw [h]
@[simp] theorem hbmWrite_pending (a bs s) : (hbmWrite a bs s).pending = s.pending := by obtain ⟨_, _, _, _, h⟩ := hbmWrite_shape a bs s; rw [h]

theorem tileNetErr_shape (u v o : Nat) (s : State) :
    ∃ evc' regs' out' tiles', tileNetErr u v o s = { s with evc := evc', regs := regs', out := out', tiles := tiles' } := by
  obtain ⟨_, _, _, h⟩ := fire_shape 14 (setTile u v (tileBump s o (tile s u v)) s)
  exact ⟨_, _, _, _, h⟩


theorem setStaging_shape (key : Nat) (v : W32) (s : State) :
    ∃ bankA' bankB' touched', setStaging key v s = { s with bankA := bankA', bankB := bankB', touched := touched' } := by
  unfold setStaging
  split <;> exact ⟨_, _, _, rfl⟩

@[simp] theorem setStaging_code (key v s) : (setStaging key v s).code = s.code := by obtain ⟨_, _, _, h⟩ := setStaging_shape key v s; rw [h]
@[simp] theorem setStaging_silicon (key v s) : (setStaging key v s).silicon = s.silicon := by obtain ⟨_, _, _, h⟩ := setStaging_shape key v s; rw [h]
@[simp] theorem setStaging_serial (key v s) : (setStaging key v s).serial = s.serial := by obtain ⟨_, _, _, h⟩ := setStaging_shape key v s; rw [h]
@[simp] theorem setStaging_mfg (key v s) : (setStaging key v s).mfg = s.mfg := by obtain ⟨_, _, _, h⟩ := setStaging_shape key v s; rw [h]
@[simp] theorem setStaging_run (key v s) : (setStaging key v s).run = s.run := by obtain ⟨_, _, _, h⟩ := setStaging_shape key v s; rw [h]
@[simp] theorem setStaging_stage (key v s) : (setStaging key v s).stage = s.stage := by obtain ⟨_, _, _, h⟩ := setStaging_shape key v s; rw [h]
@[simp] theorem setStaging_qEnd (key v s) : (setStaging key v s).qEnd = s.qEnd := by obtain ⟨_, _, _, h⟩ := setStaging_shape key v s; rw [h]
@[simp] theorem setStaging_testAt (key v s) : (setStaging key v s).testAt = s.testAt := by obtain ⟨_, _, _, h⟩ := setStaging_shape key v s; rw [h]
@[simp] theorem setStaging_loading (key v s) : (setStaging key v s).loading = s.loading := by obtain ⟨_, _, _, h⟩ := setStaging_shape key v s; rw [h]
@[simp] theorem setStaging_busy (key v s) : (setStaging key v s).busy = s.busy := by obtain ⟨_, _, _, h⟩ := setStaging_shape key v s; rw [h]
@[simp] theorem setStaging_noArray (key v s) : (setStaging key v s).noArray = s.noArray := by obtain ⟨_, _, _, h⟩ := setStaging_shape key v s; rw [h]
@[simp] theorem setStaging_stuck (key v s) : (setStaging key v s).stuck = s.stuck := by obtain ⟨_, _, _, h⟩ := setStaging_shape key v s; rw [h]
@[simp] theorem setStaging_tripLatched (key v s) : (setStaging key v s).tripLatched = s.tripLatched := by obtain ⟨_, _, _, h⟩ := setStaging_shape key v s; rw [h]
@[simp] theorem setStaging_tripAt (key v s) : (setStaging key v s).tripAt = s.tripAt := by obtain ⟨_, _, _, h⟩ := setStaging_shape key v s; rw [h]
@[simp] theorem setStaging_now (key v s) : (setStaging key v s).now = s.now := by obtain ⟨_, _, _, h⟩ := setStaging_shape key v s; rw [h]
@[simp] theorem setStaging_regs (key v s) : (setStaging key v s).regs = s.regs := by obtain ⟨_, _, _, h⟩ := setStaging_shape key v s; rw [h]
@[simp] theorem setStaging_activeB (key v s) : (setStaging key v s).activeB = s.activeB := by obtain ⟨_, _, _, h⟩ := setStaging_shape key v s; rw [h]
@[simp] theorem setStaging_ver (key v s) : (setStaging key v s).ver = s.ver := by obtain ⟨_, _, _, h⟩ := setStaging_shape key v s; rw [h]
@[simp] theorem setStaging_stepBank (key v s) : (setStaging key v s).stepBank = s.stepBank := by obtain ⟨_, _, _, h⟩ := setStaging_shape key v s; rw [h]
@[simp] theorem setStaging_pendCfg (key v s) : (setStaging key v s).pendCfg = s.pendCfg := by obtain ⟨_, _, _, h⟩ := setStaging_shape key v s; rw [h]
@[simp] theorem setStaging_rdLatch (key v s) : (setStaging key v s).rdLatch = s.rdLatch := by obtain ⟨_, _, _, h⟩ := setStaging_shape key v s; rw [h]
@[simp] theorem setStaging_wrHeld (key v s) : (setStaging key v s).wrHeld = s.wrHeld := by obtain ⟨_, _, _, h⟩ := setStaging_shape key v s; rw [h]
@[simp] theorem setStaging_viewLatch (key v s) : (setStaging key v s).viewLatch = s.viewLatch := by obtain ⟨_, _, _, h⟩ := setStaging_shape key v s; rw [h]
@[simp] theorem setStaging_srst (key v s) : (setStaging key v s).srst = s.srst := by obtain ⟨_, _, _, h⟩ := setStaging_shape key v s; rw [h]
@[simp] theorem setStaging_armed (key v s) : (setStaging key v s).armed = s.armed := by obtain ⟨_, _, _, h⟩ := setStaging_shape key v s; rw [h]
@[simp] theorem setStaging_isSealed (key v s) : (setStaging key v s).isSealed = s.isSealed := by obtain ⟨_, _, _, h⟩ := setStaging_shape key v s; rw [h]
@[simp] theorem setStaging_level (key v s) : (setStaging key v s).level = s.level := by obtain ⟨_, _, _, h⟩ := setStaging_shape key v s; rw [h]
@[simp] theorem setStaging_refusal (key v s) : (setStaging key v s).refusal = s.refusal := by obtain ⟨_, _, _, h⟩ := setStaging_shape key v s; rw [h]
@[simp] theorem setStaging_scrub (key v s) : (setStaging key v s).scrub = s.scrub := by obtain ⟨_, _, _, h⟩ := setStaging_shape key v s; rw [h]
@[simp] theorem setStaging_scrubFor (key v s) : (setStaging key v s).scrubFor = s.scrubFor := by obtain ⟨_, _, _, h⟩ := setStaging_shape key v s; rw [h]
@[simp] theorem setStaging_spdm (key v s) : (setStaging key v s).spdm = s.spdm := by obtain ⟨_, _, _, h⟩ := setStaging_shape key v s; rw [h]
@[simp] theorem setStaging_ide (key v s) : (setStaging key v s).ide = s.ide := by obtain ⟨_, _, _, h⟩ := setStaging_shape key v s; rw [h]
@[simp] theorem setStaging_hbmKey (key v s) : (setStaging key v s).hbmKey = s.hbmKey := by obtain ⟨_, _, _, h⟩ := setStaging_shape key v s; rw [h]
@[simp] theorem setStaging_cipher (key v s) : (setStaging key v s).cipher = s.cipher := by obtain ⟨_, _, _, h⟩ := setStaging_shape key v s; rw [h]
@[simp] theorem setStaging_linkKeys (key v s) : (setStaging key v s).linkKeys = s.linkKeys := by obtain ⟨_, _, _, h⟩ := setStaging_shape key v s; rw [h]
@[simp] theorem setStaging_sram (key v s) : (setStaging key v s).sram = s.sram := by obtain ⟨_, _, _, h⟩ := setStaging_shape key v s; rw [h]
@[simp] theorem setStaging_winOpen (key v s) : (setStaging key v s).winOpen = s.winOpen := by obtain ⟨_, _, _, h⟩ := setStaging_shape key v s; rw [h]
@[simp] theorem setStaging_mgmtUp (key v s) : (setStaging key v s).mgmtUp = s.mgmtUp := by obtain ⟨_, _, _, h⟩ := setStaging_shape key v s; rw [h]
@[simp] theorem setStaging_mgmtHash (key v s) : (setStaging key v s).mgmtHash = s.mgmtHash := by obtain ⟨_, _, _, h⟩ := setStaging_shape key v s; rw [h]
@[simp] theorem setStaging_kick0 (key v s) : (setStaging key v s).kick0 = s.kick0 := by obtain ⟨_, _, _, h⟩ := setStaging_shape key v s; rw [h]
@[simp] theorem setStaging_kick1 (key v s) : (setStaging key v s).kick1 = s.kick1 := by obtain ⟨_, _, _, h⟩ := setStaging_shape key v s; rw [h]
@[simp] theorem setStaging_env (key v s) : (setStaging key v s).env = s.env := by obtain ⟨_, _, _, h⟩ := setStaging_shape key v s; rw [h]
@[simp] theorem setStaging_host (key v s) : (setStaging key v s).host = s.host := by obtain ⟨_, _, _, h⟩ := setStaging_shape key v s; rw [h]
@[simp] theorem setStaging_jtag (key v s) : (setStaging key v s).jtag = s.jtag := by obtain ⟨_, _, _, h⟩ := setStaging_shape key v s; rw [h]
@[simp] theorem setStaging_prtHeld (key v s) : (setStaging key v s).prtHeld = s.prtHeld := by obtain ⟨_, _, _, h⟩ := setStaging_shape key v s; rw [h]
@[simp] theorem setStaging_evc (key v s) : (setStaging key v s).evc = s.evc := by obtain ⟨_, _, _, h⟩ := setStaging_shape key v s; rw [h]
@[simp] theorem setStaging_cages (key v s) : (setStaging key v s).cages = s.cages := by obtain ⟨_, _, _, h⟩ := setStaging_shape key v s; rw [h]
@[simp] theorem setStaging_fields (key v s) : (setStaging key v s).fields = s.fields := by obtain ⟨_, _, _, h⟩ := setStaging_shape key v s; rw [h]
@[simp] theorem setStaging_fcmdBusy (key v s) : (setStaging key v s).fcmdBusy = s.fcmdBusy := by obtain ⟨_, _, _, h⟩ := setStaging_shape key v s; rw [h]
@[simp] theorem setStaging_overTemp (key v s) : (setStaging key v s).overTemp = s.overTemp := by obtain ⟨_, _, _, h⟩ := setStaging_shape key v s; rw [h]
@[simp] theorem setStaging_warned (key v s) : (setStaging key v s).warned = s.warned := by obtain ⟨_, _, _, h⟩ := setStaging_shape key v s; rw [h]
@[simp] theorem setStaging_inletHigh (key v s) : (setStaging key v s).inletHigh = s.inletHigh := by obtain ⟨_, _, _, h⟩ := setStaging_shape key v s; rw [h]
@[simp] theorem setStaging_hot (key v s) : (setStaging key v s).hot = s.hot := by obtain ⟨_, _, _, h⟩ := setStaging_shape key v s; rw [h]
@[simp] theorem setStaging_over95 (key v s) : (setStaging key v s).over95 = s.over95 := by obtain ⟨_, _, _, h⟩ := setStaging_shape key v s; rw [h]
@[simp] theorem setStaging_vminHalf (key v s) : (setStaging key v s).vminHalf = s.vminHalf := by obtain ⟨_, _, _, h⟩ := setStaging_shape key v s; rw [h]
@[simp] theorem setStaging_railLost (key v s) : (setStaging key v s).railLost = s.railLost := by obtain ⟨_, _, _, h⟩ := setStaging_shape key v s; rw [h]
@[simp] theorem setStaging_hdq (key v s) : (setStaging key v s).hdq = s.hdq := by obtain ⟨_, _, _, h⟩ := setStaging_shape key v s; rw [h]
@[simp] theorem setStaging_image (key v s) : (setStaging key v s).image = s.image := by obtain ⟨_, _, _, h⟩ := setStaging_shape key v s; rw [h]
@[simp] theorem setStaging_place (key v s) : (setStaging key v s).place = s.place := by obtain ⟨_, _, _, h⟩ := setStaging_shape key v s; rw [h]
@[simp] theorem setStaging_geo (key v s) : (setStaging key v s).geo = s.geo := by obtain ⟨_, _, _, h⟩ := setStaging_shape key v s; rw [h]
@[simp] theorem setStaging_keySeed (key v s) : (setStaging key v s).keySeed = s.keySeed := by obtain ⟨_, _, _, h⟩ := setStaging_shape key v s; rw [h]
@[simp] theorem setStaging_keyJob (key v s) : (setStaging key v s).keyJob = s.keyJob := by obtain ⟨_, _, _, h⟩ := setStaging_shape key v s; rw [h]
@[simp] theorem setStaging_priorSus (key v s) : (setStaging key v s).priorSus = s.priorSus := by obtain ⟨_, _, _, h⟩ := setStaging_shape key v s; rw [h]
@[simp] theorem setStaging_clk (key v s) : (setStaging key v s).clk = s.clk := by obtain ⟨_, _, _, h⟩ := setStaging_shape key v s; rw [h]
@[simp] theorem setStaging_tiles (key v s) : (setStaging key v s).tiles = s.tiles := by obtain ⟨_, _, _, h⟩ := setStaging_shape key v s; rw [h]
@[simp] theorem setStaging_offTiles (key v s) : (setStaging key v s).offTiles = s.offTiles := by obtain ⟨_, _, _, h⟩ := setStaging_shape key v s; rw [h]
@[simp] theorem setStaging_asq (key v s) : (setStaging key v s).asq = s.asq := by obtain ⟨_, _, _, h⟩ := setStaging_shape key v s; rw [h]
@[simp] theorem setStaging_hbm (key v s) : (setStaging key v s).hbm = s.hbm := by obtain ⟨_, _, _, h⟩ := setStaging_shape key v s; rw [h]
@[simp] theorem setStaging_poison (key v s) : (setStaging key v s).poison = s.poison := by obtain ⟨_, _, _, h⟩ := setStaging_shape key v s; rw [h]
@[simp] theorem setStaging_flaws (key v s) : (setStaging key v s).flaws = s.flaws := by obtain ⟨_, _, _, h⟩ := setStaging_shape key v s; rw [h]
@[simp] theorem setStaging_hbmFailed (key v s) : (setStaging key v s).hbmFailed = s.hbmFailed := by obtain ⟨_, _, _, h⟩ := setStaging_shape key v s; rw [h]
@[simp] theorem setStaging_dies (key v s) : (setStaging key v s).dies = s.dies := by obtain ⟨_, _, _, h⟩ := setStaging_shape key v s; rw [h]
@[simp] theorem setStaging_ring (key v s) : (setStaging key v s).ring = s.ring := by obtain ⟨_, _, _, h⟩ := setStaging_shape key v s; rw [h]
@[simp] theorem setStaging_ledger (key v s) : (setStaging key v s).ledger = s.ledger := by obtain ⟨_, _, _, h⟩ := setStaging_shape key v s; rw [h]
@[simp] theorem setStaging_iseq (key v s) : (setStaging key v s).iseq = s.iseq := by obtain ⟨_, _, _, h⟩ := setStaging_shape key v s; rw [h]
@[simp] theorem setStaging_stepItems (key v s) : (setStaging key v s).stepItems = s.stepItems := by obtain ⟨_, _, _, h⟩ := setStaging_shape key v s; rw [h]
@[simp] theorem setStaging_aheadItems (key v s) : (setStaging key v s).aheadItems = s.aheadItems := by obtain ⟨_, _, _, h⟩ := setStaging_shape key v s; rw [h]
@[simp] theorem setStaging_stepLost (key v s) : (setStaging key v s).stepLost = s.stepLost := by obtain ⟨_, _, _, h⟩ := setStaging_shape key v s; rw [h]
@[simp] theorem setStaging_lostFirst (key v s) : (setStaging key v s).lostFirst = s.lostFirst := by obtain ⟨_, _, _, h⟩ := setStaging_shape key v s; rw [h]
@[simp] theorem setStaging_lostN (key v s) : (setStaging key v s).lostN = s.lostN := by obtain ⟨_, _, _, h⟩ := setStaging_shape key v s; rw [h]
@[simp] theorem setStaging_state3 (key v s) : (setStaging key v s).state3 = s.state3 := by obtain ⟨_, _, _, h⟩ := setStaging_shape key v s; rw [h]
@[simp] theorem setStaging_rdc (key v s) : (setStaging key v s).rdc = s.rdc := by obtain ⟨_, _, _, h⟩ := setStaging_shape key v s; rw [h]
@[simp] theorem setStaging_links (key v s) : (setStaging key v s).links = s.links := by obtain ⟨_, _, _, h⟩ := setStaging_shape key v s; rw [h]
@[simp] theorem setStaging_peers (key v s) : (setStaging key v s).peers = s.peers := by obtain ⟨_, _, _, h⟩ := setStaging_shape key v s; rw [h]
@[simp] theorem setStaging_stageSt (key v s) : (setStaging key v s).stageSt = s.stageSt := by obtain ⟨_, _, _, h⟩ := setStaging_shape key v s; rw [h]
@[simp] theorem setStaging_tsynced (key v s) : (setStaging key v s).tsynced = s.tsynced := by obtain ⟨_, _, _, h⟩ := setStaging_shape key v s; rw [h]
@[simp] theorem setStaging_slew (key v s) : (setStaging key v s).slew = s.slew := by obtain ⟨_, _, _, h⟩ := setStaging_shape key v s; rw [h]
@[simp] theorem setStaging_out (key v s) : (setStaging key v s).out = s.out := by obtain ⟨_, _, _, h⟩ := setStaging_shape key v s; rw [h]
@[simp] theorem setStaging_fc (key v s) : (setStaging key v s).fc = s.fc := by obtain ⟨_, _, _, h⟩ := setStaging_shape key v s; rw [h]
@[simp] theorem setStaging_pending (key v s) : (setStaging key v s).pending = s.pending := by obtain ⟨_, _, _, h⟩ := setStaging_shape key v s; rw [h]

/-! Reading back. -/

/-- A register after a register write. -/
theorem reg_setReg (pg pg' : Page) (o o' : Nat) (v : W32) (s : State) :
    reg (setReg pg o v s) pg' o' = if pageBase pg' + o' = pageBase pg + o then v else reg s pg' o' :=
  rget_rput _ _ _ _

@[simp] theorem reg_setReg_same (pg : Page) (o : Nat) (v : W32) (s : State) : reg (setReg pg o v s) pg o = v :=
  rget_rput_same _ _ _

/-- Another register of the same page. -/
theorem reg_setReg_off (pg : Page) {o o' : Nat} (v : W32) (s : State) (h : o' ≠ o) :
    reg (setReg pg o v s) pg o' = reg s pg o' := by
  rw [reg_setReg, if_neg (by omega)]

theorem reg_congr {s t : State} (h : t.regs = s.regs) (pg : Page) (o : Nat) : reg t pg o = reg s pg o := by
  unfold reg; rw [h]

@[simp] theorem tile_setTile_same (u v : Nat) (x : Tile) (s : State) : tile (setTile u v x s) u v = x :=
  mget_mput_same _ _

/-- Another tile; `u` and `u'` are coordinates of at most 255. -/
theorem tile_setTile_ne {u v u' v' : Nat} (x : Tile) (s : State) (h : tileKey u' v' ≠ tileKey u v) :
    tile (setTile u v x s) u' v' = tile s u' v' := mget_mput_ne _ h

@[simp] theorem dieSt_setDie_same (d : Die) (x : DieSt) (s : State) : dieSt (setDie d x s) d = x := mget_mput_same _ _
@[simp] theorem fieldSt_setField_same (f : Field) (x : FieldSt) (s : State) : fieldSt (setField f x s) f = x :=
  mget_mput_same _ _
@[simp] theorem linkSt_setLink_same (p : Die) (x : LinkSt) (s : State) : linkSt (setLink p x s) p = x :=
  mget_mput_same _ _

theorem dieSt_setDie_ne {d e : Die} (x : DieSt) (s : State) (h : e ≠ d) : dieSt (setDie d x s) e = dieSt s e :=
  mget_mput_ne _ fun k => h (Fin.ext k)
theorem fieldSt_setField_ne {f g : Field} (x : FieldSt) (s : State) (h : g ≠ f) :
    fieldSt (setField f x s) g = fieldSt s g := mget_mput_ne _ fun k => h (Fin.ext k)
theorem linkSt_setLink_ne {p q : Die} (x : LinkSt) (s : State) (h : q ≠ p) : linkSt (setLink p x s) q = linkSt s q :=
  mget_mput_ne _ fun k => h (Fin.ext k)

/-- A range that does not cover a byte stands not between it and a read. -/
theorem layerByte_off {m : SMap Byte} {c : Cipher} {l : List Cipher} {a : Nat} (h : ¬(c.lo ≤ a ∧ a < c.hi)) :
    layerByte m (c :: l) a = layerByte m l a := by
  rw [layerByte, if_neg (by simpa using h)]

theorem layerByte_on {m : SMap Byte} {c : Cipher} {l : List Cipher} {a : Nat} (h : c.lo ≤ a ∧ a < c.hi) :
    layerByte m (c :: l) a = (xtsBlock (!c.enc) c.key (a / 4096 * 4096) (a % 4096 / 16)
      ((List.range 16).map fun k => layerByte m l (a / 16 * 16 + k))).getD (a % 16) 0 := by
  rw [layerByte, if_pos (by simpa using h)]

/-- The pieces of a range outside [lo, hi) read there as the range did. -/
theorem layerByte_cut_out {m m' : SMap Byte} {lo hi : Nat} (h1 : lo % 16 = 0) (h2 : hi % 16 = 0) (h3 : lo ≤ hi)
    (hm : ∀ x, x < lo ∨ hi ≤ x → mget 0 m' x = mget 0 m x) :
    ∀ (l : List Cipher) (x : Nat), x < lo ∨ hi ≤ x → layerByte m' (l.flatMap (cutCipher lo hi)) x = layerByte m l x := by
  intro l
  induction l with
  | nil => intro x hx; exact hm x hx
  | cons c l ih =>
    intro x hx
    have blk : ∀ k ∈ List.range 16, x / 16 * 16 + k < lo ∨ hi ≤ x / 16 * 16 + k := by
      intro k hk; have := List.mem_range.mp hk; omega
    rw [List.flatMap_cons]
    obtain ⟨p, hp⟩ : ∃ p : Cipher, p = { c with hi := min c.hi lo } := ⟨_, rfl⟩
    obtain ⟨q, hq⟩ : ∃ q : Cipher, q = { c with lo := max c.lo hi } := ⟨_, rfl⟩
    have drop : ∀ (r : Cipher) (L : List Cipher) (y : Nat), ¬(r.lo ≤ y ∧ y < r.hi) →
        layerByte m' (([r].filter fun z => decide (z.lo < z.hi)) ++ L) y = layerByte m' L y := by
      intro r L y hy
      by_cases hr : r.lo < r.hi
      · rw [List.filter_cons_of_pos (by simpa using hr)]; exact layerByte_off hy
      · rw [List.filter_cons_of_neg (by simpa using hr)]; rfl
    have keep : ∀ (r : Cipher) (L : List Cipher) (y : Nat), (r.lo ≤ y ∧ y < r.hi) →
        ([r].filter fun z => decide (z.lo < z.hi)) ++ L = r :: L := by
      intro r L y hy
      rw [List.filter_cons_of_pos (by simp; omega)]; rfl
    have hc : cutCipher lo hi c = ([p].filter fun z => decide (z.lo < z.hi)) ++ ([q].filter fun z => decide (z.lo < z.hi)) := by
      rw [← List.filter_append, hp, hq]; rfl
    rw [hc, List.append_assoc]
    by_cases hcx : c.lo ≤ x ∧ x < c.hi
    · rw [layerByte_on hcx]
      by_cases hx1 : x < lo
      · have hpx : p.lo ≤ x ∧ x < p.hi := by subst hp; exact ⟨hcx.1, by simp; omega⟩
        rw [keep p _ x hpx, layerByte_on hpx]
        have : ∀ k ∈ List.range 16, layerByte m' ((([q].filter fun z => decide (z.lo < z.hi))) ++ l.flatMap (cutCipher lo hi)) (x / 16 * 16 + k)
            = layerByte m l (x / 16 * 16 + k) := by
          intro k hk
          have := List.mem_range.mp hk
          rw [drop q _ _ (by subst hq; simp; omega)]
          exact ih _ (blk k hk)
        rw [List.map_congr_left this]; subst hp; rfl
      · have hqx : q.lo ≤ x ∧ x < q.hi := by subst hq; exact ⟨by simp; omega, hcx.2⟩
        rw [drop p _ _ (by subst hp; simp; omega), keep q _ x hqx, layerByte_on hqx,
          List.map_congr_left fun k hk => ih _ (blk k hk)]; subst hq; rfl
    · rw [drop p _ _ (by subst hp; simp; omega), drop q _ _ (by subst hq; simp; omega), ih x hx, layerByte_off hcx]

/-- No piece covers what lies in between. -/
theorem layerByte_cut_in {m : SMap Byte} {lo hi x : Nat} (hx : lo ≤ x ∧ x < hi) :
    ∀ l : List Cipher, layerByte m (l.flatMap (cutCipher lo hi)) x = mget 0 m x := by
  intro l
  have off : ∀ r : List Cipher, (∀ c ∈ r, ¬(c.lo ≤ x ∧ x < c.hi)) → layerByte m r x = mget 0 m x := by
    intro r
    induction r with
    | nil => intro _; rfl
    | cons c r ih =>
      intro h
      rw [layerByte_off (h c (List.mem_cons_self ..)), ih fun d hd => h d (List.mem_cons_of_mem _ hd)]
  refine off _ fun c hc => ?_
  obtain ⟨d, _, hd⟩ := List.mem_flatMap.mp hc
  have := (List.mem_filter.mp hd).1
  simp only [List.mem_cons, List.not_mem_nil, or_false] at this
  rcases this with rfl | rfl <;> simp <;> omega

theorem hbmBytes_length (s : State) (a n : Nat) : (hbmBytes s a n).length = n := by
  unfold hbmBytes
  split
  · simp [mgets]
  · simp

theorem hbmBytes_get (s : State) (a n i : Nat) (h : i < (hbmBytes s a n).length) : (hbmBytes s a n)[i] = hbmByte s (a + i) := by
  unfold hbmBytes at h ⊢
  split
  · next hc =>
    have : s.cipher = [] := List.isEmpty_iff.mp hc
    simp [mgets, hbmByte, this, layerByte]
  · simp

/-- Bytes put into the store read back; every other byte reads as before, whatever encryption covers it (09 R273). -/
theorem hbmByte_putBytes (a : Nat) (bs : List Byte) (s : State) (x : Nat) :
    hbmByte (putBytes a bs s) x = if h : a ≤ x ∧ x < a + bs.length then bs[x - a] else hbmByte s x := by
  unfold putBytes
  split
  · next hc =>
    simp only [Bool.or_eq_true, List.isEmpty_iff] at hc
    split
    · next h =>
      have hci : s.cipher = [] := by
        rcases hc with hc | hc
        · exact hc
        · subst hc; simp at h; omega
      have := mget_mputs_in (d := (0 : Byte)) (m := s.hbm) a bs (x - a) (by omega)
      rw [show a + (x - a) = x by omega] at this
      simpa [hbmByte, hci, layerByte] using this
    · next h =>
      rcases hc with hc | hc
      · simp only [hbmByte, hc, layerByte]
        exact mget_mputs_out a x bs (by omega)
      · subst hc; rfl
  · next hc =>
    dsimp only
    obtain ⟨lo, hlo⟩ : ∃ lo, lo = a / 16 * 16 := ⟨_, rfl⟩
    obtain ⟨hi, hhi⟩ : ∃ hi, hi = (a + bs.length + 15) / 16 * 16 := ⟨_, rfl⟩
    rw [← hlo, ← hhi]
    have hl : (hbmBytes s lo (a - lo) ++ bs ++ hbmBytes s (a + bs.length) (hi - (a + bs.length))).length = hi - lo := by
      simp only [List.length_append, hbmBytes_length]; omega
    show layerByte (mputs 0 lo _ s.hbm) (s.cipher.flatMap (cutCipher lo hi)) x = _
    by_cases hx : lo ≤ x ∧ x < hi
    · rw [layerByte_cut_in hx]
      have e := mget_mputs_in (d := (0 : Byte)) (m := s.hbm) lo _ (x - lo) (by rw [hl]; omega)
      rw [show lo + (x - lo) = x by omega] at e
      rw [e]
      split
      · next h =>
        rw [List.getElem_append_left (by simp only [List.length_append, hbmBytes_length]; omega), List.getElem_append_right (by rw [hbmBytes_length]; omega)]
        congr 1
        rw [hbmBytes_length]; omega
      · next h =>
        by_cases hxa : x < a
        · rw [List.getElem_append_left (by simp only [List.length_append, hbmBytes_length]; omega), List.getElem_append_left (by rw [hbmBytes_length]; omega), hbmBytes_get]
          congr 1; omega
        · rw [List.getElem_append_right (by simp only [List.length_append, hbmBytes_length]; omega), hbmBytes_get]
          congr 1
          simp only [List.length_append, hbmBytes_length]; omega
    · rw [layerByte_cut_out (by omega) (by omega) (by omega) _ _ _ (by omega), dif_neg (by omega)]
      · rfl
      · intro y hy
        exact mget_mputs_out lo y _ (by rw [hl]; omega)

theorem hbmByte_congr {s t : State} (h : t.hbm = s.hbm) (c : t.cipher = s.cipher) (x : Nat) : hbmByte t x = hbmByte s x := by
  unfold hbmByte; rw [h, c]

/-- Every byte of the store after a write, as a read finds it. -/
theorem hbmByte_hbmWrite (a : Nat) (bs : List Byte) (s : State) (x : Nat) :
    hbmByte (hbmWrite a bs s) x = if h : a ≤ x ∧ x < a + bs.length then bs[x - a] else hbmByte s x := by
  unfold hbmWrite
  dsimp only
  rw [hbmByte_congr (countLines_hbm ..) (countLines_cipher ..), hbmByte_putBytes]
  rfl

/-- A write of the parameter store keeps its canonical form. -/
theorem memWf_putBytes (a : Nat) (bs : List Byte) {s : State} (h : memWf s) : memWf (putBytes a bs s) := by
  unfold putBytes
  split
  · exact mwf_mputs a bs h
  · exact mwf_mputs _ _ h

theorem memWf_hbmWrite (a : Nat) (bs : List Byte) {s : State} (h : memWf s) : memWf (hbmWrite a bs s) := by
  unfold memWf hbmWrite
  rw [countLines_hbm]
  exact memWf_putBytes a bs h

/-- The store lists nothing at reset. -/
theorem memWf_reset : memWf State.reset := mwf_nil 0

end Sys2Proof.Machine
end

