-- ==== Sys2Proof/Laws/Events.lean ====
section
/-! SUPPORT. What a firing does to the registers of the event controller (18 R506 to R514). -/

namespace Sys2Proof.Machine

theorem bitOf_setBit (w : W32) {i : Nat} (j : Nat) (b : Bool) (hi : i < 32) :
    bitOf (setBit w i b) j = if j = i then b else bitOf w j := by
  have key : ∀ j, (BitVec.ofNat 32 (2 ^ i)).getLsbD j = (decide (j < 32) && decide (i = j)) := by
    intro j; rw [BitVec.getLsbD_ofNat, Nat.testBit_two_pow]
  unfold bitOf setBit
  cases b
  · rw [if_neg (by decide), BitVec.getLsbD_and, BitVec.getLsbD_not, key]
    by_cases h : j = i
    · subst h; simp [hi]
    · rw [if_neg h]
      by_cases hj : j < 32
      · simp [hj, Ne.symm h]
      · simp [hj, BitVec.getLsbD_of_ge w j (by omega)]
  · rw [if_pos rfl, BitVec.getLsbD_or, key]
    by_cases h : j = i
    · subst h; simp [hi]
    · rw [if_neg h]; simp [Ne.symm h]

/-- What a word built from its bits reads as. -/
theorem bitOf_bitmap (p : Nat → Bool) (j : Nat) : bitOf (bitmap p) j = (decide (j < 32) && p j) := by
  have h : ∀ k, k ≤ 32 → bitOf ((List.range k).foldl (fun w n => setBit w n (p n)) 0) j = (decide (j < k) && p j) := by
    intro k
    induction k with
    | zero => intro _; simp [bitOf]
    | succ k ih =>
      intro hk
      rw [List.range_succ, List.foldl_append, List.foldl_cons, List.foldl_nil, bitOf_setBit _ _ _ (by omega), ih (by omega)]
      by_cases e : j = k
      · subst e; simp
      · rw [if_neg e]; simp [show (j < k + 1) = (j < k) by rw [eq_iff_iff]; omega]
  exact h 32 (by omega)

theorem reg_evcRec (e : Evc) (s : State) (pg : Page) (o : Nat) : reg { s with evc := e } pg o = reg s pg o := rfl

theorem reg_emit (m : OutMsg) (s : State) (pg : Page) (o : Nat) : reg (emit m s) pg o = reg s pg o := rfl

theorem reg_msixSend (n : Nat) (s : State) {o : Nat} (h : o ≠ 0x600) : reg (msixSend n s) .evc o = reg s .evc o := by
  unfold msixSend
  split
  · rfl
  · split
    · exact reg_setReg_off _ _ _ h
    · rfl

theorem reg_bump_off (pg : Page) (n : Nat) (s : State) {o o' : Nat} (h : o' ≠ o) :
    reg (bump pg o s n) pg o' = reg s pg o' := by
  unfold bump
  split
  · rfl
  · exact reg_setReg_off _ _ _ h

theorem reg_vectorFire (n : Nat) (s : State) {o : Nat} (h : o ≠ 0x600) (g : o ≠ 0x280) :
    reg (vectorFire n s) .evc o = reg s .evc o := by
  unfold vectorFire
  dsimp only
  split
  · rw [reg_msixSend _ _ h, reg_bump_off _ _ _ g]; rfl
  · rw [reg_bump_off _ _ _ g]; rfl

theorem reg_ite {c : Prop} [Decidable c] {a b : State} {pg : Page} {o : Nat} {w : W32} (h : reg a pg o = w)
    (g : reg b pg o = w) : reg (if c then a else b) pg o = w := by
  split
  · exact h
  · exact g

theorem reg_vectorCount (n : Nat) (s : State) {o : Nat} (h : o ≠ 0x600) (g : o ≠ 0x280) :
    reg (vectorCount n s) .evc o = reg s .evc o :=
  reg_ite (reg_vectorFire n _ h g) rfl

/-- A firing changes, of the event controller's page, what its mark changes, VEC_FIRED and the pending-bit array. -/
theorem reg_fire_mark (n : Nat) (s : State) {o : Nat} (h : o ≠ 0x600) (g : o ≠ 0x280) :
    reg (fire n s) .evc o = reg (markFired n s) .evc o := by
  unfold fire
  dsimp only
  split
  · rfl
  · split
    · rfl
    · exact reg_vectorCount _ _ h g

theorem reg_markFired (n : Nat) (s : State) (o : Nat) :
    reg (markFired n s) .evc o =
      if o = 0x100 + 4 * (n / 32) then setBit (reg s .evc o) (n % 32) true else reg s .evc o := by
  have e : reg (markFired n s) .evc o =
      reg (setReg .evc (0x100 + 4 * (n / 32)) (setBit (reg s .evc (0x100 + 4 * (n / 32))) (n % 32) true) s) .evc o := by
    unfold markFired
    dsimp only
    split
    · rfl
    · exact reg_evcRec ..
  rw [e]
  by_cases h : o = 0x100 + 4 * (n / 32)
  · subst h; rw [reg_setReg_same, if_pos rfl]
  · rw [reg_setReg_off _ _ _ h, if_neg h]

/-- A firing sets its source's pending bit and leaves every other pending bit (18 R506). -/
theorem pend_fire (n : Nat) (s : State) (w : Fin 32) {i : Nat} (hi : i < 32) :
    bitOf (reg (fire n s) .evc (0x100 + 4 * w.val)) i =
      (decide (32 * w.val + i = n) || bitOf (reg s .evc (0x100 + 4 * w.val)) i) := by
  rw [reg_fire_mark n s (by omega) (by omega), reg_markFired]
  by_cases hw : 0x100 + 4 * w.val = 0x100 + 4 * (n / 32)
  · rw [if_pos hw, bitOf_setBit _ _ _ (by omega)]
    by_cases hm : i = n % 32
    · rw [if_pos hm, decide_eq_true (by omega)]; simp
    · rw [if_neg hm, decide_eq_false (by omega)]; simp
  · rw [if_neg hw, decide_eq_false (by omega)]; simp

/-- A firing leaves every other register of the page. -/
theorem reg_fire_off (n : Nat) (s : State) {o : Nat} (h : o ≠ 0x600) (g : o ≠ 0x280)
    (k : o ≠ 0x100 + 4 * (n / 32)) : reg (fire n s) .evc o = reg s .evc o := by
  rw [reg_fire_mark n s h g, reg_markFired, if_neg k]

theorem bit_ite {c : Prop} [Decidable c] {a b : State} {pg : Page} {o n : Nat} (h : bitOf (reg a pg o) n = true)
    (g : bitOf (reg b pg o) n = true) : bitOf (reg (if c then a else b) pg o) n = true := by
  split
  · exact h
  · exact g

/-- An event does not clear an error bit. -/
theorem fireErr_bit (pg pg' : Page) (k : Nat) {n : Nat} {s : State} (h : bitOf (reg s pg 0x010) n = true) :
    bitOf (reg (fireErr pg' k s) pg 0x010) n = true := by
  by_cases he : onEvc (pageBase pg + 0x010)
  · have hp : pg = .evc := by
      unfold onEvc at he
      revert he
      cases pg <;> dsimp only [pageBase] <;> intro he <;> first | rfl | (exfalso; omega)
    subst hp
    unfold fireErr
    have hb : bitOf (reg (setReg .evc 0x010 (setBit (reg (bump .evc 0x078 s) .evc 0x010) 0 true)
        (bump .evc 0x078 s)) .evc 0x010) n = true := by
      rw [reg_setReg_same, bitOf_setBit _ _ _ (by decide : (0 : Nat) < 32), reg_bump_off .evc 1 s (o := 0x078) (o' := 0x010) (by decide)]
      split
      · rfl
      · exact h
    refine bit_ite ?_ (bit_ite hb ?_)
    · rw [reg_fire_off (o := 0x010) _ _ (by omega) (by omega) (by omega)]; exact h
    · rw [reg_fire_off (o := 0x010) _ _ (by omega) (by omega) (by omega)]; exact hb
  · rw [onlyEvents_reg (onlyEvents_fireErr pg' k (onlyEvents_refl _)) he]; exact h

/-- An error bit is set once its error has occurred (00 R21). -/
theorem setErr_bit (pg : Page) {n : Nat} (hn : n < 32) (s : State) : bitOf (reg (setErr pg n s) pg 0x010) n = true := by
  have h0 : bitOf (reg (setReg pg 0x010 (setBit (reg s pg 0x010) n true) s) pg 0x010) n = true := by
    rw [reg_setReg_same, bitOf_setBit _ _ _ hn, if_pos rfl]
  exact bit_ite h0 (fireErr_bit pg pg n h0)

/-- A further error of the page keeps the error bits that are set. -/
theorem setErr_keeps_bit (pg : Page) {n m : Nat} (hn : n < 32) {s : State} (h : bitOf (reg s pg 0x010) m = true) :
    bitOf (reg (setErr pg n s) pg 0x010) m = true := by
  have h0 : bitOf (reg (setReg pg 0x010 (setBit (reg s pg 0x010) n true) s) pg 0x010) m = true := by
    rw [reg_setReg_same, bitOf_setBit _ _ _ hn]
    split
    · rfl
    · exact h
  exact bit_ite h0 (fireErr_bit pg pg n h0)

end Sys2Proof.Machine
end

