-- ==== Sys2Proof/Laws/Keeps1.lean ====
section
/-! SUPPORT. What the operations of Ops, Pcie, Geometry, Tiles, Access, Ledger, Writes, Cfg, Faults keep: the fuses, the queue, the canonical form of the store,
the rules on the mode. -/

namespace Sys2Proof.Machine

variable {s0 s : State}

theorem keeps_refl (s : State) : Keeps s s := ⟨rfl, rfl, rfl, rfl, rfl, id, id⟩

theorem keeps_trans {a b c : State} (h : Keeps a b) (g : Keeps b c) : Keeps a c :=
  ⟨g.code.trans h.code, g.silicon.trans h.silicon, g.serial.trans h.serial, g.mfg.trans h.mfg,
    g.pending.trans h.pending, g.mem ∘ h.mem, g.mode ∘ h.mode⟩

/-- A change outside what `Keeps` speaks of. -/
theorem keeps_of {t : State} (h : Keeps s0 s) (h1 : t.code = s.code) (h2 : t.silicon = s.silicon)
    (h3 : t.serial = s.serial) (h4 : t.mfg = s.mfg) (h5 : t.pending = s.pending) (h6 : t.hbm = s.hbm)
    (h7 : t.isSealed = s.isSealed) (h8 : t.level = s.level) : Keeps s0 t :=
  ⟨h1.trans h.code, h2.trans h.silicon, h3.trans h.serial, h4.trans h.mfg, h5.trans h.pending,
    fun x => by show mwf 0 t.hbm; rw [h6]; exact h.mem x,
    fun x => ⟨by rw [h7, h8]; exact (h.mode x).quiet, by rw [h7, h1]; exact (h.mode x).fitted⟩⟩

theorem keeps_cut {a x : State} {G : Prop} (h : Keeps a x) (g : Keeps a x → G) : G := g h

theorem keeps_ite {c : Prop} [Decidable c] {a x y : State} (h : Keeps a x) (g : Keeps a y) :
    Keeps a (if c then x else y) := by
  split <;> assumption

theorem keeps_foldl {α : Type} {f : State → α → State} {l : List α} {a x : State}
    (hf : ∀ y s, Keeps a s → Keeps a (f s y)) (h : Keeps a x) : Keeps a (List.foldl f x l) := by
  induction l generalizing x with
  | nil => exact h
  | cons y r ih => exact ih (hf y x h)

theorem keeps_foldl1 {α β : Type} {f : State × β → α → State × β} {l : List α} {a : State} {x : State × β}
    (hf : ∀ y s, Keeps a s.1 → Keeps a (f s y).1) (h : Keeps a x.1) : Keeps a (List.foldl f x l).1 := by
  induction l generalizing x with
  | nil => exact h
  | cons y r ih => exact ih (hf y x h)

theorem keeps_foldl2 {α β : Type} {f : β × State → α → β × State} {l : List α} {a : State} {x : β × State}
    (hf : ∀ y s, Keeps a s.2 → Keeps a (f s y).2) (h : Keeps a x.2) : Keeps a (List.foldl f x l).2 := by
  induction l generalizing x with
  | nil => exact h
  | cons y r ih => exact ih (hf y x h)

/-- An update of fields outside what `Keeps` speaks of. -/
theorem keeps_upd (run' : RunSt) (stage' : Stage) (qEnd' : Nat) (testAt' : Nat) (loading' : Bool) (busy' : Option
    MidOp) (noArray' : Bool) (stuck' : Bool) (tripLatched' : Bool) (tripAt' : Nat) (now' : Nat) (regs' : SMap W32)
    (bankA' : SMap W32) (bankB' : SMap W32) (activeB' : Bool) (ver' : W32) (stepBank' : SMap W32) (pendCfg' : Option
    CfgOp) (touched' : Bool) (rdLatch' : PerReq) (wrHeld' : PerReq) (viewLatch' : List (Nat × List W32)) (srst' : List
    Page) (armed' : Nat) (refusal' : Nat) (scrub' : Scrub) (scrubFor' : Option ScrubFor) (spdm' : Spdm) (ide' : Option
    IdeKind) (hbmKey' : Option (List Byte × List Byte)) (cipher' : List Cipher) (linkKeys' : SMap LinkKey) (sram' :
    SMap W32) (winOpen' : Bool) (mgmtUp' : Bool) (mgmtHash' : List Byte) (kick0' : Nat) (kick1' : Nat) (env' : Env)
    (host' : HostIf) (jtag' : Jtag) (prtHeld' : List Nat) (evc' : Evc) (cages' : SMap Cage) (fields' : SMap FieldSt)
    (fcmdBusy' : Option Nat) (overTemp' : List Nat) (warned' : Bool) (inletHigh' : Bool) (hot' : Bool) (over95' : Nat)
    (vminHalf' : Nat) (railLost' : List (Die × Rail)) (hdq' : SMap DmaRun) (image' : Option Img) (place' : Option
    Place) (geo' : Geo) (keySeed' : Nat) (keyJob' : Nat) (priorSus' : List (Nat × Nat)) (clk' : ClkSt) (tiles' : SMap
    Tile) (offTiles' : SMap Tile) (asq' : Asq) (poison' : SMap Bool) (flaws' : List (Nat × Ecc)) (hbmFailed' : List
    (Nat × Nat)) (dies' : SMap DieSt) (ring' : List Nat) (ledger' : Option (Nat × Nat)) (iseq' : Nat) (stepItems' :
    Nat) (aheadItems' : Nat) (stepLost' : Nat) (lostFirst' : Nat) (lostN' : Nat) (state3' : Option Nat) (rdc' : Rdc)
    (links' : SMap LinkSt) (peers' : SMap PeerSt) (stageSt' : SMap StageSt) (tsynced' : Bool) (slew' : Int × Nat)
    (out' : List OutMsg) (fc' : Nat) :
    Keeps s0 { s with
      run := run', stage := stage', qEnd := qEnd', testAt := testAt', loading := loading',
      busy := busy', noArray := noArray', stuck := stuck', tripLatched := tripLatched', tripAt := tripAt',
      now := now', regs := regs', bankA := bankA', bankB := bankB', activeB := activeB',
      ver := ver', stepBank := stepBank', pendCfg := pendCfg', touched := touched', rdLatch := rdLatch',
      wrHeld := wrHeld', viewLatch := viewLatch', srst := srst', armed := armed', refusal := refusal',
      scrub := scrub', scrubFor := scrubFor', spdm := spdm', ide := ide', hbmKey := hbmKey',
      cipher := cipher', linkKeys := linkKeys', sram := sram', winOpen := winOpen', mgmtUp := mgmtUp',
      mgmtHash := mgmtHash', kick0 := kick0', kick1 := kick1', env := env', host := host',
      jtag := jtag', prtHeld := prtHeld', evc := evc', cages := cages', fields := fields',
      fcmdBusy := fcmdBusy', overTemp := overTemp', warned := warned', inletHigh := inletHigh', hot := hot',
      over95 := over95', vminHalf := vminHalf', railLost := railLost', hdq := hdq', image := image',
      place := place', geo := geo', keySeed := keySeed', keyJob := keyJob', priorSus := priorSus',
      clk := clk', tiles := tiles', offTiles := offTiles', asq := asq', poison := poison',
      flaws := flaws', hbmFailed := hbmFailed', dies := dies', ring := ring', ledger := ledger',
      iseq := iseq', stepItems := stepItems', aheadItems := aheadItems', stepLost := stepLost', lostFirst := lostFirst',
      lostN := lostN', state3 := state3', rdc := rdc', links := links', peers := peers',
      stageSt := stageSt', tsynced := tsynced', slew := slew', out := out', fc := fc' } ↔
      Keeps s0 s :=
  ⟨fun h => keeps_of h rfl rfl rfl rfl rfl rfl rfl rfl, fun h => keeps_of h rfl rfl rfl rfl rfl rfl rfl rfl⟩

theorem setReg_keeps (pg : Page) (o : Nat) (v : W32) (s : State) (hs : Keeps s0 s) :
    Keeps s0 (setReg pg o v s) := by
  unfold setReg
  repeat' first
    | with_reducible assumption
    | (rintro x y (hx : Keeps s0 y))
    | (rintro x y z w (hx : Keeps s0 w))
    | (rintro x y z (hx : Keeps s0 z))
    | (rintro y (hx : Keeps s0 y))
    | (rintro x y (hx : Keeps s0 y.1))
    | (rintro x y (hx : Keeps s0 y.2))
    | lift_lets
    | (intro x; refine keeps_cut (x := x) (a := s0) ?_ ?_; subst x; rotate_left; clear_value x; intro hx)
    | (intro x; subst x)
    | simp -zeta only [keeps_upd]

theorem setReg64_keeps (pg : Page) (o : Nat) (v : Nat) (s : State) (hs : Keeps s0 s) :
    Keeps s0 (setReg64 pg o v s) := by
  unfold setReg64
  repeat' first
    | with_reducible assumption
    | (rintro x y (hx : Keeps s0 y))
    | (rintro x y z w (hx : Keeps s0 w))
    | (rintro x y z (hx : Keeps s0 z))
    | (rintro y (hx : Keeps s0 y))
    | (rintro x y (hx : Keeps s0 y.1))
    | (rintro x y (hx : Keeps s0 y.2))
    | with_reducible first | apply setReg_keeps

theorem setBits_keeps (pg : Page) (o hi lo v : Nat) (s : State) (hs : Keeps s0 s) :
    Keeps s0 (setBits pg o hi lo v s) := by
  unfold setBits
  repeat' first
    | with_reducible assumption
    | (rintro x y (hx : Keeps s0 y))
    | (rintro x y z w (hx : Keeps s0 w))
    | (rintro x y z (hx : Keeps s0 z))
    | (rintro y (hx : Keeps s0 y))
    | (rintro x y (hx : Keeps s0 y.1))
    | (rintro x y (hx : Keeps s0 y.2))
    | with_reducible first | apply setReg_keeps

theorem bump_keeps (pg : Page) (o : Nat) (s : State) (n : Nat) (hs : Keeps s0 s) :
    Keeps s0 (bump pg o s n) := by
  unfold bump
  repeat' first
    | with_reducible assumption
    | (rintro x y (hx : Keeps s0 y))
    | (rintro x y z w (hx : Keeps s0 w))
    | (rintro x y z (hx : Keeps s0 z))
    | (rintro y (hx : Keeps s0 y))
    | (rintro x y (hx : Keeps s0 y.1))
    | (rintro x y (hx : Keeps s0 y.2))
    | with_reducible first | apply setReg_keeps
    | with_reducible apply keeps_ite
    | split

theorem setStaging_keeps (key : Nat) (v : W32) (s : State) (hs : Keeps s0 s) :
    Keeps s0 (setStaging key v s) := by
  unfold setStaging
  repeat' first
    | with_reducible assumption
    | (rintro x y (hx : Keeps s0 y))
    | (rintro x y z w (hx : Keeps s0 w))
    | (rintro x y z (hx : Keeps s0 z))
    | (rintro y (hx : Keeps s0 y))
    | (rintro x y (hx : Keeps s0 y.1))
    | (rintro x y (hx : Keeps s0 y.2))
    | lift_lets
    | (intro x; refine keeps_cut (x := x) (a := s0) ?_ ?_; subst x; rotate_left; clear_value x; intro hx)
    | (intro x; subst x)
    | simp -zeta only [keeps_upd]
    | with_reducible apply keeps_ite
    | split

theorem emit_keeps (m : OutMsg) (s : State) (hs : Keeps s0 s) :
    Keeps s0 (emit m s) := by
  unfold emit
  repeat' first
    | with_reducible assumption
    | (rintro x y (hx : Keeps s0 y))
    | (rintro x y z w (hx : Keeps s0 w))
    | (rintro x y z (hx : Keeps s0 z))
    | (rintro y (hx : Keeps s0 y))
    | (rintro x y (hx : Keeps s0 y.1))
    | (rintro x y (hx : Keeps s0 y.2))
    | lift_lets
    | (intro x; refine keeps_cut (x := x) (a := s0) ?_ ?_; subst x; rotate_left; clear_value x; intro hx)
    | (intro x; subst x)
    | simp -zeta only [keeps_upd]

theorem msixSend_keeps (n : Nat) (s : State) (hs : Keeps s0 s) :
    Keeps s0 (msixSend n s) := by
  unfold msixSend
  repeat' first
    | with_reducible assumption
    | (rintro x y (hx : Keeps s0 y))
    | (rintro x y z w (hx : Keeps s0 w))
    | (rintro x y z (hx : Keeps s0 z))
    | (rintro y (hx : Keeps s0 y))
    | (rintro x y (hx : Keeps s0 y.1))
    | (rintro x y (hx : Keeps s0 y.2))
    | with_reducible first | apply setReg_keeps | apply emit_keeps
    | with_reducible apply keeps_ite
    | split

theorem vectorFire_keeps (n : Nat) (s : State) (hs : Keeps s0 s) :
    Keeps s0 (vectorFire n s) := by
  unfold vectorFire
  repeat' first
    | with_reducible assumption
    | (rintro x y (hx : Keeps s0 y))
    | (rintro x y z w (hx : Keeps s0 w))
    | (rintro x y z (hx : Keeps s0 z))
    | (rintro y (hx : Keeps s0 y))
    | (rintro x y (hx : Keeps s0 y.1))
    | (rintro x y (hx : Keeps s0 y.2))
    | lift_lets
    | (intro x; refine keeps_cut (x := x) (a := s0) ?_ ?_; subst x; rotate_left; clear_value x; intro hx)
    | (intro x; subst x)
    | simp -zeta only [keeps_upd]
    | with_reducible first | apply bump_keeps | apply msixSend_keeps
    | with_reducible apply keeps_ite
    | split

theorem vectorCount_keeps (n : Nat) (s : State) (hs : Keeps s0 s) :
    Keeps s0 (vectorCount n s) := by
  unfold vectorCount
  repeat' first
    | with_reducible assumption
    | (rintro x y (hx : Keeps s0 y))
    | (rintro x y z w (hx : Keeps s0 w))
    | (rintro x y z (hx : Keeps s0 z))
    | (rintro y (hx : Keeps s0 y))
    | (rintro x y (hx : Keeps s0 y.1))
    | (rintro x y (hx : Keeps s0 y.2))
    | lift_lets
    | (intro x; refine keeps_cut (x := x) (a := s0) ?_ ?_; subst x; rotate_left; clear_value x; intro hx)
    | (intro x; subst x)
    | simp -zeta only [keeps_upd]
    | with_reducible first | apply vectorFire_keeps
    | with_reducible apply keeps_ite
    | split

theorem markFired_keeps (n : Nat) (s : State) (hs : Keeps s0 s) :
    Keeps s0 (markFired n s) := by
  unfold markFired
  repeat' first
    | with_reducible assumption
    | (rintro x y (hx : Keeps s0 y))
    | (rintro x y z w (hx : Keeps s0 w))
    | (rintro x y z (hx : Keeps s0 z))
    | (rintro y (hx : Keeps s0 y))
    | (rintro x y (hx : Keeps s0 y.1))
    | (rintro x y (hx : Keeps s0 y.2))
    | lift_lets
    | (intro x; refine keeps_cut (x := x) (a := s0) ?_ ?_; subst x; rotate_left; clear_value x; intro hx)
    | (intro x; subst x)
    | simp -zeta only [keeps_upd]
    | with_reducible first | apply setReg_keeps
    | with_reducible apply keeps_ite
    | split

theorem fire_keeps (n : Nat) (s : State) (hs : Keeps s0 s) :
    Keeps s0 (fire n s) := by
  unfold fire
  repeat' first
    | with_reducible assumption
    | (rintro x y (hx : Keeps s0 y))
    | (rintro x y z w (hx : Keeps s0 w))
    | (rintro x y z (hx : Keeps s0 z))
    | (rintro y (hx : Keeps s0 y))
    | (rintro x y (hx : Keeps s0 y.1))
    | (rintro x y (hx : Keeps s0 y.2))
    | lift_lets
    | (intro x; refine keeps_cut (x := x) (a := s0) ?_ ?_; subst x; rotate_left; clear_value x; intro hx)
    | (intro x; subst x)
    | simp -zeta only [keeps_upd]
    | with_reducible first | apply vectorCount_keeps | apply markFired_keeps
    | with_reducible apply keeps_ite
    | split

theorem fireErr_keeps (pg : Page) (n : Nat) (s : State) (hs : Keeps s0 s) :
    Keeps s0 (fireErr pg n s) := by
  unfold fireErr
  repeat' first
    | with_reducible assumption
    | (rintro x y (hx : Keeps s0 y))
    | (rintro x y z w (hx : Keeps s0 w))
    | (rintro x y z (hx : Keeps s0 z))
    | (rintro y (hx : Keeps s0 y))
    | (rintro x y (hx : Keeps s0 y.1))
    | (rintro x y (hx : Keeps s0 y.2))
    | lift_lets
    | (intro x; refine keeps_cut (x := x) (a := s0) ?_ ?_; subst x; rotate_left; clear_value x; intro hx)
    | (intro x; subst x)
    | with_reducible first | apply setReg_keeps | apply bump_keeps | apply fire_keeps
    | with_reducible apply keeps_ite
    | split

theorem setErr_keeps (pg : Page) (n : Nat) (s : State) (hs : Keeps s0 s) :
    Keeps s0 (setErr pg n s) := by
  unfold setErr
  repeat' first
    | with_reducible assumption
    | (rintro x y (hx : Keeps s0 y))
    | (rintro x y z w (hx : Keeps s0 w))
    | (rintro x y z (hx : Keeps s0 z))
    | (rintro y (hx : Keeps s0 y))
    | (rintro x y (hx : Keeps s0 y.1))
    | (rintro x y (hx : Keeps s0 y.2))
    | lift_lets
    | (intro x; refine keeps_cut (x := x) (a := s0) ?_ ?_; subst x; rotate_left; clear_value x; intro hx)
    | (intro x; subst x)
    | with_reducible first | apply setReg_keeps | apply fireErr_keeps
    | with_reducible apply keeps_ite
    | split

theorem setAcc_keeps (pg : Page) (s : State) (hs : Keeps s0 s) :
    Keeps s0 (setAcc pg s) := by
  unfold setAcc
  repeat' first
    | with_reducible assumption
    | (rintro x y (hx : Keeps s0 y))
    | (rintro x y z w (hx : Keeps s0 w))
    | (rintro x y z (hx : Keeps s0 z))
    | (rintro y (hx : Keeps s0 y))
    | (rintro x y (hx : Keeps s0 y.1))
    | (rintro x y (hx : Keeps s0 y.2))
    | with_reducible first | apply setReg_keeps

theorem denyDbg_keeps (s : State) (hs : Keeps s0 s) :
    Keeps s0 (denyDbg s) := by
  unfold denyDbg
  repeat' first
    | with_reducible assumption
    | (rintro x y (hx : Keeps s0 y))
    | (rintro x y z w (hx : Keeps s0 w))
    | (rintro x y z (hx : Keeps s0 z))
    | (rintro y (hx : Keeps s0 y))
    | (rintro x y (hx : Keeps s0 y.1))
    | (rintro x y (hx : Keeps s0 y.2))
    | with_reducible first | apply bump_keeps | apply setAcc_keeps

theorem setRun_keeps (r : RunSt) (s : State) (hs : Keeps s0 s) :
    Keeps s0 (setRun r s) := by
  unfold setRun
  repeat' first
    | with_reducible assumption
    | (rintro x y (hx : Keeps s0 y))
    | (rintro x y z w (hx : Keeps s0 w))
    | (rintro x y z (hx : Keeps s0 z))
    | (rintro y (hx : Keeps s0 y))
    | (rintro x y (hx : Keeps s0 y.1))
    | (rintro x y (hx : Keeps s0 y.2))
    | lift_lets
    | (intro x; refine keeps_cut (x := x) (a := s0) ?_ ?_; subst x; rotate_left; clear_value x; intro hx)
    | (intro x; subst x)
    | simp -zeta only [keeps_upd]
    | with_reducible first | apply fire_keeps
    | with_reducible apply keeps_ite
    | split

theorem midDone_keeps (cmd code : Nat) (s : State) (hs : Keeps s0 s) :
    Keeps s0 (midDone cmd code s) := by
  unfold midDone
  repeat' first
    | with_reducible assumption
    | (rintro x y (hx : Keeps s0 y))
    | (rintro x y z w (hx : Keeps s0 w))
    | (rintro x y z (hx : Keeps s0 z))
    | (rintro y (hx : Keeps s0 y))
    | (rintro x y (hx : Keeps s0 y.1))
    | (rintro x y (hx : Keeps s0 y.2))
    | lift_lets
    | (intro x; refine keeps_cut (x := x) (a := s0) ?_ ?_; subst x; rotate_left; clear_value x; intro hx)
    | (intro x; subst x)
    | simp -zeta only [keeps_upd]
    | with_reducible first | apply setReg_keeps | apply fire_keeps

theorem midRefuse_keeps (cmd code : Nat) (s : State) (hs : Keeps s0 s) :
    Keeps s0 (midRefuse cmd code s) := by
  unfold midRefuse
  repeat' first
    | with_reducible assumption
    | (rintro x y (hx : Keeps s0 y))
    | (rintro x y z w (hx : Keeps s0 w))
    | (rintro x y z (hx : Keeps s0 z))
    | (rintro y (hx : Keeps s0 y))
    | (rintro x y (hx : Keeps s0 y.1))
    | (rintro x y (hx : Keeps s0 y.2))
    | with_reducible first | apply setReg_keeps | apply fire_keeps | apply setErr_keeps
    | with_reducible apply keeps_ite
    | split

theorem midBusy_keeps (cmd : Nat) (op : MidOp) (s : State) (hs : Keeps s0 s) :
    Keeps s0 (midBusy cmd op s) := by
  unfold midBusy
  repeat' first
    | with_reducible assumption
    | (rintro x y (hx : Keeps s0 y))
    | (rintro x y z w (hx : Keeps s0 w))
    | (rintro x y z (hx : Keeps s0 z))
    | (rintro y (hx : Keeps s0 y))
    | (rintro x y (hx : Keeps s0 y.1))
    | (rintro x y (hx : Keeps s0 y.2))
    | lift_lets
    | (intro x; refine keeps_cut (x := x) (a := s0) ?_ ?_; subst x; rotate_left; clear_value x; intro hx)
    | (intro x; subst x)
    | simp -zeta only [keeps_upd]
    | with_reducible first | apply setReg_keeps

theorem countLines_keeps (o a n : Nat) (s : State) (hs : Keeps s0 s) :
    Keeps s0 (countLines o a n s) := by
  unfold countLines
  repeat' first
    | with_reducible assumption
    | (rintro x y (hx : Keeps s0 y))
    | (rintro x y z w (hx : Keeps s0 w))
    | (rintro x y z (hx : Keeps s0 z))
    | (rintro y (hx : Keeps s0 y))
    | (rintro x y (hx : Keeps s0 y.1))
    | (rintro x y (hx : Keeps s0 y.2))
    | with_reducible first | apply bump_keeps

theorem putBytes_keeps (a : Nat) (bs : List Byte) (s : State) (h : Keeps s0 s) : Keeps s0 (putBytes a bs s) := by
  have hm := memWf_putBytes a bs (s := s)
  obtain ⟨_, _, e⟩ := putBytes_shape a bs s
  rw [e] at hm ⊢
  exact ⟨h.code, h.silicon, h.serial, h.mfg, h.pending, fun x => hm (h.mem x), fun x => ⟨(h.mode x).quiet, (h.mode x).fitted⟩⟩

theorem hbmWrite_keeps (a : Nat) (bs : List Byte) (s : State) (h : Keeps s0 s) : Keeps s0 (hbmWrite a bs s) :=
  ⟨by simp [h.code], by simp [h.silicon], by simp [h.serial], by simp [h.mfg], by simp [h.pending],
    fun x => memWf_hbmWrite a bs (h.mem x),
    fun x => ⟨by simpa using (h.mode x).quiet, by simpa using (h.mode x).fitted⟩⟩

theorem hbmPoison_keeps (a : Nat) (s : State) (hs : Keeps s0 s) :
    Keeps s0 (hbmPoison a s) := by
  unfold hbmPoison
  repeat' first
    | with_reducible assumption
    | (rintro x y (hx : Keeps s0 y))
    | (rintro x y z w (hx : Keeps s0 w))
    | (rintro x y z (hx : Keeps s0 z))
    | (rintro y (hx : Keeps s0 y))
    | (rintro x y (hx : Keeps s0 y.1))
    | (rintro x y (hx : Keeps s0 y.2))
    | lift_lets
    | (intro x; refine keeps_cut (x := x) (a := s0) ?_ ?_; subst x; rotate_left; clear_value x; intro hx)
    | (intro x; subst x)
    | simp -zeta only [keeps_upd]

theorem hbmCorrected_keeps (a : Nat) (s : State) (hs : Keeps s0 s) :
    Keeps s0 (hbmCorrected a s) := by
  unfold hbmCorrected
  repeat' first
    | with_reducible assumption
    | (rintro x y (hx : Keeps s0 y))
    | (rintro x y z w (hx : Keeps s0 w))
    | (rintro x y z (hx : Keeps s0 z))
    | (rintro y (hx : Keeps s0 y))
    | (rintro x y (hx : Keeps s0 y.1))
    | (rintro x y (hx : Keeps s0 y.2))
    | lift_lets
    | (intro x; refine keeps_cut (x := x) (a := s0) ?_ ?_; subst x; rotate_left; clear_value x; intro hx)
    | (intro x; subst x)
    | simp -zeta only [keeps_upd]
    | with_reducible first | apply bump_keeps | apply setErr_keeps
    | with_reducible apply keeps_ite
    | split

theorem hbmUncorrectable_keeps (a : Nat) (s : State) (hs : Keeps s0 s) :
    Keeps s0 (hbmUncorrectable a s) := by
  unfold hbmUncorrectable
  repeat' first
    | with_reducible assumption
    | (rintro x y (hx : Keeps s0 y))
    | (rintro x y z w (hx : Keeps s0 w))
    | (rintro x y z (hx : Keeps s0 z))
    | (rintro y (hx : Keeps s0 y))
    | (rintro x y (hx : Keeps s0 y.1))
    | (rintro x y (hx : Keeps s0 y.2))
    | lift_lets
    | (intro x; refine keeps_cut (x := x) (a := s0) ?_ ?_; subst x; rotate_left; clear_value x; intro hx)
    | (intro x; subst x)
    | with_reducible first | apply setReg64_keeps | apply bump_keeps | apply setErr_keeps | apply hbmPoison_keeps

theorem hbmEcc_keeps (e : Ecc) (a : Nat) (s : State) (hs : Keeps s0 s) :
    Keeps s0 (hbmEcc e a s) := by
  unfold hbmEcc
  repeat' first
    | with_reducible assumption
    | (rintro x y (hx : Keeps s0 y))
    | (rintro x y z w (hx : Keeps s0 w))
    | (rintro x y z (hx : Keeps s0 z))
    | (rintro y (hx : Keeps s0 y))
    | (rintro x y (hx : Keeps s0 y.1))
    | (rintro x y (hx : Keeps s0 y.2))
    | lift_lets
    | (intro x; refine keeps_cut (x := x) (a := s0) ?_ ?_; subst x; rotate_left; clear_value x; intro hx)
    | (intro x; subst x)
    | simp -zeta only [keeps_upd]
    | with_reducible first | apply hbmCorrected_keeps | apply hbmUncorrectable_keeps
    | split

theorem meetFlaws_keeps (a n : Nat) (s : State) (hs : Keeps s0 s) :
    Keeps s0 (meetFlaws a n s) := by
  unfold meetFlaws
  repeat' first
    | with_reducible assumption
    | (rintro x y (hx : Keeps s0 y))
    | (rintro x y z w (hx : Keeps s0 w))
    | (rintro x y z (hx : Keeps s0 z))
    | (rintro y (hx : Keeps s0 y))
    | (rintro x y (hx : Keeps s0 y.1))
    | (rintro x y (hx : Keeps s0 y.2))
    | lift_lets
    | (intro x; refine keeps_cut (x := x) (a := s0) ?_ ?_; subst x; rotate_left; clear_value x; intro hx)
    | (intro x; subst x)
    | simp -zeta only [keeps_upd]
    | with_reducible first | apply hbmEcc_keeps
    | with_reducible apply keeps_foldl
    | with_reducible apply keeps_foldl1
    | with_reducible apply keeps_foldl2
    | with_reducible exact hx
    | with_reducible apply keeps_ite
    | split

theorem addFlaws_keeps (es : EccList) (s : State) (hs : Keeps s0 s) :
    Keeps s0 (addFlaws es s) := by
  unfold addFlaws
  repeat' first
    | with_reducible assumption
    | (rintro x y (hx : Keeps s0 y))
    | (rintro x y z w (hx : Keeps s0 w))
    | (rintro x y z (hx : Keeps s0 z))
    | (rintro y (hx : Keeps s0 y))
    | (rintro x y (hx : Keeps s0 y.1))
    | (rintro x y (hx : Keeps s0 y.2))
    | lift_lets
    | (intro x; refine keeps_cut (x := x) (a := s0) ?_ ?_; subst x; rotate_left; clear_value x; intro hx)
    | (intro x; subst x)
    | simp -zeta only [keeps_upd]
    | with_reducible apply keeps_ite
    | split

theorem hbmTouch_keeps (a n : Nat) (s : State) (hs : Keeps s0 s) :
    Keeps s0 (hbmTouch a n s) := by
  unfold hbmTouch
  repeat' first
    | with_reducible assumption
    | (rintro x y (hx : Keeps s0 y))
    | (rintro x y z w (hx : Keeps s0 w))
    | (rintro x y z (hx : Keeps s0 z))
    | (rintro y (hx : Keeps s0 y))
    | (rintro x y (hx : Keeps s0 y.1))
    | (rintro x y (hx : Keeps s0 y.2))
    | with_reducible first | apply countLines_keeps | apply meetFlaws_keeps
    | with_reducible apply keeps_ite
    | split

theorem forAll_keeps {α : Type} (l : List α) (f : α → State → State) (s : State)
    (hf : ∀ a s, Keeps s0 s → Keeps s0 (f a s)) (h : Keeps s0 s) : Keeps s0 (forAll l f s) := by
  unfold forAll
  induction l generalizing s with
  | nil => exact h
  | cons a r ih => exact ih _ (hf a s h)

theorem sealRegions_keeps (enc : Bool) (s : State) (hs : Keeps s0 s) :
    Keeps s0 (sealRegions enc s) := by
  unfold sealRegions
  repeat' first
    | with_reducible assumption
    | (rintro x y (hx : Keeps s0 y))
    | (rintro x y z w (hx : Keeps s0 w))
    | (rintro x y z (hx : Keeps s0 z))
    | (rintro y (hx : Keeps s0 y))
    | (rintro x y (hx : Keeps s0 y.1))
    | (rintro x y (hx : Keeps s0 y.2))
    | lift_lets
    | (intro x; refine keeps_cut (x := x) (a := s0) ?_ ?_; subst x; rotate_left; clear_value x; intro hx)
    | (intro x; subst x)
    | simp -zeta only [keeps_upd]
    | with_reducible first | apply forAll_keeps
    | with_reducible apply keeps_ite
    | split

theorem setDie_keeps (d : Die) (x : DieSt) (s : State) (hs : Keeps s0 s) :
    Keeps s0 (setDie d x s) := by
  unfold setDie
  repeat' first
    | with_reducible assumption
    | (rintro x y (hx : Keeps s0 y))
    | (rintro x y z w (hx : Keeps s0 w))
    | (rintro x y z (hx : Keeps s0 z))
    | (rintro y (hx : Keeps s0 y))
    | (rintro x y (hx : Keeps s0 y.1))
    | (rintro x y (hx : Keeps s0 y.2))
    | lift_lets
    | (intro x; refine keeps_cut (x := x) (a := s0) ?_ ?_; subst x; rotate_left; clear_value x; intro hx)
    | (intro x; subst x)
    | simp -zeta only [keeps_upd]

theorem setTile_keeps (u v : Nat) (t : Tile) (s : State) (hs : Keeps s0 s) :
    Keeps s0 (setTile u v t s) := by
  unfold setTile
  repeat' first
    | with_reducible assumption
    | (rintro x y (hx : Keeps s0 y))
    | (rintro x y z w (hx : Keeps s0 w))
    | (rintro x y z (hx : Keeps s0 z))
    | (rintro y (hx : Keeps s0 y))
    | (rintro x y (hx : Keeps s0 y.1))
    | (rintro x y (hx : Keeps s0 y.2))
    | lift_lets
    | (intro x; refine keeps_cut (x := x) (a := s0) ?_ ?_; subst x; rotate_left; clear_value x; intro hx)
    | (intro x; subst x)
    | simp -zeta only [keeps_upd]

theorem setField_keeps (f : Field) (x : FieldSt) (s : State) (hs : Keeps s0 s) :
    Keeps s0 (setField f x s) := by
  unfold setField
  repeat' first
    | with_reducible assumption
    | (rintro x y (hx : Keeps s0 y))
    | (rintro x y z w (hx : Keeps s0 w))
    | (rintro x y z (hx : Keeps s0 z))
    | (rintro y (hx : Keeps s0 y))
    | (rintro x y (hx : Keeps s0 y.1))
    | (rintro x y (hx : Keeps s0 y.2))
    | lift_lets
    | (intro x; refine keeps_cut (x := x) (a := s0) ?_ ?_; subst x; rotate_left; clear_value x; intro hx)
    | (intro x; subst x)
    | simp -zeta only [keeps_upd]

theorem setLink_keeps (p : Die) (x : LinkSt) (s : State) (hs : Keeps s0 s) :
    Keeps s0 (setLink p x s) := by
  unfold setLink
  repeat' first
    | with_reducible assumption
    | (rintro x y (hx : Keeps s0 y))
    | (rintro x y z w (hx : Keeps s0 w))
    | (rintro x y z (hx : Keeps s0 z))
    | (rintro y (hx : Keeps s0 y))
    | (rintro x y (hx : Keeps s0 y.1))
    | (rintro x y (hx : Keeps s0 y.2))
    | lift_lets
    | (intro x; refine keeps_cut (x := x) (a := s0) ?_ ?_; subst x; rotate_left; clear_value x; intro hx)
    | (intro x; subst x)
    | simp -zeta only [keeps_upd]

theorem tileNetErr_keeps (u v o : Nat) (s : State) (hs : Keeps s0 s) :
    Keeps s0 (tileNetErr u v o s) := by
  unfold tileNetErr
  repeat' first
    | with_reducible assumption
    | (rintro x y (hx : Keeps s0 y))
    | (rintro x y z w (hx : Keeps s0 w))
    | (rintro x y z (hx : Keeps s0 z))
    | (rintro y (hx : Keeps s0 y))
    | (rintro x y (hx : Keeps s0 y.1))
    | (rintro x y (hx : Keeps s0 y.2))
    | with_reducible first | apply fire_keeps | apply setTile_keeps

theorem setJoff_keeps (j goal : Int) (s : State) (hs : Keeps s0 s) :
    Keeps s0 (setJoff j goal s) := by
  unfold setJoff
  repeat' first
    | with_reducible assumption
    | (rintro x y (hx : Keeps s0 y))
    | (rintro x y z w (hx : Keeps s0 w))
    | (rintro x y z (hx : Keeps s0 z))
    | (rintro y (hx : Keeps s0 y))
    | (rintro x y (hx : Keeps s0 y.1))
    | (rintro x y (hx : Keeps s0 y.2))
    | lift_lets
    | (intro x; refine keeps_cut (x := x) (a := s0) ?_ ?_; subst x; rotate_left; clear_value x; intro hx)
    | (intro x; subst x)
    | simp -zeta only [keeps_upd]
    | with_reducible first | apply setReg64_keeps

theorem freshFree_keeps (s : State) (hs : Keeps s0 s) :
    Keeps s0 (freshFree s) := by
  unfold freshFree
  repeat' first
    | with_reducible assumption
    | (rintro x y (hx : Keeps s0 y))
    | (rintro x y z w (hx : Keeps s0 w))
    | (rintro x y z (hx : Keeps s0 z))
    | (rintro y (hx : Keeps s0 y))
    | (rintro x y (hx : Keeps s0 y.1))
    | (rintro x y (hx : Keeps s0 y.2))
    | lift_lets
    | (intro x; refine keeps_cut (x := x) (a := s0) ?_ ?_; subst x; rotate_left; clear_value x; intro hx)
    | (intro x; subst x)
    | simp -zeta only [keeps_upd]

theorem rebuildTree_keeps (s : State) (hs : Keeps s0 s) :
    Keeps s0 (rebuildTree s) := by
  unfold rebuildTree
  repeat' first
    | with_reducible assumption
    | (rintro x y (hx : Keeps s0 y))
    | (rintro x y z w (hx : Keeps s0 w))
    | (rintro x y z (hx : Keeps s0 z))
    | (rintro y (hx : Keeps s0 y))
    | (rintro x y (hx : Keeps s0 y.1))
    | (rintro x y (hx : Keeps s0 y.2))
    | lift_lets
    | (intro x; refine keeps_cut (x := x) (a := s0) ?_ ?_; subst x; rotate_left; clear_value x; intro hx)
    | (intro x; subst x)
    | simp -zeta only [keeps_upd]
    | with_reducible apply keeps_ite
    | split

theorem settleTree_keeps (seed pkey : Nat) : ∀ (a0 : Nat) (s : State), Keeps s0 s →
    Keeps s0 (settleTree seed pkey a0 s) := by
  intro a0
  induction a0 with
  | zero => intro s hs; unfold settleTree; first | exact hs | (split <;> exact hs) | exact rebuildTree_keeps _ hs
  | succ n ih =>
    intro s hs
    unfold settleTree
    repeat' first
      | with_reducible assumption
      | with_reducible apply ih
      | (rintro x y (hx : Keeps s0 y))
      | (rintro x y z w (hx : Keeps s0 w))
      | (rintro x y z (hx : Keeps s0 z))
      | (rintro y (hx : Keeps s0 y))
      | (rintro x y (hx : Keeps s0 y.1))
      | (rintro x y (hx : Keeps s0 y.2))
      | lift_lets
      | (intro x; refine keeps_cut (x := x) (a := s0) ?_ ?_; subst x; rotate_left; clear_value x; intro hx)
      | (intro x; subst x)
      | simp -zeta only [keeps_upd]
      | with_reducible first | apply rebuildTree_keeps
      | with_reducible apply keeps_ite
      | split

theorem placeGeo_keeps (seed pkey : Nat) (s : State) (hs : Keeps s0 s) :
    Keeps s0 (placeGeo seed pkey s) := by
  unfold placeGeo
  repeat' first
    | with_reducible assumption
    | (rintro x y (hx : Keeps s0 y))
    | (rintro x y z w (hx : Keeps s0 w))
    | (rintro x y z (hx : Keeps s0 z))
    | (rintro y (hx : Keeps s0 y))
    | (rintro x y (hx : Keeps s0 y.1))
    | (rintro x y (hx : Keeps s0 y.2))
    | with_reducible first | apply settleTree_keeps

theorem placeTree_keeps (s : State) (hs : Keeps s0 s) :
    Keeps s0 (placeTree s) := by
  unfold placeTree
  repeat' first
    | with_reducible assumption
    | (rintro x y (hx : Keeps s0 y))
    | (rintro x y z w (hx : Keeps s0 w))
    | (rintro x y z (hx : Keeps s0 z))
    | (rintro y (hx : Keeps s0 y))
    | (rintro x y (hx : Keeps s0 y.1))
    | (rintro x y (hx : Keeps s0 y.2))
    | lift_lets
    | (intro x; refine keeps_cut (x := x) (a := s0) ?_ ?_; subst x; rotate_left; clear_value x; intro hx)
    | (intro x; subst x)
    | simp -zeta only [keeps_upd]

theorem mapTiles_keeps (f : Tile → Tile) (s : State) (hs : Keeps s0 s) :
    Keeps s0 (mapTiles f s) := by
  unfold mapTiles
  repeat' first
    | with_reducible assumption
    | (rintro x y (hx : Keeps s0 y))
    | (rintro x y z w (hx : Keeps s0 w))
    | (rintro x y z (hx : Keeps s0 z))
    | (rintro y (hx : Keeps s0 y))
    | (rintro x y (hx : Keeps s0 y.1))
    | (rintro x y (hx : Keeps s0 y.2))
    | lift_lets
    | (intro x; refine keeps_cut (x := x) (a := s0) ?_ ?_; subst x; rotate_left; clear_value x; intro hx)
    | (intro x; subst x)
    | simp -zeta only [keeps_upd]

theorem setLnkState_keeps (p : Die) (v : Nat) (s : State) (hs : Keeps s0 s) :
    Keeps s0 (setLnkState p v s) := by
  unfold setLnkState
  repeat' first
    | with_reducible assumption
    | (rintro x y (hx : Keeps s0 y))
    | (rintro x y z w (hx : Keeps s0 w))
    | (rintro x y z (hx : Keeps s0 z))
    | (rintro y (hx : Keeps s0 y))
    | (rintro x y (hx : Keeps s0 y.1))
    | (rintro x y (hx : Keeps s0 y.2))
    | with_reducible first | apply setBits_keeps

theorem showActive_keeps (s : State) (hs : Keeps s0 s) :
    Keeps s0 (showActive s) := by
  unfold showActive
  repeat' first
    | with_reducible assumption
    | (rintro x y (hx : Keeps s0 y))
    | (rintro x y z w (hx : Keeps s0 w))
    | (rintro x y z (hx : Keeps s0 z))
    | (rintro y (hx : Keeps s0 y))
    | (rintro x y (hx : Keeps s0 y.1))
    | (rintro x y (hx : Keeps s0 y.2))
    | with_reducible first | apply forAll_keeps | apply setLnkState_keeps
    | with_reducible apply keeps_ite
    | split

theorem readPage_keeps (rq : Req) (pg : Page) (o : Nat) (s : State) (hs : Keeps s0 s) :
    Keeps s0 (readPage rq pg o s).2 := by
  unfold readPage
  repeat' first
    | with_reducible assumption
    | (rintro x y (hx : Keeps s0 y))
    | (rintro x y z w (hx : Keeps s0 w))
    | (rintro x y z (hx : Keeps s0 z))
    | (rintro y (hx : Keeps s0 y))
    | (rintro x y (hx : Keeps s0 y.1))
    | (rintro x y (hx : Keeps s0 y.2))
    | lift_lets
    | (intro x; refine keeps_cut (x := x) (a := s0) ?_ ?_; subst x; rotate_left; clear_value x; intro hx)
    | (intro x; subst x)
    | simp -zeta only [keeps_upd]
    | with_reducible apply keeps_ite
    | split

theorem setSelTile_keeps (e : Sel) (t : Tile) (s : State) (hs : Keeps s0 s) :
    Keeps s0 (setSelTile e t s) := by
  unfold setSelTile
  repeat' first
    | with_reducible assumption
    | (rintro x y (hx : Keeps s0 y))
    | (rintro x y z w (hx : Keeps s0 w))
    | (rintro x y z (hx : Keeps s0 z))
    | (rintro y (hx : Keeps s0 y))
    | (rintro x y (hx : Keeps s0 y.1))
    | (rintro x y (hx : Keeps s0 y.2))
    | lift_lets
    | (intro x; refine keeps_cut (x := x) (a := s0) ?_ ?_; subst x; rotate_left; clear_value x; intro hx)
    | (intro x; subst x)
    | simp -zeta only [keeps_upd]
    | with_reducible first | apply setTile_keeps
    | with_reducible apply keeps_ite
    | split

theorem readView_keeps (rq : Req) (n o : Nat) (s : State) (hs : Keeps s0 s) :
    Keeps s0 (readView rq n o s).2 := by
  unfold readView
  repeat' first
    | with_reducible assumption
    | (rintro x y (hx : Keeps s0 y))
    | (rintro x y z w (hx : Keeps s0 w))
    | (rintro x y z (hx : Keeps s0 z))
    | (rintro y (hx : Keeps s0 y))
    | (rintro x y (hx : Keeps s0 y.1))
    | (rintro x y (hx : Keeps s0 y.2))
    | lift_lets
    | (intro x; refine keeps_cut (x := x) (a := s0) ?_ ?_; subst x; rotate_left; clear_value x; intro hx)
    | (intro x; subst x)
    | simp -zeta only [keeps_upd]
    | with_reducible first | apply denyDbg_keeps
    | with_reducible apply keeps_ite
    | split

theorem busRead_keeps (rq : Req) (off : Nat) (s : State) (hs : Keeps s0 s) :
    Keeps s0 (busRead rq off s).2 := by
  unfold busRead
  repeat' first
    | with_reducible assumption
    | (rintro x y (hx : Keeps s0 y))
    | (rintro x y z w (hx : Keeps s0 w))
    | (rintro x y z (hx : Keeps s0 z))
    | (rintro y (hx : Keeps s0 y))
    | (rintro x y (hx : Keeps s0 y.1))
    | (rintro x y (hx : Keeps s0 y.2))
    | lift_lets
    | (intro x; refine keeps_cut (x := x) (a := s0) ?_ ?_; subst x; rotate_left; clear_value x; intro hx)
    | (intro x; subst x)
    | simp -zeta only [keeps_upd]
    | with_reducible first | apply readPage_keeps | apply readView_keeps
    | with_reducible apply keeps_ite
    | split

theorem writePad_keeps (base size len : Nat) (s : State) (hs : Keeps s0 s) :
    Keeps s0 (writePad base size len s) := by
  unfold writePad
  repeat' first
    | with_reducible assumption
    | (rintro x y (hx : Keeps s0 y))
    | (rintro x y z w (hx : Keeps s0 w))
    | (rintro x y z (hx : Keeps s0 z))
    | (rintro y (hx : Keeps s0 y))
    | (rintro x y (hx : Keeps s0 y.1))
    | (rintro x y (hx : Keeps s0 y.2))
    | lift_lets
    | (intro x; refine keeps_cut (x := x) (a := s0) ?_ ?_; subst x; rotate_left; clear_value x; intro hx)
    | (intro x; subst x)
    | with_reducible first | apply setReg64_keeps | apply hbmWrite_keeps
    | with_reducible apply keeps_ite
    | split

theorem writeItem_keeps (base size step typ : Nat) (body : List Byte) (s : State) (hs : Keeps s0 s) :
    Keeps s0 (writeItem base size step typ body s) := by
  unfold writeItem
  repeat' first
    | with_reducible assumption
    | (rintro x y (hx : Keeps s0 y))
    | (rintro x y z w (hx : Keeps s0 w))
    | (rintro x y z (hx : Keeps s0 z))
    | (rintro y (hx : Keeps s0 y))
    | (rintro x y (hx : Keeps s0 y.1))
    | (rintro x y (hx : Keeps s0 y.2))
    | lift_lets
    | (intro x; refine keeps_cut (x := x) (a := s0) ?_ ?_; subst x; rotate_left; clear_value x; intro hx)
    | (intro x; subst x)
    | simp -zeta only [keeps_upd]
    | with_reducible first | apply setReg64_keeps | apply hbmWrite_keeps | apply writePad_keeps

theorem loseItem_keeps (s : State) (hs : Keeps s0 s) :
    Keeps s0 (loseItem s) := by
  unfold loseItem
  repeat' first
    | with_reducible assumption
    | (rintro x y (hx : Keeps s0 y))
    | (rintro x y z w (hx : Keeps s0 w))
    | (rintro x y z (hx : Keeps s0 z))
    | (rintro y (hx : Keeps s0 y))
    | (rintro x y (hx : Keeps s0 y.1))
    | (rintro x y (hx : Keeps s0 y.2))
    | lift_lets
    | (intro x; refine keeps_cut (x := x) (a := s0) ?_ ?_; subst x; rotate_left; clear_value x; intro hx)
    | (intro x; subst x)
    | simp -zeta only [keeps_upd]
    | with_reducible first | apply bump_keeps | apply setErr_keeps
    | with_reducible apply keeps_ite
    | split

theorem writeLost_keeps (s : State) (hs : Keeps s0 s) :
    Keeps s0 (writeLost s) := by
  unfold writeLost
  repeat' first
    | with_reducible assumption
    | (rintro x y (hx : Keeps s0 y))
    | (rintro x y z w (hx : Keeps s0 w))
    | (rintro x y z (hx : Keeps s0 z))
    | (rintro y (hx : Keeps s0 y))
    | (rintro x y (hx : Keeps s0 y.1))
    | (rintro x y (hx : Keeps s0 y.2))
    | lift_lets
    | (intro x; refine keeps_cut (x := x) (a := s0) ?_ ?_; subst x; rotate_left; clear_value x; intro hx)
    | (intro x; subst x)
    | simp -zeta only [keeps_upd]
    | with_reducible first | apply writeItem_keeps
    | with_reducible apply keeps_ite
    | split

theorem ledgerItemOf_keeps (step typ : Nat) (body : List Byte) (s : State) (hs : Keeps s0 s) :
    Keeps s0 (ledgerItemOf step typ body s) := by
  unfold ledgerItemOf
  repeat' first
    | with_reducible assumption
    | (rintro x y (hx : Keeps s0 y))
    | (rintro x y z w (hx : Keeps s0 w))
    | (rintro x y z (hx : Keeps s0 z))
    | (rintro y (hx : Keeps s0 y))
    | (rintro x y (hx : Keeps s0 y.1))
    | (rintro x y (hx : Keeps s0 y.2))
    | lift_lets
    | (intro x; refine keeps_cut (x := x) (a := s0) ?_ ?_; subst x; rotate_left; clear_value x; intro hx)
    | (intro x; subst x)
    | simp -zeta only [keeps_upd]
    | with_reducible first | apply writeItem_keeps | apply loseItem_keeps | apply writeLost_keeps
    | with_reducible apply keeps_ite
    | split

theorem ledgerItem_keeps (typ : Nat) (body : List Byte) (s : State) (hs : Keeps s0 s) :
    Keeps s0 (ledgerItem typ body s) := by
  unfold ledgerItem
  repeat' first
    | with_reducible assumption
    | (rintro x y (hx : Keeps s0 y))
    | (rintro x y z w (hx : Keeps s0 w))
    | (rintro x y z (hx : Keeps s0 z))
    | (rintro y (hx : Keeps s0 y))
    | (rintro x y (hx : Keeps s0 y.1))
    | (rintro x y (hx : Keeps s0 y.2))
    | with_reducible first | apply ledgerItemOf_keeps

theorem arrItem_keeps (typ : Nat) (body : List Byte) (s : State) (hs : Keeps s0 s) :
    Keeps s0 (arrItem typ body s) := by
  unfold arrItem
  repeat' first
    | with_reducible assumption
    | (rintro x y (hx : Keeps s0 y))
    | (rintro x y z w (hx : Keeps s0 w))
    | (rintro x y z (hx : Keeps s0 z))
    | (rintro y (hx : Keeps s0 y))
    | (rintro x y (hx : Keeps s0 y.1))
    | (rintro x y (hx : Keeps s0 y.2))
    | with_reducible first | apply ledgerItemOf_keeps

theorem clearStagingVer_keeps (s : State) (hs : Keeps s0 s) :
    Keeps s0 (clearStagingVer s) := by
  unfold clearStagingVer
  repeat' first
    | with_reducible assumption
    | (rintro x y (hx : Keeps s0 y))
    | (rintro x y z w (hx : Keeps s0 w))
    | (rintro x y z (hx : Keeps s0 z))
    | (rintro y (hx : Keeps s0 y))
    | (rintro x y (hx : Keeps s0 y.1))
    | (rintro x y (hx : Keeps s0 y.2))
    | lift_lets
    | (intro x; refine keeps_cut (x := x) (a := s0) ?_ ?_; subst x; rotate_left; clear_value x; intro hx)
    | (intro x; subst x)
    | simp -zeta only [keeps_upd]
    | with_reducible first | apply setReg_keeps
    | with_reducible apply keeps_ite
    | split

theorem bankWrite_keeps (rq : Req) (pg : Page) (o : Nat) (v m : W32) (s : State) (hs : Keeps s0 s) :
    Keeps s0 (bankWrite rq pg o v m s) := by
  unfold bankWrite
  repeat' first
    | with_reducible assumption
    | (rintro x y (hx : Keeps s0 y))
    | (rintro x y z w (hx : Keeps s0 w))
    | (rintro x y z (hx : Keeps s0 z))
    | (rintro y (hx : Keeps s0 y))
    | (rintro x y (hx : Keeps s0 y.1))
    | (rintro x y (hx : Keeps s0 y.2))
    | lift_lets
    | (intro x; refine keeps_cut (x := x) (a := s0) ?_ ?_; subst x; rotate_left; clear_value x; intro hx)
    | (intro x; subst x)
    | with_reducible first | apply setStaging_keeps | apply setAcc_keeps | apply clearStagingVer_keeps
    | with_reducible apply keeps_ite
    | split

theorem plainWrite_keeps (rq : Req) (pg : Page) (o : Nat) (v : W32) (s : State) (hs : Keeps s0 s) :
    Keeps s0 (plainWrite rq pg o v s) := by
  unfold plainWrite
  repeat' first
    | with_reducible assumption
    | (rintro x y (hx : Keeps s0 y))
    | (rintro x y z w (hx : Keeps s0 w))
    | (rintro x y z (hx : Keeps s0 z))
    | (rintro y (hx : Keeps s0 y))
    | (rintro x y (hx : Keeps s0 y.1))
    | (rintro x y (hx : Keeps s0 y.2))
    | lift_lets
    | (intro x; refine keeps_cut (x := x) (a := s0) ?_ ?_; subst x; rotate_left; clear_value x; intro hx)
    | (intro x; subst x)
    | simp -zeta only [keeps_upd]
    | split
    | with_reducible first | apply setReg_keeps | apply bankWrite_keeps

theorem holdLow_keeps (rq : Req) (pg : Page) (o : Nat) (v : W32) (s : State) (hs : Keeps s0 s) :
    Keeps s0 (holdLow rq pg o v s) := by
  unfold holdLow
  repeat' first
    | with_reducible assumption
    | (rintro x y (hx : Keeps s0 y))
    | (rintro x y z w (hx : Keeps s0 w))
    | (rintro x y z (hx : Keeps s0 z))
    | (rintro y (hx : Keeps s0 y))
    | (rintro x y (hx : Keeps s0 y.1))
    | (rintro x y (hx : Keeps s0 y.2))
    | lift_lets
    | (intro x; refine keeps_cut (x := x) (a := s0) ?_ ?_; subst x; rotate_left; clear_value x; intro hx)
    | (intro x; subst x)
    | simp -zeta only [keeps_upd]

theorem dropHeld_keeps (rq : Req) (s : State) (hs : Keeps s0 s) :
    Keeps s0 (dropHeld rq s) := by
  unfold dropHeld
  repeat' first
    | with_reducible assumption
    | (rintro x y (hx : Keeps s0 y))
    | (rintro x y z w (hx : Keeps s0 w))
    | (rintro x y z (hx : Keeps s0 z))
    | (rintro y (hx : Keeps s0 y))
    | (rintro x y (hx : Keeps s0 y.1))
    | (rintro x y (hx : Keeps s0 y.2))
    | lift_lets
    | (intro x; refine keeps_cut (x := x) (a := s0) ?_ ?_; subst x; rotate_left; clear_value x; intro hx)
    | (intro x; subst x)
    | simp -zeta only [keeps_upd]

theorem applyHigh_keeps (rq : Req) (pg : Page) (o : Nat) (v : W32) (s : State) (hs : Keeps s0 s) :
    Keeps s0 (applyHigh rq pg o v s) := by
  unfold applyHigh
  repeat' first
    | with_reducible assumption
    | (rintro x y (hx : Keeps s0 y))
    | (rintro x y z w (hx : Keeps s0 w))
    | (rintro x y z (hx : Keeps s0 z))
    | (rintro y (hx : Keeps s0 y))
    | (rintro x y (hx : Keeps s0 y.1))
    | (rintro x y (hx : Keeps s0 y.2))
    | lift_lets
    | (intro x; refine keeps_cut (x := x) (a := s0) ?_ ?_; subst x; rotate_left; clear_value x; intro hx)
    | (intro x; subst x)
    | simp -zeta only [keeps_upd]
    | with_reducible first | apply plainWrite_keeps | apply dropHeld_keeps
    | split

theorem accErrAt_keeps (off : Nat) (s : State) (hs : Keeps s0 s) :
    Keeps s0 (accErrAt off s) := by
  unfold accErrAt
  repeat' first
    | with_reducible assumption
    | (rintro x y (hx : Keeps s0 y))
    | (rintro x y z w (hx : Keeps s0 w))
    | (rintro x y z (hx : Keeps s0 z))
    | (rintro y (hx : Keeps s0 y))
    | (rintro x y (hx : Keeps s0 y.1))
    | (rintro x y (hx : Keeps s0 y.2))
    | lift_lets
    | (intro x; refine keeps_cut (x := x) (a := s0) ?_ ?_; subst x; rotate_left; clear_value x; intro hx)
    | (intro x; subst x)
    | simp -zeta only [keeps_upd]
    | with_reducible first | apply setAcc_keeps
    | with_reducible apply keeps_ite
    | split

theorem injectErrs_keeps (pg : Page) (v : W32) (s : State) (hs : Keeps s0 s) :
    Keeps s0 (injectErrs pg v s) := by
  unfold injectErrs
  repeat' first
    | with_reducible assumption
    | (rintro x y (hx : Keeps s0 y))
    | (rintro x y z w (hx : Keeps s0 w))
    | (rintro x y z (hx : Keeps s0 z))
    | (rintro y (hx : Keeps s0 y))
    | (rintro x y (hx : Keeps s0 y.1))
    | (rintro x y (hx : Keeps s0 y.2))
    | lift_lets
    | (intro x; refine keeps_cut (x := x) (a := s0) ?_ ?_; subst x; rotate_left; clear_value x; intro hx)
    | (intro x; subst x)
    | with_reducible first | apply setErr_keeps | apply setAcc_keeps | apply forAll_keeps
    | with_reducible apply keeps_ite
    | split

theorem barWrite_keeps (rq : Req) (f : State → State) (s : State)
    (hf : ∀ x0, Keeps s0 x0 → Keeps s0 (f x0)) (hs : Keeps s0 s) :
    Keeps s0 (barWrite rq f s) := by
  unfold barWrite
  repeat' first
    | with_reducible assumption
    | (rintro x y (hx : Keeps s0 y))
    | (rintro x y z w (hx : Keeps s0 w))
    | (rintro x y z (hx : Keeps s0 z))
    | (rintro y (hx : Keeps s0 y))
    | (rintro x y (hx : Keeps s0 y.1))
    | (rintro x y (hx : Keeps s0 y.2))
    | with_reducible first | apply denyDbg_keeps
    | with_reducible first | apply hf
    | with_reducible apply keeps_ite
    | split

theorem barRead_keeps (rq : Req) (f : State → State) (s : State)
    (hf : ∀ x0, Keeps s0 x0 → Keeps s0 (f x0)) (hs : Keeps s0 s) :
    Keeps s0 (barRead rq f s) := by
  unfold barRead
  repeat' first
    | with_reducible assumption
    | (rintro x y (hx : Keeps s0 y))
    | (rintro x y z w (hx : Keeps s0 w))
    | (rintro x y z (hx : Keeps s0 z))
    | (rintro y (hx : Keeps s0 y))
    | (rintro x y (hx : Keeps s0 y.1))
    | (rintro x y (hx : Keeps s0 y.2))
    | with_reducible first | apply denyDbg_keeps
    | with_reducible first | apply hf
    | with_reducible apply keeps_ite
    | split

theorem cfgDone_keeps (cmd code : Nat) (s : State) (hs : Keeps s0 s) :
    Keeps s0 (cfgDone cmd code s) := by
  unfold cfgDone
  repeat' first
    | with_reducible assumption
    | (rintro x y (hx : Keeps s0 y))
    | (rintro x y z w (hx : Keeps s0 w))
    | (rintro x y z (hx : Keeps s0 z))
    | (rintro y (hx : Keeps s0 y))
    | (rintro x y (hx : Keeps s0 y.1))
    | (rintro x y (hx : Keeps s0 y.2))
    | with_reducible first | apply setReg_keeps | apply fire_keeps

theorem cfgRefuse_keeps (cmd code : Nat) (o : Option Nat) (s : State) (hs : Keeps s0 s) :
    Keeps s0 (cfgRefuse cmd code o s) := by
  unfold cfgRefuse
  repeat' first
    | with_reducible assumption
    | (rintro x y (hx : Keeps s0 y))
    | (rintro x y z w (hx : Keeps s0 w))
    | (rintro x y z (hx : Keeps s0 z))
    | (rintro y (hx : Keeps s0 y))
    | (rintro x y (hx : Keeps s0 y.1))
    | (rintro x y (hx : Keeps s0 y.2))
    | lift_lets
    | (intro x; refine keeps_cut (x := x) (a := s0) ?_ ?_; subst x; rotate_left; clear_value x; intro hx)
    | (intro x; subst x)
    | with_reducible first | apply setReg_keeps | apply setErr_keeps | apply cfgDone_keeps
    | split

theorem configItem_keeps (cmd : Nat) (s : State) (hs : Keeps s0 s) :
    Keeps s0 (configItem cmd s) := by
  unfold configItem
  repeat' first
    | with_reducible assumption
    | (rintro x y (hx : Keeps s0 y))
    | (rintro x y z w (hx : Keeps s0 w))
    | (rintro x y z (hx : Keeps s0 z))
    | (rintro y (hx : Keeps s0 y))
    | (rintro x y (hx : Keeps s0 y.1))
    | (rintro x y (hx : Keeps s0 y.2))
    | with_reducible first | apply ledgerItem_keeps

theorem vecRecheck_keeps (s : State) (hs : Keeps s0 s) :
    Keeps s0 (vecRecheck s) := by
  unfold vecRecheck
  repeat' first
    | with_reducible assumption
    | (rintro x y (hx : Keeps s0 y))
    | (rintro x y z w (hx : Keeps s0 w))
    | (rintro x y z (hx : Keeps s0 z))
    | (rintro y (hx : Keeps s0 y))
    | (rintro x y (hx : Keeps s0 y.1))
    | (rintro x y (hx : Keeps s0 y.2))
    | lift_lets
    | (intro x; refine keeps_cut (x := x) (a := s0) ?_ ?_; subst x; rotate_left; clear_value x; intro hx)
    | (intro x; subst x)
    | with_reducible first | apply vectorFire_keeps | apply forAll_keeps
    | with_reducible apply keeps_ite
    | split

theorem takeLnk_keeps (s : State) (hs : Keeps s0 s) :
    Keeps s0 (takeLnk s) := by
  unfold takeLnk
  repeat' first
    | with_reducible assumption
    | (rintro x y (hx : Keeps s0 y))
    | (rintro x y z w (hx : Keeps s0 w))
    | (rintro x y z (hx : Keeps s0 z))
    | (rintro y (hx : Keeps s0 y))
    | (rintro x y (hx : Keeps s0 y.1))
    | (rintro x y (hx : Keeps s0 y.2))
    | lift_lets
    | (intro x; refine keeps_cut (x := x) (a := s0) ?_ ?_; subst x; rotate_left; clear_value x; intro hx)
    | (intro x; subst x)
    | simp -zeta only [keeps_upd]
    | with_reducible apply keeps_foldl
    | with_reducible apply keeps_foldl1
    | with_reducible apply keeps_foldl2
    | with_reducible exact hx

theorem takeEpoch_keeps (s : State) (hs : Keeps s0 s) :
    Keeps s0 (takeEpoch s) := by
  unfold takeEpoch
  repeat' first
    | with_reducible assumption
    | (rintro x y (hx : Keeps s0 y))
    | (rintro x y z w (hx : Keeps s0 w))
    | (rintro x y z (hx : Keeps s0 z))
    | (rintro y (hx : Keeps s0 y))
    | (rintro x y (hx : Keeps s0 y.1))
    | (rintro x y (hx : Keeps s0 y.2))
    | lift_lets
    | (intro x; refine keeps_cut (x := x) (a := s0) ?_ ?_; subst x; rotate_left; clear_value x; intro hx)
    | (intro x; subst x)
    | simp -zeta only [keeps_upd]
    | with_reducible first | apply setReg_keeps

theorem takeStepBank_keeps (s : State) (hs : Keeps s0 s) :
    Keeps s0 (takeStepBank s) := by
  unfold takeStepBank
  repeat' first
    | with_reducible assumption
    | (rintro x y (hx : Keeps s0 y))
    | (rintro x y z w (hx : Keeps s0 w))
    | (rintro x y z (hx : Keeps s0 z))
    | (rintro y (hx : Keeps s0 y))
    | (rintro x y (hx : Keeps s0 y.1))
    | (rintro x y (hx : Keeps s0 y.2))
    | with_reducible first | apply takeLnk_keeps | apply takeEpoch_keeps
    | with_reducible apply keeps_ite
    | split

theorem applyCfg_keeps (s : State) (hs : Keeps s0 s) :
    Keeps s0 (applyCfg s) := by
  unfold applyCfg
  repeat' first
    | with_reducible assumption
    | (rintro x y (hx : Keeps s0 y))
    | (rintro x y z w (hx : Keeps s0 w))
    | (rintro x y z (hx : Keeps s0 z))
    | (rintro y (hx : Keeps s0 y))
    | (rintro x y (hx : Keeps s0 y.1))
    | (rintro x y (hx : Keeps s0 y.2))
    | lift_lets
    | (intro x; refine keeps_cut (x := x) (a := s0) ?_ ?_; subst x; rotate_left; clear_value x; intro hx)
    | (intro x; subst x)
    | simp -zeta only [keeps_upd]
    | with_reducible first | apply setReg_keeps | apply cfgDone_keeps | apply configItem_keeps | apply vecRecheck_keeps | apply takeStepBank_keeps
    | with_reducible apply keeps_ite
    | split

theorem cfgAccept_keeps (op : CfgOp) (s : State) (hs : Keeps s0 s) :
    Keeps s0 (cfgAccept op s) := by
  unfold cfgAccept
  repeat' first
    | with_reducible assumption
    | (rintro x y (hx : Keeps s0 y))
    | (rintro x y z w (hx : Keeps s0 w))
    | (rintro x y z (hx : Keeps s0 z))
    | (rintro y (hx : Keeps s0 y))
    | (rintro x y (hx : Keeps s0 y.1))
    | (rintro x y (hx : Keeps s0 y.2))
    | lift_lets
    | (intro x; refine keeps_cut (x := x) (a := s0) ?_ ?_; subst x; rotate_left; clear_value x; intro hx)
    | (intro x; subst x)
    | simp -zeta only [keeps_upd]
    | with_reducible first | apply setReg_keeps | apply bump_keeps | apply applyCfg_keeps
    | with_reducible apply keeps_ite
    | split

theorem cfgCommit_keeps (s : State) (hs : Keeps s0 s) :
    Keeps s0 (cfgCommit s) := by
  unfold cfgCommit
  repeat' first
    | with_reducible assumption
    | (rintro x y (hx : Keeps s0 y))
    | (rintro x y z w (hx : Keeps s0 w))
    | (rintro x y z (hx : Keeps s0 z))
    | (rintro y (hx : Keeps s0 y))
    | (rintro x y (hx : Keeps s0 y.1))
    | (rintro x y (hx : Keeps s0 y.2))
    | lift_lets
    | (intro x; refine keeps_cut (x := x) (a := s0) ?_ ?_; subst x; rotate_left; clear_value x; intro hx)
    | (intro x; subst x)
    | simp -zeta only [keeps_upd]
    | with_reducible first | apply cfgRefuse_keeps | apply cfgAccept_keeps
    | with_reducible apply keeps_ite
    | split

theorem cfgRollback_keeps (s : State) (hs : Keeps s0 s) :
    Keeps s0 (cfgRollback s) := by
  unfold cfgRollback
  repeat' first
    | with_reducible assumption
    | (rintro x y (hx : Keeps s0 y))
    | (rintro x y z w (hx : Keeps s0 w))
    | (rintro x y z (hx : Keeps s0 z))
    | (rintro y (hx : Keeps s0 y))
    | (rintro x y (hx : Keeps s0 y.1))
    | (rintro x y (hx : Keeps s0 y.2))
    | lift_lets
    | (intro x; refine keeps_cut (x := x) (a := s0) ?_ ?_; subst x; rotate_left; clear_value x; intro hx)
    | (intro x; subst x)
    | simp -zeta only [keeps_upd]
    | with_reducible first | apply cfgRefuse_keeps | apply cfgAccept_keeps
    | with_reducible apply keeps_ite
    | split

theorem cfgCopy_keeps (s : State) (hs : Keeps s0 s) :
    Keeps s0 (cfgCopy s) := by
  unfold cfgCopy
  repeat' first
    | with_reducible assumption
    | (rintro x y (hx : Keeps s0 y))
    | (rintro x y z w (hx : Keeps s0 w))
    | (rintro x y z (hx : Keeps s0 z))
    | (rintro y (hx : Keeps s0 y))
    | (rintro x y (hx : Keeps s0 y.1))
    | (rintro x y (hx : Keeps s0 y.2))
    | lift_lets
    | (intro x; refine keeps_cut (x := x) (a := s0) ?_ ?_; subst x; rotate_left; clear_value x; intro hx)
    | (intro x; subst x)
    | simp -zeta only [keeps_upd]
    | with_reducible first | apply clearStagingVer_keeps | apply cfgDone_keeps | apply cfgRefuse_keeps | apply configItem_keeps
    | with_reducible apply keeps_ite
    | split

theorem rwbWrite_keeps (rq : Req) (off : Nat) (v : W32) (s : State) (hs : Keeps s0 s) :
    Keeps s0 (rwbWrite rq off v s) := by
  unfold rwbWrite
  repeat' first
    | with_reducible assumption
    | (rintro x y (hx : Keeps s0 y))
    | (rintro x y z w (hx : Keeps s0 w))
    | (rintro x y z (hx : Keeps s0 z))
    | (rintro y (hx : Keeps s0 y))
    | (rintro x y (hx : Keeps s0 y.1))
    | (rintro x y (hx : Keeps s0 y.2))
    | lift_lets
    | (intro x; refine keeps_cut (x := x) (a := s0) ?_ ?_; subst x; rotate_left; clear_value x; intro hx)
    | (intro x; subst x)
    | simp -zeta only [keeps_upd]
    | with_reducible first | apply bankWrite_keeps | apply holdLow_keeps | apply applyHigh_keeps
    | with_reducible apply keeps_ite
    | split

theorem faultItem_keeps (cls cause : Nat) (sus : List (Nat × Nat)) (s : State) (hs : Keeps s0 s) :
    Keeps s0 (faultItem cls cause sus s) := by
  unfold faultItem
  repeat' first
    | with_reducible assumption
    | (rintro x y (hx : Keeps s0 y))
    | (rintro x y z w (hx : Keeps s0 w))
    | (rintro x y z (hx : Keeps s0 z))
    | (rintro y (hx : Keeps s0 y))
    | (rintro x y (hx : Keeps s0 y.1))
    | (rintro x y (hx : Keeps s0 y.2))
    | lift_lets
    | (intro x; refine keeps_cut (x := x) (a := s0) ?_ ?_; subst x; rotate_left; clear_value x; intro hx)
    | (intro x; subst x)
    | with_reducible first | apply ledgerItem_keeps

theorem uncodedFault_keeps (cls : Nat) (s : State) (hs : Keeps s0 s) :
    Keeps s0 (uncodedFault cls s) := by
  unfold uncodedFault
  repeat' first
    | with_reducible assumption
    | (rintro x y (hx : Keeps s0 y))
    | (rintro x y z w (hx : Keeps s0 w))
    | (rintro x y z (hx : Keeps s0 z))
    | (rintro y (hx : Keeps s0 y))
    | (rintro x y (hx : Keeps s0 y.1))
    | (rintro x y (hx : Keeps s0 y.2))
    | with_reducible first | apply freshFree_keeps | apply faultItem_keeps

theorem setRec_keeps (v : Nat) (s : State) (hs : Keeps s0 s) :
    Keeps s0 (setRec v s) := by
  unfold setRec
  repeat' first
    | with_reducible assumption
    | (rintro x y (hx : Keeps s0 y))
    | (rintro x y z w (hx : Keeps s0 w))
    | (rintro x y z (hx : Keeps s0 z))
    | (rintro y (hx : Keeps s0 y))
    | (rintro x y (hx : Keeps s0 y.1))
    | (rintro x y (hx : Keeps s0 y.2))
    | with_reducible first | apply setBits_keeps | apply fire_keeps
    | with_reducible apply keeps_ite
    | split

theorem recordCause_keeps (cause u v detail : Nat) (s : State) (hs : Keeps s0 s) :
    Keeps s0 (recordCause cause u v detail s) := by
  unfold recordCause
  repeat' first
    | with_reducible assumption
    | (rintro x y (hx : Keeps s0 y))
    | (rintro x y z w (hx : Keeps s0 w))
    | (rintro x y z (hx : Keeps s0 z))
    | (rintro y (hx : Keeps s0 y))
    | (rintro x y (hx : Keeps s0 y.1))
    | (rintro x y (hx : Keeps s0 y.2))
    | lift_lets
    | (intro x; refine keeps_cut (x := x) (a := s0) ?_ ?_; subst x; rotate_left; clear_value x; intro hx)
    | (intro x; subst x)
    | with_reducible first | apply setReg_keeps | apply setReg64_keeps
    | with_reducible apply keeps_ite
    | split

theorem scrubTiles_keeps (s : State) (hs : Keeps s0 s) :
    Keeps s0 (scrubTiles s) := by
  unfold scrubTiles
  repeat' first
    | with_reducible assumption
    | (rintro x y (hx : Keeps s0 y))
    | (rintro x y z w (hx : Keeps s0 w))
    | (rintro x y z (hx : Keeps s0 z))
    | (rintro y (hx : Keeps s0 y))
    | (rintro x y (hx : Keeps s0 y.1))
    | (rintro x y (hx : Keeps s0 y.2))
    | lift_lets
    | (intro x; refine keeps_cut (x := x) (a := s0) ?_ ?_; subst x; rotate_left; clear_value x; intro hx)
    | (intro x; subst x)
    | simp -zeta only [keeps_upd]

theorem fieldsOff_keeps (s : State) (hs : Keeps s0 s) :
    Keeps s0 (fieldsOff s) := by
  unfold fieldsOff
  repeat' first
    | with_reducible assumption
    | (rintro x y (hx : Keeps s0 y))
    | (rintro x y z w (hx : Keeps s0 w))
    | (rintro x y z (hx : Keeps s0 z))
    | (rintro y (hx : Keeps s0 y))
    | (rintro x y (hx : Keeps s0 y.1))
    | (rintro x y (hx : Keeps s0 y.2))
    | lift_lets
    | (intro x; refine keeps_cut (x := x) (a := s0) ?_ ?_; subst x; rotate_left; clear_value x; intro hx)
    | (intro x; subst x)
    | simp -zeta only [keeps_upd]

theorem linksDown_keeps (s : State) (hs : Keeps s0 s) :
    Keeps s0 (linksDown s) := by
  unfold linksDown
  repeat' first
    | with_reducible assumption
    | (rintro x y (hx : Keeps s0 y))
    | (rintro x y z w (hx : Keeps s0 w))
    | (rintro x y z (hx : Keeps s0 z))
    | (rintro y (hx : Keeps s0 y))
    | (rintro x y (hx : Keeps s0 y.1))
    | (rintro x y (hx : Keeps s0 y.2))
    | lift_lets
    | (intro x; refine keeps_cut (x := x) (a := s0) ?_ ?_; subst x; rotate_left; clear_value x; intro hx)
    | (intro x; subst x)
    | simp -zeta only [keeps_upd]
    | with_reducible first | apply setBits_keeps | apply forAll_keeps | apply setLink_keeps

theorem eraseKeys_keeps (s : State) (hs : Keeps s0 s) :
    Keeps s0 (eraseKeys s) := by
  unfold eraseKeys
  repeat' first
    | with_reducible assumption
    | (rintro x y (hx : Keeps s0 y))
    | (rintro x y z w (hx : Keeps s0 w))
    | (rintro x y z (hx : Keeps s0 z))
    | (rintro y (hx : Keeps s0 y))
    | (rintro x y (hx : Keeps s0 y.1))
    | (rintro x y (hx : Keeps s0 y.2))
    | lift_lets
    | (intro x; refine keeps_cut (x := x) (a := s0) ?_ ?_; subst x; rotate_left; clear_value x; intro hx)
    | (intro x; subst x)
    | simp -zeta only [keeps_upd]
    | with_reducible first | apply sealRegions_keeps | apply showActive_keeps

theorem failScrub_keeps (s : State) (hs : Keeps s0 s) :
    Keeps s0 (failScrub s) := by
  unfold failScrub
  repeat' first
    | with_reducible assumption
    | (rintro x y (hx : Keeps s0 y))
    | (rintro x y z w (hx : Keeps s0 w))
    | (rintro x y z (hx : Keeps s0 z))
    | (rintro y (hx : Keeps s0 y))
    | (rintro x y (hx : Keeps s0 y.1))
    | (rintro x y (hx : Keeps s0 y.2))
    | lift_lets
    | (intro x; refine keeps_cut (x := x) (a := s0) ?_ ?_; subst x; rotate_left; clear_value x; intro hx)
    | (intro x; subst x)
    | simp -zeta only [keeps_upd]
    | with_reducible first | apply fire_keeps | apply setErr_keeps
    | with_reducible apply keeps_ite
    | split

theorem latchTrip_keeps (s : State) (h : Keeps s0 s) : Keeps s0 (latchTrip s) :=
  ⟨h.code, h.silicon, h.serial, h.mfg, h.pending, fun _ => mwf_nil 0, fun x => ⟨(h.mode x).quiet, (h.mode x).fitted⟩⟩

theorem tripMarks_keeps (bit : Nat) (pg : Page) (eb : Nat) (s : State) (hs : Keeps s0 s) :
    Keeps s0 (tripMarks bit pg eb s) := by
  unfold tripMarks
  repeat' first
    | with_reducible assumption
    | (rintro x y (hx : Keeps s0 y))
    | (rintro x y z w (hx : Keeps s0 w))
    | (rintro x y z (hx : Keeps s0 z))
    | (rintro y (hx : Keeps s0 y))
    | (rintro x y (hx : Keeps s0 y.1))
    | (rintro x y (hx : Keeps s0 y.2))
    | lift_lets
    | (intro x; refine keeps_cut (x := x) (a := s0) ?_ ?_; subst x; rotate_left; clear_value x; intro hx)
    | (intro x; subst x)
    | with_reducible first | apply setReg_keeps | apply setErr_keeps | apply fieldsOff_keeps | apply linksDown_keeps | apply eraseKeys_keeps | apply failScrub_keeps | apply latchTrip_keeps
    | with_reducible apply keeps_ite
    | split

theorem pinMarks_keeps (s : State) (hs : Keeps s0 s) :
    Keeps s0 (pinMarks s) := by
  unfold pinMarks
  repeat' first
    | with_reducible assumption
    | (rintro x y (hx : Keeps s0 y))
    | (rintro x y z w (hx : Keeps s0 w))
    | (rintro x y z (hx : Keeps s0 z))
    | (rintro y (hx : Keeps s0 y))
    | (rintro x y (hx : Keeps s0 y.1))
    | (rintro x y (hx : Keeps s0 y.2))
    | lift_lets
    | (intro x; refine keeps_cut (x := x) (a := s0) ?_ ?_; subst x; rotate_left; clear_value x; intro hx)
    | (intro x; subst x)
    | with_reducible first | apply tripMarks_keeps
    | with_reducible apply keeps_ite
    | split

theorem dropData_keeps (s : State) (hs : Keeps s0 s) :
    Keeps s0 (dropData s) := by
  unfold dropData
  repeat' first
    | with_reducible assumption
    | (rintro x y (hx : Keeps s0 y))
    | (rintro x y z w (hx : Keeps s0 w))
    | (rintro x y z (hx : Keeps s0 z))
    | (rintro y (hx : Keeps s0 y))
    | (rintro x y (hx : Keeps s0 y.1))
    | (rintro x y (hx : Keeps s0 y.2))
    | lift_lets
    | (intro x; refine keeps_cut (x := x) (a := s0) ?_ ?_; subst x; rotate_left; clear_value x; intro hx)
    | (intro x; subst x)
    | simp -zeta only [keeps_upd]
    | with_reducible first | apply setReg_keeps | apply setReg64_keeps | apply setBits_keeps | apply forAll_keeps | apply sealRegions_keeps

theorem rememberSus_keeps (s : State) (hs : Keeps s0 s) :
    Keeps s0 (rememberSus s) := by
  unfold rememberSus
  repeat' first
    | with_reducible assumption
    | (rintro x y (hx : Keeps s0 y))
    | (rintro x y z w (hx : Keeps s0 w))
    | (rintro x y z (hx : Keeps s0 z))
    | (rintro y (hx : Keeps s0 y))
    | (rintro x y (hx : Keeps s0 y.1))
    | (rintro x y (hx : Keeps s0 y.2))
    | lift_lets
    | (intro x; refine keeps_cut (x := x) (a := s0) ?_ ?_; subst x; rotate_left; clear_value x; intro hx)
    | (intro x; subst x)
    | simp -zeta only [keeps_upd]
    | with_reducible apply keeps_foldl
    | with_reducible apply keeps_foldl1
    | with_reducible apply keeps_foldl2
    | with_reducible exact hx

theorem recoveryItem_keeps (own : Bool) (memb step : Nat) (s : State) (hs : Keeps s0 s) :
    Keeps s0 (recoveryItem own memb step s) := by
  unfold recoveryItem
  repeat' first
    | with_reducible assumption
    | (rintro x y (hx : Keeps s0 y))
    | (rintro x y z w (hx : Keeps s0 w))
    | (rintro x y z (hx : Keeps s0 z))
    | (rintro y (hx : Keeps s0 y))
    | (rintro x y (hx : Keeps s0 y.1))
    | (rintro x y (hx : Keeps s0 y.2))
    | lift_lets
    | (intro x; refine keeps_cut (x := x) (a := s0) ?_ ?_; subst x; rotate_left; clear_value x; intro hx)
    | (intro x; subst x)
    | with_reducible first | apply ledgerItem_keeps
    | split

theorem recoveryCut_keeps (s : State) (hs : Keeps s0 s) :
    Keeps s0 (recoveryCut s) := by
  unfold recoveryCut
  repeat' first
    | with_reducible assumption
    | (rintro x y (hx : Keeps s0 y))
    | (rintro x y z w (hx : Keeps s0 w))
    | (rintro x y z (hx : Keeps s0 z))
    | (rintro y (hx : Keeps s0 y))
    | (rintro x y (hx : Keeps s0 y.1))
    | (rintro x y (hx : Keeps s0 y.2))
    | with_reducible first | apply rememberSus_keeps | apply recoveryItem_keeps
    | with_reducible apply keeps_ite
    | split

theorem dropImage_keeps (s : State) (hs : Keeps s0 s) :
    Keeps s0 (dropImage s) := by
  unfold dropImage
  repeat' first
    | with_reducible assumption
    | (rintro x y (hx : Keeps s0 y))
    | (rintro x y z w (hx : Keeps s0 w))
    | (rintro x y z (hx : Keeps s0 z))
    | (rintro y (hx : Keeps s0 y))
    | (rintro x y (hx : Keeps s0 y.1))
    | (rintro x y (hx : Keeps s0 y.2))
    | with_reducible first | apply setReg_keeps | apply setRec_keeps | apply dropData_keeps | apply recoveryCut_keeps

theorem enterFault_keeps (s : State) (hs : Keeps s0 s) :
    Keeps s0 (enterFault s) := by
  unfold enterFault
  repeat' first
    | with_reducible assumption
    | (rintro x y (hx : Keeps s0 y))
    | (rintro x y z w (hx : Keeps s0 w))
    | (rintro x y z (hx : Keeps s0 z))
    | (rintro y (hx : Keeps s0 y))
    | (rintro x y (hx : Keeps s0 y.1))
    | (rintro x y (hx : Keeps s0 y.2))
    | lift_lets
    | (intro x; refine keeps_cut (x := x) (a := s0) ?_ ?_; subst x; rotate_left; clear_value x; intro hx)
    | (intro x; subst x)
    | simp -zeta only [keeps_upd]
    | with_reducible first | apply setRun_keeps | apply midDone_keeps | apply applyCfg_keeps | apply setRec_keeps | apply scrubTiles_keeps | apply pinMarks_keeps | apply dropData_keeps | apply recoveryCut_keeps
    | with_reducible apply keeps_ite
    | split

theorem moduleFault_keeps (s : State) (hs : Keeps s0 s) :
    Keeps s0 (moduleFault s) := by
  unfold moduleFault
  repeat' first
    | with_reducible assumption
    | (rintro x y (hx : Keeps s0 y))
    | (rintro x y z w (hx : Keeps s0 w))
    | (rintro x y z (hx : Keeps s0 z))
    | (rintro y (hx : Keeps s0 y))
    | (rintro x y (hx : Keeps s0 y.1))
    | (rintro x y (hx : Keeps s0 y.2))
    | with_reducible first | apply uncodedFault_keeps | apply enterFault_keeps
    | with_reducible apply keeps_ite
    | split

theorem callHalt_keeps (s : State) (hs : Keeps s0 s) :
    Keeps s0 (callHalt s) := by
  unfold callHalt
  repeat' first
    | with_reducible assumption
    | (rintro x y (hx : Keeps s0 y))
    | (rintro x y z w (hx : Keeps s0 w))
    | (rintro x y z (hx : Keeps s0 z))
    | (rintro y (hx : Keeps s0 y))
    | (rintro x y (hx : Keeps s0 y.1))
    | (rintro x y (hx : Keeps s0 y.2))
    | lift_lets
    | (intro x; refine keeps_cut (x := x) (a := s0) ?_ ?_; subst x; rotate_left; clear_value x; intro hx)
    | (intro x; subst x)
    | simp -zeta only [keeps_upd]
    | with_reducible first | apply enterFault_keeps
    | with_reducible apply keeps_ite
    | split

theorem haltAt_keeps (u v : Nat) (s : State) (hs : Keeps s0 s) :
    Keeps s0 (haltAt u v s) := by
  unfold haltAt
  repeat' first
    | with_reducible assumption
    | (rintro x y (hx : Keeps s0 y))
    | (rintro x y z w (hx : Keeps s0 w))
    | (rintro x y z (hx : Keeps s0 z))
    | (rintro y (hx : Keeps s0 y))
    | (rintro x y (hx : Keeps s0 y.1))
    | (rintro x y (hx : Keeps s0 y.2))
    | lift_lets
    | (intro x; refine keeps_cut (x := x) (a := s0) ?_ ?_; subst x; rotate_left; clear_value x; intro hx)
    | (intro x; subst x)
    | simp -zeta only [keeps_upd]
    | with_reducible apply keeps_ite
    | split

theorem contractFault_keeps (cause u v detail : Nat) (s : State) (hs : Keeps s0 s) :
    Keeps s0 (contractFault cause u v detail s) := by
  unfold contractFault
  repeat' first
    | with_reducible assumption
    | (rintro x y (hx : Keeps s0 y))
    | (rintro x y z w (hx : Keeps s0 w))
    | (rintro x y z (hx : Keeps s0 z))
    | (rintro y (hx : Keeps s0 y))
    | (rintro x y (hx : Keeps s0 y.1))
    | (rintro x y (hx : Keeps s0 y.2))
    | lift_lets
    | (intro x; refine keeps_cut (x := x) (a := s0) ?_ ?_; subst x; rotate_left; clear_value x; intro hx)
    | (intro x; subst x)
    | simp -zeta only [keeps_upd]
    | with_reducible first | apply bump_keeps | apply setErr_keeps | apply faultItem_keeps | apply recordCause_keeps | apply callHalt_keeps | apply haltAt_keeps

theorem fenceTile_keeps (u v : Nat) (s : State) (hs : Keeps s0 s) :
    Keeps s0 (fenceTile u v s) := by
  unfold fenceTile
  repeat' first
    | with_reducible assumption
    | (rintro x y (hx : Keeps s0 y))
    | (rintro x y z w (hx : Keeps s0 w))
    | (rintro x y z (hx : Keeps s0 z))
    | (rintro y (hx : Keeps s0 y))
    | (rintro x y (hx : Keeps s0 y.1))
    | (rintro x y (hx : Keeps s0 y.2))
    | lift_lets
    | (intro x; refine keeps_cut (x := x) (a := s0) ?_ ?_; subst x; rotate_left; clear_value x; intro hx)
    | (intro x; subst x)
    | simp -zeta only [keeps_upd]
    | with_reducible first | apply setTile_keeps

theorem recDetected_keeps (s : State) (hs : Keeps s0 s) :
    Keeps s0 (recDetected s) := by
  unfold recDetected
  repeat' first
    | with_reducible assumption
    | (rintro x y (hx : Keeps s0 y))
    | (rintro x y z w (hx : Keeps s0 w))
    | (rintro x y z (hx : Keeps s0 z))
    | (rintro y (hx : Keeps s0 y))
    | (rintro x y (hx : Keeps s0 y.1))
    | (rintro x y (hx : Keeps s0 y.2))
    | with_reducible first | apply setReg64_keeps

theorem addSuspects_keeps (cause : Nat) (l : List (Nat × Nat)) (s : State) (hs : Keeps s0 s) :
    Keeps s0 (addSuspects cause l s) := by
  unfold addSuspects
  repeat' first
    | with_reducible assumption
    | (rintro x y (hx : Keeps s0 y))
    | (rintro x y z w (hx : Keeps s0 w))
    | (rintro x y z (hx : Keeps s0 z))
    | (rintro y (hx : Keeps s0 y))
    | (rintro x y (hx : Keeps s0 y.1))
    | (rintro x y (hx : Keeps s0 y.2))
    | simp -zeta only [keeps_upd]
    | with_reducible first | apply setReg_keeps | apply setBits_keeps | apply forAll_keeps | apply fenceTile_keeps | apply recDetected_keeps
    | with_reducible apply keeps_foldl
    | with_reducible apply keeps_foldl1
    | with_reducible apply keeps_foldl2
    | with_reducible exact hx
    | with_reducible apply keeps_ite
    | (intro x; refine keeps_cut (x := x) (a := s0) ?_ ?_; subst x; rotate_left; clear_value x; intro hx)
    | (intro x; subst x)
    | split

theorem recoveryFailed_keeps (s : State) (hs : Keeps s0 s) :
    Keeps s0 (recoveryFailed s) := by
  unfold recoveryFailed
  repeat' first
    | with_reducible assumption
    | (rintro x y (hx : Keeps s0 y))
    | (rintro x y z w (hx : Keeps s0 w))
    | (rintro x y z (hx : Keeps s0 z))
    | (rintro y (hx : Keeps s0 y))
    | (rintro x y (hx : Keeps s0 y.1))
    | (rintro x y (hx : Keeps s0 y.2))
    | lift_lets
    | (intro x; refine keeps_cut (x := x) (a := s0) ?_ ?_; subst x; rotate_left; clear_value x; intro hx)
    | (intro x; subst x)
    | with_reducible first | apply setReg_keeps | apply setReg64_keeps | apply setErr_keeps | apply setRec_keeps | apply recoveryCut_keeps

theorem startDiagnosis_keeps (s : State) (hs : Keeps s0 s) :
    Keeps s0 (startDiagnosis s) := by
  unfold startDiagnosis
  repeat' first
    | with_reducible assumption
    | (rintro x y (hx : Keeps s0 y))
    | (rintro x y z w (hx : Keeps s0 w))
    | (rintro x y z (hx : Keeps s0 z))
    | (rintro y (hx : Keeps s0 y))
    | (rintro x y (hx : Keeps s0 y.1))
    | (rintro x y (hx : Keeps s0 y.2))
    | lift_lets
    | (intro x; refine keeps_cut (x := x) (a := s0) ?_ ?_; subst x; rotate_left; clear_value x; intro hx)
    | (intro x; subst x)
    | simp -zeta only [keeps_upd]
    | with_reducible first | apply setBits_keeps | apply setRec_keeps | apply recoveryFailed_keeps
    | with_reducible apply keeps_ite
    | split

theorem afterStop_keeps (s : State) (hs : Keeps s0 s) :
    Keeps s0 (afterStop s) := by
  unfold afterStop
  repeat' first
    | with_reducible assumption
    | (rintro x y (hx : Keeps s0 y))
    | (rintro x y z w (hx : Keeps s0 w))
    | (rintro x y z (hx : Keeps s0 z))
    | (rintro y (hx : Keeps s0 y))
    | (rintro x y (hx : Keeps s0 y.1))
    | (rintro x y (hx : Keeps s0 y.2))
    | with_reducible first | apply recoveryFailed_keeps | apply startDiagnosis_keeps
    | with_reducible apply keeps_ite
    | split

theorem openRecov_keeps (s : State) (hs : Keeps s0 s) :
    Keeps s0 (openRecov s) := by
  unfold openRecov
  repeat' first
    | with_reducible assumption
    | (rintro x y (hx : Keeps s0 y))
    | (rintro x y z w (hx : Keeps s0 w))
    | (rintro x y z (hx : Keeps s0 z))
    | (rintro y (hx : Keeps s0 y))
    | (rintro x y (hx : Keeps s0 y.1))
    | (rintro x y (hx : Keeps s0 y.2))
    | lift_lets
    | (intro x; refine keeps_cut (x := x) (a := s0) ?_ ?_; subst x; rotate_left; clear_value x; intro hx)
    | (intro x; subst x)
    | simp -zeta only [keeps_upd]

theorem noteFault_keeps (s : State) (hs : Keeps s0 s) :
    Keeps s0 (noteFault s) := by
  unfold noteFault
  repeat' first
    | with_reducible assumption
    | (rintro x y (hx : Keeps s0 y))
    | (rintro x y z w (hx : Keeps s0 w))
    | (rintro x y z (hx : Keeps s0 z))
    | (rintro y (hx : Keeps s0 y))
    | (rintro x y (hx : Keeps s0 y.1))
    | (rintro x y (hx : Keeps s0 y.2))
    | lift_lets
    | (intro x; refine keeps_cut (x := x) (a := s0) ?_ ?_; subst x; rotate_left; clear_value x; intro hx)
    | (intro x; subst x)
    | simp -zeta only [keeps_upd]
    | with_reducible first | apply openRecov_keeps
    | with_reducible apply keeps_ite
    | split

theorem tileFault_keeps (cause : Nat) (l : List (Nat × Nat)) (s : State) (hs : Keeps s0 s) :
    Keeps s0 (tileFault cause l s) := by
  unfold tileFault
  repeat' first
    | with_reducible assumption
    | (rintro x y (hx : Keeps s0 y))
    | (rintro x y z w (hx : Keeps s0 w))
    | (rintro x y z (hx : Keeps s0 z))
    | (rintro y (hx : Keeps s0 y))
    | (rintro x y (hx : Keeps s0 y.1))
    | (rintro x y (hx : Keeps s0 y.2))
    | lift_lets
    | (intro x; refine keeps_cut (x := x) (a := s0) ?_ ?_; subst x; rotate_left; clear_value x; intro hx)
    | (intro x; subst x)
    | with_reducible first | apply faultItem_keeps | apply setRec_keeps | apply callHalt_keeps | apply addSuspects_keeps | apply afterStop_keeps | apply noteFault_keeps
    | with_reducible apply keeps_ite
    | split

theorem segmentDown_keeps (k : Nat) (s : State) (hs : Keeps s0 s) :
    Keeps s0 (segmentDown k s) := by
  unfold segmentDown
  repeat' first
    | with_reducible assumption
    | (rintro x y (hx : Keeps s0 y))
    | (rintro x y z w (hx : Keeps s0 w))
    | (rintro x y z (hx : Keeps s0 z))
    | (rintro y (hx : Keeps s0 y))
    | (rintro x y (hx : Keeps s0 y.1))
    | (rintro x y (hx : Keeps s0 y.2))
    | lift_lets
    | (intro x; refine keeps_cut (x := x) (a := s0) ?_ ?_; subst x; rotate_left; clear_value x; intro hx)
    | (intro x; subst x)
    | simp -zeta only [keeps_upd]
    | with_reducible first | apply setBits_keeps | apply setErr_keeps | apply faultItem_keeps | apply recordCause_keeps | apply enterFault_keeps
    | with_reducible apply keeps_ite
    | split

theorem faultInLoad_keeps (s : State) (hs : Keeps s0 s) :
    Keeps s0 (faultInLoad s) := by
  unfold faultInLoad
  repeat' first
    | with_reducible assumption
    | (rintro x y (hx : Keeps s0 y))
    | (rintro x y z w (hx : Keeps s0 w))
    | (rintro x y z (hx : Keeps s0 z))
    | (rintro y (hx : Keeps s0 y))
    | (rintro x y (hx : Keeps s0 y.1))
    | (rintro x y (hx : Keeps s0 y.2))
    | with_reducible first | apply enterFault_keeps
    | with_reducible apply keeps_ite
    | split

theorem trip_keeps (bit : Nat) (pg : Page) (eb : Nat) (s : State) (hs : Keeps s0 s) :
    Keeps s0 (trip bit pg eb s) := by
  unfold trip
  repeat' first
    | with_reducible assumption
    | (rintro x y (hx : Keeps s0 y))
    | (rintro x y z w (hx : Keeps s0 w))
    | (rintro x y z (hx : Keeps s0 z))
    | (rintro y (hx : Keeps s0 y))
    | (rintro x y (hx : Keeps s0 y.1))
    | (rintro x y (hx : Keeps s0 y.2))
    | with_reducible first | apply tripMarks_keeps | apply moduleFault_keeps
    | with_reducible apply keeps_ite
    | split

theorem stuckFault_keeps (s : State) (hs : Keeps s0 s) :
    Keeps s0 (stuckFault s) := by
  unfold stuckFault
  repeat' first
    | with_reducible assumption
    | (rintro x y (hx : Keeps s0 y))
    | (rintro x y z w (hx : Keeps s0 w))
    | (rintro x y z (hx : Keeps s0 z))
    | (rintro y (hx : Keeps s0 y))
    | (rintro x y (hx : Keeps s0 y.1))
    | (rintro x y (hx : Keeps s0 y.2))
    | lift_lets
    | (intro x; refine keeps_cut (x := x) (a := s0) ?_ ?_; subst x; rotate_left; clear_value x; intro hx)
    | (intro x; subst x)
    | simp -zeta only [keeps_upd]
    | with_reducible first | apply moduleFault_keeps

theorem hostLink_keeps (up : Bool) (s : State) (hs : Keeps s0 s) :
    Keeps s0 (hostLink up s) := by
  unfold hostLink
  repeat' first
    | with_reducible assumption
    | (rintro x y (hx : Keeps s0 y))
    | (rintro x y z w (hx : Keeps s0 w))
    | (rintro x y z (hx : Keeps s0 z))
    | (rintro y (hx : Keeps s0 y))
    | (rintro x y (hx : Keeps s0 y.1))
    | (rintro x y (hx : Keeps s0 y.2))
    | lift_lets
    | (intro x; refine keeps_cut (x := x) (a := s0) ?_ ?_; subst x; rotate_left; clear_value x; intro hx)
    | (intro x; subst x)
    | simp -zeta only [keeps_upd]
    | with_reducible apply keeps_ite
    | split

theorem logPoison_keeps (s : State) (hs : Keeps s0 s) :
    Keeps s0 (logPoison s) := by
  unfold logPoison
  repeat' first
    | with_reducible assumption
    | (rintro x y (hx : Keeps s0 y))
    | (rintro x y z w (hx : Keeps s0 w))
    | (rintro x y z (hx : Keeps s0 z))
    | (rintro y (hx : Keeps s0 y))
    | (rintro x y (hx : Keeps s0 y.1))
    | (rintro x y (hx : Keeps s0 y.2))
    | lift_lets
    | (intro x; refine keeps_cut (x := x) (a := s0) ?_ ?_; subst x; rotate_left; clear_value x; intro hx)
    | (intro x; subst x)
    | simp -zeta only [keeps_upd]

end Sys2Proof.Machine
end

