-- ==== Sys2Proof/Laws/Keeps2.lean ====
section
/-! SUPPORT. What the operations of Power, Place, Operands, Start, Sec, Debug keep: the fuses, the queue, the canonical form of the store,
the rules on the mode. -/

namespace Sys2Proof.Machine

variable {s0 s : State}

theorem pinCheck_keeps (s : State) (hs : Keeps s0 s) :
    Keeps s0 (pinCheck s) := by
  unfold pinCheck
  repeat' first
    | with_reducible assumption
    | (rintro x y (hx : Keeps s0 y))
    | (rintro x y z w (hx : Keeps s0 w))
    | (rintro x y z (hx : Keeps s0 z))
    | (rintro y (hx : Keeps s0 y))
    | (rintro x y (hx : Keeps s0 y.1))
    | (rintro x y (hx : Keeps s0 y.2))
    | lift_lets
    | (intro x; refine keeps_cut (x := x) (a := s0) ?_ ?_; subst x; rotate_left; clear_value x; intro hx)
    | (intro x; subst x)
    | with_reducible first | apply trip_keeps
    | with_reducible apply keeps_ite
    | split

theorem commitNow_keeps (s : State) (hs : Keeps s0 s) :
    Keeps s0 (commitNow s) := by
  unfold commitNow
  repeat' first
    | with_reducible assumption
    | (rintro x y (hx : Keeps s0 y))
    | (rintro x y z w (hx : Keeps s0 w))
    | (rintro x y z (hx : Keeps s0 z))
    | (rintro y (hx : Keeps s0 y))
    | (rintro x y (hx : Keeps s0 y.1))
    | (rintro x y (hx : Keeps s0 y.2))
    | with_reducible first | apply applyCfg_keeps | apply pinCheck_keeps
    | with_reducible apply keeps_ite
    | split

theorem republish_keeps (f : Field) (s : State) (hs : Keeps s0 s) :
    Keeps s0 (republish f s) := by
  unfold republish
  repeat' first
    | with_reducible assumption
    | (rintro x y (hx : Keeps s0 y))
    | (rintro x y z w (hx : Keeps s0 w))
    | (rintro x y z (hx : Keeps s0 z))
    | (rintro y (hx : Keeps s0 y))
    | (rintro x y (hx : Keeps s0 y.1))
    | (rintro x y (hx : Keeps s0 y.2))
    | lift_lets
    | (intro x; refine keeps_cut (x := x) (a := s0) ?_ ?_; subst x; rotate_left; clear_value x; intro hx)
    | (intro x; subst x)
    | with_reducible first | apply setReg_keeps

theorem regulatorFail_keeps (f : Field) (vmem : Bool) (idx : Nat) (s : State) (hs : Keeps s0 s) :
    Keeps s0 (regulatorFail f vmem idx s) := by
  unfold regulatorFail
  repeat' first
    | with_reducible assumption
    | (rintro x y (hx : Keeps s0 y))
    | (rintro x y z w (hx : Keeps s0 w))
    | (rintro x y z (hx : Keeps s0 z))
    | (rintro y (hx : Keeps s0 y))
    | (rintro x y (hx : Keeps s0 y.1))
    | (rintro x y (hx : Keeps s0 y.2))
    | lift_lets
    | (intro x; refine keeps_cut (x := x) (a := s0) ?_ ?_; subst x; rotate_left; clear_value x; intro hx)
    | (intro x; subst x)
    | with_reducible first | apply setReg_keeps | apply setErr_keeps | apply uncodedFault_keeps | apply republish_keeps
    | with_reducible apply keeps_ite
    | split

theorem vminRecords_keeps (f : Field) (v x y : Nat) (s : State) (hs : Keeps s0 s) :
    Keeps s0 (vminRecords f v x y s) := by
  unfold vminRecords
  repeat' first
    | with_reducible assumption
    | (rintro x y (hx : Keeps s0 y))
    | (rintro x y z w (hx : Keeps s0 w))
    | (rintro x y z (hx : Keeps s0 z))
    | (rintro y (hx : Keeps s0 y))
    | (rintro x y (hx : Keeps s0 y.1))
    | (rintro x y (hx : Keeps s0 y.2))
    | lift_lets
    | (intro x; refine keeps_cut (x := x) (a := s0) ?_ ?_; subst x; rotate_left; clear_value x; intro hx)
    | (intro x; subst x)
    | simp -zeta only [keeps_upd]
    | with_reducible first | apply setReg_keeps | apply setReg64_keeps | apply setField_keeps
    | with_reducible apply keeps_ite
    | split

theorem droopSample_keeps (f : Field) (v x y : Nat) (s : State) (hs : Keeps s0 s) :
    Keeps s0 (droopSample f v x y s) := by
  unfold droopSample
  repeat' first
    | with_reducible assumption
    | (rintro x y (hx : Keeps s0 y))
    | (rintro x y z w (hx : Keeps s0 w))
    | (rintro x y z (hx : Keeps s0 z))
    | (rintro y (hx : Keeps s0 y))
    | (rintro x y (hx : Keeps s0 y.1))
    | (rintro x y (hx : Keeps s0 y.2))
    | lift_lets
    | (intro x; refine keeps_cut (x := x) (a := s0) ?_ ?_; subst x; rotate_left; clear_value x; intro hx)
    | (intro x; subst x)
    | simp -zeta only [keeps_upd]
    | with_reducible first | apply setTile_keeps
    | with_reducible apply keeps_ite
    | split

theorem droopWindow_keeps (f : Field) (v x y : Nat) (s : State) (hs : Keeps s0 s) :
    Keeps s0 (droopWindow f v x y s) := by
  unfold droopWindow
  repeat' first
    | with_reducible assumption
    | (rintro x y (hx : Keeps s0 y))
    | (rintro x y z w (hx : Keeps s0 w))
    | (rintro x y z (hx : Keeps s0 z))
    | (rintro y (hx : Keeps s0 y))
    | (rintro x y (hx : Keeps s0 y.1))
    | (rintro x y (hx : Keeps s0 y.2))
    | lift_lets
    | (intro x; refine keeps_cut (x := x) (a := s0) ?_ ?_; subst x; rotate_left; clear_value x; intro hx)
    | (intro x; subst x)
    | simp -zeta only [keeps_upd]
    | with_reducible first | apply setErr_keeps | apply setField_keeps | apply vminRecords_keeps | apply droopSample_keeps
    | with_reducible apply keeps_ite
    | split

theorem fieldSoftStart_keeps (f : Field) (s : State) (hs : Keeps s0 s) :
    Keeps s0 (fieldSoftStart f s) := by
  unfold fieldSoftStart
  repeat' first
    | with_reducible assumption
    | (rintro x y (hx : Keeps s0 y))
    | (rintro x y z w (hx : Keeps s0 w))
    | (rintro x y z (hx : Keeps s0 z))
    | (rintro y (hx : Keeps s0 y))
    | (rintro x y (hx : Keeps s0 y.1))
    | (rintro x y (hx : Keeps s0 y.2))
    | lift_lets
    | (intro x; refine keeps_cut (x := x) (a := s0) ?_ ?_; subst x; rotate_left; clear_value x; intro hx)
    | (intro x; subst x)
    | simp -zeta only [keeps_upd]
    | with_reducible first | apply setReg_keeps | apply setField_keeps
    | with_reducible apply keeps_ite
    | split

theorem fullMaps_keeps (f : Field) (s : State) (hs : Keeps s0 s) :
    Keeps s0 (fullMaps f s) := by
  unfold fullMaps
  repeat' first
    | with_reducible assumption
    | (rintro x y (hx : Keeps s0 y))
    | (rintro x y z w (hx : Keeps s0 w))
    | (rintro x y z (hx : Keeps s0 z))
    | (rintro y (hx : Keeps s0 y))
    | (rintro x y (hx : Keeps s0 y.1))
    | (rintro x y (hx : Keeps s0 y.2))
    | with_reducible first | apply setReg_keeps
    | with_reducible apply keeps_ite
    | split

theorem fcmdEnd_keeps (f : Field) (s : State) (hs : Keeps s0 s) :
    Keeps s0 (fcmdEnd f s) := by
  unfold fcmdEnd
  repeat' first
    | with_reducible assumption
    | (rintro x y (hx : Keeps s0 y))
    | (rintro x y z w (hx : Keeps s0 w))
    | (rintro x y z (hx : Keeps s0 z))
    | (rintro y (hx : Keeps s0 y))
    | (rintro x y (hx : Keeps s0 y.1))
    | (rintro x y (hx : Keeps s0 y.2))
    | lift_lets
    | (intro x; refine keeps_cut (x := x) (a := s0) ?_ ?_; subst x; rotate_left; clear_value x; intro hx)
    | (intro x; subst x)
    | simp -zeta only [keeps_upd]
    | with_reducible first | apply setReg_keeps
    | with_reducible apply keeps_ite
    | split

theorem softStartEnd_keeps (f : Field) (r : SoftStart) (s : State) (hs : Keeps s0 s) :
    Keeps s0 (softStartEnd f r s) := by
  unfold softStartEnd
  repeat' first
    | with_reducible assumption
    | (rintro x y (hx : Keeps s0 y))
    | (rintro x y z w (hx : Keeps s0 w))
    | (rintro x y z (hx : Keeps s0 z))
    | (rintro y (hx : Keeps s0 y))
    | (rintro x y (hx : Keeps s0 y.1))
    | (rintro x y (hx : Keeps s0 y.2))
    | lift_lets
    | (intro x; refine keeps_cut (x := x) (a := s0) ?_ ?_; subst x; rotate_left; clear_value x; intro hx)
    | (intro x; subst x)
    | simp -zeta only [keeps_upd]
    | with_reducible first | apply setErr_keeps | apply setField_keeps | apply republish_keeps | apply fullMaps_keeps | apply fcmdEnd_keeps
    | with_reducible apply keeps_ite
    | split

theorem fieldShort_keeps (f : Field) (s : State) (hs : Keeps s0 s) :
    Keeps s0 (fieldShort f s) := by
  unfold fieldShort
  repeat' first
    | with_reducible assumption
    | (rintro x y (hx : Keeps s0 y))
    | (rintro x y z w (hx : Keeps s0 w))
    | (rintro x y z (hx : Keeps s0 z))
    | (rintro y (hx : Keeps s0 y))
    | (rintro x y (hx : Keeps s0 y.1))
    | (rintro x y (hx : Keeps s0 y.2))
    | lift_lets
    | (intro x; refine keeps_cut (x := x) (a := s0) ?_ ?_; subst x; rotate_left; clear_value x; intro hx)
    | (intro x; subst x)
    | simp -zeta only [keeps_upd]
    | with_reducible first | apply setErr_keeps | apply setField_keeps | apply uncodedFault_keeps | apply moduleFault_keeps | apply fcmdEnd_keeps
    | with_reducible apply keeps_ite
    | split

theorem pwrFcmd_keeps (v : W32) (s : State) (hs : Keeps s0 s) :
    Keeps s0 (pwrFcmd v s) := by
  unfold pwrFcmd
  repeat' first
    | with_reducible assumption
    | (rintro x y (hx : Keeps s0 y))
    | (rintro x y z w (hx : Keeps s0 w))
    | (rintro x y z (hx : Keeps s0 z))
    | (rintro y (hx : Keeps s0 y))
    | (rintro x y (hx : Keeps s0 y.1))
    | (rintro x y (hx : Keeps s0 y.2))
    | lift_lets
    | (intro x; refine keeps_cut (x := x) (a := s0) ?_ ?_; subst x; rotate_left; clear_value x; intro hx)
    | (intro x; subst x)
    | simp -zeta only [keeps_upd]
    | with_reducible first | apply setReg_keeps
    | with_reducible apply keeps_ite
    | split

theorem pwrVminReset_keeps (s : State) (hs : Keeps s0 s) :
    Keeps s0 (pwrVminReset s) := by
  unfold pwrVminReset
  repeat' first
    | with_reducible assumption
    | (rintro x y (hx : Keeps s0 y))
    | (rintro x y z w (hx : Keeps s0 w))
    | (rintro x y z (hx : Keeps s0 z))
    | (rintro y (hx : Keeps s0 y))
    | (rintro x y (hx : Keeps s0 y.1))
    | (rintro x y (hx : Keeps s0 y.2))
    | lift_lets
    | (intro x; refine keeps_cut (x := x) (a := s0) ?_ ?_; subst x; rotate_left; clear_value x; intro hx)
    | (intro x; subst x)
    | simp -zeta only [keeps_upd]
    | with_reducible first | apply setReg_keeps | apply setReg64_keeps

theorem fpwVminReset_keeps (f : Field) (s : State) (hs : Keeps s0 s) :
    Keeps s0 (fpwVminReset f s) := by
  unfold fpwVminReset
  repeat' first
    | with_reducible assumption
    | (rintro x y (hx : Keeps s0 y))
    | (rintro x y z w (hx : Keeps s0 w))
    | (rintro x y z (hx : Keeps s0 z))
    | (rintro y (hx : Keeps s0 y))
    | (rintro x y (hx : Keeps s0 y.1))
    | (rintro x y (hx : Keeps s0 y.2))
    | lift_lets
    | (intro x; refine keeps_cut (x := x) (a := s0) ?_ ?_; subst x; rotate_left; clear_value x; intro hx)
    | (intro x; subst x)
    | simp -zeta only [keeps_upd]
    | with_reducible first | apply setReg_keeps | apply setReg64_keeps | apply setField_keeps
    | with_reducible apply keeps_ite
    | split

theorem headNext_keeps (pg : Page) (o : Nat) (s : State) (hs : Keeps s0 s) :
    Keeps s0 (headNext pg o s) := by
  unfold headNext
  repeat' first
    | with_reducible assumption
    | (rintro x y (hx : Keeps s0 y))
    | (rintro x y z w (hx : Keeps s0 w))
    | (rintro x y z (hx : Keeps s0 z))
    | (rintro y (hx : Keeps s0 y))
    | (rintro x y (hx : Keeps s0 y.1))
    | (rintro x y (hx : Keeps s0 y.2))
    | lift_lets
    | (intro x; refine keeps_cut (x := x) (a := s0) ?_ ?_; subst x; rotate_left; clear_value x; intro hx)
    | (intro x; subst x)
    | with_reducible first | apply setReg_keeps

theorem queueAbort_keeps (q : Nat) (s : State) (hs : Keeps s0 s) :
    Keeps s0 (queueAbort q s) := by
  unfold queueAbort
  repeat' first
    | with_reducible assumption
    | (rintro x y (hx : Keeps s0 y))
    | (rintro x y z w (hx : Keeps s0 w))
    | (rintro x y z (hx : Keeps s0 z))
    | (rintro y (hx : Keeps s0 y))
    | (rintro x y (hx : Keeps s0 y.1))
    | (rintro x y (hx : Keeps s0 y.2))
    | lift_lets
    | (intro x; refine keeps_cut (x := x) (a := s0) ?_ ?_; subst x; rotate_left; clear_value x; intro hx)
    | (intro x; subst x)
    | simp -zeta only [keeps_upd]
    | with_reducible first | apply setReg_keeps | apply headNext_keeps
    | split

theorem pcieReset_keeps (s : State) (hs : Keeps s0 s) :
    Keeps s0 (pcieReset s) := by
  unfold pcieReset
  repeat' first
    | with_reducible assumption
    | (rintro x y (hx : Keeps s0 y))
    | (rintro x y z w (hx : Keeps s0 w))
    | (rintro x y z (hx : Keeps s0 z))
    | (rintro y (hx : Keeps s0 y))
    | (rintro x y (hx : Keeps s0 y.1))
    | (rintro x y (hx : Keeps s0 y.2))
    | lift_lets
    | (intro x; refine keeps_cut (x := x) (a := s0) ?_ ?_; subst x; rotate_left; clear_value x; intro hx)
    | (intro x; subst x)
    | simp -zeta only [keeps_upd]
    | with_reducible first | apply forAll_keeps | apply queueAbort_keeps

theorem refclkLost_keeps (s : State) (hs : Keeps s0 s) :
    Keeps s0 (refclkLost s) := by
  unfold refclkLost
  repeat' first
    | with_reducible assumption
    | (rintro x y (hx : Keeps s0 y))
    | (rintro x y z w (hx : Keeps s0 w))
    | (rintro x y z (hx : Keeps s0 z))
    | (rintro y (hx : Keeps s0 y))
    | (rintro x y (hx : Keeps s0 y.1))
    | (rintro x y (hx : Keeps s0 y.2))
    | lift_lets
    | (intro x; refine keeps_cut (x := x) (a := s0) ?_ ?_; subst x; rotate_left; clear_value x; intro hx)
    | (intro x; subst x)
    | simp -zeta only [keeps_upd]
    | with_reducible first | apply setErr_keeps | apply stuckFault_keeps | apply hostLink_keeps | apply pcieReset_keeps
    | with_reducible apply keeps_ite
    | split

theorem clockLoss_keeps (x y : Nat) (s : State) (hs : Keeps s0 s) :
    Keeps s0 (clockLoss x y s) := by
  unfold clockLoss
  repeat' first
    | with_reducible assumption
    | (rintro x y (hx : Keeps s0 y))
    | (rintro x y z w (hx : Keeps s0 w))
    | (rintro x y z (hx : Keeps s0 z))
    | (rintro y (hx : Keeps s0 y))
    | (rintro x y (hx : Keeps s0 y.1))
    | (rintro x y (hx : Keeps s0 y.2))
    | lift_lets
    | (intro x; refine keeps_cut (x := x) (a := s0) ?_ ?_; subst x; rotate_left; clear_value x; intro hx)
    | (intro x; subst x)
    | with_reducible first | apply setErr_keeps | apply tileFault_keeps
    | with_reducible apply keeps_ite
    | split

theorem clockTreeSetupDone_keeps (pll : Bool) (silent : List (Nat × Nat)) (s : State) (hs : Keeps s0 s) :
    Keeps s0 (clockTreeSetupDone pll silent s) := by
  unfold clockTreeSetupDone
  repeat' first
    | with_reducible assumption
    | (rintro x y (hx : Keeps s0 y))
    | (rintro x y z w (hx : Keeps s0 w))
    | (rintro x y z (hx : Keeps s0 z))
    | (rintro y (hx : Keeps s0 y))
    | (rintro x y (hx : Keeps s0 y.1))
    | (rintro x y (hx : Keeps s0 y.2))
    | lift_lets
    | (intro x; refine keeps_cut (x := x) (a := s0) ?_ ?_; subst x; rotate_left; clear_value x; intro hx)
    | (intro x; subst x)
    | simp -zeta only [keeps_upd]
    | with_reducible first | apply forAll_keeps | apply setField_keeps
    | with_reducible apply keeps_ite
    | split

theorem showReadings_keeps (r : Readings) (s : State) (hs : Keeps s0 s) :
    Keeps s0 (showReadings r s) := by
  unfold showReadings
  repeat' first
    | with_reducible assumption
    | (rintro x y (hx : Keeps s0 y))
    | (rintro x y z w (hx : Keeps s0 w))
    | (rintro x y z (hx : Keeps s0 z))
    | (rintro y (hx : Keeps s0 y))
    | (rintro x y (hx : Keeps s0 y.1))
    | (rintro x y (hx : Keeps s0 y.2))
    | lift_lets
    | (intro x; refine keeps_cut (x := x) (a := s0) ?_ ?_; subst x; rotate_left; clear_value x; intro hx)
    | (intro x; subst x)
    | simp -zeta only [keeps_upd]
    | with_reducible first | apply setReg_keeps | apply forAll_keeps
    | with_reducible apply keeps_ite
    | split

theorem fieldHot_keeps (f : Field) (temps : List Nat) (s : State) (hs : Keeps s0 s) :
    Keeps s0 (fieldHot f temps s) := by
  unfold fieldHot
  repeat' first
    | with_reducible assumption
    | (rintro x y (hx : Keeps s0 y))
    | (rintro x y z w (hx : Keeps s0 w))
    | (rintro x y z (hx : Keeps s0 z))
    | (rintro y (hx : Keeps s0 y))
    | (rintro x y (hx : Keeps s0 y.1))
    | (rintro x y (hx : Keeps s0 y.2))
    | lift_lets
    | (intro x; refine keeps_cut (x := x) (a := s0) ?_ ?_; subst x; rotate_left; clear_value x; intro hx)
    | (intro x; subst x)
    | simp -zeta only [keeps_upd]
    | with_reducible first | apply setErr_keeps | apply setField_keeps
    | with_reducible apply keeps_ite
    | split

theorem thermalLevels_keeps (r : Readings) (s : State) (hs : Keeps s0 s) :
    Keeps s0 (thermalLevels r s) := by
  unfold thermalLevels
  repeat' first
    | with_reducible assumption
    | (rintro x y (hx : Keeps s0 y))
    | (rintro x y z w (hx : Keeps s0 w))
    | (rintro x y z (hx : Keeps s0 z))
    | (rintro y (hx : Keeps s0 y))
    | (rintro x y (hx : Keeps s0 y.1))
    | (rintro x y (hx : Keeps s0 y.2))
    | lift_lets
    | (intro x; refine keeps_cut (x := x) (a := s0) ?_ ?_; subst x; rotate_left; clear_value x; intro hx)
    | (intro x; subst x)
    | simp -zeta only [keeps_upd]
    | with_reducible first | apply setReg_keeps | apply setErr_keeps | apply forAll_keeps | apply fieldHot_keeps
    | with_reducible apply keeps_ite
    | split

theorem thermalSample_keeps (r : Readings) (s : State) (hs : Keeps s0 s) :
    Keeps s0 (thermalSample r s) := by
  unfold thermalSample
  repeat' first
    | with_reducible assumption
    | (rintro x y (hx : Keeps s0 y))
    | (rintro x y z w (hx : Keeps s0 w))
    | (rintro x y z (hx : Keeps s0 z))
    | (rintro y (hx : Keeps s0 y))
    | (rintro x y (hx : Keeps s0 y.1))
    | (rintro x y (hx : Keeps s0 y.2))
    | lift_lets
    | (intro x; refine keeps_cut (x := x) (a := s0) ?_ ?_; subst x; rotate_left; clear_value x; intro hx)
    | (intro x; subst x)
    | simp -zeta only [keeps_upd]
    | with_reducible first | apply trip_keeps | apply pinCheck_keeps | apply showReadings_keeps | apply thermalLevels_keeps
    | with_reducible apply keeps_ite
    | split

theorem pinChange_keeps (pin : Fin 8) (level : Bool) (n : Nat) (s : State) (hs : Keeps s0 s) :
    Keeps s0 (pinChange pin level n s) := by
  unfold pinChange
  repeat' first
    | with_reducible assumption
    | (rintro x y (hx : Keeps s0 y))
    | (rintro x y z w (hx : Keeps s0 w))
    | (rintro x y z (hx : Keeps s0 z))
    | (rintro y (hx : Keeps s0 y))
    | (rintro x y (hx : Keeps s0 y.1))
    | (rintro x y (hx : Keeps s0 y.2))
    | lift_lets
    | (intro x; refine keeps_cut (x := x) (a := s0) ?_ ?_; subst x; rotate_left; clear_value x; intro hx)
    | (intro x; subst x)
    | simp -zeta only [keeps_upd]
    | with_reducible first | apply fire_keeps | apply setErr_keeps | apply pinCheck_keeps
    | with_reducible apply keeps_ite
    | split

theorem hbmRail_keeps (d : Die) (r : Rail) (good : Bool) (s : State) (hs : Keeps s0 s) :
    Keeps s0 (hbmRail d r good s) := by
  unfold hbmRail
  repeat' first
    | with_reducible assumption
    | (rintro x y (hx : Keeps s0 y))
    | (rintro x y z w (hx : Keeps s0 w))
    | (rintro x y z (hx : Keeps s0 z))
    | (rintro y (hx : Keeps s0 y))
    | (rintro x y (hx : Keeps s0 y.1))
    | (rintro x y (hx : Keeps s0 y.2))
    | lift_lets
    | (intro x; refine keeps_cut (x := x) (a := s0) ?_ ?_; subst x; rotate_left; clear_value x; intro hx)
    | (intro x; subst x)
    | simp -zeta only [keeps_upd]
    | with_reducible first | apply setErr_keeps
    | with_reducible apply keeps_ite
    | split

theorem regionTouch_keeps (r : Region) (gen off n : Nat) (s : State) (hs : Keeps s0 s) :
    Keeps s0 (regionTouch r gen off n s) := by
  unfold regionTouch
  repeat' first
    | with_reducible assumption
    | (rintro x y (hx : Keeps s0 y))
    | (rintro x y z w (hx : Keeps s0 w))
    | (rintro x y z (hx : Keeps s0 z))
    | (rintro y (hx : Keeps s0 y))
    | (rintro x y (hx : Keeps s0 y.1))
    | (rintro x y (hx : Keeps s0 y.2))
    | lift_lets
    | (intro x; refine keeps_cut (x := x) (a := s0) ?_ ?_; subst x; rotate_left; clear_value x; intro hx)
    | (intro x; subst x)
    | with_reducible first | apply hbmTouch_keeps
    | with_reducible apply keeps_foldl
    | with_reducible apply keeps_foldl1
    | with_reducible apply keeps_foldl2
    | with_reducible exact hx

theorem regionWrite_keeps (r : Region) (gen off : Nat) (bs : List Byte) (s : State) (hs : Keeps s0 s) :
    Keeps s0 (regionWrite r gen off bs s) := by
  unfold regionWrite
  repeat' first
    | with_reducible assumption
    | (rintro x y (hx : Keeps s0 y))
    | (rintro x y z w (hx : Keeps s0 w))
    | (rintro x y z (hx : Keeps s0 z))
    | (rintro y (hx : Keeps s0 y))
    | (rintro x y (hx : Keeps s0 y.1))
    | (rintro x y (hx : Keeps s0 y.2))
    | lift_lets
    | (intro x; refine keeps_cut (x := x) (a := s0) ?_ ?_; subst x; rotate_left; clear_value x; intro hx)
    | (intro x; subst x)
    | with_reducible first | apply hbmWrite_keeps
    | with_reducible apply keeps_foldl
    | with_reducible apply keeps_foldl1
    | with_reducible apply keeps_foldl2
    | with_reducible exact hx

theorem showPlace_keeps (p : Place) (s : State) (hs : Keeps s0 s) :
    Keeps s0 (showPlace p s) := by
  unfold showPlace
  repeat' first
    | with_reducible assumption
    | (rintro x y (hx : Keeps s0 y))
    | (rintro x y z w (hx : Keeps s0 w))
    | (rintro x y z (hx : Keeps s0 z))
    | (rintro y (hx : Keeps s0 y))
    | (rintro x y (hx : Keeps s0 y.1))
    | (rintro x y (hx : Keeps s0 y.2))
    | lift_lets
    | (intro x; refine keeps_cut (x := x) (a := s0) ?_ ?_; subst x; rotate_left; clear_value x; intro hx)
    | (intro x; subst x)
    | with_reducible first | apply setReg_keeps | apply setReg64_keeps | apply ledgerItem_keeps
    | with_reducible apply keeps_foldl
    | with_reducible apply keeps_foldl1
    | with_reducible apply keeps_foldl2
    | with_reducible exact hx

theorem failPlace_keeps (code : Nat) (s : State) (hs : Keeps s0 s) :
    Keeps s0 (failPlace code s) := by
  unfold failPlace
  repeat' first
    | with_reducible assumption
    | (rintro x y (hx : Keeps s0 y))
    | (rintro x y z w (hx : Keeps s0 w))
    | (rintro x y z (hx : Keeps s0 z))
    | (rintro y (hx : Keeps s0 y))
    | (rintro x y (hx : Keeps s0 y.1))
    | (rintro x y (hx : Keeps s0 y.2))
    | with_reducible first | apply setReg_keeps | apply setErr_keeps

theorem issue_keeps (u v : Nat) (st : Strm) (opc : Nat) (f : Img → Nat → OpRec → State → State) (s : State)
    (hf : ∀ x0 x1 x2 x3, Keeps s0 x3 → Keeps s0 (f x0 x1 x2 x3)) (hs : Keeps s0 s) :
    Keeps s0 (issue u v st opc f s) := by
  unfold issue
  repeat' first
    | with_reducible assumption
    | (rintro x y (hx : Keeps s0 y))
    | (rintro x y z w (hx : Keeps s0 w))
    | (rintro x y z (hx : Keeps s0 z))
    | (rintro y (hx : Keeps s0 y))
    | (rintro x y (hx : Keeps s0 y.1))
    | (rintro x y (hx : Keeps s0 y.2))
    | lift_lets
    | (intro x; refine keeps_cut (x := x) (a := s0) ?_ ?_; subst x; rotate_left; clear_value x; intro hx)
    | (intro x; subst x)
    | simp -zeta only [keeps_upd]
    | with_reducible first | apply setTile_keeps
    | with_reducible first | apply hf
    | with_reducible apply keeps_ite
    | split

theorem charge_keeps (u v n : Nat) (s : State) (hs : Keeps s0 s) :
    Keeps s0 (charge u v n s) := by
  unfold charge
  repeat' first
    | with_reducible assumption
    | (rintro x y (hx : Keeps s0 y))
    | (rintro x y z w (hx : Keeps s0 w))
    | (rintro x y z (hx : Keeps s0 z))
    | (rintro y (hx : Keeps s0 y))
    | (rintro x y (hx : Keeps s0 y.1))
    | (rintro x y (hx : Keeps s0 y.2))
    | with_reducible first | apply setTile_keeps
    | with_reducible apply keeps_ite
    | split

theorem bare_keeps (s : State) (h : Keeps s0 s) : Keeps s0 (bare s) :=
  ⟨h.code, h.silicon, h.serial, h.mfg, h.pending, fun _ => mwf_nil 0,
    fun _ => ⟨fun y => Bool.noConfusion y, fun y => Bool.noConfusion y⟩⟩

theorem goOff_keeps (s : State) (hs : Keeps s0 s) :
    Keeps s0 (goOff s) := by
  unfold goOff
  repeat' first
    | with_reducible assumption
    | (rintro x y (hx : Keeps s0 y))
    | (rintro x y z w (hx : Keeps s0 w))
    | (rintro x y z (hx : Keeps s0 z))
    | (rintro y (hx : Keeps s0 y))
    | (rintro x y (hx : Keeps s0 y.1))
    | (rintro x y (hx : Keeps s0 y.2))
    | lift_lets
    | (intro x; refine keeps_cut (x := x) (a := s0) ?_ ?_; subst x; rotate_left; clear_value x; intro hx)
    | (intro x; subst x)
    | simp -zeta only [keeps_upd]
    | with_reducible first | apply hostLink_keeps | apply bare_keeps

theorem powerOn_keeps (sel : Fin 4) (s : State) (hs : Keeps s0 s) :
    Keeps s0 (powerOn sel s) := by
  unfold powerOn
  repeat' first
    | with_reducible assumption
    | (rintro x y (hx : Keeps s0 y))
    | (rintro x y z w (hx : Keeps s0 w))
    | (rintro x y z (hx : Keeps s0 z))
    | (rintro y (hx : Keeps s0 y))
    | (rintro x y (hx : Keeps s0 y.1))
    | (rintro x y (hx : Keeps s0 y.2))
    | lift_lets
    | (intro x; refine keeps_cut (x := x) (a := s0) ?_ ?_; subst x; rotate_left; clear_value x; intro hx)
    | (intro x; subst x)
    | simp -zeta only [keeps_upd]
    | with_reducible first | apply hostLink_keeps | apply bare_keeps

theorem rampRails_keeps (s : State) (hs : Keeps s0 s) :
    Keeps s0 (rampRails s) := by
  unfold rampRails
  repeat' first
    | with_reducible assumption
    | (rintro x y (hx : Keeps s0 y))
    | (rintro x y z w (hx : Keeps s0 w))
    | (rintro x y z (hx : Keeps s0 z))
    | (rintro y (hx : Keeps s0 y))
    | (rintro x y (hx : Keeps s0 y.1))
    | (rintro x y (hx : Keeps s0 y.2))
    | lift_lets
    | (intro x; refine keeps_cut (x := x) (a := s0) ?_ ?_; subst x; rotate_left; clear_value x; intro hx)
    | (intro x; subst x)
    | simp -zeta only [keeps_upd]
    | with_reducible apply keeps_ite
    | split

theorem moduleReset_keeps (bit : Nat) (s : State) (hs : Keeps s0 s) :
    Keeps s0 (moduleReset bit s) := by
  unfold moduleReset
  repeat' first
    | with_reducible assumption
    | (rintro x y (hx : Keeps s0 y))
    | (rintro x y z w (hx : Keeps s0 w))
    | (rintro x y z (hx : Keeps s0 z))
    | (rintro y (hx : Keeps s0 y))
    | (rintro x y (hx : Keeps s0 y.1))
    | (rintro x y (hx : Keeps s0 y.2))
    | lift_lets
    | (intro x; refine keeps_cut (x := x) (a := s0) ?_ ?_; subst x; rotate_left; clear_value x; intro hx)
    | (intro x; subst x)
    | simp -zeta only [keeps_upd]
    | with_reducible first | apply setReg_keeps | apply rememberSus_keeps | apply bare_keeps
    | with_reducible apply keeps_foldl
    | with_reducible apply keeps_foldl1
    | with_reducible apply keeps_foldl2
    | with_reducible exact hx

theorem perstAssert_keeps (s : State) (hs : Keeps s0 s) :
    Keeps s0 (perstAssert s) := by
  unfold perstAssert
  repeat' first
    | with_reducible assumption
    | (rintro x y (hx : Keeps s0 y))
    | (rintro x y z w (hx : Keeps s0 w))
    | (rintro x y z (hx : Keeps s0 z))
    | (rintro y (hx : Keeps s0 y))
    | (rintro x y (hx : Keeps s0 y.1))
    | (rintro x y (hx : Keeps s0 y.2))
    | lift_lets
    | (intro x; refine keeps_cut (x := x) (a := s0) ?_ ?_; subst x; rotate_left; clear_value x; intro hx)
    | (intro x; subst x)
    | simp -zeta only [keeps_upd]
    | with_reducible first | apply hostLink_keeps | apply moduleReset_keeps
    | with_reducible apply keeps_ite
    | split

theorem sramWindowWrite_keeps (off : Nat) (v : W32) (s : State) (hs : Keeps s0 s) :
    Keeps s0 (sramWindowWrite off v s) := by
  unfold sramWindowWrite
  repeat' first
    | with_reducible assumption
    | (rintro x y (hx : Keeps s0 y))
    | (rintro x y z w (hx : Keeps s0 w))
    | (rintro x y z (hx : Keeps s0 z))
    | (rintro y (hx : Keeps s0 y))
    | (rintro x y (hx : Keeps s0 y.1))
    | (rintro x y (hx : Keeps s0 y.2))
    | lift_lets
    | (intro x; refine keeps_cut (x := x) (a := s0) ?_ ?_; subst x; rotate_left; clear_value x; intro hx)
    | (intro x; subst x)
    | simp -zeta only [keeps_upd]
    | with_reducible first | apply setAcc_keeps
    | with_reducible apply keeps_ite
    | split

theorem boot_keeps (s : State) (hs : Keeps s0 s) :
    Keeps s0 (boot s) := by
  unfold boot
  repeat' first
    | with_reducible assumption
    | (rintro x y (hx : Keeps s0 y))
    | (rintro x y z w (hx : Keeps s0 w))
    | (rintro x y z (hx : Keeps s0 z))
    | (rintro y (hx : Keeps s0 y))
    | (rintro x y (hx : Keeps s0 y.1))
    | (rintro x y (hx : Keeps s0 y.2))
    | lift_lets
    | (intro x; refine keeps_cut (x := x) (a := s0) ?_ ?_; subst x; rotate_left; clear_value x; intro hx)
    | (intro x; subst x)
    | simp -zeta only [keeps_upd]
    | with_reducible first | apply setReg_keeps | apply setErr_keeps | apply midDone_keeps | apply midRefuse_keeps
    | with_reducible apply keeps_ite
    | split

theorem midWdog_keeps (v : W32) (s : State) (hs : Keeps s0 s) :
    Keeps s0 (midWdog v s) := by
  unfold midWdog
  repeat' first
    | with_reducible assumption
    | (rintro x y (hx : Keeps s0 y))
    | (rintro x y z w (hx : Keeps s0 w))
    | (rintro x y z (hx : Keeps s0 z))
    | (rintro y (hx : Keeps s0 y))
    | (rintro x y (hx : Keeps s0 y.1))
    | (rintro x y (hx : Keeps s0 y.2))
    | lift_lets
    | (intro x; refine keeps_cut (x := x) (a := s0) ?_ ?_; subst x; rotate_left; clear_value x; intro hx)
    | (intro x; subst x)
    | simp -zeta only [keeps_upd]
    | with_reducible apply keeps_ite
    | split

theorem wdogExpiry_keeps (core1 : Bool) (s : State) (hs : Keeps s0 s) :
    Keeps s0 (wdogExpiry core1 s) := by
  unfold wdogExpiry
  repeat' first
    | with_reducible assumption
    | (rintro x y (hx : Keeps s0 y))
    | (rintro x y z w (hx : Keeps s0 w))
    | (rintro x y z (hx : Keeps s0 z))
    | (rintro y (hx : Keeps s0 y))
    | (rintro x y (hx : Keeps s0 y.1))
    | (rintro x y (hx : Keeps s0 y.2))
    | lift_lets
    | (intro x; refine keeps_cut (x := x) (a := s0) ?_ ?_; subst x; rotate_left; clear_value x; intro hx)
    | (intro x; subst x)
    | simp -zeta only [keeps_upd]
    | with_reducible first | apply setReg_keeps | apply setErr_keeps | apply stuckFault_keeps
    | with_reducible apply keeps_ite
    | split

theorem arrayUp_keeps (s : State) (hs : Keeps s0 s) :
    Keeps s0 (arrayUp s) := by
  unfold arrayUp
  repeat' first
    | with_reducible assumption
    | (rintro x y (hx : Keeps s0 y))
    | (rintro x y z w (hx : Keeps s0 w))
    | (rintro x y z (hx : Keeps s0 z))
    | (rintro y (hx : Keeps s0 y))
    | (rintro x y (hx : Keeps s0 y.1))
    | (rintro x y (hx : Keeps s0 y.2))
    | lift_lets
    | (intro x; refine keeps_cut (x := x) (a := s0) ?_ ?_; subst x; rotate_left; clear_value x; intro hx)
    | (intro x; subst x)
    | simp -zeta only [keeps_upd]
    | with_reducible first | apply setReg_keeps | apply midDone_keeps | apply midRefuse_keeps
    | with_reducible apply keeps_ite
    | split

theorem beginClockSetup_keeps (s : State) (hs : Keeps s0 s) :
    Keeps s0 (beginClockSetup s) := by
  unfold beginClockSetup
  repeat' first
    | with_reducible assumption
    | (rintro x y (hx : Keeps s0 y))
    | (rintro x y z w (hx : Keeps s0 w))
    | (rintro x y z (hx : Keeps s0 z))
    | (rintro y (hx : Keeps s0 y))
    | (rintro x y (hx : Keeps s0 y.1))
    | (rintro x y (hx : Keeps s0 y.2))
    | lift_lets
    | (intro x; refine keeps_cut (x := x) (a := s0) ?_ ?_; subst x; rotate_left; clear_value x; intro hx)
    | (intro x; subst x)
    | simp -zeta only [keeps_upd]
    | with_reducible first | apply forAll_keeps | apply setField_keeps

theorem sequencingEnd_keeps (s : State) (hs : Keeps s0 s) :
    Keeps s0 (sequencingEnd s) := by
  unfold sequencingEnd
  repeat' first
    | with_reducible assumption
    | (rintro x y (hx : Keeps s0 y))
    | (rintro x y z w (hx : Keeps s0 w))
    | (rintro x y z (hx : Keeps s0 z))
    | (rintro y (hx : Keeps s0 y))
    | (rintro x y (hx : Keeps s0 y.1))
    | (rintro x y (hx : Keeps s0 y.2))
    | lift_lets
    | (intro x; refine keeps_cut (x := x) (a := s0) ?_ ?_; subst x; rotate_left; clear_value x; intro hx)
    | (intro x; subst x)
    | simp -zeta only [keeps_upd]
    | with_reducible first | apply setReg_keeps | apply beginClockSetup_keeps
    | with_reducible apply keeps_ite
    | split

theorem continueCmd_keeps (s : State) (hs : Keeps s0 s) :
    Keeps s0 (continueCmd s) := by
  unfold continueCmd
  repeat' first
    | with_reducible assumption
    | (rintro x y (hx : Keeps s0 y))
    | (rintro x y z w (hx : Keeps s0 w))
    | (rintro x y z (hx : Keeps s0 z))
    | (rintro y (hx : Keeps s0 y))
    | (rintro x y (hx : Keeps s0 y.1))
    | (rintro x y (hx : Keeps s0 y.2))
    | with_reducible first | apply midDone_keeps | apply midRefuse_keeps | apply beginClockSetup_keeps
    | with_reducible apply keeps_ite
    | split

theorem trimField_keeps (p : Nat × List Nat × List Nat) (s : State) (hs : Keeps s0 s) :
    Keeps s0 (trimField p s) := by
  unfold trimField
  repeat' first
    | with_reducible assumption
    | (rintro x y (hx : Keeps s0 y))
    | (rintro x y z w (hx : Keeps s0 w))
    | (rintro x y z (hx : Keeps s0 z))
    | (rintro y (hx : Keeps s0 y))
    | (rintro x y (hx : Keeps s0 y.1))
    | (rintro x y (hx : Keeps s0 y.2))
    | lift_lets
    | (intro x; refine keeps_cut (x := x) (a := s0) ?_ ?_; subst x; rotate_left; clear_value x; intro hx)
    | (intro x; subst x)
    | simp -zeta only [keeps_upd]
    | with_reducible first | apply setReg_keeps | apply forAll_keeps | apply setField_keeps | apply republish_keeps
    | with_reducible apply keeps_ite
    | split

theorem setCap_keeps (s : State) (hs : Keeps s0 s) :
    Keeps s0 (setCap s) := by
  unfold setCap
  repeat' first
    | with_reducible assumption
    | (rintro x y (hx : Keeps s0 y))
    | (rintro x y z w (hx : Keeps s0 w))
    | (rintro x y z (hx : Keeps s0 z))
    | (rintro y (hx : Keeps s0 y))
    | (rintro x y (hx : Keeps s0 y.1))
    | (rintro x y (hx : Keeps s0 y.2))
    | lift_lets
    | (intro x; refine keeps_cut (x := x) (a := s0) ?_ ?_; subst x; rotate_left; clear_value x; intro hx)
    | (intro x; subst x)
    | with_reducible first | apply setReg_keeps | apply setReg64_keeps
    | with_reducible apply keeps_foldl
    | with_reducible apply keeps_foldl1
    | with_reducible apply keeps_foldl2
    | with_reducible exact hx

theorem showGeo_keeps (s : State) (hs : Keeps s0 s) :
    Keeps s0 (showGeo s) := by
  unfold showGeo
  repeat' first
    | with_reducible assumption
    | (rintro x y (hx : Keeps s0 y))
    | (rintro x y z w (hx : Keeps s0 w))
    | (rintro x y z (hx : Keeps s0 z))
    | (rintro y (hx : Keeps s0 y))
    | (rintro x y (hx : Keeps s0 y.1))
    | (rintro x y (hx : Keeps s0 y.2))
    | lift_lets
    | (intro x; refine keeps_cut (x := x) (a := s0) ?_ ?_; subst x; rotate_left; clear_value x; intro hx)
    | (intro x; subst x)
    | with_reducible first | apply setReg_keeps | apply setBits_keeps | apply forAll_keeps
    | with_reducible apply keeps_foldl
    | with_reducible apply keeps_foldl1
    | with_reducible apply keeps_foldl2
    | with_reducible exact hx

theorem showStacks_keeps (s : State) (hs : Keeps s0 s) :
    Keeps s0 (showStacks s) := by
  unfold showStacks
  repeat' first
    | with_reducible assumption
    | (rintro x y (hx : Keeps s0 y))
    | (rintro x y z w (hx : Keeps s0 w))
    | (rintro x y z (hx : Keeps s0 z))
    | (rintro y (hx : Keeps s0 y))
    | (rintro x y (hx : Keeps s0 y.1))
    | (rintro x y (hx : Keeps s0 y.2))
    | lift_lets
    | (intro x; refine keeps_cut (x := x) (a := s0) ?_ ?_; subst x; rotate_left; clear_value x; intro hx)
    | (intro x; subst x)
    | with_reducible first | apply setReg_keeps | apply setBits_keeps | apply setErr_keeps | apply forAll_keeps
    | with_reducible apply keeps_ite
    | split

theorem selfTestEnd_keeps (r : TestReport) (s : State) (hs : Keeps s0 s) :
    Keeps s0 (selfTestEnd r s) := by
  unfold selfTestEnd
  repeat' first
    | with_reducible assumption
    | (rintro x y (hx : Keeps s0 y))
    | (rintro x y z w (hx : Keeps s0 w))
    | (rintro x y z (hx : Keeps s0 z))
    | (rintro y (hx : Keeps s0 y))
    | (rintro x y (hx : Keeps s0 y.1))
    | (rintro x y (hx : Keeps s0 y.2))
    | lift_lets
    | (intro x; refine keeps_cut (x := x) (a := s0) ?_ ?_; subst x; rotate_left; clear_value x; intro hx)
    | (intro x; subst x)
    | simp -zeta only [keeps_upd]
    | with_reducible first | apply setReg_keeps | apply fire_keeps | apply setErr_keeps | apply setRun_keeps | apply forAll_keeps | apply setField_keeps | apply enterFault_keeps | apply segmentDown_keeps | apply trimField_keeps | apply setCap_keeps | apply showGeo_keeps | apply showStacks_keeps
    | with_reducible apply keeps_ite
    | split

theorem unload_keeps (s : State) (hs : Keeps s0 s) :
    Keeps s0 (unload s) := by
  unfold unload
  repeat' first
    | with_reducible assumption
    | (rintro x y (hx : Keeps s0 y))
    | (rintro x y z w (hx : Keeps s0 w))
    | (rintro x y z (hx : Keeps s0 z))
    | (rintro y (hx : Keeps s0 y))
    | (rintro x y (hx : Keeps s0 y.1))
    | (rintro x y (hx : Keeps s0 y.2))
    | with_reducible first | apply setRun_keeps | apply midDone_keeps | apply midRefuse_keeps | apply dropImage_keeps
    | with_reducible apply keeps_ite
    | split

theorem scrubKeysTilesDies_keeps (s : State) (hs : Keeps s0 s) :
    Keeps s0 (scrubKeysTilesDies s) := by
  unfold scrubKeysTilesDies
  repeat' first
    | with_reducible assumption
    | (rintro x y (hx : Keeps s0 y))
    | (rintro x y z w (hx : Keeps s0 w))
    | (rintro x y z (hx : Keeps s0 z))
    | (rintro y (hx : Keeps s0 y))
    | (rintro x y (hx : Keeps s0 y.1))
    | (rintro x y (hx : Keeps s0 y.2))
    | lift_lets
    | (intro x; refine keeps_cut (x := x) (a := s0) ?_ ?_; subst x; rotate_left; clear_value x; intro hx)
    | (intro x; subst x)
    | simp -zeta only [keeps_upd]
    | with_reducible first | apply scrubTiles_keeps | apply eraseKeys_keeps

theorem startScrub_keeps (why : ScrubFor) (s : State) (hs : Keeps s0 s) :
    Keeps s0 (startScrub why s) := by
  unfold startScrub
  repeat' first
    | with_reducible assumption
    | (rintro x y (hx : Keeps s0 y))
    | (rintro x y z w (hx : Keeps s0 w))
    | (rintro x y z (hx : Keeps s0 z))
    | (rintro y (hx : Keeps s0 y))
    | (rintro x y (hx : Keeps s0 y.1))
    | (rintro x y (hx : Keeps s0 y.2))
    | lift_lets
    | (intro x; refine keeps_cut (x := x) (a := s0) ?_ ?_; subst x; rotate_left; clear_value x; intro hx)
    | (intro x; subst x)
    | simp -zeta only [keeps_upd]
    | with_reducible first | apply scrubKeysTilesDies_keeps

theorem arrayResetStart_keeps (s : State) (hs : Keeps s0 s) :
    Keeps s0 (arrayResetStart s) := by
  unfold arrayResetStart
  repeat' first
    | with_reducible assumption
    | (rintro x y (hx : Keeps s0 y))
    | (rintro x y z w (hx : Keeps s0 w))
    | (rintro x y z (hx : Keeps s0 z))
    | (rintro y (hx : Keeps s0 y))
    | (rintro x y (hx : Keeps s0 y.1))
    | (rintro x y (hx : Keeps s0 y.2))
    | with_reducible first | apply dropImage_keeps | apply startScrub_keeps
    | with_reducible apply keeps_ite
    | split

theorem arrayReset_keeps (s : State) (hs : Keeps s0 s) :
    Keeps s0 (arrayReset s) := by
  unfold arrayReset
  repeat' first
    | with_reducible assumption
    | (rintro x y (hx : Keeps s0 y))
    | (rintro x y z w (hx : Keeps s0 w))
    | (rintro x y z (hx : Keeps s0 z))
    | (rintro y (hx : Keeps s0 y))
    | (rintro x y (hx : Keeps s0 y.1))
    | (rintro x y (hx : Keeps s0 y.2))
    | lift_lets
    | (intro x; refine keeps_cut (x := x) (a := s0) ?_ ?_; subst x; rotate_left; clear_value x; intro hx)
    | (intro x; subst x)
    | simp -zeta only [keeps_upd]
    | with_reducible first | apply midRefuse_keeps | apply midBusy_keeps | apply arrayResetStart_keeps
    | with_reducible apply keeps_ite
    | split

theorem dropPlc_keeps (s : State) (hs : Keeps s0 s) :
    Keeps s0 (dropPlc s) := by
  unfold dropPlc
  repeat' first
    | with_reducible assumption
    | (rintro x y (hx : Keeps s0 y))
    | (rintro x y z w (hx : Keeps s0 w))
    | (rintro x y z (hx : Keeps s0 z))
    | (rintro y (hx : Keeps s0 y))
    | (rintro x y (hx : Keeps s0 y.1))
    | (rintro x y (hx : Keeps s0 y.2))
    | lift_lets
    | (intro x; refine keeps_cut (x := x) (a := s0) ?_ ?_; subst x; rotate_left; clear_value x; intro hx)
    | (intro x; subst x)
    | with_reducible first | apply setReg_keeps | apply setReg64_keeps
    | with_reducible apply keeps_foldl
    | with_reducible apply keeps_foldl1
    | with_reducible apply keeps_foldl2
    | with_reducible exact hx

theorem arrayResetComplete_keeps (s : State) (hs : Keeps s0 s) :
    Keeps s0 (arrayResetComplete s) := by
  unfold arrayResetComplete
  repeat' first
    | with_reducible assumption
    | (rintro x y (hx : Keeps s0 y))
    | (rintro x y z w (hx : Keeps s0 w))
    | (rintro x y z (hx : Keeps s0 z))
    | (rintro y (hx : Keeps s0 y))
    | (rintro x y (hx : Keeps s0 y.1))
    | (rintro x y (hx : Keeps s0 y.2))
    | lift_lets
    | (intro x; refine keeps_cut (x := x) (a := s0) ?_ ?_; subst x; rotate_left; clear_value x; intro hx)
    | (intro x; subst x)
    | simp -zeta only [keeps_upd]
    | with_reducible first | apply setReg_keeps | apply setRun_keeps | apply midDone_keeps | apply forAll_keeps | apply setField_keeps | apply placeGeo_keeps | apply dropImage_keeps | apply setCap_keeps | apply showGeo_keeps | apply dropPlc_keeps
    | with_reducible apply keeps_ite
    | split

theorem flushPba_keeps (s : State) (hs : Keeps s0 s) :
    Keeps s0 (flushPba s) := by
  unfold flushPba
  repeat' first
    | with_reducible assumption
    | (rintro x y (hx : Keeps s0 y))
    | (rintro x y z w (hx : Keeps s0 w))
    | (rintro x y z (hx : Keeps s0 z))
    | (rintro y (hx : Keeps s0 y))
    | (rintro x y (hx : Keeps s0 y.1))
    | (rintro x y (hx : Keeps s0 y.2))
    | with_reducible first | apply setReg_keeps | apply msixSend_keeps | apply forAll_keeps
    | with_reducible apply keeps_ite
    | split

theorem msixUnmask_keeps (n : Fin 32) (s : State) (hs : Keeps s0 s) :
    Keeps s0 (msixUnmask n s) := by
  unfold msixUnmask
  repeat' first
    | with_reducible assumption
    | (rintro x y (hx : Keeps s0 y))
    | (rintro x y z w (hx : Keeps s0 w))
    | (rintro x y z (hx : Keeps s0 z))
    | (rintro y (hx : Keeps s0 y))
    | (rintro x y (hx : Keeps s0 y.1))
    | (rintro x y (hx : Keeps s0 y.2))
    | lift_lets
    | (intro x; refine keeps_cut (x := x) (a := s0) ?_ ?_; subst x; rotate_left; clear_value x; intro hx)
    | (intro x; subst x)
    | with_reducible first | apply setReg_keeps | apply msixSend_keeps
    | with_reducible apply keeps_ite
    | split

theorem respond_keeps (t : Transport) (bs : List Byte) (s : State) (hs : Keeps s0 s) :
    Keeps s0 (respond t bs s) := by
  unfold respond
  repeat' first
    | with_reducible assumption
    | (rintro x y (hx : Keeps s0 y))
    | (rintro x y z w (hx : Keeps s0 w))
    | (rintro x y z (hx : Keeps s0 z))
    | (rintro y (hx : Keeps s0 y))
    | (rintro x y (hx : Keeps s0 y.1))
    | (rintro x y (hx : Keeps s0 y.2))
    | with_reducible first | apply emit_keeps

theorem spdmReq_keeps (f : State → State) (s : State)
    (hf : ∀ x0, Keeps s0 x0 → Keeps s0 (f x0)) (hs : Keeps s0 s) :
    Keeps s0 (spdmReq f s) := by
  unfold spdmReq
  repeat' first
    | with_reducible assumption
    | (rintro x y (hx : Keeps s0 y))
    | (rintro x y z w (hx : Keeps s0 w))
    | (rintro x y z (hx : Keeps s0 z))
    | (rintro y (hx : Keeps s0 y))
    | (rintro x y (hx : Keeps s0 y.1))
    | (rintro x y (hx : Keeps s0 y.2))
    | with_reducible first | apply hf
    | with_reducible apply keeps_ite
    | split

theorem spdmError_keeps (t : Transport) (s : State) (hs : Keeps s0 s) :
    Keeps s0 (spdmError t s) := by
  unfold spdmError
  repeat' first
    | with_reducible assumption
    | (rintro x y (hx : Keeps s0 y))
    | (rintro x y z w (hx : Keeps s0 w))
    | (rintro x y z (hx : Keeps s0 z))
    | (rintro y (hx : Keeps s0 y))
    | (rintro x y (hx : Keeps s0 y.1))
    | (rintro x y (hx : Keeps s0 y.2))
    | with_reducible first | apply respond_keeps

theorem setHashRegs_keeps (pg : Page) (o : Nat) (bs : List Byte) (s : State) (hs : Keeps s0 s) :
    Keeps s0 (setHashRegs pg o bs s) := by
  unfold setHashRegs
  repeat' first
    | with_reducible assumption
    | (rintro x y (hx : Keeps s0 y))
    | (rintro x y z w (hx : Keeps s0 w))
    | (rintro x y z (hx : Keeps s0 z))
    | (rintro y (hx : Keeps s0 y))
    | (rintro x y (hx : Keeps s0 y.1))
    | (rintro x y (hx : Keeps s0 y.2))
    | with_reducible first | apply setReg_keeps | apply forAll_keeps

theorem secRefuse_keeps (code : Nat) (s : State) (hs : Keeps s0 s) :
    Keeps s0 (secRefuse code s) := by
  unfold secRefuse
  repeat' first
    | with_reducible assumption
    | (rintro x y (hx : Keeps s0 y))
    | (rintro x y z w (hx : Keeps s0 w))
    | (rintro x y z (hx : Keeps s0 z))
    | (rintro y (hx : Keeps s0 y))
    | (rintro x y (hx : Keeps s0 y.1))
    | (rintro x y (hx : Keeps s0 y.2))
    | lift_lets
    | (intro x; refine keeps_cut (x := x) (a := s0) ?_ ?_; subst x; rotate_left; clear_value x; intro hx)
    | (intro x; subst x)
    | simp -zeta only [keeps_upd]
    | with_reducible first | apply setErr_keeps

theorem secAnswer_keeps (code : Nat) (s : State) (hs : Keeps s0 s) :
    Keeps s0 (secAnswer code s) := by
  unfold secAnswer
  repeat' first
    | with_reducible assumption
    | (rintro x y (hx : Keeps s0 y))
    | (rintro x y z w (hx : Keeps s0 w))
    | (rintro x y z (hx : Keeps s0 z))
    | (rintro y (hx : Keeps s0 y))
    | (rintro x y (hx : Keeps s0 y.1))
    | (rintro x y (hx : Keeps s0 y.2))
    | with_reducible first | apply respond_keeps | apply secRefuse_keeps
    | with_reducible apply keeps_ite
    | split

theorem inSession_keeps (f : State → State) (s : State)
    (hf : ∀ x0, Keeps s0 x0 → Keeps s0 (f x0)) (hs : Keeps s0 s) :
    Keeps s0 (inSession f s) := by
  unfold inSession
  repeat' first
    | with_reducible assumption
    | (rintro x y (hx : Keeps s0 y))
    | (rintro x y z w (hx : Keeps s0 w))
    | (rintro x y z (hx : Keeps s0 z))
    | (rintro y (hx : Keeps s0 y))
    | (rintro x y (hx : Keeps s0 y.1))
    | (rintro x y (hx : Keeps s0 y.2))
    | with_reducible first | apply hf
    | with_reducible apply keeps_ite
    | split

theorem loadLinkKey_keeps (p : Die) (rx : Bool) (salt key : List Byte) (s : State) (hs : Keeps s0 s) :
    Keeps s0 (loadLinkKey p rx salt key s) := by
  unfold loadLinkKey
  repeat' first
    | with_reducible assumption
    | (rintro x y (hx : Keeps s0 y))
    | (rintro x y z w (hx : Keeps s0 w))
    | (rintro x y z (hx : Keeps s0 z))
    | (rintro y (hx : Keeps s0 y))
    | (rintro x y (hx : Keeps s0 y.1))
    | (rintro x y (hx : Keeps s0 y.2))
    | lift_lets
    | (intro x; refine keeps_cut (x := x) (a := s0) ?_ ?_; subst x; rotate_left; clear_value x; intro hx)
    | (intro x; subst x)
    | simp -zeta only [keeps_upd]
    | with_reducible first | apply setLink_keeps | apply showActive_keeps
    | with_reducible apply keeps_ite
    | split

theorem sealNow_keeps (hash : List Byte) (s : State) (h : Keeps s0 s) (hc : sealCode s = 0) :
    Keeps s0 (sealNow hash s) := by
  have hf : sjuFitted s.code = true ∧ s.level ≠ .intrusive := by
    unfold sealCode at hc
    split at hc
    · omega
    · split at hc
      · omega
      · split at hc
        · omega
        · rename_i h1 _ h3
          exact ⟨by simpa using h1, h3⟩
  have h1 : Keeps s0 { s with isSealed := true } :=
    ⟨h.code, h.silicon, h.serial, h.mfg, h.pending, h.mem, fun _ => ⟨fun _ => hf.2, fun _ => hf.1⟩⟩
  exact setHashRegs_keeps _ _ _ _ (bump_keeps _ _ _ _ (showActive_keeps _ h1))

theorem zeroJobRegions_keeps (s : State) (h : Keeps s0 s) : Keeps s0 (zeroJobRegions s) :=
  ⟨h.code, h.silicon, h.serial, h.mfg, h.pending, fun x => mwf_filter _ (h.mem x),
    fun x => ⟨(h.mode x).quiet, (h.mode x).fitted⟩⟩

theorem scrubComplete_keeps (ok : Bool) (us : Nat) (s : State) (hs : Keeps s0 s) :
    Keeps s0 (scrubComplete ok us s) := by
  unfold scrubComplete
  refine keeps_ite hs (keeps_ite ?_ ?_)
  · refine fire_keeps _ _ ?_
    have h := setReg_keeps .sec 0x058 (w32 (min us 0xFFFFFFFF)) _ (bump_keeps .sec 0x054 _ 1 (zeroJobRegions_keeps s hs))
    refine showActive_keeps _ ?_
    exact ⟨h.code, h.silicon, h.serial, h.mfg, h.pending, h.mem,
      fun _ => ⟨fun y => Bool.noConfusion y, fun y => Bool.noConfusion y⟩⟩
  · exact fire_keeps _ _ (setErr_keeps _ _ _ (keeps_of hs rfl rfl rfl rfl rfl rfl rfl rfl))

theorem notePrt_keeps (force : Option Nat) (s : State) (hs : Keeps s0 s) :
    Keeps s0 (notePrt force s) := by
  unfold notePrt
  repeat' first
    | with_reducible assumption
    | (rintro x y (hx : Keeps s0 y))
    | (rintro x y z w (hx : Keeps s0 w))
    | (rintro x y z (hx : Keeps s0 z))
    | (rintro y (hx : Keeps s0 y))
    | (rintro x y (hx : Keeps s0 y.1))
    | (rintro x y (hx : Keeps s0 y.2))
    | lift_lets
    | (intro x; refine keeps_cut (x := x) (a := s0) ?_ ?_; subst x; rotate_left; clear_value x; intro hx)
    | (intro x; subst x)
    | simp -zeta only [keeps_upd]
    | with_reducible apply keeps_foldl
    | with_reducible apply keeps_foldl1
    | with_reducible apply keeps_foldl2
    | with_reducible exact hx
    | with_reducible apply keeps_ite
    | split

theorem clearPrt_keeps (s : State) (hs : Keeps s0 s) :
    Keeps s0 (clearPrt s) := by
  unfold clearPrt
  repeat' first
    | with_reducible assumption
    | (rintro x y (hx : Keeps s0 y))
    | (rintro x y z w (hx : Keeps s0 w))
    | (rintro x y z (hx : Keeps s0 z))
    | (rintro y (hx : Keeps s0 y))
    | (rintro x y (hx : Keeps s0 y.1))
    | (rintro x y (hx : Keeps s0 y.2))
    | with_reducible first | apply setReg_keeps | apply forAll_keeps

theorem setLevel_keeps (l : DbgLevel) (s : State) (h : Keeps s0 s)
    (hl : SealRule s0 → l = .intrusive → s.isSealed = true → False) : Keeps s0 (setLevel l s) := by
  have h1 : Keeps s0 { s with level := l } :=
    ⟨h.code, h.silicon, h.serial, h.mfg, h.pending, h.mem, fun x => ⟨fun y z => hl x z y, (h.mode x).fitted⟩⟩
  unfold setLevel
  refine keeps_ite h1 (clearPrt_keeps _ ?_)
  exact keeps_of h1 rfl rfl rfl rfl rfl rfl rfl rfl

theorem levelWrite_keeps (v : W32) (s : State) (h : Keeps s0 s) : Keeps s0 (levelWrite v s) := by
  unfold levelWrite
  split
  · exact setErr_keeps _ _ _ h
  · rename_i l _
    split
    · rename_i hl
      refine setLevel_keeps l s h fun hm hi hs => ?_
      subst hi
      have := (h.mode hm).quiet hs
      cases he : s.level <;> simp_all [levelCode]
    · split
      · rename_i hr
        refine setLevel_keeps l s h fun hm hi hs => ?_
        simp [raiseOk, hi, hs] at hr
      · exact setErr_keeps _ _ _ h

theorem tick1_keeps (s : State) (hs : Keeps s0 s) :
    Keeps s0 (tick1 s) := by
  unfold tick1
  repeat' first
    | with_reducible assumption
    | (rintro x y (hx : Keeps s0 y))
    | (rintro x y z w (hx : Keeps s0 w))
    | (rintro x y z (hx : Keeps s0 z))
    | (rintro y (hx : Keeps s0 y))
    | (rintro x y (hx : Keeps s0 y.1))
    | (rintro x y (hx : Keeps s0 y.2))
    | lift_lets
    | (intro x; refine keeps_cut (x := x) (a := s0) ?_ ?_; subst x; rotate_left; clear_value x; intro hx)
    | (intro x; subst x)
    | simp -zeta only [keeps_upd]
    | with_reducible first | apply setAcc_keeps | apply denyDbg_keeps | apply mapTiles_keeps
    | with_reducible apply keeps_ite
    | split

theorem prtWrite_keeps (o : Nat) (bad : Bool) (v : W32) (s : State) (hs : Keeps s0 s) :
    Keeps s0 (prtWrite o bad v s) := by
  unfold prtWrite
  repeat' first
    | with_reducible assumption
    | (rintro x y (hx : Keeps s0 y))
    | (rintro x y z w (hx : Keeps s0 w))
    | (rintro x y z (hx : Keeps s0 z))
    | (rintro y (hx : Keeps s0 y))
    | (rintro x y (hx : Keeps s0 y.1))
    | (rintro x y (hx : Keeps s0 y.2))
    | lift_lets
    | (intro x; refine keeps_cut (x := x) (a := s0) ?_ ?_; subst x; rotate_left; clear_value x; intro hx)
    | (intro x; subst x)
    | simp -zeta only [keeps_upd]
    | with_reducible first | apply setReg_keeps | apply setErr_keeps | apply notePrt_keeps
    | with_reducible apply keeps_ite
    | split

theorem prtBus_keeps (f : State → State) (s : State)
    (hf : ∀ x0, Keeps s0 x0 → Keeps s0 (f x0)) (hs : Keeps s0 s) :
    Keeps s0 (prtBus f s) := by
  unfold prtBus
  repeat' first
    | with_reducible assumption
    | (rintro x y (hx : Keeps s0 y))
    | (rintro x y z w (hx : Keeps s0 w))
    | (rintro x y z (hx : Keeps s0 z))
    | (rintro y (hx : Keeps s0 y))
    | (rintro x y (hx : Keeps s0 y.1))
    | (rintro x y (hx : Keeps s0 y.2))
    | with_reducible first | apply hf
    | with_reducible apply keeps_ite
    | split

theorem prtEvent_keeps (s : State) (hs : Keeps s0 s) :
    Keeps s0 (prtEvent s) := by
  unfold prtEvent
  repeat' first
    | with_reducible assumption
    | (rintro x y (hx : Keeps s0 y))
    | (rintro x y z w (hx : Keeps s0 w))
    | (rintro x y z (hx : Keeps s0 z))
    | (rintro y (hx : Keeps s0 y))
    | (rintro x y (hx : Keeps s0 y.1))
    | (rintro x y (hx : Keeps s0 y.2))
    | with_reducible first | apply bump_keeps | apply notePrt_keeps

theorem prtUse_keeps (o hi : Nat) (s : State) (hs : Keeps s0 s) :
    Keeps s0 (prtUse o hi s) := by
  unfold prtUse
  repeat' first
    | with_reducible assumption
    | (rintro x y (hx : Keeps s0 y))
    | (rintro x y z w (hx : Keeps s0 w))
    | (rintro x y z (hx : Keeps s0 z))
    | (rintro y (hx : Keeps s0 y))
    | (rintro x y (hx : Keeps s0 y.1))
    | (rintro x y (hx : Keeps s0 y.2))
    | lift_lets
    | (intro x; refine keeps_cut (x := x) (a := s0) ?_ ?_; subst x; rotate_left; clear_value x; intro hx)
    | (intro x; subst x)
    | with_reducible first | apply setReg_keeps | apply notePrt_keeps | apply prtEvent_keeps
    | with_reducible apply keeps_ite
    | split

theorem errInj_keeps (pg : Page) (v : W32) (s : State) (hs : Keeps s0 s) :
    Keeps s0 (errInj pg v s) := by
  unfold errInj
  repeat' first
    | with_reducible assumption
    | (rintro x y (hx : Keeps s0 y))
    | (rintro x y z w (hx : Keeps s0 w))
    | (rintro x y z (hx : Keeps s0 z))
    | (rintro y (hx : Keeps s0 y))
    | (rintro x y (hx : Keeps s0 y.1))
    | (rintro x y (hx : Keeps s0 y.2))
    | with_reducible first | apply denyDbg_keeps | apply injectErrs_keeps
    | with_reducible apply keeps_ite
    | split

theorem selectIr_keeps (ir : Nat) (out : List Bool) (s : State) (hs : Keeps s0 s) :
    Keeps s0 (selectIr ir out s) := by
  unfold selectIr
  repeat' first
    | with_reducible assumption
    | (rintro x y (hx : Keeps s0 y))
    | (rintro x y z w (hx : Keeps s0 w))
    | (rintro x y z (hx : Keeps s0 z))
    | (rintro y (hx : Keeps s0 y))
    | (rintro x y (hx : Keeps s0 y.1))
    | (rintro x y (hx : Keeps s0 y.2))
    | lift_lets
    | (intro x; refine keeps_cut (x := x) (a := s0) ?_ ?_; subst x; rotate_left; clear_value x; intro hx)
    | (intro x; subst x)
    | simp -zeta only [keeps_upd]
    | with_reducible first | apply emit_keeps
    | with_reducible apply keeps_ite
    | split

theorem writeView_keeps (n o : Nat) (v : W32) (s : State) (hs : Keeps s0 s) :
    Keeps s0 (writeView n o v s) := by
  unfold writeView
  repeat' first
    | with_reducible assumption
    | (rintro x y (hx : Keeps s0 y))
    | (rintro x y z w (hx : Keeps s0 w))
    | (rintro x y z (hx : Keeps s0 z))
    | (rintro y (hx : Keeps s0 y))
    | (rintro x y (hx : Keeps s0 y.1))
    | (rintro x y (hx : Keeps s0 y.2))
    | lift_lets
    | (intro x; refine keeps_cut (x := x) (a := s0) ?_ ?_; subst x; rotate_left; clear_value x; intro hx)
    | (intro x; subst x)
    | simp -zeta only [keeps_upd]
    | with_reducible first | apply setAcc_keeps | apply denyDbg_keeps | apply setSelTile_keeps
    | with_reducible apply keeps_ite
    | split

theorem xlWrite_keeps (v : W32) (s : State) (hs : Keeps s0 s) :
    Keeps s0 (xlWrite v s) := by
  unfold xlWrite
  repeat' first
    | with_reducible assumption
    | (rintro x y (hx : Keeps s0 y))
    | (rintro x y z w (hx : Keeps s0 w))
    | (rintro x y z (hx : Keeps s0 z))
    | (rintro y (hx : Keeps s0 y))
    | (rintro x y (hx : Keeps s0 y.1))
    | (rintro x y (hx : Keeps s0 y.2))
    | lift_lets
    | (intro x; refine keeps_cut (x := x) (a := s0) ?_ ?_; subst x; rotate_left; clear_value x; intro hx)
    | (intro x; subst x)
    | with_reducible first | apply setReg_keeps

theorem tmrCmpWrite_keeps (rq : Req) (n : Fin 4) (hi : W32) (s : State) (hs : Keeps s0 s) :
    Keeps s0 (tmrCmpWrite rq n hi s) := by
  unfold tmrCmpWrite
  repeat' first
    | with_reducible assumption
    | (rintro x y (hx : Keeps s0 y))
    | (rintro x y z w (hx : Keeps s0 w))
    | (rintro x y z (hx : Keeps s0 z))
    | (rintro y (hx : Keeps s0 y))
    | (rintro x y (hx : Keeps s0 y.1))
    | (rintro x y (hx : Keeps s0 y.2))
    | lift_lets
    | (intro x; refine keeps_cut (x := x) (a := s0) ?_ ?_; subst x; rotate_left; clear_value x; intro hx)
    | (intro x; subst x)
    | simp -zeta only [keeps_upd]
    | with_reducible first | apply applyHigh_keeps
    | with_reducible apply keeps_ite
    | split

theorem timerFire_keeps (n : Fin 4) (s : State) (hs : Keeps s0 s) :
    Keeps s0 (timerFire n s) := by
  unfold timerFire
  repeat' first
    | with_reducible assumption
    | (rintro x y (hx : Keeps s0 y))
    | (rintro x y z w (hx : Keeps s0 w))
    | (rintro x y z (hx : Keeps s0 z))
    | (rintro y (hx : Keeps s0 y))
    | (rintro x y (hx : Keeps s0 y.1))
    | (rintro x y (hx : Keeps s0 y.2))
    | lift_lets
    | (intro x; refine keeps_cut (x := x) (a := s0) ?_ ?_; subst x; rotate_left; clear_value x; intro hx)
    | (intro x; subst x)
    | simp -zeta only [keeps_upd]
    | with_reducible first | apply setReg_keeps | apply fire_keeps
    | with_reducible apply keeps_ite
    | split

theorem pendSet_keeps (w : Fin 32) (v : W32) (s : State) (hs : Keeps s0 s) :
    Keeps s0 (pendSet w v s) := by
  unfold pendSet
  repeat' first
    | with_reducible assumption
    | (rintro x y (hx : Keeps s0 y))
    | (rintro x y z w (hx : Keeps s0 w))
    | (rintro x y z (hx : Keeps s0 z))
    | (rintro y (hx : Keeps s0 y))
    | (rintro x y (hx : Keeps s0 y.1))
    | (rintro x y (hx : Keeps s0 y.2))
    | with_reducible first | apply fire_keeps | apply forAll_keeps

theorem pendClear_keeps (w : Fin 32) (v fired : W32) (s : State) (hs : Keeps s0 s) :
    Keeps s0 (pendClear w v fired s) := by
  unfold pendClear
  repeat' first
    | with_reducible assumption
    | (rintro x y (hx : Keeps s0 y))
    | (rintro x y z w (hx : Keeps s0 w))
    | (rintro x y z (hx : Keeps s0 z))
    | (rintro y (hx : Keeps s0 y))
    | (rintro x y (hx : Keeps s0 y.1))
    | (rintro x y (hx : Keeps s0 y.2))
    | with_reducible first | apply setReg_keeps | apply pendSet_keeps

theorem vectorTime_keeps (n : Fin 32) (s : State) (hs : Keeps s0 s) :
    Keeps s0 (vectorTime n s) := by
  unfold vectorTime
  repeat' first
    | with_reducible assumption
    | (rintro x y (hx : Keeps s0 y))
    | (rintro x y z w (hx : Keeps s0 w))
    | (rintro x y z (hx : Keeps s0 z))
    | (rintro y (hx : Keeps s0 y))
    | (rintro x y (hx : Keeps s0 y.1))
    | (rintro x y (hx : Keeps s0 y.2))
    | lift_lets
    | (intro x; refine keeps_cut (x := x) (a := s0) ?_ ?_; subst x; rotate_left; clear_value x; intro hx)
    | (intro x; subst x)
    | with_reducible first | apply vectorFire_keeps
    | with_reducible apply keeps_ite
    | split

theorem mctpReq_keeps (f : State → State) (s : State)
    (hf : ∀ x0, Keeps s0 x0 → Keeps s0 (f x0)) (hs : Keeps s0 s) :
    Keeps s0 (mctpReq f s) := by
  unfold mctpReq
  repeat' first
    | with_reducible assumption
    | (rintro x y (hx : Keeps s0 y))
    | (rintro x y z w (hx : Keeps s0 w))
    | (rintro x y z (hx : Keeps s0 z))
    | (rintro y (hx : Keeps s0 y))
    | (rintro x y (hx : Keeps s0 y.1))
    | (rintro x y (hx : Keeps s0 y.2))
    | with_reducible first | apply hf
    | with_reducible apply keeps_ite
    | split

end Sys2Proof.Machine
end

