-- ==== Sys2Proof/Laws/Keeps3.lean ====
section
/-! SUPPORT. What the operations of Setts, Mesh, Seq, Order, TileOps, Heavy, Vu, Ladder keep: the fuses, the queue, the canonical form of the store,
the rules on the mode. -/

namespace Sys2Proof.Machine

variable {s0 s : State}

theorem wakeEvent_keeps (u v : Nat) (s : State) (hs : Keeps s0 s) :
    Keeps s0 (wakeEvent u v s) := by
  unfold wakeEvent
  repeat' first
    | with_reducible assumption
    | (rintro x y (hx : Keeps s0 y))
    | (rintro x y z w (hx : Keeps s0 w))
    | (rintro x y z (hx : Keeps s0 z))
    | (rintro y (hx : Keeps s0 y))
    | (rintro x y (hx : Keeps s0 y.1))
    | (rintro x y (hx : Keeps s0 y.2))
    | lift_lets
    | (intro x; refine keeps_cut (x := x) (a := s0) ?_ ?_; subst x; rotate_left; clear_value x; intro hx)
    | (intro x; subst x)
    | with_reducible first | apply prtEvent_keeps
    | with_reducible apply keeps_ite
    | split

theorem signalTile_keeps (u v k : Nat) (tgt : Option Strm) (w : Signaller) (opIdx : Nat) (s : State) (hs : Keeps s0 s) :
    Keeps s0 (signalTile u v k tgt w opIdx s) := by
  unfold signalTile
  repeat' first
    | with_reducible assumption
    | (rintro x y (hx : Keeps s0 y))
    | (rintro x y z w (hx : Keeps s0 w))
    | (rintro x y z (hx : Keeps s0 z))
    | (rintro y (hx : Keeps s0 y))
    | (rintro x y (hx : Keeps s0 y.1))
    | (rintro x y (hx : Keeps s0 y.2))
    | lift_lets
    | (intro x; refine keeps_cut (x := x) (a := s0) ?_ ?_; subst x; rotate_left; clear_value x; intro hx)
    | (intro x; subst x)
    | simp -zeta only [keeps_upd]
    | with_reducible first | apply setTile_keeps | apply contractFault_keeps | apply wakeEvent_keeps
    | with_reducible apply keeps_ite
    | split

theorem readyProgs_keeps (want : UProg → Bool) (s : State) (hs : Keeps s0 s) :
    Keeps s0 (readyProgs want s) := by
  unfold readyProgs
  repeat' first
    | with_reducible assumption
    | (rintro x y (hx : Keeps s0 y))
    | (rintro x y z w (hx : Keeps s0 w))
    | (rintro x y z (hx : Keeps s0 z))
    | (rintro y (hx : Keeps s0 y))
    | (rintro x y (hx : Keeps s0 y.1))
    | (rintro x y (hx : Keeps s0 y.2))
    | lift_lets
    | (intro x; refine keeps_cut (x := x) (a := s0) ?_ ?_; subst x; rotate_left; clear_value x; intro hx)
    | (intro x; subst x)
    | simp -zeta only [keeps_upd]
    | with_reducible first | apply forAll_keeps | apply setDie_keeps
    | split

theorem slotColl_keeps (u v : Nat) (s : State) (hs : Keeps s0 s) :
    Keeps s0 (slotColl u v s) := by
  unfold slotColl
  repeat' first
    | with_reducible assumption
    | (rintro x y (hx : Keeps s0 y))
    | (rintro x y z w (hx : Keeps s0 w))
    | (rintro x y z (hx : Keeps s0 z))
    | (rintro y (hx : Keeps s0 y))
    | (rintro x y (hx : Keeps s0 y.1))
    | (rintro x y (hx : Keeps s0 y.2))
    | with_reducible first | apply tileNetErr_keeps | apply contractFault_keeps
    | with_reducible apply keeps_ite
    | split

theorem queueOvf_keeps (u v : Nat) (s : State) (hs : Keeps s0 s) :
    Keeps s0 (queueOvf u v s) := by
  unfold queueOvf
  repeat' first
    | with_reducible assumption
    | (rintro x y (hx : Keeps s0 y))
    | (rintro x y z w (hx : Keeps s0 w))
    | (rintro x y z (hx : Keeps s0 z))
    | (rintro y (hx : Keeps s0 y))
    | (rintro x y (hx : Keeps s0 y.1))
    | (rintro x y (hx : Keeps s0 y.2))
    | with_reducible first | apply tileNetErr_keeps | apply contractFault_keeps
    | with_reducible apply keeps_ite
    | split

theorem overrunsBuffer_keeps (u v : Nat) (s : State) (hs : Keeps s0 s) :
    Keeps s0 (overrunsBuffer u v s) := by
  unfold overrunsBuffer
  repeat' first
    | with_reducible assumption
    | (rintro x y (hx : Keeps s0 y))
    | (rintro x y z w (hx : Keeps s0 w))
    | (rintro x y z (hx : Keeps s0 z))
    | (rintro y (hx : Keeps s0 y))
    | (rintro x y (hx : Keeps s0 y.1))
    | (rintro x y (hx : Keeps s0 y.2))
    | lift_lets
    | (intro x; refine keeps_cut (x := x) (a := s0) ?_ ?_; subst x; rotate_left; clear_value x; intro hx)
    | (intro x; subst x)
    | with_reducible first | apply slotColl_keeps | apply queueOvf_keeps
    | with_reducible apply keeps_ite
    | split

theorem deliverBulk_keeps (u v : Nat) (f : Flit) (s : State) (hs : Keeps s0 s) :
    Keeps s0 (deliverBulk u v f s) := by
  unfold deliverBulk
  repeat' first
    | with_reducible assumption
    | (rintro x y (hx : Keeps s0 y))
    | (rintro x y z w (hx : Keeps s0 w))
    | (rintro x y z (hx : Keeps s0 z))
    | (rintro y (hx : Keeps s0 y))
    | (rintro x y (hx : Keeps s0 y.1))
    | (rintro x y (hx : Keeps s0 y.2))
    | lift_lets
    | (intro x; refine keeps_cut (x := x) (a := s0) ?_ ?_; subst x; rotate_left; clear_value x; intro hx)
    | (intro x; subst x)
    | simp -zeta only [keeps_upd]
    | with_reducible first | apply setTile_keeps | apply contractFault_keeps | apply overrunsBuffer_keeps
    | with_reducible apply keeps_foldl
    | with_reducible apply keeps_foldl1
    | with_reducible apply keeps_foldl2
    | with_reducible exact hx
    | with_reducible apply keeps_ite
    | split

theorem takeDep_keeps (i : Img) (u v : Nat) (p : Port) (flow : Option Nat) (f : Flit) (s : State) (hs : Keeps s0 s) :
    Keeps s0 (takeDep i u v p flow f s) := by
  unfold takeDep
  repeat' first
    | with_reducible assumption
    | (rintro x y (hx : Keeps s0 y))
    | (rintro x y z w (hx : Keeps s0 w))
    | (rintro x y z (hx : Keeps s0 z))
    | (rintro y (hx : Keeps s0 y))
    | (rintro x y (hx : Keeps s0 y.1))
    | (rintro x y (hx : Keeps s0 y.2))
    | lift_lets
    | (intro x; refine keeps_cut (x := x) (a := s0) ?_ ?_; subst x; rotate_left; clear_value x; intro hx)
    | (intro x; subst x)
    | simp -zeta only [keeps_upd]
    | with_reducible first | apply setTile_keeps
    | with_reducible apply keeps_ite
    | split

theorem bufferBulk_keeps (u v : Nat) (p : Port) (f : Flit) (s : State) (hs : Keeps s0 s) :
    Keeps s0 (bufferBulk u v p f s) := by
  unfold bufferBulk
  repeat' first
    | with_reducible assumption
    | (rintro x y (hx : Keeps s0 y))
    | (rintro x y z w (hx : Keeps s0 w))
    | (rintro x y z (hx : Keeps s0 z))
    | (rintro y (hx : Keeps s0 y))
    | (rintro x y (hx : Keeps s0 y.1))
    | (rintro x y (hx : Keeps s0 y.2))
    | lift_lets
    | (intro x; refine keeps_cut (x := x) (a := s0) ?_ ?_; subst x; rotate_left; clear_value x; intro hx)
    | (intro x; subst x)
    | simp -zeta only [keeps_upd]
    | with_reducible first | apply setTile_keeps | apply overrunsBuffer_keeps
    | with_reducible apply keeps_ite
    | split

theorem sentOne_keeps (u v : Nat) (p : Port) (f : Flit) (s : State) (hs : Keeps s0 s) :
    Keeps s0 (sentOne u v p f s) := by
  unfold sentOne
  repeat' first
    | with_reducible assumption
    | (rintro x y (hx : Keeps s0 y))
    | (rintro x y z w (hx : Keeps s0 w))
    | (rintro x y z (hx : Keeps s0 z))
    | (rintro y (hx : Keeps s0 y))
    | (rintro x y (hx : Keeps s0 y.1))
    | (rintro x y (hx : Keeps s0 y.2))
    | lift_lets
    | (intro x; refine keeps_cut (x := x) (a := s0) ?_ ?_; subst x; rotate_left; clear_value x; intro hx)
    | (intro x; subst x)
    | simp -zeta only [keeps_upd]
    | with_reducible first | apply setTile_keeps
    | with_reducible apply keeps_ite
    | split

theorem hopEvent_keeps (i : Img) (u v : Nat) (out : Port) (s : State) (hs : Keeps s0 s) :
    Keeps s0 (hopEvent i u v out s) := by
  unfold hopEvent
  repeat' first
    | with_reducible assumption
    | (rintro x y (hx : Keeps s0 y))
    | (rintro x y z w (hx : Keeps s0 w))
    | (rintro x y z (hx : Keeps s0 z))
    | (rintro y (hx : Keeps s0 y))
    | (rintro x y (hx : Keeps s0 y.1))
    | (rintro x y (hx : Keeps s0 y.2))
    | lift_lets
    | (intro x; refine keeps_cut (x := x) (a := s0) ?_ ?_; subst x; rotate_left; clear_value x; intro hx)
    | (intro x; subst x)
    | with_reducible first | apply prtEvent_keeps
    | with_reducible apply keeps_ite
    | split

theorem walkUni_keeps  : ∀ (a0 : Nat) (a1 : Nat) (a2 : Nat) (a3 : Port) (a4 : Option Nat) (a5 : Bool) (a6 : Flit) (s : State), Keeps s0 s →
    Keeps s0 (walkUni a0 a1 a2 a3 a4 a5 a6 s) := by
  intro a0
  induction a0 with
  | zero => intro a1 a2 a3 a4 a5 a6 s hs; unfold walkUni; first | exact hs | (split <;> exact hs)
  | succ n ih =>
    intro a1 a2 a3 a4 a5 a6 s hs
    unfold walkUni
    repeat' first
      | with_reducible assumption
      | with_reducible apply ih
      | (rintro x y (hx : Keeps s0 y))
      | (rintro x y z w (hx : Keeps s0 w))
      | (rintro x y z (hx : Keeps s0 z))
      | (rintro y (hx : Keeps s0 y))
      | (rintro x y (hx : Keeps s0 y.1))
      | (rintro x y (hx : Keeps s0 y.2))
      | lift_lets
      | (intro x; refine keeps_cut (x := x) (a := s0) ?_ ?_; subst x; rotate_left; clear_value x; intro hx)
      | (intro x; subst x)
      | simp -zeta only [keeps_upd]
      | with_reducible first | apply charge_keeps | apply deliverBulk_keeps | apply takeDep_keeps | apply bufferBulk_keeps | apply sentOne_keeps | apply hopEvent_keeps
      | with_reducible apply keeps_ite
      | split

theorem walkMc_keeps  : ∀ (a0 : Nat) (a1 : Nat) (a2 : Nat) (a3 : Port) (a4 : Option Nat) (a5 : Bool) (a6 : Flit) (s : State), Keeps s0 s →
    Keeps s0 (walkMc a0 a1 a2 a3 a4 a5 a6 s) := by
  intro a0
  induction a0 with
  | zero => intro a1 a2 a3 a4 a5 a6 s hs; unfold walkMc; first | exact hs | (split <;> exact hs)
  | succ n ih =>
    intro a1 a2 a3 a4 a5 a6 s hs
    unfold walkMc
    repeat' first
      | with_reducible assumption
      | with_reducible apply ih
      | (rintro x y (hx : Keeps s0 y))
      | (rintro x y z w (hx : Keeps s0 w))
      | (rintro x y z (hx : Keeps s0 z))
      | (rintro y (hx : Keeps s0 y))
      | (rintro x y (hx : Keeps s0 y.1))
      | (rintro x y (hx : Keeps s0 y.2))
      | lift_lets
      | (intro x; refine keeps_cut (x := x) (a := s0) ?_ ?_; subst x; rotate_left; clear_value x; intro hx)
      | (intro x; subst x)
      | simp -zeta only [keeps_upd]
      | with_reducible first | apply tileNetErr_keeps | apply charge_keeps | apply deliverBulk_keeps | apply takeDep_keeps | apply bufferBulk_keeps | apply sentOne_keeps | apply hopEvent_keeps
      | with_reducible apply keeps_foldl
      | with_reducible apply keeps_foldl1
      | with_reducible apply keeps_foldl2
      | with_reducible exact hx
      | with_reducible apply keeps_ite
      | split

theorem bulkAt_keeps (u v : Nat) (p : Port) (flow : Option Nat) (fresh : Bool) (f : Flit) (s : State) (hs : Keeps s0 s) :
    Keeps s0 (bulkAt u v p flow fresh f s) := by
  unfold bulkAt
  repeat' first
    | with_reducible assumption
    | (rintro x y (hx : Keeps s0 y))
    | (rintro x y z w (hx : Keeps s0 w))
    | (rintro x y z (hx : Keeps s0 z))
    | (rintro y (hx : Keeps s0 y))
    | (rintro x y (hx : Keeps s0 y.1))
    | (rintro x y (hx : Keeps s0 y.2))
    | with_reducible first | apply tileNetErr_keeps | apply contractFault_keeps | apply walkUni_keeps | apply walkMc_keeps
    | with_reducible apply keeps_ite
    | split

theorem pumpSends_keeps : ∀ (a0 a1 a2 : Nat) (s : State), Keeps s0 s → Keeps s0 (pumpSends a0 a1 a2 s) := by
  intro a0
  induction a0 with
  | zero => intro _ _ s hs; exact hs
  | succ n ih =>
    intro a1 a2 s hs
    unfold pumpSends
    dsimp only
    split
    · exact hs
    · split
      · exact hs
      · exact keeps_ite hs (ih _ _ _ (bulkAt_keeps _ _ _ _ _ _ _ (setTile_keeps _ _ _ _ hs)))

theorem crcCount_keeps (u v : Nat) (p : Port) (s : State) (hs : Keeps s0 s) :
    Keeps s0 (crcCount u v p s) := by
  unfold crcCount
  repeat' first
    | with_reducible assumption
    | (rintro x y (hx : Keeps s0 y))
    | (rintro x y z w (hx : Keeps s0 w))
    | (rintro x y z (hx : Keeps s0 z))
    | (rintro y (hx : Keeps s0 y))
    | (rintro x y (hx : Keeps s0 y.1))
    | (rintro x y (hx : Keeps s0 y.2))
    | with_reducible first | apply tileNetErr_keeps
    | with_reducible apply keeps_ite
    | split

theorem flitIn_keeps (u v : Nat) (p : Port) (f : Flit) (kind : Nat) (k : State → State) (s : State)
    (hk : ∀ x0, Keeps s0 x0 → Keeps s0 (k x0)) (hs : Keeps s0 s) :
    Keeps s0 (flitIn u v p f kind k s) := by
  unfold flitIn
  repeat' first
    | with_reducible assumption
    | (rintro x y (hx : Keeps s0 y))
    | (rintro x y z w (hx : Keeps s0 w))
    | (rintro x y z (hx : Keeps s0 z))
    | (rintro y (hx : Keeps s0 y))
    | (rintro x y (hx : Keeps s0 y.1))
    | (rintro x y (hx : Keeps s0 y.2))
    | with_reducible first | apply tileNetErr_keeps | apply haltAt_keeps | apply tileFault_keeps | apply crcCount_keeps
    | with_reducible first | apply hk
    | with_reducible apply keeps_ite
    | split

theorem deliverSignal_keeps (u v : Nat) (f : Flit) (far : List Byte → State → State) (s : State)
    (hfar : ∀ x0 x1, Keeps s0 x1 → Keeps s0 (far x0 x1)) (hs : Keeps s0 s) :
    Keeps s0 (deliverSignal u v f far s) := by
  unfold deliverSignal
  repeat' first
    | with_reducible assumption
    | (rintro x y (hx : Keeps s0 y))
    | (rintro x y z w (hx : Keeps s0 w))
    | (rintro x y z (hx : Keeps s0 z))
    | (rintro y (hx : Keeps s0 y))
    | (rintro x y (hx : Keeps s0 y.1))
    | (rintro x y (hx : Keeps s0 y.2))
    | lift_lets
    | (intro x; refine keeps_cut (x := x) (a := s0) ?_ ?_; subst x; rotate_left; clear_value x; intro hx)
    | (intro x; subst x)
    | with_reducible first | apply setTile_keeps | apply tileNetErr_keeps | apply signalTile_keeps
    | with_reducible first | apply hfar
    | with_reducible apply keeps_ite
    | split

theorem noteWait_keeps (u v w : Nat) (s : State) (hs : Keeps s0 s) :
    Keeps s0 (noteWait u v w s) := by
  unfold noteWait
  repeat' first
    | with_reducible assumption
    | (rintro x y (hx : Keeps s0 y))
    | (rintro x y z w (hx : Keeps s0 w))
    | (rintro x y z (hx : Keeps s0 z))
    | (rintro y (hx : Keeps s0 y))
    | (rintro x y (hx : Keeps s0 y.1))
    | (rintro x y (hx : Keeps s0 y.2))
    | lift_lets
    | (intro x; refine keeps_cut (x := x) (a := s0) ?_ ?_; subst x; rotate_left; clear_value x; intro hx)
    | (intro x; subst x)
    | simp -zeta only [keeps_upd]
    | with_reducible first | apply setTile_keeps
    | with_reducible apply keeps_ite
    | split

theorem crossCtl_keeps : ∀ (a0 a1 a2 : Nat) (p : Port) (f : Flit) (b : Bool) (c : Nat) (dl : State → State)
    (_ : ∀ x, Keeps s0 x → Keeps s0 (dl x)) (s : State), Keeps s0 s → Keeps s0 (crossCtl a0 a1 a2 p f b c dl s) := by
  intro a0
  induction a0 with
  | zero => intro _ _ _ _ _ _ _ _ s hs; exact hs
  | succ n ih =>
    intro a1 a2 p f b c dl hd s hs
    unfold crossCtl
    split
    · exact hs
    · have h1 := keeps_ite (c := b = true) (setTile_keeps a1 a2 { tile s a1 a2 with ctl := (tile s a1 a2).ctl ++ [(p, f)] } s hs) hs
      refine keeps_ite h1 (keeps_ite ?_ ?_)
      · exact hd _ (noteWait_keeps _ _ _ _ (setTile_keeps _ _ _ _ h1))
      · exact ih _ _ _ _ _ _ _ hd _ (charge_keeps _ _ _ _ (noteWait_keeps _ _ _ _ (setTile_keeps _ _ _ _ h1)))

theorem sendCtl_keeps (u v : Nat) (p : Port) (f : Flit) (dl : State → State) (s : State)
    (hdl : ∀ x0, Keeps s0 x0 → Keeps s0 (dl x0)) (hs : Keeps s0 s) :
    Keeps s0 (sendCtl u v p f dl s) := by
  unfold sendCtl
  repeat' first
    | with_reducible assumption
    | (rintro x y (hx : Keeps s0 y))
    | (rintro x y z w (hx : Keeps s0 w))
    | (rintro x y z (hx : Keeps s0 z))
    | (rintro y (hx : Keeps s0 y))
    | (rintro x y (hx : Keeps s0 y.1))
    | (rintro x y (hx : Keeps s0 y.2))
    | with_reducible first | apply crossCtl_keeps
    | with_reducible first | apply hdl

theorem downWaits_keeps  : ∀ (a0 : Nat) (a1 : Img) (a2 : Nat) (a3 : Nat) (a4 : Nat) (s : State), Keeps s0 s →
    Keeps s0 (downWaits a0 a1 a2 a3 a4 s) := by
  intro a0
  induction a0 with
  | zero => intro a1 a2 a3 a4 s hs; unfold downWaits; first | exact hs | (split <;> exact hs)
  | succ n ih =>
    intro a1 a2 a3 a4 s hs
    unfold downWaits
    repeat' first
      | with_reducible assumption
      | with_reducible apply ih
      | (rintro x y (hx : Keeps s0 y))
      | (rintro x y z w (hx : Keeps s0 w))
      | (rintro x y z (hx : Keeps s0 z))
      | (rintro y (hx : Keeps s0 y))
      | (rintro x y (hx : Keeps s0 y.1))
      | (rintro x y (hx : Keeps s0 y.2))
      | lift_lets
      | (intro x; refine keeps_cut (x := x) (a := s0) ?_ ?_; subst x; rotate_left; clear_value x; intro hx)
      | (intro x; subst x)
      | with_reducible first | apply forAll_keeps | apply noteWait_keeps
      | with_reducible apply keeps_ite
      | split

theorem combineDown_keeps (u v idx flags cyc : Nat) (mx : List W32) (s : State) (hs : Keeps s0 s) :
    Keeps s0 (combineDown u v idx flags cyc mx s) := by
  unfold combineDown
  repeat' first
    | with_reducible assumption
    | (rintro x y (hx : Keeps s0 y))
    | (rintro x y z w (hx : Keeps s0 w))
    | (rintro x y z (hx : Keeps s0 z))
    | (rintro y (hx : Keeps s0 y))
    | (rintro x y (hx : Keeps s0 y.1))
    | (rintro x y (hx : Keeps s0 y.2))
    | lift_lets
    | (intro x; refine keeps_cut (x := x) (a := s0) ?_ ?_; subst x; rotate_left; clear_value x; intro hx)
    | (intro x; subst x)
    | simp -zeta only [keeps_upd]
    | with_reducible first | apply forAll_keeps | apply setTile_keeps | apply downWaits_keeps
    | with_reducible apply keeps_foldl
    | with_reducible apply keeps_foldl1
    | with_reducible apply keeps_foldl2
    | with_reducible exact hx
    | split

theorem combineDone_keeps (idx flags cyc : Nat) (mx : List W32) (s : State) (hs : Keeps s0 s) :
    Keeps s0 (combineDone idx flags cyc mx s) := by
  unfold combineDone
  repeat' first
    | with_reducible assumption
    | (rintro x y (hx : Keeps s0 y))
    | (rintro x y z w (hx : Keeps s0 w))
    | (rintro x y z (hx : Keeps s0 z))
    | (rintro y (hx : Keeps s0 y))
    | (rintro x y (hx : Keeps s0 y.1))
    | (rintro x y (hx : Keeps s0 y.2))
    | lift_lets
    | (intro x; refine keeps_cut (x := x) (a := s0) ?_ ?_; subst x; rotate_left; clear_value x; intro hx)
    | (intro x; subst x)
    | simp -zeta only [keeps_upd]
    | with_reducible first | apply combineDown_keeps
    | split

theorem combineAt_keeps  : ∀ (a0 : Nat) (a1 : Nat) (a2 : Nat) (a3 : Port) (a4 : Nat) (a5 : Nat) (a6 : Nat) (a7 : List W32) (s : State), Keeps s0 s →
    Keeps s0 (combineAt a0 a1 a2 a3 a4 a5 a6 a7 s) := by
  intro a0
  induction a0 with
  | zero => intro a1 a2 a3 a4 a5 a6 a7 s hs; unfold combineAt; first | exact hs | (split <;> exact hs)
  | succ n ih =>
    intro a1 a2 a3 a4 a5 a6 a7 s hs
    unfold combineAt
    repeat' first
      | with_reducible assumption
      | with_reducible apply ih
      | (rintro x y (hx : Keeps s0 y))
      | (rintro x y z w (hx : Keeps s0 w))
      | (rintro x y z (hx : Keeps s0 z))
      | (rintro y (hx : Keeps s0 y))
      | (rintro x y (hx : Keeps s0 y.1))
      | (rintro x y (hx : Keeps s0 y.2))
      | lift_lets
      | (intro x; refine keeps_cut (x := x) (a := s0) ?_ ?_; subst x; rotate_left; clear_value x; intro hx)
      | (intro x; subst x)
      | simp -zeta only [keeps_upd]
      | with_reducible first | apply setTile_keeps | apply charge_keeps | apply noteWait_keeps | apply combineDone_keeps
      | with_reducible apply keeps_ite
      | split

theorem contribute_keeps (u v idx flags : Nat) (mx : List W32) (s : State) (hs : Keeps s0 s) :
    Keeps s0 (contribute u v idx flags mx s) := by
  unfold contribute
  repeat' first
    | with_reducible assumption
    | (rintro x y (hx : Keeps s0 y))
    | (rintro x y z w (hx : Keeps s0 w))
    | (rintro x y z (hx : Keeps s0 z))
    | (rintro y (hx : Keeps s0 y))
    | (rintro x y (hx : Keeps s0 y.1))
    | (rintro x y (hx : Keeps s0 y.2))
    | with_reducible first | apply combineAt_keeps

theorem combinesGoOn_keeps (s : State) (hs : Keeps s0 s) :
    Keeps s0 (combinesGoOn s) := by
  unfold combinesGoOn
  repeat' first
    | with_reducible assumption
    | (rintro x y (hx : Keeps s0 y))
    | (rintro x y z w (hx : Keeps s0 w))
    | (rintro x y z (hx : Keeps s0 z))
    | (rintro y (hx : Keeps s0 y))
    | (rintro x y (hx : Keeps s0 y.1))
    | (rintro x y (hx : Keeps s0 y.2))
    | lift_lets
    | (intro x; refine keeps_cut (x := x) (a := s0) ?_ ?_; subst x; rotate_left; clear_value x; intro hx)
    | (intro x; subst x)
    | simp -zeta only [keeps_upd]
    | with_reducible first | apply forAll_keeps | apply combineAt_keeps
    | split

theorem learnHalt_keeps (b : List Byte) (s : State) (hs : Keeps s0 s) :
    Keeps s0 (learnHalt b s) := by
  unfold learnHalt
  repeat' first
    | with_reducible assumption
    | (rintro x y (hx : Keeps s0 y))
    | (rintro x y z w (hx : Keeps s0 w))
    | (rintro x y z (hx : Keeps s0 z))
    | (rintro y (hx : Keeps s0 y))
    | (rintro x y (hx : Keeps s0 y.1))
    | (rintro x y (hx : Keeps s0 y.2))
    | lift_lets
    | (intro x; refine keeps_cut (x := x) (a := s0) ?_ ?_; subst x; rotate_left; clear_value x; intro hx)
    | (intro x; subst x)
    | simp -zeta only [keeps_upd]
    | with_reducible first | apply setReg64_keeps | apply faultItem_keeps | apply callHalt_keeps | apply contractFault_keeps | apply addSuspects_keeps | apply noteFault_keeps | apply tileFault_keeps
    | with_reducible apply keeps_ite
    | split

theorem slotWaitExpiry_keeps (u v : Nat) (p : Port) (s : State) (hs : Keeps s0 s) :
    Keeps s0 (slotWaitExpiry u v p s) := by
  unfold slotWaitExpiry
  repeat' first
    | with_reducible assumption
    | (rintro x y (hx : Keeps s0 y))
    | (rintro x y z w (hx : Keeps s0 w))
    | (rintro x y z (hx : Keeps s0 z))
    | (rintro y (hx : Keeps s0 y))
    | (rintro x y (hx : Keeps s0 y.1))
    | (rintro x y (hx : Keeps s0 y.2))
    | lift_lets
    | (intro x; refine keeps_cut (x := x) (a := s0) ?_ ?_; subst x; rotate_left; clear_value x; intro hx)
    | (intro x; subst x)
    | simp -zeta only [keeps_upd]
    | with_reducible first | apply setTile_keeps | apply slotColl_keeps | apply sentOne_keeps | apply pumpSends_keeps
    | with_reducible apply keeps_ite
    | split

theorem creditReturn_keeps (u v : Nat) (p : Port) (s : State) (hs : Keeps s0 s) :
    Keeps s0 (creditReturn u v p s) := by
  unfold creditReturn
  repeat' first
    | with_reducible assumption
    | (rintro x y (hx : Keeps s0 y))
    | (rintro x y z w (hx : Keeps s0 w))
    | (rintro x y z (hx : Keeps s0 z))
    | (rintro y (hx : Keeps s0 y))
    | (rintro x y (hx : Keeps s0 y.1))
    | (rintro x y (hx : Keeps s0 y.2))
    | lift_lets
    | (intro x; refine keeps_cut (x := x) (a := s0) ?_ ?_; subst x; rotate_left; clear_value x; intro hx)
    | (intro x; subst x)
    | simp -zeta only [keeps_upd]
    | with_reducible first | apply setTile_keeps | apply bulkAt_keeps | apply pumpSends_keeps | apply deliverSignal_keeps | apply crossCtl_keeps
    | with_reducible apply keeps_ite
    | split

theorem signalIn_keeps (far : List Byte → State → State) (u v : Nat) (p : Port) (f : Flit) (s : State)
    (hfar : ∀ x0 x1, Keeps s0 x1 → Keeps s0 (far x0 x1)) (hs : Keeps s0 s) :
    Keeps s0 (signalIn far u v p f s) := by
  unfold signalIn
  repeat' first
    | with_reducible assumption
    | (rintro x y (hx : Keeps s0 y))
    | (rintro x y z w (hx : Keeps s0 w))
    | (rintro x y z (hx : Keeps s0 z))
    | (rintro y (hx : Keeps s0 y))
    | (rintro x y (hx : Keeps s0 y.1))
    | (rintro x y (hx : Keeps s0 y.2))
    | lift_lets
    | (intro x; refine keeps_cut (x := x) (a := s0) ?_ ?_; subst x; rotate_left; clear_value x; intro hx)
    | (intro x; subst x)
    | with_reducible first | apply tileNetErr_keeps | apply flitIn_keeps | apply deliverSignal_keeps | apply sendCtl_keeps
    | with_reducible first | apply hfar
    | with_reducible apply keeps_ite
    | split

theorem relayOnce_keeps (d : Die) (n : Fin 16) (s : State) (hs : Keeps s0 s) :
    Keeps s0 (relayOnce d n s) := by
  unfold relayOnce
  repeat' first
    | with_reducible assumption
    | (rintro x y (hx : Keeps s0 y))
    | (rintro x y z w (hx : Keeps s0 w))
    | (rintro x y z (hx : Keeps s0 z))
    | (rintro y (hx : Keeps s0 y))
    | (rintro x y (hx : Keeps s0 y.1))
    | (rintro x y (hx : Keeps s0 y.2))
    | lift_lets
    | (intro x; refine keeps_cut (x := x) (a := s0) ?_ ?_; subst x; rotate_left; clear_value x; intro hx)
    | (intro x; subst x)
    | simp -zeta only [keeps_upd]
    | with_reducible first | apply bump_keeps | apply readyProgs_keeps | apply deliverSignal_keeps | apply crossCtl_keeps
    | with_reducible apply keeps_ite
    | split

theorem relayWhile_keeps (d : Die) (n : Fin 16) : ∀ (a0 : Nat) (s : State), Keeps s0 s →
    Keeps s0 (relayWhile d n a0 s) := by
  intro a0
  induction a0 with
  | zero => intro s hs; unfold relayWhile; first | exact hs | (split <;> exact hs)
  | succ n ih =>
    intro s hs
    unfold relayWhile
    repeat' first
      | with_reducible assumption
      | with_reducible apply ih
      | (rintro x y (hx : Keeps s0 y))
      | (rintro x y z w (hx : Keeps s0 w))
      | (rintro x y z (hx : Keeps s0 z))
      | (rintro y (hx : Keeps s0 y))
      | (rintro x y (hx : Keeps s0 y.1))
      | (rintro x y (hx : Keeps s0 y.2))
      | lift_lets
      | (intro x; refine keeps_cut (x := x) (a := s0) ?_ ?_; subst x; rotate_left; clear_value x; intro hx)
      | (intro x; subst x)
      | with_reducible first | apply setReg_keeps | apply relayOnce_keeps
      | with_reducible apply keeps_ite
      | split

theorem farSignal_keeps (d : Die) (n : Fin 16) (srcMod srcDie : Nat) (s : State) (hs : Keeps s0 s) :
    Keeps s0 (farSignal d n srcMod srcDie s) := by
  unfold farSignal
  repeat' first
    | with_reducible assumption
    | (rintro x y (hx : Keeps s0 y))
    | (rintro x y z w (hx : Keeps s0 w))
    | (rintro x y z (hx : Keeps s0 z))
    | (rintro y (hx : Keeps s0 y))
    | (rintro x y (hx : Keeps s0 y.1))
    | (rintro x y (hx : Keeps s0 y.2))
    | lift_lets
    | (intro x; refine keeps_cut (x := x) (a := s0) ?_ ?_; subst x; rotate_left; clear_value x; intro hx)
    | (intro x; subst x)
    | with_reducible first | apply setReg_keeps | apply setBits_keeps | apply bump_keeps | apply setErr_keeps | apply contractFault_keeps | apply relayWhile_keeps
    | with_reducible apply keeps_ite
    | split

theorem fenceRelease_keeps (u v : Nat) (st : Strm) (s : State) (hs : Keeps s0 s) :
    Keeps s0 (fenceRelease u v st s) := by
  unfold fenceRelease
  repeat' first
    | with_reducible assumption
    | (rintro x y (hx : Keeps s0 y))
    | (rintro x y z w (hx : Keeps s0 w))
    | (rintro x y z (hx : Keeps s0 z))
    | (rintro y (hx : Keeps s0 y))
    | (rintro x y (hx : Keeps s0 y.1))
    | (rintro x y (hx : Keeps s0 y.2))
    | lift_lets
    | (intro x; refine keeps_cut (x := x) (a := s0) ?_ ?_; subst x; rotate_left; clear_value x; intro hx)
    | (intro x; subst x)
    | simp -zeta only [keeps_upd]
    | with_reducible first | apply setTile_keeps | apply issue_keeps
    | with_reducible apply keeps_ite
    | split

theorem unfencedCheck_keeps (u v : Nat) (st : Strm) (k : Nat) (r : OpRec) (s : State) (hs : Keeps s0 s) :
    Keeps s0 (unfencedCheck u v st k r s) := by
  unfold unfencedCheck
  repeat' first
    | with_reducible assumption
    | (rintro x y (hx : Keeps s0 y))
    | (rintro x y z w (hx : Keeps s0 w))
    | (rintro x y z (hx : Keeps s0 z))
    | (rintro y (hx : Keeps s0 y))
    | (rintro x y (hx : Keeps s0 y.1))
    | (rintro x y (hx : Keeps s0 y.2))
    | with_reducible first | apply contractFault_keeps
    | with_reducible apply keeps_ite
    | split

theorem signalRec_keeps (u v : Nat) (st : Strm) (i : Img) (k : Nat) (r : OpRec) (s : State) (hs : Keeps s0 s) :
    Keeps s0 (signalRec u v st i k r s) := by
  unfold signalRec
  repeat' first
    | with_reducible assumption
    | (rintro x y (hx : Keeps s0 y))
    | (rintro x y z w (hx : Keeps s0 w))
    | (rintro x y z (hx : Keeps s0 z))
    | (rintro y (hx : Keeps s0 y))
    | (rintro x y (hx : Keeps s0 y.1))
    | (rintro x y (hx : Keeps s0 y.2))
    | lift_lets
    | (intro x; refine keeps_cut (x := x) (a := s0) ?_ ?_; subst x; rotate_left; clear_value x; intro hx)
    | (intro x; subst x)
    | with_reducible first | apply setTile_keeps | apply contractFault_keeps | apply signalTile_keeps | apply sendCtl_keeps | apply unfencedCheck_keeps
    | with_reducible apply keeps_ite
    | split

theorem waitRec_keeps (u v : Nat) (st : Strm) (w1 : Img) (w2 : Nat) (r : OpRec) (s : State) (hs : Keeps s0 s) :
    Keeps s0 (waitRec u v st w1 w2 r s) := by
  unfold waitRec
  repeat' first
    | with_reducible assumption
    | (rintro x y (hx : Keeps s0 y))
    | (rintro x y z w (hx : Keeps s0 w))
    | (rintro x y z (hx : Keeps s0 z))
    | (rintro y (hx : Keeps s0 y))
    | (rintro x y (hx : Keeps s0 y.1))
    | (rintro x y (hx : Keeps s0 y.2))
    | lift_lets
    | (intro x; refine keeps_cut (x := x) (a := s0) ?_ ?_; subst x; rotate_left; clear_value x; intro hx)
    | (intro x; subst x)
    | simp -zeta only [keeps_upd]
    | with_reducible first | apply setTile_keeps
    | with_reducible apply keeps_ite
    | split

theorem settTimeout_keeps (u v : Nat) (st : Strm) (s : State) (hs : Keeps s0 s) :
    Keeps s0 (settTimeout u v st s) := by
  unfold settTimeout
  repeat' first
    | with_reducible assumption
    | (rintro x y (hx : Keeps s0 y))
    | (rintro x y z w (hx : Keeps s0 w))
    | (rintro x y z (hx : Keeps s0 z))
    | (rintro y (hx : Keeps s0 y))
    | (rintro x y (hx : Keeps s0 y.1))
    | (rintro x y (hx : Keeps s0 y.2))
    | lift_lets
    | (intro x; refine keeps_cut (x := x) (a := s0) ?_ ?_; subst x; rotate_left; clear_value x; intro hx)
    | (intro x; subst x)
    | simp -zeta only [keeps_upd]
    | with_reducible first | apply setTile_keeps | apply callHalt_keeps | apply haltAt_keeps
    | with_reducible apply keeps_ite
    | split

theorem abandonCheck_keeps (u v unit : Nat) (s : State) (hs : Keeps s0 s) :
    Keeps s0 (abandonCheck u v unit s) := by
  unfold abandonCheck
  repeat' first
    | with_reducible assumption
    | (rintro x y (hx : Keeps s0 y))
    | (rintro x y z w (hx : Keeps s0 w))
    | (rintro x y z (hx : Keeps s0 z))
    | (rintro y (hx : Keeps s0 y))
    | (rintro x y (hx : Keeps s0 y.1))
    | (rintro x y (hx : Keeps s0 y.2))
    | lift_lets
    | (intro x; refine keeps_cut (x := x) (a := s0) ?_ ?_; subst x; rotate_left; clear_value x; intro hx)
    | (intro x; subst x)
    | simp -zeta only [keeps_upd]
    | with_reducible first | apply bump_keeps | apply setErr_keeps | apply setTile_keeps
    | with_reducible apply keeps_ite
    | split

theorem ladderRec_keeps (u v : Nat) (i : Img) (w1 : Nat) (r : OpRec) (s : State) (hs : Keeps s0 s) :
    Keeps s0 (ladderRec u v i w1 r s) := by
  unfold ladderRec
  repeat' first
    | with_reducible assumption
    | (rintro x y (hx : Keeps s0 y))
    | (rintro x y z w (hx : Keeps s0 w))
    | (rintro x y z (hx : Keeps s0 z))
    | (rintro y (hx : Keeps s0 y))
    | (rintro x y (hx : Keeps s0 y.1))
    | (rintro x y (hx : Keeps s0 y.2))
    | lift_lets
    | (intro x; refine keeps_cut (x := x) (a := s0) ?_ ?_; subst x; rotate_left; clear_value x; intro hx)
    | (intro x; subst x)
    | simp -zeta only [keeps_upd]
    | with_reducible first | apply setTile_keeps | apply contribute_keeps | apply abandonCheck_keeps
    | with_reducible apply keeps_foldl
    | with_reducible apply keeps_foldl1
    | with_reducible apply keeps_foldl2
    | with_reducible exact hx
    | with_reducible apply keeps_ite
    | split

theorem barrierRec_keeps (u v : Nat) (st : Strm) (w1 : Img) (w2 : Nat) (r : OpRec) (s : State) (hs : Keeps s0 s) :
    Keeps s0 (barrierRec u v st w1 w2 r s) := by
  unfold barrierRec
  repeat' first
    | with_reducible assumption
    | (rintro x y (hx : Keeps s0 y))
    | (rintro x y z w (hx : Keeps s0 w))
    | (rintro x y z (hx : Keeps s0 z))
    | (rintro y (hx : Keeps s0 y))
    | (rintro x y (hx : Keeps s0 y.1))
    | (rintro x y (hx : Keeps s0 y.2))
    | lift_lets
    | (intro x; refine keeps_cut (x := x) (a := s0) ?_ ?_; subst x; rotate_left; clear_value x; intro hx)
    | (intro x; subst x)
    | simp -zeta only [keeps_upd]
    | with_reducible first | apply setTile_keeps | apply contribute_keeps

theorem startOp_keeps (u v : Nat) (st : Strm) (k : Nat) (r : OpRec) (left tok : Nat) (reads : List Nat) (wr : List Wr) (s : State) (hs : Keeps s0 s) :
    Keeps s0 (startOp u v st k r left tok reads wr s) := by
  unfold startOp
  repeat' first
    | with_reducible assumption
    | (rintro x y (hx : Keeps s0 y))
    | (rintro x y z w (hx : Keeps s0 w))
    | (rintro x y z (hx : Keeps s0 z))
    | (rintro y (hx : Keeps s0 y))
    | (rintro x y (hx : Keeps s0 y.1))
    | (rintro x y (hx : Keeps s0 y.2))
    | lift_lets
    | (intro x; refine keeps_cut (x := x) (a := s0) ?_ ?_; subst x; rotate_left; clear_value x; intro hx)
    | (intro x; subst x)
    | simp -zeta only [keeps_upd]
    | with_reducible first | apply setTile_keeps | apply contractFault_keeps
    | with_reducible apply keeps_ite
    | split

theorem wrEvents_keeps (w : Wr) (s : State) (hs : Keeps s0 s) :
    Keeps s0 (wrEvents w s) := by
  unfold wrEvents
  repeat' first
    | with_reducible assumption
    | (rintro x y (hx : Keeps s0 y))
    | (rintro x y z w (hx : Keeps s0 w))
    | (rintro x y z (hx : Keeps s0 z))
    | (rintro y (hx : Keeps s0 y))
    | (rintro x y (hx : Keeps s0 y.1))
    | (rintro x y (hx : Keeps s0 y.2))
    | lift_lets
    | (intro x; refine keeps_cut (x := x) (a := s0) ?_ ?_; subst x; rotate_left; clear_value x; intro hx)
    | (intro x; subst x)
    | simp -zeta only [keeps_upd]
    | with_reducible first | apply bump_keeps
    | split

theorem matmulRec_keeps (u v : Nat) (st : Strm) (i : Img) (k : Nat) (r : OpRec) (s : State) (hs : Keeps s0 s) :
    Keeps s0 (matmulRec u v st i k r s) := by
  unfold matmulRec
  repeat' first
    | with_reducible assumption
    | (rintro x y (hx : Keeps s0 y))
    | (rintro x y z w (hx : Keeps s0 w))
    | (rintro x y z (hx : Keeps s0 z))
    | (rintro y (hx : Keeps s0 y))
    | (rintro x y (hx : Keeps s0 y.1))
    | (rintro x y (hx : Keeps s0 y.2))
    | lift_lets
    | (intro x; refine keeps_cut (x := x) (a := s0) ?_ ?_; subst x; rotate_left; clear_value x; intro hx)
    | (intro x; subst x)
    | with_reducible first | apply prtUse_keeps | apply startOp_keeps
    | with_reducible apply keeps_ite
    | split

theorem matvecRec_keeps (u v : Nat) (st : Strm) (i : Img) (k : Nat) (r : OpRec) (s : State) (hs : Keeps s0 s) :
    Keeps s0 (matvecRec u v st i k r s) := by
  unfold matvecRec
  repeat' first
    | with_reducible assumption
    | (rintro x y (hx : Keeps s0 y))
    | (rintro x y z w (hx : Keeps s0 w))
    | (rintro x y z (hx : Keeps s0 z))
    | (rintro y (hx : Keeps s0 y))
    | (rintro x y (hx : Keeps s0 y.1))
    | (rintro x y (hx : Keeps s0 y.2))
    | lift_lets
    | (intro x; refine keeps_cut (x := x) (a := s0) ?_ ?_; subst x; rotate_left; clear_value x; intro hx)
    | (intro x; subst x)
    | with_reducible first | apply prtUse_keeps | apply startOp_keeps
    | with_reducible apply keeps_ite
    | split

theorem vloadRec_keeps (u v : Nat) (st : Strm) (i : Img) (k : Nat) (r : OpRec) (s : State) (hs : Keeps s0 s) :
    Keeps s0 (vloadRec u v st i k r s) := by
  unfold vloadRec
  repeat' first
    | with_reducible assumption
    | (rintro x y (hx : Keeps s0 y))
    | (rintro x y z w (hx : Keeps s0 w))
    | (rintro x y z (hx : Keeps s0 z))
    | (rintro y (hx : Keeps s0 y))
    | (rintro x y (hx : Keeps s0 y.1))
    | (rintro x y (hx : Keeps s0 y.2))
    | lift_lets
    | (intro x; refine keeps_cut (x := x) (a := s0) ?_ ?_; subst x; rotate_left; clear_value x; intro hx)
    | (intro x; subst x)
    | simp -zeta only [keeps_upd]
    | with_reducible first | apply startOp_keeps
    | with_reducible apply keeps_foldl
    | with_reducible apply keeps_foldl1
    | with_reducible apply keeps_foldl2
    | with_reducible exact hx
    | with_reducible apply keeps_ite
    | split

theorem xdotRec_keeps (u v : Nat) (st : Strm) (i : Img) (k : Nat) (r : OpRec) (s : State) (hs : Keeps s0 s) :
    Keeps s0 (xdotRec u v st i k r s) := by
  unfold xdotRec
  repeat' first
    | with_reducible assumption
    | (rintro x y (hx : Keeps s0 y))
    | (rintro x y z w (hx : Keeps s0 w))
    | (rintro x y z (hx : Keeps s0 z))
    | (rintro y (hx : Keeps s0 y))
    | (rintro x y (hx : Keeps s0 y.1))
    | (rintro x y (hx : Keeps s0 y.2))
    | lift_lets
    | (intro x; refine keeps_cut (x := x) (a := s0) ?_ ?_; subst x; rotate_left; clear_value x; intro hx)
    | (intro x; subst x)
    | with_reducible first | apply startOp_keeps
    | with_reducible apply keeps_foldl
    | with_reducible apply keeps_foldl1
    | with_reducible apply keeps_foldl2
    | with_reducible exact hx
    | with_reducible apply keeps_ite
    | split

theorem xreadRec_keeps (u v : Nat) (st : Strm) (i : Img) (k : Nat) (r : OpRec) (s : State) (hs : Keeps s0 s) :
    Keeps s0 (xreadRec u v st i k r s) := by
  unfold xreadRec
  repeat' first
    | with_reducible assumption
    | (rintro x y (hx : Keeps s0 y))
    | (rintro x y z w (hx : Keeps s0 w))
    | (rintro x y z (hx : Keeps s0 z))
    | (rintro y (hx : Keeps s0 y))
    | (rintro x y (hx : Keeps s0 y.1))
    | (rintro x y (hx : Keeps s0 y.2))
    | lift_lets
    | (intro x; refine keeps_cut (x := x) (a := s0) ?_ ?_; subst x; rotate_left; clear_value x; intro hx)
    | (intro x; subst x)
    | simp -zeta only [keeps_upd]
    | with_reducible first | apply startOp_keeps
    | with_reducible apply keeps_ite
    | split

theorem xclrRec_keeps (u v : Nat) (st : Strm) (w1 : Img) (k : Nat) (r : OpRec) (s : State) (hs : Keeps s0 s) :
    Keeps s0 (xclrRec u v st w1 k r s) := by
  unfold xclrRec
  repeat' first
    | with_reducible assumption
    | (rintro x y (hx : Keeps s0 y))
    | (rintro x y z w (hx : Keeps s0 w))
    | (rintro x y z (hx : Keeps s0 z))
    | (rintro y (hx : Keeps s0 y))
    | (rintro x y (hx : Keeps s0 y.1))
    | (rintro x y (hx : Keeps s0 y.2))
    | with_reducible first | apply startOp_keeps

theorem putTileVu_keeps (u v : Nat) (x : VuSt) (s : State) (hs : Keeps s0 s) :
    Keeps s0 (putTileVu u v x s) := by
  unfold putTileVu
  repeat' first
    | with_reducible assumption
    | (rintro x y (hx : Keeps s0 y))
    | (rintro x y z w (hx : Keeps s0 w))
    | (rintro x y z (hx : Keeps s0 z))
    | (rintro y (hx : Keeps s0 y))
    | (rintro x y (hx : Keeps s0 y.1))
    | (rintro x y (hx : Keeps s0 y.2))
    | lift_lets
    | (intro x; refine keeps_cut (x := x) (a := s0) ?_ ?_; subst x; rotate_left; clear_value x; intro hx)
    | (intro x; subst x)
    | simp -zeta only [keeps_upd]
    | with_reducible first | apply setTile_keeps
    | with_reducible apply keeps_ite
    | split

theorem ueStepPc_keeps (d : Die) (s : State) (hs : Keeps s0 s) :
    Keeps s0 (ueStepPc d s) := by
  unfold ueStepPc
  repeat' first
    | with_reducible assumption
    | (rintro x y (hx : Keeps s0 y))
    | (rintro x y z w (hx : Keeps s0 w))
    | (rintro x y z (hx : Keeps s0 z))
    | (rintro y (hx : Keeps s0 y))
    | (rintro x y (hx : Keeps s0 y.1))
    | (rintro x y (hx : Keeps s0 y.2))
    | lift_lets
    | (intro x; refine keeps_cut (x := x) (a := s0) ?_ ?_; subst x; rotate_left; clear_value x; intro hx)
    | (intro x; subst x)
    | simp -zeta only [keeps_upd]
    | with_reducible first | apply setDie_keeps

theorem putUeVu_keeps (d : Die) (x : VuSt) (s : State) (hs : Keeps s0 s) :
    Keeps s0 (putUeVu d x s) := by
  unfold putUeVu
  repeat' first
    | with_reducible assumption
    | (rintro x y (hx : Keeps s0 y))
    | (rintro x y z w (hx : Keeps s0 w))
    | (rintro x y z (hx : Keeps s0 z))
    | (rintro y (hx : Keeps s0 y))
    | (rintro x y (hx : Keeps s0 y.1))
    | (rintro x y (hx : Keeps s0 y.2))
    | lift_lets
    | (intro x; refine keeps_cut (x := x) (a := s0) ?_ ?_; subst x; rotate_left; clear_value x; intro hx)
    | (intro x; subst x)
    | simp -zeta only [keeps_upd]
    | with_reducible first | apply setDie_keeps | apply ueStepPc_keeps

theorem onVu_keeps (e : Eng) (vop : Nat) (fs : List (Nat × Nat × Nat)) (f : VuSt → VuSt) (s : State) (hs : Keeps s0 s) :
    Keeps s0 (onVu e vop fs f s) := by
  unfold onVu
  repeat' first
    | with_reducible assumption
    | (rintro x y (hx : Keeps s0 y))
    | (rintro x y z w (hx : Keeps s0 w))
    | (rintro x y z (hx : Keeps s0 z))
    | (rintro y (hx : Keeps s0 y))
    | (rintro x y (hx : Keeps s0 y.1))
    | (rintro x y (hx : Keeps s0 y.2))
    | lift_lets
    | (intro x; refine keeps_cut (x := x) (a := s0) ?_ ?_; subst x; rotate_left; clear_value x; intro hx)
    | (intro x; subst x)
    | simp -zeta only [keeps_upd]
    | with_reducible first | apply putTileVu_keeps | apply putUeVu_keeps
    | with_reducible apply keeps_ite
    | split

theorem loadTables_keeps (u v n : Nat) (s : State) (hs : Keeps s0 s) :
    Keeps s0 (loadTables u v n s) := by
  unfold loadTables
  repeat' first
    | with_reducible assumption
    | (rintro x y (hx : Keeps s0 y))
    | (rintro x y z w (hx : Keeps s0 w))
    | (rintro x y z (hx : Keeps s0 z))
    | (rintro y (hx : Keeps s0 y))
    | (rintro x y (hx : Keeps s0 y.1))
    | (rintro x y (hx : Keeps s0 y.2))
    | lift_lets
    | (intro x; refine keeps_cut (x := x) (a := s0) ?_ ?_; subst x; rotate_left; clear_value x; intro hx)
    | (intro x; subst x)
    | simp -zeta only [keeps_upd]
    | with_reducible first | apply setTile_keeps

theorem vmapRec_keeps (u v : Nat) (st : Strm) (i : Img) (k : Nat) (r : OpRec) (s : State) (hs : Keeps s0 s) :
    Keeps s0 (vmapRec u v st i k r s) := by
  unfold vmapRec
  repeat' first
    | with_reducible assumption
    | (rintro x y (hx : Keeps s0 y))
    | (rintro x y z w (hx : Keeps s0 w))
    | (rintro x y z (hx : Keeps s0 z))
    | (rintro y (hx : Keeps s0 y))
    | (rintro x y (hx : Keeps s0 y.1))
    | (rintro x y (hx : Keeps s0 y.2))
    | lift_lets
    | (intro x; refine keeps_cut (x := x) (a := s0) ?_ ?_; subst x; rotate_left; clear_value x; intro hx)
    | (intro x; subst x)
    | with_reducible first | apply startOp_keeps | apply loadTables_keeps
    | with_reducible apply keeps_foldl
    | with_reducible apply keeps_foldl1
    | with_reducible apply keeps_foldl2
    | with_reducible exact hx

theorem vredRec_keeps (u v : Nat) (st : Strm) (i : Img) (k : Nat) (r : OpRec) (s : State) (hs : Keeps s0 s) :
    Keeps s0 (vredRec u v st i k r s) := by
  unfold vredRec
  repeat' first
    | with_reducible assumption
    | (rintro x y (hx : Keeps s0 y))
    | (rintro x y z w (hx : Keeps s0 w))
    | (rintro x y z (hx : Keeps s0 z))
    | (rintro y (hx : Keeps s0 y))
    | (rintro x y (hx : Keeps s0 y.1))
    | (rintro x y (hx : Keeps s0 y.2))
    | lift_lets
    | (intro x; refine keeps_cut (x := x) (a := s0) ?_ ?_; subst x; rotate_left; clear_value x; intro hx)
    | (intro x; subst x)
    | simp -zeta only [keeps_upd]
    | with_reducible first | apply startOp_keeps | apply loadTables_keeps
    | with_reducible apply keeps_foldl
    | with_reducible apply keeps_foldl1
    | with_reducible apply keeps_foldl2
    | with_reducible exact hx
    | with_reducible apply keeps_ite
    | split

theorem vpolyRec_keeps (u v : Nat) (st : Strm) (i : Img) (k : Nat) (r : OpRec) (s : State) (hs : Keeps s0 s) :
    Keeps s0 (vpolyRec u v st i k r s) := by
  unfold vpolyRec
  repeat' first
    | with_reducible assumption
    | (rintro x y (hx : Keeps s0 y))
    | (rintro x y z w (hx : Keeps s0 w))
    | (rintro x y z (hx : Keeps s0 z))
    | (rintro y (hx : Keeps s0 y))
    | (rintro x y (hx : Keeps s0 y.1))
    | (rintro x y (hx : Keeps s0 y.2))
    | lift_lets
    | (intro x; refine keeps_cut (x := x) (a := s0) ?_ ?_; subst x; rotate_left; clear_value x; intro hx)
    | (intro x; subst x)
    | simp -zeta only [keeps_upd]
    | with_reducible first | apply startOp_keeps | apply loadTables_keeps
    | with_reducible apply keeps_ite
    | split

theorem scaleupdRec_keeps (u v : Nat) (st : Strm) (i : Img) (k : Nat) (r : OpRec) (s : State) (hs : Keeps s0 s) :
    Keeps s0 (scaleupdRec u v st i k r s) := by
  unfold scaleupdRec
  repeat' first
    | with_reducible assumption
    | (rintro x y (hx : Keeps s0 y))
    | (rintro x y z w (hx : Keeps s0 w))
    | (rintro x y z (hx : Keeps s0 z))
    | (rintro y (hx : Keeps s0 y))
    | (rintro x y (hx : Keeps s0 y.1))
    | (rintro x y (hx : Keeps s0 y.2))
    | lift_lets
    | (intro x; refine keeps_cut (x := x) (a := s0) ?_ ?_; subst x; rotate_left; clear_value x; intro hx)
    | (intro x; subst x)
    | simp -zeta only [keeps_upd]
    | with_reducible first | apply setTile_keeps | apply contractFault_keeps | apply startOp_keeps
    | with_reducible apply keeps_ite
    | split

theorem passTo_keeps (i : Img) (k : Nat) (s : State) (hs : Keeps s0 s) :
    Keeps s0 (passTo i k s) := by
  unfold passTo
  repeat' first
    | with_reducible assumption
    | (rintro x y (hx : Keeps s0 y))
    | (rintro x y z w (hx : Keeps s0 w))
    | (rintro x y z (hx : Keeps s0 z))
    | (rintro y (hx : Keeps s0 y))
    | (rintro x y (hx : Keeps s0 y.1))
    | (rintro x y (hx : Keeps s0 y.2))
    | lift_lets
    | (intro x; refine keeps_cut (x := x) (a := s0) ?_ ?_; subst x; rotate_left; clear_value x; intro hx)
    | (intro x; subst x)
    | simp -zeta only [keeps_upd]
    | with_reducible apply keeps_ite
    | split

theorem nextPos_keeps (i : Img) (s : State) (hs : Keeps s0 s) :
    Keeps s0 (nextPos i s) := by
  unfold nextPos
  repeat' first
    | with_reducible assumption
    | (rintro x y (hx : Keeps s0 y))
    | (rintro x y z w (hx : Keeps s0 w))
    | (rintro x y z (hx : Keeps s0 z))
    | (rintro y (hx : Keeps s0 y))
    | (rintro x y (hx : Keeps s0 y.1))
    | (rintro x y (hx : Keeps s0 y.2))
    | lift_lets
    | (intro x; refine keeps_cut (x := x) (a := s0) ?_ ?_; subst x; rotate_left; clear_value x; intro hx)
    | (intro x; subst x)
    | simp -zeta only [keeps_upd]
    | with_reducible first | apply passTo_keeps
    | with_reducible apply keeps_ite
    | split

theorem settle_keeps (i : Img) : ∀ (a0 : Nat) (s : State), Keeps s0 s →
    Keeps s0 (settle i a0 s) := by
  intro a0
  induction a0 with
  | zero => intro s hs; unfold settle; first | exact hs | (split <;> exact hs)
  | succ n ih =>
    intro s hs
    unfold settle
    repeat' first
      | with_reducible assumption
      | with_reducible apply ih
      | (rintro x y (hx : Keeps s0 y))
      | (rintro x y z w (hx : Keeps s0 w))
      | (rintro x y z (hx : Keeps s0 z))
      | (rintro y (hx : Keeps s0 y))
      | (rintro x y (hx : Keeps s0 y.1))
      | (rintro x y (hx : Keeps s0 y.2))
      | simp -zeta only [keeps_upd]
      | with_reducible first | apply bump_keeps | apply passTo_keeps
      | with_reducible apply keeps_ite
      | (intro x; refine keeps_cut (x := x) (a := s0) ?_ ?_; subst x; rotate_left; clear_value x; intro hx)
      | (intro x; subst x)
      | split

theorem settleAll_keeps (i : Img) (s : State) (hs : Keeps s0 s) :
    Keeps s0 (settleAll i s) := by
  unfold settleAll
  repeat' first
    | with_reducible assumption
    | (rintro x y (hx : Keeps s0 y))
    | (rintro x y z w (hx : Keeps s0 w))
    | (rintro x y z (hx : Keeps s0 z))
    | (rintro y (hx : Keeps s0 y))
    | (rintro x y (hx : Keeps s0 y.1))
    | (rintro x y (hx : Keeps s0 y.2))
    | with_reducible first | apply settle_keeps

theorem writeRecord_keeps (u v : Nat) (r : ScaleRec) (ps : List (W32 × W32)) (s : State) (hs : Keeps s0 s) :
    Keeps s0 (writeRecord u v r ps s) := by
  unfold writeRecord
  repeat' first
    | with_reducible assumption
    | (rintro x y (hx : Keeps s0 y))
    | (rintro x y z w (hx : Keeps s0 w))
    | (rintro x y z (hx : Keeps s0 z))
    | (rintro y (hx : Keeps s0 y))
    | (rintro x y (hx : Keeps s0 y.1))
    | (rintro x y (hx : Keeps s0 y.2))
    | lift_lets
    | (intro x; refine keeps_cut (x := x) (a := s0) ?_ ?_; subst x; rotate_left; clear_value x; intro hx)
    | (intro x; subst x)
    | simp -zeta only [keeps_upd]
    | with_reducible first | apply setTile_keeps
    | with_reducible apply keeps_foldl
    | with_reducible apply keeps_foldl1
    | with_reducible apply keeps_foldl2
    | with_reducible exact hx
    | with_reducible apply keeps_ite
    | split

theorem setScaleRec_keeps (k : Nat) (r : ScaleRec) (s : State) (hs : Keeps s0 s) :
    Keeps s0 (setScaleRec k r s) := by
  unfold setScaleRec
  repeat' first
    | with_reducible assumption
    | (rintro x y (hx : Keeps s0 y))
    | (rintro x y z w (hx : Keeps s0 w))
    | (rintro x y z (hx : Keeps s0 z))
    | (rintro y (hx : Keeps s0 y))
    | (rintro x y (hx : Keeps s0 y.1))
    | (rintro x y (hx : Keeps s0 y.2))
    | lift_lets
    | (intro x; refine keeps_cut (x := x) (a := s0) ?_ ?_; subst x; rotate_left; clear_value x; intro hx)
    | (intro x; subst x)
    | simp -zeta only [keeps_upd]

theorem writeRecordAll_keeps (ts : List (Nat × Nat)) (r : ScaleRec) (ps : List (W32 × W32)) (s : State) (hs : Keeps s0 s) :
    Keeps s0 (writeRecordAll ts r ps s) := by
  unfold writeRecordAll
  repeat' first
    | with_reducible assumption
    | (rintro x y (hx : Keeps s0 y))
    | (rintro x y z w (hx : Keeps s0 w))
    | (rintro x y z (hx : Keeps s0 z))
    | (rintro y (hx : Keeps s0 y))
    | (rintro x y (hx : Keeps s0 y.1))
    | (rintro x y (hx : Keeps s0 y.2))
    | with_reducible first | apply forAll_keeps | apply writeRecord_keeps

theorem scaleItem_keeps (step k rung : Nat) (r : ScaleRec) (ms : List W32) (s : State) (hs : Keeps s0 s) :
    Keeps s0 (scaleItem step k rung r ms s) := by
  unfold scaleItem
  repeat' first
    | with_reducible assumption
    | (rintro x y (hx : Keeps s0 y))
    | (rintro x y z w (hx : Keeps s0 w))
    | (rintro x y z (hx : Keeps s0 z))
    | (rintro y (hx : Keeps s0 y))
    | (rintro x y (hx : Keeps s0 y.1))
    | (rintro x y (hx : Keeps s0 y.2))
    | with_reducible first | apply ledgerItemOf_keeps
    | with_reducible apply keeps_ite
    | split

theorem writeHeadroom_keeps (ts : List (Nat × Nat)) (r : ScaleRec) (s : State) (hs : Keeps s0 s) :
    Keeps s0 (writeHeadroom ts r s) := by
  unfold writeHeadroom
  repeat' first
    | with_reducible assumption
    | (rintro x y (hx : Keeps s0 y))
    | (rintro x y z w (hx : Keeps s0 w))
    | (rintro x y z (hx : Keeps s0 z))
    | (rintro y (hx : Keeps s0 y))
    | (rintro x y (hx : Keeps s0 y.1))
    | (rintro x y (hx : Keeps s0 y.2))
    | lift_lets
    | (intro x; refine keeps_cut (x := x) (a := s0) ?_ ?_; subst x; rotate_left; clear_value x; intro hx)
    | (intro x; subst x)
    | simp -zeta only [keeps_upd]
    | with_reducible first | apply forAll_keeps | apply setTile_keeps
    | with_reducible apply keeps_ite
    | split

theorem acceptScales_keeps (unit rung w : Nat) (mx : List W32) (s : State) (hs : Keeps s0 s) :
    Keeps s0 (acceptScales unit rung w mx s) := by
  unfold acceptScales
  repeat' first
    | with_reducible assumption
    | (rintro x y (hx : Keeps s0 y))
    | (rintro x y z w (hx : Keeps s0 w))
    | (rintro x y z (hx : Keeps s0 z))
    | (rintro y (hx : Keeps s0 y))
    | (rintro x y (hx : Keeps s0 y.1))
    | (rintro x y (hx : Keeps s0 y.2))
    | lift_lets
    | (intro x; refine keeps_cut (x := x) (a := s0) ?_ ?_; subst x; rotate_left; clear_value x; intro hx)
    | (intro x; subst x)
    | simp -zeta only [keeps_upd]
    | with_reducible first | apply setScaleRec_keeps | apply writeRecordAll_keeps | apply scaleItem_keeps
    | with_reducible apply keeps_foldl
    | with_reducible apply keeps_foldl1
    | with_reducible apply keeps_foldl2
    | with_reducible exact hx
    | split

theorem repeatScales_keeps (unit rung hold : Nat) (mx : List W32) (s : State) (hs : Keeps s0 s) :
    Keeps s0 (repeatScales unit rung hold mx s) := by
  unfold repeatScales
  repeat' first
    | with_reducible assumption
    | (rintro x y (hx : Keeps s0 y))
    | (rintro x y z w (hx : Keeps s0 w))
    | (rintro x y z (hx : Keeps s0 z))
    | (rintro y (hx : Keeps s0 y))
    | (rintro x y (hx : Keeps s0 y.1))
    | (rintro x y (hx : Keeps s0 y.2))
    | lift_lets
    | (intro x; refine keeps_cut (x := x) (a := s0) ?_ ?_; subst x; rotate_left; clear_value x; intro hx)
    | (intro x; subst x)
    | simp -zeta only [keeps_upd]
    | with_reducible first | apply setScaleRec_keeps | apply writeRecordAll_keeps | apply scaleItem_keeps
    | with_reducible apply keeps_foldl
    | with_reducible apply keeps_foldl1
    | with_reducible apply keeps_foldl2
    | with_reducible exact hx
    | with_reducible apply keeps_ite
    | split

theorem setUnit_keeps (n : Nat) (x : UnitSt) (s : State) (hs : Keeps s0 s) :
    Keeps s0 (setUnit n x s) := by
  unfold setUnit
  repeat' first
    | with_reducible assumption
    | (rintro x y (hx : Keeps s0 y))
    | (rintro x y z w (hx : Keeps s0 w))
    | (rintro x y z (hx : Keeps s0 z))
    | (rintro y (hx : Keeps s0 y))
    | (rintro x y (hx : Keeps s0 y.1))
    | (rintro x y (hx : Keeps s0 y.2))
    | lift_lets
    | (intro x; refine keeps_cut (x := x) (a := s0) ?_ ?_; subst x; rotate_left; clear_value x; intro hx)
    | (intro x; subst x)
    | simp -zeta only [keeps_upd]

theorem restoreSetts_keeps (unit : Nat) (s : State) (hs : Keeps s0 s) :
    Keeps s0 (restoreSetts unit s) := by
  unfold restoreSetts
  repeat' first
    | with_reducible assumption
    | (rintro x y (hx : Keeps s0 y))
    | (rintro x y z w (hx : Keeps s0 w))
    | (rintro x y z (hx : Keeps s0 z))
    | (rintro y (hx : Keeps s0 y))
    | (rintro x y (hx : Keeps s0 y.1))
    | (rintro x y (hx : Keeps s0 y.2))
    | lift_lets
    | (intro x; refine keeps_cut (x := x) (a := s0) ?_ ?_; subst x; rotate_left; clear_value x; intro hx)
    | (intro x; subst x)
    | simp -zeta only [keeps_upd]
    | with_reducible first | apply setTile_keeps
    | with_reducible apply keeps_foldl
    | with_reducible apply keeps_foldl1
    | with_reducible apply keeps_foldl2
    | with_reducible exact hx
    | with_reducible apply keeps_ite
    | split

theorem saveSetts_keeps (unit : Nat) (s : State) (hs : Keeps s0 s) :
    Keeps s0 (saveSetts unit s) := by
  unfold saveSetts
  repeat' first
    | with_reducible assumption
    | (rintro x y (hx : Keeps s0 y))
    | (rintro x y z w (hx : Keeps s0 w))
    | (rintro x y z (hx : Keeps s0 z))
    | (rintro y (hx : Keeps s0 y))
    | (rintro x y (hx : Keeps s0 y.1))
    | (rintro x y (hx : Keeps s0 y.2))
    | lift_lets
    | (intro x; refine keeps_cut (x := x) (a := s0) ?_ ?_; subst x; rotate_left; clear_value x; intro hx)
    | (intro x; subst x)
    | simp -zeta only [keeps_upd]
    | with_reducible apply keeps_foldl
    | with_reducible apply keeps_foldl1
    | with_reducible apply keeps_foldl2
    | with_reducible exact hx
    | split

theorem clearAttempt_keeps (unit : Nat) (s : State) (hs : Keeps s0 s) :
    Keeps s0 (clearAttempt unit s) := by
  unfold clearAttempt
  repeat' first
    | with_reducible assumption
    | (rintro x y (hx : Keeps s0 y))
    | (rintro x y z w (hx : Keeps s0 w))
    | (rintro x y z (hx : Keeps s0 z))
    | (rintro y (hx : Keeps s0 y))
    | (rintro x y (hx : Keeps s0 y.1))
    | (rintro x y (hx : Keeps s0 y.2))
    | lift_lets
    | (intro x; refine keeps_cut (x := x) (a := s0) ?_ ?_; subst x; rotate_left; clear_value x; intro hx)
    | (intro x; subst x)
    | simp -zeta only [keeps_upd]
    | with_reducible first | apply forAll_keeps | apply setTile_keeps
    | split

theorem decideWith_keeps (unit : Nat) (i : Img) (d : UnitDesc) (flags : Nat) (mx : List W32) (s : State) (hs : Keeps s0 s) :
    Keeps s0 (decideWith unit i d flags mx s) := by
  unfold decideWith
  repeat' first
    | with_reducible assumption
    | (rintro x y (hx : Keeps s0 y))
    | (rintro x y z w (hx : Keeps s0 w))
    | (rintro x y z (hx : Keeps s0 z))
    | (rintro y (hx : Keeps s0 y))
    | (rintro x y (hx : Keeps s0 y.1))
    | (rintro x y (hx : Keeps s0 y.2))
    | lift_lets
    | (intro x; refine keeps_cut (x := x) (a := s0) ?_ ?_; subst x; rotate_left; clear_value x; intro hx)
    | (intro x; subst x)
    | simp -zeta only [keeps_upd]
    | with_reducible first | apply setReg_keeps | apply bump_keeps | apply setErr_keeps | apply arrItem_keeps | apply acceptScales_keeps | apply repeatScales_keeps | apply setUnit_keeps | apply restoreSetts_keeps | apply clearAttempt_keeps
    | with_reducible apply keeps_foldl
    | with_reducible apply keeps_foldl1
    | with_reducible apply keeps_foldl2
    | with_reducible exact hx
    | with_reducible apply keeps_ite
    | split

theorem decideUnit_keeps (unit : Nat) (s : State) (hs : Keeps s0 s) :
    Keeps s0 (decideUnit unit s) := by
  unfold decideUnit
  repeat' first
    | with_reducible assumption
    | (rintro x y (hx : Keeps s0 y))
    | (rintro x y z w (hx : Keeps s0 w))
    | (rintro x y z (hx : Keeps s0 z))
    | (rintro y (hx : Keeps s0 y))
    | (rintro x y (hx : Keeps s0 y.1))
    | (rintro x y (hx : Keeps s0 y.2))
    | lift_lets
    | (intro x; refine keeps_cut (x := x) (a := s0) ?_ ?_; subst x; rotate_left; clear_value x; intro hx)
    | (intro x; subst x)
    | simp -zeta only [keeps_upd]
    | with_reducible first | apply decideWith_keeps
    | split

theorem ladderStep_keeps (s : State) (hs : Keeps s0 s) :
    Keeps s0 (ladderStep s) := by
  unfold ladderStep
  repeat' first
    | with_reducible assumption
    | (rintro x y (hx : Keeps s0 y))
    | (rintro x y z w (hx : Keeps s0 w))
    | (rintro x y z (hx : Keeps s0 z))
    | (rintro y (hx : Keeps s0 y))
    | (rintro x y (hx : Keeps s0 y.1))
    | (rintro x y (hx : Keeps s0 y.2))
    | lift_lets
    | (intro x; refine keeps_cut (x := x) (a := s0) ?_ ?_; subst x; rotate_left; clear_value x; intro hx)
    | (intro x; subst x)
    | simp -zeta only [keeps_upd]
    | with_reducible first | apply forAll_keeps | apply setScaleRec_keeps | apply writeRecordAll_keeps | apply scaleItem_keeps | apply writeHeadroom_keeps | apply setUnit_keeps
    | with_reducible apply keeps_foldl
    | with_reducible apply keeps_foldl1
    | with_reducible apply keeps_foldl2
    | with_reducible exact hx
    | with_reducible apply keeps_ite
    | split

theorem owlItem_keeps (unit rung : Nat) (hard : Bool) (d elem : Nat) (s : State) (hs : Keeps s0 s) :
    Keeps s0 (owlItem unit rung hard d elem s) := by
  unfold owlItem
  repeat' first
    | with_reducible assumption
    | (rintro x y (hx : Keeps s0 y))
    | (rintro x y z w (hx : Keeps s0 w))
    | (rintro x y z (hx : Keeps s0 z))
    | (rintro y (hx : Keeps s0 y))
    | (rintro x y (hx : Keeps s0 y.1))
    | (rintro x y (hx : Keeps s0 y.2))
    | with_reducible first | apply arrItem_keeps

theorem owlCheck_keeps (u v : Nat) (s : State) (hs : Keeps s0 s) :
    Keeps s0 (owlCheck u v s) := by
  unfold owlCheck
  repeat' first
    | with_reducible assumption
    | (rintro x y (hx : Keeps s0 y))
    | (rintro x y z w (hx : Keeps s0 w))
    | (rintro x y z (hx : Keeps s0 z))
    | (rintro y (hx : Keeps s0 y))
    | (rintro x y (hx : Keeps s0 y.1))
    | (rintro x y (hx : Keeps s0 y.2))
    | lift_lets
    | (intro x; refine keeps_cut (x := x) (a := s0) ?_ ?_; subst x; rotate_left; clear_value x; intro hx)
    | (intro x; subst x)
    | simp -zeta only [keeps_upd]
    | with_reducible first | apply setReg_keeps | apply bump_keeps | apply setErr_keeps | apply setTile_keeps | apply prtUse_keeps | apply owlItem_keeps
    | with_reducible apply keeps_ite
    | split

end Sys2Proof.Machine
end

