-- ==== Sys2Proof/Laws/Keeps4.lean ====
section
/-! SUPPORT. What the operations of Link, Reduce, Permute, LinkRx keep: the fuses, the queue, the canonical form of the store,
the rules on the mode. -/

namespace Sys2Proof.Machine

variable {s0 s : State}

theorem setPeer_keeps (n : Nat) (x : PeerSt) (s : State) (hs : Keeps s0 s) :
    Keeps s0 (setPeer n x s) := by
  unfold setPeer
  repeat' first
    | with_reducible assumption
    | (rintro x y (hx : Keeps s0 y))
    | (rintro x y z w (hx : Keeps s0 w))
    | (rintro x y z (hx : Keeps s0 z))
    | (rintro y (hx : Keeps s0 y))
    | (rintro x y (hx : Keeps s0 y.1))
    | (rintro x y (hx : Keeps s0 y.2))
    | lift_lets
    | (intro x; refine keeps_cut (x := x) (a := s0) ?_ ?_; subst x; rotate_left; clear_value x; intro hx)
    | (intro x; subst x)
    | simp -zeta only [keeps_upd]

theorem countFlits_keeps (p : Die) (o n : Nat) (s : State) (hs : Keeps s0 s) :
    Keeps s0 (countFlits p o n s) := by
  unfold countFlits
  repeat' first
    | with_reducible assumption
    | (rintro x y (hx : Keeps s0 y))
    | (rintro x y z w (hx : Keeps s0 w))
    | (rintro x y z (hx : Keeps s0 z))
    | (rintro y (hx : Keeps s0 y))
    | (rintro x y (hx : Keeps s0 y.1))
    | (rintro x y (hx : Keeps s0 y.2))
    | with_reducible first | apply setReg64_keeps
    | with_reducible apply keeps_ite
    | split

theorem sendDirect_keeps (p : Die) (f : LFrame) (s : State) (hs : Keeps s0 s) :
    Keeps s0 (sendDirect p f s) := by
  unfold sendDirect
  repeat' first
    | with_reducible assumption
    | (rintro x y (hx : Keeps s0 y))
    | (rintro x y z w (hx : Keeps s0 w))
    | (rintro x y z (hx : Keeps s0 z))
    | (rintro y (hx : Keeps s0 y))
    | (rintro x y (hx : Keeps s0 y.1))
    | (rintro x y (hx : Keeps s0 y.2))
    | lift_lets
    | (intro x; refine keeps_cut (x := x) (a := s0) ?_ ?_; subst x; rotate_left; clear_value x; intro hx)
    | (intro x; subst x)
    | simp -zeta only [keeps_upd]
    | with_reducible first | apply emit_keeps | apply setLink_keeps | apply prtEvent_keeps | apply countFlits_keeps
    | with_reducible apply keeps_ite
    | split

theorem xferSent_keeps (f : LFrame) (s : State) (hs : Keeps s0 s) :
    Keeps s0 (xferSent f s) := by
  unfold xferSent
  repeat' first
    | with_reducible assumption
    | (rintro x y (hx : Keeps s0 y))
    | (rintro x y z w (hx : Keeps s0 w))
    | (rintro x y z (hx : Keeps s0 z))
    | (rintro y (hx : Keeps s0 y))
    | (rintro x y (hx : Keeps s0 y.1))
    | (rintro x y (hx : Keeps s0 y.2))
    | lift_lets
    | (intro x; refine keeps_cut (x := x) (a := s0) ?_ ?_; subst x; rotate_left; clear_value x; intro hx)
    | (intro x; subst x)
    | simp -zeta only [keeps_upd]
    | with_reducible first | apply farSignal_keeps
    | with_reducible apply keeps_ite
    | split

theorem takeSeq_keeps {p : Die} {f : LFrame} {s t : State} (ht : takeSeq p s = some (f, t)) (h : Keeps s0 s) :
    Keeps s0 t := by
  unfold takeSeq at ht
  dsimp only at ht
  split at ht
  · cases ht
  · split at ht
    · cases ht
    · simp only [Option.map_eq_some_iff] at ht
      obtain ⟨g, _, he⟩ := ht
      cases he
      exact xferSent_keeps _ _ (setLink_keeps _ _ _ h)

theorem pumpDirect_keeps (p : Die) (k : Nat) (s : State) (h : Keeps s0 s) : Keeps s0 (pumpDirect p k s) := by
  induction k generalizing s with
  | zero => exact h
  | succ k ih =>
    unfold pumpDirect
    refine keeps_ite h ?_
    split
    · rename_i ht
      exact ih _ (sendDirect_keeps _ _ _ (takeSeq_keeps ht h))
    · exact h

theorem enqueue_keeps (p : Die) (f : LFrame) (s : State) (hs : Keeps s0 s) :
    Keeps s0 (enqueue p f s) := by
  unfold enqueue
  repeat' first
    | with_reducible assumption
    | (rintro x y (hx : Keeps s0 y))
    | (rintro x y z w (hx : Keeps s0 w))
    | (rintro x y z (hx : Keeps s0 z))
    | (rintro y (hx : Keeps s0 y))
    | (rintro x y (hx : Keeps s0 y.1))
    | (rintro x y (hx : Keeps s0 y.2))
    | lift_lets
    | (intro x; refine keeps_cut (x := x) (a := s0) ?_ ?_; subst x; rotate_left; clear_value x; intro hx)
    | (intro x; subst x)
    | simp -zeta only [keeps_upd]
    | with_reducible first | apply setLink_keeps

theorem sendOn_keeps (p : Die) (f : LFrame) (s : State) (hs : Keeps s0 s) :
    Keeps s0 (sendOn p f s) := by
  unfold sendOn
  repeat' first
    | with_reducible assumption
    | (rintro x y (hx : Keeps s0 y))
    | (rintro x y z w (hx : Keeps s0 w))
    | (rintro x y z (hx : Keeps s0 z))
    | (rintro y (hx : Keeps s0 y))
    | (rintro x y (hx : Keeps s0 y.1))
    | (rintro x y (hx : Keeps s0 y.2))
    | lift_lets
    | (intro x; refine keeps_cut (x := x) (a := s0) ?_ ?_; subst x; rotate_left; clear_value x; intro hx)
    | (intro x; subst x)
    | simp -zeta only [keeps_upd]
    | with_reducible first | apply setLink_keeps | apply sendDirect_keeps | apply pumpDirect_keeps | apply enqueue_keeps
    | with_reducible apply keeps_ite
    | split

theorem pumpAux_keeps (p : Die) (k : Nat) (s : State) (h : Keeps s0 s) : Keeps s0 (pumpAux p k s) := by
  induction k generalizing s with
  | zero => exact h
  | succ k ih =>
    unfold pumpAux
    refine keeps_ite h ?_
    split
    · rename_i ht
      exact ih _ (sendOn_keeps _ _ _ (takeSeq_keeps ht h))
    · exact h

theorem pump_keeps (p : Die) (s : State) (hs : Keeps s0 s) :
    Keeps s0 (pump p s) := by
  unfold pump
  repeat' first
    | with_reducible assumption
    | (rintro x y (hx : Keeps s0 y))
    | (rintro x y z w (hx : Keeps s0 w))
    | (rintro x y z (hx : Keeps s0 z))
    | (rintro y (hx : Keeps s0 y))
    | (rintro x y (hx : Keeps s0 y.1))
    | (rintro x y (hx : Keeps s0 y.2))
    | with_reducible first | apply pumpAux_keeps

theorem sendTo_keeps (at_ : Die) (f : LFrame) (s : State) (hs : Keeps s0 s) :
    Keeps s0 (sendTo at_ f s) := by
  unfold sendTo
  repeat' first
    | with_reducible assumption
    | (rintro x y (hx : Keeps s0 y))
    | (rintro x y z w (hx : Keeps s0 w))
    | (rintro x y z (hx : Keeps s0 z))
    | (rintro y (hx : Keeps s0 y))
    | (rintro x y (hx : Keeps s0 y.1))
    | (rintro x y (hx : Keeps s0 y.2))
    | lift_lets
    | (intro x; refine keeps_cut (x := x) (a := s0) ?_ ?_; subst x; rotate_left; clear_value x; intro hx)
    | (intro x; subst x)
    | simp -zeta only [keeps_upd]
    | with_reducible first | apply bump_keeps | apply enqueue_keeps | apply pump_keeps
    | with_reducible apply keeps_ite
    | split

theorem replayFrom_keeps (p : Die) (k : Nat) (s : State) (hs : Keeps s0 s) :
    Keeps s0 (replayFrom p k s) := by
  unfold replayFrom
  repeat' first
    | with_reducible assumption
    | (rintro x y (hx : Keeps s0 y))
    | (rintro x y z w (hx : Keeps s0 w))
    | (rintro x y z (hx : Keeps s0 z))
    | (rintro y (hx : Keeps s0 y))
    | (rintro x y (hx : Keeps s0 y.1))
    | (rintro x y (hx : Keeps s0 y.2))
    | with_reducible first | apply forAll_keeps | apply sendOn_keeps | apply pump_keeps
    | with_reducible apply keeps_ite
    | split

theorem linkItem_keeps (p : Die) (kind : Nat) (s : State) (hs : Keeps s0 s) :
    Keeps s0 (linkItem p kind s) := by
  unfold linkItem
  repeat' first
    | with_reducible assumption
    | (rintro x y (hx : Keeps s0 y))
    | (rintro x y z w (hx : Keeps s0 w))
    | (rintro x y z (hx : Keeps s0 z))
    | (rintro y (hx : Keeps s0 y))
    | (rintro x y (hx : Keeps s0 y.1))
    | (rintro x y (hx : Keeps s0 y.2))
    | with_reducible first | apply ledgerItem_keeps

theorem pathDown_keeps (p : Die) (s : State) (hs : Keeps s0 s) :
    Keeps s0 (pathDown p s) := by
  unfold pathDown
  repeat' first
    | with_reducible assumption
    | (rintro x y (hx : Keeps s0 y))
    | (rintro x y z w (hx : Keeps s0 w))
    | (rintro x y z (hx : Keeps s0 z))
    | (rintro y (hx : Keeps s0 y))
    | (rintro x y (hx : Keeps s0 y.1))
    | (rintro x y (hx : Keeps s0 y.2))
    | lift_lets
    | (intro x; refine keeps_cut (x := x) (a := s0) ?_ ?_; subst x; rotate_left; clear_value x; intro hx)
    | (intro x; subst x)
    | simp -zeta only [keeps_upd]
    | with_reducible first | apply bump_keeps | apply setErr_keeps | apply setLink_keeps | apply setLnkState_keeps | apply replayFrom_keeps | apply linkItem_keeps
    | with_reducible apply keeps_ite
    | split

theorem portLost_keeps (p : Die) (s : State) (hs : Keeps s0 s) :
    Keeps s0 (portLost p s) := by
  unfold portLost
  repeat' first
    | with_reducible assumption
    | (rintro x y (hx : Keeps s0 y))
    | (rintro x y z w (hx : Keeps s0 w))
    | (rintro x y z (hx : Keeps s0 z))
    | (rintro y (hx : Keeps s0 y))
    | (rintro x y (hx : Keeps s0 y.1))
    | (rintro x y (hx : Keeps s0 y.2))
    | lift_lets
    | (intro x; refine keeps_cut (x := x) (a := s0) ?_ ?_; subst x; rotate_left; clear_value x; intro hx)
    | (intro x; subst x)
    | simp -zeta only [keeps_upd]
    | with_reducible first | apply setReg_keeps | apply forAll_keeps | apply setLink_keeps | apply setLnkState_keeps | apply pathDown_keeps
    | with_reducible apply keeps_ite
    | split

theorem linkFault_keeps (p : Die) (s : State) (hs : Keeps s0 s) :
    Keeps s0 (linkFault p s) := by
  unfold linkFault
  repeat' first
    | with_reducible assumption
    | (rintro x y (hx : Keeps s0 y))
    | (rintro x y z w (hx : Keeps s0 w))
    | (rintro x y z (hx : Keeps s0 z))
    | (rintro y (hx : Keeps s0 y))
    | (rintro x y (hx : Keeps s0 y.1))
    | (rintro x y (hx : Keeps s0 y.2))
    | with_reducible first | apply setErr_keeps | apply uncodedFault_keeps | apply portLost_keeps

theorem pathFails_keeps (p : Die) (s : State) (hs : Keeps s0 s) :
    Keeps s0 (pathFails p s) := by
  unfold pathFails
  repeat' first
    | with_reducible assumption
    | (rintro x y (hx : Keeps s0 y))
    | (rintro x y z w (hx : Keeps s0 w))
    | (rintro x y z (hx : Keeps s0 z))
    | (rintro y (hx : Keeps s0 y))
    | (rintro x y (hx : Keeps s0 y.1))
    | (rintro x y (hx : Keeps s0 y.2))
    | lift_lets
    | (intro x; refine keeps_cut (x := x) (a := s0) ?_ ?_; subst x; rotate_left; clear_value x; intro hx)
    | (intro x; subst x)
    | simp -zeta only [keeps_upd]
    | with_reducible first | apply setLink_keeps | apply uncodedFault_keeps | apply pathDown_keeps | apply linkFault_keeps
    | with_reducible apply keeps_ite
    | split

theorem sendHello_keeps (p : Die) (s : State) (hs : Keeps s0 s) :
    Keeps s0 (sendHello p s) := by
  unfold sendHello
  repeat' first
    | with_reducible assumption
    | (rintro x y (hx : Keeps s0 y))
    | (rintro x y z w (hx : Keeps s0 w))
    | (rintro x y z (hx : Keeps s0 z))
    | (rintro y (hx : Keeps s0 y))
    | (rintro x y (hx : Keeps s0 y.1))
    | (rintro x y (hx : Keeps s0 y.2))
    | with_reducible first | apply sendDirect_keeps

theorem clearNbr_keeps (p : Die) (s : State) (hs : Keeps s0 s) :
    Keeps s0 (clearNbr p s) := by
  unfold clearNbr
  repeat' first
    | with_reducible assumption
    | (rintro x y (hx : Keeps s0 y))
    | (rintro x y z w (hx : Keeps s0 w))
    | (rintro x y z (hx : Keeps s0 z))
    | (rintro y (hx : Keeps s0 y))
    | (rintro x y (hx : Keeps s0 y.1))
    | (rintro x y (hx : Keeps s0 y.2))
    | lift_lets
    | (intro x; refine keeps_cut (x := x) (a := s0) ?_ ?_; subst x; rotate_left; clear_value x; intro hx)
    | (intro x; subst x)
    | simp -zeta only [keeps_upd]
    | with_reducible first | apply setReg_keeps | apply setLink_keeps | apply setPeer_keeps
    | split

theorem portReset_keeps (p : Die) (s : State) (hs : Keeps s0 s) :
    Keeps s0 (portReset p s) := by
  unfold portReset
  repeat' first
    | with_reducible assumption
    | (rintro x y (hx : Keeps s0 y))
    | (rintro x y z w (hx : Keeps s0 w))
    | (rintro x y z (hx : Keeps s0 z))
    | (rintro y (hx : Keeps s0 y))
    | (rintro x y (hx : Keeps s0 y.1))
    | (rintro x y (hx : Keeps s0 y.2))
    | lift_lets
    | (intro x; refine keeps_cut (x := x) (a := s0) ?_ ?_; subst x; rotate_left; clear_value x; intro hx)
    | (intro x; subst x)
    | with_reducible first | apply midDone_keeps | apply midRefuse_keeps | apply setLnkState_keeps | apply portLost_keeps | apply clearNbr_keeps
    | with_reducible apply keeps_ite
    | split

theorem replayTimeout_keeps (p : Die) (s : State) (hs : Keeps s0 s) :
    Keeps s0 (replayTimeout p s) := by
  unfold replayTimeout
  repeat' first
    | with_reducible assumption
    | (rintro x y (hx : Keeps s0 y))
    | (rintro x y z w (hx : Keeps s0 w))
    | (rintro x y z (hx : Keeps s0 z))
    | (rintro y (hx : Keeps s0 y))
    | (rintro x y (hx : Keeps s0 y.1))
    | (rintro x y (hx : Keeps s0 y.2))
    | lift_lets
    | (intro x; refine keeps_cut (x := x) (a := s0) ?_ ?_; subst x; rotate_left; clear_value x; intro hx)
    | (intro x; subst x)
    | simp -zeta only [keeps_upd]
    | with_reducible first | apply bump_keeps | apply setLink_keeps | apply replayFrom_keeps | apply pathFails_keeps
    | with_reducible apply keeps_ite
    | split

theorem holdCage_keeps (p : Die) (s : State) (hs : Keeps s0 s) :
    Keeps s0 (holdCage p s) := by
  unfold holdCage
  repeat' first
    | with_reducible assumption
    | (rintro x y (hx : Keeps s0 y))
    | (rintro x y z w (hx : Keeps s0 w))
    | (rintro x y z (hx : Keeps s0 z))
    | (rintro y (hx : Keeps s0 y))
    | (rintro x y (hx : Keeps s0 y.1))
    | (rintro x y (hx : Keeps s0 y.2))
    | lift_lets
    | (intro x; refine keeps_cut (x := x) (a := s0) ?_ ?_; subst x; rotate_left; clear_value x; intro hx)
    | (intro x; subst x)
    | simp -zeta only [keeps_upd]
    | with_reducible first | apply setReg_keeps | apply linkFault_keeps
    | with_reducible apply keeps_ite
    | split

theorem linkReturn_keeps (s : State) (hs : Keeps s0 s) :
    Keeps s0 (linkReturn s) := by
  unfold linkReturn
  repeat' first
    | with_reducible assumption
    | (rintro x y (hx : Keeps s0 y))
    | (rintro x y z w (hx : Keeps s0 w))
    | (rintro x y z (hx : Keeps s0 z))
    | (rintro y (hx : Keeps s0 y))
    | (rintro x y (hx : Keeps s0 y.1))
    | (rintro x y (hx : Keeps s0 y.2))
    | lift_lets
    | (intro x; refine keeps_cut (x := x) (a := s0) ?_ ?_; subst x; rotate_left; clear_value x; intro hx)
    | (intro x; subst x)
    | simp -zeta only [keeps_upd]
    | with_reducible first | apply forAll_keeps | apply setLink_keeps | apply setLnkState_keeps | apply replayFrom_keeps | apply linkItem_keeps
    | with_reducible apply keeps_ite
    | split

theorem setRed_keeps (k : Nat) (x : RedSt) (s : State) (hs : Keeps s0 s) :
    Keeps s0 (setRed k x s) := by
  unfold setRed
  repeat' first
    | with_reducible assumption
    | (rintro x y (hx : Keeps s0 y))
    | (rintro x y z w (hx : Keeps s0 w))
    | (rintro x y z (hx : Keeps s0 z))
    | (rintro y (hx : Keeps s0 y))
    | (rintro x y (hx : Keeps s0 y.1))
    | (rintro x y (hx : Keeps s0 y.2))
    | lift_lets
    | (intro x; refine keeps_cut (x := x) (a := s0) ?_ ?_; subst x; rotate_left; clear_value x; intro hx)
    | (intro x; subst x)
    | simp -zeta only [keeps_upd]

theorem setChan_keeps (c : Nat) (x : ChanSt) (s : State) (hs : Keeps s0 s) :
    Keeps s0 (setChan c x s) := by
  unfold setChan
  repeat' first
    | with_reducible assumption
    | (rintro x y (hx : Keeps s0 y))
    | (rintro x y z w (hx : Keeps s0 w))
    | (rintro x y z (hx : Keeps s0 z))
    | (rintro y (hx : Keeps s0 y))
    | (rintro x y (hx : Keeps s0 y.1))
    | (rintro x y (hx : Keeps s0 y.2))
    | lift_lets
    | (intro x; refine keeps_cut (x := x) (a := s0) ?_ ?_; subst x; rotate_left; clear_value x; intro hx)
    | (intro x; subst x)
    | simp -zeta only [keeps_upd]

theorem setAdd_keeps (k role : Nat) (a : AddSt) (s : State) (hs : Keeps s0 s) :
    Keeps s0 (setAdd k role a s) := by
  unfold setAdd
  repeat' first
    | with_reducible assumption
    | (rintro x y (hx : Keeps s0 y))
    | (rintro x y z w (hx : Keeps s0 w))
    | (rintro x y z (hx : Keeps s0 z))
    | (rintro y (hx : Keeps s0 y))
    | (rintro x y (hx : Keeps s0 y.1))
    | (rintro x y (hx : Keeps s0 y.2))
    | lift_lets
    | (intro x; refine keeps_cut (x := x) (a := s0) ?_ ?_; subst x; rotate_left; clear_value x; intro hx)
    | (intro x; subst x)
    | simp -zeta only [keeps_upd]
    | with_reducible first | apply setRed_keeps

theorem sendRed_keeps (m : Nat) (f : RFrame) (s : State) (hs : Keeps s0 s) :
    Keeps s0 (sendRed m f s) := by
  unfold sendRed
  repeat' first
    | with_reducible assumption
    | (rintro x y (hx : Keeps s0 y))
    | (rintro x y z w (hx : Keeps s0 w))
    | (rintro x y z (hx : Keeps s0 z))
    | (rintro y (hx : Keeps s0 y))
    | (rintro x y (hx : Keeps s0 y.1))
    | (rintro x y (hx : Keeps s0 y.2))
    | lift_lets
    | (intro x; refine keeps_cut (x := x) (a := s0) ?_ ?_; subst x; rotate_left; clear_value x; intro hx)
    | (intro x; subst x)
    | simp -zeta only [keeps_upd]
    | with_reducible first | apply prtEvent_keeps | apply sendTo_keeps
    | with_reducible apply keeps_ite
    | split

theorem sendAll_keeps (ms : List Nat) (f : RFrame) (s : State) (hs : Keeps s0 s) :
    Keeps s0 (sendAll ms f s) := by
  unfold sendAll
  repeat' first
    | with_reducible assumption
    | (rintro x y (hx : Keeps s0 y))
    | (rintro x y z w (hx : Keeps s0 w))
    | (rintro x y z (hx : Keeps s0 z))
    | (rintro y (hx : Keeps s0 y))
    | (rintro x y (hx : Keeps s0 y.1))
    | (rintro x y (hx : Keeps s0 y.2))
    | with_reducible first | apply forAll_keeps | apply sendRed_keeps

theorem reduceItem_keeps (kind detail : Nat) (rn : Redn) (a b blk : Nat) (s : State) (hs : Keeps s0 s) :
    Keeps s0 (reduceItem kind detail rn a b blk s) := by
  unfold reduceItem
  repeat' first
    | with_reducible assumption
    | (rintro x y (hx : Keeps s0 y))
    | (rintro x y z w (hx : Keeps s0 w))
    | (rintro x y z (hx : Keeps s0 z))
    | (rintro y (hx : Keeps s0 y))
    | (rintro x y (hx : Keeps s0 y.1))
    | (rintro x y (hx : Keeps s0 y.2))
    | with_reducible first | apply ledgerItem_keeps

theorem mismatch_keeps (kind : Nat) (f : RFrame) (s : State) (hs : Keeps s0 s) :
    Keeps s0 (mismatch kind f s) := by
  unfold mismatch
  repeat' first
    | with_reducible assumption
    | (rintro x y (hx : Keeps s0 y))
    | (rintro x y z w (hx : Keeps s0 w))
    | (rintro x y z (hx : Keeps s0 z))
    | (rintro y (hx : Keeps s0 y))
    | (rintro x y (hx : Keeps s0 y.1))
    | (rintro x y (hx : Keeps s0 y.2))
    | lift_lets
    | (intro x; refine keeps_cut (x := x) (a := s0) ?_ ?_; subst x; rotate_left; clear_value x; intro hx)
    | (intro x; subst x)
    | simp -zeta only [keeps_upd]
    | with_reducible first | apply setReg_keeps | apply bump_keeps | apply setErr_keeps | apply setChan_keeps | apply reduceItem_keeps
    | with_reducible apply keeps_ite
    | split

theorem touchKept_keeps (wide : Bool) (q : Kept) (s : State) (hs : Keeps s0 s) :
    Keeps s0 (touchKept wide q s) := by
  unfold touchKept
  repeat' first
    | with_reducible assumption
    | (rintro x y (hx : Keeps s0 y))
    | (rintro x y z w (hx : Keeps s0 w))
    | (rintro x y z (hx : Keeps s0 z))
    | (rintro y (hx : Keeps s0 y))
    | (rintro x y (hx : Keeps s0 y.1))
    | (rintro x y (hx : Keeps s0 y.2))
    | lift_lets
    | (intro x; refine keeps_cut (x := x) (a := s0) ?_ ?_; subst x; rotate_left; clear_value x; intro hx)
    | (intro x; subst x)
    | simp -zeta only [keeps_upd]
    | with_reducible first | apply regionTouch_keeps
    | split

theorem prtRes_keeps (c : Nat) (g : GBlock) (s : State) (hs : Keeps s0 s) :
    Keeps s0 (prtRes c g s).2 := by
  unfold prtRes
  repeat' first
    | with_reducible assumption
    | (rintro x y (hx : Keeps s0 y))
    | (rintro x y z w (hx : Keeps s0 w))
    | (rintro x y z (hx : Keeps s0 z))
    | (rintro y (hx : Keeps s0 y))
    | (rintro x y (hx : Keeps s0 y.1))
    | (rintro x y (hx : Keeps s0 y.2))
    | lift_lets
    | (intro x; refine keeps_cut (x := x) (a := s0) ?_ ?_; subst x; rotate_left; clear_value x; intro hx)
    | (intro x; subst x)
    | simp -zeta only [keeps_upd]
    | with_reducible first | apply prtUse_keeps
    | with_reducible apply keeps_ite
    | split

theorem prtResAll_keeps (c : Nat) (l : List (Nat × GBlock)) (s : State) (hs : Keeps s0 s) :
    Keeps s0 (prtResAll c l s).2 := by
  unfold prtResAll
  repeat' first
    | with_reducible assumption
    | (rintro x y (hx : Keeps s0 y))
    | (rintro x y z w (hx : Keeps s0 w))
    | (rintro x y z (hx : Keeps s0 z))
    | (rintro y (hx : Keeps s0 y))
    | (rintro x y (hx : Keeps s0 y.1))
    | (rintro x y (hx : Keeps s0 y.2))
    | lift_lets
    | (intro x; refine keeps_cut (x := x) (a := s0) ?_ ?_; subst x; rotate_left; clear_value x; intro hx)
    | (intro x; subst x)
    | with_reducible first | apply prtRes_keeps
    | with_reducible apply keeps_foldl
    | with_reducible apply keeps_foldl1
    | with_reducible apply keeps_foldl2
    | with_reducible exact hx

theorem holdCount_keeps (b : Nat) (up : Bool) (s : State) (hs : Keeps s0 s) :
    Keeps s0 (holdCount b up s) := by
  unfold holdCount
  repeat' first
    | with_reducible assumption
    | (rintro x y (hx : Keeps s0 y))
    | (rintro x y z w (hx : Keeps s0 w))
    | (rintro x y z (hx : Keeps s0 z))
    | (rintro y (hx : Keeps s0 y))
    | (rintro x y (hx : Keeps s0 y.1))
    | (rintro x y (hx : Keeps s0 y.2))
    | lift_lets
    | (intro x; refine keeps_cut (x := x) (a := s0) ?_ ?_; subst x; rotate_left; clear_value x; intro hx)
    | (intro x; subst x)
    | with_reducible first | apply setReg_keeps
    | with_reducible apply keeps_ite
    | split

theorem compareCopy_keeps (rn : Redn) (x : Share) (bk b : Nat) (a g : GBlock) (s : State) (hs : Keeps s0 s) :
    Keeps s0 (compareCopy rn x bk b a g s) := by
  unfold compareCopy
  repeat' first
    | with_reducible assumption
    | (rintro x y (hx : Keeps s0 y))
    | (rintro x y z w (hx : Keeps s0 w))
    | (rintro x y z (hx : Keeps s0 z))
    | (rintro y (hx : Keeps s0 y))
    | (rintro x y (hx : Keeps s0 y.1))
    | (rintro x y (hx : Keeps s0 y.2))
    | with_reducible first | apply bump_keeps | apply setErr_keeps | apply reduceItem_keeps
    | with_reducible apply keeps_ite
    | split

theorem substitute_keeps (rn : Redn) (role : Nat) (x : Share) (bk b : Nat) (s : State) (hs : Keeps s0 s) :
    Keeps s0 (substitute rn role x bk b s) := by
  unfold substitute
  repeat' first
    | with_reducible assumption
    | (rintro x y (hx : Keeps s0 y))
    | (rintro x y z w (hx : Keeps s0 w))
    | (rintro x y z (hx : Keeps s0 z))
    | (rintro y (hx : Keeps s0 y))
    | (rintro x y (hx : Keeps s0 y.1))
    | (rintro x y (hx : Keeps s0 y.2))
    | lift_lets
    | (intro x; refine keeps_cut (x := x) (a := s0) ?_ ?_; subst x; rotate_left; clear_value x; intro hx)
    | (intro x; subst x)
    | simp -zeta only [keeps_upd]
    | with_reducible first | apply bump_keeps | apply setAdd_keeps | apply reduceItem_keeps
    | with_reducible apply keeps_ite
    | split

theorem restartRed_keeps (rn : Redn) (role : Nat) (s : State) (hs : Keeps s0 s) :
    Keeps s0 (restartRed rn role s) := by
  unfold restartRed
  repeat' first
    | with_reducible assumption
    | (rintro x y (hx : Keeps s0 y))
    | (rintro x y z w (hx : Keeps s0 w))
    | (rintro x y z (hx : Keeps s0 z))
    | (rintro y (hx : Keeps s0 y))
    | (rintro x y (hx : Keeps s0 y.1))
    | (rintro x y (hx : Keeps s0 y.2))
    | lift_lets
    | (intro x; refine keeps_cut (x := x) (a := s0) ?_ ?_; subst x; rotate_left; clear_value x; intro hx)
    | (intro x; subst x)
    | simp -zeta only [keeps_upd]
    | with_reducible first | apply setAdd_keeps | apply holdCount_keeps
    | with_reducible apply keeps_foldl
    | with_reducible apply keeps_foldl1
    | with_reducible apply keeps_foldl2
    | with_reducible exact hx

theorem resendRed_keeps (sh : List Share) (role : Nat) (rn : Redn) (check : Nat) (s : State) (hs : Keeps s0 s) :
    Keeps s0 (resendRed sh role rn check s) := by
  unfold resendRed
  repeat' first
    | with_reducible assumption
    | (rintro x y (hx : Keeps s0 y))
    | (rintro x y z w (hx : Keeps s0 w))
    | (rintro x y z (hx : Keeps s0 z))
    | (rintro y (hx : Keeps s0 y))
    | (rintro x y (hx : Keeps s0 y.1))
    | (rintro x y (hx : Keeps s0 y.2))
    | lift_lets
    | (intro x; refine keeps_cut (x := x) (a := s0) ?_ ?_; subst x; rotate_left; clear_value x; intro hx)
    | (intro x; subst x)
    | simp -zeta only [keeps_upd]
    | with_reducible first | apply bump_keeps | apply setErr_keeps | apply setChan_keeps | apply setAdd_keeps | apply sendAll_keeps | apply reduceItem_keeps | apply restartRed_keeps
    | with_reducible apply keeps_ite
    | split

theorem addFails_keeps (sh : List Share) (role : Nat) (rn : Redn) (b : Nat) (s : State) (hs : Keeps s0 s) :
    Keeps s0 (addFails sh role rn b s) := by
  unfold addFails
  repeat' first
    | with_reducible assumption
    | (rintro x y (hx : Keeps s0 y))
    | (rintro x y z w (hx : Keeps s0 w))
    | (rintro x y z (hx : Keeps s0 z))
    | (rintro y (hx : Keeps s0 y))
    | (rintro x y (hx : Keeps s0 y.1))
    | (rintro x y (hx : Keeps s0 y.2))
    | lift_lets
    | (intro x; refine keeps_cut (x := x) (a := s0) ?_ ?_; subst x; rotate_left; clear_value x; intro hx)
    | (intro x; subst x)
    | with_reducible first | apply bump_keeps | apply setErr_keeps | apply resendRed_keeps

theorem addBlock_keeps (sh : List Share) (role : Nat) (rn : Redn) (part : Bool) (x : Share) (src b : Nat) (g : GBlock) (s : State) (hs : Keeps s0 s) :
    Keeps s0 (addBlock sh role rn part x src b g s).1 := by
  unfold addBlock
  repeat' first
    | with_reducible assumption
    | (rintro x y (hx : Keeps s0 y))
    | (rintro x y z w (hx : Keeps s0 w))
    | (rintro x y z (hx : Keeps s0 z))
    | (rintro y (hx : Keeps s0 y))
    | (rintro x y (hx : Keeps s0 y.1))
    | (rintro x y (hx : Keeps s0 y.2))
    | lift_lets
    | (intro x; refine keeps_cut (x := x) (a := s0) ?_ ?_; subst x; rotate_left; clear_value x; intro hx)
    | (intro x; subst x)
    | simp -zeta only [keeps_upd]
    | with_reducible first | apply bump_keeps | apply setAdd_keeps | apply addFails_keeps
    | with_reducible apply keeps_ite
    | split

theorem freeHeld_keeps (k role : Nat) (x : Share) (b : Nat) (s : State) (hs : Keeps s0 s) :
    Keeps s0 (freeHeld k role x b s) := by
  unfold freeHeld
  repeat' first
    | with_reducible assumption
    | (rintro x y (hx : Keeps s0 y))
    | (rintro x y z w (hx : Keeps s0 w))
    | (rintro x y z (hx : Keeps s0 z))
    | (rintro y (hx : Keeps s0 y))
    | (rintro x y (hx : Keeps s0 y.1))
    | (rintro x y (hx : Keeps s0 y.2))
    | lift_lets
    | (intro x; refine keeps_cut (x := x) (a := s0) ?_ ?_; subst x; rotate_left; clear_value x; intro hx)
    | (intro x; subst x)
    | simp -zeta only [keeps_upd]
    | with_reducible first | apply setAdd_keeps | apply holdCount_keeps
    | with_reducible apply keeps_foldl
    | with_reducible apply keeps_foldl1
    | with_reducible apply keeps_foldl2
    | with_reducible exact hx

theorem takeHeld_keeps (sh : List Share) (role : Nat) (rn : Redn) (x : Share) (b : Nat) (s : State) (hs : Keeps s0 s) :
    Keeps s0 (takeHeld sh role rn x b s).1 := by
  unfold takeHeld
  repeat' first
    | with_reducible assumption
    | (rintro x y (hx : Keeps s0 y))
    | (rintro x y z w (hx : Keeps s0 w))
    | (rintro x y z (hx : Keeps s0 z))
    | (rintro y (hx : Keeps s0 y))
    | (rintro x y (hx : Keeps s0 y.1))
    | (rintro x y (hx : Keeps s0 y.2))
    | lift_lets
    | (intro x; refine keeps_cut (x := x) (a := s0) ?_ ?_; subst x; rotate_left; clear_value x; intro hx)
    | (intro x; subst x)
    | simp -zeta only [keeps_upd]
    | with_reducible first | apply compareCopy_keeps | apply substitute_keeps | apply addBlock_keeps | apply freeHeld_keeps
    | with_reducible apply keeps_foldl
    | with_reducible apply keeps_foldl1
    | with_reducible apply keeps_foldl2
    | with_reducible exact hx
    | split

theorem takeBlock_keeps (sh : List Share) (role : Nat) (rn : Redn) (wide part backup mark : Bool) (x : Share) (src b : Nat) (g : GBlock) (s : State) (hs : Keeps s0 s) :
    Keeps s0 (takeBlock sh role rn wide part backup mark x src b g s).1 := by
  unfold takeBlock
  repeat' first
    | with_reducible assumption
    | (rintro x y (hx : Keeps s0 y))
    | (rintro x y z w (hx : Keeps s0 w))
    | (rintro x y z (hx : Keeps s0 z))
    | (rintro y (hx : Keeps s0 y))
    | (rintro x y (hx : Keeps s0 y.1))
    | (rintro x y (hx : Keeps s0 y.2))
    | lift_lets
    | (intro x; refine keeps_cut (x := x) (a := s0) ?_ ?_; subst x; rotate_left; clear_value x; intro hx)
    | (intro x; subst x)
    | simp -zeta only [keeps_upd]
    | with_reducible first | apply bump_keeps | apply setErr_keeps | apply setAdd_keeps | apply holdCount_keeps | apply compareCopy_keeps | apply substitute_keeps | apply resendRed_keeps | apply addBlock_keeps | apply freeHeld_keeps | apply takeHeld_keeps
    | with_reducible apply keeps_foldl
    | with_reducible apply keeps_foldl1
    | with_reducible apply keeps_foldl2
    | with_reducible exact hx
    | with_reducible apply keeps_ite
    | split

theorem takeBlocks_keeps (sh : List Share) (role : Nat) (rn : Redn) (wide part backup mark : Bool) (x : Share) (src : Nat) : ∀ (a0 : List (Nat × GBlock)) (s : State), Keeps s0 s →
    Keeps s0 (takeBlocks sh role rn wide part backup mark x src a0 s) := by
  intro a0
  induction a0 with
  | nil => intro s hs; unfold takeBlocks; first | exact hs | (split <;> exact hs)
  | cons b l ih =>
    intro s hs
    unfold takeBlocks
    repeat' first
      | with_reducible assumption
      | with_reducible apply ih
      | (rintro x y (hx : Keeps s0 y))
      | (rintro x y z w (hx : Keeps s0 w))
      | (rintro x y z (hx : Keeps s0 z))
      | (rintro y (hx : Keeps s0 y))
      | (rintro x y (hx : Keeps s0 y.1))
      | (rintro x y (hx : Keeps s0 y.2))
      | lift_lets
      | (intro x; refine keeps_cut (x := x) (a := s0) ?_ ?_; subst x; rotate_left; clear_value x; intro hx)
      | (intro x; subst x)
      | with_reducible first | apply takeBlock_keeps
      | with_reducible apply keeps_ite
      | split

theorem sendBlocks_keeps (hdr : RFrame) (rn : Redn) (wide part : Bool) (dst : List Nat) (bl : List (Nat × GBlock)) (s : State) (hs : Keeps s0 s) :
    Keeps s0 (sendBlocks hdr rn wide part dst bl s) := by
  unfold sendBlocks
  repeat' first
    | with_reducible assumption
    | (rintro x y (hx : Keeps s0 y))
    | (rintro x y z w (hx : Keeps s0 w))
    | (rintro x y z (hx : Keeps s0 z))
    | (rintro y (hx : Keeps s0 y))
    | (rintro x y (hx : Keeps s0 y.1))
    | (rintro x y (hx : Keeps s0 y.2))
    | lift_lets
    | (intro x; refine keeps_cut (x := x) (a := s0) ?_ ?_; subst x; rotate_left; clear_value x; intro hx)
    | (intro x; subst x)
    | simp -zeta only [keeps_upd]
    | with_reducible first | apply forAll_keeps | apply sendAll_keeps

theorem sendRun_keeps (rn : Redn) (x : Share) (backup : Bool) (dst : List Nat) (s : State) (hs : Keeps s0 s) :
    Keeps s0 (sendRun rn x backup dst s) := by
  unfold sendRun
  repeat' first
    | with_reducible assumption
    | (rintro x y (hx : Keeps s0 y))
    | (rintro x y z w (hx : Keeps s0 w))
    | (rintro x y z (hx : Keeps s0 z))
    | (rintro y (hx : Keeps s0 y))
    | (rintro x y (hx : Keeps s0 y.1))
    | (rintro x y (hx : Keeps s0 y.2))
    | lift_lets
    | (intro x; refine keeps_cut (x := x) (a := s0) ?_ ?_; subst x; rotate_left; clear_value x; intro hx)
    | (intro x; subst x)
    | simp -zeta only [keeps_upd]
    | with_reducible first | apply forAll_keeps | apply setRed_keeps | apply touchKept_keeps | apply prtResAll_keeps | apply sendBlocks_keeps | apply run_keeps
    | with_reducible apply keeps_ite
    | split

theorem offerShare_keeps (ch : Chan) (sh : List Share) (x : Share) (backup : Bool) : ∀ (a0 : List Redn) (s : State), Keeps s0 s →
    Keeps s0 (offerShare ch sh x backup a0 s) := by
  intro a0
  induction a0 with
  | nil => intro s hs; unfold offerShare; first | exact hs | (split <;> exact hs)
  | cons b l ih =>
    intro s hs
    unfold offerShare
    repeat' first
      | with_reducible assumption
      | with_reducible apply ih
      | (rintro x y (hx : Keeps s0 y))
      | (rintro x y z w (hx : Keeps s0 w))
      | (rintro x y z (hx : Keeps s0 z))
      | (rintro y (hx : Keeps s0 y))
      | (rintro x y (hx : Keeps s0 y.1))
      | (rintro x y (hx : Keeps s0 y.2))
      | lift_lets
      | (intro x; refine keeps_cut (x := x) (a := s0) ?_ ?_; subst x; rotate_left; clear_value x; intro hx)
      | (intro x; subst x)
      | with_reducible first | apply sendRun_keeps
      | with_reducible apply keeps_ite
      | split

theorem offerChan_keeps (p : Plan) (ch : Chan) (s : State) (hs : Keeps s0 s) :
    Keeps s0 (offerChan p ch s) := by
  unfold offerChan
  repeat' first
    | with_reducible assumption
    | (rintro x y (hx : Keeps s0 y))
    | (rintro x y z w (hx : Keeps s0 w))
    | (rintro x y z (hx : Keeps s0 z))
    | (rintro y (hx : Keeps s0 y))
    | (rintro x y (hx : Keeps s0 y.1))
    | (rintro x y (hx : Keeps s0 y.2))
    | with_reducible first | apply forAll_keeps | apply offerShare_keeps
    | with_reducible apply keeps_ite
    | split

theorem takeOwn_keeps (ch : Chan) (sh : List Share) (rn : Redn) (s : State) (hs : Keeps s0 s) :
    Keeps s0 (takeOwn ch sh rn s) := by
  unfold takeOwn
  repeat' first
    | with_reducible assumption
    | (rintro x y (hx : Keeps s0 y))
    | (rintro x y z w (hx : Keeps s0 w))
    | (rintro x y z (hx : Keeps s0 z))
    | (rintro y (hx : Keeps s0 y))
    | (rintro x y (hx : Keeps s0 y.1))
    | (rintro x y (hx : Keeps s0 y.2))
    | lift_lets
    | (intro x; refine keeps_cut (x := x) (a := s0) ?_ ?_; subst x; rotate_left; clear_value x; intro hx)
    | (intro x; subst x)
    | simp -zeta only [keeps_upd]
    | with_reducible first | apply forAll_keeps | apply setAdd_keeps | apply touchKept_keeps | apply takeBlocks_keeps | apply run_keeps
    | with_reducible apply keeps_ite
    | split

theorem flushPartials_keeps (ch : Chan) (sh : List Share) (role : Nat) (rn : Redn) (s : State) (hs : Keeps s0 s) :
    Keeps s0 (flushPartials ch sh role rn s) := by
  unfold flushPartials
  repeat' first
    | with_reducible assumption
    | (rintro x y (hx : Keeps s0 y))
    | (rintro x y z w (hx : Keeps s0 w))
    | (rintro x y z (hx : Keeps s0 z))
    | (rintro y (hx : Keeps s0 y))
    | (rintro x y (hx : Keeps s0 y.1))
    | (rintro x y (hx : Keeps s0 y.2))
    | lift_lets
    | (intro x; refine keeps_cut (x := x) (a := s0) ?_ ?_; subst x; rotate_left; clear_value x; intro hx)
    | (intro x; subst x)
    | simp -zeta only [keeps_upd]
    | with_reducible first | apply setAdd_keeps | apply addFails_keeps | apply sendBlocks_keeps | apply run_keeps
    | with_reducible apply keeps_ite
    | split

theorem readySums_keeps (p : Plan) (rn : Redn) (before s : State) (hbefore : Keeps s0 before) (hs : Keeps s0 s) :
    Keeps s0 (readySums p rn before s) := by
  unfold readySums
  repeat' first
    | with_reducible assumption
    | (rintro x y (hx : Keeps s0 y))
    | (rintro x y z w (hx : Keeps s0 w))
    | (rintro x y z (hx : Keeps s0 z))
    | (rintro y (hx : Keeps s0 y))
    | (rintro x y (hx : Keeps s0 y.1))
    | (rintro x y (hx : Keeps s0 y.2))
    | lift_lets
    | (intro x; refine keeps_cut (x := x) (a := s0) ?_ ?_; subst x; rotate_left; clear_value x; intro hx)
    | (intro x; subst x)
    | simp -zeta only [keeps_upd]
    | with_reducible first | apply forAll_keeps | apply setDie_keeps
    | split

theorem reportChan_keeps (p : Plan) (ch : Chan) : ∀ (a0 : List Redn) (s : State), Keeps s0 s →
    Keeps s0 (reportChan p ch a0 s) := by
  intro a0
  induction a0 with
  | nil => intro s hs; unfold reportChan; first | exact hs | (split <;> exact hs)
  | cons b l ih =>
    intro s hs
    unfold reportChan
    repeat' first
      | with_reducible assumption
      | with_reducible apply ih
      | (rintro x y (hx : Keeps s0 y))
      | (rintro x y z w (hx : Keeps s0 w))
      | (rintro x y z (hx : Keeps s0 z))
      | (rintro y (hx : Keeps s0 y))
      | (rintro x y (hx : Keeps s0 y.1))
      | (rintro x y (hx : Keeps s0 y.2))
      | lift_lets
      | (intro x; refine keeps_cut (x := x) (a := s0) ?_ ?_; subst x; rotate_left; clear_value x; intro hx)
      | (intro x; subst x)
      | simp -zeta only [keeps_upd]
      | with_reducible first | apply setAdd_keeps | apply readySums_keeps
      | with_reducible apply keeps_ite
      | split

theorem logNumSat_keeps (rn : Redn) (role : Nat) (s : State) (hs : Keeps s0 s) :
    Keeps s0 (logNumSat rn role s) := by
  unfold logNumSat
  repeat' first
    | with_reducible assumption
    | (rintro x y (hx : Keeps s0 y))
    | (rintro x y z w (hx : Keeps s0 w))
    | (rintro x y z (hx : Keeps s0 z))
    | (rintro y (hx : Keeps s0 y))
    | (rintro x y (hx : Keeps s0 y.1))
    | (rintro x y (hx : Keeps s0 y.2))
    | lift_lets
    | (intro x; refine keeps_cut (x := x) (a := s0) ?_ ?_; subst x; rotate_left; clear_value x; intro hx)
    | (intro x; subst x)
    | with_reducible first | apply bump_keeps | apply setErr_keeps | apply forAll_keeps | apply reduceItem_keeps
    | with_reducible apply keeps_ite
    | split

theorem completeHome_keeps (p : Plan) (ch : Chan) (sh : List Share) (rn : Redn) (s : State) (hs : Keeps s0 s) :
    Keeps s0 (completeHome p ch sh rn s) := by
  unfold completeHome
  repeat' first
    | with_reducible assumption
    | (rintro x y (hx : Keeps s0 y))
    | (rintro x y z w (hx : Keeps s0 w))
    | (rintro x y z (hx : Keeps s0 z))
    | (rintro y (hx : Keeps s0 y))
    | (rintro x y (hx : Keeps s0 y.1))
    | (rintro x y (hx : Keeps s0 y.2))
    | lift_lets
    | (intro x; refine keeps_cut (x := x) (a := s0) ?_ ?_; subst x; rotate_left; clear_value x; intro hx)
    | (intro x; subst x)
    | simp -zeta only [keeps_upd]
    | with_reducible first | apply setAdd_keeps | apply addFails_keeps | apply reportChan_keeps | apply logNumSat_keeps
    | split

theorem completeRun_keeps (p : Plan) (ch : Chan) (sh : List Share) : ∀ (a0 : List Redn) (s : State), Keeps s0 s →
    Keeps s0 (completeRun p ch sh a0 s) := by
  intro a0
  induction a0 with
  | nil => intro s hs; unfold completeRun; first | exact hs | (split <;> exact hs)
  | cons b l ih =>
    intro s hs
    unfold completeRun
    repeat' first
      | with_reducible assumption
      | with_reducible apply ih
      | (rintro x y (hx : Keeps s0 y))
      | (rintro x y z w (hx : Keeps s0 w))
      | (rintro x y z (hx : Keeps s0 z))
      | (rintro y (hx : Keeps s0 y))
      | (rintro x y (hx : Keeps s0 y.1))
      | (rintro x y (hx : Keeps s0 y.2))
      | lift_lets
      | (intro x; refine keeps_cut (x := x) (a := s0) ?_ ?_; subst x; rotate_left; clear_value x; intro hx)
      | (intro x; subst x)
      | with_reducible first | apply completeHome_keeps
      | with_reducible apply keeps_ite
      | split

theorem flushRun_keeps (ch : Chan) (sh : List Share) (role : Nat) : ∀ (a0 : List Redn) (s : State), Keeps s0 s →
    Keeps s0 (flushRun ch sh role a0 s) := by
  intro a0
  induction a0 with
  | nil => intro s hs; unfold flushRun; first | exact hs | (split <;> exact hs)
  | cons b l ih =>
    intro s hs
    unfold flushRun
    repeat' first
      | with_reducible assumption
      | with_reducible apply ih
      | (rintro x y (hx : Keeps s0 y))
      | (rintro x y z w (hx : Keeps s0 w))
      | (rintro x y z (hx : Keeps s0 z))
      | (rintro y (hx : Keeps s0 y))
      | (rintro x y (hx : Keeps s0 y.1))
      | (rintro x y (hx : Keeps s0 y.2))
      | lift_lets
      | (intro x; refine keeps_cut (x := x) (a := s0) ?_ ?_; subst x; rotate_left; clear_value x; intro hx)
      | (intro x; subst x)
      | with_reducible first | apply flushPartials_keeps
      | with_reducible apply keeps_ite
      | split

theorem setE_keeps (sh : List Share) (role : Nat) (rn : Redn) (s : State) (hs : Keeps s0 s) :
    Keeps s0 (setE sh role rn s) := by
  unfold setE
  repeat' first
    | with_reducible assumption
    | (rintro x y (hx : Keeps s0 y))
    | (rintro x y z w (hx : Keeps s0 w))
    | (rintro x y z (hx : Keeps s0 z))
    | (rintro y (hx : Keeps s0 y))
    | (rintro x y (hx : Keeps s0 y.1))
    | (rintro x y (hx : Keeps s0 y.2))
    | lift_lets
    | (intro x; refine keeps_cut (x := x) (a := s0) ?_ ?_; subst x; rotate_left; clear_value x; intro hx)
    | (intro x; subst x)
    | simp -zeta only [keeps_upd]
    | with_reducible first | apply setAdd_keeps
    | with_reducible apply keeps_ite
    | split

theorem moveHold_keeps (sh : List Share) (role : Nat) (rn : Redn) (s : State) (hs : Keeps s0 s) :
    Keeps s0 (moveHold sh role rn s) := by
  unfold moveHold
  repeat' first
    | with_reducible assumption
    | (rintro x y (hx : Keeps s0 y))
    | (rintro x y z w (hx : Keeps s0 w))
    | (rintro x y z (hx : Keeps s0 z))
    | (rintro y (hx : Keeps s0 y))
    | (rintro x y (hx : Keeps s0 y.1))
    | (rintro x y (hx : Keeps s0 y.2))
    | lift_lets
    | (intro x; refine keeps_cut (x := x) (a := s0) ?_ ?_; subst x; rotate_left; clear_value x; intro hx)
    | (intro x; subst x)
    | simp -zeta only [keeps_upd]
    | with_reducible first | apply setAdd_keeps
    | with_reducible apply keeps_ite
    | split

theorem progressRole_keeps (p : Plan) (ch : Chan) (role : Nat) (s : State) (hs : Keeps s0 s) :
    Keeps s0 (progressRole p ch role s) := by
  unfold progressRole
  repeat' first
    | with_reducible assumption
    | (rintro x y (hx : Keeps s0 y))
    | (rintro x y z w (hx : Keeps s0 w))
    | (rintro x y z (hx : Keeps s0 z))
    | (rintro y (hx : Keeps s0 y))
    | (rintro x y (hx : Keeps s0 y.1))
    | (rintro x y (hx : Keeps s0 y.2))
    | lift_lets
    | (intro x; refine keeps_cut (x := x) (a := s0) ?_ ?_; subst x; rotate_left; clear_value x; intro hx)
    | (intro x; subst x)
    | with_reducible first | apply forAll_keeps | apply completeRun_keeps | apply flushRun_keeps | apply setE_keeps | apply moveHold_keeps
    | with_reducible apply keeps_ite
    | split

theorem progress_keeps (p : Plan) (ch : Chan) (s : State) (hs : Keeps s0 s) :
    Keeps s0 (progress p ch s) := by
  unfold progress
  repeat' first
    | with_reducible assumption
    | (rintro x y (hx : Keeps s0 y))
    | (rintro x y z w (hx : Keeps s0 w))
    | (rintro x y z (hx : Keeps s0 z))
    | (rintro y (hx : Keeps s0 y))
    | (rintro x y (hx : Keeps s0 y.1))
    | (rintro x y (hx : Keeps s0 y.2))
    | lift_lets
    | (intro x; refine keeps_cut (x := x) (a := s0) ?_ ?_; subst x; rotate_left; clear_value x; intro hx)
    | (intro x; subst x)
    | simp -zeta only [keeps_upd]
    | with_reducible first | apply forAll_keeps | apply setChan_keeps | apply progressRole_keeps
    | with_reducible apply keeps_ite
    | split

theorem offerRound_keeps (p : Plan) (ch : Chan) (s : State) (hs : Keeps s0 s) :
    Keeps s0 (offerRound p ch s) := by
  unfold offerRound
  repeat' first
    | with_reducible assumption
    | (rintro x y (hx : Keeps s0 y))
    | (rintro x y z w (hx : Keeps s0 w))
    | (rintro x y z (hx : Keeps s0 z))
    | (rintro y (hx : Keeps s0 y))
    | (rintro x y (hx : Keeps s0 y.1))
    | (rintro x y (hx : Keeps s0 y.2))
    | with_reducible first | apply forAll_keeps | apply offerChan_keeps | apply takeOwn_keeps | apply progress_keeps

theorem offerAll_keeps (p : Plan) (ch : Chan) (s : State) (hs : Keeps s0 s) :
    Keeps s0 (offerAll p ch s) := by
  unfold offerAll
  repeat' first
    | with_reducible assumption
    | (rintro x y (hx : Keeps s0 y))
    | (rintro x y z w (hx : Keeps s0 w))
    | (rintro x y z (hx : Keeps s0 z))
    | (rintro y (hx : Keeps s0 y))
    | (rintro x y (hx : Keeps s0 y.1))
    | (rintro x y (hx : Keeps s0 y.2))
    | with_reducible first | apply offerRound_keeps

theorem widenRed_keeps (p : Plan) (ch : Chan) (rn : Redn) (s : State) (hs : Keeps s0 s) :
    Keeps s0 (widenRed p ch rn s) := by
  unfold widenRed
  repeat' first
    | with_reducible assumption
    | (rintro x y (hx : Keeps s0 y))
    | (rintro x y z w (hx : Keeps s0 w))
    | (rintro x y z (hx : Keeps s0 z))
    | (rintro y (hx : Keeps s0 y))
    | (rintro x y (hx : Keeps s0 y.1))
    | (rintro x y (hx : Keeps s0 y.2))
    | lift_lets
    | (intro x; refine keeps_cut (x := x) (a := s0) ?_ ?_; subst x; rotate_left; clear_value x; intro hx)
    | (intro x; subst x)
    | simp -zeta only [keeps_upd]
    | with_reducible first | apply bump_keeps | apply forAll_keeps | apply setRed_keeps | apply setChan_keeps | apply sendAll_keeps | apply reduceItem_keeps | apply restartRed_keeps | apply offerAll_keeps
    | with_reducible apply keeps_ite
    | split

theorem takeFrame_keeps (p : Plan) (ch : Chan) (rn : Redn) (role : Nat) (f : RFrame) (wide part : Bool) (s : State) (hs : Keeps s0 s) :
    Keeps s0 (takeFrame p ch rn role f wide part s) := by
  unfold takeFrame
  repeat' first
    | with_reducible assumption
    | (rintro x y (hx : Keeps s0 y))
    | (rintro x y z w (hx : Keeps s0 w))
    | (rintro x y z (hx : Keeps s0 z))
    | (rintro y (hx : Keeps s0 y))
    | (rintro x y (hx : Keeps s0 y.1))
    | (rintro x y (hx : Keeps s0 y.2))
    | lift_lets
    | (intro x; refine keeps_cut (x := x) (a := s0) ?_ ?_; subst x; rotate_left; clear_value x; intro hx)
    | (intro x; subst x)
    | simp -zeta only [keeps_upd]
    | with_reducible first | apply setAdd_keeps | apply takeBlocks_keeps | apply offerAll_keeps | apply widenRed_keeps
    | with_reducible apply keeps_ite
    | split

theorem drainQueue_keeps (p : Plan) (ch : Chan) : ∀ (a0 : Nat) (s : State), Keeps s0 s →
    Keeps s0 (drainQueue p ch a0 s) := by
  intro a0
  induction a0 with
  | zero => intro s hs; unfold drainQueue; first | exact hs | (split <;> exact hs)
  | succ n ih =>
    intro s hs
    unfold drainQueue
    repeat' first
      | with_reducible assumption
      | with_reducible apply ih
      | (rintro x y (hx : Keeps s0 y))
      | (rintro x y z w (hx : Keeps s0 w))
      | (rintro x y z (hx : Keeps s0 z))
      | (rintro y (hx : Keeps s0 y))
      | (rintro x y (hx : Keeps s0 y.1))
      | (rintro x y (hx : Keeps s0 y.2))
      | lift_lets
      | (intro x; refine keeps_cut (x := x) (a := s0) ?_ ?_; subst x; rotate_left; clear_value x; intro hx)
      | (intro x; subst x)
      | simp -zeta only [keeps_upd]
      | with_reducible first | apply bump_keeps | apply takeFrame_keeps
      | with_reducible apply keeps_ite
      | split

theorem drainAll_keeps (p : Plan) (ch : Chan) (s : State) (hs : Keeps s0 s) :
    Keeps s0 (drainAll p ch s) := by
  unfold drainAll
  repeat' first
    | with_reducible assumption
    | (rintro x y (hx : Keeps s0 y))
    | (rintro x y z w (hx : Keeps s0 w))
    | (rintro x y z (hx : Keeps s0 z))
    | (rintro y (hx : Keeps s0 y))
    | (rintro x y (hx : Keeps s0 y.1))
    | (rintro x y (hx : Keeps s0 y.2))
    | with_reducible first | apply drainQueue_keeps

theorem redIn_keeps (f : RFrame) (k : Plan → State → State) (s : State)
    (hk : ∀ x0 x1, Keeps s0 x1 → Keeps s0 (k x0 x1)) (hs : Keeps s0 s) :
    Keeps s0 (redIn f k s) := by
  unfold redIn
  repeat' first
    | with_reducible assumption
    | (rintro x y (hx : Keeps s0 y))
    | (rintro x y z w (hx : Keeps s0 w))
    | (rintro x y z (hx : Keeps s0 z))
    | (rintro y (hx : Keeps s0 y))
    | (rintro x y (hx : Keeps s0 y.1))
    | (rintro x y (hx : Keeps s0 y.2))
    | lift_lets
    | (intro x; refine keeps_cut (x := x) (a := s0) ?_ ?_; subst x; rotate_left; clear_value x; intro hx)
    | (intro x; subst x)
    | simp -zeta only [keeps_upd]
    | with_reducible first | apply bump_keeps | apply mismatch_keeps
    | with_reducible first | apply hk
    | with_reducible apply keeps_ite
    | split

theorem takeCopy_keeps (p : Plan) (ch : Chan) (rn : Redn) (role : Nat) (f : RFrame) (s : State) (hs : Keeps s0 s) :
    Keeps s0 (takeCopy p ch rn role f s) := by
  unfold takeCopy
  repeat' first
    | with_reducible assumption
    | (rintro x y (hx : Keeps s0 y))
    | (rintro x y z w (hx : Keeps s0 w))
    | (rintro x y z (hx : Keeps s0 z))
    | (rintro y (hx : Keeps s0 y))
    | (rintro x y (hx : Keeps s0 y.1))
    | (rintro x y (hx : Keeps s0 y.2))
    | lift_lets
    | (intro x; refine keeps_cut (x := x) (a := s0) ?_ ?_; subst x; rotate_left; clear_value x; intro hx)
    | (intro x; subst x)
    | simp -zeta only [keeps_upd]
    | with_reducible first | apply setAdd_keeps | apply takeFrame_keeps | apply drainAll_keeps
    | with_reducible apply keeps_ite
    | split

theorem contribIn_keeps (f : RFrame) (s : State) (hs : Keeps s0 s) :
    Keeps s0 (contribIn f s) := by
  unfold contribIn
  repeat' first
    | with_reducible assumption
    | (rintro x y (hx : Keeps s0 y))
    | (rintro x y z w (hx : Keeps s0 w))
    | (rintro x y z (hx : Keeps s0 z))
    | (rintro y (hx : Keeps s0 y))
    | (rintro x y (hx : Keeps s0 y.1))
    | (rintro x y (hx : Keeps s0 y.2))
    | lift_lets
    | (intro x; refine keeps_cut (x := x) (a := s0) ?_ ?_; subst x; rotate_left; clear_value x; intro hx)
    | (intro x; subst x)
    | simp -zeta only [keeps_upd]
    | with_reducible first | apply bump_keeps | apply mismatch_keeps | apply redIn_keeps | apply takeCopy_keeps
    | with_reducible apply keeps_ite
    | split

theorem sendAgain_keeps (p : Plan) (ch : Chan) (rn : Redn) (asks : Nat) (s : State) (hs : Keeps s0 s) :
    Keeps s0 (sendAgain p ch rn asks s) := by
  unfold sendAgain
  repeat' first
    | with_reducible assumption
    | (rintro x y (hx : Keeps s0 y))
    | (rintro x y z w (hx : Keeps s0 w))
    | (rintro x y z (hx : Keeps s0 z))
    | (rintro y (hx : Keeps s0 y))
    | (rintro x y (hx : Keeps s0 y.1))
    | (rintro x y (hx : Keeps s0 y.2))
    | lift_lets
    | (intro x; refine keeps_cut (x := x) (a := s0) ?_ ?_; subst x; rotate_left; clear_value x; intro hx)
    | (intro x; subst x)
    | simp -zeta only [keeps_upd]
    | with_reducible first | apply forAll_keeps | apply setRed_keeps | apply setAdd_keeps | apply sendRun_keeps | apply flushPartials_keeps

theorem resendIn_keeps (f : RFrame) (s : State) (hs : Keeps s0 s) :
    Keeps s0 (resendIn f s) := by
  unfold resendIn
  repeat' first
    | with_reducible assumption
    | (rintro x y (hx : Keeps s0 y))
    | (rintro x y z w (hx : Keeps s0 w))
    | (rintro x y z (hx : Keeps s0 z))
    | (rintro y (hx : Keeps s0 y))
    | (rintro x y (hx : Keeps s0 y.1))
    | (rintro x y (hx : Keeps s0 y.2))
    | lift_lets
    | (intro x; refine keeps_cut (x := x) (a := s0) ?_ ?_; subst x; rotate_left; clear_value x; intro hx)
    | (intro x; subst x)
    | simp -zeta only [keeps_upd]
    | with_reducible first | apply mismatch_keeps | apply redIn_keeps | apply sendAgain_keeps
    | with_reducible apply keeps_ite
    | split

theorem goWide_keeps (p : Plan) (ch : Chan) (rn : Redn) (s : State) (hs : Keeps s0 s) :
    Keeps s0 (goWide p ch rn s) := by
  unfold goWide
  repeat' first
    | with_reducible assumption
    | (rintro x y (hx : Keeps s0 y))
    | (rintro x y z w (hx : Keeps s0 w))
    | (rintro x y z (hx : Keeps s0 z))
    | (rintro y (hx : Keeps s0 y))
    | (rintro x y (hx : Keeps s0 y.1))
    | (rintro x y (hx : Keeps s0 y.2))
    | lift_lets
    | (intro x; refine keeps_cut (x := x) (a := s0) ?_ ?_; subst x; rotate_left; clear_value x; intro hx)
    | (intro x; subst x)
    | simp -zeta only [keeps_upd]
    | with_reducible first | apply forAll_keeps | apply setRed_keeps | apply setChan_keeps | apply restartRed_keeps | apply offerAll_keeps
    | with_reducible apply keeps_ite
    | split

theorem widenIn_keeps (f : RFrame) (s : State) (hs : Keeps s0 s) :
    Keeps s0 (widenIn f s) := by
  unfold widenIn
  repeat' first
    | with_reducible assumption
    | (rintro x y (hx : Keeps s0 y))
    | (rintro x y z w (hx : Keeps s0 w))
    | (rintro x y z (hx : Keeps s0 z))
    | (rintro y (hx : Keeps s0 y))
    | (rintro x y (hx : Keeps s0 y.1))
    | (rintro x y (hx : Keeps s0 y.2))
    | lift_lets
    | (intro x; refine keeps_cut (x := x) (a := s0) ?_ ?_; subst x; rotate_left; clear_value x; intro hx)
    | (intro x; subst x)
    | simp -zeta only [keeps_upd]
    | with_reducible first | apply mismatch_keeps | apply redIn_keeps | apply goWide_keeps
    | with_reducible apply keeps_ite
    | split

theorem takeAllHeld_keeps (sh : List Share) (role : Nat) (rn : Redn) (x : Share) : ∀ (a0 : List Nat) (s : State), Keeps s0 s →
    Keeps s0 (takeAllHeld sh role rn x a0 s) := by
  intro a0
  induction a0 with
  | nil => intro s hs; unfold takeAllHeld; first | exact hs | (split <;> exact hs)
  | cons b l ih =>
    intro s hs
    unfold takeAllHeld
    repeat' first
      | with_reducible assumption
      | with_reducible apply ih
      | (rintro x y (hx : Keeps s0 y))
      | (rintro x y z w (hx : Keeps s0 w))
      | (rintro x y z (hx : Keeps s0 z))
      | (rintro y (hx : Keeps s0 y))
      | (rintro x y (hx : Keeps s0 y.1))
      | (rintro x y (hx : Keeps s0 y.2))
      | lift_lets
      | (intro x; refine keeps_cut (x := x) (a := s0) ?_ ?_; subst x; rotate_left; clear_value x; intro hx)
      | (intro x; subst x)
      | with_reducible first | apply takeHeld_keeps
      | with_reducible apply keeps_ite
      | split

theorem passDeadline_keeps (p : Plan) (ch : Chan) (rn : Redn) (role e : Nat) (s : State) (hs : Keeps s0 s) :
    Keeps s0 (passDeadline p ch rn role e s) := by
  unfold passDeadline
  repeat' first
    | with_reducible assumption
    | (rintro x y (hx : Keeps s0 y))
    | (rintro x y z w (hx : Keeps s0 w))
    | (rintro x y z (hx : Keeps s0 z))
    | (rintro y (hx : Keeps s0 y))
    | (rintro x y (hx : Keeps s0 y.1))
    | (rintro x y (hx : Keeps s0 y.2))
    | lift_lets
    | (intro x; refine keeps_cut (x := x) (a := s0) ?_ ?_; subst x; rotate_left; clear_value x; intro hx)
    | (intro x; subst x)
    | simp -zeta only [keeps_upd]
    | with_reducible first | apply setErr_keeps | apply forAll_keeps | apply setAdd_keeps | apply resendRed_keeps | apply offerAll_keeps | apply drainAll_keeps | apply takeAllHeld_keeps
    | with_reducible apply keeps_ite
    | split

theorem contribDeadline_keeps (c q : Nat) (s : State) (hs : Keeps s0 s) :
    Keeps s0 (contribDeadline c q s) := by
  unfold contribDeadline
  repeat' first
    | with_reducible assumption
    | (rintro x y (hx : Keeps s0 y))
    | (rintro x y z w (hx : Keeps s0 w))
    | (rintro x y z (hx : Keeps s0 z))
    | (rintro y (hx : Keeps s0 y))
    | (rintro x y (hx : Keeps s0 y.1))
    | (rintro x y (hx : Keeps s0 y.2))
    | lift_lets
    | (intro x; refine keeps_cut (x := x) (a := s0) ?_ ?_; subst x; rotate_left; clear_value x; intro hx)
    | (intro x; subst x)
    | simp -zeta only [keeps_upd]
    | with_reducible first | apply passDeadline_keeps
    | with_reducible apply keeps_ite
    | split

theorem omitNow_keeps (p : Plan) (ch : Chan) (rn : Redn) (role : Nat) (s : State) (hs : Keeps s0 s) :
    Keeps s0 (omitNow p ch rn role s) := by
  unfold omitNow
  repeat' first
    | with_reducible assumption
    | (rintro x y (hx : Keeps s0 y))
    | (rintro x y z w (hx : Keeps s0 w))
    | (rintro x y z (hx : Keeps s0 z))
    | (rintro y (hx : Keeps s0 y))
    | (rintro x y (hx : Keeps s0 y.1))
    | (rintro x y (hx : Keeps s0 y.2))
    | lift_lets
    | (intro x; refine keeps_cut (x := x) (a := s0) ?_ ?_; subst x; rotate_left; clear_value x; intro hx)
    | (intro x; subst x)
    | simp -zeta only [keeps_upd]
    | with_reducible first | apply bump_keeps | apply forAll_keeps | apply setAdd_keeps | apply reduceItem_keeps | apply freeHeld_keeps | apply offerAll_keeps | apply drainAll_keeps

theorem omitShares_keeps (c : Nat) (s : State) (hs : Keeps s0 s) :
    Keeps s0 (omitShares c s) := by
  unfold omitShares
  repeat' first
    | with_reducible assumption
    | (rintro x y (hx : Keeps s0 y))
    | (rintro x y z w (hx : Keeps s0 w))
    | (rintro x y z (hx : Keeps s0 z))
    | (rintro y (hx : Keeps s0 y))
    | (rintro x y (hx : Keeps s0 y.1))
    | (rintro x y (hx : Keeps s0 y.2))
    | lift_lets
    | (intro x; refine keeps_cut (x := x) (a := s0) ?_ ?_; subst x; rotate_left; clear_value x; intro hx)
    | (intro x; subst x)
    | simp -zeta only [keeps_upd]
    | with_reducible first | apply omitNow_keeps
    | split

theorem resetChan_keeps (c : Nat) (s : State) (hs : Keeps s0 s) :
    Keeps s0 (resetChan c s) := by
  unfold resetChan
  repeat' first
    | with_reducible assumption
    | (rintro x y (hx : Keeps s0 y))
    | (rintro x y z w (hx : Keeps s0 w))
    | (rintro x y z (hx : Keeps s0 z))
    | (rintro y (hx : Keeps s0 y))
    | (rintro x y (hx : Keeps s0 y.1))
    | (rintro x y (hx : Keeps s0 y.2))
    | lift_lets
    | (intro x; refine keeps_cut (x := x) (a := s0) ?_ ?_; subst x; rotate_left; clear_value x; intro hx)
    | (intro x; subst x)
    | simp -zeta only [keeps_upd]
    | with_reducible first | apply forAll_keeps | apply setChan_keeps | apply restartRed_keeps | apply offerAll_keeps
    | with_reducible apply keeps_ite
    | split

theorem touchX_keeps (rn : Redn) (b : Nat) (s : State) (hs : Keeps s0 s) :
    Keeps s0 (touchX rn b s) := by
  unfold touchX
  repeat' first
    | with_reducible assumption
    | (rintro x y (hx : Keeps s0 y))
    | (rintro x y z w (hx : Keeps s0 w))
    | (rintro x y z (hx : Keeps s0 z))
    | (rintro y (hx : Keeps s0 y))
    | (rintro x y (hx : Keeps s0 y.1))
    | (rintro x y (hx : Keeps s0 y.2))
    | lift_lets
    | (intro x; refine keeps_cut (x := x) (a := s0) ?_ ?_; subst x; rotate_left; clear_value x; intro hx)
    | (intro x; subst x)
    | simp -zeta only [keeps_upd]
    | with_reducible first | apply regionTouch_keeps
    | split

theorem storeKept_keeps (at_ : Option (Region × Nat)) (bs : List Byte) (s : State) (hs : Keeps s0 s) :
    Keeps s0 (storeKept at_ bs s) := by
  unfold storeKept
  repeat' first
    | with_reducible assumption
    | (rintro x y (hx : Keeps s0 y))
    | (rintro x y z w (hx : Keeps s0 w))
    | (rintro x y z (hx : Keeps s0 z))
    | (rintro y (hx : Keeps s0 y))
    | (rintro x y (hx : Keeps s0 y.1))
    | (rintro x y (hx : Keeps s0 y.2))
    | lift_lets
    | (intro x; refine keeps_cut (x := x) (a := s0) ?_ ?_; subst x; rotate_left; clear_value x; intro hx)
    | (intro x; subst x)
    | with_reducible first | apply regionWrite_keeps
    | split

theorem collectShare_keeps (d : Die) (p : Plan) (ch : Chan) (rn : Redn) (b : Nat) (vals : List W32) (x : Share) (backup : Bool) (s : State) (hs : Keeps s0 s) :
    Keeps s0 (collectShare d p ch rn b vals x backup s) := by
  unfold collectShare
  repeat' first
    | with_reducible assumption
    | (rintro x y (hx : Keeps s0 y))
    | (rintro x y z w (hx : Keeps s0 w))
    | (rintro x y z (hx : Keeps s0 z))
    | (rintro y (hx : Keeps s0 y))
    | (rintro x y (hx : Keeps s0 y.1))
    | (rintro x y (hx : Keeps s0 y.2))
    | lift_lets
    | (intro x; refine keeps_cut (x := x) (a := s0) ?_ ?_; subst x; rotate_left; clear_value x; intro hx)
    | (intro x; subst x)
    | simp -zeta only [keeps_upd]
    | with_reducible first | apply setReg_keeps | apply bump_keeps | apply setErr_keeps | apply offerAll_keeps | apply widenRed_keeps | apply drainAll_keeps | apply touchX_keeps | apply storeKept_keeps
    | with_reducible apply keeps_ite
    | split

theorem collectBlock_keeps (d : Die) (p : Plan) (ch : Chan) (rn : Redn) (b : Nat) (vals : List W32) (s : State) (hs : Keeps s0 s) :
    Keeps s0 (collectBlock d p ch rn b vals s) := by
  unfold collectBlock
  repeat' first
    | with_reducible assumption
    | (rintro x y (hx : Keeps s0 y))
    | (rintro x y z w (hx : Keeps s0 w))
    | (rintro x y z (hx : Keeps s0 z))
    | (rintro y (hx : Keeps s0 y))
    | (rintro x y (hx : Keeps s0 y.1))
    | (rintro x y (hx : Keeps s0 y.2))
    | lift_lets
    | (intro x; refine keeps_cut (x := x) (a := s0) ?_ ?_; subst x; rotate_left; clear_value x; intro hx)
    | (intro x; subst x)
    | simp -zeta only [keeps_upd]
    | with_reducible first | apply collectShare_keeps
    | with_reducible apply keeps_ite
    | split

theorem arrCount_keeps (r : Region) (gen blk : Nat) (s : State) (hs : Keeps s0 s) :
    Keeps s0 (arrCount r gen blk s) := by
  unfold arrCount
  repeat' first
    | with_reducible assumption
    | (rintro x y (hx : Keeps s0 y))
    | (rintro x y z w (hx : Keeps s0 w))
    | (rintro x y z (hx : Keeps s0 z))
    | (rintro y (hx : Keeps s0 y))
    | (rintro x y (hx : Keeps s0 y.1))
    | (rintro x y (hx : Keeps s0 y.2))
    | lift_lets
    | (intro x; refine keeps_cut (x := x) (a := s0) ?_ ?_; subst x; rotate_left; clear_value x; intro hx)
    | (intro x; subst x)
    | simp -zeta only [keeps_upd]
    | with_reducible first | apply bump_keeps | apply setDie_keeps | apply farSignal_keeps
    | with_reducible apply keeps_ite
    | split

theorem writeCodes_keeps (r : Region) (gen el : Nat) (e : PEntry) (cscale : W32) (s : State) (hs : Keeps s0 s) :
    Keeps s0 (writeCodes r gen el e cscale s) := by
  unfold writeCodes
  repeat' first
    | with_reducible assumption
    | (rintro x y (hx : Keeps s0 y))
    | (rintro x y z w (hx : Keeps s0 w))
    | (rintro x y z (hx : Keeps s0 z))
    | (rintro y (hx : Keeps s0 y))
    | (rintro x y (hx : Keeps s0 y.1))
    | (rintro x y (hx : Keeps s0 y.2))
    | lift_lets
    | (intro x; refine keeps_cut (x := x) (a := s0) ?_ ?_; subst x; rotate_left; clear_value x; intro hx)
    | (intro x; subst x)
    | with_reducible first | apply regionWrite_keeps | apply arrCount_keeps
    | with_reducible apply keeps_ite
    | split

theorem writeExp_keeps (rn : Redn) (b : Nat) (e : PEntry) (s : State) (hs : Keeps s0 s) :
    Keeps s0 (writeExp rn b e s) := by
  unfold writeExp
  repeat' first
    | with_reducible assumption
    | (rintro x y (hx : Keeps s0 y))
    | (rintro x y z w (hx : Keeps s0 w))
    | (rintro x y z (hx : Keeps s0 z))
    | (rintro y (hx : Keeps s0 y))
    | (rintro x y (hx : Keeps s0 y.1))
    | (rintro x y (hx : Keeps s0 y.2))
    | lift_lets
    | (intro x; refine keeps_cut (x := x) (a := s0) ?_ ?_; subst x; rotate_left; clear_value x; intro hx)
    | (intro x; subst x)
    | simp -zeta only [keeps_upd]
    | with_reducible first | apply regionWrite_keeps | apply arrCount_keeps
    | split

theorem writeParam_keeps (rn : Redn) (b : Nat) (e : PEntry) (cscale : W32) (s : State) (hs : Keeps s0 s) :
    Keeps s0 (writeParam rn b e cscale s) := by
  unfold writeParam
  repeat' first
    | with_reducible assumption
    | (rintro x y (hx : Keeps s0 y))
    | (rintro x y z w (hx : Keeps s0 w))
    | (rintro x y z (hx : Keeps s0 z))
    | (rintro y (hx : Keeps s0 y))
    | (rintro x y (hx : Keeps s0 y.1))
    | (rintro x y (hx : Keeps s0 y.2))
    | lift_lets
    | (intro x; refine keeps_cut (x := x) (a := s0) ?_ ?_; subst x; rotate_left; clear_value x; intro hx)
    | (intro x; subst x)
    | simp -zeta only [keeps_upd]
    | with_reducible first | apply writeCodes_keeps | apply writeExp_keeps
    | split

theorem freeKept_keeps (ch : Chan) (rn : Redn) (s : State) (hs : Keeps s0 s) :
    Keeps s0 (freeKept ch rn s) := by
  unfold freeKept
  repeat' first
    | with_reducible assumption
    | (rintro x y (hx : Keeps s0 y))
    | (rintro x y z w (hx : Keeps s0 w))
    | (rintro x y z (hx : Keeps s0 z))
    | (rintro y (hx : Keeps s0 y))
    | (rintro x y (hx : Keeps s0 y.1))
    | (rintro x y (hx : Keeps s0 y.2))
    | lift_lets
    | (intro x; refine keeps_cut (x := x) (a := s0) ?_ ?_; subst x; rotate_left; clear_value x; intro hx)
    | (intro x; subst x)
    | simp -zeta only [keeps_upd]
    | with_reducible first | apply setReg_keeps | apply forAll_keeps | apply setRed_keeps
    | with_reducible apply keeps_ite
    | split

theorem sendDone_keeps (p : Plan) (ch : Chan) (rn : Redn) (take : Bool) (s : State) (hs : Keeps s0 s) :
    Keeps s0 (sendDone p ch rn take s) := by
  unfold sendDone
  repeat' first
    | with_reducible assumption
    | (rintro x y (hx : Keeps s0 y))
    | (rintro x y z w (hx : Keeps s0 w))
    | (rintro x y z (hx : Keeps s0 z))
    | (rintro y (hx : Keeps s0 y))
    | (rintro x y (hx : Keeps s0 y.1))
    | (rintro x y (hx : Keeps s0 y.2))
    | lift_lets
    | (intro x; refine keeps_cut (x := x) (a := s0) ?_ ?_; subst x; rotate_left; clear_value x; intro hx)
    | (intro x; subst x)
    | simp -zeta only [keeps_upd]
    | with_reducible first | apply setRed_keeps | apply sendAll_keeps | apply freeKept_keeps

theorem homeBlock_keeps (rn : Redn) (rg : Region) (gen : Nat) (cscale : W32) (e : Nat × Nat × PEntry) (s : State) (hs : Keeps s0 s) :
    Keeps s0 (homeBlock rn rg gen cscale e s) := by
  unfold homeBlock
  repeat' first
    | with_reducible assumption
    | (rintro x y (hx : Keeps s0 y))
    | (rintro x y z w (hx : Keeps s0 w))
    | (rintro x y z (hx : Keeps s0 z))
    | (rintro y (hx : Keeps s0 y))
    | (rintro x y (hx : Keeps s0 y.1))
    | (rintro x y (hx : Keeps s0 y.2))
    | lift_lets
    | (intro x; refine keeps_cut (x := x) (a := s0) ?_ ?_; subst x; rotate_left; clear_value x; intro hx)
    | (intro x; subst x)
    | with_reducible first | apply writeCodes_keeps | apply writeExp_keeps
    | with_reducible apply keeps_ite
    | split

theorem homeParams_keeps (p : Plan) (rn : Redn) (rg : Region) (gen : Nat) (es : List (Nat × Nat × PEntry)) (cscale : W32)
    (s : State) (hs : Keeps s0 s) : Keeps s0 (homeParams p rn rg gen es cscale s) := by
  have h : Keeps s0 (forAll es (homeBlock rn rg gen cscale) s) :=
    forAll_keeps _ _ _ (fun e x hx => homeBlock_keeps rn rg gen cscale e x hx) hs
  unfold homeParams
  split
  · refine keeps_ite hs (keeps_ite (keeps_ite hs ?_) (keeps_ite h (keeps_ite
      (sendDone_keeps _ _ _ _ _ (sendAll_keeps _ _ _ h)) (sendAll_keeps _ _ _ h))))
    simp -zeta only [keeps_upd]
    exact hs
  · exact hs

theorem passOn_keeps (p : Plan) (ch : Chan) (f : RFrame) (s : State) (hs : Keeps s0 s) :
    Keeps s0 (passOn p ch f s) := by
  unfold passOn
  repeat' first
    | with_reducible assumption
    | (rintro x y (hx : Keeps s0 y))
    | (rintro x y z w (hx : Keeps s0 w))
    | (rintro x y z (hx : Keeps s0 z))
    | (rintro y (hx : Keeps s0 y))
    | (rintro x y (hx : Keeps s0 y.1))
    | (rintro x y (hx : Keeps s0 y.2))
    | with_reducible first | apply sendAll_keeps
    | with_reducible apply keeps_ite
    | split

theorem takeParams_keeps (p : Plan) (ch : Chan) (rn : Redn) (f : RFrame) (s : State) (hs : Keeps s0 s) :
    Keeps s0 (takeParams p ch rn f s) := by
  unfold takeParams
  repeat' first
    | with_reducible assumption
    | (rintro x y (hx : Keeps s0 y))
    | (rintro x y z w (hx : Keeps s0 w))
    | (rintro x y z (hx : Keeps s0 z))
    | (rintro y (hx : Keeps s0 y))
    | (rintro x y (hx : Keeps s0 y.1))
    | (rintro x y (hx : Keeps s0 y.2))
    | with_reducible first | apply bump_keeps | apply mismatch_keeps | apply writeParam_keeps | apply passOn_keeps
    | with_reducible apply keeps_foldl
    | with_reducible apply keeps_foldl1
    | with_reducible apply keeps_foldl2
    | with_reducible exact hx
    | with_reducible apply keeps_ite
    | split

theorem paramIn_keeps (f : RFrame) (s : State) (hs : Keeps s0 s) :
    Keeps s0 (paramIn f s) := by
  unfold paramIn
  repeat' first
    | with_reducible assumption
    | (rintro x y (hx : Keeps s0 y))
    | (rintro x y z w (hx : Keeps s0 w))
    | (rintro x y z (hx : Keeps s0 z))
    | (rintro y (hx : Keeps s0 y))
    | (rintro x y (hx : Keeps s0 y.1))
    | (rintro x y (hx : Keeps s0 y.2))
    | lift_lets
    | (intro x; refine keeps_cut (x := x) (a := s0) ?_ ?_; subst x; rotate_left; clear_value x; intro hx)
    | (intro x; subst x)
    | simp -zeta only [keeps_upd]
    | with_reducible first | apply bump_keeps | apply setChan_keeps | apply mismatch_keeps | apply redIn_keeps | apply takeParams_keeps
    | with_reducible apply keeps_ite
    | split

theorem doneIn_keeps (f : RFrame) (s : State) (hs : Keeps s0 s) :
    Keeps s0 (doneIn f s) := by
  unfold doneIn
  repeat' first
    | with_reducible assumption
    | (rintro x y (hx : Keeps s0 y))
    | (rintro x y z w (hx : Keeps s0 w))
    | (rintro x y z (hx : Keeps s0 z))
    | (rintro y (hx : Keeps s0 y))
    | (rintro x y (hx : Keeps s0 y.1))
    | (rintro x y (hx : Keeps s0 y.2))
    | lift_lets
    | (intro x; refine keeps_cut (x := x) (a := s0) ?_ ?_; subst x; rotate_left; clear_value x; intro hx)
    | (intro x; subst x)
    | simp -zeta only [keeps_upd]
    | with_reducible first | apply setRed_keeps | apply mismatch_keeps | apply redIn_keeps | apply freeKept_keeps | apply passOn_keeps
    | with_reducible apply keeps_ite
    | split

theorem sendHeld_keeps (p : Plan) (ch : Chan) (rn : Redn) (s : State) (hs : Keeps s0 s) :
    Keeps s0 (sendHeld p ch rn s) := by
  unfold sendHeld
  repeat' first
    | with_reducible assumption
    | (rintro x y (hx : Keeps s0 y))
    | (rintro x y z w (hx : Keeps s0 w))
    | (rintro x y z (hx : Keeps s0 z))
    | (rintro y (hx : Keeps s0 y))
    | (rintro x y (hx : Keeps s0 y.1))
    | (rintro x y (hx : Keeps s0 y.2))
    | lift_lets
    | (intro x; refine keeps_cut (x := x) (a := s0) ?_ ?_; subst x; rotate_left; clear_value x; intro hx)
    | (intro x; subst x)
    | simp -zeta only [keeps_upd]
    | with_reducible first | apply forAll_keeps | apply sendAll_keeps | apply writeParam_keeps | apply sendDone_keeps
    | with_reducible apply keeps_foldl
    | with_reducible apply keeps_foldl1
    | with_reducible apply keeps_foldl2
    | with_reducible exact hx
    | with_reducible apply keeps_ite
    | split

theorem takeOver_keeps (c q : Nat) (s : State) (hs : Keeps s0 s) :
    Keeps s0 (takeOver c q s) := by
  unfold takeOver
  repeat' first
    | with_reducible assumption
    | (rintro x y (hx : Keeps s0 y))
    | (rintro x y z w (hx : Keeps s0 w))
    | (rintro x y z (hx : Keeps s0 z))
    | (rintro y (hx : Keeps s0 y))
    | (rintro x y (hx : Keeps s0 y.1))
    | (rintro x y (hx : Keeps s0 y.2))
    | lift_lets
    | (intro x; refine keeps_cut (x := x) (a := s0) ?_ ?_; subst x; rotate_left; clear_value x; intro hx)
    | (intro x; subst x)
    | simp -zeta only [keeps_upd]
    | with_reducible first | apply bump_keeps | apply setErr_keeps | apply forAll_keeps | apply setChan_keeps | apply reduceItem_keeps | apply sendHeld_keeps
    | with_reducible apply keeps_ite
    | split

theorem reductionStep_keeps (s : State) (hs : Keeps s0 s) :
    Keeps s0 (reductionStep s) := by
  unfold reductionStep
  repeat' first
    | with_reducible assumption
    | (rintro x y (hx : Keeps s0 y))
    | (rintro x y z w (hx : Keeps s0 w))
    | (rintro x y z (hx : Keeps s0 z))
    | (rintro y (hx : Keeps s0 y))
    | (rintro x y (hx : Keeps s0 y.1))
    | (rintro x y (hx : Keeps s0 y.2))
    | lift_lets
    | (intro x; refine keeps_cut (x := x) (a := s0) ?_ ?_; subst x; rotate_left; clear_value x; intro hx)
    | (intro x; subst x)
    | simp -zeta only [keeps_upd]
    | with_reducible first | apply setReg_keeps | apply forAll_keeps | apply setChan_keeps
    | split

theorem showGroups_keeps (s : State) (hs : Keeps s0 s) :
    Keeps s0 (showGroups s) := by
  unfold showGroups
  repeat' first
    | with_reducible assumption
    | (rintro x y (hx : Keeps s0 y))
    | (rintro x y z w (hx : Keeps s0 w))
    | (rintro x y z (hx : Keeps s0 z))
    | (rintro y (hx : Keeps s0 y))
    | (rintro x y (hx : Keeps s0 y.1))
    | (rintro x y (hx : Keeps s0 y.2))
    | with_reducible first | apply setReg_keeps | apply forAll_keeps

theorem putStateWord_keeps (i : Img) (b e w : Nat) (x : W32) (s : State) (hs : Keeps s0 s) :
    Keeps s0 (putStateWord i b e w x s) := by
  unfold putStateWord
  repeat' first
    | with_reducible assumption
    | (rintro x y (hx : Keeps s0 y))
    | (rintro x y z w (hx : Keeps s0 w))
    | (rintro x y z (hx : Keeps s0 z))
    | (rintro y (hx : Keeps s0 y))
    | (rintro x y (hx : Keeps s0 y.1))
    | (rintro x y (hx : Keeps s0 y.2))
    | lift_lets
    | (intro x; refine keeps_cut (x := x) (a := s0) ?_ ?_; subst x; rotate_left; clear_value x; intro hx)
    | (intro x; subst x)
    | simp -zeta only [keeps_upd]
    | with_reducible first | apply regionWrite_keeps
    | split

theorem putStateWords_keeps (i : Img) (words b o : Nat) (ws : List W32) (s : State) (hs : Keeps s0 s) :
    Keeps s0 (putStateWords i words b o ws s) := by
  unfold putStateWords
  repeat' first
    | with_reducible assumption
    | (rintro x y (hx : Keeps s0 y))
    | (rintro x y z w (hx : Keeps s0 w))
    | (rintro x y z (hx : Keeps s0 z))
    | (rintro y (hx : Keeps s0 y))
    | (rintro x y (hx : Keeps s0 y.1))
    | (rintro x y (hx : Keeps s0 y.2))
    | lift_lets
    | (intro x; refine keeps_cut (x := x) (a := s0) ?_ ?_; subst x; rotate_left; clear_value x; intro hx)
    | (intro x; subst x)
    | with_reducible first | apply putStateWord_keeps
    | with_reducible apply keeps_foldl
    | with_reducible apply keeps_foldl1
    | with_reducible apply keeps_foldl2
    | with_reducible exact hx

theorem setPerm_keeps (v : Nat) (s : State) (hs : Keeps s0 s) :
    Keeps s0 (setPerm v s) := by
  unfold setPerm
  repeat' first
    | with_reducible assumption
    | (rintro x y (hx : Keeps s0 y))
    | (rintro x y z w (hx : Keeps s0 w))
    | (rintro x y z (hx : Keeps s0 z))
    | (rintro y (hx : Keeps s0 y))
    | (rintro x y (hx : Keeps s0 y.1))
    | (rintro x y (hx : Keeps s0 y.2))
    | with_reducible first | apply setReg_keeps

theorem permItem_keeps (ok : Bool) (s : State) (hs : Keeps s0 s) :
    Keeps s0 (permItem ok s) := by
  unfold permItem
  repeat' first
    | with_reducible assumption
    | (rintro x y (hx : Keeps s0 y))
    | (rintro x y z w (hx : Keeps s0 w))
    | (rintro x y z (hx : Keeps s0 z))
    | (rintro y (hx : Keeps s0 y))
    | (rintro x y (hx : Keeps s0 y.1))
    | (rintro x y (hx : Keeps s0 y.2))
    | lift_lets
    | (intro x; refine keeps_cut (x := x) (a := s0) ?_ ?_; subst x; rotate_left; clear_value x; intro hx)
    | (intro x; subst x)
    | with_reducible first | apply ledgerItem_keeps
    | with_reducible apply keeps_ite
    | split

theorem permFinish_keeps (s : State) (hs : Keeps s0 s) :
    Keeps s0 (permFinish s) := by
  unfold permFinish
  repeat' first
    | with_reducible assumption
    | (rintro x y (hx : Keeps s0 y))
    | (rintro x y z w (hx : Keeps s0 w))
    | (rintro x y z (hx : Keeps s0 z))
    | (rintro y (hx : Keeps s0 y))
    | (rintro x y (hx : Keeps s0 y.1))
    | (rintro x y (hx : Keeps s0 y.2))
    | with_reducible first | apply setPerm_keeps | apply permItem_keeps
    | with_reducible apply keeps_ite
    | split

theorem permOwnDone_keeps (s : State) (hs : Keeps s0 s) :
    Keeps s0 (permOwnDone s) := by
  unfold permOwnDone
  repeat' first
    | with_reducible assumption
    | (rintro x y (hx : Keeps s0 y))
    | (rintro x y z w (hx : Keeps s0 w))
    | (rintro x y z (hx : Keeps s0 z))
    | (rintro y (hx : Keeps s0 y))
    | (rintro x y (hx : Keeps s0 y.1))
    | (rintro x y (hx : Keeps s0 y.2))
    | lift_lets
    | (intro x; refine keeps_cut (x := x) (a := s0) ?_ ?_; subst x; rotate_left; clear_value x; intro hx)
    | (intro x; subst x)
    | simp -zeta only [keeps_upd]
    | with_reducible first | apply sendAll_keeps | apply permFinish_keeps
    | with_reducible apply keeps_ite
    | split

theorem sendEntry_keeps (i : Img) (k : Nat) (e : Perm) (s : State) (hs : Keeps s0 s) :
    Keeps s0 (sendEntry i k e s) := by
  unfold sendEntry
  repeat' first
    | with_reducible assumption
    | (rintro x y (hx : Keeps s0 y))
    | (rintro x y z w (hx : Keeps s0 w))
    | (rintro x y z (hx : Keeps s0 z))
    | (rintro y (hx : Keeps s0 y))
    | (rintro x y (hx : Keeps s0 y.1))
    | (rintro x y (hx : Keeps s0 y.2))
    | lift_lets
    | (intro x; refine keeps_cut (x := x) (a := s0) ?_ ?_; subst x; rotate_left; clear_value x; intro hx)
    | (intro x; subst x)
    | simp -zeta only [keeps_upd]
    | with_reducible first | apply forAll_keeps | apply sendRed_keeps

theorem startPermute_keeps (p : Plan) (s : State) (hs : Keeps s0 s) :
    Keeps s0 (startPermute p s) := by
  unfold startPermute
  repeat' first
    | with_reducible assumption
    | (rintro x y (hx : Keeps s0 y))
    | (rintro x y z w (hx : Keeps s0 w))
    | (rintro x y z (hx : Keeps s0 z))
    | (rintro y (hx : Keeps s0 y))
    | (rintro x y (hx : Keeps s0 y.1))
    | (rintro x y (hx : Keeps s0 y.2))
    | lift_lets
    | (intro x; refine keeps_cut (x := x) (a := s0) ?_ ?_; subst x; rotate_left; clear_value x; intro hx)
    | (intro x; subst x)
    | simp -zeta only [keeps_upd]
    | with_reducible first | apply forAll_keeps | apply putStateWords_keeps | apply setPerm_keeps | apply permOwnDone_keeps | apply sendEntry_keeps
    | with_reducible apply keeps_foldl
    | with_reducible apply keeps_foldl1
    | with_reducible apply keeps_foldl2
    | with_reducible exact hx
    | split

theorem permuteIn_keeps (f : RFrame) (s : State) (hs : Keeps s0 s) :
    Keeps s0 (permuteIn f s) := by
  unfold permuteIn
  repeat' first
    | with_reducible assumption
    | (rintro x y (hx : Keeps s0 y))
    | (rintro x y z w (hx : Keeps s0 w))
    | (rintro x y z (hx : Keeps s0 z))
    | (rintro y (hx : Keeps s0 y))
    | (rintro x y (hx : Keeps s0 y.1))
    | (rintro x y (hx : Keeps s0 y.2))
    | lift_lets
    | (intro x; refine keeps_cut (x := x) (a := s0) ?_ ?_; subst x; rotate_left; clear_value x; intro hx)
    | (intro x; subst x)
    | simp -zeta only [keeps_upd]
    | with_reducible first | apply redIn_keeps | apply putStateWords_keeps | apply permOwnDone_keeps
    | with_reducible apply keeps_ite
    | split

theorem permDoneIn_keeps (f : RFrame) (s : State) (hs : Keeps s0 s) :
    Keeps s0 (permDoneIn f s) := by
  unfold permDoneIn
  repeat' first
    | with_reducible assumption
    | (rintro x y (hx : Keeps s0 y))
    | (rintro x y z w (hx : Keeps s0 w))
    | (rintro x y z (hx : Keeps s0 z))
    | (rintro y (hx : Keeps s0 y))
    | (rintro x y (hx : Keeps s0 y.1))
    | (rintro x y (hx : Keeps s0 y.2))
    | lift_lets
    | (intro x; refine keeps_cut (x := x) (a := s0) ?_ ?_; subst x; rotate_left; clear_value x; intro hx)
    | (intro x; subst x)
    | simp -zeta only [keeps_upd]
    | with_reducible first | apply bump_keeps | apply setPerm_keeps | apply permFinish_keeps
    | with_reducible apply keeps_ite
    | split

theorem permuteTimeout_keeps (s : State) (hs : Keeps s0 s) :
    Keeps s0 (permuteTimeout s) := by
  unfold permuteTimeout
  repeat' first
    | with_reducible assumption
    | (rintro x y (hx : Keeps s0 y))
    | (rintro x y z w (hx : Keeps s0 w))
    | (rintro x y z (hx : Keeps s0 z))
    | (rintro y (hx : Keeps s0 y))
    | (rintro x y (hx : Keeps s0 y.1))
    | (rintro x y (hx : Keeps s0 y.2))
    | lift_lets
    | (intro x; refine keeps_cut (x := x) (a := s0) ?_ ?_; subst x; rotate_left; clear_value x; intro hx)
    | (intro x; subst x)
    | simp -zeta only [keeps_upd]
    | with_reducible first | apply setErr_keeps | apply setPerm_keeps | apply permItem_keeps
    | with_reducible apply keeps_ite
    | split

theorem epochBoundary_keeps (s : State) (hs : Keeps s0 s) :
    Keeps s0 (epochBoundary s) := by
  unfold epochBoundary
  repeat' first
    | with_reducible assumption
    | (rintro x y (hx : Keeps s0 y))
    | (rintro x y z w (hx : Keeps s0 w))
    | (rintro x y z (hx : Keeps s0 z))
    | (rintro y (hx : Keeps s0 y))
    | (rintro x y (hx : Keeps s0 y.1))
    | (rintro x y (hx : Keeps s0 y.2))
    | lift_lets
    | (intro x; refine keeps_cut (x := x) (a := s0) ?_ ?_; subst x; rotate_left; clear_value x; intro hx)
    | (intro x; subst x)
    | simp -zeta only [keeps_upd]
    | with_reducible first | apply setErr_keeps | apply takeLnk_keeps | apply takeEpoch_keeps | apply takeStepBank_keeps | apply showGroups_keeps | apply startPermute_keeps
    | with_reducible apply keeps_ite
    | split

theorem farGo_keeps (d : Die) (pay : List Byte) (s : State) (hs : Keeps s0 s) :
    Keeps s0 (farGo d pay s) := by
  unfold farGo
  repeat' first
    | with_reducible assumption
    | (rintro x y (hx : Keeps s0 y))
    | (rintro x y z w (hx : Keeps s0 w))
    | (rintro x y z (hx : Keeps s0 z))
    | (rintro y (hx : Keeps s0 y))
    | (rintro x y (hx : Keeps s0 y.1))
    | (rintro x y (hx : Keeps s0 y.2))
    | lift_lets
    | (intro x; refine keeps_cut (x := x) (a := s0) ?_ ?_; subst x; rotate_left; clear_value x; intro hx)
    | (intro x; subst x)
    | with_reducible first | apply farSignal_keeps | apply sendTo_keeps
    | with_reducible apply keeps_ite
    | split

theorem farFrom_keeps (u v : Nat) (p : Port) (pay : List Byte) (s : State) (hs : Keeps s0 s) :
    Keeps s0 (farFrom u v p pay s) := by
  unfold farFrom
  repeat' first
    | with_reducible assumption
    | (rintro x y (hx : Keeps s0 y))
    | (rintro x y z w (hx : Keeps s0 w))
    | (rintro x y z (hx : Keeps s0 z))
    | (rintro y (hx : Keeps s0 y))
    | (rintro x y (hx : Keeps s0 y.1))
    | (rintro x y (hx : Keeps s0 y.2))
    | lift_lets
    | (intro x; refine keeps_cut (x := x) (a := s0) ?_ ?_; subst x; rotate_left; clear_value x; intro hx)
    | (intro x; subst x)
    | simp -zeta only [keeps_upd]
    | with_reducible first | apply charge_keeps | apply sendCtl_keeps | apply farGo_keeps
    | split

theorem fsignalRec_keeps (u v : Nat) (st : Strm) (w1 : Img) (k : Nat) (r : OpRec) (s : State) (hs : Keeps s0 s) :
    Keeps s0 (fsignalRec u v st w1 k r s) := by
  unfold fsignalRec
  repeat' first
    | with_reducible assumption
    | (rintro x y (hx : Keeps s0 y))
    | (rintro x y z w (hx : Keeps s0 w))
    | (rintro x y z (hx : Keeps s0 z))
    | (rintro y (hx : Keeps s0 y))
    | (rintro x y (hx : Keeps s0 y.1))
    | (rintro x y (hx : Keeps s0 y.2))
    | lift_lets
    | (intro x; refine keeps_cut (x := x) (a := s0) ?_ ?_; subst x; rotate_left; clear_value x; intro hx)
    | (intro x; subst x)
    | with_reducible first | apply unfencedCheck_keeps | apply farFrom_keeps

theorem takeTrailer_keeps (p : Die) (f : LFrame) (s : State) (hs : Keeps s0 s) :
    Keeps s0 (takeTrailer p f s) := by
  unfold takeTrailer
  repeat' first
    | with_reducible assumption
    | (rintro x y (hx : Keeps s0 y))
    | (rintro x y z w (hx : Keeps s0 w))
    | (rintro x y z (hx : Keeps s0 z))
    | (rintro y (hx : Keeps s0 y))
    | (rintro x y (hx : Keeps s0 y.1))
    | (rintro x y (hx : Keeps s0 y.2))
    | lift_lets
    | (intro x; refine keeps_cut (x := x) (a := s0) ?_ ?_; subst x; rotate_left; clear_value x; intro hx)
    | (intro x; subst x)
    | simp -zeta only [keeps_upd]
    | with_reducible first | apply setLink_keeps
    | with_reducible apply keeps_ite
    | split

theorem sendNak_keeps (p : Die) (s : State) (hs : Keeps s0 s) :
    Keeps s0 (sendNak p s) := by
  unfold sendNak
  repeat' first
    | with_reducible assumption
    | (rintro x y (hx : Keeps s0 y))
    | (rintro x y z w (hx : Keeps s0 w))
    | (rintro x y z (hx : Keeps s0 z))
    | (rintro y (hx : Keeps s0 y))
    | (rintro x y (hx : Keeps s0 y.1))
    | (rintro x y (hx : Keeps s0 y.2))
    | lift_lets
    | (intro x; refine keeps_cut (x := x) (a := s0) ?_ ?_; subst x; rotate_left; clear_value x; intro hx)
    | (intro x; subst x)
    | simp -zeta only [keeps_upd]
    | with_reducible first | apply setLink_keeps | apply sendOn_keeps
    | with_reducible apply keeps_ite
    | split

theorem nakIn_keeps (p : Die) (f : LFrame) (s : State) (hs : Keeps s0 s) :
    Keeps s0 (nakIn p f s) := by
  unfold nakIn
  repeat' first
    | with_reducible assumption
    | (rintro x y (hx : Keeps s0 y))
    | (rintro x y z w (hx : Keeps s0 w))
    | (rintro x y z (hx : Keeps s0 z))
    | (rintro y (hx : Keeps s0 y))
    | (rintro x y (hx : Keeps s0 y.1))
    | (rintro x y (hx : Keeps s0 y.2))
    | lift_lets
    | (intro x; refine keeps_cut (x := x) (a := s0) ?_ ?_; subst x; rotate_left; clear_value x; intro hx)
    | (intro x; subst x)
    | simp -zeta only [keeps_upd]
    | with_reducible first | apply bump_keeps | apply setLink_keeps | apply replayFrom_keeps | apply pathFails_keeps
    | with_reducible apply keeps_ite
    | split

theorem learnPeer_keeps {id n : Nat} {s t : State} (ht : learnPeer id s = some (n, t)) (h : Keeps s0 s) :
    Keeps s0 t := by
  unfold learnPeer at ht
  split at ht
  · cases ht
    exact h
  · simp only [Option.map_eq_some_iff] at ht
    obtain ⟨g, _, he⟩ := ht
    cases he
    exact keeps_of h rfl rfl rfl rfl rfl rfl rfl rfl

theorem helloIn_keeps (p : Die) (f : LFrame) (s : State) (hs : Keeps s0 s) :
    Keeps s0 (helloIn p f s) := by
  unfold helloIn
  repeat' first
    | with_reducible assumption
    | (rintro x y (hx : Keeps s0 y))
    | (rintro x y z w (hx : Keeps s0 w))
    | (rintro x y z (hx : Keeps s0 z))
    | (rintro y (hx : Keeps s0 y))
    | (rintro x y (hx : Keeps s0 y.1))
    | (rintro x y (hx : Keeps s0 y.2))
    | lift_lets
    | (intro x; refine keeps_cut (x := x) (a := s0) ?_ ?_; subst x; rotate_left; clear_value x; intro hx)
    | (intro x; subst x)
    | simp -zeta only [keeps_upd]
    | with_reducible first | apply setReg_keeps | apply bump_keeps | apply setErr_keeps | apply setLink_keeps | apply setLnkState_keeps | apply showActive_keeps | apply setPeer_keeps | apply pump_keeps | exact learnPeer_keeps (by assumption) (by assumption)
    | with_reducible apply keeps_ite
    | split

theorem tsyncAnswer_keeps (p : Die) (f : LFrame) (s : State) (hs : Keeps s0 s) :
    Keeps s0 (tsyncAnswer p f s) := by
  unfold tsyncAnswer
  repeat' first
    | with_reducible assumption
    | (rintro x y (hx : Keeps s0 y))
    | (rintro x y z w (hx : Keeps s0 w))
    | (rintro x y z (hx : Keeps s0 z))
    | (rintro y (hx : Keeps s0 y))
    | (rintro x y (hx : Keeps s0 y.1))
    | (rintro x y (hx : Keeps s0 y.2))
    | with_reducible first | apply sendDirect_keeps

theorem tsyncTake_keeps (p : Die) (f : LFrame) (s : State) (hs : Keeps s0 s) :
    Keeps s0 (tsyncTake p f s) := by
  unfold tsyncTake
  repeat' first
    | with_reducible assumption
    | (rintro x y (hx : Keeps s0 y))
    | (rintro x y z w (hx : Keeps s0 w))
    | (rintro x y z (hx : Keeps s0 z))
    | (rintro y (hx : Keeps s0 y))
    | (rintro x y (hx : Keeps s0 y.1))
    | (rintro x y (hx : Keeps s0 y.2))
    | lift_lets
    | (intro x; refine keeps_cut (x := x) (a := s0) ?_ ?_; subst x; rotate_left; clear_value x; intro hx)
    | (intro x; subst x)
    | simp -zeta only [keeps_upd]
    | with_reducible first | apply setReg_keeps | apply setLink_keeps | apply setJoff_keeps | apply setPeer_keeps
    | with_reducible apply keeps_ite
    | split

theorem redDeliver_keeps (f : RFrame) (s : State) (hs : Keeps s0 s) :
    Keeps s0 (redDeliver f s) := by
  unfold redDeliver
  repeat' first
    | with_reducible assumption
    | (rintro x y (hx : Keeps s0 y))
    | (rintro x y z w (hx : Keeps s0 w))
    | (rintro x y z (hx : Keeps s0 z))
    | (rintro y (hx : Keeps s0 y))
    | (rintro x y (hx : Keeps s0 y.1))
    | (rintro x y (hx : Keeps s0 y.2))
    | lift_lets
    | (intro x; refine keeps_cut (x := x) (a := s0) ?_ ?_; subst x; rotate_left; clear_value x; intro hx)
    | (intro x; subst x)
    | simp -zeta only [keeps_upd]
    | with_reducible first | apply mismatch_keeps | apply redIn_keeps | apply contribIn_keeps | apply resendIn_keeps | apply widenIn_keeps | apply paramIn_keeps | apply doneIn_keeps | apply permuteIn_keeps | apply permDoneIn_keeps
    | with_reducible apply keeps_ite
    | split

theorem farIn_keeps (f : LFrame) (s : State) (hs : Keeps s0 s) :
    Keeps s0 (farIn f s) := by
  unfold farIn
  repeat' first
    | with_reducible assumption
    | (rintro x y (hx : Keeps s0 y))
    | (rintro x y z w (hx : Keeps s0 w))
    | (rintro x y z (hx : Keeps s0 z))
    | (rintro y (hx : Keeps s0 y))
    | (rintro x y (hx : Keeps s0 y.1))
    | (rintro x y (hx : Keeps s0 y.2))
    | lift_lets
    | (intro x; refine keeps_cut (x := x) (a := s0) ?_ ?_; subst x; rotate_left; clear_value x; intro hx)
    | (intro x; subst x)
    | with_reducible first | apply bump_keeps | apply setErr_keeps | apply freshFree_keeps | apply farSignal_keeps
    | with_reducible apply keeps_ite
    | split

theorem xferBad_keeps (p : Die) (n : Nat) (s : State) (hs : Keeps s0 s) :
    Keeps s0 (xferBad p n s) := by
  unfold xferBad
  repeat' first
    | with_reducible assumption
    | (rintro x y (hx : Keeps s0 y))
    | (rintro x y z w (hx : Keeps s0 w))
    | (rintro x y z (hx : Keeps s0 z))
    | (rintro y (hx : Keeps s0 y))
    | (rintro x y (hx : Keeps s0 y.1))
    | (rintro x y (hx : Keeps s0 y.2))
    | lift_lets
    | (intro x; refine keeps_cut (x := x) (a := s0) ?_ ?_; subst x; rotate_left; clear_value x; intro hx)
    | (intro x; subst x)
    | simp -zeta only [keeps_upd]
    | with_reducible first | apply setReg_keeps | apply bump_keeps | apply setErr_keeps
    | with_reducible apply keeps_ite
    | split

theorem xferPart_keeps (p : Die) (f : LFrame) (e : StageEnt) (n : Nat) (r : Region) (s : State) (hs : Keeps s0 s) :
    Keeps s0 (xferPart p f e n r s) := by
  unfold xferPart
  repeat' first
    | with_reducible assumption
    | (rintro x y (hx : Keeps s0 y))
    | (rintro x y z w (hx : Keeps s0 w))
    | (rintro x y z (hx : Keeps s0 z))
    | (rintro y (hx : Keeps s0 y))
    | (rintro x y (hx : Keeps s0 y.1))
    | (rintro x y (hx : Keeps s0 y.2))
    | lift_lets
    | (intro x; refine keeps_cut (x := x) (a := s0) ?_ ?_; subst x; rotate_left; clear_value x; intro hx)
    | (intro x; subst x)
    | simp -zeta only [keeps_upd]
    | with_reducible first | apply regionWrite_keeps | apply farSignal_keeps | apply xferBad_keeps
    | with_reducible apply keeps_ite
    | split

theorem xferIn_keeps (p : Die) (f : LFrame) (s : State) (hs : Keeps s0 s) :
    Keeps s0 (xferIn p f s) := by
  unfold xferIn
  repeat' first
    | with_reducible assumption
    | (rintro x y (hx : Keeps s0 y))
    | (rintro x y z w (hx : Keeps s0 w))
    | (rintro x y z (hx : Keeps s0 z))
    | (rintro y (hx : Keeps s0 y))
    | (rintro x y (hx : Keeps s0 y.1))
    | (rintro x y (hx : Keeps s0 y.2))
    | lift_lets
    | (intro x; refine keeps_cut (x := x) (a := s0) ?_ ?_; subst x; rotate_left; clear_value x; intro hx)
    | (intro x; subst x)
    | simp -zeta only [keeps_upd]
    | with_reducible first | apply xferBad_keeps | apply xferPart_keeps
    | split

theorem deliverFrame_keeps (tunnel : LFrame → State → State) (p : Die) (f : LFrame) (s : State)
    (htunnel : ∀ x0 x1, Keeps s0 x1 → Keeps s0 (tunnel x0 x1)) (hs : Keeps s0 s) :
    Keeps s0 (deliverFrame tunnel p f s) := by
  unfold deliverFrame
  repeat' first
    | with_reducible assumption
    | (rintro x y (hx : Keeps s0 y))
    | (rintro x y z w (hx : Keeps s0 w))
    | (rintro x y z (hx : Keeps s0 z))
    | (rintro y (hx : Keeps s0 y))
    | (rintro x y (hx : Keeps s0 y.1))
    | (rintro x y (hx : Keeps s0 y.2))
    | lift_lets
    | (intro x; refine keeps_cut (x := x) (a := s0) ?_ ?_; subst x; rotate_left; clear_value x; intro hx)
    | (intro x; subst x)
    | simp -zeta only [keeps_upd]
    | with_reducible first | apply bump_keeps | apply sendTo_keeps | apply redDeliver_keeps | apply farIn_keeps | apply xferIn_keeps
    | with_reducible first | apply htunnel
    | with_reducible apply keeps_ite
    | split

theorem gcmFail_keeps (p : Die) (f : LFrame) (s : State) (hs : Keeps s0 s) :
    Keeps s0 (gcmFail p f s) := by
  unfold gcmFail
  repeat' first
    | with_reducible assumption
    | (rintro x y (hx : Keeps s0 y))
    | (rintro x y z w (hx : Keeps s0 w))
    | (rintro x y z (hx : Keeps s0 z))
    | (rintro y (hx : Keeps s0 y))
    | (rintro x y (hx : Keeps s0 y.1))
    | (rintro x y (hx : Keeps s0 y.2))
    | lift_lets
    | (intro x; refine keeps_cut (x := x) (a := s0) ?_ ?_; subst x; rotate_left; clear_value x; intro hx)
    | (intro x; subst x)
    | simp -zeta only [keeps_upd]
    | with_reducible first | apply bump_keeps | apply setErr_keeps | apply setLink_keeps | apply setLnkState_keeps
    | with_reducible apply keeps_ite
    | split

theorem rxSequenced_keeps (tunnel : LFrame → State → State) (p : Die) (f : LFrame) (s : State)
    (htunnel : ∀ x0 x1, Keeps s0 x1 → Keeps s0 (tunnel x0 x1)) (hs : Keeps s0 s) :
    Keeps s0 (rxSequenced tunnel p f s) := by
  unfold rxSequenced
  repeat' first
    | with_reducible assumption
    | (rintro x y (hx : Keeps s0 y))
    | (rintro x y z w (hx : Keeps s0 w))
    | (rintro x y z (hx : Keeps s0 z))
    | (rintro y (hx : Keeps s0 y))
    | (rintro x y (hx : Keeps s0 y.1))
    | (rintro x y (hx : Keeps s0 y.2))
    | lift_lets
    | (intro x; refine keeps_cut (x := x) (a := s0) ?_ ?_; subst x; rotate_left; clear_value x; intro hx)
    | (intro x; subst x)
    | simp -zeta only [keeps_upd]
    | with_reducible first | apply bump_keeps | apply setLink_keeps | apply sendNak_keeps | apply deliverFrame_keeps | apply gcmFail_keeps
    | with_reducible first | apply htunnel
    | with_reducible apply keeps_ite
    | split

theorem rxUnsequenced_keeps (p : Die) (f : LFrame) (s : State) (hs : Keeps s0 s) :
    Keeps s0 (rxUnsequenced p f s) := by
  unfold rxUnsequenced
  repeat' first
    | with_reducible assumption
    | (rintro x y (hx : Keeps s0 y))
    | (rintro x y z w (hx : Keeps s0 w))
    | (rintro x y z (hx : Keeps s0 z))
    | (rintro y (hx : Keeps s0 y))
    | (rintro x y (hx : Keeps s0 y.1))
    | (rintro x y (hx : Keeps s0 y.2))
    | lift_lets
    | (intro x; refine keeps_cut (x := x) (a := s0) ?_ ?_; subst x; rotate_left; clear_value x; intro hx)
    | (intro x; subst x)
    | simp -zeta only [keeps_upd]
    | with_reducible first | apply bump_keeps | apply nakIn_keeps | apply helloIn_keeps | apply tsyncAnswer_keeps | apply tsyncTake_keeps
    | with_reducible apply keeps_ite
    | split

theorem rxLink_keeps (tunnel : LFrame → State → State) (p : Die) (f : LFrame) (s : State)
    (htunnel : ∀ x0 x1, Keeps s0 x1 → Keeps s0 (tunnel x0 x1)) (hs : Keeps s0 s) :
    Keeps s0 (rxLink tunnel p f s) := by
  unfold rxLink
  repeat' first
    | with_reducible assumption
    | (rintro x y (hx : Keeps s0 y))
    | (rintro x y z w (hx : Keeps s0 w))
    | (rintro x y z (hx : Keeps s0 z))
    | (rintro y (hx : Keeps s0 y))
    | (rintro x y (hx : Keeps s0 y.1))
    | (rintro x y (hx : Keeps s0 y.2))
    | lift_lets
    | (intro x; refine keeps_cut (x := x) (a := s0) ?_ ?_; subst x; rotate_left; clear_value x; intro hx)
    | (intro x; subst x)
    | with_reducible first | apply bump_keeps | apply pump_keeps | apply takeTrailer_keeps | apply sendNak_keeps | apply rxSequenced_keeps | apply rxUnsequenced_keeps
    | with_reducible first | apply htunnel
    | with_reducible apply keeps_ite
    | split

theorem untunnel_keeps (p : Die) (f : LFrame) (s : State) (hs : Keeps s0 s) :
    Keeps s0 (untunnel p f s) := by
  unfold untunnel
  repeat' first
    | with_reducible assumption
    | (rintro x y (hx : Keeps s0 y))
    | (rintro x y z w (hx : Keeps s0 w))
    | (rintro x y z (hx : Keeps s0 z))
    | (rintro y (hx : Keeps s0 y))
    | (rintro x y (hx : Keeps s0 y.1))
    | (rintro x y (hx : Keeps s0 y.2))
    | lift_lets
    | (intro x; refine keeps_cut (x := x) (a := s0) ?_ ?_; subst x; rotate_left; clear_value x; intro hx)
    | (intro x; subst x)
    | simp -zeta only [keeps_upd]
    | with_reducible first | apply bump_keeps | apply rxLink_keeps
    | with_reducible apply keeps_ite
    | split

theorem rxFrame_keeps (p : Die) (f : LFrame) (s : State) (hs : Keeps s0 s) :
    Keeps s0 (rxFrame p f s) := by
  unfold rxFrame
  repeat' first
    | with_reducible assumption
    | (rintro x y (hx : Keeps s0 y))
    | (rintro x y z w (hx : Keeps s0 w))
    | (rintro x y z (hx : Keeps s0 z))
    | (rintro y (hx : Keeps s0 y))
    | (rintro x y (hx : Keeps s0 y.1))
    | (rintro x y (hx : Keeps s0 y.2))
    | lift_lets
    | (intro x; refine keeps_cut (x := x) (a := s0) ?_ ?_; subst x; rotate_left; clear_value x; intro hx)
    | (intro x; subst x)
    | simp -zeta only [keeps_upd]
    | with_reducible first | apply bump_keeps | apply setLink_keeps | apply countFlits_keeps | apply sendNak_keeps | apply rxLink_keeps | apply untunnel_keeps
    | with_reducible apply keeps_foldl
    | with_reducible apply keeps_foldl1
    | with_reducible apply keeps_foldl2
    | with_reducible exact hx
    | with_reducible apply keeps_ite
    | split

end Sys2Proof.Machine
end

