-- ==== Sys2Proof/Laws/Keeps5.lean ====
section
/-! SUPPORT. What the operations of Dma, Ue, Move, Flow, Tick keep: the fuses, the queue, the canonical form of the store,
the rules on the mode. -/

namespace Sys2Proof.Machine

variable {s0 s : State}

theorem patrolScrub_keeps (d : Die) (n : Fin 4) (e : Ecc) (s : State) (hs : Keeps s0 s) :
    Keeps s0 (patrolScrub d n e s) := by
  unfold patrolScrub
  repeat' first
    | with_reducible assumption
    | (rintro x y (hx : Keeps s0 y))
    | (rintro x y z w (hx : Keeps s0 w))
    | (rintro x y z (hx : Keeps s0 z))
    | (rintro y (hx : Keeps s0 y))
    | (rintro x y (hx : Keeps s0 y.1))
    | (rintro x y (hx : Keeps s0 y.2))
    | lift_lets
    | (intro x; refine keeps_cut (x := x) (a := s0) ?_ ?_; subst x; rotate_left; clear_value x; intro hx)
    | (intro x; subst x)
    | simp -zeta only [keeps_upd]
    | with_reducible first | apply setReg_keeps | apply addFlaws_keeps | apply hbmTouch_keeps | apply setDie_keeps
    | with_reducible apply keeps_ite
    | split

theorem bar2Read_keeps (off len : Nat) (ide : Bool) (es : EccList) (s : State) (hs : Keeps s0 s) :
    Keeps s0 (bar2Read off len ide es s) := by
  unfold bar2Read
  repeat' first
    | with_reducible assumption
    | (rintro x y (hx : Keeps s0 y))
    | (rintro x y z w (hx : Keeps s0 w))
    | (rintro x y z (hx : Keeps s0 z))
    | (rintro y (hx : Keeps s0 y))
    | (rintro x y (hx : Keeps s0 y.1))
    | (rintro x y (hx : Keeps s0 y.2))
    | lift_lets
    | (intro x; refine keeps_cut (x := x) (a := s0) ?_ ?_; subst x; rotate_left; clear_value x; intro hx)
    | (intro x; subst x)
    | with_reducible first | apply emit_keeps | apply setErr_keeps | apply addFlaws_keeps | apply hbmTouch_keeps
    | with_reducible apply keeps_ite
    | split

theorem bar2Write_keeps (off : Nat) (data : List Byte) (ide poisoned : Bool) (s : State) (hs : Keeps s0 s) :
    Keeps s0 (bar2Write off data ide poisoned s) := by
  unfold bar2Write
  repeat' first
    | with_reducible assumption
    | (rintro x y (hx : Keeps s0 y))
    | (rintro x y z w (hx : Keeps s0 w))
    | (rintro x y z (hx : Keeps s0 z))
    | (rintro y (hx : Keeps s0 y))
    | (rintro x y (hx : Keeps s0 y.1))
    | (rintro x y (hx : Keeps s0 y.2))
    | lift_lets
    | (intro x; refine keeps_cut (x := x) (a := s0) ?_ ?_; subst x; rotate_left; clear_value x; intro hx)
    | (intro x; subst x)
    | with_reducible first | apply setErr_keeps | apply hbmWrite_keeps | apply logPoison_keeps
    | with_reducible apply keeps_ite
    | split

theorem hostSeg_keeps (d : Desc) (seg : Nat × Nat) (h : HostRead) (ide : Bool) (es : EccList) (s : State) (hs : Keeps s0 s) :
    Keeps s0 (hostSeg d seg h ide es s).2 := by
  unfold hostSeg
  repeat' first
    | with_reducible assumption
    | (rintro x y (hx : Keeps s0 y))
    | (rintro x y z w (hx : Keeps s0 w))
    | (rintro x y z (hx : Keeps s0 z))
    | (rintro y (hx : Keeps s0 y))
    | (rintro x y (hx : Keeps s0 y.1))
    | (rintro x y (hx : Keeps s0 y.2))
    | lift_lets
    | (intro x; refine keeps_cut (x := x) (a := s0) ?_ ?_; subst x; rotate_left; clear_value x; intro hx)
    | (intro x; subst x)
    | simp -zeta only [keeps_upd]
    | with_reducible first | apply emit_keeps | apply hbmWrite_keeps | apply addFlaws_keeps | apply hbmTouch_keeps
    | with_reducible apply keeps_ite
    | split

theorem hostSegs_keeps (d : Desc) (ide : Bool) (es : EccList) : ∀ (a0 : List (Nat × Nat)) (a1 : List HostRead) (a2 : Nat) (a3 : DmaRun) (s : State), Keeps s0 s →
    Keeps s0 (hostSegs d ide es a0 a1 a2 a3 s).2 := by
  intro a0
  induction a0 with
  | nil => intro a1 a2 a3 s hs; unfold hostSegs; first | exact hs | (split <;> exact hs)
  | cons b l ih =>
    intro a1 a2 a3 s hs
    unfold hostSegs
    repeat' first
      | with_reducible assumption
      | with_reducible apply ih
      | (rintro x y (hx : Keeps s0 y))
      | (rintro x y z w (hx : Keeps s0 w))
      | (rintro x y z (hx : Keeps s0 z))
      | (rintro y (hx : Keeps s0 y))
      | (rintro x y (hx : Keeps s0 y.1))
      | (rintro x y (hx : Keeps s0 y.2))
      | lift_lets
      | (intro x; refine keeps_cut (x := x) (a := s0) ?_ ?_; subst x; rotate_left; clear_value x; intro hx)
      | (intro x; subst x)
      | with_reducible first | apply bump_keeps | apply setErr_keeps | apply hostSeg_keeps
      | with_reducible apply keeps_ite
      | split

theorem hostDescriptor_keeps (q : Fin 8) (desc : HostRead) (host : List HostRead) (ide : Bool) (es : EccList) (s : State) (hs : Keeps s0 s) :
    Keeps s0 (hostDescriptor q desc host ide es s) := by
  unfold hostDescriptor
  repeat' first
    | with_reducible assumption
    | (rintro x y (hx : Keeps s0 y))
    | (rintro x y z w (hx : Keeps s0 w))
    | (rintro x y z (hx : Keeps s0 z))
    | (rintro y (hx : Keeps s0 y))
    | (rintro x y (hx : Keeps s0 y.1))
    | (rintro x y (hx : Keeps s0 y.2))
    | lift_lets
    | (intro x; refine keeps_cut (x := x) (a := s0) ?_ ?_; subst x; rotate_left; clear_value x; intro hx)
    | (intro x; subst x)
    | simp -zeta only [keeps_upd]
    | with_reducible first | apply setReg_keeps | apply setErr_keeps | apply hostSegs_keeps
    | with_reducible apply keeps_ite
    | split

theorem hostComplete_keeps (q : Fin 8) (s : State) (hs : Keeps s0 s) :
    Keeps s0 (hostComplete q s) := by
  unfold hostComplete
  repeat' first
    | with_reducible assumption
    | (rintro x y (hx : Keeps s0 y))
    | (rintro x y z w (hx : Keeps s0 w))
    | (rintro x y z (hx : Keeps s0 z))
    | (rintro y (hx : Keeps s0 y))
    | (rintro x y (hx : Keeps s0 y.1))
    | (rintro x y (hx : Keeps s0 y.2))
    | lift_lets
    | (intro x; refine keeps_cut (x := x) (a := s0) ?_ ?_; subst x; rotate_left; clear_value x; intro hx)
    | (intro x; subst x)
    | simp -zeta only [keeps_upd]
    | with_reducible first | apply emit_keeps | apply fire_keeps | apply headNext_keeps
    | with_reducible apply keeps_ite
    | split

theorem queueCtl_keeps (rq : Req) (pg : Page) (o : Nat) (v : W32) (s : State) (hs : Keeps s0 s) :
    Keeps s0 (queueCtl rq pg o v s) := by
  unfold queueCtl
  repeat' first
    | with_reducible assumption
    | (rintro x y (hx : Keeps s0 y))
    | (rintro x y z w (hx : Keeps s0 w))
    | (rintro x y z (hx : Keeps s0 z))
    | (rintro y (hx : Keeps s0 y))
    | (rintro x y (hx : Keeps s0 y.1))
    | (rintro x y (hx : Keeps s0 y.2))
    | with_reducible first | apply setAcc_keeps | apply plainWrite_keeps
    | with_reducible apply keeps_ite
    | split

theorem edgeSeg_keeps (e : Die) (d : Desc) (seg : Nat × Nat) (es : EccList) (s : State) (hs : Keeps s0 s) :
    Keeps s0 (edgeSeg e d seg es s).2 := by
  unfold edgeSeg
  repeat' first
    | with_reducible assumption
    | (rintro x y (hx : Keeps s0 y))
    | (rintro x y z w (hx : Keeps s0 w))
    | (rintro x y z (hx : Keeps s0 z))
    | (rintro y (hx : Keeps s0 y))
    | (rintro x y (hx : Keeps s0 y.1))
    | (rintro x y (hx : Keeps s0 y.2))
    | lift_lets
    | (intro x; refine keeps_cut (x := x) (a := s0) ?_ ?_; subst x; rotate_left; clear_value x; intro hx)
    | (intro x; subst x)
    | with_reducible first | apply hbmWrite_keeps | apply addFlaws_keeps | apply hbmTouch_keeps
    | with_reducible apply keeps_ite
    | split

theorem edgeSegs_keeps (e : Die) (d : Desc) (es : EccList) : ∀ (a0 : List (Nat × Nat)) (a1 : Nat) (a2 : DmaRun) (s : State), Keeps s0 s →
    Keeps s0 (edgeSegs e d es a0 a1 a2 s).2 := by
  intro a0
  induction a0 with
  | nil => intro a1 a2 s hs; unfold edgeSegs; first | exact hs | (split <;> exact hs)
  | cons b l ih =>
    intro a1 a2 s hs
    unfold edgeSegs
    repeat' first
      | with_reducible assumption
      | with_reducible apply ih
      | (rintro x y (hx : Keeps s0 y))
      | (rintro x y z w (hx : Keeps s0 w))
      | (rintro x y z (hx : Keeps s0 z))
      | (rintro y (hx : Keeps s0 y))
      | (rintro x y (hx : Keeps s0 y.1))
      | (rintro x y (hx : Keeps s0 y.2))
      | lift_lets
      | (intro x; refine keeps_cut (x := x) (a := s0) ?_ ?_; subst x; rotate_left; clear_value x; intro hx)
      | (intro x; subst x)
      | with_reducible first | apply setErr_keeps | apply edgeSeg_keeps
      | with_reducible apply keeps_ite
      | split

theorem edgeDescriptor_keeps (e : Die) (q : Fin 4) (es : EccList) (s : State) (hs : Keeps s0 s) :
    Keeps s0 (edgeDescriptor e q es s) := by
  unfold edgeDescriptor
  repeat' first
    | with_reducible assumption
    | (rintro x y (hx : Keeps s0 y))
    | (rintro x y z w (hx : Keeps s0 w))
    | (rintro x y z (hx : Keeps s0 z))
    | (rintro y (hx : Keeps s0 y))
    | (rintro x y (hx : Keeps s0 y.1))
    | (rintro x y (hx : Keeps s0 y.2))
    | lift_lets
    | (intro x; refine keeps_cut (x := x) (a := s0) ?_ ?_; subst x; rotate_left; clear_value x; intro hx)
    | (intro x; subst x)
    | simp -zeta only [keeps_upd]
    | with_reducible first | apply setReg_keeps | apply setErr_keeps | apply addFlaws_keeps | apply hbmTouch_keeps | apply setDie_keeps | apply edgeSegs_keeps
    | with_reducible apply keeps_ite
    | split

theorem edgeComplete_keeps (e : Die) (q : Fin 4) (s : State) (hs : Keeps s0 s) :
    Keeps s0 (edgeComplete e q s) := by
  unfold edgeComplete
  repeat' first
    | with_reducible assumption
    | (rintro x y (hx : Keeps s0 y))
    | (rintro x y z w (hx : Keeps s0 w))
    | (rintro x y z (hx : Keeps s0 z))
    | (rintro y (hx : Keeps s0 y))
    | (rintro x y (hx : Keeps s0 y.1))
    | (rintro x y (hx : Keeps s0 y.2))
    | lift_lets
    | (intro x; refine keeps_cut (x := x) (a := s0) ?_ ?_; subst x; rotate_left; clear_value x; intro hx)
    | (intro x; subst x)
    | simp -zeta only [keeps_upd]
    | with_reducible first | apply fire_keeps | apply hbmWrite_keeps | apply setDie_keeps | apply headNext_keeps
    | with_reducible apply keeps_ite
    | split

theorem ldgRdWrite_keeps (rq : Req) (hi : W32) (s : State) (hs : Keeps s0 s) :
    Keeps s0 (ldgRdWrite rq hi s) := by
  unfold ldgRdWrite
  repeat' first
    | with_reducible assumption
    | (rintro x y (hx : Keeps s0 y))
    | (rintro x y z w (hx : Keeps s0 w))
    | (rintro x y z (hx : Keeps s0 z))
    | (rintro y (hx : Keeps s0 y))
    | (rintro x y (hx : Keeps s0 y.1))
    | (rintro x y (hx : Keeps s0 y.2))
    | lift_lets
    | (intro x; refine keeps_cut (x := x) (a := s0) ?_ ?_; subst x; rotate_left; clear_value x; intro hx)
    | (intro x; subst x)
    | with_reducible first | apply setAcc_keeps | apply writeLost_keeps | apply dropHeld_keeps | apply applyHigh_keeps
    | with_reducible apply keeps_ite
    | split

theorem cbgQuery_keeps (v : W32) (s : State) (hs : Keeps s0 s) :
    Keeps s0 (cbgQuery v s) := by
  unfold cbgQuery
  repeat' first
    | with_reducible assumption
    | (rintro x y (hx : Keeps s0 y))
    | (rintro x y z w (hx : Keeps s0 w))
    | (rintro x y z (hx : Keeps s0 z))
    | (rintro y (hx : Keeps s0 y))
    | (rintro x y (hx : Keeps s0 y.1))
    | (rintro x y (hx : Keeps s0 y.2))
    | lift_lets
    | (intro x; refine keeps_cut (x := x) (a := s0) ?_ ?_; subst x; rotate_left; clear_value x; intro hx)
    | (intro x; subst x)
    | simp -zeta only [keeps_upd]
    | with_reducible first | apply setReg_keeps | apply setErr_keeps
    | with_reducible apply keeps_ite
    | split

theorem putRegionCode_keeps (r : Region) (fmt gen el c : Nat) (s : State) (hs : Keeps s0 s) :
    Keeps s0 (putRegionCode r fmt gen el c s) := by
  unfold putRegionCode
  repeat' first
    | with_reducible assumption
    | (rintro x y (hx : Keeps s0 y))
    | (rintro x y z w (hx : Keeps s0 w))
    | (rintro x y z (hx : Keeps s0 z))
    | (rintro y (hx : Keeps s0 y))
    | (rintro x y (hx : Keeps s0 y.1))
    | (rintro x y (hx : Keeps s0 y.2))
    | lift_lets
    | (intro x; refine keeps_cut (x := x) (a := s0) ?_ ?_; subst x; rotate_left; clear_value x; intro hx)
    | (intro x; subst x)
    | with_reducible first | apply regionWrite_keeps

theorem touchElems_keeps (r : Region) (fmt gen el0 el1 : Nat) (s : State) (hs : Keeps s0 s) :
    Keeps s0 (touchElems r fmt gen el0 el1 s) := by
  unfold touchElems
  repeat' first
    | with_reducible assumption
    | (rintro x y (hx : Keeps s0 y))
    | (rintro x y z w (hx : Keeps s0 w))
    | (rintro x y z (hx : Keeps s0 z))
    | (rintro y (hx : Keeps s0 y))
    | (rintro x y (hx : Keeps s0 y.1))
    | (rintro x y (hx : Keeps s0 y.2))
    | lift_lets
    | (intro x; refine keeps_cut (x := x) (a := s0) ?_ ?_; subst x; rotate_left; clear_value x; intro hx)
    | (intro x; subst x)
    | with_reducible first | apply regionTouch_keeps
    | with_reducible apply keeps_ite
    | split

theorem upeErr_keeps (d : Die) (n : Nat) (s : State) (hs : Keeps s0 s) :
    Keeps s0 (upeErr d n s) := by
  unfold upeErr
  repeat' first
    | with_reducible assumption
    | (rintro x y (hx : Keeps s0 y))
    | (rintro x y z w (hx : Keeps s0 w))
    | (rintro x y z (hx : Keeps s0 z))
    | (rintro y (hx : Keeps s0 y))
    | (rintro x y (hx : Keeps s0 y.1))
    | (rintro x y (hx : Keeps s0 y.2))
    | with_reducible first | apply setErr_keeps

theorem setUeRun_keeps (d : Die) (r : Option URun) (s : State) (hs : Keeps s0 s) :
    Keeps s0 (setUeRun d r s) := by
  unfold setUeRun
  repeat' first
    | with_reducible assumption
    | (rintro x y (hx : Keeps s0 y))
    | (rintro x y z w (hx : Keeps s0 w))
    | (rintro x y z (hx : Keeps s0 z))
    | (rintro y (hx : Keeps s0 y))
    | (rintro x y (hx : Keeps s0 y.1))
    | (rintro x y (hx : Keeps s0 y.2))
    | lift_lets
    | (intro x; refine keeps_cut (x := x) (a := s0) ?_ ?_; subst x; rotate_left; clear_value x; intro hx)
    | (intro x; subst x)
    | simp -zeta only [keeps_upd]
    | with_reducible first | apply setReg_keeps | apply setDie_keeps
    | split

theorem onUe_keeps (d : Die) (vop : Nat) (fs : List (Nat × Nat × Nat)) (f : URun → UProg → State → State) (s : State)
    (hf : ∀ x0 x1 x2, Keeps s0 x2 → Keeps s0 (f x0 x1 x2)) (hs : Keeps s0 s) :
    Keeps s0 (onUe d vop fs f s) := by
  unfold onUe
  repeat' first
    | with_reducible assumption
    | (rintro x y (hx : Keeps s0 y))
    | (rintro x y z w (hx : Keeps s0 w))
    | (rintro x y z (hx : Keeps s0 z))
    | (rintro y (hx : Keeps s0 y))
    | (rintro x y (hx : Keeps s0 y.1))
    | (rintro x y (hx : Keeps s0 y.2))
    | lift_lets
    | (intro x; refine keeps_cut (x := x) (a := s0) ?_ ?_; subst x; rotate_left; clear_value x; intro hx)
    | (intro x; subst x)
    | simp -zeta only [keeps_upd]
    | with_reducible first | apply hf
    | with_reducible apply keeps_ite
    | split

theorem addBusy_keeps (d : Die) (n : Nat) (s : State) (hs : Keeps s0 s) :
    Keeps s0 (addBusy d n s) := by
  unfold addBusy
  repeat' first
    | with_reducible assumption
    | (rintro x y (hx : Keeps s0 y))
    | (rintro x y z w (hx : Keeps s0 w))
    | (rintro x y z (hx : Keeps s0 z))
    | (rintro y (hx : Keeps s0 y))
    | (rintro x y (hx : Keeps s0 y.1))
    | (rintro x y (hx : Keeps s0 y.2))
    | with_reducible first | apply setReg64_keeps
    | with_reducible apply keeps_ite
    | split

theorem stopInstance_keeps (d : Die) (s : State) (hs : Keeps s0 s) :
    Keeps s0 (stopInstance d s) := by
  unfold stopInstance
  repeat' first
    | with_reducible assumption
    | (rintro x y (hx : Keeps s0 y))
    | (rintro x y z w (hx : Keeps s0 w))
    | (rintro x y z (hx : Keeps s0 z))
    | (rintro y (hx : Keeps s0 y))
    | (rintro x y (hx : Keeps s0 y.1))
    | (rintro x y (hx : Keeps s0 y.2))
    | lift_lets
    | (intro x; refine keeps_cut (x := x) (a := s0) ?_ ?_; subst x; rotate_left; clear_value x; intro hx)
    | (intro x; subst x)
    | simp -zeta only [keeps_upd]
    | with_reducible first | apply setUeRun_keeps | apply addBusy_keeps
    | with_reducible apply keeps_foldl
    | with_reducible apply keeps_foldl1
    | with_reducible apply keeps_foldl2
    | with_reducible exact hx
    | with_reducible apply keeps_ite
    | split

theorem numSat_keeps (b layer : Nat) (s : State) (hs : Keeps s0 s) :
    Keeps s0 (numSat b layer s) := by
  unfold numSat
  repeat' first
    | with_reducible assumption
    | (rintro x y (hx : Keeps s0 y))
    | (rintro x y z w (hx : Keeps s0 w))
    | (rintro x y z (hx : Keeps s0 z))
    | (rintro y (hx : Keeps s0 y))
    | (rintro x y (hx : Keeps s0 y.1))
    | (rintro x y (hx : Keeps s0 y.2))
    | with_reducible first | apply bump_keeps | apply setErr_keeps | apply reduceItem_keeps

theorem ldsGo_keeps (d : Die) (vd t : Nat) (es : EccList) (r : URun) (u : UProg) (s : State) (hs : Keeps s0 s) :
    Keeps s0 (ldsGo d vd t es r u s) := by
  unfold ldsGo
  repeat' first
    | with_reducible assumption
    | (rintro x y (hx : Keeps s0 y))
    | (rintro x y z w (hx : Keeps s0 w))
    | (rintro x y z (hx : Keeps s0 z))
    | (rintro y (hx : Keeps s0 y))
    | (rintro x y (hx : Keeps s0 y.1))
    | (rintro x y (hx : Keeps s0 y.2))
    | lift_lets
    | (intro x; refine keeps_cut (x := x) (a := s0) ?_ ?_; subst x; rotate_left; clear_value x; intro hx)
    | (intro x; subst x)
    | simp -zeta only [keeps_upd]
    | with_reducible first | apply addFlaws_keeps | apply faultItem_keeps | apply ueStepPc_keeps | apply putUeVu_keeps | apply touchElems_keeps | apply upeErr_keeps | apply stopInstance_keeps | apply numSat_keeps
    | with_reducible apply keeps_ite
    | split

theorem stsGo_keeps (d : Die) (va t : Nat) (r : URun) (u : UProg) (s : State) (hs : Keeps s0 s) :
    Keeps s0 (stsGo d va t r u s) := by
  unfold stsGo
  repeat' first
    | with_reducible assumption
    | (rintro x y (hx : Keeps s0 y))
    | (rintro x y z w (hx : Keeps s0 w))
    | (rintro x y z (hx : Keeps s0 z))
    | (rintro y (hx : Keeps s0 y))
    | (rintro x y (hx : Keeps s0 y.1))
    | (rintro x y (hx : Keeps s0 y.2))
    | lift_lets
    | (intro x; refine keeps_cut (x := x) (a := s0) ?_ ?_; subst x; rotate_left; clear_value x; intro hx)
    | (intro x; subst x)
    | simp -zeta only [keeps_upd]
    | with_reducible first | apply regionWrite_keeps | apply ueStepPc_keeps | apply putRegionCode_keeps | apply upeErr_keeps
    | with_reducible apply keeps_foldl
    | with_reducible apply keeps_foldl1
    | with_reducible apply keeps_foldl2
    | with_reducible exact hx
    | with_reducible apply keeps_ite
    | split

theorem quantSend_keeps (rg : Region) (q : UStream) (amaxOf : Nat → W32) (run : List QBlk) (s : State) (hs : Keeps s0 s) :
    Keeps s0 (quantSend rg q amaxOf run s) := by
  unfold quantSend
  repeat' first
    | with_reducible assumption
    | (rintro x y (hx : Keeps s0 y))
    | (rintro x y z w (hx : Keeps s0 w))
    | (rintro x y z (hx : Keeps s0 z))
    | (rintro y (hx : Keeps s0 y))
    | (rintro x y (hx : Keeps s0 y.1))
    | (rintro x y (hx : Keeps s0 y.2))
    | lift_lets
    | (intro x; refine keeps_cut (x := x) (a := s0) ?_ ?_; subst x; rotate_left; clear_value x; intro hx)
    | (intro x; subst x)
    | simp -zeta only [keeps_upd]
    | with_reducible first | apply forAll_keeps | apply writeCodes_keeps | apply homeParams_keeps | apply numSat_keeps | apply run_keeps
    | split

theorem qoutGo_keeps (d : Die) (va t : Nat) (r : URun) (u : UProg) (s : State) (hs : Keeps s0 s) :
    Keeps s0 (qoutGo d va t r u s) := by
  unfold qoutGo
  repeat' first
    | with_reducible assumption
    | (rintro x y (hx : Keeps s0 y))
    | (rintro x y z w (hx : Keeps s0 w))
    | (rintro x y z (hx : Keeps s0 z))
    | (rintro y (hx : Keeps s0 y))
    | (rintro x y (hx : Keeps s0 y.1))
    | (rintro x y (hx : Keeps s0 y.2))
    | lift_lets
    | (intro x; refine keeps_cut (x := x) (a := s0) ?_ ?_; subst x; rotate_left; clear_value x; intro hx)
    | (intro x; subst x)
    | simp -zeta only [keeps_upd]
    | with_reducible first | apply forAll_keeps | apply ueStepPc_keeps | apply quantSend_keeps
    | with_reducible apply keeps_ite
    | split

theorem amaxGo_keeps (d : Die) (va : Nat) (r : URun) (u : UProg) (s : State) (hs : Keeps s0 s) :
    Keeps s0 (amaxGo d va r u s) := by
  unfold amaxGo
  repeat' first
    | with_reducible assumption
    | (rintro x y (hx : Keeps s0 y))
    | (rintro x y z w (hx : Keeps s0 w))
    | (rintro x y z (hx : Keeps s0 z))
    | (rintro y (hx : Keeps s0 y))
    | (rintro x y (hx : Keeps s0 y.1))
    | (rintro x y (hx : Keeps s0 y.2))
    | lift_lets
    | (intro x; refine keeps_cut (x := x) (a := s0) ?_ ?_; subst x; rotate_left; clear_value x; intro hx)
    | (intro x; subst x)
    | simp -zeta only [keeps_upd]
    | with_reducible first | apply setDie_keeps | apply ueStepPc_keeps
    | with_reducible apply keeps_foldl
    | with_reducible apply keeps_foldl1
    | with_reducible apply keeps_foldl2
    | with_reducible exact hx
    | with_reducible apply keeps_ite
    | split

theorem xaccGo_keeps (d : Die) (lane va vb : Nat) (s : State) (hs : Keeps s0 s) :
    Keeps s0 (xaccGo d lane va vb s) := by
  unfold xaccGo
  repeat' first
    | with_reducible assumption
    | (rintro x y (hx : Keeps s0 y))
    | (rintro x y z w (hx : Keeps s0 w))
    | (rintro x y z (hx : Keeps s0 z))
    | (rintro y (hx : Keeps s0 y))
    | (rintro x y (hx : Keeps s0 y.1))
    | (rintro x y (hx : Keeps s0 y.2))
    | lift_lets
    | (intro x; refine keeps_cut (x := x) (a := s0) ?_ ?_; subst x; rotate_left; clear_value x; intro hx)
    | (intro x; subst x)
    | simp -zeta only [keeps_upd]
    | with_reducible first | apply setDie_keeps | apply ueStepPc_keeps
    | with_reducible apply keeps_foldl
    | with_reducible apply keeps_foldl1
    | with_reducible apply keeps_foldl2
    | with_reducible exact hx

theorem xrdGo_keeps (d : Die) (sk lane : Nat) (s : State) (hs : Keeps s0 s) :
    Keeps s0 (xrdGo d sk lane s) := by
  unfold xrdGo
  repeat' first
    | with_reducible assumption
    | (rintro x y (hx : Keeps s0 y))
    | (rintro x y z w (hx : Keeps s0 w))
    | (rintro x y z (hx : Keeps s0 z))
    | (rintro y (hx : Keeps s0 y))
    | (rintro x y (hx : Keeps s0 y.1))
    | (rintro x y (hx : Keeps s0 y.2))
    | lift_lets
    | (intro x; refine keeps_cut (x := x) (a := s0) ?_ ?_; subst x; rotate_left; clear_value x; intro hx)
    | (intro x; subst x)
    | simp -zeta only [keeps_upd]
    | with_reducible first | apply setDie_keeps | apply ueStepPc_keeps
    | with_reducible apply keeps_ite
    | split

theorem scalGo_keeps (d : Die) (vd sk : Nat) (s : State) (hs : Keeps s0 s) :
    Keeps s0 (scalGo d vd sk s) := by
  unfold scalGo
  repeat' first
    | with_reducible assumption
    | (rintro x y (hx : Keeps s0 y))
    | (rintro x y z w (hx : Keeps s0 w))
    | (rintro x y z (hx : Keeps s0 z))
    | (rintro y (hx : Keeps s0 y))
    | (rintro x y (hx : Keeps s0 y.1))
    | (rintro x y (hx : Keeps s0 y.2))
    | lift_lets
    | (intro x; refine keeps_cut (x := x) (a := s0) ?_ ?_; subst x; rotate_left; clear_value x; intro hx)
    | (intro x; subst x)
    | with_reducible first | apply putUeVu_keeps

theorem xchgDone_keeps (prog : Nat) (s : State) (hs : Keeps s0 s) :
    Keeps s0 (xchgDone prog s) := by
  unfold xchgDone
  repeat' first
    | with_reducible assumption
    | (rintro x y (hx : Keeps s0 y))
    | (rintro x y z w (hx : Keeps s0 w))
    | (rintro x y z (hx : Keeps s0 z))
    | (rintro y (hx : Keeps s0 y))
    | (rintro x y (hx : Keeps s0 y.1))
    | (rintro x y (hx : Keeps s0 y.2))
    | lift_lets
    | (intro x; refine keeps_cut (x := x) (a := s0) ?_ ?_; subst x; rotate_left; clear_value x; intro hx)
    | (intro x; subst x)
    | simp -zeta only [keeps_upd]
    | with_reducible first | apply bump_keeps | apply forAll_keeps | apply setDie_keeps | apply addBusy_keeps
    | with_reducible apply keeps_foldl
    | with_reducible apply keeps_foldl1
    | with_reducible apply keeps_foldl2
    | with_reducible exact hx
    | with_reducible apply keeps_ite
    | split

theorem uePass_keeps (d : Die) (r : URun) (u : UProg) (s : State) (hs : Keeps s0 s) :
    Keeps s0 (uePass d r u s) := by
  unfold uePass
  repeat' first
    | with_reducible assumption
    | (rintro x y (hx : Keeps s0 y))
    | (rintro x y z w (hx : Keeps s0 w))
    | (rintro x y z (hx : Keeps s0 z))
    | (rintro y (hx : Keeps s0 y))
    | (rintro x y (hx : Keeps s0 y.1))
    | (rintro x y (hx : Keeps s0 y.2))
    | with_reducible first | apply setUeRun_keeps
    | with_reducible apply keeps_ite
    | split

theorem ueLoop_keeps (d : Die) (r : URun) (u : UProg) (k g : Nat) (rest : List Nat) (s : State) (hs : Keeps s0 s) :
    Keeps s0 (ueLoop d r u k g rest s) := by
  unfold ueLoop
  repeat' first
    | with_reducible assumption
    | (rintro x y (hx : Keeps s0 y))
    | (rintro x y z w (hx : Keeps s0 w))
    | (rintro x y z (hx : Keeps s0 z))
    | (rintro y (hx : Keeps s0 y))
    | (rintro x y (hx : Keeps s0 y.1))
    | (rintro x y (hx : Keeps s0 y.2))
    | lift_lets
    | (intro x; refine keeps_cut (x := x) (a := s0) ?_ ?_; subst x; rotate_left; clear_value x; intro hx)
    | (intro x; subst x)
    | simp -zeta only [keeps_upd]
    | with_reducible first | apply bump_keeps | apply setUeRun_keeps | apply addBusy_keeps | apply uePass_keeps
    | with_reducible apply keeps_ite
    | split

theorem endGo_keeps (d : Die) (r : URun) (u : UProg) (s : State) (hs : Keeps s0 s) :
    Keeps s0 (endGo d r u s) := by
  unfold endGo
  repeat' first
    | with_reducible assumption
    | (rintro x y (hx : Keeps s0 y))
    | (rintro x y z w (hx : Keeps s0 w))
    | (rintro x y z (hx : Keeps s0 z))
    | (rintro y (hx : Keeps s0 y))
    | (rintro x y (hx : Keeps s0 y.1))
    | (rintro x y (hx : Keeps s0 y.2))
    | lift_lets
    | (intro x; refine keeps_cut (x := x) (a := s0) ?_ ?_; subst x; rotate_left; clear_value x; intro hx)
    | (intro x; subst x)
    | simp -zeta only [keeps_upd]
    | with_reducible first | apply addBusy_keeps | apply uePass_keeps | apply ueLoop_keeps
    | split

theorem ueStart_keeps (d : Die) (s : State) (hs : Keeps s0 s) :
    Keeps s0 (ueStart d s) := by
  unfold ueStart
  repeat' first
    | with_reducible assumption
    | (rintro x y (hx : Keeps s0 y))
    | (rintro x y z w (hx : Keeps s0 w))
    | (rintro x y z (hx : Keeps s0 z))
    | (rintro y (hx : Keeps s0 y))
    | (rintro x y (hx : Keeps s0 y.1))
    | (rintro x y (hx : Keeps s0 y.2))
    | lift_lets
    | (intro x; refine keeps_cut (x := x) (a := s0) ?_ ?_; subst x; rotate_left; clear_value x; intro hx)
    | (intro x; subst x)
    | simp -zeta only [keeps_upd]
    | with_reducible first | apply setDie_keeps | apply setUeRun_keeps
    | with_reducible apply keeps_ite
    | split

theorem ringDeliver_keeps (m : RingMsg) (s : State) (hs : Keeps s0 s) :
    Keeps s0 (ringDeliver m s) := by
  unfold ringDeliver
  repeat' first
    | with_reducible assumption
    | (rintro x y (hx : Keeps s0 y))
    | (rintro x y z w (hx : Keeps s0 w))
    | (rintro x y z (hx : Keeps s0 z))
    | (rintro y (hx : Keeps s0 y))
    | (rintro x y (hx : Keeps s0 y.1))
    | (rintro x y (hx : Keeps s0 y.2))
    | lift_lets
    | (intro x; refine keeps_cut (x := x) (a := s0) ?_ ?_; subst x; rotate_left; clear_value x; intro hx)
    | (intro x; subst x)
    | simp -zeta only [keeps_upd]
    | with_reducible first | apply hbmWrite_keeps | apply farSignal_keeps
    | with_reducible apply keeps_ite
    | split

theorem ringFlit_keeps (k : Nat) (ok : Bool) (m : RingMsg) (s : State) (hs : Keeps s0 s) :
    Keeps s0 (ringFlit k ok m s) := by
  unfold ringFlit
  repeat' first
    | with_reducible assumption
    | (rintro x y (hx : Keeps s0 y))
    | (rintro x y z w (hx : Keeps s0 w))
    | (rintro x y z (hx : Keeps s0 z))
    | (rintro y (hx : Keeps s0 y))
    | (rintro x y (hx : Keeps s0 y.1))
    | (rintro x y (hx : Keeps s0 y.2))
    | lift_lets
    | (intro x; refine keeps_cut (x := x) (a := s0) ?_ ?_; subst x; rotate_left; clear_value x; intro hx)
    | (intro x; subst x)
    | simp -zeta only [keeps_upd]
    | with_reducible first | apply bump_keeps | apply setDie_keeps | apply segmentDown_keeps | apply ringDeliver_keeps
    | with_reducible apply keeps_ite
    | split

theorem lcopyRec_keeps (u v : Nat) (st : Strm) (i : Img) (k : Nat) (r : OpRec) (s : State) (hs : Keeps s0 s) :
    Keeps s0 (lcopyRec u v st i k r s) := by
  unfold lcopyRec
  repeat' first
    | with_reducible assumption
    | (rintro x y (hx : Keeps s0 y))
    | (rintro x y z w (hx : Keeps s0 w))
    | (rintro x y z (hx : Keeps s0 z))
    | (rintro y (hx : Keeps s0 y))
    | (rintro x y (hx : Keeps s0 y.1))
    | (rintro x y (hx : Keeps s0 y.2))
    | lift_lets
    | (intro x; refine keeps_cut (x := x) (a := s0) ?_ ?_; subst x; rotate_left; clear_value x; intro hx)
    | (intro x; subst x)
    | with_reducible first | apply startOp_keeps
    | with_reducible apply keeps_ite
    | split

theorem sendRec_keeps (mc : Bool) (u v : Nat) (st : Strm) (i : Img) (k : Nat) (r : OpRec) (s : State) (hs : Keeps s0 s) :
    Keeps s0 (sendRec mc u v st i k r s) := by
  unfold sendRec
  repeat' first
    | with_reducible assumption
    | (rintro x y (hx : Keeps s0 y))
    | (rintro x y z w (hx : Keeps s0 w))
    | (rintro x y z (hx : Keeps s0 z))
    | (rintro y (hx : Keeps s0 y))
    | (rintro x y (hx : Keeps s0 y.1))
    | (rintro x y (hx : Keeps s0 y.2))
    | lift_lets
    | (intro x; refine keeps_cut (x := x) (a := s0) ?_ ?_; subst x; rotate_left; clear_value x; intro hx)
    | (intro x; subst x)
    | simp -zeta only [keeps_upd]
    | with_reducible first | apply setTile_keeps | apply contractFault_keeps | apply pumpSends_keeps | apply startOp_keeps
    | with_reducible apply keeps_ite
    | split

theorem recvRec_keeps (u v : Nat) (st : Strm) (w1 : Img) (k : Nat) (r : OpRec) (s : State) (hs : Keeps s0 s) :
    Keeps s0 (recvRec u v st w1 k r s) := by
  unfold recvRec
  repeat' first
    | with_reducible assumption
    | (rintro x y (hx : Keeps s0 y))
    | (rintro x y z w (hx : Keeps s0 w))
    | (rintro x y z (hx : Keeps s0 z))
    | (rintro y (hx : Keeps s0 y))
    | (rintro x y (hx : Keeps s0 y.1))
    | (rintro x y (hx : Keeps s0 y.2))
    | lift_lets
    | (intro x; refine keeps_cut (x := x) (a := s0) ?_ ?_; subst x; rotate_left; clear_value x; intro hx)
    | (intro x; subst x)
    | with_reducible first | apply setTile_keeps | apply startOp_keeps

theorem completeOp_keeps (u v : Nat) (st : Strm) (idx : Nat) (s : State) (hs : Keeps s0 s) :
    Keeps s0 (completeOp u v st idx s) := by
  unfold completeOp
  repeat' first
    | with_reducible assumption
    | (rintro x y (hx : Keeps s0 y))
    | (rintro x y z w (hx : Keeps s0 w))
    | (rintro x y z (hx : Keeps s0 z))
    | (rintro y (hx : Keeps s0 y))
    | (rintro x y (hx : Keeps s0 y.1))
    | (rintro x y (hx : Keeps s0 y.2))
    | lift_lets
    | (intro x; refine keeps_cut (x := x) (a := s0) ?_ ?_; subst x; rotate_left; clear_value x; intro hx)
    | (intro x; subst x)
    | simp -zeta only [keeps_upd]
    | with_reducible first | apply forAll_keeps | apply setTile_keeps | apply contractFault_keeps | apply wrEvents_keeps
    | with_reducible apply keeps_foldl
    | with_reducible apply keeps_foldl1
    | with_reducible apply keeps_foldl2
    | with_reducible exact hx
    | with_reducible apply keeps_ite
    | split

theorem tapFull_keeps (i : Img) (u v : Nat) (s : State) (hs : Keeps s0 s) :
    Keeps s0 (tapFull i u v s) := by
  unfold tapFull
  repeat' first
    | with_reducible assumption
    | (rintro x y (hx : Keeps s0 y))
    | (rintro x y z w (hx : Keeps s0 w))
    | (rintro x y z (hx : Keeps s0 z))
    | (rintro y (hx : Keeps s0 y))
    | (rintro x y (hx : Keeps s0 y.1))
    | (rintro x y (hx : Keeps s0 y.2))
    | with_reducible first | apply slotColl_keeps | apply queueOvf_keeps
    | with_reducible apply keeps_ite
    | split

theorem park_keeps (i : Img) (u v port : Nat) (b : FsBlock) (s : State) (hs : Keeps s0 s) :
    Keeps s0 (park i u v port b s) := by
  unfold park
  repeat' first
    | with_reducible assumption
    | (rintro x y (hx : Keeps s0 y))
    | (rintro x y z w (hx : Keeps s0 w))
    | (rintro x y z (hx : Keeps s0 z))
    | (rintro y (hx : Keeps s0 y))
    | (rintro x y (hx : Keeps s0 y.1))
    | (rintro x y (hx : Keeps s0 y.2))
    | lift_lets
    | (intro x; refine keeps_cut (x := x) (a := s0) ?_ ?_; subst x; rotate_left; clear_value x; intro hx)
    | (intro x; subst x)
    | simp -zeta only [keeps_upd]
    | with_reducible first | apply setTile_keeps | apply tapFull_keeps
    | with_reducible apply keeps_ite
    | split

theorem hbmFault_keeps (a : Nat) (s : State) (hs : Keeps s0 s) :
    Keeps s0 (hbmFault a s) := by
  unfold hbmFault
  repeat' first
    | with_reducible assumption
    | (rintro x y (hx : Keeps s0 y))
    | (rintro x y z w (hx : Keeps s0 w))
    | (rintro x y z (hx : Keeps s0 z))
    | (rintro y (hx : Keeps s0 y))
    | (rintro x y (hx : Keeps s0 y.1))
    | (rintro x y (hx : Keeps s0 y.2))
    | lift_lets
    | (intro x; refine keeps_cut (x := x) (a := s0) ?_ ?_; subst x; rotate_left; clear_value x; intro hx)
    | (intro x; subst x)
    | simp -zeta only [keeps_upd]
    | with_reducible first | apply faultItem_keeps | apply callHalt_keeps | apply recDetected_keeps | apply noteFault_keeps
    | with_reducible apply keeps_ite
    | split

theorem tapFault_keeps (i : Img) (bus : Bus) (k : Nat) (prev : Option Nat) (poisoned : Bool) (s : State) (hs : Keeps s0 s) :
    Keeps s0 (tapFault i bus k prev poisoned s) := by
  unfold tapFault
  repeat' first
    | with_reducible assumption
    | (rintro x y (hx : Keeps s0 y))
    | (rintro x y z w (hx : Keeps s0 w))
    | (rintro x y z (hx : Keeps s0 z))
    | (rintro y (hx : Keeps s0 y))
    | (rintro x y (hx : Keeps s0 y.1))
    | (rintro x y (hx : Keeps s0 y.2))
    | lift_lets
    | (intro x; refine keeps_cut (x := x) (a := s0) ?_ ?_; subst x; rotate_left; clear_value x; intro hx)
    | (intro x; subst x)
    | simp -zeta only [keeps_upd]
    | with_reducible first | apply tileNetErr_keeps | apply faultItem_keeps | apply callHalt_keeps | apply tileFault_keeps
    | with_reducible apply keeps_ite
    | split

theorem tapTake_keeps (u v : Nat) (o : Op) (n : Nat) (b : FsBlock) (s : State) (hs : Keeps s0 s) :
    Keeps s0 (tapTake u v o n b s) := by
  unfold tapTake
  repeat' first
    | with_reducible assumption
    | (rintro x y (hx : Keeps s0 y))
    | (rintro x y z w (hx : Keeps s0 w))
    | (rintro x y z (hx : Keeps s0 z))
    | (rintro y (hx : Keeps s0 y))
    | (rintro x y (hx : Keeps s0 y.1))
    | (rintro x y (hx : Keeps s0 y.2))
    | lift_lets
    | (intro x; refine keeps_cut (x := x) (a := s0) ?_ ?_; subst x; rotate_left; clear_value x; intro hx)
    | (intro x; subst x)
    | simp -zeta only [keeps_upd]
    | with_reducible first | apply setTile_keeps
    | with_reducible apply keeps_ite
    | split

theorem walkIn_keeps (i : Img) (bus : Bus) : ∀ (a0 : Nat) (a1 : Nat) (a2 : FsBlock) (s : State), Keeps s0 s →
    Keeps s0 (walkIn i bus a0 a1 a2 s) := by
  intro a0
  induction a0 with
  | zero => intro a1 a2 s hs; unfold walkIn; first | exact hs | (split <;> exact hs)
  | succ n ih =>
    intro a1 a2 s hs
    unfold walkIn
    repeat' first
      | with_reducible assumption
      | with_reducible apply ih
      | (rintro x y (hx : Keeps s0 y))
      | (rintro x y z w (hx : Keeps s0 w))
      | (rintro x y z (hx : Keeps s0 z))
      | (rintro y (hx : Keeps s0 y))
      | (rintro x y (hx : Keeps s0 y.1))
      | (rintro x y (hx : Keeps s0 y.2))
      | lift_lets
      | (intro x; refine keeps_cut (x := x) (a := s0) ?_ ?_; subst x; rotate_left; clear_value x; intro hx)
      | (intro x; subst x)
      | simp -zeta only [keeps_upd]
      | with_reducible first | apply park_keeps | apply tapFault_keeps | apply tapTake_keeps
      | with_reducible apply keeps_ite
      | split

theorem inboundAt_keeps (u v : Nat) (bus : Bus) (b : FsBlock) (s : State) (hs : Keeps s0 s) :
    Keeps s0 (inboundAt u v bus b s) := by
  unfold inboundAt
  repeat' first
    | with_reducible assumption
    | (rintro x y (hx : Keeps s0 y))
    | (rintro x y z w (hx : Keeps s0 w))
    | (rintro x y z (hx : Keeps s0 z))
    | (rintro y (hx : Keeps s0 y))
    | (rintro x y (hx : Keeps s0 y.1))
    | (rintro x y (hx : Keeps s0 y.2))
    | lift_lets
    | (intro x; refine keeps_cut (x := x) (a := s0) ?_ ?_; subst x; rotate_left; clear_value x; intro hx)
    | (intro x; subst x)
    | simp -zeta only [keeps_upd]
    | with_reducible first | apply walkIn_keeps
    | with_reducible apply keeps_ite
    | split

theorem tapinRec_keeps (u v : Nat) (st : Strm) (i : Img) (k : Nat) (r : OpRec) (s : State) (hs : Keeps s0 s) :
    Keeps s0 (tapinRec u v st i k r s) := by
  unfold tapinRec
  repeat' first
    | with_reducible assumption
    | (rintro x y (hx : Keeps s0 y))
    | (rintro x y z w (hx : Keeps s0 w))
    | (rintro x y z (hx : Keeps s0 z))
    | (rintro y (hx : Keeps s0 y))
    | (rintro x y (hx : Keeps s0 y.1))
    | (rintro x y (hx : Keeps s0 y.2))
    | lift_lets
    | (intro x; refine keeps_cut (x := x) (a := s0) ?_ ?_; subst x; rotate_left; clear_value x; intro hx)
    | (intro x; subst x)
    | simp -zeta only [keeps_upd]
    | with_reducible first | apply setTile_keeps | apply startOp_keeps | apply tapTake_keeps
    | with_reducible apply keeps_foldl
    | with_reducible apply keeps_foldl1
    | with_reducible apply keeps_foldl2
    | with_reducible exact hx
    | split

theorem sumpWrite_keeps (e : Die) (d : SumpTag) (r : Region) (off : Nat) (data : List Byte) (s : State) (hs : Keeps s0 s) :
    Keeps s0 (sumpWrite e d r off data s) := by
  unfold sumpWrite
  repeat' first
    | with_reducible assumption
    | (rintro x y (hx : Keeps s0 y))
    | (rintro x y z w (hx : Keeps s0 w))
    | (rintro x y z (hx : Keeps s0 z))
    | (rintro y (hx : Keeps s0 y))
    | (rintro x y (hx : Keeps s0 y.1))
    | (rintro x y (hx : Keeps s0 y.2))
    | lift_lets
    | (intro x; refine keeps_cut (x := x) (a := s0) ?_ ?_; subst x; rotate_left; clear_value x; intro hx)
    | (intro x; subst x)
    | simp -zeta only [keeps_upd]
    | with_reducible first | apply bump_keeps | apply setDie_keeps | apply regionWrite_keeps
    | with_reducible apply keeps_ite
    | split

theorem preFill_keeps (d : Die) (bus : Bus) (tag seq : Nat) (es : EccList) (data : List Byte) (runs : List (Nat × Nat)) (zero : Bool) (s : State) (hs : Keeps s0 s) :
    Keeps s0 (preFill d bus tag seq es data runs zero s) := by
  unfold preFill
  repeat' first
    | with_reducible assumption
    | (rintro x y (hx : Keeps s0 y))
    | (rintro x y z w (hx : Keeps s0 w))
    | (rintro x y z (hx : Keeps s0 z))
    | (rintro y (hx : Keeps s0 y))
    | (rintro x y (hx : Keeps s0 y.1))
    | (rintro x y (hx : Keeps s0 y.2))
    | lift_lets
    | (intro x; refine keeps_cut (x := x) (a := s0) ?_ ?_; subst x; rotate_left; clear_value x; intro hx)
    | (intro x; subst x)
    | simp -zeta only [keeps_upd]
    | with_reducible first | apply addFlaws_keeps | apply hbmTouch_keeps | apply setDie_keeps | apply hbmFault_keeps
    | with_reducible apply keeps_foldl
    | with_reducible apply keeps_foldl1
    | with_reducible apply keeps_foldl2
    | with_reducible exact hx
    | split

theorem preRead_keeps (bus : Bus) (tag seq : Nat) (es : EccList) (s : State) (hs : Keeps s0 s) :
    Keeps s0 (preRead bus tag seq es s) := by
  unfold preRead
  repeat' first
    | with_reducible assumption
    | (rintro x y (hx : Keeps s0 y))
    | (rintro x y z w (hx : Keeps s0 w))
    | (rintro x y z (hx : Keeps s0 z))
    | (rintro y (hx : Keeps s0 y))
    | (rintro x y (hx : Keeps s0 y.1))
    | (rintro x y (hx : Keeps s0 y.2))
    | lift_lets
    | (intro x; refine keeps_cut (x := x) (a := s0) ?_ ?_; subst x; rotate_left; clear_value x; intro hx)
    | (intro x; subst x)
    | simp -zeta only [keeps_upd]
    | with_reducible first | apply preFill_keeps
    | with_reducible apply keeps_ite
    | split

theorem injected_keeps (d : Die) (bus : Bus) (k : Nat) (s : State) (hs : Keeps s0 s) :
    Keeps s0 (injected d bus k s) := by
  unfold injected
  repeat' first
    | with_reducible assumption
    | (rintro x y (hx : Keeps s0 y))
    | (rintro x y z w (hx : Keeps s0 w))
    | (rintro x y z (hx : Keeps s0 z))
    | (rintro y (hx : Keeps s0 y))
    | (rintro x y (hx : Keeps s0 y.1))
    | (rintro x y (hx : Keeps s0 y.2))
    | lift_lets
    | (intro x; refine keeps_cut (x := x) (a := s0) ?_ ?_; subst x; rotate_left; clear_value x; intro hx)
    | (intro x; subst x)
    | simp -zeta only [keeps_upd]
    | with_reducible first | apply setDie_keeps

theorem injectBlock_keeps (i : Img) (d : Die) (bus : Bus) (k tag seq : Nat) (p : PreBlk) (s : State) (hs : Keeps s0 s) :
    Keeps s0 (injectBlock i d bus k tag seq p s) := by
  unfold injectBlock
  repeat' first
    | with_reducible assumption
    | (rintro x y (hx : Keeps s0 y))
    | (rintro x y z w (hx : Keeps s0 w))
    | (rintro x y z (hx : Keeps s0 z))
    | (rintro y (hx : Keeps s0 y))
    | (rintro x y (hx : Keeps s0 y.1))
    | (rintro x y (hx : Keeps s0 y.2))
    | lift_lets
    | (intro x; refine keeps_cut (x := x) (a := s0) ?_ ?_; subst x; rotate_left; clear_value x; intro hx)
    | (intro x; subst x)
    | simp -zeta only [keeps_upd]
    | with_reducible first | apply setDie_keeps | apply contractFault_keeps | apply walkIn_keeps | apply injected_keeps
    | with_reducible apply keeps_ite
    | split

theorem blockInject_keeps (bus : Bus) (tag seq : Nat) (s : State) (hs : Keeps s0 s) :
    Keeps s0 (blockInject bus tag seq s) := by
  unfold blockInject
  repeat' first
    | with_reducible assumption
    | (rintro x y (hx : Keeps s0 y))
    | (rintro x y z w (hx : Keeps s0 w))
    | (rintro x y z (hx : Keeps s0 z))
    | (rintro y (hx : Keeps s0 y))
    | (rintro x y (hx : Keeps s0 y.1))
    | (rintro x y (hx : Keeps s0 y.2))
    | lift_lets
    | (intro x; refine keeps_cut (x := x) (a := s0) ?_ ?_; subst x; rotate_left; clear_value x; intro hx)
    | (intro x; subst x)
    | simp -zeta only [keeps_upd]
    | with_reducible first | apply bump_keeps | apply setErr_keeps | apply contractFault_keeps | apply injected_keeps | apply injectBlock_keeps
    | with_reducible apply keeps_ite
    | split

theorem stageCount_keeps (i : Img) (r : Region) (n : Nat) (s : State) (hs : Keeps s0 s) :
    Keeps s0 (stageCount i r n s) := by
  unfold stageCount
  repeat' first
    | with_reducible assumption
    | (rintro x y (hx : Keeps s0 y))
    | (rintro x y z w (hx : Keeps s0 w))
    | (rintro x y z (hx : Keeps s0 z))
    | (rintro y (hx : Keeps s0 y))
    | (rintro x y (hx : Keeps s0 y.1))
    | (rintro x y (hx : Keeps s0 y.2))
    | lift_lets
    | (intro x; refine keeps_cut (x := x) (a := s0) ?_ ?_; subst x; rotate_left; clear_value x; intro hx)
    | (intro x; subst x)
    | simp -zeta only [keeps_upd]
    | with_reducible first | apply forAll_keeps | apply regionTouch_keeps | apply farSignal_keeps | apply sendTo_keeps | apply xferIn_keeps
    | with_reducible apply keeps_foldl
    | with_reducible apply keeps_foldl1
    | with_reducible apply keeps_foldl2
    | with_reducible exact hx
    | with_reducible apply keeps_ite
    | split

theorem regionBlock_keeps (i : Img) (r : Region) (off : Nat) (data : List Byte) (s : State) (hs : Keeps s0 s) :
    Keeps s0 (regionBlock i r off data s) := by
  unfold regionBlock
  repeat' first
    | with_reducible assumption
    | (rintro x y (hx : Keeps s0 y))
    | (rintro x y z w (hx : Keeps s0 w))
    | (rintro x y z (hx : Keeps s0 z))
    | (rintro y (hx : Keeps s0 y))
    | (rintro x y (hx : Keeps s0 y.1))
    | (rintro x y (hx : Keeps s0 y.2))
    | lift_lets
    | (intro x; refine keeps_cut (x := x) (a := s0) ?_ ?_; subst x; rotate_left; clear_value x; intro hx)
    | (intro x; subst x)
    | simp -zeta only [keeps_upd]
    | with_reducible first | apply regionWrite_keeps | apply stageCount_keeps
    | split

theorem gradientBlock_keeps (e : Die) (t : TagEntry) (bus : Bus) (b : FsBlock) (s : State) (hs : Keeps s0 s) :
    Keeps s0 (gradientBlock e t bus b s) := by
  unfold gradientBlock
  repeat' first
    | with_reducible assumption
    | (rintro x y (hx : Keeps s0 y))
    | (rintro x y z w (hx : Keeps s0 w))
    | (rintro x y z (hx : Keeps s0 z))
    | (rintro y (hx : Keeps s0 y))
    | (rintro x y (hx : Keeps s0 y.1))
    | (rintro x y (hx : Keeps s0 y.2))
    | lift_lets
    | (intro x; refine keeps_cut (x := x) (a := s0) ?_ ?_; subst x; rotate_left; clear_value x; intro hx)
    | (intro x; subst x)
    | simp -zeta only [keeps_upd]
    | with_reducible first | apply bump_keeps | apply setErr_keeps | apply collectBlock_keeps
    | with_reducible apply keeps_ite
    | split

theorem enterColl_keeps (d : Die) (bus : Bus) (s : State) (hs : Keeps s0 s) :
    Keeps s0 (enterColl d bus s) := by
  unfold enterColl
  repeat' first
    | with_reducible assumption
    | (rintro x y (hx : Keeps s0 y))
    | (rintro x y z w (hx : Keeps s0 w))
    | (rintro x y z (hx : Keeps s0 z))
    | (rintro y (hx : Keeps s0 y))
    | (rintro x y (hx : Keeps s0 y.1))
    | (rintro x y (hx : Keeps s0 y.2))
    | lift_lets
    | (intro x; refine keeps_cut (x := x) (a := s0) ?_ ?_; subst x; rotate_left; clear_value x; intro hx)
    | (intro x; subst x)
    | simp -zeta only [keeps_upd]
    | with_reducible first | apply setDie_keeps

theorem collect_keeps (bus : Bus) (b : FsBlock) (s : State) (hs : Keeps s0 s) :
    Keeps s0 (collect bus b s) := by
  unfold collect
  repeat' first
    | with_reducible assumption
    | (rintro x y (hx : Keeps s0 y))
    | (rintro x y z w (hx : Keeps s0 w))
    | (rintro x y z (hx : Keeps s0 z))
    | (rintro y (hx : Keeps s0 y))
    | (rintro x y (hx : Keeps s0 y.1))
    | (rintro x y (hx : Keeps s0 y.2))
    | lift_lets
    | (intro x; refine keeps_cut (x := x) (a := s0) ?_ ?_; subst x; rotate_left; clear_value x; intro hx)
    | (intro x; subst x)
    | simp -zeta only [keeps_upd]
    | with_reducible first | apply bump_keeps | apply setErr_keeps | apply tileFault_keeps | apply sumpWrite_keeps | apply regionBlock_keeps | apply gradientBlock_keeps | apply enterColl_keeps
    | with_reducible apply keeps_ite
    | split

theorem collectorIn_keeps (bus : Bus) (b : FsBlock) (s : State) (hs : Keeps s0 s) :
    Keeps s0 (collectorIn bus b s) := by
  unfold collectorIn
  repeat' first
    | with_reducible assumption
    | (rintro x y (hx : Keeps s0 y))
    | (rintro x y z w (hx : Keeps s0 w))
    | (rintro x y z (hx : Keeps s0 z))
    | (rintro y (hx : Keeps s0 y))
    | (rintro x y (hx : Keeps s0 y.1))
    | (rintro x y (hx : Keeps s0 y.2))
    | lift_lets
    | (intro x; refine keeps_cut (x := x) (a := s0) ?_ ?_; subst x; rotate_left; clear_value x; intro hx)
    | (intro x; subst x)
    | simp -zeta only [keeps_upd]
    | with_reducible first | apply tapFull_keeps | apply collect_keeps
    | with_reducible apply keeps_ite
    | split

theorem walkOut_keeps (i : Img) (bus : Bus) : ∀ (a0 : Nat) (a1 : FsBlock) (s : State), Keeps s0 s →
    Keeps s0 (walkOut i bus a0 a1 s) := by
  intro a0
  induction a0 with
  | zero =>
    intro a1 s hs
    unfold walkOut
    repeat' first
      | with_reducible assumption
      | (rintro x y (hx : Keeps s0 y))
      | (rintro x y z w (hx : Keeps s0 w))
      | (rintro x y z (hx : Keeps s0 z))
      | (rintro y (hx : Keeps s0 y))
      | (rintro x y (hx : Keeps s0 y.1))
      | (rintro x y (hx : Keeps s0 y.2))
      | lift_lets
      | (intro x; refine keeps_cut (x := x) (a := s0) ?_ ?_; subst x; rotate_left; clear_value x; intro hx)
      | (intro x; subst x)
      | simp -zeta only [keeps_upd]
      | with_reducible first | apply setTile_keeps | apply tileNetErr_keeps | apply slotColl_keeps | apply park_keeps | apply tapFault_keeps | apply collect_keeps
      | with_reducible apply keeps_ite
      | split
  | succ n ih =>
    intro a1 s hs
    unfold walkOut
    repeat' first
      | with_reducible assumption
      | with_reducible apply ih
      | (rintro x y (hx : Keeps s0 y))
      | (rintro x y z w (hx : Keeps s0 w))
      | (rintro x y z (hx : Keeps s0 z))
      | (rintro y (hx : Keeps s0 y))
      | (rintro x y (hx : Keeps s0 y.1))
      | (rintro x y (hx : Keeps s0 y.2))
      | lift_lets
      | (intro x; refine keeps_cut (x := x) (a := s0) ?_ ?_; subst x; rotate_left; clear_value x; intro hx)
      | (intro x; subst x)
      | simp -zeta only [keeps_upd]
      | with_reducible first | apply setTile_keeps | apply tileNetErr_keeps | apply slotColl_keeps | apply park_keeps | apply tapFault_keeps | apply collect_keeps
      | with_reducible apply keeps_ite
      | split

theorem createOut_keeps (i : Img) (bus : Bus) (hi : Nat) (st : Strm) (k : Nat) (r : OpRec) : ∀ (a0 : Nat) (s : State), Keeps s0 s →
    Keeps s0 (createOut i bus hi st k r a0 s) := by
  intro a0
  induction a0 with
  | zero => intro s hs; unfold createOut; first | exact hs | (split <;> exact hs)
  | succ n ih =>
    intro s hs
    unfold createOut
    repeat' first
      | with_reducible assumption
      | with_reducible apply ih
      | (rintro x y (hx : Keeps s0 y))
      | (rintro x y z w (hx : Keeps s0 w))
      | (rintro x y z (hx : Keeps s0 z))
      | (rintro y (hx : Keeps s0 y))
      | (rintro x y (hx : Keeps s0 y.1))
      | (rintro x y (hx : Keeps s0 y.2))
      | lift_lets
      | (intro x; refine keeps_cut (x := x) (a := s0) ?_ ?_; subst x; rotate_left; clear_value x; intro hx)
      | (intro x; subst x)
      | simp -zeta only [keeps_upd]
      | with_reducible first | apply setTile_keeps | apply slotColl_keeps | apply walkOut_keeps
      | with_reducible apply keeps_ite
      | split

theorem releaseOut_keeps (i : Img) (bus : Bus) (n : Nat) (s : State) (hs : Keeps s0 s) :
    Keeps s0 (releaseOut i bus n s) := by
  unfold releaseOut
  repeat' first
    | with_reducible assumption
    | (rintro x y (hx : Keeps s0 y))
    | (rintro x y z w (hx : Keeps s0 w))
    | (rintro x y z (hx : Keeps s0 z))
    | (rintro y (hx : Keeps s0 y))
    | (rintro x y (hx : Keeps s0 y.1))
    | (rintro x y (hx : Keeps s0 y.2))
    | lift_lets
    | (intro x; refine keeps_cut (x := x) (a := s0) ?_ ?_; subst x; rotate_left; clear_value x; intro hx)
    | (intro x; subst x)
    | simp -zeta only [keeps_upd]
    | with_reducible first | apply setTile_keeps | apply slotColl_keeps | apply walkOut_keeps
    | with_reducible apply keeps_foldl
    | with_reducible apply keeps_foldl1
    | with_reducible apply keeps_foldl2
    | with_reducible exact hx
    | with_reducible apply keeps_ite
    | split

theorem pullOut_keeps (i : Img) (bus : Bus) (n : Nat) (st : Strm) (k : Nat) (r : OpRec) (s : State) (hs : Keeps s0 s) :
    Keeps s0 (pullOut i bus n st k r s) := by
  unfold pullOut
  repeat' first
    | with_reducible assumption
    | (rintro x y (hx : Keeps s0 y))
    | (rintro x y z w (hx : Keeps s0 w))
    | (rintro x y z (hx : Keeps s0 z))
    | (rintro y (hx : Keeps s0 y))
    | (rintro x y (hx : Keeps s0 y.1))
    | (rintro x y (hx : Keeps s0 y.2))
    | lift_lets
    | (intro x; refine keeps_cut (x := x) (a := s0) ?_ ?_; subst x; rotate_left; clear_value x; intro hx)
    | (intro x; subst x)
    | with_reducible first | apply forAll_keeps | apply createOut_keeps | apply releaseOut_keeps

theorem tapsAtEnd_keeps (s : State) (hs : Keeps s0 s) :
    Keeps s0 (tapsAtEnd s) := by
  unfold tapsAtEnd
  repeat' first
    | with_reducible assumption
    | (rintro x y (hx : Keeps s0 y))
    | (rintro x y z w (hx : Keeps s0 w))
    | (rintro x y z (hx : Keeps s0 z))
    | (rintro y (hx : Keeps s0 y))
    | (rintro x y (hx : Keeps s0 y.1))
    | (rintro x y (hx : Keeps s0 y.2))
    | lift_lets
    | (intro x; refine keeps_cut (x := x) (a := s0) ?_ ?_; subst x; rotate_left; clear_value x; intro hx)
    | (intro x; subst x)
    | simp -zeta only [keeps_upd]
    | with_reducible first | apply forAll_keeps | apply setTile_keeps | apply slotColl_keeps | apply walkOut_keeps
    | with_reducible apply keeps_ite
    | split

theorem outboundAt_keeps (u v : Nat) (bus : Bus) (b : FsBlock) (s : State) (hs : Keeps s0 s) :
    Keeps s0 (outboundAt u v bus b s) := by
  unfold outboundAt
  repeat' first
    | with_reducible assumption
    | (rintro x y (hx : Keeps s0 y))
    | (rintro x y z w (hx : Keeps s0 w))
    | (rintro x y z (hx : Keeps s0 z))
    | (rintro y (hx : Keeps s0 y))
    | (rintro x y (hx : Keeps s0 y.1))
    | (rintro x y (hx : Keeps s0 y.2))
    | lift_lets
    | (intro x; refine keeps_cut (x := x) (a := s0) ?_ ?_; subst x; rotate_left; clear_value x; intro hx)
    | (intro x; subst x)
    | simp -zeta only [keeps_upd]
    | with_reducible first | apply walkOut_keeps
    | with_reducible apply keeps_ite
    | split

theorem tapoutRec_keeps (u v : Nat) (st : Strm) (i : Img) (k : Nat) (r : OpRec) (s : State) (hs : Keeps s0 s) :
    Keeps s0 (tapoutRec u v st i k r s) := by
  unfold tapoutRec
  repeat' first
    | with_reducible assumption
    | (rintro x y (hx : Keeps s0 y))
    | (rintro x y z w (hx : Keeps s0 w))
    | (rintro x y z (hx : Keeps s0 z))
    | (rintro y (hx : Keeps s0 y))
    | (rintro x y (hx : Keeps s0 y.1))
    | (rintro x y (hx : Keeps s0 y.2))
    | lift_lets
    | (intro x; refine keeps_cut (x := x) (a := s0) ?_ ?_; subst x; rotate_left; clear_value x; intro hx)
    | (intro x; subst x)
    | with_reducible first | apply startOp_keeps | apply createOut_keeps | apply pullOut_keeps
    | with_reducible apply keeps_ite
    | split

theorem sleepSample_keeps (s : State) (hs : Keeps s0 s) :
    Keeps s0 (sleepSample s) := by
  unfold sleepSample
  repeat' first
    | with_reducible assumption
    | (rintro x y (hx : Keeps s0 y))
    | (rintro x y z w (hx : Keeps s0 w))
    | (rintro x y z (hx : Keeps s0 z))
    | (rintro y (hx : Keeps s0 y))
    | (rintro x y (hx : Keeps s0 y.1))
    | (rintro x y (hx : Keeps s0 y.2))
    | lift_lets
    | (intro x; refine keeps_cut (x := x) (a := s0) ?_ ?_; subst x; rotate_left; clear_value x; intro hx)
    | (intro x; subst x)
    | simp -zeta only [keeps_upd]
    | with_reducible apply keeps_ite
    | split

theorem tokAvgOverdraw_keeps (u v : Nat) (s : State) (hs : Keeps s0 s) :
    Keeps s0 (tokAvgOverdraw u v s) := by
  unfold tokAvgOverdraw
  repeat' first
    | with_reducible assumption
    | (rintro x y (hx : Keeps s0 y))
    | (rintro x y z w (hx : Keeps s0 w))
    | (rintro x y z (hx : Keeps s0 z))
    | (rintro y (hx : Keeps s0 y))
    | (rintro x y (hx : Keeps s0 y.1))
    | (rintro x y (hx : Keeps s0 y.2))
    | lift_lets
    | (intro x; refine keeps_cut (x := x) (a := s0) ?_ ?_; subst x; rotate_left; clear_value x; intro hx)
    | (intro x; subst x)
    | simp -zeta only [keeps_upd]
    | with_reducible first | apply setTile_keeps
    | with_reducible apply keeps_ite
    | split

theorem peakOverdraw_keeps (u v cost : Nat) (s : State) (hs : Keeps s0 s) :
    Keeps s0 (peakOverdraw u v cost s) := by
  unfold peakOverdraw
  repeat' first
    | with_reducible assumption
    | (rintro x y (hx : Keeps s0 y))
    | (rintro x y z w (hx : Keeps s0 w))
    | (rintro x y z (hx : Keeps s0 z))
    | (rintro y (hx : Keeps s0 y))
    | (rintro x y (hx : Keeps s0 y.1))
    | (rintro x y (hx : Keeps s0 y.2))
    | lift_lets
    | (intro x; refine keeps_cut (x := x) (a := s0) ?_ ?_; subst x; rotate_left; clear_value x; intro hx)
    | (intro x; subst x)
    | simp -zeta only [keeps_upd]
    | with_reducible first | apply setTile_keeps
    | with_reducible apply keeps_ite
    | split

theorem overrunCheck_keeps (i : Img) (s : State) (hs : Keeps s0 s) :
    Keeps s0 (overrunCheck i s) := by
  unfold overrunCheck
  repeat' first
    | with_reducible assumption
    | (rintro x y (hx : Keeps s0 y))
    | (rintro x y z w (hx : Keeps s0 w))
    | (rintro x y z (hx : Keeps s0 z))
    | (rintro y (hx : Keeps s0 y))
    | (rintro x y (hx : Keeps s0 y.1))
    | (rintro x y (hx : Keeps s0 y.2))
    | lift_lets
    | (intro x; refine keeps_cut (x := x) (a := s0) ?_ ?_; subst x; rotate_left; clear_value x; intro hx)
    | (intro x; subst x)
    | simp -zeta only [keeps_upd]
    | with_reducible first | apply contractFault_keeps
    | split

theorem windowEndTile_keeps (i : Img) (p : Nat × Nat) (s : State) (hs : Keeps s0 s) :
    Keeps s0 (windowEndTile i p s) := by
  unfold windowEndTile
  repeat' first
    | with_reducible assumption
    | (rintro x y (hx : Keeps s0 y))
    | (rintro x y z w (hx : Keeps s0 w))
    | (rintro x y z (hx : Keeps s0 z))
    | (rintro y (hx : Keeps s0 y))
    | (rintro x y (hx : Keeps s0 y.1))
    | (rintro x y (hx : Keeps s0 y.2))
    | lift_lets
    | (intro x; refine keeps_cut (x := x) (a := s0) ?_ ?_; subst x; rotate_left; clear_value x; intro hx)
    | (intro x; subst x)
    | simp -zeta only [keeps_upd]
    | with_reducible first | apply bump_keeps | apply setErr_keeps | apply setTile_keeps
    | with_reducible apply keeps_ite
    | split

theorem windowEndAll_keeps (i : Img) (s : State) (hs : Keeps s0 s) :
    Keeps s0 (windowEndAll i s) := by
  unfold windowEndAll
  repeat' first
    | with_reducible assumption
    | (rintro x y (hx : Keeps s0 y))
    | (rintro x y z w (hx : Keeps s0 w))
    | (rintro x y z (hx : Keeps s0 z))
    | (rintro y (hx : Keeps s0 y))
    | (rintro x y (hx : Keeps s0 y.1))
    | (rintro x y (hx : Keeps s0 y.2))
    | with_reducible first | apply forAll_keeps | apply windowEndTile_keeps
    | with_reducible apply keeps_ite
    | split

theorem haltTokens_keeps (i : Img) (s : State) (hs : Keeps s0 s) :
    Keeps s0 (haltTokens i s) := by
  unfold haltTokens
  repeat' first
    | with_reducible assumption
    | (rintro x y (hx : Keeps s0 y))
    | (rintro x y z w (hx : Keeps s0 w))
    | (rintro x y z (hx : Keeps s0 z))
    | (rintro y (hx : Keeps s0 y))
    | (rintro x y (hx : Keeps s0 y.1))
    | (rintro x y (hx : Keeps s0 y.2))
    | lift_lets
    | (intro x; refine keeps_cut (x := x) (a := s0) ?_ ?_; subst x; rotate_left; clear_value x; intro hx)
    | (intro x; subst x)
    | simp -zeta only [keeps_upd]
    | with_reducible first | apply forAll_keeps | apply mapTiles_keeps | apply charge_keeps
    | with_reducible apply keeps_foldl
    | with_reducible apply keeps_foldl1
    | with_reducible apply keeps_foldl2
    | with_reducible exact hx
    | with_reducible apply keeps_ite
    | split

theorem tokenCheck_keeps (i : Img) (p : Nat × Nat) (s : State) (hs : Keeps s0 s) :
    Keeps s0 (tokenCheck i p s) := by
  unfold tokenCheck
  repeat' first
    | with_reducible assumption
    | (rintro x y (hx : Keeps s0 y))
    | (rintro x y z w (hx : Keeps s0 w))
    | (rintro x y z (hx : Keeps s0 z))
    | (rintro y (hx : Keeps s0 y))
    | (rintro x y (hx : Keeps s0 y.1))
    | (rintro x y (hx : Keeps s0 y.2))
    | lift_lets
    | (intro x; refine keeps_cut (x := x) (a := s0) ?_ ?_; subst x; rotate_left; clear_value x; intro hx)
    | (intro x; subst x)
    | simp -zeta only [keeps_upd]
    | with_reducible first | apply setTile_keeps | apply contractFault_keeps | apply prtEvent_keeps
    | with_reducible apply keeps_ite
    | split

theorem endTick_keeps (s : State) (hs : Keeps s0 s) :
    Keeps s0 (endTick s) := by
  unfold endTick
  repeat' first
    | with_reducible assumption
    | (rintro x y (hx : Keeps s0 y))
    | (rintro x y z w (hx : Keeps s0 w))
    | (rintro x y z (hx : Keeps s0 z))
    | (rintro y (hx : Keeps s0 y))
    | (rintro x y (hx : Keeps s0 y.1))
    | (rintro x y (hx : Keeps s0 y.2))
    | lift_lets
    | (intro x; refine keeps_cut (x := x) (a := s0) ?_ ?_; subst x; rotate_left; clear_value x; intro hx)
    | (intro x; subst x)
    | simp -zeta only [keeps_upd]
    | with_reducible first | apply setReg64_keeps | apply bump_keeps | apply mapTiles_keeps | apply notePrt_keeps
    | with_reducible apply keeps_foldl
    | with_reducible apply keeps_foldl1
    | with_reducible apply keeps_foldl2
    | with_reducible exact hx
    | with_reducible apply keeps_ite
    | split

theorem fieldTokens_keeps (i : Img) (s : State) (hs : Keeps s0 s) :
    Keeps s0 (fieldTokens i s) := by
  unfold fieldTokens
  repeat' first
    | with_reducible assumption
    | (rintro x y (hx : Keeps s0 y))
    | (rintro x y z w (hx : Keeps s0 w))
    | (rintro x y z (hx : Keeps s0 z))
    | (rintro y (hx : Keeps s0 y))
    | (rintro x y (hx : Keeps s0 y.1))
    | (rintro x y (hx : Keeps s0 y.2))
    | lift_lets
    | (intro x; refine keeps_cut (x := x) (a := s0) ?_ ?_; subst x; rotate_left; clear_value x; intro hx)
    | (intro x; subst x)
    | simp -zeta only [keeps_upd]
    | with_reducible first | apply setReg_keeps | apply forAll_keeps
    | with_reducible apply keeps_foldl
    | with_reducible apply keeps_foldl1
    | with_reducible apply keeps_foldl2
    | with_reducible exact hx
    | with_reducible apply keeps_ite
    | split

theorem undecided_keeps (s : State) (hs : Keeps s0 s) :
    Keeps s0 (undecided s) := by
  unfold undecided
  repeat' first
    | with_reducible assumption
    | (rintro x y (hx : Keeps s0 y))
    | (rintro x y z w (hx : Keeps s0 w))
    | (rintro x y z (hx : Keeps s0 z))
    | (rintro y (hx : Keeps s0 y))
    | (rintro x y (hx : Keeps s0 y.1))
    | (rintro x y (hx : Keeps s0 y.2))
    | lift_lets
    | (intro x; refine keeps_cut (x := x) (a := s0) ?_ ?_; subst x; rotate_left; clear_value x; intro hx)
    | (intro x; subst x)
    | simp -zeta only [keeps_upd]
    | with_reducible first | apply forAll_keeps | apply arrItem_keeps | apply setUnit_keeps | apply clearAttempt_keeps

theorem hbmStop_keeps (a : Nat) (s : State) (hs : Keeps s0 s) :
    Keeps s0 (hbmStop a s) := by
  unfold hbmStop
  repeat' first
    | with_reducible assumption
    | (rintro x y (hx : Keeps s0 y))
    | (rintro x y z w (hx : Keeps s0 w))
    | (rintro x y z (hx : Keeps s0 z))
    | (rintro y (hx : Keeps s0 y))
    | (rintro x y (hx : Keeps s0 y.1))
    | (rintro x y (hx : Keeps s0 y.2))
    | lift_lets
    | (intro x; refine keeps_cut (x := x) (a := s0) ?_ ?_; subst x; rotate_left; clear_value x; intro hx)
    | (intro x; subst x)
    | simp -zeta only [keeps_upd]
    | with_reducible first | apply setReg64_keeps | apply setErr_keeps | apply setRec_keeps | apply recordCause_keeps
    | with_reducible apply keeps_ite
    | split

theorem haltOutcome_keeps (contract : Bool) (s : State) (hs : Keeps s0 s) :
    Keeps s0 (haltOutcome contract s) := by
  unfold haltOutcome
  repeat' first
    | with_reducible assumption
    | (rintro x y (hx : Keeps s0 y))
    | (rintro x y z w (hx : Keeps s0 w))
    | (rintro x y z (hx : Keeps s0 z))
    | (rintro y (hx : Keeps s0 y))
    | (rintro x y (hx : Keeps s0 y.1))
    | (rintro x y (hx : Keeps s0 y.2))
    | lift_lets
    | (intro x; refine keeps_cut (x := x) (a := s0) ?_ ?_; subst x; rotate_left; clear_value x; intro hx)
    | (intro x; subst x)
    | simp -zeta only [keeps_upd]
    | with_reducible first | apply setRec_keeps | apply rememberSus_keeps | apply afterStop_keeps | apply hbmStop_keeps
    | with_reducible apply keeps_ite
    | split

theorem applyHalt_keeps (s : State) (hs : Keeps s0 s) :
    Keeps s0 (applyHalt s) := by
  unfold applyHalt
  repeat' first
    | with_reducible assumption
    | (rintro x y (hx : Keeps s0 y))
    | (rintro x y z w (hx : Keeps s0 w))
    | (rintro x y z (hx : Keeps s0 z))
    | (rintro y (hx : Keeps s0 y))
    | (rintro x y (hx : Keeps s0 y.1))
    | (rintro x y (hx : Keeps s0 y.2))
    | lift_lets
    | (intro x; refine keeps_cut (x := x) (a := s0) ?_ ?_; subst x; rotate_left; clear_value x; intro hx)
    | (intro x; subst x)
    | simp -zeta only [keeps_upd]
    | with_reducible first | apply setRun_keeps | apply midDone_keeps | apply moduleFault_keeps | apply arrayResetStart_keeps | apply undecided_keeps | apply haltOutcome_keeps
    | with_reducible apply keeps_ite
    | split

theorem beginTick_keeps (i : Img) (s : State) (hs : Keeps s0 s) :
    Keeps s0 (beginTick i s) := by
  unfold beginTick
  repeat' first
    | with_reducible assumption
    | (rintro x y (hx : Keeps s0 y))
    | (rintro x y z w (hx : Keeps s0 w))
    | (rintro x y z (hx : Keeps s0 z))
    | (rintro y (hx : Keeps s0 y))
    | (rintro x y (hx : Keeps s0 y.1))
    | (rintro x y (hx : Keeps s0 y.2))
    | lift_lets
    | (intro x; refine keeps_cut (x := x) (a := s0) ?_ ?_; subst x; rotate_left; clear_value x; intro hx)
    | (intro x; subst x)
    | simp -zeta only [keeps_upd]
    | with_reducible first | apply setReg_keeps | apply bump_keeps | apply forAll_keeps | apply mapTiles_keeps | apply saveSetts_keeps
    | with_reducible apply keeps_foldl
    | with_reducible apply keeps_foldl1
    | with_reducible apply keeps_foldl2
    | with_reducible exact hx
    | with_reducible apply keeps_ite
    | split

theorem beginProgram_keeps (i : Img) (s : State) (hs : Keeps s0 s) :
    Keeps s0 (beginProgram i s) := by
  unfold beginProgram
  repeat' first
    | with_reducible assumption
    | (rintro x y (hx : Keeps s0 y))
    | (rintro x y z w (hx : Keeps s0 w))
    | (rintro x y z (hx : Keeps s0 z))
    | (rintro y (hx : Keeps s0 y))
    | (rintro x y (hx : Keeps s0 y.1))
    | (rintro x y (hx : Keeps s0 y.2))
    | lift_lets
    | (intro x; refine keeps_cut (x := x) (a := s0) ?_ ?_; subst x; rotate_left; clear_value x; intro hx)
    | (intro x; subst x)
    | simp -zeta only [keeps_upd]
    | with_reducible first | apply passTo_keeps | apply settleAll_keeps
    | with_reducible apply keeps_ite
    | split

theorem selectNext_keeps (s : State) (hs : Keeps s0 s) :
    Keeps s0 (selectNext s) := by
  unfold selectNext
  repeat' first
    | with_reducible assumption
    | (rintro x y (hx : Keeps s0 y))
    | (rintro x y z w (hx : Keeps s0 w))
    | (rintro x y z (hx : Keeps s0 z))
    | (rintro y (hx : Keeps s0 y))
    | (rintro x y (hx : Keeps s0 y.1))
    | (rintro x y (hx : Keeps s0 y.2))
    | lift_lets
    | (intro x; refine keeps_cut (x := x) (a := s0) ?_ ?_; subst x; rotate_left; clear_value x; intro hx)
    | (intro x; subst x)
    | simp -zeta only [keeps_upd]
    | with_reducible first | apply mapTiles_keeps | apply nextPos_keeps | apply settleAll_keeps | apply beginTick_keeps | apply beginProgram_keeps
    | with_reducible apply keeps_ite
    | split

theorem boundary_keeps (i : Img) (s : State) (hs : Keeps s0 s) :
    Keeps s0 (boundary i s) := by
  unfold boundary
  repeat' first
    | with_reducible assumption
    | (rintro x y (hx : Keeps s0 y))
    | (rintro x y z w (hx : Keeps s0 w))
    | (rintro x y z (hx : Keeps s0 z))
    | (rintro y (hx : Keeps s0 y))
    | (rintro x y (hx : Keeps s0 y.1))
    | (rintro x y (hx : Keeps s0 y.2))
    | lift_lets
    | (intro x; refine keeps_cut (x := x) (a := s0) ?_ ?_; subst x; rotate_left; clear_value x; intro hx)
    | (intro x; subst x)
    | simp -zeta only [keeps_upd]
    | with_reducible first | apply setReg_keeps | apply setErr_keeps | apply forAll_keeps | apply faultItem_keeps | apply recordCause_keeps | apply enterFault_keeps | apply commitNow_keeps | apply combinesGoOn_keeps | apply tapsAtEnd_keeps | apply overrunCheck_keeps | apply windowEndAll_keeps | apply haltTokens_keeps | apply tokenCheck_keeps | apply endTick_keeps | apply fieldTokens_keeps | apply applyHalt_keeps | apply selectNext_keeps
    | with_reducible apply keeps_ite
    | split

theorem resumeNow_keeps (s : State) (hs : Keeps s0 s) :
    Keeps s0 (resumeNow s) := by
  unfold resumeNow
  repeat' first
    | with_reducible assumption
    | (rintro x y (hx : Keeps s0 y))
    | (rintro x y z w (hx : Keeps s0 w))
    | (rintro x y z (hx : Keeps s0 z))
    | (rintro y (hx : Keeps s0 y))
    | (rintro x y (hx : Keeps s0 y.1))
    | (rintro x y (hx : Keeps s0 y.2))
    | lift_lets
    | (intro x; refine keeps_cut (x := x) (a := s0) ?_ ?_; subst x; rotate_left; clear_value x; intro hx)
    | (intro x; subst x)
    | simp -zeta only [keeps_upd]
    | with_reducible first | apply setRun_keeps | apply midDone_keeps | apply mapTiles_keeps | apply haltOutcome_keeps
    | with_reducible apply keeps_ite
    | split

theorem tickBoundary_keeps (s : State) (hs : Keeps s0 s) :
    Keeps s0 (tickBoundary s) := by
  unfold tickBoundary
  repeat' first
    | with_reducible assumption
    | (rintro x y (hx : Keeps s0 y))
    | (rintro x y z w (hx : Keeps s0 w))
    | (rintro x y z (hx : Keeps s0 z))
    | (rintro y (hx : Keeps s0 y))
    | (rintro x y (hx : Keeps s0 y.1))
    | (rintro x y (hx : Keeps s0 y.2))
    | lift_lets
    | (intro x; refine keeps_cut (x := x) (a := s0) ?_ ?_; subst x; rotate_left; clear_value x; intro hx)
    | (intro x; subst x)
    | simp -zeta only [keeps_upd]
    | with_reducible first | apply boundary_keeps | apply resumeNow_keeps
    | with_reducible apply keeps_ite
    | split

theorem ladderDecision_keeps (unit : Nat) (s : State) (hs : Keeps s0 s) :
    Keeps s0 (ladderDecision unit s) := by
  unfold ladderDecision
  repeat' first
    | with_reducible assumption
    | (rintro x y (hx : Keeps s0 y))
    | (rintro x y z w (hx : Keeps s0 w))
    | (rintro x y z (hx : Keeps s0 z))
    | (rintro y (hx : Keeps s0 y))
    | (rintro x y (hx : Keeps s0 y.1))
    | (rintro x y (hx : Keeps s0 y.2))
    | lift_lets
    | (intro x; refine keeps_cut (x := x) (a := s0) ?_ ?_; subst x; rotate_left; clear_value x; intro hx)
    | (intro x; subst x)
    | with_reducible first | apply decideUnit_keeps | apply selectNext_keeps
    | with_reducible apply keeps_ite
    | split

theorem stepWatchdog_keeps (s : State) (hs : Keeps s0 s) :
    Keeps s0 (stepWatchdog s) := by
  unfold stepWatchdog
  repeat' first
    | with_reducible assumption
    | (rintro x y (hx : Keeps s0 y))
    | (rintro x y z w (hx : Keeps s0 w))
    | (rintro x y z (hx : Keeps s0 z))
    | (rintro y (hx : Keeps s0 y))
    | (rintro x y (hx : Keeps s0 y.1))
    | (rintro x y (hx : Keeps s0 y.2))
    | lift_lets
    | (intro x; refine keeps_cut (x := x) (a := s0) ?_ ?_; subst x; rotate_left; clear_value x; intro hx)
    | (intro x; subst x)
    | simp -zeta only [keeps_upd]
    | with_reducible first | apply contractFault_keeps
    | with_reducible apply keeps_ite
    | split

theorem writeState_keeps (s : State) (hs : Keeps s0 s) :
    Keeps s0 (writeState s) := by
  unfold writeState
  repeat' first
    | with_reducible assumption
    | (rintro x y (hx : Keeps s0 y))
    | (rintro x y z w (hx : Keeps s0 w))
    | (rintro x y z (hx : Keeps s0 z))
    | (rintro y (hx : Keeps s0 y))
    | (rintro x y (hx : Keeps s0 y.1))
    | (rintro x y (hx : Keeps s0 y.2))
    | lift_lets
    | (intro x; refine keeps_cut (x := x) (a := s0) ?_ ?_; subst x; rotate_left; clear_value x; intro hx)
    | (intro x; subst x)
    | simp -zeta only [keeps_upd]
    | with_reducible first | apply setReg64_keeps | apply hbmWrite_keeps
    | split

theorem perturbItem_keeps (s : State) (hs : Keeps s0 s) :
    Keeps s0 (perturbItem s) := by
  unfold perturbItem
  repeat' first
    | with_reducible assumption
    | (rintro x y (hx : Keeps s0 y))
    | (rintro x y z w (hx : Keeps s0 w))
    | (rintro x y z (hx : Keeps s0 z))
    | (rintro y (hx : Keeps s0 y))
    | (rintro x y (hx : Keeps s0 y.1))
    | (rintro x y (hx : Keeps s0 y.2))
    | with_reducible first | apply ledgerItem_keeps
    | with_reducible apply keeps_ite
    | split

theorem stepItem_keeps (i : Img) (s : State) (hs : Keeps s0 s) :
    Keeps s0 (stepItem i s) := by
  unfold stepItem
  repeat' first
    | with_reducible assumption
    | (rintro x y (hx : Keeps s0 y))
    | (rintro x y z w (hx : Keeps s0 w))
    | (rintro x y z (hx : Keeps s0 z))
    | (rintro y (hx : Keeps s0 y))
    | (rintro x y (hx : Keeps s0 y.1))
    | (rintro x y (hx : Keeps s0 y.2))
    | lift_lets
    | (intro x; refine keeps_cut (x := x) (a := s0) ?_ ?_; subst x; rotate_left; clear_value x; intro hx)
    | (intro x; subst x)
    | with_reducible first | apply ledgerItem_keeps

theorem recoveryDone_keeps (s : State) (hs : Keeps s0 s) :
    Keeps s0 (recoveryDone s) := by
  unfold recoveryDone
  repeat' first
    | with_reducible assumption
    | (rintro x y (hx : Keeps s0 y))
    | (rintro x y z w (hx : Keeps s0 w))
    | (rintro x y z (hx : Keeps s0 z))
    | (rintro y (hx : Keeps s0 y))
    | (rintro x y (hx : Keeps s0 y.1))
    | (rintro x y (hx : Keeps s0 y.2))
    | lift_lets
    | (intro x; refine keeps_cut (x := x) (a := s0) ?_ ?_; subst x; rotate_left; clear_value x; intro hx)
    | (intro x; subst x)
    | simp -zeta only [keeps_upd]
    | with_reducible first | apply setReg_keeps | apply bump_keeps | apply freshFree_keeps | apply setRec_keeps
    | with_reducible apply keeps_ite
    | split

theorem startStep_keeps (n : Nat) (i : Img) (s : State) (hs : Keeps s0 s) :
    Keeps s0 (startStep n i s) := by
  unfold startStep
  repeat' first
    | with_reducible assumption
    | (rintro x y (hx : Keeps s0 y))
    | (rintro x y z w (hx : Keeps s0 w))
    | (rintro x y z (hx : Keeps s0 z))
    | (rintro y (hx : Keeps s0 y))
    | (rintro x y (hx : Keeps s0 y.1))
    | (rintro x y (hx : Keeps s0 y.2))
    | lift_lets
    | (intro x; refine keeps_cut (x := x) (a := s0) ?_ ?_; subst x; rotate_left; clear_value x; intro hx)
    | (intro x; subst x)
    | simp -zeta only [keeps_upd]
    | with_reducible first | apply mapTiles_keeps | apply passTo_keeps | apply settleAll_keeps | apply beginTick_keeps

theorem startRejoined_keeps (i : Img) (s : State) (hs : Keeps s0 s) :
    Keeps s0 (startRejoined i s) := by
  unfold startRejoined
  repeat' first
    | with_reducible assumption
    | (rintro x y (hx : Keeps s0 y))
    | (rintro x y z w (hx : Keeps s0 w))
    | (rintro x y z (hx : Keeps s0 z))
    | (rintro y (hx : Keeps s0 y))
    | (rintro x y (hx : Keeps s0 y.1))
    | (rintro x y (hx : Keeps s0 y.2))
    | lift_lets
    | (intro x; refine keeps_cut (x := x) (a := s0) ?_ ?_; subst x; rotate_left; clear_value x; intro hx)
    | (intro x; subst x)
    | simp -zeta only [keeps_upd]
    | with_reducible first | apply setRun_keeps | apply setRec_keeps | apply writeState_keeps | apply startStep_keeps

theorem releaseStep_keeps (i : Img) (s : State) (hs : Keeps s0 s) :
    Keeps s0 (releaseStep i s) := by
  unfold releaseStep
  repeat' first
    | with_reducible assumption
    | (rintro x y (hx : Keeps s0 y))
    | (rintro x y z w (hx : Keeps s0 w))
    | (rintro x y z (hx : Keeps s0 z))
    | (rintro y (hx : Keeps s0 y))
    | (rintro x y (hx : Keeps s0 y.1))
    | (rintro x y (hx : Keeps s0 y.2))
    | lift_lets
    | (intro x; refine keeps_cut (x := x) (a := s0) ?_ ?_; subst x; rotate_left; clear_value x; intro hx)
    | (intro x; subst x)
    | simp -zeta only [keeps_upd]
    | with_reducible first | apply epochBoundary_keeps | apply startStep_keeps | apply startRejoined_keeps
    | with_reducible apply keeps_ite
    | split

theorem endStep_keeps (i : Img) (s : State) (hs : Keeps s0 s) :
    Keeps s0 (endStep i s) := by
  unfold endStep
  repeat' first
    | with_reducible assumption
    | (rintro x y (hx : Keeps s0 y))
    | (rintro x y z w (hx : Keeps s0 w))
    | (rintro x y z (hx : Keeps s0 z))
    | (rintro y (hx : Keeps s0 y))
    | (rintro x y (hx : Keeps s0 y.1))
    | (rintro x y (hx : Keeps s0 y.2))
    | lift_lets
    | (intro x; refine keeps_cut (x := x) (a := s0) ?_ ?_; subst x; rotate_left; clear_value x; intro hx)
    | (intro x; subst x)
    | simp -zeta only [keeps_upd]
    | with_reducible first | apply setReg_keeps | apply setReg64_keeps | apply bump_keeps | apply setErr_keeps | apply readyProgs_keeps | apply ladderStep_keeps | apply linkReturn_keeps | apply reductionStep_keeps | apply epochBoundary_keeps | apply writeState_keeps | apply perturbItem_keeps | apply stepItem_keeps | apply recoveryDone_keeps
    | with_reducible apply keeps_foldl
    | with_reducible apply keeps_foldl1
    | with_reducible apply keeps_foldl2
    | with_reducible exact hx
    | with_reducible apply keeps_ite
    | split

theorem stepBoundary_keeps (s : State) (hs : Keeps s0 s) :
    Keeps s0 (stepBoundary s) := by
  unfold stepBoundary
  repeat' first
    | with_reducible assumption
    | (rintro x y (hx : Keeps s0 y))
    | (rintro x y z w (hx : Keeps s0 w))
    | (rintro x y z (hx : Keeps s0 z))
    | (rintro y (hx : Keeps s0 y))
    | (rintro x y (hx : Keeps s0 y.1))
    | (rintro x y (hx : Keeps s0 y.2))
    | lift_lets
    | (intro x; refine keeps_cut (x := x) (a := s0) ?_ ?_; subst x; rotate_left; clear_value x; intro hx)
    | (intro x; subst x)
    | simp -zeta only [keeps_upd]
    | with_reducible first | apply releaseStep_keeps | apply endStep_keeps
    | with_reducible apply keeps_ite
    | split

end Sys2Proof.Machine
end

