-- ==== Sys2Proof/Laws/Keeps6.lean ====
section
/-! SUPPORT. What the operations of Load, Recover, Bus keep: the fuses, the queue, the canonical form of the store,
the rules on the mode. -/

namespace Sys2Proof.Machine

variable {s0 s : State}

theorem writeScales_keeps (s : State) (hs : Keeps s0 s) :
    Keeps s0 (writeScales s) := by
  unfold writeScales
  repeat' first
    | with_reducible assumption
    | (rintro x y (hx : Keeps s0 y))
    | (rintro x y z w (hx : Keeps s0 w))
    | (rintro x y z (hx : Keeps s0 z))
    | (rintro y (hx : Keeps s0 y))
    | (rintro x y (hx : Keeps s0 y.1))
    | (rintro x y (hx : Keeps s0 y.2))
    | lift_lets
    | (intro x; refine keeps_cut (x := x) (a := s0) ?_ ?_; subst x; rotate_left; clear_value x; intro hx)
    | (intro x; subst x)
    | simp -zeta only [keeps_upd]
    | with_reducible first | apply writeRecordAll_keeps
    | with_reducible apply keeps_foldl
    | with_reducible apply keeps_foldl1
    | with_reducible apply keeps_foldl2
    | with_reducible exact hx
    | split

theorem loadTiles_keeps (i : Img) (s : State) (hs : Keeps s0 s) :
    Keeps s0 (loadTiles i s) := by
  unfold loadTiles
  repeat' first
    | with_reducible assumption
    | (rintro x y (hx : Keeps s0 y))
    | (rintro x y z w (hx : Keeps s0 w))
    | (rintro x y z (hx : Keeps s0 z))
    | (rintro y (hx : Keeps s0 y))
    | (rintro x y (hx : Keeps s0 y.1))
    | (rintro x y (hx : Keeps s0 y.2))
    | lift_lets
    | (intro x; refine keeps_cut (x := x) (a := s0) ?_ ?_; subst x; rotate_left; clear_value x; intro hx)
    | (intro x; subst x)
    | simp -zeta only [keeps_upd]
    | with_reducible first | apply writeScales_keeps
    | with_reducible apply keeps_foldl
    | with_reducible apply keeps_foldl1
    | with_reducible apply keeps_foldl2
    | with_reducible exact hx

theorem showFields_keeps (p : Place) (i : Img) (s : State) (hs : Keeps s0 s) :
    Keeps s0 (showFields p i s) := by
  unfold showFields
  repeat' first
    | with_reducible assumption
    | (rintro x y (hx : Keeps s0 y))
    | (rintro x y z w (hx : Keeps s0 w))
    | (rintro x y z (hx : Keeps s0 z))
    | (rintro y (hx : Keeps s0 y))
    | (rintro x y (hx : Keeps s0 y.1))
    | (rintro x y (hx : Keeps s0 y.2))
    | lift_lets
    | (intro x; refine keeps_cut (x := x) (a := s0) ?_ ?_; subst x; rotate_left; clear_value x; intro hx)
    | (intro x; subst x)
    | with_reducible first | apply setReg_keeps | apply setBits_keeps | apply forAll_keeps

theorem loadFarSetts_keeps (plan : List (Nat × Nat × Nat × Nat)) (s : State) (hs : Keeps s0 s) :
    Keeps s0 (loadFarSetts plan s) := by
  unfold loadFarSetts
  repeat' first
    | with_reducible assumption
    | (rintro x y (hx : Keeps s0 y))
    | (rintro x y z w (hx : Keeps s0 w))
    | (rintro x y z (hx : Keeps s0 z))
    | (rintro y (hx : Keeps s0 y))
    | (rintro x y (hx : Keeps s0 y.1))
    | (rintro x y (hx : Keeps s0 y.2))
    | lift_lets
    | (intro x; refine keeps_cut (x := x) (a := s0) ?_ ?_; subst x; rotate_left; clear_value x; intro hx)
    | (intro x; subst x)
    | with_reducible first | apply setReg_keeps | apply forAll_keeps
    | with_reducible apply keeps_foldl
    | with_reducible apply keeps_foldl1
    | with_reducible apply keeps_foldl2
    | with_reducible exact hx

theorem loadXInit_keeps (i : Img) (p : Plan) (s : State) (hs : Keeps s0 s) :
    Keeps s0 (loadXInit i p s) := by
  unfold loadXInit
  repeat' first
    | with_reducible assumption
    | (rintro x y (hx : Keeps s0 y))
    | (rintro x y z w (hx : Keeps s0 w))
    | (rintro x y z (hx : Keeps s0 z))
    | (rintro y (hx : Keeps s0 y))
    | (rintro x y (hx : Keeps s0 y.1))
    | (rintro x y (hx : Keeps s0 y.2))
    | lift_lets
    | (intro x; refine keeps_cut (x := x) (a := s0) ?_ ?_; subst x; rotate_left; clear_value x; intro hx)
    | (intro x; subst x)
    | simp -zeta only [keeps_upd]
    | with_reducible first | apply regionWrite_keeps
    | with_reducible apply keeps_foldl
    | with_reducible apply keeps_foldl1
    | with_reducible apply keeps_foldl2
    | with_reducible exact hx
    | split

theorem loadDies_keeps (i : Img) (p : Plan) (far : List (Nat × Nat × Nat × Nat)) (s : State) (hs : Keeps s0 s) :
    Keeps s0 (loadDies i p far s) := by
  unfold loadDies
  repeat' first
    | with_reducible assumption
    | (rintro x y (hx : Keeps s0 y))
    | (rintro x y z w (hx : Keeps s0 w))
    | (rintro x y z (hx : Keeps s0 z))
    | (rintro y (hx : Keeps s0 y))
    | (rintro x y (hx : Keeps s0 y.1))
    | (rintro x y (hx : Keeps s0 y.2))
    | lift_lets
    | (intro x; refine keeps_cut (x := x) (a := s0) ?_ ?_; subst x; rotate_left; clear_value x; intro hx)
    | (intro x; subst x)
    | simp -zeta only [keeps_upd]
    | with_reducible first | apply setReg_keeps | apply forAll_keeps | apply takeEpoch_keeps | apply showGroups_keeps | apply loadFarSetts_keeps | apply loadXInit_keeps
    | with_reducible apply keeps_foldl
    | with_reducible apply keeps_foldl1
    | with_reducible apply keeps_foldl2
    | with_reducible exact hx

theorem zeroRegs_keeps (pg : Page) (l : List Nat) (s : State) (hs : Keeps s0 s) :
    Keeps s0 (zeroRegs pg l s) := by
  unfold zeroRegs
  repeat' first
    | with_reducible assumption
    | (rintro x y (hx : Keeps s0 y))
    | (rintro x y z w (hx : Keeps s0 w))
    | (rintro x y z (hx : Keeps s0 z))
    | (rintro y (hx : Keeps s0 y))
    | (rintro x y (hx : Keeps s0 y.1))
    | (rintro x y (hx : Keeps s0 y.2))
    | with_reducible first | apply setReg_keeps
    | with_reducible apply keeps_foldl
    | with_reducible apply keeps_foldl1
    | with_reducible apply keeps_foldl2
    | with_reducible exact hx

theorem clearCounters_keeps (s : State) (hs : Keeps s0 s) :
    Keeps s0 (clearCounters s) := by
  unfold clearCounters
  repeat' first
    | with_reducible assumption
    | (rintro x y (hx : Keeps s0 y))
    | (rintro x y z w (hx : Keeps s0 w))
    | (rintro x y z (hx : Keeps s0 z))
    | (rintro y (hx : Keeps s0 y))
    | (rintro x y (hx : Keeps s0 y.1))
    | (rintro x y (hx : Keeps s0 y.2))
    | lift_lets
    | (intro x; refine keeps_cut (x := x) (a := s0) ?_ ?_; subst x; rotate_left; clear_value x; intro hx)
    | (intro x; subst x)
    | with_reducible first | apply setReg_keeps | apply forAll_keeps | apply zeroRegs_keeps

theorem loadAreas_keeps (i : Img) (s : State) (hs : Keeps s0 s) :
    Keeps s0 (loadAreas i s) := by
  unfold loadAreas
  repeat' first
    | with_reducible assumption
    | (rintro x y (hx : Keeps s0 y))
    | (rintro x y z w (hx : Keeps s0 w))
    | (rintro x y z (hx : Keeps s0 z))
    | (rintro y (hx : Keeps s0 y))
    | (rintro x y (hx : Keeps s0 y.1))
    | (rintro x y (hx : Keeps s0 y.2))
    | lift_lets
    | (intro x; refine keeps_cut (x := x) (a := s0) ?_ ?_; subst x; rotate_left; clear_value x; intro hx)
    | (intro x; subst x)
    | simp -zeta only [keeps_upd]
    | with_reducible first | apply setReg_keeps | apply setReg64_keeps

theorem loadKey_keeps (i : Img) (s : State) (hs : Keeps s0 s) :
    Keeps s0 (loadKey i s) := by
  unfold loadKey
  repeat' first
    | with_reducible assumption
    | (rintro x y (hx : Keeps s0 y))
    | (rintro x y z w (hx : Keeps s0 w))
    | (rintro x y z (hx : Keeps s0 z))
    | (rintro y (hx : Keeps s0 y))
    | (rintro x y (hx : Keeps s0 y.1))
    | (rintro x y (hx : Keeps s0 y.2))
    | lift_lets
    | (intro x; refine keeps_cut (x := x) (a := s0) ?_ ?_; subst x; rotate_left; clear_value x; intro hx)
    | (intro x; subst x)
    | simp -zeta only [keeps_upd]
    | with_reducible first | apply setReg_keeps | apply setReg64_keeps

theorem showImage_keeps (i : Img) (s : State) (hs : Keeps s0 s) :
    Keeps s0 (showImage i s) := by
  unfold showImage
  repeat' first
    | with_reducible assumption
    | (rintro x y (hx : Keeps s0 y))
    | (rintro x y z w (hx : Keeps s0 w))
    | (rintro x y z (hx : Keeps s0 z))
    | (rintro y (hx : Keeps s0 y))
    | (rintro x y (hx : Keeps s0 y.1))
    | (rintro x y (hx : Keeps s0 y.2))
    | lift_lets
    | (intro x; refine keeps_cut (x := x) (a := s0) ?_ ?_; subst x; rotate_left; clear_value x; intro hx)
    | (intro x; subst x)
    | with_reducible first | apply setReg_keeps
    | with_reducible apply keeps_ite
    | split

theorem dropHop_keeps (i : Img) (s : State) (hs : Keeps s0 s) :
    Keeps s0 (dropHop i s) := by
  unfold dropHop
  repeat' first
    | with_reducible assumption
    | (rintro x y (hx : Keeps s0 y))
    | (rintro x y z w (hx : Keeps s0 w))
    | (rintro x y z (hx : Keeps s0 z))
    | (rintro y (hx : Keeps s0 y))
    | (rintro x y (hx : Keeps s0 y.1))
    | (rintro x y (hx : Keeps s0 y.2))
    | with_reducible first | apply setReg_keeps
    | with_reducible apply keeps_ite
    | split

theorem loadImage_keeps (i : Img) (p : Place) (far : List (Nat × Nat × Nat × Nat)) (plan : Plan) (s : State) (hs : Keeps s0 s) :
    Keeps s0 (loadImage i p far plan s) := by
  unfold loadImage
  repeat' first
    | with_reducible assumption
    | (rintro x y (hx : Keeps s0 y))
    | (rintro x y z w (hx : Keeps s0 w))
    | (rintro x y z (hx : Keeps s0 z))
    | (rintro y (hx : Keeps s0 y))
    | (rintro x y (hx : Keeps s0 y.1))
    | (rintro x y (hx : Keeps s0 y.2))
    | lift_lets
    | (intro x; refine keeps_cut (x := x) (a := s0) ?_ ?_; subst x; rotate_left; clear_value x; intro hx)
    | (intro x; subst x)
    | simp -zeta only [keeps_upd]
    | with_reducible first | apply setReg64_keeps | apply sealRegions_keeps | apply placeTree_keeps | apply showPlace_keeps | apply showGeo_keeps | apply readyProgs_keeps | apply loadTiles_keeps | apply showFields_keeps | apply loadDies_keeps | apply clearCounters_keeps | apply loadAreas_keeps | apply loadKey_keeps | apply showImage_keeps | apply dropHop_keeps
    | with_reducible apply keeps_foldl
    | with_reducible apply keeps_foldl1
    | with_reducible apply keeps_foldl2
    | with_reducible exact hx

theorem loadRefuse_keeps (e : Nat × Nat × Nat) (s : State) (hs : Keeps s0 s) :
    Keeps s0 (loadRefuse e s) := by
  unfold loadRefuse
  repeat' first
    | with_reducible assumption
    | (rintro x y (hx : Keeps s0 y))
    | (rintro x y z w (hx : Keeps s0 w))
    | (rintro x y z (hx : Keeps s0 z))
    | (rintro y (hx : Keeps s0 y))
    | (rintro x y (hx : Keeps s0 y.1))
    | (rintro x y (hx : Keeps s0 y.2))
    | lift_lets
    | (intro x; refine keeps_cut (x := x) (a := s0) ?_ ?_; subst x; rotate_left; clear_value x; intro hx)
    | (intro x; subst x)
    | with_reducible first | apply setReg_keeps | apply midRefuse_keeps | apply failPlace_keeps
    | with_reducible apply keeps_ite
    | split

theorem loadGeo_keeps (s : State) (hs : Keeps s0 s) :
    Keeps s0 (loadGeo s) := by
  unfold loadGeo
  repeat' first
    | with_reducible assumption
    | (rintro x y (hx : Keeps s0 y))
    | (rintro x y z w (hx : Keeps s0 w))
    | (rintro x y z (hx : Keeps s0 z))
    | (rintro y (hx : Keeps s0 y))
    | (rintro x y (hx : Keeps s0 y.1))
    | (rintro x y (hx : Keeps s0 y.2))
    | lift_lets
    | (intro x; refine keeps_cut (x := x) (a := s0) ?_ ?_; subst x; rotate_left; clear_value x; intro hx)
    | (intro x; subst x)
    | simp -zeta only [keeps_upd]
    | with_reducible first | apply placeGeo_keeps
    | split

theorem load_keeps (s : State) (hs : Keeps s0 s) :
    Keeps s0 (load s) := by
  unfold load
  repeat' first
    | with_reducible assumption
    | (rintro x y (hx : Keeps s0 y))
    | (rintro x y z w (hx : Keeps s0 w))
    | (rintro x y z (hx : Keeps s0 z))
    | (rintro y (hx : Keeps s0 y))
    | (rintro x y (hx : Keeps s0 y.1))
    | (rintro x y (hx : Keeps s0 y.2))
    | lift_lets
    | (intro x; refine keeps_cut (x := x) (a := s0) ?_ ?_; subst x; rotate_left; clear_value x; intro hx)
    | (intro x; subst x)
    | simp -zeta only [keeps_upd]
    | with_reducible first | apply midRefuse_keeps | apply midBusy_keeps | apply loadImage_keeps | apply loadRefuse_keeps | apply loadGeo_keeps
    | with_reducible apply keeps_ite
    | split

theorem loadComplete_keeps (s : State) (hs : Keeps s0 s) :
    Keeps s0 (loadComplete s) := by
  unfold loadComplete
  repeat' first
    | with_reducible assumption
    | (rintro x y (hx : Keeps s0 y))
    | (rintro x y z w (hx : Keeps s0 w))
    | (rintro x y z (hx : Keeps s0 z))
    | (rintro y (hx : Keeps s0 y))
    | (rintro x y (hx : Keeps s0 y.1))
    | (rintro x y (hx : Keeps s0 y.2))
    | lift_lets
    | (intro x; refine keeps_cut (x := x) (a := s0) ?_ ?_; subst x; rotate_left; clear_value x; intro hx)
    | (intro x; subst x)
    | simp -zeta only [keeps_upd]
    | with_reducible first | apply midDone_keeps | apply commitNow_keeps
    | with_reducible apply keeps_ite
    | split

theorem run_keeps (s : State) (hs : Keeps s0 s) :
    Keeps s0 (run s) := by
  unfold run
  repeat' first
    | with_reducible assumption
    | (rintro x y (hx : Keeps s0 y))
    | (rintro x y z w (hx : Keeps s0 w))
    | (rintro x y z (hx : Keeps s0 z))
    | (rintro y (hx : Keeps s0 y))
    | (rintro x y (hx : Keeps s0 y.1))
    | (rintro x y (hx : Keeps s0 y.2))
    | lift_lets
    | (intro x; refine keeps_cut (x := x) (a := s0) ?_ ?_; subst x; rotate_left; clear_value x; intro hx)
    | (intro x; subst x)
    | simp -zeta only [keeps_upd]
    | with_reducible first | apply setReg64_keeps | apply setRun_keeps | apply midDone_keeps | apply midRefuse_keeps | apply writeState_keeps | apply startStep_keeps
    | with_reducible apply keeps_ite
    | split

theorem halt_keeps (s : State) (hs : Keeps s0 s) :
    Keeps s0 (halt s) := by
  unfold halt
  repeat' first
    | with_reducible assumption
    | (rintro x y (hx : Keeps s0 y))
    | (rintro x y z w (hx : Keeps s0 w))
    | (rintro x y z (hx : Keeps s0 z))
    | (rintro y (hx : Keeps s0 y))
    | (rintro x y (hx : Keeps s0 y.1))
    | (rintro x y (hx : Keeps s0 y.2))
    | lift_lets
    | (intro x; refine keeps_cut (x := x) (a := s0) ?_ ?_; subst x; rotate_left; clear_value x; intro hx)
    | (intro x; subst x)
    | simp -zeta only [keeps_upd]
    | with_reducible first | apply midRefuse_keeps | apply midBusy_keeps
    | with_reducible apply keeps_ite
    | split

theorem resume_keeps (s : State) (hs : Keeps s0 s) :
    Keeps s0 (resume s) := by
  unfold resume
  repeat' first
    | with_reducible assumption
    | (rintro x y (hx : Keeps s0 y))
    | (rintro x y z w (hx : Keeps s0 w))
    | (rintro x y z (hx : Keeps s0 z))
    | (rintro y (hx : Keeps s0 y))
    | (rintro x y (hx : Keeps s0 y.1))
    | (rintro x y (hx : Keeps s0 y.2))
    | with_reducible first | apply midRefuse_keeps | apply midBusy_keeps
    | with_reducible apply keeps_ite
    | split

theorem settProbe_keeps (silent : List (Nat × Nat)) (s : State) (hs : Keeps s0 s) :
    Keeps s0 (settProbe silent s) := by
  unfold settProbe
  repeat' first
    | with_reducible assumption
    | (rintro x y (hx : Keeps s0 y))
    | (rintro x y z w (hx : Keeps s0 w))
    | (rintro x y z (hx : Keeps s0 z))
    | (rintro y (hx : Keeps s0 y))
    | (rintro x y (hx : Keeps s0 y.1))
    | (rintro x y (hx : Keeps s0 y.2))
    | with_reducible first | apply setErr_keeps | apply faultItem_keeps | apply recordCause_keeps | apply tileFault_keeps
    | with_reducible apply keeps_ite
    | split

theorem diagnosed_keeps (failed : List (Nat × Nat)) (s : State) (hs : Keeps s0 s) :
    Keeps s0 (diagnosed failed s) := by
  unfold diagnosed
  repeat' first
    | with_reducible assumption
    | (rintro x y (hx : Keeps s0 y))
    | (rintro x y z w (hx : Keeps s0 w))
    | (rintro x y z (hx : Keeps s0 z))
    | (rintro y (hx : Keeps s0 y))
    | (rintro x y (hx : Keeps s0 y.1))
    | (rintro x y (hx : Keeps s0 y.2))
    | lift_lets
    | (intro x; refine keeps_cut (x := x) (a := s0) ?_ ?_; subst x; rotate_left; clear_value x; intro hx)
    | (intro x; subst x)
    | simp -zeta only [keeps_upd]
    | with_reducible first | apply setRec_keeps
    | with_reducible apply keeps_foldl
    | with_reducible apply keeps_foldl1
    | with_reducible apply keeps_foldl2
    | with_reducible exact hx
    | with_reducible apply keeps_ite
    | split

theorem replaceFails_keeps (code : Nat) (s : State) (hs : Keeps s0 s) :
    Keeps s0 (replaceFails code s) := by
  unfold replaceFails
  repeat' first
    | with_reducible assumption
    | (rintro x y (hx : Keeps s0 y))
    | (rintro x y z w (hx : Keeps s0 w))
    | (rintro x y z (hx : Keeps s0 z))
    | (rintro y (hx : Keeps s0 y))
    | (rintro x y (hx : Keeps s0 y.1))
    | (rintro x y (hx : Keeps s0 y.2))
    | with_reducible first | apply setRun_keeps | apply dropImage_keeps | apply failPlace_keeps

theorem replaced_keeps (s : State) (hs : Keeps s0 s) :
    Keeps s0 (replaced s) := by
  unfold replaced
  repeat' first
    | with_reducible assumption
    | (rintro x y (hx : Keeps s0 y))
    | (rintro x y z w (hx : Keeps s0 w))
    | (rintro x y z (hx : Keeps s0 z))
    | (rintro y (hx : Keeps s0 y))
    | (rintro x y (hx : Keeps s0 y.1))
    | (rintro x y (hx : Keeps s0 y.2))
    | lift_lets
    | (intro x; refine keeps_cut (x := x) (a := s0) ?_ ?_; subst x; rotate_left; clear_value x; intro hx)
    | (intro x; subst x)
    | simp -zeta only [keeps_upd]
    | with_reducible first | apply placeGeo_keeps | apply placeTree_keeps | apply setRec_keeps | apply rememberSus_keeps | apply showPlace_keeps | apply showGeo_keeps | apply loadTiles_keeps | apply showFields_keeps | apply replaceFails_keeps
    | with_reducible apply keeps_ite
    | split

theorem rejoinCode_keeps (n : Nat) (s : State) (hs : Keeps s0 s) :
    Keeps s0 (rejoinCode n s) := by
  unfold rejoinCode
  repeat' first
    | with_reducible assumption
    | (rintro x y (hx : Keeps s0 y))
    | (rintro x y z w (hx : Keeps s0 w))
    | (rintro x y z (hx : Keeps s0 z))
    | (rintro y (hx : Keeps s0 y))
    | (rintro x y (hx : Keeps s0 y.1))
    | (rintro x y (hx : Keeps s0 y.2))
    | with_reducible first | apply setBits_keeps

theorem takeRecord_keeps (i : Img) (b : List Byte) (s : State) (hs : Keeps s0 s) :
    Keeps s0 (takeRecord i b s) := by
  unfold takeRecord
  repeat' first
    | with_reducible assumption
    | (rintro x y (hx : Keeps s0 y))
    | (rintro x y z w (hx : Keeps s0 w))
    | (rintro x y z (hx : Keeps s0 z))
    | (rintro y (hx : Keeps s0 y))
    | (rintro x y (hx : Keeps s0 y.1))
    | (rintro x y (hx : Keeps s0 y.2))
    | lift_lets
    | (intro x; refine keeps_cut (x := x) (a := s0) ?_ ?_; subst x; rotate_left; clear_value x; intro hx)
    | (intro x; subst x)
    | simp -zeta only [keeps_upd]
    | with_reducible first | apply scaleItem_keeps
    | with_reducible apply keeps_foldl
    | with_reducible apply keeps_foldl1
    | with_reducible apply keeps_foldl2
    | with_reducible exact hx
    | split

theorem rejoin_keeps (own : Bool) (s : State) (hs : Keeps s0 s) :
    Keeps s0 (rejoin own s) := by
  unfold rejoin
  repeat' first
    | with_reducible assumption
    | (rintro x y (hx : Keeps s0 y))
    | (rintro x y z w (hx : Keeps s0 w))
    | (rintro x y z (hx : Keeps s0 z))
    | (rintro y (hx : Keeps s0 y))
    | (rintro x y (hx : Keeps s0 y.1))
    | (rintro x y (hx : Keeps s0 y.2))
    | lift_lets
    | (intro x; refine keeps_cut (x := x) (a := s0) ?_ ?_; subst x; rotate_left; clear_value x; intro hx)
    | (intro x; subst x)
    | simp -zeta only [keeps_upd]
    | with_reducible first | apply setRec_keeps | apply recoveryItem_keeps | apply startRejoined_keeps | apply loadTiles_keeps | apply rejoinCode_keeps | apply takeRecord_keeps
    | with_reducible apply keeps_ite
    | split

theorem recover_keeps (s : State) (hs : Keeps s0 s) :
    Keeps s0 (recover s) := by
  unfold recover
  repeat' first
    | with_reducible assumption
    | (rintro x y (hx : Keeps s0 y))
    | (rintro x y z w (hx : Keeps s0 w))
    | (rintro x y z (hx : Keeps s0 z))
    | (rintro y (hx : Keeps s0 y))
    | (rintro x y (hx : Keeps s0 y.1))
    | (rintro x y (hx : Keeps s0 y.2))
    | lift_lets
    | (intro x; refine keeps_cut (x := x) (a := s0) ?_ ?_; subst x; rotate_left; clear_value x; intro hx)
    | (intro x; subst x)
    | simp -zeta only [keeps_upd]
    | with_reducible first | apply setRec_keeps | apply startDiagnosis_keeps
    | with_reducible apply keeps_ite
    | split

theorem abandon_keeps (s : State) (hs : Keeps s0 s) :
    Keeps s0 (abandon s) := by
  unfold abandon
  repeat' first
    | with_reducible assumption
    | (rintro x y (hx : Keeps s0 y))
    | (rintro x y z w (hx : Keeps s0 w))
    | (rintro x y z (hx : Keeps s0 z))
    | (rintro y (hx : Keeps s0 y))
    | (rintro x y (hx : Keeps s0 y.1))
    | (rintro x y (hx : Keeps s0 y.2))
    | lift_lets
    | (intro x; refine keeps_cut (x := x) (a := s0) ?_ ?_; subst x; rotate_left; clear_value x; intro hx)
    | (intro x; subst x)
    | simp -zeta only [keeps_upd]
    | with_reducible first | apply setRec_keeps | apply recoveryCut_keeps

theorem enWrite_keeps (pg : Page) (b : Bool) (s : State) (hs : Keeps s0 s) :
    Keeps s0 (enWrite pg b s) := by
  unfold enWrite
  repeat' first
    | with_reducible assumption
    | (rintro x y (hx : Keeps s0 y))
    | (rintro x y z w (hx : Keeps s0 w))
    | (rintro x y z (hx : Keeps s0 z))
    | (rintro y (hx : Keeps s0 y))
    | (rintro x y (hx : Keeps s0 y.1))
    | (rintro x y (hx : Keeps s0 y.2))
    | lift_lets
    | (intro x; refine keeps_cut (x := x) (a := s0) ?_ ?_; subst x; rotate_left; clear_value x; intro hx)
    | (intro x; subst x)
    | simp -zeta only [keeps_upd]
    | with_reducible first | apply setBits_keeps | apply setAcc_keeps | apply setLnkState_keeps | apply setLevel_keeps | apply portLost_keeps
    | (intro _ hx; cases hx)
    | with_reducible apply keeps_ite
    | split

theorem redAbort_keeps (e : Die) (s : State) (hs : Keeps s0 s) :
    Keeps s0 (redAbort e s) := by
  unfold redAbort
  repeat' first
    | with_reducible assumption
    | (rintro x y (hx : Keeps s0 y))
    | (rintro x y z w (hx : Keeps s0 w))
    | (rintro x y z (hx : Keeps s0 z))
    | (rintro y (hx : Keeps s0 y))
    | (rintro x y (hx : Keeps s0 y.1))
    | (rintro x y (hx : Keeps s0 y.2))
    | lift_lets
    | (intro x; refine keeps_cut (x := x) (a := s0) ?_ ?_; subst x; rotate_left; clear_value x; intro hx)
    | (intro x; subst x)
    | simp -zeta only [keeps_upd]
    | with_reducible apply keeps_ite
    | split

theorem abortOps_keeps (pg : Page) (s : State) (hs : Keeps s0 s) :
    Keeps s0 (abortOps pg s) := by
  unfold abortOps
  repeat' first
    | with_reducible assumption
    | (rintro x y (hx : Keeps s0 y))
    | (rintro x y z w (hx : Keeps s0 w))
    | (rintro x y z (hx : Keeps s0 z))
    | (rintro y (hx : Keeps s0 y))
    | (rintro x y (hx : Keeps s0 y.1))
    | (rintro x y (hx : Keeps s0 y.2))
    | lift_lets
    | (intro x; refine keeps_cut (x := x) (a := s0) ?_ ?_; subst x; rotate_left; clear_value x; intro hx)
    | (intro x; subst x)
    | simp -zeta only [keeps_upd]
    | with_reducible first | apply setDie_keeps | apply mapTiles_keeps | apply failScrub_keeps | apply rememberSus_keeps | apply dropImage_keeps | apply setLevel_keeps | apply portLost_keeps | apply redAbort_keeps
    | (intro _ hx; cases hx)
    | with_reducible apply keeps_ite
    | split

theorem softReset_keeps (pg : Page) (s : State) (hs : Keeps s0 s) :
    Keeps s0 (softReset pg s) := by
  unfold softReset
  repeat' first
    | with_reducible assumption
    | (rintro x y (hx : Keeps s0 y))
    | (rintro x y z w (hx : Keeps s0 w))
    | (rintro x y z (hx : Keeps s0 z))
    | (rintro y (hx : Keeps s0 y))
    | (rintro x y (hx : Keeps s0 y.1))
    | (rintro x y (hx : Keeps s0 y.2))
    | lift_lets
    | (intro x; refine keeps_cut (x := x) (a := s0) ?_ ?_; subst x; rotate_left; clear_value x; intro hx)
    | (intro x; subst x)
    | simp -zeta only [keeps_upd]
    | with_reducible first | apply abortOps_keeps
    | with_reducible apply keeps_ite
    | split

theorem resetShown_keeps (pg : Page) (en : Bool) (s : State) (hs : Keeps s0 s) :
    Keeps s0 (resetShown pg en s) := by
  unfold resetShown
  repeat' first
    | with_reducible assumption
    | (rintro x y (hx : Keeps s0 y))
    | (rintro x y z w (hx : Keeps s0 w))
    | (rintro x y z (hx : Keeps s0 z))
    | (rintro y (hx : Keeps s0 y))
    | (rintro x y (hx : Keeps s0 y.1))
    | (rintro x y (hx : Keeps s0 y.2))
    | lift_lets
    | (intro x; refine keeps_cut (x := x) (a := s0) ?_ ?_; subst x; rotate_left; clear_value x; intro hx)
    | (intro x; subst x)
    | simp -zeta only [keeps_upd]
    | with_reducible first | apply setDie_keeps | apply setField_keeps | apply setLnkState_keeps
    | with_reducible apply keeps_foldl
    | with_reducible apply keeps_foldl1
    | with_reducible apply keeps_foldl2
    | with_reducible exact hx
    | with_reducible apply keeps_ite
    | split

theorem softResetDone_keeps (pg : Page) (s : State) (hs : Keeps s0 s) :
    Keeps s0 (softResetDone pg s) := by
  unfold softResetDone
  repeat' first
    | with_reducible assumption
    | (rintro x y (hx : Keeps s0 y))
    | (rintro x y z w (hx : Keeps s0 w))
    | (rintro x y z (hx : Keeps s0 z))
    | (rintro y (hx : Keeps s0 y))
    | (rintro x y (hx : Keeps s0 y.1))
    | (rintro x y (hx : Keeps s0 y.2))
    | lift_lets
    | (intro x; refine keeps_cut (x := x) (a := s0) ?_ ?_; subst x; rotate_left; clear_value x; intro hx)
    | (intro x; subst x)
    | simp -zeta only [keeps_upd]
    | with_reducible first | apply setBits_keeps | apply resetShown_keeps
    | with_reducible apply keeps_ite
    | split

theorem pageCtlWrite_keeps (pg : Page) (v : W32) (s : State) (hs : Keeps s0 s) :
    Keeps s0 (pageCtlWrite pg v s) := by
  unfold pageCtlWrite
  repeat' first
    | with_reducible assumption
    | (rintro x y (hx : Keeps s0 y))
    | (rintro x y z w (hx : Keeps s0 w))
    | (rintro x y z (hx : Keeps s0 z))
    | (rintro y (hx : Keeps s0 y))
    | (rintro x y (hx : Keeps s0 y.1))
    | (rintro x y (hx : Keeps s0 y.2))
    | lift_lets
    | (intro x; refine keeps_cut (x := x) (a := s0) ?_ ?_; subst x; rotate_left; clear_value x; intro hx)
    | (intro x; subst x)
    | with_reducible first | apply setBits_keeps | apply enWrite_keeps | apply softReset_keeps
    | with_reducible apply keeps_ite
    | split

theorem midCmdWrite_keeps (v : W32) (s : State) (hs : Keeps s0 s) :
    Keeps s0 (midCmdWrite v s) := by
  unfold midCmdWrite
  repeat' first
    | with_reducible assumption
    | (rintro x y (hx : Keeps s0 y))
    | (rintro x y z w (hx : Keeps s0 w))
    | (rintro x y z (hx : Keeps s0 z))
    | (rintro y (hx : Keeps s0 y))
    | (rintro x y (hx : Keeps s0 y.1))
    | (rintro x y (hx : Keeps s0 y.2))
    | lift_lets
    | (intro x; refine keeps_cut (x := x) (a := s0) ?_ ?_; subst x; rotate_left; clear_value x; intro hx)
    | (intro x; subst x)
    | simp -zeta only [keeps_upd]
    | with_reducible first | apply midRefuse_keeps | apply moduleReset_keeps | apply boot_keeps | apply arrayUp_keeps | apply continueCmd_keeps | apply unload_keeps | apply arrayReset_keeps | apply portReset_keeps | apply load_keeps | apply run_keeps | apply halt_keeps | apply resume_keeps
    | with_reducible apply keeps_ite
    | split

theorem cfgCmdWrite_keeps (v : W32) (s : State) (hs : Keeps s0 s) :
    Keeps s0 (cfgCmdWrite v s) := by
  unfold cfgCmdWrite
  repeat' first
    | with_reducible assumption
    | (rintro x y (hx : Keeps s0 y))
    | (rintro x y z w (hx : Keeps s0 w))
    | (rintro x y z (hx : Keeps s0 z))
    | (rintro y (hx : Keeps s0 y))
    | (rintro x y (hx : Keeps s0 y.1))
    | (rintro x y (hx : Keeps s0 y.2))
    | lift_lets
    | (intro x; refine keeps_cut (x := x) (a := s0) ?_ ?_; subst x; rotate_left; clear_value x; intro hx)
    | (intro x; subst x)
    | simp -zeta only [keeps_upd]
    | with_reducible first | apply cfgCommit_keeps | apply cfgRollback_keeps | apply cfgCopy_keeps | apply pinCheck_keeps
    | split

theorem recCmdWrite_keeps (v : W32) (s : State) (hs : Keeps s0 s) :
    Keeps s0 (recCmdWrite v s) := by
  unfold recCmdWrite
  repeat' first
    | with_reducible assumption
    | (rintro x y (hx : Keeps s0 y))
    | (rintro x y z w (hx : Keeps s0 w))
    | (rintro x y z (hx : Keeps s0 z))
    | (rintro y (hx : Keeps s0 y))
    | (rintro x y (hx : Keeps s0 y.1))
    | (rintro x y (hx : Keeps s0 y.2))
    | lift_lets
    | (intro x; refine keeps_cut (x := x) (a := s0) ?_ ?_; subst x; rotate_left; clear_value x; intro hx)
    | (intro x; subst x)
    | simp -zeta only [keeps_upd]
    | with_reducible first | apply rejoin_keeps | apply recover_keeps | apply abandon_keeps
    | split

theorem rdcCmdWrite_keeps (v : W32) (s : State) (hs : Keeps s0 s) :
    Keeps s0 (rdcCmdWrite v s) := by
  unfold rdcCmdWrite
  repeat' first
    | with_reducible assumption
    | (rintro x y (hx : Keeps s0 y))
    | (rintro x y z w (hx : Keeps s0 w))
    | (rintro x y z (hx : Keeps s0 z))
    | (rintro y (hx : Keeps s0 y))
    | (rintro x y (hx : Keeps s0 y.1))
    | (rintro x y (hx : Keeps s0 y.2))
    | lift_lets
    | (intro x; refine keeps_cut (x := x) (a := s0) ?_ ?_; subst x; rotate_left; clear_value x; intro hx)
    | (intro x; subst x)
    | simp -zeta only [keeps_upd]
    | with_reducible first | apply omitShares_keeps | apply resetChan_keeps
    | split

theorem prtRegWrite_keeps (o : Nat) (v : W32) (s : State) (hs : Keeps s0 s) :
    Keeps s0 (prtRegWrite o v s) := by
  unfold prtRegWrite
  repeat' first
    | with_reducible assumption
    | (rintro x y (hx : Keeps s0 y))
    | (rintro x y z w (hx : Keeps s0 w))
    | (rintro x y z (hx : Keeps s0 z))
    | (rintro y (hx : Keeps s0 y))
    | (rintro x y (hx : Keeps s0 y.1))
    | (rintro x y (hx : Keeps s0 y.2))
    | lift_lets
    | (intro x; refine keeps_cut (x := x) (a := s0) ?_ ?_; subst x; rotate_left; clear_value x; intro hx)
    | (intro x; subst x)
    | simp -zeta only [keeps_upd]
    | with_reducible first | apply prtWrite_keeps
    | split

theorem secCmdWrite_keeps (v : W32) (s : State) (hs : Keeps s0 s) :
    Keeps s0 (secCmdWrite v s) := by
  unfold secCmdWrite
  repeat' first
    | with_reducible assumption
    | (rintro x y (hx : Keeps s0 y))
    | (rintro x y z w (hx : Keeps s0 w))
    | (rintro x y z (hx : Keeps s0 z))
    | (rintro y (hx : Keeps s0 y))
    | (rintro x y (hx : Keeps s0 y.1))
    | (rintro x y (hx : Keeps s0 y.2))
    | lift_lets
    | (intro x; refine keeps_cut (x := x) (a := s0) ?_ ?_; subst x; rotate_left; clear_value x; intro hx)
    | (intro x; subst x)
    | with_reducible first | apply startScrub_keeps | apply secRefuse_keeps
    | with_reducible apply keeps_ite
    | split

theorem qctrWrite_keeps (o : Nat) (v : W32) (s : State) (hs : Keeps s0 s) :
    Keeps s0 (qctrWrite o v s) := by
  unfold qctrWrite
  repeat' first
    | with_reducible assumption
    | (rintro x y (hx : Keeps s0 y))
    | (rintro x y z w (hx : Keeps s0 w))
    | (rintro x y z (hx : Keeps s0 z))
    | (rintro y (hx : Keeps s0 y))
    | (rintro x y (hx : Keeps s0 y.1))
    | (rintro x y (hx : Keeps s0 y.2))
    | with_reducible first | apply setReg_keeps | apply setErr_keeps | apply cbgQuery_keeps
    | with_reducible apply keeps_ite
    | split

theorem specialWrite_keeps {rq : Req} {pg : Page} {o : Nat} {v : W32} {s t : State}
    (ht : specialWrite rq pg o v s = some t) (h : Keeps s0 s) : Keeps s0 t := by
  unfold specialWrite at ht
  repeat' split at ht
  all_goals first
    | (cases ht; done)
    | (simp only [Option.some.injEq] at ht
       subst ht
       repeat' first
         | with_reducible assumption
         | with_reducible first | apply pageCtlWrite_keeps | apply errInj_keeps | apply midCmdWrite_keeps | apply midWdog_keeps | apply cfgCmdWrite_keeps | apply pendSet_keeps | apply msixUnmask_keeps | apply tmrCmpWrite_keeps | apply pwrFcmd_keeps | apply pwrVminReset_keeps | apply fpwVminReset_keeps | apply secCmdWrite_keeps | apply levelWrite_keeps | apply tick1_keeps | apply prtRegWrite_keeps | apply queueCtl_keeps | apply ldgRdWrite_keeps | apply xlWrite_keeps | apply recCmdWrite_keeps | apply rdcCmdWrite_keeps | apply qctrWrite_keeps
         | with_reducible apply keeps_ite)

theorem pageWrite_keeps (rq : Req) (pg : Page) (o : Nat) (v : W32) (s : State) (hs : Keeps s0 s) :
    Keeps s0 (pageWrite rq pg o v s) := by
  unfold pageWrite
  repeat' first
    | with_reducible assumption
    | (rintro x y (hx : Keeps s0 y))
    | (rintro x y z w (hx : Keeps s0 w))
    | (rintro x y z (hx : Keeps s0 z))
    | (rintro y (hx : Keeps s0 y))
    | (rintro x y (hx : Keeps s0 y.1))
    | (rintro x y (hx : Keeps s0 y.2))
    | lift_lets
    | (intro x; refine keeps_cut (x := x) (a := s0) ?_ ?_; subst x; rotate_left; clear_value x; intro hx)
    | (intro x; subst x)
    | simp -zeta only [keeps_upd]
    | with_reducible first | apply plainWrite_keeps | apply holdLow_keeps | apply applyHigh_keeps | exact specialWrite_keeps (by assumption) (by assumption)
    | with_reducible apply keeps_ite
    | split

theorem busWrite_keeps (rq : Req) (off : Nat) (v : W32) (s : State) (hs : Keeps s0 s) :
    Keeps s0 (busWrite rq off v s) := by
  unfold busWrite
  repeat' first
    | with_reducible assumption
    | (rintro x y (hx : Keeps s0 y))
    | (rintro x y z w (hx : Keeps s0 w))
    | (rintro x y z (hx : Keeps s0 z))
    | (rintro y (hx : Keeps s0 y))
    | (rintro x y (hx : Keeps s0 y.1))
    | (rintro x y (hx : Keeps s0 y.2))
    | lift_lets
    | (intro x; refine keeps_cut (x := x) (a := s0) ?_ ?_; subst x; rotate_left; clear_value x; intro hx)
    | (intro x; subst x)
    | simp -zeta only [keeps_upd]
    | with_reducible first | apply accErrAt_keeps | apply sramWindowWrite_keeps | apply writeView_keeps | apply pageWrite_keeps
    | with_reducible apply keeps_ite
    | split

theorem readWords_keeps (rq : Req) (off n : Nat) (s : State) (h : Keeps s0 s) :
    Keeps s0 (readWords rq off n s).2 := by
  induction n generalizing off s with
  | zero => exact h
  | succ n ih => exact ih (off + 4) _ (busRead_keeps rq off s h)

theorem narrowRead_keeps (rq : Req) (off width : Nat) (s : State) (hs : Keeps s0 s) :
    Keeps s0 (narrowRead rq off width s) := by
  unfold narrowRead
  repeat' first
    | with_reducible assumption
    | (rintro x y (hx : Keeps s0 y))
    | (rintro x y z w (hx : Keeps s0 w))
    | (rintro x y z (hx : Keeps s0 z))
    | (rintro y (hx : Keeps s0 y))
    | (rintro x y (hx : Keeps s0 y.1))
    | (rintro x y (hx : Keeps s0 y.2))
    | lift_lets
    | (intro x; refine keeps_cut (x := x) (a := s0) ?_ ?_; subst x; rotate_left; clear_value x; intro hx)
    | (intro x; subst x)
    | with_reducible first | apply emit_keeps | apply readWords_keeps
    | with_reducible apply keeps_ite
    | split

theorem readOut_keeps (rq : Req) (off : Nat) (s : State) (hs : Keeps s0 s) :
    Keeps s0 (readOut rq off s) := by
  unfold readOut
  repeat' first
    | with_reducible assumption
    | (rintro x y (hx : Keeps s0 y))
    | (rintro x y z w (hx : Keeps s0 w))
    | (rintro x y z (hx : Keeps s0 z))
    | (rintro y (hx : Keeps s0 y))
    | (rintro x y (hx : Keeps s0 y.1))
    | (rintro x y (hx : Keeps s0 y.2))
    | lift_lets
    | (intro x; refine keeps_cut (x := x) (a := s0) ?_ ?_; subst x; rotate_left; clear_value x; intro hx)
    | (intro x; subst x)
    | with_reducible first | apply emit_keeps | apply busRead_keeps

theorem rcRead_keeps (rq : Req) (off : Nat) (mask ev : W32) (s : State) (hs : Keeps s0 s) :
    Keeps s0 (rcRead rq off mask ev s) := by
  unfold rcRead
  repeat' first
    | with_reducible assumption
    | (rintro x y (hx : Keeps s0 y))
    | (rintro x y z w (hx : Keeps s0 w))
    | (rintro x y z (hx : Keeps s0 z))
    | (rintro y (hx : Keeps s0 y))
    | (rintro x y (hx : Keeps s0 y.1))
    | (rintro x y (hx : Keeps s0 y.2))
    | lift_lets
    | (intro x; refine keeps_cut (x := x) (a := s0) ?_ ?_; subst x; rotate_left; clear_value x; intro hx)
    | (intro x; subst x)
    | simp -zeta only [keeps_upd]
    | with_reducible first | apply setReg_keeps | apply emit_keeps
    | with_reducible apply keeps_ite
    | split

theorem atView_keeps (off : Nat) (f : Nat → Nat → State → State) (s : State)
    (hf : ∀ x0 x1 x2, Keeps s0 x2 → Keeps s0 (f x0 x1 x2)) (hs : Keeps s0 s) :
    Keeps s0 (atView off f s) := by
  unfold atView
  repeat' first
    | with_reducible assumption
    | (rintro x y (hx : Keeps s0 y))
    | (rintro x y z w (hx : Keeps s0 w))
    | (rintro x y z (hx : Keeps s0 z))
    | (rintro y (hx : Keeps s0 y))
    | (rintro x y (hx : Keeps s0 y.1))
    | (rintro x y (hx : Keeps s0 y.2))
    | lift_lets
    | (intro x; refine keeps_cut (x := x) (a := s0) ?_ ?_; subst x; rotate_left; clear_value x; intro hx)
    | (intro x; subst x)
    | simp -zeta only [keeps_upd]
    | with_reducible first | apply hf
    | with_reducible apply keeps_ite
    | split

theorem windowTimeout_keeps (rq : Req) (off n o : Nat) (s : State) (hs : Keeps s0 s) :
    Keeps s0 (windowTimeout rq off n o s) := by
  unfold windowTimeout
  repeat' first
    | with_reducible assumption
    | (rintro x y (hx : Keeps s0 y))
    | (rintro x y z w (hx : Keeps s0 w))
    | (rintro x y z (hx : Keeps s0 z))
    | (rintro y (hx : Keeps s0 y))
    | (rintro x y (hx : Keeps s0 y.1))
    | (rintro x y (hx : Keeps s0 y.2))
    | with_reducible first | apply emit_keeps | apply setErr_keeps
    | with_reducible apply keeps_ite
    | split

theorem smbusReply_keeps (cmd cc off : Nat) (v : W32) (s : State) (hs : Keeps s0 s) :
    Keeps s0 (smbusReply cmd cc off v s) := by
  unfold smbusReply
  repeat' first
    | with_reducible assumption
    | (rintro x y (hx : Keeps s0 y))
    | (rintro x y z w (hx : Keeps s0 w))
    | (rintro x y z (hx : Keeps s0 z))
    | (rintro y (hx : Keeps s0 y))
    | (rintro x y (hx : Keeps s0 y.1))
    | (rintro x y (hx : Keeps s0 y.2))
    | with_reducible first | apply emit_keeps

theorem smbusRead_keeps (off : Nat) (s : State) (hs : Keeps s0 s) :
    Keeps s0 (smbusRead off s) := by
  unfold smbusRead
  repeat' first
    | with_reducible assumption
    | (rintro x y (hx : Keeps s0 y))
    | (rintro x y z w (hx : Keeps s0 w))
    | (rintro x y z (hx : Keeps s0 z))
    | (rintro y (hx : Keeps s0 y))
    | (rintro x y (hx : Keeps s0 y.1))
    | (rintro x y (hx : Keeps s0 y.2))
    | lift_lets
    | (intro x; refine keeps_cut (x := x) (a := s0) ?_ ?_; subst x; rotate_left; clear_value x; intro hx)
    | (intro x; subst x)
    | with_reducible first | apply busRead_keeps | apply smbusReply_keeps
    | with_reducible apply keeps_ite
    | split

theorem smbusWrite_keeps (off : Nat) (v : W32) (s : State) (hs : Keeps s0 s) :
    Keeps s0 (smbusWrite off v s) := by
  unfold smbusWrite
  repeat' first
    | with_reducible assumption
    | (rintro x y (hx : Keeps s0 y))
    | (rintro x y z w (hx : Keeps s0 w))
    | (rintro x y z (hx : Keeps s0 z))
    | (rintro y (hx : Keeps s0 y))
    | (rintro x y (hx : Keeps s0 y.1))
    | (rintro x y (hx : Keeps s0 y.2))
    | lift_lets
    | (intro x; refine keeps_cut (x := x) (a := s0) ?_ ?_; subst x; rotate_left; clear_value x; intro hx)
    | (intro x; subst x)
    | with_reducible first | apply busWrite_keeps | apply smbusReply_keeps
    | with_reducible apply keeps_ite
    | split

theorem dbgaccDone_keeps (dr : W64) (s : State) (hs : Keeps s0 s) :
    Keeps s0 (dbgaccDone dr s) := by
  unfold dbgaccDone
  repeat' first
    | with_reducible assumption
    | (rintro x y (hx : Keeps s0 y))
    | (rintro x y z w (hx : Keeps s0 w))
    | (rintro x y z (hx : Keeps s0 z))
    | (rintro y (hx : Keeps s0 y))
    | (rintro x y (hx : Keeps s0 y.1))
    | (rintro x y (hx : Keeps s0 y.2))
    | lift_lets
    | (intro x; refine keeps_cut (x := x) (a := s0) ?_ ?_; subst x; rotate_left; clear_value x; intro hx)
    | (intro x; subst x)
    | simp -zeta only [keeps_upd]
    | with_reducible first | apply busRead_keeps | apply barWrite_keeps | apply barRead_keeps | apply busWrite_keeps
    | with_reducible apply keeps_ite
    | split

end Sys2Proof.Machine
end

