-- ==== Sys2Proof/Laws/Keeps7.lean ====
section
/-! SUPPORT. What each command keeps: the fuses, the queue, the canonical form of the store, the rules on the mode
(part 1). -/

namespace Sys2Proof.Machine

theorem execRwbWrite_keeps (rq : Req) (off : Nat) (v : W32) (s : State) {s' : State} (h : execRwbWrite rq off v s = .next s') :
    Keeps s s' := by
  unfold execRwbWrite at h
  repeat' split at h
  all_goals cases h
  all_goals
    repeat' first
      | with_reducible assumption
      | with_reducible exact keeps_refl _
      | (rintro x y (hx : Keeps s y))
      | (rintro x y z w (hx : Keeps s w))
      | (rintro x y z (hx : Keeps s z))
      | (rintro y (hx : Keeps s y))
      | (rintro x y (hx : Keeps s y.1))
      | (rintro x y (hx : Keeps s y.2))
      | with_reducible first | apply barWrite_keeps | apply rwbWrite_keeps
      | with_reducible apply keeps_ite
      | split

theorem execCommit_keeps (rq : Req) (s : State) {s' : State} (h : execCommit rq s = .next s') :
    Keeps s s' := by
  unfold execCommit at h
  cases h
  repeat' first
    | with_reducible assumption
    | with_reducible exact keeps_refl _
    | (rintro x y (hx : Keeps s y))
    | (rintro x y z w (hx : Keeps s w))
    | (rintro x y z (hx : Keeps s z))
    | (rintro y (hx : Keeps s y))
    | (rintro x y (hx : Keeps s y.1))
    | (rintro x y (hx : Keeps s y.2))
    | with_reducible first | apply barWrite_keeps | apply cfgCommit_keeps | apply pinCheck_keeps

theorem execRollback_keeps (rq : Req) (s : State) {s' : State} (h : execRollback rq s = .next s') :
    Keeps s s' := by
  unfold execRollback at h
  cases h
  repeat' first
    | with_reducible assumption
    | with_reducible exact keeps_refl _
    | (rintro x y (hx : Keeps s y))
    | (rintro x y z w (hx : Keeps s w))
    | (rintro x y z (hx : Keeps s z))
    | (rintro y (hx : Keeps s y))
    | (rintro x y (hx : Keeps s y.1))
    | (rintro x y (hx : Keeps s y.2))
    | with_reducible first | apply barWrite_keeps | apply cfgRollback_keeps | apply pinCheck_keeps

theorem execCopy_keeps (rq : Req) (s : State) {s' : State} (h : execCopy rq s = .next s') :
    Keeps s s' := by
  unfold execCopy at h
  cases h
  repeat' first
    | with_reducible assumption
    | with_reducible exact keeps_refl _
    | (rintro x y (hx : Keeps s y))
    | (rintro x y z w (hx : Keeps s w))
    | (rintro x y z (hx : Keeps s z))
    | (rintro y (hx : Keeps s y))
    | (rintro x y (hx : Keeps s y.1))
    | (rintro x y (hx : Keeps s y.2))
    | with_reducible first | apply barWrite_keeps | apply cfgCopy_keeps

theorem execInputUndervoltage_keeps (s : State) {s' : State} (h : execInputUndervoltage s = .next s') :
    Keeps s s' := by
  unfold execInputUndervoltage at h
  cases h
  repeat' first
    | with_reducible assumption
    | with_reducible exact keeps_refl _
    | (rintro x y (hx : Keeps s y))
    | (rintro x y z w (hx : Keeps s w))
    | (rintro x y z (hx : Keeps s z))
    | (rintro y (hx : Keeps s y))
    | (rintro x y (hx : Keeps s y.1))
    | (rintro x y (hx : Keeps s y.2))
    | with_reducible first | apply trip_keeps

theorem execInputOvervoltage_keeps (s : State) {s' : State} (h : execInputOvervoltage s = .next s') :
    Keeps s s' := by
  unfold execInputOvervoltage at h
  cases h
  repeat' first
    | with_reducible assumption
    | with_reducible exact keeps_refl _
    | (rintro x y (hx : Keeps s y))
    | (rintro x y z w (hx : Keeps s w))
    | (rintro x y z (hx : Keeps s z))
    | (rintro y (hx : Keeps s y))
    | (rintro x y (hx : Keeps s y.1))
    | (rintro x y (hx : Keeps s y.2))
    | with_reducible first | apply trip_keeps

theorem execInputOvercurrent_keeps (s : State) {s' : State} (h : execInputOvercurrent s = .next s') :
    Keeps s s' := by
  unfold execInputOvercurrent at h
  cases h
  repeat' first
    | with_reducible assumption
    | with_reducible exact keeps_refl _
    | (rintro x y (hx : Keeps s y))
    | (rintro x y z w (hx : Keeps s w))
    | (rintro x y z (hx : Keeps s z))
    | (rintro y (hx : Keeps s y))
    | (rintro x y (hx : Keeps s y.1))
    | (rintro x y (hx : Keeps s y.2))
    | with_reducible first | apply trip_keeps

theorem execRegulatorFail_keeps (f : Field) (vmem : Bool) (idx : Nat) (s : State) {s' : State} (h : execRegulatorFail f vmem idx s = .next s') :
    Keeps s s' := by
  unfold execRegulatorFail at h
  cases h
  repeat' first
    | with_reducible assumption
    | with_reducible exact keeps_refl _
    | (rintro x y (hx : Keeps s y))
    | (rintro x y z w (hx : Keeps s w))
    | (rintro x y z (hx : Keeps s z))
    | (rintro y (hx : Keeps s y))
    | (rintro x y (hx : Keeps s y.1))
    | (rintro x y (hx : Keeps s y.2))
    | with_reducible first | apply regulatorFail_keeps

theorem execDroopWindow_keeps (f : Field) (v2 x y : Nat) (s : State) {s' : State} (h : execDroopWindow f v2 x y s = .next s') :
    Keeps s s' := by
  unfold execDroopWindow at h
  cases h
  repeat' first
    | with_reducible assumption
    | with_reducible exact keeps_refl _
    | (rintro x y (hx : Keeps s y))
    | (rintro x y z w (hx : Keeps s w))
    | (rintro x y z (hx : Keeps s z))
    | (rintro y (hx : Keeps s y))
    | (rintro x y (hx : Keeps s y.1))
    | (rintro x y (hx : Keeps s y.2))
    | with_reducible first | apply droopWindow_keeps

theorem execTileUndervoltage_keeps (u v : Nat) (s : State) {s' : State} (h : execTileUndervoltage u v s = .next s') :
    Keeps s s' := by
  unfold execTileUndervoltage at h
  cases h
  repeat' first
    | with_reducible assumption
    | with_reducible exact keeps_refl _
    | (rintro x y (hx : Keeps s y))
    | (rintro x y z w (hx : Keeps s w))
    | (rintro x y z (hx : Keeps s z))
    | (rintro y (hx : Keeps s y))
    | (rintro x y (hx : Keeps s y.1))
    | (rintro x y (hx : Keeps s y.2))
    | with_reducible first | apply haltAt_keeps | apply tileFault_keeps

theorem execVmemRange_keeps (f : Field) (s : State) {s' : State} (h : execVmemRange f s = .next s') :
    Keeps s s' := by
  unfold execVmemRange at h
  cases h
  repeat' first
    | with_reducible assumption
    | with_reducible exact keeps_refl _
    | (rintro x y (hx : Keeps s y))
    | (rintro x y z w (hx : Keeps s w))
    | (rintro x y z (hx : Keeps s z))
    | (rintro y (hx : Keeps s y))
    | (rintro x y (hx : Keeps s y.1))
    | (rintro x y (hx : Keeps s y.2))
    | with_reducible first | apply setErr_keeps | apply tileFault_keeps
    | with_reducible apply keeps_ite
    | split

theorem execFieldSoftStart_keeps (f : Field) (s : State) {s' : State} (h : execFieldSoftStart f s = .next s') :
    Keeps s s' := by
  unfold execFieldSoftStart at h
  cases h
  repeat' first
    | with_reducible assumption
    | with_reducible exact keeps_refl _
    | (rintro x y (hx : Keeps s y))
    | (rintro x y z w (hx : Keeps s w))
    | (rintro x y z (hx : Keeps s z))
    | (rintro y (hx : Keeps s y))
    | (rintro x y (hx : Keeps s y.1))
    | (rintro x y (hx : Keeps s y.2))
    | with_reducible first | apply fieldSoftStart_keeps

theorem execSoftStartEnd_keeps (f : Field) (r : SoftStart) (s : State) {s' : State} (h : execSoftStartEnd f r s = .next s') :
    Keeps s s' := by
  unfold execSoftStartEnd at h
  cases h
  repeat' first
    | with_reducible assumption
    | with_reducible exact keeps_refl _
    | (rintro x y (hx : Keeps s y))
    | (rintro x y z w (hx : Keeps s w))
    | (rintro x y z (hx : Keeps s z))
    | (rintro y (hx : Keeps s y))
    | (rintro x y (hx : Keeps s y.1))
    | (rintro x y (hx : Keeps s y.2))
    | with_reducible first | apply softStartEnd_keeps

theorem execFieldShort_keeps (f : Field) (s : State) {s' : State} (h : execFieldShort f s = .next s') :
    Keeps s s' := by
  unfold execFieldShort at h
  cases h
  repeat' first
    | with_reducible assumption
    | with_reducible exact keeps_refl _
    | (rintro x y (hx : Keeps s y))
    | (rintro x y z w (hx : Keeps s w))
    | (rintro x y z (hx : Keeps s z))
    | (rintro y (hx : Keeps s y))
    | (rintro x y (hx : Keeps s y.1))
    | (rintro x y (hx : Keeps s y.2))
    | with_reducible first | apply fieldShort_keeps

theorem execPwrFcmd_keeps (rq : Req) (v : W32) (s : State) {s' : State} (h : execPwrFcmd rq v s = .next s') :
    Keeps s s' := by
  unfold execPwrFcmd at h
  cases h
  repeat' first
    | with_reducible assumption
    | with_reducible exact keeps_refl _
    | (rintro x y (hx : Keeps s y))
    | (rintro x y z w (hx : Keeps s w))
    | (rintro x y z (hx : Keeps s z))
    | (rintro y (hx : Keeps s y))
    | (rintro x y (hx : Keeps s y.1))
    | (rintro x y (hx : Keeps s y.2))
    | with_reducible first | apply barWrite_keeps | apply pwrFcmd_keeps

theorem execPwrVminRst_keeps (rq : Req) (s : State) {s' : State} (h : execPwrVminRst rq s = .next s') :
    Keeps s s' := by
  unfold execPwrVminRst at h
  cases h
  repeat' first
    | with_reducible assumption
    | with_reducible exact keeps_refl _
    | (rintro x y (hx : Keeps s y))
    | (rintro x y z w (hx : Keeps s w))
    | (rintro x y z (hx : Keeps s z))
    | (rintro y (hx : Keeps s y))
    | (rintro x y (hx : Keeps s y.1))
    | (rintro x y (hx : Keeps s y.2))
    | with_reducible first | apply barWrite_keeps | apply pwrVminReset_keeps

theorem execFpwVminRst_keeps (rq : Req) (f : Field) (s : State) {s' : State} (h : execFpwVminRst rq f s = .next s') :
    Keeps s s' := by
  unfold execFpwVminRst at h
  cases h
  repeat' first
    | with_reducible assumption
    | with_reducible exact keeps_refl _
    | (rintro x y (hx : Keeps s y))
    | (rintro x y z w (hx : Keeps s w))
    | (rintro x y z (hx : Keeps s z))
    | (rintro y (hx : Keeps s y))
    | (rintro x y (hx : Keeps s y.1))
    | (rintro x y (hx : Keeps s y.2))
    | with_reducible first | apply barWrite_keeps | apply fpwVminReset_keeps

theorem execRefclkLost_keeps (s : State) {s' : State} (h : execRefclkLost s = .next s') :
    Keeps s s' := by
  unfold execRefclkLost at h
  cases h
  repeat' first
    | with_reducible assumption
    | with_reducible exact keeps_refl _
    | (rintro x y (hx : Keeps s y))
    | (rintro x y z w (hx : Keeps s w))
    | (rintro x y z (hx : Keeps s z))
    | (rintro y (hx : Keeps s y))
    | (rintro x y (hx : Keeps s y.1))
    | (rintro x y (hx : Keeps s y.2))
    | with_reducible first | apply refclkLost_keeps

theorem execRefclkReturn_keeps (s : State) {s' : State} (h : execRefclkReturn s = .next s') :
    Keeps s s' := by
  unfold execRefclkReturn at h
  cases h
  repeat' first
    | with_reducible assumption
    | with_reducible exact keeps_refl _
    | (rintro x y (hx : Keeps s y))
    | (rintro x y z w (hx : Keeps s w))
    | (rintro x y z (hx : Keeps s z))
    | (rintro y (hx : Keeps s y))
    | (rintro x y (hx : Keeps s y.1))
    | (rintro x y (hx : Keeps s y.2))
    | lift_lets
    | (intro x; refine keeps_cut (x := x) (a := s) ?_ ?_; subst x; rotate_left; clear_value x; intro hx)
    | (intro x; subst x)
    | simp -zeta only [keeps_upd]
    | with_reducible first | apply hostLink_keeps
    | with_reducible apply keeps_ite
    | split

theorem execPllUnlock_keeps (s : State) {s' : State} (h : execPllUnlock s = .next s') :
    Keeps s s' := by
  unfold execPllUnlock at h
  cases h
  repeat' first
    | with_reducible assumption
    | with_reducible exact keeps_refl _
    | (rintro x y (hx : Keeps s y))
    | (rintro x y z w (hx : Keeps s w))
    | (rintro x y z (hx : Keeps s z))
    | (rintro y (hx : Keeps s y))
    | (rintro x y (hx : Keeps s y.1))
    | (rintro x y (hx : Keeps s y.2))
    | lift_lets
    | (intro x; refine keeps_cut (x := x) (a := s) ?_ ?_; subst x; rotate_left; clear_value x; intro hx)
    | (intro x; subst x)
    | simp -zeta only [keeps_upd]
    | with_reducible first | apply setErr_keeps | apply stuckFault_keeps
    | with_reducible apply keeps_ite
    | split

theorem execUpstreamClockLoss_keeps (c : Fin 8) (r : Fin 7) (i : Fin 24) (j : Fin 28) (s : State) {s' : State} (h : execUpstreamClockLoss c r i j s = .next s') :
    Keeps s s' := by
  unfold execUpstreamClockLoss at h
  cases h
  repeat' first
    | with_reducible assumption
    | with_reducible exact keeps_refl _
    | (rintro x y (hx : Keeps s y))
    | (rintro x y z w (hx : Keeps s w))
    | (rintro x y z (hx : Keeps s z))
    | (rintro y (hx : Keeps s y))
    | (rintro x y (hx : Keeps s y.1))
    | (rintro x y (hx : Keeps s y.2))
    | with_reducible first | apply clockLoss_keeps

theorem execClockTreeSetupDone_keeps (pll : Bool) (cands : List (Fin 4)) (silent : List (Nat × Nat)) (s : State) {s' : State} (h : execClockTreeSetupDone pll cands silent s = .next s') :
    Keeps s s' := by
  unfold execClockTreeSetupDone at h
  cases h
  repeat' first
    | with_reducible assumption
    | with_reducible exact keeps_refl _
    | (rintro x y (hx : Keeps s y))
    | (rintro x y z w (hx : Keeps s w))
    | (rintro x y z (hx : Keeps s z))
    | (rintro y (hx : Keeps s y))
    | (rintro x y (hx : Keeps s y.1))
    | (rintro x y (hx : Keeps s y.2))
    | with_reducible first | apply clockTreeSetupDone_keeps

theorem execThermalSample_keeps (r : Readings) (s : State) {s' : State} (h : execThermalSample r s = .next s') :
    Keeps s s' := by
  unfold execThermalSample at h
  cases h
  repeat' first
    | with_reducible assumption
    | with_reducible exact keeps_refl _
    | (rintro x y (hx : Keeps s y))
    | (rintro x y z w (hx : Keeps s w))
    | (rintro x y z (hx : Keeps s z))
    | (rintro y (hx : Keeps s y))
    | (rintro x y (hx : Keeps s y.1))
    | (rintro x y (hx : Keeps s y.2))
    | with_reducible first | apply thermalSample_keeps

theorem execFlowTrip_keeps (s : State) {s' : State} (h : execFlowTrip s = .next s') :
    Keeps s s' := by
  unfold execFlowTrip at h
  cases h
  repeat' first
    | with_reducible assumption
    | with_reducible exact keeps_refl _
    | (rintro x y (hx : Keeps s y))
    | (rintro x y z w (hx : Keeps s w))
    | (rintro x y z (hx : Keeps s z))
    | (rintro y (hx : Keeps s y))
    | (rintro x y (hx : Keeps s y.1))
    | (rintro x y (hx : Keeps s y.2))
    | with_reducible first | apply trip_keeps
    | with_reducible apply keeps_ite
    | split

theorem execFlowLow_keeps (s : State) {s' : State} (h : execFlowLow s = .next s') :
    Keeps s s' := by
  unfold execFlowLow at h
  cases h
  repeat' first
    | with_reducible assumption
    | with_reducible exact keeps_refl _
    | (rintro x y (hx : Keeps s y))
    | (rintro x y z w (hx : Keeps s w))
    | (rintro x y z (hx : Keeps s z))
    | (rintro y (hx : Keeps s y))
    | (rintro x y (hx : Keeps s y.1))
    | (rintro x y (hx : Keeps s y.2))
    | with_reducible first | apply setErr_keeps
    | with_reducible apply keeps_ite
    | split

theorem execPinLevelChange_keeps (pin : Fin 8) (run : PinRun) (s : State) {s' : State} (h : execPinLevelChange pin run s = .next s') :
    Keeps s s' := by
  unfold execPinLevelChange at h
  cases h
  repeat' first
    | with_reducible assumption
    | with_reducible exact keeps_refl _
    | (rintro x y (hx : Keeps s y))
    | (rintro x y z w (hx : Keeps s w))
    | (rintro x y z (hx : Keeps s z))
    | (rintro y (hx : Keeps s y))
    | (rintro x y (hx : Keeps s y.1))
    | (rintro x y (hx : Keeps s y.2))
    | with_reducible first | apply pinChange_keeps | apply run_keeps

theorem execHbmRail_keeps (d : Die) (r : Rail) (good : Bool) (s : State) {s' : State} (h : execHbmRail d r good s = .next s') :
    Keeps s s' := by
  unfold execHbmRail at h
  cases h
  repeat' first
    | with_reducible assumption
    | with_reducible exact keeps_refl _
    | (rintro x y (hx : Keeps s y))
    | (rintro x y z w (hx : Keeps s w))
    | (rintro x y z (hx : Keeps s z))
    | (rintro y (hx : Keeps s y))
    | (rintro x y (hx : Keeps s y.1))
    | (rintro x y (hx : Keeps s y.2))
    | with_reducible first | apply hbmRail_keeps

theorem execPwrEnAssert_keeps (s : State) {s' : State} (h : execPwrEnAssert s = .next s') :
    Keeps s s' := by
  unfold execPwrEnAssert at h
  cases h
  repeat' first
    | with_reducible assumption
    | with_reducible exact keeps_refl _
    | (rintro x y (hx : Keeps s y))
    | (rintro x y z w (hx : Keeps s w))
    | (rintro x y z (hx : Keeps s z))
    | (rintro y (hx : Keeps s y))
    | (rintro x y (hx : Keeps s y.1))
    | (rintro x y (hx : Keeps s y.2))
    | lift_lets
    | (intro x; refine keeps_cut (x := x) (a := s) ?_ ?_; subst x; rotate_left; clear_value x; intro hx)
    | (intro x; subst x)
    | simp -zeta only [keeps_upd]
    | with_reducible first | apply rampRails_keeps

theorem execPwrEnDeassert_keeps (s : State) {s' : State} (h : execPwrEnDeassert s = .next s') :
    Keeps s s' := by
  unfold execPwrEnDeassert at h
  cases h
  repeat' first
    | with_reducible assumption
    | with_reducible exact keeps_refl _
    | (rintro x y (hx : Keeps s y))
    | (rintro x y z w (hx : Keeps s w))
    | (rintro x y z (hx : Keeps s z))
    | (rintro y (hx : Keeps s y))
    | (rintro x y (hx : Keeps s y.1))
    | (rintro x y (hx : Keeps s y.2))
    | lift_lets
    | (intro x; refine keeps_cut (x := x) (a := s) ?_ ?_; subst x; rotate_left; clear_value x; intro hx)
    | (intro x; subst x)
    | simp -zeta only [keeps_upd]
    | with_reducible first | apply goOff_keeps

theorem execPwrEnHoldoffEnd_keeps (s : State) {s' : State} (h : execPwrEnHoldoffEnd s = .next s') :
    Keeps s s' := by
  unfold execPwrEnHoldoffEnd at h
  cases h
  repeat' first
    | with_reducible assumption
    | with_reducible exact keeps_refl _
    | (rintro x y (hx : Keeps s y))
    | (rintro x y z w (hx : Keeps s w))
    | (rintro x y z (hx : Keeps s z))
    | (rintro y (hx : Keeps s y))
    | (rintro x y (hx : Keeps s y.1))
    | (rintro x y (hx : Keeps s y.2))
    | lift_lets
    | (intro x; refine keeps_cut (x := x) (a := s) ?_ ?_; subst x; rotate_left; clear_value x; intro hx)
    | (intro x; subst x)
    | simp -zeta only [keeps_upd]
    | with_reducible first | apply rampRails_keeps

theorem execInputLoss_keeps (s : State) {s' : State} (h : execInputLoss s = .next s') :
    Keeps s s' := by
  unfold execInputLoss at h
  cases h
  repeat' first
    | with_reducible assumption
    | with_reducible exact keeps_refl _
    | (rintro x y (hx : Keeps s y))
    | (rintro x y z w (hx : Keeps s w))
    | (rintro x y z (hx : Keeps s z))
    | (rintro y (hx : Keeps s y))
    | (rintro x y (hx : Keeps s y.1))
    | (rintro x y (hx : Keeps s y.2))
    | lift_lets
    | (intro x; refine keeps_cut (x := x) (a := s) ?_ ?_; subst x; rotate_left; clear_value x; intro hx)
    | (intro x; subst x)
    | simp -zeta only [keeps_upd]
    | with_reducible first | apply goOff_keeps

theorem execBusbarEnergised_keeps (reversed : Bool) (s : State) {s' : State} (h : execBusbarEnergised reversed s = .next s') :
    Keeps s s' := by
  unfold execBusbarEnergised at h
  cases h
  repeat' first
    | with_reducible assumption
    | with_reducible exact keeps_refl _
    | (rintro x y (hx : Keeps s y))
    | (rintro x y z w (hx : Keeps s w))
    | (rintro x y z (hx : Keeps s z))
    | (rintro y (hx : Keeps s y))
    | (rintro x y (hx : Keeps s y.1))
    | (rintro x y (hx : Keeps s y.2))
    | lift_lets
    | (intro x; refine keeps_cut (x := x) (a := s) ?_ ?_; subst x; rotate_left; clear_value x; intro hx)
    | (intro x; subst x)
    | simp -zeta only [keeps_upd]
    | with_reducible first | apply rampRails_keeps
    | with_reducible apply keeps_ite
    | split

theorem execBootRomStart_keeps (addrSel : Fin 4) (s : State) {s' : State} (h : execBootRomStart addrSel s = .next s') :
    Keeps s s' := by
  unfold execBootRomStart at h
  cases h
  repeat' first
    | with_reducible assumption
    | with_reducible exact keeps_refl _
    | (rintro x y (hx : Keeps s y))
    | (rintro x y z w (hx : Keeps s w))
    | (rintro x y z (hx : Keeps s z))
    | (rintro y (hx : Keeps s y))
    | (rintro x y (hx : Keeps s y.1))
    | (rintro x y (hx : Keeps s y.2))
    | with_reducible first | apply powerOn_keeps
    | with_reducible apply keeps_ite
    | split

theorem execPerstNAssert_keeps (s : State) {s' : State} (h : execPerstNAssert s = .next s') :
    Keeps s s' := by
  unfold execPerstNAssert at h
  cases h
  repeat' first
    | with_reducible assumption
    | with_reducible exact keeps_refl _
    | (rintro x y (hx : Keeps s y))
    | (rintro x y z w (hx : Keeps s w))
    | (rintro x y z (hx : Keeps s z))
    | (rintro y (hx : Keeps s y))
    | (rintro x y (hx : Keeps s y.1))
    | (rintro x y (hx : Keeps s y.2))
    | with_reducible first | apply perstAssert_keeps

theorem execPerstNRelease_keeps (s : State) {s' : State} (h : execPerstNRelease s = .next s') :
    Keeps s s' := by
  unfold execPerstNRelease at h
  cases h
  repeat' first
    | with_reducible assumption
    | with_reducible exact keeps_refl _
    | (rintro x y (hx : Keeps s y))
    | (rintro x y z w (hx : Keeps s w))
    | (rintro x y z (hx : Keeps s z))
    | (rintro y (hx : Keeps s y))
    | (rintro x y (hx : Keeps s y.1))
    | (rintro x y (hx : Keeps s y.2))
    | lift_lets
    | (intro x; refine keeps_cut (x := x) (a := s) ?_ ?_; subst x; rotate_left; clear_value x; intro hx)
    | (intro x; subst x)
    | simp -zeta only [keeps_upd]
    | with_reducible first | apply hostLink_keeps

theorem execModuleReset_keeps (rq : Req) (s : State) {s' : State} (h : execModuleReset rq s = .next s') :
    Keeps s s' := by
  unfold execModuleReset at h
  cases h
  repeat' first
    | with_reducible assumption
    | with_reducible exact keeps_refl _
    | (rintro x y (hx : Keeps s y))
    | (rintro x y z w (hx : Keeps s w))
    | (rintro x y z (hx : Keeps s z))
    | (rintro y (hx : Keeps s y))
    | (rintro x y (hx : Keeps s y.1))
    | (rintro x y (hx : Keeps s y.2))
    | with_reducible first | apply barWrite_keeps | apply moduleReset_keeps

theorem execMgmtSramWindowWrite_keeps (rq : Req) (off : Nat) (v : W32) (s : State) {s' : State} (h : execMgmtSramWindowWrite rq off v s = .next s') :
    Keeps s s' := by
  unfold execMgmtSramWindowWrite at h
  repeat' split at h
  all_goals cases h
  all_goals
    repeat' first
      | with_reducible assumption
      | with_reducible exact keeps_refl _
      | (rintro x y (hx : Keeps s y))
      | (rintro x y z w (hx : Keeps s w))
      | (rintro x y z (hx : Keeps s z))
      | (rintro y (hx : Keeps s y))
      | (rintro x y (hx : Keeps s y.1))
      | (rintro x y (hx : Keeps s y.2))
      | lift_lets
      | (intro x; refine keeps_cut (x := x) (a := s) ?_ ?_; subst x; rotate_left; clear_value x; intro hx)
      | (intro x; subst x)
      | with_reducible first | apply barWrite_keeps | apply sramWindowWrite_keeps
      | with_reducible apply keeps_ite
      | split

theorem execBoot_keeps (rq : Req) (s : State) {s' : State} (h : execBoot rq s = .next s') :
    Keeps s s' := by
  unfold execBoot at h
  cases h
  repeat' first
    | with_reducible assumption
    | with_reducible exact keeps_refl _
    | (rintro x y (hx : Keeps s y))
    | (rintro x y z w (hx : Keeps s w))
    | (rintro x y z (hx : Keeps s z))
    | (rintro y (hx : Keeps s y))
    | (rintro x y (hx : Keeps s y.1))
    | (rintro x y (hx : Keeps s y.2))
    | with_reducible first | apply barWrite_keeps | apply boot_keeps

theorem execMidWdog_keeps (rq : Req) (v : W32) (s : State) {s' : State} (h : execMidWdog rq v s = .next s') :
    Keeps s s' := by
  unfold execMidWdog at h
  cases h
  repeat' first
    | with_reducible assumption
    | with_reducible exact keeps_refl _
    | (rintro x y (hx : Keeps s y))
    | (rintro x y z w (hx : Keeps s w))
    | (rintro x y z (hx : Keeps s z))
    | (rintro y (hx : Keeps s y))
    | (rintro x y (hx : Keeps s y.1))
    | (rintro x y (hx : Keeps s y.2))
    | with_reducible first | apply barWrite_keeps | apply midWdog_keeps

theorem execWdogExpiry_keeps (core1 : Bool) (s : State) {s' : State} (h : execWdogExpiry core1 s = .next s') :
    Keeps s s' := by
  unfold execWdogExpiry at h
  cases h
  repeat' first
    | with_reducible assumption
    | with_reducible exact keeps_refl _
    | (rintro x y (hx : Keeps s y))
    | (rintro x y z w (hx : Keeps s w))
    | (rintro x y z (hx : Keeps s z))
    | (rintro y (hx : Keeps s y))
    | (rintro x y (hx : Keeps s y.1))
    | (rintro x y (hx : Keeps s y.2))
    | with_reducible first | apply wdogExpiry_keeps

theorem execArrayUp_keeps (rq : Req) (s : State) {s' : State} (h : execArrayUp rq s = .next s') :
    Keeps s s' := by
  unfold execArrayUp at h
  cases h
  repeat' first
    | with_reducible assumption
    | with_reducible exact keeps_refl _
    | (rintro x y (hx : Keeps s y))
    | (rintro x y z w (hx : Keeps s w))
    | (rintro x y z (hx : Keeps s z))
    | (rintro y (hx : Keeps s y))
    | (rintro x y (hx : Keeps s y.1))
    | (rintro x y (hx : Keeps s y.2))
    | with_reducible first | apply barWrite_keeps | apply arrayUp_keeps

theorem execFieldSequencingEnd_keeps (s : State) {s' : State} (h : execFieldSequencingEnd s = .next s') :
    Keeps s s' := by
  unfold execFieldSequencingEnd at h
  cases h
  repeat' first
    | with_reducible assumption
    | with_reducible exact keeps_refl _
    | (rintro x y (hx : Keeps s y))
    | (rintro x y z w (hx : Keeps s w))
    | (rintro x y z (hx : Keeps s z))
    | (rintro y (hx : Keeps s y))
    | (rintro x y (hx : Keeps s y.1))
    | (rintro x y (hx : Keeps s y.2))
    | with_reducible first | apply sequencingEnd_keeps

theorem execContinue_keeps (rq : Req) (s : State) {s' : State} (h : execContinue rq s = .next s') :
    Keeps s s' := by
  unfold execContinue at h
  cases h
  repeat' first
    | with_reducible assumption
    | with_reducible exact keeps_refl _
    | (rintro x y (hx : Keeps s y))
    | (rintro x y z w (hx : Keeps s w))
    | (rintro x y z (hx : Keeps s z))
    | (rintro y (hx : Keeps s y))
    | (rintro x y (hx : Keeps s y.1))
    | (rintro x y (hx : Keeps s y.2))
    | with_reducible first | apply barWrite_keeps | apply continueCmd_keeps

theorem execPauseTimeout_keeps (s : State) {s' : State} (h : execPauseTimeout s = .next s') :
    Keeps s s' := by
  unfold execPauseTimeout at h
  cases h
  repeat' first
    | with_reducible assumption
    | with_reducible exact keeps_refl _
    | (rintro x y (hx : Keeps s y))
    | (rintro x y z w (hx : Keeps s w))
    | (rintro x y z (hx : Keeps s z))
    | (rintro y (hx : Keeps s y))
    | (rintro x y (hx : Keeps s y.1))
    | (rintro x y (hx : Keeps s y.2))
    | with_reducible first | apply beginClockSetup_keeps
    | with_reducible apply keeps_ite
    | split

theorem execSelfTestEnd_keeps (r : TestReport) (s : State) {s' : State} (h : execSelfTestEnd r s = .next s') :
    Keeps s s' := by
  unfold execSelfTestEnd at h
  cases h
  repeat' first
    | with_reducible assumption
    | with_reducible exact keeps_refl _
    | (rintro x y (hx : Keeps s y))
    | (rintro x y z w (hx : Keeps s w))
    | (rintro x y z (hx : Keeps s z))
    | (rintro y (hx : Keeps s y))
    | (rintro x y (hx : Keeps s y.1))
    | (rintro x y (hx : Keeps s y.2))
    | with_reducible first | apply selfTestEnd_keeps

theorem execUnload_keeps (rq : Req) (s : State) {s' : State} (h : execUnload rq s = .next s') :
    Keeps s s' := by
  unfold execUnload at h
  cases h
  repeat' first
    | with_reducible assumption
    | with_reducible exact keeps_refl _
    | (rintro x y (hx : Keeps s y))
    | (rintro x y z w (hx : Keeps s w))
    | (rintro x y z (hx : Keeps s z))
    | (rintro y (hx : Keeps s y))
    | (rintro x y (hx : Keeps s y.1))
    | (rintro x y (hx : Keeps s y.2))
    | with_reducible first | apply barWrite_keeps | apply unload_keeps

theorem execArrayReset_keeps (rq : Req) (s : State) {s' : State} (h : execArrayReset rq s = .next s') :
    Keeps s s' := by
  unfold execArrayReset at h
  cases h
  repeat' first
    | with_reducible assumption
    | with_reducible exact keeps_refl _
    | (rintro x y (hx : Keeps s y))
    | (rintro x y z w (hx : Keeps s w))
    | (rintro x y z (hx : Keeps s z))
    | (rintro y (hx : Keeps s y))
    | (rintro x y (hx : Keeps s y.1))
    | (rintro x y (hx : Keeps s y.2))
    | with_reducible first | apply barWrite_keeps | apply arrayReset_keeps

theorem execArrayResetComplete_keeps (s : State) {s' : State} (h : execArrayResetComplete s = .next s') :
    Keeps s s' := by
  unfold execArrayResetComplete at h
  cases h
  repeat' first
    | with_reducible assumption
    | with_reducible exact keeps_refl _
    | (rintro x y (hx : Keeps s y))
    | (rintro x y z w (hx : Keeps s w))
    | (rintro x y z (hx : Keeps s z))
    | (rintro y (hx : Keeps s y))
    | (rintro x y (hx : Keeps s y.1))
    | (rintro x y (hx : Keeps s y.2))
    | with_reducible first | apply arrayResetComplete_keeps

theorem execPcieHotReset_keeps (s : State) {s' : State} (h : execPcieHotReset s = .next s') :
    Keeps s s' := by
  unfold execPcieHotReset at h
  cases h
  repeat' first
    | with_reducible assumption
    | with_reducible exact keeps_refl _
    | (rintro x y (hx : Keeps s y))
    | (rintro x y z w (hx : Keeps s w))
    | (rintro x y z (hx : Keeps s z))
    | (rintro y (hx : Keeps s y))
    | (rintro x y (hx : Keeps s y.1))
    | (rintro x y (hx : Keeps s y.2))
    | with_reducible first | apply hostLink_keeps | apply pcieReset_keeps
    | with_reducible apply keeps_ite
    | split

theorem execPciePowerStateChange_keeps (d3hot : Bool) (ctl : HostCtl) (s : State) {s' : State} (h : execPciePowerStateChange d3hot ctl s = .next s') :
    Keeps s s' := by
  unfold execPciePowerStateChange at h
  cases h
  repeat' first
    | with_reducible assumption
    | with_reducible exact keeps_refl _
    | (rintro x y (hx : Keeps s y))
    | (rintro x y z w (hx : Keeps s w))
    | (rintro x y z (hx : Keeps s z))
    | (rintro y (hx : Keeps s y))
    | (rintro x y (hx : Keeps s y.1))
    | (rintro x y (hx : Keeps s y.2))
    | lift_lets
    | (intro x; refine keeps_cut (x := x) (a := s) ?_ ?_; subst x; rotate_left; clear_value x; intro hx)
    | (intro x; subst x)
    | simp -zeta only [keeps_upd]
    | with_reducible first | apply flushPba_keeps
    | with_reducible apply keeps_ite
    | split

theorem execMsixUnmask_keeps (rq : Req) (n : Fin 32) (s : State) {s' : State} (h : execMsixUnmask rq n s = .next s') :
    Keeps s s' := by
  unfold execMsixUnmask at h
  cases h
  repeat' first
    | with_reducible assumption
    | with_reducible exact keeps_refl _
    | (rintro x y (hx : Keeps s y))
    | (rintro x y z w (hx : Keeps s w))
    | (rintro x y z (hx : Keeps s z))
    | (rintro y (hx : Keeps s y))
    | (rintro x y (hx : Keeps s y.1))
    | (rintro x y (hx : Keeps s y.2))
    | with_reducible first | apply barWrite_keeps | apply msixUnmask_keeps

theorem execGetVersion_keeps (t : Transport) (s : State) {s' : State} (h : execGetVersion t s = .next s') :
    Keeps s s' := by
  unfold execGetVersion at h
  cases h
  repeat' first
    | with_reducible assumption
    | with_reducible exact keeps_refl _
    | (rintro x y (hx : Keeps s y))
    | (rintro x y z w (hx : Keeps s w))
    | (rintro x y z (hx : Keeps s z))
    | (rintro y (hx : Keeps s y))
    | (rintro x y (hx : Keeps s y.1))
    | (rintro x y (hx : Keeps s y.2))
    | lift_lets
    | (intro x; refine keeps_cut (x := x) (a := s) ?_ ?_; subst x; rotate_left; clear_value x; intro hx)
    | (intro x; subst x)
    | simp -zeta only [keeps_upd]
    | with_reducible first | apply respond_keeps | apply spdmReq_keeps

theorem execGetCapabilities_keeps (t : Transport) (s : State) {s' : State} (h : execGetCapabilities t s = .next s') :
    Keeps s s' := by
  unfold execGetCapabilities at h
  cases h
  repeat' first
    | with_reducible assumption
    | with_reducible exact keeps_refl _
    | (rintro x y (hx : Keeps s y))
    | (rintro x y z w (hx : Keeps s w))
    | (rintro x y z (hx : Keeps s z))
    | (rintro y (hx : Keeps s y))
    | (rintro x y (hx : Keeps s y.1))
    | (rintro x y (hx : Keeps s y.2))
    | lift_lets
    | (intro x; refine keeps_cut (x := x) (a := s) ?_ ?_; subst x; rotate_left; clear_value x; intro hx)
    | (intro x; subst x)
    | simp -zeta only [keeps_upd]
    | with_reducible first | apply respond_keeps | apply spdmReq_keeps | apply spdmError_keeps
    | with_reducible apply keeps_ite
    | split

theorem execNegotiateAlgorithms_keeps (t : Transport) (ver : Nat) (supported : Bool) (s : State) {s' : State} (h : execNegotiateAlgorithms t ver supported s = .next s') :
    Keeps s s' := by
  unfold execNegotiateAlgorithms at h
  cases h
  repeat' first
    | with_reducible assumption
    | with_reducible exact keeps_refl _
    | (rintro x y (hx : Keeps s y))
    | (rintro x y z w (hx : Keeps s w))
    | (rintro x y z (hx : Keeps s z))
    | (rintro y (hx : Keeps s y))
    | (rintro x y (hx : Keeps s y.1))
    | (rintro x y (hx : Keeps s y.2))
    | lift_lets
    | (intro x; refine keeps_cut (x := x) (a := s) ?_ ?_; subst x; rotate_left; clear_value x; intro hx)
    | (intro x; subst x)
    | simp -zeta only [keeps_upd]
    | with_reducible first | apply respond_keeps | apply spdmReq_keeps | apply spdmError_keeps
    | with_reducible apply keeps_ite
    | split

theorem execGetDigests_keeps (t : Transport) (s : State) {s' : State} (h : execGetDigests t s = .next s') :
    Keeps s s' := by
  unfold execGetDigests at h
  cases h
  repeat' first
    | with_reducible assumption
    | with_reducible exact keeps_refl _
    | (rintro x y (hx : Keeps s y))
    | (rintro x y z w (hx : Keeps s w))
    | (rintro x y z (hx : Keeps s z))
    | (rintro y (hx : Keeps s y))
    | (rintro x y (hx : Keeps s y.1))
    | (rintro x y (hx : Keeps s y.2))
    | with_reducible first | apply respond_keeps | apply spdmReq_keeps | apply spdmError_keeps
    | with_reducible apply keeps_ite
    | split

theorem execGetCertificate_keeps (t : Transport) (slot : Nat) (s : State) {s' : State} (h : execGetCertificate t slot s = .next s') :
    Keeps s s' := by
  unfold execGetCertificate at h
  cases h
  repeat' first
    | with_reducible assumption
    | with_reducible exact keeps_refl _
    | (rintro x y (hx : Keeps s y))
    | (rintro x y z w (hx : Keeps s w))
    | (rintro x y z (hx : Keeps s z))
    | (rintro y (hx : Keeps s y))
    | (rintro x y (hx : Keeps s y.1))
    | (rintro x y (hx : Keeps s y.2))
    | with_reducible first | apply respond_keeps | apply spdmReq_keeps | apply spdmError_keeps
    | with_reducible apply keeps_ite
    | split

theorem execChallenge_keeps (t : Transport) (slot : Nat) (nonce : List Byte) (s : State) {s' : State} (h : execChallenge t slot nonce s = .next s') :
    Keeps s s' := by
  unfold execChallenge at h
  cases h
  repeat' first
    | with_reducible assumption
    | with_reducible exact keeps_refl _
    | (rintro x y (hx : Keeps s y))
    | (rintro x y z w (hx : Keeps s w))
    | (rintro x y z (hx : Keeps s z))
    | (rintro y (hx : Keeps s y))
    | (rintro x y (hx : Keeps s y.1))
    | (rintro x y (hx : Keeps s y.2))
    | with_reducible first | apply respond_keeps | apply spdmReq_keeps | apply spdmError_keeps
    | with_reducible apply keeps_ite
    | split

theorem execGetMeasurements_keeps (t : Transport) (index : Nat) (signed : Bool) (s : State) {s' : State} (h : execGetMeasurements t index signed s = .next s') :
    Keeps s s' := by
  unfold execGetMeasurements at h
  cases h
  repeat' first
    | with_reducible assumption
    | with_reducible exact keeps_refl _
    | (rintro x y (hx : Keeps s y))
    | (rintro x y z w (hx : Keeps s w))
    | (rintro x y z (hx : Keeps s z))
    | (rintro y (hx : Keeps s y))
    | (rintro x y (hx : Keeps s y.1))
    | (rintro x y (hx : Keeps s y.2))
    | lift_lets
    | (intro x; refine keeps_cut (x := x) (a := s) ?_ ?_; subst x; rotate_left; clear_value x; intro hx)
    | (intro x; subst x)
    | simp -zeta only [keeps_upd]
    | with_reducible first | apply respond_keeps | apply spdmReq_keeps | apply spdmError_keeps
    | with_reducible apply keeps_ite
    | split

theorem execKeyExchange_keeps (t : Transport) (pub : List Byte) (s : State) {s' : State} (h : execKeyExchange t pub s = .next s') :
    Keeps s s' := by
  unfold execKeyExchange at h
  cases h
  repeat' first
    | with_reducible assumption
    | with_reducible exact keeps_refl _
    | (rintro x y (hx : Keeps s y))
    | (rintro x y z w (hx : Keeps s w))
    | (rintro x y z (hx : Keeps s z))
    | (rintro y (hx : Keeps s y))
    | (rintro x y (hx : Keeps s y.1))
    | (rintro x y (hx : Keeps s y.2))
    | lift_lets
    | (intro x; refine keeps_cut (x := x) (a := s) ?_ ?_; subst x; rotate_left; clear_value x; intro hx)
    | (intro x; subst x)
    | simp -zeta only [keeps_upd]
    | with_reducible first | apply respond_keeps | apply spdmReq_keeps | apply spdmError_keeps
    | with_reducible apply keeps_ite
    | split

theorem execFinish_keeps (t : Transport) (verifyOk : Bool) (s : State) {s' : State} (h : execFinish t verifyOk s = .next s') :
    Keeps s s' := by
  unfold execFinish at h
  cases h
  repeat' first
    | with_reducible assumption
    | with_reducible exact keeps_refl _
    | (rintro x y (hx : Keeps s y))
    | (rintro x y z w (hx : Keeps s w))
    | (rintro x y z (hx : Keeps s z))
    | (rintro y (hx : Keeps s y))
    | (rintro x y (hx : Keeps s y.1))
    | (rintro x y (hx : Keeps s y.2))
    | lift_lets
    | (intro x; refine keeps_cut (x := x) (a := s) ?_ ?_; subst x; rotate_left; clear_value x; intro hx)
    | (intro x; subst x)
    | simp -zeta only [keeps_upd]
    | with_reducible first | apply respond_keeps | apply spdmReq_keeps | apply spdmError_keeps
    | with_reducible apply keeps_ite
    | split

theorem execHeartbeat_keeps (t : Transport) (s : State) {s' : State} (h : execHeartbeat t s = .next s') :
    Keeps s s' := by
  unfold execHeartbeat at h
  cases h
  repeat' first
    | with_reducible assumption
    | with_reducible exact keeps_refl _
    | (rintro x y (hx : Keeps s y))
    | (rintro x y z w (hx : Keeps s w))
    | (rintro x y z (hx : Keeps s z))
    | (rintro y (hx : Keeps s y))
    | (rintro x y (hx : Keeps s y.1))
    | (rintro x y (hx : Keeps s y.2))
    | with_reducible first | apply respond_keeps | apply spdmReq_keeps | apply spdmError_keeps
    | with_reducible apply keeps_ite
    | split

theorem execEndSession_keeps (t : Transport) (s : State) {s' : State} (h : execEndSession t s = .next s') :
    Keeps s s' := by
  unfold execEndSession at h
  cases h
  repeat' first
    | with_reducible assumption
    | with_reducible exact keeps_refl _
    | (rintro x y (hx : Keeps s y))
    | (rintro x y z w (hx : Keeps s w))
    | (rintro x y z (hx : Keeps s z))
    | (rintro y (hx : Keeps s y))
    | (rintro x y (hx : Keeps s y.1))
    | (rintro x y (hx : Keeps s y.2))
    | lift_lets
    | (intro x; refine keeps_cut (x := x) (a := s) ?_ ?_; subst x; rotate_left; clear_value x; intro hx)
    | (intro x; subst x)
    | simp -zeta only [keeps_upd]
    | with_reducible first | apply respond_keeps | apply spdmReq_keeps | apply spdmError_keeps
    | with_reducible apply keeps_ite
    | split

theorem execSetHbmKey_keeps (dataKey tweakKey : List Byte) (s : State) {s' : State} (h : execSetHbmKey dataKey tweakKey s = .next s') :
    Keeps s s' := by
  unfold execSetHbmKey at h
  cases h
  repeat' first
    | with_reducible assumption
    | with_reducible exact keeps_refl _
    | (rintro x y (hx : Keeps s y))
    | (rintro x y z w (hx : Keeps s w))
    | (rintro x y z (hx : Keeps s z))
    | (rintro y (hx : Keeps s y))
    | (rintro x y (hx : Keeps s y.1))
    | (rintro x y (hx : Keeps s y.2))
    | lift_lets
    | (intro x; refine keeps_cut (x := x) (a := s) ?_ ?_; subst x; rotate_left; clear_value x; intro hx)
    | (intro x; subst x)
    | simp -zeta only [keeps_upd]
    | with_reducible first | apply secAnswer_keeps | apply inSession_keeps
    | with_reducible apply keeps_ite
    | split

theorem execSetLinkKey_keeps (port : Nat) (rx : Bool) (salt key : List Byte) (s : State) {s' : State} (h : execSetLinkKey port rx salt key s = .next s') :
    Keeps s s' := by
  unfold execSetLinkKey at h
  cases h
  repeat' first
    | with_reducible assumption
    | with_reducible exact keeps_refl _
    | (rintro x y (hx : Keeps s y))
    | (rintro x y z w (hx : Keeps s w))
    | (rintro x y z (hx : Keeps s z))
    | (rintro y (hx : Keeps s y))
    | (rintro x y (hx : Keeps s y.1))
    | (rintro x y (hx : Keeps s y.2))
    | lift_lets
    | (intro x; refine keeps_cut (x := x) (a := s) ?_ ?_; subst x; rotate_left; clear_value x; intro hx)
    | (intro x; subst x)
    | with_reducible first | apply secAnswer_keeps | apply inSession_keeps | apply loadLinkKey_keeps
    | with_reducible apply keeps_ite
    | split

theorem execSeal_keeps (hash : List Byte) (s : State) {s' : State} (h : execSeal hash s = .next s') :
    Keeps s s' := by
  unfold execSeal at h
  cases h
  refine keeps_ite (keeps_refl _) (keeps_ite (secRefuse_keeps _ _ (keeps_refl _))
    (inSession_keeps _ _ (fun y hy => ?_) (keeps_refl _)))
  dsimp only
  split
  · rename_i hc
    exact secAnswer_keeps _ _ (sealNow_keeps _ _ hy hc)
  · exact secAnswer_keeps _ _ hy

theorem execUnseal_keeps (spdm : Bool) (s : State) {s' : State} (h : execUnseal spdm s = .next s') :
    Keeps s s' := by
  unfold execUnseal at h
  cases h
  repeat' first
    | with_reducible assumption
    | with_reducible exact keeps_refl _
    | (rintro x y (hx : Keeps s y))
    | (rintro x y z w (hx : Keeps s w))
    | (rintro x y z (hx : Keeps s z))
    | (rintro y (hx : Keeps s y))
    | (rintro x y (hx : Keeps s y.1))
    | (rintro x y (hx : Keeps s y.2))
    | lift_lets
    | (intro x; refine keeps_cut (x := x) (a := s) ?_ ?_; subst x; rotate_left; clear_value x; intro hx)
    | (intro x; subst x)
    | with_reducible first | apply startScrub_keeps | apply secRefuse_keeps | apply secAnswer_keeps | apply inSession_keeps
    | with_reducible apply keeps_ite
    | split

theorem execGetSec_keeps (s : State) {s' : State} (h : execGetSec s = .next s') :
    Keeps s s' := by
  unfold execGetSec at h
  cases h
  repeat' first
    | with_reducible assumption
    | with_reducible exact keeps_refl _
    | (rintro x y (hx : Keeps s y))
    | (rintro x y z w (hx : Keeps s w))
    | (rintro x y z (hx : Keeps s z))
    | (rintro y (hx : Keeps s y))
    | (rintro x y (hx : Keeps s y.1))
    | (rintro x y (hx : Keeps s y.2))
    | with_reducible first | apply respond_keeps | apply inSession_keeps

theorem execScrubComplete_keeps (ok : Bool) (us : Nat) (s : State) {s' : State} (h : execScrubComplete ok us s = .next s') :
    Keeps s s' := by
  unfold execScrubComplete at h
  cases h
  repeat' first
    | with_reducible assumption
    | with_reducible exact keeps_refl _
    | (rintro x y (hx : Keeps s y))
    | (rintro x y z w (hx : Keeps s w))
    | (rintro x y z (hx : Keeps s z))
    | (rintro y (hx : Keeps s y))
    | (rintro x y (hx : Keeps s y.1))
    | (rintro x y (hx : Keeps s y.2))
    | with_reducible first | apply scrubComplete_keeps

theorem execIdeLost_keeps (s : State) {s' : State} (h : execIdeLost s = .next s') :
    Keeps s s' := by
  unfold execIdeLost at h
  cases h
  repeat' first
    | with_reducible assumption
    | with_reducible exact keeps_refl _
    | (rintro x y (hx : Keeps s y))
    | (rintro x y z w (hx : Keeps s w))
    | (rintro x y z (hx : Keeps s z))
    | (rintro y (hx : Keeps s y))
    | (rintro x y (hx : Keeps s y.1))
    | (rintro x y (hx : Keeps s y.2))
    | lift_lets
    | (intro x; refine keeps_cut (x := x) (a := s) ?_ ?_; subst x; rotate_left; clear_value x; intro hx)
    | (intro x; subst x)
    | simp -zeta only [keeps_upd]
    | with_reducible first | apply setErr_keeps
    | with_reducible apply keeps_ite
    | split

theorem execIdeKm_keeps (k : IdeKind) (s : State) {s' : State} (h : execIdeKm k s = .next s') :
    Keeps s s' := by
  unfold execIdeKm at h
  cases h
  repeat' first
    | with_reducible assumption
    | with_reducible exact keeps_refl _
    | (rintro x y (hx : Keeps s y))
    | (rintro x y z w (hx : Keeps s w))
    | (rintro x y z (hx : Keeps s z))
    | (rintro y (hx : Keeps s y))
    | (rintro x y (hx : Keeps s y.1))
    | (rintro x y (hx : Keeps s y.2))
    | lift_lets
    | (intro x; refine keeps_cut (x := x) (a := s) ?_ ?_; subst x; rotate_left; clear_value x; intro hx)
    | (intro x; subst x)
    | simp -zeta only [keeps_upd]
    | with_reducible first | apply respond_keeps | apply spdmError_keeps | apply inSession_keeps
    | with_reducible apply keeps_ite
    | split

theorem execDbgLevelWrite_keeps (rq : Req) (v : W32) (s : State) {s' : State} (h : execDbgLevelWrite rq v s = .next s') :
    Keeps s s' := by
  unfold execDbgLevelWrite at h
  cases h
  repeat' first
    | with_reducible assumption
    | with_reducible exact keeps_refl _
    | (rintro x y (hx : Keeps s y))
    | (rintro x y z w (hx : Keeps s w))
    | (rintro x y z (hx : Keeps s z))
    | (rintro y (hx : Keeps s y))
    | (rintro x y (hx : Keeps s y.1))
    | (rintro x y (hx : Keeps s y.2))
    | with_reducible first | apply barWrite_keeps | apply levelWrite_keeps

theorem execTick1_keeps (rq : Req) (s : State) {s' : State} (h : execTick1 rq s = .next s') :
    Keeps s s' := by
  unfold execTick1 at h
  cases h
  repeat' first
    | with_reducible assumption
    | with_reducible exact keeps_refl _
    | (rintro x y (hx : Keeps s y))
    | (rintro x y z w (hx : Keeps s w))
    | (rintro x y z (hx : Keeps s z))
    | (rintro y (hx : Keeps s y))
    | (rintro x y (hx : Keeps s y.1))
    | (rintro x y (hx : Keeps s y.2))
    | with_reducible first | apply barWrite_keeps | apply tick1_keeps

theorem execPrtHop_keeps (w1 : Req) (v : W32) (s : State) {s' : State} (h : execPrtHop w1 v s = .next s') :
    Keeps s s' := by
  unfold execPrtHop at h
  cases h
  repeat' first
    | with_reducible assumption
    | with_reducible exact keeps_refl _
    | (rintro x y (hx : Keeps s y))
    | (rintro x y z w (hx : Keeps s w))
    | (rintro x y z (hx : Keeps s z))
    | (rintro y (hx : Keeps s y))
    | (rintro x y (hx : Keeps s y.1))
    | (rintro x y (hx : Keeps s y.2))
    | with_reducible first | apply prtWrite_keeps | apply prtBus_keeps

theorem execPrtLink_keeps (w1 : Req) (v : W32) (s : State) {s' : State} (h : execPrtLink w1 v s = .next s') :
    Keeps s s' := by
  unfold execPrtLink at h
  cases h
  repeat' first
    | with_reducible assumption
    | with_reducible exact keeps_refl _
    | (rintro x y (hx : Keeps s y))
    | (rintro x y z w (hx : Keeps s w))
    | (rintro x y z (hx : Keeps s z))
    | (rintro y (hx : Keeps s y))
    | (rintro x y (hx : Keeps s y.1))
    | (rintro x y (hx : Keeps s y.2))
    | with_reducible first | apply prtWrite_keeps | apply prtBus_keeps

theorem execPrtTok_keeps (w1 : Req) (v : W32) (s : State) {s' : State} (h : execPrtTok w1 v s = .next s') :
    Keeps s s' := by
  unfold execPrtTok at h
  cases h
  repeat' first
    | with_reducible assumption
    | with_reducible exact keeps_refl _
    | (rintro x y (hx : Keeps s y))
    | (rintro x y z w (hx : Keeps s w))
    | (rintro x y z (hx : Keeps s z))
    | (rintro y (hx : Keeps s y))
    | (rintro x y (hx : Keeps s y.1))
    | (rintro x y (hx : Keeps s y.2))
    | with_reducible first | apply prtWrite_keeps | apply prtBus_keeps

theorem execPrtWake_keeps (w1 : Req) (v : W32) (s : State) {s' : State} (h : execPrtWake w1 v s = .next s') :
    Keeps s s' := by
  unfold execPrtWake at h
  cases h
  repeat' first
    | with_reducible assumption
    | with_reducible exact keeps_refl _
    | (rintro x y (hx : Keeps s y))
    | (rintro x y z w (hx : Keeps s w))
    | (rintro x y z (hx : Keeps s z))
    | (rintro y (hx : Keeps s y))
    | (rintro x y (hx : Keeps s y.1))
    | (rintro x y (hx : Keeps s y.2))
    | with_reducible first | apply prtWrite_keeps | apply prtBus_keeps

theorem execPrtOwl_keeps (w1 : Req) (v : W32) (s : State) {s' : State} (h : execPrtOwl w1 v s = .next s') :
    Keeps s s' := by
  unfold execPrtOwl at h
  cases h
  repeat' first
    | with_reducible assumption
    | with_reducible exact keeps_refl _
    | (rintro x y (hx : Keeps s y))
    | (rintro x y z w (hx : Keeps s w))
    | (rintro x y z (hx : Keeps s z))
    | (rintro y (hx : Keeps s y))
    | (rintro x y (hx : Keeps s y.1))
    | (rintro x y (hx : Keeps s y.2))
    | with_reducible first | apply prtWrite_keeps | apply prtBus_keeps

theorem execPrtSat_keeps (w1 : Req) (v : W32) (s : State) {s' : State} (h : execPrtSat w1 v s = .next s') :
    Keeps s s' := by
  unfold execPrtSat at h
  cases h
  repeat' first
    | with_reducible assumption
    | with_reducible exact keeps_refl _
    | (rintro x y (hx : Keeps s y))
    | (rintro x y z w (hx : Keeps s w))
    | (rintro x y z (hx : Keeps s z))
    | (rintro y (hx : Keeps s y))
    | (rintro x y (hx : Keeps s y.1))
    | (rintro x y (hx : Keeps s y.2))
    | with_reducible first | apply prtWrite_keeps | apply prtBus_keeps

theorem execPrtRes_keeps (w1 : Req) (v : W32) (s : State) {s' : State} (h : execPrtRes w1 v s = .next s') :
    Keeps s s' := by
  unfold execPrtRes at h
  cases h
  repeat' first
    | with_reducible assumption
    | with_reducible exact keeps_refl _
    | (rintro x y (hx : Keeps s y))
    | (rintro x y z w (hx : Keeps s w))
    | (rintro x y z (hx : Keeps s z))
    | (rintro y (hx : Keeps s y))
    | (rintro x y (hx : Keeps s y.1))
    | (rintro x y (hx : Keeps s y.2))
    | with_reducible first | apply prtWrite_keeps | apply prtBus_keeps

theorem execPrtLate_keeps (w1 : Req) (v : W32) (s : State) {s' : State} (h : execPrtLate w1 v s = .next s') :
    Keeps s s' := by
  unfold execPrtLate at h
  cases h
  repeat' first
    | with_reducible assumption
    | with_reducible exact keeps_refl _
    | (rintro x y (hx : Keeps s y))
    | (rintro x y z w (hx : Keeps s w))
    | (rintro x y z (hx : Keeps s z))
    | (rintro y (hx : Keeps s y))
    | (rintro x y (hx : Keeps s y.1))
    | (rintro x y (hx : Keeps s y.2))
    | with_reducible first | apply prtWrite_keeps | apply prtBus_keeps

theorem execErrInjWrite_keeps (rq : Req) (pg : Page) (v : W32) (s : State) {s' : State} (h : execErrInjWrite rq pg v s = .next s') :
    Keeps s s' := by
  unfold execErrInjWrite at h
  cases h
  repeat' first
    | with_reducible assumption
    | with_reducible exact keeps_refl _
    | (rintro x y (hx : Keeps s y))
    | (rintro x y z w (hx : Keeps s w))
    | (rintro x y z (hx : Keeps s z))
    | (rintro y (hx : Keeps s y))
    | (rintro x y (hx : Keeps s y.1))
    | (rintro x y (hx : Keeps s y.2))
    | with_reducible first | apply barWrite_keeps | apply errInj_keeps

theorem execTrstN_keeps (level : Bool) (s : State) {s' : State} (h : execTrstN level s = .next s') :
    Keeps s s' := by
  unfold execTrstN at h
  cases h
  repeat' first
    | with_reducible assumption
    | with_reducible exact keeps_refl _
    | (rintro x y (hx : Keeps s y))
    | (rintro x y z w (hx : Keeps s w))
    | (rintro x y z (hx : Keeps s z))
    | (rintro y (hx : Keeps s y))
    | (rintro x y (hx : Keeps s y.1))
    | (rintro x y (hx : Keeps s y.2))
    | lift_lets
    | (intro x; refine keeps_cut (x := x) (a := s) ?_ ?_; subst x; rotate_left; clear_value x; intro hx)
    | (intro x; subst x)
    | simp -zeta only [keeps_upd]
    | with_reducible apply keeps_ite
    | split

theorem execExtest_keeps (s : State) {s' : State} (h : execExtest s = .next s') :
    Keeps s s' := by
  unfold execExtest at h
  cases h
  repeat' first
    | with_reducible assumption
    | with_reducible exact keeps_refl _
    | (rintro x y (hx : Keeps s y))
    | (rintro x y z w (hx : Keeps s w))
    | (rintro x y z (hx : Keeps s z))
    | (rintro y (hx : Keeps s y))
    | (rintro x y (hx : Keeps s y.1))
    | (rintro x y (hx : Keeps s y.2))
    | with_reducible first | apply selectIr_keeps
    | with_reducible apply keeps_ite
    | split

theorem execIdcode_keeps (s : State) {s' : State} (h : execIdcode s = .next s') :
    Keeps s s' := by
  unfold execIdcode at h
  cases h
  repeat' first
    | with_reducible assumption
    | with_reducible exact keeps_refl _
    | (rintro x y (hx : Keeps s y))
    | (rintro x y z w (hx : Keeps s w))
    | (rintro x y z (hx : Keeps s z))
    | (rintro y (hx : Keeps s y))
    | (rintro x y (hx : Keeps s y.1))
    | (rintro x y (hx : Keeps s y.2))
    | with_reducible first | apply selectIr_keeps

theorem execBypass_keeps (s : State) {s' : State} (h : execBypass s = .next s') :
    Keeps s s' := by
  unfold execBypass at h
  cases h
  repeat' first
    | with_reducible assumption
    | with_reducible exact keeps_refl _
    | (rintro x y (hx : Keeps s y))
    | (rintro x y z w (hx : Keeps s w))
    | (rintro x y z (hx : Keeps s z))
    | (rintro y (hx : Keeps s y))
    | (rintro x y (hx : Keeps s y.1))
    | (rintro x y (hx : Keeps s y.2))
    | with_reducible first | apply selectIr_keeps

theorem execSamplePreload_keeps (tdi : List Bool) (s : State) {s' : State} (h : execSamplePreload tdi s = .next s') :
    Keeps s s' := by
  unfold execSamplePreload at h
  cases h
  repeat' first
    | with_reducible assumption
    | with_reducible exact keeps_refl _
    | (rintro x y (hx : Keeps s y))
    | (rintro x y z w (hx : Keeps s w))
    | (rintro x y z (hx : Keeps s z))
    | (rintro y (hx : Keeps s y))
    | (rintro x y (hx : Keeps s y.1))
    | (rintro x y (hx : Keeps s y.2))
    | lift_lets
    | (intro x; refine keeps_cut (x := x) (a := s) ?_ ?_; subst x; rotate_left; clear_value x; intro hx)
    | (intro x; subst x)
    | simp -zeta only [keeps_upd]
    | with_reducible first | apply freshFree_keeps | apply selectIr_keeps
    | with_reducible apply keeps_ite
    | split

theorem execDbgacc_keeps (dr : W64) (s : State) {s' : State} (h : execDbgacc dr s = .next s') :
    Keeps s s' := by
  unfold execDbgacc at h
  cases h
  repeat' first
    | with_reducible assumption
    | with_reducible exact keeps_refl _
    | (rintro x y (hx : Keeps s y))
    | (rintro x y z w (hx : Keeps s w))
    | (rintro x y z (hx : Keeps s z))
    | (rintro y (hx : Keeps s y))
    | (rintro x y (hx : Keeps s y.1))
    | (rintro x y (hx : Keeps s y.2))
    | lift_lets
    | (intro x; refine keeps_cut (x := x) (a := s) ?_ ?_; subst x; rotate_left; clear_value x; intro hx)
    | (intro x; subst x)
    | simp -zeta only [keeps_upd]
    | with_reducible first | apply emit_keeps
    | with_reducible apply keeps_ite
    | split

theorem execPlcXlIn_keeps (rq : Req) (v : W32) (s : State) {s' : State} (h : execPlcXlIn rq v s = .next s') :
    Keeps s s' := by
  unfold execPlcXlIn at h
  cases h
  repeat' first
    | with_reducible assumption
    | with_reducible exact keeps_refl _
    | (rintro x y (hx : Keeps s y))
    | (rintro x y z w (hx : Keeps s w))
    | (rintro x y z (hx : Keeps s z))
    | (rintro y (hx : Keeps s y))
    | (rintro x y (hx : Keeps s y.1))
    | (rintro x y (hx : Keeps s y.2))
    | with_reducible first | apply barWrite_keeps | apply xlWrite_keeps

theorem execPeerSelWrite_keeps (rq : Req) (v : W32) (s : State) {s' : State} (h : execPeerSelWrite rq v s = .next s') :
    Keeps s s' := by
  unfold execPeerSelWrite at h
  cases h
  repeat' first
    | with_reducible assumption
    | with_reducible exact keeps_refl _
    | (rintro x y (hx : Keeps s y))
    | (rintro x y z w (hx : Keeps s w))
    | (rintro x y z (hx : Keeps s z))
    | (rintro y (hx : Keeps s y))
    | (rintro x y (hx : Keeps s y.1))
    | (rintro x y (hx : Keeps s y.2))
    | with_reducible first | apply plainWrite_keeps | apply barWrite_keeps

theorem execTmrCmpWrite_keeps (rq : Req) (n : Fin 4) (hi : W32) (s : State) {s' : State} (h : execTmrCmpWrite rq n hi s = .next s') :
    Keeps s s' := by
  unfold execTmrCmpWrite at h
  cases h
  repeat' first
    | with_reducible assumption
    | with_reducible exact keeps_refl _
    | (rintro x y (hx : Keeps s y))
    | (rintro x y z w (hx : Keeps s w))
    | (rintro x y z (hx : Keeps s z))
    | (rintro y (hx : Keeps s y))
    | (rintro x y (hx : Keeps s y.1))
    | (rintro x y (hx : Keeps s y.2))
    | with_reducible first | apply barWrite_keeps | apply tmrCmpWrite_keeps

theorem execTimerFire_keeps (n : Fin 4) (s : State) {s' : State} (h : execTimerFire n s = .next s') :
    Keeps s s' := by
  unfold execTimerFire at h
  cases h
  repeat' first
    | with_reducible assumption
    | with_reducible exact keeps_refl _
    | (rintro x y (hx : Keeps s y))
    | (rintro x y z w (hx : Keeps s w))
    | (rintro x y z (hx : Keeps s z))
    | (rintro y (hx : Keeps s y))
    | (rintro x y (hx : Keeps s y.1))
    | (rintro x y (hx : Keeps s y.2))
    | with_reducible first | apply timerFire_keeps

theorem execPendSetWrite_keeps (rq : Req) (w : Fin 32) (v : W32) (s : State) {s' : State} (h : execPendSetWrite rq w v s = .next s') :
    Keeps s s' := by
  unfold execPendSetWrite at h
  cases h
  repeat' first
    | with_reducible assumption
    | with_reducible exact keeps_refl _
    | (rintro x y (hx : Keeps s y))
    | (rintro x y z w (hx : Keeps s w))
    | (rintro x y z (hx : Keeps s z))
    | (rintro y (hx : Keeps s y))
    | (rintro x y (hx : Keeps s y.1))
    | (rintro x y (hx : Keeps s y.2))
    | with_reducible first | apply barWrite_keeps | apply pendSet_keeps

theorem execPendClear_keeps (rq : Req) (w : Fin 32) (v fired : W32) (s : State) {s' : State} (h : execPendClear rq w v fired s = .next s') :
    Keeps s s' := by
  unfold execPendClear at h
  cases h
  repeat' first
    | with_reducible assumption
    | with_reducible exact keeps_refl _
    | (rintro x y (hx : Keeps s y))
    | (rintro x y z w (hx : Keeps s w))
    | (rintro x y z (hx : Keeps s z))
    | (rintro y (hx : Keeps s y))
    | (rintro x y (hx : Keeps s y.1))
    | (rintro x y (hx : Keeps s y.2))
    | with_reducible first | apply barWrite_keeps | apply pendClear_keeps

theorem execVectorTimeExpiry_keeps (n : Fin 32) (s : State) {s' : State} (h : execVectorTimeExpiry n s = .next s') :
    Keeps s s' := by
  unfold execVectorTimeExpiry at h
  cases h
  repeat' first
    | with_reducible assumption
    | with_reducible exact keeps_refl _
    | (rintro x y (hx : Keeps s y))
    | (rintro x y z w (hx : Keeps s w))
    | (rintro x y z (hx : Keeps s z))
    | (rintro y (hx : Keeps s y))
    | (rintro x y (hx : Keeps s y.1))
    | (rintro x y (hx : Keeps s y.2))
    | with_reducible first | apply vectorTime_keeps

theorem execSetEndpointId_keeps (eid : Nat) (s : State) {s' : State} (h : execSetEndpointId eid s = .next s') :
    Keeps s s' := by
  unfold execSetEndpointId at h
  cases h
  repeat' first
    | with_reducible assumption
    | with_reducible exact keeps_refl _
    | (rintro x y (hx : Keeps s y))
    | (rintro x y z w (hx : Keeps s w))
    | (rintro x y z (hx : Keeps s z))
    | (rintro y (hx : Keeps s y))
    | (rintro x y (hx : Keeps s y.1))
    | (rintro x y (hx : Keeps s y.2))
    | lift_lets
    | (intro x; refine keeps_cut (x := x) (a := s) ?_ ?_; subst x; rotate_left; clear_value x; intro hx)
    | (intro x; subst x)
    | simp -zeta only [keeps_upd]
    | with_reducible first | apply emit_keeps | apply mctpReq_keeps

theorem execGetEndpointId_keeps (s : State) {s' : State} (h : execGetEndpointId s = .next s') :
    Keeps s s' := by
  unfold execGetEndpointId at h
  cases h
  repeat' first
    | with_reducible assumption
    | with_reducible exact keeps_refl _
    | (rintro x y (hx : Keeps s y))
    | (rintro x y z w (hx : Keeps s w))
    | (rintro x y z (hx : Keeps s z))
    | (rintro y (hx : Keeps s y))
    | (rintro x y (hx : Keeps s y.1))
    | (rintro x y (hx : Keeps s y.2))
    | with_reducible first | apply emit_keeps | apply mctpReq_keeps

theorem execGetMctpVersionSupport_keeps (typ : Nat) (s : State) {s' : State} (h : execGetMctpVersionSupport typ s = .next s') :
    Keeps s s' := by
  unfold execGetMctpVersionSupport at h
  cases h
  repeat' first
    | with_reducible assumption
    | with_reducible exact keeps_refl _
    | (rintro x y (hx : Keeps s y))
    | (rintro x y z w (hx : Keeps s w))
    | (rintro x y z (hx : Keeps s z))
    | (rintro y (hx : Keeps s y))
    | (rintro x y (hx : Keeps s y.1))
    | (rintro x y (hx : Keeps s y.2))
    | with_reducible first | apply emit_keeps | apply freshFree_keeps | apply mctpReq_keeps
    | with_reducible apply keeps_ite
    | split

theorem execGetMessageTypeSupport_keeps (s : State) {s' : State} (h : execGetMessageTypeSupport s = .next s') :
    Keeps s s' := by
  unfold execGetMessageTypeSupport at h
  cases h
  repeat' first
    | with_reducible assumption
    | with_reducible exact keeps_refl _
    | (rintro x y (hx : Keeps s y))
    | (rintro x y z w (hx : Keeps s w))
    | (rintro x y z (hx : Keeps s z))
    | (rintro y (hx : Keeps s y))
    | (rintro x y (hx : Keeps s y.1))
    | (rintro x y (hx : Keeps s y.2))
    | with_reducible first | apply emit_keeps | apply mctpReq_keeps

theorem execGetVendorDefinedMessageSupport_keeps (sel : Nat) (s : State) {s' : State} (h : execGetVendorDefinedMessageSupport sel s = .next s') :
    Keeps s s' := by
  unfold execGetVendorDefinedMessageSupport at h
  cases h
  repeat' first
    | with_reducible assumption
    | with_reducible exact keeps_refl _
    | (rintro x y (hx : Keeps s y))
    | (rintro x y z w (hx : Keeps s w))
    | (rintro x y z (hx : Keeps s z))
    | (rintro y (hx : Keeps s y))
    | (rintro x y (hx : Keeps s y.1))
    | (rintro x y (hx : Keeps s y.2))
    | with_reducible first | apply emit_keeps | apply mctpReq_keeps
    | with_reducible apply keeps_ite
    | split

theorem execBulkUnicastFlit_keeps (u v : Nat) (p : Port) (f : Flit) (s : State) {s' : State} (h : execBulkUnicastFlit u v p f s = .next s') :
    Keeps s s' := by
  unfold execBulkUnicastFlit at h
  cases h
  repeat' first
    | with_reducible assumption
    | with_reducible exact keeps_refl _
    | (rintro x y (hx : Keeps s y))
    | (rintro x y z w (hx : Keeps s w))
    | (rintro x y z (hx : Keeps s z))
    | (rintro y (hx : Keeps s y))
    | (rintro x y (hx : Keeps s y.1))
    | (rintro x y (hx : Keeps s y.2))
    | with_reducible first | apply bulkAt_keeps | apply flitIn_keeps

theorem execBulkMulticastFlit_keeps (u v : Nat) (p : Port) (f : Flit) (s : State) {s' : State} (h : execBulkMulticastFlit u v p f s = .next s') :
    Keeps s s' := by
  unfold execBulkMulticastFlit at h
  cases h
  repeat' first
    | with_reducible assumption
    | with_reducible exact keeps_refl _
    | (rintro x y (hx : Keeps s y))
    | (rintro x y z w (hx : Keeps s w))
    | (rintro x y z (hx : Keeps s z))
    | (rintro y (hx : Keeps s y))
    | (rintro x y (hx : Keeps s y.1))
    | (rintro x y (hx : Keeps s y.2))
    | with_reducible first | apply bulkAt_keeps | apply flitIn_keeps

theorem execCombineUp_keeps (u v : Nat) (p : Port) (f : Flit) (s : State) {s' : State} (h : execCombineUp u v p f s = .next s') :
    Keeps s s' := by
  unfold execCombineUp at h
  cases h
  repeat' first
    | with_reducible assumption
    | with_reducible exact keeps_refl _
    | (rintro x y (hx : Keeps s y))
    | (rintro x y z w (hx : Keeps s w))
    | (rintro x y z (hx : Keeps s z))
    | (rintro y (hx : Keeps s y))
    | (rintro x y (hx : Keeps s y.1))
    | (rintro x y (hx : Keeps s y.2))
    | lift_lets
    | (intro x; refine keeps_cut (x := x) (a := s) ?_ ?_; subst x; rotate_left; clear_value x; intro hx)
    | (intro x; subst x)
    | simp -zeta only [keeps_upd]
    | with_reducible first | apply tileNetErr_keeps | apply flitIn_keeps | apply combineAt_keeps
    | with_reducible apply keeps_ite
    | split

theorem execCombineDown_keeps (u v : Nat) (p : Port) (f : Flit) (s : State) {s' : State} (h : execCombineDown u v p f s = .next s') :
    Keeps s s' := by
  unfold execCombineDown at h
  cases h
  repeat' first
    | with_reducible assumption
    | with_reducible exact keeps_refl _
    | (rintro x y (hx : Keeps s y))
    | (rintro x y z w (hx : Keeps s w))
    | (rintro x y z (hx : Keeps s z))
    | (rintro y (hx : Keeps s y))
    | (rintro x y (hx : Keeps s y.1))
    | (rintro x y (hx : Keeps s y.2))
    | lift_lets
    | (intro x; refine keeps_cut (x := x) (a := s) ?_ ?_; subst x; rotate_left; clear_value x; intro hx)
    | (intro x; subst x)
    | simp -zeta only [keeps_upd]
    | with_reducible first | apply tileNetErr_keeps | apply flitIn_keeps | apply combineDown_keeps
    | with_reducible apply keeps_ite
    | split

theorem execHaltFlit_keeps (u v : Nat) (p : Port) (f : Flit) (s : State) {s' : State} (h : execHaltFlit u v p f s = .next s') :
    Keeps s s' := by
  unfold execHaltFlit at h
  cases h
  repeat' first
    | with_reducible assumption
    | with_reducible exact keeps_refl _
    | (rintro x y (hx : Keeps s y))
    | (rintro x y z w (hx : Keeps s w))
    | (rintro x y z (hx : Keeps s z))
    | (rintro y (hx : Keeps s y))
    | (rintro x y (hx : Keeps s y.1))
    | (rintro x y (hx : Keeps s y.2))
    | lift_lets
    | (intro x; refine keeps_cut (x := x) (a := s) ?_ ?_; subst x; rotate_left; clear_value x; intro hx)
    | (intro x; subst x)
    | simp -zeta only [keeps_upd]
    | with_reducible first | apply forAll_keeps | apply setTile_keeps | apply tileNetErr_keeps | apply flitIn_keeps | apply learnHalt_keeps
    | with_reducible apply keeps_ite
    | split

theorem execSlotWaitExpiry_keeps (u v : Nat) (p : Port) (s : State) {s' : State} (h : execSlotWaitExpiry u v p s = .next s') :
    Keeps s s' := by
  unfold execSlotWaitExpiry at h
  cases h
  repeat' first
    | with_reducible assumption
    | with_reducible exact keeps_refl _
    | (rintro x y (hx : Keeps s y))
    | (rintro x y z w (hx : Keeps s w))
    | (rintro x y z (hx : Keeps s z))
    | (rintro y (hx : Keeps s y))
    | (rintro x y (hx : Keeps s y.1))
    | (rintro x y (hx : Keeps s y.2))
    | with_reducible first | apply slotWaitExpiry_keeps

theorem execCreditReturn_keeps (u v : Nat) (p : Port) (s : State) {s' : State} (h : execCreditReturn u v p s = .next s') :
    Keeps s s' := by
  unfold execCreditReturn at h
  cases h
  repeat' first
    | with_reducible assumption
    | with_reducible exact keeps_refl _
    | (rintro x y (hx : Keeps s y))
    | (rintro x y z w (hx : Keeps s w))
    | (rintro x y z (hx : Keeps s z))
    | (rintro y (hx : Keeps s y))
    | (rintro x y (hx : Keeps s y.1))
    | (rintro x y (hx : Keeps s y.2))
    | with_reducible first | apply creditReturn_keeps

theorem execDeadlock_keeps (u v : Nat) (s : State) {s' : State} (h : execDeadlock u v s = .next s') :
    Keeps s s' := by
  unfold execDeadlock at h
  cases h
  repeat' first
    | with_reducible assumption
    | with_reducible exact keeps_refl _
    | (rintro x y (hx : Keeps s y))
    | (rintro x y z w (hx : Keeps s w))
    | (rintro x y z (hx : Keeps s z))
    | (rintro y (hx : Keeps s y))
    | (rintro x y (hx : Keeps s y.1))
    | (rintro x y (hx : Keeps s y.2))
    | lift_lets
    | (intro x; refine keeps_cut (x := x) (a := s) ?_ ?_; subst x; rotate_left; clear_value x; intro hx)
    | (intro x; subst x)
    | simp -zeta only [keeps_upd]
    | with_reducible first | apply contractFault_keeps
    | with_reducible apply keeps_ite
    | split

theorem execAliveWireLow_keeps (u v : Nat) (p : Port) (s : State) {s' : State} (h : execAliveWireLow u v p s = .next s') :
    Keeps s s' := by
  unfold execAliveWireLow at h
  cases h
  repeat' first
    | with_reducible assumption
    | with_reducible exact keeps_refl _
    | (rintro x y (hx : Keeps s y))
    | (rintro x y z w (hx : Keeps s w))
    | (rintro x y z (hx : Keeps s z))
    | (rintro y (hx : Keeps s y))
    | (rintro x y (hx : Keeps s y.1))
    | (rintro x y (hx : Keeps s y.2))
    | lift_lets
    | (intro x; refine keeps_cut (x := x) (a := s) ?_ ?_; subst x; rotate_left; clear_value x; intro hx)
    | (intro x; subst x)
    | simp -zeta only [keeps_upd]
    | with_reducible first | apply haltAt_keeps | apply tileFault_keeps
    | with_reducible apply keeps_ite
    | split

theorem execNop_keeps (u v : Nat) (st : Strm) (s : State) {s' : State} (h : execNop u v st s = .next s') :
    Keeps s s' := by
  unfold execNop at h
  cases h
  repeat' first
    | with_reducible assumption
    | with_reducible exact keeps_refl _
    | (rintro x y (hx : Keeps s y))
    | (rintro x y z w (hx : Keeps s w))
    | (rintro x y z (hx : Keeps s z))
    | (rintro y (hx : Keeps s y))
    | (rintro x y (hx : Keeps s y.1))
    | (rintro x y (hx : Keeps s y.2))
    | with_reducible first | apply issue_keeps

theorem execFence_keeps (u v : Nat) (st : Strm) (s : State) {s' : State} (h : execFence u v st s = .next s') :
    Keeps s s' := by
  unfold execFence at h
  cases h
  repeat' first
    | with_reducible assumption
    | with_reducible exact keeps_refl _
    | (rintro x y (hx : Keeps s y))
    | (rintro x y z w (hx : Keeps s w))
    | (rintro x y z (hx : Keeps s z))
    | (rintro y (hx : Keeps s y))
    | (rintro x y (hx : Keeps s y.1))
    | (rintro x y (hx : Keeps s y.2))
    | with_reducible first | apply issue_keeps

theorem execFenceRelease_keeps (u v : Nat) (st : Strm) (s : State) {s' : State} (h : execFenceRelease u v st s = .next s') :
    Keeps s s' := by
  unfold execFenceRelease at h
  cases h
  repeat' first
    | with_reducible assumption
    | with_reducible exact keeps_refl _
    | (rintro x y (hx : Keeps s y))
    | (rintro x y z w (hx : Keeps s w))
    | (rintro x y z (hx : Keeps s z))
    | (rintro y (hx : Keeps s y))
    | (rintro x y (hx : Keeps s y.1))
    | (rintro x y (hx : Keeps s y.2))
    | with_reducible first | apply fenceRelease_keeps

theorem execSignal_keeps (u v : Nat) (st : Strm) (s : State) {s' : State} (h : execSignal u v st s = .next s') :
    Keeps s s' := by
  unfold execSignal at h
  cases h
  repeat' first
    | with_reducible assumption
    | with_reducible exact keeps_refl _
    | (rintro x y (hx : Keeps s y))
    | (rintro x y z w (hx : Keeps s w))
    | (rintro x y z (hx : Keeps s z))
    | (rintro y (hx : Keeps s y))
    | (rintro x y (hx : Keeps s y.1))
    | (rintro x y (hx : Keeps s y.2))
    | with_reducible first | apply issue_keeps | apply signalRec_keeps

theorem execWait_keeps (u v : Nat) (st : Strm) (s : State) {s' : State} (h : execWait u v st s = .next s') :
    Keeps s s' := by
  unfold execWait at h
  cases h
  repeat' first
    | with_reducible assumption
    | with_reducible exact keeps_refl _
    | (rintro x y (hx : Keeps s y))
    | (rintro x y z w (hx : Keeps s w))
    | (rintro x y z (hx : Keeps s z))
    | (rintro y (hx : Keeps s y))
    | (rintro x y (hx : Keeps s y.1))
    | (rintro x y (hx : Keeps s y.2))
    | with_reducible first | apply issue_keeps | apply waitRec_keeps

theorem execSettTimeout_keeps (u v : Nat) (st : Strm) (s : State) {s' : State} (h : execSettTimeout u v st s = .next s') :
    Keeps s s' := by
  unfold execSettTimeout at h
  cases h
  repeat' first
    | with_reducible assumption
    | with_reducible exact keeps_refl _
    | (rintro x y (hx : Keeps s y))
    | (rintro x y z w (hx : Keeps s w))
    | (rintro x y z (hx : Keeps s z))
    | (rintro y (hx : Keeps s y))
    | (rintro x y (hx : Keeps s y.1))
    | (rintro x y (hx : Keeps s y.2))
    | with_reducible first | apply settTimeout_keeps

theorem execLadderEnd_keeps (u v : Nat) (st : Strm) (s : State) {s' : State} (h : execLadderEnd u v st s = .next s') :
    Keeps s s' := by
  unfold execLadderEnd at h
  cases h
  repeat' first
    | with_reducible assumption
    | with_reducible exact keeps_refl _
    | (rintro x y (hx : Keeps s y))
    | (rintro x y z w (hx : Keeps s w))
    | (rintro x y z (hx : Keeps s z))
    | (rintro y (hx : Keeps s y))
    | (rintro x y (hx : Keeps s y.1))
    | (rintro x y (hx : Keeps s y.2))
    | with_reducible first | apply issue_keeps | apply ladderRec_keeps

theorem execBarrier_keeps (u v : Nat) (st : Strm) (s : State) {s' : State} (h : execBarrier u v st s = .next s') :
    Keeps s s' := by
  unfold execBarrier at h
  cases h
  repeat' first
    | with_reducible assumption
    | with_reducible exact keeps_refl _
    | (rintro x y (hx : Keeps s y))
    | (rintro x y z w (hx : Keeps s w))
    | (rintro x y z (hx : Keeps s z))
    | (rintro y (hx : Keeps s y))
    | (rintro x y (hx : Keeps s y.1))
    | (rintro x y (hx : Keeps s y.2))
    | with_reducible first | apply issue_keeps | apply barrierRec_keeps

theorem execMatmul_keeps (u v : Nat) (st : Strm) (s : State) {s' : State} (h : execMatmul u v st s = .next s') :
    Keeps s s' := by
  unfold execMatmul at h
  cases h
  repeat' first
    | with_reducible assumption
    | with_reducible exact keeps_refl _
    | (rintro x y (hx : Keeps s y))
    | (rintro x y z w (hx : Keeps s w))
    | (rintro x y z (hx : Keeps s z))
    | (rintro y (hx : Keeps s y))
    | (rintro x y (hx : Keeps s y.1))
    | (rintro x y (hx : Keeps s y.2))
    | with_reducible first | apply issue_keeps | apply matmulRec_keeps

theorem execMatvec_keeps (u v : Nat) (st : Strm) (s : State) {s' : State} (h : execMatvec u v st s = .next s') :
    Keeps s s' := by
  unfold execMatvec at h
  cases h
  repeat' first
    | with_reducible assumption
    | with_reducible exact keeps_refl _
    | (rintro x y (hx : Keeps s y))
    | (rintro x y z w (hx : Keeps s w))
    | (rintro x y z (hx : Keeps s z))
    | (rintro y (hx : Keeps s y))
    | (rintro x y (hx : Keeps s y.1))
    | (rintro x y (hx : Keeps s y.2))
    | with_reducible first | apply issue_keeps | apply matvecRec_keeps

theorem execVload_keeps (u v : Nat) (st : Strm) (s : State) {s' : State} (h : execVload u v st s = .next s') :
    Keeps s s' := by
  unfold execVload at h
  cases h
  repeat' first
    | with_reducible assumption
    | with_reducible exact keeps_refl _
    | (rintro x y (hx : Keeps s y))
    | (rintro x y z w (hx : Keeps s w))
    | (rintro x y z (hx : Keeps s z))
    | (rintro y (hx : Keeps s y))
    | (rintro x y (hx : Keeps s y.1))
    | (rintro x y (hx : Keeps s y.2))
    | with_reducible first | apply issue_keeps | apply vloadRec_keeps

theorem execXdot_keeps (u v : Nat) (st : Strm) (s : State) {s' : State} (h : execXdot u v st s = .next s') :
    Keeps s s' := by
  unfold execXdot at h
  cases h
  repeat' first
    | with_reducible assumption
    | with_reducible exact keeps_refl _
    | (rintro x y (hx : Keeps s y))
    | (rintro x y z w (hx : Keeps s w))
    | (rintro x y z (hx : Keeps s z))
    | (rintro y (hx : Keeps s y))
    | (rintro x y (hx : Keeps s y.1))
    | (rintro x y (hx : Keeps s y.2))
    | with_reducible first | apply issue_keeps | apply xdotRec_keeps

theorem execXread_keeps (u v : Nat) (st : Strm) (s : State) {s' : State} (h : execXread u v st s = .next s') :
    Keeps s s' := by
  unfold execXread at h
  cases h
  repeat' first
    | with_reducible assumption
    | with_reducible exact keeps_refl _
    | (rintro x y (hx : Keeps s y))
    | (rintro x y z w (hx : Keeps s w))
    | (rintro x y z (hx : Keeps s z))
    | (rintro y (hx : Keeps s y))
    | (rintro x y (hx : Keeps s y.1))
    | (rintro x y (hx : Keeps s y.2))
    | with_reducible first | apply issue_keeps | apply xreadRec_keeps

theorem execXclr_keeps (u v : Nat) (st : Strm) (s : State) {s' : State} (h : execXclr u v st s = .next s') :
    Keeps s s' := by
  unfold execXclr at h
  cases h
  repeat' first
    | with_reducible assumption
    | with_reducible exact keeps_refl _
    | (rintro x y (hx : Keeps s y))
    | (rintro x y z w (hx : Keeps s w))
    | (rintro x y z (hx : Keeps s z))
    | (rintro y (hx : Keeps s y))
    | (rintro x y (hx : Keeps s y.1))
    | (rintro x y (hx : Keeps s y.2))
    | with_reducible first | apply issue_keeps | apply xclrRec_keeps

theorem execAdd_keeps (e : Eng) (vd va vb : Fin 16) (s : State) {s' : State} (h : execAdd e vd va vb s = .next s') :
    Keeps s s' := by
  unfold execAdd at h
  cases h
  repeat' first
    | with_reducible assumption
    | with_reducible exact keeps_refl _
    | (rintro x y (hx : Keeps s y))
    | (rintro x y z w (hx : Keeps s w))
    | (rintro x y z (hx : Keeps s z))
    | (rintro y (hx : Keeps s y))
    | (rintro x y (hx : Keeps s y.1))
    | (rintro x y (hx : Keeps s y.2))
    | with_reducible first | apply onVu_keeps

theorem execSub_keeps (e : Eng) (vd va vb : Fin 16) (s : State) {s' : State} (h : execSub e vd va vb s = .next s') :
    Keeps s s' := by
  unfold execSub at h
  cases h
  repeat' first
    | with_reducible assumption
    | with_reducible exact keeps_refl _
    | (rintro x y (hx : Keeps s y))
    | (rintro x y z w (hx : Keeps s w))
    | (rintro x y z (hx : Keeps s z))
    | (rintro y (hx : Keeps s y))
    | (rintro x y (hx : Keeps s y.1))
    | (rintro x y (hx : Keeps s y.2))
    | with_reducible first | apply onVu_keeps

theorem execMul_keeps (e : Eng) (vd va vb : Fin 16) (s : State) {s' : State} (h : execMul e vd va vb s = .next s') :
    Keeps s s' := by
  unfold execMul at h
  cases h
  repeat' first
    | with_reducible assumption
    | with_reducible exact keeps_refl _
    | (rintro x y (hx : Keeps s y))
    | (rintro x y z w (hx : Keeps s w))
    | (rintro x y z (hx : Keeps s z))
    | (rintro y (hx : Keeps s y))
    | (rintro x y (hx : Keeps s y.1))
    | (rintro x y (hx : Keeps s y.2))
    | with_reducible first | apply onVu_keeps

theorem execFma_keeps (e : Eng) (vd va vb vc : Fin 16) (s : State) {s' : State} (h : execFma e vd va vb vc s = .next s') :
    Keeps s s' := by
  unfold execFma at h
  cases h
  repeat' first
    | with_reducible assumption
    | with_reducible exact keeps_refl _
    | (rintro x y (hx : Keeps s y))
    | (rintro x y z w (hx : Keeps s w))
    | (rintro x y z (hx : Keeps s z))
    | (rintro y (hx : Keeps s y))
    | (rintro x y (hx : Keeps s y.1))
    | (rintro x y (hx : Keeps s y.2))
    | with_reducible first | apply onVu_keeps

theorem execMin_keeps (e : Eng) (vd va vb : Fin 16) (s : State) {s' : State} (h : execMin e vd va vb s = .next s') :
    Keeps s s' := by
  unfold execMin at h
  cases h
  repeat' first
    | with_reducible assumption
    | with_reducible exact keeps_refl _
    | (rintro x y (hx : Keeps s y))
    | (rintro x y z w (hx : Keeps s w))
    | (rintro x y z (hx : Keeps s z))
    | (rintro y (hx : Keeps s y))
    | (rintro x y (hx : Keeps s y.1))
    | (rintro x y (hx : Keeps s y.2))
    | with_reducible first | apply onVu_keeps

theorem execMax_keeps (e : Eng) (vd va vb : Fin 16) (s : State) {s' : State} (h : execMax e vd va vb s = .next s') :
    Keeps s s' := by
  unfold execMax at h
  cases h
  repeat' first
    | with_reducible assumption
    | with_reducible exact keeps_refl _
    | (rintro x y (hx : Keeps s y))
    | (rintro x y z w (hx : Keeps s w))
    | (rintro x y z (hx : Keeps s z))
    | (rintro y (hx : Keeps s y))
    | (rintro x y (hx : Keeps s y.1))
    | (rintro x y (hx : Keeps s y.2))
    | with_reducible first | apply onVu_keeps

theorem execAbs_keeps (e : Eng) (vd va : Fin 16) (s : State) {s' : State} (h : execAbs e vd va s = .next s') :
    Keeps s s' := by
  unfold execAbs at h
  cases h
  repeat' first
    | with_reducible assumption
    | with_reducible exact keeps_refl _
    | (rintro x y (hx : Keeps s y))
    | (rintro x y z w (hx : Keeps s w))
    | (rintro x y z (hx : Keeps s z))
    | (rintro y (hx : Keeps s y))
    | (rintro x y (hx : Keeps s y.1))
    | (rintro x y (hx : Keeps s y.2))
    | with_reducible first | apply onVu_keeps

theorem execNeg_keeps (e : Eng) (vd va : Fin 16) (s : State) {s' : State} (h : execNeg e vd va s = .next s') :
    Keeps s s' := by
  unfold execNeg at h
  cases h
  repeat' first
    | with_reducible assumption
    | with_reducible exact keeps_refl _
    | (rintro x y (hx : Keeps s y))
    | (rintro x y z w (hx : Keeps s w))
    | (rintro x y z (hx : Keeps s z))
    | (rintro y (hx : Keeps s y))
    | (rintro x y (hx : Keeps s y.1))
    | (rintro x y (hx : Keeps s y.2))
    | with_reducible first | apply onVu_keeps

end Sys2Proof.Machine
end

