-- ==== Sys2Proof/Laws/Keeps8.lean ====
section
/-! SUPPORT. What each command keeps: the fuses, the queue, the canonical form of the store, the rules on the mode
(part 2). -/

namespace Sys2Proof.Machine

theorem execCmp_keeps (e : Eng) (k : Fin 4) (va vb : Fin 16) (s : State) {s' : State} (h : execCmp e k va vb s = .next s') :
    Keeps s s' := by
  unfold execCmp at h
  cases h
  repeat' first
    | with_reducible assumption
    | with_reducible exact keeps_refl _
    | (rintro x y (hx : Keeps s y))
    | (rintro x y z w (hx : Keeps s w))
    | (rintro x y z (hx : Keeps s z))
    | (rintro y (hx : Keeps s y))
    | (rintro x y (hx : Keeps s y.1))
    | (rintro x y (hx : Keeps s y.2))
    | with_reducible first | apply onVu_keeps

theorem execSel_keeps (e : Eng) (vd va vb : Fin 16) (s : State) {s' : State} (h : execSel e vd va vb s = .next s') :
    Keeps s s' := by
  unfold execSel at h
  cases h
  repeat' first
    | with_reducible assumption
    | with_reducible exact keeps_refl _
    | (rintro x y (hx : Keeps s y))
    | (rintro x y z w (hx : Keeps s w))
    | (rintro x y z (hx : Keeps s z))
    | (rintro y (hx : Keeps s y))
    | (rintro x y (hx : Keeps s y.1))
    | (rintro x y (hx : Keeps s y.2))
    | with_reducible first | apply onVu_keeps

theorem execSplit_keeps (e : Eng) (vd va vc : Fin 16) (s : State) {s' : State} (h : execSplit e vd va vc s = .next s') :
    Keeps s s' := by
  unfold execSplit at h
  cases h
  repeat' first
    | with_reducible assumption
    | with_reducible exact keeps_refl _
    | (rintro x y (hx : Keeps s y))
    | (rintro x y z w (hx : Keeps s w))
    | (rintro x y z (hx : Keeps s z))
    | (rintro y (hx : Keeps s y))
    | (rintro x y (hx : Keeps s y.1))
    | (rintro x y (hx : Keeps s y.2))
    | with_reducible first | apply onVu_keeps

theorem execScalb_keeps (e : Eng) (vd va vb : Fin 16) (s : State) {s' : State} (h : execScalb e vd va vb s = .next s') :
    Keeps s s' := by
  unfold execScalb at h
  cases h
  repeat' first
    | with_reducible assumption
    | with_reducible exact keeps_refl _
    | (rintro x y (hx : Keeps s y))
    | (rintro x y z w (hx : Keeps s w))
    | (rintro x y z (hx : Keeps s z))
    | (rintro y (hx : Keeps s y))
    | (rintro x y (hx : Keeps s y.1))
    | (rintro x y (hx : Keeps s y.2))
    | with_reducible first | apply onVu_keeps

theorem execCvt_keeps (e : Eng) (vd va : Fin 16) (fmt : Nat) (r : W32) (sr : Option VPos) (s : State) {s' : State} (h : execCvt e vd va fmt r sr s = .next s') :
    Keeps s s' := by
  unfold execCvt at h
  cases h
  repeat' first
    | with_reducible assumption
    | with_reducible exact keeps_refl _
    | (rintro x y (hx : Keeps s y))
    | (rintro x y z w (hx : Keeps s w))
    | (rintro x y z (hx : Keeps s z))
    | (rintro y (hx : Keeps s y))
    | (rintro x y (hx : Keeps s y.1))
    | (rintro x y (hx : Keeps s y.2))
    | with_reducible first | apply onVu_keeps

theorem execRand_keeps (e : Eng) (vd : Fin 16) (at_ : VPos) (s : State) {s' : State} (h : execRand e vd at_ s = .next s') :
    Keeps s s' := by
  unfold execRand at h
  cases h
  repeat' first
    | with_reducible assumption
    | with_reducible exact keeps_refl _
    | (rintro x y (hx : Keeps s y))
    | (rintro x y z w (hx : Keeps s w))
    | (rintro x y z (hx : Keeps s z))
    | (rintro y (hx : Keeps s y))
    | (rintro x y (hx : Keeps s y.1))
    | (rintro x y (hx : Keeps s y.2))
    | lift_lets
    | (intro x; refine keeps_cut (x := x) (a := s) ?_ ?_; subst x; rotate_left; clear_value x; intro hx)
    | (intro x; subst x)
    | simp -zeta only [keeps_upd]
    | with_reducible first | apply onVu_keeps
    | split

theorem execPoly_keeps (e : Eng) (vd va : Fin 16) (tab : Fin 2) (s : State) {s' : State} (h : execPoly e vd va tab s = .next s') :
    Keeps s s' := by
  unfold execPoly at h
  cases h
  repeat' first
    | with_reducible assumption
    | with_reducible exact keeps_refl _
    | (rintro x y (hx : Keeps s y))
    | (rintro x y z w (hx : Keeps s w))
    | (rintro x y z (hx : Keeps s z))
    | (rintro y (hx : Keeps s y))
    | (rintro x y (hx : Keeps s y.1))
    | (rintro x y (hx : Keeps s y.2))
    | with_reducible first | apply onVu_keeps

theorem execSt_keeps (e : Eng) (va : Fin 16) (o : VOperand) (sr : Option VPos) (s : State) {s' : State} (h : execSt e va o sr s = .next s') :
    Keeps s s' := by
  unfold execSt at h
  cases h
  repeat' first
    | with_reducible assumption
    | with_reducible exact keeps_refl _
    | (rintro x y (hx : Keeps s y))
    | (rintro x y z w (hx : Keeps s w))
    | (rintro x y z (hx : Keeps s z))
    | (rintro y (hx : Keeps s y))
    | (rintro x y (hx : Keeps s y.1))
    | (rintro x y (hx : Keeps s y.2))
    | lift_lets
    | (intro x; refine keeps_cut (x := x) (a := s) ?_ ?_; subst x; rotate_left; clear_value x; intro hx)
    | (intro x; subst x)
    | simp -zeta only [keeps_upd]
    | with_reducible first | apply setDie_keeps | apply setTile_keeps | apply contractFault_keeps | apply putTileVu_keeps | apply ueStepPc_keeps
    | with_reducible apply keeps_foldl
    | with_reducible apply keeps_foldl1
    | with_reducible apply keeps_foldl2
    | with_reducible exact hx
    | with_reducible apply keeps_ite
    | split

theorem execVmap_keeps (u v : Nat) (st : Strm) (s : State) {s' : State} (h : execVmap u v st s = .next s') :
    Keeps s s' := by
  unfold execVmap at h
  cases h
  repeat' first
    | with_reducible assumption
    | with_reducible exact keeps_refl _
    | (rintro x y (hx : Keeps s y))
    | (rintro x y z w (hx : Keeps s w))
    | (rintro x y z (hx : Keeps s z))
    | (rintro y (hx : Keeps s y))
    | (rintro x y (hx : Keeps s y.1))
    | (rintro x y (hx : Keeps s y.2))
    | with_reducible first | apply issue_keeps | apply vmapRec_keeps

theorem execVred_keeps (u v : Nat) (st : Strm) (s : State) {s' : State} (h : execVred u v st s = .next s') :
    Keeps s s' := by
  unfold execVred at h
  cases h
  repeat' first
    | with_reducible assumption
    | with_reducible exact keeps_refl _
    | (rintro x y (hx : Keeps s y))
    | (rintro x y z w (hx : Keeps s w))
    | (rintro x y z (hx : Keeps s z))
    | (rintro y (hx : Keeps s y))
    | (rintro x y (hx : Keeps s y.1))
    | (rintro x y (hx : Keeps s y.2))
    | with_reducible first | apply issue_keeps | apply vredRec_keeps

theorem execVpoly_keeps (u v : Nat) (st : Strm) (s : State) {s' : State} (h : execVpoly u v st s = .next s') :
    Keeps s s' := by
  unfold execVpoly at h
  cases h
  repeat' first
    | with_reducible assumption
    | with_reducible exact keeps_refl _
    | (rintro x y (hx : Keeps s y))
    | (rintro x y z w (hx : Keeps s w))
    | (rintro x y z (hx : Keeps s z))
    | (rintro y (hx : Keeps s y))
    | (rintro x y (hx : Keeps s y.1))
    | (rintro x y (hx : Keeps s y.2))
    | with_reducible first | apply issue_keeps | apply vpolyRec_keeps

theorem execScaleupd_keeps (u v : Nat) (st : Strm) (s : State) {s' : State} (h : execScaleupd u v st s = .next s') :
    Keeps s s' := by
  unfold execScaleupd at h
  cases h
  repeat' first
    | with_reducible assumption
    | with_reducible exact keeps_refl _
    | (rintro x y (hx : Keeps s y))
    | (rintro x y z w (hx : Keeps s w))
    | (rintro x y z (hx : Keeps s z))
    | (rintro y (hx : Keeps s y))
    | (rintro x y (hx : Keeps s y.1))
    | (rintro x y (hx : Keeps s y.2))
    | with_reducible first | apply issue_keeps | apply scaleupdRec_keeps

theorem execOwlCheckComplete_keeps (u v : Nat) (s : State) {s' : State} (h : execOwlCheckComplete u v s = .next s') :
    Keeps s s' := by
  unfold execOwlCheckComplete at h
  cases h
  repeat' first
    | with_reducible assumption
    | with_reducible exact keeps_refl _
    | (rintro x y (hx : Keeps s y))
    | (rintro x y z w (hx : Keeps s w))
    | (rintro x y z (hx : Keeps s z))
    | (rintro y (hx : Keeps s y))
    | (rintro x y (hx : Keeps s y.1))
    | (rintro x y (hx : Keeps s y.2))
    | with_reducible first | apply owlCheck_keeps

theorem execPortDown_keeps (p : Die) (s : State) {s' : State} (h : execPortDown p s = .next s') :
    Keeps s s' := by
  unfold execPortDown at h
  cases h
  repeat' first
    | with_reducible assumption
    | with_reducible exact keeps_refl _
    | (rintro x y (hx : Keeps s y))
    | (rintro x y z w (hx : Keeps s w))
    | (rintro x y z (hx : Keeps s z))
    | (rintro y (hx : Keeps s y))
    | (rintro x y (hx : Keeps s y.1))
    | (rintro x y (hx : Keeps s y.2))
    | with_reducible first | apply linkFault_keeps
    | with_reducible apply keeps_ite
    | split

theorem execPortTrained_keeps (p : Die) (pmd : Nat) (s : State) {s' : State} (h : execPortTrained p pmd s = .next s') :
    Keeps s s' := by
  unfold execPortTrained at h
  cases h
  repeat' first
    | with_reducible assumption
    | with_reducible exact keeps_refl _
    | (rintro x y (hx : Keeps s y))
    | (rintro x y z w (hx : Keeps s w))
    | (rintro x y z (hx : Keeps s z))
    | (rintro y (hx : Keeps s y))
    | (rintro x y (hx : Keeps s y.1))
    | (rintro x y (hx : Keeps s y.2))
    | lift_lets
    | (intro x; refine keeps_cut (x := x) (a := s) ?_ ?_; subst x; rotate_left; clear_value x; intro hx)
    | (intro x; subst x)
    | simp -zeta only [keeps_upd]
    | with_reducible first | apply setReg_keeps | apply setLink_keeps | apply sendHello_keeps
    | with_reducible apply keeps_ite
    | split

theorem execHelloTimer_keeps (p : Die) (s : State) {s' : State} (h : execHelloTimer p s = .next s') :
    Keeps s s' := by
  unfold execHelloTimer at h
  cases h
  repeat' first
    | with_reducible assumption
    | with_reducible exact keeps_refl _
    | (rintro x y (hx : Keeps s y))
    | (rintro x y z w (hx : Keeps s w))
    | (rintro x y z (hx : Keeps s z))
    | (rintro y (hx : Keeps s y))
    | (rintro x y (hx : Keeps s y.1))
    | (rintro x y (hx : Keeps s y.2))
    | with_reducible first | apply sendHello_keeps
    | with_reducible apply keeps_ite
    | split

theorem execNeighbourTimeout_keeps (p : Die) (s : State) {s' : State} (h : execNeighbourTimeout p s = .next s') :
    Keeps s s' := by
  unfold execNeighbourTimeout at h
  cases h
  repeat' first
    | with_reducible assumption
    | with_reducible exact keeps_refl _
    | (rintro x y (hx : Keeps s y))
    | (rintro x y z w (hx : Keeps s w))
    | (rintro x y z (hx : Keeps s z))
    | (rintro y (hx : Keeps s y))
    | (rintro x y (hx : Keeps s y.1))
    | (rintro x y (hx : Keeps s y.2))
    | lift_lets
    | (intro x; refine keeps_cut (x := x) (a := s) ?_ ?_; subst x; rotate_left; clear_value x; intro hx)
    | (intro x; subst x)
    | with_reducible first | apply setErr_keeps | apply setLnkState_keeps | apply clearNbr_keeps
    | with_reducible apply keeps_ite
    | split

theorem execPortReset_keeps (rq : Req) (p : Die) (s : State) {s' : State} (h : execPortReset rq p s = .next s') :
    Keeps s s' := by
  unfold execPortReset at h
  cases h
  repeat' first
    | with_reducible assumption
    | with_reducible exact keeps_refl _
    | (rintro x y (hx : Keeps s y))
    | (rintro x y z w (hx : Keeps s w))
    | (rintro x y z (hx : Keeps s z))
    | (rintro y (hx : Keeps s y))
    | (rintro x y (hx : Keeps s y.1))
    | (rintro x y (hx : Keeps s y.2))
    | with_reducible first | apply barWrite_keeps | apply portReset_keeps

theorem execAckTimer_keeps (p : Die) (s : State) {s' : State} (h : execAckTimer p s = .next s') :
    Keeps s s' := by
  unfold execAckTimer at h
  cases h
  repeat' first
    | with_reducible assumption
    | with_reducible exact keeps_refl _
    | (rintro x y (hx : Keeps s y))
    | (rintro x y z w (hx : Keeps s w))
    | (rintro x y z (hx : Keeps s z))
    | (rintro y (hx : Keeps s y))
    | (rintro x y (hx : Keeps s y.1))
    | (rintro x y (hx : Keeps s y.2))
    | with_reducible first | apply sendOn_keeps
    | with_reducible apply keeps_ite
    | split

theorem execReplayTimeout_keeps (p : Die) (s : State) {s' : State} (h : execReplayTimeout p s = .next s') :
    Keeps s s' := by
  unfold execReplayTimeout at h
  cases h
  repeat' first
    | with_reducible assumption
    | with_reducible exact keeps_refl _
    | (rintro x y (hx : Keeps s y))
    | (rintro x y z w (hx : Keeps s w))
    | (rintro x y z (hx : Keeps s z))
    | (rintro y (hx : Keeps s y))
    | (rintro x y (hx : Keeps s y.1))
    | (rintro x y (hx : Keeps s y.2))
    | with_reducible first | apply replayTimeout_keeps

theorem execPluggableInsert_keeps (p : Die) (watts : Nat) (s : State) {s' : State} (h : execPluggableInsert p watts s = .next s') :
    Keeps s s' := by
  unfold execPluggableInsert at h
  cases h
  repeat' first
    | with_reducible assumption
    | with_reducible exact keeps_refl _
    | (rintro x y (hx : Keeps s y))
    | (rintro x y z w (hx : Keeps s w))
    | (rintro x y z (hx : Keeps s z))
    | (rintro y (hx : Keeps s y))
    | (rintro x y (hx : Keeps s y.1))
    | (rintro x y (hx : Keeps s y.2))
    | lift_lets
    | (intro x; refine keeps_cut (x := x) (a := s) ?_ ?_; subst x; rotate_left; clear_value x; intro hx)
    | (intro x; subst x)
    | simp -zeta only [keeps_upd]
    | with_reducible first | apply setLnkState_keeps | apply holdCage_keeps
    | with_reducible apply keeps_ite
    | split

theorem execPluggableRemove_keeps (p : Die) (s : State) {s' : State} (h : execPluggableRemove p s = .next s') :
    Keeps s s' := by
  unfold execPluggableRemove at h
  cases h
  repeat' first
    | with_reducible assumption
    | with_reducible exact keeps_refl _
    | (rintro x y (hx : Keeps s y))
    | (rintro x y z w (hx : Keeps s w))
    | (rintro x y z (hx : Keeps s z))
    | (rintro y (hx : Keeps s y))
    | (rintro x y (hx : Keeps s y.1))
    | (rintro x y (hx : Keeps s y.2))
    | lift_lets
    | (intro x; refine keeps_cut (x := x) (a := s) ?_ ?_; subst x; rotate_left; clear_value x; intro hx)
    | (intro x; subst x)
    | simp -zeta only [keeps_upd]
    | with_reducible first | apply setReg_keeps | apply linkFault_keeps
    | with_reducible apply keeps_ite
    | split

theorem execCmisTimeout_keeps (p : Die) (s : State) {s' : State} (h : execCmisTimeout p s = .next s') :
    Keeps s s' := by
  unfold execCmisTimeout at h
  cases h
  repeat' first
    | with_reducible assumption
    | with_reducible exact keeps_refl _
    | (rintro x y (hx : Keeps s y))
    | (rintro x y z w (hx : Keeps s w))
    | (rintro x y z (hx : Keeps s z))
    | (rintro y (hx : Keeps s y))
    | (rintro x y (hx : Keeps s y.1))
    | (rintro x y (hx : Keeps s y.2))
    | with_reducible first | apply holdCage_keeps
    | with_reducible apply keeps_ite
    | split

theorem execContrib8_keeps (f : RFrame) (s : State) {s' : State} (h : execContrib8 f s = .next s') :
    Keeps s s' := by
  unfold execContrib8 at h
  cases h
  repeat' first
    | with_reducible assumption
    | with_reducible exact keeps_refl _
    | (rintro x y (hx : Keeps s y))
    | (rintro x y z w (hx : Keeps s w))
    | (rintro x y z (hx : Keeps s z))
    | (rintro y (hx : Keeps s y))
    | (rintro x y (hx : Keeps s y.1))
    | (rintro x y (hx : Keeps s y.2))
    | lift_lets
    | (intro x; refine keeps_cut (x := x) (a := s) ?_ ?_; subst x; rotate_left; clear_value x; intro hx)
    | (intro x; subst x)
    | simp -zeta only [keeps_upd]
    | with_reducible first | apply contribIn_keeps

theorem execContrib16_keeps (f : RFrame) (s : State) {s' : State} (h : execContrib16 f s = .next s') :
    Keeps s s' := by
  unfold execContrib16 at h
  cases h
  repeat' first
    | with_reducible assumption
    | with_reducible exact keeps_refl _
    | (rintro x y (hx : Keeps s y))
    | (rintro x y z w (hx : Keeps s w))
    | (rintro x y z (hx : Keeps s z))
    | (rintro y (hx : Keeps s y))
    | (rintro x y (hx : Keeps s y.1))
    | (rintro x y (hx : Keeps s y.2))
    | lift_lets
    | (intro x; refine keeps_cut (x := x) (a := s) ?_ ?_; subst x; rotate_left; clear_value x; intro hx)
    | (intro x; subst x)
    | simp -zeta only [keeps_upd]
    | with_reducible first | apply contribIn_keeps

theorem execPartial8_keeps (f : RFrame) (s : State) {s' : State} (h : execPartial8 f s = .next s') :
    Keeps s s' := by
  unfold execPartial8 at h
  cases h
  repeat' first
    | with_reducible assumption
    | with_reducible exact keeps_refl _
    | (rintro x y (hx : Keeps s y))
    | (rintro x y z w (hx : Keeps s w))
    | (rintro x y z (hx : Keeps s z))
    | (rintro y (hx : Keeps s y))
    | (rintro x y (hx : Keeps s y.1))
    | (rintro x y (hx : Keeps s y.2))
    | lift_lets
    | (intro x; refine keeps_cut (x := x) (a := s) ?_ ?_; subst x; rotate_left; clear_value x; intro hx)
    | (intro x; subst x)
    | simp -zeta only [keeps_upd]
    | with_reducible first | apply contribIn_keeps

theorem execPartial16_keeps (f : RFrame) (s : State) {s' : State} (h : execPartial16 f s = .next s') :
    Keeps s s' := by
  unfold execPartial16 at h
  cases h
  repeat' first
    | with_reducible assumption
    | with_reducible exact keeps_refl _
    | (rintro x y (hx : Keeps s y))
    | (rintro x y z w (hx : Keeps s w))
    | (rintro x y z (hx : Keeps s z))
    | (rintro y (hx : Keeps s y))
    | (rintro x y (hx : Keeps s y.1))
    | (rintro x y (hx : Keeps s y.2))
    | lift_lets
    | (intro x; refine keeps_cut (x := x) (a := s) ?_ ?_; subst x; rotate_left; clear_value x; intro hx)
    | (intro x; subst x)
    | simp -zeta only [keeps_upd]
    | with_reducible first | apply contribIn_keeps

theorem execResend_keeps (f : RFrame) (s : State) {s' : State} (h : execResend f s = .next s') :
    Keeps s s' := by
  unfold execResend at h
  cases h
  repeat' first
    | with_reducible assumption
    | with_reducible exact keeps_refl _
    | (rintro x y (hx : Keeps s y))
    | (rintro x y z w (hx : Keeps s w))
    | (rintro x y z (hx : Keeps s z))
    | (rintro y (hx : Keeps s y))
    | (rintro x y (hx : Keeps s y.1))
    | (rintro x y (hx : Keeps s y.2))
    | lift_lets
    | (intro x; refine keeps_cut (x := x) (a := s) ?_ ?_; subst x; rotate_left; clear_value x; intro hx)
    | (intro x; subst x)
    | simp -zeta only [keeps_upd]
    | with_reducible first | apply resendIn_keeps

theorem execWiden_keeps (f : RFrame) (s : State) {s' : State} (h : execWiden f s = .next s') :
    Keeps s s' := by
  unfold execWiden at h
  cases h
  repeat' first
    | with_reducible assumption
    | with_reducible exact keeps_refl _
    | (rintro x y (hx : Keeps s y))
    | (rintro x y z w (hx : Keeps s w))
    | (rintro x y z (hx : Keeps s z))
    | (rintro y (hx : Keeps s y))
    | (rintro x y (hx : Keeps s y.1))
    | (rintro x y (hx : Keeps s y.2))
    | lift_lets
    | (intro x; refine keeps_cut (x := x) (a := s) ?_ ?_; subst x; rotate_left; clear_value x; intro hx)
    | (intro x; subst x)
    | simp -zeta only [keeps_upd]
    | with_reducible first | apply widenIn_keeps

theorem execContributionDeadline_keeps (chan rseq : Nat) (s : State) {s' : State} (h : execContributionDeadline chan rseq s = .next s') :
    Keeps s s' := by
  unfold execContributionDeadline at h
  cases h
  repeat' first
    | with_reducible assumption
    | with_reducible exact keeps_refl _
    | (rintro x y (hx : Keeps s y))
    | (rintro x y z w (hx : Keeps s w))
    | (rintro x y z (hx : Keeps s z))
    | (rintro y (hx : Keeps s y))
    | (rintro x y (hx : Keeps s y.1))
    | (rintro x y (hx : Keeps s y.2))
    | with_reducible first | apply contribDeadline_keeps

theorem execOmit_keeps (rq : Req) (chan : Nat) (s : State) {s' : State} (h : execOmit rq chan s = .next s') :
    Keeps s s' := by
  unfold execOmit at h
  cases h
  repeat' first
    | with_reducible assumption
    | with_reducible exact keeps_refl _
    | (rintro x y (hx : Keeps s y))
    | (rintro x y z w (hx : Keeps s w))
    | (rintro x y z (hx : Keeps s z))
    | (rintro y (hx : Keeps s y))
    | (rintro x y (hx : Keeps s y.1))
    | (rintro x y (hx : Keeps s y.2))
    | with_reducible first | apply barWrite_keeps | apply omitShares_keeps

theorem execReset_keeps (rq : Req) (chan : Nat) (s : State) {s' : State} (h : execReset rq chan s = .next s') :
    Keeps s s' := by
  unfold execReset at h
  cases h
  repeat' first
    | with_reducible assumption
    | with_reducible exact keeps_refl _
    | (rintro x y (hx : Keeps s y))
    | (rintro x y z w (hx : Keeps s w))
    | (rintro x y z (hx : Keeps s z))
    | (rintro y (hx : Keeps s y))
    | (rintro x y (hx : Keeps s y.1))
    | (rintro x y (hx : Keeps s y.2))
    | with_reducible first | apply barWrite_keeps | apply resetChan_keeps

theorem execParam_keeps (f : RFrame) (s : State) {s' : State} (h : execParam f s = .next s') :
    Keeps s s' := by
  unfold execParam at h
  cases h
  repeat' first
    | with_reducible assumption
    | with_reducible exact keeps_refl _
    | (rintro x y (hx : Keeps s y))
    | (rintro x y z w (hx : Keeps s w))
    | (rintro x y z (hx : Keeps s z))
    | (rintro y (hx : Keeps s y))
    | (rintro x y (hx : Keeps s y.1))
    | (rintro x y (hx : Keeps s y.2))
    | lift_lets
    | (intro x; refine keeps_cut (x := x) (a := s) ?_ ?_; subst x; rotate_left; clear_value x; intro hx)
    | (intro x; subst x)
    | simp -zeta only [keeps_upd]
    | with_reducible first | apply paramIn_keeps

theorem execDone_keeps (f : RFrame) (s : State) {s' : State} (h : execDone f s = .next s') :
    Keeps s s' := by
  unfold execDone at h
  cases h
  repeat' first
    | with_reducible assumption
    | with_reducible exact keeps_refl _
    | (rintro x y (hx : Keeps s y))
    | (rintro x y z w (hx : Keeps s w))
    | (rintro x y z (hx : Keeps s z))
    | (rintro y (hx : Keeps s y))
    | (rintro x y (hx : Keeps s y.1))
    | (rintro x y (hx : Keeps s y.2))
    | lift_lets
    | (intro x; refine keeps_cut (x := x) (a := s) ?_ ?_; subst x; rotate_left; clear_value x; intro hx)
    | (intro x; subst x)
    | simp -zeta only [keeps_upd]
    | with_reducible first | apply doneIn_keeps

theorem execReturnDeadline_keeps (chan rseq : Nat) (s : State) {s' : State} (h : execReturnDeadline chan rseq s = .next s') :
    Keeps s s' := by
  unfold execReturnDeadline at h
  cases h
  repeat' first
    | with_reducible assumption
    | with_reducible exact keeps_refl _
    | (rintro x y (hx : Keeps s y))
    | (rintro x y z w (hx : Keeps s w))
    | (rintro x y z (hx : Keeps s z))
    | (rintro y (hx : Keeps s y))
    | (rintro x y (hx : Keeps s y.1))
    | (rintro x y (hx : Keeps s y.2))
    | with_reducible first | apply takeOver_keeps

theorem execPermute_keeps (f : RFrame) (s : State) {s' : State} (h : execPermute f s = .next s') :
    Keeps s s' := by
  unfold execPermute at h
  cases h
  repeat' first
    | with_reducible assumption
    | with_reducible exact keeps_refl _
    | (rintro x y (hx : Keeps s y))
    | (rintro x y z w (hx : Keeps s w))
    | (rintro x y z (hx : Keeps s z))
    | (rintro y (hx : Keeps s y))
    | (rintro x y (hx : Keeps s y.1))
    | (rintro x y (hx : Keeps s y.2))
    | lift_lets
    | (intro x; refine keeps_cut (x := x) (a := s) ?_ ?_; subst x; rotate_left; clear_value x; intro hx)
    | (intro x; subst x)
    | simp -zeta only [keeps_upd]
    | with_reducible first | apply permuteIn_keeps

theorem execPermDone_keeps (f : RFrame) (s : State) {s' : State} (h : execPermDone f s = .next s') :
    Keeps s s' := by
  unfold execPermDone at h
  cases h
  repeat' first
    | with_reducible assumption
    | with_reducible exact keeps_refl _
    | (rintro x y (hx : Keeps s y))
    | (rintro x y z w (hx : Keeps s w))
    | (rintro x y z (hx : Keeps s z))
    | (rintro y (hx : Keeps s y))
    | (rintro x y (hx : Keeps s y.1))
    | (rintro x y (hx : Keeps s y.2))
    | lift_lets
    | (intro x; refine keeps_cut (x := x) (a := s) ?_ ?_; subst x; rotate_left; clear_value x; intro hx)
    | (intro x; subst x)
    | simp -zeta only [keeps_upd]
    | with_reducible first | apply permDoneIn_keeps

theorem execPermuteTimeout_keeps (s : State) {s' : State} (h : execPermuteTimeout s = .next s') :
    Keeps s s' := by
  unfold execPermuteTimeout at h
  cases h
  repeat' first
    | with_reducible assumption
    | with_reducible exact keeps_refl _
    | (rintro x y (hx : Keeps s y))
    | (rintro x y z w (hx : Keeps s w))
    | (rintro x y z (hx : Keeps s z))
    | (rintro y (hx : Keeps s y))
    | (rintro x y (hx : Keeps s y.1))
    | (rintro x y (hx : Keeps s y.2))
    | with_reducible first | apply permuteTimeout_keeps

theorem execFsignal_keeps (u v : Nat) (st : Strm) (s : State) {s' : State} (h : execFsignal u v st s = .next s') :
    Keeps s s' := by
  unfold execFsignal at h
  cases h
  repeat' first
    | with_reducible assumption
    | with_reducible exact keeps_refl _
    | (rintro x y (hx : Keeps s y))
    | (rintro x y z w (hx : Keeps s w))
    | (rintro x y z (hx : Keeps s z))
    | (rintro y (hx : Keeps s y))
    | (rintro x y (hx : Keeps s y.1))
    | (rintro x y (hx : Keeps s y.2))
    | with_reducible first | apply issue_keeps | apply fsignalRec_keeps

theorem execSignalFlit_keeps (u v : Nat) (p : Port) (f : Flit) (s : State) {s' : State} (h : execSignalFlit u v p f s = .next s') :
    Keeps s s' := by
  unfold execSignalFlit at h
  cases h
  repeat' first
    | with_reducible assumption
    | with_reducible exact keeps_refl _
    | (rintro x y (hx : Keeps s y))
    | (rintro x y z w (hx : Keeps s w))
    | (rintro x y z (hx : Keeps s z))
    | (rintro y (hx : Keeps s y))
    | (rintro x y (hx : Keeps s y.1))
    | (rintro x y (hx : Keeps s y.2))
    | with_reducible first | apply signalIn_keeps | apply farFrom_keeps

theorem execTsyncTimer_keeps (s : State) {s' : State} (h : execTsyncTimer s = .next s') :
    Keeps s s' := by
  unfold execTsyncTimer at h
  cases h
  repeat' first
    | with_reducible assumption
    | with_reducible exact keeps_refl _
    | (rintro x y (hx : Keeps s y))
    | (rintro x y z w (hx : Keeps s w))
    | (rintro x y z (hx : Keeps s z))
    | (rintro y (hx : Keeps s y))
    | (rintro x y (hx : Keeps s y.1))
    | (rintro x y (hx : Keeps s y.2))
    | lift_lets
    | (intro x; refine keeps_cut (x := x) (a := s) ?_ ?_; subst x; rotate_left; clear_value x; intro hx)
    | (intro x; subst x)
    | simp -zeta only [keeps_upd]
    | with_reducible first | apply setLink_keeps | apply setJoff_keeps | apply sendDirect_keeps
    | with_reducible apply keeps_ite
    | split

theorem execFarFrame_keeps (p : Die) (f : LFrame) (s : State) {s' : State} (h : execFarFrame p f s = .next s') :
    Keeps s s' := by
  unfold execFarFrame at h
  cases h
  repeat' first
    | with_reducible assumption
    | with_reducible exact keeps_refl _
    | (rintro x y (hx : Keeps s y))
    | (rintro x y z w (hx : Keeps s w))
    | (rintro x y z (hx : Keeps s z))
    | (rintro y (hx : Keeps s y))
    | (rintro x y (hx : Keeps s y.1))
    | (rintro x y (hx : Keeps s y.2))
    | with_reducible first | apply rxFrame_keeps

theorem execXferFrame_keeps (p : Die) (f : LFrame) (s : State) {s' : State} (h : execXferFrame p f s = .next s') :
    Keeps s s' := by
  unfold execXferFrame at h
  cases h
  repeat' first
    | with_reducible assumption
    | with_reducible exact keeps_refl _
    | (rintro x y (hx : Keeps s y))
    | (rintro x y z w (hx : Keeps s w))
    | (rintro x y z (hx : Keeps s z))
    | (rintro y (hx : Keeps s y))
    | (rintro x y (hx : Keeps s y.1))
    | (rintro x y (hx : Keeps s y.2))
    | with_reducible first | apply rxFrame_keeps

theorem execTunnelFrame_keeps (p : Die) (f : LFrame) (s : State) {s' : State} (h : execTunnelFrame p f s = .next s') :
    Keeps s s' := by
  unfold execTunnelFrame at h
  cases h
  repeat' first
    | with_reducible assumption
    | with_reducible exact keeps_refl _
    | (rintro x y (hx : Keeps s y))
    | (rintro x y z w (hx : Keeps s w))
    | (rintro x y z (hx : Keeps s z))
    | (rintro y (hx : Keeps s y))
    | (rintro x y (hx : Keeps s y.1))
    | (rintro x y (hx : Keeps s y.2))
    | with_reducible first | apply rxFrame_keeps

theorem execHello_keeps (p : Die) (f : LFrame) (s : State) {s' : State} (h : execHello p f s = .next s') :
    Keeps s s' := by
  unfold execHello at h
  cases h
  repeat' first
    | with_reducible assumption
    | with_reducible exact keeps_refl _
    | (rintro x y (hx : Keeps s y))
    | (rintro x y z w (hx : Keeps s w))
    | (rintro x y z (hx : Keeps s z))
    | (rintro y (hx : Keeps s y))
    | (rintro x y (hx : Keeps s y.1))
    | (rintro x y (hx : Keeps s y.2))
    | with_reducible first | apply rxFrame_keeps

theorem execTsyncRequest_keeps (p : Die) (f : LFrame) (s : State) {s' : State} (h : execTsyncRequest p f s = .next s') :
    Keeps s s' := by
  unfold execTsyncRequest at h
  cases h
  repeat' first
    | with_reducible assumption
    | with_reducible exact keeps_refl _
    | (rintro x y (hx : Keeps s y))
    | (rintro x y z w (hx : Keeps s w))
    | (rintro x y z (hx : Keeps s z))
    | (rintro y (hx : Keeps s y))
    | (rintro x y (hx : Keeps s y.1))
    | (rintro x y (hx : Keeps s y.2))
    | with_reducible first | apply rxFrame_keeps

theorem execTsyncResponse_keeps (p : Die) (f : LFrame) (s : State) {s' : State} (h : execTsyncResponse p f s = .next s') :
    Keeps s s' := by
  unfold execTsyncResponse at h
  cases h
  repeat' first
    | with_reducible assumption
    | with_reducible exact keeps_refl _
    | (rintro x y (hx : Keeps s y))
    | (rintro x y z w (hx : Keeps s w))
    | (rintro x y z (hx : Keeps s z))
    | (rintro y (hx : Keeps s y))
    | (rintro x y (hx : Keeps s y.1))
    | (rintro x y (hx : Keeps s y.2))
    | with_reducible first | apply rxFrame_keeps

theorem execAck_keeps (p : Die) (f : LFrame) (s : State) {s' : State} (h : execAck p f s = .next s') :
    Keeps s s' := by
  unfold execAck at h
  cases h
  repeat' first
    | with_reducible assumption
    | with_reducible exact keeps_refl _
    | (rintro x y (hx : Keeps s y))
    | (rintro x y z w (hx : Keeps s w))
    | (rintro x y z (hx : Keeps s z))
    | (rintro y (hx : Keeps s y))
    | (rintro x y (hx : Keeps s y.1))
    | (rintro x y (hx : Keeps s y.2))
    | with_reducible first | apply rxFrame_keeps

theorem execNak_keeps (p : Die) (f : LFrame) (s : State) {s' : State} (h : execNak p f s = .next s') :
    Keeps s s' := by
  unfold execNak at h
  cases h
  repeat' first
    | with_reducible assumption
    | with_reducible exact keeps_refl _
    | (rintro x y (hx : Keeps s y))
    | (rintro x y z w (hx : Keeps s w))
    | (rintro x y z (hx : Keeps s z))
    | (rintro y (hx : Keeps s y))
    | (rintro x y (hx : Keeps s y.1))
    | (rintro x y (hx : Keeps s y.2))
    | with_reducible first | apply rxFrame_keeps

theorem execPatrolScrubRead_keeps (d : Die) (n : Fin 4) (ecc : Ecc) (s : State) {s' : State} (h : execPatrolScrubRead d n ecc s = .next s') :
    Keeps s s' := by
  unfold execPatrolScrubRead at h
  cases h
  repeat' first
    | with_reducible assumption
    | with_reducible exact keeps_refl _
    | (rintro x y (hx : Keeps s y))
    | (rintro x y z w (hx : Keeps s w))
    | (rintro x y z (hx : Keeps s z))
    | (rintro y (hx : Keeps s y))
    | (rintro x y (hx : Keeps s y.1))
    | (rintro x y (hx : Keeps s y.2))
    | with_reducible first | apply patrolScrub_keeps

theorem execBar2Read_keeps (off len : Nat) (ide : Bool) (ecc : EccList) (s : State) {s' : State} (h : execBar2Read off len ide ecc s = .next s') :
    Keeps s s' := by
  unfold execBar2Read at h
  repeat' split at h
  all_goals cases h
  all_goals
    repeat' first
      | with_reducible assumption
      | with_reducible exact keeps_refl _
      | (rintro x y (hx : Keeps s y))
      | (rintro x y z w (hx : Keeps s w))
      | (rintro x y z (hx : Keeps s z))
      | (rintro y (hx : Keeps s y))
      | (rintro x y (hx : Keeps s y.1))
      | (rintro x y (hx : Keeps s y.2))
      | with_reducible first | apply bar2Read_keeps
      | with_reducible apply keeps_ite
      | split

theorem execBar2Write_keeps (off : Nat) (data : List Byte) (ide poisoned : Bool) (s : State) {s' : State} (h : execBar2Write off data ide poisoned s = .next s') :
    Keeps s s' := by
  unfold execBar2Write at h
  repeat' split at h
  all_goals cases h
  all_goals
    repeat' first
      | with_reducible assumption
      | with_reducible exact keeps_refl _
      | (rintro x y (hx : Keeps s y))
      | (rintro x y z w (hx : Keeps s w))
      | (rintro x y z (hx : Keeps s z))
      | (rintro y (hx : Keeps s y))
      | (rintro x y (hx : Keeps s y.1))
      | (rintro x y (hx : Keeps s y.2))
      | with_reducible first | apply bar2Write_keeps
      | with_reducible apply keeps_ite
      | split

theorem execHostDmaDescriptor_keeps (q : Fin 8) (desc : HostRead) (host : List HostRead) (via : HostVia) (s : State) {s' : State} (h : execHostDmaDescriptor q desc host via s = .next s') :
    Keeps s s' := by
  unfold execHostDmaDescriptor at h
  cases h
  repeat' first
    | with_reducible assumption
    | with_reducible exact keeps_refl _
    | (rintro x y (hx : Keeps s y))
    | (rintro x y z w (hx : Keeps s w))
    | (rintro x y z (hx : Keeps s z))
    | (rintro y (hx : Keeps s y))
    | (rintro x y (hx : Keeps s y.1))
    | (rintro x y (hx : Keeps s y.2))
    | with_reducible first | apply hostDescriptor_keeps

theorem execHostDmaComplete_keeps (q : Fin 8) (s : State) {s' : State} (h : execHostDmaComplete q s = .next s') :
    Keeps s s' := by
  unfold execHostDmaComplete at h
  cases h
  repeat' first
    | with_reducible assumption
    | with_reducible exact keeps_refl _
    | (rintro x y (hx : Keeps s y))
    | (rintro x y z w (hx : Keeps s w))
    | (rintro x y z (hx : Keeps s z))
    | (rintro y (hx : Keeps s y))
    | (rintro x y (hx : Keeps s y.1))
    | (rintro x y (hx : Keeps s y.2))
    | with_reducible first | apply hostComplete_keeps

theorem execHdqTailWrite_keeps (rq : Req) (q : Fin 8) (v : W32) (s : State) {s' : State} (h : execHdqTailWrite rq q v s = .next s') :
    Keeps s s' := by
  unfold execHdqTailWrite at h
  cases h
  repeat' first
    | with_reducible assumption
    | with_reducible exact keeps_refl _
    | (rintro x y (hx : Keeps s y))
    | (rintro x y z w (hx : Keeps s w))
    | (rintro x y z (hx : Keeps s z))
    | (rintro y (hx : Keeps s y))
    | (rintro x y (hx : Keeps s y.1))
    | (rintro x y (hx : Keeps s y.2))
    | with_reducible first | apply plainWrite_keeps | apply barWrite_keeps

theorem execHdqCtlWrite_keeps (rq : Req) (q : Fin 8) (v : W32) (s : State) {s' : State} (h : execHdqCtlWrite rq q v s = .next s') :
    Keeps s s' := by
  unfold execHdqCtlWrite at h
  cases h
  repeat' first
    | with_reducible assumption
    | with_reducible exact keeps_refl _
    | (rintro x y (hx : Keeps s y))
    | (rintro x y z w (hx : Keeps s w))
    | (rintro x y z (hx : Keeps s z))
    | (rintro y (hx : Keeps s y))
    | (rintro x y (hx : Keeps s y.1))
    | (rintro x y (hx : Keeps s y.2))
    | with_reducible first | apply barWrite_keeps | apply queueCtl_keeps

theorem execEdgeDmaDescriptor_keeps (d : Die) (r : QueueRead) (s : State) {s' : State} (h : execEdgeDmaDescriptor d r s = .next s') :
    Keeps s s' := by
  unfold execEdgeDmaDescriptor at h
  cases h
  repeat' first
    | with_reducible assumption
    | with_reducible exact keeps_refl _
    | (rintro x y (hx : Keeps s y))
    | (rintro x y z w (hx : Keeps s w))
    | (rintro x y z (hx : Keeps s z))
    | (rintro y (hx : Keeps s y))
    | (rintro x y (hx : Keeps s y.1))
    | (rintro x y (hx : Keeps s y.2))
    | with_reducible first | apply edgeDescriptor_keeps

theorem execEdgeDmaComplete_keeps (d : Die) (q : Fin 4) (s : State) {s' : State} (h : execEdgeDmaComplete d q s = .next s') :
    Keeps s s' := by
  unfold execEdgeDmaComplete at h
  cases h
  repeat' first
    | with_reducible assumption
    | with_reducible exact keeps_refl _
    | (rintro x y (hx : Keeps s y))
    | (rintro x y z w (hx : Keeps s w))
    | (rintro x y z (hx : Keeps s z))
    | (rintro y (hx : Keeps s y))
    | (rintro x y (hx : Keeps s y.1))
    | (rintro x y (hx : Keeps s y.2))
    | with_reducible first | apply edgeComplete_keeps

theorem execDmaqTailWrite_keeps (rq : Req) (d : Die) (q : Fin 4) (v : W32) (s : State) {s' : State} (h : execDmaqTailWrite rq d q v s = .next s') :
    Keeps s s' := by
  unfold execDmaqTailWrite at h
  cases h
  repeat' first
    | with_reducible assumption
    | with_reducible exact keeps_refl _
    | (rintro x y (hx : Keeps s y))
    | (rintro x y z w (hx : Keeps s w))
    | (rintro x y z (hx : Keeps s z))
    | (rintro y (hx : Keeps s y))
    | (rintro x y (hx : Keeps s y.1))
    | (rintro x y (hx : Keeps s y.2))
    | with_reducible first | apply plainWrite_keeps | apply barWrite_keeps

theorem execDmaqCtlWrite_keeps (rq : Req) (d : Die) (q : Fin 4) (v : W32) (s : State) {s' : State} (h : execDmaqCtlWrite rq d q v s = .next s') :
    Keeps s s' := by
  unfold execDmaqCtlWrite at h
  cases h
  repeat' first
    | with_reducible assumption
    | with_reducible exact keeps_refl _
    | (rintro x y (hx : Keeps s y))
    | (rintro x y z w (hx : Keeps s w))
    | (rintro x y z (hx : Keeps s z))
    | (rintro y (hx : Keeps s y))
    | (rintro x y (hx : Keeps s y.1))
    | (rintro x y (hx : Keeps s y.2))
    | with_reducible first | apply barWrite_keeps | apply queueCtl_keeps

theorem execLdgRdWrite_keeps (rq : Req) (hi : W32) (s : State) {s' : State} (h : execLdgRdWrite rq hi s = .next s') :
    Keeps s s' := by
  unfold execLdgRdWrite at h
  cases h
  repeat' first
    | with_reducible assumption
    | with_reducible exact keeps_refl _
    | (rintro x y (hx : Keeps s y))
    | (rintro x y z w (hx : Keeps s w))
    | (rintro x y z (hx : Keeps s z))
    | (rintro y (hx : Keeps s y))
    | (rintro x y (hx : Keeps s y.1))
    | (rintro x y (hx : Keeps s y.2))
    | with_reducible first | apply barWrite_keeps | apply ldgRdWrite_keeps

theorem execCbgQuery_keeps (rq : Req) (v : W32) (s : State) {s' : State} (h : execCbgQuery rq v s = .next s') :
    Keeps s s' := by
  unfold execCbgQuery at h
  cases h
  repeat' first
    | with_reducible assumption
    | with_reducible exact keeps_refl _
    | (rintro x y (hx : Keeps s y))
    | (rintro x y z w (hx : Keeps s w))
    | (rintro x y z (hx : Keeps s z))
    | (rintro y (hx : Keeps s y))
    | (rintro x y (hx : Keeps s y.1))
    | (rintro x y (hx : Keeps s y.2))
    | with_reducible first | apply barWrite_keeps | apply cbgQuery_keeps

theorem execCbgQctrWrite_keeps (rq : Req) (k : Fin 3) (v : W32) (s : State) {s' : State} (h : execCbgQctrWrite rq k v s = .next s') :
    Keeps s s' := by
  unfold execCbgQctrWrite at h
  cases h
  repeat' first
    | with_reducible assumption
    | with_reducible exact keeps_refl _
    | (rintro x y (hx : Keeps s y))
    | (rintro x y z w (hx : Keeps s w))
    | (rintro x y z (hx : Keeps s z))
    | (rintro y (hx : Keeps s y))
    | (rintro x y (hx : Keeps s y.1))
    | (rintro x y (hx : Keeps s y.2))
    | with_reducible first | apply setReg_keeps | apply setErr_keeps | apply barWrite_keeps
    | with_reducible apply keeps_ite
    | split

theorem execLd_keeps (e : Eng) (vd : Fin 16) (o : VOperand) (s : State) {s' : State} (h : execLd e vd o s = .next s') :
    Keeps s s' := by
  unfold execLd at h
  cases h
  repeat' first
    | with_reducible assumption
    | with_reducible exact keeps_refl _
    | (rintro x y (hx : Keeps s y))
    | (rintro x y z w (hx : Keeps s w))
    | (rintro x y z (hx : Keeps s z))
    | (rintro y (hx : Keeps s y))
    | (rintro x y (hx : Keeps s y.1))
    | (rintro x y (hx : Keeps s y.2))
    | lift_lets
    | (intro x; refine keeps_cut (x := x) (a := s) ?_ ?_; subst x; rotate_left; clear_value x; intro hx)
    | (intro x; subst x)
    | simp -zeta only [keeps_upd]
    | with_reducible first | apply setTile_keeps | apply contractFault_keeps | apply putTileVu_keeps | apply onVu_keeps | apply numSat_keeps
    | with_reducible apply keeps_ite
    | split

theorem execLds_keeps (d : Die) (vd : Fin 16) (r : StreamRead) (s : State) {s' : State} (h : execLds d vd r s = .next s') :
    Keeps s s' := by
  unfold execLds at h
  cases h
  repeat' first
    | with_reducible assumption
    | with_reducible exact keeps_refl _
    | (rintro x y (hx : Keeps s y))
    | (rintro x y z w (hx : Keeps s w))
    | (rintro x y z (hx : Keeps s z))
    | (rintro y (hx : Keeps s y))
    | (rintro x y (hx : Keeps s y.1))
    | (rintro x y (hx : Keeps s y.2))
    | with_reducible first | apply onUe_keeps | apply ldsGo_keeps

theorem execSts_keeps (d : Die) (va : Fin 16) (t : Fin 8) (s : State) {s' : State} (h : execSts d va t s = .next s') :
    Keeps s s' := by
  unfold execSts at h
  cases h
  repeat' first
    | with_reducible assumption
    | with_reducible exact keeps_refl _
    | (rintro x y (hx : Keeps s y))
    | (rintro x y z w (hx : Keeps s w))
    | (rintro x y z (hx : Keeps s z))
    | (rintro y (hx : Keeps s y))
    | (rintro x y (hx : Keeps s y.1))
    | (rintro x y (hx : Keeps s y.2))
    | with_reducible first | apply onUe_keeps | apply stsGo_keeps

theorem execQout_keeps (d : Die) (va : Fin 16) (t : Fin 8) (s : State) {s' : State} (h : execQout d va t s = .next s') :
    Keeps s s' := by
  unfold execQout at h
  cases h
  repeat' first
    | with_reducible assumption
    | with_reducible exact keeps_refl _
    | (rintro x y (hx : Keeps s y))
    | (rintro x y z w (hx : Keeps s w))
    | (rintro x y z (hx : Keeps s z))
    | (rintro y (hx : Keeps s y))
    | (rintro x y (hx : Keeps s y.1))
    | (rintro x y (hx : Keeps s y.2))
    | with_reducible first | apply onUe_keeps | apply qoutGo_keeps

theorem execAmax_keeps (d : Die) (va : Fin 16) (s : State) {s' : State} (h : execAmax d va s = .next s') :
    Keeps s s' := by
  unfold execAmax at h
  cases h
  repeat' first
    | with_reducible assumption
    | with_reducible exact keeps_refl _
    | (rintro x y (hx : Keeps s y))
    | (rintro x y z w (hx : Keeps s w))
    | (rintro x y z (hx : Keeps s z))
    | (rintro y (hx : Keeps s y))
    | (rintro x y (hx : Keeps s y.1))
    | (rintro x y (hx : Keeps s y.2))
    | with_reducible first | apply onUe_keeps | apply amaxGo_keeps

theorem execXacc_keeps (d : Die) (lane : Fin 8) (va vb : Fin 16) (s : State) {s' : State} (h : execXacc d lane va vb s = .next s') :
    Keeps s s' := by
  unfold execXacc at h
  cases h
  repeat' first
    | with_reducible assumption
    | with_reducible exact keeps_refl _
    | (rintro x y (hx : Keeps s y))
    | (rintro x y z w (hx : Keeps s w))
    | (rintro x y z (hx : Keeps s z))
    | (rintro y (hx : Keeps s y))
    | (rintro x y (hx : Keeps s y.1))
    | (rintro x y (hx : Keeps s y.2))
    | with_reducible first | apply onUe_keeps | apply xaccGo_keeps

theorem execXrd_keeps (d : Die) (sk : Fin 16) (lane : Fin 8) (s : State) {s' : State} (h : execXrd d sk lane s = .next s') :
    Keeps s s' := by
  unfold execXrd at h
  cases h
  repeat' first
    | with_reducible assumption
    | with_reducible exact keeps_refl _
    | (rintro x y (hx : Keeps s y))
    | (rintro x y z w (hx : Keeps s w))
    | (rintro x y z (hx : Keeps s z))
    | (rintro y (hx : Keeps s y))
    | (rintro x y (hx : Keeps s y.1))
    | (rintro x y (hx : Keeps s y.2))
    | with_reducible first | apply onUe_keeps | apply xrdGo_keeps

theorem execScal_keeps (d : Die) (vd sk : Fin 16) (s : State) {s' : State} (h : execScal d vd sk s = .next s') :
    Keeps s s' := by
  unfold execScal at h
  cases h
  repeat' first
    | with_reducible assumption
    | with_reducible exact keeps_refl _
    | (rintro x y (hx : Keeps s y))
    | (rintro x y z w (hx : Keeps s w))
    | (rintro x y z (hx : Keeps s z))
    | (rintro y (hx : Keeps s y))
    | (rintro x y (hx : Keeps s y.1))
    | (rintro x y (hx : Keeps s y.2))
    | with_reducible first | apply onUe_keeps | apply scalGo_keeps

theorem execUsig_keeps (d : Die) (fsDie : Die) (fsn : Fin 16) (s : State) {s' : State} (h : execUsig d fsDie fsn s = .next s') :
    Keeps s s' := by
  unfold execUsig at h
  cases h
  repeat' first
    | with_reducible assumption
    | with_reducible exact keeps_refl _
    | (rintro x y (hx : Keeps s y))
    | (rintro x y z w (hx : Keeps s w))
    | (rintro x y z (hx : Keeps s z))
    | (rintro y (hx : Keeps s y))
    | (rintro x y (hx : Keeps s y.1))
    | (rintro x y (hx : Keeps s y.2))
    | with_reducible first | apply farSignal_keeps | apply ueStepPc_keeps | apply onUe_keeps

theorem execXchg_keeps (d : Die) (accLanes : Bool) (s : State) {s' : State} (h : execXchg d accLanes s = .next s') :
    Keeps s s' := by
  unfold execXchg at h
  cases h
  repeat' first
    | with_reducible assumption
    | with_reducible exact keeps_refl _
    | (rintro x y (hx : Keeps s y))
    | (rintro x y z w (hx : Keeps s w))
    | (rintro x y z (hx : Keeps s z))
    | (rintro y (hx : Keeps s y))
    | (rintro x y (hx : Keeps s y.1))
    | (rintro x y (hx : Keeps s y.2))
    | lift_lets
    | (intro x; refine keeps_cut (x := x) (a := s) ?_ ?_; subst x; rotate_left; clear_value x; intro hx)
    | (intro x; subst x)
    | simp -zeta only [keeps_upd]
    | with_reducible first | apply setUeRun_keeps | apply onUe_keeps

theorem execXchgComplete_keeps (prog : Nat) (s : State) {s' : State} (h : execXchgComplete prog s = .next s') :
    Keeps s s' := by
  unfold execXchgComplete at h
  cases h
  repeat' first
    | with_reducible assumption
    | with_reducible exact keeps_refl _
    | (rintro x y (hx : Keeps s y))
    | (rintro x y z w (hx : Keeps s w))
    | (rintro x y z (hx : Keeps s z))
    | (rintro y (hx : Keeps s y))
    | (rintro x y (hx : Keeps s y.1))
    | (rintro x y (hx : Keeps s y.2))
    | with_reducible first | apply xchgDone_keeps

theorem execXchgTimeout_keeps (d : Die) (s : State) {s' : State} (h : execXchgTimeout d s = .next s') :
    Keeps s s' := by
  unfold execXchgTimeout at h
  cases h
  repeat' first
    | with_reducible assumption
    | with_reducible exact keeps_refl _
    | (rintro x y (hx : Keeps s y))
    | (rintro x y z w (hx : Keeps s w))
    | (rintro x y z (hx : Keeps s z))
    | (rintro y (hx : Keeps s y))
    | (rintro x y (hx : Keeps s y.1))
    | (rintro x y (hx : Keeps s y.2))
    | lift_lets
    | (intro x; refine keeps_cut (x := x) (a := s) ?_ ?_; subst x; rotate_left; clear_value x; intro hx)
    | (intro x; subst x)
    | simp -zeta only [keeps_upd]
    | with_reducible first | apply faultItem_keeps | apply faultInLoad_keeps | apply upeErr_keeps | apply addBusy_keeps | apply stopInstance_keeps
    | with_reducible apply keeps_ite
    | split

theorem execEnd_keeps (d : Die) (s : State) {s' : State} (h : execEnd d s = .next s') :
    Keeps s s' := by
  unfold execEnd at h
  cases h
  repeat' first
    | with_reducible assumption
    | with_reducible exact keeps_refl _
    | (rintro x y (hx : Keeps s y))
    | (rintro x y z w (hx : Keeps s w))
    | (rintro x y z (hx : Keeps s z))
    | (rintro y (hx : Keeps s y))
    | (rintro x y (hx : Keeps s y.1))
    | (rintro x y (hx : Keeps s y.2))
    | with_reducible first | apply onUe_keeps | apply endGo_keeps

theorem execUeProgramStart_keeps (d : Die) (s : State) {s' : State} (h : execUeProgramStart d s = .next s') :
    Keeps s s' := by
  unfold execUeProgramStart at h
  cases h
  repeat' first
    | with_reducible assumption
    | with_reducible exact keeps_refl _
    | (rintro x y (hx : Keeps s y))
    | (rintro x y z w (hx : Keeps s w))
    | (rintro x y z (hx : Keeps s z))
    | (rintro y (hx : Keeps s y))
    | (rintro x y (hx : Keeps s y.1))
    | (rintro x y (hx : Keeps s y.2))
    | with_reducible first | apply ueStart_keeps

theorem execFarSettSignal_keeps (d : Die) (n : Fin 16) (srcMod : Nat) (srcDie : Die) (s : State) {s' : State} (h : execFarSettSignal d n srcMod srcDie s = .next s') :
    Keeps s s' := by
  unfold execFarSettSignal at h
  cases h
  repeat' first
    | with_reducible assumption
    | with_reducible exact keeps_refl _
    | (rintro x y (hx : Keeps s y))
    | (rintro x y z w (hx : Keeps s w))
    | (rintro x y z (hx : Keeps s z))
    | (rintro y (hx : Keeps s y))
    | (rintro x y (hx : Keeps s y.1))
    | (rintro x y (hx : Keeps s y.2))
    | with_reducible first | apply farSignal_keeps
    | with_reducible apply keeps_ite
    | split

theorem execRingFlit_keeps (seg : Fin 16) (crcOk : Bool) (m : RingMsg) (s : State) {s' : State} (h : execRingFlit seg crcOk m s = .next s') :
    Keeps s s' := by
  unfold execRingFlit at h
  cases h
  repeat' first
    | with_reducible assumption
    | with_reducible exact keeps_refl _
    | (rintro x y (hx : Keeps s y))
    | (rintro x y z w (hx : Keeps s w))
    | (rintro x y z (hx : Keeps s z))
    | (rintro y (hx : Keeps s y))
    | (rintro x y (hx : Keeps s y.1))
    | (rintro x y (hx : Keeps s y.2))
    | with_reducible first | apply ringFlit_keeps

theorem execLcopy_keeps (u v : Nat) (st : Strm) (s : State) {s' : State} (h : execLcopy u v st s = .next s') :
    Keeps s s' := by
  unfold execLcopy at h
  cases h
  repeat' first
    | with_reducible assumption
    | with_reducible exact keeps_refl _
    | (rintro x y (hx : Keeps s y))
    | (rintro x y z w (hx : Keeps s w))
    | (rintro x y z (hx : Keeps s z))
    | (rintro y (hx : Keeps s y))
    | (rintro x y (hx : Keeps s y.1))
    | (rintro x y (hx : Keeps s y.2))
    | with_reducible first | apply issue_keeps | apply lcopyRec_keeps

theorem execSend_keeps (u v : Nat) (st : Strm) (s : State) {s' : State} (h : execSend u v st s = .next s') :
    Keeps s s' := by
  unfold execSend at h
  cases h
  repeat' first
    | with_reducible assumption
    | with_reducible exact keeps_refl _
    | (rintro x y (hx : Keeps s y))
    | (rintro x y z w (hx : Keeps s w))
    | (rintro x y z (hx : Keeps s z))
    | (rintro y (hx : Keeps s y))
    | (rintro x y (hx : Keeps s y.1))
    | (rintro x y (hx : Keeps s y.2))
    | with_reducible first | apply issue_keeps | apply sendRec_keeps

theorem execMsend_keeps (u v : Nat) (st : Strm) (s : State) {s' : State} (h : execMsend u v st s = .next s') :
    Keeps s s' := by
  unfold execMsend at h
  cases h
  repeat' first
    | with_reducible assumption
    | with_reducible exact keeps_refl _
    | (rintro x y (hx : Keeps s y))
    | (rintro x y z w (hx : Keeps s w))
    | (rintro x y z (hx : Keeps s z))
    | (rintro y (hx : Keeps s y))
    | (rintro x y (hx : Keeps s y.1))
    | (rintro x y (hx : Keeps s y.2))
    | with_reducible first | apply issue_keeps | apply sendRec_keeps

theorem execRecv_keeps (u v : Nat) (st : Strm) (s : State) {s' : State} (h : execRecv u v st s = .next s') :
    Keeps s s' := by
  unfold execRecv at h
  cases h
  repeat' first
    | with_reducible assumption
    | with_reducible exact keeps_refl _
    | (rintro x y (hx : Keeps s y))
    | (rintro x y z w (hx : Keeps s w))
    | (rintro x y z (hx : Keeps s z))
    | (rintro y (hx : Keeps s y))
    | (rintro x y (hx : Keeps s y.1))
    | (rintro x y (hx : Keeps s y.2))
    | with_reducible first | apply issue_keeps | apply recvRec_keeps

theorem execTileOpComplete_keeps (u v : Nat) (st : Strm) (idx : Nat) (s : State) {s' : State} (h : execTileOpComplete u v st idx s = .next s') :
    Keeps s s' := by
  unfold execTileOpComplete at h
  cases h
  repeat' first
    | with_reducible assumption
    | with_reducible exact keeps_refl _
    | (rintro x y (hx : Keeps s y))
    | (rintro x y z w (hx : Keeps s w))
    | (rintro x y z (hx : Keeps s z))
    | (rintro y (hx : Keeps s y))
    | (rintro x y (hx : Keeps s y.1))
    | (rintro x y (hx : Keeps s y.2))
    | with_reducible first | apply completeOp_keeps

theorem execEccWriteback_keeps (u v word : Nat) (s : State) {s' : State} (h : execEccWriteback u v word s = .next s') :
    Keeps s s' := by
  unfold execEccWriteback at h
  cases h
  repeat' first
    | with_reducible assumption
    | with_reducible exact keeps_refl _
    | (rintro x y (hx : Keeps s y))
    | (rintro x y z w (hx : Keeps s w))
    | (rintro x y z (hx : Keeps s z))
    | (rintro y (hx : Keeps s y))
    | (rintro x y (hx : Keeps s y.1))
    | (rintro x y (hx : Keeps s y.2))
    | with_reducible first | apply setTile_keeps
    | with_reducible apply keeps_ite
    | split

theorem execInboundBlock_keeps (u v : Nat) (bus : Bus) (b : FsBlock) (s : State) {s' : State} (h : execInboundBlock u v bus b s = .next s') :
    Keeps s s' := by
  unfold execInboundBlock at h
  cases h
  repeat' first
    | with_reducible assumption
    | with_reducible exact keeps_refl _
    | (rintro x y (hx : Keeps s y))
    | (rintro x y z w (hx : Keeps s w))
    | (rintro x y z (hx : Keeps s z))
    | (rintro y (hx : Keeps s y))
    | (rintro x y (hx : Keeps s y.1))
    | (rintro x y (hx : Keeps s y.2))
    | with_reducible first | apply inboundAt_keeps

theorem execTapin_keeps (u v : Nat) (st : Strm) (s : State) {s' : State} (h : execTapin u v st s = .next s') :
    Keeps s s' := by
  unfold execTapin at h
  cases h
  repeat' first
    | with_reducible assumption
    | with_reducible exact keeps_refl _
    | (rintro x y (hx : Keeps s y))
    | (rintro x y z w (hx : Keeps s w))
    | (rintro x y z (hx : Keeps s z))
    | (rintro y (hx : Keeps s y))
    | (rintro x y (hx : Keeps s y.1))
    | (rintro x y (hx : Keeps s y.2))
    | with_reducible first | apply issue_keeps | apply tapinRec_keeps

theorem execPreRead_keeps (bus : Bus) (tag seq : Nat) (ecc : EccList) (s : State) {s' : State} (h : execPreRead bus tag seq ecc s = .next s') :
    Keeps s s' := by
  unfold execPreRead at h
  cases h
  repeat' first
    | with_reducible assumption
    | with_reducible exact keeps_refl _
    | (rintro x y (hx : Keeps s y))
    | (rintro x y z w (hx : Keeps s w))
    | (rintro x y z (hx : Keeps s z))
    | (rintro y (hx : Keeps s y))
    | (rintro x y (hx : Keeps s y.1))
    | (rintro x y (hx : Keeps s y.2))
    | with_reducible first | apply preRead_keeps

theorem execBlockInject_keeps (bus : Bus) (tag seq : Nat) (s : State) {s' : State} (h : execBlockInject bus tag seq s = .next s') :
    Keeps s s' := by
  unfold execBlockInject at h
  cases h
  repeat' first
    | with_reducible assumption
    | with_reducible exact keeps_refl _
    | (rintro x y (hx : Keeps s y))
    | (rintro x y z w (hx : Keeps s w))
    | (rintro x y z (hx : Keeps s z))
    | (rintro y (hx : Keeps s y))
    | (rintro x y (hx : Keeps s y.1))
    | (rintro x y (hx : Keeps s y.2))
    | with_reducible first | apply blockInject_keeps

theorem execCollectorBlock_keeps (bus : Bus) (b : FsBlock) (s : State) {s' : State} (h : execCollectorBlock bus b s = .next s') :
    Keeps s s' := by
  unfold execCollectorBlock at h
  cases h
  repeat' first
    | with_reducible assumption
    | with_reducible exact keeps_refl _
    | (rintro x y (hx : Keeps s y))
    | (rintro x y z w (hx : Keeps s w))
    | (rintro x y z (hx : Keeps s z))
    | (rintro y (hx : Keeps s y))
    | (rintro x y (hx : Keeps s y.1))
    | (rintro x y (hx : Keeps s y.2))
    | with_reducible first | apply collectorIn_keeps

theorem execOutboundBlock_keeps (u v : Nat) (bus : Bus) (b : FsBlock) (s : State) {s' : State} (h : execOutboundBlock u v bus b s = .next s') :
    Keeps s s' := by
  unfold execOutboundBlock at h
  cases h
  repeat' first
    | with_reducible assumption
    | with_reducible exact keeps_refl _
    | (rintro x y (hx : Keeps s y))
    | (rintro x y z w (hx : Keeps s w))
    | (rintro x y z (hx : Keeps s z))
    | (rintro y (hx : Keeps s y))
    | (rintro x y (hx : Keeps s y.1))
    | (rintro x y (hx : Keeps s y.2))
    | with_reducible first | apply outboundAt_keeps

theorem execTapout_keeps (u v : Nat) (st : Strm) (s : State) {s' : State} (h : execTapout u v st s = .next s') :
    Keeps s s' := by
  unfold execTapout at h
  cases h
  repeat' first
    | with_reducible assumption
    | with_reducible exact keeps_refl _
    | (rintro x y (hx : Keeps s y))
    | (rintro x y z w (hx : Keeps s w))
    | (rintro x y z (hx : Keeps s z))
    | (rintro y (hx : Keeps s y))
    | (rintro x y (hx : Keeps s y.1))
    | (rintro x y (hx : Keeps s y.2))
    | with_reducible first | apply issue_keeps | apply tapoutRec_keeps

theorem execTickMarkerLaunch_keeps (s : State) {s' : State} (h : execTickMarkerLaunch s = .next s') :
    Keeps s s' := by
  unfold execTickMarkerLaunch at h
  cases h
  repeat' first
    | with_reducible assumption
    | with_reducible exact keeps_refl _
    | (rintro x y (hx : Keeps s y))
    | (rintro x y z w (hx : Keeps s w))
    | (rintro x y z (hx : Keeps s z))
    | (rintro y (hx : Keeps s y))
    | (rintro x y (hx : Keeps s y.1))
    | (rintro x y (hx : Keeps s y.2))
    | lift_lets
    | (intro x; refine keeps_cut (x := x) (a := s) ?_ ?_; subst x; rotate_left; clear_value x; intro hx)
    | (intro x; subst x)
    | simp -zeta only [keeps_upd]
    | with_reducible apply keeps_ite
    | split

theorem execSleepSample_keeps (s : State) {s' : State} (h : execSleepSample s = .next s') :
    Keeps s s' := by
  unfold execSleepSample at h
  cases h
  repeat' first
    | with_reducible assumption
    | with_reducible exact keeps_refl _
    | (rintro x y (hx : Keeps s y))
    | (rintro x y z w (hx : Keeps s w))
    | (rintro x y z (hx : Keeps s z))
    | (rintro y (hx : Keeps s y))
    | (rintro x y (hx : Keeps s y.1))
    | (rintro x y (hx : Keeps s y.2))
    | with_reducible first | apply sleepSample_keeps

theorem execTokAvgOverdraw_keeps (u v : Nat) (s : State) {s' : State} (h : execTokAvgOverdraw u v s = .next s') :
    Keeps s s' := by
  unfold execTokAvgOverdraw at h
  cases h
  repeat' first
    | with_reducible assumption
    | with_reducible exact keeps_refl _
    | (rintro x y (hx : Keeps s y))
    | (rintro x y z w (hx : Keeps s w))
    | (rintro x y z (hx : Keeps s z))
    | (rintro y (hx : Keeps s y))
    | (rintro x y (hx : Keeps s y.1))
    | (rintro x y (hx : Keeps s y.2))
    | with_reducible first | apply tokAvgOverdraw_keeps

theorem execPeakOverdraw_keeps (u v cost : Nat) (s : State) {s' : State} (h : execPeakOverdraw u v cost s = .next s') :
    Keeps s s' := by
  unfold execPeakOverdraw at h
  cases h
  repeat' first
    | with_reducible assumption
    | with_reducible exact keeps_refl _
    | (rintro x y (hx : Keeps s y))
    | (rintro x y z w (hx : Keeps s w))
    | (rintro x y z (hx : Keeps s z))
    | (rintro y (hx : Keeps s y))
    | (rintro x y (hx : Keeps s y.1))
    | (rintro x y (hx : Keeps s y.2))
    | with_reducible first | apply peakOverdraw_keeps

theorem execTickBoundary_keeps (s : State) {s' : State} (h : execTickBoundary s = .next s') :
    Keeps s s' := by
  unfold execTickBoundary at h
  cases h
  repeat' first
    | with_reducible assumption
    | with_reducible exact keeps_refl _
    | (rintro x y (hx : Keeps s y))
    | (rintro x y z w (hx : Keeps s w))
    | (rintro x y z (hx : Keeps s z))
    | (rintro y (hx : Keeps s y))
    | (rintro x y (hx : Keeps s y.1))
    | (rintro x y (hx : Keeps s y.2))
    | with_reducible first | apply tickBoundary_keeps

theorem execLadderDecision_keeps (unit : Nat) (s : State) {s' : State} (h : execLadderDecision unit s = .next s') :
    Keeps s s' := by
  unfold execLadderDecision at h
  cases h
  repeat' first
    | with_reducible assumption
    | with_reducible exact keeps_refl _
    | (rintro x y (hx : Keeps s y))
    | (rintro x y z w (hx : Keeps s w))
    | (rintro x y z (hx : Keeps s z))
    | (rintro y (hx : Keeps s y))
    | (rintro x y (hx : Keeps s y.1))
    | (rintro x y (hx : Keeps s y.2))
    | with_reducible first | apply ladderDecision_keeps

theorem execStepWatchdog_keeps (s : State) {s' : State} (h : execStepWatchdog s = .next s') :
    Keeps s s' := by
  unfold execStepWatchdog at h
  cases h
  repeat' first
    | with_reducible assumption
    | with_reducible exact keeps_refl _
    | (rintro x y (hx : Keeps s y))
    | (rintro x y z w (hx : Keeps s w))
    | (rintro x y z (hx : Keeps s z))
    | (rintro y (hx : Keeps s y))
    | (rintro x y (hx : Keeps s y.1))
    | (rintro x y (hx : Keeps s y.2))
    | with_reducible first | apply stepWatchdog_keeps

theorem execStepBoundary_keeps (s : State) {s' : State} (h : execStepBoundary s = .next s') :
    Keeps s s' := by
  unfold execStepBoundary at h
  cases h
  repeat' first
    | with_reducible assumption
    | with_reducible exact keeps_refl _
    | (rintro x y (hx : Keeps s y))
    | (rintro x y z w (hx : Keeps s w))
    | (rintro x y z (hx : Keeps s z))
    | (rintro y (hx : Keeps s y))
    | (rintro x y (hx : Keeps s y.1))
    | (rintro x y (hx : Keeps s y.2))
    | with_reducible first | apply stepBoundary_keeps

theorem execLoad_keeps (rq : Req) (s : State) {s' : State} (h : execLoad rq s = .next s') :
    Keeps s s' := by
  unfold execLoad at h
  cases h
  repeat' first
    | with_reducible assumption
    | with_reducible exact keeps_refl _
    | (rintro x y (hx : Keeps s y))
    | (rintro x y z w (hx : Keeps s w))
    | (rintro x y z (hx : Keeps s z))
    | (rintro y (hx : Keeps s y))
    | (rintro x y (hx : Keeps s y.1))
    | (rintro x y (hx : Keeps s y.2))
    | with_reducible first | apply barWrite_keeps | apply load_keeps

theorem execLoadComplete_keeps (s : State) {s' : State} (h : execLoadComplete s = .next s') :
    Keeps s s' := by
  unfold execLoadComplete at h
  cases h
  repeat' first
    | with_reducible assumption
    | with_reducible exact keeps_refl _
    | (rintro x y (hx : Keeps s y))
    | (rintro x y z w (hx : Keeps s w))
    | (rintro x y z (hx : Keeps s z))
    | (rintro y (hx : Keeps s y))
    | (rintro x y (hx : Keeps s y.1))
    | (rintro x y (hx : Keeps s y.2))
    | with_reducible first | apply loadComplete_keeps

theorem execRun_keeps (rq : Req) (s : State) {s' : State} (h : execRun rq s = .next s') :
    Keeps s s' := by
  unfold execRun at h
  cases h
  repeat' first
    | with_reducible assumption
    | with_reducible exact keeps_refl _
    | (rintro x y (hx : Keeps s y))
    | (rintro x y z w (hx : Keeps s w))
    | (rintro x y z (hx : Keeps s z))
    | (rintro y (hx : Keeps s y))
    | (rintro x y (hx : Keeps s y.1))
    | (rintro x y (hx : Keeps s y.2))
    | with_reducible first | apply barWrite_keeps | apply run_keeps

theorem execHalt_keeps (rq : Req) (s : State) {s' : State} (h : execHalt rq s = .next s') :
    Keeps s s' := by
  unfold execHalt at h
  cases h
  repeat' first
    | with_reducible assumption
    | with_reducible exact keeps_refl _
    | (rintro x y (hx : Keeps s y))
    | (rintro x y z w (hx : Keeps s w))
    | (rintro x y z (hx : Keeps s z))
    | (rintro y (hx : Keeps s y))
    | (rintro x y (hx : Keeps s y.1))
    | (rintro x y (hx : Keeps s y.2))
    | with_reducible first | apply barWrite_keeps | apply halt_keeps

theorem execResume_keeps (rq : Req) (s : State) {s' : State} (h : execResume rq s = .next s') :
    Keeps s s' := by
  unfold execResume at h
  cases h
  repeat' first
    | with_reducible assumption
    | with_reducible exact keeps_refl _
    | (rintro x y (hx : Keeps s y))
    | (rintro x y z w (hx : Keeps s w))
    | (rintro x y z (hx : Keeps s z))
    | (rintro y (hx : Keeps s y))
    | (rintro x y (hx : Keeps s y.1))
    | (rintro x y (hx : Keeps s y.2))
    | with_reducible first | apply barWrite_keeps | apply resume_keeps

theorem execSettProbeComplete_keeps (silent : List (Nat × Nat)) (s : State) {s' : State} (h : execSettProbeComplete silent s = .next s') :
    Keeps s s' := by
  unfold execSettProbeComplete at h
  cases h
  repeat' first
    | with_reducible assumption
    | with_reducible exact keeps_refl _
    | (rintro x y (hx : Keeps s y))
    | (rintro x y z w (hx : Keeps s w))
    | (rintro x y z (hx : Keeps s z))
    | (rintro y (hx : Keeps s y))
    | (rintro x y (hx : Keeps s y.1))
    | (rintro x y (hx : Keeps s y.2))
    | with_reducible first | apply settProbe_keeps

theorem execDiagnosisComplete_keeps (failed : List (Nat × Nat)) (s : State) {s' : State} (h : execDiagnosisComplete failed s = .next s') :
    Keeps s s' := by
  unfold execDiagnosisComplete at h
  cases h
  repeat' first
    | with_reducible assumption
    | with_reducible exact keeps_refl _
    | (rintro x y (hx : Keeps s y))
    | (rintro x y z w (hx : Keeps s w))
    | (rintro x y z (hx : Keeps s z))
    | (rintro y (hx : Keeps s y))
    | (rintro x y (hx : Keeps s y.1))
    | (rintro x y (hx : Keeps s y.2))
    | with_reducible first | apply diagnosed_keeps

theorem execReplacementComplete_keeps (s : State) {s' : State} (h : execReplacementComplete s = .next s') :
    Keeps s s' := by
  unfold execReplacementComplete at h
  cases h
  repeat' first
    | with_reducible assumption
    | with_reducible exact keeps_refl _
    | (rintro x y (hx : Keeps s y))
    | (rintro x y z w (hx : Keeps s w))
    | (rintro x y z (hx : Keeps s z))
    | (rintro y (hx : Keeps s y))
    | (rintro x y (hx : Keeps s y.1))
    | (rintro x y (hx : Keeps s y.2))
    | with_reducible first | apply replaced_keeps

theorem execRejoin_keeps (rq : Req) (own : Bool) (s : State) {s' : State} (h : execRejoin rq own s = .next s') :
    Keeps s s' := by
  unfold execRejoin at h
  cases h
  repeat' first
    | with_reducible assumption
    | with_reducible exact keeps_refl _
    | (rintro x y (hx : Keeps s y))
    | (rintro x y z w (hx : Keeps s w))
    | (rintro x y z (hx : Keeps s z))
    | (rintro y (hx : Keeps s y))
    | (rintro x y (hx : Keeps s y.1))
    | (rintro x y (hx : Keeps s y.2))
    | with_reducible first | apply barWrite_keeps | apply rejoin_keeps

theorem execRecover_keeps (rq : Req) (s : State) {s' : State} (h : execRecover rq s = .next s') :
    Keeps s s' := by
  unfold execRecover at h
  cases h
  repeat' first
    | with_reducible assumption
    | with_reducible exact keeps_refl _
    | (rintro x y (hx : Keeps s y))
    | (rintro x y z w (hx : Keeps s w))
    | (rintro x y z (hx : Keeps s z))
    | (rintro y (hx : Keeps s y))
    | (rintro x y (hx : Keeps s y.1))
    | (rintro x y (hx : Keeps s y.2))
    | with_reducible first | apply barWrite_keeps | apply recover_keeps

theorem execAbandon_keeps (rq : Req) (s : State) {s' : State} (h : execAbandon rq s = .next s') :
    Keeps s s' := by
  unfold execAbandon at h
  cases h
  repeat' first
    | with_reducible assumption
    | with_reducible exact keeps_refl _
    | (rintro x y (hx : Keeps s y))
    | (rintro x y z w (hx : Keeps s w))
    | (rintro x y z (hx : Keeps s z))
    | (rintro y (hx : Keeps s y))
    | (rintro x y (hx : Keeps s y.1))
    | (rintro x y (hx : Keeps s y.2))
    | with_reducible first | apply barWrite_keeps | apply abandon_keeps

theorem execEnWrite_keeps (rq : Req) (pg : Page) (b : Bool) (s : State) {s' : State} (h : execEnWrite rq pg b s = .next s') :
    Keeps s s' := by
  unfold execEnWrite at h
  cases h
  repeat' first
    | with_reducible assumption
    | with_reducible exact keeps_refl _
    | (rintro x y (hx : Keeps s y))
    | (rintro x y z w (hx : Keeps s w))
    | (rintro x y z (hx : Keeps s z))
    | (rintro y (hx : Keeps s y))
    | (rintro x y (hx : Keeps s y.1))
    | (rintro x y (hx : Keeps s y.2))
    | with_reducible first | apply barWrite_keeps | apply enWrite_keeps

theorem execSrst_keeps (rq : Req) (pg : Page) (s : State) {s' : State} (h : execSrst rq pg s = .next s') :
    Keeps s s' := by
  unfold execSrst at h
  cases h
  repeat' first
    | with_reducible assumption
    | with_reducible exact keeps_refl _
    | (rintro x y (hx : Keeps s y))
    | (rintro x y z w (hx : Keeps s w))
    | (rintro x y z (hx : Keeps s z))
    | (rintro y (hx : Keeps s y))
    | (rintro x y (hx : Keeps s y.1))
    | (rintro x y (hx : Keeps s y.2))
    | with_reducible first | apply barWrite_keeps | apply softReset_keeps

theorem execSoftResetComplete_keeps (pg : Page) (s : State) {s' : State} (h : execSoftResetComplete pg s = .next s') :
    Keeps s s' := by
  unfold execSoftResetComplete at h
  cases h
  repeat' first
    | with_reducible assumption
    | with_reducible exact keeps_refl _
    | (rintro x y (hx : Keeps s y))
    | (rintro x y z w (hx : Keeps s w))
    | (rintro x y z (hx : Keeps s z))
    | (rintro y (hx : Keeps s y))
    | (rintro x y (hx : Keeps s y.1))
    | (rintro x y (hx : Keeps s y.2))
    | with_reducible first | apply softResetDone_keeps

theorem execRegisterWrite_keeps (rq : Req) (off : Nat) (v : W32) (s : State) {s' : State} (h : execRegisterWrite rq off v s = .next s') :
    Keeps s s' := by
  unfold execRegisterWrite at h
  repeat' split at h
  all_goals cases h
  all_goals
    repeat' first
      | with_reducible assumption
      | with_reducible exact keeps_refl _
      | (rintro x y (hx : Keeps s y))
      | (rintro x y z w (hx : Keeps s w))
      | (rintro x y z (hx : Keeps s z))
      | (rintro y (hx : Keeps s y))
      | (rintro x y (hx : Keeps s y.1))
      | (rintro x y (hx : Keeps s y.2))
      | with_reducible first | apply barWrite_keeps | apply busWrite_keeps
      | with_reducible apply keeps_ite
      | split

theorem execBar0NarrowWrite_keeps (rq : Req) (off : Nat) (w : BarWrite) (s : State) {s' : State} (h : execBar0NarrowWrite rq off w s = .next s') :
    Keeps s s' := by
  unfold execBar0NarrowWrite at h
  repeat' split at h
  all_goals cases h
  all_goals
    repeat' first
      | with_reducible assumption
      | with_reducible exact keeps_refl _
      | (rintro x y (hx : Keeps s y))
      | (rintro x y z w (hx : Keeps s w))
      | (rintro x y z (hx : Keeps s z))
      | (rintro y (hx : Keeps s y))
      | (rintro x y (hx : Keeps s y.1))
      | (rintro x y (hx : Keeps s y.2))
      | with_reducible first | apply accErrAt_keeps | apply barWrite_keeps | apply logPoison_keeps
      | with_reducible apply keeps_ite
      | split

theorem execBar0NarrowRead_keeps (rq : Req) (off width : Nat) (s : State) {s' : State} (h : execBar0NarrowRead rq off width s = .next s') :
    Keeps s s' := by
  unfold execBar0NarrowRead at h
  repeat' split at h
  all_goals cases h
  all_goals
    repeat' first
      | with_reducible assumption
      | with_reducible exact keeps_refl _
      | (rintro x y (hx : Keeps s y))
      | (rintro x y z w (hx : Keeps s w))
      | (rintro x y z (hx : Keeps s z))
      | (rintro y (hx : Keeps s y))
      | (rintro x y (hx : Keeps s y.1))
      | (rintro x y (hx : Keeps s y.2))
      | with_reducible first | apply barRead_keeps | apply narrowRead_keeps
      | with_reducible apply keeps_ite
      | split

theorem execLowerHalfRead_keeps (rq : Req) (off : Nat) (s : State) {s' : State} (h : execLowerHalfRead rq off s = .next s') :
    Keeps s s' := by
  unfold execLowerHalfRead at h
  repeat' split at h
  all_goals cases h
  all_goals
    repeat' first
      | with_reducible assumption
      | with_reducible exact keeps_refl _
      | (rintro x y (hx : Keeps s y))
      | (rintro x y z w (hx : Keeps s w))
      | (rintro x y z (hx : Keeps s z))
      | (rintro y (hx : Keeps s y))
      | (rintro x y (hx : Keeps s y.1))
      | (rintro x y (hx : Keeps s y.2))
      | with_reducible first | apply barRead_keeps | apply readOut_keeps
      | with_reducible apply keeps_ite
      | split

theorem execUpperHalfRead_keeps (rq : Req) (off : Nat) (s : State) {s' : State} (h : execUpperHalfRead rq off s = .next s') :
    Keeps s s' := by
  unfold execUpperHalfRead at h
  repeat' split at h
  all_goals cases h
  all_goals
    repeat' first
      | with_reducible assumption
      | with_reducible exact keeps_refl _
      | (rintro x y (hx : Keeps s y))
      | (rintro x y z w (hx : Keeps s w))
      | (rintro x y z (hx : Keeps s z))
      | (rintro y (hx : Keeps s y))
      | (rintro x y (hx : Keeps s y.1))
      | (rintro x y (hx : Keeps s y.2))
      | with_reducible first | apply barRead_keeps | apply readOut_keeps
      | with_reducible apply keeps_ite
      | split

theorem execLowerHalfWrite_keeps (rq : Req) (off : Nat) (v : W32) (s : State) {s' : State} (h : execLowerHalfWrite rq off v s = .next s') :
    Keeps s s' := by
  unfold execLowerHalfWrite at h
  repeat' split at h
  all_goals cases h
  all_goals
    repeat' first
      | with_reducible assumption
      | with_reducible exact keeps_refl _
      | (rintro x y (hx : Keeps s y))
      | (rintro x y z w (hx : Keeps s w))
      | (rintro x y z (hx : Keeps s z))
      | (rintro y (hx : Keeps s y))
      | (rintro x y (hx : Keeps s y.1))
      | (rintro x y (hx : Keeps s y.2))
      | with_reducible first | apply barWrite_keeps | apply busWrite_keeps
      | with_reducible apply keeps_ite
      | split

theorem execUpperHalfWrite_keeps (rq : Req) (off : Nat) (v : W32) (s : State) {s' : State} (h : execUpperHalfWrite rq off v s = .next s') :
    Keeps s s' := by
  unfold execUpperHalfWrite at h
  repeat' split at h
  all_goals cases h
  all_goals
    repeat' first
      | with_reducible assumption
      | with_reducible exact keeps_refl _
      | (rintro x y (hx : Keeps s y))
      | (rintro x y z w (hx : Keeps s w))
      | (rintro x y z (hx : Keeps s z))
      | (rintro y (hx : Keeps s y))
      | (rintro x y (hx : Keeps s y.1))
      | (rintro x y (hx : Keeps s y.2))
      | with_reducible first | apply barWrite_keeps | apply busWrite_keeps
      | with_reducible apply keeps_ite
      | split

theorem execRcFieldRead_keeps (rq : Req) (off : Nat) (mask ev : W32) (s : State) {s' : State} (h : execRcFieldRead rq off mask ev s = .next s') :
    Keeps s s' := by
  unfold execRcFieldRead at h
  repeat' split at h
  all_goals cases h
  all_goals
    repeat' first
      | with_reducible assumption
      | with_reducible exact keeps_refl _
      | (rintro x y (hx : Keeps s y))
      | (rintro x y z w (hx : Keeps s w))
      | (rintro x y z (hx : Keeps s z))
      | (rintro y (hx : Keeps s y))
      | (rintro x y (hx : Keeps s y.1))
      | (rintro x y (hx : Keeps s y.2))
      | with_reducible first | apply barRead_keeps | apply rcRead_keeps
      | with_reducible apply keeps_ite
      | split

theorem execTileWindowRead_keeps (rq : Req) (off : Nat) (s : State) {s' : State} (h : execTileWindowRead rq off s = .next s') :
    Keeps s s' := by
  unfold execTileWindowRead at h
  repeat' split at h
  all_goals cases h
  all_goals
    repeat' first
      | with_reducible assumption
      | with_reducible exact keeps_refl _
      | (rintro x y (hx : Keeps s y))
      | (rintro x y z w (hx : Keeps s w))
      | (rintro x y z (hx : Keeps s z))
      | (rintro y (hx : Keeps s y))
      | (rintro x y (hx : Keeps s y.1))
      | (rintro x y (hx : Keeps s y.2))
      | lift_lets
      | (intro x; refine keeps_cut (x := x) (a := s) ?_ ?_; subst x; rotate_left; clear_value x; intro hx)
      | (intro x; subst x)
      | with_reducible first | apply emit_keeps | apply readView_keeps | apply barRead_keeps | apply atView_keeps
      | with_reducible apply keeps_ite
      | split

theorem execWindowReadTimeout_keeps (rq : Req) (off : Nat) (s : State) {s' : State} (h : execWindowReadTimeout rq off s = .next s') :
    Keeps s s' := by
  unfold execWindowReadTimeout at h
  repeat' split at h
  all_goals cases h
  all_goals
    repeat' first
      | with_reducible assumption
      | with_reducible exact keeps_refl _
      | (rintro x y (hx : Keeps s y))
      | (rintro x y z w (hx : Keeps s w))
      | (rintro x y z (hx : Keeps s z))
      | (rintro y (hx : Keeps s y))
      | (rintro x y (hx : Keeps s y.1))
      | (rintro x y (hx : Keeps s y.2))
      | with_reducible first | apply barRead_keeps | apply atView_keeps | apply windowTimeout_keeps
      | with_reducible apply keeps_ite
      | split

theorem execTileWindowWrite_keeps (rq : Req) (off : Nat) (v : W32) (s : State) {s' : State} (h : execTileWindowWrite rq off v s = .next s') :
    Keeps s s' := by
  unfold execTileWindowWrite at h
  repeat' split at h
  all_goals cases h
  all_goals
    repeat' first
      | with_reducible assumption
      | with_reducible exact keeps_refl _
      | (rintro x y (hx : Keeps s y))
      | (rintro x y z w (hx : Keeps s w))
      | (rintro x y z (hx : Keeps s z))
      | (rintro y (hx : Keeps s y))
      | (rintro x y (hx : Keeps s y.1))
      | (rintro x y (hx : Keeps s y.2))
      | with_reducible first | apply barWrite_keeps | apply writeView_keeps | apply atView_keeps
      | with_reducible apply keeps_ite
      | split

theorem execSmbusRegisterRead_keeps (off : Nat) (s : State) {s' : State} (h : execSmbusRegisterRead off s = .next s') :
    Keeps s s' := by
  unfold execSmbusRegisterRead at h
  cases h
  repeat' first
    | with_reducible assumption
    | with_reducible exact keeps_refl _
    | (rintro x y (hx : Keeps s y))
    | (rintro x y z w (hx : Keeps s w))
    | (rintro x y z (hx : Keeps s z))
    | (rintro y (hx : Keeps s y))
    | (rintro x y (hx : Keeps s y.1))
    | (rintro x y (hx : Keeps s y.2))
    | with_reducible first | apply mctpReq_keeps | apply smbusRead_keeps

theorem execSmbusRegisterWrite_keeps (off : Nat) (v : W32) (s : State) {s' : State} (h : execSmbusRegisterWrite off v s = .next s') :
    Keeps s s' := by
  unfold execSmbusRegisterWrite at h
  cases h
  repeat' first
    | with_reducible assumption
    | with_reducible exact keeps_refl _
    | (rintro x y (hx : Keeps s y))
    | (rintro x y z w (hx : Keeps s w))
    | (rintro x y z (hx : Keeps s z))
    | (rintro y (hx : Keeps s y))
    | (rintro x y (hx : Keeps s y.1))
    | (rintro x y (hx : Keeps s y.2))
    | with_reducible first | apply mctpReq_keeps | apply smbusWrite_keeps

theorem execDbgaccComplete_keeps (s : State) {s' : State} (h : execDbgaccComplete s = .next s') :
    Keeps s s' := by
  unfold execDbgaccComplete at h
  cases h
  repeat' first
    | with_reducible assumption
    | with_reducible exact keeps_refl _
    | (rintro x y (hx : Keeps s y))
    | (rintro x y z w (hx : Keeps s w))
    | (rintro x y z (hx : Keeps s z))
    | (rintro y (hx : Keeps s y))
    | (rintro x y (hx : Keeps s y.1))
    | (rintro x y (hx : Keeps s y.2))
    | lift_lets
    | (intro x; refine keeps_cut (x := x) (a := s) ?_ ?_; subst x; rotate_left; clear_value x; intro hx)
    | (intro x; subst x)
    | simp -zeta only [keeps_upd]
    | with_reducible first | apply dbgaccDone_keeps
    | with_reducible apply keeps_ite
    | split

end Sys2Proof.Machine
end

