-- ==== Sys2Proof/Laws/Shared.lean ====
section
/-! SUPPORT. What the operations that many commands share can do: ledger items, faults, issuing a record, the rights of a
requester (17 R498 to R500, 06 R188, 15 R430, 07 R217, 16 Table 16.5). -/

namespace Sys2Proof.Machine

/-- May the key of a register belong to the event controller's page, the host-DMA page or a page of a die? -/
def ledgerKey (k : Nat) : Prop := onEvc k ∨ (0xA000 ≤ k ∧ k < 0xB000) ∨ 0x100000 ≤ k

/-- `t` is `s` after ledger items and events: the store, the ledger's counters, the event controller and messages. -/
def LedgerOnly (s t : State) : Prop :=
  ∃ r e o h p q a b c d f g,
    t = { s with regs := r, evc := e, out := o, hbm := h, poison := p, cipher := q, iseq := a
                 stepItems := b, stepLost := c, lostFirst := d, lostN := f, aheadItems := g } ∧
    ∀ k, ¬ ledgerKey k → rget r k = rget s.regs k

theorem ledgerOnly_refl (s : State) : LedgerOnly s s :=
  ⟨s.regs, s.evc, s.out, s.hbm, s.poison, s.cipher, s.iseq, s.stepItems, s.stepLost, s.lostFirst, s.lostN, s.aheadItems, rfl, fun _ _ => rfl⟩

theorem ledgerOnly_trans {a b c : State} (h : LedgerOnly a b) (g : LedgerOnly b c) : LedgerOnly a c := by
  obtain ⟨_, _, _, _, _, _, _, _, _, _, _, _, rfl, h2⟩ := h
  obtain ⟨r, e, o, hb, p, q, x, y, z, w, v, u, rfl, g2⟩ := g
  exact ⟨r, e, o, hb, p, q, x, y, z, w, v, u, rfl, fun k hk => (g2 k hk).trans (h2 k hk)⟩

theorem ledgerOnly_events {s t : State} (h : OnlyEvents s t) : LedgerOnly s t := by
  obtain ⟨e, r, o, rfl, h2⟩ := h
  exact ⟨r, e, o, s.hbm, s.poison, s.cipher, s.iseq, s.stepItems, s.stepLost, s.lostFirst, s.lostN, s.aheadItems, rfl,
    fun k hk => h2 k fun c => hk (.inl c)⟩

theorem ledgerOnly_counters (s : State) (a b c d f g : Nat) :
    LedgerOnly s { s with iseq := a, stepItems := b, stepLost := c, lostFirst := d, lostN := f, aheadItems := g } :=
  ⟨s.regs, s.evc, s.out, s.hbm, s.poison, s.cipher, a, b, c, d, f, g, rfl, fun _ _ => rfl⟩

theorem ledgerOnly_setReg (pg : Page) (o : Nat) (v : W32) (s : State) (h : ledgerKey (pageBase pg + o)) :
    LedgerOnly s (setReg pg o v s) :=
  ⟨_, s.evc, s.out, s.hbm, s.poison, s.cipher, s.iseq, s.stepItems, s.stepLost, s.lostFirst, s.lostN, s.aheadItems, rfl,
    fun _ hk => rget_rput_ne v s.regs fun e => hk (e ▸ h)⟩

theorem ledgerOnly_bump (pg : Page) (o n : Nat) (s : State) (h : ledgerKey (pageBase pg + o)) :
    LedgerOnly s (bump pg o s n) := by
  unfold bump
  split
  · exact ledgerOnly_refl s
  · exact ledgerOnly_setReg pg o _ s h

theorem ledgerOnly_hbmWrite (a : Nat) (bs : List Byte) (s : State) : LedgerOnly s (hbmWrite a bs s) := by
  unfold hbmWrite
  dsimp only
  generalize (((sectorsOf a bs.length).filter _).foldl _ _ : SMap Bool) = m
  refine ledgerOnly_trans (b := putBytes a bs { s with poison := m }) ?_ (ledgerOnly_bump _ _ _ _ (.inr (.inr ?_)))
  · obtain ⟨h, c, e⟩ := putBytes_shape a bs { s with poison := m }
    rw [e]
    exact ⟨s.regs, s.evc, s.out, h, m, c, s.iseq, s.stepItems, s.stepLost, s.lostFirst, s.lostN, s.aheadItems, rfl, fun _ _ => rfl⟩
  · simp only [pageBase]; omega

theorem ledgerOnly_setReg64 (o v : Nat) (s : State) (h : o + 4 < 0x1000) : LedgerOnly s (setReg64 .hdm o v s) :=
  ledgerOnly_trans (ledgerOnly_setReg .hdm o _ s (.inr (.inl (by simp only [pageBase]; omega))))
    (ledgerOnly_setReg .hdm (o + 4) _ _ (.inr (.inl (by simp only [pageBase]; omega))))

theorem ledgerOnly_writePad (base size len : Nat) (s : State) : LedgerOnly s (writePad base size len s) := by
  unfold writePad
  dsimp only
  split
  · exact ledgerOnly_refl s
  · exact ledgerOnly_trans (ledgerOnly_hbmWrite _ _ s) (ledgerOnly_setReg64 0x15C _ _ (by omega))

theorem ledgerOnly_writeItem (base size step typ : Nat) (body : List Byte) (s : State) :
    LedgerOnly s (writeItem base size step typ body s) := by
  unfold writeItem
  dsimp only
  have h1 := ledgerOnly_writePad base size (32 + body.length) s
  generalize writePad base size (32 + body.length) s = w at h1 ⊢
  have h2 := ledgerOnly_hbmWrite (base + ldgWr w % size) (itemHeader w step typ (32 + body.length) ++ body) w
  generalize hbmWrite (base + ldgWr w % size) (itemHeader w step typ (32 + body.length) ++ body) w = x at h2 ⊢
  exact ledgerOnly_trans (ledgerOnly_trans h1 h2)
    (ledgerOnly_trans (ledgerOnly_counters x _ _ _ _ _ _) (ledgerOnly_setReg64 0x15C _ _ (by omega)))

theorem ledgerOnly_setErr (pg : Page) (n : Nat) (s : State) (h : ledgerKey (pageBase pg + 0x010)) :
    LedgerOnly s (setErr pg n s) :=
  ledgerOnly_trans (ledgerOnly_setReg pg 0x010 _ s h) (ledgerOnly_events (onlyEvents_setErr pg n s))

theorem ledgerOnly_loseItem (s : State) : LedgerOnly s (loseItem s) := by
  unfold loseItem
  have h1 := ledgerOnly_trans (ledgerOnly_bump .hdm 0x16C 1 s (.inr (.inl (by simp only [pageBase]; omega))))
    (ledgerOnly_setErr .hdm 3 _ (.inr (.inl (by simp only [pageBase]; omega))))
  dsimp only
  generalize setErr .hdm 3 (bump .hdm 0x16C s) = x at h1 ⊢
  exact ledgerOnly_trans h1 (ledgerOnly_counters x _ _ _ _ _ _)

theorem ledgerOnly_writeLost (s : State) : LedgerOnly s (writeLost s) := by
  unfold writeLost
  split
  · exact ledgerOnly_refl s
  · split
    · exact ledgerOnly_trans (ledgerOnly_writeItem _ _ _ _ _ s) (ledgerOnly_counters _ _ _ _ _ _ _)
    · exact ledgerOnly_refl s

/-- A ledger item changes nothing beside the store, the ledger's counters and the event controller (17 R498 to R500). -/
theorem ledgerOnly_ledgerItemOf (step typ : Nat) (body : List Byte) (s : State) :
    LedgerOnly s (ledgerItemOf step typ body s) := by
  unfold ledgerItemOf
  split
  · exact ledgerOnly_refl s
  · dsimp only
    split
    · exact ledgerOnly_trans (ledgerOnly_writeLost s) (ledgerOnly_writeItem _ _ _ _ _ _)
    · exact ledgerOnly_trans (ledgerOnly_writeLost s) (ledgerOnly_loseItem _)

theorem ledgerOnly_faultItem (cls cause : Nat) (sus : List (Nat × Nat)) (s : State) :
    LedgerOnly s (faultItem cls cause sus s) := ledgerOnly_ledgerItemOf _ _ _ s

theorem ledgerOnly_reg {s t : State} (h : LedgerOnly s t) {pg : Page} {o : Nat} (hk : ¬ ledgerKey (pageBase pg + o)) :
    reg t pg o = reg s pg o := by
  obtain ⟨_, _, _, _, _, _, _, _, _, _, _, _, rfl, h2⟩ := h
  exact h2 _ hk

theorem ledgerOnly_asqReg {s t : State} (h : LedgerOnly s t) {o : Nat} (ho : o < 0x1000) : reg t .asq o = reg s .asq o := by
  refine ledgerOnly_reg h ?_
  unfold ledgerKey onEvc
  simp only [pageBase]
  omega

/-! Issuing a record (07 R195, R217). -/

/-- The next record of a stream issues when it has the command's op code and no fence holds it. -/
theorem issue_next {s : State} {u v : Nat} {st : Strm} {opc k : Nat} {i : Img} {r : OpRec}
    (f : Img → Nat → OpRec → State → State) (h : nextRec s u v st = some (i, k, r)) (ho : r.opc = opc)
    (hd : strmDone (tile s u v) st = true) :
    issue u v st opc f s = f i k r (setTile u v (stepPast s.now st r (tile s u v)) s) := by
  simp [issue, h, ho, hd]

/-- A record that waits at a fence (R217). -/
theorem issue_fence {s : State} {u v : Nat} {st : Strm} {opc k : Nat} {i : Img} {r : OpRec}
    (f : Img → Nat → OpRec → State → State) (h : nextRec s u v st = some (i, k, r)) (ho : r.opc = opc)
    (hf : r.fence = true ∨ opc = 0x01) (hd : strmDone (tile s u v) st = false) :
    issue u v st opc f s = setTile u v (setCtx st { getCtx (tile s u v) st with fenceWait := true } (tile s u v)) s := by
  rcases hf with hf | hf <;> simp [issue, h, ho, hd, hf]

/-- A stream with no record that may issue. -/
theorem issue_none {s : State} {u v : Nat} {st : Strm} (opc : Nat) (f : Img → Nat → OpRec → State → State)
    (h : nextRec s u v st = none) : issue u v st opc f s = s := by
  simp [issue, h]

/-! The rights of a requester (16 Table 16.5). -/

theorem barWrite_may {rq : Req} {s : State} (f : State → State) (h : MayWrite rq s) : barWrite rq f s = f s := by
  obtain ⟨h1, h2⟩ := h
  have h3 : ¬ (rq = .dbgacc ∧ accSet s ≠ .i) := fun h => h.2 (h2 h.1)
  simp only [barWrite, h1, h3, Bool.not_true, Bool.false_eq_true, if_false]

theorem barRead_may {rq : Req} {s : State} (f : State → State) (h : MayRead rq s) : barRead rq f s = f s := by
  obtain ⟨h1, h2⟩ := h
  have h3 : ¬ (rq = .dbgacc ∧ accSet s = .n) := fun h => (h2 h.1) h.2
  simp only [barRead, h1, h3, Bool.not_true, Bool.false_eq_true, if_false]

/-! Contract faults (06 R188). -/

theorem recordCause_shape (cause u v detail : Nat) (s : State) : ∃ r, recordCause cause u v detail s = { s with regs := r } := by
  have two : ∀ (o : Nat) (n : Nat) (a : State), ∃ r, setReg64 .asq o n a = { a with regs := r } := fun o n a => ⟨_, rfl⟩
  unfold recordCause
  split
  · exact ⟨s.regs, rfl⟩
  · dsimp only
    obtain ⟨r, h⟩ := two 0x070 (runTick (setReg .asq 0x06C (w32 (u % 2 ^ 16 + 2 ^ 16 * v)) (setReg .asq 0x068 (w32 (2 ^ 31 + cause)) s)))
      (setReg .asq 0x06C (w32 (u % 2 ^ 16 + 2 ^ 16 * v)) (setReg .asq 0x068 (w32 (2 ^ 31 + cause)) s))
    rw [h]
    exact ⟨rput (pageBase .asq + 0x078) (w32 detail) r, rfl⟩

/-- FAULT_CAUSE takes the first fault only (06 R188), and no register but the fault record changes. -/
theorem recordCause_reg (cause u v detail : Nat) (s : State) (o : Nat) (ho : o < 0x068 ∨ 0x078 < o) :
    reg (recordCause cause u v detail s) .asq o = reg s .asq o := by
  unfold recordCause
  split
  · rfl
  · unfold setReg64
    repeat rw [reg_setReg_off _ _ _ (by omega)]

theorem recordCause_first {s : State} (cause u v detail : Nat) (h : faultValid s = false) :
    reg (recordCause cause u v detail s) .asq 0x068 = w32 (2 ^ 31 + cause) := by
  unfold recordCause
  rw [if_neg (by simp [h])]
  unfold setReg64
  repeat rw [reg_setReg_off _ _ _ (by omega)]
  exact reg_setReg_same _ _ _ _

theorem recordCause_later {s : State} (cause u v detail : Nat) (h : faultValid s = true) :
    recordCause cause u v detail s = s := by
  unfold recordCause
  rw [if_pos h]

/-- The sequencer once a halt has been called while no load runs: it falls due while ticks run, and the step is voided. -/
def calledAsq (s : State) : Asq :=
  if moving s then { s.asq with haltPend := true, voided := true, halted := true, haltHops := s.asq.haltHops + 1 }
  else if s.run = .halt then { s.asq with voided := true, haltPend := s.asq.haltPend || s.busy = some .resume }
  else s.asq

theorem callHalt_spec {s : State} (h : s.loading = false) : callHalt s = { s with asq := calledAsq s } := by
  unfold callHalt calledAsq
  split
  · rfl
  · split
    · rfl
    · rw [if_neg (by simp [h])]

theorem haltAt_spec (u v : Nat) (s : State) : ∃ l, haltAt u v s = { s with asq := { s.asq with haltFrom := l } } := by
  unfold haltAt
  split
  · exact ⟨_, rfl⟩
  · exact ⟨s.asq.haltFrom, rfl⟩

/-- What a contract fault does while no load runs: its ASQ error bit, the record of the first fault, a halt at the next boundary when
ticks run, the FAULT item; no tile and no image changes. -/
theorem contractFault_spec (cause u v detail : Nat) (s : State) (hc : cause < 32) (hl : s.loading = false) :
    (contractFault cause u v detail s).asq =
      { calledAsq s with haltFrom := (haltAt u v s).asq.haltFrom, contract := s.run ≠ .fault } ∧
    bitOf (reg (contractFault cause u v detail s) .asq 0x010) cause = true ∧
    (contractFault cause u v detail s).tiles = s.tiles ∧ (contractFault cause u v detail s).image = s.image ∧
    (contractFault cause u v detail s).run = s.run ∧ (contractFault cause u v detail s).dies = s.dies ∧
    (faultValid s = false → reg (contractFault cause u v detail s) .asq 0x068 = w32 (2 ^ 31 + cause)) ∧
    (faultValid s = true → reg (contractFault cause u v detail s) .asq 0x068 = reg s .asq 0x068) ∧
    (pageFrz s .asq = false → reg (contractFault cause u v detail s) .asq 0x07C = satInc (reg s .asq 0x07C)) := by
  obtain ⟨l, hl0⟩ := haltAt_spec u v s
  unfold contractFault
  dsimp only
  rw [hl0]
  obtain ⟨s1, e1⟩ : ∃ s1 : State, s1 = { s with asq := { s.asq with haltFrom := l } } := ⟨_, rfl⟩
  have hb := setErr_bit .asq hc s1
  have ho : ∀ o, o ≠ 0x010 → reg (setErr .asq cause s1) .asq o = reg s .asq o := by
    intro o h
    rw [onlyEvents_reg (onlyEvents_setErr .asq cause s1) (by unfold onEvc; simp only [pageBase]; omega), e1]
    exact reg_setReg_off _ _ _ h
  have ha : (setErr .asq cause s1).asq = { s.asq with haltFrom := l } := by rw [setErr_asq, e1]
  have ht : (setErr .asq cause s1).tiles = s.tiles := by rw [setErr_tiles, e1]
  have hi : (setErr .asq cause s1).image = s.image := by rw [setErr_image, e1]
  have hr : (setErr .asq cause s1).run = s.run := by rw [setErr_run, e1]
  have hd : (setErr .asq cause s1).dies = s.dies := by rw [setErr_dies, e1]
  have hl1 : (setErr .asq cause s1).loading = false := by rw [setErr_loading, e1]; exact hl
  have hy : (setErr .asq cause s1).busy = s.busy := by rw [setErr_busy, e1]
  rw [← e1]
  generalize setErr .asq cause s1 = a at *
  have b1 : ∀ o, o ≠ 0x07C → reg (bump .asq 0x07C a) .asq o = reg a .asq o := fun o h => reg_bump_off _ _ _ h
  have b2 : pageFrz a .asq = false → reg (bump .asq 0x07C a) .asq 0x07C = satInc (reg a .asq 0x07C) := by
    intro h; unfold bump; rw [if_neg (by simp [h])]; exact reg_setReg_same _ _ _ _
  have b3 : (bump .asq 0x07C a).asq = a.asq := bump_asq _ _ _ _
  have b4 : (bump .asq 0x07C a).tiles = a.tiles := bump_tiles _ _ _ _
  have b5 : (bump .asq 0x07C a).image = a.image := bump_image _ _ _ _
  have b6 : (bump .asq 0x07C a).run = a.run := bump_run _ _ _ _
  have b7 : (bump .asq 0x07C a).dies = a.dies := bump_dies _ _ _ _
  have b8 : (bump .asq 0x07C a).loading = a.loading := bump_loading _ _ _ _
  have b9 : (bump .asq 0x07C a).busy = a.busy := bump_busy _ _ _ _
  generalize bump .asq 0x07C a = b at *
  have hv : faultValid b = faultValid s := by unfold faultValid; rw [b1 _ (by omega), ho _ (by omega)]
  have hf : pageFrz a .asq = pageFrz s .asq := by unfold pageFrz; rw [ho _ (by omega)]
  have c1 := recordCause_reg cause u v detail b
  have c2 := recordCause_first (s := b) cause u v detail
  have c3 := recordCause_later (s := b) cause u v detail
  obtain ⟨r, c4⟩ := recordCause_shape cause u v detail b
  have c5 : ∀ o, o ≠ 0x07C → o ≠ 0x010 → reg b .asq o = reg s .asq o := fun o h g => (b1 o h).trans (ho o g)
  have c6 : faultValid b = true → r = b.regs := by
    intro h; have := c3 h; rw [c4] at this; exact congrArg State.regs this
  generalize recordCause cause u v detail b = c at *
  subst c4
  have hm : moving { b with regs := r } = moving s := by simp [moving, b6, hr, b3, ha]
  have d : calledAsq { b with regs := r } = { calledAsq s with haltFrom := l } := by
    unfold calledAsq
    rw [hm]
    split
    · simp only [b3, ha]
    · simp only [b6, hr, b9, hy]
      split
      · simp only [b3, ha]
      · simp only [b3, ha]
  rw [callHalt_spec (s := { b with regs := r }) (b8.trans hl1), d]
  dsimp only
  have e := ledgerOnly_faultItem 0 cause [] { b with regs := r, asq := { calledAsq s with haltFrom := l, contract := b.run ≠ .fault } }
  generalize faultItem 0 cause [] { b with regs := r, asq := { calledAsq s with haltFrom := l, contract := b.run ≠ .fault } } = f at *
  have er : ∀ o, o < 0x1000 → reg f .asq o = reg { b with regs := r } .asq o := fun o h => ledgerOnly_asqReg e h
  obtain ⟨_, _, _, _, _, _, _, _, _, _, _, _, rfl, _⟩ := e
  refine ⟨by rw [show s1.asq.haltFrom = l from by rw [e1]]; exact congrArg (fun x : RunSt => ({ calledAsq s with haltFrom := l, contract := x ≠ RunSt.fault } : Asq)) (b6.trans hr), ?_, b4.trans ht, b5.trans hi, b6.trans hr, b7.trans hd, ?_, ?_, ?_⟩
  · rw [er _ (by omega), c1 _ (by omega), b1 _ (by omega)]; exact hb
  · intro h; rw [er _ (by omega)]; exact c2 (hv.trans h)
  · intro h; rw [er _ (by omega), c6 (hv.trans h)]; exact c5 _ (by omega) (by omega)
  · intro h; rw [er _ (by omega), c1 _ (by omega), b2 (hf.trans h), ho _ (by omega)]

/-! Positions and tokens of a tile (06 R170, 07 R195). -/

/-- Passing a record moves the stream's position and counts tokens; nothing else of the tile changes. -/
theorem stepPast_spec (now : Nat) (st : Strm) (r : OpRec) (t : Tile) :
    ∃ n h c a, stepPast now st r t = { setCtx st { getCtx t st with
        pos := (getCtx t st).pos + 1 + extRecs r
        issued := (getCtx t st).issued + 1
        fenceWait := false
        act := a } t with
      tok := n
      tokHi := h
      cyc := c } := by
  cases st <;> by_cases h : r.opc = 0x04 <;>
    simp only [stepPast, h, if_true, if_false, active, tokEvent, getCtx, setCtx] <;> exact ⟨_, _, _, _, rfl⟩

/-- The other streams' positions stay. -/
theorem stepPast_other (now : Nat) {st st' : Strm} (r : OpRec) (t : Tile) (h : st' ≠ st) :
    getCtx (stepPast now st r t) st' = getCtx t st' := by
  obtain ⟨n, x, c, a, e⟩ := stepPast_spec now st r t
  rw [e]
  cases st <;> cases st' <;> first | rfl | exact absurd rfl h

/-- A charge of tokens changes nothing of a tile but its token counts. -/
theorem charge_spec (u v n : Nat) (s : State) :
    charge u v n s = s ∨ ∃ k x c, charge u v n s = setTile u v { tile s u v with
      tok := k
      tokHi := x
      cyc := c } s := by
  unfold charge
  split
  · exact Or.inr ⟨_, _, _, rfl⟩
  · exact Or.inl rfl

end Sys2Proof.Machine
end

