-- ==== Sys2Proof/WellFormed.lean ====
section
/-! DEFINITION. The commands a sender can form: operands within the ranges the manual gives the thing they name. `exec`
is total on every command; this says which of them a requester, a neighbour or the wafer can send. -/

namespace Sys2Proof

/-- A 32-bit aligned BAR0 offset (17 R473). -/
def wfOff (off : Nat) : Bool := off % 4 == 0 && off < 0x4000000

/-- A tile of some image: at most 176 columns and 196 rows are achieved (08 R234). -/
def wfTile (u v : Nat) : Bool := u < 176 && v < 196

/-- A flit carries 64 payload bytes (05 R126). -/
def wfFlit (f : Flit) : Bool := f.pay.length == 64

/-- A flowstone bus: three per tile row or column, a block of 128 bytes (05 R146, R148). -/
def wfBus (b : Bus) : Bool := b.idx < (if b.die.val < 2 then 196 else 176)
def wfBlock (b : FsBlock) : Bool := b.data.length == 128 && b.seq < 65536 && b.tag < 256

/-- A vector unit exists on image tiles; an Update Engine on every edge die. -/
def wfEng : Eng → Bool
  | .tile u v => wfTile u v
  | .ue _ => true

/-- An element run of at most 64 lanes lies in a known format (07 R204). -/
def wfOperand (o : VOperand) : Bool := o.fmt < 12

/-- The ranges of the header of a reduction frame (10 Table 10.7). -/
def wfFrame (f : RFrame) : Bool :=
  f.typ < 256 && f.chan < 65536 && f.rseq < 65536 && f.share < 65536 && f.src < 65536

/-- The ranges of a link frame's header (11 Table 11.1). -/
def wfLink (f : LFrame) : Bool :=
  f.ltype < 256 && f.dst < 65536 && f.src < 65536 && f.lseq < 65536 && f.ackseq < 65536

/-- The addresses of codeword checks lie in the parameter store's address space (09 R268). -/
def wfEcc (l : EccList) : Bool := l.all fun e => e.1 < 2 ^ 42

/-- Operands in range. -/
def Instr.wf : Instr → Bool
  | .registerWrite _ off _ | .lowerHalfRead _ off | .upperHalfRead _ off | .lowerHalfWrite _ off _
  | .upperHalfWrite _ off _ | .rcFieldRead _ off _ _ | .rwbWrite _ off _ | .mgmtSramWindowWrite _ off _
  | .tileWindowRead _ off | .windowReadTimeout _ off | .tileWindowWrite _ off _
  | .smbusRegisterRead off | .smbusRegisterWrite off _ => wfOff off
  | .bar0NarrowWrite _ off ⟨w, _⟩ | .bar0NarrowRead _ off w => off < 0x4000000 && (w ∈ [1, 2, 4, 8])
  | .bar2Read off len _ es => 0 < len && off + len ≤ 2 ^ 36 && wfEcc es
  | .bar2Write off d _ _ => !d.isEmpty && off + d.length ≤ 2 ^ 36
  | .nop u v _ | .fence u v _ | .fenceRelease u v _ | .signal u v _ | .wait u v _ | .settTimeout u v _
  | .ladderEnd u v _ | .barrier u v _ | .fsignal u v _ | .matmul u v _ | .matvec u v _ | .xdot u v _ | .xread u v _
  | .xclr u v _ | .vload u v _ | .vmap u v _ | .vred u v _ | .vpoly u v _ | .scaleupd u v _ | .lcopy u v _
  | .tapin u v _ | .tapout u v _ | .send u v _ | .msend u v _ | .recv u v _ | .tileOpComplete u v _ _
  | .slotWaitExpiry u v _ | .creditReturn u v _ | .deadlock u v | .aliveWireLow u v _
  | .tokAvgOverdraw u v | .peakOverdraw u v _ | .owlCheckComplete u v | .tileUndervoltage u v => wfTile u v
  | .clockTreeSetupDone _ _ l => l.all fun p => p.1 < 192 && p.2 < 196
  | .eccWriteback u v w => wfTile u v && w < 98304
  | .add e _ _ _ | .sub e _ _ _ | .mul e _ _ _ | .fma e _ _ _ _ | .min e _ _ _ | .max e _ _ _ | .abs e _ _ | .neg e _ _
  | .cmp e _ _ _ | .sel e _ _ _ | .split e _ _ _ | .scalb e _ _ _ | .rand e _ _ | .poly e _ _ _ => wfEng e
  | .cvt e _ _ f _ _ => wfEng e && f < 12
  | .ld e _ o | .st e _ o _ => wfEng e && wfOperand o
  | .bulkUnicastFlit u v _ f | .bulkMulticastFlit u v _ f | .signalFlit u v _ f | .combineUp u v _ f
  | .combineDown u v _ f | .haltFlit u v _ f => wfTile u v && wfFlit f
  | .blockInject b t q => wfBus b && t < 65536 && q < 65536
  | .preRead b t q es => wfBus b && t < 65536 && q < 65536 && wfEcc es
  | .inboundBlock u v b k | .outboundBlock u v b k => wfTile u v && wfBus b && wfBlock k
  | .collectorBlock b k => wfBus b && wfBlock k
  | .contrib8 f | .contrib16 f | .partial8 f | .partial16 f | .param f | .widen f | .resend f | .done f | .permute f
  | .permDone f => wfFrame f
  | .farFrame _ f | .xferFrame _ f | .tunnelFrame _ f | .hello _ f | .tsyncRequest _ f | .tsyncResponse _ f
  | .ack _ f | .nak _ f => wfLink f
  | .contributionDeadline c r | .returnDeadline c r => c < 65536 && r < 65536
  | .omit_ _ c | .reset _ c => c < 65536
  | .lds _ _ ⟨_, es⟩ | .edgeDmaDescriptor _ ⟨_, es⟩ | .hostDmaDescriptor _ _ _ ⟨_, es⟩ => wfEcc es
  | .xchgComplete p => p < 65536
  | .ladderDecision u => u < 4096
  | .challenge _ _ n => n.length == 32
  | .setHbmKey a b => a.length == 32 && b.length == 32
  | .setLinkKey p _ a b => p < 16 && a.length == 4 && b.length == 32
  | .seal_ h => h.length == 48
  | .setEndpointId e => e < 256
  | .samplePreload t => t.length == 21
  | _ => true

end Sys2Proof
end

