-- ==== Sys2Proof/Tests/Slice0.lean ====
section
/-! SUPPORT. Small checks. `test_*`: commands that are not well-formed, and values worked out by hand from the manual's
tables. `wit_*`: for each statement of Certificates/Slice0/Obligations.lean that has hypotheses, states and operands that meet
them, clause by clause; the states are built from the reset state by the helpers below and are no run's. -/

namespace Sys2Proof.Tests

/- One theorem after another: elaborated side by side, those that evaluate a state each hold a thread until the kernel has
checked all before them. -/
set_option Elab.async false

open Sys2Proof Sys2Proof.Machine

/-! Operands out of range, one for each check of `Instr.wf`. -/

theorem test_wf_off : (Instr.registerWrite .host 2 0).wf = false ∧ (Instr.lowerHalfRead .host 0x4000000).wf = false := by decide
theorem test_wf_width : (Instr.bar0NarrowRead .host 0 3).wf = false := by decide
theorem test_wf_bar2 : (Instr.bar2Read 0 0 default default).wf = false ∧ (Instr.bar2Write 0 [] default default).wf = false := by decide
theorem test_wf_tile : (Instr.nop 176 0 .f).wf = false ∧ (Instr.nop 175 196 .f).wf = false := by decide
theorem test_wf_clock : (Instr.clockTreeSetupDone true [] [(0, 196)]).wf = false ∧ (Instr.clockTreeSetupDone true [1] [(191, 195)]).wf = true := by decide
theorem test_wf_word : (Instr.eccWriteback 0 0 98304).wf = false := by decide
theorem test_wf_engine : (Instr.abs (.tile 0 196) 0 0).wf = false := by decide
theorem test_wf_format : (Instr.ld (.ue 0) 0 ⟨12, 0, 0, 0⟩).wf = false := by decide
theorem test_wf_flit : (Instr.haltFlit 0 0 .n ⟨0, 0, [0], []⟩).wf = false := by decide
theorem test_wf_block : (Instr.inboundBlock 0 0 ⟨0, 0⟩ ⟨0, 256, false, 0, List.replicate 128 0⟩).wf = false ∧
    (Instr.inboundBlock 0 0 ⟨0, 0⟩ ⟨0, 255, false, 0, List.replicate 128 0⟩).wf = true := by decide +kernel
theorem test_wf_good : (Instr.nop 175 195 .w).wf = true ∧ (Instr.registerWrite .host 0x3FFFFFC 0).wf = true := by decide

/-! States. -/

/-- A 64-byte operation record of op code `opc`, all else 0 but bytes 52 on. -/
def rec (opc : Nat) (ops : List Byte := []) (flags : Byte := 0) : List Byte :=
  (natLE 1 opc ++ [flags] ++ List.replicate 50 0 ++ ops ++ List.replicate (12 - ops.length) 0)

/-- An image of 4 by 4 tiles with one tick whose streams hold one record. -/
def img1 (b : List Byte) : Img := { (default : Img) with
  reqU := 4
  reqV := 4
  main := [{ (default : TickRec) with
    recF := some 0
    nF := 1 }]
  recF := [b] }

/-- The state after reset, but a job runs. -/
def running (i : Img) : State := { State.reset with
  run := .run
  image := some i }

def open2 : State := { State.reset with
  level := .intrusive
  run := .halt }


def enable (pg : Page) : State := setReg pg 0x008 1 State.reset

def ready : State := { State.reset with run := .ready }

/-- Ready, with an earlier configuration in the staging bank. -/
def twoBanks : State := setReg .cfg 0x054 1 (setReg .cfg 0x050 2 ready)

/-- Halt at Intrusive with every field on, view 0 on wafer position (0, 0) and view 1 off the wafer. -/
def viewing : State := setReg .twc 0x044 0x8000FFFF (setReg .twc 0x040 0x80000000 (setReg .twc 0x008 1
  { open2 with fields := (List.range 56).map fun f => (f, { (default : FieldSt) with on := true }) }))

/-- MSI-X deliverable, vector 31 set to report to the host, one firing counted, its entry unmasked and pending. -/
def counting : State := setReg .evc 0x600 0x80000000 (setReg .evc (0x400 + 16 * 31 + 12) 0
  { State.reset with
    bankA := [(pageBase .evc + 0x080 + 4 * 31, 0xE0010000)]
    host := { State.reset.host with
      msixEn := true
      fmask := false
      d3hot := false
      bme := true }
    evc := { State.reset.evc with vecs := [(31, (1, 0))] } })

/-- A job runs and tile (u, v) is `t`. -/
def tiled (i : Img) (u v : Nat) (t : Tile) : State := { running i with tiles := [(tileKey u v, t)] }

/-- A flit with that header and payload, its CRC right. -/
def flit (hdr : BitVec 48) (pay : List Byte) : Flit := ⟨hdr, flitCrc ⟨hdr, 0, pay, []⟩, pay, []⟩

/-- A payload of 64 bytes that begins so. -/
def pay (b : List Byte) : List Byte := b ++ List.replicate (64 - b.length) 0

/-- An operation of stream F at work with nothing left to come. -/
def op1 (opc : Nat) : Op := ⟨.f, 0, opc, 0, rec opc, [], 0, [], 0⟩

/-- A VU instruction of four registers. -/
def word (vop : Nat) (vd : Nat := 0) (va : Nat := 0) (vb : Nat := 0) (low : Nat := 0) : W32 :=
  w32 (67108864 * vop + 4194304 * vd + 262144 * va + 16384 * vb + low)

/-- An image of one U program of one pass with that one instruction; stream 0 is the sums, 1 and 2 region 0 and region 1. -/
def imgU (w : W32) : Img := { img1 [] with
  uprogs := [{ (default : UProg) with
    streams := [⟨none, 0, false, 0, 0⟩, ⟨some 0, 3, false, 0, 0⟩, ⟨some 1, 0, false, 0, 0⟩]
    passes := [[w]] }]
  regions := [{ (default : Region) with chlen := 4 }, { (default : Region) with idx := 1 }] }

/-- A job runs and the engine of die 15 has that instruction next. -/
def engine (w : W32) : State := { running (imgU w) with
  dies := [(15, { DieSt.blank with ue := { Ue.blank with run := some ⟨0, [0], 0, 0, 0, false, 0⟩ } })] }

/-- The engine of die `d` stands at instruction `pc` of a pass; the program has that many groups. -/
def engineAt (i : Img) (d : Die) (groups : List Nat) (pass pc iter : Nat) (wait : Bool) : State := { running i with
  dies := [(d.val, { DieSt.blank with ue := { Ue.blank with run := some ⟨0, groups, pass, pc, iter, wait, 0⟩ } })] }
def imgP (ngroups : Nat) (passes : List (List W32)) : Img := { img1 [] with
  uprogs := [{ (default : UProg) with
    ngroups := ngroups
    consts := [7]
    passes := passes }] }

/-- Four stacked on every die. -/
def stacked (s : State) : State := setReg .cap 0x048 0x00400000 s

/-- A descriptor of one segment of 64 bytes at P 0 and M 4096. -/
def desc : List Byte := natLE 8 0 ++ natLE 8 4096 ++ natLE 4 64 ++ [12, 0, 0, 0] ++ natLE 8 8192

/-- A plan of one channel whose home is module 0: member 1 sends partials of shares 0 and 1, member 3 share 2. -/
def plan : Plan := { (default : Plan) with
  chans := [{ (default : Chan) with
    nsh := 3
    nred := 1
    openN := 1 }]
  shares := [⟨0, 1, 0xFFFF, 0xFFFF, 0, 0xFFFF⟩, ⟨1, 2, 0xFFFF, 0xFFFF, 1, 0xFFFF⟩, ⟨2, 3, 0xFFFF, 0xFFFF, 0, 0xFFFF⟩]
  reds := [{ (default : Redn) with nblk := 1 }] }

/-- A job runs with that plan; its one reduction is wide or not, E, the share it is held on and its sums are these. -/
def planned (w : Bool) (e : Nat) (h : Option Nat) (m : SMap SumEnt) : State := { running { img1 [] with regions := [default] } with
  rdc := { State.reset.rdc with
    plan := some plan
    reds := [(0, { RedSt.blank with
      wide := w
      adds := [(0, { AddSt.blank with
        tE := some e
        holding := h
        sums := m })] })] } }

/-- A frame of that reduction from a member, of one block. -/
def frame (share src : Nat) (b : List GBlock) : RFrame := { (default : RFrame) with
  share := share
  src := src
  nblk := 1
  blocks := b }
def block (r : Nat) : GBlock := ⟨List.replicate 32 0, 0, r, 0⟩

/-- Module 0 is a sender of the one share of a plan whose home is module 1; the entries of its one block held or not. -/
def plan1 : Plan := { plan with
  chans := [{ (default : Chan) with
    home := 1
    nsh := 1
    nred := 1
    openN := 1 }]
  shares := [⟨0, 0, 0xFFFF, 0xFFFF, 1, 0xFFFF⟩] }
def sender (w : Bool) (got : SMap Bool) : State := { planned w 0 none [] with rdc := { (planned w 0 none []).rdc with
  plan := some plan1
  parGot := got } }

/-- A link frame with its CRC. -/
def lframe (ltype : Nat) (body : List Byte) (ack : Option Nat := none) : LFrame :=
  let f : LFrame := ⟨frameFlits false 2, (0, 0), false, ltype, false, ltype = 8, 0, 7, 1, 2, body, 0, ack.isSome, ack.getD 0, false, 0, 0⟩
  { f with crc := frameCrc f }

/-- Port 15 is up, with a neighbour, and has that link state besides. -/
def linked (l : LinkSt) : State := { ready with links := [(15, { l with
  portUp := true
  nbrIv := 1 })] }

/-- Every field on at 720 mV with its regulators working. -/
def powerOn (set calm low : Nat) : State :=
  setReg (.fpw 55) 0x048 0xFFFFFFFF (setReg (.fpw 55) 0x04C 0xFFFFFFFF (setReg (.fpw 55) 0x050 0xFFFF (setReg (.fpw 55) 0x054 0xFFFFFF
    { ready with fields := [(55, { FieldSt.blank with
      on := true
      set := set
      calm := calm
      low := low })] })))

/-- What makes a flit good, as one decidable fact. -/
theorem test_flitGood {s : State} {i : Img} {u v kind : Nat} {p : Port} {f : Flit}
    (h : s.image = some i ∧ s.loading = false ∧ s.run = .run ∧ inImage s u v = true ∧ flitCrc f = f.crc ∧ flitKind f = kind ∧
      ctlRoom (tile s u v) p = true) :
    FlitGood s i u v p f kind := ⟨h.1, h.2.1, .inl h.2.2.1, h.2.2.2.1, h.2.2.2.2.1, h.2.2.2.2.2.1, fun _ => h.2.2.2.2.2.2⟩

theorem test_bulkGoes {s : State} {i : Img} {u v : Nat} {p : Port} {f : Flit}
    (h : (tile s u v).bulk = [] ∧ (i.lmode = true → (departure s i u v p none f).isSome = true) ∧ (tile s u v).ops = []) :
    BulkGoes s i u v p f := ⟨h.1, h.2.1, fun _ o ho => by simp [h.2.2] at ho⟩


/-! Registers. -/

theorem wit_StepRunsFrontCommand :
    { State.reset with pending := [.nop 0 0 .f] }.pending = .nop 0 0 .f :: [] ∧ State.reset.pending = [] ∧
    powered State.reset = true ∧ powered { State.reset with run := .off } = false := by decide +kernel

/-- The code with 8 ports has no LNK page at a die's third place. -/
theorem wit_AbsentPagesReadZero :
    spaceOf 0x126000 = .reg (.lnk 2) 0 ∧ pageFitted .w56s64p8 (.lnk 2) = false ∧
    MayWrite .host { State.reset with code := .w56s64p8 } := by unfold MayWrite; decide +kernel

/-- One register of each access code, and an offset that names none. -/
theorem wit_RegisterWriteByAccessCode :
    MayWrite .host State.reset ∧ pageFitted State.reset.code .mid = true ∧
    (spaceOf 0x3044 = .reg .evc 0x044 ∧ specialWrite .host .evc 0x044 1 State.reset = none ∧
      isLo .evc 0x044 = false ∧ isHi .evc 0x044 = false ∧ (regI .evc 0x044).map (·.acc) = some .rw) ∧
    (spaceOf 0x0010 = .reg .mid 0x010 ∧ specialWrite .host .mid 0x010 1 State.reset = none ∧
      (regI .mid 0x010).map (·.acc) = some .w1c) ∧
    (spaceOf 0x0000 = .reg .mid 0 ∧ specialWrite .host .mid 0 1 State.reset = none ∧
      (regI .mid 0).map (·.acc) = some .ro) ∧
    (spaceOf 0x0FFC = .reg .mid 0xFFC ∧ specialWrite .host .mid 0xFFC 1 State.reset = none ∧ regI .mid 0xFFC = none)
    := by unfold MayWrite; decide +kernel

/-- A byte of an aligned word, the last bytes of one, a pair of halves, and a width of 8. -/
theorem wit_AccessWidthsAndHalves :
    MayWrite .host State.reset ∧ MayRead .host State.reset ∧ pageFitted State.reset.code .tmb = true ∧
    (spaceOf 0x0012 = .reg .mid 0x012 ∧ ¬ (4 = 4 ∧ 0x0012 % 4 = 0) ∧ ¬ (8 = 4 ∧ 0x0010 % 4 = 0)) ∧
    (0 < 1 ∧ 3 + 1 ≤ 4 ∧ isLo .mid 0x010 = false ∧ isHi .mid 0x010 = false) ∧
    (spaceOf 0x4050 = .reg .tmb 0x050 ∧ spaceOf 0x4054 = .reg .tmb 0x054 ∧ isLo .tmb 0x050 = true ∧
      isLo .tmb 0x054 = false ∧ isHi .tmb 0x054 = true) ∧
    latchOf (putLatch .host (some (pageBase .tmb + 0x054 - 4, 7)) State.reset.rdLatch) .host
      = some (pageBase .tmb + 0x050, 7) ∧
    latchOf State.reset.rdLatch .host = none ∧ specialWrite .host .tmb 0x050 1 State.reset = none := by
  unfold MayWrite MayRead; decide +kernel

/-- A pair of read-write halves with no effect of its own: the base of a DMA queue's ring. -/
theorem wit_AccessWidthsAndHalves_pair :
    spaceOf 0xA044 = .reg .hdm (0x040 + 4) ∧ isLo .hdm 0x040 = true ∧ isLo .hdm 0x044 = false ∧
    specialWrite .host .hdm 0x044 1 State.reset = none ∧
    (regI .hdm 0x040).map (·.acc) = some .rw ∧ (regI .hdm 0x044).map (·.acc) = some .rw ∧
    latchOf (putLatch .host (some (pageBase .hdm + 0x040, 5)) State.reset.wrHeld) .host = some (pageBase .hdm + 0x040, 5)
    := by decide +kernel

theorem wit_ReadClearFieldKeepsNewEvents :
    MayRead .host State.reset ∧ spaceOf 0x0010 = .reg .mid 0x010 ∧ pageFitted State.reset.code .mid = true ∧
    (regI .mid 0x010).isSome = true := by unfold MayRead; decide +kernel

theorem wit_ErrorInjectionNeedsIntrusive :
    (MayWrite .host open2 ∧ open2.isSealed = false ∧ open2.level = .intrusive ∧ pageFitted open2.code .mid = true ∧
      bitOf (0x80000001 : W32) 31 = true) ∧
    MayWrite .host State.reset ∧ ¬ (State.reset.isSealed = false ∧ State.reset.level = .intrusive) ∧
    pageFitted { State.reset with code := .w56s64p8 }.code (.lnk 2) = false ∧
    MayWrite .host { State.reset with code := .w56s64p8 } := by
  unfold MayWrite; decide +kernel

/-- A page that is always on, a job page with and without an image, DBG, and LNK with its page enabled. -/
theorem wit_EnableBitWrites :
    MayWrite .host State.reset ∧ (pageFitted State.reset.code .mid = true ∧ alwaysOn .mid = true) ∧
    (jobPage .asq = true ∧ (running (img1 [])).image.isSome = true) ∧
    (pageFitted State.reset.code .asq = true ∧ alwaysOn .asq = false ∧ State.reset.image = none) ∧
    alwaysOn .dbg = false ∧
    (pageFitted State.reset.code (.lnk 15) = true ∧ pageEn (enable (.lnk 15)) (.lnk 15) = true ∧
      MayWrite .host (enable (.lnk 15))) := by unfold MayWrite; decide +kernel

theorem wit_SoftResetOfABlock :
    MayWrite .host State.reset ∧ pageFitted State.reset.code .plc = true ∧
    Page.plc ∈ { State.reset with srst := [.plc] }.srst ∧
    keptBySrst 0x01C = true ∧ keptBySrst 0x064 = false ∧
    ([Page.mid, .cfg, .tmb, .pwr, .hdm, .sec, .dbg, .edg 0, .upe 0, .lnk 15].all (pageFitted State.reset.code)) = true := by unfold MayWrite; decide +kernel

/-- A banked register written in the staging view, in the active view, and with a command pending. -/
theorem wit_BankedWritesReachStaging :
    MayWrite .host State.reset ∧ spaceOf 0x3058 = .reg .evc 0x058 ∧ pageFitted State.reset.code .evc = true ∧
    (regI .evc 0x058).map (·.acc) = some .rwb ∧ isLo .evc 0x058 = false ∧ isHi .evc 0x058 = false ∧
    activeView State.reset .host = false ∧ State.reset.pendCfg = none ∧
    activeView (setReg .cfg 0x05C 1 State.reset) .host = true ∧
    { State.reset with pendCfg := some .commit }.pendCfg.isSome = true := by unfold MayWrite; decide +kernel



/-- The reset state's defaults pass every COMMIT check; the cases: in Ready, in Run, with a bank to roll back to, with a
command pending. -/
theorem wit_CommitRollbackCopy :
    MayWrite .host ready ∧ ready.pendCfg = none ∧ ready.run ≠ .run ∧ ready.busy ≠ some .load ∧ ready.evc.pinFilt = 0xFF ∧
    cfgCheck ready.code (stagingBank ready) = none ∧ (running (img1 [])).run = .run ∧
    (running (img1 [])).evc.pinFilt = 0xFF ∧ cfgCheck (running (img1 [])).code (stagingBank (running (img1 []))) = none ∧
    rollbackOk twoBanks = true ∧ twoBanks.run ≠ .run ∧ twoBanks.evc.pinFilt = 0xFF ∧ MayWrite .host twoBanks ∧
    cfgCheck twoBanks.code (stagingBank twoBanks) = none ∧
    { ready with pendCfg := some .commit }.pendCfg = some .commit := by unfold MayWrite; decide +kernel

/-- Views of a wafer position, the first and the last word of the window, an invalid selection, a state without access, and
the words past the exposed lines. -/
theorem wit_TileViews :
    MayRead .host viewing ∧ MayWrite .host viewing ∧ spaceOf 0x2000000 = .view 0 0 ∧ spaceOf 0x3FFFFFC = .view 15 0x1FFFFC ∧
    pageEn viewing .twc = true ∧ viewAllowed viewing 0 = true ∧ (viewing.run ≠ .boot ∨ viewing.level ≠ .observe) ∧
    (selection viewing 0).valid = true ∧ latchGroup 0 = none ∧ (selection viewing 1).valid = false ∧
    viewAllowed State.reset 0 = false ∧ MayRead .host State.reset ∧
    viewKind 0 ≠ .reserved ∧ viewing.level = .intrusive ∧ viewing.run = .halt ∧
    (viewWrite (selTile viewing (selection viewing 0)) 0 7).isSome = true ∧
    viewWrite (selTile viewing (selection viewing 0)) 0x17FFFC 7 = none ∧ viewKind 0x17FFFC ≠ .reserved ∧
    { viewing with run := .run }.run = .run ∧ (selection { viewing with run := .run } 0).valid = true ∧
    viewAllowed { viewing with run := .run } 0 = true ∧
    ¬ (State.reset.level = .intrusive ∧ State.reset.run = .halt) := by unfold MayRead MayWrite; decide +kernel

theorem wit_SidebandAndWindows :
    powered State.reset = true ∧ smbusCc 0 (fun s => (busRead .smbus 0 s).2) State.reset = 0 ∧
    smbusCc 0x3044 (busWrite .smbus 0x3044 1) State.reset = 0 ∧ (0x4000000 ≤ 0x4000000 ∨ 0x4000000 % 4 ≠ 0) ∧
    (0x4000000 ≤ 2 ∨ 2 % 4 ≠ 0) ∧ MayWrite .m0 State.reset ∧ 0x800000 ≤ 0x800000 ∧ 0x9FFFFC < 0xA00000 ∧
    State.reset.run = .boot ∧ State.reset.winOpen = true ∧
    ¬ ({ State.reset with winOpen := false }.run = .boot ∧ { State.reset with winOpen := false }.winOpen = true) := by
  unfold MayWrite; decide +kernel

/-! Timers, events, counters. -/

theorem wit_TimersArmAndFire :
    MayWrite .host State.reset ∧
    (powered { State.reset with armed := 8 } = true ∧ { State.reset with armed := 8 }.armed.testBit 3 = true ∧
      reg64 { State.reset with armed := 8 } .tmb (0x050 + 8 * 3) ≤ { State.reset with armed := 8 }.now % 2 ^ 64) ∧
    State.reset.armed.testBit 3 = false ∧
    State.reset.now % 2 ^ 64 < reg64 (setReg .tmb 0x054 1 State.reset) .tmb 0x050 := by unfold MayWrite; decide +kernel

theorem wit_PendingBits :
    1023 < 1024 ∧ (31 : Fin 32).val = 31 ∧ MayWrite .host State.reset ∧ pageFitted State.reset.code .mid = true ∧
    spaceOf 0x0010 = .reg .mid 0x010 := by unfold MayWrite; decide +kernel

/-- Vector 31 with one firing, its time 0; entry 31 with its pending bit; all of it deliverable. -/
theorem wit_VectorsAndMsix :
    powered counting = true ∧ (mget (0, 0) counting.evc.vecs 31).1 ≠ 0 ∧
    fld (vecCtl counting 31).toNat 15 0 * 1000 ≤ counting.now - (mget (0, 0) counting.evc.vecs 31).2 ∧
    bitOf (vecCtl counting 31) 31 = true ∧ counting.host.msixEn = true ∧ counting.host.fmask = false ∧
    counting.host.d3hot = false ∧ counting.host.bme = true ∧
    bitOf (reg counting .evc (0x400 + 16 * 31 + 12)) 0 = false ∧ MayWrite .host counting ∧
    bitOf (reg counting .evc 0x600) 31 = true ∧ bitOf (reg State.reset .evc 0x600) 31 = false := by
  unfold MayWrite; decide +kernel

theorem wit_CounterGeneratorQueries :
    MayWrite .host State.reset ∧ qBusy State.reset = false ∧ MayWrite .host { State.reset with qEnd := 160 } ∧
    qBusy { State.reset with qEnd := 160 } = true ∧ (running (img1 [])).image.isSome = true ∧ State.reset.image = none := by unfold MayWrite; decide +kernel


/-! Records, setts, flits. -/

/-- A record of each op code that has a command of its own stands as the next one of stream F of the last tile. -/
theorem wit_NextIs :
    ∀ o ∈ [0x00, 0x01, 0x02, 0x03, 0x04, 0x05, 0x06, 0x10, 0x11, 0x12, 0x13, 0x20, 0x21, 0x22, 0x23, 0x24, 0x25, 0x28, 0x29,
      0x2A, 0x2B, 0x2C, 0x2D],
      nextRec (running (img1 (rec o))) 3 3 .f = some (img1 (rec o), 0, parseRec (rec o)) ∧ (parseRec (rec o)).opc = o ∧
      strmDone (tile (running (img1 (rec o))) 3 3) .f = true := by decide +kernel

theorem wit_SequencerRecords :
    (let s := tiled (img1 (rec 0x01)) 1 2 { Tile.blank with ops := [op1 0x28] }
     nextRec s 1 2 .f = some (img1 (rec 0x01), 0, parseRec (rec 0x01)) ∧ strmDone (tile s 1 2) .f = false) ∧
    (let s := tiled (img1 (rec 0x00 [] 16)) 1 2 { Tile.blank with ops := [op1 0x28] }
     nextRec s 1 2 .f = some (img1 (rec 0x00 [] 16), 0, parseRec (rec 0x00 [] 16)) ∧ strmDone (tile s 1 2) .f = false ∧
     (parseRec (rec 0x00 [] 16)).fence = true) ∧
    (let s := tiled (img1 (rec 0x01)) 1 2 { Tile.blank with cF := { Ctx.blank with fenceWait := true } }
     NextIs s 1 2 .f 0x01 (img1 (rec 0x01)) 0 (parseRec (rec 0x01)) ∧ (getCtx (tile s 1 2) .f).fenceWait = true) := by
  unfold NextIs; decide +kernel

/-- Sett 31: T set for the stream, COUNT 1, and COUNT 0. -/
theorem wit_WaitOnASett :
    (parseRec (rec 0x03 [31])).p8 52 % 32 = 31 ∧
    ∀ x ∈ [{ Sett.blank with t := 1 }, { Sett.blank with count := 1 }, { Sett.blank with queue := [.w] }],
      NextIs (tiled (img1 (rec 0x03 [31])) 0 0 { Tile.blank with setts := [(31, x)] }) 0 0 .f 0x03 (img1 (rec 0x03 [31])) 0
        (parseRec (rec 0x03 [31])) := by
  unfold NextIs; decide +kernel

/-- An untargeted SIGNAL with and without a waiter, and a targeted one at a stream in the queue, at one whose bit is clear and
at one whose bit is set. -/
theorem wit_SignalOnASett :
    (∀ x ∈ [{ Sett.blank with count := 65534 }, { Sett.blank with queue := [.b, .w] }],
      NextIs (tiled (img1 (rec 0x02 [31, 3])) 0 0 { Tile.blank with setts := [(31, x)] }) 0 0 .f 0x02 (img1 (rec 0x02 [31, 3])) 0
        (parseRec (rec 0x02 [31, 3]))) ∧
    (∀ x ∈ [{ Sett.blank with queue := [.w, .b] }, { Sett.blank with t := 5 }, { Sett.blank with t := 2 }],
      NextIs (tiled (img1 (rec 0x02 [31, 1])) 0 0 { Tile.blank with setts := [(31, x)] }) 0 0 .f 0x02 (img1 (rec 0x02 [31, 1])) 0
        (parseRec (rec 0x02 [31, 1]))) ∧
    ((parseRec (rec 0x02 [31, 3])).p8 53).testBit 2 = false ∧ strmOf ((parseRec (rec 0x02 [31, 3])).p8 53 % 4) = none ∧
    strmOf ((parseRec (rec 0x02 [31, 1])).p8 53 % 4) = some .b ∧ (5 / strmBit .b % 2 = 0) ∧ (2 / strmBit .b % 2 = 1) := by
  unfold NextIs; decide +kernel

/-- A sett at 65,535 with no waiter, and one whose targeted bit is set; the first fault and a later one. -/
theorem wit_SettSaturation :
    let x : Sett := { Sett.blank with
      count := 65535
      t := 4 }
    let s := tiled (img1 []) 0 0 { Tile.blank with setts := [(0, x)] }
    (mget Sett.blank (tile s 0 0).setts 0).count = 65535 ∧ (mget Sett.blank (tile s 0 0).setts 0).sat = false ∧
    (settSignal none x).2 = none ∧ (settSignal (some .w) x).2 = none ∧ x.t / strmBit .w % 2 = 1 ∧
    pageFrz s .asq = false ∧ faultValid s = false := by decide +kernel

theorem wit_TimeoutLadderEndBarrier :
    (let s := tiled (img1 []) 0 0 { Tile.blank with cW := { Ctx.blank with
       sleep := some 31
       slept := 1 } }
     s.run = .run ∧ (getCtx (tile s 0 0) .w).sleep = some 31 ∧ 2 ^ (img1 []).settTmo ≤ (getCtx (tile s 0 0) .w).slept) ∧
    NextIs (running (img1 (rec 0x04))) 0 0 .f 0x04 (img1 (rec 0x04)) 0 (parseRec (rec 0x04)) ∧
    (unitSt (running (img1 (rec 0x04))) 0).due = none ∧
    NextIs (running (img1 (rec 0x05))) 0 0 .f 0x05 (img1 (rec 0x05)) 0 (parseRec (rec 0x05)) := by
  unfold NextIs; decide +kernel

/-- A unicast flit to line 23,999 of tile (3, 2), in Q mode and with a departure in L mode, one for a receive queue, a multicast
flit at a leaf, a flit in a buffer. -/
theorem wit_BulkFlitsLand :
    let f := flit (0x0C080000000 + 32768 * 23999 + 4096) (pay [1])
    let g := flit (0x0C080000000 + 2048) (pay [1])
    let m := flit (0x400000000000 + 8388608 * 23999 + 1048576) (pay [1])
    let s := running (img1 [])
    let li := { img1 [] with
      lmode := true
      main := [{ (default : TickRec) with meshN := 1 }]
      meshSlots := [⟨0, 0, 0, 3, 2, false, false, 0, 0, 1, 1⟩] }
    let mt := { img1 [] with trees := List.replicate 16 (128 + portNum .w) }
    (FlitGood s (img1 []) 3 2 .w f 0 ∧ BulkGoes s (img1 []) 3 2 .w f ∧ fld f.hdr.toNat 45 38 = 3 ∧
      fld f.hdr.toNat 37 30 = 2) ∧
    (FlitGood (running li) li 3 2 .n f 0 ∧ BulkGoes (running li) li 3 2 .n f ∧ li.lmode = true) ∧
    ((bulkFields f).2.1 ≠ 3 ∧ (tile s 3 2).fenced = false ∧ (bulkFields f).2.2.2 = false ∧ (bulkFields f).1 = 23999 ∧
      inWindow (galleryOf (img1 []) 3 2).2 (bulkFields f).1 = true ∧ f.pay.length = 64) ∧
    (FlitGood s (img1 []) 3 2 .w g 0 ∧ BulkGoes s (img1 []) 3 2 .w g ∧ fld g.hdr.toNat 45 38 = 3 ∧
      fld g.hdr.toNat 37 30 = 2 ∧ (bulkFields g).2.1 ≠ 3 ∧
      (bulkFields g).2.2.2 = true ∧ (tile s 3 2).ops = [] ∧ (tile s 3 2).rxq.length < 64) ∧
    (FlitGood (running mt) mt 3 2 .w m 1 ∧ BulkGoes (running mt) mt 3 2 .w m ∧
      treeEntry mt (fld m.hdr.toNat 45 38) 3 2 % 8 = portNum .w ∧
      treeOuts (treeEntry mt (fld m.hdr.toNat 45 38) 3 2) = [.l] ∧ (bulkFields m).2.1 ≠ 3 ∧ (bulkFields m).2.2.2 = false ∧
      inWindow (galleryOf mt 3 2).2 (bulkFields m).1 = true ∧ m.pay.length = 64) ∧
    (let t := tiled (img1 []) 3 2 { Tile.blank with bulk := [(.e, f)] }
     FlitGood t (img1 []) 3 2 .e f 0 ∧ takeBulk .e (tile t 3 2) = some (f, Tile.blank) ∧
     (∀ q ∈ (tile t 3 2).ctl, q.1 ≠ .e) ∧ goesFirst t (img1 []) 3 2 (tile t 3 2).bulk.length (.e, f) = (.e, f) ∧
     advances t (img1 []) 3 2 .e none f = true ∧ (∀ o ∈ (tile t 3 2).ops, isSend o = false)) := by
  refine ⟨⟨test_flitGood ?_, test_bulkGoes ?_, ?_⟩, ⟨test_flitGood ?_, test_bulkGoes ?_, ?_⟩, ?_,
    ⟨test_flitGood ?_, test_bulkGoes ?_, ?_⟩, ⟨test_flitGood ?_, test_bulkGoes ?_, ?_⟩, ⟨test_flitGood ?_, ?_⟩⟩ <;>
    decide +kernel


/-- Header of a control flit: its type, and tile (3, 2). -/
def ctl (t : Nat) : BitVec 48 := BitVec.ofNat 48 (0x80C080000000 + t * 67108864)

theorem wit_ControlFlits_signal :
    FlitGood (running (img1 [])) (img1 []) 3 2 .n (flit (ctl 0) (pay [31, 3, 2])) 2 ∧
    ctype (flit (ctl 0) (pay [31, 3, 2])) = 0 ∧ signalOk (flit (ctl 0) (pay [31, 3, 2])) = true ∧
    byteAt (flit (ctl 0) (pay [31, 3, 2])).pay 5 = 0 ∧ fld (flit (ctl 0) (pay [31, 3, 2])).hdr.toNat 45 38 = 3 ∧
    fld (flit (ctl 0) (pay [31, 3, 2])).hdr.toNat 37 30 = 2 ∧ (tile (running (img1 [])) 3 2).fenced = false ∧
    (tile (running (img1 [])) 3 2).ctl = [] :=
  ⟨test_flitGood (by decide +kernel), by decide +kernel⟩

/-- A COMBINE_UP at the first of four inputs of the root, and at the last one; a COMBINE_DOWN from a router's parent. -/
theorem wit_ControlFlits_combine :
    let f := flit (ctl 1) (pay [0xFF, 0xFF, 1])
    let s := running (img1 [])
    let l := tiled (img1 []) 2 2 { Tile.blank with comb := [⟨65535, 0, [], [.w, .e, .n, .l]⟩] }
    (FlitGood s (img1 []) 2 2 .s f 2 ∧ FlitGood l (img1 []) 2 2 .s f 2) ∧ ctype f = 1 ∧ Port.s ∈ combKids (img1 []) 2 2 ∧
    (combFields f).1 = 65535 ∧ combUp (img1 []) 2 2 = none ∧
    ¬ (∀ q ∈ combKids (img1 []) 2 2, q ∈ addNew Port.s [] ∨
      silent (hopFuel s) s (img1 []) (beyond 2 2 q).1 (beyond 2 2 q).2.1 = true) ∧
    (∀ q ∈ combKids (img1 []) 2 2, q ∈ addNew Port.s [.w, .e, .n, .l]) ∧ Port.l ∈ addNew Port.s [.w, .e, .n, .l] ∧
    (FlitGood s (img1 []) 3 2 .w (flit (ctl 2) (pay [0xFF, 0xFF, 1])) 2 ∧ ctype (flit (ctl 2) (pay [0xFF, 0xFF, 1])) = 2 ∧
      (combUp (img1 []) 3 2).getD .l = .w) :=
  ⟨⟨test_flitGood (by decide +kernel), test_flitGood (by decide +kernel)⟩, by decide +kernel, by decide +kernel,
    by decide +kernel, by decide +kernel, by decide +kernel, by decide +kernel, by decide +kernel,
    test_flitGood (by decide +kernel), by decide +kernel⟩

/-- HALT flits of class 1, cause 11 and of class 5; one already forwarded, one new. -/
theorem wit_ControlFlits_halt :
    let f := flit (ctl 3) (pay [1, 11])
    let g := flit (ctl 3) (pay [5])
    let s := running (img1 [])
    let l := tiled (img1 []) 3 2 { Tile.blank with halts := [f.pay.take 16] }
    (FlitGood s (img1 []) 3 2 .s f 2 ∧ FlitGood l (img1 []) 3 2 .s f 2 ∧ FlitGood s (img1 []) 3 2 .s g 2) ∧
    ctype f = 3 ∧ ctype g = 3 ∧ byteAt f.pay 0 = 1 ∧ byteAt f.pay 1 ≤ 11 ∧ byteAt g.pay 0 = 5 ∧
    f.pay.take 16 ∈ (tile l 3 2).halts ∧ f.pay.take 16 ∉ (tile s 3 2).halts ∧ (∀ e ∈ s.tiles, f.pay.take 16 ∉ e.2.halts) :=
  ⟨⟨test_flitGood (by decide +kernel), test_flitGood (by decide +kernel), test_flitGood (by decide +kernel)⟩,
    by decide +kernel⟩

theorem wit_NetworkFaults :
    let s := running (img1 [])
    let f : Flit := ⟨0, flitCrc ⟨0, 0, pay [], []⟩ + 1, pay [], []⟩
    let l := { img1 [] with lmode := true }
    let t := tiled l 0 0 { Tile.blank with bulk := [(.l, f)] }
    (s.loading = false ∧ s.run = .run ∧ inImage s 0 3 = true ∧ flitCrc f ≠ f.crc ∧ ctlRoom (tile s 0 3) .e = true ∧
      senderOf s 0 3 .e = [(1, 3)] ∧ inImage s 1 3 = true ∧ Port.e ≠ .l ∧ hasNbr (img1 []) 0 3 .e = true) ∧
    (img1 []).lmode = false ∧ l.lmode = true ∧ t.run = .run ∧ takeBulk .l (tile t 0 0) = some (f, Tile.blank) ∧
    t.asq.halted = false ∧ (∀ o ∈ (tile t 0 0).ops, isSend o = false) := by
  decide +kernel

/-- A MATMUL whose bit 2 is clear. -/
theorem wit_HeavyOperationsIssue :
    (bit2 (parseRec (rec 0x10)) && forcedSat (running (img1 (rec 0x10))) 0) = false ∧
    (bit2 (parseRec (rec 0x11)) && forcedSat (running (img1 (rec 0x11))) 0) = false ∧
    (parseRec (rec 0x13 [1, 0x80])).p8 53 = 0x80 ∧ ((List.range 8).filter fun l => (0x80 : Nat).testBit l)[0]? = some 7 ∧
    ((parseRec (rec 0x13 [1, 0x80])).p8 52).testBit 0 = true ∧ ((parseRec (rec 0x13 [2, 0x80])).p8 52).testBit 0 = false := by
  decide +kernel

/-- Operand 0 of an 8-bit format; a VMAP of no elements and of 64; a VRED of one row of 64; a VPOLY of one element. -/
theorem wit_VectorRecordsIssue :
    let q : ScaleRec := { (default : ScaleRec) with kind := 1 }
    let g := (galleryOf (img1 []) 0 0).2
    ((parseRec (rec 0x24)).unit = q.unit ∧ (∀ n, n < recordLen1 q → inWindow g (g.wlo + q.sref + n) = true) ∧
      inWindow g (g.wlo + { q with sref := 24000 }.sref + 0) = false ∧ 0 < recordLen1 q) ∧
    sramBits (parseRec ((rec 0x20).set 16 3)).o0.fmt = 8 ∧ (parseRec (rec 0x20 [0, 0, 0, 0, 1, 0])).p16 56 = 1 ∧
    (parseRec (rec 0x21)).p32 56 = 0 ∧ (parseRec (rec 0x21 [0, 0, 0, 0, 64])).p32 56 = 64 ∧
    (parseRec (rec 0x22 [0, 0, 1, 0, 64])).p16 54 = 1 ∧ (parseRec (rec 0x22 [0, 0, 1, 0, 64])).p32 56 = 64 ∧
    (parseRec (rec 0x22)).o2.scl = 0 ∧ (parseRec (rec 0x22)).o2.est = false ∧ (parseRec (rec 0x23)).sro = false ∧
    (parseRec ((rec 0x22 [0, 0, 1, 0, 64]).set 14 0xFF |>.set 15 0xFF)).sosid = 0xFFFF ∧
    (parseRec (rec 0x23 [0, 0, 0, 0, 1])).p32 56 = 1 := by decide +kernel

/-- An LCOPY of one line of linear operands; a TAPOUT outside its run, inside it and at I_HI; a SEND to the next tile; an MSEND
whose tree leaves only to its own tile. -/
theorem wit_MovementRecordsIssue :
    let c := parseRec (rec 0x28 [0, 0, 0, 0, 1])
    let sb := rec 0x2B [0, 0, 1, 0, 0, 0, 1, 0]
    let s := tiled (img1 sb) 0 0 { Tile.blank with live := [(0, true)] }
    let mb := rec 0x2C [0, 0, 0, 0, 1, 0, 1, 0]
    let mi := { img1 mb with trees := List.replicate 16 (128 + 4) }
    let m := tiled mi 0 0 { Tile.blank with live := [(0, true)] }
    (scalesOnWrite c = false ∧ c.o0.lay = false ∧ c.o2.lay = false ∧ (c.p8 52).testBit 0 = false ∧ c.p32 56 = 1) ∧
    (∀ e ∈ (tile (running (img1 (rec 0x29))) 3 3).fsIn, 4 ≤ e.port) ∧
    (tileBus (img1 []) (Fin.ofNat 4 0) 2 0).2 = 2 ∧
    ¬ ((parseRec (rec 0x2A [0, 0, 0, 0, 1, 0, 1, 0])).p8 59 ≤ 2 ∧ 2 ≤ (parseRec (rec 0x2A [0, 0, 0, 0, 1, 0, 1, 0])).p8 58) ∧
    ((parseRec (rec 0x2A [0, 0, 0, 0, 1, 0, 3, 2])).p8 59 ≤ 2 ∧ 2 < (parseRec (rec 0x2A [0, 0, 0, 0, 1, 0, 3, 2])).p8 58) ∧
    (2 = (parseRec (rec 0x2A [0, 0, 0, 0, 1, 0, 2, 0])).p8 58) ∧
    (3 < busLen (img1 []) (tileBus (img1 []) (Fin.ofNat 4 0) 2 0).1 ∧ (∀ n ∈ [2, 3], ∀ e ∈ (tile (running (img1 []))
      (tapTile (img1 []) (tileBus (img1 []) (Fin.ofNat 4 0) 2 0).1 n).1
      (tapTile (img1 []) (tileBus (img1 []) (Fin.ofNat 4 0) 2 0).1 n).2).fsIn, e.port < 4) ∧
      createsAt (running (img1 [])) (img1 []) (tileBus (img1 []) (Fin.ofNat 4 0) 2 0).1
        (parseRec (rec 0x2A [0, 0, 0, 0, 1, 0, 2, 0])) 0 = true ∧
      outRoom (running (img1 [])) (img1 []) (tileBus (img1 []) (Fin.ofNat 4 0) 2 0).1 (mkBlock 0 0 false (zeros 128)) 2 = true) ∧
    (NextIs s 0 0 .f 0x2B (img1 sb) 0 (parseRec sb) ∧ destTile (img1 sb) 0 0 (parseRec sb) 54 = (1, 0) ∧
      inImage s 1 0 = true ∧ (tile s 1 0).fenced = false ∧ ((parseRec sb).p8 52).testBit 0 = false ∧
      (img1 sb).lmode = false ∧ (∀ e ∈ s.tiles, e.2.bulk = []) ∧ (∀ o ∈ (tile s 0 0).ops, isSend o = false) ∧
      (img1 sb).reqU ≤ 256 ∧ (img1 sb).reqV ≤ 256 ∧ openIntrusive s = false ∧ (parseRec sb).p16 58 = 1 ∧
      inWindow (galleryOf (img1 sb) 1 0).2 (absLine (parseRec sb) (galleryOf (img1 sb) 0 0).2 ((parseRec sb).p16 56)) = true ∧
      operandLine (parseRec sb) (galleryOf (img1 sb) 0 0).2 (parseRec sb).o0 0 = 0 ∧ linePoisoned (tile s 0 0) 0 = false) ∧
    (NextIs m 0 0 .f 0x2C mi 0 (parseRec mb) ∧ treeEntry mi ((parseRec mb).p8 54) 0 0 % 8 = 4 ∧
      treeOuts (treeEntry mi ((parseRec mb).p8 54) 0 0) = [.l] ∧ ((parseRec mb).p8 52).testBit 0 = false ∧
      (parseRec mb).p16 58 = 1 ∧ mi.lmode = false ∧ (tile m 0 0).bulk = [] ∧ (tile m 0 0).fenced = false ∧
      (∀ o ∈ (tile m 0 0).ops, isSend o = false) ∧
      inWindow (galleryOf mi 0 0).2 (absLine (parseRec mb) (galleryOf mi 0 0).2 ((parseRec mb).p16 56)) = true ∧
      operandLine (parseRec mb) (galleryOf mi 0 0).2 (parseRec mb).o0 0 = 0 ∧ linePoisoned (tile m 0 0) 0 = false) ∧
    (tile (running (img1 (rec 0x2D))) 3 3).rxq = [] := by unfold NextIs; decide +kernel


/-- A TAPIN that reads its scale from that line as its blocks arrive. -/
def scaled (l : Nat) : Op := { op1 0x29 with bytes := (rec 0x29).take 41 ++ [2] ++ List.replicate 6 0 ++ natLE 2 l ++ List.replicate 14 0 }

/-- An XCLR with its results, a RECV whose flit lies outside the window, and no operation of that index. -/
theorem wit_CompletionOfAnOperation :
    let o : Op := { op1 0x25 with wr := (List.range 8).map fun l => Wr.xa l XaLane.blank }
    let s := tiled (img1 []) 0 0 { Tile.blank with ops := [o] }
    let q : Op := { op1 0x2D with
      bytes := (rec 0x2D [0, 0, 0, 0, 1, 0]).take 42 ++ [1, 0, 16, 0, 0xFF, 0x7F] ++ List.replicate 16 0
      got := [(0, pay [1], [])] }
    (s.loading = false ∧ s.run = .run ∧ inImage s 0 0 = true ∧
      (tile s 0 0).ops.find? (fun o => o.strm = .f && o.idx = 0 && o.left = 0) = some o ∧ o.opc = 0x25 ∧
      transferWr (img1 []) 0 0 (tile s 0 0) o = [] ∧
      (∀ w ∈ o.wr, ∃ l ∈ List.range 8, w = Wr.xa l XaLane.blank)) ∧
    (∃ w ∈ transferWr (img1 []) 0 0 (tile s 0 0) q, wrInWindow (galleryOf (img1 []) 0 0).2 w = false) ∧
    (∃ l ∈ lateReads (img1 []) 0 0 (scaled 0), inWindow (galleryOf (img1 []) 0 0).2 l = true ∧ linePoisoned (tile s 0 0) l = true) ∧
    (∃ l ∈ lateReads (img1 []) 0 0 (scaled 24000), inWindow (galleryOf (img1 []) 0 0).2 l = false) ∧
    (tile s 0 0).ops.find? (fun o => o.strm = .f && o.idx = 1 && o.left = 0) = none ∧
    powered s = true ∧ 196607 < 196608 ∧ pageFrz s .dbg = false := by decide +kernel

/-- Far sett 15 of die 15 holds `w`, with a relay to sett 0 of tile (3, 3). -/
def far (w : W32) : State := setReg (.fst 15) (0x040 + 16 * 15) w (setReg (.fst 15) (0x044 + 16 * 15) 0x80000303 (running (img1 [])))

/-- A ring whose segments at positions 0 and 8 are down. -/
def split : State := { running (img1 []) with ring := [0, 8] }

/-- Far sett 15 of die 15: no relay; a relay and N 0; COUNT one below N; COUNT 65,535; an FSIGNAL record and a USIG. -/
theorem wit_FarSetts :
    let s := running (img1 [])
    let f := running (img1 (rec 0x06 [0xFF, 0, 0xFF, 0xFF]))
    let g := setReg (.fst 15) (0x044 + 16 * 15) 0x80000000 f
    (ringReach s 0 15 = true ∧ (∀ e ∈ (far 0x00010000).tiles, e.2.ctl = []) ∧ diesRun split = true ∧ ringReach split 0 15 = false) ∧
    ringReach g (nearestDie (img1 (rec 0x06 [0xFF, 0, 0xFF, 0xFF])) 3 3) 15 = true ∧
    diesRun s = true ∧ bitOf (reg s (.fst 15) (0x044 + 16 * 15)) 31 = false ∧ pageFrz s (.fst 15) = false ∧
    diesRun (far 0) = true ∧ bitOf (reg (far 0) (.fst 15) (0x044 + 16 * 15)) 31 = true ∧
    reg (far 0x0000FFFE) (.fst 15) (0x040 + 16 * 15) = 0x0000FFFE ∧ reg (far 0x0000FFFF) (.fst 15) (0x040 + 16 * 15) = 0x0000FFFF ∧
    reg (far 0x00020000) (.fst 15) (0x040 + 16 * 15) = 0x00020000 ∧ reg (far 0x00010000) (.fst 15) (0x040 + 16 * 15) = 0x00010000 ∧
    fld (0x0000FFFE : W32).toNat 15 0 < 65535 ∧ fld (0x0000FFFE : W32).toNat 31 16 = 0 ∧
    fld (0x00020000 : W32).toNat 15 0 + 1 < fld (0x00020000 : W32).toNat 31 16 ∧
    fld (0x00010000 : W32).toNat 15 0 + 1 = fld (0x00010000 : W32).toNat 31 16 ∧ bitOf (0x80000303 : W32) 30 = false ∧
    inImage s (fld (0x80000303 : W32).toNat 7 0) (fld (0x80000303 : W32).toNat 15 8) = true ∧ (tile s 3 3).fenced = false ∧
    fld (0x0000FFFF : W32).toNat 15 0 = 65535 ∧
    nextRec g 3 3 .f = some (img1 (rec 0x06 [0xFF, 0, 0xFF, 0xFF]), 0, parseRec (rec 0x06 [0xFF, 0, 0xFF, 0xFF])) ∧
    strmDone (tile g 3 3) .f = true ∧
    (parseRec (rec 0x06 [0xFF, 0, 0xFF, 0xFF])).p16 54 = 0xFFFF ∧ (parseRec (rec 0x06 [0xFF, 0, 0xFF, 0xFF])).p8 52 = 16 * 15 + 15 ∧
    bitOf (reg g (.fst 15) (0x044 + 16 * 15)) 31 = true ∧ fld (reg g (.fst 15) (0x040 + 16 * 15)).toNat 31 16 = 0 ∧
    (ueWord (engine (word 0x28 0 0 0 0xFF)) 15).isSome = true ∧
    vIs (word 0x28 0 0 0 0xFF).toNat 0x28 [(7, 4, 15), (3, 0, 15)] = true := by decide +kernel

/-- An image with one sump of one block and one gradient tag, both on the first bus of the west end. -/
def imgS (b : List Byte) : Img := { img1 b with
  sumps := [⟨0xC0, 0, 0, 0, 1, 4⟩]
  regions := [{ (default : Region) with
    idx := 65536
    layer := 0xC0
    size := 128 }]
  tags := [⟨0x80, 2, 0, 0, 4, 0, 4, 0⟩] }

/-- A block that `mkBlock` makes is good. -/
theorem test_mkBlock (seq tag : Nat) (part : Bool) (d : List Byte) :
    (mkBlock seq tag part d).crc = blockCrc (mkBlock seq tag part d) := rfl

theorem wit_FlowstoneBlocks_in :
    let b := (rec 0x29 [0, 0, 0, 0, 1, 0, 1, 0]).set 13 0xC0
    let i := imgS b
    let bus : Bus := ⟨0, 0⟩
    let k := mkBlock 0 0xC0 false (zeros 128)
    let s := { running i with dies := [(0, { DieSt.blank with side := [(0, 128)] })] }
    let p : PreBlk := ⟨bus, 0xC0, 0, zeros 128, false, false⟩
    let q := { running i with dies := [(0, { DieSt.blank with pre := [p] })] }
    let o : Op := { op1 0x29 with
      bytes := b
      left := 1 }
    let t := tiled i 0 0 { Tile.blank with ops := [o] }
    busDie i bus.die.val bus.idx = some 0 ∧
    (injectDue s i bus 0xC0 0).any (fun n => inReadOrder s i 0 bus n.2.1 n.2.2 && (preData s i n.1 bus 0xC0 0).any
      fun d => (badSector s d.2.1).isNone) = true ∧ s.flaws = [] ∧ flowing s = true ∧ (dieSt s 0).pre.length < preBlocks ∧
    (dieSt s 0).pre = [] ∧ flowing q = true ∧
    (tickNow q).any (fun tr => (injectKey i tr bus 0xC0 0).any fun k => mget 0 (dieSt q 0).sent (busKey bus) ≤ k) = true ∧
    (dieSt q 0).pre.find? (fun b => b.bus = bus) = some p ∧ (dieSt q 0).pre.find? (fun b => b.bus = bus && b.tag = 0xC0 && b.seq = 0) = some p ∧
    busHolds q i 0 bus = false ∧ collHeld s 0 bus < 1024 ∧
    flowing t = true ∧ inImage t 0 0 = true ∧ tileBus i bus.die 0 0 = (bus, 0) ∧
    (tile t 0 0).fenced = false ∧ activeTapin (tile t 0 0) bus k = some (o, 0) := by decide +kernel

theorem wit_FlowstoneBlocks_out :
    let b := (rec 0x2A [0, 0, 0, 0, 1, 0, 0, 0]).set 13 0x80
    let i := imgS b
    let bus : Bus := ⟨0, 0⟩
    let k := mkBlock 0 0x80 true (zeros 128)
    let u := mkBlock 0 0xC0 false (zeros 128)
    let o : Op := { op1 0x2A with
      bytes := b
      left := 1 }
    let s := running (imgS [])
    let t := tiled i 0 0 { Tile.blank with ops := [o] }
    flowing s = true ∧ busDie (imgS []) 0 0 = some 0 ∧ collHeld s 0 bus < 1024 ∧ tickTransfers s (imgS []) 0x2A = [] ∧ tileBus (imgS []) bus.die 0 0 = (bus, 0) ∧
    (tickTransfers t i 0x2A).find? (fun r => tapoutHas r.2.2 bus 0 k) = some (.f, 0, parseRec b) ∧
    (tile t 0 0).fenced = false ∧ activeTapout (tile t 0 0) bus 0 k = some o ∧
    (0xC0 ≤ u.tag ∧ (sumpOf i u.tag).isSome = true ∧ (sumpPlace i ⟨0xC0, 0, 0, 0, 1, 4⟩ bus 0).isSome = true ∧
      u.seq < 1 ∧ u.data.length = 128) ∧
    (k.tag < 0xC0 ∧ (tagEntryOf i bus k.tag).all (fun g => g.cls = 2) = true ∧
      (tagEntryOf i bus k.tag).isSome = true ∧ k.part = true) ∧
    ({ seq := 0, tag := 0, part := false, crc := 1, data := [] } : FsBlock).crc ≠ blockCrc { seq := 0, tag := 0, part := false, crc := 1, data := [] } ∧
    inImage s (tapTile i bus 0).1 (tapTile i bus 0).2 = true := by decide +kernel

/-! Vector instructions. -/

/-- An engine is ready where its next word is the instruction, as one decidable fact. -/
theorem test_vuReady {d : Die} {vop : Nat} {fs : List (Nat × Nat × Nat)} {s : State}
    (h : (ueWord s d).any (fun x => vIs x.2.2 vop fs) = true) : VuReady (.ue d) vop fs s := by
  cases hx : ueWord s d with
  | none => simp [hx] at h
  | some x => exact ⟨x.1, x.2.1, x.2.2, hx, by simpa [hx] using h⟩

/-- The vector unit of a tile that runs, and an engine for each op code. -/
theorem wit_LaneArithmetic :
    (∀ o ∈ [0x01, 0x02, 0x03, 0x05, 0x06, 0x0A, 0x0C],
      VuReady (.ue 15) o [fVd 15, fVa 14, fVb 13] (engine (word o 15 14 13))) ∧
    (∀ o fs, VuReady (.tile 3 3) o fs (running (img1 []))) ∧
    VuReady (.ue 15) 0x04 [fVd 15, fVa 14, fVb 13, fVc 12] (engine (word 0x04 15 14 13 (1024 * 12))) ∧
    (∀ o ∈ [0x07, 0x08], VuReady (.ue 15) o [fVd 15, fVa 14] (engine (word o 15 14))) ∧
    VuReady (.ue 15) 0x0B [fVd 15, fVa 14, fVc 12] (engine (word 0x0B 15 14 0 (1024 * 12))) :=
  ⟨fun o h => test_vuReady (by revert o; decide +kernel), fun o fs => (by decide +kernel : vuRuns (running (img1 [])) 3 3 = true),
    test_vuReady (by decide +kernel), fun o h => test_vuReady (by revert o; decide +kernel), test_vuReady (by decide +kernel)⟩

theorem wit_LaneMaskAndConversions :
    VuReady (.ue 15) 0x09 [fVa 14, fVb 13, (1, 0, 3)] (engine (word 0x09 0 14 13 3)) ∧
    VuReady (.ue 15) 0x0D [fVd 15, fVa 14, (3, 0, 11), (4, 4, 1)] (engine (word 0x0D 15 14 0 27)) ∧
    VuReady (.ue 15) 0x0F [fVd 15, fVa 14, (0, 0, 1)] (engine (word 0x0F 15 14 0 1)) ∧
    VuReady (.ue 15) 0x10 [fVd 15] (engine (word 0x10 15)) ∧
    VuReady (.ue 15) 0x11 [fVa 14, (2, 2, 1)] (engine (word 0x11 0 14 0 4)) ∧
    (8 ≤ sramBits 0 ∧ 0 + 32 * sramBits 0 ≤ ueSramBytes ∧ sramBits 7 = 4) :=
  ⟨test_vuReady (by decide +kernel), test_vuReady (by decide +kernel), test_vuReady (by decide +kernel),
    test_vuReady (by decide +kernel), test_vuReady (by decide +kernel), by decide +kernel⟩

/-- LD and ST of the last 64 FP32 elements of the window, its lines clean; and of lines outside it, and poisoned ones. -/
theorem wit_LaneMaskAndConversions_lines :
    let s := tiled (img1 []) 0 0 { Tile.blank with live := (List.range 4).map fun l => (l + 23996, true) }
    vuRuns s 0 0 = true ∧
    (∀ l ∈ linesOf (64 * 23996) (64 * sramBits 0 / 8), inWindow (galleryOf (img1 []) 0 0).2 l = true ∧
      linePoisoned (tile s 0 0) l = false) ∧
    (∃ l ∈ linesOf (64 * 24000) (64 * sramBits 0 / 8), inWindow (galleryOf (img1 []) 0 0).2 l = false) ∧
    (∃ l ∈ linesOf 0 (64 * sramBits 0 / 8), inWindow (galleryOf (img1 []) 0 0).2 l = true ∧ linePoisoned (tile s 0 0) l = true) := by
  decide +kernel


/-! Update Engines, ring, DMA. -/

/-- The sums, a region's elements and the region's writes, on the engine of die 15. -/
theorem wit_UpdateEngineInstructions :
    ((ueWord (engine (word 0x20 15 0 0 0)) 15).any (fun x => vIs x.2.2 0x20 [fVd 15, (2, 0, 0)] && (x.2.1.streams[0]?.map (·.region)) = some none)) = true ∧
    ((ueWord (engine (word 0x20 15 0 0 1)) 15).any (fun x => vIs x.2.2 0x20 [fVd 15, (2, 0, 1)] && (x.2.1.streams[1]?.map (·.region)) = some (some 0))) = true ∧
    (regionOf (imgU 0) 0).isSome = true ∧
    ((ueWord (engine (word 0x21 0 14 0 1)) 15).any fun x => vIs x.2.2 0x21 [fVa 14, (2, 0, 1)]) = true ∧ 8 ≤ fmtBits 3 ∧
    (codeW 3 .rne one32 (ueReg (engine (word 0x21 0 14 0 1)) 15 14 255)).2 = false ∧
    ((ueWord (engine (word 0x22 0 14 0 2)) 15).any fun x => vIs x.2.2 0x22 [fVa 14, (2, 0, 2)] && x.2.1.chlen = 0) = true ∧
    (regionOf (imgU 0) 1).any (fun r => r.chlen = 0 && !blockFmt r 0) = true ∧
    ((ueWord (engine (word 0x23 0 14)) 15).any fun x => vIs x.2.2 0x23 [fVa 14] && x.2.1.chlen = 0) = true ∧
    ((ueWord (engine (word 0x24 0 14 13 7)) 15).any fun x => vIs x.2.2 0x24 [fVa 14, fVb 13, (2, 0, 7)]) = true ∧
    ((ueWord (engine (word 0x25 0 0 0 0xF7)) 15).any fun x => vIs x.2.2 0x25 [(7, 4, 15), (2, 0, 7)]) = true ∧
    ((ueWord (engine (word 0x27 15 0 0 15)) 15).any fun x => vIs x.2.2 0x27 [fVd 15, (3, 0, 15)]) = true := by decide +kernel

/-- A group of 131,072 elements with poisoned sectors, and a home reduction that ends after 32 elements of a group. -/
theorem wit_UpdateEngineInstructions_group :
    let b := { planned false 0 none [] with rdc := { (planned false 0 none []).rdc with chans := [(0, { (default : ChanSt) with stopped := true })] } }
    blockStopped b 0 = true ∧ blockStopped (engine (word 0x21 0 14 0 1)) 0 = false ∧ groupElems b 0 = 32 ∧
    (engine 0).flaws = [] ∧
    (scaledS 0 0x7F7FFFFF 0x40000000).2 = true ∧ (scaledS 0 0x7F7FFFFF one32).2 = false ∧ pageFrz (engine 0) .rdc = false ∧
    let s := { engine (word 0x20 15 0 0 1) with poison := [(0, true)] }
    let h := { planned false 0 none [] with rdc := { (planned false 0 none []).rdc with plan := some { plan with
      reds := [{ (default : Redn) with
        blk0 := 4096
        nblk := 1 }] } } }
    groupElems s 0 = 131072 ∧
    (regionOf (imgU 0) 0).any (fun r => elemPoisoned s r 3 0 0 && !elemPoisoned (engine 0) r 3 0 0) = true ∧
    groupElems h 1 = 32 ∧ redAt h 4096 ≠ none ∧ 256 * 0 < groupElems s 0 ∧
    (∀ k ∈ (List.range 8).filter (fun k => 256 * 0 + 32 * k < groupElems s 0), redAt s (4096 * 0 + 8 * 0 + k) = none) ∧
    (regionOf (imgU 0) 1).any (fun r => !r.arr) = true := by decide +kernel

theorem wit_UpdateEngineRuns :
    let p := imgP 17 [[word 0x20, word 0x29], [word 0x20, word 0x29]]
    let s := { running p with dies := [(0, { DieSt.blank with ue := { Ue.blank with ready := [0, 1] } })] }
    let x := imgP 1 [[word 0x26 0 0 0 0, word 0x26 0 0 0 1]]
    ((dieSt s 0).ue.run = none ∧ (dieSt s 0).ue.ready = 0 :: [1] ∧ uesRun s = true ∧
      (p.uprogs.find? (fun u => u.prog = 0)).isSome = true) ∧
    (∀ a ∈ [(engineAt p 0 [0, 16] 0 1 0 false), (engineAt p 0 [0, 16] 0 1 511 false), (engineAt p 0 [16] 0 1 511 false),
        (engineAt p 0 [16] 1 1 511 false)],
      (ueWord a 0).any (fun q => vIs q.2.2 0x29 [] && loopStart (q.2.1.passes.getD q.1.pass []) = some 0) = true) ∧
    ((ueWord (engineAt x 0 [0] 0 1 0 false) 0).any fun q => vIs q.2.2 0x26 [(1, 0, true.toNat)]) = true ∧
    (x.uprogs.all (fun u => spanDies (engineAt x 0 [0] 0 1 0 true) u = [0]) = true) ∧
    x.uprogs.all (fun u => (waitsIn (engineAt x 0 [0] 0 1 0 true) u 0).any fun r => r.1.pass = 0 && r.1.pc = 1 && r.2) = true ∧
    x.uprogs.all (fun u => (waitsIn (engineAt x 0 [0] 0 0 0 true) u 0).any fun r => r.1.pass = 0 && r.1.pc = 0 && !r.2) = true ∧
    ((ueWord (engineAt (imgP 1 [[word 0x29]]) 0 [0] 0 0 0 false) 0).any fun q =>
      vIs q.2.2 0x29 [] && loopStart (q.2.1.passes.getD q.1.pass []) = none) = true ∧
    ((ueWord (engineAt p 0 [] 0 1 0 false) 0).any fun q => vIs q.2.2 0x29 [] && q.1.groups = []) = true ∧
    ringReach (engineAt x 0 [0] 0 1 0 true) 0 0 = true ∧
    (dieSt (engineAt x 0 [0] 0 1 0 true) 0).ue.run.any (·.wait) = true ∧ (engineAt x 0 [0] 0 1 0 true).loading = false ∧
    uesRun { engineAt x 0 [0] 0 1 0 true with loading := true } = true ∧
    uesRun (engineAt x 0 [0] 0 1 0 true) = true := by decide +kernel

/-- Three failures in a row and fewer, one segment down and none; the last byte of BAR2, and past it. -/
theorem wit_RingScrubAndBar2 :
    let s := stacked ready
    let f (n : Nat) := { stacked ready with dies := [((dieAtRing 15).val, { DieSt.blank with ringFail := [(15, n)] })] }
    (s.flaws = [] ∧ powered s = true ∧ s.tripLatched = false ∧ (15 : Fin 16).val ∉ s.ring ∧ (15 : Fin 16).val ∉ { s with ring := [0] }.ring) ∧
    mget 0 (dieSt (f 2) (dieAtRing 15)).ringFail 15 < 3 ∧ 3 ≤ mget 0 (dieSt (f 3) (dieAtRing 15)).ringFail 15 ∧
    diesRun (stacked (running (img1 []))) = true ∧ rangeValid (stacked (running (img1 []))) (48000000000 - 1) 1 = true ∧
    (3 : Fin 4).val < nStk s ∧ fld (cfgv s (.hbm 15 (stkCtl s 15 3)) 0x05C).toNat 7 0 ≠ 0 ∧
    (0 + 64 ≤ 2 ^ 36 ∧ s.run ≠ .boot ∧ rangeValid s (b2Base s + 0) 64 = true ∧ jobClosed s (b2Base s + 0) 64 false = false) ∧
    (2 ^ 36 - 1 + 1 ≤ 2 ^ 36 ∧ rangeValid s (b2Base s + (2 ^ 36 - 1)) 1 = false) ∧ 2 ^ 36 < 2 ^ 36 - 1 + 2 := by decide +kernel

theorem wit_DmaQueues :
    let h := setReg .hdm (0x048 + 0x20 * 7) 0x8000000C (setReg .hdm (0x04C + 0x20 * 7) 1 (setReg .hdm 0x008 1
      (stacked { ready with host := { State.reset.host with
        linkUp := true
        bme := true
        d3hot := false } })))
    let e := setReg (.edg 15) (0x068 + 0x20 * 3) 0x80000000 (setReg (.edg 15) (0x06C + 0x20 * 3) 1 (stacked ready))
    let r := { e with hbm := (desc.zipIdx.map fun p => (p.2, p.1)).filter fun p => p.2 ≠ 0 }
    let d := parseDesc desc
    r.flaws = [] ∧ MayWrite .host ready ∧ (fld (0x8000000C : W32).toNat 3 0 ≤ 12 ∧ 12 < fld (0x8000000D : W32).toNat 3 0) ∧
    hdqReady h 7 = true ∧ descOk d 6 = true ∧ d.len ≤ 2 ^ d.seg ∧ d.flags.testBit 2 = false ∧ d.flags.testBit 3 = false ∧
    rangeValid h d.m d.len = true ∧ h.isSealed = false ∧ (zeros 64).length = d.len ∧ descOk (parseDesc []) 6 = false ∧
    (mfind { ready with hdq := [(7, ⟨desc, 1, 0⟩)] }.hdq 7).isSome = true ∧
    dmaqReady r 15 3 = true ∧ reg64 r (.edg 15) (0x060 + 0x20 * 3) % 2 ^ 42 + 32 * (reg r (.edg 15) (0x070 + 0x20 * 3)).toNat = 0 ∧
    rangeValid r 0 32 = true ∧ hbmPoisoned r 0 32 = false ∧ mgets 0 r.hbm 0 32 = desc ∧ descOk d 3 = true ∧
    rangeValid r d.p d.len = true ∧ rangeValid r d.m d.len = true ∧ r.ring = [] ∧ hbmPoisoned r d.p d.len = false ∧
    rangeValid (setReg .cap 0x048 0 r) 0 32 = false ∧
    (mfind (dieSt { r with dies := [(15, { DieSt.blank with dma := [(3, ⟨desc, 1, 0⟩)] })] } 15).dma 3).isSome = true ∧
    rangeValid r (parseDesc desc).sts 16 = true ∧
    (pairValue ready .host .hdm 0x164 0 = 0 ∧ ldgRd ready ≤ 0 ∧ 0 ≤ ldgWr ready ∧ 0 % 32 = 0 ∧ ready.lostN = 0) ∧
    (ldgWr ready < pairValue ready .host .hdm 0x164 1) := by unfold MayWrite; decide +kernel


/-! Ticks, decisions, steps. -/

/-- An image whose one tick has no records. -/
def idle : Img := { img1 [] with main := [default] }

theorem wit_TickPreparationAndBoundary :
    let s := running idle
    let t := tiled idle 3 3 { Tile.blank with
      tok := 1
      tokPkNow := 1
      ops := [op1 0x28] }
    let h := { running idle with asq := { State.reset.asq with haltPend := true } }
    let r := { running idle with
      run := .halt
      busy := some .resume }
    moving s = true ∧ inImage s 3 3 = true ∧ (budget t idle < (tile t 3 3).tok ∧ (tile s 3 3).tok ≤ budget s idle) ∧
    ((ceilings s idle).2 < 1 ∧ 0 ≤ (ceilings s idle).2) ∧ moving ready = false ∧
    (s.loading = false ∧ s.run = .run ∧ deciding s = false) ∧
    ((3, 3) ∈ imageTiles idle ∧ unfinished t idle (tile t 3 3) = true ∧ budget t idle < (tile t 3 3).tok ∧
      (ceilings t idle).2 < (tile t 3 3).tokPkNow) ∧
    (∀ p ∈ imageTiles idle, unfinished s idle (tile s p.1 p.2) = false ∧ ¬ budget s idle < (tile s p.1 p.2).tok ∧
      ¬ (ceilings s idle).2 < (tile s p.1 p.2).tokPkNow) ∧ placeOk s = none ∧ s.asq.haltPend = false ∧ s.pendCfg = none ∧
    (s.asq.haltHops = 0 ∧ mwf Tile.blank s.tiles ∧
      (∀ e ∈ s.tiles, e.2.cF.barrier = none ∧ e.2.cB.barrier = none ∧ e.2.cW.barrier = none) ∧ (tickNow s).all (fun tr => !tr.owlWin) = true ∧
      (∀ p ∈ imageTiles idle, (tile s p.1 p.2).comb = [] ∧ (tile s p.1 p.2).fsIn = [])) ∧
    (h.asq.haltPend = true ∧ h.stuck = false ∧ h.busy = none ∧ placeOk h = none ∧ deciding h = false ∧ h.pendCfg = none) ∧
    (r.loading = false ∧ r.run = .halt ∧ r.busy = some .resume ∧ r.asq.tick1 = false ∧ r.asq.haltPend = false ∧ faultValid r = false ∧
      r.asq.recov.suspects = [] ∧ r.asq.recov.hbm = none) := by decide +kernel

/-- One unit with two rungs; decisions without and with an overflow, at the first rung and at the top. -/
def imgL : Img := { img1 [] with
  units := [{ (default : UnitDesc) with
    top := 1
    hold := 3
    th := 5 }]
  main := [{ (default : TickRec) with owlWin := true }] }
def decided (rung flags : Nat) : State := { running imgL with asq := { State.reset.asq with
  units := [(0, { (default : UnitSt) with
    rung := rung
    due := some 0 })]
  results := [(65535, (flags, []))] } }
def sampled (x : Option (List W32)) : State := tiled imgL 3 3 { Tile.blank with owl := some { (default : OwlSample) with
  p := List.replicate 32 0x3F800000
  x := x } }

theorem wit_DecisionsAndChecks :
    (∀ p ∈ [(0, 0), (0, 1), (1, 1)], (decided p.1 p.2).run = .run ∧ (unitSt (decided p.1 p.2) 0).due = some 0 ∧
      (unitSt (decided p.1 p.2) 0).rung = p.1 ∧ (unitResult (decided p.1 p.2) imgL 0).map (·.1) = some p.2) ∧
    (unitDesc imgL 0).map (·.top) = some 1 ∧ pageFrz (decided 0 0) .owl = false ∧
    (tickNow (sampled none)).all (·.owlWin) = true ∧ (tickNow (sampled none)).isSome = true ∧
    (tile (sampled none) 3 3).owl.isSome = true ∧ issuing (sampled none) = true ∧ (sampled none).loading = false ∧
    (tile (sampled none) 3 3).fenced = false ∧ prtUnit (sampled none) 0x060 0 = false ∧
    (tile (sampled none) 3 3).owl.all (fun o => o.x = none) = true ∧ ((unitDesc imgL 0).getD default).th = 5 := by decide +kernel

/-- A block that agrees with its shadow, and one whose product is 1,000 times as large. -/
theorem wit_DecisionsAndChecks_block :
    let o (p : W32) : OwlSample := { (default : OwlSample) with p := List.replicate 32 p }
    blockD (o 0x3F800000) (List.replicate 32 0x3F800000) < 5 ∧ 5 ≤ blockD (o 0x447A0000) (List.replicate 32 0x3F800000) := by
  decide +kernel

theorem wit_StepBoundary :
    let e := { idle with main := [] }
    let s := running e
    let v := { running idle with
      run := .halt
      asq := { State.reset.asq with voided := true } }
    let l := { running idle with ledger := some (0, 1) }
    let b := { l with asq := { State.reset.asq with holdB := true } }
    let ai := { idle with regions := [{ (default : Region) with
      idx := 1
      arr := true
      nblk := 1 }] }
    let a (n : Nat) := { running ai with dies := [(0, { DieSt.blank with arr := [(1, n)] })] }
    (diesRun s = true ∧ s.run ≠ .ready ∧ s.asq.holdB = false ∧ s.run = .run ∧ (∀ r ∈ e.regions, r.arr ≠ true) ∧
      atEnd s e = true ∧ stepNo s ≤ arrStep s ∧ s.loading = false) ∧
    (diesRun v = true ∧ v.run ≠ .run ∧ v.run ≠ .ready ∧ v.asq.voided = true ∧ v.asq.holdB = false) ∧
    (diesRun (a 1) = true ∧ (a 1).asq.holdB = false ∧ atEnd (a 1) ai = false ∧
      (∀ r ∈ ai.regions, r.arr = true ∧ r.nblk ≤ mget 0 (dieSt (a 1) r.owner).arr r.idx) ∧
      ¬ (∀ r ∈ ai.regions, r.nblk ≤ mget 0 (dieSt (running ai) r.owner).arr r.idx)) ∧
    (atEnd (running idle) idle = false ∧ (running idle).asq.holdB = false) ∧
    (diesRun b = true ∧ b.run ≠ .ready ∧ b.asq.holdB = true ∧ b.rdc.epochPend = false ∧ ledgerHolds b = true) ∧
    ledgerHolds (endStep idle l) = true := by decide +kernel

/-! Reduction. -/

/-- A channel waits where the module retains nothing and queues nothing, and its adders stand as the rest says. -/
theorem test_chanWaits {s : State} {p : Plan} {ch : Chan} (h : s.rdc.plan = some p ∧ s.rdc.kept = [] ∧ s.rdc.queue = [] ∧
    (∀ rn ∈ redsOf p ch, redOf p ch.num rn.rseq = some rn ∧
      (∀ role ∈ rolesOf ch (sharesOf p ch) (selfM s),
        let a := addSt s (redKey ch.num rn.rseq) role
        a.tE.isSome = true ∧
        (a.holding.isSome = true → a.complete = false ∧
          a.holding = ((takesOf (sharesOf p ch) role).find? fun x => !shareDone a rn x.share).map (·.share)) ∧
        (role ≠ ch.home → partialRun a (takesOf (sharesOf p ch) role) (rn.blk0 + rn.nblk - a.pnext.getD rn.blk0)
          (a.pnext.getD rn.blk0) = [])) ∧
      (ch.home ∈ rolesOf ch (sharesOf p ch) (selfM s) →
        let a := addSt s (redKey ch.num rn.rseq) ch.home
        a.complete = true ∨ ∃ y ∈ takesOf (sharesOf p ch) ch.home, shareDone a rn y.share = false))) : ChanWaits s p ch := by
  have e : ∀ x n k, runFrom [] x n k = [] := fun x n k => by cases n <;> rfl
  obtain ⟨hp, hk, hq, h⟩ := h
  refine ⟨hp, fun rn hr => (h rn hr).1, fun rn _ x _ => ?_, fun rn _ x _ role _ => ?_, fun rn hr role ho => ((h rn hr).2.1 role ho).1,
    fun rn hr role ho => ((h rn hr).2.1 role ho).2.1, fun rn hr role ho => ((h rn hr).2.1 role ho).2.2, fun rn hr => (h rn hr).2.2,
    fun f hf => by simp [hq] at hf⟩
  · rw [hk]; exact e _ _ _
  · rw [hk]; exact e _ _ _

theorem test_waits :
    (∀ w ∈ [false, true], ∀ t ∈ [0, 5], ∀ o ∈ [none, some 0], ChanWaits (planned w t o []) plan (plan.chans.headD default)) ∧
    ChanWaits (planned false 0 none [(0, ⟨List.replicate 32 0, 0, 5, 0, 0⟩)]) plan (plan.chans.headD default) :=
  ⟨fun w hw t ht o ho => test_chanWaits (by revert w t o; decide +kernel), test_chanWaits (by decide +kernel)⟩

/-- Of each type: its size and side, a good block and a bad one, share 0 still missing or share 2; a sum with a wrong residue. -/
theorem wit_ContributionsAreAdded :
    ∀ q ∈ [(1, false, 2, 3), (2, true, 2, 3), (3, false, 0, 1), (4, true, 0, 1)], ∀ r ∈ [0, 1],
      ∀ m ∈ [[], [(0, (⟨List.replicate 32 0, 0, 5, 0, 0⟩ : SumEnt))]],
      let f := { frame q.2.2.1 q.2.2.2 [block r] with typ := q.1 }
      let s := planned q.2.1 0 none m
      let ch := plan.chans.headD default
      let x := plan.shares.getD q.2.2.1 default
      let rn := plan.reds.headD default
      let a := addSt s (redKey f.chan f.rseq) ch.home
      (typWide f).1 = q.2.1 ∧ diesRun s = true ∧ f.epoch = epochNow s ∧ (chanSt s f.chan).stopped = false ∧
      oldWidth s f (typWide f).1 = false ∧ underWay s plan f (typWide f).2 = false ∧
      contribBad s plan f (typWide f).1 (typWide f).2 = none ∧
      chanOf plan f.chan = some ch ∧ redOf plan f.chan f.rseq = some rn ∧ rn ∈ redsOf plan ch ∧
      roleFor s plan ch f = some ch.home ∧ inOpen s plan ch ch.home f.rseq = true ∧ f.blocks = [block r] ∧
      f.poison = false ∧ f.backup = false ∧ f.ovf = false ∧
      (takesOf (sharesOf plan ch) ch.home).find? (fun y => y.share = f.share) = some x ∧ f.blk0 < 2 ^ 32 ∧ x.share ∉ a.omitted ∧
      mget false a.taken (takeKey x.share f.blk0) = false ∧ mget [] a.held (takeKey x.share f.blk0) = [] ∧
      (∃ y ∈ takesOf (sharesOf plan ch) ch.home, y.share ≠ x.share ∧ shareDone a rn y.share = false) ∧
      (blockGood (typWide f).1 (typWide f).2 (block 0) = true ∧ (block 0).r ≠ 0xFF ∧
        (block 0).x = agreedX s rn f.blk0 (stepNo s) ∧
        ((addEntry (typWide f).2 (mfind a.sums f.blk0) (block 0)).r =
          residue (addEntry (typWide f).2 (mfind a.sums f.blk0) (block 0)).lanes ↔ m = [])) ∧
      ((block 1).r ≠ 0xFF ∧ (block 1).r ≠ residue (block 1).lanes ∧ a.fails < 3) := by
  decide +kernel

theorem wit_SumsDoNotDependOnOrder :
    [block 0, block 1].Perm [block 1, block 0] ∧
    (∀ g ∈ [block 0, block 1], g.lanes.length = 32 ∧ g.x = 0 ∧ g.r < 255) ∧
    (∀ g ∈ [block 0, block 0], g.lanes.length = 32 ∧ g.r = residue g.lanes) ∧
    ([block 0, block 0].foldl (fun a g => some (addEntry false a g)) none).isSome = true := by decide +kernel


theorem wit_ReductionControlFrames :
    let f := { frame 0 1 [] with params := [⟨[], 0, []⟩] }
    let ch := plan1.chans.headD default
    let sh := sharesOf plan1 ch
    let got := [(2 ^ 32 * redKey 0 0, true)]
    (∀ w ∈ [false, true], diesRun (sender w []) = true ∧ f.epoch = epochNow (sender w []) ∧ (sender w []).rdc.plan = some plan1 ∧
      (chanSt (sender w []) f.chan).stopped = false ∧ f.step = stepNo (sender w []) % 2 ^ 32 ∧
      (redSt (sender w []) (redKey f.chan f.rseq)).wide = w) ∧
    chanOf plan1 f.chan = some ch ∧ redOf plan1 f.chan f.rseq = some (plan1.reds.headD default) ∧
    (plan1.reds.headD default).layer = f.layer ∧ sendsOn sh (selfM (sender false [])) = true ∧
    (sender false []).asq.voided = false ∧ f.src = ch.home ∧
    selfM (sender false []) ≠ ch.home ∧ rolesOf ch sh (selfM (sender false [])) = [] ∧
    (∃ x ∈ mySharesOf sh (selfM (sender false [])), f.src ∈ contribTo ch sh x.1) ∧ (plan1.reds.headD default).chan = f.chan ∧
    partOf ch sh (selfM (sender false [])) = true ∧ (chanSt (sender false []) ch.num).takeover = false ∧ f.takeover = false ∧
    f.params.length = 1 ∧ f.nblk = 1 ∧ 0 ≤ f.blk0 ∧ f.blk0 + 1 ≤ 0 + (plan1.reds.headD default).nblk ∧
    parHas (sender false []) (plan1.reds.headD default) 0 = false ∧ parHas (sender false got) (plan1.reds.headD default) 0 = true ∧
    parAll (sender false []) (plan1.reds.headD default) = false ∧ parAll (sender false got) (plan1.reds.headD default) = true := by
  decide +kernel

theorem wit_ReductionControlFrames_permute :
    let e : Perm := ⟨1, 0, 0, 1, 0, 2⟩
    let s := setReg .rdc 0x088 1 { sender false [] with rdc := { (sender false []).rdc with plan := some { plan1 with perms := [e] } } }
    let f := { (default : RFrame) with
      src := 1
      cscale := 63
      words := [5] }
    diesRun s = true ∧ f.epoch = epochNow s ∧ permState s = 1 ∧ e.dst = selfM s ∧ e.src = f.src ∧
    f.cscale.toNat + f.words.length ≤ permWords e ∧ s.ledger = none ∧
    ({ f with epoch := 9 }.epoch ≠ epochNow s ∧ { f with epoch := 9 }.epoch ≠ epochNext s) ∧
    ({ f with src := 0 }.src = selfM s ∧ members s = []) := by decide +kernel

/-- A home whose deadline falls due; one whose reduction is held; a stopped channel; a shadow home with every entry, and with the
home's output held. -/
theorem wit_ReductionDeadlines :
    let ch := plan.chans.headD default
    let rn := plan.reds.headD default
    let s := planned false 5 none []
    let o := planned false 0 (some 0) []
    let c2 := { (plan1.chans.headD default) with
      shadowed := true
      shome := 0 }
    let p2 := { plan1 with chans := [c2] }
    let g := { frame 0 1 [] with params := [⟨[], 0, []⟩] }
    let h := { sender false [(2 ^ 32 * redKey 0 0, true)] with rdc := { (sender false [(2 ^ 32 * redKey 0 0, true)]).rdc with
      plan := some p2
      shDue := [(0, 9)]
      shOut := [(0, [g])] } }
    let v := setReg .rdc 0x088 1 ready
    diesRun s = true ∧ chanOf plan 0 = some ch ∧ redOf plan 0 0 = some rn ∧ rn ∈ redsOf plan ch ∧
    dueRoles s ch (sharesOf plan ch) rn = [(0, 5)] ∧
    (∀ y ∈ takesOf (sharesOf plan ch) 0, arriving (sharesOf plan ch) 0 (addSt s (redKey 0 0) 0) rn y = false) ∧
    (chanSt s 0).stopped = false ∧ (∀ y ∈ takesOf (sharesOf plan ch) 0, backupsOf (sharesOf plan ch) 0 y = []) ∧
    (addSt s (redKey 0 0) 0).poisoned = [] ∧
    ((takesOf (sharesOf plan ch) 0).find? (fun y => !shareDone (addSt s (redKey 0 0) 0) rn y.share)).isSome = true ∧
    (MayWrite .host o ∧ heldRole o plan ch = some (rn, 0) ∧ o.rdc.queue = [] ∧ (addSt o (redKey 0 0) 0).prim = []) ∧
    ((∀ rn ∈ redsOf plan ch, redOf plan 0 rn.rseq = some rn) ∧
      (∀ rn ∈ redsOf plan ch, mget [] o.rdc.kept (redKey 0 rn.rseq) = [] ∧
        ∀ role ∈ rolesOf ch (sharesOf plan ch) (selfM o), role = ch.home ∧ (addSt o (redKey 0 rn.rseq) role).complete = false)) ∧
    (chanOf p2 0 = some c2 ∧ redOf p2 0 0 = some rn ∧ rn ∈ redsOf p2 c2 ∧ (∀ r ∈ redsOf p2 c2, redOf p2 0 r.rseq = some r) ∧
      rn.blk0 + rn.nblk ≤ 2 ^ 32 ∧
      mfind h.rdc.shDue (redKey 0 0) = some 9 ∧ diesRun h = true ∧ c2.shadowed = true ∧ selfM h = c2.shome ∧
      (redSt h (redKey 0 0)).doneSeen = false ∧ (chanSt h 0).stopped = false ∧ (chanSt h 0).takeover = false ∧
      mget [] h.rdc.shOut (redKey 0 0) = [g] ∧ g.blk0 = 0 ∧ rn.blk0 = 0 ∧ rn.nblk = g.params.length) ∧
    powered v = true ∧ permState v = 1 := by
  unfold MayWrite; decide +kernel

/-! Links. -/

/-- A frame that `lframe` makes is intact. -/
theorem test_frameOk (y : Nat) (b : List Byte) (a : Option Nat) (h : b.length + 20 ≤ 124) : frameOk (lframe y b a) = true := by
  have e : (lframe y b a).crc = frameCrc (lframe y b a) := rfl
  simp [frameOk, e]
  simp [lframe, h, frameFlits]

/-- With the ring whole, and with two segments down, so that die 0 is out of die 15's reach. -/
theorem wit_LinkFrames_order :
    ∀ r ∈ [[], [0, 8]], ∀ y ∈ [2, 3, 4], (InOrder 15 (lframe y (zeros 18)) { linked LinkSt.blank with ring := r } ∧
      (lframe y (zeros 18)).ltype = y) ∧
      ringReach { linked LinkSt.blank with ring := r } 15 (Fin.ofNat 16 (byteAt (lframe y (zeros 18)).body 6 / 16)) = r.isEmpty := by
  have h : ∀ r ∈ [[], [0, 8]], ∀ y ∈ [2, 3, 4], let f := lframe y (zeros 18)
      let s := { linked LinkSt.blank with ring := r }
      ringReach s 15 (Fin.ofNat 16 (byteAt f.body 6 / 16)) = r.isEmpty ∧
      powered s = true ∧ portFitted s.code 15 = true ∧ (linkSt s 15).portUp = true ∧ (linkSt s 15).heldDown = false ∧
      (linkSt s 15).queue = [] ∧ ((frameIn s 15 f).errs = 0 ∧ (frameIn s 15 f).done = some f.len) ∧
      (s.isSealed = false ∧ f.enc = false ∧ f.ackv = false ∧ f.freev = false) ∧
      f.lseq % 4096 = (linkSt s 15).rxExp % 4096 ∧ f.dst = ownId s ∧ f.ltype = y := by decide +kernel
  intro r hr y hy
  obtain ⟨n, a, b, c, d, e, w, g, i, j, k⟩ := h r hr y hy
  exact ⟨⟨⟨a, b, c, d, e, w, test_frameOk _ _ _ (by simp [zeros]), g, i, j⟩, k⟩, n⟩

theorem wit_LinkFrames :
    let b (l : List Byte) := l ++ zeros (18 - l.length)
    let u := linked { LinkSt.blank with unacked := [lframe 2 []] }
    let t := linked { LinkSt.blank with t1 := some 5 }
    let x : StageEnt := { (default : StageEnt) with size := 128 }
    let i := { ready with stepBank := [(peerW0Key 0, 0x00050000)] }
    (fieldLE (b []) 16 2 = epochNow ready ∧ fieldLE (b [] ++ [1]) 17 2 ≠ epochNow ready) ∧
    ((mget default ready.stageSt 3).stopped = false ∧ fieldLE (zeros 80) 4 4 = (mget default ready.stageSt 3).rxCount ∧
      fieldLE (zeros 80) 8 8 = (mget default ready.stageSt 3).rxOff ∧ 0 + ((zeros 80).drop 16).length < x.size ∧
      ((zeros 80).drop 16).length % 64 = 0 ∧ (zeros 80).drop 16 ≠ [] ∧ ((zeros 80).drop 16).length ≤ 2048) ∧
    (powered u = true ∧ portFitted u.code 15 = true ∧ (linkSt u 15).portUp = true ∧ portActive u 15 = true ∧
      (linkSt u 15).onAlt = false ∧ (linkSt u 15).heldDown = false ∧ (linkSt u 15).queue = [] ∧ (linkSt u 15).replays < 4 ∧
      (linkSt t 15).portUp = true ∧ (linkSt t 15).queue = []) ∧
    (∀ f ∈ [lframe 0x0A [] (some 0), lframe 0x0B (b []), lframe 8 (b []), lframe 9 (b [1])], WholeFrame u 15 f ∧ WholeFrame t 15 f) ∧
    ((lframe 0x0A [] (some 0)).ackv = true ∧
      (linkSt u 15).unacked.findIdx? (fun g => g.lseq % 4096 = (lframe 0x0A [] (some 0)).ackseq) = some 0) ∧
    ((lframe 0x0B (b [])).ackv = false ∧
      (linkSt u 15).unacked.findIdx? (fun g => g.lseq % 4096 = fieldLE (b []) 0 2 % 4096) = some 0) ∧
    (fieldLE (b [5]) 0 2 ≠ ownId i ∧ peerOf i 5 = some 0) ∧
    (ownId { ready with stepBank := [(pageBase .rdc + 0x200, 5)] } = 5) ∧
    (byteAt (b [0]) 0 = 0) ∧
    (byteAt (b [1, 0, 0, 0, 0, 0, 0, 0, 5]) 0 = 1 ∧
      (linkSt u 15).t1 ≠ some (fieldLE (b [1, 0, 0, 0, 0, 0, 0, 0, 5]) 8 8) ∧
      (linkSt t 15).t1 = some (fieldLE (b [1, 0, 0, 0, 0, 0, 0, 0, 5]) 8 8)) := by unfold WholeFrame; decide +kernel

theorem wit_LinkFrames_parent :
    let s := { ready with
      bankA := [(pageBase .rdc + 0x218, 5)]
      stepBank := [(pageBase (.lnk 15) + 0x044, 0x00010000)] }
    isMaster s = false ∧ tparent s = some 15 ∧ isMaster ready = true := by decide +kernel

theorem wit_LinkPorts :
    let e := setReg (.lnk 15) 0x008 1 ready
    let u (n : Nat) := linked { LinkSt.blank with
      unacked := [lframe 2 []]
      report := true
      replays := n
      rxExp := 1 }
    let g (w : Nat) (h : Bool) := { ready with cages := [(15, ⟨true, w, h⟩)] }
    (powered e = true ∧ portFitted e.code 15 = true ∧ pageEn e (.lnk 15) = true ∧ (linkSt e 15).portUp = false ∧
      (mget Cage.blank e.cages 15).held = false ∧ e.tripLatched = false) ∧
    ((linkSt (u 0) 15).portUp = true ∧ altPort (u 0) 15 = none ∧ (linkSt (u 0) 15).onAlt = false ∧ (linkSt (u 0) 15).nbrIv ≠ 0 ∧
      (linkSt (u 0) 15).report = true ∧ portActive (u 0) 15 = true ∧ (linkSt (u 0) 15).heldDown = false ∧
      (linkSt (u 0) 15).rxExp ≠ 0 ∧ (linkSt (u 0) 15).unacked ≠ [] ∧ (linkSt (u 0) 15).queue = [] ∧
      (linkSt (u 3) 15).replays < 4 ∧ 4 ≤ (linkSt (u 4) 15).replays) ∧
    ((mget Cage.blank ready.cages 15).plugged = false ∧ (mget Cage.blank (g 25 false).cages 15).plugged = true ∧ 25 < 26) ∧
    MayWrite .host ready ∧ ready.busy = none ∧ (linkSt ready 15).portUp = false ∧ portFitted .w56s64p8 2 = false := by
  unfold MayWrite; decide +kernel


/-! Power, trips, resets. -/

/-- The last regulators, failing one of a full field and one of a field whose derate is already lower; droop samples at each
bound. -/
theorem wit_RegulatorsAndDroop :
    let s := powerOn 1440 0 0
    let l := setReg (.fpw 55) 0x058 1 s
    (s.run ≠ .off ∧ fieldFitted s.code 55 = true ∧ (fieldSt s 55).on = true ∧ regExists false 79 = true ∧ regExists true 23 = true ∧
      regExists true 24 = false ∧ bitOf (reg s (.fpw 55) (regMap false 79).1) (regMap false 79).2 = true ∧
      bitOf (reg s (.fpw 55) (regMap true 23).1) (regMap true 23).2 = true ∧ workingVc s 55 = 80 ∧ workingVm s 55 = 24) ∧
    (reg l (.fpw 55) 0x058).toNat ≤ min 51744 (min (51744 * 79 / 72) (51744 * 24 / 20)) ∧
    (fieldSt (powerOn 1440 15 0) 55).calm = 15 ∧ (fieldSt (powerOn 1600 0 63) 55).set = 1600 ∧
    (fieldSt (powerOn 1600 0 63) 55).low = 63 ∧ (fieldSt s 55).vminHalf = 131070 ∧
    reports s 55 23 27 = true ∧ (running (img1 [])).run = .run ∧ inImage (running (img1 [])) 3 3 = true ∧
    tilesInField { running (img1 []) with fields := s.fields } 55 = [] ∧ ((15 : Die), Rail.vlink) ∉ s.railLost ∧ s.tripLatched = false ∧ s.railLost = [] := by decide +kernel

/-- A field whose maps leave it derated: 71 of 72 regulators. -/
theorem wit_RegulatorsAndDroop_derate :
    let s := setReg (.fpw 55) 0x04C 0x00FFFFFF (powerOn 1440 0 0)
    workingVc s 55 = 72 ∧ (reg s (.fpw 55) 0x058).toNat = 51744 ∧
    min 51744 (min (51744 * 71 / 72) (51744 * 24 / 20)) < (reg s (.fpw 55) 0x058).toNat := by decide +kernel

/-- An image of one tile, placed on a wafer without defects. -/
def placed : State :=
  let g : Geo := ⟨[], [], [], [], [], 176, 196⟩
  let i := { img1 [] with
    reqU := 1
    reqV := 1 }
  { running i with
    geo := g
    place := some (placeOf { State.reset with geo := g } i 0)
    fields := (List.range 56).map fun f => (f, { FieldSt.blank with on := true }) }

/-- A tile of a placed image lies in field 27. -/
theorem wit_RegulatorsAndDroop_vmem :
    placed.run = .run ∧ (fieldSt placed 27).on = true ∧ (0, 0) ∈ tilesInField placed 27 ∧ inImage placed 0 0 = true := by
  decide +kernel

theorem wit_SoftStartsAndShorts :
    let q := { State.reset with stage := .sequencing }
    let p := { State.reset with
      stage := .paused
      fcmdBusy := some 55 }
    let f (x : FieldSt) := { p with fields := [(55, x)] }
    (q.run = .boot ∧ outOfSlot 55 q = true ∧ outOfSlot 27 q = false ∧ canStart q 27 = true ∧ (fieldSt q 27).failed = false ∧
      canStart { q with fields := [(27, { FieldSt.blank with tripped := true })] } 27 = false ∧
      outOfSlot 27 { q with fields := [(27, { FieldSt.blank with tripped := true })] } = false ∧ canStart q 55 = true ∧ (fieldSt q 55).failed = false ∧
      canStart { q with fields := [(55, { FieldSt.blank with tripped := true })] } 55 = false) ∧
    (p.pendCfg = none ∧ { p with loading := true }.loading = true ∧ p.run ≠ .run ∧ p.run ≠ .halt ∧ p.loading = false ∧
      recState (setReg .asq 0x0A8 1 { p with run := .halt }) ≠ 0 ∧ recState (setReg .asq 0x0A8 1 { p with run := .halt }) ≠ 7) ∧
    (p.fcmdBusy = some (55 : Field).val ∧ canStart p 55 = true) ∧
    ((fieldSt (f { FieldSt.blank with ramping := true }) 55).ramping = true ∧ q.fcmdBusy ≠ some 55 ∧
      workingVc p 55 = 0 ∧ workingVm p 55 = 0) ∧
    (fieldSt (f { FieldSt.blank with on := true }) 55).on = true ∧ MayWrite .host p ∧ bitOf (0 : W32) 31 = false ∧
    (bitOf (0x80000037 : W32) 31 = true ∧ fld (0x80000037 : W32).toNat 5 0 = 55) ∧
    (State.reset.stage ≠ .paused ∧ p.fcmdBusy.isSome = true ∧ { p with fcmdBusy := none }.fcmdBusy = none) ∧
    (fieldFitted p.code 55 = true ∧ 55 % 8 ∉ p.geo.fcols ∧ 55 / 8 ∉ p.geo.frows ∧ (fieldSt p 55).lost = false) ∧
    (fieldSt (f { FieldSt.blank with tripped := true }) 55).tripped = true ∧ (fieldSt p 55).tripped = false ∧
    (fieldSt p 55).on = false := by unfold MayWrite; decide +kernel

/-- A round over the tiles keeps a depth that is found. -/
theorem test_round (near : Array (List Nat)) (a : Array Nat) (d n k v : Nat) (hk : k < n) (ha : a.getD k 0 = v) (hv : v ≠ 0) :
    ((Array.range n).map fun k => if a.getD k 0 ≠ 0 then a.getD k 0
      else if (near.getD k []).any fun n => a.getD n 0 = d + 1 then d + 2 else 0).getD k 0 = v := by
  have h : (Array.range n)[k]? = some k := by simp [hk]
  simp only [Array.getD_eq_getD_getElem?, Array.getElem?_map] at *
  rw [h]
  simp [ha, hv]

theorem test_rounds (near : Array (List Nat)) (n k v : Nat) (hk : k < n) (hv : v ≠ 0) (l : List Nat) : ∀ a : Array Nat,
    a.getD k 0 = v → (l.foldl (fun (a : Array Nat) d => (Array.range n).map fun k => if a.getD k 0 ≠ 0 then a.getD k 0
      else if (near.getD k []).any fun n => a.getD n 0 = d + 1 then d + 2 else 0) a).getD k 0 = v := by
  induction l with
  | nil => intro a h; exact h
  | cons d l ih => intro a h; exact ih _ (test_round near a d n k v hk h hv)

/-- A neighbour of the root has the root for its upstream. -/
theorem test_upstream (c : ClkSt) (p r : Nat × Nat) (hr : c.root = some r) (hs : c.spans p = true) (hm : r ∈ c.around p)
    (hk : physIdx p < waferX * waferY) (hq : physIdx r < waferX * waferY) (hp : (physIdx p % waferX, physIdx p / waferX) = p)
    (hne : physIdx p ≠ physIdx r) : (c.upstream p).isSome = true := by
  have e : ∀ k v, k < waferX * waferY → v ≠ 0 →
      (((Array.range (waferX * waferY)).map fun k =>
        let zero := (Array.replicate (waferX * waferY) 0).setIfInBounds (physIdx r) 1
        if zero.getD k 0 ≠ 0 then zero.getD k 0
        else if ((((Array.range (waferX * waferY)).map fun k =>
          let p := (k % waferX, k / waferX)
          if c.spans p then (c.around p).map physIdx else []).getD k []).any fun n => zero.getD n 0 = 1) then 2 else 0).getD k 0 = v) →
      c.depths.getD k 0 = v := by
    intro k v hk hv h
    unfold ClkSt.depths
    rw [hr]
    simp only
    rw [show (255 : Nat) = 254 + 1 from rfl, List.range_succ_eq_map, List.foldl_cons]
    exact test_rounds _ _ k v hk hv _ _ h
  have z : ∀ k, k < waferX * waferY → ((Array.replicate (waferX * waferY) 0).setIfInBounds (physIdx r) 1).getD k 0 =
      if k = physIdx r then 1 else 0 := by
    intro k hk
    simp only [Array.getD_eq_getD_getElem?, Array.getElem?_setIfInBounds, Array.getElem?_replicate, Array.size_replicate]
    by_cases h : physIdx r = k
    · subst h; simp [hk]
    · simp [h, hk, Ne.symm h]
  have d1 : c.depths.getD (physIdx r) 0 = 1 := by
    apply e _ _ hq (by decide)
    have h : (Array.range (waferX * waferY))[physIdx r]? = some (physIdx r) := by simp [hq]
    simp only [Array.getD_eq_getD_getElem?, Array.getElem?_map, h, Option.map_some, Option.getD_some]
    have := z _ hq
    simp only [Array.getD_eq_getD_getElem?] at this
    rw [this]; simp
  have d2 : c.depths.getD (physIdx p) 0 = 2 := by
    apply e _ _ hk (by decide)
    have h : (Array.range (waferX * waferY))[physIdx p]? = some (physIdx p) := by simp [hk]
    simp only [Array.getD_eq_getD_getElem?, Array.getElem?_map, h, Option.map_some, Option.getD_some, hp, hs, if_true]
    have z1 := z _ hk
    have z2 := z _ hq
    simp only [Array.getD_eq_getD_getElem?] at z1 z2
    rw [z1, if_neg hne]
    simp only [ne_eq, not_true, if_false, List.any_map, List.any_eq_true]
    rw [if_pos ⟨r, hm, by simp [z2]⟩]
  unfold ClkSt.upstream
  simp only [d2]
  rw [if_neg (by decide), List.find?_isSome]
  exact ⟨r, hm, by simp [d1]⟩
/-- The tile east of the root has an upstream; without a tree none has; a placed tile and one that is not. -/
theorem wit_TripsAndClockFaults_tree :
    (∃ q, ({ ClkSt.reset with cand := some 0 } : ClkSt).upstream (85, 97) = some q) ∧ (∀ p, ClkSt.reset.upstream p = none) ∧
    placed.run = .run ∧ placed.clk = ClkSt.reset ∧ physKind placed 94 97 = (0, 0, 0) ∧
    (physKind placed 0 0).1 ≠ 0 := by
  refine ⟨Option.isSome_iff_exists.mp (test_upstream _ _ (84, 97) ?_ ?_ ?_ ?_ ?_ ?_ ?_), fun p => ?_, ?_⟩
  iterate 7 decide +kernel
  · have h : ClkSt.reset.depths = Array.replicate (waferX * waferY) 0 := rfl
    have z : ∀ k, (Array.replicate (waferX * waferY) 0).getD k 0 = 0 := fun k => by
      simp only [Array.getD_eq_getD_getElem?, Array.getElem?_replicate]; split <;> rfl
    simp only [ClkSt.upstream, h, z]
    rfl
  · decide +kernel

/-- Each trip; samples below and above each threshold; each pin up to its last. -/
theorem wit_TripsAndClockFaults :
    let s := powerOn 1440 0 0
    let t := { s with
      tripLatched := true
      tripAt := 0
      now := 2000 }
    let c := { State.reset with
      stage := .clockSetup
      fields := [(27, { FieldSt.blank with on := true })] }
    let r : Readings := { (default : Readings) with die := [1760] }
    (s.run ≠ .off ∧ s.tripLatched = false ∧ anyFieldOn s = true ∧
      t.now ≤ t.tripAt + 2000 ∧ (∀ b ∈ [0, 1, 2, 4], bitOf (reg t .pwr 0x080) b = false) ∧
      { t with now := 2001 }.tripAt + 2000 < { t with now := 2001 }.now) ∧
    anyFieldOn ready = false ∧ (ready.host.refclk = true ∨ ready.host.refclk = false) ∧
    { ready with host := { ready.host with refclk := true } }.host.refclk = true ∧
    { ready with host := { ready.host with refclk := false } }.host.refclk = false ∧
    (c.run = .boot ∧ c.stage = .clockSetup ∧ (fieldSt c 27).on = true) ∧
    (ready.hot = false ∧ (∃ p ∈ waferSensors r ++ dieSensors r, 1520 < p.2) ∧ ready.inletHigh = false ∧ tripSensors r = [1000] ∧
      (∃ k ∈ tripSensors r, k ∈ { ready with overTemp := [1000] }.overTemp) ∧ (∀ k ∈ tripSensors r, k ∉ ready.overTemp) ∧
      ready.evc.pinFilt = 0xFF) ∧
    (0 < fld (cfgv ready .evc (0x058 + 4 * 7)).toNat 15 0 ∧ fld (cfgv ready .evc (0x058 + 4 * 7)).toNat 15 0 ≤ 65535) ∧
    (ready.clk.locked = false ∧ { ready with clk := { ready.clk with locked := true } }.clk.locked = true) ∧
    (ready.evc.pinFilt.testBit (7 : Fin 8).val = true ∧ edgeFires ready 0 false = true ∧ bitOf (cfgv ready .pwr 0x078) 0 = true ∧
      ready.tripLatched = false) := by decide +kernel

theorem wit_PowerStatesAndResets :
    let o := { State.reset with
      run := .off
      host := { State.reset.host with
        rails := true
        refclk := true
        perstN := false } }
    let u := { ready with host := { ready.host with
      perstN := true
      linkUp := true
      msixEn := true
      fmask := false } }
    State.reset.run ≠ .off ∧ (o.run = .off ∧ o.host.rails = true ∧ o.host.refclk = true) ∧
    (powered u = true ∧ MayWrite .host u ∧ u.host.perstN = true) ∧ o.host.perstN = false ∧
    (u.host.linkUp = true ∧ reg u .evc 0x600 = 0 ∧ u.host.msixEn = true ∧ u.host.fmask = false) ∧ o.host.linkUp = false ∧
    bitOf (reg (setReg .evc 0x40C 0 u) .evc 0x40C) 0 = false := by unfold MayWrite; decide +kernel

/-- A management image of its header alone, its hash right, in a module without the sealed-job unit. -/
theorem wit_BringUp_boot :
    let b := [0x4D, 0x47, 0x4D, 0x54, 0, 0, 1, 0] ++ natLE 4 256 ++ natLE 4 252 ++ natLE 4 252 ++ zeros 236
    let h := sha384 b
    let m := (b.take 64 ++ h ++ zeros 144)
    bootCheck { State.reset with
      code := .w56s64p16
      sram := ((List.range 64).map fun k => (k, w32 (fieldLE m (4 * k) 4))).filter fun p => p.2 ≠ 0 } = 0 := by decide +kernel

/-- Sequencing, every field tripped at its try, or else every field found wanting. -/
def tried (failed : Bool) : State := { State.reset with
  stage := .sequencing
  fields := (List.range 56).map fun f => (f, { FieldSt.blank with
    failed := failed
    tripped := !failed }) }

theorem wit_BringUp :
    let b := State.reset
    let r := { b with
      stage := .running
      env := { b.env with
        inV := 5000
        flow := 800
        inlet := 640 } }
    let q := { b with
      stage := .sequencing
      fields := [(55, { FieldSt.blank with failed := true })] }
    let p := { b with stage := .paused }
    let t := { b with stage := .selfTest }
    (MayWrite .host b ∧ b.busy = none ∧ b.run = .boot ∧ b.stage = .waiting ∧ bootCheck b ≠ 0) ∧ (ready.run ≠ .boot) ∧
    (powered b = true ∧ b.mgmtUp = false ∧ { b with mgmtUp := true }.mgmtUp = true) ∧
    ({ r with tripLatched := true }.tripLatched = true ∧ r.tripLatched = false ∧ r.stage = .running) ∧
    ({ r.env with inV := 4599 }.inV < 4600 ∧ 5600 < { r.env with inV := 5601 }.inV ∧ { r.env with flow := 799 }.flow < 800 ∧
      640 < { r.env with inlet := 641 }.inlet) ∧
    (4600 ≤ r.env.inV ∧ r.env.inV ≤ 5600 ∧ 800 ≤ r.env.flow ∧ r.env.inlet ≤ 640) ∧
    (q.run = .boot ∧ q.stage = .sequencing ∧ (fieldSt q 55).failed = true ∧
      toStart { b with stage := .sequencing } 55 = true ∧
      (∀ f, toStart (tried true) f = false ∧ (fieldSt (tried true) f).ramping = false) ∧ (fieldSt (tried true) 55).failed = true ∧
      (∀ f, toStart (tried false) f = false ∧ (fieldSt (tried false) f).ramping = false) ∧
      ∀ f, (fieldSt (tried false) f).failed = false) ∧
    (p.run = .boot ∧ p.stage = .paused) ∧ (t.run = .boot ∧ t.stage = .selfTest ∧ (default : TestReport).aborted = false ∧ t.tripLatched = false ∧
      t.ring = [] ∧ (default : TestReport).segs.dedup.length ≤ 1 ∧
      ∀ f, (fieldSt t f).tripped = false) ∧
    { t with run := .fault }.run = .fault := by unfold MayWrite; decide +kernel


/-! Jobs, recovery, security, debug. -/

def loaded (r : RunSt) (b : Option MidOp) : State := { running (img1 []) with
  run := r
  busy := b }

theorem wit_JobCommands :
    (MayWrite .host (loaded .run (some .halt)) ∧ (loaded .run (some .halt)).busy = some .halt) ∧
    (ready.busy = none ∧ State.reset.run ≠ .ready ∧ (loaded .ready none).image.isSome = true) ∧
    (ready.image = none ∧ { ready with noArray := true }.noArray = true ∧ ready.noArray = false ∧ jobPageOff ready = true) ∧
    faultValid (setReg .asq 0x068 0x80000000 (loaded .halt none)) = true ∧ faultValid (loaded .halt none) = false ∧
    ({ ready with run := .fault }.run = .fault ∧ { ready with tripLatched := true }.tripLatched = true ∧ ready.tripLatched = false ∧
      ready.stuck = false) ∧
    (loadProgs (loaded .ready (some .load)) (img1 []) = false ∧ (loaded .ready (some .load)).pendCfg = none ∧
      (loaded .ready (some .load)).busy = some .load) ∧
    loadProgs { running { imgU 0 with uprogs := [{ (default : UProg) with trig := 3 }] } with
      dies := [(0, { DieSt.blank with ue := { Ue.blank with ready := [0] } })] }
      { imgU 0 with uprogs := [{ (default : UProg) with trig := 3 }] } = true ∧
    ({ loaded .ready none with state3 := some 0 }.state3 = some 0) ∧
    ((loaded .ready (some .arrayReset)).run ≠ .run ∧ (loaded .ready (some .arrayReset)).run ≠ .off ∧
      (loaded .ready (some .arrayReset)).isSealed = false ∧ (loaded .ready (some .arrayReset)).scrub ≠ .running) ∧
    ({ ready with
      isSealed := true
      scrub := .failed }.isSealed = true ∧ ready.run ≠ .boot ∧ (loaded .run none).isSealed = false ∧ (loaded .run none).run = .run) := by
  unfold MayWrite; decide +kernel

/-- With the job pages on and empty memory at IMG_ADDR, the image fails its first check. -/
theorem wit_JobCommands_bad :
    let s := { jobPages.foldl (fun s pg => setReg pg 0x008 1 s) ready with busy := none }
    jobPageOff s = false ∧ s.run = .ready ∧ s.image = none ∧ s.noArray = false ∧
    (match checkImage s (reg64 s .mid 0x0A0) (seedNow s) with | .error _ => true | .ok _ => false) = true := by decide +kernel

theorem wit_RecoveryCommands :
    let r (n : Nat) := setReg .asq 0x0A8 (w32 n) (loaded .halt none)
    let t := { tiled (img1 []) 0 0 { Tile.blank with setts := [(0, { Sett.blank with tmo := true })] } with run := .halt }
    let h := { loaded .halt none with asq := { State.reset.asq with recov := { State.reset.asq.recov with hbm := some 0 } } }
    (t.run = .halt ∧ anyTimeout t = true ∧ faultValid t = false ∧ (∀ p ∈ [((4 : Nat), (0 : Nat))], inImage t p.1 p.2 = false) ∧
      inImage t 3 3 = true) ∧
    (∀ n ∈ [2, 3, 4, 7], recState (r n) = n) ∧ (r 2).run = .halt ∧ (MayWrite .host ready ∧ ready.image = none) ∧
    (r 4).image = some (img1 []) ∧
    ((slotBytes (r 4) (img1 []) 2).drop 8).take 8 ≠ [1] ∧
    (recState h = 0 ∧ h.asq.recov.hbm.isSome = true ∧ h.image.isSome = true) ∧
    (recState (r 2) ≠ 7 ∧ recState (r 2) ≠ 0) ∧ recState (loaded .halt none) = 0 ∧ (loaded .halt none).asq.recov.hbm = none := by
  unfold MayWrite; decide +kernel

/-- Placement memory with a record that fits its image: at a later step, at an earlier one, of another image, of another length. -/
def recorded (hash : Byte) (len step : Nat) (slot : Nat := 2) : State :=
  setReg64 .asq 0x058 5 (setReg .asq 0x0A8 4 { loaded .halt none with
    image := some { img1 [] with hash := [7, 0, 0, 0, 0, 0, 0, 0] }
    state3 := some 0
    hbm := ((natLE 8 step ++ [hash] ++ zeros 7 ++ natLE 4 len).zipIdx.map fun p =>
      (slotAddr State.reset 0 slot + p.2, p.1)).filter fun p => p.2 ≠ 0 })

theorem wit_RecoveryCommands_rejoin :
    let i := { img1 [] with hash := [7, 0, 0, 0, 0, 0, 0, 0] }
    let b (s : State) := slotBytes s i 2
    (∀ s ∈ [recorded 7 64 6, recorded 7 64 4, recorded 7 60 6, recorded 8 64 6], recState s = 4 ∧ s.run = .halt ∧ stepNo s = 5 ∧
      s.asq.holdB = State.reset.asq.holdB) ∧
    (recordLen i = 64 ∧ i.hash.take 8 = [7, 0, 0, 0, 0, 0, 0, 0]) ∧
    (((b (recorded 7 64 6)).drop 8).take 8 = i.hash.take 8 ∧ fieldLE (b (recorded 7 64 6)) 16 4 = 64 ∧
      5 < fieldLE (b (recorded 7 64 6)) 0 8) ∧
    (((b (recorded 7 64 4)).drop 8).take 8 = i.hash.take 8 ∧ fieldLE (b (recorded 7 64 4)) 16 4 = 64 ∧
      fieldLE (b (recorded 7 64 4)) 0 8 < 5) ∧
    (((b (recorded 7 64 5)).drop 8).take 8 = i.hash.take 8 ∧ fieldLE (b (recorded 7 64 5)) 0 8 = stepNo (recorded 7 64 5) ∧
      fieldLE (b (recorded 7 64 5)) 16 4 = 64 ∧ (recorded 7 64 5).asq.holdB = false ∧
      (recorded 7 64 5).now ≤ (recorded 7 64 5).asq.stepStart + 1000000 ∧ recState (recorded 7 64 5) = 4) ∧
    (let o := recorded 7 64 5 0
     ((slotBytes o i (o.asq.recov.vstep % 2)).drop 8).take 8 = i.hash.take 8 ∧
      fieldLE (slotBytes o i (o.asq.recov.vstep % 2)) 16 4 = 64 ∧ o.asq.holdB = false ∧ recState o = 4 ∧
      fieldLE (slotBytes o i (o.asq.recov.vstep % 2)) 0 8 ≤ stepNo o ∧
      stepNo (recorded 7 64 6 0) < fieldLE (slotBytes (recorded 7 64 6 0) i ((recorded 7 64 6 0).asq.recov.vstep % 2)) 0 8) ∧
    fieldLE (b (recorded 7 60 6)) 16 4 ≠ 64 ∧ ((b (recorded 8 64 6)).drop 8).take 8 ≠ i.hash.take 8 := by decide +kernel

/-- No covering set beats the empty one, so a wafer without defects is achieved whole. -/
theorem test_coverBetter (p : List Nat × List Nat) : coverBetter p ([], []) = false := by
  obtain ⟨a, b⟩ := p
  by_cases h : a = [] ∧ b = []
  · rw [h.1, h.2]; decide +kernel
  · have : (8 - a.length) * (7 - b.length) < 56 := by
      have ha : 8 - a.length ≤ 8 := by omega
      have hb : 7 - b.length ≤ 7 := by omega
      rcases a with _ | ⟨x, a⟩
      · rcases b with _ | ⟨y, b⟩
        · simp at h
        · simp only [List.length_cons, List.length_nil] at *; omega
      · have : 8 - (x :: a).length ≤ 7 := by simp only [List.length_cons]; omega
        calc _ ≤ 7 * 7 := Nat.mul_le_mul this hb
          _ < 56 := by decide
    have h2 : (8 - a.length) * (7 - b.length) ≠ 56 := by omega
    simp [coverBetter, h2]; omega

theorem test_achieve (g : Geo) (seed pkey : Nat) (hd : g.defects = []) (hs : g.skips = []) :
    achieve .w56s64p16S g [] seed pkey = ⟨[], [], [], [], [], 176, 196⟩ := by
  have b : badRows [] [] [] = [] := by decide +kernel
  have e : coverFor .w56s64p16S [] 0 = ([], []) := by decide +kernel
  have c : bestCover .w56s64p16S [] = ([], []) := by
    unfold bestCover
    rw [e]
    generalize (List.range 256).filter _ = l
    induction l with
    | nil => rfl
    | cons m l ih => simpa [test_coverBetter] using ih
  have n : skipRows g ([], []) seed pkey waferY [] = [] := by
    rw [show waferY = 195 + 1 from rfl, skipRows]; simp [hs]
  simp [achieve, c, b, n, hd, hs, shapeOf, retireRows]

/-- Without a clock tree the array is found in one pass. -/
theorem test_placeGeo (seed pkey : Nat) (s : State) (hc : s.code = .w56s64p16S) (hl : lostFields s = []) (hk : s.clk.cand = none)
    (hd : s.geo.defects = []) (hs : s.geo.skips = []) :
    placeGeo seed pkey s = rebuildTree { s with geo := ⟨[], [], [], [], [], 176, 196⟩ } := by
  unfold placeGeo
  rw [show waferX * waferY = 37631 + 1 from rfl, settleTree]
  simp only [hc, hl, test_achieve _ _ _ hd hs]
  rw [if_pos]
  simp [ClkSt.far, rebuildTree, hk]

/-- An image of 2 by 1 tiles that waits for re-placement, and one of 177 columns. -/
def replacing (u : Nat) : State := setReg .asq 0x0A8 3 { loaded .halt none with
  image := some { img1 [] with
    reqU := u
    reqV := 1 }
  place := some (placeOf State.reset (img1 []) 0) }

theorem wit_RecoveryCommands_place :
    let i := { img1 [] with
      reqU := 2
      reqV := 1 }
    let g : Geo := ⟨[], [], [], [], [], 176, 196⟩
    let p := placeOf State.reset (img1 []) 0
    let b := showGeo (placeGeo p.seed p.pkey (rememberSus (replacing 2)))
    (replacing 2).run = .halt ∧ recState (replacing 2) = 3 ∧ (replacing 2).place = some p ∧ (replacing 2).image = some i ∧
    b.geo = g ∧ i.reqU ≤ b.geo.ua ∧ i.reqV ≤ b.geo.va ∧
    reachOk b.geo (placeOf b i p.seed) i = true ∧ fieldOver b (placeOf b i p.seed) i = none ∧
    recState (replacing 177) = 3 ∧ (showGeo (placeGeo p.seed p.pkey (rememberSus (replacing 177)))).geo.ua < 177 := by
  have h : ∀ u, placeGeo (placeOf State.reset (img1 []) 0).seed (placeOf State.reset (img1 []) 0).pkey (rememberSus (replacing u)) =
      rebuildTree { rememberSus (replacing u) with geo := ⟨[], [], [], [], [], 176, 196⟩ } :=
    fun u => test_placeGeo _ _ _ rfl rfl rfl rfl rfl
  simp only [h]
  refine ⟨by decide +kernel, by decide +kernel, rfl, rfl, ?_⟩
  decide +kernel

theorem wit_SpdmRequests :
    let a (n : Nat) := { ready with spdm := ⟨n, 0x13, .doe⟩ }
    (powered ready = true ∧ sjuFitted ready.code = true ∧ sjuFitted .w56s64p16 = false ∧ powered { ready with run := .off } = false) ∧
    (0 < (a 1).spdm.stage ∧ (a 2).spdm.stage = 2 ∧ ready.spdm.stage ≠ 2 ∧ 3 ≤ (a 3).spdm.stage ∧ (a 4).spdm.stage = 4) ∧
    (∀ k ∈ [1, 2, 3, 4, 5, 6, 7], (measurement ready k).isSome = true) ∧ 8 ∉ [1, 2, 3, 4, 5, 6, 7] ∧
    session (a 5) = true ∧ session ready = false ∧ ((a 5).isSealed = false ∧ { a 5 with isSealed := true }.isSealed = true) ∧
    (portFitted (a 5).code 15 = true ∧ fld (reg (a 5) (.lnk 15) 0x040).toNat 2 0 ∉ [3, 4] ∧
      fld (reg (setReg (.lnk 15) 0x040 3 (a 5)) (.lnk 15) 0x040).toNat 2 0 ∈ [3, 4] ∧
      fld (reg (setReg (.lnk 15) 0x040 4 (a 5)) (.lnk 15) 0x040).toNat 2 0 ∈ [3, 4]) ∧
    ((a 5).spdm.via = .doe ∧ (a 5).ide = none ∧ { a 5 with ide := some .link }.ide = some .link ∧
      { a 5 with spdm := ⟨5, 0x13, .mctp⟩ }.spdm.via ≠ .doe) := by decide +kernel

/-- Every condition of SEAL met, and each one missed; a Sealed module that may unseal; a scrub under way. -/
theorem wit_SealingAndUnsealing :
    let a := { ready with
      spdm := ⟨5, 0x13, .doe⟩
      hbmKey := some (zeros 32, zeros 32)
      ide := some .link }
    let b := { a with isSealed := true }
    (powered a = true ∧ sjuFitted a.code = true ∧ session a = true ∧ a.run = .ready ∧ a.image = none ∧ a.level ≠ .intrusive ∧
      a.hbmKey.isSome = true ∧ a.ide.isSome = true ∧ a.isSealed = false ∧ a.scrub ≠ .running) ∧
    (State.reset.run ≠ .ready ∧ { a with level := .intrusive }.level = .intrusive ∧ { a with hbmKey := none }.hbmKey = none ∧
      { a with ide := none }.ide = none ∧ b.isSealed = true) ∧ sjuFitted .w56s64p16 = false ∧
    (b.run = .ready ∧ b.tripLatched = false ∧ b.scrub = .none ∧ { b with scrub := .done }.scrub = .done) ∧
    ({ b with scrub := .running }.scrub = .running ∧ b.ring.length < 2 ∧ 2 ≤ { b with ring := [0, 8] }.ring.length) := by decide +kernel

theorem wit_DebugAndPerturbation :
    let o := { ready with level := .intrusive }
    let h := { loaded .halt none with level := .intrusive }
    (fld (2 : W32).toNat 1 0 = 2 ∧ (2, DbgLevel.intrusive) ∈ [(0, DbgLevel.none), (1, .observe), (2, .intrusive)] ∧
      2 ≤ levelCode o.level ∧ pageEn (enable .dbg) .dbg = true ∧ (enable .dbg).isSealed = false ∧
      pageEn State.reset .dbg = false ∧ levelCode State.reset.level < 2) ∧
    (openIntrusive State.reset = false ∧ openIntrusive h = true ∧ h.run = .halt ∧ faultValid h = false ∧ h.image.isSome = true) ∧
    (o.run ≠ .halt ∧ openIntrusive o = true ∧ powered o = true ∧ lMode o = false ∧ powered ready = true ∧
      openIntrusive ready = false) ∧ MayWrite .host o ∧
    lMode { o with image := some { img1 [] with lmode := true } } = true ∧
    (2000 < fld (2001 : W32).toNat 10 0 ∧ ¬ 2000 < fld (2000 : W32).toNat 10 0) := by unfold MayWrite; decide +kernel

theorem wit_JtagAndMctp :
    let s := { State.reset with
      level := .intrusive
      jtag := { State.reset.jtag with trstN := true } }
    let d (w : W64) (l : DbgLevel) := { s with
      level := l
      jtag := { s.jtag with busy := some w } }
    (tapUp s = true ∧ s.run = .boot ∧ s.stage = .waiting ∧ openIntrusive s = true ∧ s.jtag.busy = none ∧
      (d 0 .none).jtag.busy.isSome = true) ∧ tapUp { s with jtag := { s.jtag with trstN := false } } = false ∧
    (powered s = true ∧ fld (2 : W64).toNat 25 0 % 4 ≠ 0 ∧ fld (0x80000044 : W64).toNat 25 0 % 4 = 0 ∧
      (0x80000044 : W64).toNat.testBit 31 = true ∧ (0x44 : W64).toNat.testBit 31 = false) ∧
    (accSet (d 0x44 .observe) ≠ .n ∧ accSet (d 0x80000044 .intrusive) = .i ∧ accSet (d 0x80000044 .observe) ≠ .i ∧
      (∀ o ∈ prtRegs, spaceOf (pageBase .dbg + o) = .reg .dbg o) ∧ spaceOf 0x44 = .reg .mid 0x44 ∧ Page.mid ≠ .dbg) ∧
    (255 < 256 ∧ 0x7E ∈ [0x00, 0x05, 0x06, 0x7E, 0xFF] ∧ 1 ∉ [0x00, 0x05, 0x06, 0x7E, 0xFF]) := by decide +kernel

theorem wit_StepKeepsInvariant :
    step State.reset = .next { State.reset with now := State.reset.now + 1 } ∧ memWf State.reset ∧ SealRule State.reset :=
  ⟨by rfl, by decide, ⟨nofun, nofun⟩⟩

end Sys2Proof.Tests
end

section
namespace Sys2Proof.Machine

/-! Addresses: a page's registers stand at its base, and the decoder finds them there (17 R473, Table 17.2). -/

/-- The edge die that a page offset names. -/
theorem ofNat_die (d : Die) {n : Nat} (h : n = d.val) : (Fin.ofNat 16 n : Die) = d := by
  subst h; exact Fin.ofNat_val_eq_self d

theorem ofNat_field (f : Field) {n : Nat} (h : n = f.val) : (Fin.ofNat 56 n : Field) = f := by
  subst h; exact Fin.ofNat_val_eq_self f

/-- The decoder on a page of an edge die. -/
theorem spaceOf_diePage {e : Die} {k o : Nat} {pg : Page} (hk : k < 9) (hp : diePage e k = some pg) (ho : o < 0x1000) :
    spaceOf (0x100000 + e.val * 0x10000 + k * 0x1000 + o) = .reg pg o := by
  have he := e.isLt
  have hd : (Fin.ofNat 16 ((0x100000 + e.val * 0x10000 + k * 0x1000 + o - 0x100000) / 0x10000) : Die) = e :=
    ofNat_die e (by omega)
  have hq : (0x100000 + e.val * 0x10000 + k * 0x1000 + o) % 0x10000 / 0x1000 = k := by omega
  have hr : (0x100000 + e.val * 0x10000 + k * 0x1000 + o) % 0x1000 = o := by omega
  unfold spaceOf
  rw [if_neg (by omega), if_pos (by omega), hd, hq, hr, hp]

/-- The decoder on a page of a field: FLD at its base, FPW behind it. -/
theorem spaceOf_fieldPage (f : Field) {k o : Nat} (hk : k < 2) (ho : o < 0x1000) :
    spaceOf (0x400000 + f.val * 0x10000 + k * 0x1000 + o) = .reg (if k = 0 then .fld f else .fpw f) o := by
  have hf := f.isLt
  have hd : (Fin.ofNat 56 ((0x400000 + f.val * 0x10000 + k * 0x1000 + o - 0x400000) / 0x10000) : Field) = f :=
    ofNat_field f (by omega)
  have hr : (0x400000 + f.val * 0x10000 + k * 0x1000 + o) % 0x1000 = o := by omega
  unfold spaceOf
  rw [if_neg (by omega), if_neg (by omega), if_pos (by omega), hd, hr]
  by_cases h0 : k = 0
  · rw [if_pos (by omega), if_pos h0]
  · rw [if_neg (by omega), if_pos (by omega), if_neg h0]

/-- A register of a page decodes to that page and its offset. -/
theorem spaceOf_pageBase (pg : Page) {o : Nat} (ho : o < 0x1000) : spaceOf (pageBase pg + o) = .reg pg o := by
  have glob : ∀ k, k < 16 → spaceOf (k * 0x1000 + o) = .reg (globalPage k) o := by
    intro k hk
    have hq : (k * 0x1000 + o) / 0x1000 = k := by omega
    have hr : (k * 0x1000 + o) % 0x1000 = o := by omega
    unfold spaceOf
    rw [if_pos (by omega), hq, hr]
  cases pg with
  | mid => exact glob 0 (by omega)
  | cap => exact glob 1 (by omega)
  | cfg => exact glob 2 (by omega)
  | evc => exact glob 3 (by omega)
  | tmb => exact glob 4 (by omega)
  | pwr => exact glob 5 (by omega)
  | clk => exact glob 6 (by omega)
  | thm => exact glob 7 (by omega)
  | sec => exact glob 8 (by omega)
  | dbg => exact glob 9 (by omega)
  | hdm => exact glob 10 (by omega)
  | plc => exact glob 11 (by omega)
  | owl => exact glob 12 (by omega)
  | asq => exact glob 13 (by omega)
  | rdc => exact glob 14 (by omega)
  | cbg => exact glob 15 (by omega)
  | edg e => exact spaceOf_diePage (k := 0) (by omega) rfl ho
  | hbm e n =>
    refine spaceOf_diePage (k := n.val + 1) (by omega) ?_ ho
    revert n
    decide +revert
  | upe e => exact spaceOf_diePage (k := 5) (by omega) rfl ho
  | lnk e => exact spaceOf_diePage (k := 6) (by omega) rfl ho
  | red e => exact spaceOf_diePage (k := 7) (by omega) rfl ho
  | fst e => exact spaceOf_diePage (k := 8) (by omega) rfl ho
  | fld f => exact spaceOf_fieldPage f (k := 0) (by omega) ho
  | fpw f => exact spaceOf_fieldPage f (k := 1) (by omega) ho
  | twc =>
    have hr : (0x1000000 + o) % 0x1000 = o := by omega
    show spaceOf (0x1000000 + o) = _
    unfold spaceOf
    rw [if_neg (by omega), if_neg (by omega), if_neg (by omega), if_neg (by omega), if_pos (by omega), hr]

/-- Distinct pages hold no register in common. -/
theorem pageBase_inj {pg q : Page} {o o' : Nat} (ho : o < 0x1000) (ho' : o' < 0x1000)
    (h : pageBase pg + o = pageBase q + o') : pg = q ∧ o = o' := by
  have e := spaceOf_pageBase pg ho
  rw [h, spaceOf_pageBase q ho'] at e
  injection e with e1 e2
  exact ⟨e1.symm, e2.symm⟩

theorem pageBase_lt (pg : Page) : pageBase pg + 0x1000 ≤ 0x4000000 := by
  cases pg <;> dsimp only [pageBase] <;> omega

/-- The reset value of a page's register is the one its row gives. -/
theorem regRst_pageBase (pg : Page) {o : Nat} (ho : o < 0x1000) :
    regRst (pageBase pg + o) = ((regI pg o).map RegI.rst).getD 0 := by
  have hb := pageBase_lt pg
  unfold regRst
  rw [if_pos (by omega), spaceOf_pageBase pg ho]
  dsimp only
  cases regI pg o <;> rfl

/-- A register of another page, or at another offset, after a write. -/
theorem reg_setReg_ne {pg q : Page} {o o' : Nat} (v : W32) (s : State) (ho : o < 0x1000) (ho' : o' < 0x1000)
    (h : q = pg → o' ≠ o) : reg (setReg pg o v s) q o' = reg s q o' := by
  rw [reg_setReg, if_neg]
  intro e
  obtain ⟨hq, hoo⟩ := pageBase_inj ho' ho e
  exact h hq hoo

/-- PAGE_CTL.EN after reset is what Table 0.7 says (00 R19). -/
theorem pageEn_reset (pg : Page) : pageEn State.reset pg = alwaysOn pg := by
  have h : reg State.reset pg 0x008 = if alwaysOn pg then 1 else 0 := by
    show regRst (pageBase pg + 0x008) = _
    rw [regRst_pageBase pg (by omega)]
    rfl
  unfold pageEn
  rw [h]
  cases alwaysOn pg <;> rfl

/-- Settles O2, by `pageEn_reset`. -/
theorem resetEnablesPages : Obligations.ResetEnablesPages := by
  unfold Obligations.ResetEnablesPages
  intro pg
  rw [pageEn_reset]
  cases pg <;> simp [alwaysOn]
end Sys2Proof.Machine
end

section
namespace Sys2Proof.Machine

/-! Every command keeps the fuses, the queue, the form of the store and the rules on the mode; the one outcome beside a next state
is the fault of an offset beyond an aperture (log entry 5). -/

/-- A command that answers a next state keeps what `Keeps` lists: one case for each command, by the lemma on its meaning. -/
theorem exec_keeps (i : Instr) {s t : State} (h : exec i s = .next t) : Keeps s t := by
  cases i with
  | registerWrite rq off v => exact execRegisterWrite_keeps rq off v s h
  | bar0NarrowWrite rq off w => exact execBar0NarrowWrite_keeps rq off w s h
  | bar0NarrowRead rq off width => exact execBar0NarrowRead_keeps rq off width s h
  | lowerHalfRead rq off => exact execLowerHalfRead_keeps rq off s h
  | upperHalfRead rq off => exact execUpperHalfRead_keeps rq off s h
  | lowerHalfWrite rq off v => exact execLowerHalfWrite_keeps rq off v s h
  | upperHalfWrite rq off v => exact execUpperHalfWrite_keeps rq off v s h
  | rcFieldRead rq off mask ev => exact execRcFieldRead_keeps rq off mask ev s h
  | errInjWrite rq pg v => exact execErrInjWrite_keeps rq pg v s h
  | srst rq pg => exact execSrst_keeps rq pg s h
  | softResetComplete pg => exact execSoftResetComplete_keeps pg s h
  | enWrite rq pg b => exact execEnWrite_keeps rq pg b s h
  | rwbWrite rq off v => exact execRwbWrite_keeps rq off v s h
  | nop u v st => exact execNop_keeps u v st s h
  | fence u v st => exact execFence_keeps u v st s h
  | fenceRelease u v st => exact execFenceRelease_keeps u v st s h
  | signal u v st => exact execSignal_keeps u v st s h
  | wait u v st => exact execWait_keeps u v st s h
  | settTimeout u v st => exact execSettTimeout_keeps u v st s h
  | ladderEnd u v st => exact execLadderEnd_keeps u v st s h
  | barrier u v st => exact execBarrier_keeps u v st s h
  | fsignal u v st => exact execFsignal_keeps u v st s h
  | matmul u v st => exact execMatmul_keeps u v st s h
  | matvec u v st => exact execMatvec_keeps u v st s h
  | xdot u v st => exact execXdot_keeps u v st s h
  | xread u v st => exact execXread_keeps u v st s h
  | xclr u v st => exact execXclr_keeps u v st s h
  | vload u v st => exact execVload_keeps u v st s h
  | vmap u v st => exact execVmap_keeps u v st s h
  | vred u v st => exact execVred_keeps u v st s h
  | vpoly u v st => exact execVpoly_keeps u v st s h
  | scaleupd u v st => exact execScaleupd_keeps u v st s h
  | lcopy u v st => exact execLcopy_keeps u v st s h
  | tapin u v st => exact execTapin_keeps u v st s h
  | tapout u v st => exact execTapout_keeps u v st s h
  | send u v st => exact execSend_keeps u v st s h
  | msend u v st => exact execMsend_keeps u v st s h
  | recv u v st => exact execRecv_keeps u v st s h
  | tileOpComplete u v st idx => exact execTileOpComplete_keeps u v st idx s h
  | eccWriteback u v word => exact execEccWriteback_keeps u v word s h
  | add e vd va vb => exact execAdd_keeps e vd va vb s h
  | sub e vd va vb => exact execSub_keeps e vd va vb s h
  | mul e vd va vb => exact execMul_keeps e vd va vb s h
  | fma e vd va vb vc => exact execFma_keeps e vd va vb vc s h
  | min e vd va vb => exact execMin_keeps e vd va vb s h
  | max e vd va vb => exact execMax_keeps e vd va vb s h
  | abs e vd va => exact execAbs_keeps e vd va s h
  | neg e vd va => exact execNeg_keeps e vd va s h
  | cmp e k va vb => exact execCmp_keeps e k va vb s h
  | sel e vd va vb => exact execSel_keeps e vd va vb s h
  | split e vd va vc => exact execSplit_keeps e vd va vc s h
  | scalb e vd va vb => exact execScalb_keeps e vd va vb s h
  | cvt e vd va fmt r sr => exact execCvt_keeps e vd va fmt r sr s h
  | rand e vd at_ => exact execRand_keeps e vd at_ s h
  | poly e vd va tab => exact execPoly_keeps e vd va tab s h
  | ld e vd o => exact execLd_keeps e vd o s h
  | st e va o sr => exact execSt_keeps e va o sr s h
  | lds d vd r => exact execLds_keeps d vd r s h
  | sts d va t => exact execSts_keeps d va t s h
  | qout d va t => exact execQout_keeps d va t s h
  | amax d va => exact execAmax_keeps d va s h
  | xacc d lane va vb => exact execXacc_keeps d lane va vb s h
  | xrd d sk lane => exact execXrd_keeps d sk lane s h
  | xchg d accLanes => exact execXchg_keeps d accLanes s h
  | xchgComplete prog => exact execXchgComplete_keeps prog s h
  | xchgTimeout d => exact execXchgTimeout_keeps d s h
  | scal d vd sk => exact execScal_keeps d vd sk s h
  | usig d fsDie fsn => exact execUsig_keeps d fsDie fsn s h
  | end_ d => exact execEnd_keeps d s h
  | ueProgramStart d => exact execUeProgramStart_keeps d s h
  | bulkUnicastFlit u v p f => exact execBulkUnicastFlit_keeps u v p f s h
  | bulkMulticastFlit u v p f => exact execBulkMulticastFlit_keeps u v p f s h
  | signalFlit u v p f => exact execSignalFlit_keeps u v p f s h
  | combineUp u v p f => exact execCombineUp_keeps u v p f s h
  | combineDown u v p f => exact execCombineDown_keeps u v p f s h
  | haltFlit u v p f => exact execHaltFlit_keeps u v p f s h
  | slotWaitExpiry u v p => exact execSlotWaitExpiry_keeps u v p s h
  | creditReturn u v p => exact execCreditReturn_keeps u v p s h
  | deadlock u v => exact execDeadlock_keeps u v s h
  | aliveWireLow u v p => exact execAliveWireLow_keeps u v p s h
  | blockInject bus tag seq => exact execBlockInject_keeps bus tag seq s h
  | preRead bus tag seq ecc => exact execPreRead_keeps bus tag seq ecc s h
  | inboundBlock u v bus b => exact execInboundBlock_keeps u v bus b s h
  | outboundBlock u v bus b => exact execOutboundBlock_keeps u v bus b s h
  | collectorBlock bus b => exact execCollectorBlock_keeps bus b s h
  | tickMarkerLaunch => exact execTickMarkerLaunch_keeps s h
  | sleepSample => exact execSleepSample_keeps s h
  | tickBoundary => exact execTickBoundary_keeps s h
  | tokAvgOverdraw u v => exact execTokAvgOverdraw_keeps u v s h
  | peakOverdraw u v cost => exact execPeakOverdraw_keeps u v cost s h
  | ladderDecision unit => exact execLadderDecision_keeps unit s h
  | owlCheckComplete u v => exact execOwlCheckComplete_keeps u v s h
  | stepWatchdog => exact execStepWatchdog_keeps s h
  | stepBoundary => exact execStepBoundary_keeps s h
  | farSettSignal d n srcMod srcDie => exact execFarSettSignal_keeps d n srcMod srcDie s h
  | ringFlit seg crcOk m => exact execRingFlit_keeps seg crcOk m s h
  | patrolScrubRead d n ecc => exact execPatrolScrubRead_keeps d n ecc s h
  | bar2Read off len ide ecc => exact execBar2Read_keeps off len ide ecc s h
  | bar2Write off data ide poisoned => exact execBar2Write_keeps off data ide poisoned s h
  | dmaqTailWrite rq d q v => exact execDmaqTailWrite_keeps rq d q v s h
  | dmaqCtlWrite rq d q v => exact execDmaqCtlWrite_keeps rq d q v s h
  | edgeDmaDescriptor d r => exact execEdgeDmaDescriptor_keeps d r s h
  | edgeDmaComplete d q => exact execEdgeDmaComplete_keeps d q s h
  | contrib8 f => exact execContrib8_keeps f s h
  | contrib16 f => exact execContrib16_keeps f s h
  | partial8 f => exact execPartial8_keeps f s h
  | partial16 f => exact execPartial16_keeps f s h
  | param f => exact execParam_keeps f s h
  | widen f => exact execWiden_keeps f s h
  | resend f => exact execResend_keeps f s h
  | done f => exact execDone_keeps f s h
  | permute f => exact execPermute_keeps f s h
  | permDone f => exact execPermDone_keeps f s h
  | contributionDeadline chan rseq => exact execContributionDeadline_keeps chan rseq s h
  | returnDeadline chan rseq => exact execReturnDeadline_keeps chan rseq s h
  | omit_ rq chan => exact execOmit_keeps rq chan s h
  | reset rq chan => exact execReset_keeps rq chan s h
  | permuteTimeout => exact execPermuteTimeout_keeps s h
  | portTrained p pmd => exact execPortTrained_keeps p pmd s h
  | portDown p => exact execPortDown_keeps p s h
  | farFrame p f => exact execFarFrame_keeps p f s h
  | xferFrame p f => exact execXferFrame_keeps p f s h
  | tunnelFrame p f => exact execTunnelFrame_keeps p f s h
  | hello p f => exact execHello_keeps p f s h
  | tsyncRequest p f => exact execTsyncRequest_keeps p f s h
  | tsyncResponse p f => exact execTsyncResponse_keeps p f s h
  | ack p f => exact execAck_keeps p f s h
  | nak p f => exact execNak_keeps p f s h
  | ackTimer p => exact execAckTimer_keeps p s h
  | replayTimeout p => exact execReplayTimeout_keeps p s h
  | helloTimer p => exact execHelloTimer_keeps p s h
  | neighbourTimeout p => exact execNeighbourTimeout_keeps p s h
  | tsyncTimer => exact execTsyncTimer_keeps s h
  | pluggableInsert p watts => exact execPluggableInsert_keeps p watts s h
  | pluggableRemove p => exact execPluggableRemove_keeps p s h
  | cmisTimeout p => exact execCmisTimeout_keeps p s h
  | cbgQuery rq v => exact execCbgQuery_keeps rq v s h
  | cbgQctrWrite rq k v => exact execCbgQctrWrite_keeps rq k v s h
  | inputUndervoltage => exact execInputUndervoltage_keeps s h
  | inputOvervoltage => exact execInputOvervoltage_keeps s h
  | inputOvercurrent => exact execInputOvercurrent_keeps s h
  | regulatorFail f vmem idx => exact execRegulatorFail_keeps f vmem idx s h
  | droopWindow f v2 x y => exact execDroopWindow_keeps f v2 x y s h
  | tileUndervoltage u v => exact execTileUndervoltage_keeps u v s h
  | vmemRange f => exact execVmemRange_keeps f s h
  | fieldSoftStart f => exact execFieldSoftStart_keeps f s h
  | softStartEnd f r => exact execSoftStartEnd_keeps f r s h
  | fieldShort f => exact execFieldShort_keeps f s h
  | pwrFcmd rq v => exact execPwrFcmd_keeps rq v s h
  | pwrVminRst rq => exact execPwrVminRst_keeps rq s h
  | fpwVminRst rq f => exact execFpwVminRst_keeps rq f s h
  | refclkLost => exact execRefclkLost_keeps s h
  | pllUnlock => exact execPllUnlock_keeps s h
  | upstreamClockLoss c r x y => exact execUpstreamClockLoss_keeps c r x y s h
  | clockTreeSetupDone pll cands silent => exact execClockTreeSetupDone_keeps pll cands silent s h
  | thermalSample r => exact execThermalSample_keeps r s h
  | flowTrip => exact execFlowTrip_keeps s h
  | flowLow => exact execFlowLow_keeps s h
  | pinLevelChange pin run => exact execPinLevelChange_keeps pin run s h
  | pwrEnAssert => exact execPwrEnAssert_keeps s h
  | pwrEnDeassert => exact execPwrEnDeassert_keeps s h
  | pwrEnHoldoffEnd => exact execPwrEnHoldoffEnd_keeps s h
  | inputLoss => exact execInputLoss_keeps s h
  | bootRomStart addrSel => exact execBootRomStart_keeps addrSel s h
  | perstNAssert => exact execPerstNAssert_keeps s h
  | perstNRelease => exact execPerstNRelease_keeps s h
  | mgmtSramWindowWrite rq off v => exact execMgmtSramWindowWrite_keeps rq off v s h
  | boot rq => exact execBoot_keeps rq s h
  | arrayUp rq => exact execArrayUp_keeps rq s h
  | continue_ rq => exact execContinue_keeps rq s h
  | pauseTimeout => exact execPauseTimeout_keeps s h
  | selfTestEnd r => exact execSelfTestEnd_keeps r s h
  | load rq => exact execLoad_keeps rq s h
  | loadComplete => exact execLoadComplete_keeps s h
  | run rq => exact execRun_keeps rq s h
  | halt rq => exact execHalt_keeps rq s h
  | resume rq => exact execResume_keeps rq s h
  | unload rq => exact execUnload_keeps rq s h
  | arrayReset rq => exact execArrayReset_keeps rq s h
  | arrayResetComplete => exact execArrayResetComplete_keeps s h
  | moduleReset rq => exact execModuleReset_keeps rq s h
  | portReset rq p => exact execPortReset_keeps rq p s h
  | midWdog rq v => exact execMidWdog_keeps rq v s h
  | wdogExpiry core1 => exact execWdogExpiry_keeps core1 s h
  | settProbeComplete silent => exact execSettProbeComplete_keeps silent s h
  | diagnosisComplete failed => exact execDiagnosisComplete_keeps failed s h
  | replacementComplete => exact execReplacementComplete_keeps s h
  | rejoin rq own => exact execRejoin_keeps rq own s h
  | recover rq => exact execRecover_keeps rq s h
  | abandon rq => exact execAbandon_keeps rq s h
  | getVersion t => exact execGetVersion_keeps t s h
  | getCapabilities t => exact execGetCapabilities_keeps t s h
  | negotiateAlgorithms t ver supported => exact execNegotiateAlgorithms_keeps t ver supported s h
  | getDigests t => exact execGetDigests_keeps t s h
  | getCertificate t slot => exact execGetCertificate_keeps t slot s h
  | challenge t slot nonce => exact execChallenge_keeps t slot nonce s h
  | getMeasurements t index signed => exact execGetMeasurements_keeps t index signed s h
  | keyExchange t pub => exact execKeyExchange_keeps t pub s h
  | finish t verifyOk => exact execFinish_keeps t verifyOk s h
  | heartbeat t => exact execHeartbeat_keeps t s h
  | endSession t => exact execEndSession_keeps t s h
  | setHbmKey dataKey tweakKey => exact execSetHbmKey_keeps dataKey tweakKey s h
  | setLinkKey port rx salt key => exact execSetLinkKey_keeps port rx salt key s h
  | seal_ hash => exact execSeal_keeps hash s h
  | unseal_ spdm => exact execUnseal_keeps spdm s h
  | getSec => exact execGetSec_keeps s h
  | scrubComplete ok us => exact execScrubComplete_keeps ok us s h
  | ideLost => exact execIdeLost_keeps s h
  | dbgLevelWrite rq v => exact execDbgLevelWrite_keeps rq v s h
  | tick1 rq => exact execTick1_keeps rq s h
  | prtHop rq v => exact execPrtHop_keeps rq v s h
  | prtLink rq v => exact execPrtLink_keeps rq v s h
  | prtTok rq v => exact execPrtTok_keeps rq v s h
  | prtWake rq v => exact execPrtWake_keeps rq v s h
  | prtOwl rq v => exact execPrtOwl_keeps rq v s h
  | prtSat rq v => exact execPrtSat_keeps rq v s h
  | prtRes rq v => exact execPrtRes_keeps rq v s h
  | prtLate rq v => exact execPrtLate_keeps rq v s h
  | extest => exact execExtest_keeps s h
  | idcode => exact execIdcode_keeps s h
  | samplePreload tdi => exact execSamplePreload_keeps tdi s h
  | bypass => exact execBypass_keeps s h
  | dbgacc dr => exact execDbgacc_keeps dr s h
  | dbgaccComplete => exact execDbgaccComplete_keeps s h
  | tileWindowRead rq off => exact execTileWindowRead_keeps rq off s h
  | windowReadTimeout rq off => exact execWindowReadTimeout_keeps rq off s h
  | tileWindowWrite rq off v => exact execTileWindowWrite_keeps rq off v s h
  | plcXlIn rq v => exact execPlcXlIn_keeps rq v s h
  | peerSelWrite rq v => exact execPeerSelWrite_keeps rq v s h
  | commit rq => exact execCommit_keeps rq s h
  | rollback rq => exact execRollback_keeps rq s h
  | copy rq => exact execCopy_keeps rq s h
  | tmrCmpWrite rq n hi => exact execTmrCmpWrite_keeps rq n hi s h
  | timerFire n => exact execTimerFire_keeps n s h
  | hdqTailWrite rq q v => exact execHdqTailWrite_keeps rq q v s h
  | hdqCtlWrite rq q v => exact execHdqCtlWrite_keeps rq q v s h
  | hostDmaDescriptor q desc host via => exact execHostDmaDescriptor_keeps q desc host via s h
  | hostDmaComplete q => exact execHostDmaComplete_keeps q s h
  | ldgRdWrite rq hi => exact execLdgRdWrite_keeps rq hi s h
  | pendSetWrite rq w v => exact execPendSetWrite_keeps rq w v s h
  | pendClear rq w v fired => exact execPendClear_keeps rq w v fired s h
  | vectorTimeExpiry n => exact execVectorTimeExpiry_keeps n s h
  | msixUnmask rq n => exact execMsixUnmask_keeps rq n s h
  | pcieHotReset => exact execPcieHotReset_keeps s h
  | pciePowerStateChange d3hot ctl => exact execPciePowerStateChange_keeps d3hot ctl s h
  | setEndpointId eid => exact execSetEndpointId_keeps eid s h
  | getEndpointId => exact execGetEndpointId_keeps s h
  | getMctpVersionSupport typ => exact execGetMctpVersionSupport_keeps typ s h
  | getMessageTypeSupport => exact execGetMessageTypeSupport_keeps s h
  | getVendorDefinedMessageSupport sel => exact execGetVendorDefinedMessageSupport_keeps sel s h
  | smbusRegisterRead off => exact execSmbusRegisterRead_keeps off s h
  | smbusRegisterWrite off v => exact execSmbusRegisterWrite_keeps off v s h
  | fieldSequencingEnd => exact execFieldSequencingEnd_keeps s h
  | refclkReturn => exact execRefclkReturn_keeps s h
  | busbarEnergised reversed => exact execBusbarEnergised_keeps reversed s h
  | hbmRail d r good => exact execHbmRail_keeps d r good s h
  | ideKm k => exact execIdeKm_keeps k s h
  | trstN level => exact execTrstN_keeps level s h

/-- What a command may answer: a next state, or the fault of an offset beyond an aperture. -/
def Answers (r : Res) : Prop := (∃ t, r = .next t) ∨ r = .fault .outsideBar

theorem answers_next (t : State) : Answers (.next t) := .inl ⟨t, rfl⟩

/-- A command that checks its offset first. -/
theorem answers_checked {c : Prop} [Decidable c] (t : State) :
    Answers (if c then .fault .outsideBar else .next t) := by
  split
  · exact .inr rfl
  · exact answers_next t

/-- The commands that name an offset check it; every other command answers a next state. -/
theorem exec_answers (i : Instr) (s : State) : Answers (exec i s) := by
  cases i with
  | registerWrite | bar0NarrowWrite | bar0NarrowRead | lowerHalfRead | upperHalfRead | lowerHalfWrite | upperHalfWrite | rcFieldRead
  | tileWindowRead | windowReadTimeout | tileWindowWrite | rwbWrite
  | mgmtSramWindowWrite | bar2Read | bar2Write => exact answers_checked _
  | _ => exact answers_next _

theorem step_answers (s : State) : Answers (step s) := by
  unfold step
  split
  · exact answers_next _
  · exact exec_answers _ _

/-- A tick on an empty queue touches the timebase alone. -/
theorem idle_keeps (s : State) : Keeps s (idle s) :=
  keeps_ite (keeps_of (keeps_refl s) rfl rfl rfl rfl rfl rfl rfl rfl) (keeps_refl s)

/-- A step keeps what `Keeps` lists, of the state without the command at the front of the queue. -/
theorem step_keeps {s t : State} (h : step s = .next t) : Keeps { s with pending := s.pending.tail } t := by
  unfold step at h
  split at h
  next hp =>
    cases h
    rw [hp]
    have e : ({ s with pending := [] } : State) = s := by rw [← hp]
    exact e ▸ idle_keeps s
  next c rest hp =>
    rw [hp]
    exact exec_keeps c h

/-- Settles O59: `exec_keeps` for the command at the front, `idle_keeps` on an empty queue, and `exec_answers` for the fault. -/
theorem stepKeepsInvariant : Obligations.StepKeepsInvariant := by
  unfold Obligations.StepKeepsInvariant
  refine ⟨fun s t h hm hr => ?_, step_answers⟩
  obtain ⟨hcode, hsil, hser, hmfg, hpend, hmem, hmode⟩ := step_keeps h
  exact ⟨hmem hm, hmode ⟨hr.quiet, hr.fitted⟩, hcode, hsil, hser, hmfg, hpend⟩

end Sys2Proof.Machine
end

section
namespace Sys2Proof.Machine

/-! One rule for each register access: what a requester's command comes to when it may act, and what the access does by the kind of
the register (00 R14 to R17). -/

section
variable {rq : Req} {pg : Page} {off o : Nat} {s : State}

/-! Commands that may act. -/

theorem exec_registerWrite (v : W32) (h : MayWrite rq s) (ho : off < 0x4000000) :
    exec (.registerWrite rq off v) s = .next (busWrite rq off v s) := by
  show execRegisterWrite rq off v s = _
  rw [execRegisterWrite, if_neg (by omega), barWrite_may _ h]

theorem exec_rcFieldRead (mask ev : W32) (h : MayRead rq s) (ho : off < 0x4000000) :
    exec (.rcFieldRead rq off mask ev) s = .next (rcRead rq off mask ev s) := by
  show execRcFieldRead rq off mask ev s = _
  rw [execRcFieldRead, if_neg (by omega), barRead_may _ h]

theorem exec_bar0NarrowRead {width : Nat} (h : MayRead rq s) (ho : off + width ≤ 0x4000000) :
    exec (.bar0NarrowRead rq off width) s = .next (narrowRead rq off width s) := by
  show execBar0NarrowRead rq off width s = _
  rw [execBar0NarrowRead, if_neg (by omega), barRead_may _ h]

theorem lowOff_reg (hs : spaceOf off = .reg pg o) : lowOff off = isLo pg o := by
  unfold lowOff; rw [hs]

theorem highOff_reg (hs : spaceOf off = .reg pg o) : highOff off = isHi pg o := by
  unfold highOff; rw [hs]

theorem exec_lowerHalfRead (h : MayRead rq s) (ho : off < 0x4000000) (hs : spaceOf off = .reg pg o)
    (hl : isLo pg o = true) : exec (.lowerHalfRead rq off) s = .next (readOut rq off s) := by
  show execLowerHalfRead rq off s = _
  rw [execLowerHalfRead, if_neg (by omega), barRead_may _ h, lowOff_reg hs, if_pos hl]

theorem exec_upperHalfRead (h : MayRead rq s) (ho : off < 0x4000000) (hs : spaceOf off = .reg pg o)
    (hh : isHi pg o = true) : exec (.upperHalfRead rq off) s = .next (readOut rq off s) := by
  show execUpperHalfRead rq off s = _
  rw [execUpperHalfRead, if_neg (by omega), barRead_may _ h, highOff_reg hs, if_pos hh]

theorem exec_lowerHalfWrite (v : W32) (h : MayWrite rq s) (ho : off < 0x4000000) (hs : spaceOf off = .reg pg o)
    (hl : isLo pg o = true) : exec (.lowerHalfWrite rq off v) s = .next (busWrite rq off v s) := by
  show execLowerHalfWrite rq off v s = _
  rw [execLowerHalfWrite, if_neg (by omega), barWrite_may _ h, lowOff_reg hs, if_pos hl]

theorem exec_upperHalfWrite (v : W32) (h : MayWrite rq s) (ho : off < 0x4000000) (hs : spaceOf off = .reg pg o)
    (hh : isHi pg o = true) : exec (.upperHalfWrite rq off v) s = .next (busWrite rq off v s) := by
  show execUpperHalfWrite rq off v s = _
  rw [execUpperHalfWrite, if_neg (by omega), barWrite_may _ h, highOff_reg hs, if_pos hh]

/-! Writes, by the kind of the register. -/

theorem busWrite_reg (v : W32) (ha : off % 4 = 0) (hs : spaceOf off = .reg pg o) :
    busWrite rq off v s = pageWrite rq pg o v s := by
  unfold busWrite
  rw [if_neg (by simpa using ha), hs]

theorem pageWrite_absent (v : W32) (hf : pageFitted s.code pg = false) : pageWrite rq pg o v s = s := by
  unfold pageWrite
  rw [if_pos (by simp [hf])]

/-- A write with no effect beyond the bits of a register that is no half of a 64-bit one. -/
theorem pageWrite_plain {v : W32} (hf : pageFitted s.code pg = true) (hx : specialWrite rq pg o v s = none)
    (hl : isLo pg o = false) (hh : isHi pg o = false) : pageWrite rq pg o v s = plainWrite rq pg o v s := by
  unfold pageWrite
  simp only [hf, hx, hl, hh, Bool.not_true, Bool.false_eq_true, if_false]

theorem pageWrite_low {v : W32} (hf : pageFitted s.code pg = true) (hx : specialWrite rq pg o v s = none)
    (hl : isLo pg o = true) : pageWrite rq pg o v s = holdLow rq pg o v s := by
  unfold pageWrite
  simp only [hf, hx, hl, Bool.not_true, Bool.false_eq_true, if_false, if_true]

/-- The upper half of the register whose lower half stands at `o`. -/
theorem isHi_of_low (hl : isLo pg o = true) : isHi pg (o + 4) = true := by
  unfold isHi
  rw [show o + 4 - 4 = o by omega, hl]
  simp

theorem pageWrite_high {v : W32} (hf : pageFitted s.code pg = true) (hx : specialWrite rq pg (o + 4) v s = none)
    (hl : isLo pg o = true) (hn : isLo pg (o + 4) = false) :
    pageWrite rq pg (o + 4) v s = applyHigh rq pg o v s := by
  unfold pageWrite
  simp only [hf, hx, hn, isHi_of_low hl, Bool.not_true, Bool.false_eq_true, if_false, if_true]
  rfl

/-! A plain write, by access code (00 Table 0.4). -/

theorem plainWrite_rw {v m r : W32} (hf : pageFitted s.code pg = true) (hr : regI pg o = some ⟨.rw, m, r⟩) :
    plainWrite rq pg o v s = setReg pg o (maskWrite (reg s pg o) v m) s := by
  simp only [plainWrite, hf, hr, Bool.not_true, Bool.false_eq_true, if_false]

theorem plainWrite_w1c {v m r : W32} (hf : pageFitted s.code pg = true) (hr : regI pg o = some ⟨.w1c, m, r⟩) :
    plainWrite rq pg o v s = setReg pg o (reg s pg o &&& ~~~(v &&& m)) s := by
  simp only [plainWrite, hf, hr, Bool.not_true, Bool.false_eq_true, if_false]

theorem plainWrite_ro {v m r : W32} (hr : regI pg o = some ⟨.ro, m, r⟩) : plainWrite rq pg o v s = s := by
  simp only [plainWrite, hr, ite_self]

theorem plainWrite_reserved (v : W32) (hr : regI pg o = none) : plainWrite rq pg o v s = s := by
  simp only [plainWrite, hr, ite_self]

theorem readReg_absent (hf : pageFitted s.code pg = false) : readReg s rq pg o = 0 := by
  unfold readReg
  rw [if_pos (by simp [hf])]

end

/-- Settles O3: neither `readReg` nor `pageWrite` reaches a register of a page that is not fitted. -/
theorem absentPagesReadZero : Obligations.AbsentPagesReadZero := by
  unfold Obligations.AbsentPagesReadZero
  intro rq pg off o v s hf ha ho hs
  refine ⟨readReg_absent hf, fun hw => ?_⟩
  rw [exec_registerWrite v hw ho, busWrite_reg v ha hs, pageWrite_absent v hf]

/-- Settles O4, by the access code of the register. -/
theorem registerWriteByAccessCode : Obligations.RegisterWriteByAccessCode := by
  unfold Obligations.RegisterWriteByAccessCode
  intro rq pg off o v s hw hf ha ho hs hx hl hh
  have h : exec (.registerWrite rq off v) s = .next (plainWrite rq pg o v s) := by
    rw [exec_registerWrite v hw ho, busWrite_reg v ha hs, pageWrite_plain hf hx hl hh]
  rw [h]
  exact ⟨fun m r hr => congrArg _ (plainWrite_rw hf hr), fun m r hr => congrArg _ (plainWrite_w1c hf hr),
    fun m r hr => congrArg _ (plainWrite_ro hr), fun hr => congrArg _ (plainWrite_reserved v hr)⟩

/-! Read-clear fields (00 R17). -/

/-- Bits of a word whose masked part is replaced. -/
theorem and_mask_replaced (w e m : W32) : ((w &&& ~~~m) ||| (e &&& m)) &&& m = e &&& m := by
  ext i hi
  simp only [BitVec.getElem_and, BitVec.getElem_or, BitVec.getElem_not]
  cases m[i] <;> simp

theorem and_not_mask_replaced (w e m : W32) : ((w &&& ~~~m) ||| (e &&& m)) &&& ~~~m = w &&& ~~~m := by
  ext i hi
  simp only [BitVec.getElem_and, BitVec.getElem_or, BitVec.getElem_not]
  cases m[i] <;> simp

/-- A read of a field clears it and leaves the events of its cycle in it. -/
theorem rcRead_fitted {rq : Req} {pg : Page} {off o : Nat} {s : State} (mask ev : W32) (hs : spaceOf off = .reg pg o)
    (hf : pageFitted s.code pg = true) (hr : (regI pg o).isSome = true) :
    rcRead rq off mask ev s =
      emit (.rdata rq off (reg s pg o)) (setReg pg o ((reg s pg o &&& ~~~mask) ||| (ev &&& mask)) s) := by
  have hn : (regI pg o).isNone = false := by cases h : regI pg o <;> simp [h] at hr ⊢
  unfold rcRead
  simp only [hs, hf, hn, Bool.not_true, Bool.or_self, Bool.false_eq_true, if_false]

/-- Settles O6, by `rcRead_fitted`. -/
theorem readClearFieldKeepsNewEvents : Obligations.ReadClearFieldKeepsNewEvents := by
  unfold Obligations.ReadClearFieldKeepsNewEvents
  intro rq pg off o mask ev s hm ho hs hf hr
  refine ⟨_, exec_rcFieldRead mask ev hm ho, ?_⟩
  rw [rcRead_fitted mask ev hs hf hr]
  refine ⟨rfl, ?_, ?_, fun k hk => rget_rput_ne _ _ hk, rfl⟩
  · rw [reg_emit, reg_setReg_same, and_mask_replaced]
  · rw [reg_emit, reg_setReg_same, and_not_mask_replaced]

end Sys2Proof.Machine
end

section
namespace Sys2Proof.Machine

/-! Accesses of other widths and the halves of 64-bit registers (00 R14, R15). -/

section
variable {rq : Req} {pg : Page} {off o : Nat} {s : State}

/-! A requester's latches. -/

theorem latchOf_putLatch_same (rq : Req) (x : Option (Nat × W32)) (l : PerReq) : latchOf (putLatch rq x l) rq = x := by
  cases rq <;> rfl

theorem latchOf_putLatch_ne {rq q : Req} (x : Option (Nat × W32)) (l : PerReq) (h : q ≠ rq) :
    latchOf (putLatch rq x l) q = latchOf l q := by
  cases rq <;> cases q <;> simp [latchOf, putLatch] at h ⊢

/-! Reads of a page register. -/

theorem busRead_reg (hs : spaceOf off = .reg pg o) : busRead rq off s = readPage rq pg o s := by
  unfold busRead; rw [hs]

theorem readPage_plain (hl : isLo pg o = false) (hh : isHi pg o = false) :
    readPage rq pg o s = (readReg s rq pg o, s) := by
  simp only [readPage, hl, hh, Bool.false_eq_true, if_false]

/-- The state after a read of the lower half at `o`: the upper half is latched for the requester. -/
def latched (rq : Req) (pg : Page) (o : Nat) (s : State) : State :=
  { s with rdLatch := putLatch rq (some (pageBase pg + o, readReg s rq pg (o + 4))) s.rdLatch }

theorem readPage_low (hl : isLo pg o = true) : readPage rq pg o s = (readReg s rq pg o, latched rq pg o s) := by
  simp only [readPage, hl, if_true, latched]

theorem readPage_high_latched {v : W32} (hl : isLo pg o = false) (hh : isHi pg o = true)
    (hv : latchOf s.rdLatch rq = some (pageBase pg + o - 4, v)) : readPage rq pg o s = (v, s) := by
  simp only [readPage, hl, hh, hv, Bool.false_eq_true, if_false, if_true]

theorem readPage_high_free (hl : isLo pg o = false) (hh : isHi pg o = true)
    (hv : ∀ v, latchOf s.rdLatch rq ≠ some (pageBase pg + o - 4, v)) :
    readPage rq pg o s = (readReg s rq pg o, s) := by
  simp only [readPage, hl, hh, Bool.false_eq_true, if_false, if_true]
  cases hx : latchOf s.rdLatch rq with
  | none => rfl
  | some x =>
    obtain ⟨j, w⟩ := x
    have hj : j ≠ pageBase pg + o - 4 := fun e => hv w (e ▸ hx)
    exact if_neg hj

/-! Reads of other widths. -/

/-- Bytes that lie within one aligned word. -/
theorem narrowRead_word {k n : Nat} (ha : off % 4 = 0) (hn : 0 < n) (hk : k + n ≤ 4) :
    narrowRead rq (off + k) n s =
      emit (.rbytes rq (off + k) (((natLE 4 (busRead rq off s).1.toNat).drop k).take n)) (busRead rq off s).2 := by
  have hq : (off + k) / 4 = off / 4 := by omega
  have hm : (off + k) % 4 = k := by omega
  have hw : (off + k + n - 1) / 4 - off / 4 = 0 := by omega
  have h4 : 4 * (off / 4) = off := by omega
  unfold narrowRead
  rw [if_neg (by omega)]
  simp only [hq, hm, hw, h4, readWords, List.append_nil]

/-- The two words of an aligned 8-byte read, in increasing order. -/
theorem narrowRead_pair (ha : off % 4 = 0) :
    narrowRead rq off 8 s =
      emit (.rbytes rq off (natLE 4 (busRead rq off s).1.toNat ++
        natLE 4 (busRead rq (off + 4) (busRead rq off s).2).1.toNat)) (busRead rq (off + 4) (busRead rq off s).2).2 := by
  have hw : (off + 8 - 1) / 4 - off / 4 = 1 := by omega
  have h4 : 4 * (off / 4) = off := by omega
  unfold narrowRead
  rw [if_neg (by omega)]
  simp only [ha, hw, h4, readWords, List.append_nil]
  rfl

/-! Writes of other widths, and poisoned ones. -/

theorem accErrAt_reg (hs : spaceOf off = .reg pg o) (hf : pageFitted s.code pg = true) : accErrAt off s = setAcc pg s := by
  unfold accErrAt
  rw [hs]
  exact if_pos hf

theorem exec_bar0NarrowWrite_bad {width : Nat} {p : Bool} (h : MayWrite rq s) (ho : off < 0x4000000)
    (hp : p = true → rq ≠ .host) (hw : ¬ (width = 4 ∧ off % 4 = 0)) :
    exec (.bar0NarrowWrite rq off ⟨width, p⟩) s = .next (accErrAt off s) := by
  have h1 : (p && decide (rq = .host)) = false := by cases p <;> simp_all
  have h2 : narrowBad off width = true := by simpa [narrowBad] using not_and_or.mp hw
  show execBar0NarrowWrite rq off ⟨width, p⟩ s = _
  rw [execBar0NarrowWrite, if_neg (by omega), barWrite_may _ h]
  simp only [h1, h2, Bool.false_eq_true, if_false, if_true]

theorem exec_bar0NarrowWrite_poisoned {width : Nat} (h : MayWrite .host s) (ho : off < 0x4000000) :
    exec (.bar0NarrowWrite .host off ⟨width, true⟩) s = .next (accErrAt off (logPoison s)) := by
  show execBar0NarrowWrite .host off ⟨width, true⟩ s = _
  rw [execBar0NarrowWrite, if_neg (by omega), barWrite_may _ h]
  rfl

end

/-! The upper half of a read-write register. -/

section
variable {rq : Req} {pg : Page} {o : Nat} {s : State} {m0 r0 m1 r1 : W32} (v : W32)

theorem applyHigh_held {w : W32} (hf : pageFitted s.code pg = true) (h0 : regI pg o = some ⟨.rw, m0, r0⟩)
    (h1 : regI pg (o + 4) = some ⟨.rw, m1, r1⟩) (hw : latchOf s.wrHeld rq = some (pageBase pg + o, w)) :
    applyHigh rq pg o v s = dropHeld rq (setReg pg (o + 4) (maskWrite (reg s pg (o + 4)) v m1)
      (setReg pg o (maskWrite (reg s pg o) w m0) s)) := by
  have hh : heldFor s rq pg o = some w := by simp only [heldFor, hw, if_true]
  simp only [applyHigh, hh, plainWrite_rw hf h0]
  rw [plainWrite_rw (s := setReg pg o _ s) hf h1, reg_setReg_off pg _ _ (by omega)]

theorem applyHigh_alone (hf : pageFitted s.code pg = true) (h1 : regI pg (o + 4) = some ⟨.rw, m1, r1⟩)
    (hw : ∀ w, latchOf s.wrHeld rq ≠ some (pageBase pg + o, w)) :
    applyHigh rq pg o v s = dropHeld rq (setReg pg (o + 4) (maskWrite (reg s pg (o + 4)) v m1) s) := by
  have hh : heldFor s rq pg o = none := by
    unfold heldFor
    cases hx : latchOf s.wrHeld rq with
    | none => rfl
    | some x =>
      obtain ⟨k, w⟩ := x
      exact if_neg fun e : k = pageBase pg + o => hw w (e ▸ hx)
  simp only [applyHigh, hh, plainWrite_rw hf h1]

/-- What a write of an upper half leaves, whether or not its lower half was held. -/
theorem applyHigh_rw (hf : pageFitted s.code pg = true) (h0 : regI pg o = some ⟨.rw, m0, r0⟩)
    (h1 : regI pg (o + 4) = some ⟨.rw, m1, r1⟩) :
    latchOf (applyHigh rq pg o v s).wrHeld rq = none ∧
    reg (applyHigh rq pg o v s) pg (o + 4) = maskWrite (reg s pg (o + 4)) v m1 ∧
    (∀ w, latchOf s.wrHeld rq = some (pageBase pg + o, w) →
      reg (applyHigh rq pg o v s) pg o = maskWrite (reg s pg o) w m0) ∧
    ((∀ w, latchOf s.wrHeld rq ≠ some (pageBase pg + o, w)) → reg (applyHigh rq pg o v s) pg o = reg s pg o) ∧
    (∀ q, q ≠ rq → latchOf (applyHigh rq pg o v s).wrHeld q = latchOf s.wrHeld q ∧
      latchOf (applyHigh rq pg o v s).rdLatch q = latchOf s.rdLatch q) := by
  have drop : ∀ (t : State) (p : Page) (a : Nat), reg (dropHeld rq t) p a = reg t p a := fun _ _ _ => rfl
  have held : ∀ (t : State) (q : Req), q ≠ rq → latchOf (dropHeld rq t).wrHeld q = latchOf t.wrHeld q :=
    fun t q hq => latchOf_putLatch_ne _ _ hq
  by_cases hw : ∃ w, latchOf s.wrHeld rq = some (pageBase pg + o, w)
  · obtain ⟨w, hw⟩ := hw
    rw [applyHigh_held v hf h0 h1 hw]
    refine ⟨latchOf_putLatch_same _ _ _, by rw [drop, reg_setReg_same], fun w' hw' => ?_, fun hn => absurd hw (hn w),
      fun q hq => ⟨held _ q hq, rfl⟩⟩
    rw [hw] at hw'
    cases hw'
    rw [drop, reg_setReg_off pg _ _ (by omega), reg_setReg_same]
  · have hn : ∀ w, latchOf s.wrHeld rq ≠ some (pageBase pg + o, w) := fun w h => hw ⟨w, h⟩
    rw [applyHigh_alone v hf h1 hn]
    refine ⟨latchOf_putLatch_same _ _ _, by rw [drop, reg_setReg_same], fun w h => absurd h (hn w), fun _ => ?_,
      fun q hq => ⟨held _ q hq, rfl⟩⟩
    rw [drop, reg_setReg_off pg _ _ (by omega)]

end

/-- Settles O5, clause by clause, by the rules on narrow accesses and on the latches of the two halves. -/
theorem accessWidthsAndHalves : Obligations.AccessWidthsAndHalves := by
  unfold Obligations.AccessWidthsAndHalves
  refine ⟨?_, ?_, ?_, ?_, ?_, ?_, ?_⟩
  · intro rq pg off width o s hm hf ho hs
    refine ⟨fun p hw hp => ?_, fun hrq => ?_⟩
    · rw [exec_bar0NarrowWrite_bad hm ho hp hw, accErrAt_reg hs hf]
      rfl
    · subst hrq
      rw [exec_bar0NarrowWrite_poisoned hm ho, accErrAt_reg (s := logPoison s) hs hf]
      rfl
  · intro rq pg off k n o s hm ha hn hk ho hs hl hh
    rw [exec_bar0NarrowRead hm (by omega), narrowRead_word ha hn hk, busRead_reg hs, readPage_plain hl hh]
  · intro rq pg off o s hm ha ho hs hs4 hl hn
    have hlatch : latchOf (latched rq pg o s).rdLatch rq = some (pageBase pg + (o + 4) - 4, readReg s rq pg (o + 4)) :=
      latchOf_putLatch_same _ _ _
    refine ⟨_, exec_bar0NarrowRead hm ho, ?_⟩
    rw [narrowRead_pair ha, busRead_reg hs, readPage_low hl, busRead_reg hs4,
      readPage_high_latched hn (isHi_of_low hl) hlatch]
    exact ⟨rfl, rfl⟩
  · intro rq pg off o s hm ho hs hl
    rw [exec_lowerHalfRead hm ho hs hl, readOut, busRead_reg hs, readPage_low hl]
    rfl
  · intro rq pg off o s hm ho hs hh hl
    rw [exec_upperHalfRead hm ho hs hh, readOut, busRead_reg hs]
    refine ⟨fun v hv => ?_, fun hv => ?_⟩
    · rw [readPage_high_latched hl hh hv]
      rfl
    · rw [readPage_high_free hl hh hv]
      rfl
  · intro rq pg off o v s hm ho ha hs hf hl hx
    rw [exec_lowerHalfWrite v hm ho hs hl, busWrite_reg v ha hs, pageWrite_low hf hx hl]
    rfl
  · intro rq pg off o v m0 r0 m1 r1 s hm ho ha hs hf hl hn hx h0 h1
    refine ⟨_, exec_upperHalfWrite v hm ho hs (isHi_of_low hl), ?_⟩
    rw [busWrite_reg v ha hs, pageWrite_high hf hx hl hn]
    exact applyHigh_rw v hf h0 h1

end Sys2Proof.Machine
end

section
namespace Sys2Proof.Machine

/-! Error injection (00 R22) and denied debug accesses (16 R465). -/

/-- Events, and registers anywhere: what an error, or ACC_ERR, of any page may change. -/
def EventsAndRegs (s t : State) : Prop := ∃ e r o, t = { s with evc := e, regs := r, out := o }

theorem eventsAndRegs_refl (s : State) : EventsAndRegs s s := ⟨s.evc, s.regs, s.out, rfl⟩

theorem eventsAndRegs_trans {a b c : State} (h : EventsAndRegs a b) (g : EventsAndRegs b c) : EventsAndRegs a c := by
  obtain ⟨e, r, o, rfl⟩ := h
  obtain ⟨e', r', o', rfl⟩ := g
  exact ⟨e', r', o', rfl⟩

theorem eventsAndRegs_setAcc (pg : Page) (s : State) : EventsAndRegs s (setAcc pg s) := ⟨s.evc, _, s.out, rfl⟩

/-- A run of errors of one page. -/
theorem eventsAndRegs_setErrs (pg : Page) (l : List Nat) (s : State) :
    EventsAndRegs s (forAll l (fun n s => setErr pg n s) s) := by
  unfold forAll
  induction l generalizing s with
  | nil => exact eventsAndRegs_refl s
  | cons n l ih => exact eventsAndRegs_trans (setErr_shape pg n s) (ih _)

theorem setErrs_keeps_bit (pg : Page) {l : List Nat} (hl : ∀ n ∈ l, n < 32) {m : Nat} {s : State}
    (h : bitOf (reg s pg 0x010) m = true) : bitOf (reg (forAll l (fun n s => setErr pg n s) s) pg 0x010) m = true := by
  unfold forAll
  induction l generalizing s with
  | nil => exact h
  | cons n l ih =>
    exact ih (fun k hk => hl k (List.mem_cons_of_mem n hk)) (setErr_keeps_bit pg (hl n (List.mem_cons_self ..)) h)

/-- Each error of the run sets its bit, and the errors behind it keep it. -/
theorem setErrs_bit (pg : Page) {l : List Nat} (hl : ∀ n ∈ l, n < 32) {m : Nat} (hm : m ∈ l) (s : State) :
    bitOf (reg (forAll l (fun n s => setErr pg n s) s) pg 0x010) m = true := by
  induction l generalizing s with
  | nil => cases hm
  | cons n l ih =>
    have hr : ∀ k ∈ l, k < 32 := fun k hk => hl k (List.mem_cons_of_mem n hk)
    rcases List.mem_cons.mp hm with rfl | hm
    · exact setErrs_keeps_bit pg hr (setErr_bit pg (hl m (List.mem_cons_self ..)) s)
    · exact ih hr hm (setErr pg n s)

theorem setAcc_bit (pg : Page) (s : State) (m : Nat) :
    bitOf (reg (setAcc pg s) pg 0x010) m = if m = 31 then true else bitOf (reg s pg 0x010) m := by
  unfold setAcc
  rw [reg_setReg_same, bitOf_setBit _ _ _ (by omega)]

theorem injectErrs_eventsAndRegs (pg : Page) (v : W32) (s : State) : EventsAndRegs s (injectErrs pg v s) := by
  unfold injectErrs
  dsimp only
  split
  · exact eventsAndRegs_trans (eventsAndRegs_setErrs ..) (eventsAndRegs_setAcc ..)
  · exact eventsAndRegs_setErrs ..

/-- Every written bit of ERR_INJ is set in ERR_STS. -/
theorem injectErrs_bit (pg : Page) (v : W32) (s : State) {n : Nat} (hn : n < 32) (hv : bitOf v n = true) :
    bitOf (reg (injectErrs pg v s) pg 0x010) n = true := by
  have hl : ∀ k ∈ (List.range 31).filter fun k => bitOf v k, k < 32 := fun k hk => by
    have := List.mem_range.mp (List.mem_filter.mp hk).1
    omega
  unfold injectErrs
  dsimp only
  by_cases h31 : n = 31
  · subst h31
    rw [if_pos hv, setAcc_bit, if_pos rfl]
  · have hb := setErrs_bit pg hl (List.mem_filter.mpr ⟨List.mem_range.mpr (by omega), hv⟩) s
    refine bit_ite ?_ hb
    rw [setAcc_bit, if_neg h31]
    exact hb

/-! A denied debug access. -/

theorem pageFrz_setAcc (pg : Page) (s : State) : pageFrz (setAcc pg s) pg = pageFrz s pg := by
  unfold pageFrz setAcc
  rw [reg_setReg_off _ _ _ (by omega)]

theorem denyDbg_bit (s : State) : bitOf (reg (denyDbg s) .dbg 0x010) 31 = true := by
  unfold denyDbg
  rw [reg_bump_off _ _ _ (by omega), setAcc_bit, if_pos rfl]

theorem denyDbg_count (s : State) :
    reg (denyDbg s) .dbg 0x048 = if pageFrz s .dbg then reg s .dbg 0x048 else satInc (reg s .dbg 0x048) := by
  have h : reg (setAcc .dbg s) .dbg 0x048 = reg s .dbg 0x048 := reg_setReg_off _ _ _ (by omega)
  unfold denyDbg bump
  rw [pageFrz_setAcc]
  split
  · exact h
  · rw [reg_setReg_same, h]

theorem denyDbg_others (s : State) {k : Nat} (h1 : k ≠ pageBase .dbg + 0x010) (h2 : k ≠ pageBase .dbg + 0x048) :
    rget (denyDbg s).regs k = rget s.regs k := by
  have h : rget (setAcc .dbg s).regs k = rget s.regs k := rget_rput_ne _ _ h1
  unfold denyDbg bump
  split
  · exact h
  · exact (rget_rput_ne _ _ h2).trans h

/-! The write to ERR_INJ. -/

theorem exec_errInjWrite {rq : Req} (pg : Page) (v : W32) {s : State} (h : MayWrite rq s) :
    exec (.errInjWrite rq pg v) s = .next (errInj pg v s) := by
  show execErrInjWrite rq pg v s = _
  rw [execErrInjWrite, barWrite_may _ h]

theorem openIntrusive_iff (s : State) : openIntrusive s = true ↔ s.isSealed = false ∧ s.level = .intrusive := by
  simp [openIntrusive]

theorem errInj_absent {pg : Page} (v : W32) {s : State} (hf : pageFitted s.code pg = false) : errInj pg v s = s := by
  simp [errInj, hf]

theorem errInj_denied {pg : Page} (v : W32) {s : State} (hf : pageFitted s.code pg = true)
    (ho : ¬ (s.isSealed = false ∧ s.level = .intrusive)) : errInj pg v s = denyDbg s := by
  have h : openIntrusive s = false := by rw [Bool.eq_false_iff, ne_eq, openIntrusive_iff]; exact ho
  simp [errInj, hf, h]

theorem errInj_open {pg : Page} (v : W32) {s : State} (hf : pageFitted s.code pg = true)
    (ho : s.isSealed = false ∧ s.level = .intrusive) : errInj pg v s = injectErrs pg v s := by
  simp [errInj, hf, (openIntrusive_iff s).mpr ho]

/-- Settles O7: `errInj` with the page absent, denied, and in Open at Intrusive. -/
theorem errorInjectionNeedsIntrusive : Obligations.ErrorInjectionNeedsIntrusive := by
  unfold Obligations.ErrorInjectionNeedsIntrusive
  refine ⟨?_, ?_, ?_⟩
  · intro rq pg v s hm hs hl hf
    rw [exec_errInjWrite pg v hm, errInj_open v hf ⟨hs, hl⟩]
    exact ⟨rfl, injectErrs_eventsAndRegs pg v s, fun n hn hv => injectErrs_bit pg v s hn hv⟩
  · intro rq pg v s hm hf
    rw [exec_errInjWrite pg v hm, errInj_absent v hf]
  · intro rq pg v s hm hf ho
    refine ⟨denyDbg s, ?_, denyDbg_shape s, denyDbg_bit s, denyDbg_count s, fun k h1 h2 => denyDbg_others s h1 h2⟩
    rw [exec_errInjWrite pg v hm, errInj_denied v hf ho]

end Sys2Proof.Machine
end

section
namespace Sys2Proof.Machine

/-! A port goes down (11 R336, R348, R349). Failover and replay send frames, which may signal setts, which may raise contract faults;
whatever they reach, soft resets under way and both banks stay, and no port comes up. -/

/-- `t` is `a` after changes that leave the soft resets and both configuration banks alone and bring no port up. -/
structure PortsFall (a t : State) : Prop where
  srst : t.srst = a.srst
  bankA : t.bankA = a.bankA
  bankB : t.bankB = a.bankB
  up : ∀ p, (linkSt t p).portUp = true → (linkSt a p).portUp = true

theorem portsFall_refl (s : State) : PortsFall s s := ⟨rfl, rfl, rfl, fun _ h => h⟩

/-- A change outside what `PortsFall` speaks of. -/
theorem portsFall_of {a s t : State} (h : PortsFall a s) (h1 : t.srst = s.srst) (h2 : t.bankA = s.bankA)
    (h3 : t.bankB = s.bankB) (h4 : t.links = s.links) : PortsFall a t :=
  ⟨h1.trans h.srst, h2.trans h.bankA, h3.trans h.bankB, fun p hp => h.up p (by rw [linkSt, h4] at hp; exact hp)⟩

theorem portsFall_ite {c : Prop} [Decidable c] {a s t : State} (h : PortsFall a s) (g : PortsFall a t) :
    PortsFall a (if c then s else t) := by
  split <;> assumption

theorem portsFall_forAll {α : Type} (l : List α) {f : α → State → State} {a s : State}
    (hf : ∀ x s, PortsFall a s → PortsFall a (f x s)) (h : PortsFall a s) : PortsFall a (forAll l f s) := by
  unfold forAll
  induction l generalizing s with
  | nil => exact h
  | cons x l ih => exact ih (hf x s h)

section
variable {a s : State}

/-! Registers, events, items, tiles and dies. -/

theorem portsFall_setReg (pg : Page) (o : Nat) (v : W32) (h : PortsFall a s) : PortsFall a (setReg pg o v s) :=
  portsFall_of h rfl rfl rfl rfl

theorem portsFall_setReg64 (pg : Page) (o v : Nat) (h : PortsFall a s) : PortsFall a (setReg64 pg o v s) :=
  portsFall_of h rfl rfl rfl rfl

theorem portsFall_setBits (pg : Page) (o hi lo v : Nat) (h : PortsFall a s) : PortsFall a (setBits pg o hi lo v s) :=
  portsFall_of h rfl rfl rfl rfl

theorem portsFall_setLnkState (p : Die) (v : Nat) (h : PortsFall a s) : PortsFall a (setLnkState p v s) :=
  portsFall_setBits _ _ _ _ _ h

theorem portsFall_setTile (u v : Nat) (x : Tile) (h : PortsFall a s) : PortsFall a (setTile u v x s) :=
  portsFall_of h rfl rfl rfl rfl

theorem portsFall_setDie (d : Die) (x : DieSt) (h : PortsFall a s) : PortsFall a (setDie d x s) :=
  portsFall_of h rfl rfl rfl rfl

theorem portsFall_emit (m : OutMsg) (h : PortsFall a s) : PortsFall a (emit m s) := portsFall_of h rfl rfl rfl rfl

theorem portsFall_bump (pg : Page) (o n : Nat) (h : PortsFall a s) : PortsFall a (bump pg o s n) :=
  portsFall_of h (bump_srst ..) (bump_bankA ..) (bump_bankB ..) (bump_links ..)

theorem portsFall_fire (n : Nat) (h : PortsFall a s) : PortsFall a (fire n s) :=
  portsFall_of h (fire_srst ..) (fire_bankA ..) (fire_bankB ..) (fire_links ..)

theorem portsFall_setErr (pg : Page) (n : Nat) (h : PortsFall a s) : PortsFall a (setErr pg n s) :=
  portsFall_of h (setErr_srst ..) (setErr_bankA ..) (setErr_bankB ..) (setErr_links ..)

theorem portsFall_vectorFire (n : Nat) (h : PortsFall a s) : PortsFall a (vectorFire n s) := by
  obtain ⟨_, _, _, e⟩ := vectorFire_shape n s
  rw [e]
  exact portsFall_of h rfl rfl rfl rfl

theorem portsFall_setRun (r : RunSt) (h : PortsFall a s) : PortsFall a (setRun r s) :=
  portsFall_of h (setRun_srst ..) (setRun_bankA ..) (setRun_bankB ..) (setRun_links ..)

theorem portsFall_midDone (cmd code : Nat) (h : PortsFall a s) : PortsFall a (midDone cmd code s) :=
  portsFall_of h (midDone_srst ..) (midDone_bankA ..) (midDone_bankB ..) (midDone_links ..)

theorem portsFall_tileNetErr (u v o : Nat) (h : PortsFall a s) : PortsFall a (tileNetErr u v o s) :=
  portsFall_fire _ (portsFall_setTile _ _ _ h)

theorem portsFall_ledgerItemOf (step typ : Nat) (body : List Byte) (h : PortsFall a s) :
    PortsFall a (ledgerItemOf step typ body s) := by
  obtain ⟨_, _, _, _, _, _, _, _, _, _, _, _, e, _⟩ := ledgerOnly_ledgerItemOf step typ body s
  rw [e]
  exact portsFall_of h rfl rfl rfl rfl

theorem portsFall_ledgerItem (typ : Nat) (body : List Byte) (h : PortsFall a s) : PortsFall a (ledgerItem typ body s) :=
  portsFall_ledgerItemOf _ _ _ h

theorem portsFall_faultItem (cls cause : Nat) (sus : List (Nat × Nat)) (h : PortsFall a s) :
    PortsFall a (faultItem cls cause sus s) := portsFall_ledgerItem _ _ h

/-! Links. -/

/-- A link takes a state in which its port is not up unless it was. -/
theorem portsFall_setLink {p : Die} {x : LinkSt} (hx : x.portUp = true → (linkSt s p).portUp = true)
    (h : PortsFall a s) : PortsFall a (setLink p x s) := by
  refine ⟨h.srst, h.bankA, h.bankB, fun q hq => h.up q ?_⟩
  by_cases hqp : q = p
  · subst hqp
    rw [linkSt_setLink_same] at hq
    exact hx hq
  · rwa [linkSt_setLink_ne x s hqp] at hq

/-- A link changes but for its port. -/
theorem portsFall_setLink_same {p : Die} {x : LinkSt} (hx : x.portUp = (linkSt s p).portUp) (h : PortsFall a s) :
    PortsFall a (setLink p x s) := portsFall_setLink (fun e => hx ▸ e) h

theorem portsFall_showActive (h : PortsFall a s) : PortsFall a (showActive s) :=
  portsFall_forAll _ (fun p _ h => portsFall_setLnkState p _ h) h

theorem portsFall_linksDown (h : PortsFall a s) : PortsFall a (linksDown s) :=
  portsFall_forAll _ (fun _ _ h => portsFall_setBits _ _ _ _ _ (portsFall_setLink nofun h)) h

/-! Trips and the entry into Fault (13 R403, 15 R445). -/

theorem portsFall_sealRegions (enc : Bool) (h : PortsFall a s) : PortsFall a (sealRegions enc s) := by
  unfold sealRegions
  split
  · exact portsFall_ite h (portsFall_forAll _ (fun _ _ h => portsFall_of h rfl rfl rfl rfl) h)
  · exact h

theorem portsFall_eraseKeys (h : PortsFall a s) : PortsFall a (eraseKeys s) := by
  have hk := portsFall_sealRegions true h
  unfold eraseKeys
  dsimp only
  generalize sealRegions true s = t at hk
  refine portsFall_showActive ⟨hk.srst, hk.bankA, hk.bankB, fun p hp => hk.up p ?_⟩
  unfold linkSt at hp
  rwa [mget_mmap_of (by rfl)] at hp

theorem portsFall_failScrub (h : PortsFall a s) : PortsFall a (failScrub s) :=
  portsFall_ite (portsFall_fire _ (portsFall_setErr _ _ (portsFall_of h rfl rfl rfl rfl))) h

theorem portsFall_latchTrip (h : PortsFall a s) : PortsFall a (latchTrip s) := portsFall_of h rfl rfl rfl rfl

theorem portsFall_tripMarks (bit : Nat) (pg : Page) (eb : Nat) (h : PortsFall a s) : PortsFall a (tripMarks bit pg eb s) := by
  have h1 := portsFall_setErr .pwr 7
    (portsFall_setErr pg eb (portsFall_setReg .pwr 0x080 (setBit (reg s .pwr 0x080) bit true) h))
  have h2 := portsFall_failScrub (portsFall_linksDown (s := fieldsOff _) (portsFall_of h1 rfl rfl rfl rfl))
  exact portsFall_ite h (portsFall_latchTrip (portsFall_ite (portsFall_eraseKeys h2) h2))

theorem portsFall_pinMarks (h : PortsFall a s) : PortsFall a (pinMarks s) := by
  have h1 := portsFall_ite (c := (!s.evc.pinFilt.testBit 0 && bitOf (cfgv s .pwr 0x078) 0) = true)
    (portsFall_tripMarks 6 .thm 6 h) h
  exact portsFall_ite (portsFall_tripMarks _ _ _ h1) h1

theorem portsFall_vecRecheck (h : PortsFall a s) : PortsFall a (vecRecheck s) :=
  portsFall_forAll _ (fun n _ h => portsFall_ite (portsFall_vectorFire n h) h) h

theorem portsFall_takeStepBank (h : PortsFall a s) : PortsFall a (takeStepBank s) :=
  portsFall_ite (portsFall_of h rfl rfl rfl rfl) (portsFall_setReg _ _ _ (portsFall_of h rfl rfl rfl rfl))

theorem portsFall_cfgDone (cmd code : Nat) (h : PortsFall a s) : PortsFall a (cfgDone cmd code s) :=
  portsFall_fire _ (portsFall_setReg _ _ _ h)

theorem portsFall_applyCfg (h : PortsFall a s) : PortsFall a (applyCfg s) := by
  unfold applyCfg
  split
  · exact h
  next op hp =>
    lift_lets
    intro ver s1 s2 s3 s4
    have h2 : PortsFall a s2 := portsFall_of h rfl rfl rfl rfl
    have h3 : PortsFall a s3 := by
      unfold s3
      split
      · exact portsFall_setReg _ _ _ h2
      · exact h2
    have h4 : PortsFall a s4 := portsFall_ite h3 (portsFall_takeStepBank h3)
    exact portsFall_vecRecheck (portsFall_ledgerItem _ _ (portsFall_cfgDone _ _ h4))

theorem portsFall_setRec (v : Nat) (h : PortsFall a s) : PortsFall a (setRec v s) :=
  portsFall_ite h (portsFall_fire _ (portsFall_setBits _ _ _ _ _ h))

theorem portsFall_recoveryCut (h : PortsFall a s) : PortsFall a (recoveryCut s) := by
  have hi : PortsFall a (recoveryItem false 0xFFFF 0 s) := by
    unfold recoveryItem
    dsimp only
    split
    · exact portsFall_ledgerItem _ _ (portsFall_ledgerItem _ _ h)
    · exact portsFall_ledgerItem _ _ h
  unfold recoveryCut
  exact portsFall_of (portsFall_ite hi h) rfl rfl rfl rfl

theorem portsFall_dropData (h : PortsFall a s) : PortsFall a (dropData s) := by
  unfold dropData
  lift_lets
  intro s1 s2 s3 s4
  have h2 : PortsFall a s2 := portsFall_of (portsFall_sealRegions true h) rfl rfl rfl rfl
  have h3 : PortsFall a s3 := portsFall_setReg64 _ _ _ (portsFall_setReg _ _ _ (portsFall_setReg _ _ _ (portsFall_setReg _ _ _ h2)))
  have h4 : PortsFall a s4 := portsFall_setReg _ _ _ (portsFall_setReg _ _ _ h3)
  exact portsFall_forAll _ (fun f _ h => portsFall_setReg _ _ _ (portsFall_setBits _ _ _ _ _ h)) h4

theorem portsFall_enterFault (h : PortsFall a s) : PortsFall a (enterFault s) := by
  unfold enterFault
  refine portsFall_ite h ?_
  lift_lets
  intro s1 s2 s3 s4 q s5 s6
  have h1 : PortsFall a s1 := by
    unfold s1
    split
    · exact portsFall_midDone _ _ h
    · exact h
  have h2 : PortsFall a s2 := portsFall_ite (portsFall_pinMarks (portsFall_applyCfg h1)) h1
  have h3 : PortsFall a s3 := portsFall_setRec 0 (portsFall_recoveryCut h2)
  have h4 : PortsFall a s4 := portsFall_ite (portsFall_dropData h3) h3
  have h5 : PortsFall a s5 := portsFall_of h4 rfl rfl rfl rfl
  have h6 : PortsFall a s6 := portsFall_ite (portsFall_of h5 rfl rfl rfl rfl) h5
  exact portsFall_setRun _ h6

/-! Contract faults (06 R188). -/

theorem portsFall_callHalt (h : PortsFall a s) : PortsFall a (callHalt s) :=
  portsFall_ite (portsFall_of h rfl rfl rfl rfl)
    (portsFall_ite (portsFall_of h rfl rfl rfl rfl) (portsFall_ite (portsFall_enterFault h) h))

theorem portsFall_recordCause (cause u v detail : Nat) (h : PortsFall a s) : PortsFall a (recordCause cause u v detail s) := by
  obtain ⟨_, e⟩ := recordCause_shape cause u v detail s
  rw [e]
  exact portsFall_of h rfl rfl rfl rfl

theorem portsFall_haltAt (u v : Nat) (h : PortsFall a s) : PortsFall a (haltAt u v s) := by
  obtain ⟨_, e⟩ := haltAt_spec u v s
  rw [e]
  exact portsFall_of h rfl rfl rfl rfl

theorem portsFall_contractFault (cause u v detail : Nat) (h : PortsFall a s) :
    PortsFall a (contractFault cause u v detail s) := by
  have h1 := portsFall_bump .asq 0x07C 1 (portsFall_setErr .asq cause (portsFall_haltAt u v h))
  have h2 := portsFall_callHalt (portsFall_recordCause cause u v detail h1)
  exact portsFall_faultItem _ _ _ (portsFall_of h2 rfl rfl rfl rfl)

/-! Signals of setts, and of far setts with their relays (07 R213, R219, R220). -/

theorem portsFall_prtEvent (h : PortsFall a s) : PortsFall a (prtEvent s) :=
  portsFall_bump _ _ _ (portsFall_of h rfl rfl rfl rfl)

theorem portsFall_charge (u v n : Nat) (h : PortsFall a s) : PortsFall a (charge u v n s) :=
  portsFall_ite (portsFall_setTile _ _ _ h) h

theorem portsFall_wakeEvent (u v : Nat) (h : PortsFall a s) : PortsFall a (wakeEvent u v s) :=
  portsFall_ite (portsFall_prtEvent h) h

theorem portsFall_signalTile (u v k : Nat) (tgt : Option Strm) (w : Signaller) (opIdx : Nat) (h : PortsFall a s) :
    PortsFall a (signalTile u v k tgt w opIdx s) := by
  unfold signalTile
  lift_lets
  intro t x r t1 s1
  have h1 : PortsFall a s1 := by
    unfold s1
    split
    · exact portsFall_wakeEvent _ _ (portsFall_setTile _ _ _ h)
    · exact portsFall_setTile _ _ _ h
  exact portsFall_ite (portsFall_contractFault _ _ _ _ h1) h1

theorem portsFall_readyProgs (want : UProg → Bool) (h : PortsFall a s) : PortsFall a (readyProgs want s) := by
  unfold readyProgs
  split
  · exact h
  · exact portsFall_forAll _ (fun d _ h => portsFall_setDie d _ h) h

theorem portsFall_deliverSignal (u v : Nat) (f : Flit) {far : List Byte → State → State}
    (hf : ∀ b, PortsFall a (far b s)) (h : PortsFall a s) : PortsFall a (deliverSignal u v f far s) :=
  portsFall_ite (portsFall_setTile _ _ _ h) (portsFall_ite (portsFall_tileNetErr _ _ _ h)
    (portsFall_ite (hf _) (portsFall_signalTile _ _ _ _ _ _ h)))

theorem portsFall_noteWait (u v w : Nat) (h : PortsFall a s) : PortsFall a (noteWait u v w s) :=
  portsFall_ite h (portsFall_setTile _ _ _ h)

/-- A control flit that crosses its route: by induction on the hops, `dl` at its destination. -/
theorem portsFall_crossCtl {dl : State → State} (hd : ∀ s, PortsFall a s → PortsFall a (dl s)) (k u v : Nat) (p : Port)
    (f : Flit) (fresh : Bool) (cyc : Nat) {s : State} (h : PortsFall a s) :
    PortsFall a (crossCtl k u v p f fresh cyc dl s) := by
  induction k generalizing u v p fresh cyc s with
  | zero => exact h
  | succ k ih =>
    unfold crossCtl
    split
    · exact h
    · have h1 := portsFall_ite (c := fresh = true)
        (portsFall_setTile u v { tile s u v with ctl := (tile s u v).ctl ++ [(p, f)] } h) h
      refine portsFall_ite h1 ?_
      have h2 := fun (x : Tile) => portsFall_setTile u v x h1
      have h3 := fun (w : Nat) (x : Tile) => portsFall_noteWait u v w (h2 x)
      exact portsFall_ite (hd _ (h3 _ _)) (ih _ _ _ _ _ (portsFall_charge _ _ _ (h3 _ _)))

theorem portsFall_relayOnce (d : Die) (n : Fin 16) (h : PortsFall a s) : PortsFall a (relayOnce d n s) := by
  have hb := portsFall_bump (.fst d) (0x04C + 16 * n.val) 1 h
  unfold relayOnce
  refine portsFall_ite (portsFall_readyProgs _ hb) ?_
  split
  · exact hb
  · exact portsFall_ite (portsFall_crossCtl (fun _ h => portsFall_deliverSignal _ _ _ (fun _ => h) h) _ _ _ _ _ _ _ hb) hb

theorem portsFall_relayWhile (d : Die) (n : Fin 16) (k : Nat) {s : State} (h : PortsFall a s) :
    PortsFall a (relayWhile d n k s) := by
  induction k generalizing s with
  | zero => exact h
  | succ k ih => exact portsFall_ite h (ih (portsFall_relayOnce d n (portsFall_setReg _ _ _ h)))

theorem portsFall_farSignal (d : Die) (n : Fin 16) (srcMod srcDie : Nat) (h : PortsFall a s) :
    PortsFall a (farSignal d n srcMod srcDie s) := by
  unfold farSignal
  lift_lets
  intro rel w c last s1
  have h1 : PortsFall a s1 := portsFall_setReg _ _ _ h
  refine portsFall_ite h (portsFall_ite (portsFall_setErr _ _ (portsFall_bump _ _ _ h)) (portsFall_ite ?_ ?_))
  · exact portsFall_contractFault _ _ _ _ (portsFall_setErr _ _ (portsFall_setBits _ _ _ _ _ h1))
  · exact portsFall_relayWhile _ _ _ (portsFall_setReg _ _ _ h1)

/-! Sending (11 R341 to R348). -/

theorem portsFall_countFlits (p : Die) (o n : Nat) (h : PortsFall a s) : PortsFall a (countFlits p o n s) :=
  portsFall_ite h (portsFall_setReg64 _ _ _ h)

theorem portsFall_sendDirect (p : Die) (f : LFrame) (h : PortsFall a s) : PortsFall a (sendDirect p f s) := by
  unfold sendDirect
  lift_lets
  intro w s1 l s2
  have h1 : PortsFall a s1 := portsFall_ite (portsFall_prtEvent h) h
  have h2 : PortsFall a s2 := portsFall_setLink_same rfl h1
  exact portsFall_emit _ (portsFall_countFlits _ _ _ h2)

theorem portsFall_xferSent (f : LFrame) (h : PortsFall a s) : PortsFall a (xferSent f s) := by
  unfold xferSent
  split
  · exact h
  · refine portsFall_ite h ?_
    split
    · exact h
    · exact portsFall_farSignal _ _ _ _ h

theorem portsFall_takeSeq {p : Die} {f : LFrame} {t : State} (h : PortsFall a s) (e : takeSeq p s = some (f, t)) :
    PortsFall a t := by
  unfold takeSeq at e
  dsimp only at e
  split at e
  · cases e
  · split at e
    · cases e
    · obtain ⟨g, _, hg⟩ := Option.map_eq_some_iff.mp e
      cases hg
      exact portsFall_xferSent _ (portsFall_setLink_same rfl h)

theorem portsFall_pumpDirect (p : Die) (k : Nat) {s : State} (h : PortsFall a s) : PortsFall a (pumpDirect p k s) := by
  induction k generalizing s with
  | zero => exact h
  | succ k ih =>
    unfold pumpDirect
    refine portsFall_ite h ?_
    split
    next f t e => exact ih (portsFall_sendDirect p f (portsFall_takeSeq h e))
    next => exact h

theorem portsFall_enqueue (p : Die) (f : LFrame) (h : PortsFall a s) : PortsFall a (enqueue p f s) :=
  portsFall_setLink_same rfl h

theorem portsFall_sendOn (p : Die) (f : LFrame) (h : PortsFall a s) : PortsFall a (sendOn p f s) := by
  unfold sendOn
  refine portsFall_ite (portsFall_sendDirect p f h) ?_
  split
  · exact h
  · exact portsFall_pumpDirect _ _ (portsFall_enqueue _ _ (portsFall_setLink_same rfl h))

theorem portsFall_pump (p : Die) (h : PortsFall a s) : PortsFall a (pump p s) := by
  unfold pump
  generalize (linkSt s p).queue.length = k
  induction k generalizing s with
  | zero => exact h
  | succ k ih =>
    unfold pumpAux
    refine portsFall_ite h ?_
    split
    next f t e => exact ih (portsFall_sendOn p f (portsFall_takeSeq h e))
    next => exact h

theorem portsFall_replayFrom (p : Die) (k : Nat) (h : PortsFall a s) : PortsFall a (replayFrom p k s) :=
  portsFall_ite h (portsFall_pump p (portsFall_forAll _ (fun f _ h => portsFall_sendOn p f h) h))

/-- A path goes down: the link may move to its alternate port and send its frames again. -/
theorem portsFall_pathDown (p : Die) (h : PortsFall a s) : PortsFall a (pathDown p s) := by
  have moved := portsFall_setLnkState p 4 (portsFall_setLink_same (p := p)
    (x := { linkSt s p with onAlt := true, altDown := false, replays := 0 }) rfl h)
  exact portsFall_ite h (portsFall_ite (portsFall_setLnkState _ _ (portsFall_setLink_same rfl h))
    (portsFall_ite (portsFall_setErr _ _ h)
      (portsFall_replayFrom _ _ (portsFall_ledgerItem _ _ (portsFall_setErr _ _ (portsFall_bump _ _ _ moved))))))

/-- A port that is lost, from its link with the port down on. -/
theorem portsFall_portLost {p : Die} (h : PortsFall a
      (setLink p { linkSt s p with portUp := false, upAll := false, nbrIv := 0, openB := none, openC := none } s)) :
    PortsFall a (portLost p s) := by
  have h1 := portsFall_setLnkState p 5 (portsFall_setReg (.lnk p) 0x040 0 h)
  exact portsFall_forAll _ (fun q _ h => portsFall_pathDown q h)
    (portsFall_ite (portsFall_setLnkState p _ h1) (portsFall_pathDown p h1))

end

/-- A lost port is not up. -/
theorem portLost_portUp (p : Die) (s : State) : (linkSt (portLost p s) p).portUp = false := by
  have h := (portsFall_portLost (s := s) (p := p) (portsFall_refl _)).up p
  rw [linkSt_setLink_same] at h
  exact Bool.eq_false_iff.mpr fun e => nomatch h e

/-- A lost port leaves the soft resets and the banks. -/
theorem portLost_portsFall (p : Die) (s : State) : PortsFall s (portLost p s) :=
  portsFall_portLost (portsFall_setLink nofun (portsFall_refl s))

end Sys2Proof.Machine
end

section
namespace Sys2Proof.Machine

/-! Fields of a register after they are replaced. -/

/-- A low field reads as the value it was given. -/
theorem fld_setFld_low (w : W32) {hi v : Nat} (hh : hi < 32) (hv : v < 2 ^ (hi + 1)) :
    fld (setFld w hi 0 v).toNat hi 0 = v := by
  unfold fld setFld
  simp only [Nat.sub_zero, Nat.shiftLeft_zero, Nat.shiftRight_zero]
  apply Nat.eq_of_testBit_eq
  intro i
  rw [Nat.testBit_mod_two_pow, BitVec.testBit_toNat, BitVec.getLsbD_or, BitVec.getLsbD_and, BitVec.getLsbD_and,
    BitVec.getLsbD_not, BitVec.getLsbD_ofNat, BitVec.getLsbD_ofNat, Nat.testBit_two_pow_sub_one]
  by_cases hi' : i < hi + 1
  · simp [hi', show i < 32 by omega]
  · have hb : v.testBit i = false :=
      Nat.testBit_lt_two_pow (lt_of_lt_of_le hv (Nat.pow_le_pow_right (by omega) (by omega)))
    simp [hi', hb]

theorem bitOf_setFld_zero (w : W32) (b : Bool) : bitOf (setFld w 0 0 b.toNat) 0 = b := by
  have h := fld_setFld_low w (hi := 0) (v := b.toNat) (by omega) (by cases b <;> decide)
  unfold fld at h
  unfold bitOf
  rw [← BitVec.testBit_toNat, Nat.testBit_zero]
  simp only [Nat.shiftRight_zero, Nat.sub_self, Nat.zero_add, Nat.pow_one] at h
  rw [h]
  cases b <;> rfl

theorem pageEn_setEn (pg : Page) (b : Bool) (s : State) : pageEn (setBits pg 0x008 0 0 b.toNat s) pg = b := by
  unfold pageEn setBits
  rw [reg_setReg_same, bitOf_setFld_zero]

/-! The debug level falls to None (16 R454). -/

/-- A run of registers of a page takes one value. -/
theorem reg_setRegs_off (pg : Page) (v : W32) {l : List Nat} {o : Nat} (h : o ∉ l) (s : State) :
    reg (forAll l (fun k s => setReg pg k v s) s) pg o = reg s pg o := by
  unfold forAll
  induction l generalizing s with
  | nil => rfl
  | cons k l ih =>
    rw [List.mem_cons, not_or] at h
    exact (ih h.2 _).trans (reg_setReg_off pg v s h.1)

theorem setRegs_shape (pg : Page) (v : W32) (l : List Nat) (s : State) :
    ∃ r, forAll l (fun k s => setReg pg k v s) s = { s with regs := r } := by
  unfold forAll
  induction l generalizing s with
  | nil => exact ⟨s.regs, rfl⟩
  | cons k l ih =>
    obtain ⟨r, h⟩ := ih (setReg pg k v s)
    exact ⟨r, h⟩

/-- The level, the perturbation registers and the step's note of their values; nothing else changes. -/
theorem setLevel_none_shape (s : State) :
    ∃ r m, setLevel .none s = { s with regs := r, level := .none, asq := { s.asq with prtVals := m } } := by
  obtain ⟨r, h⟩ := setRegs_shape .dbg 0 prtRegs { notePrt none s with level := .none }
  exact ⟨r, (notePrt none s).asq.prtVals, h⟩

theorem reg_setLevel_none (s : State) {o : Nat} (h : o ∉ prtRegs) : reg (setLevel .none s) .dbg o = reg s .dbg o :=
  reg_setRegs_off .dbg 0 h { notePrt none s with level := .none }

theorem linkSt_setLnkState (p : Die) (v : Nat) (s : State) (q : Die) : linkSt (setLnkState p v s) q = linkSt s q := by
  unfold linkSt setLnkState setBits
  rw [setReg_links]

/-! Writes to PAGE_CTL.EN (00 R20, Table 0.7). -/

theorem exec_enWrite {rq : Req} (pg : Page) (b : Bool) {s : State} (h : MayWrite rq s) :
    exec (.enWrite rq pg b) s = .next (enWrite pg b s) := by
  show execEnWrite rq pg b s = _
  rw [execEnWrite, barWrite_may _ h]

section
variable {pg : Page} {s : State}

theorem enWrite_alwaysOn (b : Bool) (ha : alwaysOn pg = true) : enWrite pg b s = s := by
  unfold enWrite
  rw [if_pos (by simp [ha])]

theorem alwaysOn_of_job (hj : jobPage pg = true) : alwaysOn pg = false := by
  cases pg <;> simp [jobPage, alwaysOn] at hj ⊢

theorem enWrite_jobLoaded (hf : pageFitted s.code pg = true) (hj : jobPage pg = true) (hi : s.image.isSome = true) :
    enWrite pg false s = setAcc pg s := by
  unfold enWrite
  rw [if_neg (by simp [hf, alwaysOn_of_job hj]), if_pos (by simp [hj, hi])]

/-- EN takes the written value; what follows on a LNK or DBG page comes after. -/
theorem enWrite_taken {b : Bool} (hf : pageFitted s.code pg = true) (ha : alwaysOn pg = false)
    (hj : jobPage pg = true → b = false → s.image = none) (hl : ∀ p, pg ≠ .lnk p) (hd : pg ≠ .dbg) :
    enWrite pg b s = setBits pg 0x008 0 0 b.toNat s := by
  have h2 : ¬ (!b && jobPage pg && s.image.isSome) = true := by
    intro h
    simp only [Bool.and_eq_true, Bool.not_eq_true'] at h
    obtain ⟨⟨hb, hp⟩, hi⟩ := h
    rw [hj hp hb] at hi
    cases hi
  unfold enWrite
  rw [if_neg (by simp [hf, ha]), if_neg h2]
  cases pg with
  | lnk p => exact absurd rfl (hl p)
  | dbg => exact absurd rfl hd
  | _ => rfl

theorem enWrite_dbg_clear : enWrite .dbg false s = setLevel .none (setBits .dbg 0x008 0 0 0 s) := rfl

/-- Clearing a port's EN takes the port down if it is up. -/
theorem enWrite_lnk_clear_portUp {p : Die} (hf : pageFitted s.code (.lnk p) = true) (he : pageEn s (.lnk p) = true) :
    (linkSt (enWrite (.lnk p) false s) p).portUp = false := by
  have down : ∀ a : State, (linkSt (if (linkSt a p).portUp then portLost p a else a) p).portUp = false := by
    intro a
    split
    · exact portLost_portUp p a
    next h => exact Bool.eq_false_iff.mpr h
  have shown : ∀ a : State, linkSt (if (linkSt a p).onAlt then a else setLnkState p 0 a) p = linkSt a p := by
    intro a
    split
    · rfl
    · exact linkSt_setLnkState p 0 a p
  unfold enWrite
  rw [if_neg (by simp [hf, alwaysOn]), if_neg (by simp [jobPage])]
  dsimp only
  rw [if_neg (by simp [he]), if_neg (by simp)]
  exact (congrArg LinkSt.portUp (shown _)).trans (down _)

end

/-- Settles O8, by the cases of `enWrite`; a port goes down by `portLost_portUp`. -/
theorem enableBitWrites : Obligations.EnableBitWrites := by
  unfold Obligations.EnableBitWrites
  refine ⟨?_, ?_, ?_, ?_, ?_⟩
  · intro rq pg b s hm _ ha
    rw [exec_enWrite pg b hm, enWrite_alwaysOn b ha]
  · intro rq pg s hm hf hj hi
    rw [exec_enWrite pg false hm, enWrite_jobLoaded hf hj hi]
    rfl
  · intro rq pg b s hm hf ha hj hl hd
    rw [exec_enWrite pg b hm, enWrite_taken hf ha hj hl hd]
    rfl
  · intro rq s hm
    refine ⟨_, exec_enWrite .dbg false hm, ?_⟩
    rw [enWrite_dbg_clear]
    have hen : pageEn (setLevel .none (setBits .dbg 0x008 0 0 0 s)) .dbg = false := by
      unfold pageEn
      rw [reg_setLevel_none _ (by decide)]
      exact pageEn_setEn .dbg false s
    obtain ⟨r, m, h⟩ := setLevel_none_shape (setBits .dbg 0x008 0 0 0 s)
    exact ⟨by rw [h], hen, r, m, h⟩
  · intro rq p s hm hf he
    exact ⟨_, exec_enWrite (.lnk p) false hm, enWrite_lnk_clear_portUp hf he⟩

end Sys2Proof.Machine
end

section
namespace Sys2Proof.Machine

/-! What a soft reset of MID drops with a LOAD (00 R23, log entry 19). -/

theorem sealRegions_shape (enc : Bool) (s : State) : ∃ c, sealRegions enc s = { s with cipher := c } := by
  have all : ∀ (l : List (Nat × Nat)) (k : List Byte × List Byte) (s : State),
      ∃ c, forAll l (fun c s => { s with cipher := addCipher ⟨c.1, c.2, enc, k⟩ s.cipher }) s = { s with cipher := c } := by
    intro l k
    unfold forAll
    induction l with
    | nil => exact fun s => ⟨s.cipher, rfl⟩
    | cons x l ih =>
      intro s
      obtain ⟨c, h⟩ := ih { s with cipher := addCipher ⟨x.1, x.2, enc, k⟩ s.cipher }
      exact ⟨c, h⟩
  unfold sealRegions
  split
  · split
    · exact ⟨s.cipher, rfl⟩
    · exact all _ _ s
  · exact ⟨s.cipher, rfl⟩

/-- What of MID's state and of the store a dropped image leaves alone. -/
structure MidKeeps (a t : State) : Prop where
  busy : t.busy = a.busy
  stage : t.stage = a.stage
  ledger : t.ledger = a.ledger
  hbm : a.ledger = none → t.hbm = a.hbm

theorem midKeeps_trans {a b c : State} (h : MidKeeps a b) (g : MidKeeps b c) : MidKeeps a c :=
  ⟨g.busy.trans h.busy, g.stage.trans h.stage, g.ledger.trans h.ledger,
    fun e => (g.hbm (h.ledger.trans e)).trans (h.hbm e)⟩

theorem midKeeps_of {a t : State} (h1 : t.busy = a.busy) (h2 : t.stage = a.stage) (h3 : t.ledger = a.ledger)
    (h4 : t.hbm = a.hbm) : MidKeeps a t := ⟨h1, h2, h3, fun _ => h4⟩

theorem midKeeps_eventsAndRegs {a t : State} (h : EventsAndRegs a t) : MidKeeps a t := by
  obtain ⟨_, _, _, rfl⟩ := h
  exact midKeeps_of rfl rfl rfl rfl

theorem midKeeps_ite {c : Prop} [Decidable c] {a s t : State} (h : MidKeeps a s) (g : MidKeeps a t) :
    MidKeeps a (if c then s else t) := by
  split <;> assumption

/-- With no ledger an item is not produced, so the store is as it was. -/
theorem midKeeps_ledgerItem (typ : Nat) (body : List Byte) (s : State) : MidKeeps s (ledgerItem typ body s) := by
  have none_ : s.ledger = none → ledgerItem typ body s = s := by
    intro h
    unfold ledgerItem ledgerItemOf
    rw [h]
  have hb := fun h => congrArg State.hbm (none_ h)
  obtain ⟨_, _, _, _, _, _, _, _, _, _, _, _, e, _⟩ := ledgerOnly_ledgerItemOf (stepNo s) typ body s
  exact ⟨(congrArg State.busy e :), (congrArg State.stage e :), (congrArg State.ledger e :), hb⟩

theorem midKeeps_recoveryCut (s : State) : MidKeeps s (recoveryCut s) := by
  have item : MidKeeps s (recoveryItem false 0xFFFF 0 s) := by
    unfold recoveryItem
    dsimp only
    split
    · exact midKeeps_trans (midKeeps_ledgerItem _ _ _) (midKeeps_ledgerItem _ _ _)
    · exact midKeeps_ledgerItem _ _ _
  unfold recoveryCut
  exact midKeeps_trans (midKeeps_ite item (midKeeps_of rfl rfl rfl rfl)) (midKeeps_of rfl rfl rfl rfl)

theorem eventsAndRegs_setReg (pg : Page) (o : Nat) (v : W32) {a s : State} (h : EventsAndRegs a s) :
    EventsAndRegs a (setReg pg o v s) := eventsAndRegs_trans h ⟨s.evc, _, s.out, rfl⟩

theorem eventsAndRegs_setRec (v : Nat) (s : State) : EventsAndRegs s (setRec v s) := by
  unfold setRec
  split
  · exact eventsAndRegs_refl s
  · exact eventsAndRegs_trans ⟨s.evc, _, s.out, rfl⟩ (fire_shape 25 _)

/-- A run of register writes. -/
theorem eventsAndRegs_forAll {α : Type} (l : List α) {f : α → State → State} (hf : ∀ x s, EventsAndRegs s (f x s))
    (s : State) : EventsAndRegs s (forAll l f s) := by
  unfold forAll
  induction l generalizing s with
  | nil => exact eventsAndRegs_refl s
  | cons x l ih => exact eventsAndRegs_trans (hf x s) (ih _)

/-- No image is loaded, and what MID is at is as it was. -/
theorem dropData_spec (s : State) : (dropData s).image = none ∧ MidKeeps s (dropData s) := by
  unfold dropData
  lift_lets
  intro s1 s2 s3 s4
  obtain ⟨c, h1⟩ := sealRegions_shape true s
  have k2 : MidKeeps s s2 := midKeeps_trans (b := s1) (by rw [show s1 = _ from h1]; exact midKeeps_of rfl rfl rfl rfl)
    (midKeeps_of rfl rfl rfl rfl)
  have k3 : EventsAndRegs s2 s3 := eventsAndRegs_setReg _ _ _ (eventsAndRegs_setReg _ _ _ (eventsAndRegs_setReg _ _ _
    (eventsAndRegs_setReg _ _ _ (eventsAndRegs_setReg _ _ _ (eventsAndRegs_refl s2)))))
  have k4 : EventsAndRegs s2 s4 := eventsAndRegs_setReg _ _ _ (eventsAndRegs_setReg _ _ _ k3)
  have k := eventsAndRegs_trans k4 (eventsAndRegs_forAll (allFields.filter fun f => fieldFitted s4.code f)
    (f := fun f s => setReg (.fld f) 0x048 0 (setBits (.fld f) 0x044 15 0 0 s)) (fun f s => ⟨s.evc, _, s.out, rfl⟩) s4)
  refine ⟨?_, midKeeps_trans k2 (midKeeps_eventsAndRegs k)⟩
  obtain ⟨_, _, _, e⟩ := k
  rw [e]

theorem dropImage_spec (s : State) : (dropImage s).image = none ∧ MidKeeps s (dropImage s) := by
  obtain ⟨hi, hk⟩ := dropData_spec (recoveryCut s)
  have k : EventsAndRegs (dropData (recoveryCut s)) (dropImage s) :=
    eventsAndRegs_trans (eventsAndRegs_setReg _ _ _ (eventsAndRegs_setReg _ _ _ (eventsAndRegs_setReg _ _ _
      (eventsAndRegs_refl _)))) (eventsAndRegs_setRec 0 _)
  refine ⟨?_, midKeeps_trans (midKeeps_recoveryCut s) (midKeeps_trans hk (midKeeps_eventsAndRegs k))⟩
  obtain ⟨_, _, _, e⟩ := k
  rw [e]
  exact hi

theorem portsFall_dropImage {a s : State} (h : PortsFall a s) : PortsFall a (dropImage s) :=
  portsFall_setRec _ (portsFall_setReg _ _ _ (portsFall_setReg _ _ _ (portsFall_setReg _ _ _
    (portsFall_dropData (portsFall_recoveryCut h)))))

/-- The fields of a running scrub that is cut short. -/
theorem failScrub_shape (s : State) : ∃ e r o f, failScrub s = { s with
    evc := e, regs := r, out := o, scrubFor := f
    scrub := if s.scrub = .running then .failed else s.scrub } := by
  unfold failScrub
  split
  next h =>
    obtain ⟨_, _, _, e⟩ := eventsAndRegs_trans (setErr_shape .sec 1 { s with scrub := .failed, scrubFor := none })
      (fire_shape 26 _)
    exact ⟨_, _, _, none, by rw [e]⟩
  · exact ⟨s.evc, s.regs, s.out, s.scrubFor, rfl⟩

/-! The operations that a soft reset aborts, page by page (00 R23). -/

/-- No abort touches the soft resets or a bank. -/
theorem abortOps_portsFall (pg : Page) (s : State) : PortsFall s (abortOps pg s) := by
  have same : ∀ {t : State}, t.srst = s.srst → t.bankA = s.bankA → t.bankB = s.bankB → t.links = s.links → PortsFall s t :=
    fun h1 h2 h3 h4 => portsFall_of (portsFall_refl s) h1 h2 h3 h4
  cases pg with
  | mid => exact portsFall_ite (portsFall_dropImage (same rfl rfl rfl rfl)) (same rfl rfl rfl rfl)
  | sec => exact portsFall_failScrub (same rfl rfl rfl rfl)
  | dbg =>
    obtain ⟨r, m, h⟩ := setLevel_none_shape { s with asq := { s.asq with tick1 := false } }
    exact same (by rw [abortOps, h]) (by rw [abortOps, h]) (by rw [abortOps, h]) (by rw [abortOps, h])
  | lnk p =>
    unfold abortOps
    dsimp only
    exact portsFall_ite (portLost_portsFall p s) (portsFall_refl s)
  | _ => exact same rfl rfl rfl rfl

/-- The store changes only where frames are sent again, or where the item of a recovery that ends reaches the ledger. -/
theorem abortOps_hbm {pg : Page} {s : State} (hl : ∀ p, pg ≠ .lnk p)
    (hm : pg ≠ .mid ∨ s.busy ≠ some .load ∨ s.ledger = none) : (abortOps pg s).hbm = s.hbm := by
  cases pg with
  | mid =>
    unfold abortOps
    dsimp only
    split
    next hb =>
      have hn : s.ledger = none := by simpa [hb] using hm
      exact (dropImage_spec _).2.hbm hn
    · rfl
  | sec =>
    obtain ⟨_, _, _, _, h⟩ := failScrub_shape { s with refusal := 0 }
    rw [abortOps, h]
  | dbg =>
    obtain ⟨r, m, h⟩ := setLevel_none_shape { s with asq := { s.asq with tick1 := false } }
    rw [abortOps, h]
  | lnk p => exact absurd rfl (hl p)
  | _ => rfl

/-- MID ends its command, a LOAD with its image, and a start-up stage after ARRAY_UP goes back (log entry 19). -/
theorem abortOps_mid (s : State) : (abortOps .mid s).busy = none ∧
    (s.busy = some .load → (abortOps .mid s).image = none) ∧
    (abortOps .mid s).stage = if s.stage ∈ [.sequencing, .paused, .clockSetup, .selfTest] then .running else s.stage := by
  unfold abortOps
  dsimp only
  split
  next hb => exact ⟨(dropImage_spec _).2.busy, fun _ => (dropImage_spec _).1, by simpa using (dropImage_spec _).2.stage⟩
  next hb => exact ⟨rfl, fun h => absurd h hb, by simp⟩

theorem abortOps_sec (s : State) : (abortOps .sec s).refusal = 0 ∧
    (abortOps .sec s).scrub = if s.scrub = .running then .failed else s.scrub := by
  obtain ⟨_, _, _, _, h⟩ := failScrub_shape { s with refusal := 0 }
  rw [abortOps, h]
  exact ⟨rfl, rfl⟩

theorem abortOps_lnk_portUp (p : Die) (s : State) : (linkSt (abortOps (.lnk p) s) p).portUp = false := by
  unfold abortOps
  dsimp only
  split
  · exact portLost_portUp p s
  next h => exact Bool.eq_false_iff.mpr h

/-- The pages whose abort only drops work. -/
theorem abortOps_quiet {pg : Page} (s : State)
    (h : pg = .plc ∨ pg = .owl ∨ pg = .cbg ∨ pg = .pwr ∨ pg = .tmb ∨ pg = .hdm ∨ pg = .cfg) :
    (abortOps pg s).regs = s.regs ∧ (abortOps pg s).out = s.out := by
  rcases h with rfl | rfl | rfl | rfl | rfl | rfl | rfl <;> exact ⟨rfl, rfl⟩

/-- The state in which a soft reset of a page is under way. -/
def srstBegun (pg : Page) (s : State) : State := { s with srst := if pg ∈ s.srst then s.srst else pg :: s.srst }

theorem mem_srstBegun (pg : Page) (s : State) : pg ∈ (srstBegun pg s).srst := by
  unfold srstBegun
  dsimp only
  split
  next h => exact h
  · exact List.mem_cons_self ..

theorem exec_srst {rq : Req} {pg : Page} {s : State} (h : MayWrite rq s) (hf : pageFitted s.code pg = true) :
    exec (.srst rq pg) s = .next (abortOps pg (srstBegun pg s)) := by
  show execSrst rq pg s = _
  rw [execSrst, barWrite_may _ h, softReset, if_neg (by simp [hf])]
  rfl

/-! The reset completes. -/

/-- A list of entries cut by their keys. -/
theorem mfind_filter_key {α : Type} (p : Nat → Bool) (m : SMap α) (k : Nat) :
    mfind (m.filter fun e => p e.1) k = if p k then mfind m k else none := by
  induction m with
  | nil => simp
  | cons e m ih =>
    obtain ⟨j, w⟩ := e
    by_cases hp : p j
    · rw [List.filter_cons_of_pos (by simpa using hp), mfind, ih, mfind]
      by_cases hk : k = j
      · simp [hk, hp]
      · simp [hk]
    · rw [List.filter_cons_of_neg (by simpa using hp), ih, mfind]
      by_cases hk : k = j
      · simp [hk, hp]
      · simp [hk]

/-- Does a register keep its value through the soft reset of a page? -/
def staysThrough (pg : Page) (k : Nat) : Bool :=
  match spaceOf k with
  | .reg q o => q ≠ pg || keptBySrst o
  | _ => true

theorem staysThrough_reg (pg q : Page) {o : Nat} (ho : o < 0x1000) :
    staysThrough pg (pageBase q + o) = (decide (q ≠ pg) || keptBySrst o) := by
  unfold staysThrough
  rw [spaceOf_pageBase q ho]

/-- The state whose page has lost its registers, before what it shows of other state is reset. -/
def srstCleared (pg : Page) (s : State) : State := { s with
  srst := s.srst.filter fun q => q ≠ pg
  regs := s.regs.filter fun e => staysThrough pg e.1 }

theorem softResetDone_eq {pg : Page} {s : State} (h : pg ∈ s.srst) :
    softResetDone pg s = setBits pg 0x008 0 0 (pageEn s pg).toNat (resetShown pg (pageEn s pg) (srstCleared pg s)) := by
  unfold softResetDone
  rw [if_neg (by simpa using h)]
  rfl

theorem reg_srstCleared_other {pg q : Page} {o : Nat} (s : State) (hq : q ≠ pg) (ho : o < 0x1000) :
    reg (srstCleared pg s) q o = reg s q o := by
  unfold reg rget srstCleared
  rw [mfind_filter_key, staysThrough_reg pg q ho, if_pos (by simp [hq])]

theorem reg_srstCleared_evtMap (pg : Page) (s : State) : reg (srstCleared pg s) pg 0x01C = reg s pg 0x01C := by
  unfold reg rget srstCleared
  rw [mfind_filter_key, staysThrough_reg pg pg (by omega), if_pos (by simp [keptBySrst])]

theorem reg_srstCleared_own {pg : Page} {o : Nat} (s : State) (ho : o < 0x1000) (h : o ≠ 0x01C) :
    reg (srstCleared pg s) pg o = regRst (pageBase pg + o) := by
  unfold reg rget srstCleared
  rw [mfind_filter_key, staysThrough_reg pg pg ho, if_neg (by simp [keptBySrst, h])]
  rfl

/-- The state of a port's link as LNK_STS shows it after a soft reset of its page. -/
def shownLink (p : Die) (en : Bool) (s : State) : Nat :=
  if (linkSt s p).onAlt then (if (linkSt s p).altDown then 5 else 4) else if en then 1 else 0

theorem shownLink_lt (p : Die) (en : Bool) (s : State) : shownLink p en s < 8 := by
  unfold shownLink
  split
  · split <;> omega
  · split <;> omega

theorem resetShown_lnk (p : Die) (en : Bool) (s : State) :
    resetShown (.lnk p) en s = setLnkState p (shownLink p en s) s := rfl

/-- Of the registers, what a page shows of other state is LNK_STS alone. -/
theorem reg_resetShown {pg q : Page} {o : Nat} (en : Bool) (s : State) (ho : o < 0x1000)
    (h : q = pg → o = 0x040 → ∀ p, pg ≠ .lnk p) : reg (resetShown pg en s) q o = reg s q o := by
  cases pg with
  | lnk p =>
    rw [resetShown_lnk]
    exact reg_setReg_ne _ s (by omega) ho fun hq ho' => h hq ho' p rfl
  | _ => rfl

theorem resetShown_lnk_shape (p : Die) (en : Bool) (s : State) : ∃ r, resetShown (.lnk p) en s = { s with regs := r } := by
  rw [resetShown_lnk]
  unfold setLnkState setBits setReg
  exact ⟨_, rfl⟩

/-- What no page shows. -/
theorem resetShown_frame (pg : Page) (en : Bool) (s : State) :
    let t := resetShown pg en s
    t.srst = s.srst ∧ t.bankA = s.bankA ∧ t.bankB = s.bankB ∧ t.ver = s.ver ∧ t.hbm = s.hbm ∧ t.tiles = s.tiles ∧
      t.asq = s.asq ∧ t.run = s.run := by
  cases pg with
  | lnk p =>
    obtain ⟨r, h⟩ := resetShown_lnk_shape p en s
    rw [h]
    exact ⟨rfl, rfl, rfl, rfl, rfl, rfl, rfl, rfl⟩
  | _ => exact ⟨rfl, rfl, rfl, rfl, rfl, rfl, rfl, rfl⟩

theorem resetShown_dies {pg : Page} (en : Bool) (s : State) (hn : ∀ d n, pg ≠ .hbm d n) :
    (resetShown pg en s).dies = s.dies := by
  cases pg with
  | hbm d n => exact absurd rfl (hn d n)
  | lnk p =>
    obtain ⟨r, h⟩ := resetShown_lnk_shape p en s
    rw [h]
  | _ => rfl

theorem resetShown_fields {pg : Page} (en : Bool) (s : State) (hn : ∀ g, pg ≠ .fpw g) :
    (resetShown pg en s).fields = s.fields := by
  cases pg with
  | fpw g => exact absurd rfl (hn g)
  | lnk p =>
    obtain ⟨r, h⟩ := resetShown_lnk_shape p en s
    rw [h]
  | _ => rfl

theorem resetShown_rdc {pg : Page} (en : Bool) (s : State) (hn : pg ≠ .rdc) :
    (resetShown pg en s).rdc = s.rdc ∧ (resetShown pg en s).peers = s.peers := by
  cases pg with
  | rdc => exact absurd rfl hn
  | lnk p =>
    obtain ⟨r, h⟩ := resetShown_lnk_shape p en s
    rw [h]
    exact ⟨rfl, rfl⟩
  | _ => exact ⟨rfl, rfl⟩

/-- A register after the completion: PAGE_CTL aside, as the cleared page and what it shows leave it. -/
theorem reg_softResetDone {pg q : Page} {o : Nat} {s : State} (h : pg ∈ s.srst) (ho : o < 0x1000)
    (hne : q = pg → o ≠ 0x008) (hl : q = pg → o = 0x040 → ∀ p, pg ≠ .lnk p) :
    reg (softResetDone pg s) q o = reg (srstCleared pg s) q o := by
  rw [softResetDone_eq h]
  exact (reg_setReg_ne _ _ (by omega) ho hne).trans (reg_resetShown _ _ ho hl)

theorem pageEn_softResetDone {pg : Page} {s : State} (h : pg ∈ s.srst) : pageEn (softResetDone pg s) pg = pageEn s pg := by
  rw [softResetDone_eq h, pageEn_setEn]

/-- LNK_STS after the completion shows the state that the port's link is in. -/
theorem lnkSts_softResetDone {p : Die} {s : State} (h : .lnk p ∈ s.srst) :
    fld (reg (softResetDone (.lnk p) s) (.lnk p) 0x040).toNat 2 0 =
      shownLink p (pageEn s (.lnk p)) s := by
  rw [softResetDone_eq h, resetShown_lnk]
  unfold setBits
  rw [reg_setReg_off _ _ _ (by omega)]
  unfold setLnkState setBits
  rw [reg_setReg_same]
  exact fld_setFld_low _ (by omega) (shownLink_lt p _ s)

/-- Settles O9: `abortOps` page by page for the start, `softResetDone_eq` for the completion. -/
theorem softResetOfABlock : Obligations.SoftResetOfABlock := by
  unfold Obligations.SoftResetOfABlock
  refine ⟨?_, ?_⟩
  · intro rq pg s hm hf
    obtain ⟨hsrst, hbA, hbB, -⟩ := abortOps_portsFall pg (srstBegun pg s)
    refine ⟨_, exec_srst hm hf, ?_, hbA, hbB, fun hl hmid => abortOps_hbm hl hmid,
      fun h => abortOps_quiet (srstBegun pg s) h, fun e => e ▸ abortOps_mid (srstBegun _ s), fun e => e ▸ rfl,
      fun e => e ▸ rfl, fun e => e ▸ rfl, fun e => e ▸ rfl, fun e => e ▸ abortOps_sec (srstBegun _ s), ?_, ?_, ?_, ?_⟩
    · rw [hsrst]
      exact mem_srstBegun pg s
    · rintro rfl
      obtain ⟨_, _, h⟩ := setLevel_none_shape { srstBegun .dbg s with asq := { s.asq with tick1 := false } }
      exact congrArg State.level h
    · rintro d rfl
      exact congrArg DieSt.dma (dieSt_setDie_same d _ _)
    · rintro d rfl
      have h := congrArg DieSt.ue (dieSt_setDie_same d { dieSt s d with ue := { (dieSt s d).ue with run := none, ready := [] } }
        (srstBegun (.upe d) s))
      exact ⟨congrArg Ue.run h, congrArg Ue.ready h⟩
    · rintro p rfl
      exact abortOps_lnk_portUp p (srstBegun (.lnk p) s)
  · intro pg s h
    obtain ⟨hsrst, hbA, hbB, hver, hhbm, htiles, hasq, hrun⟩ := resetShown_frame pg (pageEn s pg) (srstCleared pg s)
    refine ⟨softResetDone pg s, rfl, ?_, pageEn_softResetDone h, fun o ho h8 hmap hl => ?_, ?_, fun p hp => ?_,
      fun q o hq ho => ?_, ?_⟩
    · rw [softResetDone_eq h]
      unfold setBits
      rw [setReg_srst, hsrst]
      simp [srstCleared]
    · rw [reg_softResetDone h ho (fun _ => h8) (fun _ => hl), reg_srstCleared_own s ho hmap]
    · rw [reg_softResetDone h (by omega) (fun _ => by omega) (fun _ ho => absurd ho (by omega)), reg_srstCleared_evtMap]
    · subst hp
      rw [lnkSts_softResetDone h, shownLink]
      cases pageEn s (.lnk p) <;> rfl
    · rw [reg_softResetDone h ho (fun e => absurd e hq) (fun e => absurd e hq), reg_srstCleared_other s hq ho]
    · rw [softResetDone_eq h]
      refine ⟨hbA, hbB, hver, hhbm, htiles, hasq, hrun, fun hd => resetShown_dies _ _ hd, fun hg => resetShown_fields _ _ hg,
        fun hr => resetShown_rdc _ _ hr, ?_, ?_⟩
      · rintro rfl
        rfl
      · rintro rfl
        rfl

end Sys2Proof.Machine
end

section
namespace Sys2Proof.Machine

-- One theorem after another, as in the tests: side by side their threads leave the compile of the whole text too little memory.
set_option Elab.async false

/-! The step number: who writes STEP. Of the operations of a step boundary only the boundary itself does (01 R29). -/

/-- The step number is `n`. -/
def StepIs (n : Nat) (s : State) : Prop := stepNo s = n

/-- A change outside the registers. -/
theorem stepIs_of {n : Nat} {s t : State} (h : StepIs n s) (e : t.regs = s.regs) : StepIs n t := by
  unfold StepIs stepNo reg64 at *
  rw [reg_congr e, reg_congr e]
  exact h

theorem stepIs_ite {c : Prop} [Decidable c] {n : Nat} {s t : State} (h : StepIs n s) (g : StepIs n t) :
    StepIs n (if c then s else t) := by
  split <;> assumption

theorem stepIs_foldl {α : Type} {n : Nat} {f : State → α → State} (hf : ∀ s x, StepIs n s → StepIs n (f s x)) (l : List α)
    {s : State} (h : StepIs n s) : StepIs n (l.foldl f s) := by
  induction l generalizing s with
  | nil => exact h
  | cons x l ih => exact ih (hf s x h)

theorem stepIs_forAll {α : Type} {n : Nat} (l : List α) {f : α → State → State} (hf : ∀ x s, StepIs n s → StepIs n (f x s))
    {s : State} (h : StepIs n s) : StepIs n (forAll l f s) := stepIs_foldl (fun s x => hf x s) l h

/-- A change that leaves both halves of STEP alone. -/
theorem stepIs_of_reg {n : Nat} {s t : State} (h : StepIs n s) (e : ∀ o, 0x050 < o → o < 0x060 → reg t .asq o = reg s .asq o) :
    StepIs n t := by
  unfold StepIs stepNo reg64 at *
  rw [e _ (by omega) (by omega), e _ (by omega) (by omega)]
  exact h

section
variable {n : Nat} {s t : State}

/-! Registers, events, items, tiles and dies. -/

theorem stepIs_setReg (pg : Page) (o : Nat) (v : W32) (h : StepIs n s)
    (hk : pageBase pg + o < 0xD058 ∨ 0xD060 ≤ pageBase pg + o := by simp only [pageBase]; omega) :
    StepIs n (setReg pg o v s) := by
  unfold StepIs stepNo reg64 at *
  rw [reg_setReg, if_neg (by simp only [pageBase] at *; omega), reg_setReg, if_neg (by simp only [pageBase] at *; omega)]
  exact h

theorem stepIs_setReg64 (pg : Page) (o v : Nat) (h : StepIs n s)
    (hk : pageBase pg + o + 4 < 0xD058 ∨ 0xD060 ≤ pageBase pg + o := by simp only [pageBase]; omega) :
    StepIs n (setReg64 pg o v s) :=
  stepIs_setReg _ _ _ (stepIs_setReg _ _ _ h (by omega)) (by omega)

theorem stepIs_setBits (pg : Page) (o hi lo v : Nat) (h : StepIs n s)
    (hk : pageBase pg + o < 0xD058 ∨ 0xD060 ≤ pageBase pg + o := by simp only [pageBase]; omega) :
    StepIs n (setBits pg o hi lo v s) := stepIs_setReg _ _ _ h hk

theorem stepIs_bump (pg : Page) (o k : Nat) (h : StepIs n s)
    (hk : pageBase pg + o < 0xD058 ∨ 0xD060 ≤ pageBase pg + o := by simp only [pageBase]; omega) :
    StepIs n (bump pg o s k) := stepIs_ite h (stepIs_setReg _ _ _ h hk)

/-- STEP set to a value reads as its low 64 bits. -/
theorem stepIs_setStep (v : Nat) (s : State) : StepIs (v % 2 ^ 64) (setReg64 .asq 0x058 v s) := by
  unfold StepIs stepNo reg64 setReg64
  rw [reg_setReg_same, reg_setReg_off _ _ _ (by omega), reg_setReg_same]
  unfold loW hiW
  rw [BitVec.toNat_ofNat, BitVec.toNat_ofNat, Nat.shiftRight_eq_div_pow]
  omega

theorem stepIs_events (h : StepIs n s) (e : OnlyEvents s t) : StepIs n t :=
  stepIs_of_reg h fun o h1 h2 => onlyEvents_reg e (by unfold onEvc; simp only [pageBase]; omega)

theorem stepIs_ledger (h : StepIs n s) (e : LedgerOnly s t) : StepIs n t :=
  stepIs_of_reg h fun _ _ _ => ledgerOnly_asqReg e (by omega)

theorem stepIs_fire (k : Nat) (h : StepIs n s) (hk : k < 1024 := by omega) : StepIs n (fire k s) :=
  stepIs_events h (onlyEvents_fire hk (onlyEvents_refl s))

theorem stepIs_vectorFire (k : Nat) (h : StepIs n s) : StepIs n (vectorFire k s) :=
  stepIs_events h (onlyEvents_vectorFire k (onlyEvents_refl s))

/-- ERR_STS of no page is STEP. -/
theorem stepIs_setErr (pg : Page) (k : Nat) (h : StepIs n s) : StepIs n (setErr pg k s) :=
  stepIs_events (stepIs_setReg pg 0x010 _ h (by cases pg <;> simp only [pageBase] <;> omega)) (onlyEvents_setErr pg k s)

theorem stepIs_setRun (r : RunSt) (h : StepIs n s) : StepIs n (setRun r s) :=
  stepIs_events (s := { s with run := r }) (stepIs_of h rfl) (onlyEvents_setRun r s)

theorem stepIs_midDone (cmd code : Nat) (h : StepIs n s) : StepIs n (midDone cmd code s) :=
  stepIs_events (stepIs_setReg .mid 0x088 _ (s := { s with busy := none }) (stepIs_of h rfl)) (onlyEvents_midDone cmd code s)

theorem stepIs_setRec (v : Nat) (h : StepIs n s) : StepIs n (setRec v s) :=
  stepIs_ite h (stepIs_fire 25 (stepIs_setBits .asq 0x0A8 3 0 v h))

theorem stepIs_hbmWrite (a : Nat) (bs : List Byte) (h : StepIs n s) : StepIs n (hbmWrite a bs s) :=
  stepIs_ledger h (ledgerOnly_hbmWrite a bs s)

theorem stepIs_ledgerItemOf (step typ : Nat) (body : List Byte) (h : StepIs n s) : StepIs n (ledgerItemOf step typ body s) :=
  stepIs_ledger h (ledgerOnly_ledgerItemOf step typ body s)

theorem stepIs_ledgerItem (typ : Nat) (body : List Byte) (h : StepIs n s) : StepIs n (ledgerItem typ body s) :=
  stepIs_ledgerItemOf _ _ _ h

theorem stepIs_asq (x : Asq) (h : StepIs n s) : StepIs n { s with asq := x } := stepIs_of h rfl

theorem stepIs_rdc (x : Rdc) (h : StepIs n s) : StepIs n { s with rdc := x } := stepIs_of h rfl

theorem stepIs_setTile (u v : Nat) (x : Tile) (h : StepIs n s) : StepIs n (setTile u v x s) := stepIs_of h rfl

theorem stepIs_setDie (d : Die) (x : DieSt) (h : StepIs n s) : StepIs n (setDie d x s) := stepIs_of h rfl

theorem stepIs_setLink (p : Die) (x : LinkSt) (h : StepIs n s) : StepIs n (setLink p x s) := stepIs_of h rfl

theorem stepIs_setChan (c : Nat) (x : ChanSt) (h : StepIs n s) : StepIs n (setChan c x s) := stepIs_of h rfl

theorem stepIs_mapTiles (f : Tile → Tile) (h : StepIs n s) : StepIs n (mapTiles f s) := stepIs_of h rfl

theorem stepIs_setLnkState (p : Die) (v : Nat) (h : StepIs n s) : StepIs n (setLnkState p v s) :=
  stepIs_setBits (.lnk p) _ _ _ _ h

/-! Trips, pending configuration commands and the entry into Fault (13 R403, 15 R445, 17 R488). -/

theorem stepIs_linksDown (h : StepIs n s) : StepIs n (linksDown s) :=
  stepIs_forAll _ (fun p _ h => stepIs_setBits (.lnk p) _ _ _ _ (stepIs_setLink p _ h)) h

theorem stepIs_sealRegions (enc : Bool) (h : StepIs n s) : StepIs n (sealRegions enc s) := by
  unfold sealRegions
  split
  · refine stepIs_ite h (stepIs_forAll _ (fun _ _ h => ?_) h)
    exact stepIs_of h rfl
  · exact h

theorem stepIs_eraseKeys (h : StepIs n s) : StepIs n (eraseKeys s) :=
  stepIs_forAll _ (fun p _ h => stepIs_setLnkState p _ h) (stepIs_of (stepIs_sealRegions true h) rfl)

theorem stepIs_failScrub (h : StepIs n s) : StepIs n (failScrub s) :=
  stepIs_ite (stepIs_fire 26 (stepIs_setErr .sec 1 (stepIs_of h rfl))) h

theorem stepIs_fieldsOff (h : StepIs n s) : StepIs n (fieldsOff s) := stepIs_of h rfl

theorem stepIs_latchTrip (h : StepIs n s) : StepIs n (latchTrip s) := stepIs_of h rfl

theorem stepIs_tripMarks (bit : Nat) (pg : Page) (eb : Nat) (h : StepIs n s) : StepIs n (tripMarks bit pg eb s) := by
  have h1 := stepIs_setErr .pwr 7 (stepIs_setErr pg eb (stepIs_setReg .pwr 0x080 (setBit (reg s .pwr 0x080) bit true) h))
  have h2 := stepIs_failScrub (stepIs_linksDown (stepIs_fieldsOff h1))
  exact stepIs_ite h (stepIs_latchTrip (stepIs_ite (stepIs_eraseKeys h2) h2))

theorem stepIs_pinMarks (h : StepIs n s) : StepIs n (pinMarks s) := by
  have h1 := stepIs_ite (c := (!s.evc.pinFilt.testBit 0 && bitOf (cfgv s .pwr 0x078) 0) = true)
    (stepIs_tripMarks 6 .thm 6 h) h
  exact stepIs_ite (stepIs_tripMarks 5 .thm 5 h1) h1

theorem stepIs_takeEpoch (h : StepIs n s) : StepIs n (takeEpoch s) := stepIs_setReg .rdc _ _ (stepIs_of h rfl)

theorem stepIs_takeStepBank (h : StepIs n s) : StepIs n (takeStepBank s) := stepIs_ite (stepIs_of h rfl) (stepIs_takeEpoch h)

theorem stepIs_vecRecheck (h : StepIs n s) : StepIs n (vecRecheck s) :=
  stepIs_forAll _ (fun k _ h => stepIs_ite (stepIs_vectorFire k h) h) h

theorem stepIs_applyCfg (h : StepIs n s) : StepIs n (applyCfg s) := by
  unfold applyCfg
  split
  · exact h
  next op _ =>
    lift_lets
    intro ver s1 s2 s3 s4
    have h2 : StepIs n s2 := stepIs_setReg .cfg _ _ (stepIs_of h rfl) (.inl (by simp only [pageBase]; split <;> omega))
    have h3 : StepIs n s3 := by
      cases op with
      | commit => exact stepIs_setReg .cfg _ _ h2
      | rollback => exact h2
    have h4 : StepIs n s4 := stepIs_ite h3 (stepIs_takeStepBank h3)
    exact stepIs_vecRecheck (stepIs_ledgerItem _ _ (stepIs_fire 15 (stepIs_setReg .cfg _ _ h4)))

theorem stepIs_recoveryCut (h : StepIs n s) : StepIs n (recoveryCut s) := by
  have hi : StepIs n (recoveryItem false 0xFFFF 0 s) := by
    unfold recoveryItem
    dsimp only
    split
    · exact stepIs_ledgerItem _ _ (stepIs_ledgerItem _ _ h)
    · exact stepIs_ledgerItem _ _ h
  exact stepIs_of (stepIs_ite (c := (decide (2 ≤ recState s) && decide (recState s ≤ 4)) = true) hi h) rfl

theorem stepIs_dropData (h : StepIs n s) : StepIs n (dropData s) := by
  unfold dropData
  lift_lets
  intro s1 s2 s3 s4
  have h2 : StepIs n s2 := stepIs_of (stepIs_sealRegions true h) rfl
  have h3 : StepIs n s3 := stepIs_setReg64 .cbg _ _ (stepIs_setReg .cbg _ _ (stepIs_setReg .plc _ _ (stepIs_setReg .asq _ _ h2)))
  have h4 : StepIs n s4 := stepIs_setReg .owl _ _ (stepIs_setReg .owl _ _ h3)
  exact stepIs_forAll _ (fun f _ h => stepIs_setReg (.fld f) _ _ (stepIs_setBits (.fld f) _ _ _ _ h)) h4

theorem stepIs_scrubTiles (h : StepIs n s) : StepIs n (scrubTiles s) := stepIs_of h rfl

theorem stepIs_enterFault (h : StepIs n s) : StepIs n (enterFault s) := by
  unfold enterFault
  split
  · exact h
  lift_lets
  intro s1 s2 s3 s4 q s5 s6
  have h1 : StepIs n s1 := by
    unfold s1
    split
    · exact stepIs_midDone _ _ h
    · exact h
  have h2 : StepIs n s2 := stepIs_ite (stepIs_pinMarks (stepIs_applyCfg h1)) h1
  have h3 : StepIs n s3 := stepIs_setRec 0 (stepIs_recoveryCut h2)
  have h5 : StepIs n s5 := stepIs_asq _ (stepIs_ite (stepIs_dropData h3) h3)
  exact stepIs_setRun _ (stepIs_ite (stepIs_scrubTiles h5) h5)

theorem stepIs_contractFault (cause u v detail : Nat) (h : StepIs n s) : StepIs n (contractFault cause u v detail s) := by
  unfold contractFault
  lift_lets
  intro s1 s2 s3
  have h1 : StepIs n s1 := stepIs_ite (stepIs_of h rfl) h
  have h2 : StepIs n s2 := stepIs_bump .asq 0x07C _ (stepIs_setErr .asq cause h1)
  have hr : StepIs n (recordCause cause u v detail s2) :=
    stepIs_of_reg h2 fun _ _ _ => recordCause_reg cause u v detail s2 _ (.inl (by omega))
  have h3 : StepIs n s3 :=
    stepIs_ite (stepIs_of hr rfl) (stepIs_ite (stepIs_of hr rfl) (stepIs_ite (stepIs_enterFault hr) hr))
  exact stepIs_ledgerItem _ _ (stepIs_of h3 rfl)

/-! Signals of setts, and of far setts with their relays (07 R213, R219, R220). -/

theorem stepIs_prtEvent (h : StepIs n s) : StepIs n (prtEvent s) := stepIs_bump .dbg _ _ (stepIs_of h rfl)

theorem stepIs_signalTile (u v k : Nat) (tgt : Option Strm) (w : Signaller) (opIdx : Nat) (h : StepIs n s) :
    StepIs n (signalTile u v k tgt w opIdx s) := by
  unfold signalTile
  lift_lets
  intro t x r t1 s1
  have h1 : StepIs n s1 := by
    unfold s1
    split
    next st _ =>
      have ht := stepIs_setTile u v (setCtx st { getCtx t1 st with sleep := none, slept := 0 } t1) h
      exact stepIs_ite (stepIs_prtEvent ht) ht
    next => exact stepIs_setTile _ _ _ h
  exact stepIs_ite (stepIs_contractFault _ _ _ _ h1) h1

theorem stepIs_readyProgs (want : UProg → Bool) (h : StepIs n s) : StepIs n (readyProgs want s) := by
  unfold readyProgs
  split
  · exact h
  · exact stepIs_forAll _ (fun d _ h => stepIs_setDie d _ h) h

theorem stepIs_deliverSignal (u v : Nat) (f : Flit) {far : List Byte → State → State} (hf : ∀ b, StepIs n (far b s))
    (h : StepIs n s) : StepIs n (deliverSignal u v f far s) :=
  stepIs_ite (stepIs_setTile _ _ _ h) (stepIs_ite (stepIs_fire 14 (stepIs_setTile _ _ _ h))
    (stepIs_ite (hf _) (stepIs_signalTile _ _ _ _ _ _ h)))

/-- A control flit that crosses its route changes tiles until `dl` takes it: by induction on the hops. -/
theorem stepIs_crossCtl {dl : State → State} (hd : ∀ s, StepIs n s → StepIs n (dl s)) (k u v : Nat) (p : Port) (f : Flit)
    (fresh : Bool) (cyc : Nat) (h : StepIs n s) : StepIs n (crossCtl k u v p f fresh cyc dl s) := by
  induction k generalizing u v p fresh cyc s with
  | zero => exact h
  | succ k ih =>
    unfold crossCtl
    split
    · exact h
    · lift_lets
      intro t s1 t2 out w s2 b
      have h1 : StepIs n s1 := stepIs_ite (stepIs_setTile _ _ _ h) h
      have ht := stepIs_setTile u v { t2 with ctl := t2.ctl.erase (p, f) } h1
      have h2 : StepIs n s2 := stepIs_ite ht (stepIs_setTile _ _ _ ht)
      exact stepIs_ite h1 (stepIs_ite (hd _ h2) (ih _ _ _ _ _ (stepIs_ite (stepIs_setTile _ _ _ h2) h2)))

theorem stepIs_relayOnce (d : Die) (k : Fin 16) (h : StepIs n s) : StepIs n (relayOnce d k s) := by
  have hb := stepIs_bump (.fst d) (0x04C + 16 * k.val) 1 h
  unfold relayOnce
  refine stepIs_ite (stepIs_readyProgs _ hb) ?_
  split
  · exact hb
  · exact stepIs_ite (stepIs_crossCtl (fun _ h => stepIs_deliverSignal _ _ _ (fun _ => h) h) _ _ _ _ _ _ _ hb) hb

theorem stepIs_relayWhile (d : Die) (k : Fin 16) (fuel : Nat) (h : StepIs n s) : StepIs n (relayWhile d k fuel s) := by
  induction fuel generalizing s with
  | zero => exact h
  | succ fuel ih => exact stepIs_ite h (ih (stepIs_relayOnce d k (stepIs_setReg (.fst d) _ _ h)))

theorem stepIs_farSignal (d : Die) (k : Fin 16) (srcMod srcDie : Nat) (h : StepIs n s) :
    StepIs n (farSignal d k srcMod srcDie s) := by
  unfold farSignal
  lift_lets
  intro rel w c last s1
  have h1 : StepIs n s1 := stepIs_setReg (.fst d) _ _ h
  refine stepIs_ite h (stepIs_ite (stepIs_setErr _ _ (stepIs_bump (.fst d) _ _ h)) (stepIs_ite ?_ ?_))
  · exact stepIs_contractFault _ _ _ _ (stepIs_setErr _ _ (stepIs_setBits (.fst d) _ _ _ _ h1))
  · exact stepIs_relayWhile _ _ _ (stepIs_setReg (.fst d) _ _ h1)

/-! Sending over the links (11 R341 to R350). -/

theorem stepIs_sendDirect (p : Die) (f : LFrame) (h : StepIs n s) : StepIs n (sendDirect p f s) := by
  unfold sendDirect
  lift_lets
  intro w s1 l s2
  have h1 : StepIs n s1 := stepIs_ite (stepIs_prtEvent h) h
  have h2 : StepIs n s2 := stepIs_setLink p _ h1
  exact stepIs_of (stepIs_ite (c := pageFrz s2 (.lnk p) = true) h2 (stepIs_setReg64 (.lnk p) 0x07C _ h2)) rfl

theorem stepIs_xferSent (f : LFrame) (h : StepIs n s) : StepIs n (xferSent f s) := by
  unfold xferSent
  split
  · exact h
  · refine stepIs_ite h ?_
    split
    · exact h
    · exact stepIs_farSignal _ _ _ _ h

theorem stepIs_takeSeq {p : Die} {f : LFrame} (h : StepIs n s) (e : takeSeq p s = some (f, t)) : StepIs n t := by
  unfold takeSeq at e
  dsimp only at e
  split at e
  · cases e
  · split at e
    · cases e
    · obtain ⟨g, _, hg⟩ := Option.map_eq_some_iff.mp e
      cases hg
      exact stepIs_xferSent _ (stepIs_setLink p _ h)

theorem stepIs_pumpDirect (p : Die) (k : Nat) (h : StepIs n s) : StepIs n (pumpDirect p k s) := by
  induction k generalizing s with
  | zero => exact h
  | succ k ih =>
    unfold pumpDirect
    refine stepIs_ite h ?_
    split
    next f t e => exact ih (stepIs_sendDirect p f (stepIs_takeSeq h e))
    next => exact h

theorem stepIs_enqueue (p : Die) (f : LFrame) (h : StepIs n s) : StepIs n (enqueue p f s) := stepIs_setLink p _ h

theorem stepIs_sendOn (p : Die) (f : LFrame) (h : StepIs n s) : StepIs n (sendOn p f s) := by
  unfold sendOn
  refine stepIs_ite (stepIs_sendDirect p f h) ?_
  split
  · exact h
  · exact stepIs_pumpDirect _ _ (stepIs_enqueue _ _ (stepIs_setLink p _ h))

theorem stepIs_pumpAux (p : Die) (k : Nat) (h : StepIs n s) : StepIs n (pumpAux p k s) := by
  induction k generalizing s with
  | zero => exact h
  | succ k ih =>
    unfold pumpAux
    refine stepIs_ite h ?_
    split
    next f t e => exact ih (stepIs_sendOn p f (stepIs_takeSeq h e))
    next => exact h

theorem stepIs_sendTo (d : Die) (f : LFrame) (h : StepIs n s) : StepIs n (sendTo d f s) := by
  have hb := stepIs_bump (.lnk d) 0x070 1 h
  unfold sendTo
  split
  · exact hb
  · exact stepIs_ite hb (stepIs_ite h (stepIs_pumpAux _ _ (stepIs_enqueue _ _ h)))

theorem stepIs_replayFrom (p : Die) (k : Nat) (h : StepIs n s) : StepIs n (replayFrom p k s) :=
  stepIs_ite h (stepIs_pumpAux p _ (stepIs_forAll _ (fun f _ h => stepIs_sendOn p f h) h))

theorem stepIs_linkReturn (h : StepIs n s) : StepIs n (linkReturn s) := by
  refine stepIs_forAll _ (fun p s h => ?_) h
  dsimp only
  refine stepIs_setLink p _ (stepIs_ite (stepIs_replayFrom _ _ (stepIs_ledgerItem _ _ ?_)) h)
  exact stepIs_setLnkState p _ (stepIs_setLink p _ h)

/-! The membership epoch and its permute (10 R328 to R330, 11 R356). -/

theorem stepIs_sendRed (m : Nat) (f : RFrame) (h : StepIs n s) : StepIs n (sendRed m f s) := by
  have h1 := stepIs_ite (c := prtLate s f.chan = true) (stepIs_prtEvent h) h
  unfold sendRed
  refine stepIs_ite h1 ?_
  split
  · exact h1
  · exact stepIs_ite h1 (stepIs_sendTo _ _ h1)

theorem stepIs_setPerm (v : Nat) (h : StepIs n s) : StepIs n (setPerm v s) := stepIs_setReg .rdc _ _ h

theorem stepIs_permFinish (h : StepIs n s) : StepIs n (permFinish s) :=
  stepIs_ite h (stepIs_ite (stepIs_ledgerItem _ _ (stepIs_setPerm 2 h)) (stepIs_setPerm 1 h))

theorem stepIs_permOwnDone (h : StepIs n s) : StepIs n (permOwnDone s) := by
  unfold permOwnDone
  split
  · exact h
  · refine stepIs_ite h (stepIs_permFinish (stepIs_rdc _ ?_))
    exact stepIs_forAll _ (fun m _ h => stepIs_sendRed m _ h) h

theorem stepIs_regionWrite (r : Region) (gen off : Nat) (bs : List Byte) (h : StepIs n s) :
    StepIs n (regionWrite r gen off bs s) :=
  stepIs_foldl (fun _ _ h => stepIs_hbmWrite _ _ h) _ (stepIs_hbmWrite _ _ h)

theorem stepIs_putStateWord (i : Img) (b e w : Nat) (x : W32) (h : StepIs n s) : StepIs n (putStateWord i b e w x s) := by
  unfold putStateWord
  split
  · exact stepIs_regionWrite _ _ _ _ h
  · exact h

theorem stepIs_putStateWords (i : Img) (words b o : Nat) (ws : List W32) (h : StepIs n s) :
    StepIs n (putStateWords i words b o ws s) :=
  stepIs_foldl (fun _ _ h => stepIs_putStateWord _ _ _ _ _ h) _ h

theorem stepIs_sendEntry (i : Img) (k : Nat) (e : Perm) (h : StepIs n s) : StepIs n (sendEntry i k e s) :=
  stepIs_forAll _ (fun _ _ h => stepIs_sendRed _ _ h) h

theorem stepIs_startPermute (p : Plan) (h : StepIs n s) : StepIs n (startPermute p s) := by
  unfold startPermute
  split
  · exact h
  · lift_lets
    intro r0 s1 s2 mine locals s3 r3 s4 s5
    have h2 : StepIs n s2 := stepIs_setPerm 1 (stepIs_of h rfl)
    have h3 : StepIs n s3 := stepIs_forAll _ (fun e _ h => stepIs_sendEntry _ _ _ h) h2
    have h5 : StepIs n s5 := by
      refine stepIs_foldl (fun s x h => ?_) _ (stepIs_of h3 rfl)
      exact stepIs_of (stepIs_putStateWords _ x.1.words x.1.dstBlk 0 x.2.2 h) rfl
    exact stepIs_permOwnDone h5

theorem stepIs_epochBoundary (h : StepIs n s) : StepIs n (epochBoundary s) := by
  unfold epochBoundary
  split
  · exact stepIs_takeStepBank h
  · refine stepIs_ite (stepIs_of h rfl) ?_
    split
    · exact stepIs_setErr .rdc 5 (stepIs_of h rfl)
    · refine stepIs_startPermute _ (stepIs_forAll _ (fun d _ h => stepIs_setReg (.upe d) _ _ h) ?_)
      exact stepIs_rdc _ (stepIs_takeEpoch h)

theorem stepIs_reductionStep (h : StepIs n s) : StepIs n (reductionStep s) := by
  unfold reductionStep
  split
  · exact h
  · refine stepIs_rdc _ (stepIs_forAll _ (fun d _ h => stepIs_setReg (.red d) 0x05C 0 h) ?_)
    exact stepIs_forAll _ (fun _ _ h => stepIs_setChan _ _ h) h

/-! The ladders and the record of the step (04 R116 to R120, 15 R436). -/

theorem stepIs_writeRecordAll (ts : List (Nat × Nat)) (r : ScaleRec) (ps : List (W32 × W32)) (h : StepIs n s) :
    StepIs n (writeRecordAll ts r ps s) := by
  refine stepIs_forAll _ (fun t s h => ?_) h
  unfold writeRecord
  split
  · exact h
  · exact stepIs_setTile _ _ _ h

theorem stepIs_writeHeadroom (ts : List (Nat × Nat)) (r : ScaleRec) (h : StepIs n s) : StepIs n (writeHeadroom ts r s) := by
  refine stepIs_forAll _ (fun t s h => ?_) h
  dsimp only
  split
  · exact h
  · exact stepIs_ite (stepIs_setTile _ _ _ h) h

theorem stepIs_scaleItem (step k rung : Nat) (r : ScaleRec) (ms : List W32) (h : StepIs n s) :
    StepIs n (scaleItem step k rung r ms s) := stepIs_ite (stepIs_ledgerItemOf _ _ _ h) h

theorem stepIs_ladderStep (h : StepIs n s) : StepIs n (ladderStep s) := by
  unfold ladderStep
  split
  · exact h
  · refine stepIs_forAll _ (fun d s h => stepIs_of ?_ rfl) h
    refine stepIs_foldl (fun s r h => ?_) _ h
    lift_lets
    intro q s1
    have h1 : StepIs n s1 := stepIs_ite h (stepIs_writeHeadroom _ _ (stepIs_of h rfl))
    exact stepIs_ite (stepIs_scaleItem _ _ _ _ _ (stepIs_writeRecordAll _ _ _ h1)) h1

theorem stepIs_writeState (h : StepIs n s) : StepIs n (writeState s) := by
  unfold writeState
  split
  · exact stepIs_setReg64 .asq _ _ (stepIs_hbmWrite _ _ h)
  · exact h

theorem stepIs_recoveryDone (h : StepIs n s) : StepIs n (recoveryDone s) := by
  refine stepIs_ite h (stepIs_ite (stepIs_setRec 0 (stepIs_asq _ ?_)) (stepIs_of h rfl))
  exact stepIs_setReg .asq 0x068 0 (stepIs_bump .asq 0x0C4 1 h)

/-! The array's program (01 R28, 06 R181, R182). -/

theorem stepIs_passTo (i : Img) (k : Nat) (h : StepIs n s) : StepIs n (passTo i k s) := stepIs_of h rfl

theorem stepIs_settle (i : Img) (k : Nat) (h : StepIs n s) : StepIs n (settle i k s) := by
  induction k generalizing s with
  | zero => exact h
  | succ k ih =>
    unfold settle
    refine stepIs_ite h ?_
    split
    · exact ih (stepIs_of h rfl)
    · exact stepIs_ite (ih (stepIs_passTo i _ (stepIs_bump .asq 0x088 1 (stepIs_of h rfl)))) h

theorem stepIs_saveSetts (unit : Nat) (h : StepIs n s) : StepIs n (saveSetts unit s) := by
  unfold saveSetts
  split
  · exact h
  · exact stepIs_of h rfl

theorem stepIs_beginTick (i : Img) (h : StepIs n s) : StepIs n (beginTick i s) := by
  unfold beginTick
  lift_lets
  intro a1 s1 named asleep held a2 s2 a3 tr s3 s4 a4
  have h2 : StepIs n s2 := stepIs_of h rfl
  have h4 : StepIs n s4 := stepIs_forAll _ (fun u _ h => stepIs_saveSetts u h) (stepIs_mapTiles _ h2)
  refine stepIs_ite (stepIs_setReg .asq 0x090 _ (stepIs_of h2 rfl)) ?_
  split
  · exact stepIs_setReg .asq 0x054 _ (stepIs_ite (stepIs_bump .asq 0x084 1 (stepIs_of h4 rfl)) h4)
  · exact stepIs_setReg .asq 0x054 _ h4

theorem stepIs_startStep (k : Nat) (i : Img) (h : StepIs n s) : StepIs n (startStep k i s) :=
  stepIs_beginTick i (stepIs_mapTiles _ (stepIs_settle i _ (stepIs_of h rfl)))

/-! The boundary (01 R29, 15 R434, R438). -/

theorem stepIs_releaseStep (i : Img) (h : StepIs n s) : StepIs n (releaseStep i s) := by
  unfold releaseStep
  lift_lets
  intro s1 a1 s2 a2
  have h1 : StepIs n s1 := stepIs_ite (stepIs_epochBoundary h) h
  have h2 : StepIs n s2 := stepIs_of h1 rfl
  have hr : StepIs n (startRejoined i s2) :=
    stepIs_startStep _ i (stepIs_writeState (stepIs_setRec 6 (stepIs_setRun .run (stepIs_of h2 rfl))))
  exact stepIs_ite h1 (stepIs_ite (stepIs_ite (stepIs_startStep _ i h2) h2) (stepIs_ite hr (stepIs_of h2 rfl)))

end

/-- The step ends: STEP goes on by 1, and nothing else of the boundary writes it. -/
theorem stepIs_endStep (i : Img) {n : Nat} {s : State} (h : StepIs n s) : StepIs ((n + 1) % 2 ^ 64) (endStep i s) := by
  unfold endStep
  lift_lets
  intro up s1 s2 s3 s4 s5 s6 s7 s8 a8 s9 a9 s10
  have hp : StepIs n (perturbItem (linkReturn s)) :=
    stepIs_ite (stepIs_ledgerItem _ _ (stepIs_linkReturn h)) (stepIs_linkReturn h)
  have h1 : StepIs n s1 := stepIs_ledgerItem _ _ hp
  have h2 : StepIs n s2 := stepIs_ite (stepIs_setReg .asq 0x060 _ h1) h1
  have h4 : StepIs n s4 := stepIs_of (stepIs_recoveryDone h2) rfl
  have h5 : StepIs ((n + 1) % 2 ^ 64) s5 := h4 ▸ stepIs_setStep (stepNo s4 + 1) s4
  have h6 : StepIs ((n + 1) % 2 ^ 64) s6 := stepIs_reductionStep (stepIs_epochBoundary h5)
  have h7 : StepIs ((n + 1) % 2 ^ 64) s7 := stepIs_ite (stepIs_writeState (stepIs_ladderStep h6)) h6
  have h8 : StepIs ((n + 1) % 2 ^ 64) s8 := stepIs_readyProgs _ h7
  have h9 : StepIs ((n + 1) % 2 ^ 64) s9 := stepIs_ite (stepIs_of h8 rfl) (stepIs_of h8 rfl)
  have h10 : StepIs ((n + 1) % 2 ^ 64) s10 := stepIs_of h9 rfl
  exact stepIs_ite (stepIs_bump .hdm 0x170 1 (stepIs_setErr .hdm 4 h10)) h10

/-! The ledger holds the boundary (17 R500). -/

/-- A step that ends with too little room in the ledger sets error bit 4 of HDM. -/
theorem endStep_ledgerHolds (i : Img) {s : State} (h : ledgerHolds (endStep i s) = true) :
    bitOf (reg (endStep i s) .hdm 0x010) 4 = true := by
  revert h
  unfold endStep
  lift_lets
  intro up s1 s2 s3 s4 s5 s6 s7 s8 a8 s9 a9 s10 h
  by_cases hl : ledgerHolds s10 = true
  · rw [if_pos hl, reg_bump_off _ _ _ (by omega)]
    exact setErr_bit .hdm (by omega) s10
  · rw [if_neg hl] at h
    exact absurd h hl

/-! The command STEP_BOUNDARY, by cases. -/

theorem arrComplete_iff (s : State) (i : Img) :
    arrComplete s i = true ↔ ∀ r ∈ i.regions, r.arr = true → r.nblk ≤ mget 0 (dieSt s r.owner).arr r.idx := by
  unfold arrComplete
  rw [List.all_eq_true]
  refine forall₂_congr fun r _ => ?_
  cases r.arr <;> simp

theorem stepDone_iff (s : State) (i : Img) :
    stepDone s i = true ↔ (∀ r ∈ i.regions, r.arr = true → r.nblk ≤ mget 0 (dieSt s r.owner).arr r.idx) ∧
      ((∃ r ∈ i.regions, r.arr = true) ∨ s.run ≠ .run ∨ (atEnd s i = true ∧ stepNo s ≤ arrStep s)) := by
  unfold stepDone
  rw [Bool.and_eq_true, arrComplete_iff, Bool.or_eq_true, Bool.or_eq_true, List.any_eq_true, Bool.and_eq_true,
    decide_eq_true_iff, decide_eq_true_iff, or_assoc]

section
variable {i : Img} {s : State} (hi : s.image = some i) (hd : diesRun s = true) (hr : s.run ≠ .ready)
include hi hd hr

theorem stepBoundary_held (hb : s.asq.holdB = true) : stepBoundary s = releaseStep i s := by
  simp [stepBoundary, hi, hd, hr, hb]

theorem stepBoundary_due (hb : s.asq.holdB = false) (hv : s.run = .run ∨ s.asq.voided = true) (hs : stepDone s i = true) :
    stepBoundary s = releaseStep i (endStep i s) := by
  rcases hv with hv | hv
  · simp [stepBoundary, hi, hd, hb, hs, hv]
  · simp [stepBoundary, hi, hd, hr, hb, hs, hv]

theorem stepBoundary_early (hb : s.asq.holdB = false)
    (h : ¬ ((s.run = .run ∨ s.asq.voided = true) ∧ stepDone s i = true)) : stepBoundary s = s := by
  have hc : (s.run ≠ .run ∧ s.asq.voided = false) ∨ stepDone s i = false := by
    rw [not_and_or, not_or, Bool.not_eq_true, Bool.not_eq_true] at h
    exact h
  simp [stepBoundary, hi, hd, hr, hb, hc]

end

/-- While something holds the boundary, nothing is released. -/
theorem releaseStep_holds (i : Img) {s : State} (hp : s.rdc.epochPend = false)
    (h : epochHolds s = true ∨ ledgerHolds s = true ∨ stepProgs s i = true) : releaseStep i s = s := by
  have hc : (epochHolds s = true ∨ ledgerHolds s = true) ∨ stepProgs s i = true := or_assoc.mpr h
  simp [releaseStep, hp, hc]

/-! The command STEP_WATCHDOG (06 R190). -/

@[simp] theorem haltAt_now (u v : Nat) (s : State) : (haltAt u v s).now = s.now := by
  obtain ⟨_, e⟩ := haltAt_spec u v s
  rw [e]

@[simp] theorem haltAt_loading (u v : Nat) (s : State) : (haltAt u v s).loading = s.loading := by
  obtain ⟨_, e⟩ := haltAt_spec u v s
  rw [e]

@[simp] theorem recordCause_now (cause u v detail : Nat) (s : State) : (recordCause cause u v detail s).now = s.now := by
  obtain ⟨_, e⟩ := recordCause_shape cause u v detail s
  rw [e]

@[simp] theorem recordCause_loading (cause u v detail : Nat) (s : State) :
    (recordCause cause u v detail s).loading = s.loading := by
  obtain ⟨_, e⟩ := recordCause_shape cause u v detail s
  rw [e]

@[simp] theorem faultItem_now (cls cause : Nat) (sus : List (Nat × Nat)) (s : State) : (faultItem cls cause sus s).now = s.now := by
  obtain ⟨_, _, _, _, _, _, _, _, _, _, _, _, e, _⟩ := ledgerOnly_faultItem cls cause sus s
  rw [e]

theorem callHalt_now {s : State} (h : s.loading = false) : (callHalt s).now = s.now := by rw [callHalt_spec h]

/-- A contract fault while no load runs does not move the timebase. -/
theorem contractFault_now (cause u v detail : Nat) {s : State} (h : s.loading = false) :
    (contractFault cause u v detail s).now = s.now := by
  have hl : (recordCause cause u v detail (bump .asq 0x07C (setErr .asq cause (haltAt u v s)))).loading = false := by simp [h]
  simp [contractFault, callHalt_now hl]

/-- The timebase as the watchdog finds it: the time since the last step boundary has come. -/
def atWatchdog (i : Img) (s : State) : State := { s with now := max s.now (s.asq.stepStart + i.stepWd * 1000000000) }

theorem stepWatchdog_run {i : Img} {s : State} (hi : s.image = some i) (hr : s.run = .run) :
    stepWatchdog s = contractFault 10 0xFFFF 0xFFFF 0 (atWatchdog i s) := by
  simp [stepWatchdog, hi, hr, atWatchdog]

theorem exec_stepBoundary (s : State) : exec .stepBoundary s = .next (stepBoundary s) := rfl

theorem exec_stepWatchdog (s : State) : exec .stepWatchdog s = .next (stepWatchdog s) := rfl

end Sys2Proof.Machine
end

section
namespace Sys2Proof
open Machine

/-- Settles O41: the boundary case by case, with STEP written by `endStep` alone, and the watchdog by `contractFault_spec`. -/
theorem stepBoundary : Obligations.StepBoundary := by
  unfold Obligations.StepBoundary
  refine ⟨?_, ?_, ?_, ?_⟩
  · intro i s hi hd hr hb due
    have hdue : due ↔ (s.run = .run ∨ s.asq.voided = true) ∧ stepDone s i = true := by rw [stepDone_iff]
    rw [exec_stepBoundary, hdue]
    refine ⟨fun ⟨hv, hs⟩ => ⟨_, rfl, ?_⟩, fun h => by rw [stepBoundary_early hi hd hr hb h]⟩
    rw [stepBoundary_due hi hd hr hb hv hs]
    exact stepIs_releaseStep i (stepIs_endStep i rfl)
  · intro i s hi hd hr hb hp h
    rw [exec_stepBoundary, stepBoundary_held hi hd hr hb, releaseStep_holds i hp h]
  · intro i s hi hr hl
    obtain ⟨hasq, hbit, htiles, -⟩ := contractFault_spec 10 0xFFFF 0xFFFF 0 (atWatchdog i s) (by omega) hl
    refine ⟨_, rfl, ?_⟩
    rw [stepWatchdog_run hi hr, hasq]
    have hm : moving (atWatchdog i s) = true := by simp [moving, atWatchdog, hr]
    exact ⟨hbit, by simp [atWatchdog, hr], by simp [calledAsq, hm], htiles, contractFault_now _ _ _ _ hl⟩
  · rintro i s h a rfl
    exact endStep_ledgerHolds i h

end Sys2Proof
end

section
namespace Sys2Proof.Machine

/-! Format ladders: which operations leave the page OWL and the sequencer's ladder state alone (04 R101 to R120). -/

/-- `t` agrees with `a` in the part `p` of the sequencer and in the registers of the page OWL below QOVF_CNT at 0x068. -/
def OwlKept {α : Type} (p : Asq → α) (a t : State) : Prop := p t.asq = p a.asq ∧ ∀ o < 0x068, reg t .owl o = reg a .owl o

section
variable {α : Type} {p : Asq → α} {a s t : State}

theorem owlKept_refl (p : Asq → α) (a : State) : OwlKept p a a := ⟨rfl, fun _ _ => rfl⟩

/-- A change outside the registers and the part `p`. -/
theorem owlKept_of (h : OwlKept p a s) (e : p t.asq = p s.asq) (r : t.regs = s.regs) : OwlKept p a t :=
  ⟨e.trans h.1, fun o ho => (reg_congr r .owl o).trans (h.2 o ho)⟩

theorem owlKept_ite {c : Prop} [Decidable c] (h : OwlKept p a s) (g : OwlKept p a t) : OwlKept p a (if c then s else t) := by
  split <;> assumption

theorem owlKept_foldl {β : Type} {f : State → β → State} (hf : ∀ s x, OwlKept p a s → OwlKept p a (f s x)) (l : List β)
    {s : State} (h : OwlKept p a s) : OwlKept p a (l.foldl f s) := by
  induction l generalizing s with
  | nil => exact h
  | cons x l ih => exact ih (hf s x h)

theorem owlKept_forAll {β : Type} (l : List β) {f : β → State → State} (hf : ∀ x s, OwlKept p a s → OwlKept p a (f x s))
    (h : OwlKept p a s) : OwlKept p a (forAll l f s) := owlKept_foldl (fun s x => hf x s) l h

theorem owlKept_setAsq {o : Nat} (v : W32) (ho : o < 0x1000) (h : OwlKept p a s) : OwlKept p a (setReg .asq o v s) :=
  ⟨h.1, fun o' ho' => (reg_setReg_ne v s ho (by omega) (by simp)).trans (h.2 o' ho')⟩

theorem owlKept_bumpAsq {o : Nat} (ho : o < 0x1000) (h : OwlKept p a s) : OwlKept p a (bump .asq o s) :=
  owlKept_ite h (owlKept_setAsq _ ho h)

theorem owlKept_setOwl {o : Nat} (v : W32) (ho : 0x068 ≤ o) (h : OwlKept p a s) : OwlKept p a (setReg .owl o v s) :=
  ⟨h.1, fun o' ho' => (reg_setReg_off .owl v s (by omega)).trans (h.2 o' ho')⟩

theorem owlKept_bumpOwl {o : Nat} (ho : 0x068 ≤ o) (h : OwlKept p a s) : OwlKept p a (bump .owl o s) :=
  owlKept_ite h (owlKept_setOwl _ ho h)

theorem owlKept_setTile (u v : Nat) (x : Tile) (h : OwlKept p a s) : OwlKept p a (setTile u v x s) := owlKept_of h rfl rfl

theorem owlKept_mapTiles (f : Tile → Tile) (h : OwlKept p a s) : OwlKept p a (mapTiles f s) := owlKept_of h rfl rfl

theorem ledgerOnly_owlReg (h : LedgerOnly s t) {o : Nat} (ho : o < 0x1000) : reg t .owl o = reg s .owl o := by
  refine ledgerOnly_reg h ?_
  unfold ledgerKey onEvc
  simp only [pageBase]
  omega

theorem ledgerOnly_asq (h : LedgerOnly s t) : t.asq = s.asq := by
  obtain ⟨_, _, _, _, _, _, _, _, _, _, _, _, rfl, -⟩ := h
  rfl

theorem ledgerOnly_tiles (h : LedgerOnly s t) : t.tiles = s.tiles := by
  obtain ⟨_, _, _, _, _, _, _, _, _, _, _, _, rfl, -⟩ := h
  rfl

theorem owlKept_ledgerItemOf (step typ : Nat) (body : List Byte) (h : OwlKept p a s) :
    OwlKept p a (ledgerItemOf step typ body s) :=
  have hl := ledgerOnly_ledgerItemOf step typ body s
  ⟨(congrArg p (ledgerOnly_asq hl)).trans h.1, fun o ho => (ledgerOnly_owlReg hl (by omega)).trans (h.2 o ho)⟩

/-! Scale records, setts and triggers of an attempt (04 R104, R116, R117). -/

theorem owlKept_writeRecordAll (ts : List (Nat × Nat)) (r : ScaleRec) (ps : List (W32 × W32)) (h : OwlKept p a s) :
    OwlKept p a (writeRecordAll ts r ps s) := by
  refine owlKept_forAll _ (fun t s h => ?_) h
  unfold writeRecord
  split
  · exact h
  · exact owlKept_setTile _ _ _ h

theorem owlKept_scaleItem (step k rung : Nat) (r : ScaleRec) (ms : List W32) (h : OwlKept p a s) :
    OwlKept p a (scaleItem step k rung r ms s) := owlKept_ite (owlKept_ledgerItemOf _ _ _ h) h

theorem owlKept_setScaleRec (k : Nat) (r : ScaleRec) (h : OwlKept p a s) : OwlKept p a (setScaleRec k r s) :=
  owlKept_of h rfl rfl

theorem owlKept_acceptScales (unit rung w : Nat) (mx : List W32) (h : OwlKept p a s) :
    OwlKept p a (acceptScales unit rung w mx s) := by
  unfold acceptScales
  split
  · exact h
  · exact owlKept_foldl (fun _ _ h => owlKept_scaleItem _ _ _ _ _ (owlKept_writeRecordAll _ _ _ (owlKept_setScaleRec _ _ h))) _ h

theorem owlKept_repeatScales (unit rung hold : Nat) (mx : List W32) (h : OwlKept p a s) :
    OwlKept p a (repeatScales unit rung hold mx s) := by
  unfold repeatScales
  split
  · exact h
  · refine owlKept_foldl (fun s x h => owlKept_ite ?_ (owlKept_ite ?_ h)) _ h
    · exact owlKept_scaleItem _ _ _ _ _ (owlKept_writeRecordAll _ _ _ (owlKept_setScaleRec _ _ h))
    · exact owlKept_scaleItem _ _ _ _ _ (owlKept_writeRecordAll _ _ _ h)

theorem owlKept_restoreSetts (unit : Nat) (h : OwlKept p a s) : OwlKept p a (restoreSetts unit s) :=
  owlKept_foldl (fun _ _ h => owlKept_ite h (owlKept_setTile _ _ _ h)) _ h

theorem owlKept_clearAttempt (unit : Nat) (h : OwlKept p a s) : OwlKept p a (clearAttempt unit s) := by
  unfold clearAttempt
  split
  · exact h
  · exact owlKept_forAll _ (fun _ _ h => owlKept_setTile _ _ _ h) h

end

/-! The next tick record is chosen without a change of any unit (06 R181 to R183). -/

section
variable {a s : State}

theorem owlKept_passTo (i : Img) (k : Nat) (h : OwlKept Asq.units a s) : OwlKept Asq.units a (passTo i k s) := owlKept_of h rfl rfl

theorem owlKept_nextPos (i : Img) (h : OwlKept Asq.units a s) : OwlKept Asq.units a (nextPos i s) := by
  refine owlKept_ite h ?_
  split
  · split <;> exact owlKept_of h rfl rfl
  · exact owlKept_ite (owlKept_passTo i _ h) h

theorem owlKept_settle (i : Img) (k : Nat) (h : OwlKept Asq.units a s) : OwlKept Asq.units a (settle i k s) := by
  induction k generalizing s with
  | zero => exact h
  | succ k ih =>
    unfold settle
    refine owlKept_ite h ?_
    split
    · exact ih (owlKept_of h rfl rfl)
    · exact owlKept_ite (ih (owlKept_passTo i _ (owlKept_bumpAsq (by omega) (owlKept_of h rfl rfl)))) h

theorem owlKept_beginProgram (i : Img) (h : OwlKept Asq.units a s) : OwlKept Asq.units a (beginProgram i s) :=
  owlKept_settle i _ (owlKept_passTo i 0 (owlKept_of h rfl rfl))

theorem owlKept_saveSetts (unit : Nat) (h : OwlKept Asq.units a s) : OwlKept Asq.units a (saveSetts unit s) := by
  unfold saveSetts
  split
  · exact h
  · exact owlKept_of h rfl rfl

theorem owlKept_beginTick (i : Img) (h : OwlKept Asq.units a s) : OwlKept Asq.units a (beginTick i s) := by
  unfold beginTick
  lift_lets
  intro a1 s1 named asleep held a2 s2 a3 tr s3 s4 a4
  have h2 : OwlKept Asq.units a s2 := owlKept_of h rfl rfl
  have h4 : OwlKept Asq.units a s4 := owlKept_forAll _ (fun u _ h => owlKept_saveSetts u h) (owlKept_mapTiles _ h2)
  refine owlKept_ite (owlKept_setAsq _ (by omega) (owlKept_of h2 rfl rfl)) ?_
  split
  · exact owlKept_setAsq _ (by omega) (owlKept_ite (owlKept_bumpAsq (by omega) (owlKept_of h4 rfl rfl)) h4)
  · exact owlKept_setAsq _ (by omega) h4

theorem owlKept_selectNext (h : OwlKept Asq.units a s) : OwlKept Asq.units a (selectNext s) := by
  unfold selectNext
  split
  · exact h
  · lift_lets
    intro s1 s2
    have h1 : OwlKept Asq.units a s1 := owlKept_settle _ _ (owlKept_nextPos _ h)
    have h2 : OwlKept Asq.units a s2 := owlKept_ite (owlKept_beginProgram _ h1) h1
    exact owlKept_beginTick _ (owlKept_ite (owlKept_mapTiles _ h2) h2)

end

/-! The decision of a unit (04 R103, R105, R106). -/

@[simp] theorem unitSt_setUnit_same (n : Nat) (x : UnitSt) (s : State) : unitSt (setUnit n x s) n = x := mget_mput_same n x

theorem reg_bump_same {pg : Page} {s : State} (o n : Nat) (h : pageFrz s pg = false) :
    reg (bump pg o s n) pg o = satInc (reg s pg o) n := by
  rw [bump, if_neg (by simp [h]), reg_setReg_same]

theorem owlKept_unitSt {a t : State} (h : OwlKept Asq.units a t) (unit : Nat) : unitSt t unit = unitSt a unit :=
  congrArg (mget default · unit) h.1

theorem owlKept_frz {α : Type} {p : Asq → α} {a t : State} (h : OwlKept p a t) : pageFrz t .owl = pageFrz a .owl :=
  congrArg (bitOf · 1) (h.2 0x008 (by omega))

/-- What a decision counts and takes away before it looks at the rung: QOVF_CNT, ASAT_CNT and the unit's combine results. -/
def attemptCounted (unit : Nat) (i : Img) (flags : Nat) (s : State) : State :=
  let causes := flags / 2 % 32
  let up : Bool := flags % 2 = 1
  let s := if up && causes.testBit 0 then bump .owl 0x068 s else s
  let s := if up && (causes.testBit 1 || causes.testBit 2) then bump .owl 0x06C s else s
  { s with asq := { s.asq with results := s.asq.results.filter fun e => !combIsOf i unit e.1 } }

theorem owlKept_attemptCounted (unit : Nat) (i : Img) (flags : Nat) (s : State) :
    OwlKept Asq.astep s (attemptCounted unit i flags s) := by
  unfold attemptCounted
  lift_lets
  intro causes up s1 s2
  have h1 : OwlKept Asq.astep s s1 := owlKept_ite (owlKept_bumpOwl (by omega) (owlKept_refl _ s)) (owlKept_refl _ s)
  have h2 : OwlKept Asq.astep s s2 := owlKept_ite (owlKept_bumpOwl (by omega) h1) h1
  exact owlKept_of h2 rfl rfl

/-- From `s` to `t` the unit has gone to its next rung, in the step that the array runs, and the repeat is counted. -/
def RungRaised (unit : Nat) (d : UnitDesc) (s t : State) : Prop :=
  (unitSt t unit).due = none ∧ (unitSt t unit).rung = (unitSt s unit).rung + 1 ∧ (unitSt t unit).hold = d.hold ∧
  (unitSt t unit).raised = some (arrStep s) ∧ (pageFrz s .owl = false → reg t .owl 0x060 = satInc (reg s .owl 0x060))

theorem rungRaised_of {unit : Nat} {d : UnitDesc} {s t t' : State} (h : RungRaised unit d s t) (e : OwlKept Asq.units t t') :
    RungRaised unit d s t' := by
  unfold RungRaised at *
  rwa [owlKept_unitSt e, e.2 0x060 (by omega)]

section
variable {unit flags : Nat} {i : Img} {d : UnitDesc} {s : State} (mx : List W32)

/-- The attempt stands: the unit keeps its rung and its hold count. -/
theorem decideWith_stands (hf : flags % 2 = 0) :
    (unitSt (decideWith unit i d flags mx s) unit).due = none ∧
    (unitSt (decideWith unit i d flags mx s) unit).rung = (unitSt s unit).rung ∧
    (unitSt (decideWith unit i d flags mx s) unit).hold = (unitSt s unit).hold := by
  simp [decideWith, hf]

/-- A repeat on the next rung: the unit goes up with its hold count, and the repeat is counted. -/
theorem decideWith_repeats (hf : flags % 2 = 1) (hr : (unitSt s unit).rung < d.top) :
    RungRaised unit d s (decideWith unit i d flags mx s) := by
  unfold decideWith
  lift_lets
  intro x causes up s1 s2 a3 s3 x' t s4 s5 sat s6 s7 a8 s9 s10
  have h3 : OwlKept Asq.astep s s3 := owlKept_attemptCounted unit i flags s
  have h4 : OwlKept Asq.astep s s4 := owlKept_ledgerItemOf _ _ _ h3
  have h6 : OwlKept Asq.astep (bump .owl 0x060 s4) s6 := owlKept_clearAttempt _ (owlKept_restoreSetts _
    (owlKept_repeatScales _ _ _ _ (owlKept_setOwl _ (by omega) (owlKept_setOwl _ (by omega) (owlKept_refl _ _)))))
  have hn : arrStep s6 = arrStep s := h6.1.trans ((congrArg Asq.astep (bump_asq ..)).trans h4.1)
  have hc : pageFrz s .owl = false → reg s6 .owl 0x060 = satInc (reg s .owl 0x060) := fun hz =>
    calc reg s6 .owl 0x060 = reg (bump .owl 0x060 s4) .owl 0x060 := h6.2 _ (by omega)
      _ = satInc (reg s4 .owl 0x060) := reg_bump_same _ _ ((owlKept_frz h4).trans hz)
      _ = satInc (reg s .owl 0x060) := by rw [h4.2 _ (by omega)]
  have h7 : RungRaised unit d s s7 := by
    unfold RungRaised s7
    rw [unitSt_setUnit_same]
    exact ⟨rfl, rfl, rfl, congrArg some hn, hc⟩
  have hup : (up && decide (x'.rung < d.top)) = true := by
    rw [Bool.and_eq_true]
    exact ⟨decide_eq_true hf, decide_eq_true hr⟩
  rw [if_pos hup]
  split
  · exact rungRaised_of h7 (owlKept_of (owlKept_refl _ s7) rfl rfl)
  · exact h7

/-- At the top rung: error bit 0 of OWL, the rung stays, the hold count is reloaded. -/
theorem decideWith_top (hf : flags % 2 = 1) (hr : d.top ≤ (unitSt s unit).rung) :
    (unitSt (decideWith unit i d flags mx s) unit).due = none ∧
    (unitSt (decideWith unit i d flags mx s) unit).rung = (unitSt s unit).rung ∧
    (unitSt (decideWith unit i d flags mx s) unit).hold = d.hold ∧
    bitOf (reg (decideWith unit i d flags mx s) .owl 0x010) 0 = true := by
  unfold decideWith
  lift_lets
  intro x causes up s1 s2 a3 s3 x' t s4 s5 sat s6 s7 a8 s9 s10
  have hup : up = true := decide_eq_true hf
  have hlow : ¬ (up && decide (x'.rung < d.top)) = true := by
    rw [Bool.and_eq_true]
    exact fun h => Nat.not_lt.mpr hr (of_decide_eq_true h.2)
  have hbit : bitOf (reg s9 .owl 0x010) 0 = true := by
    unfold s9
    rw [if_pos hup]
    exact setErr_bit .owl (by omega) _
  have h10 : OwlKept Asq.astep s9 s10 := owlKept_clearAttempt _ (owlKept_acceptScales _ _ _ _ (owlKept_refl _ s9))
  have hb : bitOf (reg s10 .owl 0x010) 0 = true := by rwa [h10.2 0x010 (by omega)]
  rw [if_neg hlow, if_pos hup, unitSt_setUnit_same]
  exact ⟨rfl, rfl, rfl, hb⟩

end

/-! The command LADDER_DECISION: the decision, and after the last one the choice of the next tick record. -/

theorem decideUnit_decides {unit : Nat} {i : Img} {d : UnitDesc} {r : Nat × List W32} {s : State} (hi : s.image = some i)
    (hd : unitDesc i unit = some d) (hu : unitResult s i unit = some r) :
    decideUnit unit s = decideWith unit i d r.1 r.2 s := by
  simp [decideUnit, hi, hd, hu]

/-- Where a decision is due, the command takes it; what follows changes no unit. -/
theorem owlKept_ladderDecision {unit : Nat} {s : State} (hr : s.run = .run) (hd : (unitSt s unit).due = some 0) :
    OwlKept Asq.units (decideUnit unit s) (ladderDecision unit s) := by
  rw [ladderDecision, if_neg (by simp [hr, hd])]
  exact owlKept_ite (owlKept_refl _ _) (owlKept_selectNext (owlKept_refl _ _))

theorem exec_ladderDecision (unit : Nat) (s : State) : exec (.ladderDecision unit) s = .next (ladderDecision unit s) := rfl

/-! A check of the Owl completes (04 R111 to R114). -/

/-- The tile once its check has ended: no check, and 6 tokens for each cycle of it not yet charged. -/
def checkEnded (o : OwlSample) (t : Tile) : Tile := { t with owl := none, tok := t.tok + 6 * (owlCycles o - o.spent) }

/-- The check has freed the Owl of its tile. -/
def checkFreed (u v : Nat) (o : OwlSample) (s : State) : State := setTile u v (checkEnded o (tile s u v)) s

/-- A missing shadow: the block is counted as not compared, with error bit 2. -/
def blockMissed (s : State) : State := setErr .owl 2 (bump .owl 0x05C s)

/-- A compared block is counted; the largest disagreement is kept. -/
def blockCounted (d : Nat) (s : State) : State :=
  let s := bump .owl 0x04C s
  if pageFrz s .owl then s else setReg .owl 0x070 (w32 (max (reg s .owl 0x070).toNat d)) s

/-- The two thresholds of the unit of a compared block. -/
def blockJudged (u v : Nat) (i : Img) (o : OwlSample) (d : Nat) (s : State) : State :=
  let un := (unitDesc i o.unit).getD default
  let rung := (unitSt s o.unit).rung
  if un.th ≤ d then
    owlItem o.unit rung true d o.elem
      (setErr .owl 1 (bump .owl 0x054 (setTile u v (setOvf o.unit causeOwl o.opIdx o.elem (tile s u v)) s)))
  else if un.ts ≤ d then owlItem o.unit rung false d o.elem (bump .owl 0x050 s)
  else s

theorem prtUnit_setTile (u v : Nat) (x : Tile) (s : State) (o unit : Nat) : prtUnit (setTile u v x s) o unit = prtUnit s o unit := rfl

section
variable {u v : Nat} {i : Img} {tr : TickRec} {o : OwlSample} {s : State} (hi : s.image = some i) (ht : tickNow s = some tr)
  (ho : (tile s u v).owl = some o) (hw : tr.owlWin = true) (hr : issuing s = true) (hl : s.loading = false)
  (hf : (tile s u v).fenced = false) (hp : prtUnit s 0x060 o.unit = false)
include hi ht ho hw hr hl hf hp

theorem owlCheck_missing (hx : o.x = none) :
    owlCheck u v s = blockMissed (checkFreed u v o s) := by
  have guard : (!tr.owlWin || !issuing s || s.loading || (tile s u v).fenced) = false := by simp [hw, hr, hl, hf]
  simp only [owlCheck, hi, ht, ho, guard, prtUnit_setTile, hp, Bool.false_eq_true, if_false, hx, Option.map_none, checkEnded,
    checkFreed, blockMissed]

theorem owlCheck_compared {xs : List W32} (hx : o.x = some xs) :
    owlCheck u v s = blockJudged u v i o (blockD o xs) (blockCounted (blockD o xs) (checkFreed u v o s)) := by
  have guard : (!tr.owlWin || !issuing s || s.loading || (tile s u v).fenced) = false := by simp [hw, hr, hl, hf]
  simp only [owlCheck, hi, ht, ho, guard, prtUnit_setTile, hp, Bool.false_eq_true, if_false, hx, Option.map_some, checkEnded,
    checkFreed,   Bool.false_or, decide_eq_true_iff, blockJudged, blockCounted, Nat.add_zero]
  rfl
end

/-! What a completed check leaves of the tile, of the other tiles, of the sequencer and of the page OWL. -/

/-- From `s` to `t` one tile becomes `x`, and every other tile stays. -/
def TileBecomes (u v : Nat) (x : Tile) (s t : State) : Prop :=
  tile t u v = x ∧ ∀ k, k ≠ tileKey u v → mget Tile.blank t.tiles k = mget Tile.blank s.tiles k

theorem tileBecomes_refl (u v : Nat) (s : State) : TileBecomes u v (tile s u v) s s := ⟨rfl, fun _ _ => rfl⟩

theorem tileBecomes_of {u v : Nat} {x : Tile} {a s t : State} (h : TileBecomes u v x a s) (e : t.tiles = s.tiles) :
    TileBecomes u v x a t := by
  unfold TileBecomes tile at *
  rwa [e]

theorem tileBecomes_setTile {u v : Nat} {y : Tile} {a s : State} (x : Tile) (h : TileBecomes u v y a s) :
    TileBecomes u v x a (setTile u v x s) :=
  ⟨tile_setTile_same u v x s, fun k hk => (mget_mput_ne x hk).trans (h.2 k hk)⟩

theorem ledgerOnly_owlItem (unit rung : Nat) (hard : Bool) (d elem : Nat) (s : State) :
    LedgerOnly s (owlItem unit rung hard d elem s) := ledgerOnly_ledgerItemOf _ _ _ s

@[simp] theorem owlItem_tiles (unit rung : Nat) (hard : Bool) (d elem : Nat) (s : State) :
    (owlItem unit rung hard d elem s).tiles = s.tiles := ledgerOnly_tiles (ledgerOnly_owlItem ..)

@[simp] theorem owlItem_asq (unit rung : Nat) (hard : Bool) (d elem : Nat) (s : State) :
    (owlItem unit rung hard d elem s).asq = s.asq := ledgerOnly_asq (ledgerOnly_owlItem ..)

theorem reg_owlItem (unit rung : Nat) (hard : Bool) (d elem : Nat) (s : State) {n : Nat} (hn : n < 0x1000) :
    reg (owlItem unit rung hard d elem s) .owl n = reg s .owl n := ledgerOnly_owlReg (ledgerOnly_owlItem ..) hn

/-- An error of OWL changes ERR_STS alone of its page. -/
theorem reg_setErr_owl (k : Nat) (s : State) {n : Nat} (hn : n < 0x1000) (h : n ≠ 0x010) :
    reg (setErr .owl k s) .owl n = reg s .owl n := by
  rw [onlyEvents_reg (onlyEvents_setErr .owl k s) (by unfold onEvc; simp only [pageBase]; omega), reg_setReg_off _ _ _ h]

@[simp] theorem checkFreed_asq (u v : Nat) (o : OwlSample) (s : State) : (checkFreed u v o s).asq = s.asq := rfl

theorem reg_checkFreed (u v : Nat) (o : OwlSample) (s : State) (pg : Page) (n : Nat) :
    reg (checkFreed u v o s) pg n = reg s pg n := rfl

theorem pageFrz_checkFreed (u v : Nat) (o : OwlSample) (s : State) (pg : Page) :
    pageFrz (checkFreed u v o s) pg = pageFrz s pg := rfl

theorem tileBecomes_checkFreed (u v : Nat) (o : OwlSample) (s : State) :
    TileBecomes u v (checkEnded o (tile s u v)) s (checkFreed u v o s) := tileBecomes_setTile _ (tileBecomes_refl u v s)

@[simp] theorem blockMissed_tiles (s : State) : (blockMissed s).tiles = s.tiles := by simp [blockMissed]

@[simp] theorem blockMissed_asq (s : State) : (blockMissed s).asq = s.asq := by simp [blockMissed]

theorem blockMissed_bit (s : State) : bitOf (reg (blockMissed s) .owl 0x010) 2 = true := setErr_bit .owl (by omega) _

theorem reg_blockMissed {s : State} (h : pageFrz s .owl = false) :
    reg (blockMissed s) .owl 0x05C = satInc (reg s .owl 0x05C) :=
  (reg_setErr_owl 2 _ (by omega) (by omega)).trans (reg_bump_same 0x05C 1 h)

@[simp] theorem blockCounted_tiles (d : Nat) (s : State) : (blockCounted d s).tiles = s.tiles := by
  unfold blockCounted
  dsimp only
  split <;> simp

@[simp] theorem blockCounted_asq (d : Nat) (s : State) : (blockCounted d s).asq = s.asq := by
  unfold blockCounted
  dsimp only
  split <;> simp

theorem reg_blockCounted (d : Nat) {s : State} (h : pageFrz s .owl = false) :
    reg (blockCounted d s) .owl 0x04C = satInc (reg s .owl 0x04C) := by
  refine (reg_ite rfl (reg_setReg_off _ _ _ (by omega))).trans (reg_bump_same 0x04C 1 h)

section
variable {u v : Nat} {i : Img} {o : OwlSample} {d : Nat} {s : State}

@[simp] theorem blockJudged_asq : (blockJudged u v i o d s).asq = s.asq := by
  unfold blockJudged
  dsimp only
  split
  · simp
  · split <;> simp

/-- The counters of checks are those of the block's count. -/
theorem reg_blockJudged : reg (blockJudged u v i o d s) .owl 0x04C = reg s .owl 0x04C := by
  unfold blockJudged
  dsimp only
  split
  · rw [reg_owlItem _ _ _ _ _ _ (by omega), reg_setErr_owl _ _ (by omega) (by omega), reg_bump_off _ _ _ (by omega)]
    rfl
  · split
    · rw [reg_owlItem _ _ _ _ _ _ (by omega), reg_bump_off _ _ _ (by omega)]
    · rfl

/-- At the hard threshold: the unit's overflow on the tile, and error bit 1. -/
theorem blockJudged_hard {x : Tile} {a : State} (hx : TileBecomes u v x a s) (h : ((unitDesc i o.unit).getD default).th ≤ d) :
    TileBecomes u v (setOvf o.unit causeOwl o.opIdx o.elem x) a (blockJudged u v i o d s) ∧
    bitOf (reg (blockJudged u v i o d s) .owl 0x010) 1 = true := by
  unfold blockJudged
  dsimp only
  rw [if_pos h, reg_owlItem _ _ _ _ _ _ (by omega), hx.1]
  exact ⟨tileBecomes_of (tileBecomes_setTile _ hx) (by simp), setErr_bit .owl (by omega) _⟩

theorem blockJudged_below {x : Tile} {a : State} (hx : TileBecomes u v x a s) (h : d < ((unitDesc i o.unit).getD default).th) :
    TileBecomes u v x a (blockJudged u v i o d s) := by
  unfold blockJudged
  dsimp only
  rw [if_neg (Nat.not_le.mpr h)]
  exact tileBecomes_of hx (by split <;> simp)

end

/-- A hard disagreement is overflow cause 3 of the unit. -/
theorem setOvf_owl_bit (unit k block : Nat) (t : Tile) : (mget 0 (setOvf unit causeOwl k block t).ovf unit).testBit 3 = true := by
  show (mget 0 (mput 0 unit (mget 0 t.ovf unit ||| causeOwl) t.ovf) unit).testBit 3 = true
  rw [mget_mput_same, Nat.testBit_or, show causeOwl.testBit 3 = true from rfl, Bool.or_true]

theorem exec_owlCheckComplete (u v : Nat) (s : State) : exec (.owlCheckComplete u v) s = .next (owlCheck u v s) := rfl

end Sys2Proof.Machine
end

section
namespace Sys2Proof
open Machine

/-- Settles O40: the decision by the three outcomes of `decideWith`, which the choice of the next tick record leaves alone; the check
by `owlCheck_missing` and `owlCheck_compared`. -/
theorem decisionsAndChecks : Obligations.DecisionsAndChecks := by
  unfold Obligations.DecisionsAndChecks
  refine ⟨?_, ?_⟩
  · intro unit flags mx i d s hi hr hdue hd hu
    have hk := owlKept_ladderDecision hr hdue
    rw [decideUnit_decides hi hd hu] at hk
    refine ⟨_, exec_ladderDecision unit s, ?_⟩
    rw [owlKept_unitSt hk, hk.2 _ (by omega), hk.2 _ (by omega)]
    rcases Nat.mod_two_eq_zero_or_one flags with h0 | h1
    · obtain ⟨hn, hs⟩ := decideWith_stands (i := i) (d := d) mx h0
      exact ⟨hn, fun _ => hs, by omega, by omega⟩
    · by_cases htop : (unitSt s unit).rung < d.top
      · obtain ⟨hn, hs⟩ := decideWith_repeats (i := i) mx h1 htop
        exact ⟨hn, by omega, fun _ _ => hs, by omega⟩
      · obtain ⟨hn, hs⟩ := decideWith_top (i := i) mx h1 (Nat.not_lt.mp htop)
        exact ⟨hn, by omega, by omega, fun _ _ => hs⟩
  · intro u v i tr o s hi ht ho hw hr hl hf hp
    refine ⟨_, exec_owlCheckComplete u v s, ?_⟩
    have he := tileBecomes_checkFreed u v o s
    cases hx : o.x with
    | none =>
      rw [owlCheck_missing hi ht ho hw hr hl hf hp hx]
      obtain ⟨htile, hothers⟩ := tileBecomes_of he (blockMissed_tiles (checkFreed u v o s))
      have hcount := reg_blockMissed (s := checkFreed u v o s)
      rw [pageFrz_checkFreed, reg_checkFreed] at hcount
      rw [htile]
      exact ⟨rfl, rfl, rfl, hothers, by simp, fun _ => ⟨blockMissed_bit _, hcount, rfl⟩, nofun⟩
    | some xs =>
      rw [owlCheck_compared hi ht ho hw hr hl hf hp hx]
      have hc := tileBecomes_of he (blockCounted_tiles (blockD o xs) (checkFreed u v o s))
      have hcount := reg_blockCounted (blockD o xs) (s := checkFreed u v o s)
      rw [pageFrz_checkFreed, reg_checkFreed] at hcount
      rw [reg_blockJudged]
      rcases Nat.lt_or_ge (blockD o xs) ((unitDesc i o.unit).getD default).th with hd | hd
      · obtain ⟨htile, hothers⟩ := blockJudged_below (i := i) (o := o) hc hd
        rw [htile]
        refine ⟨rfl, rfl, rfl, hothers, by simp, nofun, fun ys hy => ?_⟩
        obtain rfl := Option.some.inj hy
        exact ⟨hcount, fun h => absurd hd (Nat.not_lt.mpr h), fun _ => rfl⟩
      · obtain ⟨⟨htile, hothers⟩, hbit⟩ := blockJudged_hard (i := i) (o := o) hc hd
        rw [htile]
        refine ⟨rfl, rfl, rfl, hothers, by simp, nofun, fun ys hy => ?_⟩
        obtain rfl := Option.some.inj hy
        exact ⟨hcount, fun _ => ⟨hbit, setOvf_owl_bit ..⟩, fun h => absurd h (Nat.not_lt.mpr hd)⟩

end Sys2Proof
end

section
namespace Sys2Proof.Machine

/-! What a change of one tile comes to, seen from the state: the tile's new value, and that nothing else differs. -/

/-- From `s` to `t` tile (u, v) becomes `x`, and nothing else of the module changes. -/
def TileSet (u v : Nat) (x : Tile) (s t : State) : Prop := OnlyTile u v s t ∧ tile t u v = x

theorem onlyTile_trans {u v : Nat} {a b c : State} (h : OnlyTile u v a b) (g : OnlyTile u v b c) : OnlyTile u v a c := by
  obtain ⟨m, rfl, h⟩ := h
  obtain ⟨n, rfl, g⟩ := g
  exact ⟨n, rfl, fun k hk => (g k hk).trans (h k hk)⟩

theorem tileSet_refl (u v : Nat) (s : State) : TileSet u v (tile s u v) s s := ⟨⟨s.tiles, rfl, fun _ _ => rfl⟩, rfl⟩

theorem tileSet_setTile {u v : Nat} {y : Tile} {a s : State} (x : Tile) (h : TileSet u v y a s) :
    TileSet u v x a (setTile u v x s) := by
  obtain ⟨⟨m, rfl, others⟩, -⟩ := h
  exact ⟨⟨_, rfl, fun k hk => (mget_mput_ne x hk).trans (others k hk)⟩, tile_setTile_same ..⟩

section
variable {u v : Nat} {x : Tile} {s t : State}

theorem TileSet.image (h : TileSet u v x s t) : t.image = s.image := by obtain ⟨⟨_, rfl, -⟩, -⟩ := h; rfl
theorem TileSet.now (h : TileSet u v x s t) : t.now = s.now := by obtain ⟨⟨_, rfl, -⟩, -⟩ := h; rfl

end

/-! Flits that arrive (05 R126, R127). -/

/-- A control flit comes to a free buffer; a bulk flit needs none. -/
theorem ctlFull_false {t : Tile} {kind : Nat} {p : Port} (h : kind = 2 → ctlRoom t p = true) :
    (kind = 2 && !ctlRoom t p) = false := by
  by_cases h2 : kind = 2
  · simp [h h2]
  · simp [h2]

theorem flitIn_good {s : State} {i : Img} {u v kind : Nat} {p : Port} {f : Flit} (k : State → State)
    (h : FlitGood s i u v p f kind) : flitIn u v p f kind k s = k s := by
  obtain ⟨himg, hidle, hlive, hhere, hcrc, hsort, hroom⟩ := h
  unfold flitIn
  rw [if_neg (by simpa [himg, hidle, hhere, or_iff_not_imp_left] using hlive), ctlFull_false hroom, if_neg Bool.false_ne_true,
    if_neg (by simp [hcrc]), if_neg (by simp [hsort])]

theorem hopFuel_succ {s : State} {i : Img} (h : s.image = some i) : hopFuel s = i.reqU + i.reqV + 1 + 1 := by
  simp [hopFuel, h]

theorem exec_bulkUnicastFlit {s : State} {i : Img} {u v : Nat} {p : Port} {f : Flit} (h : FlitGood s i u v p f 0) :
    exec (.bulkUnicastFlit u v p f) s = .next (bulkAt u v p none true f s) := congrArg _ (flitIn_good _ h)

theorem exec_bulkMulticastFlit {s : State} {i : Img} {u v : Nat} {p : Port} {f : Flit} (h : FlitGood s i u v p f 1) :
    exec (.bulkMulticastFlit u v p f) s = .next (bulkAt u v p none true f s) := congrArg _ (flitIn_good _ h)

/-! Operations that have no flit to send (07 R217). -/

theorem sentOne_noSends {s : State} {u v : Nat} {p : Port} (f : Flit)
    (h : p = .l → ∀ o ∈ (tile s u v).ops, isSend o = false) : sentOne u v p f s = s := by
  by_cases hp : p = .l
  · have none : ((tile s u v).ops.find? fun o =>
        isSend o && strmCode o.strm = (bulkFields f).2.1 && o.got.length < o.left) = none :=
      List.find?_eq_none.2 fun o ho => by simp [h hp o ho]
    simp [sentOne, hp, none]
  · simp [sentOne, hp]

theorem pumpSends_noSends {s : State} {u v : Nat} (n : Nat) (h : ∀ o ∈ (tile s u v).ops, isSend o = false) :
    pumpSends n u v s = s := by
  have none : ((tile s u v).ops.find? fun o => isSend o && !o.got.isEmpty) = none :=
    List.find?_eq_none.2 fun o ho => by simp [h o ho]
  cases n with
  | zero => rfl
  | succ n => simp [pumpSends, none]

/-! A bulk flit at the end of its way (05 R123, R135, R136, R139, 06 R176). -/

theorem outPort_here (u v : Nat) : outPort u v u v = .l := by simp [outPort]

theorem blocked_empty {s : State} {u v : Nat} (i : Img) (p : Port) (f : Flit) (h : (tile s u v).bulk = []) :
    blocked s i u v p f = false := by simp [blocked, h]

/-- An older flit holds back only a flit that has just come. -/
theorem heldBack_false {fresh held : Bool} (h : fresh = true → held = false) : (fresh && held) = false := by
  cases fresh
  · rfl
  · exact h rfl

/-- A flit whose only output is the L port advances at its departure, or, in Q mode, into its line or the receive queue. -/
theorem advances_local {s : State} {i : Img} {u v : Nat} {p : Port} {flow : Option Nat} {f : Flit}
    (hd : i.lmode = true → (departure s i u v p flow f).isSome = true) (ho : outsOf i u v f = [.l])
    (hq : rxFull (tile s u v) f = false) : advances s i u v p flow f = true := by
  unfold advances
  split
  · exact hd ‹_›
  · simp [ho, hq]

theorem rxFull_line {f : Flit} (t : Tile) (h : (bulkFields f).2.2.2 = false) : rxFull t f = false := by simp [rxFull, h]

theorem rxFull_room {t : Tile} (f : Flit) (h : t.rxq.length < 64) : rxFull t f = false := by
  simp [rxFull, show ¬ 64 ≤ t.rxq.length by omega]

/-- A departure does not look at the router's buffers. -/
theorem departure_setTile {u v : Nat} {x : Tile} {s : State} (h : x.dep = (tile s u v).dep) (i : Img) (p : Port)
    (flow : Option Nat) (f : Flit) : departure (setTile u v x s) i u v p flow f = departure s i u v p flow f := by
  unfold departure
  rw [tile_setTile_same, h]
  rfl

theorem takeDep_tileSet (i : Img) (u v : Nat) (p : Port) (flow : Option Nat) (f : Flit) (s : State) :
    ∃ d, TileSet u v { tile s u v with dep := d } s (takeDep i u v p flow f s) := by
  have same : ∃ d, TileSet u v { tile s u v with dep := d } s s := ⟨(tile s u v).dep, tileSet_refl u v s⟩
  unfold takeDep
  split
  · exact same
  · split
    · exact ⟨_, tileSet_setTile _ (tileSet_refl u v s)⟩
    · exact same

section
variable {s : State} {i : Img} {u v : Nat} {p : Port} {flow : Option Nat} {fresh : Bool} {f : Flit} (hi : s.image = some i)
  (hs : (bulkFields f).2.1 ≠ 3) (hb : fresh = true → blocked s i u v p f = false) (ha : advances s i u v p flow f = true)

include hi hs hb ha

/-- A unicast flit that may advance at its destination leaves there at the L port. -/
theorem bulkAt_destination (hk : flitKind f = 0) (hin : inImage s u v = true) (hu : fld f.hdr.toNat 45 38 = u)
    (hv : fld f.hdr.toNat 37 30 = v) :
    bulkAt u v p flow fresh f s = deliverBulk u v f (sentOne u v p f (takeDep i u v p flow f s)) := by
  subst hu hv
  have go := heldBack_false hb
  simp [bulkAt, hs, hk, hin, hopFuel_succ hi, walkUni, hi, go, ha, outPort_here]

/-- A multicast flit that may advance at a leaf of its tree leaves there at the L port. -/
theorem bulkAt_leaf (hk : flitKind f = 1) (he : treeEntry i (fld f.hdr.toNat 45 38) u v % 8 = portNum p)
    (ho : outsOf i u v f = [.l]) :
    bulkAt u v p flow fresh f s = deliverBulk u v f (sentOne u v p f (takeDep i u v p flow f s)) := by
  have go := heldBack_false hb
  simp [bulkAt, hs, hk, hopFuel_succ hi, walkMc, hi, he, go, ha, ho]

end

theorem outsOf_destination (i : Img) {u v : Nat} {f : Flit} (hk : flitKind f = 0) (hu : fld f.hdr.toNat 45 38 = u)
    (hv : fld f.hdr.toNat 37 30 = v) : outsOf i u v f = [.l] := by
  subst hu hv
  simp [outsOf, hk, outPort_here]

theorem outsOf_leaf {i : Img} {u v : Nat} {f : Flit} (hk : flitKind f = 1)
    (ht : treeOuts (treeEntry i (fld f.hdr.toNat 45 38) u v) = [.l]) : outsOf i u v f = [.l] := by
  simp [outsOf, hk, ht, hasNbr]

/-! A payload written to its line (05 R128, 02 R41). -/

/-- A tile after a flit's payload has landed in a line. -/
def lineLanded (now line strm : Nat) (last : Bool) (pay : List Byte) (sh : List (Nat × Nat × Nat)) (t : Tile) : Tile :=
  let t := tokEvent now 2 (sramWrite (64 * line) pay t)
  let t := { t with shadow := sh.foldl (fun (m : SMap (Nat × Nat)) e => minsert (128 * line + e.1) e.2 m) t.shadow }
  if last then landed strm t else t

theorem deliverBulk_line {s : State} {i : Img} {u v : Nat} {f : Flit} (hi : s.image = some i)
    (hf : (tile s u v).fenced = false) (hk : (bulkFields f).2.2.2 = false)
    (hw : inWindow (galleryOf i u v).2 (bulkFields f).1 = true) :
    deliverBulk u v f s = setTile u v
      (lineLanded s.now (bulkFields f).1 (bulkFields f).2.1 (bulkFields f).2.2.1 f.pay f.sh (tile s u v)) s := by
  simp [deliverBulk, hi, hf, hk, hw, lineLanded]

theorem deliverBulk_queue {s : State} {i : Img} {u v : Nat} {f : Flit} (hi : s.image = some i)
    (hf : (tile s u v).fenced = false) (hk : (bulkFields f).2.2.2 = true) (ho : (tile s u v).ops = [])
    (hq : (tile s u v).rxq.length < 64) :
    deliverBulk u v f s = setTile u v { tile s u v with rxq := (tile s u v).rxq ++ [f] } s := by
  simp [deliverBulk, hi, hf, hk, ho, feedRecv, show ¬ 64 ≤ (tile s u v).rxq.length by omega]

/-- A whole line lies on no other line. -/
theorem linesOf_line (line : Nat) : linesOf (64 * line) 64 = [line] := by
  have one : (64 * line + 64 - 1) / 64 - 64 * line / 64 + 1 = 1 := by omega
  have first : 64 * line / 64 = line := by omega
  rw [linesOf, if_neg (by omega), one, first]
  simp

section
variable (line : Nat) (t : Tile)

/-- Before a whole line is written its poison goes; the bytes and the poison of the other lines stay (02 R41). -/
theorem clearPoison_line : ∃ m l, clearPoison (64 * line) 64 t = { t with sram := m, live := l } ∧
    (∀ x, x < 64 * line ∨ 64 * line + 64 ≤ x → mget 0 m x = mget 0 t.sram x) ∧
    linePoisoned { t with live := l } line = false ∧
    ∀ k, k ≠ line → mget false l k = mget false t.live k := by
  simp only [clearPoison, linesOf_line, List.foldl_cons, List.foldl_nil]
  split
  · refine ⟨_, _, rfl, fun x hx => mget_mputs_out _ _ _ (by simpa [zeros] using hx), ?_, fun k hk => mget_mput_ne _ hk⟩
    simp [linePoisoned]
  · next clean => exact ⟨t.sram, t.live, rfl, fun _ _ => rfl, by simpa using clean, fun _ _ => rfl⟩

theorem sramWrite_line {pay : List Byte} (hp : pay.length = 64) :
    ∃ m l h, sramWrite (64 * line) pay t = { t with sram := m, live := l, shadow := h } ∧
      (∀ j, j < 64 → mget 0 m (64 * line + j) = pay.getD j 0) ∧
      (∀ x, x < 64 * line ∨ 64 * line + 64 ≤ x → mget 0 m x = mget 0 t.sram x) ∧
      linePoisoned { t with live := l } line = false ∧
      ∀ k, k ≠ line → mget false l k = mget false t.live k := by
  obtain ⟨m, l, e, others, clean, poison⟩ := clearPoison_line line t
  refine ⟨mputs 0 (64 * line) pay m, l, (dropShadows (64 * line) 64 t).shadow, ?_, fun j hj => ?_, fun x hx => ?_, clean, poison⟩
  · simp [sramWrite, sramPut, hp, e, dropShadows]
  · rw [mget_mputs_in _ _ j (by omega)]
    simp [List.getD_eq_getElem?_getD, show j < pay.length by omega]
  · rw [mget_mputs_out _ _ _ (by omega), others x hx]

theorem lineWritten_lineLanded (now strm : Nat) (last : Bool) {pay : List Byte} (sh : List (Nat × Nat × Nat))
    (hp : pay.length = 64) : LineWritten t (lineLanded now line strm last pay sh t) line strm last pay := by
  obtain ⟨m, l, h, e, bytes, others, clean, poison⟩ := sramWrite_line line t hp
  have dirty : ∀ k, k ≠ line → linePoisoned { t with live := l } k = linePoisoned t k := fun k hk => by
    simp [linePoisoned, poison k hk]
  unfold lineLanded
  rw [e]
  cases last
  · exact ⟨bytes, others, clean, dirty, rfl, rfl, rfl, rfl, rfl⟩
  · exact ⟨bytes, others, clean, dirty, rfl, rfl, rfl, rfl, rfl⟩

end

theorem lineLanded_bulk (now line strm : Nat) (last : Bool) {pay : List Byte} (sh : List (Nat × Nat × Nat)) (t : Tile)
    (hp : pay.length = 64) : (lineLanded now line strm last pay sh t).bulk = t.bulk := by
  obtain ⟨m, l, h, e, -⟩ := sramWrite_line line t hp
  unfold lineLanded
  rw [e]
  cases last <;> rfl

/-- The departure that a flit takes is none of what its line's tile counts. -/
theorem lineWritten_of_dep {a b : Tile} {d : SMap Nat} {line strm : Nat} {last : Bool} {pay : List Byte}
    (h : LineWritten { a with dep := d } b line strm last pay) : LineWritten a b line strm last pay :=
  ⟨h.bytes, h.others, h.clean, h.poison, h.landed, h.tok, h.acc, h.setts, h.ops⟩

section
variable {s : State} {i : Img} {u v : Nat} {p : Port} {f : Flit} (hi : s.image = some i) (flow : Option Nat)
  (hn : p = .l → ∀ o ∈ (tile s u v).ops, isSend o = false) (hf : (tile s u v).fenced = false)

include hi hn hf

/-- A flit that leaves a router at the L port lands in its line. -/
theorem deliver_line (hk : (bulkFields f).2.2.2 = false) (hw : inWindow (galleryOf i u v).2 (bulkFields f).1 = true) :
    ∃ d, TileSet u v (lineLanded s.now (bulkFields f).1 (bulkFields f).2.1 (bulkFields f).2.2.1 f.pay f.sh
      { tile s u v with dep := d }) s (deliverBulk u v f (sentOne u v p f (takeDep i u v p flow f s))) := by
  obtain ⟨d, hd⟩ := takeDep_tileSet i u v p flow f s
  refine ⟨d, ?_⟩
  rw [sentOne_noSends f (by rw [hd.2]; exact hn), deliverBulk_line (hd.image.trans hi) (by rw [hd.2]; exact hf) hk hw, hd.2, hd.now]
  exact tileSet_setTile _ hd

/-- A flit for a receiver that is not armed waits in the receive queue (05 R136). -/
theorem deliver_queue (hk : (bulkFields f).2.2.2 = true) (ho : (tile s u v).ops = []) (hq : (tile s u v).rxq.length < 64) :
    ∃ d, TileSet u v { tile s u v with
      rxq := (tile s u v).rxq ++ [f]
      dep := d } s (deliverBulk u v f (sentOne u v p f (takeDep i u v p flow f s))) := by
  obtain ⟨d, hd⟩ := takeDep_tileSet i u v p flow f s
  refine ⟨d, ?_⟩
  rw [sentOne_noSends f (by rw [hd.2]; exact hn), deliverBulk_queue (hd.image.trans hi) (by rw [hd.2]; exact hf) hk (by rw [hd.2]; exact ho)
    (by rw [hd.2]; exact hq), hd.2]
  exact tileSet_setTile _ hd

end

/-! A held flit goes on when a credit returns (05 R136, 06 R167). -/

theorem takeBulk_some {p : Port} {t b : Tile} {f : Flit} (h : takeBulk p t = some (f, b)) :
    t.bulk.find? (fun q => q.1 = p) = some (p, f) ∧ b = { t with bulk := t.bulk.erase (p, f) } := by
  unfold takeBulk at h
  split at h
  · rename_i q hq
    have hp : q.1 = p := by simpa using List.find?_some hq
    obtain ⟨rfl, rfl⟩ := Prod.mk.inj (Option.some.inj h)
    subst hp
    exact ⟨hq, rfl⟩
  · cases h

theorem exec_creditReturn_bulk {s : State} {i : Img} {u v : Nat} {p : Port} {f : Flit} {b : Tile} (hi : s.image = some i)
    (ht : takeBulk p (tile s u v) = some (f, b)) (hc : ∀ q ∈ (tile s u v).ctl, q.1 = p → ctlGoes s u v q = false)
    (hg : goesFirst s i u v (tile s u v).bulk.length (p, f) = (p, f)) (ha : advances s i u v p none f = true) :
    exec (.creditReturn u v p) s = .next (pumpSends (pumpFuel (tile (bulkAt u v p none false f (setTile u v b s)) u v)) u v
      (bulkAt u v p none false f (setTile u v b s))) := by
  obtain ⟨hq, rfl⟩ := takeBulk_some ht
  have noCtl : ((tile s u v).ctl.find? fun q => q.1 = p && ctlGoes s u v q) = none :=
    List.find?_eq_none.2 fun q hm => by
      by_cases hp : q.1 = p
      · simp [hc q hm hp]
      · simp [hp]
  show Host.Outcome.next (creditReturn u v p s) = _
  simp [creditReturn, hi, noCtl, hq, hg, ha]

end Sys2Proof.Machine
end

section
namespace Sys2Proof
open Machine

/-- Settles O24: a flit that may advance leaves its router at the L port (`bulkAt_destination`, `bulkAt_leaf`), and what the L port
hands over is written to its line or waits in the receive queue (`deliver_line`, `deliver_queue`). -/
theorem bulkFlitsLand : Obligations.BulkFlitsLand := by
  unfold Obligations.BulkFlitsLand
  refine ⟨?_, ?_, ?_⟩
  · intro u v p f i s good goes hu hv hs hf
    have hb : (true : Bool) = true → blocked s i u v p f = false := fun _ => blocked_empty i p f goes.first
    have hout := outsOf_destination i good.sort hu hv
    rw [exec_bulkUnicastFlit good]
    refine ⟨fun hk hw hp => ?_, fun hk ho hq => ?_⟩
    · rw [bulkAt_destination good.img hs hb (advances_local goes.slot hout (rxFull_line _ hk)) good.sort good.here hu hv]
      obtain ⟨d, only, ht⟩ := deliver_line good.img none goes.unsent hf hk hw
      exact ⟨_, rfl, only, ht ▸ lineWritten_of_dep (lineWritten_lineLanded _ _ _ _ _ _ hp)⟩
    · rw [bulkAt_destination good.img hs hb (advances_local goes.slot hout (rxFull_room f hq)) good.sort good.here hu hv]
      obtain ⟨d, only, ht⟩ := deliver_queue good.img none goes.unsent hf hk ho hq
      exact ⟨_, d, rfl, only, ht⟩
  · intro u v p f i s good goes he hl hs hf hk hw hp
    have hout := outsOf_leaf good.sort hl
    rw [exec_bulkMulticastFlit good, bulkAt_leaf good.img hs (fun _ => blocked_empty i p f goes.first)
      (advances_local goes.slot hout (rxFull_line _ hk)) good.sort he hout]
    obtain ⟨d, only, ht⟩ := deliver_line good.img none goes.unsent hf hk hw
    exact ⟨_, rfl, only, ht ▸ lineWritten_of_dep (lineWritten_lineLanded _ _ _ _ _ _ hp)⟩
  · intro u v p f i b s good ht hu hv hc hg ha hn hs hf hk hw hp
    obtain ⟨-, hb⟩ := takeBulk_some ht
    have hbt : tile (setTile u v b s) u v = b := tile_setTile_same ..
    have slot : i.lmode = true → (departure (setTile u v b s) i u v p none f).isSome = true := fun hm => by
      rw [departure_setTile (by rw [hb])]
      simpa [advances, hm] using ha
    have go := advances_local slot (outsOf_destination i good.sort hu hv) (rxFull_line _ hk)
    obtain ⟨d, only, hx⟩ := deliver_line (s := setTile u v b s) (p := p) good.img none (by rw [hbt, hb]; exact fun _ => hn)
      (by rw [hbt, hb]; exact hf) hk hw
    rw [hbt] at hx
    have written := lineWritten_of_dep (lineWritten_lineLanded (bulkFields f).1 { b with dep := d } (setTile u v b s).now
      (bulkFields f).2.1 (bulkFields f).2.2.1 f.sh hp)
    rw [exec_creditReturn_bulk good.img ht hc hg ha,
      bulkAt_destination (s := setTile u v b s) good.img hs (by simp) go good.sort good.here hu hv,
      pumpSends_noSends _ (by rw [hx, written.ops, hb]; exact hn)]
    refine ⟨_, rfl, onlyTile_trans (tileSet_setTile b (tileSet_refl u v s)).1 only, ?_, ?_⟩
    · rw [hx, lineLanded_bulk _ _ _ _ _ _ hp, hb]
    · rw [hx]
      exact written

end Sys2Proof
end

section
namespace Sys2Proof.Machine

/-! Faults that stop the array: what they do to the sequencer and to the tiles (06 R188, 15 R430 to R432). -/

/-! What tiles keep through traffic of the routers. -/

theorem tileKeeps_refl (a : Tile) : TileKeeps a a := ⟨rfl, rfl, rfl, rfl, rfl, rfl, rfl, rfl⟩

theorem tileKeeps_trans {a b c : Tile} (h : TileKeeps a b) (g : TileKeeps b c) : TileKeeps a c :=
  ⟨g.sram.trans h.sram, g.live.trans h.live, g.acc.trans h.acc, g.setts.trans h.setts, g.ops.trans h.ops, g.posF.trans h.posF,
    g.posB.trans h.posB, g.posW.trans h.posW⟩

theorem tilesKeep_of_tiles {s t : State} (h : t.tiles = s.tiles) : TilesKeep s t := fun k => by rw [h]; exact tileKeeps_refl _

theorem tilesKeep_tile {s t : State} (h : TilesKeep s t) (u v : Nat) : TileKeeps (tile s u v) (tile t u v) := h (tileKey u v)

theorem tilesKeep_trans {a b c : State} (h : TilesKeep a b) (g : TilesKeep b c) : TilesKeep a c :=
  fun k => tileKeeps_trans (h k) (g k)

theorem tilesKeep_setTile {u v : Nat} {x : Tile} {s : State} (h : TileKeeps (tile s u v) x) : TilesKeep s (setTile u v x s) := by
  intro k
  by_cases hk : k = tileKey u v
  · subst hk
    exact (mget_mput_same (d := Tile.blank) (m := s.tiles) _ x).symm ▸ h
  · exact (mget_mput_ne (d := Tile.blank) (m := s.tiles) x hk).symm ▸ tileKeeps_refl _

theorem tileKeeps_tileBump (s : State) (o : Nat) (t : Tile) : TileKeeps t (tileBump s o t) := by
  unfold tileBump
  split
  · exact tileKeeps_refl t
  · exact ⟨rfl, rfl, rfl, rfl, rfl, rfl, rfl, rfl⟩

theorem tilesKeep_tileNetErr (u v o : Nat) (s : State) : TilesKeep s (tileNetErr u v o s) :=
  tilesKeep_trans (tilesKeep_setTile (tileKeeps_tileBump s o _)) (tilesKeep_of_tiles (fire_tiles 14 _))

theorem tileBump_bulk (s : State) (o : Nat) (t : Tile) : (tileBump s o t).bulk = t.bulk := by
  unfold tileBump; split <;> rfl

theorem tileNetErr_tile (u v o : Nat) (s : State) : tile (tileNetErr u v o s) u v = tileBump s o (tile s u v) := by
  rw [tile, tileNetErr, fire_tiles]
  exact tile_setTile_same ..

/-! An error of Table 5.10 is counted at its tile. -/

section
variable (u v o : Nat) (s : State)

@[simp] theorem tileNetErr_image : (tileNetErr u v o s).image = s.image := by obtain ⟨_, _, _, _, h⟩ := tileNetErr_shape u v o s; rw [h]
@[simp] theorem tileNetErr_run : (tileNetErr u v o s).run = s.run := by obtain ⟨_, _, _, _, h⟩ := tileNetErr_shape u v o s; rw [h]
@[simp] theorem tileNetErr_asq : (tileNetErr u v o s).asq = s.asq := by obtain ⟨_, _, _, _, h⟩ := tileNetErr_shape u v o s; rw [h]
@[simp] theorem tileNetErr_loading : (tileNetErr u v o s).loading = s.loading := by
  obtain ⟨_, _, _, _, h⟩ := tileNetErr_shape u v o s; rw [h]
@[simp] theorem tileNetErr_dies : (tileNetErr u v o s).dies = s.dies := by
  obtain ⟨_, _, _, _, h⟩ := tileNetErr_shape u v o s; rw [h]

end

theorem inImage_congr {s t : State} (h : t.image = s.image) (u v : Nat) : inImage t u v = inImage s u v := by
  simp only [inImage, h]

@[simp] theorem haltAt_tiles (u v : Nat) (s : State) : (haltAt u v s).tiles = s.tiles := by
  obtain ⟨_, h⟩ := haltAt_spec u v s; rw [h]
@[simp] theorem haltAt_image (u v : Nat) (s : State) : (haltAt u v s).image = s.image := by
  obtain ⟨_, h⟩ := haltAt_spec u v s; rw [h]
@[simp] theorem haltAt_run (u v : Nat) (s : State) : (haltAt u v s).run = s.run := by
  obtain ⟨_, h⟩ := haltAt_spec u v s; rw [h]

/-! Suspects are fenced (15 R430, R432). -/

/-- From `s` to `t` tiles may be fenced, and nothing else of a tile changes. -/
def Fencing (s t : State) : Prop := ∀ k, mget Tile.blank t.tiles k = mget Tile.blank s.tiles k ∨
  mget Tile.blank t.tiles k = { mget Tile.blank s.tiles k with fenced := true }

theorem fencing_of_tiles {s t : State} (h : t.tiles = s.tiles) : Fencing s t := fun k => .inl (by rw [h])

theorem fencing_trans {a b c : State} (h : Fencing a b) (g : Fencing b c) : Fencing a c := by
  intro k
  rcases g k with e | e <;> rcases h k with e' | e' <;> rw [e, e']
  · exact .inl rfl
  · exact .inr rfl
  · exact .inr rfl
  · exact .inr rfl

theorem Fencing.tilesKeep {s t : State} (h : Fencing s t) : TilesKeep s t := by
  intro k
  rcases h k with e | e <;> rw [e]
  · exact tileKeeps_refl _
  · exact ⟨rfl, rfl, rfl, rfl, rfl, rfl, rfl, rfl⟩

theorem Fencing.fenced {s t : State} (h : Fencing s t) {u v : Nat} (hf : (tile s u v).fenced = true) :
    (tile t u v).fenced = true := by
  rcases h (tileKey u v) with e | e <;> simp only [tile] at hf ⊢ <;> rw [e]
  exact hf

theorem fencing_fenceTile (u v : Nat) (s : State) : Fencing s (fenceTile u v s) := by
  intro k
  by_cases hk : k = tileKey u v
  · subst hk
    exact .inr (mget_mput_same ..)
  · exact .inl (mget_mput_ne _ hk)

/-- Fencing a list of tiles. -/
theorem fenceAll_spec (l : List (Nat × Nat)) (s : State) : ∃ m,
    forAll l (fun p s => fenceTile p.1 p.2 s) s = { s with tiles := m } ∧ Fencing s { s with tiles := m } ∧
    ∀ p ∈ l, (tile { s with tiles := m } p.1 p.2).fenced = true := by
  induction l generalizing s with
  | nil => exact ⟨s.tiles, rfl, fencing_of_tiles rfl, nofun⟩
  | cons q l ih =>
    obtain ⟨m, e, hf, hl⟩ := ih (fenceTile q.1 q.2 s)
    refine ⟨m, e, fencing_trans (fencing_fenceTile _ _ _) hf, fun p hp => ?_⟩
    rcases List.mem_cons.1 hp with rfl | hp
    · exact hf.fenced (congrArg Tile.fenced (tile_setTile_same ..))
    · exact hl p hp

/-- From `s` to `t` only registers and the record of the recovery may change. -/
def Recorded (s t : State) : Prop := ∃ r a, t = { s with regs := r, asq := { s.asq with recov := a } }

section
variable {a s : State}

theorem recorded_refl (s : State) : Recorded s s := ⟨s.regs, s.asq.recov, rfl⟩

theorem recorded_setReg (pg : Page) (o : Nat) (v : W32) (h : Recorded a s) : Recorded a (setReg pg o v s) := by
  obtain ⟨r, x, rfl⟩ := h
  exact ⟨_, x, rfl⟩

theorem recorded_setReg64 (pg : Page) (o v : Nat) (h : Recorded a s) : Recorded a (setReg64 pg o v s) :=
  recorded_setReg _ _ _ (recorded_setReg _ _ _ h)

theorem recorded_recov (x : Recov) (h : Recorded a s) : Recorded a { s with asq := { s.asq with recov := x } } := by
  obtain ⟨r, _, rfl⟩ := h
  exact ⟨r, x, rfl⟩

theorem recorded_recDetected (h : Recorded a s) : Recorded a (recDetected s) :=
  recorded_setReg64 _ _ _ (recorded_setReg64 _ _ _ h)

theorem Recorded.image (h : Recorded a s) : s.image = a.image := by obtain ⟨_, _, rfl⟩ := h; rfl
theorem Recorded.run (h : Recorded a s) : s.run = a.run := by obtain ⟨_, _, rfl⟩ := h; rfl
theorem Recorded.loading (h : Recorded a s) : s.loading = a.loading := by obtain ⟨_, _, rfl⟩ := h; rfl
theorem Recorded.tiles (h : Recorded a s) : s.tiles = a.tiles := by obtain ⟨_, _, rfl⟩ := h; rfl

end

/-- Those of a list of suspects that are tiles of the image are fenced. -/
def suspectsFenced (l : List (Nat × Nat)) (s : State) : State :=
  forAll (l.filter fun p => inImage s p.1 p.2) (fun p s => fenceTile p.1 p.2 s) s

/-- Once fenced, the suspects join the record of the recovery (15 R432). -/
theorem recorded_addSuspects (cause : Nat) (l : List (Nat × Nat)) (s : State) :
    Recorded (suspectsFenced l s) (addSuspects cause l s) := by
  have noted := fun (x : Recov) (n : Nat) => recorded_setReg .asq 0x0B0 (w32 n) (recorded_setReg .asq 0x0A8
    (setFld (reg { suspectsFenced l s with asq := { (suspectsFenced l s).asq with recov := x } } .asq 0x0A8) 15 8 cause)
    (recorded_recov x (recorded_refl (suspectsFenced l s))))
  unfold addSuspects
  dsimp only
  split
  · split
    · exact recorded_recDetected (recorded_setReg _ _ _ (noted _ _))
    · exact noted _ _
  · exact noted _ _

section
variable (cause : Nat) (l : List (Nat × Nat)) (s : State)

theorem addSuspects_tiles : (addSuspects cause l s).tiles = (suspectsFenced l s).tiles := (recorded_addSuspects ..).tiles

@[simp] theorem addSuspects_run : (addSuspects cause l s).run = s.run := by
  obtain ⟨m, e, -⟩ := fenceAll_spec (l.filter fun p => inImage s p.1 p.2) s
  rw [(recorded_addSuspects ..).run, suspectsFenced, e]

@[simp] theorem addSuspects_loading : (addSuspects cause l s).loading = s.loading := by
  obtain ⟨m, e, -⟩ := fenceAll_spec (l.filter fun p => inImage s p.1 p.2) s
  rw [(recorded_addSuspects ..).loading, suspectsFenced, e]

theorem fencing_addSuspects : Fencing s (addSuspects cause l s) := by
  obtain ⟨m, e, fences, -⟩ := fenceAll_spec (l.filter fun p => inImage s p.1 p.2) s
  exact fencing_trans fences (fencing_of_tiles (by rw [addSuspects_tiles, suspectsFenced, e]))

end

theorem addSuspects_fenced (cause : Nat) {l : List (Nat × Nat)} {p : Nat × Nat} {s : State} (hp : p ∈ l)
    (hi : inImage s p.1 p.2 = true) : (tile (addSuspects cause l s) p.1 p.2).fenced = true := by
  obtain ⟨m, e, -, fenced⟩ := fenceAll_spec (l.filter fun p => inImage s p.1 p.2) s
  rw [tile, addSuspects_tiles, suspectsFenced, e]
  exact fenced p (List.mem_filter.2 ⟨hp, hi⟩)

theorem recorded_noteFault (s : State) : Recorded s (noteFault s) := by
  unfold noteFault
  split
  · exact recorded_recov _ (recorded_refl s)
  · split
    · exact recorded_recov _ (recorded_refl s)
    · exact recorded_refl s

/-! Halts while ticks run (06 R169, 15 R433). -/

theorem callHalt_moving {s : State} (h : moving s = true) : callHalt s = { s with asq := calledAsq s } := by
  simp [callHalt, calledAsq, h]

theorem moving_run {s : State} (h : s.run = .run) : moving s = true := by simp [moving, h]

/-! The recovery state (15 Table 15.8). -/

theorem recState_setRec {v : Nat} (hv : v < 16) (s : State) : recState (setRec v s) = v := by
  unfold setRec
  split
  · assumption
  · have same := onlyEvents_reg (pg := .asq) (o := 0x0A8) (onlyEvents_fire (n := 25) (by omega)
      (onlyEvents_refl (setBits .asq 0x0A8 3 0 v s))) (by unfold onEvc; simp only [pageBase]; omega)
    rw [recState, same, setBits, reg_setReg_same]
    exact fld_setFld_low _ (by omega) hv

@[simp] theorem setRec_tiles (v : Nat) (s : State) : (setRec v s).tiles = s.tiles := by
  unfold setRec
  split
  · rfl
  · exact fire_tiles ..

@[simp] theorem setRec_asq (v : Nat) (s : State) : (setRec v s).asq = s.asq := by
  unfold setRec
  split
  · rfl
  · exact fire_asq ..

/-! Tile faults in Run (15 R430). -/

/-- The array is to stop at the next boundary, its step voided, and recovery begins; of the tiles only fences may differ. -/
structure Stops (s t : State) : Prop where
  halts : t.asq.haltPend = true
  voids : t.asq.voided = true
  recovers : recState t = 1
  fences : Fencing s t

theorem tileFault_stops (cause : Nat) {l : List (Nat × Nat)} {p : Nat × Nat} {s : State} (hr : s.run = .run) (hp : p ∈ l)
    (hi : inImage s p.1 p.2 = true) :
    Stops s (tileFault cause l s) ∧ (tile (tileFault cause l s) p.1 p.2).fenced = true := by
  obtain ⟨a, ha⟩ : ∃ a, a = addSuspects cause l (noteFault s) := ⟨_, rfl⟩
  have noted := recorded_noteFault s
  have run : a.run = .run := by rw [ha, addSuspects_run, noted.run, hr]
  have shape : tileFault cause l s = setRec 1 (faultItem 1 cause l { a with asq := calledAsq a }) := by
    have any : (l.any fun q => inImage s q.1 q.2) = true := List.any_eq_true.2 ⟨p, hp, hi⟩
    rw [← callHalt_moving (moving_run run), ha]
    simp [tileFault, any, moving_run (noted.run.trans hr)]
  have item := ledgerOnly_faultItem 1 cause l { a with asq := calledAsq a }
  have tiles : (tileFault cause l s).tiles = a.tiles := by rw [shape, setRec_tiles, ledgerOnly_tiles item]
  have asq : (tileFault cause l s).asq = calledAsq a := by rw [shape, setRec_asq, ledgerOnly_asq item]
  have fences : Fencing s a := by
    rw [ha]
    exact fencing_trans (fencing_of_tiles noted.tiles) (fencing_addSuspects _ _ _)
  refine ⟨⟨?_, ?_, ?_, fencing_trans fences (fencing_of_tiles tiles)⟩, ?_⟩
  · simp [asq, calledAsq, moving_run run]
  · simp [asq, calledAsq, moving_run run]
  · rw [shape, recState_setRec (by omega)]
  · rw [tile, tiles, ha]
    exact addSuspects_fenced cause hp ((inImage_congr noted.image ..).trans hi)

/-! Contract faults while ticks run, a load under way or not. -/

@[simp] theorem recordCause_run (cause u v detail : Nat) (s : State) : (recordCause cause u v detail s).run = s.run := by
  obtain ⟨_, h⟩ := recordCause_shape cause u v detail s; rw [h]
@[simp] theorem recordCause_tiles (cause u v detail : Nat) (s : State) : (recordCause cause u v detail s).tiles = s.tiles := by
  obtain ⟨_, h⟩ := recordCause_shape cause u v detail s; rw [h]

theorem contractFault_moving {cause : Nat} (u v detail : Nat) {s : State} (hc : cause < 32) (hr : s.run = .run) :
    bitOf (reg (contractFault cause u v detail s) .asq 0x010) cause = true ∧
    (contractFault cause u v detail s).asq.contract = true ∧ (contractFault cause u v detail s).asq.haltPend = true ∧
    (contractFault cause u v detail s).tiles = s.tiles := by
  obtain ⟨a, ha⟩ : ∃ a, a = recordCause cause u v detail (bump .asq 0x07C (setErr .asq cause (haltAt u v s))) := ⟨_, rfl⟩
  have run : a.run = .run := by rw [ha, recordCause_run]; simp [hr]
  have tiles : a.tiles = s.tiles := by rw [ha, recordCause_tiles]; simp
  have bit : bitOf (reg a .asq 0x010) cause = true := by
    rw [ha, recordCause_reg _ _ _ _ _ _ (by omega), reg_bump_off _ _ _ (by omega)]
    exact setErr_bit .asq hc _
  have shape : contractFault cause u v detail s =
      faultItem 0 cause [] { a with asq := { calledAsq a with contract := a.run ≠ .fault } } := by
    unfold contractFault
    dsimp only
    rw [← ha, callHalt_moving (moving_run run)]
  have item := ledgerOnly_faultItem 0 cause [] { a with asq := { calledAsq a with contract := a.run ≠ .fault } }
  rw [shape, ledgerOnly_asq item, ledgerOnly_tiles item, ledgerOnly_asqReg item (by omega)]
  exact ⟨bit, by simp [run], by simp [calledAsq, moving_run run], tiles⟩

/-! Flits that fail their CRC (05 R126). -/

theorem crcCount_image (u v : Nat) (p : Port) (s : State) : (crcCount u v p s).image = s.image := by
  unfold crcCount; split <;> simp
theorem crcCount_run (u v : Nat) (p : Port) (s : State) : (crcCount u v p s).run = s.run := by
  unfold crcCount; split <;> simp
theorem tilesKeep_crcCount (u v : Nat) (p : Port) (s : State) : TilesKeep s (crcCount u v p s) := by
  unfold crcCount
  split
  · exact tilesKeep_of_tiles rfl
  · exact tilesKeep_tileNetErr _ _ _ _

/-- A flit is lost, or a neighbour is: the sender (x, y) is fenced and the array stops (R126, 15 R430). -/
def SenderLost (x y : Nat) (s t : State) : Prop :=
  (tile t x y).fenced = true ∧ t.asq.haltPend = true ∧ t.asq.voided = true ∧ recState t = 1 ∧ TilesKeep s t

theorem senderLost_tileFault (cause u v : Nat) {x y : Nat} {s a : State} (hr : a.run = .run) (hi : inImage a x y = true)
    (hk : TilesKeep s a) : SenderLost x y s (tileFault cause [(x, y)] (haltAt u v a)) := by
  obtain ⟨stops, fenced⟩ := tileFault_stops cause (l := [(x, y)]) (p := (x, y)) (s := haltAt u v a) (by simp [hr]) (by simp)
    ((inImage_congr (by simp) ..).trans hi)
  exact ⟨fenced, stops.halts, stops.voids, stops.recovers,
    tilesKeep_trans (tilesKeep_trans hk (tilesKeep_of_tiles (by simp))) stops.fences.tilesKeep⟩

theorem flitIn_badCrc {s : State} {i : Img} {u v x y kind : Nat} {p : Port} {f : Flit} (k : State → State)
    (hi : s.image = some i) (hl : s.loading = false) (hr : s.run = .run) (hin : inImage s u v = true)
    (hroom : kind = 2 → ctlRoom (tile s u v) p = true) (hc : flitCrc f ≠ f.crc) (hs : senderOf s u v p = [(x, y)])
    (hxy : inImage s x y = true) : SenderLost x y s (flitIn u v p f kind k s) := by
  have lost : flitIn u v p f kind k s = tileFault 2 [(x, y)] (haltAt u v (crcCount u v p s)) := by
    unfold flitIn
    rw [if_neg (by simp [hi, hl, hr, hin]), ctlFull_false hroom, if_neg Bool.false_ne_true, if_pos hc, hs]
  rw [lost]
  exact senderLost_tileFault 2 u v ((crcCount_run ..).trans hr) ((inImage_congr (crcCount_image ..) ..).trans hxy)
    (tilesKeep_crcCount _ _ _ _)

theorem exec_aliveWireLow {s : State} {i : Img} {u v x y : Nat} {p : Port} (hi : s.image = some i) (hl : s.loading = false)
    (hin : inImage s u v = true) (hs : senderOf s u v p = [(x, y)]) (hp : p ≠ .l) (hn : hasNbr i u v p = true) :
    exec (.aliveWireLow u v p) s = .next (tileFault 1 [(x, y)] (haltAt u v s)) := by
  show execAliveWireLow u v p s = _
  simp [execAliveWireLow, hi, hl, hin, hp, hn, hs]

/-! Watchdogs and waits (06 R178, R189). -/

theorem exec_deadlock {s : State} {i : Img} {u v : Nat} (hi : s.image = some i) (hm : i.lmode = false) (hr : s.run = .run)
    (hin : inImage s u v = true) : exec (.deadlock u v) s = .next (contractFault 5 u v 0 s) := by
  show execDeadlock u v s = _
  simp [execDeadlock, hi, hm, hr, hin]

theorem exec_slotWaitExpiry {s : State} {i : Img} {u v : Nat} {p : Port} {f : Flit} {b : Tile} (hi : s.image = some i)
    (hm : i.lmode = true) (ht : takeBulk p (tile s u v) = some (f, b)) :
    exec (.slotWaitExpiry u v p) s = .next
      (let t := slotColl u v (sentOne u v p f (setTile u v b s)); pumpSends (pumpFuel (tile t u v)) u v t) := by
  show Host.Outcome.next (slotWaitExpiry u v p s) = _
  simp only [slotWaitExpiry, hi, ht, hm, if_true]

end Sys2Proof.Machine
end

section
namespace Sys2Proof
open Machine

/-- Settles O26: a lost flit and a low wire are tile faults of the sender (`tileFault_stops`), a watchdog's report and an expired wait
are contract faults (`contractFault_moving`). -/
theorem networkFaults : Obligations.NetworkFaults := by
  unfold Obligations.NetworkFaults
  refine ⟨?_, ?_, ?_⟩
  · intro u v p f i x y s hi hl hr hin hc hs hxy good
    have bad : ∀ (kind : Nat) (k : State → State), (kind = 2 → ctlRoom (tile s u v) p = true) → good (flitIn u v p f kind k s) :=
      fun kind k room => flitIn_badCrc k hi hl hr hin room hc hs hxy
    refine ⟨⟨_, rfl, bad 0 _ (by simp)⟩, ⟨_, rfl, bad 1 _ (by simp)⟩, fun room => ⟨_, rfl, bad 2 _ fun _ => room⟩,
      fun room => ⟨_, rfl, bad 2 _ fun _ => room⟩, fun room => ⟨_, rfl, bad 2 _ fun _ => room⟩, fun hp hn => ?_⟩
    exact ⟨_, exec_aliveWireLow hi hl hin hs hp hn, senderLost_tileFault 1 u v hr hxy (tilesKeep_of_tiles rfl)⟩
  · intro u v i s hi hm hr hin
    exact ⟨_, exec_deadlock hi hm hr hin, contractFault_moving u v 0 (by omega) hr⟩
  · intro u v p f b i s hi hm hr ht hh hn
    obtain ⟨-, hb⟩ := takeBulk_some ht
    have hbt : tile (setTile u v b s) u v = b := tile_setTile_same ..
    obtain ⟨bit, contract, halt, tiles⟩ := contractFault_moving (cause := 0) u v 0 (s := tileNetErr u v 0x5C (setTile u v b s))
      (by omega) (by simpa using hr)
    have coll : slotColl u v (sentOne u v p f (setTile u v b s)) = contractFault 0 u v 0 (tileNetErr u v 0x5C (setTile u v b s)) := by
      rw [sentOne_noSends f (by rw [hbt, hb]; exact fun _ => hn)]
      simp [slotColl, hh]
    have held : TileKeeps (tile s u v) b := by rw [hb]; exact ⟨rfl, rfl, rfl, rfl, rfl, rfl, rfl, rfl⟩
    have kept : TilesKeep s (contractFault 0 u v 0 (tileNetErr u v 0x5C (setTile u v b s))) :=
      tilesKeep_trans (tilesKeep_trans (tilesKeep_setTile held) (tilesKeep_tileNetErr _ _ _ _)) (tilesKeep_of_tiles tiles)
    refine ⟨_, exec_slotWaitExpiry hi hm ht, ?_⟩
    rw [coll, pumpSends_noSends _ (by rw [(tilesKeep_tile kept u v).ops]; exact hn)]
    refine ⟨bit, contract, halt, ?_, kept⟩
    rw [tile, tiles, ← tile, tileNetErr_tile, tileBump_bulk, hbt, hb]

end Sys2Proof
end

section
namespace Sys2Proof.Machine

/-! The control channel: signals, combines and halts (05 R127 to R144, 07 R211, R216). -/

/-! Traffic changes tiles only, and keeps what a tile computes with. -/

/-- From `s` to `t` only tiles change, and each keeps its memories, setts, operations and positions. -/
def TrafficOnly (s t : State) : Prop := (∃ m, t = { s with tiles := m }) ∧ TilesKeep s t

theorem trafficOnly_refl (s : State) : TrafficOnly s s := ⟨⟨s.tiles, rfl⟩, tilesKeep_of_tiles rfl⟩

theorem trafficOnly_trans {a b c : State} (h : TrafficOnly a b) (g : TrafficOnly b c) : TrafficOnly a c := by
  obtain ⟨⟨_, rfl⟩, h⟩ := h
  obtain ⟨⟨m, rfl⟩, g⟩ := g
  exact ⟨⟨m, rfl⟩, tilesKeep_trans h g⟩

theorem trafficOnly_setTile {u v : Nat} {x : Tile} {s : State} (h : TileKeeps (tile s u v) x) :
    TrafficOnly s (setTile u v x s) := ⟨⟨_, rfl⟩, tilesKeep_setTile h⟩

theorem trafficOnly_forAll {α : Type} (l : List α) {f : α → State → State} (hf : ∀ x s, TrafficOnly s (f x s)) (s : State) :
    TrafficOnly s (forAll l f s) := by
  induction l generalizing s with
  | nil => exact trafficOnly_refl s
  | cons x l ih => exact trafficOnly_trans (hf x s) (ih _)

/-- What every new tile of a pass has, each tile of the list has after it. -/
theorem forAll_setTile_holds {Q : Tile → Prop} {g : Nat × Nat → State → Tile} (hg : ∀ p s, Q (g p s)) (l : List (Nat × Nat))
    {q : Nat × Nat} {s : State} (h : q ∈ l ∨ Q (tile s q.1 q.2)) :
    Q (tile (forAll l (fun p s => setTile p.1 p.2 (g p s) s) s) q.1 q.2) := by
  induction l generalizing s with
  | nil => exact h.resolve_left (by simp)
  | cons p l ih =>
    refine ih (s := setTile p.1 p.2 (g p s) s) ?_
    by_cases hk : tileKey q.1 q.2 = tileKey p.1 p.2
    · right
      rw [tile, hk, ← tile, tile_setTile_same]
      exact hg p s
    · rw [tile_setTile_ne _ _ hk]
      rcases h with h | h
      · rcases List.mem_cons.1 h with rfl | h
        · exact absurd rfl hk
        · exact .inl h
      · exact .inr h

theorem mem_imageTiles {i : Img} {x y : Nat} : (x, y) ∈ imageTiles i ↔ x < i.reqU ∧ y < i.reqV := by
  simp only [imageTiles, List.mem_flatten, List.mem_map, List.mem_range]
  constructor
  · rintro ⟨_, ⟨b, hb, rfl⟩, h⟩
    obtain ⟨a, ha, e⟩ := List.mem_map.1 h
    obtain ⟨rfl, rfl⟩ := Prod.mk.inj e
    exact ⟨List.mem_range.1 ha, hb⟩
  · rintro ⟨hx, hy⟩
    exact ⟨_, ⟨y, hy, rfl⟩, List.mem_map.2 ⟨x, List.mem_range.2 hx, rfl⟩⟩

theorem inImage_iff {s : State} {i : Img} (h : s.image = some i) (x y : Nat) :
    inImage s x y = true ↔ x < i.reqU ∧ y < i.reqV := by simp [inImage, h]

/-! A control flit waits for its position (05 R131, R132). -/

theorem noteWait_tileSet (u v w : Nat) (s : State) : ∃ c, TileSet u v { tile s u v with ctr := c } s (noteWait u v w s) ∧
    ∀ o, o ≠ 0x64 → mget 0 c o = mget 0 (tile s u v).ctr o := by
  unfold noteWait
  dsimp only
  split
  · exact ⟨(tile s u v).ctr, tileSet_refl u v s, fun _ _ => rfl⟩
  · exact ⟨_, tileSet_setTile _ (tileSet_refl u v s), fun o ho => mget_mput_ne _ ho⟩

theorem trafficOnly_noteWait (u v w : Nat) (s : State) : TrafficOnly s (noteWait u v w s) := by
  unfold noteWait
  dsimp only
  split
  · exact trafficOnly_refl s
  · exact trafficOnly_setTile ⟨rfl, rfl, rfl, rfl, rfl, rfl, rfl, rfl⟩

/-! A SIGNAL flit at its tile (07 R211, R216). -/

theorem tileSet_trans {u v : Nat} {x y : Tile} {a b c : State} (h : TileSet u v x a b) (g : TileSet u v y b c) :
    TileSet u v y a c := ⟨onlyTile_trans h.1 g.1, g.2⟩

/-- A control flit that comes to its own tile, with no other held there, is taken at once. -/
theorem crossCtl_own {s : State} {i : Img} {u v : Nat} {p : Port} {f : Flit} (k cyc : Nat) (dl : State → State)
    (hi : s.image = some i) (hc : (tile s u v).ctl = []) (ho : ctlOut u v f = .l) :
    ∃ a c, TileSet u v { tile s u v with ctr := c } s a ∧ (∀ o, o ≠ 0x64 → mget 0 c o = mget 0 (tile s u v).ctr o) ∧
      crossCtl (k + 1) u v p f true cyc dl s = dl a := by
  obtain ⟨b, hb⟩ : ∃ b, b = setTile u v { tile s u v with ctl := [(p, f)] } s := ⟨_, rfl⟩
  have tb : tile b u v = { tile s u v with ctl := [(p, f)] } := by rw [hb]; exact tile_setTile_same ..
  have goes : ctlGoes b u v (p, f) = true := by simp [ctlGoes, tb, ho]
  obtain ⟨e, he⟩ : ∃ e, e = setTile u v { tile s u v with ctl := [] } b := ⟨_, rfl⟩
  have te : tile e u v = tile s u v := by
    rw [he, tile_setTile_same, ← hc]
  have se : TileSet u v (tile s u v) s e := by
    refine ⟨?_, te⟩
    rw [he, hb]
    exact (tileSet_setTile _ (tileSet_setTile _ (tileSet_refl u v s))).1
  obtain ⟨c, hn, hctr⟩ := noteWait_tileSet u v (ctlWait i u v .l cyc) e
  rw [te] at hn hctr
  refine ⟨_, c, tileSet_trans se hn, hctr, ?_⟩
  have hbi : (tile b u v).ctl.erase (p, f) = [] := by simp [tb]
  rw [crossCtl]
  simp only [hi, hc, List.nil_append, if_true, ← hb, goes, Bool.not_true, Bool.false_eq_true, if_false, ho, hbi]
  rw [he, tb]

theorem deliverSignal_own {s : State} {u v : Nat} {f : Flit} (far : List Byte → State → State)
    (hf : (tile s u v).fenced = false) (hs : signalOk f = true) (h5 : byteAt f.pay 5 = 0) :
    deliverSignal u v f far s = signalTile u v (byteAt f.pay 0) (strmOf (byteAt f.pay 1))
      ⟨byteAt f.pay 3, byteAt f.pay 4, byteAt f.pay 2, fieldLE f.pay 8 4⟩ 0 s := by
  simp [deliverSignal, hf, hs, h5]

theorem exec_signalFlit {s : State} {i : Img} {u v : Nat} {p : Port} {f : Flit} (h : FlitGood s i u v p f 2)
    (ht : ctype f = 0) (h5 : byteAt f.pay 5 = 0) (hu : fld f.hdr.toNat 45 38 = u) (hv : fld f.hdr.toNat 37 30 = v) :
    exec (.signalFlit u v p f) s =
      .next (crossCtl (hopFuel s) u v p f true (s.now - s.asq.tickAt) (deliverSignal u v f (farFrom u v p)) s) := by
  show Host.Outcome.next (signalIn (farFrom u v p) u v p f s) = _
  simp [signalIn, flitIn_good _ h, ht, h5, hu, hv, h.here, sendCtl]

/-! Maxima of combines (05 R142). -/

theorem mergeMax_length (a b : List W32) : (mergeMax a b).length = max a.length b.length := by simp [mergeMax]

theorem mergeMax_toNat (a b : List W32) (k : Nat) :
    ((mergeMax a b).getD k 0).toNat = max (a.getD k 0).toNat (b.getD k 0).toNat := by
  by_cases hk : k < max a.length b.length
  · have e : (mergeMax a b).getD k 0 = if (a.getD k 0).toNat ≤ (b.getD k 0).toNat then b.getD k 0 else a.getD k 0 := by
      simp [mergeMax, List.getD_eq_getElem?_getD, List.getElem?_range hk]
    rw [e]
    split <;> omega
  · have beyond : ∀ l : List W32, l.length ≤ k → l.getD k 0 = 0 := fun l h => by simp [h]
    rw [beyond _ (by rw [mergeMax_length]; omega), beyond a (by omega), beyond b (by omega)]
    rfl

/-- Lists of as many words that agree word by word are the same. -/
theorem words_ext {a b : List W32} (hl : a.length = b.length) (h : ∀ k, (a.getD k 0).toNat = (b.getD k 0).toNat) : a = b := by
  refine List.ext_getElem hl fun k ha hb => BitVec.eq_of_toNat_eq ?_
  simpa [List.getD_eq_getElem?_getD, ha, hb] using h k

theorem mergeMax_comm (a b : List W32) : mergeMax a b = mergeMax b a :=
  words_ext (by simp only [mergeMax_length, Nat.max_comm]) fun k => by simp only [mergeMax_toNat, Nat.max_comm]

theorem mergeMax_assoc (a b c : List W32) : mergeMax (mergeMax a b) c = mergeMax a (mergeMax b c) :=
  words_ext (by simp only [mergeMax_length, Nat.max_assoc]) fun k => by simp only [mergeMax_toNat, Nat.max_assoc]

theorem mergeMax_self (a : List W32) : mergeMax a a = a :=
  words_ext (by simp [mergeMax_length]) fun k => by rw [mergeMax_toNat, Nat.max_self]

/-! A combine at a router (05 R142, R144). -/

/-- A router's entry of a combine index. -/
def combOf (idx : Nat) (t : Tile) : Comb := (t.comb.find? fun c => c.idx = idx).getD ⟨idx, 0, [], []⟩

theorem combOf_idx (idx : Nat) (t : Tile) : (combOf idx t).idx = idx := by
  unfold combOf
  cases h : t.comb.find? fun c => c.idx = idx with
  | none => rfl
  | some c => simpa using List.find?_some h

/-- Its entry with one more input. -/
def combWith (p : Port) (idx flags : Nat) (mx : List W32) (t : Tile) : Comb :=
  ⟨idx, (combOf idx t).flags ||| flags, mergeMax (combOf idx t).maxima mx, addNew p (combOf idx t).got⟩

/-- Has a router all the inputs that it waits for? -/
def combFull (s : State) (i : Img) (u v : Nat) (g : List Port) : Prop :=
  (∀ q ∈ combKids i u v, q ∈ g ∨ silent (hopFuel s) s i (beyond u v q).1 (beyond u v q).2.1 = true) ∧
    ((tile s u v).fenced = true ∨ Port.l ∈ g)

theorem combFull_iff (s : State) (i : Img) (u v : Nat) (g : List Port) :
    ((combKids i u v).all (fun q => q ∈ g || silent (hopFuel s) s i (beyond u v q).1 (beyond u v q).2.1) &&
      ((tile s u v).fenced || Port.l ∈ g)) = true ↔ combFull s i u v g := by
  simp [combFull]

/-- The entry as the router merges it. -/
theorem combWith_eq (p : Port) (idx flags : Nat) (mx : List W32) (t : Tile) :
    ({ combOf idx t with
      flags := (combOf idx t).flags ||| flags
      maxima := mergeMax (combOf idx t).maxima mx
      got := addNew p (combOf idx t).got } : Comb) = combWith p idx flags mx t := by
  simp [combWith, combOf_idx]

section
variable {s : State} {i : Img} {u v : Nat} {p : Port} {idx flags : Nat} {mx : List W32} (k cyc : Nat) (hi : s.image = some i)

include hi

theorem combineAt_waits (h : ¬ combFull s i u v (addNew p (combOf idx (tile s u v)).got)) :
    combineAt (k + 1) u v p idx flags cyc mx s = setTile u v { tile s u v with
      comb := ((tile s u v).comb.filter fun c => c.idx ≠ idx) ++ [combWith p idx flags mx (tile s u v)] } s := by
  rw [← combFull_iff, Bool.not_eq_true] at h
  rw [combineAt]
  simp only [hi]
  rw [if_pos (by rw [← combOf, h]; rfl), ← combWith_eq]
  rfl

theorem combineAt_root (h : combFull s i u v (addNew p (combOf idx (tile s u v)).got)) (hr : combUp i u v = none) :
    combineAt (k + 1) u v p idx flags cyc mx s =
      combineDone idx (combWith p idx flags mx (tile s u v)).flags cyc (combWith p idx flags mx (tile s u v)).maxima
        (setTile u v { tile s u v with comb := (tile s u v).comb.filter fun c => c.idx ≠ idx } s) := by
  rw [← combFull_iff] at h
  rw [combineAt]
  simp only [hi, hr]
  rw [if_neg (by rw [← combOf, h]; simp)]
  rfl

end

/-! A combine's result on its way down (05 R142). -/

/-- What the result of a combine index does to a tile: its charge, and its barriers on the index are free. -/
def barriersFreed (now n idx : Nat) (t : Tile) : Tile :=
  tokEvent now n ([Strm.f, .b, .w].foldl (fun t st => freeBarrier now st idx t) t)

theorem tileKeeps_freeBarrier (now : Nat) (st : Strm) (idx : Nat) (t : Tile) : TileKeeps t (freeBarrier now st idx t) := by
  unfold freeBarrier
  dsimp only
  split
  · exact tileKeeps_refl t
  · split <;> cases st <;> exact ⟨rfl, rfl, rfl, rfl, rfl, rfl, rfl, rfl⟩

theorem getCtx_setCtx (st st' : Strm) (c : Ctx) (t : Tile) :
    getCtx (setCtx st c t) st' = if st' = st then c else getCtx t st' := by
  cases st <;> cases st' <;> rfl

theorem getCtx_tokEvent (now n : Nat) (t : Tile) (st : Strm) : getCtx (tokEvent now n t) st = getCtx t st := by cases st <;> rfl

theorem active_barrier (now : Nat) (st st' : Strm) (t : Tile) :
    (getCtx (active now st t) st').barrier = (getCtx t st').barrier := by
  rw [active, getCtx_tokEvent, getCtx_setCtx]
  split
  · next e => rw [e]
  · cases st' <;> rfl

theorem freeBarrier_barrier (now : Nat) (st st' : Strm) (idx : Nat) (t : Tile) :
    (getCtx (freeBarrier now st idx t) st').barrier =
      if st' = st ∧ (getCtx t st).barrier = some idx then none else (getCtx t st').barrier := by
  unfold freeBarrier
  dsimp only
  by_cases hb : (getCtx t st).barrier = some idx
  · have freed : (getCtx (setCtx st { getCtx t st with barrier := none } t) st').barrier =
        if st' = st then none else (getCtx t st').barrier := by
      rw [getCtx_setCtx]
      split <;> rfl
    rw [if_neg (by simp [hb])]
    split <;> simp [active_barrier, freed, hb]
  · rw [if_pos hb, if_neg (by simp [hb])]

theorem tileKeeps_barriersFreed (now n idx : Nat) (t : Tile) : TileKeeps t (barriersFreed now n idx t) :=
  tileKeeps_trans (tileKeeps_freeBarrier now .f idx t) (tileKeeps_trans (tileKeeps_freeBarrier now .b idx _)
    (tileKeeps_trans (tileKeeps_freeBarrier now .w idx _) ⟨rfl, rfl, rfl, rfl, rfl, rfl, rfl, rfl⟩))

theorem barriersFreed_free (now n idx : Nat) (t : Tile) (st : Strm) :
    (getCtx (barriersFreed now n idx t) st).barrier ≠ some idx := by
  simp only [barriersFreed, getCtx_tokEvent, List.foldl_cons, List.foldl_nil, freeBarrier_barrier]
  cases st <;> simp

theorem trafficOnly_downWaits (k : Nat) (i : Img) (u v cyc : Nat) (s : State) : TrafficOnly s (downWaits k i u v cyc s) := by
  induction k generalizing u v cyc s with
  | zero => exact trafficOnly_refl s
  | succ k ih =>
    rw [downWaits]
    split
    · exact trafficOnly_refl s
    · exact trafficOnly_forAll _ (fun q s => trafficOnly_trans (trafficOnly_noteWait ..) (ih ..)) s

/-- A combine's result reaches the sequencer and every tile below the router, and frees their barriers on its index. -/
theorem combineDown_spec {s : State} {i : Img} (hi : s.image = some i) (u v idx flags cyc : Nat) (mx : List W32) :
    (∃ m, combineDown u v idx flags cyc mx s = { s with tiles := m, asq := { s.asq with
      results := mput (0, []) idx (flags % 65536, mx) s.asq.results } }) ∧
    TilesKeep s (combineDown u v idx flags cyc mx s) ∧
    ∀ x y st, inImage s x y = true → combBelow i u v x y = true →
      (getCtx (tile (combineDown u v idx flags cyc mx s) x y) st).barrier ≠ some idx := by
  obtain ⟨⟨m, waits⟩, kept⟩ := trafficOnly_downWaits (hopFuel s) i u v cyc s
  obtain ⟨a, ha⟩ : ∃ a : State, a = { s with tiles := m, asq := { s.asq with
    results := mput (0, []) idx (flags % 65536, mx) s.asq.results } } := ⟨_, rfl⟩
  have shape : combineDown u v idx flags cyc mx s = forAll ((imageTiles i).filter fun p => combBelow i u v p.1 p.2)
      (fun p s => setTile p.1 p.2 (barriersFreed s.now (2 * (combKids i p.1 p.2).length) idx (tile s p.1 p.2)) s) a := by
    rw [combineDown]
    simp only [hi]
    rw [waits, ha]
    rfl
  obtain ⟨⟨n, only⟩, keeps⟩ := trafficOnly_forAll ((imageTiles i).filter fun p => combBelow i u v p.1 p.2)
    (fun p s => trafficOnly_setTile (tileKeeps_barriersFreed s.now (2 * (combKids i p.1 p.2).length) idx (tile s p.1 p.2))) a
  rw [shape]
  refine ⟨⟨n, by rw [only, ha]⟩, tilesKeep_trans (waits ▸ kept) (tilesKeep_trans (tilesKeep_of_tiles (by rw [ha])) keeps), ?_⟩
  intro x y st hin hbelow
  refine forAll_setTile_holds (Q := fun t => (getCtx t st).barrier ≠ some idx) (fun p s => barriersFreed_free _ _ idx _ st) _
    (q := (x, y)) (.inl (List.mem_filter.2 ⟨mem_imageTiles.2 ((inImage_iff hi x y).1 hin), hbelow⟩))

theorem combUp_none {i : Img} {u v : Nat} (h : combUp i u v = none) : u = i.reqU / 2 ∧ v = i.reqV / 2 := by
  unfold combUp at h
  dsimp only at h
  split at h
  · cases h
  · split at h
    · cases h
    · split at h
      · cases h
      · split at h
        · cases h
        · omega

theorem combBelow_root (i : Img) (x y : Nat) : combBelow i (i.reqU / 2) (i.reqV / 2) x y = true := by simp [combBelow]

theorem exec_combineUp {s : State} {i : Img} {u v : Nat} {p : Port} {f : Flit} (h : FlitGood s i u v p f 2)
    (ht : ctype f = 1) (hp : p ∈ combKids i u v) :
    exec (.combineUp u v p f) s = .next (combineAt (hopFuel s) u v p (combFields f).1 (combFields f).2.1
      (s.now - s.asq.tickAt) (combFields f).2.2 s) := by
  show execCombineUp u v p f s = _
  simp [execCombineUp, flitIn_good _ h, h.img, ht, hp]

theorem exec_combineDown {s : State} {i : Img} {u v : Nat} {p : Port} {f : Flit} (h : FlitGood s i u v p f 2)
    (ht : ctype f = 2) (hp : (combUp i u v).getD .l = p) :
    exec (.combineDown u v p f) s = .next (combineDown u v (combFields f).1 (combFields f).2.1
      (s.now - s.asq.tickAt) (combFields f).2.2 s) := by
  show execCombineDown u v p f s = _
  simp [execCombineDown, flitIn_good _ h, h.img, ht, hp]

/-! Halts (05 R129, 06 R169, R188). -/

/-- A halt is marked as forwarded at every tile of the image. -/
def haltForwarded (i : Img) (id : List Byte) (s : State) : State :=
  forAll (imageTiles i) (fun t s => setTile t.1 t.2 { tile s t.1 t.2 with halts := addNew id (tile s t.1 t.2).halts } s) s

theorem trafficOnly_haltForwarded (i : Img) (id : List Byte) (s : State) : TrafficOnly s (haltForwarded i id s) := by
  unfold haltForwarded
  refine trafficOnly_forAll _ (fun p s => ?_) s
  exact trafficOnly_setTile ⟨rfl, rfl, rfl, rfl, rfl, rfl, rfl, rfl⟩

theorem mem_addNew {α : Type} [DecidableEq α] (a : α) (l : List α) : a ∈ addNew a l := by
  unfold addNew
  split
  · assumption
  · simp

theorem haltForwarded_mem (i : Img) (id : List Byte) (s : State) {x y : Nat} (hx : x < i.reqU) (hy : y < i.reqV) :
    id ∈ (tile (haltForwarded i id s) x y).halts :=
  forAll_setTile_holds (Q := fun t => id ∈ t.halts) (fun p s => mem_addNew id (tile s p.1 p.2).halts) _ (q := (x, y))
    (.inl (mem_imageTiles.2 ⟨hx, hy⟩))

section
variable {s : State} {i : Img} {u v : Nat} {p : Port} {f : Flit} (h : FlitGood s i u v p f 2) (ht : ctype f = 3)
  (h1 : 1 ≤ byteAt f.pay 0) (h5 : byteAt f.pay 0 ≤ 5)

include h ht h1 h5

theorem exec_haltFlit_known (hm : f.pay.take 16 ∈ (tile s u v).halts) : exec (.haltFlit u v p f) s = .next s := by
  show execHaltFlit u v p f s = _
  simp [execHaltFlit, flitIn_good _ h, ht, h1, h5, hm]

theorem exec_haltFlit_new (hm : f.pay.take 16 ∉ (tile s u v).halts) :
    exec (.haltFlit u v p f) s = .next (
      if s.tiles.any (fun e => decide (f.pay.take 16 ∈ e.2.halts)) then haltForwarded i (f.pay.take 16) s
      else learnHalt f.pay (haltForwarded i (f.pay.take 16) s)) := by
  show execHaltFlit u v p f s = _
  simp only [execHaltFlit, flitIn_good _ h, ht, h1, h5, hm, h.img]
  simp [haltForwarded]

end

/-! What the ASQ does with a halt. -/

theorem ledgerOnly_loading {s t : State} (h : LedgerOnly s t) : t.loading = s.loading := by
  obtain ⟨_, _, _, _, _, _, _, _, _, _, _, _, rfl, -⟩ := h
  rfl

/-- The suspect that a halt names, if it names one. -/
def haltSuspect (b : List Byte) : List (Nat × Nat) :=
  if byteAt b 4 = 0xFF && byteAt b 5 = 0xFF then [] else [(byteAt b 4, byteAt b 5)]

/-- The record's tick is the halt's, where the halt brings the first suspect. -/
def haltDated (b : List Byte) (s t : State) : State :=
  if s.asq.recov.suspects.isEmpty && !t.asq.recov.suspects.isEmpty then setReg64 .asq 0x0B4 (fieldLE b 8 8) t else t

/-- The state once a halt's suspect has joined the record. -/
def haltJoined (b : List Byte) (s : State) : State :=
  if (haltSuspect b).isEmpty then s else haltDated b s (addSuspects 0 (haltSuspect b) (noteFault s))

theorem haltDated_shape (b : List Byte) (s t : State) : ∃ r, haltDated b s t = { t with regs := r } := by
  unfold haltDated
  split
  · exact ⟨_, rfl⟩
  · exact ⟨t.regs, rfl⟩

theorem haltJoined_spec (b : List Byte) (s : State) : Fencing s (haltJoined b s) ∧ (haltJoined b s).run = s.run ∧
    (haltJoined b s).loading = s.loading := by
  unfold haltJoined
  split
  · exact ⟨fencing_of_tiles rfl, rfl, rfl⟩
  · have noted := recorded_noteFault s
    obtain ⟨r, e⟩ := haltDated_shape b s (addSuspects 0 (haltSuspect b) (noteFault s))
    rw [e]
    refine ⟨fencing_trans (fencing_of_tiles noted.tiles) (fencing_addSuspects 0 (haltSuspect b) (noteFault s)), ?_, ?_⟩
    · simp [noted.run]
    · simp [noted.loading]

theorem haltDated_tiles (b : List Byte) (s t : State) : (haltDated b s t).tiles = t.tiles := by
  obtain ⟨_, e⟩ := haltDated_shape b s t
  rw [e]

section
variable {b : List Byte} (s : State)

/-- A halt of class 1 with cause 0 to 11 is that contract fault, dated by the halt where it is the first. -/
theorem learnHalt_contract (h0 : byteAt b 0 = 1) (h1 : byteAt b 1 ≤ 11) : learnHalt b s =
    if faultValid s then contractFault (byteAt b 1) (byteAt b 2) (byteAt b 3) (fieldLE b 16 4) (haltJoined b s)
    else setReg64 .asq 0x070 (fieldLE b 8 8)
      (contractFault (byteAt b 1) (byteAt b 2) (byteAt b 3) (fieldLE b 16 4) (haltJoined b s)) := by
  unfold learnHalt
  simp only [h0, h1, if_true]
  cases faultValid s <;> rfl

theorem learnHalt_unknown (h0 : byteAt b 0 = 1) (h1 : ¬ byteAt b 1 ≤ 11) : learnHalt b s = s := by
  unfold learnHalt
  simp only [h0, h1, if_false]

theorem learnHalt_tile (h0 : byteAt b 0 = 2) : ∃ l, learnHalt b s = haltDated b s (tileFault (byteAt b 1) l s) := by
  unfold learnHalt
  simp only [h0]
  exact ⟨_, rfl⟩

theorem learnHalt_edge (h0 : byteAt b 0 = 5) : learnHalt b s = callHalt (faultItem 4 (byteAt b 1) [] (haltJoined b s)) := by
  unfold learnHalt
  simp only [h0]
  rfl

theorem learnHalt_other (h1 : byteAt b 0 ≠ 1) (h2 : byteAt b 0 ≠ 2) (h5 : byteAt b 0 ≠ 5) :
    learnHalt b s = callHalt (haltJoined b s) := by
  unfold learnHalt
  dsimp only
  split
  · contradiction
  · contradiction
  · contradiction
  · rfl

end

theorem fencing_callHalt {s : State} (h : s.loading = false) : Fencing s (callHalt s) :=
  fencing_of_tiles (by rw [callHalt_spec h])

theorem fencing_tileFault {s : State} (cause : Nat) (l : List (Nat × Nat)) (hr : s.run = .run) :
    Fencing s (tileFault cause l s) := by
  by_cases any : (l.any fun p => inImage s p.1 p.2) = true
  · obtain ⟨p, hp, hi⟩ := List.any_eq_true.1 any
    exact (tileFault_stops cause hr hp hi).1.fences
  · exact fencing_of_tiles (by rw [tileFault, if_pos (by simpa using any)])

/-- The ASQ fences the suspects of a halt; nothing else of a tile changes. A tile fault in Halt, which starts a recovery, is left
out. -/
theorem fencing_learnHalt {b : List Byte} {s : State} (hl : s.loading = false) (hr : s.run = .run ∨ byteAt b 0 ≠ 2) :
    Fencing s (learnHalt b s) := by
  obtain ⟨joined, -, jl⟩ := haltJoined_spec b s
  have idle := jl.trans hl
  by_cases h1 : byteAt b 0 = 1
  · by_cases hc : byteAt b 1 ≤ 11
    · obtain ⟨-, -, tiles, -⟩ := contractFault_spec (byteAt b 1) (byteAt b 2) (byteAt b 3) (fieldLE b 16 4) (haltJoined b s)
        (by omega) idle
      refine fencing_trans joined (fencing_of_tiles ?_)
      rw [learnHalt_contract s h1 hc, ← tiles]
      split <;> rfl
    · rw [learnHalt_unknown s h1 hc]
      exact fencing_of_tiles rfl
  · by_cases h2 : byteAt b 0 = 2
    · obtain ⟨l, e⟩ := learnHalt_tile s h2
      rw [e]
      exact fencing_trans (fencing_tileFault (byteAt b 1) l (hr.resolve_right (by simp [h2]))) (fencing_of_tiles (haltDated_tiles ..))
    · by_cases h5 : byteAt b 0 = 5
      · have item := ledgerOnly_faultItem 4 (byteAt b 1) [] (haltJoined b s)
        rw [learnHalt_edge s h5]
        exact fencing_trans joined (fencing_trans (fencing_of_tiles (ledgerOnly_tiles item))
          (fencing_callHalt ((ledgerOnly_loading item).trans idle)))
      · rw [learnHalt_other s h1 h2 h5]
        exact fencing_trans joined (fencing_callHalt idle)

theorem Fencing.halts {s t : State} (h : Fencing s t) (u v : Nat) : (tile t u v).halts = (tile s u v).halts := by
  unfold tile
  rcases h (tileKey u v) with e | e <;> rw [e]

/-- The ASQ's error bit of a halt that is a contract fault. -/
theorem learnHalt_contract_bit {b : List Byte} {s : State} (hl : s.loading = false) (hr : s.run = .run ∨ s.run = .halt)
    (h0 : byteAt b 0 = 1) (h1 : byteAt b 1 ≤ 11) :
    bitOf (reg (learnHalt b s) .asq 0x010) (byteAt b 1) = true ∧ (learnHalt b s).asq.contract = true := by
  obtain ⟨-, jr, jl⟩ := haltJoined_spec b s
  obtain ⟨asq, bit, -⟩ := contractFault_spec (byteAt b 1) (byteAt b 2) (byteAt b 3) (fieldLE b 16 4) (haltJoined b s)
    (by omega) (jl.trans hl)
  have contract : (contractFault (byteAt b 1) (byteAt b 2) (byteAt b 3) (fieldLE b 16 4) (haltJoined b s)).asq.contract = true := by
    rw [asq, jr]
    rcases hr with hr | hr <;> simp [hr]
  rw [learnHalt_contract s h0 h1]
  split
  · exact ⟨bit, contract⟩
  · refine ⟨?_, contract⟩
    rw [setReg64, reg_setReg_off _ _ _ (by omega), reg_setReg_off _ _ _ (by omega)]
    exact bit

end Sys2Proof.Machine
end

section
namespace Sys2Proof
open Machine

/-- Settles O25: a signal is taken at its tile (`crossCtl_own`), a combine waits or completes at its router (`combineAt_waits`,
`combineAt_root`, `combineDown_spec`), and a halt reaches the ASQ (`fencing_learnHalt`, `learnHalt_contract_bit`). -/
theorem controlFlits : Obligations.ControlFlits := by
  unfold Obligations.ControlFlits
  refine ⟨?_, ?_, ?_, ?_, mergeMax_comm, mergeMax_assoc, mergeMax_self, fun a b k _ => mergeMax_toNat a b k⟩
  · intro u v p f i s good ht hs h5 hu hv hf hc
    rw [exec_signalFlit good ht h5 hu hv, hopFuel_succ good.img]
    obtain ⟨a, c, ⟨only, tile⟩, ctr, e⟩ := crossCtl_own (i.reqU + i.reqV + 1) (s.now - s.asq.tickAt)
      (deliverSignal u v f (farFrom u v p)) good.img hc (f := f) (p := p) (by rw [ctlOut, hu, hv, outPort_here])
    rw [e, deliverSignal_own _ (by rw [tile]; exact hf) hs h5]
    exact ⟨a, c, only, tile, ctr, rfl⟩
  · intro u v p f i s good ht hp n c g full fl mx
    rw [exec_combineUp good ht hp, hopFuel_succ good.img]
    refine ⟨fun h => ?_, fun h hr => ?_⟩
    · rw [combineAt_waits _ _ good.img h]
      have set := tileSet_setTile { tile s u v with
        comb := ((tile s u v).comb.filter fun c => c.idx ≠ n) ++ [combWith p n (combFields f).2.1 (combFields f).2.2 (tile s u v)] }
        (tileSet_refl u v s)
      exact ⟨_, rfl, set.1, tilesKeep_setTile ⟨rfl, rfl, rfl, rfl, rfl, rfl, rfl, rfl⟩, congrArg Tile.comb set.2⟩
    · obtain ⟨hu, hv⟩ := combUp_none hr
      obtain ⟨a, ha⟩ : ∃ a, a = setTile u v { tile s u v with comb := (tile s u v).comb.filter fun c => c.idx ≠ n } s := ⟨_, rfl⟩
      have ai : a.image = some i := by rw [ha]; exact good.img
      have kept : TilesKeep s a := by rw [ha]; exact tilesKeep_setTile ⟨rfl, rfl, rfl, rfl, rfl, rfl, rfl, rfl⟩
      obtain ⟨⟨m, shape⟩, keeps, free⟩ := combineDown_spec ai (i.reqU / 2) (i.reqV / 2) n
        (combWith p n (combFields f).2.1 (combFields f).2.2 (tile s u v)).flags (s.now - s.asq.tickAt)
        (combWith p n (combFields f).2.1 (combFields f).2.2 (tile s u v)).maxima
      rw [combineAt_root _ _ good.img h hr, ← ha, combineDone]
      simp only [ai]
      refine ⟨_, rfl, tilesKeep_trans kept keeps, ⟨m, by rw [shape, ha]; rfl⟩, fun x y st hin => ?_⟩
      exact free x y st ((inImage_congr (by rw [ai, good.img]) x y).trans hin) (combBelow_root i x y)
  · intro u v p f i s good ht hp
    obtain ⟨shape, keeps, free⟩ := combineDown_spec good.img u v (combFields f).1 (combFields f).2.1 (s.now - s.asq.tickAt)
      (combFields f).2.2
    rw [exec_combineDown good ht hp]
    exact ⟨_, rfl, keeps, shape, free⟩
  · intro u v p f i s good ht h1 h5
    refine ⟨exec_haltFlit_known good ht h1 h5, fun hm => ?_⟩
    obtain ⟨⟨m, shape⟩, -⟩ := trafficOnly_haltForwarded i (f.pay.take 16) s
    have idle : (haltForwarded i (f.pay.take 16) s).loading = false := by rw [shape]; exact good.idle
    have run : (haltForwarded i (f.pay.take 16) s).run = s.run := by rw [shape]
    rw [exec_haltFlit_new good ht h1 h5 hm]
    refine ⟨_, rfl, fun hr x y hx hy => ?_, fun h0 hc new => ?_⟩
    · have mem := haltForwarded_mem i (f.pay.take 16) s hx hy
      split
      · exact mem
      · rwa [(fencing_learnHalt idle (by rwa [run])).halts]
    · rw [if_neg (by simpa using fun a b h => new (a, b) h)]
      exact learnHalt_contract_bit idle (by rw [run]; exact good.live) h0 hc

end Sys2Proof
end

section
namespace Sys2Proof.Machine

/-! The flowstone grid: the pre-read buffer, the taps of a bus, the collector (05 R147 to R156, 09 R276 to R280). -/

/-! A read of the store that finds no codeword error (09 R270). -/

theorem hbmTouch_clean (a n : Nat) {s : State} (h : s.flaws = []) : ∃ r, hbmTouch a n s = { s with regs := r } := by
  unfold hbmTouch
  split
  · exact ⟨s.regs, rfl⟩
  · rw [show meetFlaws a n s = s by simp [meetFlaws, h]]
    exact countLines_shape ..

theorem touchAll_clean (runs : List (Nat × Nat)) {s : State} (h : s.flaws = []) :
    ∃ r, runs.foldl (fun s q => hbmTouch q.1 q.2 s) s = { s with regs := r } := by
  induction runs generalizing s with
  | nil => exact ⟨s.regs, rfl⟩
  | cons q runs ih =>
    obtain ⟨r, e⟩ := hbmTouch_clean q.1 q.2 h
    rw [List.foldl_cons, e]
    exact ih h

/-- A block that its die reads without error joins the pre-read buffer (R276). -/
theorem preFill_clean (d : Die) (bus : Bus) (tag seq : Nat) (data : List Byte) {runs : List (Nat × Nat)} (zero : Bool) {s : State}
    (hf : s.flaws = []) (hb : badSector s runs = none) : ∃ r, preFill d bus tag seq [] data runs zero s =
      setDie d { dieSt s d with pre := (dieSt s d).pre ++ [⟨bus, tag, seq, data, false, zero⟩] } { s with regs := r } := by
  obtain ⟨r, e⟩ := touchAll_clean runs hf
  have bad : badSector { s with regs := r } runs = none := hb
  refine ⟨r, ?_⟩
  unfold preFill
  simp only [addFlaws, List.isEmpty_nil, if_true, e, bad]
  rfl

theorem exec_preRead {bus : Bus} {tag seq gen due at_ : Nat} {q : List Byte × List (Nat × Nat) × Bool} {i : Img} {d : Die}
    {s : State} (hi : s.image = some i) (hd : busDie i bus.die.val bus.idx = some d)
    (hj : injectDue s i bus tag seq = some (gen, due, at_)) (hq : preData s i gen bus tag seq = some q)
    (ho : inReadOrder s i d bus due at_ = true) (hf : flowing s = true) (hp : (dieSt s d).pre.length < preBlocks) :
    exec (.preRead bus tag seq []) s = .next (preFill d bus tag seq [] q.1 q.2.1 q.2.2 s) := by
  show Host.Outcome.next (preRead bus tag seq [] s) = _
  simp [preRead, hi, hd, hj, hq, hf, ho, show ¬ preBlocks ≤ (dieSt s d).pre.length by omega]

/-! Contract faults that a tap reports change no die and no tile but the tap's (05 R155, R156). -/

theorem flowing_idle {s : State} (h : flowing s = true) : s.loading = false := by
  simp only [flowing, Bool.and_eq_true, Bool.not_eq_true'] at h
  exact h.1.2

theorem contractFault_loading (cause u v detail : Nat) {s : State} (h : s.loading = false) :
    (contractFault cause u v detail s).loading = false := by
  have idle : (recordCause cause u v detail (bump .asq 0x07C (setErr .asq cause (haltAt u v s)))).loading = false := by simp [h]
  exact (ledgerOnly_loading (ledgerOnly_faultItem 0 cause [] _)).trans (by rw [callHalt_spec idle]; exact idle)

/-- From `s` to `t` no die changes, no load begins, and of the tiles only those at keys in `K` may change. -/
structure TapsOnly (K : Nat → Prop) (s t : State) : Prop where
  dies : t.dies = s.dies
  idle : t.loading = false
  tiles : ∀ k, ¬ K k → mget Tile.blank t.tiles k = mget Tile.blank s.tiles k

theorem tapsOnly_refl (K : Nat → Prop) {s : State} (h : s.loading = false) : TapsOnly K s s := ⟨rfl, h, fun _ _ => rfl⟩

theorem tapsOnly_trans {K : Nat → Prop} {a b c : State} (h : TapsOnly K a b) (g : TapsOnly K b c) : TapsOnly K a c :=
  ⟨g.dies.trans h.dies, g.idle, fun k hk => (g.tiles k hk).trans (h.tiles k hk)⟩

theorem tapsOnly_mono {K L : Nat → Prop} {s t : State} (h : TapsOnly K s t) (kl : ∀ k, K k → L k) : TapsOnly L s t :=
  ⟨h.dies, h.idle, fun k hk => h.tiles k fun c => hk (kl k c)⟩

section
variable {u v : Nat} {s : State} (hl : s.loading = false)

include hl

theorem tapsOnly_setTile (x : Tile) : TapsOnly (· = tileKey u v) s (setTile u v x s) :=
  ⟨rfl, hl, fun _ hk => mget_mput_ne x hk⟩

theorem tapsOnly_netFault (cause o : Nat) (hc : cause < 32) :
    TapsOnly (· = tileKey u v) s (contractFault cause u v 0 (tileNetErr u v o s)) := by
  have idle : (tileNetErr u v o s).loading = false := by simpa using hl
  obtain ⟨-, -, tiles, -, -, dies, -⟩ := contractFault_spec cause u v 0 (tileNetErr u v o s) hc idle
  refine ⟨by rw [dies, tileNetErr_dies], contractFault_loading _ _ _ _ idle, fun k hk => ?_⟩
  rw [tiles, tileNetErr, fire_tiles]
  exact mget_mput_ne _ hk

theorem tapsOnly_tapFull (i : Img) : TapsOnly (· = tileKey u v) s (tapFull i u v s) := by
  unfold tapFull slotColl queueOvf
  split
  · split
    · exact tapsOnly_refl _ hl
    · exact tapsOnly_netFault hl 0 0x5C (by omega)
  · split
    · exact tapsOnly_refl _ hl
    · exact tapsOnly_netFault hl 4 0x60 (by omega)

theorem tapsOnly_park (i : Img) (port : Nat) (b : FsBlock) : TapsOnly (· = tileKey u v) s (park i u v port b s) := by
  unfold park
  dsimp only
  split
  · exact tapsOnly_tapFull hl i
  · exact tapsOnly_setTile hl _

theorem tapsOnly_tapTake (o : Op) (n : Nat) (b : FsBlock) : TapsOnly (· = tileKey u v) s (tapTake u v o n b s) :=
  tapsOnly_setTile hl _

end

/-! A block on its way in (05 R149). -/

/-- What one tap does with an intact block that passes it. -/
def tapPass (i : Img) (bus : Bus) (k : Nat) (b : FsBlock) (s : State) : State :=
  let c := tapTile i bus k
  if (tile s c.1 c.2).fenced then s
  else match activeTapin (tile s c.1 c.2) bus b with
    | some (o, x) => tapTake c.1 c.2 o x b s
    | none => if !willTake s i bus k b then s else park i c.1 c.2 bus.die.val b s

theorem walkIn_intact {i : Img} {bus : Bus} {k : Nat} {b : FsBlock} (n : Nat) (s : State) (hk : k < busLen i bus)
    (hb : b.crc = blockCrc b) : walkIn i bus (n + 1) k b s = walkIn i bus n (k + 1) b (tapPass i bus k b s) := by
  rw [walkIn, if_neg (by omega), if_neg (by simp [hb])]
  rfl

theorem tapsOnly_tapPass (i : Img) (bus : Bus) (k : Nat) (b : FsBlock) {s : State} (hl : s.loading = false) :
    TapsOnly (· = tileKey (tapTile i bus k).1 (tapTile i bus k).2) s (tapPass i bus k b s) := by
  unfold tapPass
  dsimp only
  split
  · exact tapsOnly_refl _ hl
  · split
    · exact tapsOnly_tapTake hl ..
    · split
      · exact tapsOnly_refl _ hl
      · exact tapsOnly_park hl ..

/-- Key of a tap of a bus from `k` on. -/
def tapKeyFrom (i : Img) (bus : Bus) (k key : Nat) : Prop :=
  ∃ j, k ≤ j ∧ j < busLen i bus ∧ key = tileKey (tapTile i bus j).1 (tapTile i bus j).2

/-- An intact block changes no die, and only tiles of the taps that it has still to pass. -/
theorem tapsOnly_walkIn (i : Img) (bus : Bus) {b : FsBlock} (hb : b.crc = blockCrc b) (n k : Nat) {s : State}
    (hl : s.loading = false) : TapsOnly (tapKeyFrom i bus k) s (walkIn i bus n k b s) := by
  induction n generalizing k s with
  | zero => exact tapsOnly_refl _ hl
  | succ n ih =>
    by_cases hk : k < busLen i bus
    · have step := tapsOnly_tapPass i bus k b hl
      rw [walkIn_intact n s hk hb]
      refine tapsOnly_trans (tapsOnly_mono step ?_) (tapsOnly_mono (ih (k + 1) step.idle) ?_)
      · rintro _ rfl
        exact ⟨k, Nat.le_refl k, hk, rfl⟩
      · rintro _ ⟨j, hj, hlt, rfl⟩
        exact ⟨j, by omega, hlt, rfl⟩
    · rw [walkIn, if_pos (by omega)]
      exact tapsOnly_refl _ hl

theorem busEnd_cases (d : Fin 4) : d.val = 0 ∨ d.val = 1 ∨ d.val = 2 ∨ d.val = 3 := by omega

/-- The taps of a bus are different tiles. -/
theorem tapTile_inj {i : Img} {bus : Bus} {j k : Nat} (hj : j < busLen i bus) (hk : k < busLen i bus)
    (h : tileKey (tapTile i bus j).1 (tapTile i bus j).2 = tileKey (tapTile i bus k).1 (tapTile i bus k).2) : j = k := by
  rcases busEnd_cases bus.die with e | e | e | e
  all_goals
    simp [busLen, tapTile, tileKey, e] at hj hk h
    omega

/-- A tile of the image is the tap of its bus that `tileBus` names. -/
theorem tapTile_tileBus {s : State} {i : Img} {u v k : Nat} {bus : Bus} (hi : s.image = some i) (hin : inImage s u v = true)
    (h : tileBus i bus.die u v = (bus, k)) : tapTile i bus k = (u, v) ∧ k < busLen i bus := by
  obtain ⟨hu, hv⟩ := (inImage_iff hi u v).1 hin
  obtain ⟨d, idx⟩ := bus
  rcases busEnd_cases d with e | e | e | e
  all_goals
    simp only [tileBus, e, Prod.mk.injEq, Bus.mk.injEq, true_and] at h
    obtain ⟨rfl, rfl⟩ := h
    simp [tapTile, busLen, e]
    omega

theorem exec_inboundBlock {s : State} {i : Img} {u v k : Nat} {bus : Bus} {b : FsBlock} (hi : s.image = some i)
    (hf : flowing s = true) (hin : inImage s u v = true) (ht : tileBus i bus.die u v = (bus, k)) :
    exec (.inboundBlock u v bus b) s = .next (walkIn i bus (busLen i bus) k b s) := by
  show Host.Outcome.next (inboundAt u v bus b s) = _
  simp [inboundAt, hi, hf, hin, ht]

theorem tapTake_tile (u v : Nat) (o : Op) (x : Nat) (b : FsBlock) (s : State) : ∃ n y h, tile (tapTake u v o x b s) u v =
    { setOp o { o with got := o.got ++ [(x, b.data, [])], left := o.left - 1 } (tile s u v) with
      tok := n
      cyc := y
      tokHi := h } := by
  rw [tapTake, tile_setTile_same]
  exact ⟨_, _, _, rfl⟩

/-- A block that an operation of a tile takes joins it, whatever the taps behind do with the block. -/
theorem walkIn_takes {s : State} {i : Img} {u v k x : Nat} {bus : Bus} {b : FsBlock} {o : Op} (hl : s.loading = false)
    (ht : tapTile i bus k = (u, v)) (hk : k < busLen i bus) (hb : b.crc = blockCrc b) (hf : (tile s u v).fenced = false)
    (ha : activeTapin (tile s u v) bus b = some (o, x)) :
    tile (walkIn i bus (busLen i bus) k b s) u v = tile (tapTake u v o x b s) u v := by
  have pass : tapPass i bus k b s = tapTake u v o x b s := by simp [tapPass, ht, hf, ha]
  obtain ⟨n, hn⟩ : ∃ n, busLen i bus = n + 1 := ⟨busLen i bus - 1, by omega⟩
  have rest := tapsOnly_walkIn i bus hb n (k + 1) (s := tapTake u v o x b s) hl
  have other : ¬ tapKeyFrom i bus (k + 1) (tileKey u v) := by
    rintro ⟨j, hj, hlt, e⟩
    have := tapTile_inj hlt hk (by rw [← e, ht])
    omega
  rw [hn, walkIn_intact n s hk hb, pass]
  exact rest.tiles _ other

/-! A buffered block enters its bus (09 R276). -/

theorem exec_blockInject {s : State} {i : Img} {d : Die} {tr : TickRec} {bus : Bus} {tag seq k : Nat} {p : PreBlk}
    (hi : s.image = some i) (hd : busDie i bus.die.val bus.idx = some d) (hf : flowing s = true) (ht : tickNow s = some tr)
    (hk : injectKey i tr bus tag seq = some k) (hs : mget 0 (dieSt s d).sent (busKey bus) ≤ k)
    (hp : (dieSt s d).pre.find? (fun b => b.bus = bus && b.tag = tag && b.seq = seq) = some p) :
    exec (.blockInject bus tag seq) s = .next (injectBlock i d bus k tag seq p s) := by
  show Host.Outcome.next (blockInject bus tag seq s) = _
  simp [blockInject, hi, hd, hf, ht, hk, hp, show ¬ k < mget 0 (dieSt s d).sent (busKey bus) by omega]

theorem injectBlock_clean {s : State} {i : Img} {d : Die} {bus : Bus} {k tag seq : Nat} {p : PreBlk}
    (ho : i.lmode = true ∨ (dieSt s d).pre.find? (fun b => b.bus = bus) = some p) (hp : p.poison = false) (hz : p.zero = false)
    (hh : busHolds s i d bus = false) :
    injectBlock i d bus k tag seq p s = walkIn i bus (busLen i bus) 0 (mkBlock seq tag false p.data)
      (injected d bus k (setDie d { dieSt s d with pre := (dieSt s d).pre.erase p } s)) := by
  have turn : (!i.lmode && (dieSt s d).pre.find? (fun b => b.bus = bus) ≠ some p) = false := by
    rcases ho with ho | ho <;> simp [ho]
  simp only [injectBlock, hp, hz, hh, turn, Bool.or_self, Bool.false_eq_true, if_false]

theorem mkBlock_crc (seq tag : Nat) (part : Bool) (data : List Byte) :
    (mkBlock seq tag part data).crc = blockCrc (mkBlock seq tag part data) := rfl

/-! A block on its way out (05 R151). -/

theorem exec_outboundBlock {s : State} {i : Img} {u v k : Nat} {bus : Bus} {b : FsBlock} (hi : s.image = some i)
    (hf : flowing s = true) (hin : inImage s u v = true) (ht : tileBus i bus.die u v = (bus, k)) :
    exec (.outboundBlock u v bus b) s = .next (walkOut i bus k b s) := by
  show Host.Outcome.next (outboundAt u v bus b s) = _
  simp [outboundAt, hi, hf, hin, ht]

/-- Where no record of the tick sums, an intact block reaches the collector as it is. -/
theorem walkOut_passes {s : State} {i : Img} {bus : Bus} {b : FsBlock} (hb : b.crc = blockCrc b)
    (ht : tickTransfers s i 0x2A = []) (n : Nat) : walkOut i bus n b s = collect bus b s := by
  have due : ∀ n, tapoutDue s i bus n b = none := fun n => by simp [tapoutDue, ht]
  induction n with
  | zero =>
    unfold walkOut
    simp [hb, due]
  | succ n ih =>
    unfold walkOut
    simp [hb, due, ih]

/-- The last tap adds its contribution before the collector. -/
theorem walkOut_adds {s : State} {i : Img} {u v : Nat} {bus : Bus} {b : FsBlock} {q : Strm × Nat × OpRec} {o : Op}
    (hb : b.crc = blockCrc b) (ht : tapTile i bus 0 = (u, v)) (hq : tapoutDue s i bus 0 b = some q)
    (hf : (tile s u v).fenced = false) (ho : activeTapout (tile s u v) bus 0 b = some o) :
    walkOut i bus 0 b s = collect bus (tapAdd s (tile s u v) (parseRec o.bytes) (galleryOf i u v).2 bus 0 b)
      (setTile u v (tokEvent s.now 4 (setOp o { o with left := o.left - 1 } (tile s u v))) s) := by
  obtain ⟨st, j, r⟩ := q
  unfold walkOut
  simp [hb, hq, ht, hf, ho]

/-! A block at the collector (09 R279, R280). -/

theorem exec_collectorBlock {s : State} {i : Img} {bus : Bus} {b : FsBlock} {e : Die} (hi : s.image = some i)
    (hf : flowing s = true) (he : busDie i bus.die.val bus.idx = some e) (hc : collHeld s e bus < 1024) :
    exec (.collectorBlock bus b) s = .next (collect bus b s) := by
  show Host.Outcome.next (collectorIn bus b s) = _
  simp [collectorIn, hi, hf, he, show ¬ 1024 ≤ collHeld s e bus by omega]

section
variable {s : State} {i : Img} {bus : Bus} {b : FsBlock} {e : Die} (hi : s.image = some i)
  (he : busDie i bus.die.val bus.idx = some e)

include hi he

theorem collect_badCrc (hb : b.crc ≠ blockCrc b) : collect bus b s = tileFault 3 [tapTile i bus 0] (enterColl e bus s) := by
  simp [collect, hi, he, hb]

theorem collect_sump {d : SumpTag} {r : Region} {off : Nat} (hb : b.crc = blockCrc b) (ht : 0xC0 ≤ b.tag)
    (hd : sumpOf i b.tag = some d) (hp : sumpPlace i d bus b.seq = some (r, off)) (hs : b.seq < d.span) :
    collect bus b s = sumpWrite e d r off b.data (enterColl e bus s) := by
  simp [collect, hi, he, hb, ht, hd, hp, hs]

theorem collect_gradient {g : TagEntry} (hb : b.crc = blockCrc b) (ht : b.tag < 0xC0) (hg : tagEntryOf i bus b.tag = some g)
    (hc : g.cls = 2) : collect bus b s = gradientBlock e g bus b (enterColl e bus s) := by
  simp [collect, hi, he, hb, show ¬ 0xC0 ≤ b.tag by omega, hg, hc]

end

/-- Bytes written read back, whatever encryption covered them (09 R273). -/
theorem hbmBytes_hbmWrite (a : Nat) (bs : List Byte) (s : State) : hbmBytes (hbmWrite a bs s) a bs.length = bs := by
  refine List.ext_getElem (hbmBytes_length ..) fun k h hk => ?_
  rw [hbmBytes_get _ _ _ _ h, hbmByte_hbmWrite, dif_pos (by omega)]
  congr 1
  omega

theorem hbmBytes_setDie (d : Die) (x : DieSt) (s : State) (a n : Nat) : hbmBytes (setDie d x s) a n = hbmBytes s a n := rfl

/-- A write inside one stripe unit of a region is one write of the store. -/
theorem regionWrite_unit {off : Nat} {bs : List Byte} (r : Region) (gen : Nat) (s : State) (h : off % 4096 + bs.length ≤ 4096) :
    regionWrite r gen off bs s = hbmWrite (regionAddr (placeNow s) r gen off) bs s := by
  have first : min bs.length (4096 - off % 4096) = bs.length := by omega
  simp [regionWrite, first, chunks, chunksAux]

/-- A raw sump block starts at a multiple of its size. -/
theorem sumpPlace_aligned {i : Img} {d : SumpTag} {bus : Bus} {seq off : Nat} {r : Region} (hm : d.mode = 0)
    (h : sumpPlace i d bus seq = some (r, off)) : off % 128 = 0 := by
  unfold sumpPlace at h
  split at h
  · cases h
  · obtain ⟨x, -, e⟩ := Option.map_eq_some_iff.1 h
    obtain ⟨-, rfl⟩ := Prod.mk.inj e
    simp [blockRoom, hm]

/-- A raw block lands in its region as it is, and its side byte says that it was written (08 R250). -/
theorem sumpWrite_raw {d : SumpTag} {off : Nat} {data : List Byte} (e : Die) (r : Region) (s : State) (hm : d.mode = 0)
    (ho : off % 128 = 0) (hd : data.length = 128) :
    sumpWrite e d r off data s = setDie e { dieSt s e with
      side := mput 0 (regionAddr (placeNow s) r 0 off) 128 (dieSt s e).side }
      (hbmWrite (regionAddr (placeNow s) r (arrStep s) off) data s) := by
  have unit := regionWrite_unit r (arrStep s) s (off := off) (bs := data) (by omega)
  have same : dieSt (hbmWrite (regionAddr (placeNow s) r (arrStep s) off) data s) e = dieSt s e := by simp [dieSt]
  have place : placeNow (hbmWrite (regionAddr (placeNow s) r (arrStep s) off) data s) = placeNow s := by simp [placeNow]
  simp [sumpWrite, hm, unit, same, place]

end Sys2Proof.Machine
end

section
namespace Sys2Proof
open Machine

/-- Settles O32: a block is read into the buffer (`preFill_clean`), enters its bus (`injectBlock_clean`), joins a tap's operation
(`walkIn_takes`), passes out (`walkOut_passes`, `walkOut_adds`) and is collected (`sumpWrite_raw`, `collect_gradient`,
`tileFault_stops`). -/
theorem flowstoneBlocks : Obligations.FlowstoneBlocks := by
  unfold Obligations.FlowstoneBlocks
  refine ⟨?_, ?_, ?_, ?_, ?_, ?_, ?_⟩
  · intro bus tag seq gen due at_ runs zero data i d s hi hd hj hq ho hf hp hfl hb
    obtain ⟨r, e⟩ := preFill_clean d bus tag seq data zero hfl hb
    rw [exec_preRead hi hd hj hq ho hf hp, e]
    exact ⟨_, rfl, by simp, fun x hx => dieSt_setDie_ne _ _ hx, rfl, rfl, rfl⟩
  · intro bus tag seq k i d tr p s hi hd hf ht hk hs ho hp hpo hz hh
    rw [exec_blockInject hi hd hf ht hk hs hp, injectBlock_clean ho hpo hz hh]
    refine ⟨_, rfl, ?_, rfl⟩
    obtain ⟨a, ha⟩ : ∃ a, a = injected d bus k (setDie d { dieSt s d with pre := (dieSt s d).pre.erase p } s) := ⟨_, rfl⟩
    have idle : a.loading = false := by rw [ha]; exact flowing_idle hf
    have pre : (dieSt a d).pre = (dieSt s d).pre.erase p := by rw [ha, injected]; simp
    rw [← ha, dieSt, (tapsOnly_walkIn i bus (mkBlock_crc ..) (busLen i bus) 0 idle).dies]
    exact pre
  · intro u v k x bus b i o s hi hf hin ht hb hfe ha
    obtain ⟨tap, hk⟩ := tapTile_tileBus hi hin ht
    obtain ⟨n, y, h, e⟩ := tapTake_tile u v o x b s
    rw [exec_inboundBlock hi hf hin ht]
    exact ⟨_, n, y, h, rfl, (walkIn_takes (flowing_idle hf) tap hk hb hfe ha).trans e⟩
  · intro u v k bus b i s hi hf hin ht hb
    refine ⟨fun h => ?_, fun st r j o hk hq hfe ho => ?_⟩
    · rw [exec_outboundBlock hi hf hin ht, walkOut_passes hb h]
    · subst hk
      rw [exec_outboundBlock hi hf hin ht, walkOut_adds hb (tapTile_tileBus hi hin ht).1 hq hfe ho]
  · intro bus b i e d r off s hi hf he hc hb ht hd hp hs hm hl
    have raw := sumpWrite_raw e r (enterColl e bus s) hm (sumpPlace_aligned hm hp) hl
    rw [exec_collectorBlock hi hf he hc, collect_sump hi he hb ht hd hp hs, raw]
    refine ⟨_, rfl, ?_, ?_, by simp [enterColl], by simp [enterColl]⟩
    · have written := hbmBytes_hbmWrite (regionAddr (placeNow s) r (arrStep s) off) b.data (enterColl e bus s)
      rw [hl] at written
      exact (hbmBytes_setDie ..).trans written
    · rw [dieSt_setDie_same, show placeNow (enterColl e bus s) = placeNow s from rfl]
      exact mget_mput_same (d := 0) _ 128
  · intro bus b i e g s hi hf he hc hb ht hg hcl hp
    rw [exec_collectorBlock hi hf he hc, collect_gradient hi he hb ht hg hcl]
    simp only [gradientBlock, hp, if_true]
    exact ⟨_, rfl, rfl, setErr_bit _ (by omega) _, by simp [enterColl], by simp [enterColl]⟩
  · intro bus b i e s hi hr hf he hc hb hin
    obtain ⟨stops, -⟩ := tileFault_stops 3 (l := [tapTile i bus 0]) (s := enterColl e bus s) hr (List.mem_singleton_self _) hin
    rw [exec_collectorBlock hi hf he hc, collect_badCrc hi he hb]
    exact ⟨_, rfl, stops.halts, stops.voids, stops.recovers⟩

end Sys2Proof
end

section
namespace Sys2Proof.Machine

-- One theorem after another, as in the tests: side by side their threads leave the compile of the whole text too little memory.
set_option Elab.async false

/-! RUN_TICK and the errors of the sequencer: only the end of a tick counts RUN_TICK (06 R163), and no operation of the array clears an
error bit of ASQ or begins a load. -/

/-- From `a` to `t` RUN_TICK stays, no error bit of ASQ is cleared and no load begins. -/
structure TickKept (a t : State) : Prop where
  tick : runTick t = runTick a
  errs : ∀ k, bitOf (reg a .asq 0x010) k = true → bitOf (reg t .asq 0x010) k = true
  idle : a.loading = false → t.loading = false

theorem tickKept_refl (a : State) : TickKept a a := ⟨rfl, fun _ h => h, id⟩

theorem tickKept_trans {a b c : State} (h : TickKept a b) (g : TickKept b c) : TickKept a c :=
  ⟨g.tick.trans h.tick, fun k hk => g.errs k (h.errs k hk), fun hl => g.idle (h.idle hl)⟩

/-- A change that leaves both halves of RUN_TICK and ERR_STS of ASQ alone. -/
theorem tickKept_of_reg {a s t : State} (h : TickKept a s) (e : ∀ o ∈ [0x010, 0x04C, 0x050], reg t .asq o = reg s .asq o)
    (l : s.loading = false → t.loading = false) : TickKept a t := by
  refine tickKept_trans h ⟨?_, fun k hk => ?_, l⟩
  · rw [runTick, reg64, e 0x04C (by simp), e 0x050 (by simp)]; rfl
  · rw [e 0x010 (by simp)]; exact hk

/-- A change outside the registers. -/
theorem tickKept_of {a s t : State} (h : TickKept a s) (e : t.regs = s.regs) (l : t.loading = s.loading) : TickKept a t :=
  tickKept_of_reg h (fun o _ => reg_congr e .asq o) fun hl => l.trans hl

theorem tickKept_ite {c : Prop} [Decidable c] {a s t : State} (h : TickKept a s) (g : TickKept a t) :
    TickKept a (if c then s else t) := by
  split <;> assumption

theorem tickKept_foldl {α : Type} {a : State} {f : State → α → State} (hf : ∀ s x, TickKept a s → TickKept a (f s x))
    (l : List α) {s : State} (h : TickKept a s) : TickKept a (l.foldl f s) := by
  induction l generalizing s with
  | nil => exact h
  | cons x l ih => exact ih (hf s x h)

theorem tickKept_forAll {α : Type} {a : State} (l : List α) {f : α → State → State}
    (hf : ∀ x s, TickKept a s → TickKept a (f x s)) {s : State} (h : TickKept a s) : TickKept a (forAll l f s) :=
  tickKept_foldl (fun s x => hf x s) l h

section
variable {a s t : State}

/-! Registers, events, items, tiles and dies. -/

theorem tickKept_setReg (pg : Page) (o : Nat) (v : W32) (h : TickKept a s)
    (hk : pageBase pg + o ≠ 0xD010 ∧ pageBase pg + o ≠ 0xD04C ∧ pageBase pg + o ≠ 0xD050 := by simp only [pageBase]; omega) :
    TickKept a (setReg pg o v s) := by
  obtain ⟨h1, h2, h3⟩ := hk
  refine tickKept_of_reg h (fun o' ho' => ?_) id
  rw [reg_setReg, if_neg]
  simp only [List.mem_cons, List.not_mem_nil, or_false] at ho'
  simp only [show pageBase .asq = 0xD000 from rfl]
  omega

theorem tickKept_setReg64 (pg : Page) (o v : Nat) (h : TickKept a s)
    (hk : pageBase pg + o + 4 < 0xD010 ∨ 0xD050 < pageBase pg + o := by simp only [pageBase]; omega) :
    TickKept a (setReg64 pg o v s) :=
  tickKept_setReg _ _ _ (tickKept_setReg _ _ _ h (by omega)) (by omega)

theorem tickKept_setBits (pg : Page) (o hi lo v : Nat) (h : TickKept a s)
    (hk : pageBase pg + o ≠ 0xD010 ∧ pageBase pg + o ≠ 0xD04C ∧ pageBase pg + o ≠ 0xD050 := by simp only [pageBase]; omega) :
    TickKept a (setBits pg o hi lo v s) := tickKept_setReg _ _ _ h hk

theorem tickKept_bump (pg : Page) (o k : Nat) (h : TickKept a s)
    (hk : pageBase pg + o ≠ 0xD010 ∧ pageBase pg + o ≠ 0xD04C ∧ pageBase pg + o ≠ 0xD050 := by simp only [pageBase]; omega) :
    TickKept a (bump pg o s k) := tickKept_ite h (tickKept_setReg _ _ _ h hk)

theorem tickKept_events (h : TickKept a s) (e : OnlyEvents s t) : TickKept a t := by
  refine tickKept_of_reg h (fun o ho => onlyEvents_reg e ?_) ?_
  · simp only [List.mem_cons, List.not_mem_nil, or_false] at ho
    unfold onEvc
    simp only [pageBase]
    omega
  · obtain ⟨_, _, _, rfl, -⟩ := e
    exact id

theorem tickKept_ledger (h : TickKept a s) (e : LedgerOnly s t) : TickKept a t := by
  refine tickKept_of_reg h (fun o ho => ledgerOnly_asqReg e ?_) fun hl => (ledgerOnly_loading e).trans hl
  simp only [List.mem_cons, List.not_mem_nil, or_false] at ho
  omega

theorem tickKept_fire (k : Nat) (h : TickKept a s) (hk : k < 1024 := by omega) : TickKept a (fire k s) :=
  tickKept_events h (onlyEvents_fire hk (onlyEvents_refl s))

theorem tickKept_vectorFire (k : Nat) (h : TickKept a s) : TickKept a (vectorFire k s) :=
  tickKept_events h (onlyEvents_vectorFire k (onlyEvents_refl s))

/-- A bit set in a register leaves the others as they are. -/
theorem bitOf_setBit_mono {w : W32} {k : Nat} (n : Nat) (h : bitOf w k = true) : bitOf (setBit w n true) k = true := by
  unfold bitOf at *
  simp [setBit, h]

/-- An error of a page: one more bit of its ERR_STS. -/
theorem tickKept_setErr (pg : Page) (k : Nat) (h : TickKept a s) : TickKept a (setErr pg k s) := by
  refine tickKept_events (tickKept_trans h ?_) (onlyEvents_setErr pg k s)
  by_cases hp : pageBase pg + 0x010 = pageBase .asq + 0x010
  · have at_ : ∀ o, o ≠ 0x010 → reg (setReg pg 0x010 (setBit (reg s pg 0x010) k true) s) .asq o = reg s .asq o := fun o ho => by
      rw [reg_setReg, if_neg (by omega)]
    refine ⟨by rw [runTick, reg64, at_ _ (by omega), at_ _ (by omega)]; rfl, fun j hj => ?_, id⟩
    rw [reg_setReg, if_pos hp.symm, reg, hp]
    exact bitOf_setBit_mono k hj
  · refine tickKept_setReg _ _ _ (tickKept_refl s) ⟨hp, ?_⟩
    cases pg <;> simp only [pageBase] <;> omega

theorem tickKept_setRun (r : RunSt) (h : TickKept a s) : TickKept a (setRun r s) :=
  tickKept_events (s := { s with run := r }) (tickKept_of h rfl rfl) (onlyEvents_setRun r s)

theorem tickKept_midDone (cmd code : Nat) (h : TickKept a s) : TickKept a (midDone cmd code s) :=
  tickKept_events (tickKept_setReg .mid 0x088 _ (s := { s with busy := none }) (tickKept_of h rfl rfl)) (onlyEvents_midDone cmd code s)

theorem tickKept_setRec (v : Nat) (h : TickKept a s) : TickKept a (setRec v s) :=
  tickKept_ite h (tickKept_fire 25 (tickKept_setBits .asq 0x0A8 3 0 v h))

theorem tickKept_hbmWrite (x : Nat) (bs : List Byte) (h : TickKept a s) : TickKept a (hbmWrite x bs s) :=
  tickKept_ledger h (ledgerOnly_hbmWrite x bs s)

theorem tickKept_ledgerItemOf (step typ : Nat) (body : List Byte) (h : TickKept a s) :
    TickKept a (ledgerItemOf step typ body s) := tickKept_ledger h (ledgerOnly_ledgerItemOf step typ body s)

theorem tickKept_ledgerItem (typ : Nat) (body : List Byte) (h : TickKept a s) : TickKept a (ledgerItem typ body s) :=
  tickKept_ledgerItemOf _ _ _ h

theorem tickKept_faultItem (cls cause : Nat) (sus : List (Nat × Nat)) (h : TickKept a s) :
    TickKept a (faultItem cls cause sus s) := tickKept_ledgerItem _ _ h

theorem tickKept_asq (x : Asq) (h : TickKept a s) : TickKept a { s with asq := x } := tickKept_of h rfl rfl

theorem tickKept_rdc (x : Rdc) (h : TickKept a s) : TickKept a { s with rdc := x } := tickKept_of h rfl rfl

theorem tickKept_setTile (u v : Nat) (x : Tile) (h : TickKept a s) : TickKept a (setTile u v x s) := tickKept_of h rfl rfl

theorem tickKept_setDie (d : Die) (x : DieSt) (h : TickKept a s) : TickKept a (setDie d x s) := tickKept_of h rfl rfl

theorem tickKept_setLink (p : Die) (x : LinkSt) (h : TickKept a s) : TickKept a (setLink p x s) := tickKept_of h rfl rfl

theorem tickKept_setChan (c : Nat) (x : ChanSt) (h : TickKept a s) : TickKept a (setChan c x s) := tickKept_of h rfl rfl

theorem tickKept_setRed (k : Nat) (x : RedSt) (h : TickKept a s) : TickKept a (setRed k x s) := tickKept_of h rfl rfl

theorem tickKept_setAdd (k role : Nat) (x : AddSt) (h : TickKept a s) : TickKept a (setAdd k role x s) := tickKept_of h rfl rfl

theorem tickKept_mapTiles (f : Tile → Tile) (h : TickKept a s) : TickKept a (mapTiles f s) := tickKept_of h rfl rfl

theorem tickKept_tileNetErr (u v o : Nat) (h : TickKept a s) : TickKept a (tileNetErr u v o s) :=
  tickKept_fire 14 (tickKept_setTile _ _ _ h)

theorem tickKept_charge (u v k : Nat) (h : TickKept a s) : TickKept a (charge u v k s) := tickKept_ite (tickKept_setTile _ _ _ h) h

theorem tickKept_noteWait (u v w : Nat) (h : TickKept a s) : TickKept a (noteWait u v w s) :=
  tickKept_ite h (tickKept_setTile _ _ _ h)

theorem tickKept_setLnkState (p : Die) (v : Nat) (h : TickKept a s) : TickKept a (setLnkState p v s) :=
  tickKept_setBits (.lnk p) _ _ _ _ h

/-! Trips, pending configuration commands and the entry into Fault (13 R403, 15 R445, 17 R488). -/

theorem tickKept_linksDown (h : TickKept a s) : TickKept a (linksDown s) :=
  tickKept_forAll _ (fun p _ h => tickKept_setBits (.lnk p) _ _ _ _ (tickKept_setLink p _ h)) h

theorem tickKept_sealRegions (enc : Bool) (h : TickKept a s) : TickKept a (sealRegions enc s) := by
  unfold sealRegions
  split
  · refine tickKept_ite h (tickKept_forAll _ (fun _ _ h => ?_) h)
    exact tickKept_of h rfl rfl
  · exact h

theorem tickKept_eraseKeys (h : TickKept a s) : TickKept a (eraseKeys s) :=
  tickKept_forAll _ (fun p _ h => tickKept_setLnkState p _ h) (tickKept_of (tickKept_sealRegions true h) rfl rfl)

theorem tickKept_failScrub (h : TickKept a s) : TickKept a (failScrub s) :=
  tickKept_ite (tickKept_fire 26 (tickKept_setErr .sec 1 (tickKept_of h rfl rfl))) h

theorem tickKept_tripMarks (bit : Nat) (pg : Page) (eb : Nat) (h : TickKept a s) : TickKept a (tripMarks bit pg eb s) := by
  have h1 := tickKept_setErr .pwr 7 (tickKept_setErr pg eb (tickKept_setReg .pwr 0x080 (setBit (reg s .pwr 0x080) bit true) h))
  have h2 := tickKept_failScrub (tickKept_linksDown (s := fieldsOff _) (tickKept_of h1 rfl rfl))
  exact tickKept_ite h (tickKept_of (s := if _ then _ else _) (tickKept_ite (tickKept_eraseKeys h2) h2) rfl rfl)

theorem tickKept_pinMarks (h : TickKept a s) : TickKept a (pinMarks s) := by
  have h1 := tickKept_ite (c := (!s.evc.pinFilt.testBit 0 && bitOf (cfgv s .pwr 0x078) 0) = true)
    (tickKept_tripMarks 6 .thm 6 h) h
  exact tickKept_ite (tickKept_tripMarks 5 .thm 5 h1) h1

theorem tickKept_takeStepBank (h : TickKept a s) : TickKept a (takeStepBank s) :=
  tickKept_ite (tickKept_of h rfl rfl) (tickKept_setReg .rdc _ _ (tickKept_of h rfl rfl))

theorem tickKept_vecRecheck (h : TickKept a s) : TickKept a (vecRecheck s) :=
  tickKept_forAll _ (fun k _ h => tickKept_ite (tickKept_vectorFire k h) h) h

theorem tickKept_applyCfg (h : TickKept a s) : TickKept a (applyCfg s) := by
  unfold applyCfg
  split
  · exact h
  next op _ =>
    lift_lets
    intro ver s1 s2 s3 s4
    have h2 : TickKept a s2 := tickKept_setReg .cfg _ _ (tickKept_of h rfl rfl) (by simp only [pageBase]; split <;> omega)
    have h3 : TickKept a s3 := by
      cases op with
      | commit => exact tickKept_setReg .cfg _ _ h2
      | rollback => exact h2
    have h4 : TickKept a s4 := tickKept_ite h3 (tickKept_takeStepBank h3)
    exact tickKept_vecRecheck (tickKept_ledgerItem _ _ (tickKept_fire 15 (tickKept_setReg .cfg _ _ h4)))

theorem tickKept_recoveryCut (h : TickKept a s) : TickKept a (recoveryCut s) := by
  have hi : TickKept a (recoveryItem false 0xFFFF 0 s) := by
    unfold recoveryItem
    dsimp only
    split
    · exact tickKept_ledgerItem _ _ (tickKept_ledgerItem _ _ h)
    · exact tickKept_ledgerItem _ _ h
  exact tickKept_of (tickKept_ite (c := (decide (2 ≤ recState s) && decide (recState s ≤ 4)) = true) hi h) rfl rfl

theorem tickKept_dropData (h : TickKept a s) : TickKept a (dropData s) := by
  unfold dropData
  lift_lets
  intro s1 s2 s3 s4
  have h2 : TickKept a s2 := tickKept_of_reg (tickKept_sealRegions true h) (fun _ _ => rfl) fun _ => rfl
  have h3 : TickKept a s3 :=
    tickKept_setReg64 .cbg _ _ (tickKept_setReg .cbg _ _ (tickKept_setReg .plc _ _ (tickKept_setReg .asq _ _ h2)))
  have h4 : TickKept a s4 := tickKept_setReg .owl _ _ (tickKept_setReg .owl _ _ h3)
  exact tickKept_forAll _ (fun f _ h => tickKept_setReg (.fld f) _ _ (tickKept_setBits (.fld f) _ _ _ _ h)) h4

theorem tickKept_enterFault (h : TickKept a s) : TickKept a (enterFault s) := by
  unfold enterFault
  split
  · exact h
  lift_lets
  intro s1 s2 s3 s4 q s5 s6
  have h1 : TickKept a s1 := by
    unfold s1
    split
    · exact tickKept_midDone _ _ h
    · exact h
  have h2 : TickKept a s2 := tickKept_ite (tickKept_pinMarks (tickKept_applyCfg h1)) h1
  have h3 : TickKept a s3 := tickKept_setRec 0 (tickKept_recoveryCut h2)
  have h5 : TickKept a s5 := tickKept_asq _ (tickKept_ite (tickKept_dropData h3) h3)
  exact tickKept_setRun _ (tickKept_ite (tickKept_of h5 rfl rfl) h5)

theorem tickKept_moduleFault (h : TickKept a s) : TickKept a (moduleFault s) :=
  tickKept_ite h (tickKept_enterFault (tickKept_faultItem _ _ _ (tickKept_of h rfl rfl)))

theorem tickKept_trip (bit : Nat) (pg : Page) (eb : Nat) (h : TickKept a s) : TickKept a (trip bit pg eb s) :=
  tickKept_ite h (tickKept_moduleFault (tickKept_tripMarks _ _ _ h))

theorem tickKept_commitNow (h : TickKept a s) : TickKept a (commitNow s) := by
  have h1 := tickKept_applyCfg h
  have h2 := tickKept_ite (c := (!(applyCfg s).evc.pinFilt.testBit 0 && bitOf (cfgv (applyCfg s) .pwr 0x078) 0) = true)
    (tickKept_trip 6 .thm 6 h1) h1
  exact tickKept_ite (tickKept_ite (tickKept_trip 5 .thm 5 h2) h2) h

/-! Contract faults, tile faults and the recovery that follows (06 R188, 15 R430 to R441). -/

theorem tickKept_callHalt (h : TickKept a s) : TickKept a (callHalt s) :=
  tickKept_ite (tickKept_asq _ h) (tickKept_ite (tickKept_asq _ h) (tickKept_ite (tickKept_enterFault h) h))

theorem tickKept_recordCause (cause u v detail : Nat) (h : TickKept a s) : TickKept a (recordCause cause u v detail s) := by
  refine tickKept_of_reg h (fun o ho => recordCause_reg cause u v detail s o ?_) fun hl => (recordCause_loading ..).trans hl
  simp only [List.mem_cons, List.not_mem_nil, or_false] at ho
  omega

theorem tickKept_contractFault (cause u v detail : Nat) (h : TickKept a s) : TickKept a (contractFault cause u v detail s) := by
  have h1 := tickKept_bump .asq 0x07C 1 (tickKept_setErr .asq cause (tickKept_ite (c := (moving s && inImage s u v) = true)
    (tickKept_asq { s.asq with haltFrom := (u, v) :: s.asq.haltFrom } h) h))
  exact tickKept_faultItem _ _ _ (tickKept_asq _ (tickKept_callHalt (tickKept_recordCause _ _ _ _ h1)))

theorem tickKept_noteFault (h : TickKept a s) : TickKept a (noteFault s) :=
  tickKept_ite (tickKept_asq _ h) (tickKept_ite (tickKept_asq _ h) h)

theorem tickKept_recDetected (h : TickKept a s) : TickKept a (recDetected s) :=
  tickKept_setReg64 .asq _ _ (tickKept_setReg64 .asq _ _ h)

theorem tickKept_addSuspects (cause : Nat) (l : List (Nat × Nat)) (h : TickKept a s) : TickKept a (addSuspects cause l s) := by
  unfold addSuspects
  lift_lets
  intro l' r s1 sus q x s2 s3
  have h1 : TickKept a s1 := tickKept_forAll _ (fun _ _ h => tickKept_setTile _ _ _ h) h
  have h3 : TickKept a s3 := tickKept_setReg .asq 0x0B0 _ (tickKept_setBits .asq 0x0A8 _ _ _ (tickKept_asq _ h1))
  refine tickKept_ite ?_ h3
  clear_value s3 sus
  split
  · exact tickKept_recDetected (tickKept_setReg .asq 0x0AC _ h3)
  · exact h3

theorem tickKept_recoveryFailed (h : TickKept a s) : TickKept a (recoveryFailed s) := by
  have h1 := tickKept_setErr .asq 12 (tickKept_recoveryCut h)
  exact tickKept_setRec 7 (tickKept_setReg64 .asq 0x070 _ (tickKept_setReg .asq 0x06C _ (tickKept_setReg .asq 0x068 _ h1)))

theorem tickKept_startDiagnosis (h : TickKept a s) : TickKept a (startDiagnosis s) :=
  tickKept_ite (tickKept_recoveryFailed h) (tickKept_setRec 2 (tickKept_setBits .asq 0x0A8 _ _ _ (tickKept_asq _ h)))

theorem tickKept_afterStop (h : TickKept a s) : TickKept a (afterStop s) :=
  tickKept_ite (tickKept_recoveryFailed h) (tickKept_startDiagnosis h)

theorem tickKept_tileFault (cause : Nat) (l : List (Nat × Nat)) (h : TickKept a s) : TickKept a (tileFault cause l s) := by
  have h1 := tickKept_noteFault h
  have h2 := tickKept_callHalt (tickKept_addSuspects cause l h1)
  have h3 := tickKept_faultItem 1 cause l h2
  refine tickKept_ite h (tickKept_ite (tickKept_setRec 1 h3) (tickKept_ite ?_ (tickKept_ite ?_ h1)))
  · exact tickKept_ite h3 (tickKept_afterStop h3)
  · exact tickKept_callHalt (tickKept_faultItem 1 cause l h1)

theorem tickKept_slotColl (u v : Nat) (h : TickKept a s) : TickKept a (slotColl u v s) :=
  tickKept_ite h (tickKept_contractFault _ _ _ _ (tickKept_tileNetErr _ _ _ h))

theorem tickKept_queueOvf (u v : Nat) (h : TickKept a s) : TickKept a (queueOvf u v s) :=
  tickKept_ite h (tickKept_contractFault _ _ _ _ (tickKept_tileNetErr _ _ _ h))

end

end Sys2Proof.Machine
end

section
namespace Sys2Proof.Machine

set_option Elab.async false

section
variable {a s t : State}

/-! RUN_TICK and ASQ's errors through signals of setts, of far setts with their relays, and through sending over the links (07 R213,
R219, R220, 11 R341 to R348). -/

theorem tickKept_prtEvent (h : TickKept a s) : TickKept a (prtEvent s) := tickKept_bump .dbg _ _ (tickKept_of h rfl rfl)

theorem tickKept_signalTile (u v k : Nat) (tgt : Option Strm) (w : Signaller) (opIdx : Nat) (h : TickKept a s) :
    TickKept a (signalTile u v k tgt w opIdx s) := by
  unfold signalTile
  lift_lets
  intro t x r t1 s1
  have h1 : TickKept a s1 := by
    unfold s1
    split
    next st _ =>
      have ht := tickKept_setTile u v (setCtx st { getCtx t1 st with sleep := none, slept := 0 } t1) h
      exact tickKept_ite (tickKept_prtEvent ht) ht
    next => exact tickKept_setTile _ _ _ h
  exact tickKept_ite (tickKept_contractFault _ _ _ _ h1) h1

theorem tickKept_readyProgs (want : UProg → Bool) (h : TickKept a s) : TickKept a (readyProgs want s) := by
  unfold readyProgs
  split
  · exact h
  · exact tickKept_forAll _ (fun d _ h => tickKept_setDie d _ h) h

theorem tickKept_deliverSignal (u v : Nat) (f : Flit) {far : List Byte → State → State} (hf : ∀ b, TickKept a (far b s))
    (h : TickKept a s) : TickKept a (deliverSignal u v f far s) :=
  tickKept_ite (tickKept_setTile _ _ _ h) (tickKept_ite (tickKept_tileNetErr _ _ _ h)
    (tickKept_ite (hf _) (tickKept_signalTile _ _ _ _ _ _ h)))

/-- A control flit that crosses its route changes tiles until `dl` takes it: by induction on the hops. -/
theorem tickKept_crossCtl {dl : State → State} (hd : ∀ s, TickKept a s → TickKept a (dl s)) (k u v : Nat) (p : Port) (f : Flit)
    (fresh : Bool) (cyc : Nat) (h : TickKept a s) : TickKept a (crossCtl k u v p f fresh cyc dl s) := by
  induction k generalizing u v p fresh cyc s with
  | zero => exact h
  | succ k ih =>
    unfold crossCtl
    split
    · exact h
    · lift_lets
      intro t s1 t2 out w s2 b
      have h1 : TickKept a s1 := tickKept_ite (tickKept_setTile _ _ _ h) h
      have h2 : TickKept a s2 := tickKept_noteWait _ _ _ (tickKept_setTile u v { t2 with ctl := t2.ctl.erase (p, f) } h1)
      exact tickKept_ite h1 (tickKept_ite (hd _ h2) (ih _ _ _ _ _ (tickKept_charge _ _ _ h2)))

theorem tickKept_relayOnce (d : Die) (k : Fin 16) (h : TickKept a s) : TickKept a (relayOnce d k s) := by
  have hb := tickKept_bump (.fst d) (0x04C + 16 * k.val) 1 h
  unfold relayOnce
  refine tickKept_ite (tickKept_readyProgs _ hb) ?_
  split
  · exact hb
  · exact tickKept_ite (tickKept_crossCtl (fun _ h => tickKept_deliverSignal _ _ _ (fun _ => h) h) _ _ _ _ _ _ _ hb) hb

theorem tickKept_relayWhile (d : Die) (k : Fin 16) (fuel : Nat) (h : TickKept a s) : TickKept a (relayWhile d k fuel s) := by
  induction fuel generalizing s with
  | zero => exact h
  | succ fuel ih => exact tickKept_ite h (ih (tickKept_relayOnce d k (tickKept_setReg (.fst d) _ _ h)))

theorem tickKept_farSignal (d : Die) (k : Fin 16) (srcMod srcDie : Nat) (h : TickKept a s) :
    TickKept a (farSignal d k srcMod srcDie s) := by
  unfold farSignal
  lift_lets
  intro rel w c last s1
  have h1 : TickKept a s1 := tickKept_setReg (.fst d) _ _ h
  refine tickKept_ite h (tickKept_ite (tickKept_setErr _ _ (tickKept_bump (.fst d) _ _ h)) (tickKept_ite ?_ ?_))
  · exact tickKept_contractFault _ _ _ _ (tickKept_setErr _ _ (tickKept_setBits (.fst d) _ _ _ _ h1))
  · exact tickKept_relayWhile _ _ _ (tickKept_setReg (.fst d) _ _ h1)

theorem tickKept_sendDirect (p : Die) (f : LFrame) (h : TickKept a s) : TickKept a (sendDirect p f s) := by
  unfold sendDirect
  lift_lets
  intro w s1 l s2
  have h1 : TickKept a s1 := tickKept_ite (tickKept_prtEvent h) h
  have h2 : TickKept a s2 := tickKept_setLink p _ h1
  have h3 : ∀ n, TickKept a (countFlits p 0x07C n s2) := fun n => tickKept_ite h2 (tickKept_setReg64 (.lnk p) 0x07C _ h2)
  exact tickKept_of (h3 _) rfl rfl

theorem tickKept_xferSent (f : LFrame) (h : TickKept a s) : TickKept a (xferSent f s) := by
  unfold xferSent
  split
  · exact h
  · refine tickKept_ite h ?_
    split
    · exact h
    · exact tickKept_farSignal _ _ _ _ h

theorem tickKept_takeSeq {p : Die} {f : LFrame} (h : TickKept a s) (e : takeSeq p s = some (f, t)) : TickKept a t := by
  unfold takeSeq at e
  dsimp only at e
  split at e
  · cases e
  · split at e
    · cases e
    · obtain ⟨g, _, hg⟩ := Option.map_eq_some_iff.mp e
      cases hg
      exact tickKept_xferSent _ (tickKept_setLink p _ h)

theorem tickKept_pumpDirect (p : Die) (k : Nat) (h : TickKept a s) : TickKept a (pumpDirect p k s) := by
  induction k generalizing s with
  | zero => exact h
  | succ k ih =>
    unfold pumpDirect
    refine tickKept_ite h ?_
    split
    next f t e => exact ih (tickKept_sendDirect p f (tickKept_takeSeq h e))
    next => exact h

theorem tickKept_sendOn (p : Die) (f : LFrame) (h : TickKept a s) : TickKept a (sendOn p f s) := by
  unfold sendOn
  refine tickKept_ite (tickKept_sendDirect p f h) ?_
  split
  · exact h
  · exact tickKept_pumpDirect _ _ (tickKept_setLink _ _ (tickKept_setLink p _ h))

theorem tickKept_pumpAux (p : Die) (k : Nat) (h : TickKept a s) : TickKept a (pumpAux p k s) := by
  induction k generalizing s with
  | zero => exact h
  | succ k ih =>
    unfold pumpAux
    refine tickKept_ite h ?_
    split
    next f t e => exact ih (tickKept_sendOn p f (tickKept_takeSeq h e))
    next => exact h

theorem tickKept_sendTo (d : Die) (f : LFrame) (h : TickKept a s) : TickKept a (sendTo d f s) := by
  have hb := tickKept_bump (.lnk d) 0x070 1 h
  unfold sendTo
  split
  · exact hb
  · exact tickKept_ite hb (tickKept_ite h (tickKept_pumpAux _ _ (tickKept_setLink _ _ h)))

/-! Through the store, its codeword checks and the stage regions (09 R270, 11 R362). -/

theorem tickKept_hbmEcc (e : Ecc) (x : Nat) (h : TickKept a s) : TickKept a (hbmEcc e x s) := by
  cases e with
  | clean => exact h
  | corrected =>
    have h1 : TickKept a (bump (.hbm (hbmDie x) (stkCtl s (hbmDie x) (hbmStk x))) 0x04C s) := tickKept_bump (.hbm _ _) _ _ h
    exact tickKept_ite (tickKept_setErr _ _ (tickKept_of h1 rfl rfl)) (tickKept_of h1 rfl rfl)
  | uncorrectable =>
    refine tickKept_setErr _ _ (tickKept_setReg64 (.hbm _ _) _ _ (tickKept_bump (.hbm _ _) _ _ ?_))
    exact tickKept_of h rfl rfl

theorem tickKept_hbmTouch (x n : Nat) (h : TickKept a s) : TickKept a (hbmTouch x n s) := by
  have hm : TickKept a (meetFlaws x n s) :=
    tickKept_ite h (tickKept_foldl (fun _ e h => tickKept_hbmEcc e.2 _ h) _ (tickKept_of h rfl rfl))
  exact tickKept_ite h (tickKept_bump (.hbm _ _) _ _ hm)

theorem tickKept_regionTouch (r : Region) (gen off n : Nat) (h : TickKept a s) : TickKept a (regionTouch r gen off n s) :=
  tickKept_foldl (fun _ _ h => tickKept_hbmTouch _ _ h) _ (tickKept_hbmTouch _ _ h)

theorem tickKept_regionWrite (r : Region) (gen off : Nat) (bs : List Byte) (h : TickKept a s) :
    TickKept a (regionWrite r gen off bs s) :=
  tickKept_foldl (fun _ _ h => tickKept_hbmWrite _ _ h) _ (tickKept_hbmWrite _ _ h)

theorem tickKept_xferBad (p : Die) (n : Nat) (h : TickKept a s) : TickKept a (xferBad p n s) := by
  have h1 := tickKept_setErr .rdc 1 (tickKept_setErr (.lnk p) 6 (tickKept_bump (.lnk p) 0x078 1 h))
  have h2 := tickKept_setReg .rdc 0x064 0xFFFF (tickKept_setReg .rdc 0x060 (w32 (9 * 2 ^ 28 + n)) h1)
  exact tickKept_ite h2 (tickKept_of h2 rfl rfl)

theorem tickKept_xferPart (p : Die) (f : LFrame) (e : StageEnt) (n : Nat) (r : Region) (h : TickKept a s) :
    TickKept a (xferPart p f e n r s) := by
  have h1 := tickKept_regionWrite r (fieldLE f.body 4 4) (fieldLE f.body 8 8) (f.body.drop 16) h
  refine tickKept_ite h (tickKept_ite (tickKept_xferBad _ _ h) (tickKept_ite ?_ (tickKept_of h1 rfl rfl)))
  exact tickKept_farSignal _ _ _ _ (tickKept_of h1 rfl rfl)

theorem tickKept_xferIn (p : Die) (f : LFrame) (h : TickKept a s) : TickKept a (xferIn p f s) := by
  unfold xferIn
  split
  · exact h
  · dsimp only
    split
    · exact tickKept_xferBad _ _ h
    · split
      · exact tickKept_xferBad _ _ h
      · exact tickKept_xferPart _ _ _ _ _ h

theorem tickKept_stageCount (i : Img) (r : Region) (n : Nat) (h : TickKept a s) : TickKept a (stageCount i r n s) := by
  refine tickKept_foldl (fun s e h => ?_) _ h
  lift_lets
  intro x w fs s1 s2
  have h2 : TickKept a s2 := tickKept_of (tickKept_regionTouch r x.sent 0 e.1.size h) rfl rfl
  refine tickKept_ite (tickKept_of h rfl rfl) ?_
  split
  · exact h2
  · refine tickKept_ite ?_ (tickKept_forAll _ (fun _ _ h => tickKept_sendTo _ _ h) h2)
    exact tickKept_farSignal _ _ _ _ (tickKept_forAll _ (fun _ _ h => tickKept_xferIn _ _ h) h2)

theorem tickKept_regionBlock (i : Img) (r : Region) (off : Nat) (data : List Byte) (h : TickKept a s) :
    TickKept a (regionBlock i r off data s) := tickKept_stageCount _ _ _ (tickKept_regionWrite _ _ _ _ h)

theorem tickKept_sumpWrite (e : Die) (d : SumpTag) (r : Region) (off : Nat) (data : List Byte) (h : TickKept a s) :
    TickKept a (sumpWrite e d r off data s) := by
  unfold sumpWrite
  lift_lets
  intro x side s1 s2
  have h1 : TickKept a s1 := tickKept_ite h (tickKept_bump .plc _ _ h)
  exact tickKept_setDie _ _ (tickKept_regionWrite _ _ _ _ h1)

end

end Sys2Proof.Machine
end

section
namespace Sys2Proof.Machine

set_option Elab.async false

section
variable {a s t : State}

/-! RUN_TICK and ASQ's errors through a reduction: what the module retains, adds and sends (10 R297 to R318). -/

theorem tickKept_sendRed (m : Nat) (f : RFrame) (h : TickKept a s) : TickKept a (sendRed m f s) := by
  have h1 := tickKept_ite (c := prtLate s f.chan = true) (tickKept_prtEvent h) h
  unfold sendRed
  refine tickKept_ite h1 ?_
  split
  · exact h1
  · exact tickKept_ite h1 (tickKept_sendTo _ _ h1)

theorem tickKept_sendAll (ms : List Nat) (f : RFrame) (h : TickKept a s) : TickKept a (sendAll ms f s) :=
  tickKept_forAll _ (fun m _ h => tickKept_sendRed m f h) h

theorem tickKept_reduceItem (kind detail : Nat) (rn : Redn) (x y blk : Nat) (h : TickKept a s) :
    TickKept a (reduceItem kind detail rn x y blk s) := tickKept_ledgerItem _ _ h

theorem tickKept_touchKept (wide : Bool) (q : Kept) (h : TickKept a s) : TickKept a (touchKept wide q s) := by
  unfold touchKept
  split
  · exact h
  · exact tickKept_regionTouch _ _ _ _ h

/-- PRT_RES uses up one of its counts for each block that it spoils. -/
theorem tickKept_prtRes (c : Nat) (g : GBlock) (h : TickKept a s) : TickKept a (prtRes c g s).2 := by
  unfold prtRes
  dsimp only
  split
  · exact tickKept_prtEvent (tickKept_setReg .dbg 0x068 _ (tickKept_of h rfl rfl))
  · exact h

theorem tickKept_foldl_snd {α β : Type} {f : β × State → α → β × State} (hf : ∀ r x, TickKept a r.2 → TickKept a (f r x).2)
    (l : List α) {r : β × State} (h : TickKept a r.2) : TickKept a (l.foldl f r).2 := by
  induction l generalizing r with
  | nil => exact h
  | cons x l ih => exact ih (hf r x h)

theorem tickKept_prtResAll (c : Nat) (l : List (Nat × GBlock)) (h : TickKept a s) : TickKept a (prtResAll c l s).2 :=
  tickKept_foldl_snd (fun _ x h => tickKept_prtRes c x.2 h) l h

theorem tickKept_holdCount (b : Nat) (up : Bool) (h : TickKept a s) : TickKept a (holdCount b up s) :=
  tickKept_setReg (.red _) 0x05C _ h

theorem tickKept_compareCopy (rn : Redn) (x : Share) (bk b : Nat) (p q : GBlock) (h : TickKept a s) :
    TickKept a (compareCopy rn x bk b p q s) :=
  tickKept_ite h (tickKept_reduceItem _ _ _ _ _ _ (tickKept_setErr .rdc 3 (tickKept_bump .rdc 0x068 1 h)))

theorem tickKept_substitute (rn : Redn) (role : Nat) (x : Share) (bk b : Nat) (h : TickKept a s) :
    TickKept a (substitute rn role x bk b s) :=
  tickKept_ite h (tickKept_reduceItem _ _ _ _ _ _ (tickKept_bump .rdc 0x050 1 (tickKept_setAdd _ _ _ h)))

theorem tickKept_restartRed (rn : Redn) (role : Nat) (h : TickKept a s) : TickKept a (restartRed rn role s) :=
  tickKept_setAdd _ _ _ (tickKept_foldl (fun _ _ h => tickKept_foldl (fun _ _ h => tickKept_holdCount _ _ h) _ h) _ h)

theorem tickKept_resendRed (sh : List Share) (role : Nat) (rn : Redn) (check : Nat) (h : TickKept a s) :
    TickKept a (resendRed sh role rn check s) := by
  unfold resendRed
  lift_lets
  intro k n s1 q s2 s3
  have h2 : TickKept a s2 := tickKept_setAdd _ _ _ (tickKept_restartRed rn role h)
  refine tickKept_ite (tickKept_setErr .rdc 2 (tickKept_setChan _ _ h2)) (tickKept_sendAll _ _ ?_)
  exact tickKept_reduceItem _ _ _ _ _ _ (tickKept_bump .rdc 0x054 1 h2)

theorem tickKept_addFails (sh : List Share) (role : Nat) (rn : Redn) (b : Nat) (h : TickKept a s) :
    TickKept a (addFails sh role rn b s) :=
  tickKept_resendRed _ _ _ _ (tickKept_setErr (.red _) 2 (tickKept_bump (.red _) 0x04C 1 h))

theorem tickKept_addBlock (sh : List Share) (role : Nat) (rn : Redn) (part : Bool) (x : Share) (src b : Nat) (g : GBlock)
    (h : TickKept a s) : TickKept a (addBlock sh role rn part x src b g s).1 := by
  have h1 := tickKept_bump (.red (blockDie s b)) 0x040 1 h
  unfold addBlock
  dsimp only
  split
  · exact tickKept_addFails _ _ _ _ h1
  · exact tickKept_setAdd _ _ _ h1

theorem tickKept_freeHeld (k role : Nat) (x : Share) (b : Nat) (h : TickKept a s) : TickKept a (freeHeld k role x b s) :=
  tickKept_foldl (fun _ _ h => tickKept_holdCount _ _ h) _ (tickKept_setAdd _ _ _ h)

theorem tickKept_takeHeld (sh : List Share) (role : Nat) (rn : Redn) (x : Share) (b : Nat) (h : TickKept a s) :
    TickKept a (takeHeld sh role rn x b s).1 := by
  unfold takeHeld
  dsimp only
  split
  · exact h
  · refine tickKept_addBlock _ _ _ _ _ _ _ _ (tickKept_foldl (fun _ _ h => tickKept_compareCopy _ _ _ _ _ _ h) _ ?_)
    exact tickKept_substitute _ _ _ _ _ (tickKept_freeHeld _ _ _ _ h)

/-- One block at its adder: each way that it can go. -/
theorem tickKept_takeBlock (sh : List Share) (role : Nat) (rn : Redn) (wide part backup mark : Bool) (x : Share) (src b : Nat)
    (g : GBlock) (h : TickKept a s) : TickKept a (takeBlock sh role rn wide part backup mark x src b g s).1 := by
  unfold takeBlock
  lift_lets
  intro k q d key dead good s1 s2 s3 l
  have h1 : TickKept a s1 :=
    tickKept_setErr (.red d) 0 (tickKept_bump (.red d) _ _ h (by simp only [pageBase]; split <;> omega))
  have h2 : TickKept a s2 := by
    unfold s2
    split
    · exact tickKept_compareCopy _ _ _ _ _ _ h
    · exact h
  have h3 : TickKept a s3 := tickKept_foldl (fun _ _ h => tickKept_compareCopy _ _ _ _ _ _ h) _ (tickKept_freeHeld _ _ _ _ h)
  split
  · exact h
  split
  · split
    · exact h1
    split
    · split
      · exact tickKept_setAdd _ _ _ h1
      · exact tickKept_takeHeld _ _ _ _ _ h1
    · exact tickKept_resendRed _ _ _ _ h1
  split
  · exact tickKept_ite (tickKept_bump .rdc 0x06C 1 h2) h2
  split
  · exact tickKept_addBlock _ _ _ _ _ _ _ _ h3
  split
  · exact tickKept_addBlock _ _ _ _ _ _ _ _ (tickKept_substitute _ _ _ _ _ h)
  split
  · exact h
  · exact tickKept_holdCount _ _ (tickKept_setAdd _ _ _ h)

theorem tickKept_takeBlocks (sh : List Share) (role : Nat) (rn : Redn) (wide part backup mark : Bool) (x : Share) (src : Nat)
    (l : List (Nat × GBlock)) (h : TickKept a s) : TickKept a (takeBlocks sh role rn wide part backup mark x src l s) := by
  induction l generalizing s with
  | nil => exact h
  | cons y l ih =>
    have h1 := tickKept_takeBlock sh role rn wide part backup mark x src y.1 y.2 h
    exact tickKept_ite (ih h1) h1

theorem tickKept_sendBlocks (hdr : RFrame) (rn : Redn) (wide part : Bool) (dst : List Nat) (bl : List (Nat × GBlock))
    (h : TickKept a s) : TickKept a (sendBlocks hdr rn wide part dst bl s) :=
  tickKept_forAll _ (fun _ _ h => tickKept_sendAll _ _ h) h

theorem tickKept_sendRun (rn : Redn) (x : Share) (backup : Bool) (dst : List Nat) (h : TickKept a s) :
    TickKept a (sendRun rn x backup dst s) := by
  unfold sendRun
  lift_lets
  intro k r l b0 run s1 dst' s2 blocks hdr
  have h1 : TickKept a s1 := tickKept_setRed _ _ h
  have h2 : TickKept a s2 := tickKept_forAll _ (fun q _ h => tickKept_touchKept _ q h) h1
  exact tickKept_ite h (tickKept_ite h1 (tickKept_sendBlocks _ _ _ _ _ _ (tickKept_prtResAll _ _ h2)))

theorem tickKept_offerShare (ch : Chan) (sh : List Share) (x : Share) (backup : Bool) (l : List Redn) (h : TickKept a s) :
    TickKept a (offerShare ch sh x backup l s) := by
  induction l generalizing s with
  | nil => exact h
  | cons rn l ih =>
    have h1 := tickKept_sendRun rn x backup (contribTo ch sh x) h
    exact tickKept_ite (ih h1) h1

theorem tickKept_offerChan (p : Plan) (ch : Chan) (h : TickKept a s) : TickKept a (offerChan p ch s) :=
  tickKept_ite h (tickKept_forAll _ (fun _ _ h => tickKept_offerShare _ _ _ _ _ h) h)

theorem tickKept_takeOwn (ch : Chan) (sh : List Share) (rn : Redn) (h : TickKept a s) : TickKept a (takeOwn ch sh rn s) := by
  refine tickKept_forAll _ (fun x s h => ?_) h
  split
  · exact h
  · refine tickKept_ite h (tickKept_takeBlocks _ _ _ _ _ _ _ _ _ _ ?_)
    exact tickKept_forAll _ (fun q _ h => tickKept_touchKept _ q h) (tickKept_setAdd _ _ _ h)

theorem tickKept_flushPartials (ch : Chan) (sh : List Share) (role : Nat) (rn : Redn) (h : TickKept a s) :
    TickKept a (flushPartials ch sh role rn s) := by
  unfold flushPartials
  split
  · exact h
  · refine tickKept_ite h (tickKept_ite h ?_)
    split
    · exact tickKept_addFails _ _ _ _ h
    · exact tickKept_sendBlocks _ _ _ _ _ _ (tickKept_setAdd _ _ _ h)

theorem tickKept_flushRun (ch : Chan) (sh : List Share) (role : Nat) (l : List Redn) (h : TickKept a s) :
    TickKept a (flushRun ch sh role l s) := by
  induction l generalizing s with
  | nil => exact h
  | cons rn l ih =>
    have h1 := tickKept_flushPartials ch sh role rn h
    exact tickKept_ite (ih h1) h1

theorem tickKept_readySums (p : Plan) (rn : Redn) (b : State) (h : TickKept a s) : TickKept a (readySums p rn b s) := by
  unfold readySums
  split
  · exact h
  · exact tickKept_forAll _ (fun d _ h => tickKept_setDie d _ h) h

theorem tickKept_reportChan (p : Plan) (ch : Chan) (l : List Redn) (h : TickKept a s) : TickKept a (reportChan p ch l s) := by
  induction l generalizing s with
  | nil => exact h
  | cons rn l ih =>
    have h1 := tickKept_readySums p rn s (tickKept_setAdd (redKey ch.num rn.rseq) ch.home
      { addSt s (redKey ch.num rn.rseq) ch.home with reported := true } h)
    exact tickKept_ite h (tickKept_ite (ih h) (ih (tickKept_ite (tickKept_rdc _ h1) h1)))

theorem tickKept_logNumSat (rn : Redn) (role : Nat) (h : TickKept a s) : TickKept a (logNumSat rn role s) :=
  tickKept_ite h (tickKept_forAll _
    (fun _ _ h => tickKept_reduceItem _ _ _ _ _ _ (tickKept_setErr .rdc 4 (tickKept_bump .rdc 0x084 1 h))) h)

theorem tickKept_completeHome (p : Plan) (ch : Chan) (sh : List Share) (rn : Redn) (h : TickKept a s) :
    TickKept a (completeHome p ch sh rn s) := by
  unfold completeHome
  dsimp only
  split
  · exact tickKept_addFails _ _ _ _ h
  · exact tickKept_reportChan _ _ _ (tickKept_setAdd _ _ _ (tickKept_logNumSat _ _ h))

theorem tickKept_completeRun (p : Plan) (ch : Chan) (sh : List Share) (l : List Redn) (h : TickKept a s) :
    TickKept a (completeRun p ch sh l s) := by
  induction l generalizing s with
  | nil => exact h
  | cons rn l ih =>
    have h1 := tickKept_completeHome p ch sh rn h
    exact tickKept_ite (ih h) (tickKept_ite h (tickKept_ite (ih h1) h1))

theorem tickKept_setE (sh : List Share) (role : Nat) (rn : Redn) (h : TickKept a s) : TickKept a (setE sh role rn s) :=
  tickKept_ite (tickKept_setAdd _ _ _ h) h

theorem tickKept_moveHold (sh : List Share) (role : Nat) (rn : Redn) (h : TickKept a s) : TickKept a (moveHold sh role rn s) :=
  tickKept_ite h (tickKept_setAdd _ _ _ h)

theorem tickKept_progressRole (p : Plan) (ch : Chan) (role : Nat) (h : TickKept a s) : TickKept a (progressRole p ch role s) := by
  have h1 := tickKept_forAll (redsOf p ch) (fun rn _ h => tickKept_setE (sharesOf p ch) role rn h) h
  exact tickKept_forAll _ (fun rn _ h => tickKept_moveHold _ _ rn h)
    (tickKept_ite (tickKept_completeRun _ _ _ _ h1) (tickKept_flushRun _ _ _ _ h1))

theorem tickKept_progress (p : Plan) (ch : Chan) (h : TickKept a s) : TickKept a (progress p ch s) := by
  unfold progress
  lift_lets
  intro roles s1
  have h1 : TickKept a s1 := tickKept_ite h (tickKept_forAll _ (fun role _ h => tickKept_progressRole _ _ role h) h)
  clear_value s1 roles
  split
  · exact h1
  · exact tickKept_setChan _ _ h1

theorem tickKept_offerAll (p : Plan) (ch : Chan) (h : TickKept a s) : TickKept a (offerAll p ch s) := by
  have round : ∀ s, TickKept a s → TickKept a (offerRound p ch s) := fun s h =>
    tickKept_progress _ _ (tickKept_forAll _ (fun rn _ h => tickKept_takeOwn _ _ rn h) (tickKept_offerChan p ch h))
  exact round _ (round s h)

theorem tickKept_widenRed (p : Plan) (ch : Chan) (rn : Redn) (h : TickKept a s) : TickKept a (widenRed p ch rn s) := by
  unfold widenRed
  lift_lets
  intro sh k s1 r s2 c s3 s4 all s5
  have h1 : TickKept a s1 := tickKept_forAll _ (fun role _ h => tickKept_restartRed rn role h) h
  have h4 : TickKept a s4 :=
    tickKept_reduceItem _ _ _ _ _ _ (tickKept_bump .rdc 0x058 1 (tickKept_setChan _ _ (tickKept_setRed _ _ h1)))
  exact tickKept_ite h (tickKept_offerAll _ _ (tickKept_ite (tickKept_sendAll _ _ h4) h4))

theorem tickKept_takeFrame (p : Plan) (ch : Chan) (rn : Redn) (role : Nat) (f : RFrame) (wide part : Bool) (h : TickKept a s) :
    TickKept a (takeFrame p ch rn role f wide part s) := by
  unfold takeFrame
  dsimp only
  split
  · exact h
  · refine tickKept_ite h (tickKept_ite (tickKept_widenRed _ _ _ h) (tickKept_offerAll _ _ ?_))
    exact tickKept_takeBlocks _ _ _ _ _ _ _ _ _ _ (tickKept_ite (tickKept_setAdd _ _ _ h) h)

theorem tickKept_drainQueue (p : Plan) (ch : Chan) (n : Nat) (h : TickKept a s) : TickKept a (drainQueue p ch n s) := by
  induction n generalizing s with
  | zero => exact h
  | succ n ih =>
    unfold drainQueue
    refine tickKept_ite h ?_
    split
    · exact h
    next f _ =>
      have h1 := tickKept_rdc { s.rdc with queue := s.rdc.queue.erase f } h
      dsimp only
      split
      · exact tickKept_ite (ih (tickKept_bump .rdc 0x070 1 h1)) (ih (tickKept_takeFrame _ _ _ _ _ _ _ h1))
      · exact ih h1

/-! A gradient block becomes this module's contribution (09 R280, 10 R309 to R312). -/

theorem tickKept_touchX (rn : Redn) (b : Nat) (h : TickKept a s) : TickKept a (touchX rn b s) := by
  unfold touchX
  split
  · exact tickKept_regionTouch _ _ _ _ h
  · exact h

theorem tickKept_storeKept (z : Option (Region × Nat)) (bs : List Byte) (h : TickKept a s) : TickKept a (storeKept z bs s) := by
  unfold storeKept
  split
  · exact tickKept_regionWrite _ _ _ _ h
  · exact h

theorem tickKept_collectShare (d : Die) (p : Plan) (ch : Chan) (rn : Redn) (b : Nat) (vals : List W32) (x : Share)
    (backup : Bool) (h : TickKept a s) : TickKept a (collectShare d p ch rn b vals x backup s) := by
  unfold collectShare
  lift_lets
  intro k s1 xg c8 c16 mk sat sat8 s2 used full s3 stored g8 g16 own ovf s4 pos q old r s5 s6
  have h1 : TickKept a s1 := tickKept_touchX rn b h
  have h2 : TickKept a s2 := tickKept_ite (tickKept_bump (.red d) 0x050 1 h1) h1
  have h3 : TickKept a s3 := tickKept_ite (tickKept_setErr (.red d) 1 (tickKept_bump (.red d) 0x058 1 h2))
    (tickKept_ite (tickKept_setReg (.red d) 0x054 _ h2) h2)
  have h5 : TickKept a s5 := tickKept_rdc _ (tickKept_storeKept _ _ (tickKept_storeKept _ _ h3))
  exact tickKept_drainQueue _ _ _ (tickKept_offerAll _ _ (tickKept_ite (tickKept_widenRed _ _ _ h5) h5))

theorem tickKept_collectBlock (d : Die) (p : Plan) (ch : Chan) (rn : Redn) (b : Nat) (vals : List W32) (h : TickKept a s) :
    TickKept a (collectBlock d p ch rn b vals s) := by
  unfold collectBlock
  split
  · exact h
  · exact tickKept_ite h (tickKept_collectShare _ _ _ _ _ _ _ _ h)

theorem tickKept_gradientBlock (e : Die) (g : TagEntry) (bus : Bus) (b : FsBlock) (h : TickKept a s) :
    TickKept a (gradientBlock e g bus b s) := by
  refine tickKept_ite (tickKept_asq _ (tickKept_setErr (.edg e) 4 (tickKept_bump (.edg e) 0x054 1 h))) ?_
  split
  · exact h
  · dsimp only
    split
    · exact tickKept_collectBlock _ _ _ _ _ _ h
    · exact h

end

end Sys2Proof.Machine
end

section
namespace Sys2Proof.Machine

set_option Elab.async false

section
variable {a s t : State}

/-! RUN_TICK and ASQ's errors through what a tick still has under way at its end: Owl windows, HALTs, combines and the blocks at taps
(04 R111, 05 R129, R142, R154, R155). -/

theorem tickKept_tapFull (i : Img) (u v : Nat) (h : TickKept a s) : TickKept a (tapFull i u v s) :=
  tickKept_ite (tickKept_slotColl _ _ h) (tickKept_queueOvf _ _ h)

theorem tickKept_park (i : Img) (u v port : Nat) (b : FsBlock) (h : TickKept a s) : TickKept a (park i u v port b s) :=
  tickKept_ite (tickKept_tapFull _ _ _ h) (tickKept_setTile _ _ _ h)

theorem tickKept_tapFault (i : Img) (bus : Bus) (k : Nat) (prev : Option Nat) (poisoned : Bool) (h : TickKept a s) :
    TickKept a (tapFault i bus k prev poisoned s) := by
  have h1 := tickKept_tileNetErr (tapTile i bus k).1 (tapTile i bus k).2 0x6C h
  refine tickKept_ite h1 ?_
  split
  · exact tickKept_tileFault _ _ h1
  · exact tickKept_callHalt (tickKept_faultItem _ _ _ h1)

/-- A block whose tag or place no table holds is a fault of its bus. -/
theorem tickKept_unknownBlock (e : Die) (l : List (Nat × Nat)) (h : TickKept a s) :
    TickKept a (tileFault 3 l (setErr (.edg e) 2 (bump (.edg e) 0x058 s))) :=
  tickKept_tileFault _ _ (tickKept_setErr _ _ (tickKept_bump _ _ _ h))

theorem tickKept_collect (bus : Bus) (b : FsBlock) (h : TickKept a s) : TickKept a (collect bus b s) := by
  unfold collect
  split
  · exact h
  split
  · exact h
  lift_lets
  intro unknown s1
  have h1 : TickKept a s1 := tickKept_setDie _ _ h
  have hu : TickKept a (unknown s1) := tickKept_unknownBlock _ _ h1
  refine tickKept_ite (tickKept_tileFault _ _ h1) (tickKept_ite ?_ ?_)
  · split
    · split
      · exact tickKept_ite (tickKept_sumpWrite _ _ _ _ _ h1) hu
      · exact hu
    · exact hu
  · split
    · split
      · exact tickKept_gradientBlock _ _ _ _ h1
      · exact tickKept_regionBlock _ _ _ _ h1
      · exact hu
    · exact hu

theorem tickKept_walkOut (i : Img) (bus : Bus) (n : Nat) (b : FsBlock) (h : TickKept a s) : TickKept a (walkOut i bus n b s) := by
  induction n using Nat.strong_induction_on generalizing b s with
  | _ n ih =>
    unfold walkOut
    lift_lets
    intro c t next
    have hn : ∀ b s, TickKept a s → TickKept a (next b s) := by
      intro b s h
      cases n with
      | zero => exact tickKept_collect bus b h
      | succ m => exact ih m (Nat.lt_succ_self m) b h
    refine tickKept_ite (tickKept_tapFault _ _ _ _ _ h) ?_
    split
    · exact hn _ _ h
    refine tickKept_ite (hn _ _ (tickKept_tileNetErr _ _ _ h)) ?_
    split
    · exact hn _ _ (tickKept_setTile _ _ _ h)
    · exact tickKept_ite (tickKept_park _ _ _ _ _ h) (tickKept_ite (tickKept_slotColl _ _ h) (hn _ _ h))

theorem tickKept_tapsAtEnd (h : TickKept a s) : TickKept a (tapsAtEnd s) := by
  unfold tapsAtEnd
  split
  · exact h
  · refine tickKept_forAll _ (fun p s h => tickKept_forAll _ (fun e s h => ?_) h) h
    have hd := tickKept_setTile p.1 p.2 { tile s p.1 p.2 with fsIn := (tile s p.1 p.2).fsIn.erase e } h
    exact tickKept_ite (tickKept_ite hd (tickKept_walkOut _ _ _ _ hd)) (tickKept_ite (tickKept_slotColl _ _ hd) h)

theorem tickKept_combineDown (u v idx flags cyc : Nat) (mx : List W32) (h : TickKept a s) :
    TickKept a (combineDown u v idx flags cyc mx s) := by
  cases hi : s.image with
  | none => rw [combineDown]; simp only [hi]; exact h
  | some i =>
    obtain ⟨⟨m, e⟩, -⟩ := combineDown_spec hi u v idx flags cyc mx
    rw [e]
    exact tickKept_of h rfl rfl

theorem tickKept_combineDone (idx flags cyc : Nat) (mx : List W32) (h : TickKept a s) :
    TickKept a (combineDone idx flags cyc mx s) := by
  unfold combineDone
  split
  · exact tickKept_combineDown _ _ _ _ _ _ h
  · exact h

theorem tickKept_combineAt (k u v : Nat) (p : Port) (idx flags cyc : Nat) (mx : List W32) (h : TickKept a s) :
    TickKept a (combineAt k u v p idx flags cyc mx s) := by
  induction k generalizing u v p flags cyc mx s with
  | zero => exact h
  | succ k ih =>
    rw [combineAt]
    split
    · exact h
    · refine tickKept_ite (tickKept_setTile _ _ _ h) ?_
      have h1 := fun x => tickKept_setTile u v x h
      dsimp only
      split
      · exact tickKept_combineDone _ _ _ _ (h1 _)
      · exact ih _ _ _ _ _ _ (tickKept_charge _ _ _ (tickKept_noteWait _ _ _ (h1 _)))

theorem tickKept_combinesGoOn (h : TickKept a s) : TickKept a (combinesGoOn s) := by
  unfold combinesGoOn
  split
  · exact h
  · exact tickKept_forAll _ (fun p _ h => tickKept_forAll _ (fun _ _ h => tickKept_combineAt _ _ _ _ _ _ _ _ h) h) h

theorem tickKept_windowEndTile (i : Img) (p : Nat × Nat) (h : TickKept a s) : TickKept a (windowEndTile i p s) := by
  unfold windowEndTile
  dsimp only
  split
  · exact h
  · exact tickKept_ite (tickKept_setTile _ _ _ h) (tickKept_setErr _ _ (tickKept_bump _ _ _ (tickKept_setTile _ _ _ h)))

theorem tickKept_windowEndAll (i : Img) (h : TickKept a s) : TickKept a (windowEndAll i s) :=
  tickKept_ite (tickKept_forAll _ (fun _ _ h => tickKept_windowEndTile _ _ h) h) h

theorem tickKept_haltTokens (i : Img) (h : TickKept a s) : TickKept a (haltTokens i s) := by
  unfold haltTokens
  lift_lets
  intro s1 s2 s3
  have h1 : TickKept a s1 := tickKept_mapTiles _ h
  have h2 : TickKept a s2 := tickKept_forAll _ (fun _ _ h => tickKept_charge _ _ _ h) h1
  have h3 : TickKept a s3 := tickKept_forAll _ (fun _ _ h => tickKept_charge _ _ _ h) h2
  exact tickKept_ite h1 (tickKept_asq _ h3)

/-- What the tick that ends still has under way, in the order of R162. -/
def underWayEnded (i : Img) (s : State) : State := tapsAtEnd (combinesGoOn (haltTokens i (windowEndAll i s)))

theorem tickKept_underWayEnded (i : Img) (h : TickKept a s) : TickKept a (underWayEnded i s) :=
  tickKept_tapsAtEnd (tickKept_combinesGoOn (tickKept_haltTokens i (tickKept_windowEndAll i h)))

/-! … through the checks of the work, the tokens and the fields (06 R161, R173 to R175). -/

theorem tickKept_overrunCheck (i : Img) (h : TickKept a s) : TickKept a (overrunCheck i s) := by
  unfold overrunCheck
  split
  · exact tickKept_contractFault _ _ _ _ h
  · exact h

theorem tickKept_tokenCheck (i : Img) (p : Nat × Nat) (h : TickKept a s) : TickKept a (tokenCheck i p s) := by
  unfold tokenCheck
  lift_lets
  intro t lowered s1
  have low : ∀ n m s, TickKept a s → TickKept a (lowered n m s) := fun _ _ _ h => tickKept_ite (tickKept_prtEvent h) h
  have h1 : TickKept a s1 := tickKept_ite (low _ _ _ (tickKept_contractFault _ _ _ _ (tickKept_setTile _ _ _ h))) h
  exact tickKept_ite (low _ _ _ (tickKept_contractFault _ _ _ _ h1)) h1

theorem tickKept_fieldTokens (i : Img) (h : TickKept a s) : TickKept a (fieldTokens i s) := by
  unfold fieldTokens
  split
  · exact h
  · exact tickKept_forAll _ (fun f _ h => tickKept_ite h (tickKept_setReg (.fld f) _ _ h)) h

/-- The checks of the tick that ends: its work, then the tokens of every tile and of the fields. -/
def tickChecked (i : Img) (s : State) : State :=
  fieldTokens i (forAll (imageTiles i) (tokenCheck i) (overrunCheck i s))

theorem tickKept_tickChecked (i : Img) (h : TickKept a s) : TickKept a (tickChecked i s) :=
  tickKept_fieldTokens i (tickKept_forAll _ (fun p _ h => tickKept_tokenCheck i p h) (tickKept_overrunCheck i h))

/-! … through a halt that is due and the choice of the next record (06 R162, R181, 15 R441, R448). -/

theorem tickKept_clearAttempt (unit : Nat) (h : TickKept a s) : TickKept a (clearAttempt unit s) := by
  unfold clearAttempt
  split
  · exact h
  · exact tickKept_forAll _ (fun _ _ h => tickKept_setTile _ _ _ h) h

theorem tickKept_undecided (h : TickKept a s) : TickKept a (undecided s) :=
  tickKept_forAll _ (fun _ _ h => tickKept_asq _ (tickKept_clearAttempt _ (tickKept_asq _ (tickKept_ledgerItemOf _ _ _ h)))) h

theorem tickKept_hbmStop (x : Nat) (h : TickKept a s) : TickKept a (hbmStop x s) := by
  unfold hbmStop
  split
  · exact h
  · exact tickKept_ite (tickKept_setRec _ h)
      (tickKept_recordCause _ _ _ _ (tickKept_setErr _ _ (tickKept_setReg64 (.hbm _ _) _ _ h)))

theorem tickKept_haltOutcome (contract : Bool) (h : TickKept a s) : TickKept a (haltOutcome contract s) := by
  unfold haltOutcome
  refine tickKept_ite (tickKept_ite (tickKept_setRec _ (tickKept_of h rfl rfl)) (tickKept_afterStop h)) ?_
  split
  · exact tickKept_ite h (tickKept_hbmStop _ h)
  · exact h

theorem tickKept_dropImage (h : TickKept a s) : TickKept a (dropImage s) :=
  tickKept_setRec _ (tickKept_setReg .asq _ _ (tickKept_setReg .asq _ _ (tickKept_setReg .asq _ _
    (tickKept_dropData (tickKept_recoveryCut h)))))

theorem tickKept_startScrub (why : ScrubFor) (h : TickKept a s) : TickKept a (startScrub why s) :=
  tickKept_of (t := startScrub why s) (tickKept_eraseKeys (tickKept_of (t := { s with scrub := .running, scrubFor := some why }) h rfl rfl))
    rfl rfl

theorem tickKept_arrayResetStart (h : TickKept a s) : TickKept a (arrayResetStart s) :=
  tickKept_ite (tickKept_startScrub _ h) (tickKept_dropImage h)

theorem tickKept_applyHalt (h : TickKept a s) : TickKept a (applyHalt s) := by
  unfold applyHalt
  lift_lets
  intro contract s1 q s2 s3
  have h2 : TickKept a s2 := tickKept_asq _ (tickKept_undecided h)
  have h3 : TickKept a s3 := tickKept_setRun _ h2
  refine tickKept_ite (tickKept_moduleFault h2) ?_
  split
  · exact tickKept_haltOutcome _ (tickKept_midDone _ _ h3)
  · exact tickKept_arrayResetStart h3
  · exact tickKept_haltOutcome _ h3

theorem tickKept_settle (i : Img) (k : Nat) (h : TickKept a s) : TickKept a (settle i k s) := by
  induction k generalizing s with
  | zero => exact h
  | succ k ih =>
    rw [settle]
    refine tickKept_ite h ?_
    split
    · exact ih (tickKept_asq _ h)
    · exact tickKept_ite (ih (tickKept_asq _ (tickKept_bump .asq _ _ (tickKept_asq _ h)))) h

theorem tickKept_nextPos (i : Img) (h : TickKept a s) : TickKept a (nextPos i s) := by
  unfold nextPos
  refine tickKept_ite h ?_
  split
  · split <;> exact tickKept_asq _ h
  · exact tickKept_ite (tickKept_asq _ h) h

theorem tickKept_beginProgram (i : Img) (h : TickKept a s) : TickKept a (beginProgram i s) :=
  tickKept_settle _ _ (tickKept_asq _ (tickKept_asq _ h))

theorem tickKept_saveSetts (unit : Nat) (h : TickKept a s) : TickKept a (saveSetts unit s) := by
  unfold saveSetts
  split
  · exact h
  · exact tickKept_asq _ h

theorem tickKept_beginTick (i : Img) (h : TickKept a s) : TickKept a (beginTick i s) := by
  unfold beginTick
  lift_lets
  intro q1 s1 named asleep held q2 s2 q3 tr s3 s4
  have h2 : TickKept a s2 := tickKept_asq _ (tickKept_asq _ h)
  have h4 : TickKept a s4 := tickKept_forAll _ (fun _ _ h => tickKept_saveSetts _ h) (tickKept_mapTiles _ h2)
  refine tickKept_ite (tickKept_setReg .asq _ _ (tickKept_asq _ h2)) ?_
  split
  · exact tickKept_setReg .asq _ _ (tickKept_ite (tickKept_bump .asq _ _ (tickKept_asq _ h4)) h4)
  · exact tickKept_setReg .asq _ _ h4

theorem tickKept_selectNext (h : TickKept a s) : TickKept a (selectNext s) := by
  unfold selectNext
  split
  · exact h
  next i _ =>
    have h1 : TickKept a (settleAll i (nextPos i s)) := tickKept_settle _ _ (tickKept_nextPos i h)
    have h2 := tickKept_ite (c := mayBegin (settleAll i (nextPos i s)) i = true) (tickKept_beginProgram i h1) h1
    exact tickKept_beginTick _ (tickKept_ite (tickKept_mapTiles _ h2) h2)

end

end Sys2Proof.Machine
end

section
namespace Sys2Proof.Machine

set_option Elab.async false

/-! The end of a tick (06 R163). -/

/-- RUN_TICK goes on by 1 when the totals of a tick move to the latest complete one. -/
theorem endTick_tick (s : State) : runTick (endTick s) = (runTick s + 1) % 2 ^ 64 := by
  unfold endTick
  lift_lets
  intro detour age top ran stall s1 s2 s3 s4
  have h1 : runTick s2 = runTick s := rfl
  have h3 : runTick s3 = (runTick s + 1) % 2 ^ 64 := by
    show runTick (setReg64 .asq 0x04C (runTick s2 + 1) s2) = _
    rw [h1]
    unfold runTick reg64 setReg64
    rw [reg_setReg_same, reg_setReg_off _ _ _ (by omega), reg_setReg_same]
    unfold loW hiW
    rw [BitVec.toNat_ofNat, BitVec.toNat_ofNat, Nat.shiftRight_eq_div_pow]
    omega
  have h4 : TickKept s3 s4 := tickKept_ite (tickKept_bump .asq _ _ (tickKept_refl s3)) (tickKept_refl s3)
  exact h4.tick.trans h3

theorem endTick_errs (s : State) : reg (endTick s) .asq 0x010 = reg s .asq 0x010 := by
  unfold endTick
  lift_lets
  intro detour age top ran stall s1 s2 s3 s4
  have h3 : reg s3 .asq 0x010 = reg s2 .asq 0x010 := by
    show reg (setReg64 .asq 0x04C _ s2) .asq 0x010 = _
    unfold setReg64
    rw [reg_setReg_off _ _ _ (by omega), reg_setReg_off _ _ _ (by omega)]
  have h4 : reg s4 .asq 0x010 = reg s3 .asq 0x010 := by
    show reg (if stall = true then _ else _) .asq 0x010 = _
    split
    · exact reg_bump_off _ _ _ (by omega)
    · rfl
  exact h4.trans h3

/-! A module that goes on as it was: what the choice of the next record and a halt leave alone. -/

/-- The data, accumulators, setts and operations of a tile are as they were. -/
def WorkKept (t t' : Tile) : Prop := t'.sram = t.sram ∧ t'.acc = t.acc ∧ t'.setts = t.setts ∧ t'.ops = t.ops

/-- From `a` to `t` the run state stays, with the halt, the configuration and the command that wait. -/
structure ModeKept (a t : State) : Prop where
  run : t.run = a.run
  halt : t.asq.haltPend = a.asq.haltPend
  cfg : t.pendCfg = a.pendCfg
  stuck : t.stuck = a.stuck
  busy : t.busy = a.busy

/-- From `a` to `t` the mode stays, the parameter store, the links and the work of every tile. -/
structure RunsOn (a t : State) : Prop where
  mode : ModeKept a t
  hbm : t.hbm = a.hbm
  links : t.links = a.links
  work : ∀ k, WorkKept (mget Tile.blank a.tiles k) (mget Tile.blank t.tiles k)

theorem workKept_refl (t : Tile) : WorkKept t t := ⟨rfl, rfl, rfl, rfl⟩

theorem workKept_trans {t t' t'' : Tile} (h : WorkKept t t') (g : WorkKept t' t'') : WorkKept t t'' := by
  obtain ⟨h1, h2, h3, h4⟩ := h
  obtain ⟨g1, g2, g3, g4⟩ := g
  exact ⟨g1.trans h1, g2.trans h2, g3.trans h3, g4.trans h4⟩

theorem modeKept_refl (a : State) : ModeKept a a := ⟨rfl, rfl, rfl, rfl, rfl⟩

theorem modeKept_trans {a b c : State} (h : ModeKept a b) (g : ModeKept b c) : ModeKept a c :=
  ⟨g.run.trans h.run, g.halt.trans h.halt, g.cfg.trans h.cfg, g.stuck.trans h.stuck, g.busy.trans h.busy⟩

theorem runsOn_refl (a : State) : RunsOn a a := ⟨modeKept_refl a, rfl, rfl, fun _ => workKept_refl _⟩

theorem runsOn_trans {a b c : State} (h : RunsOn a b) (g : RunsOn b c) : RunsOn a c :=
  ⟨modeKept_trans h.mode g.mode, g.hbm.trans h.hbm, g.links.trans h.links, fun k => workKept_trans (h.work k) (g.work k)⟩

section
variable {a s t : State}

theorem modeKept_ite {c : Prop} [Decidable c] (h : ModeKept a s) (g : ModeKept a t) : ModeKept a (if c then s else t) := by
  split <;> assumption

theorem runsOn_ite {c : Prop} [Decidable c] (h : RunsOn a s) (g : RunsOn a t) : RunsOn a (if c then s else t) := by
  split <;> assumption

/-- A change of the registers and of the sequencer that leaves a halt that waits. -/
theorem runsOn_asq (h : RunsOn a s) {r : SMap W32} {q : Asq} (hq : q.haltPend = s.asq.haltPend) :
    RunsOn a { s with regs := r, asq := q } :=
  runsOn_trans h ⟨⟨rfl, hq, rfl, rfl, rfl⟩, rfl, rfl, fun _ => workKept_refl _⟩

theorem runsOn_setReg (pg : Page) (o : Nat) (v : W32) (h : RunsOn a s) : RunsOn a (setReg pg o v s) := runsOn_asq h rfl

theorem runsOn_bump (pg : Page) (o n : Nat) (h : RunsOn a s) : RunsOn a (bump pg o s n) := runsOn_ite h (runsOn_setReg _ _ _ h)

theorem runsOn_mapTiles {f : Tile → Tile} (hf : ∀ t, WorkKept t (f t)) (h : RunsOn a s) : RunsOn a (mapTiles f s) := by
  refine runsOn_trans h ⟨⟨rfl, rfl, rfl, rfl, rfl⟩, rfl, rfl, fun k => ?_⟩
  show WorkKept _ (mget Tile.blank (mmap Tile.blank f s.tiles) k)
  rw [mget_mmap]
  split
  · exact hf _
  next none =>
    have blank : mget Tile.blank s.tiles k = Tile.blank := by
      rw [mget, Option.not_isSome_iff_eq_none.1 none]
      rfl
    rw [blank]
    exact workKept_refl _

/-! The choice of the next record (06 R181, R201). -/

theorem runsOn_passTo (i : Img) (k : Nat) (h : RunsOn a s) : RunsOn a (passTo i k s) := runsOn_asq h rfl

theorem runsOn_settle (i : Img) (k : Nat) (h : RunsOn a s) : RunsOn a (settle i k s) := by
  induction k generalizing s with
  | zero => exact h
  | succ k ih =>
    rw [settle]
    refine runsOn_ite h ?_
    split
    · exact ih (runsOn_asq h rfl)
    · exact runsOn_ite (ih (runsOn_passTo _ _ (runsOn_bump _ _ _ (runsOn_asq h rfl)))) h

theorem runsOn_nextPos (i : Img) (h : RunsOn a s) : RunsOn a (nextPos i s) := by
  unfold nextPos
  refine runsOn_ite h ?_
  split
  · split <;> exact runsOn_asq h rfl
  · exact runsOn_ite (runsOn_passTo _ _ h) h

theorem runsOn_beginProgram (i : Img) (h : RunsOn a s) : RunsOn a (beginProgram i s) :=
  runsOn_settle _ _ (runsOn_passTo _ _ (runsOn_asq h rfl))

theorem runsOn_saveSetts (unit : Nat) (h : RunsOn a s) : RunsOn a (saveSetts unit s) := by
  unfold saveSetts
  split
  · exact h
  · exact runsOn_asq h rfl

theorem runsOn_forAll {α : Type} {f : α → State → State} (hf : ∀ x s, RunsOn a s → RunsOn a (f x s)) (l : List α)
    (h : RunsOn a s) : RunsOn a (forAll l f s) := by
  unfold forAll
  induction l generalizing s with
  | nil => exact h
  | cons x l ih => exact ih (hf x s h)

theorem runsOn_beginTick (i : Img) (h : RunsOn a s) : RunsOn a (beginTick i s) := by
  unfold beginTick
  lift_lets
  intro q1 s1 named asleep held q2 s2 q3 tr s3 s4
  have h2 : RunsOn a s2 := runsOn_asq h rfl
  have h3 : RunsOn a s3 := runsOn_mapTiles (fun t => ⟨rfl, rfl, rfl, rfl⟩) h2
  have h4 : RunsOn a (forAll (startingUnits s3 i) saveSetts s3) := runsOn_forAll (fun u _ h => runsOn_saveSetts u h) _ h3
  refine runsOn_ite (runsOn_setReg _ _ _ (runsOn_asq h2 rfl)) ?_
  split
  · exact runsOn_setReg _ _ _ (runsOn_ite (runsOn_bump _ _ _ (runsOn_asq h4 rfl)) h4)
  · exact runsOn_setReg _ _ _ h4

theorem runsOn_selectNext (h : RunsOn a s) : RunsOn a (selectNext s) := by
  unfold selectNext
  split
  · exact h
  next i _ =>
    have h1 : RunsOn a (settleAll i (nextPos i s)) := runsOn_settle _ _ (runsOn_nextPos i h)
    have h2 := runsOn_ite (c := mayBegin (settleAll i (nextPos i s)) i = true) (runsOn_beginProgram i h1) h1
    exact runsOn_beginTick _ (runsOn_ite (runsOn_mapTiles (fun t => ⟨rfl, rfl, rfl, rfl⟩) h2) h2)

theorem runsOn_endTick (h : RunsOn a s) : RunsOn a (endTick s) := by
  unfold endTick
  lift_lets
  intro detour age top ran stall s1 s2 s3 s4
  have h1 : RunsOn a s1 := runsOn_mapTiles (fun t => ⟨rfl, rfl, rfl, rfl⟩) h
  have h2 : RunsOn a s2 := runsOn_trans h1 ⟨⟨rfl, rfl, rfl, rfl, rfl⟩, rfl, rfl, fun _ => workKept_refl _⟩
  have h4 : RunsOn a s4 := runsOn_ite (runsOn_bump _ _ _ (runsOn_setReg _ _ _ (runsOn_setReg _ _ _ h2)))
    (runsOn_setReg _ _ _ (runsOn_setReg _ _ _ h2))
  exact runsOn_asq h4 rfl

end

end Sys2Proof.Machine
end

section
namespace Sys2Proof.Machine

set_option Elab.async false

section
variable {a s t : State}

/-! A halt that is due (06 R162, 14 R420, 15 R441, R448): what follows the stop keeps the module in Halt. -/

theorem modeKept_asq (h : ModeKept a s) {q : Asq} (hq : q.haltPend = s.asq.haltPend) : ModeKept a { s with asq := q } :=
  modeKept_trans h ⟨rfl, hq, rfl, rfl, rfl⟩

theorem modeKept_setReg (pg : Page) (o : Nat) (v : W32) (h : ModeKept a s) : ModeKept a (setReg pg o v s) :=
  modeKept_trans h ⟨rfl, rfl, rfl, rfl, rfl⟩

theorem modeKept_setTile (u v : Nat) (x : Tile) (h : ModeKept a s) : ModeKept a (setTile u v x s) :=
  modeKept_trans h ⟨rfl, rfl, rfl, rfl, rfl⟩

theorem modeKept_setUnit (k : Nat) (x : UnitSt) (h : ModeKept a s) : ModeKept a (setUnit k x s) :=
  modeKept_trans h ⟨rfl, rfl, rfl, rfl, rfl⟩

theorem modeKept_ledger (h : ModeKept a s) (e : LedgerOnly s t) : ModeKept a t := by
  obtain ⟨_, _, _, _, _, _, _, _, _, _, _, _, rfl, -⟩ := e
  exact modeKept_trans h ⟨rfl, rfl, rfl, rfl, rfl⟩

theorem modeKept_setErr (pg : Page) (k : Nat) (h : ModeKept a s) : ModeKept a (setErr pg k s) := by
  refine modeKept_trans h ⟨?_, ?_, ?_, ?_, ?_⟩ <;> simp

theorem modeKept_setRec (v : Nat) (h : ModeKept a s) : ModeKept a (setRec v s) :=
  modeKept_ite h (modeKept_ledger (modeKept_setReg _ _ _ h) (ledgerOnly_events (onlyEvents_fire (by omega) (onlyEvents_refl _))))

theorem modeKept_recordCause (cause u v detail : Nat) (h : ModeKept a s) : ModeKept a (recordCause cause u v detail s) := by
  obtain ⟨r, e⟩ := recordCause_shape cause u v detail s
  rw [e]
  exact modeKept_trans h ⟨rfl, rfl, rfl, rfl, rfl⟩

theorem modeKept_rememberSus (h : ModeKept a s) : ModeKept a (rememberSus s) := modeKept_trans h ⟨rfl, rfl, rfl, rfl, rfl⟩

theorem modeKept_ledgerItemOf (step typ : Nat) (body : List Byte) (h : ModeKept a s) : ModeKept a (ledgerItemOf step typ body s) :=
  modeKept_ledger h (ledgerOnly_ledgerItemOf _ _ _ _)

theorem modeKept_recoveryItem (own : Bool) (memb step : Nat) (h : ModeKept a s) : ModeKept a (recoveryItem own memb step s) := by
  unfold recoveryItem
  dsimp only
  split
  · exact modeKept_ledgerItemOf _ _ _ (modeKept_ledgerItemOf _ _ _ h)
  · exact modeKept_ledgerItemOf _ _ _ h

theorem modeKept_recoveryCut (h : ModeKept a s) : ModeKept a (recoveryCut s) :=
  modeKept_rememberSus (modeKept_ite (modeKept_recoveryItem _ _ _ h) h)

theorem modeKept_recoveryFailed (h : ModeKept a s) : ModeKept a (recoveryFailed s) :=
  modeKept_setRec _ (modeKept_setReg _ _ _ (modeKept_setReg _ _ _ (modeKept_setReg _ _ _ (modeKept_setReg _ _ _
    (modeKept_setErr _ _ (modeKept_recoveryCut h))))))

theorem modeKept_afterStop (h : ModeKept a s) : ModeKept a (afterStop s) :=
  modeKept_ite (modeKept_recoveryFailed h) (modeKept_ite (modeKept_recoveryFailed h)
    (modeKept_setRec _ (modeKept_setReg _ _ _ (modeKept_asq h rfl))))

theorem modeKept_hbmStop (x : Nat) (h : ModeKept a s) : ModeKept a (hbmStop x s) := by
  unfold hbmStop
  split
  · exact h
  · exact modeKept_ite (modeKept_setRec _ h)
      (modeKept_recordCause _ _ _ _ (modeKept_setErr _ _ (modeKept_setReg _ _ _ (modeKept_setReg _ _ _ h))))

theorem modeKept_haltOutcome (contract : Bool) (h : ModeKept a s) : ModeKept a (haltOutcome contract s) := by
  unfold haltOutcome
  refine modeKept_ite (modeKept_ite (modeKept_setRec _ (modeKept_trans h ⟨rfl, rfl, rfl, rfl, rfl⟩)) (modeKept_afterStop h)) ?_
  split
  · exact modeKept_ite h (modeKept_hbmStop _ h)
  · exact h

theorem modeKept_forAll {α : Type} {f : α → State → State} (hf : ∀ x s, ModeKept a s → ModeKept a (f x s)) (l : List α)
    (h : ModeKept a s) : ModeKept a (forAll l f s) := by
  unfold forAll
  induction l generalizing s with
  | nil => exact h
  | cons x l ih => exact ih (hf x s h)

theorem modeKept_clearAttempt (unit : Nat) (h : ModeKept a s) : ModeKept a (clearAttempt unit s) := by
  unfold clearAttempt
  split
  · exact h
  · exact modeKept_forAll (fun p _ h => modeKept_setTile p.1 p.2 _ h) _ h

theorem modeKept_undecided (h : ModeKept a s) : ModeKept a (undecided s) := by
  unfold undecided
  refine modeKept_forAll (fun e s h => ?_) _ h
  lift_lets
  intro s1 x s2
  have h1 : ModeKept a s1 := modeKept_ledgerItemOf _ _ _ h
  have h2 : ModeKept a s2 := modeKept_clearAttempt _ (modeKept_setUnit _ _ h1)
  exact modeKept_trans h2 ⟨rfl, rfl, rfl, rfl, rfl⟩

theorem run_setRun (r : RunSt) (s : State) : (setRun r s).run = r := by
  obtain ⟨_, _, _, e, -⟩ := onlyEvents_setRun r s
  rw [e]

/-- A halt that is due stops a module that no watchdog and no command waits for in Halt. -/
theorem applyHalt_halts (hs : s.stuck = false) (hb : s.busy = none) :
    (applyHalt s).run = .halt ∧ (applyHalt s).asq.haltPend = false ∧ (applyHalt s).pendCfg = s.pendCfg := by
  have hu := modeKept_undecided (modeKept_refl s)
  unfold applyHalt
  lift_lets
  intro contract s1 q s2 s3
  have stuck : s2.stuck = false := hu.stuck.trans hs
  have busy : s3.busy = none := (setRun_busy _ _).trans (hu.busy.trans hb)
  have run : s3.run = .halt := run_setRun _ _
  have pend : s3.asq.haltPend = false := congrArg Asq.haltPend (setRun_asq _ _)
  have cfg : s3.pendCfg = s.pendCfg := (setRun_pendCfg _ _).trans hu.cfg
  have kept := modeKept_haltOutcome contract (modeKept_refl s3)
  rw [if_neg (by simp [stuck])]
  split
  next e => rw [busy] at e; cases e
  next e => rw [busy] at e; cases e
  next => exact ⟨kept.run.trans run, kept.halt.trans pend, kept.cfg.trans cfg⟩

end

end Sys2Proof.Machine
end

section
namespace Sys2Proof.Machine

set_option Elab.async false

section
variable {a s t : State}

/-! The derated ceilings of the fields (06 R175): no fault and no ledger item writes them. -/

/-- From `a` to `t` the derated ceiling of every field stays. -/
def PowerKept (a t : State) : Prop := ∀ f : Field, reg t (.fpw f) 0x058 = reg a (.fpw f) 0x058

theorem powerKept_of (h : PowerKept a s) (e : t.regs = s.regs) : PowerKept a t := fun f => (reg_congr e _ _).trans (h f)

theorem powerKept_ite {c : Prop} [Decidable c] (h : PowerKept a s) (g : PowerKept a t) : PowerKept a (if c then s else t) := by
  split <;> assumption

theorem powerKept_setReg (pg : Page) (o : Nat) (v : W32) (h : PowerKept a s) (ho : o < 0x1000 := by omega)
    (hp : ∀ f, pg ≠ .fpw f := by nofun) : PowerKept a (setReg pg o v s) :=
  fun f => (reg_setReg_ne v s ho (by omega) fun e => absurd e.symm (hp f)).trans (h f)

theorem powerKept_bump (pg : Page) (o k : Nat) (h : PowerKept a s) (ho : o < 0x1000 := by omega)
    (hp : ∀ f, pg ≠ .fpw f := by nofun) : PowerKept a (bump pg o s k) := powerKept_ite h (powerKept_setReg _ _ _ h ho hp)

theorem powerKept_events (h : PowerKept a s) (e : OnlyEvents s t) : PowerKept a t :=
  fun f => (onlyEvents_reg e (by unfold onEvc; simp only [pageBase]; omega)).trans (h f)

theorem powerKept_setErr (pg : Page) (k : Nat) (h : PowerKept a s) (hp : ∀ f, pg ≠ .fpw f := by nofun) :
    PowerKept a (setErr pg k s) :=
  powerKept_events (powerKept_setReg pg 0x010 (setBit (reg s pg 0x010) k true) h (by omega) hp) (onlyEvents_setErr pg k s)

theorem powerKept_hbmWrite (x : Nat) (bs : List Byte) (h : PowerKept a s) : PowerKept a (hbmWrite x bs s) := by
  unfold hbmWrite
  dsimp only
  generalize (((sectorsOf x bs.length).filter _).foldl _ _ : SMap Bool) = m
  refine powerKept_bump (.hbm _ _) _ _ ?_
  obtain ⟨_, _, e⟩ := putBytes_shape x bs { s with poison := m }
  rw [e]
  exact powerKept_of h rfl

theorem powerKept_writePad (base size len : Nat) (h : PowerKept a s) : PowerKept a (writePad base size len s) :=
  powerKept_ite h (powerKept_setReg .hdm _ _ (powerKept_setReg .hdm _ _ (powerKept_hbmWrite _ _ h)))

theorem powerKept_writeItem (base size step typ : Nat) (body : List Byte) (h : PowerKept a s) :
    PowerKept a (writeItem base size step typ body s) := by
  unfold writeItem
  lift_lets
  intro len s1 s2
  have h2 : PowerKept a s2 := powerKept_hbmWrite _ _ (powerKept_writePad _ _ _ h)
  exact powerKept_setReg .hdm _ _ (powerKept_setReg .hdm _ _ (powerKept_of h2 rfl))

theorem powerKept_writeLost (h : PowerKept a s) : PowerKept a (writeLost s) := by
  unfold writeLost
  split
  · exact h
  · exact powerKept_ite (powerKept_of (powerKept_writeItem _ _ _ _ _ h) rfl) h

theorem powerKept_ledgerItemOf (step typ : Nat) (body : List Byte) (h : PowerKept a s) :
    PowerKept a (ledgerItemOf step typ body s) := by
  unfold ledgerItemOf
  split
  · exact h
  · have h1 := powerKept_writeLost h
    exact powerKept_ite (powerKept_writeItem _ _ _ _ _ h1) (powerKept_of (powerKept_setErr .hdm 3 (powerKept_bump .hdm _ _ h1)) rfl)

end

end Sys2Proof.Machine
end

section
namespace Sys2Proof.Machine

set_option Elab.async false

/-! The checks at the end of a tick (06 R161, R173 to R175): what they read stays while they run. -/

/-- From `a` to `t` what the checks of a tick read stays: the perturbed ceilings, the fields' ceilings, the placement and the tokens of
every tile. What the boundary asks of a halt that is due stays too. -/
structure ChecksKept (a t : State) : Prop where
  dbg : reg t .dbg 0x058 = reg a .dbg 0x058
  isSealed : t.isSealed = a.isSealed
  level : t.level = a.level
  prtHeld : t.prtHeld = a.prtHeld
  power : PowerKept a t
  place : t.place = a.place
  geo : t.geo = a.geo
  tok : ∀ u v, (tile t u v).tok = (tile a u v).tok
  peak : ∀ u v, (tile t u v).tokPkNow = (tile a u v).tokPkNow
  halt : a.asq.haltPend = true → t.asq.haltPend = true
  stuck : t.stuck = a.stuck
  busy : t.busy = a.busy
  cfg : t.pendCfg = a.pendCfg
  loading : t.loading = a.loading

theorem checksKept_refl (a : State) : ChecksKept a a :=
  ⟨rfl, rfl, rfl, rfl, fun _ => rfl, rfl, rfl, fun _ _ => rfl, fun _ _ => rfl, id, rfl, rfl, rfl, rfl⟩

theorem checksKept_trans {a b c : State} (h : ChecksKept a b) (g : ChecksKept b c) : ChecksKept a c where
  dbg := g.dbg.trans h.dbg
  isSealed := g.isSealed.trans h.isSealed
  level := g.level.trans h.level
  prtHeld := g.prtHeld.trans h.prtHeld
  power f := (g.power f).trans (h.power f)
  place := g.place.trans h.place
  geo := g.geo.trans h.geo
  tok u v := (g.tok u v).trans (h.tok u v)
  peak u v := (g.peak u v).trans (h.peak u v)
  halt p := g.halt (h.halt p)
  stuck := g.stuck.trans h.stuck
  busy := g.busy.trans h.busy
  cfg := g.cfg.trans h.cfg
  loading := g.loading.trans h.loading

section
variable {a s t : State}

theorem checksKept_ite {c : Prop} [Decidable c] (h : ChecksKept a s) (g : ChecksKept a t) : ChecksKept a (if c then s else t) := by
  split <;> assumption

theorem checksKept_forAll {α : Type} {f : α → State → State} (hf : ∀ x s, ChecksKept a s → ChecksKept a (f x s)) (l : List α)
    (h : ChecksKept a s) : ChecksKept a (forAll l f s) := by
  unfold forAll
  induction l generalizing s with
  | nil => exact h
  | cons x l ih => exact ih (hf x s h)

theorem checksKept_asq (h : ChecksKept a s) (q : Asq) (hq : s.asq.haltPend = true → q.haltPend = true) :
    ChecksKept a { s with asq := q } :=
  checksKept_trans h ⟨rfl, rfl, rfl, rfl, fun _ => rfl, rfl, rfl, fun _ _ => rfl, fun _ _ => rfl, hq, rfl, rfl, rfl, rfl⟩

/-- A change of the registers alone, neither PRT_TOK nor the derated ceiling of a field. -/
theorem checksKept_regs (h : ChecksKept a s) (r : SMap W32) (hd : reg { s with regs := r } .dbg 0x058 = reg s .dbg 0x058)
    (hp : PowerKept s { s with regs := r }) : ChecksKept a { s with regs := r } :=
  checksKept_trans h ⟨hd, rfl, rfl, rfl, hp, rfl, rfl, fun _ _ => rfl, fun _ _ => rfl, id, rfl, rfl, rfl, rfl⟩

theorem checksKept_setReg (pg : Page) (o : Nat) (v : W32) (h : ChecksKept a s) (ho : o < 0x1000 := by omega)
    (hd : .dbg = pg → 0x058 ≠ o := by nofun) (hp : ∀ f, pg ≠ .fpw f := by nofun) : ChecksKept a (setReg pg o v s) :=
  checksKept_regs h _ (reg_setReg_ne v s ho (by omega) hd) (powerKept_setReg pg o v (fun _ => rfl) ho hp)

theorem checksKept_bump (pg : Page) (o k : Nat) (h : ChecksKept a s) (ho : o < 0x1000 := by omega)
    (hd : .dbg = pg → 0x058 ≠ o := by nofun) (hp : ∀ f, pg ≠ .fpw f := by nofun) : ChecksKept a (bump pg o s k) :=
  checksKept_ite h (checksKept_setReg _ _ _ h ho hd hp)

theorem checksKept_ledger (h : ChecksKept a s) (e : LedgerOnly s t) (p : PowerKept s t) : ChecksKept a t := by
  have hd : reg t .dbg 0x058 = reg s .dbg 0x058 := ledgerOnly_reg e (by unfold ledgerKey onEvc; simp only [pageBase]; omega)
  obtain ⟨_, _, _, _, _, _, _, _, _, _, _, _, rfl, -⟩ := e
  exact checksKept_trans h ⟨hd, rfl, rfl, rfl, p, rfl, rfl, fun _ _ => rfl, fun _ _ => rfl, id, rfl, rfl, rfl, rfl⟩

theorem checksKept_faultItem (cls cause : Nat) (sus : List (Nat × Nat)) (h : ChecksKept a s) :
    ChecksKept a (faultItem cls cause sus s) :=
  checksKept_ledger h (ledgerOnly_faultItem _ _ _ _) (powerKept_ledgerItemOf _ _ _ fun _ => rfl)

theorem checksKept_setErr (k : Nat) (h : ChecksKept a s) : ChecksKept a (setErr .asq k s) := by
  have e := onlyEvents_setErr .asq k s
  exact checksKept_ledger (checksKept_setReg .asq 0x010 (setBit (reg s .asq 0x010) k true) h) (ledgerOnly_events e)
    (powerKept_events (fun _ => rfl) e)

theorem checksKept_recordCause (cause u v detail : Nat) (h : ChecksKept a s) : ChecksKept a (recordCause cause u v detail s) :=
  checksKept_ite h (checksKept_setReg .asq _ _ (checksKept_setReg .asq _ _ (checksKept_setReg .asq _ _
    (checksKept_setReg .asq _ _ (checksKept_setReg .asq _ _ h)))))

theorem checksKept_contractFault (cause u v detail : Nat) (hl : a.loading = false) (h : ChecksKept a s) :
    ChecksKept a (contractFault cause u v detail s) := by
  unfold contractFault
  lift_lets
  intro s1 s2 s3
  have h1 : ChecksKept a s1 := by
    obtain ⟨l, e⟩ := haltAt_spec u v s
    unfold s1
    rw [e]
    exact checksKept_asq h _ id
  have h2 : ChecksKept a s2 := checksKept_bump .asq _ _ (checksKept_setErr _ h1)
  have h3 : ChecksKept a s3 := by
    have hr := checksKept_recordCause cause u v detail h2
    unfold s3
    rw [callHalt_spec (hr.loading.trans hl)]
    refine checksKept_asq hr _ fun p => ?_
    unfold calledAsq
    split
    · rfl
    · split
      · simp [p]
      · exact p
  exact checksKept_faultItem _ _ _ (checksKept_asq h3 _ id)

theorem checksKept_prtEvent (h : ChecksKept a s) : ChecksKept a (prtEvent s) :=
  checksKept_bump .dbg _ _ (checksKept_asq h _ id) (hd := by omega)

/-- A value of every tile stays when the tile that is written keeps it. -/
theorem tile_setTile_value {α : Type} (g : Tile → α) {u v : Nat} {x : Tile} {s : State} (h : g x = g (tile s u v)) (u' v' : Nat) :
    g (tile (setTile u v x s) u' v') = g (tile s u' v') := by
  by_cases e : tileKey u' v' = tileKey u v
  · have same : tile (setTile u v x s) u' v' = x := (mget_mput _ _ _).trans (if_pos e)
    rw [same, h, tile, tile, e]
  · rw [tile_setTile_ne x s e]

/-- A tile that keeps its tokens. -/
theorem checksKept_setTile (u v : Nat) (x : Tile) (h : ChecksKept a s) (ht : x.tok = (tile s u v).tok)
    (hp : x.tokPkNow = (tile s u v).tokPkNow) : ChecksKept a (setTile u v x s) :=
  checksKept_trans h ⟨rfl, rfl, rfl, rfl, fun _ => rfl, rfl, rfl, tile_setTile_value _ ht, tile_setTile_value _ hp, id,
    rfl, rfl, rfl, rfl⟩

theorem checksKept_overrunCheck (i : Img) (hl : a.loading = false) (h : ChecksKept a s) : ChecksKept a (overrunCheck i s) := by
  unfold overrunCheck
  split
  · exact checksKept_contractFault _ _ _ _ hl h
  · exact h

theorem checksKept_tokenCheck (i : Img) (p : Nat × Nat) (hl : a.loading = false) (h : ChecksKept a s) :
    ChecksKept a (tokenCheck i p s) := by
  unfold tokenCheck
  lift_lets
  intro t lowered s1
  have low : ∀ n m s, ChecksKept a s → ChecksKept a (lowered n m s) := fun _ _ _ h => checksKept_ite (checksKept_prtEvent h) h
  have h1 : ChecksKept a s1 :=
    checksKept_ite (low _ _ _ (checksKept_contractFault _ _ _ _ hl (checksKept_setTile _ _ _ h rfl rfl))) h
  exact checksKept_ite (low _ _ _ (checksKept_contractFault _ _ _ _ hl h1)) h1

theorem checksKept_fieldTokens (i : Img) (h : ChecksKept a s) : ChecksKept a (fieldTokens i s) := by
  unfold fieldTokens
  split
  · exact h
  · exact checksKept_forAll (fun f _ h => checksKept_ite h (checksKept_setReg (.fld f) _ _ h)) _ h

theorem checksKept_tickChecked (i : Img) (hl : a.loading = false) (h : ChecksKept a s) : ChecksKept a (tickChecked i s) :=
  checksKept_fieldTokens i (checksKept_forAll (fun p _ h => checksKept_tokenCheck i p hl h) _ (checksKept_overrunCheck i hl h))

theorem ceilings_kept (i : Img) (h : ChecksKept a t) : ceilings t i = ceilings a i := by
  have acts : prtActs t 0x058 = prtActs a 0x058 := by simp only [prtActs, h.dbg, h.isSealed, h.level, h.prtHeld]
  unfold ceilings
  rw [acts, h.dbg]

theorem budget_kept (i : Img) (h : ChecksKept a t) : budget t i = budget a i := by rw [budget, budget, ceilings_kept i h]

theorem placeOk_kept (h : ChecksKept a t) : placeOk t = placeOk a := by rw [placeOk, placeOk, h.place]

theorem fieldOver_kept (p : Place) (i : Img) (h : ChecksKept a t) : fieldOver t p i = fieldOver a p i := by
  simp only [fieldOver, h.geo, h.power _]

end

end Sys2Proof.Machine
end

section
namespace Sys2Proof.Machine

set_option Elab.async false

section
variable {s : State}

/-! What the checks find (06 R161, R173, R174). -/

theorem contractFault_bit {cause : Nat} (hc : cause < 32) (u v detail : Nat) (hl : s.loading = false) :
    bitOf (reg (contractFault cause u v detail s) .asq 0x010) cause = true := (contractFault_spec cause u v detail s hc hl).2.1

/-- A tile whose work is unfinished is contract fault 3. -/
theorem overrunCheck_late {i : Img} (hl : s.loading = false)
    (late : ∃ p ∈ imageTiles i, unfinished s i (tile s p.1 p.2) = true) : bitOf (reg (overrunCheck i s) .asq 0x010) 3 = true := by
  unfold overrunCheck
  split
  · exact contractFault_bit (by omega) _ _ _ hl
  next none =>
    obtain ⟨p, hp, hu⟩ := late
    exact absurd hu (List.find?_eq_none.1 none p hp)

theorem overrunCheck_finished {i : Img} (done : ¬ ∃ p ∈ imageTiles i, unfinished s i (tile s p.1 p.2) = true) :
    overrunCheck i s = s := by
  unfold overrunCheck
  split
  next p found =>
    have late := List.find?_some found
    exact absurd ⟨p, List.mem_of_find?_eq_some found, late⟩ done
  next => rfl

/-- A total above the budget is contract fault 1, whatever the tile's highest cycle is. -/
theorem tokenCheck_spent {i : Img} {p : Nat × Nat} (hl : s.loading = false) (h : budget s i < (tile s p.1 p.2).tok) :
    bitOf (reg (tokenCheck i p s) .asq 0x010) 1 = true := by
  unfold tokenCheck
  lift_lets
  intro t lowered s1
  have low : ∀ n m s, TickKept s (lowered n m s) := fun _ _ s =>
    tickKept_ite (tickKept_prtEvent (tickKept_refl s)) (tickKept_refl s)
  have h1 : bitOf (reg s1 .asq 0x010) 1 = true := by
    unfold s1
    rw [if_pos h]
    exact (low _ _ _).errs 1 (contractFault_bit (by omega) _ _ _ hl)
  split
  · exact (low _ _ _).errs 1 ((tickKept_contractFault 2 _ _ _ (tickKept_refl s1)).errs 1 h1)
  · exact h1

/-- A cycle above P is contract fault 2, after the total has been checked. -/
theorem tokenCheck_peak {i : Img} {p : Nat × Nat} (hl : s.loading = false) (h : (ceilings s i).2 < (tile s p.1 p.2).tokPkNow) :
    bitOf (reg (tokenCheck i p s) .asq 0x010) 2 = true := by
  unfold tokenCheck
  lift_lets
  intro t lowered s1
  have low : ∀ n m s, TickKept s (lowered n m s) := fun _ _ s =>
    tickKept_ite (tickKept_prtEvent (tickKept_refl s)) (tickKept_refl s)
  have hs := checksKept_refl s
  have h1 : ChecksKept s s1 := checksKept_ite
    (checksKept_ite (checksKept_prtEvent (checksKept_contractFault _ _ _ _ hl (checksKept_setTile _ _ _ hs rfl rfl)))
      (checksKept_contractFault _ _ _ _ hl (checksKept_setTile _ _ _ hs rfl rfl))) hs
  rw [if_pos (by rw [ceilings_kept i h1]; exact h)]
  exact (low _ _ _).errs 2 (contractFault_bit (by omega) _ _ _ (h1.loading.trans hl))

theorem tokenCheck_within {i : Img} {p : Nat × Nat} (h1 : ¬ budget s i < (tile s p.1 p.2).tok)
    (h2 : ¬ (ceilings s i).2 < (tile s p.1 p.2).tokPkNow) : tokenCheck i p s = s := by
  unfold tokenCheck
  dsimp only
  rw [if_neg h1, if_neg h2]

theorem forAll_same {α : Type} {f : α → State → State} {l : List α} (h : ∀ x ∈ l, f x s = s) : forAll l f s = s := by
  unfold forAll
  induction l with
  | nil => rfl
  | cons x l ih =>
    rw [List.foldl_cons, h x (by simp)]
    exact ih fun y hy => h y (by simp [hy])

/-- An error bit that one of the tiles sets, from every state that the tiles before it can leave, is set after all of them. -/
theorem forAll_bit {α : Type} {P : State → Prop} {f : α → State → State} {k : Nat} (hP : ∀ x s, P s → P (f x s))
    (hf : ∀ x s, TickKept s (f x s)) {p : α} (hp : ∀ s, P s → bitOf (reg (f p s) .asq 0x010) k = true) {l : List α} (hl : p ∈ l)
    (h : P s) : bitOf (reg (forAll l f s) .asq 0x010) k = true := by
  induction l generalizing s with
  | nil => cases hl
  | cons x l ih =>
    rcases List.mem_cons.1 hl with rfl | hl
    · exact (tickKept_forAll l (fun x _ h => tickKept_trans h (hf x _)) (tickKept_refl (f p s))).errs k (hp s h)
    · exact ih hl (hP x s h)

theorem tickChecked_late {i : Img} (hl : s.loading = false)
    (late : ∃ p ∈ imageTiles i, unfinished s i (tile s p.1 p.2) = true) : bitOf (reg (tickChecked i s) .asq 0x010) 3 = true :=
  (tickKept_fieldTokens i (tickKept_forAll _ (fun p _ h => tickKept_tokenCheck i p h) (tickKept_refl _))).errs 3
    (overrunCheck_late hl late)

/-- What a token check finds at one tile from every state in which the tokens are those of `s` stands after all the checks. -/
theorem tickChecked_bit {i : Img} {k : Nat} (hl : s.loading = false) {p : Nat × Nat} (hp : p ∈ imageTiles i)
    (bit : ∀ x, ChecksKept s x → bitOf (reg (tokenCheck i p x) .asq 0x010) k = true) :
    bitOf (reg (tickChecked i s) .asq 0x010) k = true :=
  (tickKept_fieldTokens i (tickKept_refl _)).errs k (forAll_bit (P := ChecksKept s) (fun q _ h => checksKept_tokenCheck i q hl h)
    (fun q x => tickKept_tokenCheck i q (tickKept_refl x)) bit hp (checksKept_overrunCheck i hl (checksKept_refl s)))

theorem tickChecked_spent {i : Img} (hl : s.loading = false) (spent : ∃ p ∈ imageTiles i, budget s i < (tile s p.1 p.2).tok) :
    bitOf (reg (tickChecked i s) .asq 0x010) 1 = true := by
  obtain ⟨p, hp, hs⟩ := spent
  refine tickChecked_bit hl hp fun x hx => tokenCheck_spent (hx.loading.trans hl) ?_
  rw [budget_kept i hx, hx.tok]
  exact hs

theorem tickChecked_peak {i : Img} (hl : s.loading = false)
    (peak : ∃ p ∈ imageTiles i, (ceilings s i).2 < (tile s p.1 p.2).tokPkNow) :
    bitOf (reg (tickChecked i s) .asq 0x010) 2 = true := by
  obtain ⟨p, hp, hs⟩ := peak
  refine tickChecked_bit hl hp fun x hx => tokenCheck_peak (hx.loading.trans hl) ?_
  rw [ceilings_kept i hx, hx.peak]
  exact hs

theorem runsOn_fieldTokens {a : State} (i : Img) (h : RunsOn a s) : RunsOn a (fieldTokens i s) := by
  unfold fieldTokens
  split
  · exact h
  · exact runsOn_forAll (fun f _ h => runsOn_ite h (runsOn_setReg (.fld f) _ _ h)) _ h

/-- Where every tile has finished within its ceilings the checks only note the fields' totals. -/
theorem runsOn_tickChecked {i : Img} (done : ¬ ∃ p ∈ imageTiles i, unfinished s i (tile s p.1 p.2) = true)
    (within : ¬ ∃ p ∈ imageTiles i, budget s i < (tile s p.1 p.2).tok)
    (flat : ¬ ∃ p ∈ imageTiles i, (ceilings s i).2 < (tile s p.1 p.2).tokPkNow) : RunsOn s (tickChecked i s) := by
  have tokens : forAll (imageTiles i) (tokenCheck i) s = s :=
    forAll_same fun p hp => tokenCheck_within (fun h => within ⟨p, hp, h⟩) fun h => flat ⟨p, hp, h⟩
  rw [tickChecked, overrunCheck_finished done, tokens]
  exact runsOn_fieldTokens i (runsOn_refl s)

/-! The boundary (06 R162, R163, R175). -/

theorem tickBoundary_run {i : Img} (hi : s.image = some i) (hl : s.loading = false) (hr : s.run = .run)
    (hd : deciding s = false) : tickBoundary s = boundary i s := by
  simp [tickBoundary, hi, hl, moving_run hr, hd]

theorem boundary_over {i : Img} {f : Field}
    (h : (placeOk (tickChecked i (underWayEnded i s))).bind
      (fun p => fieldOver (tickChecked i (underWayEnded i s)) p i) = some f) :
    boundary i s = enterFault (faultItem 7 11 [] (setReg .asq 0x078 (w32 f.val) (endTick
      (recordCause 11 0xFFFF 0xFFFF f.val (setErr .asq 11 (tickChecked i (underWayEnded i s))))))) := by
  unfold boundary
  dsimp only
  split
  next f' e => cases e.symm.trans h; rfl
  next e => cases e.symm.trans h

/-- The tick that has ended once a halt that is due and a configuration that waits have been taken. -/
def settledTick (s : State) : State := commitNow (if s.asq.haltPend || s.run = .halt then applyHalt s else s)

theorem boundary_within {i : Img}
    (h : (placeOk (tickChecked i (underWayEnded i s))).bind
      (fun p => fieldOver (tickChecked i (underWayEnded i s)) p i) = none) :
    boundary i s =
      let u := settledTick (endTick (tickChecked i (underWayEnded i s)))
      if u.run = .fault || deciding u then u else selectNext u := by
  unfold boundary
  dsimp only
  split
  next e => cases e.symm.trans h
  next => rfl

theorem tickKept_settledTick {a : State} (h : TickKept a s) : TickKept a (settledTick s) :=
  tickKept_commitNow (tickKept_ite (tickKept_applyHalt h) h)

/-- Whatever the checks find, one tick ends, and nothing else counts RUN_TICK or clears an error. -/
theorem boundary_ends (i : Img) (s : State) :
    ∃ c, TickKept (tickChecked i (underWayEnded i s)) c ∧ TickKept (endTick c) (boundary i s) := by
  cases h : (placeOk (tickChecked i (underWayEnded i s))).bind
      (fun p => fieldOver (tickChecked i (underWayEnded i s)) p i) with
  | some f =>
    refine ⟨_, tickKept_recordCause 11 0xFFFF 0xFFFF f.val (tickKept_setErr .asq 11 (tickKept_refl _)), ?_⟩
    rw [boundary_over h]
    exact tickKept_enterFault (tickKept_faultItem _ _ _ (tickKept_setReg .asq _ _ (tickKept_refl _)))
  | none =>
    refine ⟨_, tickKept_refl _, ?_⟩
    rw [boundary_within h]
    have hu := tickKept_settledTick (tickKept_refl (endTick (tickChecked i (underWayEnded i s))))
    exact tickKept_ite hu (tickKept_selectNext hu)

theorem boundary_tick (i : Img) (s : State) : runTick (boundary i s) = (runTick s + 1) % 2 ^ 64 := by
  obtain ⟨c, hc, ht⟩ := boundary_ends i s
  have h := tickKept_trans (tickKept_tickChecked i (tickKept_underWayEnded i (tickKept_refl s))) hc
  rw [ht.tick, endTick_tick, h.tick]

/-- An error that the checks set stands after the boundary. -/
theorem boundary_errs {i : Img} {k : Nat} (h : bitOf (reg (tickChecked i (underWayEnded i s)) .asq 0x010) k = true) :
    bitOf (reg (boundary i s) .asq 0x010) k = true := by
  obtain ⟨c, hc, ht⟩ := boundary_ends i s
  refine ht.errs k ?_
  rw [endTick_errs]
  exact hc.errs k h

theorem commitNow_none (h : s.pendCfg = none) : commitNow s = s := by simp [commitNow, h]

/-- No field above its derated ceiling: the checks do not change what that rests on. -/
theorem fields_within {b : State} {i : Img} (hb : b.loading = false) (h : ∀ p, placeOk b = some p → fieldOver b p i = none) :
    (placeOk (tickChecked i b)).bind (fun p => fieldOver (tickChecked i b) p i) = none := by
  have kept := checksKept_tickChecked i hb (checksKept_refl b)
  rw [placeOk_kept kept, Option.bind_eq_none_iff]
  intro p hp
  rw [fieldOver_kept p i kept]
  exact h p hp

end

end Sys2Proof.Machine
end

section
namespace Sys2Proof.Machine

set_option Elab.async false

section
variable {s : State}

/-- A tick whose work is done within its ceilings, with no halt that waits, lets the module run on. -/
theorem boundary_runs {i : Img} (hb : (underWayEnded i s).loading = false)
    (done : ¬ ∃ p ∈ imageTiles i, unfinished (underWayEnded i s) i (tile (underWayEnded i s) p.1 p.2) = true)
    (within : ¬ ∃ p ∈ imageTiles i, budget (underWayEnded i s) i < (tile (underWayEnded i s) p.1 p.2).tok)
    (flat : ¬ ∃ p ∈ imageTiles i, (ceilings (underWayEnded i s) i).2 < (tile (underWayEnded i s) p.1 p.2).tokPkNow)
    (fields : ∀ p, placeOk (underWayEnded i s) = some p → fieldOver (underWayEnded i s) p i = none)
    (halt : (underWayEnded i s).asq.haltPend = false) (run : (underWayEnded i s).run = .run)
    (cfg : (underWayEnded i s).pendCfg = none) : RunsOn (underWayEnded i s) (boundary i s) := by
  rw [boundary_within (fields_within hb fields)]
  generalize underWayEnded i s = b at *
  have he : RunsOn b (endTick (tickChecked i b)) := runsOn_endTick (runsOn_tickChecked done within flat)
  have settled : settledTick (endTick (tickChecked i b)) = endTick (tickChecked i b) := by
    rw [settledTick, if_neg, commitNow_none (he.mode.cfg.trans cfg)]
    simp [he.mode.halt, he.mode.run, halt, run]
  rw [settled]
  exact runsOn_ite he (runsOn_selectNext he)

/-- A halt that waits for a boundary at which no field is over takes the module to Halt. -/
theorem boundary_halts {i : Img} (hb : (underWayEnded i s).loading = false)
    (fields : ∀ p, placeOk (underWayEnded i s) = some p → fieldOver (underWayEnded i s) p i = none)
    (halt : (underWayEnded i s).asq.haltPend = true) (stuck : (underWayEnded i s).stuck = false)
    (busy : (underWayEnded i s).busy = none) (cfg : (underWayEnded i s).pendCfg = none) :
    (boundary i s).run = .halt ∧ (boundary i s).asq.haltPend = false := by
  rw [boundary_within (fields_within hb fields)]
  generalize underWayEnded i s = b at *
  have kept := checksKept_tickChecked i hb (checksKept_refl b)
  have ended := (runsOn_endTick (runsOn_refl (tickChecked i b))).mode
  obtain ⟨run, pend, waits⟩ := applyHalt_halts (s := endTick (tickChecked i b)) (ended.stuck.trans (kept.stuck.trans stuck))
    (ended.busy.trans (kept.busy.trans busy))
  have settled : settledTick (endTick (tickChecked i b)) = applyHalt (endTick (tickChecked i b)) := by
    rw [settledTick, if_pos, commitNow_none (waits.trans (ended.cfg.trans (kept.cfg.trans cfg)))]
    simp [ended.halt, kept.halt halt]
  rw [settled]
  generalize applyHalt (endTick (tickChecked i b)) = u at *
  have next : ModeKept u (if u.run = .fault || deciding u then u else selectNext u) :=
    modeKept_ite (modeKept_refl u) (runsOn_selectNext (runsOn_refl u)).mode
  exact ⟨next.run.trans run, next.halt.trans pend⟩

/-! A tick that has nothing under way at its end (05 R125, R142, R154, 06 R171). -/

/-- A function that keeps every entry of a canonical map keeps the map. -/
theorem mmap_same {α : Type} [DecidableEq α] {d : α} {f : α → α} {m : SMap α} (w : mwf d m) (h : ∀ e ∈ m, f e.2 = e.2) :
    mmap d f m = m := by
  obtain ⟨rising, present⟩ := w
  induction m with
  | nil => rfl
  | cons e m ih =>
    obtain ⟨first, rest⟩ := List.pairwise_cons.1 rising
    have tail : mmap d f m = m := ih (fun x hx => h x (by simp [hx])) rest fun x hx => present x (by simp [hx])
    show mput d e.1 (f e.2) (mmap d f m) = e :: m
    rw [tail, h e (by simp), mput, if_neg (present e (by simp))]
    cases m with
    | nil => rfl
    | cons x m => rw [minsert, if_pos (first x.1 (by simp))]

theorem mapTiles_same {f : Tile → Tile} (w : mwf Tile.blank s.tiles) (h : ∀ e ∈ s.tiles, f e.2 = e.2) : mapTiles f s = s := by
  rw [mapTiles, mmap_same w h]

theorem windowEndAll_none (i : Img) (h : ∀ tr, tickNow s = some tr → tr.owlWin = false) : windowEndAll i s = s := by
  rw [windowEndAll, if_neg]
  cases ht : tickNow s with
  | none => simp
  | some tr => simp [h tr ht]

theorem haltTokens_none (i : Img) (hops : s.asq.haltHops = 0) (w : mwf Tile.blank s.tiles)
    (h : ∀ e ∈ s.tiles, e.2.cF.barrier = none ∧ e.2.cB.barrier = none ∧ e.2.cW.barrier = none) : haltTokens i s = s := by
  unfold haltTokens
  dsimp only
  rw [mapTiles_same w, if_pos hops]
  intro e he
  obtain ⟨f, b, w⟩ := h e he
  simp [getCtx, f, b, w]

theorem combinesGoOn_none {i : Img} (hi : s.image = some i) (h : ∀ p ∈ imageTiles i, (tile s p.1 p.2).comb = []) :
    combinesGoOn s = s := by
  unfold combinesGoOn
  simp only [hi]
  refine forAll_same fun p hp => ?_
  rw [h p hp]
  rfl

theorem tapsAtEnd_none {i : Img} (hi : s.image = some i) (h : ∀ p ∈ imageTiles i, (tile s p.1 p.2).fsIn = []) :
    tapsAtEnd s = s := by
  unfold tapsAtEnd
  simp only [hi]
  refine forAll_same fun p hp => ?_
  rw [h p hp]
  rfl

theorem underWayEnded_none {i : Img} (hi : s.image = some i) (hops : s.asq.haltHops = 0) (w : mwf Tile.blank s.tiles)
    (barriers : ∀ e ∈ s.tiles, e.2.cF.barrier = none ∧ e.2.cB.barrier = none ∧ e.2.cW.barrier = none)
    (owl : ∀ tr, tickNow s = some tr → tr.owlWin = false)
    (idle : ∀ p ∈ imageTiles i, (tile s p.1 p.2).comb = [] ∧ (tile s p.1 p.2).fsIn = []) : underWayEnded i s = s := by
  rw [underWayEnded, windowEndAll_none i owl, haltTokens_none i hops w barriers,
    combinesGoOn_none hi fun p hp => (idle p hp).1, tapsAtEnd_none hi fun p hp => (idle p hp).2]

/-! Before the boundary (07 R201, 06 R173, R174, 13 R398). -/

/-- The OR over the wafer has the bit of each stream that a tile not fenced reports. -/
theorem holdBits_testBit (i : Img) (p : Nat × Nat → Strm → Bool) (st : Strm) :
    (holdBits s i p).testBit (strmCode st) = (imageTiles i).any fun t => !(tile s t.1 t.2).fenced && p t st := by
  have bits : ∀ f b w : Bool, ((if f then 1 else 0) + (if b then 2 else 0) + (if w then 4 else 0) : Nat).testBit (strmCode st) =
      match st with | .f => f | .b => b | .w => w := by
    cases st <;> decide
  cases st <;> exact bits _ _ _

theorem sleepSample_moving {i : Img} (hi : s.image = some i) (hm : moving s = true) :
    ∃ n, sleepSample s = { s with asq := { s.asq with sampled := n } } ∧
      ∀ st : Strm, n.testBit (strmCode st) = true ↔
        ∃ p ∈ imageTiles i, (tile s p.1 p.2).fenced = false ∧ holds s i p.1 p.2 st = true := by
  refine ⟨holdBits s i fun t st => holds s i t.1 t.2 st, ?_, fun st => ?_⟩
  · simp [sleepSample, hi, hm]
  · rw [holdBits_testBit, List.any_eq_true]
    simp

theorem tokAvgOverdraw_over {i : Img} {u v : Nat} (hi : s.image = some i) (hm : moving s = true) (hin : inImage s u v = true)
    (h : budget s i < (tile s u v).tok) : tokAvgOverdraw u v s = setTile u v { tile s u v with tokAvg := true } s := by
  simp [tokAvgOverdraw, hi, hm, hin, h]

theorem tokAvgOverdraw_within {i : Img} {u v : Nat} (hi : s.image = some i) (h : (tile s u v).tok ≤ budget s i) :
    tokAvgOverdraw u v s = s := by
  simp [tokAvgOverdraw, hi, Nat.not_lt.2 h]

theorem peakOverdraw_over {i : Img} {u v cost : Nat} (hi : s.image = some i) (hm : moving s = true) (hin : inImage s u v = true)
    (h : (ceilings s i).2 < cost) : peakOverdraw u v cost s =
      setTile u v { tile s u v with tokPeak := true, tokPkNow := max (tile s u v).tokPkNow cost } s := by
  simp [peakOverdraw, hi, hm, hin, h]

theorem peakOverdraw_within {i : Img} {u v cost : Nat} (hi : s.image = some i) (h : cost ≤ (ceilings s i).2) :
    peakOverdraw u v cost s = s := by
  simp [peakOverdraw, hi, Nat.not_lt.2 h]

/-- In a module that runs no ticks a tick's preparation does nothing. -/
theorem preparation_still (u v cost : Nat) (hm : moving s = false) :
    sleepSample s = s ∧ tokAvgOverdraw u v s = s ∧ peakOverdraw u v cost s = s := by
  refine ⟨?_, ?_, ?_⟩
  · unfold sleepSample
    split <;> simp [hm]
  · unfold tokAvgOverdraw
    split <;> simp [hm]
  · unfold peakOverdraw
    split <;> simp [hm]

/-! A RESUME that waits (14 R420). -/

theorem tickBoundary_resume {i : Img} (hi : s.image = some i) (hl : s.loading = false) (hr : s.run = .halt)
    (hb : s.busy = some .resume) (h1 : s.asq.tick1 = false) : tickBoundary s = resumeNow s := by
  have hm : moving s = false := by simp [moving, hr, h1]
  simp [tickBoundary, hi, hl, hm, hr, hb]

theorem busy_midDone (cmd code : Nat) (s : State) : (midDone cmd code s).busy = none := by simp [midDone]

/-- A RESUME that no fault and no halt keeps from taking effect. -/
theorem resumeNow_resumes (hv : faultValid s = false) (hp : s.asq.haltPend = false) (hs : s.asq.recov.suspects = [])
    (hh : s.asq.recov.hbm = none) :
    (resumeNow s).run = .run ∧ (resumeNow s).busy = none ∧ reg (resumeNow s) .mid 0x088 = w32 (2 ^ 31 + 7 * 256) ∧
      (resumeNow s).hbm = s.hbm := by
  unfold resumeNow
  rw [if_neg (by simp [hv, hp, hs, hh])]
  generalize eq : ({ s with asq := { s.asq with tickAt := s.now, halted := false } } : State) = a
  refine ⟨run_setRun _ _, ?_, ?_, ?_⟩
  · show (setRun .run (midDone 7 0 a)).busy = none
    rw [setRun_busy, busy_midDone]
  · show reg (setRun .run (midDone 7 0 a)) .mid 0x088 = _
    have hk : ¬ onEvc (pageBase .mid + 0x088) := by unfold onEvc; simp only [pageBase]; omega
    rw [onlyEvents_reg (onlyEvents_setRun .run _) hk]
    exact (onlyEvents_reg (onlyEvents_midDone 7 0 a) hk).trans (reg_setReg_same .mid 0x088 _ _)
  · show (setRun .run (midDone 7 0 a)).hbm = s.hbm
    rw [setRun_hbm, midDone_hbm, ← eq]

end

end Sys2Proof.Machine
end

section
namespace Sys2Proof
open Machine

/-- Settles O39: the preparation of a tick by its definitions; at the boundary RUN_TICK and the errors of ASQ through every action
(`TickKept`), what the checks read while they run (`ChecksKept`), and what goes on where they find nothing (`RunsOn`). -/
theorem tickPreparationAndBoundary : Obligations.TickPreparationAndBoundary := by
  unfold Obligations.TickPreparationAndBoundary
  refine ⟨fun s => rfl, ?_, ?_, ?_, ?_, ?_, ?_⟩
  · intro i s hi hm
    obtain ⟨n, e, bits⟩ := sleepSample_moving hi hm
    exact ⟨n, congrArg Host.Outcome.next e, bits⟩
  · intro u v i s hi hm hin
    exact ⟨fun h => congrArg Host.Outcome.next (tokAvgOverdraw_over hi hm hin h),
      fun h => congrArg Host.Outcome.next (tokAvgOverdraw_within hi h)⟩
  · intro u v cost i s hi hm hin
    exact ⟨fun h => congrArg Host.Outcome.next (peakOverdraw_over hi hm hin h),
      fun h => congrArg Host.Outcome.next (peakOverdraw_within hi h)⟩
  · intro u v cost s hm
    obtain ⟨sample, avg, peak⟩ := preparation_still u v cost hm
    exact ⟨congrArg Host.Outcome.next sample, congrArg Host.Outcome.next avg, congrArg Host.Outcome.next peak⟩
  · intro i s hi hl hr hd b late spent peak
    have hb : b.loading = false := (tickKept_underWayEnded i (tickKept_refl s)).idle hl
    refine ⟨fun hops w barriers owl idle => underWayEnded_none hi hops w barriers owl idle, boundary i s,
      congrArg Host.Outcome.next (tickBoundary_run hi hl hr hd), boundary_tick i s, fun h => boundary_errs (tickChecked_late hb h),
      fun h => boundary_errs (tickChecked_spent hb h), fun h => boundary_errs (tickChecked_peak hb h), ?_, ?_⟩
    · intro done within flat fields halt run cfg
      have on := boundary_runs hb done within flat fields halt run cfg
      exact ⟨on.mode.run.trans run, on.mode.halt.trans halt, on.hbm, on.links, on.work⟩
    · intro halt stuck busy cfg fields
      exact boundary_halts hb fields halt stuck busy cfg
  · intro i s hi hl hr hb h1 hp hv hs hh
    refine ⟨resumeNow s, congrArg Host.Outcome.next (tickBoundary_resume hi hl hr hb h1), resumeNow_resumes hv hp hs hh⟩

end Sys2Proof
end

section
namespace Sys2Proof.Machine

/-! Streams past a record (07 R195, R206, R217, 06 R171): the context that is passed, the tokens charged, and what a tile keeps. -/

section
variable {s : State} {u v k : Nat} {st : Strm} {i : Img} {r : OpRec}

/-- A stream with a record to issue runs in a loaded image, at a tile of it, and neither sleeps nor waits at a barrier (R168, R197). -/
theorem nextRec_some (h : nextRec s u v st = some (i, k, r)) :
    s.image = some i ∧ s.loading = false ∧ inImage s u v = true ∧ (getCtx (tile s u v) st).sleep = none := by
  unfold nextRec at h
  split at h
  · dsimp only at h
    split at h
    · cases h
    · rename_i hi _ idle
      simp only [Bool.or_eq_true, not_or, Bool.not_eq_true, Bool.not_eq_false', Option.isSome_eq_false_iff,
        Option.isNone_iff_eq_none] at idle
      split at h
      · cases h
      · split at h
        · cases h
        · obtain ⟨rfl, -⟩ := Prod.mk.inj (Option.some.inj h)
          exact ⟨hi, by simp_all, by simp_all, by simp_all⟩
  · cases h

theorem issue_is {opc : Nat} (f : Img → Nat → OpRec → State → State) (h : NextIs s u v st opc i k r) :
    issue u v st opc f s = f i k r (setTile u v (stepPast s.now st r (tile s u v)) s) := issue_next f h.1 h.2.1 h.2.2

/-- Whether a stream waits at a fence is not asked of its next record. -/
theorem nextRec_fenceWait (b : Bool) :
    nextRec (setTile u v (setCtx st { getCtx (tile s u v) st with fenceWait := b } (tile s u v)) s) u v st = nextRec s u v st := by
  unfold nextRec
  rw [tile_setTile_same]
  cases st <;> rfl

end

section
variable (now : Nat) (st : Strm) (r : OpRec) (a : Tile)

theorem getCtx_setCtx_same (c : Ctx) : getCtx (setCtx st c a) st = c := by rw [getCtx_setCtx, if_pos rfl]

theorem setCtx_setCtx (c d : Ctx) : setCtx st c (setCtx st d a) = setCtx st c a := by cases st <;> rfl

/-- The context of a stream that has passed a record; a decision holds the stream of a LADDER_END, which counts no more cycles. -/
theorem getCtx_stepPast : getCtx (stepPast now st r a) st = { getCtx a st with
    pos := (getCtx a st).pos + 1 + extRecs r
    issued := (getCtx a st).issued + 1
    fenceWait := false
    act := if r.opc = 0x04 then (getCtx a st).act else some (now + 1) } := by
  unfold stepPast
  dsimp only
  split
  · rw [getCtx_setCtx_same]
  · rw [active, getCtx_tokEvent, getCtx_setCtx_same, getCtx_setCtx_same]

/-- The tokens that passing a record charges (06 R171). -/
theorem stepPast_tok : (stepPast now st r a).tok =
    a.tok + if r.opc = 0x04 then 0 else 3 * (now + 1 - (getCtx a st).act.getD now) := by
  unfold stepPast
  dsimp only
  split
  · cases st <;> rfl
  · rw [active, getCtx_setCtx_same]
    cases st <;> rfl

/-- Beside the stream's context only counts of tokens change. -/
theorem stepPast_counts : ∃ c n y h, stepPast now st r a = setCtx st c { a with
    tok := n
    cyc := y
    tokHi := h } := by
  obtain ⟨n, h, y, x, e⟩ := stepPast_spec now st r a
  refine ⟨{ getCtx a st with pos := (getCtx a st).pos + 1 + extRecs r, issued := (getCtx a st).issued + 1, fenceWait := false, act := x },
    n, y, h, ?_⟩
  rw [e]
  cases st <;> rfl

@[simp] theorem stepPast_setts : (stepPast now st r a).setts = a.setts := by
  obtain ⟨c, n, y, h, e⟩ := stepPast_counts now st r a
  rw [e]; cases st <;> rfl

@[simp] theorem stepPast_ops : (stepPast now st r a).ops = a.ops := by
  obtain ⟨c, n, y, h, e⟩ := stepPast_counts now st r a
  rw [e]; cases st <;> rfl

@[simp] theorem stepPast_ctl : (stepPast now st r a).ctl = a.ctl := by
  obtain ⟨c, n, y, h, e⟩ := stepPast_counts now st r a
  rw [e]; cases st <;> rfl

/-- Passing a record asks nothing of an earlier wait at its fence. -/
theorem stepPast_fenceWait (b : Bool) :
    stepPast now st r (setCtx st { getCtx a st with fenceWait := b } a) = stepPast now st r a := by
  unfold stepPast
  simp only [getCtx_setCtx_same, setCtx_setCtx]

/-- No sleeping stream wakes with it. -/
theorem stepPast_sleep (st' : Strm) : (getCtx (stepPast now st r a) st').sleep = (getCtx a st').sleep := by
  by_cases h : st' = st
  · rw [h, getCtx_stepPast]
  · rw [stepPast_other now r a h]

theorem stepPast_pos (h : extRecs r = 0) : (getCtx (stepPast now st r a) st).pos = (getCtx a st).pos + 1 := by
  rw [getCtx_stepPast, h]

end

/-- Only records with extension records pass more than one (R206, Table 7.4). -/
theorem extRecs_seq {r : OpRec} (h : r.opc < 0x21) : extRecs r = 0 := by
  unfold extRecs
  rw [if_neg]
  simp only [List.mem_cons, List.not_mem_nil, or_false]
  omega

/-- The release of a fence whose records are complete: a FENCE issues with it (R217). -/
theorem fenceRelease_issues {s : State} {u v k : Nat} {st : Strm} {i : Img} {r : OpRec} (h : NextIs s u v st 0x01 i k r)
    (hw : (getCtx (tile s u v) st).fenceWait = true) :
    TileSet u v (stepPast s.now st r (tile s u v)) s (fenceRelease u v st s) := by
  obtain ⟨next, hopc, done⟩ := h
  obtain ⟨a, ha⟩ : ∃ a, a = setTile u v (setCtx st { getCtx (tile s u v) st with fenceWait := false } (tile s u v)) s := ⟨_, rfl⟩
  have ta : tile a u v = setCtx st { getCtx (tile s u v) st with fenceWait := false } (tile s u v) := by
    rw [ha, tile_setTile_same]
  have next' : NextIs a u v st 0x01 i k r := by
    refine ⟨?_, hopc, ?_⟩
    · rw [ha, nextRec_fenceWait, next]
    · rw [ta, ← done]
      cases st <;> rfl
  have e : fenceRelease u v st s = issue u v st 0x01 (fun _ _ _ s => s) a := by
    simp [fenceRelease, hw, done, ha]
  have released : TileSet u v (tile a u v) s a := by
    rw [ta, ha]
    exact tileSet_setTile _ (tileSet_refl u v s)
  have now : a.now = s.now := released.now
  rw [e, issue_is _ next', ta, stepPast_fenceWait, now]
  exact tileSet_setTile _ released

end Sys2Proof.Machine
end

section
namespace Sys2Proof
open Machine

/-- Settles O19: `issue_next` and `issue_fence` for the records, `fenceRelease_issues` for the release, and what `stepPast` does to the
stream's context, to the tokens and to the rest of the tile. -/
theorem sequencerRecords : Obligations.SequencerRecords := by
  unfold Obligations.SequencerRecords
  refine ⟨?_, ?_, ?_, ?_, ?_⟩
  · intro u v st i k r s h
    exact congrArg Host.Outcome.next (issue_is _ h)
  · intro u v st i k r s h
    exact congrArg Host.Outcome.next (issue_is _ h)
  · intro u v st i k r s next busy
    exact ⟨fun ho => congrArg Host.Outcome.next (issue_fence _ next ho (.inr rfl) busy),
      fun ho hf => congrArg Host.Outcome.next (issue_fence _ next ho (.inl hf) busy)⟩
  · intro u v st i k r s h hw
    obtain ⟨only, past⟩ := fenceRelease_issues h hw
    exact ⟨_, rfl, only, past⟩
  · intro now st r a
    exact ⟨getCtx_stepPast now st r a, stepPast_tok now st r a, fun st' h => stepPast_other now r a h, stepPast_counts now st r a⟩

end Sys2Proof
end

section
namespace Sys2Proof.Machine

/-! WAIT (07 R210). -/

/-- What a WAIT leaves of its tile: the sett after it, and the stream's context, asleep unless it goes on. -/
def waitTile (st : Strm) (n : Nat) (a : Tile) : Tile :=
  let x := settWait st (mget Sett.blank a.setts n)
  let b := { a with setts := mput Sett.blank n x.1 a.setts }
  if x.2 then b else setCtx st { getCtx b st with sleep := some n, slept := 0, act := none } b

theorem waitRec_eq (u v : Nat) (st : Strm) (i : Img) (k : Nat) (r : OpRec) (s : State) :
    waitRec u v st i k r s = setTile u v (waitTile st (r.p8 52 % 32) (tile s u v)) s := rfl

section
variable (st : Strm) (n : Nat) (a : Tile)

@[simp] theorem waitTile_setts :
    (waitTile st n a).setts = mput Sett.blank n (settWait st (mget Sett.blank a.setts n)).1 a.setts := by
  unfold waitTile
  dsimp only
  split
  · rfl
  · cases st <;> rfl

/-- The stream sleeps on the sett exactly where it does not go on. -/
theorem waitTile_ctx : getCtx (waitTile st n a) st = if (settWait st (mget Sett.blank a.setts n)).2 then getCtx a st
    else { getCtx a st with sleep := some n, slept := 0, act := none } := by
  unfold waitTile
  dsimp only
  split
  · cases st <;> rfl
  · rw [getCtx_setCtx_same]
    cases st <;> rfl

theorem waitTile_shape : ∃ c m, waitTile st n a = setCtx st c { a with setts := m } := by
  unfold waitTile
  dsimp only
  split
  · refine ⟨getCtx a st, mput Sett.blank n (settWait st (mget Sett.blank a.setts n)).1 a.setts, ?_⟩
    cases st <;> rfl
  · exact ⟨_, _, rfl⟩

end

/-! The three cases of R210. -/

theorem settWait_pending {st : Strm} {x : Sett} (h : x.t / strmBit st % 2 = 1) :
    settWait st x = ({ x with t := x.t - strmBit st }, true) := by rw [settWait, if_pos h]

theorem settWait_counted {st : Strm} {x : Sett} (h : x.t / strmBit st % 2 = 0) (hc : 0 < x.count) :
    settWait st x = ({ x with count := x.count - 1 }, true) := by rw [settWait, if_neg (by omega), if_pos hc]

theorem settWait_sleeps {st : Strm} {x : Sett} (h : x.t / strmBit st % 2 = 0) (hc : x.count = 0) :
    settWait st x = ({ x with queue := x.queue ++ [st] }, false) := by rw [settWait, if_neg (by omega), if_neg (by omega)]

end Sys2Proof.Machine
end

section
namespace Sys2Proof
open Machine

/-- Settles O20: the record passes and `waitTile` is what it leaves of the tile, by the three cases of `settWait`. -/
theorem waitOnASett : Obligations.WaitOnASett := by
  unfold Obligations.WaitOnASett
  intro u v st i k r s h
  obtain ⟨-, -, -, awake⟩ := nextRec_some h.1
  have set := tileSet_setTile (waitTile st (r.p8 52 % 32) (stepPast s.now st r (tile s u v)))
    (tileSet_setTile (stepPast s.now st r (tile s u v)) (tileSet_refl u v s))
  refine ⟨_, congrArg Host.Outcome.next (issue_is _ h), ?_⟩
  rw [waitRec_eq, tile_setTile_same]
  refine ⟨set.1, ?_⟩
  rw [set.2]
  dsimp only
  have asleep : (getCtx (stepPast s.now st r (tile s u v)) st).sleep = none := (stepPast_sleep ..).trans awake
  have passed : (getCtx (stepPast s.now st r (tile s u v)) st).pos = (getCtx (tile s u v) st).pos + 1 :=
    stepPast_pos _ _ _ _ (extRecs_seq (by rw [h.2.1]; omega))
  simp only [waitTile_setts, waitTile_ctx, stepPast_setts, mget_mput_same]
  refine ⟨?_, ?_, fun j hj => mget_mput_ne _ hj, fun ht => ?_, fun ht hc => ?_, fun ht hc => ?_⟩
  · obtain ⟨c, n, y, hi, e⟩ := stepPast_counts s.now st r (tile s u v)
    obtain ⟨d, m, e'⟩ := waitTile_shape st (r.p8 52 % 32) (stepPast s.now st r (tile s u v))
    rw [e', e]
    exact ⟨d, m, n, y, hi, by cases st <;> rfl⟩
  · split <;> exact passed
  · rw [settWait_pending ht]
    exact ⟨rfl, asleep⟩
  · rw [settWait_counted ht hc]
    exact ⟨rfl, asleep⟩
  · rw [settWait_sleeps ht hc]
    exact ⟨rfl, rfl⟩

end Sys2Proof
end

section
namespace Sys2Proof.Machine

/-! SIGNAL at a sett of a tile (07 R211, R213, 16 R469). -/

/-- `t` is `s` with events of a perturbation noted: PRT_COUNT and the values in force, and no more. -/
def PrtNoted (s t : State) : Prop := ∃ q a, t = { s with regs := q, asq := { s.asq with prtVals := a } } ∧
  ∀ j, j ≠ pageBase .dbg + 0x070 → rget q j = rget s.regs j

theorem prtNoted_refl (s : State) : PrtNoted s s := ⟨s.regs, s.asq.prtVals, rfl, fun _ _ => rfl⟩

theorem prtNoted_prtEvent (s : State) : PrtNoted s (prtEvent s) := by
  unfold prtEvent bump
  split
  · exact ⟨s.regs, _, rfl, fun _ _ => rfl⟩
  · exact ⟨_, _, rfl, fun j hj => rget_rput_ne _ _ hj⟩

theorem prtNoted_wakeEvent (u v : Nat) (s : State) : PrtNoted s (wakeEvent u v s) := by
  unfold wakeEvent
  dsimp only
  split
  · exact prtNoted_prtEvent s
  · exact prtNoted_refl s

/-- The same after a change of one tile. -/
theorem PrtNoted.afterTile {u v : Nat} {x : Tile} {a s t : State} (h : PrtNoted s t) (g : TileSet u v x a s) :
    (∃ m q p, t = { a with tiles := m, regs := q, asq := { a.asq with prtVals := p } } ∧
      (∀ j, j ≠ tileKey u v → mget Tile.blank m j = mget Tile.blank a.tiles j) ∧
      ∀ j, j ≠ pageBase .dbg + 0x070 → rget q j = rget a.regs j) ∧ tile t u v = x := by
  obtain ⟨⟨m, rfl, others⟩, set⟩ := g
  obtain ⟨q, p, rfl, regs⟩ := h
  exact ⟨⟨m, q, p, rfl, others, regs⟩, set⟩

/-- What a signal leaves of its tile: the sett with its last-signaller record, and the stream that wakes. -/
def signalledTile (k : Nat) (tgt : Option Strm) (w : Signaller) (a : Tile) : Tile :=
  let r := settSignal tgt (mget Sett.blank a.setts k)
  let b := { a with setts := mput Sett.blank k (settLast w r.1) a.setts }
  match r.2 with
  | some st => setCtx st { getCtx b st with sleep := none, slept := 0 } b
  | none => b

section
variable (u v k : Nat) (tgt : Option Strm) (w : Signaller) (opIdx : Nat) (a : Tile) (s : State)

@[simp] theorem signalledTile_setts : (signalledTile k tgt w a).setts =
    mput Sett.blank k (settLast w (settSignal tgt (mget Sett.blank a.setts k)).1) a.setts := by
  unfold signalledTile
  dsimp only
  split
  · next st _ => cases st <;> rfl
  · rfl

theorem signalledTile_sleep (st : Strm) : (getCtx (signalledTile k tgt w a) st).sleep =
    if (settSignal tgt (mget Sett.blank a.setts k)).2 = some st then none else (getCtx a st).sleep := by
  unfold signalledTile
  dsimp only
  split
  · next q e =>
    rw [getCtx_setCtx, e]
    by_cases h : st = q
    · rw [if_pos h, if_pos (by rw [h])]
    · rw [if_neg h, if_neg fun e => h (Option.some.inj e).symm]
      cases st <;> rfl
  · next e =>
    rw [e, if_neg nofun]
    cases st <;> rfl

theorem signalledTile_pos (st : Strm) : (getCtx (signalledTile k tgt w a) st).pos = (getCtx a st).pos := by
  unfold signalledTile
  dsimp only
  split
  · next q e =>
    rw [getCtx_setCtx]
    by_cases h : st = q
    · rw [if_pos h, h]
      cases q <;> rfl
    · rw [if_neg h]
      cases st <;> rfl
  · cases st <;> rfl

/-- A signal that saturates nothing changes its tile, and notes a perturbed wake-up. -/
theorem signalTile_counts (h : settSaturates tgt (mget Sett.blank (tile s u v).setts k) = false) :
    PrtNoted (setTile u v (signalledTile k tgt w (tile s u v)) s) (signalTile u v k tgt w opIdx s) := by
  unfold signalTile signalledTile
  dsimp only
  rw [h, if_neg nofun]
  generalize settSignal tgt (mget Sett.blank (tile s u v).setts k) = p
  obtain ⟨x, woken⟩ := p
  cases woken with
  | some st => exact prtNoted_wakeEvent ..
  | none => exact prtNoted_refl _

/-- A signal that saturates its sett is contract fault 9; it wakes no stream. -/
theorem signalTile_saturates (h : settSaturates tgt (mget Sett.blank (tile s u v).setts k) = true)
    (hn : (settSignal tgt (mget Sett.blank (tile s u v).setts k)).2 = none) :
    signalTile u v k tgt w opIdx s =
      contractFault 9 u v opIdx (setTile u v (signalledTile k tgt w (tile s u v)) s) := by
  unfold signalTile signalledTile
  dsimp only
  rw [h, if_pos rfl, hn]

end

/-! The cases of a signal (R211, R213). -/

section
variable {x : Sett} {st : Strm}

theorem settUp_counts (h : x.count < 65535) : settUp x = { x with count := x.count + 1 } := by rw [settUp, if_pos h]

theorem settSignal_counts (hq : x.queue = []) : settSignal none x = (settUp x, none) := by simp only [settSignal, hq]

theorem settSignal_releases {q : List Strm} (hq : x.queue = st :: q) :
    settSignal none x = ({ x with queue := q }, some st) := by simp only [settSignal, hq]

theorem settSignal_target_waits (h : st ∈ x.queue) :
    settSignal (some st) x = ({ x with queue := x.queue.erase st }, some st) := by simp only [settSignal, if_pos h]

theorem settSignal_target_marks (h : st ∉ x.queue) (ht : x.t / strmBit st % 2 = 0) :
    settSignal (some st) x = ({ x with t := x.t + strmBit st }, none) := by simp only [settSignal, if_neg h, if_pos ht]

theorem settSignal_target_spills (h : st ∉ x.queue) (ht : x.t / strmBit st % 2 = 1) :
    settSignal (some st) x = ({ settUp x with spill := min (x.spill + 1) 255 }, none) := by
  simp only [settSignal, if_neg h, if_neg (show ¬ x.t / strmBit st % 2 = 0 by omega)]

theorem settSaturates_below (tgt : Option Strm) (h : x.count < 65535) : settSaturates tgt x = false := by
  simp [settSaturates, show ¬ 65535 ≤ x.count by omega]

/-- A signal that would raise COUNT above 65,535: the sett keeps its count and is marked (R213). -/
theorem settSignal_full {tgt : Option Strm} (hc : x.count = 65535) (hn : (settSignal tgt x).2 = none)
    (ht : ∀ st, tgt = some st → x.t / strmBit st % 2 = 1) :
    settSaturates tgt x = true ∧ ∃ n, (settSignal tgt x).1 = { x with sat := true, spill := n } := by
  have up : settUp x = { x with sat := true } := by rw [settUp, if_neg (by omega)]
  cases tgt with
  | none =>
    cases hq : x.queue with
    | nil => exact ⟨by simp [settSaturates, hc, hq], x.spill, by rw [settSignal_counts hq, up, ← hq]⟩
    | cons q l => simp [settSignal_releases hq] at hn
  | some st =>
    have out : st ∉ x.queue := fun h => by simp [settSignal_target_waits h] at hn
    have marked := ht st rfl
    exact ⟨by simp [settSaturates, hc, out, marked], min (x.spill + 1) 255, by rw [settSignal_target_spills out marked, up]⟩

end

/-- A SIGNAL to its own tile whose earlier records are complete signals the sett (R211, R218). -/
theorem signalRec_own {s : State} {u v k : Nat} {st : Strm} {i : Img} {r : OpRec} (hd : strmDone (tile s u v) st = true)
    (ho : (r.p8 53).testBit 2 = false) : signalRec u v st i k r s =
      signalTile u v (r.p8 52 % 32) (strmOf (r.p8 53 % 4)) ⟨u, v, strmCode st, bodyTick s⟩ k s := by
  simp [signalRec, unfencedCheck, hd, ho]

end Sys2Proof.Machine
end

section
namespace Sys2Proof
open Machine

/-- Settles O21: the record passes, the sett is signalled (`signalTile_counts`), by the cases of `settSignal`. -/
theorem signalOnASett : Obligations.SignalOnASett := by
  unfold Obligations.SignalOnASett
  intro u v st i k r s h own below
  obtain ⟨a, ha⟩ : ∃ a, a = setTile u v (stepPast s.now st r (tile s u v)) s := ⟨_, rfl⟩
  have past : TileSet u v (stepPast s.now st r (tile s u v)) s a := by rw [ha]; exact tileSet_setTile _ (tileSet_refl u v s)
  have ta := past.2
  have setts : (tile a u v).setts = (tile s u v).setts := by rw [ta, stepPast_setts]
  have done : strmDone (tile a u v) st = true := by rw [ta, strmDone, stepPast_ops]; exact h.2.2
  obtain ⟨w, hw⟩ : ∃ w : Signaller, w = ⟨u, v, strmCode st, bodyTick s⟩ := ⟨_, rfl⟩
  have same : (⟨u, v, strmCode st, bodyTick a⟩ : Signaller) = w := by rw [ha, hw]; rfl
  obtain ⟨shape, tb⟩ := (signalTile_counts u v (r.p8 52 % 32) (strmOf (r.p8 53 % 4)) w k a
    (settSaturates_below _ (by rw [setts]; exact below))).afterTile (tileSet_setTile _ past)
  refine ⟨_, congrArg Host.Outcome.next (issue_is _ h), ?_⟩
  rw [← ha, signalRec_own done own, same, tb, ← hw]
  dsimp only
  have pos : (getCtx (tile a u v) st).pos = (getCtx (tile s u v) st).pos + 1 := by
    rw [ta, stepPast_pos _ _ _ _ (extRecs_seq (by rw [h.2.1]; omega))]
  have sleep : ∀ st', (getCtx (tile a u v) st').sleep = (getCtx (tile s u v) st').sleep := fun st' => by rw [ta, stepPast_sleep]
  simp only [signalledTile_setts, signalledTile_pos, signalledTile_sleep, setts, sleep, mget_mput_same]
  generalize mget Sett.blank (tile s u v).setts (r.p8 52 % 32) = y at below ⊢
  refine ⟨shape, pos, fun j hj => mget_mput_ne _ hj, fun ht hq => ?_, fun x l ht hq => ?_, fun x ht hx => ?_, fun x ht hx hm => ?_, fun x ht hx hm => ?_⟩
  · rw [ht, settSignal_counts (x := y) hq, settUp_counts below]
    exact ⟨rfl, fun _ => if_neg nofun⟩
  · rw [ht, settSignal_releases (x := y) hq]
    exact ⟨rfl, if_pos rfl, fun y hy => if_neg fun e => hy (Option.some.inj e).symm⟩
  · rw [ht, settSignal_target_waits (x := y) hx]
    exact ⟨rfl, if_pos rfl, fun y hy => if_neg fun e => hy (Option.some.inj e).symm⟩
  · rw [ht, settSignal_target_marks (x := y) hx hm]
    exact ⟨rfl, fun _ => if_neg nofun⟩
  · rw [ht, settSignal_target_spills (x := y) hx hm, settUp_counts below]
    exact ⟨rfl, fun _ => if_neg nofun⟩

/-- Settles O22: the signal is contract fault 9 (`signalTile_saturates`), on the tile that `settSignal_full` describes. -/
theorem settSaturation : Obligations.SettSaturation := by
  unfold Obligations.SettSaturation
  intro u v k tgt w opIdx s idle live full quiet marked
  obtain ⟨sat, n, sett⟩ := settSignal_full full quiet marked
  obtain ⟨asq, bit, tiles, -, -, -, first, -, count⟩ := contractFault_spec 9 u v opIdx
    (setTile u v (signalledTile k tgt w (tile s u v)) s) (by omega) idle
  dsimp only
  rw [signalTile_saturates u v k tgt w opIdx s sat quiet]
  have t : mget Sett.blank (tile (contractFault 9 u v opIdx (setTile u v (signalledTile k tgt w (tile s u v)) s)) u v).setts k =
      settLast w { mget Sett.blank (tile s u v).setts k with sat := true, spill := n } := by
    rw [tile, tiles, ← tile, tile_setTile_same, signalledTile_setts, mget_mput_same, sett]
  rw [t, asq]
  exact ⟨full, rfl, rfl, rfl, rfl, rfl, rfl, rfl, bit, decide_eq_true live, count, first⟩

end Sys2Proof
end

section
namespace Sys2Proof.Machine

/-! SETT_TIMEOUT (07 R215, 15 R431). -/

/-- The sequencer once a tile has sent a halt while ticks run (06 R169). -/
def haltedFrom (u v : Nat) (s : State) : Asq := { s.asq with
  haltPend := true
  voided := true
  halted := true
  haltHops := s.asq.haltHops + 1
  haltFrom := if inImage s u v then (u, v) :: s.asq.haltFrom else s.asq.haltFrom }

theorem callHalt_haltAt (u v : Nat) {s : State} (hr : s.run = .run) :
    callHalt (haltAt u v s) = { s with asq := haltedFrom u v s } := by
  obtain ⟨b, hb⟩ : ∃ b : State, b = { s with asq := { s.asq with
    haltFrom := if inImage s u v then (u, v) :: s.asq.haltFrom else s.asq.haltFrom } } := ⟨_, rfl⟩
  have sent : haltAt u v s = b := by
    rw [haltAt, moving_run hr, hb]
    cases inImage s u v <;> rfl
  have runs : moving b = true := moving_run (by rw [hb]; exact hr)
  rw [sent, callHalt, if_pos runs, hb]
  rfl

/-- The tile of a stream that has slept too long on sett `k`. -/
def settTimedOut (k : Nat) (a : Tile) : Tile :=
  { a with setts := mput Sett.blank k { mget Sett.blank a.setts k with tmo := true } a.setts }

theorem settTimeout_due {s : State} {u v k : Nat} {st : Strm} {i : Img} (hi : s.image = some i) (hr : s.run = .run)
    (hs : (getCtx (tile s u v) st).sleep = some k) (hn : 2 ^ i.settTmo ≤ (getCtx (tile s u v) st).slept) :
    settTimeout u v st s = { setTile u v (settTimedOut k (tile s u v)) s with asq := haltedFrom u v s } := by
  have due : (decide (s.run ≠ .run) || decide ((getCtx (tile s u v) st).slept < 2 ^ i.settTmo)) = false := by
    simp [hr, hn]
  unfold settTimeout
  simp only [hi, hs]
  rw [due, if_neg nofun]
  exact callHalt_haltAt u v hr

/-! Combines: what one more input at a router comes to (05 R142, R143). -/

theorem tileKeeps_pos {a b : Tile} (h : TileKeeps a b) (st : Strm) : (getCtx b st).pos = (getCtx a st).pos := by
  cases st
  · exact h.posF
  · exact h.posB
  · exact h.posW

/-- From `s` to `t` every tile keeps its overflow causes. -/
def OvfKept (s t : State) : Prop := ∀ k, (mget Tile.blank t.tiles k).ovf = (mget Tile.blank s.tiles k).ovf

theorem ovfKept_trans {a b c : State} (h : OvfKept a b) (g : OvfKept b c) : OvfKept a c := fun k => (g k).trans (h k)

theorem ovfKept_setTile {u v : Nat} {x : Tile} {s : State} (h : x.ovf = (tile s u v).ovf) : OvfKept s (setTile u v x s) := by
  intro k
  rw [setTile, mget_mput]
  split
  · next e => rw [h, tile, e]
  · rfl

theorem ovfKept_forAll {α : Type} (l : List α) {f : α → State → State} (hf : ∀ x s, OvfKept s (f x s)) (s : State) :
    OvfKept s (forAll l f s) := by
  induction l generalizing s with
  | nil => exact fun _ => rfl
  | cons x l ih => exact ovfKept_trans (hf x s) (ih _)

theorem ovfKept_noteWait (u v w : Nat) (s : State) : OvfKept s (noteWait u v w s) := by
  unfold noteWait
  dsimp only
  split
  · exact fun _ => rfl
  · exact ovfKept_setTile rfl

theorem ovfKept_downWaits (k : Nat) (i : Img) (u v cyc : Nat) (s : State) : OvfKept s (downWaits k i u v cyc s) := by
  induction k generalizing u v cyc s with
  | zero => exact fun _ => rfl
  | succ k ih =>
    rw [downWaits]
    split
    · exact fun _ => rfl
    · exact ovfKept_forAll _ (fun q s => ovfKept_trans (ovfKept_noteWait _ _ _ _) (ih _ _ _ _)) s

theorem freeBarrier_ovf (now : Nat) (st : Strm) (idx : Nat) (t : Tile) : (freeBarrier now st idx t).ovf = t.ovf := by
  unfold freeBarrier
  dsimp only
  split
  · rfl
  · split <;> cases st <;> rfl

theorem ovfKept_combineDown {s : State} {i : Img} (hi : s.image = some i) (u v idx flags cyc : Nat) (mx : List W32) :
    OvfKept s (combineDown u v idx flags cyc mx s) := by
  unfold combineDown
  simp only [hi]
  refine ovfKept_trans (ovfKept_downWaits (hopFuel s) i u v cyc s) (ovfKept_forAll _ (fun p s => ovfKept_setTile ?_) _)
  simp only [tokEvent, List.foldl_cons, List.foldl_nil, freeBarrier_ovf]

/-- From `s` to `t` combines have gone on: tiles and results change, and each tile keeps what it computes with and its causes. -/
structure CombKept (s t : State) : Prop where
  shape : ∃ m r, t = { s with tiles := m, asq := { s.asq with results := r } }
  keeps : TilesKeep s t
  ovf : OvfKept s t

theorem combKept_refl (s : State) : CombKept s s := ⟨⟨s.tiles, s.asq.results, rfl⟩, tilesKeep_of_tiles rfl, fun _ => rfl⟩

theorem combKept_trans {a b c : State} (h : CombKept a b) (g : CombKept b c) : CombKept a c := by
  obtain ⟨⟨_, _, rfl⟩, hk, ho⟩ := h
  obtain ⟨⟨m, r, rfl⟩, gk, go⟩ := g
  exact ⟨⟨m, r, rfl⟩, tilesKeep_trans hk gk, ovfKept_trans ho go⟩

theorem CombKept.image {s t : State} (h : CombKept s t) : t.image = s.image := by obtain ⟨⟨_, _, rfl⟩, -, -⟩ := h; rfl

theorem combKept_setTile {u v : Nat} {x : Tile} {s : State} (h : TileKeeps (tile s u v) x) (ho : x.ovf = (tile s u v).ovf) :
    CombKept s (setTile u v x s) := ⟨⟨_, s.asq.results, rfl⟩, tilesKeep_setTile h, ovfKept_setTile ho⟩

theorem combKept_combineDown {s : State} {i : Img} (hi : s.image = some i) (u v idx flags cyc : Nat) (mx : List W32) :
    CombKept s (combineDown u v idx flags cyc mx s) := by
  obtain ⟨⟨m, shape⟩, keeps, -⟩ := combineDown_spec hi u v idx flags cyc mx
  exact ⟨⟨m, _, shape⟩, keeps, ovfKept_combineDown hi u v idx flags cyc mx⟩

/-- From `s` to `t` every stream waits for the barrier that it waited for. -/
def BarriersKept (s t : State) : Prop := ∀ x y st, (getCtx (tile t x y) st).barrier = (getCtx (tile s x y) st).barrier

theorem barriersKept_trans {a b c : State} (h : BarriersKept a b) (g : BarriersKept b c) : BarriersKept a c :=
  fun x y st => (g x y st).trans (h x y st)

theorem barriersKept_setTile {u v : Nat} {x : Tile} {s : State}
    (h : ∀ st, (getCtx x st).barrier = (getCtx (tile s u v) st).barrier) : BarriersKept s (setTile u v x s) :=
  fun x y st => tile_setTile_value (fun t => (getCtx t st).barrier) (h st) x y

/-- The state of a router that sends a combine on: its entry gone, its wait and the link's tokens counted. -/
theorem forwarded_kept (u v w : Nat) (l : List Comb) (s : State) :
    CombKept s (charge u v 2 (noteWait u v w (setTile u v { tile s u v with comb := l } s))) ∧
    BarriersKept s (charge u v 2 (noteWait u v w (setTile u v { tile s u v with comb := l } s))) := by
  have entry := combKept_setTile (s := s) (u := u) (v := v) (x := { tile s u v with comb := l })
    ⟨rfl, rfl, rfl, rfl, rfl, rfl, rfl, rfl⟩ rfl
  have entryB : BarriersKept s (setTile u v { tile s u v with comb := l } s) :=
    barriersKept_setTile fun st => by cases st <;> rfl
  generalize setTile u v { tile s u v with comb := l } s = a at entry entryB
  have wait : CombKept a (noteWait u v w a) ∧ BarriersKept a (noteWait u v w a) := by
    unfold noteWait
    dsimp only
    split
    · exact ⟨combKept_refl a, fun _ _ _ => rfl⟩
    · exact ⟨combKept_setTile ⟨rfl, rfl, rfl, rfl, rfl, rfl, rfl, rfl⟩ rfl, barriersKept_setTile fun st => by cases st <;> rfl⟩
  generalize noteWait u v w a = b at wait
  have link : CombKept b (charge u v 2 b) ∧ BarriersKept b (charge u v 2 b) := by
    rcases charge_spec u v 2 b with e | ⟨_, _, _, e⟩ <;> rw [e]
    · exact ⟨combKept_refl b, fun _ _ _ => rfl⟩
    · exact ⟨combKept_setTile ⟨rfl, rfl, rfl, rfl, rfl, rfl, rfl, rfl⟩ rfl, barriersKept_setTile fun st => by cases st <;> rfl⟩
  exact ⟨combKept_trans entry (combKept_trans wait.1 link.1), barriersKept_trans entryB (barriersKept_trans wait.2 link.2)⟩

theorem combineAt_forwards {s : State} {i : Img} {u v : Nat} {p out : Port} {idx flags : Nat} {mx : List W32} (k cyc : Nat)
    (hi : s.image = some i) (h : combFull s i u v (addNew p (combOf idx (tile s u v)).got)) (hu : combUp i u v = some out) :
    combineAt (k + 1) u v p idx flags cyc mx s = combineAt k (beyond u v out).1 (beyond u v out).2.1 (beyond u v out).2.2 idx
      (combWith p idx flags mx (tile s u v)).flags (cyc + ctlWait i u v out cyc + 2)
      (combWith p idx flags mx (tile s u v)).maxima (charge u v 2 (noteWait u v (ctlWait i u v out cyc)
        (setTile u v { tile s u v with comb := (tile s u v).comb.filter fun c => c.idx ≠ idx } s))) := by
  rw [← combFull_iff] at h
  rw [combineAt]
  simp only [hi, hu]
  rw [if_neg (by rw [← combOf, h]; simp)]
  rfl

/-- One more input of a combine: it waits at a router, where no barrier changes, or completes at the root, which frees every barrier
on its index. By induction on the routers up to the root. -/
theorem combineAt_outcome (k u v : Nat) (p : Port) (idx flags cyc : Nat) (mx : List W32) (s : State) :
    CombKept s (combineAt k u v p idx flags cyc mx s) ∧
    (BarriersKept s (combineAt k u v p idx flags cyc mx s) ∨
      ∀ x y st, inImage s x y = true → (getCtx (tile (combineAt k u v p idx flags cyc mx s) x y) st).barrier ≠ some idx) := by
  induction k generalizing u v p flags cyc mx s with
  | zero => exact ⟨combKept_refl s, .inl fun _ _ _ => rfl⟩
  | succ k ih =>
    cases hi : s.image with
    | none =>
      have e : combineAt (k + 1) u v p idx flags cyc mx s = s := by rw [combineAt]; simp only [hi]
      rw [e]
      exact ⟨combKept_refl s, .inl fun _ _ _ => rfl⟩
    | some i =>
      by_cases full : combFull s i u v (addNew p (combOf idx (tile s u v)).got)
      · cases up : combUp i u v with
        | none =>
          have kept := combKept_setTile (s := s) (u := u) (v := v)
            (x := { tile s u v with comb := (tile s u v).comb.filter fun c => c.idx ≠ idx })
            ⟨rfl, rfl, rfl, rfl, rfl, rfl, rfl, rfl⟩ rfl
          rw [combineAt_root k cyc hi full up]
          generalize setTile u v { tile s u v with comb := (tile s u v).comb.filter fun c => c.idx ≠ idx } s = a at kept
          have ai : a.image = some i := kept.image.trans hi
          obtain ⟨-, -, free⟩ := combineDown_spec ai (i.reqU / 2) (i.reqV / 2) idx
            (combWith p idx flags mx (tile s u v)).flags cyc (combWith p idx flags mx (tile s u v)).maxima
          simp only [combineDone, ai]
          exact ⟨combKept_trans kept (combKept_combineDown ai ..), .inr fun x y st hin =>
            free x y st ((inImage_congr kept.image x y).trans hin) (combBelow_root i x y)⟩
        | some out =>
          obtain ⟨sent, sentB⟩ := forwarded_kept u v (ctlWait i u v out cyc) ((tile s u v).comb.filter fun c => c.idx ≠ idx) s
          rw [combineAt_forwards k cyc hi full up]
          generalize charge u v 2 _ = a at sent sentB
          obtain ⟨kept, bars⟩ := ih (beyond u v out).1 (beyond u v out).2.1 (beyond u v out).2.2
            (combWith p idx flags mx (tile s u v)).flags (cyc + ctlWait i u v out cyc + 2)
            (combWith p idx flags mx (tile s u v)).maxima a
          exact ⟨combKept_trans sent kept, bars.imp (barriersKept_trans sentB) fun free x y st hin =>
            free x y st ((inImage_congr sent.image x y).trans hin)⟩
      · rw [combineAt_waits k cyc hi full]
        exact ⟨combKept_setTile ⟨rfl, rfl, rfl, rfl, rfl, rfl, rfl, rfl⟩ rfl,
          .inl (barriersKept_setTile fun st => by cases st <;> rfl)⟩

theorem combKept_contribute (u v idx flags : Nat) (mx : List W32) (s : State) : CombKept s (contribute u v idx flags mx s) :=
  (combineAt_outcome ..).1

/-! LADDER_END (06 R180, 04 R103, R111). -/

/-- A tile whose maxima and causes of an attempt have joined the combine of their unit. -/
def attemptJoined (i : Img) (unit : Nat) (a : Tile) : Tile :=
  { a with ovf := mput 0 unit 0 a.ovf, amax := (maxKeys i unit).foldl (fun m k => mput 0 k 0 m) a.amax }

/-- The decision of a unit falls due, where none is due. -/
def decisionDue (i : Img) (unit : Nat) (s : State) : State :=
  if (unitSt s unit).due.isNone then
    { s with asq := { s.asq with
      units := mput default unit { unitSt s unit with due := some (kd i (ncomb i unit)) } s.asq.units } }
  else s

/-- A LADDER_END: the check is abandoned, the tile's attempt ends, the decision falls due, and the combines of the unit follow. -/
theorem ladderRec_eq (u v : Nat) (i : Img) (k : Nat) (r : OpRec) (s : State) : ∃ (flags : Nat) (mx : Nat → List W32), ladderRec u v i k r s =
    (List.range (ncomb i r.unit)).foldl (fun s k => contribute u v (combBase i r.unit + k) flags (mx k) s)
      (decisionDue i r.unit (setTile u v (attemptJoined i r.unit (tile (abandonCheck u v r.unit s) u v))
        (abandonCheck u v r.unit s))) := ⟨_, _, rfl⟩

/-- From `a` to `t` tiles, registers and events may differ, and nothing else. -/
def TilesAndEvents (a t : State) : Prop := ∃ m q e o, t = { a with
  tiles := m
  regs := q
  evc := e
  out := o }

theorem tilesAndEvents_setTile (u v : Nat) (x : Tile) (s : State) : TilesAndEvents s (setTile u v x s) :=
  ⟨_, s.regs, s.evc, s.out, rfl⟩

theorem tilesAndEvents_bump (pg : Page) (o n : Nat) {a s : State} (h : TilesAndEvents a s) : TilesAndEvents a (bump pg o s n) := by
  obtain ⟨q, e⟩ := bump_shape pg o n s
  obtain ⟨m, _, ev, out, rfl⟩ := h
  exact ⟨m, q, ev, out, e⟩

theorem tilesAndEvents_setErr (pg : Page) (n : Nat) {a s : State} (h : TilesAndEvents a s) : TilesAndEvents a (setErr pg n s) := by
  obtain ⟨q, ev, out, e⟩ := setErr_shape pg n s
  obtain ⟨m, _, _, _, rfl⟩ := h
  exact ⟨m, _, _, _, e⟩

theorem abandonCheck_spec (u v unit : Nat) (s : State) :
    TilesAndEvents s (abandonCheck u v unit s) ∧ TilesKeep s (abandonCheck u v unit s) := by
  unfold abandonCheck
  dsimp only
  split
  · split
    · exact ⟨tilesAndEvents_setErr _ _ (tilesAndEvents_bump _ _ _ (tilesAndEvents_setTile ..)),
        tilesKeep_trans (tilesKeep_setTile (u := u) (v := v) (x := { tile s u v with owl := none })
          ⟨rfl, rfl, rfl, rfl, rfl, rfl, rfl, rfl⟩) (tilesKeep_of_tiles (by rw [setErr_tiles, bump_tiles]))⟩
    · exact ⟨⟨s.tiles, s.regs, s.evc, s.out, rfl⟩, tilesKeep_of_tiles rfl⟩
  · exact ⟨⟨s.tiles, s.regs, s.evc, s.out, rfl⟩, tilesKeep_of_tiles rfl⟩

theorem decisionDue_shape (i : Img) (unit : Nat) (s : State) : ∃ x, decisionDue i unit s = { s with asq := x } := by
  unfold decisionDue
  split
  · exact ⟨_, rfl⟩
  · exact ⟨s.asq, rfl⟩

/-- A decision that is due already stays. -/
theorem unitSt_decisionDue (i : Img) (unit : Nat) (s : State) : (unitSt (decisionDue i unit s) unit).due =
    some ((unitSt s unit).due.getD (kd i (ncomb i unit))) := by
  unfold decisionDue
  cases h : (unitSt s unit).due with
  | none =>
    rw [if_pos (show (none : Option Nat).isNone = true from rfl)]
    exact congrArg UnitSt.due (mget_mput_same ..)
  | some d => rw [if_neg nofun, h]; rfl

theorem combKept_contributions (u v base flags : Nat) (mx : Nat → List W32) (l : List Nat) (s : State) :
    CombKept s (l.foldl (fun s k => contribute u v (base + k) flags (mx k) s) s) := by
  induction l generalizing s with
  | nil => exact combKept_refl s
  | cons k l ih => exact combKept_trans (combKept_contribute ..) (ih _)

/-- What a LADDER_END record does beside moving past it. -/
theorem ladderRec_spec (u v : Nat) (i : Img) (k : Nat) (r : OpRec) (s : State) :
    (∃ m a q e o, ladderRec u v i k r s = { s with tiles := m, asq := a, regs := q, evc := e, out := o }) ∧
    TilesKeep s (ladderRec u v i k r s) ∧ mget 0 (tile (ladderRec u v i k r s) u v).ovf r.unit = 0 ∧
    (unitSt (ladderRec u v i k r s) r.unit).due = some ((unitSt s r.unit).due.getD (kd i (ncomb i r.unit))) := by
  obtain ⟨flags, mx, e⟩ := ladderRec_eq u v i k r s
  obtain ⟨⟨m, q, ev, o, cut⟩, cutKeeps⟩ := abandonCheck_spec u v r.unit s
  rw [e]
  have units : unitSt (abandonCheck u v r.unit s) r.unit = unitSt s r.unit := by rw [cut]; rfl
  generalize abandonCheck u v r.unit s = a at cut cutKeeps units
  have joined : TilesKeep a (setTile u v (attemptJoined i r.unit (tile a u v)) a) :=
    tilesKeep_setTile ⟨rfl, rfl, rfl, rfl, rfl, rfl, rfl, rfl⟩
  obtain ⟨x, due⟩ := decisionDue_shape i r.unit (setTile u v (attemptJoined i r.unit (tile a u v)) a)
  have unit := unitSt_decisionDue i r.unit (setTile u v (attemptJoined i r.unit (tile a u v)) a)
  have ovf : mget 0 (tile (decisionDue i r.unit (setTile u v (attemptJoined i r.unit (tile a u v)) a)) u v).ovf r.unit = 0 := by
    rw [due]
    exact (congrArg (fun t : Tile => mget 0 t.ovf r.unit) (tile_setTile_same ..)).trans
      (mget_mput_same (d := 0) (m := (tile a u v).ovf) r.unit 0)
  have kept := combKept_contributions u v (combBase i r.unit) flags mx (List.range (ncomb i r.unit))
    (decisionDue i r.unit (setTile u v (attemptJoined i r.unit (tile a u v)) a))
  generalize List.foldl _ _ _ = t at kept
  obtain ⟨⟨m', res, shape⟩, keeps, ovfs⟩ := kept
  refine ⟨⟨m', _, q, ev, o, by rw [shape, due, cut]; rfl⟩, ?_, ?_, ?_⟩
  · exact tilesKeep_trans cutKeeps (tilesKeep_trans joined (tilesKeep_trans (tilesKeep_of_tiles (by rw [due])) keeps))
  · rw [tile, ovfs]
    exact ovf
  · rw [← units]
    exact (congrArg UnitSt.due (show unitSt t r.unit = _ by rw [shape]; rfl)).trans unit

/-! BARRIER (05 R142). -/

/-- A BARRIER record: its stream waits for the combine, unless that completes with it. -/
theorem barrierRec_spec (u v : Nat) (st : Strm) (i : Img) (k : Nat) (r : OpRec) (s : State) :
    (∃ m x, barrierRec u v st i k r s = { s with tiles := m, asq := x }) ∧ TilesKeep s (barrierRec u v st i k r s) ∧
    ((getCtx (tile (barrierRec u v st i k r s) u v) st).barrier = some (r.p16 54) ∨
      ∀ x y st', inImage s x y = true → (getCtx (tile (barrierRec u v st i k r s) x y) st').barrier ≠ some (r.p16 54)) := by
  obtain ⟨a, ha⟩ : ∃ a, a = setTile u v (setCtx st { getCtx (tile s u v) st with barrier := some (r.p16 54) } (tile s u v)) s :=
    ⟨_, rfl⟩
  have e : barrierRec u v st i k r s = contribute u v (r.p16 54) 0 [] a := by rw [ha]; rfl
  have waits : (getCtx (tile a u v) st).barrier = some (r.p16 54) := by rw [ha, tile_setTile_same, getCtx_setCtx_same]
  have kept : TilesKeep s a := by
    rw [ha]
    refine tilesKeep_setTile ?_
    cases st <;> exact ⟨rfl, rfl, rfl, rfl, rfl, rfl, rfl, rfl⟩
  obtain ⟨⟨⟨m, res, shape⟩, keeps, -⟩, bars⟩ := combineAt_outcome (hopFuel a) u v .l (r.p16 54) 0 (a.now - a.asq.tickAt) [] a
  rw [e, contribute]
  refine ⟨⟨m, _, by rw [shape, ha]; rfl⟩, tilesKeep_trans kept keeps, bars.imp (fun b => (b u v st).trans waits) ?_⟩
  exact fun free x y st' hin => free x y st' ((inImage_congr (by rw [ha]; rfl) x y).trans hin)

/-- Memories, accumulators, setts and operations of every tile stay when a stream passes a record. -/
theorem stepPast_workKept (u v : Nat) (st : Strm) (r : OpRec) (s : State) (j : Nat) : WorkKept (mget Tile.blank s.tiles j)
    (mget Tile.blank (setTile u v (stepPast s.now st r (tile s u v)) s).tiles j) := by
  rw [setTile, mget_mput]
  split
  · next e =>
    obtain ⟨c, n, y, h, past⟩ := stepPast_counts s.now st r (tile s u v)
    rw [past, e, ← tile]
    cases st <;> exact ⟨rfl, rfl, rfl, rfl⟩
  · exact workKept_refl _

theorem workKept_of_keeps {a b : Tile} (h : TileKeeps a b) : WorkKept a b := ⟨h.sram, h.acc, h.setts, h.ops⟩

end Sys2Proof.Machine
end

section
namespace Sys2Proof
open Machine

/-- Settles O23: the timeout by `settTimeout_due`, and both records past `stepPast` by `ladderRec_spec` and `barrierRec_spec`, which rest
on what a contribution to a combine comes to (`combineAt_outcome`). -/
theorem timeoutLadderEndBarrier : Obligations.TimeoutLadderEndBarrier := by
  unfold Obligations.TimeoutLadderEndBarrier
  refine ⟨?_, ?_, ?_⟩
  · intro u v st i k s hi hr hs hn
    refine ⟨_, congrArg Host.Outcome.next (settTimeout_due hi hr hs hn), rfl, ?_, _, rfl, tile_setTile_same ..⟩
    exact ⟨_, rfl, fun j hj => mget_mput_ne _ hj⟩
  · intro u v st i k r s h
    have pos := stepPast_pos s.now st r (tile s u v) (extRecs_seq (by rw [h.2.1]; omega))
    have past := stepPast_workKept u v st r s
    refine ⟨_, congrArg Host.Outcome.next (issue_is _ h), ?_⟩
    obtain ⟨a, ha⟩ : ∃ a, a = setTile u v (stepPast s.now st r (tile s u v)) s := ⟨_, rfl⟩
    rw [← ha] at past ⊢
    obtain ⟨⟨m, x, q, e, o, shape⟩, keeps, ovf, due⟩ := ladderRec_spec u v i k r a
    have units : unitSt a r.unit = unitSt s r.unit := by rw [ha]; rfl
    rw [units] at due
    refine ⟨⟨m, x, q, e, o, by rw [shape, ha]; rfl⟩, ?_, ovf, fun none => by rw [due, none]; rfl,
      fun d some => by rw [due, some]; rfl, fun j => workKept_trans (past j) (workKept_of_keeps (keeps j))⟩
    rw [tileKeeps_pos (tilesKeep_tile keeps u v) st, ha, tile_setTile_same, pos]
  · intro u v st i k r s h
    have pos := stepPast_pos s.now st r (tile s u v) (extRecs_seq (by rw [h.2.1]; omega))
    have past := stepPast_workKept u v st r s
    refine ⟨_, congrArg Host.Outcome.next (issue_is _ h), ?_⟩
    obtain ⟨a, ha⟩ : ∃ a, a = setTile u v (stepPast s.now st r (tile s u v)) s := ⟨_, rfl⟩
    rw [← ha] at past ⊢
    obtain ⟨⟨m, x, shape⟩, keeps, bars⟩ := barrierRec_spec u v st i k r a
    refine ⟨⟨m, x, by rw [shape, ha]; rfl⟩, ?_, bars.imp id ?_, fun j => workKept_trans (past j) (workKept_of_keeps (keeps j))⟩
    · rw [tileKeeps_pos (tilesKeep_tile keeps u v) st, ha, tile_setTile_same, pos]
    · exact fun free x y st' hin => free x y st' ((inImage_congr (by rw [ha]; rfl) x y).trans hin)

end Sys2Proof
end

section
namespace Sys2Proof.Machine

/-! A control flit crosses a mesh in which no other one waits (05 R123, R131 to R134). -/

/-- Tile `b` is `a` after traffic on the control channel: tokens and the longest wait are counted. -/
def Routed (a b : Tile) : Prop := ∃ n y h c, b = { a with
  tok := n
  cyc := y
  tokHi := h
  ctr := c }

theorem routed_refl (a : Tile) : Routed a a := ⟨a.tok, a.cyc, a.tokHi, a.ctr, rfl⟩

theorem routed_trans {a b c : Tile} (h : Routed a b) (g : Routed b c) : Routed a c := by
  obtain ⟨_, _, _, _, rfl⟩ := h
  obtain ⟨n, y, x, z, rfl⟩ := g
  exact ⟨n, y, x, z, rfl⟩

theorem Routed.ctl {a b : Tile} (h : Routed a b) : b.ctl = a.ctl := by obtain ⟨_, _, _, _, rfl⟩ := h; rfl
theorem Routed.fenced {a b : Tile} (h : Routed a b) : b.fenced = a.fenced := by obtain ⟨_, _, _, _, rfl⟩ := h; rfl
theorem Routed.sram {a b : Tile} (h : Routed a b) : b.sram = a.sram := by obtain ⟨_, _, _, _, rfl⟩ := h; rfl

theorem Routed.keeps {a b : Tile} (h : Routed a b) : TileKeeps a b := by
  obtain ⟨_, _, _, _, rfl⟩ := h
  exact ⟨rfl, rfl, rfl, rfl, rfl, rfl, rfl, rfl⟩

/-- From `s` to `t` only that changes, at any tile. -/
def TilesRouted (s t : State) : Prop :=
  (∃ m, t = { s with tiles := m }) ∧ ∀ k, Routed (mget Tile.blank s.tiles k) (mget Tile.blank t.tiles k)

theorem tilesRouted_refl (s : State) : TilesRouted s s := ⟨⟨s.tiles, rfl⟩, fun _ => routed_refl _⟩

theorem tilesRouted_trans {a b c : State} (h : TilesRouted a b) (g : TilesRouted b c) : TilesRouted a c := by
  obtain ⟨⟨_, rfl⟩, h⟩ := h
  obtain ⟨⟨m, rfl⟩, g⟩ := g
  exact ⟨⟨m, rfl⟩, fun k => routed_trans (h k) (g k)⟩

theorem tilesRouted_of_tileSet {u v : Nat} {x : Tile} {s t : State} (h : TileSet u v x s t) (hx : Routed (tile s u v) x) :
    TilesRouted s t := by
  obtain ⟨⟨m, rfl, others⟩, set⟩ := h
  refine ⟨⟨m, rfl⟩, fun k => ?_⟩
  by_cases e : k = tileKey u v
  · have new : mget Tile.blank m (tileKey u v) = x := set
    rw [e, new]
    exact hx
  · exact (others k e).symm ▸ routed_refl _

theorem tilesRouted_charge (u v n : Nat) (s : State) : TilesRouted s (charge u v n s) := by
  rcases charge_spec u v n s with e | ⟨k, x, c, e⟩ <;> rw [e]
  · exact tilesRouted_refl s
  · exact tilesRouted_of_tileSet (tileSet_setTile _ (tileSet_refl u v s)) ⟨k, c, x, (tile s u v).ctr, rfl⟩

theorem tilesRouted_noteWait (u v w : Nat) (s : State) : TilesRouted s (noteWait u v w s) := by
  obtain ⟨c, set, -⟩ := noteWait_tileSet u v w s
  exact tilesRouted_of_tileSet set ⟨(tile s u v).tok, (tile s u v).cyc, (tile s u v).tokHi, c, rfl⟩

/-- An entry that a map finds is one of its entries. -/
theorem mem_of_mfind {α : Type} {m : SMap α} {k : Nat} {x : α} (h : mfind m k = some x) : (k, x) ∈ m := by
  induction m with
  | nil => cases h
  | cons e m ih =>
    rw [mfind] at h
    split at h
    · next hk => rw [hk, ← Option.some.inj h]; exact List.mem_cons_self
    · exact List.mem_cons_of_mem _ (ih h)

/-- No control flit waits in the mesh. -/
def CtlEmpty (s : State) : Prop := ∀ k, (mget Tile.blank s.tiles k).ctl = []

theorem ctlEmpty_of_mem {s : State} (h : ∀ e ∈ s.tiles, e.2.ctl = []) : CtlEmpty s := by
  intro k
  unfold mget
  cases e : mfind s.tiles k with
  | none => rfl
  | some t => exact h (k, t) (mem_of_mfind e)

theorem TilesRouted.ctlEmpty {s t : State} (h : TilesRouted s t) (g : CtlEmpty s) : CtlEmpty t :=
  fun k => (h.2 k).ctl.trans (g k)

theorem TilesRouted.image {s t : State} (h : TilesRouted s t) : t.image = s.image := by obtain ⟨⟨_, rfl⟩, -⟩ := h; rfl

/-- A flit alone in the mesh leaves a router as soon as it has come: its destination takes it, or the next router has it. -/
theorem crossCtl_hop {s : State} {i : Img} (k u v : Nat) (p : Port) (f : Flit) (cyc : Nat) (dl : State → State)
    (hi : s.image = some i) (hc : CtlEmpty s) : ∃ a, TilesRouted s a ∧ crossCtl (k + 1) u v p f true cyc dl s =
      if ctlOut u v f = .l then dl a
      else crossCtl k (beyond u v (ctlOut u v f)).1 (beyond u v (ctlOut u v f)).2.1 (beyond u v (ctlOut u v f)).2.2 f true
        (cyc + ctlWait i u v (ctlOut u v f) cyc + 2) dl (charge u v 2 a) := by
  have own : (tile s u v).ctl = [] := hc _
  obtain ⟨b, hb⟩ : ∃ b, b = setTile u v { tile s u v with ctl := [(p, f)] } s := ⟨_, rfl⟩
  have tb : tile b u v = { tile s u v with ctl := [(p, f)] } := by rw [hb, tile_setTile_same]
  have few : ∀ x y, (tile b x y).ctl.length ≤ 1 := by
    intro x y
    rw [hb, tile, setTile, mget_mput]
    split
    · rfl
    · rw [hc]; exact Nat.zero_le 1
  have room : ∀ x y q, ctlRoom (tile b x y) q = true := fun x y q =>
    decide_eq_true (Nat.lt_of_le_of_lt (Nat.le_trans (List.length_filter_le ..) (few x y)) (by omega))
  have goes : ctlGoes b u v (p, f) = true := by simp [ctlGoes, tb, room]
  obtain ⟨e, he⟩ : ∃ e, e = setTile u v { tile b u v with ctl := [] } b := ⟨_, rfl⟩
  have back : TileSet u v (tile s u v) s e := by
    have x : { tile b u v with ctl := [] } = tile s u v := by rw [tb, ← own]
    rw [he, x, hb]
    exact tileSet_setTile _ (tileSet_setTile _ (tileSet_refl u v s))
  have erased : (tile b u v).ctl.erase (p, f) = [] := by simp [tb]
  refine ⟨noteWait u v (ctlWait i u v (ctlOut u v f) cyc) e,
    tilesRouted_trans (tilesRouted_of_tileSet back (routed_refl _)) (tilesRouted_noteWait ..), ?_⟩
  rw [crossCtl]
  simp only [hi, own, List.nil_append, if_true, ← hb, goes, Bool.not_true, Bool.false_eq_true, if_false, erased]
  rw [he]

/-- Hops between two routers. -/
def hops (u v du dv : Nat) : Nat := (u - du) + (du - u) + ((v - dv) + (dv - v))

/-- The row-first route takes one hop less from the next router (05 R123). -/
theorem hops_beyond {u v du dv : Nat} (h : outPort u v du dv ≠ .l) :
    hops (beyond u v (outPort u v du dv)).1 (beyond u v (outPort u v du dv)).2.1 du dv + 1 = hops u v du dv := by
  unfold outPort at h ⊢
  split
  · simp only [beyond, hops]; omega
  · split
    · simp only [beyond, hops]; omega
    · split
      · simp only [beyond, hops]; omega
      · split
        · simp only [beyond, hops]; omega
        · simp_all

/-- A flit alone in the mesh comes to its destination, by induction on the hops that are left. -/
theorem crossCtl_arrives {i : Img} (f : Flit) (dl : State → State) (k u v : Nat) (p : Port) (cyc : Nat) {s : State}
    (hi : s.image = some i) (hc : CtlEmpty s) (hk : hops u v (fld f.hdr.toNat 45 38) (fld f.hdr.toNat 37 30) < k) :
    ∃ a, TilesRouted s a ∧ crossCtl k u v p f true cyc dl s = dl a := by
  induction k generalizing u v p cyc s with
  | zero => omega
  | succ k ih =>
    obtain ⟨a, routed, e⟩ := crossCtl_hop k u v p f cyc dl hi hc
    rw [e]
    by_cases here : ctlOut u v f = .l
    · exact ⟨a, routed, if_pos here⟩
    · have next := hops_beyond here
      have charged := tilesRouted_trans routed (tilesRouted_charge u v 2 a)
      obtain ⟨b, onward, e'⟩ := ih (beyond u v (ctlOut u v f)).1 (beyond u v (ctlOut u v f)).2.1 (beyond u v (ctlOut u v f)).2.2
        (cyc + ctlWait i u v (ctlOut u v f) cyc + 2) (charged.image.trans hi) (charged.ctlEmpty hc) (by unfold ctlOut; omega)
      exact ⟨b, tilesRouted_trans charged onward, by rw [if_neg here, e']⟩

/-! The flit of a signal (05 Table 5.4, 07 Table 7.6). -/

theorem ctlHdr_destU (du dv : Nat) (pay : List Byte) : fld (mkFlit (ctlHdr du dv 0) pay).hdr.toNat 45 38 = du % 256 := by
  simp only [mkFlit, ctlHdr, fld, BitVec.toNat_ofNat, Nat.shiftRight_eq_div_pow]
  omega

theorem ctlHdr_destV (du dv : Nat) (pay : List Byte) : fld (mkFlit (ctlHdr du dv 0) pay).hdr.toNat 37 30 = dv % 256 := by
  simp only [mkFlit, ctlHdr, fld, BitVec.toNat_ofNat, Nat.shiftRight_eq_div_pow]
  omega

theorem leNat_natLE (n v : Nat) : leNat (natLE n v) = v % 256 ^ n := by
  induction n generalizing v with
  | zero => simp [natLE, leNat, Nat.mod_one]
  | succ n ih =>
    have more : 256 ^ (n + 1) = 256 * 256 ^ n := Nat.pow_succ'
    rw [natLE, leNat, ih, BitVec.toNat_ofNat, more]
    exact Nat.mod_mul.symm

section
variable (sett tgt strm su sv fsn tick tmod : Nat) (far : Bool)

theorem signalPay_sett : byteAt (signalPay sett tgt strm su sv far fsn tick tmod) 0 = sett % 256 := rfl
theorem signalPay_target : byteAt (signalPay sett tgt strm su sv far fsn tick tmod) 1 = tgt % 256 := rfl
theorem signalPay_strm : byteAt (signalPay sett tgt strm su sv far fsn tick tmod) 2 = strm % 256 := rfl
theorem signalPay_srcU : byteAt (signalPay sett tgt strm su sv far fsn tick tmod) 3 = su % 256 := rfl
theorem signalPay_srcV : byteAt (signalPay sett tgt strm su sv far fsn tick tmod) 4 = sv % 256 := rfl
theorem signalPay_far : byteAt (signalPay sett tgt strm su sv far fsn tick tmod) 5 = far.toNat % 256 := rfl
theorem signalPay_farSett : byteAt (signalPay sett tgt strm su sv far fsn tick tmod) 6 = fsn % 256 := rfl
theorem signalPay_tick : fieldLE (signalPay sett tgt strm su sv far fsn tick tmod) 8 4 = tick % 2 ^ 32 := leNat_natLE 4 tick
theorem signalPay_module : fieldLE (signalPay sett tgt strm su sv far fsn tick tmod) 12 2 = tmod % 2 ^ 16 := leNat_natLE 2 tmod

/-- The payload of a signal to a tile is well formed (07 R216). -/
theorem signalOk_signalPay (hdr : Nat) (hs : sett < 32) (ht : tgt < 4) (hw : strm < 4) :
    signalOk (mkFlit hdr (signalPay sett tgt strm su sv false 0 tick 0)) = true := by
  have z7 : zeroAt (signalPay sett tgt strm su sv false 0 tick 0) 7 1 = true := rfl
  have z14 : zeroAt (signalPay sett tgt strm su sv false 0 tick 0) 14 50 = true := rfl
  have z6 : zeroAt (signalPay sett tgt strm su sv false 0 tick 0) 6 1 = true := rfl
  have z12 : zeroAt (signalPay sett tgt strm su sv false 0 tick 0) 12 2 = true := rfl
  have settIn : sett % 256 ≤ 31 := by omega
  have targetIn : tgt % 256 ≤ 3 := by omega
  have strmIn : strm % 256 ≤ 3 := by omega
  simp [signalOk, mkFlit, signalPay_sett, signalPay_target, signalPay_strm, signalPay_far, z7, z14, z6, z12, settIn, targetIn, strmIn]

end

end Sys2Proof.Machine
end

section
namespace Sys2Proof.Machine

/-! The registers of one page: what leaves them alone (06 R188, 17 R498 to R500). -/

/-- From `a` to `t` the registers of a page stay. -/
def PageKept (pg : Page) (a t : State) : Prop := ∀ o < 0x1000, reg t pg o = reg a pg o

/-- A page that neither events nor ledger items write. -/
structure OutsideLedger (pg : Page) : Prop where
  evc : pg ≠ .evc
  hdm : pg ≠ .hdm
  hbm : ∀ d n, pg ≠ .hbm d n

theorem outsideLedger_fst (d : Die) : OutsideLedger (.fst d) := ⟨nofun, nofun, nofun⟩

section
variable {pg : Page} {a s t : State}

theorem pageKept_refl (pg : Page) (a : State) : PageKept pg a a := fun _ _ => rfl

theorem pageKept_of (h : PageKept pg a s) (e : t.regs = s.regs) : PageKept pg a t :=
  fun o ho => (reg_congr e pg o).trans (h o ho)

theorem pageKept_setReg {q : Page} (o : Nat) (v : W32) (h : PageKept pg a s) (hq : pg ≠ q) (ho : o < 0x1000 := by omega) :
    PageKept pg a (setReg q o v s) := fun o' ho' => (reg_setReg_ne v s ho ho' fun e => absurd e hq).trans (h o' ho')

theorem pageKept_bump {q : Page} (o n : Nat) (h : PageKept pg a s) (hq : pg ≠ q) (ho : o < 0x1000 := by omega) :
    PageKept pg a (bump q o s n) := by
  unfold bump
  split
  · exact h
  · exact pageKept_setReg _ _ h hq ho

theorem pageKept_events (hp : pg ≠ .evc) (h : PageKept pg a s) (e : OnlyEvents s t) : PageKept pg a t := by
  refine fun o ho => (onlyEvents_reg e fun ⟨lo, hi⟩ => ?_).trans (h o ho)
  have evc : pageBase pg + o = pageBase .evc + (pageBase pg + o - 0x3000) := by
    have : pageBase .evc = 0x3000 := rfl
    omega
  exact hp (pageBase_inj ho (by omega) evc).1

theorem pageKept_setErr {q : Page} (n : Nat) (hp : pg ≠ .evc) (h : PageKept pg a s) (hq : pg ≠ q) :
    PageKept pg a (setErr q n s) :=
  pageKept_events hp (pageKept_setReg 0x010 (setBit (reg s q 0x010) n true) h hq) (onlyEvents_setErr q n s)

/-- The page's other registers where one of its error bits is set. -/
theorem reg_setErr_off {o : Nat} (n : Nat) (hp : pg ≠ .evc) (ho : o < 0x1000) (h : o ≠ 0x010) :
    reg (setErr pg n s) pg o = reg s pg o :=
  (pageKept_events hp (pageKept_refl pg _) (onlyEvents_setErr pg n s) o ho).trans (reg_setReg_off pg _ s h)

/-! Ledger items (17 R498 to R500). -/

variable (hp : OutsideLedger pg)

include hp

theorem pageKept_hbmWrite (x : Nat) (bs : List Byte) (h : PageKept pg a s) : PageKept pg a (hbmWrite x bs s) := by
  unfold hbmWrite
  dsimp only
  generalize (((sectorsOf x bs.length).filter _).foldl _ _ : SMap Bool) = m
  refine pageKept_bump _ _ ?_ (hp.hbm _ _)
  obtain ⟨_, _, e⟩ := putBytes_shape x bs { s with poison := m }
  exact pageKept_of h (by rw [e])

theorem pageKept_writePad (base size len : Nat) (h : PageKept pg a s) : PageKept pg a (writePad base size len s) := by
  unfold writePad
  dsimp only
  split
  · exact h
  · exact pageKept_setReg _ _ (pageKept_setReg _ _ (pageKept_hbmWrite hp _ _ h) hp.hdm) hp.hdm

theorem pageKept_writeItem (base size step typ : Nat) (body : List Byte) (h : PageKept pg a s) :
    PageKept pg a (writeItem base size step typ body s) := by
  unfold writeItem
  lift_lets
  intro len s1 s2
  have written : PageKept pg a s2 := pageKept_hbmWrite hp _ _ (pageKept_writePad hp _ _ _ h)
  exact pageKept_setReg _ _ (pageKept_setReg _ _ (pageKept_of written rfl) hp.hdm) hp.hdm

theorem pageKept_writeLost (h : PageKept pg a s) : PageKept pg a (writeLost s) := by
  unfold writeLost
  split
  · exact h
  · split
    · exact pageKept_of (pageKept_writeItem hp _ _ _ _ _ h) rfl
    · exact h

theorem pageKept_ledgerItemOf (step typ : Nat) (body : List Byte) (h : PageKept pg a s) :
    PageKept pg a (ledgerItemOf step typ body s) := by
  have lost := pageKept_writeLost hp h
  unfold ledgerItemOf
  split
  · exact h
  · dsimp only
    split
    · exact pageKept_writeItem hp _ _ _ _ _ lost
    · exact pageKept_of (pageKept_setErr 3 hp.evc (pageKept_bump _ _ lost hp.hdm) hp.hdm) rfl

/-! Contract faults and signals (06 R188, 07 R211, R213). -/

theorem pageKept_contractFault (cause u v detail : Nat) (hq : pg ≠ .asq) (hl : s.loading = false) (h : PageKept pg a s) :
    PageKept pg a (contractFault cause u v detail s) := by
  have sent : PageKept pg a (haltAt u v s) := by
    obtain ⟨_, e⟩ := haltAt_spec u v s
    exact pageKept_of h (by rw [e])
  have counted := pageKept_bump 0x07C 1 (pageKept_setErr cause hp.evc sent hq) hq
  have noted : PageKept pg a (recordCause cause u v detail (bump .asq 0x07C (setErr .asq cause (haltAt u v s)))) := by
    unfold recordCause
    split
    · exact counted
    · unfold setReg64
      exact pageKept_setReg _ _ (pageKept_setReg _ _ (pageKept_setReg _ _ (pageKept_setReg _ _ (pageKept_setReg _ _ counted hq) hq) hq)
        hq) hq
  have idle : (recordCause cause u v detail (bump .asq 0x07C (setErr .asq cause (haltAt u v s)))).loading = false := by
    rw [recordCause_loading, bump_loading, setErr_loading, haltAt_loading, hl]
  unfold contractFault
  dsimp only
  generalize recordCause cause u v detail _ = b at noted idle ⊢
  rw [callHalt_spec idle]
  exact pageKept_ledgerItemOf hp _ _ _ (pageKept_of noted rfl)

theorem pageKept_signalTile (u v k : Nat) (tgt : Option Strm) (w : Signaller) (opIdx : Nat) (hq : pg ≠ .asq) (hd : pg ≠ .dbg)
    (hl : s.loading = false) (h : PageKept pg a s) : PageKept pg a (signalTile u v k tgt w opIdx s) := by
  have wake : ∀ b : State, b.loading = false → PageKept pg a b →
      (wakeEvent u v b).loading = false ∧ PageKept pg a (wakeEvent u v b) := by
    intro b hb kept
    unfold wakeEvent prtEvent
    dsimp only
    split
    · exact ⟨by rw [bump_loading]; exact hb, pageKept_bump _ _ (pageKept_of kept rfl) hd⟩
    · exact ⟨hb, kept⟩
  unfold signalTile
  lift_lets
  intro t x r t1 s1
  have signalled : s1.loading = false ∧ PageKept pg a s1 := by
    unfold s1
    split
    · exact wake _ hl (pageKept_of h rfl)
    · exact ⟨hl, pageKept_of h rfl⟩
  split
  · exact pageKept_contractFault hp _ _ _ _ hq signalled.1 signalled.2
  · exact signalled.2

end

end Sys2Proof.Machine
end

section
namespace Sys2Proof.Machine

/-! A signal at a far sett (07 R219, R220, R222). Its count stands at 0x040, its relay at 0x044 and its last signaller at 0x048, each
16 bytes a sett. -/

/-- The far sett with one signal more: COUNT and the last-signaller record. -/
def farCounted (d : Die) (n : Fin 16) (srcMod srcDie : Nat) (s : State) : State :=
  setReg (.fst d) (0x040 + 16 * n.val) (w32 ((reg s (.fst d) (0x040 + 16 * n.val)).toNat + 1))
    (setReg (.fst d) (0x048 + 16 * n.val)
      (w32 (srcMod % 2 ^ 16 * 2 ^ 16 + srcDie % 16 * 2 ^ 12 + (reg s (.fst d) (0x048 + 16 * n.val)).toNat % 2)) s)

/-- Its registers. -/
def farRegs (d : Die) (n : Fin 16) (srcMod srcDie : Nat) (q : SMap W32) : SMap W32 :=
  rput (pageBase (.fst d) + (0x040 + 16 * n.val)) (w32 ((rget q (pageBase (.fst d) + (0x040 + 16 * n.val))).toNat + 1))
    (rput (pageBase (.fst d) + (0x048 + 16 * n.val)) (w32 (srcMod % 2 ^ 16 * 2 ^ 16 + srcDie % 16 * 2 ^ 12 +
      (rget q (pageBase (.fst d) + (0x048 + 16 * n.val))).toNat % 2)) q)

theorem farCounted_eq (d : Die) (n : Fin 16) (srcMod srcDie : Nat) (s : State) :
    farCounted d n srcMod srcDie s = { s with regs := farRegs d n srcMod srcDie s.regs } := by
  unfold farCounted setReg
  rfl

/-- COUNT, the low half of a far sett's word, rises by 1; N, the high half, stays. -/
theorem fld_count_succ {w : W32} (h : fld w.toNat 15 0 < 65535) :
    fld (w32 (w.toNat + 1)).toNat 15 0 = fld w.toNat 15 0 + 1 ∧ fld (w32 (w.toNat + 1)).toNat 31 16 = fld w.toNat 31 16 := by
  have := w.isLt
  simp only [fld, w32, BitVec.toNat_ofNat, Nat.shiftRight_eq_div_pow] at h ⊢
  omega

/-- COUNT returns to 0 under the same N. -/
theorem fld_count_zero {n : Nat} (h : n < 2 ^ 16) : fld (w32 (2 ^ 16 * n)).toNat 15 0 = 0 ∧ fld (w32 (2 ^ 16 * n)).toNat 31 16 = n := by
  simp only [fld, w32, BitVec.toNat_ofNat, Nat.shiftRight_eq_div_pow]
  omega

section
variable {d : Die} {n : Fin 16} {srcMod srcDie : Nat} {s : State}

/-- No relay is due while COUNT is below N, or N is 0. -/
theorem relayWhile_rests (k : Nat) (h : fld (reg s (.fst d) (0x040 + 16 * n.val)).toNat 31 16 = 0 ∨
    fld (reg s (.fst d) (0x040 + 16 * n.val)).toNat 15 0 < fld (reg s (.fst d) (0x040 + 16 * n.val)).toNat 31 16) :
    relayWhile d n k s = s := by
  cases k with
  | zero => rfl
  | succ k => rw [relayWhile]; exact if_pos (by simpa using h)

/-- A relay is due: N comes off COUNT, and the relay is signalled (R219). -/
theorem relayWhile_relays (k : Nat) (h0 : fld (reg s (.fst d) (0x040 + 16 * n.val)).toNat 31 16 ≠ 0)
    (h : fld (reg s (.fst d) (0x040 + 16 * n.val)).toNat 15 0 = fld (reg s (.fst d) (0x040 + 16 * n.val)).toNat 31 16) :
    relayWhile d n (k + 1) s = relayWhile d n k (relayOnce d n (setReg (.fst d) (0x040 + 16 * n.val)
      (w32 (2 ^ 16 * fld (reg s (.fst d) (0x040 + 16 * n.val)).toNat 31 16)) s)) := by
  rw [relayWhile, if_neg (by simp only [Bool.or_eq_true, decide_eq_true_eq]; omega), h, Nat.sub_self, Nat.zero_add]

variable (reach : srcMod = ownId s → ringReach s (Fin.ofNat 16 srcDie) d = true)

theorem farSignal_unreached (own : srcMod = ownId s) (cut : ringReach s (Fin.ofNat 16 srcDie) d = false) :
    farSignal d n srcMod srcDie s = s := by
  rw [farSignal]
  exact if_pos (by rw [cut, own]; simp)

include reach

/-- A signal arrives where its module is another, or the ring still joins the dies. -/
theorem farSignal_arrives :
    ¬ (decide (srcMod = ownId s) && !ringReach s (Fin.ofNat 16 srcDie) d) = true := by
  intro h
  simp only [Bool.and_eq_true, decide_eq_true_eq, Bool.not_eq_true'] at h
  exact absurd (reach h.1) (by rw [h.2]; nofun)

theorem farSignal_norelay (h : bitOf (reg s (.fst d) (0x044 + 16 * n.val)) 31 = false) :
    farSignal d n srcMod srcDie s = setErr (.fst d) 1 (bump (.fst d) 0x140 s) := by
  have off : (reg s (.fst d) (0x044 + 16 * n.val)).toNat.testBit 31 = false := h
  rw [farSignal]
  dsimp only
  rw [if_neg (farSignal_arrives reach), if_pos (by rw [off]; rfl)]

variable (rel : bitOf (reg s (.fst d) (0x044 + 16 * n.val)) 31 = true)

include rel

theorem farSignal_counted (h : fld (reg s (.fst d) (0x040 + 16 * n.val)).toNat 15 0 < 65535) :
    farSignal d n srcMod srcDie s =
      relayWhile d n (fld (reg s (.fst d) (0x040 + 16 * n.val)).toNat 15 0 + 1) (farCounted d n srcMod srcDie s) := by
  have on : (reg s (.fst d) (0x044 + 16 * n.val)).toNat.testBit 31 = true := rel
  rw [farSignal]
  dsimp only
  rw [if_neg (farSignal_arrives reach), if_neg (by rw [on]; nofun), if_neg (by omega)]
  rfl

/-- Below N a signal is counted, and no more. -/
theorem farSignal_counts (h : fld (reg s (.fst d) (0x040 + 16 * n.val)).toNat 15 0 < 65535)
    (below : fld (reg s (.fst d) (0x040 + 16 * n.val)).toNat 31 16 = 0 ∨ fld (reg s (.fst d) (0x040 + 16 * n.val)).toNat 15 0 + 1 <
      fld (reg s (.fst d) (0x040 + 16 * n.val)).toNat 31 16) :
    farSignal d n srcMod srcDie s = farCounted d n srcMod srcDie s := by
  obtain ⟨count, limit⟩ := fld_count_succ h
  rw [farSignal_counted reach rel h, relayWhile_rests]
  rw [farCounted, reg_setReg_same, count, limit]
  exact below

/-- At 65,535 a signal is contract fault 9 (R222). -/
theorem farSignal_full (h : fld (reg s (.fst d) (0x040 + 16 * n.val)).toNat 15 0 = 65535) : ∃ last : W32,
    farSignal d n srcMod srcDie s = contractFault 9 0xFFFF 0xFFFF (16 * d.val + n.val) (setErr (.fst d) 0
      (setReg (.fst d) (0x048 + 16 * n.val) (setFld last 0 0 1) (setReg (.fst d) (0x048 + 16 * n.val) last s))) := by
  have on : (reg s (.fst d) (0x044 + 16 * n.val)).toNat.testBit 31 = true := rel
  refine ⟨w32 (srcMod % 2 ^ 16 * 2 ^ 16 + srcDie % 16 * 2 ^ 12 + (reg s (.fst d) (0x048 + 16 * n.val)).toNat % 2), ?_⟩
  rw [farSignal]
  dsimp only
  rw [if_neg (farSignal_arrives reach), if_neg (by rw [on]; nofun), if_pos (by omega), setBits, reg_setReg_same]

/-- The signal that brings COUNT to N relays once, where its relay leaves the registers of the die alone. -/
theorem farSignal_relays (h : fld (reg s (.fst d) (0x040 + 16 * n.val)).toNat 15 0 < 65535)
    (full : fld (reg s (.fst d) (0x040 + 16 * n.val)).toNat 15 0 + 1 = fld (reg s (.fst d) (0x040 + 16 * n.val)).toNat 31 16)
    {t : State}
    (once : relayOnce d n (setReg (.fst d) (0x040 + 16 * n.val) (w32 (2 ^ 16 * fld (reg s (.fst d) (0x040 + 16 * n.val)).toNat 31 16))
      (farCounted d n srcMod srcDie s)) = t)
    (kept : reg t (.fst d) (0x040 + 16 * n.val) = w32 (2 ^ 16 * fld (reg s (.fst d) (0x040 + 16 * n.val)).toNat 31 16)) :
    farSignal d n srcMod srcDie s = t := by
  obtain ⟨count, limit⟩ := fld_count_succ h
  have counted : reg (farCounted d n srcMod srcDie s) (.fst d) (0x040 + 16 * n.val) =
      w32 ((reg s (.fst d) (0x040 + 16 * n.val)).toNat + 1) := by rw [farCounted, reg_setReg_same]
  have small : fld (reg s (.fst d) (0x040 + 16 * n.val)).toNat 31 16 < 2 ^ 16 := fld_lt _ 31 16
  rw [farSignal_counted reach rel h, relayWhile_relays _ (by rw [counted, limit]; omega) (by rw [counted, count, limit, full]), counted,
    limit, once, relayWhile_rests]
  rw [kept, (fld_count_zero small).1, (fld_count_zero small).2]
  omega

end

/-! The relay of a far sett to a tile (R219, R220, 05 R131). -/

/-- A die's control port is as far from a tile as the mesh is wide or deep. -/
theorem hops_dieEntry {i : Img} {u v : Nat} (d : Die) (hu : u < i.reqU) (hv : v < i.reqV) :
    hops (dieEntry i d u v).1 (dieEntry i d u v).2.1 u v < i.reqU + i.reqV + 2 := by
  unfold dieEntry
  split <;> simp only [hops] <;> omega

/-- The relay's signal reaches its tile in the same command where no control flit waits in the mesh. -/
theorem relayOnce_tile {d : Die} {n : Fin 16} {s : State} {i : Img} {w : Nat}
    (hw : (reg s (.fst d) (0x044 + 16 * n.val)).toNat = w) (h30 : w.testBit 30 = false) (hi : s.image = some i)
    (hin : inImage s (fld w 7 0) (fld w 15 8) = true) (hf : (tile s (fld w 7 0) (fld w 15 8)).fenced = false) (hc : CtlEmpty s) :
    ∃ a, TilesRouted (bump (.fst d) (0x04C + 16 * n.val) s) a ∧
      relayOnce d n s = signalTile (fld w 7 0) (fld w 15 8) (fld w 20 16) (strmOf (fld w 29 28))
        ⟨(dieCoord i d (fld w 7 0) (fld w 15 8)).1 % 256, (dieCoord i d (fld w 7 0) (fld w 15 8)).2 % 256, 3,
          bodyTick s % 2 ^ 32⟩ 0 a := by
  have uLt : fld w 7 0 < 256 := fld_lt w 7 0
  have vLt : fld w 15 8 < 256 := fld_lt w 15 8
  have settLt : fld w 20 16 < 32 := fld_lt w 20 16
  have targetLt : fld w 29 28 < 4 := fld_lt w 29 28
  obtain ⟨hu, hv⟩ := (inImage_iff hi _ _).1 hin
  obtain ⟨b, hb⟩ : ∃ b, b = bump (.fst d) (0x04C + 16 * n.val) s := ⟨_, rfl⟩
  have bi : b.image = some i := by rw [hb, bump_image, hi]
  have tick : bodyTick b = bodyTick s := by rw [bodyTick, bodyTick, hb, bump_asq]
  have bc : CtlEmpty b := fun k => by rw [hb, bump_tiles]; exact hc k
  obtain ⟨f, fe⟩ : ∃ f, f = mkFlit (ctlHdr (fld w 7 0) (fld w 15 8) 0) (signalPay (fld w 20 16) (fld w 29 28) 3
    (dieCoord i d (fld w 7 0) (fld w 15 8)).1 (dieCoord i d (fld w 7 0) (fld w 15 8)).2 false 0 (bodyTick b) 0) := ⟨_, rfl⟩
  have fu : fld f.hdr.toNat 45 38 = fld w 7 0 := by rw [fe, ctlHdr_destU, Nat.mod_eq_of_lt uLt]
  have fv : fld f.hdr.toNat 37 30 = fld w 15 8 := by rw [fe, ctlHdr_destV, Nat.mod_eq_of_lt vLt]
  obtain ⟨a, routed, arrives⟩ := crossCtl_arrives f (deliverSignal (fld w 7 0) (fld w 15 8) f fun _ s => s) (hopFuel b)
    (dieEntry i d (fld w 7 0) (fld w 15 8)).1 (dieEntry i d (fld w 7 0) (fld w 15 8)).2.1 (dieEntry i d (fld w 7 0) (fld w 15 8)).2.2
    (b.now - b.asq.tickAt + dieWait i d (fld w 7 0) (fld w 15 8) (b.now - b.asq.tickAt) + 2) bi bc
    (by rw [fu, fv, hopFuel_succ bi]; exact hops_dieEntry d hu hv)
  have fenced : (tile a (fld w 7 0) (fld w 15 8)).fenced = false := by
    rw [tile, (routed.2 _).fenced, hb, bump_tiles]
    exact hf
  have pay : f.pay = signalPay (fld w 20 16) (fld w 29 28) 3 (dieCoord i d (fld w 7 0) (fld w 15 8)).1
      (dieCoord i d (fld w 7 0) (fld w 15 8)).2 false 0 (bodyTick b) 0 := by rw [fe]; rfl
  have ok : signalOk f = true := by rw [fe]; exact signalOk_signalPay _ _ _ _ _ _ _ settLt targetLt (by omega)
  refine ⟨a, hb ▸ routed, ?_⟩
  have relay : relayOnce d n s = crossCtl (hopFuel b) (dieEntry i d (fld w 7 0) (fld w 15 8)).1
      (dieEntry i d (fld w 7 0) (fld w 15 8)).2.1 (dieEntry i d (fld w 7 0) (fld w 15 8)).2.2 f true
      (b.now - b.asq.tickAt + dieWait i d (fld w 7 0) (fld w 15 8) (b.now - b.asq.tickAt) + 2)
      (deliverSignal (fld w 7 0) (fld w 15 8) f fun _ s => s) b := by
    have here : inImage b (fld w 7 0) (fld w 15 8) = true := (inImage_congr (bi.trans hi.symm) _ _).trans hin
    rw [relayOnce]
    dsimp only
    rw [hw, ← hb, if_neg (by rw [h30]; nofun)]
    simp only [bi, here, if_true]
    rw [fe]
  rw [relay, arrives, deliverSignal_own _ fenced ok (by rw [pay]; rfl), pay, signalPay_sett, signalPay_target, signalPay_srcU,
    signalPay_srcV, signalPay_strm, signalPay_tick, tick, Nat.mod_eq_of_lt (show fld w 20 16 < 256 by omega),
    Nat.mod_eq_of_lt (show fld w 29 28 < 256 by omega)]

/-! FSIGNAL and USIG (07 R220, 09 R283). -/

/-- The edge tile before a tile's nearest die is inside the image. -/
theorem edgeTile_inImage {i : Img} {u v : Nat} (hu : u < i.reqU) (hv : v < i.reqV) :
    (edgeTile i u v).1 < i.reqU ∧ (edgeTile i u v).2 < i.reqV := by
  unfold edgeTile
  split <;> dsimp only <;> omega

/-- A far signal of a tile comes to its die where no control flit waits in the mesh. -/
theorem farFrom_arrives {s : State} {i : Img} {u v : Nat} (p : Port) (pay : List Byte) (hi : s.image = some i)
    (hin : inImage s u v = true) (hc : CtlEmpty s) :
    ∃ a, TilesRouted s a ∧ farFrom u v p pay s = farGo (nearestDie i u v) pay a := by
  obtain ⟨hu, hv⟩ := (inImage_iff hi _ _).1 hin
  obtain ⟨eu, ev⟩ := edgeTile_inImage hu hv
  have near : hops u v ((edgeTile i u v).1 % 256) ((edgeTile i u v).2 % 256) < hopFuel s := by
    have := Nat.mod_le (edgeTile i u v).1 256
    have := Nat.mod_le (edgeTile i u v).2 256
    rw [hopFuel_succ hi]
    unfold hops
    omega
  obtain ⟨a, routed, arrives⟩ := crossCtl_arrives (mkFlit (ctlHdr (edgeTile i u v).1 (edgeTile i u v).2 0) pay)
    (fun s => farGo (nearestDie i u v) pay (charge (edgeTile i u v).1 (edgeTile i u v).2 2 s)) (hopFuel s) u v p
    (s.now - s.asq.tickAt) hi hc (by rw [ctlHdr_destU, ctlHdr_destV]; exact near)
  refine ⟨_, tilesRouted_trans routed (tilesRouted_charge (edgeTile i u v).1 (edgeTile i u v).2 2 a), ?_⟩
  rw [farFrom]
  simp only [hi]
  exact arrives

/-- A far signal for a sett of the own module, at its die (R220). -/
theorem farGo_own {d e : Die} {n : Fin 16} {pay : List Byte} (s : State) (ht : fieldLE pay 12 2 = 0xFFFF)
    (hf : byteAt pay 6 = 16 * d.val + n.val) : farGo e pay s = farSignal d n (ownId s) e.val s := by
  have die : (Fin.ofNat 16 (byteAt pay 6 / 16) : Die) = d := ofNat_die d (by omega)
  have sett : Fin.ofNat 16 (byteAt pay 6) = n := by
    apply Fin.ext
    rw [Fin.val_ofNat]
    omega
  rw [farGo, if_pos (by simp [ht]), die, sett]

theorem byteAt_lt (b : List Byte) (o : Nat) : byteAt b o < 256 := (b.getD o 0).isLt

theorem onUe_next {d : Die} {vop w : Nat} {fs : List (Nat × Nat × Nat)} {r : URun} {p : UProg} {s : State}
    (f : URun → UProg → State → State) (h : ueWord s d = some (r, p, w)) (hv : vIs w vop fs = true) :
    onUe d vop fs f s = f r p s := by
  simp only [onUe, h, hv, if_true]

theorem exec_farSettSignal {s : State} (d : Die) (n : Fin 16) (m : Nat) (e : Die) (h : diesRun s = true) :
    exec (.farSettSignal d n m e) s = .next (farSignal d n m e.val s) := by
  show Host.Outcome.next (if diesRun s then farSignal d n m e.val s else s) = _
  rw [if_pos h]

theorem diesRun_idle {s : State} (h : diesRun s = true) : s.loading = false := by
  simp only [diesRun, Bool.and_eq_true, Bool.not_eq_true'] at h
  exact h.1.2

end Sys2Proof.Machine
end

section
namespace Sys2Proof.Machine

/-! The cases of a signal at a far sett, as the statements ask for them. -/

theorem TilesRouted.reg {s t : State} (h : TilesRouted s t) (pg : Page) (o : Nat) : reg t pg o = reg s pg o := by
  obtain ⟨⟨_, rfl⟩, -⟩ := h
  rfl

theorem TilesRouted.loading {s t : State} (h : TilesRouted s t) : t.loading = s.loading := by obtain ⟨⟨_, rfl⟩, -⟩ := h; rfl

/-- Counting at a far sett writes registers. -/
theorem farRelayed_shape (d : Die) (n : Fin 16) (srcMod srcDie : Nat) (v : W32) (s : State) :
    ∃ q, setReg (.fst d) (0x040 + 16 * n.val) v (farCounted d n srcMod srcDie s) = { s with regs := q } := by
  rw [farCounted_eq]
  exact ⟨_, rfl⟩

/-- Registers, then tiles: nothing else changes. -/
theorem regsAndTiles {s b c a : State} (h1 : ∃ r, b = { s with regs := r }) (h2 : ∃ r, c = { b with regs := r })
    (h3 : ∃ m, a = { c with tiles := m }) : ∃ r m, a = { s with regs := r, tiles := m } := by
  obtain ⟨_, rfl⟩ := h1
  obtain ⟨q, rfl⟩ := h2
  obtain ⟨m, rfl⟩ := h3
  exact ⟨q, m, rfl⟩

section
variable {d : Die} {n : Fin 16} {srcMod srcDie : Nat} {s : State}
  (reach : srcMod = ownId s → ringReach s (Fin.ofNat 16 srcDie) d = true)

include reach

/-- A sett without a relay: the error bit and the drop counter, and its count stays (R219). -/
theorem farSignal_dropped (rel : bitOf (reg s (.fst d) (0x044 + 16 * n.val)) 31 = false) :
    bitOf (reg (farSignal d n srcMod srcDie s) (.fst d) 0x010) 1 = true ∧
    reg (farSignal d n srcMod srcDie s) (.fst d) (0x040 + 16 * n.val) = reg s (.fst d) (0x040 + 16 * n.val) ∧
    (pageFrz s (.fst d) = false → reg (farSignal d n srcMod srcDie s) (.fst d) 0x140 = satInc (reg s (.fst d) 0x140)) ∧
    (farSignal d n srcMod srcDie s).tiles = s.tiles := by
  have small := n.isLt
  rw [farSignal_norelay reach rel]
  refine ⟨setErr_bit _ (by omega) _, ?_, fun h => ?_, by rw [setErr_tiles, bump_tiles]⟩
  · rw [reg_setErr_off (pg := .fst d) 1 nofun (by omega) (by omega), reg_bump_off _ _ _ (by omega)]
  · rw [reg_setErr_off (pg := .fst d) 1 nofun (by omega) (by omega), reg_bump_same _ _ h]

variable (rel : bitOf (reg s (.fst d) (0x044 + 16 * n.val)) 31 = true) (idle : s.loading = false)

include rel idle

/-- A sett whose COUNT stands at 65,535: contract fault 9 and SAT, and its count stays (R222). -/
theorem farSignal_saturates (h : fld (reg s (.fst d) (0x040 + 16 * n.val)).toNat 15 0 = 65535) :
    bitOf (reg (farSignal d n srcMod srcDie s) .asq 0x010) 9 = true ∧
    bitOf (reg (farSignal d n srcMod srcDie s) (.fst d) (0x048 + 16 * n.val)) 0 = true ∧
    reg (farSignal d n srcMod srcDie s) (.fst d) (0x040 + 16 * n.val) = reg s (.fst d) (0x040 + 16 * n.val) := by
  have small := n.isLt
  obtain ⟨last, e⟩ := farSignal_full reach rel h
  obtain ⟨a, ha⟩ : ∃ a, a = setReg (.fst d) (0x048 + 16 * n.val) (setFld last 0 0 1) (setReg (.fst d) (0x048 + 16 * n.val) last s) :=
    ⟨_, rfl⟩
  have al : (setErr (.fst d) 0 a).loading = false := by rw [setErr_loading, ha, setReg_loading, setReg_loading, idle]
  have fault : PageKept (.fst d) (setErr (.fst d) 0 a) (contractFault 9 0xFFFF 0xFFFF (16 * d.val + n.val) (setErr (.fst d) 0 a)) :=
    pageKept_contractFault (outsideLedger_fst d) _ _ _ _ nofun al (pageKept_refl (.fst d) _)
  have sat : bitOf (setFld last 0 0 1) 0 = true := bitOf_setFld_zero last true
  rw [e, ← ha]
  refine ⟨(contractFault_spec 9 _ _ _ _ (by omega) al).2.1, ?_, ?_⟩
  · rw [fault _ (by omega), reg_setErr_off (pg := .fst d) 0 nofun (by omega) (by omega), ha, reg_setReg_same]
    exact sat
  · rw [fault _ (by omega), reg_setErr_off (pg := .fst d) 0 nofun (by omega) (by omega), ha, reg_setReg_off _ _ _ (by omega), reg_setReg_off _ _ _ (by omega)]

/-- The signal that brings COUNT to N takes N off it and signals the relay's tile once (R219, R220). -/
theorem farSignal_relaysTile {i : Img} {w c : Nat} (hw : (reg s (.fst d) (0x044 + 16 * n.val)).toNat = w)
    (hn : (reg s (.fst d) (0x040 + 16 * n.val)).toNat = c) (h30 : w.testBit 30 = false)
    (h : fld c 15 0 < 65535) (full : fld c 15 0 + 1 = fld c 31 16) (hc : CtlEmpty s) (hi : s.image = some i)
    (hin : inImage s (fld w 7 0) (fld w 15 8) = true) (hf : (tile s (fld w 7 0) (fld w 15 8)).fenced = false) :
    ∃ a, reg a (.fst d) (0x040 + 16 * n.val) = w32 (2 ^ 16 * fld c 31 16) ∧
      reg a (.fst d) (0x048 + 16 * n.val) =
        w32 (srcMod % 2 ^ 16 * 2 ^ 16 + srcDie % 16 * 2 ^ 12 + (reg s (.fst d) (0x048 + 16 * n.val)).toNat % 2) ∧
      (∃ r m, a = { s with regs := r, tiles := m }) ∧ TilesKeep s a ∧
      farSignal d n srcMod srcDie s = signalTile (fld w 7 0) (fld w 15 8) (fld w 20 16) (strmOf (fld w 29 28))
        ⟨(dieCoord i d (fld w 7 0) (fld w 15 8)).1 % 256, (dieCoord i d (fld w 7 0) (fld w 15 8)).2 % 256, 3,
          bodyTick s % 2 ^ 32⟩ 0 a := by
  have small := n.isLt
  obtain ⟨b, hb⟩ : ∃ b, b = setReg (.fst d) (0x040 + 16 * n.val) (w32 (2 ^ 16 * fld c 31 16)) (farCounted d n srcMod srcDie s) :=
    ⟨_, rfl⟩
  have b040 : reg b (.fst d) (0x040 + 16 * n.val) = w32 (2 ^ 16 * fld c 31 16) := by rw [hb, reg_setReg_same]
  have b044 : reg b (.fst d) (0x044 + 16 * n.val) = reg s (.fst d) (0x044 + 16 * n.val) := by
    rw [hb, reg_setReg_off _ _ _ (by omega), farCounted, reg_setReg_off _ _ _ (by omega), reg_setReg_off _ _ _ (by omega)]
  have b048 : reg b (.fst d) (0x048 + 16 * n.val) =
      w32 (srcMod % 2 ^ 16 * 2 ^ 16 + srcDie % 16 * 2 ^ 12 + (reg s (.fst d) (0x048 + 16 * n.val)).toNat % 2) := by
    rw [hb, reg_setReg_off _ _ _ (by omega), farCounted, reg_setReg_off _ _ _ (by omega), reg_setReg_same]
  obtain ⟨q, regs⟩ := farRelayed_shape d n srcMod srcDie (w32 (2 ^ 16 * fld c 31 16)) s
  rw [← hb] at regs
  obtain ⟨a, routed, relay⟩ := relayOnce_tile (d := d) (n := n) (s := b) (by rw [b044, hw]) h30 (by rw [regs]; exact hi)
    (by rw [regs]; exact hin) (by rw [regs]; exact hf) (by rw [regs]; exact hc)
  have tick : bodyTick b = bodyTick s := by rw [regs]; rfl
  have areg : ∀ o, o ≠ 0x04C + 16 * n.val → reg a (.fst d) o = reg b (.fst d) o := fun o ho => by
    rw [routed.reg, reg_bump_off _ _ _ ho]
  have al : a.loading = false := by rw [routed.loading, bump_loading, regs]; exact idle
  have a040 := (areg (0x040 + 16 * n.val) (by omega)).trans b040
  rw [tick] at relay
  refine ⟨a, a040, (areg _ (by omega)).trans b048, regsAndTiles ⟨q, regs⟩ (bump_shape ..) routed.1, fun k => ?_, ?_⟩
  · have base : (bump (.fst d) (0x04C + 16 * n.val) b).tiles = s.tiles := by rw [bump_tiles, regs]
    rw [← base]
    exact (routed.2 k).keeps
  · subst hn
    refine farSignal_relays reach rel h full (by rw [← hb, relay]) ?_
    exact (pageKept_signalTile (outsideLedger_fst d) _ _ _ _ _ _ nofun nofun al (pageKept_refl (.fst d) a) _ (by omega)).trans a040

end

/-- An FSIGNAL for a sett of the own module comes to its die (R220). -/
theorem fsignalRec_arrives {s : State} {u v : Nat} {st : Strm} {i : Img} {r : OpRec} {d : Die} {n : Fin 16} (k : Nat)
    (hi : s.image = some i) (hin : inImage s u v = true) (hd : strmDone (tile s u v) st = true) (hc : CtlEmpty s)
    (hm : r.p16 54 = 0xFFFF) (hs : r.p8 52 = 16 * d.val + n.val) :
    ∃ a, TilesRouted s a ∧ fsignalRec u v st i k r s = farSignal d n (ownId a) (nearestDie i u v).val a := by
  obtain ⟨a, routed, arrives⟩ := farFrom_arrives .l
    (signalPay 0 0 (strmCode st) u v true (r.p8 52) (bodyTick s) (r.p16 54)) hi hin hc
  have checked : unfencedCheck u v st k r s = s := by simp [unfencedCheck, hd]
  have byte : r.p8 52 < 256 := byteAt_lt _ _
  refine ⟨a, routed, ?_⟩
  rw [fsignalRec, checked, arrives, farGo_own a (by rw [signalPay_module, hm, Nat.mod_eq_of_lt (by omega)]) (by rw [signalPay_farSett, Nat.mod_eq_of_lt byte, hs])]

/-- A signal that is counted changes two registers of its die; where the tiles have changed before, they stay so. -/
theorem farSignal_counts_routed {d : Die} {n : Fin 16} {e : Die} {s a : State} (routed : TilesRouted s a)
    (reach : ringReach s e d = true) (rel : bitOf (reg s (.fst d) (0x044 + 16 * n.val)) 31 = true)
    (free : fld (reg s (.fst d) (0x040 + 16 * n.val)).toNat 31 16 = 0)
    (h : fld (reg s (.fst d) (0x040 + 16 * n.val)).toNat 15 0 < 65535) :
    ∃ m, farSignal d n (ownId a) e.val a = { farCounted d n (ownId s) e.val s with tiles := m } ∧
      ∀ k, Routed (mget Tile.blank s.tiles k) (mget Tile.blank m k) := by
  obtain ⟨⟨m, rfl⟩, tiles⟩ := routed
  have counts := farSignal_counts (d := d) (n := n) (srcMod := ownId s) (srcDie := e.val) (s := { s with tiles := m })
    (fun _ => by rw [ofNat_die e rfl]; exact reach) rel h (.inl free)
  rw [farCounted_eq] at counts ⊢
  exact ⟨m, counts, tiles⟩

/-- Tiles apart, passing a record changes nothing, so a far sett counts as before it. -/
theorem farCounted_setTile (d : Die) (n : Fin 16) (srcMod srcDie u v : Nat) (x : Tile) (m : SMap Tile) (s : State) :
    { farCounted d n srcMod srcDie (setTile u v x s) with tiles := m } = { farCounted d n srcMod srcDie s with tiles := m } := by
  rw [farCounted_eq, farCounted_eq]
  rfl

end Sys2Proof.Machine
end

section
namespace Sys2Proof
open Machine

/-- Settles O31: the cases of `farSignal`; a relay (`farSignal_relaysTile`) and an FSIGNAL (`fsignalRec_arrives`) cross a mesh that is
free of control flits (`crossCtl_arrives`). -/
theorem farSetts : Obligations.FarSetts := by
  unfold Obligations.FarSetts
  refine ⟨?_, ?_, ?_⟩
  · intro d n m e s run
    have idle := diesRun_idle run
    dsimp only
    rw [exec_farSettSignal d n m e run]
    have self : (Fin.ofNat 16 e.val : Die) = e := ofNat_die e rfl
    refine ⟨fun own cut => ?_, fun reach => ?_⟩
    · rw [farSignal_unreached own (by rw [self]; exact cut)]
    · rw [← self] at reach
      refine ⟨fun rel => ⟨_, rfl, farSignal_dropped reach rel⟩, fun rel h below => ?_, fun rel h30 h full hc i hi hin hf => ?_,
        fun rel h => ⟨_, rfl, farSignal_saturates reach rel idle h⟩⟩
      · rw [farSignal_counts reach rel h below]
        rfl
      · obtain ⟨a, count, last, shape, keeps, relay⟩ := farSignal_relaysTile reach rel idle rfl rfl h30 h full (ctlEmpty_of_mem hc)
          hi hin hf
        exact ⟨_, a, rfl, count, last, shape, keeps, relay⟩
  · intro u v st i k r s d n next hc reach hm hs rel free h
    obtain ⟨hi, -, hin, -⟩ := nextRec_some next.1
    obtain ⟨a, ha⟩ : ∃ a, a = setTile u v (stepPast s.now st r (tile s u v)) s := ⟨_, rfl⟩
    have ta : tile a u v = stepPast s.now st r (tile s u v) := by rw [ha, tile_setTile_same]
    have done : strmDone (tile a u v) st = true := by rw [ta, strmDone, stepPast_ops]; exact next.2.2
    have past : ∀ j, WorkKept (mget Tile.blank s.tiles j) (mget Tile.blank a.tiles j) := by
      rw [ha]
      exact stepPast_workKept u v st r s
    have empty : CtlEmpty a := by
      intro j
      rw [ha, setTile, mget_mput]
      split
      · rw [stepPast_ctl]
        exact ctlEmpty_of_mem hc _
      · exact ctlEmpty_of_mem hc j
    obtain ⟨b, routed, arrives⟩ := fsignalRec_arrives (s := a) k (by rw [ha]; exact hi) (by rw [ha]; exact hin) done empty hm hs
    obtain ⟨m, counts, tiles⟩ := farSignal_counts_routed (d := d) (n := n) (e := nearestDie i u v) routed (by rw [ha]; exact reach)
      (by rw [ha]; exact rel) (by rw [ha]; exact free) (by rw [ha]; exact h)
    have shape : fsignalRec u v st i k r a = { farCounted d n (ownId s) (nearestDie i u v).val s with tiles := m } := by
      rw [arrives, counts, ha]
      exact farCounted_setTile ..
    refine ⟨_, m, congrArg Host.Outcome.next ((issue_is _ next).trans (ha ▸ shape)), rfl, ?_, fun x => ?_⟩
    · obtain ⟨c, y, z, q, at_⟩ := tiles (tileKey u v)
      exact ⟨c, y, z, q, by rw [← ta]; exact at_⟩
    · exact (tiles x).sram.trans (past x).1
  · intro d d' n r p w s word is
    exact congrArg Host.Outcome.next (onUe_next _ word is)

end Sys2Proof
end

section
namespace Sys2Proof.Machine

/-! The ledger item of a placement, and what lies under it in the store (08 R242, 17 R498, R499). -/

theorem length_natLE (n v : Nat) : (natLE n v).length = n := by
  induction n generalizing v with
  | zero => rfl
  | succ n ih => rw [natLE, List.length_cons, ih]

theorem length_zeros (n : Nat) : (zeros n).length = n := List.length_replicate

theorem length_shaBlock (h : List W64) (blk : List Byte) : (shaBlock h blk).length = 8 := rfl

theorem length_sha384 (bs : List Byte) : (sha384 bs).length = 48 := by
  have words : ∀ (l : List (List Byte)) (h : List W64), h.length = 8 → (l.foldl shaBlock h).length = 8 := by
    intro l
    induction l with
    | nil => exact fun _ h => h
    | cons b l ih => exact fun h _ => ih _ (length_shaBlock h b)
  have eight : ∀ w : W64, (natBE 8 w.toNat).length = 8 := fun w => by rw [natBE, List.length_reverse, length_natLE]
  simp [sha384, List.length_flatten, Function.comp_def, eight, words _ sha384H0 rfl]

theorem length_rows {α : Type} (f : Nat → Nat → α) (m n : Nat) :
    (((List.range m).map fun y => (List.range n).map (f y)).flatten).length = m * n := by
  simp [List.length_flatten, Function.comp_def]

/-- A placement record has the length of Table 8.2. -/
theorem length_placeRecord (s : State) (p : Place) (cause : Nat) : (placeRecord s p cause).length = 1728 := by
  simp only [placeRecord, List.length_append, length_natLE, length_zeros, length_sha384, length_rows, waferY]

/-- A field of a range of the store is a read of the store. -/
theorem fieldLE_hbmBytes (s : State) (a : Nat) {o n l : Nat} (h : o + n ≤ l) :
    fieldLE (hbmBytes s a l) o n = leNat (hbmBytes s (a + o) n) := by
  unfold fieldLE
  congr 1
  refine List.ext_getElem (by simp [hbmBytes_length]; omega) fun k hk hk' => ?_
  rw [hbmBytes_get _ _ _ _ hk', List.getElem_take, List.getElem_drop, hbmBytes_get, Nat.add_assoc]

/-- An item's bytes 8 to 15 are its step number (17 Table 17.14). -/
theorem itemHeader_step (s : State) (step typ len : Nat) (body : List Byte) :
    fieldLE (itemHeader s step typ len ++ body) 8 8 = step % 2 ^ 64 := leNat_natLE 8 step

theorem length_itemHeader (s : State) (step typ len : Nat) : (itemHeader s step typ len).length = 32 := by
  simp [itemHeader, length_natLE]

/-- An item that fits before the ring's end stands in the store where the ring had come to. -/
theorem hbmBytes_ledgerItem {s : State} {base size : Nat} (typ : Nat) (body : List Byte) (ring : s.ledger = some (base, size))
    (lost : s.lostN = 0) (fits : ldgWr s % size + (32 + body.length) ≤ size) (free : 32 + body.length ≤ ldgFree size s) :
    hbmBytes (ledgerItem typ body s) (base + ldgWr s % size) (32 + body.length) =
      itemHeader s (stepNo s) typ (32 + body.length) ++ body := by
  have noPad : padLen size (32 + body.length) s = 0 := if_neg (by omega)
  have nonempty : size ≠ 0 := by omega
  have room : itemFits size (32 + body.length) s = true := by simp [itemFits, noPad, free, nonempty]
  have item : ledgerItem typ body s = writeItem base size (stepNo s) typ body s := by
    simp [ledgerItem, ledgerItemOf, ring, writeLost, lost, room]
  have unpadded : writePad base size (32 + body.length) s = s := if_pos noPad
  have length : (itemHeader s (stepNo s) typ (32 + body.length) ++ body).length = 32 + body.length := by
    rw [List.length_append, length_itemHeader]
  have written := hbmBytes_hbmWrite (base + ldgWr s % size) (itemHeader s (stepNo s) typ (32 + body.length) ++ body) s
  rw [length] at written
  rw [item]
  unfold writeItem
  dsimp only
  rw [unpadded]
  exact written

/-- Where an item of an early step is written over an image's header, the image has no length that can be one (06 Table 6.8). -/
theorem imageBytes_ledgerItem {s t : State} {base size : Nat} (typ : Nat) (body : List Byte) (ring : s.ledger = some (base, size))
    (lost : s.lostN = 0) (fits : ldgWr s % size + (32 + body.length) ≤ size) (free : 32 + body.length ≤ ldgFree size s)
    (early : stepNo s < 0x100) (hbm : t.hbm = (ledgerItem typ body s).hbm) (cipher : t.cipher = (ledgerItem typ body s).cipher) :
    imageBytes t (base + ldgWr s % size) = none := by
  have same : ∀ a n, hbmBytes t a n = hbmBytes (ledgerItem typ body s) a n := fun a n => by unfold hbmBytes hbmByte; rw [hbm, cipher]
  have length : fieldLE (hbmBytes t (base + ldgWr s % size) 0x100) 0x08 8 = stepNo s := by
    rw [same, fieldLE_hbmBytes _ _ (by omega), ← fieldLE_hbmBytes (l := 32 + body.length) _ _ (by omega),
      hbmBytes_ledgerItem typ body ring lost fits free, itemHeader_step]
    exact Nat.mod_eq_of_lt (by omega)
  unfold imageBytes
  dsimp only
  rw [length, if_pos (by simp [early])]

end Sys2Proof.Machine
end

section
namespace Sys2Proof.Machine

/-! What re-placement leaves alone until it writes the item of its placement (08 R243). -/

/-- From `a` to `t` the ledger and the registers of the pages ASQ and HDM stay. -/
structure RingKept (a t : State) : Prop where
  ring : t.ledger = a.ledger
  lost : t.lostN = a.lostN
  asq : PageKept .asq a t
  hdm : PageKept .hdm a t

section
variable {a s t : State}

theorem ringKept_refl (a : State) : RingKept a a := ⟨rfl, rfl, pageKept_refl _ _, pageKept_refl _ _⟩

theorem ringKept_of (h : RingKept a s) (ring : t.ledger = s.ledger) (lost : t.lostN = s.lostN) (regs : t.regs = s.regs) :
    RingKept a t :=
  ⟨ring.trans h.ring, lost.trans h.lost, pageKept_of h.asq regs, pageKept_of h.hdm regs⟩

theorem ringKept_setReg {q : Page} (o : Nat) (v : W32) (h : RingKept a s) (hq : Page.asq ≠ q ∧ Page.hdm ≠ q)
    (ho : o < 0x1000 := by omega) : RingKept a (setReg q o v s) :=
  ⟨h.ring, h.lost, pageKept_setReg o v h.asq hq.1, pageKept_setReg o v h.hdm hq.2⟩

theorem ringKept_foldl {α : Type} (l : List α) {f : State → α → State} (hf : ∀ x ∈ l, ∀ s, RingKept a s → RingKept a (f s x))
    (h : RingKept a s) : RingKept a (l.foldl f s) := by
  induction l generalizing s with
  | nil => exact h
  | cons x l ih => exact ih (fun y hy => hf y (List.mem_cons_of_mem x hy)) (hf x List.mem_cons_self s h)

/-- The array and its tree are found in the tree's and the map's fields alone. -/
theorem ringKept_settleTree (seed pkey n : Nat) (h : RingKept a s) : RingKept a (settleTree seed pkey n s) := by
  induction n generalizing s with
  | zero => exact ringKept_of h rfl rfl rfl
  | succ n ih =>
    unfold settleTree
    dsimp only
    split
    · exact ringKept_of h rfl rfl rfl
    · exact ih (ringKept_of h rfl rfl rfl)

theorem ringKept_showGeo (h : RingKept a s) : RingKept a (showGeo s) := by
  unfold showGeo forAll setBits
  refine ringKept_foldl _ (fun f _ s h => ringKept_setReg _ _ h ⟨nofun, nofun⟩) ?_
  exact ringKept_setReg _ _ (ringKept_setReg _ _ (ringKept_setReg _ _ h ⟨nofun, nofun⟩) ⟨nofun, nofun⟩) ⟨nofun, nofun⟩

/-- A placement that is shown ends with its ledger item (08 R242). -/
theorem showPlace_item (p : Place) (h : RingKept a s) : ∃ m, showPlace p s = ledgerItem 0x0002 p.record m ∧ RingKept a m := by
  refine ⟨_, rfl, ringKept_foldl _ (fun n hn s h => ringKept_setReg _ _ h ⟨nofun, nofun⟩ ?_) ?_⟩
  · have := List.mem_range.mp hn
    omega
  · unfold setReg64
    exact ringKept_setReg _ _ (ringKept_setReg _ _ (ringKept_setReg _ _ (ringKept_setReg _ _ h ⟨nofun, nofun⟩) ⟨nofun, nofun⟩)
      ⟨nofun, nofun⟩) ⟨nofun, nofun⟩

theorem ringKept_stepNo (h : RingKept a s) : stepNo s = stepNo a := by
  rw [stepNo, stepNo, reg64, reg64, h.asq _ (by omega), h.asq _ (by omega)]

theorem ringKept_ldgWr (h : RingKept a s) : ldgWr s = ldgWr a := by
  rw [ldgWr, ldgWr, reg64, reg64, h.hdm _ (by omega), h.hdm _ (by omega)]

theorem ringKept_ldgFree (size : Nat) (h : RingKept a s) : ldgFree size s = ldgFree size a := by
  rw [ldgFree, ldgFree, ringKept_ldgWr h, ldgRd, ldgRd, reg64, reg64, h.hdm _ (by omega), h.hdm _ (by omega)]

end

end Sys2Proof.Machine
end

section
namespace Sys2Proof.Machine

/-! The image that re-placement reads again (08 R243). -/

/-- What no step of a fold changes stays through the fold. -/
theorem foldl_stays {α β : Type} (g : State → β) {f : State → α → State} (hf : ∀ s x, g (f s x) = g s) (l : List α) (s : State) :
    g (l.foldl f s) = g s := by
  induction l generalizing s with
  | nil => rfl
  | cons x l ih => exact (ih _).trans (hf s x)

theorem showFields_hbm (p : Place) (i : Img) (s : State) : (showFields p i s).hbm = s.hbm := by
  unfold showFields forAll
  dsimp only
  exact foldl_stays State.hbm (fun _ _ => by rfl) _ s

theorem showFields_cipher (p : Place) (i : Img) (s : State) : (showFields p i s).cipher = s.cipher := by
  unfold showFields forAll
  dsimp only
  exact foldl_stays State.cipher (fun _ _ => by rfl) _ s

theorem writeRecord_image (u v : Nat) (r : ScaleRec) (ps : List (W32 × W32)) (s : State) : (writeRecord u v r ps s).image = s.image := by
  unfold writeRecord
  split <;> rfl

theorem writeRecordAll_image (ts : List (Nat × Nat)) (r : ScaleRec) (ps : List (W32 × W32)) (s : State) :
    (writeRecordAll ts r ps s).image = s.image := by
  unfold writeRecordAll forAll
  exact foldl_stays State.image (fun _ _ => by exact writeRecord_image ..) ts s

theorem loadTiles_image (i : Img) (s : State) : (loadTiles i s).image = s.image := by
  unfold loadTiles writeScales
  split
  · rfl
  · next j _ => exact foldl_stays State.image (fun s r => writeRecordAll_image (imageTiles j) r _ s) j.scales _

theorem setRec_image (v : Nat) (s : State) : (setRec v s).image = s.image := by
  unfold setRec
  split
  · rfl
  · exact fire_image ..

/-- The array and the tree that a re-placement finds. -/
def replaceGeo (p : Place) (s : State) : State := showGeo (placeGeo p.seed p.pkey (rememberSus s))

/-- A re-placement in the array of `b`, up to where it reads the image again: the new placement is in force and shown. -/
def shownAgain (seed : Nat) (i : Img) (b : State) : State :=
  let q := { placeOf b i seed with record := placeRecord b (placeOf b i seed) 2 }
  showFields q i (showPlace q (placeTree { b with place := some q }))

/-- Re-placement with room reads the image after it has written the item of the new placement. -/
theorem replaced_image {s : State} {i : Img} {p : Place} (hi : s.image = some i) (hp : s.place = some p) (hr : s.run = .halt)
    (h3 : recState s = 3) (hu : i.reqU ≤ (replaceGeo p s).geo.ua) (hv : i.reqV ≤ (replaceGeo p s).geo.va)
    (reach : reachOk (replaceGeo p s).geo (placeOf (replaceGeo p s) i p.seed) i = true)
    (power : fieldOver (replaceGeo p s) (placeOf (replaceGeo p s) i p.seed) i = none) :
    (replaced s).image = some (reread (shownAgain p.seed i (replaceGeo p s)) i) := by
  have due : ¬ (recState s ≠ 3 || s.run ≠ .halt) = true := by simp [h3, hr]
  unfold replaced
  rw [hi, hp]
  dsimp only
  rw [if_neg due]
  unfold replaceGeo at *
  rw [if_neg (by simp [reach, hu, hv]), if_neg (by simp [power]), setRec_image]
  exact loadTiles_image ..

/-- Where the ring has come to the image's place in the store and the step is an early one, the item of the new placement takes the
image's header, and what is read again is nothing. -/
theorem reread_shownAgain {b : State} {i : Img} {base size : Nat} (seed : Nat) (ring : b.ledger = some (base, size))
    (lost : b.lostN = 0) (fits : ldgWr b % size + 1760 ≤ size) (free : 1760 ≤ ldgFree size b) (early : stepNo b < 0x100)
    (here : i.addr = base + ldgWr b % size) : reread (shownAgain seed i b) i = i := by
  unfold shownAgain
  dsimp only
  generalize hq : ({ placeOf b i seed with record := placeRecord b (placeOf b i seed) 2 } : Place) = q
  have length : q.record.length = 1728 := by rw [← hq]; exact length_placeRecord ..
  have placed : RingKept b (placeTree { b with place := some q }) := ringKept_of (ringKept_refl b) rfl rfl rfl
  obtain ⟨m, item, kept⟩ := showPlace_item q placed
  rw [item]
  have gone : imageBytes (showFields q i (ledgerItem 0x0002 q.record m)) (base + ldgWr m % size) = none := by
    refine imageBytes_ledgerItem 0x0002 q.record (kept.ring.trans ring) (kept.lost.trans lost) ?_ ?_ ?_ (showFields_hbm ..)
      (showFields_cipher ..)
    · rw [ringKept_ldgWr kept]; omega
    · rw [ringKept_ldgFree size kept]; omega
    · rw [ringKept_stepNo kept]; exact early
  rw [ringKept_ldgWr kept, ← here] at gone
  unfold reread
  rw [gone]

end Sys2Proof.Machine
end

section
namespace Sys2Proof
open Machine

/-! A re-placement whose ledger ring lies over the image in the store. -/

/-- An image of 2 by 1 tiles at address 0 of the store, with one record of stream F. -/
def overlaidImage : Img := { (default : Img) with
  reqU := 2
  reqV := 1
  recF := [[]] }

/-- Re-placement is due in step 0. At address 0, where the ring begins too, the store holds the header of an image of 256 bytes and no
records. No check of LOAD keeps an image and the ring apart (`checkImage`). -/
def overlaid : State := setReg .cap 0x048 0x00100000 (setReg .asq 0x0A8 3 { State.reset with
  run := .halt
  image := some overlaidImage
  place := some (placeOf State.reset overlaidImage 0)
  ledger := some (0, 2 ^ 20)
  hbm := [(9, 1)] })

theorem overlaid_room :
    let b := replaceGeo (placeOf State.reset overlaidImage 0) overlaid
    overlaidImage.reqU ≤ b.geo.ua ∧ overlaidImage.reqV ≤ b.geo.va ∧ reachOk b.geo (placeOf b overlaidImage 0) overlaidImage = true ∧
      fieldOver b (placeOf b overlaidImage 0) overlaidImage = none := by
  decide +kernel

/-- Before the re-placement the store gives the image no records. -/
theorem reread_overlaid : (reread overlaid overlaidImage).recF = [] := by decide +kernel

theorem ringKept_replaceGeo (p : Place) (s : State) : RingKept s (replaceGeo p s) :=
  ringKept_showGeo (ringKept_settleTree _ _ _ (ringKept_of (ringKept_refl s) rfl rfl rfl))

/-- The re-placement leaves the image's record, since the item of the placement has taken the header. -/
theorem replaced_overlaid : (replaced overlaid).image = some overlaidImage := by
  obtain ⟨hu, hv, reach, power⟩ := overlaid_room
  have kept := ringKept_replaceGeo (placeOf State.reset overlaidImage 0) overlaid
  have start : ldgWr overlaid = 0 ∧ ldgFree (2 ^ 20) overlaid = 2 ^ 20 ∧ stepNo overlaid = 0 := by decide +kernel
  obtain ⟨wr, room, step⟩ := start
  rw [replaced_image rfl rfl rfl (by decide +kernel) hu hv reach power]
  refine congrArg some (reread_shownAgain 0 (base := 0) (size := 2 ^ 20) kept.ring kept.lost ?_ ?_ ?_ ?_)
  · rw [ringKept_ldgWr kept, wr]; decide
  · rw [ringKept_ldgFree _ kept, room]; decide
  · rw [ringKept_stepNo kept, step]; decide
  · rw [ringKept_ldgWr kept, wr]; rfl

/-- Refutes O54, in the clause on a re-placement with room: the image is read again after the item of the new placement has gone to
the ledger ring, and where the ring lies over the image in the store (`overlaid`) that differs from the image as the store held it
before. -/
theorem not_recoveryCommands : ¬ Obligations.RecoveryCommands := by
  unfold Obligations.RecoveryCommands
  rintro ⟨-, -, place, -⟩
  obtain ⟨hu, hv, reach, power⟩ := overlaid_room
  obtain ⟨t, run, -, -, -, image, -⟩ :=
    (place overlaidImage (placeOf State.reset overlaidImage 0) overlaid rfl rfl rfl (by decide +kernel)).1 hu hv reach power
  have is : replaced overlaid = t := Host.Outcome.next.inj run
  rw [← is, replaced_overlaid] at image
  have kept : overlaidImage.recF = (reread overlaid overlaidImage).recF := congrArg Img.recF (Option.some.inj image)
  rw [reread_overlaid] at kept
  exact List.cons_ne_nil _ _ kept

end Sys2Proof
end

section
namespace Sys2Proof.Machine

/-! What the entry into Fault leaves alone of the edge ring: the segments that are down, the Fault that stays, and the registers of the
edge dies (15 R444, R445). -/

/-- From `a` to `t` the ring, the Fault that only a reset clears and the registers of the edge dies stay. -/
structure EdgesStay (a t : State) : Prop where
  ring : t.ring = a.ring
  stuck : t.stuck = a.stuck
  edg : ∀ d, PageKept (.edg d) a t

section
variable {a s t : State}

theorem edgesStay_refl (a : State) : EdgesStay a a := ⟨rfl, rfl, fun d => pageKept_refl (.edg d) a⟩

theorem edgesStay_of (h : EdgesStay a s) (regs : t.regs = s.regs) (ring : t.ring = s.ring) (stuck : t.stuck = s.stuck) :
    EdgesStay a t :=
  ⟨ring.trans h.ring, stuck.trans h.stuck, fun d => pageKept_of (h.edg d) regs⟩

theorem edgesStay_ite {c : Prop} [Decidable c] (h : EdgesStay a s) (g : EdgesStay a t) : EdgesStay a (if c then s else t) := by
  split <;> assumption

theorem edgesStay_forAll {α : Type} (l : List α) {f : α → State → State} (hf : ∀ x s, EdgesStay a s → EdgesStay a (f x s))
    (h : EdgesStay a s) : EdgesStay a (forAll l f s) := by
  unfold forAll
  induction l generalizing s with
  | nil => exact h
  | cons x l ih => exact ih (hf x s h)

/-- A register of a page that is no edge die's. -/
theorem edgesStay_setReg {q : Page} (o : Nat) (v : W32) (h : EdgesStay a s) (hq : ∀ d, Page.edg d ≠ q := by nofun)
    (ho : o < 0x1000 := by omega) : EdgesStay a (setReg q o v s) :=
  ⟨h.ring, h.stuck, fun d => pageKept_setReg o v (h.edg d) (hq d) ho⟩

theorem edgesStay_events (h : EdgesStay a s) (e : OnlyEvents s t) : EdgesStay a t := by
  refine ⟨?_, ?_, fun d => pageKept_events nofun (h.edg d) e⟩ <;> obtain ⟨_, _, _, rfl, -⟩ := e
  exacts [h.ring, h.stuck]

theorem edgesStay_fire {n : Nat} (h : EdgesStay a s) (hn : n < 1024 := by omega) : EdgesStay a (fire n s) :=
  edgesStay_events h (onlyEvents_fire hn (onlyEvents_refl s))

theorem edgesStay_setErr {q : Page} (n : Nat) (h : EdgesStay a s) (hq : ∀ d, Page.edg d ≠ q := by nofun) :
    EdgesStay a (setErr q n s) :=
  edgesStay_events (edgesStay_setReg 0x010 _ h hq) (onlyEvents_setErr q n s)

theorem edgesStay_setRec (v : Nat) (h : EdgesStay a s) : EdgesStay a (setRec v s) :=
  edgesStay_ite h (edgesStay_fire (edgesStay_setReg (q := .asq) 0x0A8 _ h))

theorem outsideLedger_edg (d : Die) : OutsideLedger (.edg d) := ⟨nofun, nofun, nofun⟩

theorem edgesStay_ledgerItemOf (step typ : Nat) (body : List Byte) (h : EdgesStay a s) :
    EdgesStay a (ledgerItemOf step typ body s) := by
  obtain ⟨_, _, _, _, _, _, _, _, _, _, _, _, e, -⟩ := ledgerOnly_ledgerItemOf step typ body s
  exact ⟨(congrArg State.ring e).trans h.ring, (congrArg State.stuck e).trans h.stuck,
    fun d => pageKept_ledgerItemOf (outsideLedger_edg d) step typ body (h.edg d)⟩

/-! A trip that the pins call for, and a pending configuration command (13 R403, 17 R488). -/

theorem edgesStay_sealRegions (enc : Bool) (h : EdgesStay a s) : EdgesStay a (sealRegions enc s) := by
  obtain ⟨_, e⟩ := sealRegions_shape enc s
  rw [e]
  exact edgesStay_of h rfl rfl rfl

theorem edgesStay_setLnkState (p : Die) (v : Nat) (h : EdgesStay a s) : EdgesStay a (setLnkState p v s) :=
  edgesStay_setReg (q := .lnk p) 0x040 _ h

theorem edgesStay_eraseKeys (h : EdgesStay a s) : EdgesStay a (eraseKeys s) :=
  edgesStay_forAll _ (fun p _ h => edgesStay_setLnkState p _ h) (edgesStay_of (edgesStay_sealRegions true h) rfl rfl rfl)

theorem edgesStay_linksDown (h : EdgesStay a s) : EdgesStay a (linksDown s) :=
  edgesStay_forAll _ (fun p _ h => edgesStay_setReg (q := .lnk p) 0x040 _ (edgesStay_of h rfl rfl rfl)) h

theorem edgesStay_failScrub (h : EdgesStay a s) : EdgesStay a (failScrub s) :=
  edgesStay_ite (edgesStay_fire (edgesStay_setErr 1 (edgesStay_of h rfl rfl rfl))) h

theorem edgesStay_tripMarks (bit : Nat) {pg : Page} (eb : Nat) (h : EdgesStay a s) (hp : ∀ d, Page.edg d ≠ pg := by nofun) :
    EdgesStay a (tripMarks bit pg eb s) := by
  have marked := edgesStay_setErr (q := .pwr) 7 (edgesStay_setErr eb (edgesStay_setReg (q := .pwr) 0x080
    (setBit (reg s .pwr 0x080) bit true) h) hp)
  have off := edgesStay_failScrub (edgesStay_linksDown (s := fieldsOff _) (edgesStay_of marked rfl rfl rfl))
  exact edgesStay_ite h (edgesStay_of (edgesStay_ite (edgesStay_eraseKeys off) off) rfl rfl rfl)

theorem edgesStay_pinMarks (h : EdgesStay a s) : EdgesStay a (pinMarks s) := by
  have leak := edgesStay_ite (c := (!s.evc.pinFilt.testBit 0 && bitOf (cfgv s .pwr 0x078) 0) = true)
    (edgesStay_tripMarks 6 (pg := .thm) 6 h) h
  exact edgesStay_ite (edgesStay_tripMarks 5 (pg := .thm) 5 leak) leak

theorem edgesStay_vecRecheck (h : EdgesStay a s) : EdgesStay a (vecRecheck s) :=
  edgesStay_forAll _ (fun n s h => edgesStay_ite (edgesStay_events h (onlyEvents_vectorFire n (onlyEvents_refl s))) h) h

theorem edgesStay_applyCfg (h : EdgesStay a s) : EdgesStay a (applyCfg s) := by
  unfold applyCfg
  split
  · exact h
  next op _ =>
    lift_lets
    intro ver s1 s2 s3 s4
    have shown : EdgesStay a s2 := edgesStay_setReg (q := .cfg) _ _ (edgesStay_of h rfl rfl rfl) (ho := by split <;> omega)
    have counted : EdgesStay a s3 := by
      cases op with
      | commit => exact edgesStay_setReg (q := .cfg) 0x058 _ shown
      | rollback => exact shown
    have taken : EdgesStay a s4 := edgesStay_ite counted
      (edgesStay_ite (edgesStay_of counted rfl rfl rfl) (edgesStay_setReg (q := .rdc) 0x208 _ (edgesStay_of counted rfl rfl rfl)))
    exact edgesStay_vecRecheck (edgesStay_ledgerItemOf _ _ _ (edgesStay_fire (edgesStay_setReg (q := .cfg) 0x048 _ taken)))

/-! The entry itself. -/

theorem edgesStay_recoveryCut (h : EdgesStay a s) : EdgesStay a (recoveryCut s) := by
  have item : EdgesStay a (recoveryItem false 0xFFFF 0 s) := by
    unfold recoveryItem
    dsimp only
    split
    · exact edgesStay_ledgerItemOf _ _ _ (edgesStay_ledgerItemOf _ _ _ h)
    · exact edgesStay_ledgerItemOf _ _ _ h
  exact edgesStay_of (edgesStay_ite (c := (decide (2 ≤ recState s) && decide (recState s ≤ 4)) = true) item h) rfl rfl rfl

theorem edgesStay_dropData (h : EdgesStay a s) : EdgesStay a (dropData s) := by
  unfold dropData
  lift_lets
  intro s1 s2 s3 s4
  have dropped : EdgesStay a s2 := edgesStay_of (edgesStay_sealRegions true h) rfl rfl rfl
  have shown : EdgesStay a s3 := edgesStay_setReg (q := .cbg) 0x044 _ (edgesStay_setReg (q := .cbg) 0x040 _
    (edgesStay_setReg (q := .cbg) 0x050 _ (edgesStay_setReg (q := .plc) 0x048 _ (edgesStay_setReg (q := .asq) 0x040 _ dropped))))
  have owl : EdgesStay a s4 := edgesStay_setReg (q := .owl) 0x044 _ (edgesStay_setReg (q := .owl) 0x040 _ shown)
  exact edgesStay_forAll _ (fun f _ h => edgesStay_setReg (q := .fld f) 0x048 _ (edgesStay_setReg (q := .fld f) 0x044 _ h)) owl

theorem edgesStay_enterFault (h : EdgesStay a s) : EdgesStay a (enterFault s) := by
  unfold enterFault
  refine edgesStay_ite h ?_
  lift_lets
  intro s1 s2 s3 s4 q s5 s6
  have ended : EdgesStay a s1 := by
    unfold s1
    split
    · exact edgesStay_fire (edgesStay_setReg (q := .mid) 0x088 _ (edgesStay_of h rfl rfl rfl))
    · exact h
  have applied : EdgesStay a s2 := edgesStay_ite (edgesStay_pinMarks (edgesStay_applyCfg ended)) ended
  have cut : EdgesStay a s3 := edgesStay_setRec 0 (edgesStay_recoveryCut applied)
  have voided : EdgesStay a s5 := edgesStay_of (edgesStay_ite (edgesStay_dropData cut) cut) rfl rfl rfl
  have cleared : EdgesStay a s6 := edgesStay_ite (edgesStay_of voided rfl rfl rfl) voided
  exact edgesStay_events (s := { s6 with run := .fault }) (edgesStay_of cleared rfl rfl rfl) (onlyEvents_setRun .fault s6)

/-- A module that is not off is in Fault afterwards (15 R445). -/
theorem enterFault_run (h : s.run ≠ .off) : (enterFault s).run = .fault := by
  unfold enterFault
  split
  next stays => exact (by simpa [h] using stays : s.run = .fault)
  · exact run_setRun _ _

end

end Sys2Proof.Machine
end

section
namespace Sys2Proof.Machine

/-! The edge ring: a flit over a segment (09 R265, 15 R444). -/

/-- What a die holds stands in the map of the dies. -/
theorem dieSt_congr {s t : State} (h : t.dies = s.dies) (d : Die) : dieSt t d = dieSt s d := by rw [dieSt, h]; rfl

/-- A field of one bit that takes 1 is a bit that is set. -/
theorem setFld_one_bit (w : W32) (i : Nat) : setFld w i i 1 = setBit w i true := by
  have mask : (2 ^ (i - i + 1) - 1) <<< i = 2 ^ i := by simp [Nat.one_shiftLeft]
  simp only [setFld, setBit, mask, Nat.one_shiftLeft, BitVec.and_self, if_true]
  ext j hj
  simp only [BitVec.getElem_or, BitVec.getElem_and, BitVec.getElem_not]
  cases w[j] <;> cases (BitVec.ofNat 32 (2 ^ i))[j] <;> rfl

theorem setBits_bit (pg : Page) (o : Nat) {i : Nat} (hi : i < 32) (s : State) : bitOf (reg (setBits pg o i i 1 s) pg o) i = true := by
  rw [setBits, reg_setReg_same, setFld_one_bit, bitOf_setBit _ _ _ hi, if_pos rfl]

/-- Setting a bit clears no other, in the same register or another. -/
theorem setBits_keeps_bit (q : Page) (o' : Nat) {i : Nat} (hi : i < 32) {pg : Page} {o m : Nat} {s : State}
    (h : bitOf (reg s pg o) m = true) : bitOf (reg (setBits q o' i i 1 s) pg o) m = true := by
  rw [setBits, reg_setReg]
  split
  next same =>
    rw [setFld_one_bit, bitOf_setBit _ _ _ hi]
    split
    · rfl
    · rwa [reg, ← same]
  · exact h

/-- An error bit of a page changes no register of a page but ERR_STS. -/
theorem reg_setErr_other {pg q : Page} (n : Nat) {o : Nat} (s : State) (hp : pg ≠ .evc) (ho : o < 0x1000) (h : o ≠ 0x010) :
    reg (setErr q n s) pg o = reg s pg o := by
  by_cases same : pg = q
  · subst same
    exact reg_setErr_off n hp ho h
  · exact pageKept_setErr n hp (pageKept_refl pg s) same o ho

section
variable {s : State}

/-- A segment that goes down shows at both its dies (R265). -/
def segmentMarked (k : Nat) (s : State) : State :=
  setBits (.edg (dieAtRing (k + 1))) 0x048 0 0 1 (setErr (.edg (dieAtRing (k + 1))) 0
    (setBits (.edg (dieAtRing k)) 0x048 1 1 1 (setErr (.edg (dieAtRing k)) 0 s)))

theorem segmentMarked_shape (k : Nat) (s : State) : EventsAndRegs s (segmentMarked k s) :=
  eventsAndRegs_setReg _ _ _ (eventsAndRegs_trans (eventsAndRegs_setReg _ _ _ (setErr_shape ..)) (setErr_shape ..))

theorem segmentMarked_bits (k : Nat) (s : State) :
    bitOf (reg (segmentMarked k s) (.edg (dieAtRing k)) 0x048) 1 = true ∧
      bitOf (reg (segmentMarked k s) (.edg (dieAtRing (k + 1))) 0x048) 0 = true := by
  refine ⟨setBits_keeps_bit _ _ (by omega) ?_, setBits_bit _ _ (by omega) _⟩
  rw [reg_setErr_other (pg := .edg _) _ _ nofun (by omega) (by omega)]
  exact setBits_bit _ _ (by omega) _

/-- What the ledger's FAULT item leaves of it. -/
def segmentLogged (k : Nat) (s : State) : State :=
  faultItem 4 15 [] { segmentMarked k s with ring := addNew k (segmentMarked k s).ring }

theorem segmentLogged_ring (k : Nat) (s : State) : (segmentLogged k s).ring = addNew k s.ring := by
  obtain ⟨_, _, _, shape⟩ := segmentMarked_shape k s
  obtain ⟨_, _, _, _, _, _, _, _, _, _, _, _, item, -⟩ := ledgerOnly_faultItem 4 15 []
    { segmentMarked k s with ring := addNew k (segmentMarked k s).ring }
  exact (congrArg State.ring item).trans (by rw [shape])

theorem segmentLogged_run (k : Nat) (s : State) : (segmentLogged k s).run = s.run := by
  obtain ⟨_, _, _, shape⟩ := segmentMarked_shape k s
  obtain ⟨_, _, _, _, _, _, _, _, _, _, _, _, item, -⟩ := ledgerOnly_faultItem 4 15 []
    { segmentMarked k s with ring := addNew k (segmentMarked k s).ring }
  exact (congrArg State.run item).trans (by rw [shape])

theorem segmentLogged_reg (k : Nat) (s : State) (d : Die) {o : Nat} (ho : o < 0x1000) :
    reg (segmentLogged k s) (.edg d) o = reg (segmentMarked k s) (.edg d) o :=
  pageKept_ledgerItemOf (outsideLedger_edg d) _ _ _
    (pageKept_of (t := { segmentMarked k s with ring := addNew k (segmentMarked k s).ring }) (pageKept_refl (.edg d) _) rfl) o ho

/-- The Fault that the second segment brings (15 R444). -/
def ringBroken (s : State) : State := { recordCause 15 0xFFFF 0xFFFF 0 (setErr .asq 15 s) with stuck := true }

theorem segmentDown_eq (k : Nat) (s : State) : segmentDown k s =
    if (segmentLogged k s).ring.length < 2 then segmentLogged k s else enterFault (ringBroken (segmentLogged k s)) := rfl

theorem ringBroken_run (s : State) : (ringBroken s).run = s.run := by
  obtain ⟨_, e⟩ := recordCause_shape 15 0xFFFF 0xFFFF 0 (setErr .asq 15 s)
  rw [ringBroken, e]
  exact setErr_run ..

theorem ringBroken_ring (s : State) : (ringBroken s).ring = s.ring := by
  obtain ⟨_, e⟩ := recordCause_shape 15 0xFFFF 0xFFFF 0 (setErr .asq 15 s)
  rw [ringBroken, e]
  exact setErr_ring ..

theorem recordCause_page {pg : Page} {a : State} (cause u v detail : Nat) (hq : pg ≠ .asq) (h : PageKept pg a s) :
    PageKept pg a (recordCause cause u v detail s) := by
  unfold recordCause
  split
  · exact h
  · exact pageKept_setReg (q := .asq) 0x078 _ (pageKept_setReg (q := .asq) 0x074 _ (pageKept_setReg (q := .asq) 0x070 _
      (pageKept_setReg (q := .asq) 0x06C _ (pageKept_setReg (q := .asq) 0x068 _ h hq) hq) hq) hq) hq

theorem ringBroken_page (s : State) (d : Die) : PageKept (.edg d) s (ringBroken s) :=
  pageKept_of (s := recordCause 15 0xFFFF 0xFFFF 0 (setErr .asq 15 s))
    (recordCause_page 15 0xFFFF 0xFFFF 0 nofun (pageKept_setErr (q := .asq) 15 nofun (pageKept_refl (.edg d) s) nofun)) rfl

/-- A segment that goes down joins those that are down, and both its dies report it (R265). -/
theorem segmentDown_reports (k : Nat) (s : State) : (segmentDown k s).ring = addNew k s.ring ∧
    bitOf (reg (segmentDown k s) (.edg (dieAtRing k)) 0x048) 1 = true ∧
    bitOf (reg (segmentDown k s) (.edg (dieAtRing (k + 1))) 0x048) 0 = true := by
  have marked := segmentMarked_bits k s
  rw [← segmentLogged_reg k s _ (by omega), ← segmentLogged_reg k s _ (by omega)] at marked
  rw [segmentDown_eq]
  split
  · exact ⟨segmentLogged_ring k s, marked⟩
  · have stays := edgesStay_enterFault (edgesStay_refl (ringBroken (segmentLogged k s)))
    have at_ (d : Die) : reg (enterFault (ringBroken (segmentLogged k s))) (.edg d) 0x048 = reg (segmentLogged k s) (.edg d) 0x048 :=
      (stays.edg d _ (by omega)).trans (ringBroken_page _ d _ (by omega))
    rw [at_, at_]
    exact ⟨stays.ring.trans ((ringBroken_ring _).trans (segmentLogged_ring k s)), marked⟩

/-- The first segment down stops nothing (15 R444). -/
theorem segmentDown_first (k : Nat) (h : s.ring = []) : (segmentDown k s).run = s.run := by
  rw [segmentDown_eq, if_pos (by rw [segmentLogged_ring, h]; exact Nat.one_lt_two), segmentLogged_run]

/-- The second one is a Fault that stays (15 R444). -/
theorem segmentDown_second {k : Nat} (hp : powered s = true) (hk : k ∉ s.ring) (h : s.ring ≠ []) :
    (segmentDown k s).run = .fault ∧ (segmentDown k s).stuck = true := by
  have two : ¬ (segmentLogged k s).ring.length < 2 := by
    have := List.length_pos_iff.mpr h
    rw [segmentLogged_ring, addNew, if_neg hk, List.length_append, List.length_singleton]
    omega
  rw [segmentDown_eq, if_neg two]
  refine ⟨enterFault_run ?_, (edgesStay_enterFault (edgesStay_refl _)).stuck⟩
  rw [ringBroken_run, segmentLogged_run]
  simpa [powered] using hp

/-! The three outcomes of a flit. -/

variable {k : Nat} (hp : powered s = true) (ht : s.tripLatched = false) (hk : k ∉ s.ring)

include hp ht hk

theorem ringFlit_crosses (m : RingMsg) : ringFlit k true m s = ringDeliver m
    (setDie (dieAtRing k) { dieSt s (dieAtRing k) with ringFail := mput 0 k 0 (dieSt s (dieAtRing k)).ringFail } s) := by
  rw [ringFlit, if_neg (by simp [hp, ht, hk])]
  rfl

theorem ringFlit_replays (m : RingMsg) (h : mget 0 (dieSt s (dieAtRing k)).ringFail k < 3) :
    ringFlit k false m s = bump (.edg (dieAtRing k)) 0x04C (setDie (dieAtRing k) { dieSt s (dieAtRing k) with
      ringFail := mput 0 k (mget 0 (dieSt s (dieAtRing k)).ringFail k + 1) (dieSt s (dieAtRing k)).ringFail } s) := by
  rw [ringFlit, if_neg (by simp [hp, ht, hk])]
  simp [show ¬ 3 ≤ mget 0 (dieSt s (dieAtRing k)).ringFail k by omega]

theorem ringFlit_fails (m : RingMsg) (h : 3 ≤ mget 0 (dieSt s (dieAtRing k)).ringFail k) :
    ringFlit k false m s = segmentDown k (setDie (dieAtRing k) { dieSt s (dieAtRing k) with
      ringFail := mput 0 k 0 (dieSt s (dieAtRing k)).ringFail } s) := by
  rw [ringFlit, if_neg (by simp [hp, ht, hk])]
  simp [h]

end

end Sys2Proof.Machine
end

section
namespace Sys2Proof.Machine

/-! The patrol scrub and BAR2 (09 R272, 17 R475, R476). -/

section
variable {s : State}

theorem mem_sectorsOf_first (a : Nat) {n : Nat} (hn : n ≠ 0) : a / 64 ∈ sectorsOf a n := by
  rw [sectorsOf, if_neg hn]
  exact List.mem_map.mpr ⟨0, by simp, by simp⟩

/-- A read whose own first sector is named as clean finds no error. -/
theorem hbmTouch_named_clean (a : Nat) {n : Nat} (hn : n ≠ 0) (h : s.flaws = []) :
    ∃ r, hbmTouch a n (addFlaws [(a, .clean)] s) = { s with regs := r } := by
  have met : meetFlaws a n (addFlaws [(a, .clean)] s) = { s with flaws := [] } := by
    simp [addFlaws, meetFlaws, h, mem_sectorsOf_first a hn, hbmEcc]
  obtain ⟨r, count⟩ := countLines_shape 0x064 a n { s with flaws := [] }
  exact ⟨r, by rw [hbmTouch, if_neg hn, met, count, ← h]⟩

/-- A patrol read that finds no error moves the pointer on, and counts (R272, Table 9.4). -/
theorem patrolScrub_clean {d : Die} {n : Fin 4} (hp : powered s = true) (hn : n.val < nStk s)
    (hr : fld (cfgv s (.hbm d (stkCtl s d n)) 0x05C).toNat 7 0 ≠ 0) (hf : s.flaws = []) :
    ∃ r, patrolScrub d n .clean s =
      setReg (.hbm d (stkCtl s d n)) 0x060 (w32 ((mget 0 (dieSt s d).scrubAt n.val + 1) % 750000000 / 64))
        (setDie d { dieSt s d with
          scrubAt := mput 0 n.val ((mget 0 (dieSt s d).scrubAt n.val + 1) % 750000000) (dieSt s d).scrubAt } { s with regs := r }) := by
  obtain ⟨r, touched⟩ := hbmTouch_named_clean (stackAddr d n (mget 0 (dieSt s d).scrubAt n.val)) (n := 64) (by omega) hf
  refine ⟨r, ?_⟩
  rw [patrolScrub, if_neg (by simp [hp, hn, hr])]
  simp only [touched]
  rfl

/-! BAR2: the bytes of the parameter store from B2_BASE on. -/

/-- The module's management complex runs and start-up is over. -/
def Bar2Open (s : State) : Prop := s.run ≠ .off ∧ s.run ≠ .boot

theorem bar2Open_of (hp : powered s = true) (hb : s.run ≠ .boot) : Bar2Open s := ⟨by simpa [powered] using hp, hb⟩

section
variable {off len : Nat} {data : List Byte} {ide : Bool} (ho : Bar2Open s)

theorem exec_bar2Read (es : EccList) (h : off + len ≤ 2 ^ 36) :
    exec (.bar2Read off len ide es) s = .next (bar2Read off len ide es s) :=
  if_neg (by omega)

theorem exec_bar2Write (poisoned : Bool) (h : off + data.length ≤ 2 ^ 36) :
    exec (.bar2Write off data ide poisoned) s = .next (bar2Write off data ide poisoned s) :=
  if_neg (by omega)

theorem exec_bar2Read_beyond (es : EccList) (h : 2 ^ 36 < off + len) : exec (.bar2Read off len ide es) s = .fault .outsideBar :=
  if_pos h

theorem exec_bar2Write_beyond (poisoned : Bool) (h : 2 ^ 36 < off + data.length) :
    exec (.bar2Write off data ide poisoned) s = .fault .outsideBar :=
  if_pos h

include ho

theorem bar2Read_invalid (es : EccList) (hv : rangeValid s (b2Base s + off) len = false) :
    bar2Read off len ide es s = emit (.bar2Abort off) (setErr .hdm 2 s) := by
  simp [bar2Read, ho.1, ho.2, hv]

theorem bar2Read_valid (hv : rangeValid s (b2Base s + off) len = true) (hj : jobClosed s (b2Base s + off) len ide = false)
    (hf : s.flaws = []) : ∃ r, bar2Read off len ide [] s =
      emit (.bar2Data off (hbmBytes s (b2Base s + off) len) (hbmPoisoned s (b2Base s + off) len)) { s with regs := r } := by
  obtain ⟨r, touched⟩ := hbmTouch_clean (b2Base s + off) len hf
  refine ⟨r, ?_⟩
  simp only [bar2Read, ho.1, ho.2, hv, hj, addFlaws, List.isEmpty_nil, touched, if_true, if_false, Bool.not_true, Bool.false_eq_true]
  rfl

theorem bar2Write_invalid (hv : rangeValid s (b2Base s + off) data.length = false) :
    bar2Write off data ide false s = setErr .hdm 2 s := by
  simp [bar2Write, ho.1, ho.2, hv]

theorem bar2Write_valid (hv : rangeValid s (b2Base s + off) data.length = true)
    (hj : jobClosed s (b2Base s + off) data.length ide = false) :
    bar2Write off data ide false s = hbmWrite (b2Base s + off) data s := by
  simp [bar2Write, ho.1, ho.2, hv, hj]

end

theorem hbmByte_hbmWrite_off (a : Nat) (bs : List Byte) (s : State) {x : Nat} (h : x < a ∨ a + bs.length ≤ x) :
    hbmByte (hbmWrite a bs s) x = hbmByte s x := by
  rw [hbmByte_hbmWrite, dif_neg (by omega)]

end

end Sys2Proof.Machine
end

section
namespace Sys2Proof
open Machine

/-- Settles O37: the outcomes of `ringFlit`, a segment that goes down (`segmentDown_reports`, `segmentDown_second`), the patrol's read
(`patrolScrub_clean`), and BAR2 by `bar2Read_valid` and `bar2Write_valid`. -/
theorem ringScrubAndBar2 : Obligations.RingScrubAndBar2 := by
  unfold Obligations.RingScrubAndBar2
  refine ⟨?_, ?_, ?_, ?_, ?_, ?_, ?_⟩
  · intro k m s hp ht hk
    refine ⟨congrArg Host.Outcome.next (ringFlit_crosses hp ht hk m), fun below => ?_, fun above => ?_⟩
    · refine ⟨_, congrArg Host.Outcome.next (ringFlit_replays hp ht hk m below), ?_, by simp, by simp, fun frz => reg_bump_same _ _ frz⟩
      rw [dieSt_congr (bump_dies ..), dieSt_setDie_same]
      simp only [mget_mput_same]
    · obtain ⟨ring, left, right⟩ := segmentDown_reports k.val (setDie (dieAtRing k.val) { dieSt s (dieAtRing k.val) with
        ringFail := mput 0 k.val 0 (dieSt s (dieAtRing k.val)).ringFail } s)
      exact ⟨_, congrArg Host.Outcome.next (ringFlit_fails hp ht hk m above), ring ▸ mem_addNew _ _, left, right,
        fun first => segmentDown_first k.val first, fun second => segmentDown_second hp hk second⟩
  · intro a bs s _ valid
    exact if_pos valid
  · intro d d' n m s run
    exact if_pos run
  · intro d n s hp hn hr hf
    obtain ⟨r, moved⟩ := patrolScrub_clean hp hn hr hf
    refine ⟨_, congrArg Host.Outcome.next moved, ?_, rfl, rfl, fun e he => ?_, reg_setReg_same ..⟩
    · rw [dieSt_congr (setReg_dies ..), dieSt_setDie_same]
      exact mget_mput_same ..
    · exact dieSt_setDie_ne _ _ he
  · intro off len ide s room hp hb valid job hf
    obtain ⟨r, answered⟩ := bar2Read_valid (bar2Open_of hp hb) valid job hf
    exact ⟨_, (exec_bar2Read [] room).trans (congrArg Host.Outcome.next answered), ⟨r, rfl⟩, rfl⟩
  · intro off data ide s room hp hb valid job
    obtain ⟨r, h, p, c, shape⟩ := hbmWrite_shape (b2Base s + off) data s
    exact ⟨_, (exec_bar2Write false room).trans (congrArg Host.Outcome.next (bar2Write_valid (bar2Open_of hp hb) valid job)),
      ⟨r, p, h, c, shape⟩, hbmBytes_hbmWrite .., fun a => hbmByte_hbmWrite_off _ _ _⟩
  · intro off len data ide s hp hb
    have opened := bar2Open_of hp hb
    refine ⟨fun room bad => ?_, fun room bad => ?_, exec_bar2Read_beyond [], exec_bar2Write_beyond false⟩
    · exact ⟨_, (exec_bar2Read [] room).trans (congrArg Host.Outcome.next (bar2Read_invalid opened [] bad)),
        setErr_bit .hdm (by omega) s, setErr_hbm ..⟩
    · exact ⟨_, (exec_bar2Write false room).trans (congrArg Host.Outcome.next (bar2Write_invalid opened bad)),
        setErr_bit .hdm (by omega) s, setErr_hbm ..⟩

end Sys2Proof
end

section
namespace Sys2Proof.Machine

/-! The runs of an Update Engine: what sets one, what ends one (09 R284, R286). -/

section
variable {d : Die} {s : State}

/-- Engine `d` takes a run, or loses it; beside it only registers change. -/
def RunSet (d : Die) (r : Option URun) (s t : State) : Prop :=
  ∃ q, t = { setDie d { dieSt s d with ue := { (dieSt s d).ue with run := r } } s with regs := q }

section
variable {r : Option URun} {t : State}

theorem RunSet.die (h : RunSet d r s t) : dieSt t d = { dieSt s d with ue := { (dieSt s d).ue with run := r } } := by
  obtain ⟨_, rfl⟩ := h
  exact dieSt_setDie_same ..

theorem RunSet.ue (h : RunSet d r s t) : (dieSt t d).ue = { (dieSt s d).ue with run := r } := by rw [h.die]

theorem RunSet.run (h : RunSet d r s t) : (dieSt t d).ue.run = r := by rw [h.ue]

theorem RunSet.others (h : RunSet d r s t) : ∀ e, e ≠ d → dieSt t e = dieSt s e := by
  obtain ⟨_, rfl⟩ := h
  exact fun e he => dieSt_setDie_ne _ _ he

theorem RunSet.hbm (h : RunSet d r s t) : t.hbm = s.hbm := by obtain ⟨_, rfl⟩ := h; rfl
theorem RunSet.tiles (h : RunSet d r s t) : t.tiles = s.tiles := by obtain ⟨_, rfl⟩ := h; rfl

end

/-- After changes to registers alone. -/
theorem runSet_setUeRun (r : Option URun) {a : State} (h : ∃ q, a = { s with regs := q }) : RunSet d r s (setUeRun d r a) := by
  obtain ⟨q, rfl⟩ := h
  unfold setUeRun
  cases r <;> exact ⟨_, rfl⟩

theorem regs_refl (s : State) : ∃ q, s = { s with regs := q } := ⟨s.regs, rfl⟩

theorem setReg64_shape (pg : Page) (o v : Nat) (s : State) : ∃ q, setReg64 pg o v s = { s with regs := q } := ⟨_, rfl⟩

theorem addBusy_shape (n : Nat) {a : State} (h : ∃ q, a = { s with regs := q }) : ∃ q, addBusy d n a = { s with regs := q } := by
  obtain ⟨_, rfl⟩ := h
  unfold addBusy
  split
  · exact ⟨_, rfl⟩
  · generalize reg64 _ _ _ + n = v
    exact setReg64_shape ..

theorem bump_regs (pg : Page) (o : Nat) {a : State} (h : ∃ q, a = { s with regs := q }) : ∃ q, bump pg o a = { s with regs := q } := by
  obtain ⟨_, rfl⟩ := h
  exact bump_shape ..

/-- The groups that an engine holds hang on no register: member number and plan are the state's own (R240). -/
theorem heldGroups_regs {a : State} (h : ∃ q, a = { s with regs := q }) (u : UProg) (d : Die) : heldGroups a u d = heldGroups s u d := by
  obtain ⟨_, rfl⟩ := h
  rfl

/-! What the engine's page keeps. -/

theorem reg_setUeRun {r : Option URun} {o : Nat} (h : o ≠ 0x040) (h' : o ≠ 0x044) :
    reg (setUeRun d r s) (.upe d) o = reg s (.upe d) o := by
  cases r <;> exact (reg_setReg_off _ _ _ h').trans (reg_setReg_off _ _ _ h)

theorem reg_setUeRun_status (r : URun) : reg (setUeRun d (some r) s) (.upe d) 0x040 = w32 (2 ^ 31 + r.prog % 2 ^ 16) :=
  (reg_setReg_off _ _ _ (by omega)).trans (reg_setReg_same ..)

theorem reg_addBusy {n o : Nat} (h : o ≠ 0x050) (h' : o ≠ 0x054) : reg (addBusy d n s) (.upe d) o = reg s (.upe d) o := by
  unfold addBusy
  split
  · rfl
  · exact (reg_setReg_off _ _ _ h').trans (reg_setReg_off _ _ _ h)

/-! END (09 R283, R284). -/

section
variable {r : URun} {u : UProg}

theorem uePass_next {a : State} (h : ∃ q, a = { s with regs := q }) (more : r.pass + 1 < u.passes.length) :
    RunSet d (some ⟨r.prog, heldGroups s u d, r.pass + 1, 0, 0, false, 0⟩) s (uePass d r u a) := by
  rw [uePass, if_pos more, heldGroups_regs h]
  exact runSet_setUeRun _ h

theorem uePass_last {a : State} (h : ∃ q, a = { s with regs := q }) (last : u.passes.length ≤ r.pass + 1) :
    RunSet d none s (uePass d r u a) := by
  rw [uePass, if_neg (by omega)]
  exact runSet_setUeRun _ h

/-- Some run is set, whichever. -/
theorem uePass_sets {a : State} (h : ∃ q, a = { s with regs := q }) : ∃ x, RunSet d x s (uePass d r u a) := by
  by_cases more : r.pass + 1 < u.passes.length
  · exact ⟨_, uePass_next h more⟩
  · exact ⟨_, uePass_last h (by omega)⟩

theorem reg_uePass : reg (uePass d r u s) (.upe d) 0x04C = reg s (.upe d) 0x04C := by
  unfold uePass
  split <;> exact reg_setUeRun (by omega) (by omega)

variable {k g : Nat} {rest : List Nat}

/-- The state after the last iteration of a group: the group counts, and its cycles (R284, R292). -/
def groupCounted (d : Die) (r : URun) (u : UProg) (g : Nat) (s : State) : State :=
  addBusy d (match s.image with
    | some i => passCycles i u (u.passes.getD r.pass []) (groupElems s g) ((heldGroups s u d).head? = some g)
    | none => 0) (bump (.upe d) 0x04C s)

theorem groupCounted_regs : ∃ q, groupCounted d r u g s = { s with regs := q } := addBusy_shape _ (bump_regs _ _ (regs_refl s))

theorem reg_groupCounted (h : pageFrz s (.upe d) = false) :
    reg (groupCounted d r u g s) (.upe d) 0x04C = satInc (reg s (.upe d) 0x04C) :=
  (reg_addBusy (by omega) (by omega)).trans (reg_bump_same _ _ h)

theorem ueLoop_iterates (h : 256 * (r.iter + 1) < groupElems s g) :
    ueLoop d r u k g rest s = setUeRun d (some { r with pc := k, iter := r.iter + 1 }) s := if_pos h

theorem ueLoop_ends (h : groupElems s g ≤ 256 * (r.iter + 1)) : ueLoop d r u k g rest s =
    if rest.isEmpty then uePass d r u (groupCounted d r u g s)
    else setUeRun d (some { r with groups := rest, pc := k, iter := 0 }) (groupCounted d r u g s) := if_neg (by omega)

theorem ueLoop_group (h : groupElems s g ≤ 256 * (r.iter + 1)) (hr : rest ≠ []) :
    RunSet d (some { r with groups := rest, pc := k, iter := 0 }) s (ueLoop d r u k g rest s) := by
  rw [ueLoop_ends h, if_neg (by simpa using hr)]
  exact runSet_setUeRun _ groupCounted_regs

theorem ueLoop_pass (h : groupElems s g ≤ 256 * (r.iter + 1)) (hr : rest = []) :
    ueLoop d r u k g rest s = uePass d r u (groupCounted d r u g s) := by
  rw [ueLoop_ends h, if_pos (by simp [hr])]

theorem ueLoop_sets : ∃ x, RunSet d x s (ueLoop d r u k g rest s) := by
  by_cases more : 256 * (r.iter + 1) < groupElems s g
  · rw [ueLoop_iterates more]
    exact ⟨_, runSet_setUeRun _ (regs_refl s)⟩
  · by_cases hr : rest = []
    · rw [ueLoop_pass (by omega) hr]
      exact uePass_sets groupCounted_regs
    · exact ⟨_, ueLoop_group (by omega) hr⟩

theorem reg_ueLoop (frz : pageFrz s (.upe d) = false) (h : groupElems s g ≤ 256 * (r.iter + 1)) :
    reg (ueLoop d r u k g rest s) (.upe d) 0x04C = satInc (reg s (.upe d) 0x04C) := by
  rw [ueLoop_ends h]
  split
  · exact reg_uePass.trans (reg_groupCounted frz)
  · exact (reg_setUeRun (by omega) (by omega)).trans (reg_groupCounted frz)

theorem endGo_loops (hk : loopStart (u.passes.getD r.pass []) = some k) (hg : r.groups = g :: rest) :
    endGo d r u s = ueLoop d r u k g rest s := by
  simp only [endGo, hk, hg]

/-- A pass without LDS, or without a group, is over at once. -/
theorem endGo_passes (h : loopStart (u.passes.getD r.pass []) = none ∨ r.groups = []) :
    ∃ a, (∃ q, a = { s with regs := q }) ∧ endGo d r u s = uePass d r u a := by
  unfold endGo
  split
  next => exact ⟨_, addBusy_shape _ (regs_refl s), rfl⟩
  next k hk =>
    have none_ : r.groups = [] := h.resolve_left (by rw [hk]; nofun)
    simp only [none_]
    exact ⟨s, regs_refl s, rfl⟩

theorem exec_end {p : UProg} {w : Nat} (word : ueWord s d = some (r, p, w)) (is : vIs w 0x29 [] = true) :
    exec (.end_ d) s = .next (endGo d r p s) := congrArg Host.Outcome.next (onUe_next _ word is)

theorem exec_xchg {p : UProg} {w : Nat} {b : Bool} (word : ueWord s d = some (r, p, w)) (is : vIs w 0x26 [(1, 0, b.toNat)] = true) :
    exec (.xchg d b) s = .next (setUeRun d (some { r with wait := true, since := s.now }) s) :=
  congrArg Host.Outcome.next (onUe_next (fun r _ s => setUeRun d (some { r with wait := true, since := s.now }) s) word is)

end

/-! The start of a program (09 R286). -/

/-- The constants a program starts with: its own in S0 to S14, the step number in S15. -/
def startConsts (p : UProg) (s : State) : SMap W32 :=
  mputs 0 15 [(enc32 .rne (.fin false (stepNo s) 0)).1] (mputs 0 0 (p.consts.take 15) [])

theorem startConsts_step (p : UProg) : mget 0 (startConsts p s) 15 = (enc32 .rne (.fin false (stepNo s) 0)).1 :=
  mget_mput_same ..

theorem startConsts_own (p : UProg) {k : Nat} (h : k < 15) (hk : k < p.consts.length) :
    mget 0 (startConsts p s) k = p.consts.getD k 0 := by
  have inside : k < (p.consts.take 15).length := by rw [List.length_take]; omega
  have own := mget_mputs_in (d := (0 : W32)) (m := []) 0 (p.consts.take 15) k inside
  rw [Nat.zero_add] at own
  rw [startConsts, mget_mputs_out _ _ _ (.inl h), own, List.getElem_take, List.getD_eq_getElem _ _ hk]

/-- The engine loaded with a program. -/
def programLoaded (p : UProg) (rest : List Nat) (d : Die) (s : State) : State :=
  setDie d { dieSt s d with ue := { (dieSt s d).ue with ready := rest, s := startConsts p s, acc := [], chmax := [] } } s

theorem ueStart_starts {i : Img} {n : Nat} {rest : List Nat} {p : UProg} (hi : s.image = some i) (idle : (dieSt s d).ue.run = none)
    (hr : (dieSt s d).ue.ready = n :: rest) (run : uesRun s = true) (hp : i.uprogs.find? (fun u => u.prog = n) = some p) :
    ueStart d s = setUeRun d (some ⟨n, heldGroups s p d, 0, 0, 0, false, 0⟩) (programLoaded p rest d s) := by
  have started : ueStart d s = setUeRun d (some ⟨n, heldGroups (programLoaded p rest d s) p d, 0, 0, 0, false, 0⟩)
      (programLoaded p rest d s) := by
    simp only [ueStart, hi, idle, hr, run, hp, Bool.not_true, Bool.false_eq_true, if_false, programLoaded, startConsts]
  rw [started]
  rfl

end

end Sys2Proof.Machine
end

section
namespace Sys2Proof.Machine

/-! Exchanges of the Update Engines (09 R284). -/

section
variable {s : State}

/-! The largest channel maxima. -/

/-- A channel maximum joins others. -/
def chanJoin (m : SMap W32) (x : Nat × W32) : SMap W32 := if (mget 0 m x.1).toNat < x.2.toNat then mput 0 x.1 x.2 m else m

/-- Those of one engine join. -/
def chansJoin (m : SMap W32) (e : Ue) : SMap W32 := e.chmax.foldl chanJoin m

theorem chanJoin_mono (m : SMap W32) (x : Nat × W32) (c : Nat) : (mget 0 m c).toNat ≤ (mget 0 (chanJoin m x) c).toNat := by
  unfold chanJoin
  split
  next above =>
    rw [mget_mput]
    split
    next same => rw [same]; exact above.le
    · exact le_rfl
  · exact le_rfl

theorem chanJoin_covers (m : SMap W32) (x : Nat × W32) : x.2.toNat ≤ (mget 0 (chanJoin m x) x.1).toNat := by
  unfold chanJoin
  split
  · rw [mget_mput_same]
  next above => exact Nat.le_of_not_lt above

/-- What only rises along a list is, at its end, at least what it was and what each element brings. -/
theorem foldl_rises {α β : Type} {f : β → α → β} {v : β → Nat} (mono : ∀ b x, v b ≤ v (f b x)) (l : List α) (b : β) :
    v b ≤ v (l.foldl f b) ∧ ∀ x ∈ l, ∀ n, (∀ b, n ≤ v (f b x)) → n ≤ v (l.foldl f b) := by
  induction l generalizing b with
  | nil => exact ⟨le_rfl, nofun⟩
  | cons y l ih =>
    obtain ⟨rises, brings⟩ := ih (f b y)
    refine ⟨(mono b y).trans rises, fun x hx n hn => ?_⟩
    rcases List.mem_cons.mp hx with rfl | hx
    · exact (hn b).trans rises
    · exact brings x hx n hn

theorem chansJoin_mono (m : SMap W32) (e : Ue) (c : Nat) : (mget 0 m c).toNat ≤ (mget 0 (chansJoin m e) c).toNat :=
  (foldl_rises (v := fun m => (mget 0 m c).toNat) (fun m x => chanJoin_mono m x c) e.chmax m).1

theorem chansJoin_covers (m : SMap W32) (e : Ue) (c : Nat) : (mget 0 e.chmax c).toNat ≤ (mget 0 (chansJoin m e) c).toNat := by
  cases found : mfind e.chmax c with
  | none => simp [mget, found]
  | some w =>
    rw [show mget 0 e.chmax c = w by simp [mget, found]]
    exact (foldl_rises (v := fun m => (mget 0 m c).toNat) (fun m x => chanJoin_mono m x c) e.chmax m).2 _ (mem_of_mfind found) _
      fun m => chanJoin_covers m (c, w)

/-- The maxima of all engines. -/
def maxOf (es : List Ue) : SMap W32 := es.foldl chansJoin []

theorem le_maxOf {es : List Ue} {e : Ue} (h : e ∈ es) (c : Nat) : (mget 0 e.chmax c).toNat ≤ (mget 0 (maxOf es) c).toNat :=
  (foldl_rises (v := fun m => (mget 0 m c).toNat) (fun m x => chansJoin_mono m x c) es []).2 e h _ fun m => chansJoin_covers m e c

/-! The sums of the accumulator lanes. -/

/-- The sum of a lane of all engines. -/
def laneSum (es : List Ue) (k : Nat) : XaLane := es.foldl (fun a e => xaJoin a (mget XaLane.blank e.acc k)) XaLane.blank

def laneSums (es : List Ue) : SMap XaLane := (List.range 8).foldl (fun (m : SMap XaLane) k => mput XaLane.blank k (laneSum es k) m) []

/-- A map written key by key. -/
theorem mget_foldl_mput {α : Type} [DecidableEq α] (d : α) (f : Nat → α) (n : Nat) (m : SMap α) {k : Nat} (h : k < n) :
    mget d ((List.range n).foldl (fun m k => mput d k (f k) m) m) k = f k := by
  induction n with
  | zero => omega
  | succ n ih =>
    rw [List.range_succ, List.foldl_append, List.foldl_cons, List.foldl_nil, mget_mput]
    split
    next same => rw [same]
    · exact ih (by omega)

theorem mget_laneSums (es : List Ue) {k : Nat} (h : k < 8) : mget XaLane.blank (laneSums es) k = laneSum es k :=
  mget_foldl_mput _ _ _ _ h

/-! What an engine takes from an exchange, and what a list of engines takes. -/

/-- The values that an engine takes. -/
def takesJoint (acc : Bool) (es : List Ue) (e : Ue) : Ue := if acc then { e with acc := laneSums es } else { e with chmax := maxOf es }

theorem takesJoint_run (acc : Bool) (es : List Ue) (e : Ue) : (takesJoint acc es e).run = e.run := by cases acc <;> rfl

/-- The engine after an exchange: the joint values, and its program goes on. -/
def exchanged (acc : Bool) (es : List Ue) (e : Ue) : Ue :=
  { takesJoint acc es e with run := (takesJoint acc es e).run.map fun r => { r with wait := false, pc := r.pc + 1 } }

theorem exchanged_run (acc : Bool) (es : List Ue) (e : Ue) :
    (exchanged acc es e).run = e.run.map fun r => { r with wait := false, pc := r.pc + 1 } := by
  rw [exchanged, takesJoint_run]

/-- One engine of the span goes on; its wait counts as busy (R292). -/
def goesOn (acc : Bool) (es : List Ue) (d : Die) (s : State) : State :=
  bump (.upe d) 0x058 (addBusy d (s.now - ((dieSt s d).ue.run.map (·.since)).getD s.now)
    (setDie d { dieSt s d with ue := exchanged acc es (dieSt s d).ue } s))

theorem goesOn_dies (acc : Bool) (es : List Ue) (d : Die) (s : State) : (goesOn acc es d s).dies =
    (setDie d { dieSt s d with ue := exchanged acc es (dieSt s d).ue } s).dies := by
  obtain ⟨_, busy⟩ := addBusy_shape (d := d) (s.now - ((dieSt s d).ue.run.map (·.since)).getD s.now)
    (regs_refl (setDie d { dieSt s d with ue := exchanged acc es (dieSt s d).ue } s))
  rw [goesOn, bump_dies, busy]

theorem dieSt_goesOn_same (acc : Bool) (es : List Ue) (d : Die) (s : State) :
    dieSt (goesOn acc es d s) d = { dieSt s d with ue := exchanged acc es (dieSt s d).ue } := by
  rw [dieSt_congr (goesOn_dies acc es d s), dieSt_setDie_same]

theorem dieSt_goesOn_ne (acc : Bool) (es : List Ue) {d e : Die} (s : State) (h : e ≠ d) : dieSt (goesOn acc es d s) e = dieSt s e := by
  rw [dieSt_congr (goesOn_dies acc es d s), dieSt_setDie_ne _ _ h]

/-- Each engine of a list without repeats goes on once. -/
theorem dieSt_goesOn_all (acc : Bool) (es : List Ue) {l : List Die} (nodup : l.Nodup) (s : State) (d : Die) :
    dieSt (forAll l (goesOn acc es) s) d =
      if d ∈ l then { dieSt s d with ue := exchanged acc es (dieSt s d).ue } else dieSt s d := by
  unfold forAll
  induction l generalizing s with
  | nil => rfl
  | cons e l ih =>
    obtain ⟨once, nodup⟩ := List.nodup_cons.mp nodup
    rw [List.foldl_cons, ih nodup]
    by_cases same : d = e
    · subst same
      rw [if_neg once, dieSt_goesOn_same, if_pos List.mem_cons_self]
    · rw [dieSt_goesOn_ne _ _ _ same]
      simp [same]

/-! The exchange completes. -/

theorem spanDies_nodup (s : State) (u : UProg) : (spanDies s u).Nodup := (List.nodup_finRange 16).filter _

theorem waitsIn_run {u : UProg} {d : Die} {x : URun × Bool} (h : waitsIn s u d = some x) : (dieSt s d).ue.run = some x.1 := by
  unfold waitsIn at h
  split at h
  next r i run _ =>
    split at h
    · split at h
      · rw [run, ← Option.some.inj h]
      · cases h
    · cases h
  · cases h

/-- Every engine waits: as many entries as engines. -/
theorem waiting_all {u : UProg} {b : Bool} {p0 : Nat} {l : List Die}
    (h : ∀ d ∈ l, ∃ r, waitsIn s u d = some (r, b) ∧ r.pass = p0) :
    (l.filterMap (waitsIn s u)).length = l.length ∧ ∀ x ∈ l.filterMap (waitsIn s u), x.2 = b ∧ x.1.pass = p0 := by
  refine ⟨List.filterMap_length_eq_length.mpr fun d hd => ?_, fun x hx => ?_⟩
  · obtain ⟨r, waits, -⟩ := h d hd
    rw [waits]
    rfl
  · obtain ⟨d, hd, waits⟩ := List.mem_filterMap.mp hx
    obtain ⟨r, waits', pass⟩ := h d hd
    cases waits.symm.trans waits'
    exact ⟨rfl, pass⟩

theorem xchgDone_completes {n p0 : Nat} {b : Bool} {i : Img} {p : UProg} (hi : s.image = some i)
    (hp : i.uprogs.find? (fun u => u.prog = n) = some p) (run : uesRun s = true) (some_ : spanDies s p ≠ [])
    (reach : ∀ d ∈ spanDies s p, ringReach s d ((spanDies s p).headD 0) = true)
    (waits : ∀ d ∈ spanDies s p, ∃ r, waitsIn s p d = some (r, b) ∧ r.pass = p0) :
    xchgDone n s = forAll (spanDies s p) (goesOn b ((spanDies s p).map fun d => (dieSt s d).ue)) s := by
  obtain ⟨all, alike⟩ := waiting_all waits
  obtain ⟨x, rs, list⟩ : ∃ x rs, (spanDies s p).filterMap (waitsIn s p) = x :: rs := by
    refine List.exists_cons_of_ne_nil fun none_ => some_ ?_
    rw [none_] at all
    exact List.length_eq_zero_iff.mp all.symm
  have first := alike x (by simp [list])
  have head : ((spanDies s p).filterMap (waitsIn s p)).headD default = x := by rw [list, List.headD_cons]
  have goes : (((spanDies s p).filterMap (waitsIn s p)).length ≠ (spanDies s p).length || (spanDies s p).isEmpty ||
      ((spanDies s p).filterMap (waitsIn s p)).any (fun r => r.2 ≠ x.2 || r.1.pass ≠ x.1.pass) || !uesRun s ||
      (spanDies s p).any fun d => !ringReach s d ((spanDies s p).headD 0)) = false := by
    simp only [Bool.or_eq_false_iff, List.any_eq_false, all, run]
    refine ⟨⟨⟨⟨by simp, by simpa using some_⟩, fun y hy => ?_⟩, rfl⟩, fun d hd => ?_⟩
    · simp [alike y hy, first]
    · rw [reach d hd]
      exact Bool.false_ne_true
  unfold xchgDone
  simp only [hi, Option.bind_some, hp]
  rw [head, if_neg (by rw [goes]; exact Bool.false_ne_true), first.1]
  rfl

end

end Sys2Proof.Machine
end

section
namespace Sys2Proof.Machine

/-! A run that stops inside a pass, for poison or for an exchange that times out (09 R271, R284, 15 R442). -/

section
variable {d : Die} {s : State} {i : Img} {r : URun}

theorem stopInstance_shape (hi : s.image = some i) (hr : (dieSt s d).ue.run = some r) : ∃ q c, stopInstance d s =
    { setDie d { dieSt s d with ue := { (dieSt s d).ue with run := none } } s with regs := q, rdc := c } := by
  unfold stopInstance
  simp only [hi, hr]
  split
  next u _ =>
    obtain ⟨_, busy⟩ := addBusy_shape (d := d) (partCycles i u r ((heldGroups s u d).head? = r.groups.head?)) (regs_refl s)
    rw [busy]
    obtain ⟨q, idle⟩ := runSet_setUeRun (d := d) none (regs_refl { s with
      regs := _
      rdc := { s.rdc with deadGrp := _ } })
    exact ⟨q, _, idle⟩
  next =>
    obtain ⟨q, idle⟩ := runSet_setUeRun (d := d) none (regs_refl s)
    exact ⟨q, s.rdc, idle⟩

/-- A run stops with error bit `n` of the engine and a FAULT item. -/
def engineStopped (cls cause n : Nat) (d : Die) (s : State) : State := faultItem cls cause [] (upeErr d n (stopInstance d s))

/-- The engine is idle, its error bit set; the other dies and the state of the module are as before. -/
theorem engineStopped_spec (cls cause : Nat) {n : Nat} (hn : n < 32) (hi : s.image = some i) (hr : (dieSt s d).ue.run = some r) :
    (dieSt (engineStopped cls cause n d s) d).ue.run = none ∧ bitOf (reg (engineStopped cls cause n d s) (.upe d) 0x010) n = true ∧
    (∀ e, e ≠ d → dieSt (engineStopped cls cause n d s) e = dieSt s e) ∧
    (engineStopped cls cause n d s).loading = s.loading ∧ (engineStopped cls cause n d s).run = s.run := by
  obtain ⟨_, _, stop⟩ := stopInstance_shape hi hr
  obtain ⟨_, _, _, _, _, _, _, _, _, _, _, _, item, -⟩ := ledgerOnly_faultItem cls cause [] (upeErr d n (stopInstance d s))
  have stopped : (stopInstance d s).dies = (setDie d { dieSt s d with ue := { (dieSt s d).ue with run := none } } s).dies ∧
      (stopInstance d s).loading = s.loading ∧ (stopInstance d s).run = s.run := by
    rw [stop]
    exact ⟨rfl, rfl, rfl⟩
  obtain ⟨idle, load, mode⟩ := stopped
  have dies := (congrArg State.dies item).trans ((setErr_dies ..).trans idle)
  refine ⟨?_, ?_, fun e he => ?_, ?_, ?_⟩
  · exact congrArg (·.ue.run) ((dieSt_congr dies d).trans (dieSt_setDie_same ..))
  · have outside : OutsideLedger (.upe d) := ⟨nofun, nofun, nofun⟩
    rw [engineStopped, show reg (faultItem cls cause [] (upeErr d n (stopInstance d s))) (.upe d) 0x010 =
      reg (upeErr d n (stopInstance d s)) (.upe d) 0x010 from
      pageKept_ledgerItemOf outside _ _ _ (pageKept_refl (.upe d) _) 0x010 (by omega)]
    exact setErr_bit _ hn _
  · exact (dieSt_congr dies e).trans (dieSt_setDie_ne _ _ he)
  · exact (congrArg State.loading item).trans ((setErr_loading ..).trans load)
  · exact (congrArg State.run item).trans ((setErr_run ..).trans mode)

/-- The state in which an exchange has timed out: 1 ms after the wait began, which counts as busy (R284, R292). -/
def timedOut (d : Die) (r : URun) (s : State) : State :=
  addBusy d (max s.now (r.since + 1000000) - r.since) { s with now := max s.now (r.since + 1000000) }

theorem timedOut_shape : ∃ q, timedOut d r s = { s with now := max s.now (r.since + 1000000), regs := q } :=
  addBusy_shape _ (regs_refl { s with now := max s.now (r.since + 1000000) })

theorem exec_xchgTimeout (hr : (dieSt s d).ue.run = some r) (hw : r.wait = true) (run : uesRun s = true) :
    exec (.xchgTimeout d) s = .next (faultInLoad (engineStopped 4 0 2 d (timedOut d r s))) := by
  show execXchgTimeout d s = _
  simp only [execXchgTimeout, hr, hw, run, Bool.and_self, if_true]
  rfl

theorem uesRun_image (h : uesRun s = true) : ∃ i, s.image = some i := by
  simp only [uesRun, Bool.and_eq_true] at h
  exact Option.isSome_iff_exists.mp h.1.2

theorem uesRun_powered (h : uesRun s = true) : s.run ≠ .off := by
  simp only [uesRun, Bool.and_eq_true] at h
  simpa [powered] using h.1.1

end

end Sys2Proof.Machine
end

section
namespace Sys2Proof
open Machine

/-- Settles O36: a program's start (`ueStart_starts`), the cases of END (`endGo_loops`, `endGo_passes`), an exchange that completes
(`xchgDone_completes`) or times out (`engineStopped_spec`). -/
theorem updateEngineRuns : Obligations.UpdateEngineRuns := by
  unfold Obligations.UpdateEngineRuns
  refine ⟨?_, ?_, ?_, ?_, ?_, ?_⟩
  · intro d i n rest p s hi idle hr run hp
    have set := runSet_setUeRun (d := d) (some ⟨n, heldGroups s p d, 0, 0, 0, false, 0⟩) (regs_refl (programLoaded p rest d s))
    refine ⟨_, startConsts p s, congrArg Host.Outcome.next (ueStart_starts hi idle hr run hp), ?_, startConsts_step p,
      fun k => startConsts_own p, reg_setUeRun_status _, fun e he => ?_, set.hbm⟩
    · rw [set.ue, programLoaded, dieSt_setDie_same]
    · exact (set.others e he).trans (dieSt_setDie_ne _ _ he)
  · intro d r p w s k g rest word is hk hg
    obtain ⟨x, set⟩ := ueLoop_sets (d := d) (s := s) (r := r) (u := p) (k := k) (g := g) (rest := rest)
    refine ⟨_, exec_end word is, ?_⟩
    rw [endGo_loops hk hg]
    refine ⟨set.others, set.hbm, set.tiles, fun more => ?_, fun ends left => ?_, fun ends last more => ?_, fun ends last end_ => ?_,
      reg_ueLoop⟩
    · rw [ueLoop_iterates more, (runSet_setUeRun _ (regs_refl s)).run]
    · exact (ueLoop_group ends left).run
    · rw [ueLoop_pass ends last]
      exact (uePass_next groupCounted_regs more).run
    · rw [ueLoop_pass ends last]
      exact (uePass_last groupCounted_regs end_).run
  · intro d r p w s word is h
    obtain ⟨a, regs, passes⟩ := endGo_passes h
    obtain ⟨x, set⟩ := uePass_sets (d := d) (r := r) (u := p) regs
    refine ⟨_, exec_end word is, ?_⟩
    rw [passes]
    exact ⟨set.others, set.hbm, set.tiles, fun more => (uePass_next regs more).run, fun last => (uePass_last regs last).run⟩
  · intro d r p w s b word is
    have set := runSet_setUeRun (d := d) (some { r with wait := true, since := s.now }) (regs_refl s)
    exact ⟨_, exec_xchg word is, set.ue, set.others, set.hbm⟩
  · intro n p0 b i p s hi hp run some_ reach waits
    have all := dieSt_goesOn_all b ((spanDies s p).map fun d => (dieSt s d).ue) (spanDies_nodup s p) s
    refine ⟨_, congrArg Host.Outcome.next (xchgDone_completes hi hp run some_ reach waits), fun d hd r waiting => ?_, ?_, ?_,
      fun d out => ?_⟩
    · rw [all, if_pos hd, exchanged_run, waitsIn_run waiting]
      rfl
    · rintro rfl d hd e he
      rw [all, all, if_pos hd, if_pos he]
      exact ⟨rfl, rfl, fun _ => le_maxOf (List.mem_map_of_mem he)⟩
    · rintro rfl d hd k hk
      rw [all, if_pos hd]
      exact ⟨rfl, (mget_laneSums _ hk).trans (List.foldl_map ..)⟩
    · rw [all, if_neg out]
  · intro d r s hr hw run
    obtain ⟨i, hi⟩ := uesRun_image run
    obtain ⟨q, shape⟩ := timedOut_shape (d := d) (r := r) (s := s)
    obtain ⟨idle, bit, others, load, mode⟩ := engineStopped_spec (d := d) (s := timedOut d r s) (i := i) (r := r) 4 0 (n := 2)
      (by omega) (by rw [shape]; exact hi) (by rw [shape]; exact hr)
    rw [shape] at load mode others
    rw [shape] at idle bit
    refine ⟨_, exec_xchgTimeout hr hw run, fun loading => ?_, fun done => ?_⟩
    · rw [shape, faultInLoad, if_pos (load.trans loading)]
      exact enterFault_run (by rw [mode]; exact uesRun_powered run)
    · rw [shape, faultInLoad, if_neg (by rw [load]; simp [done])]
      exact ⟨idle, bit, others⟩

end Sys2Proof
end

section
namespace Sys2Proof.Machine

/-! Registers of a vector engine after a write of one (02 R61, 09 R282). -/

section
variable {d : Die} {s : State}

theorem VuSt.get_put (x : VuSt) (r : Nat) (f : Nat → W32) (r' : Nat) {l : Nat} (h : l < x.w) :
    (x.put r f).get r' l = if r' = r then f l else x.get r' l := by
  have length : ((List.range x.w).map f).length = x.w := by simp
  show mget 0 (mputs 0 (x.w * r) ((List.range x.w).map f) x.v) (x.w * r' + l) = _
  split
  next same =>
    subst same
    rw [mget_mputs_in _ _ l (by omega)]
    simp
  next other =>
    refine mget_mputs_out _ _ _ ?_
    rw [length]
    rcases Nat.lt_or_gt_of_ne other with below | above
    · have := Nat.mul_le_mul_left x.w below
      rw [Nat.mul_succ] at this
      omega
    · have := Nat.mul_le_mul_left x.w above
      rw [Nat.mul_succ] at this
      omega

theorem dieSt_ueStepPc (d : Die) (s : State) : dieSt (ueStepPc d s) d = { dieSt s d with
    ue := { (dieSt s d).ue with run := (dieSt s d).ue.run.map fun r => { r with pc := r.pc + 1 } } } := dieSt_setDie_same ..

theorem vuOf_putUeVu (x : VuSt) (hw : x.w = 256) (hc : x.causes = 0) : vuOf (.ue d) (putUeVu d x s) = x := by
  show ueVu (dieSt (putUeVu d x s) d).ue = x
  rw [putUeVu, dieSt_ueStepPc, dieSt_setDie_same]
  obtain ⟨w, v, mask, sat, causes⟩ := x
  subst hw hc
  rfl

theorem vuFrame_putUeVu (x : VuSt) : VuFrame (.ue d) s (putUeVu d x s) := ⟨x.v, x.mask, x.sat, rfl⟩

theorem putUeVu_fc (x : VuSt) (n : Nat) : putUeVu d x { s with fc := n } = { putUeVu d x s with fc := n } := rfl

/-- An engine that writes one register lane by lane, over any state `a`. -/
theorem vuWrites_putUeVu (vd : Nat) (f : Nat → W32) (a : State) :
    VuWrites (.ue d) vd f s (putUeVu d ((ueVu (dieSt s d).ue).put vd f) a) := by
  intro l hl
  have same : vuOf (.ue d) (putUeVu d ((ueVu (dieSt s d).ue).put vd f) a) = (vuOf (.ue d) s).put vd f := vuOf_putUeVu _ rfl rfl
  unfold vLane vMask
  rw [same]
  exact ⟨fun r => VuSt.get_put _ vd f r hl, rfl⟩

/-! Reads of a region that find no codeword error (09 R270). -/

theorem regs_foldl {α : Type} {f : State → α → State} (hf : ∀ x (s : State), s.flaws = [] → ∃ q, f s x = { s with regs := q })
    (l : List α) (h : s.flaws = []) : ∃ q, l.foldl f s = { s with regs := q } := by
  induction l generalizing s with
  | nil => exact regs_refl s
  | cons x l ih =>
    obtain ⟨q, e⟩ := hf x s h
    rw [List.foldl_cons, e]
    exact ih h

theorem regionTouch_clean (rg : Region) (gen off n : Nat) (h : s.flaws = []) :
    ∃ q, regionTouch rg gen off n s = { s with regs := q } := by
  obtain ⟨q, first⟩ := hbmTouch_clean (regionAddr (placeNow s) rg gen off) (min n (4096 - off % 4096)) h
  unfold regionTouch
  dsimp only
  rw [first]
  exact regs_foldl (s := { s with regs := q }) (fun k s hs => hbmTouch_clean _ _ hs) _ h

theorem touchElems_clean (rg : Region) (fmt gen el0 el1 : Nat) (h : s.flaws = []) :
    ∃ q, touchElems rg fmt gen el0 el1 s = { s with regs := q } := by
  have step : ∀ {c : Prop} [Decidable c] (off n : Nat) {a : State}, (∃ q, a = { s with regs := q }) →
      ∃ q, (if c then regionTouch rg gen off n a else a) = { s with regs := q } := by
    rintro c _ off n a ⟨q, rfl⟩
    split
    · exact regionTouch_clean rg gen off n (s := { s with regs := q }) h
    · exact ⟨q, rfl⟩
  exact step _ _ (step _ _ (regionTouch_clean rg gen _ _ h))

/-! LDS (09 R271, R283, R284). -/

/-- The lanes of an iteration that lie inside the group. -/
def liveLanes (s : State) (r : URun) : List Nat := (List.range 256).filter fun l => 256 * r.iter + l < groupElems s (r.groups.headD 0)

theorem mem_liveLanes {r : URun} {l : Nat} : l ∈ liveLanes s r ↔ l < 256 ∧ 256 * r.iter + l < groupElems s (r.groups.headD 0) := by
  simp [liveLanes]

/-- They are the first ones. -/
theorem liveLanes_range (s : State) (r : URun) :
    liveLanes s r = List.range (min 256 (groupElems s (r.groups.headD 0) - 256 * r.iter)) := by
  have inside (l : Nat) : decide (256 * r.iter + l < groupElems s (r.groups.headD 0)) =
      decide (l < groupElems s (r.groups.headD 0) - 256 * r.iter) := decide_eq_decide.mpr (by omega)
  have prefix_ : ∀ m n, (List.range n).filter (fun l => decide (l < m)) = List.range (min n m) := by
    intro m n
    induction n with
    | zero => simp
    | succ n ih =>
      rw [List.range_succ, List.filter_append, ih]
      by_cases h : n < m
      · rw [List.filter_cons_of_pos (by simpa using h), List.filter_nil, show min (n + 1) m = n + 1 by omega,
          show min n m = n by omega, List.range_succ]
      · rw [List.filter_cons_of_neg (by simpa using h), List.filter_nil, List.append_nil, show min (n + 1) m = min n m by omega]
  unfold liveLanes
  simp only [inside]
  exact prefix_ _ _

section
variable {r : URun} {u : UProg} {q : UStream} {t : Nat} (vd : Nat) (hq : u.streams[t]? = some q)

include hq

theorem ldsGo_sums (es : EccList) (hr : q.region = none) :
    ldsGo d vd t es r u s = putUeVu d ((ueVu (dieSt s d).ue).put vd fun l =>
      if 256 * r.iter + l < groupElems s (r.groups.headD 0) then
        sumElem s (4096 * r.groups.headD 0 + (256 * r.iter + l) / 32) ((256 * r.iter + l) % 32) else 0) s := by
  simp only [ldsGo, hq, hr]

variable {ri : Nat} {i : Img} {rg : Region} (hr : q.region = some ri) (hi : s.image = some i) (hg : regionOf i ri = some rg)

include hr hi hg

theorem ldsGo_far (es : EccList) (ho : rg.owner ≠ d) :
    ldsGo d vd t es r u s = putUeVu d ((ueVu (dieSt s d).ue).put vd (farLanes s)) { s with fc := s.fc + 256 } := by
  rw [putUeVu_fc]
  simp only [ldsGo, hq, hr, hi, Option.bind_some, hg, ne_eq, ho, not_false_eq_true, if_true]

/-- The element of the stream's region that a lane takes. -/
def laneElem (r : URun) (u : UProg) (q : UStream) (l : Nat) : Nat := q.elem0 + streamIdx u q (r.groups.headD 0) (256 * r.iter + l)

/-- What LDS makes of a region's elements once its reads have been counted: `live` are the lanes inside a group of `n` elements. -/
def ldsTakes (d : Die) (vd : Nat) (r : URun) (u : UProg) (q : UStream) (rg : Region) (live : List Nat) (n gen : Nat) (s : State) : State :=
  if live.any fun l => elemPoisoned s rg q.fmt gen (laneElem r u q l) then
    { engineStopped 3 0 0 d s with asq := { (engineStopped 3 0 0 d s).asq with voided := true } }
  else
    let t := putUeVu d ((ueVu (dieSt s d).ue).put vd fun l =>
      if 256 * r.iter + l < n then regionElem s rg q.fmt gen (laneElem r u q l) else 0) s
    if live.any fun l => (regionElemS s rg q.fmt gen (laneElem r u q l)).2 then
      numSat (4096 * r.groups.headD 0 + 8 * r.iter) rg.layer t else t

/-- LDS from a region of the engine's own die whose reads find no codeword error. -/
theorem ldsGo_own (ho : rg.owner = d) (hf : s.flaws = []) : ∃ x, ldsGo d vd t [] r u s = ldsTakes d vd r u q rg (liveLanes s r)
    (groupElems s (r.groups.headD 0)) (stepNo s + q.nextGen.toNat) { s with regs := x } := by
  have touched : ∃ x, (if (liveLanes s r).isEmpty then s else touchElems rg q.fmt (stepNo s + q.nextGen.toNat) (laneElem r u q 0)
      (laneElem r u q ((liveLanes s r).length - 1)) s) = { s with regs := x } := by
    split
    · exact regs_refl s
    · exact touchElems_clean _ _ _ _ _ hf
  obtain ⟨x, touched⟩ := touched
  refine ⟨x, ?_⟩
  rw [← touched]
  simp only [ldsGo, hq, hr, hi, Option.bind_some, hg, ne_eq, ho, not_true_eq_false, if_false, addFlaws, List.isEmpty_nil, if_true]
  rfl

end

end

end Sys2Proof.Machine
end

section
namespace Sys2Proof.Machine

section
variable {d : Die} {s : State}

/-- An engine whose program has an instruction next is in its run. -/
theorem ueWord_run {r : URun} {p : UProg} {w : Nat} (h : ueWord s d = some (r, p, w)) : (dieSt s d).ue.run = some r := by
  unfold ueWord at h
  split at h
  next i r' _ run =>
    split at h
    · cases h
    · split at h
      · split at h
        · cases h
          exact run
        · cases h
      · cases h
  · cases h

/-! The instruction that an engine's program has next runs. -/

section
variable {r : URun} {p : UProg} {w : Nat} (word : ueWord s d = some (r, p, w))

include word

theorem exec_lds {vd : Fin 16} {t : Fin 8} (es : EccList) (is : vIs w 0x20 [fVd vd, (2, 0, t.val)] = true) :
    exec (.lds d vd ⟨t, es⟩) s = .next (ldsGo d vd t es r p s) := congrArg Host.Outcome.next (onUe_next _ word is)

theorem exec_sts {va : Fin 16} {t : Fin 8} (is : vIs w 0x21 [fVa va, (2, 0, t.val)] = true) :
    exec (.sts d va t) s = .next (stsGo d va t r p s) := congrArg Host.Outcome.next (onUe_next _ word is)

theorem exec_qout {va : Fin 16} {t : Fin 8} (is : vIs w 0x22 [fVa va, (2, 0, t.val)] = true) :
    exec (.qout d va t) s = .next (qoutGo d va t r p s) := congrArg Host.Outcome.next (onUe_next _ word is)

theorem exec_amax {va : Fin 16} (is : vIs w 0x23 [fVa va] = true) : exec (.amax d va) s = .next (amaxGo d va r p s) :=
  congrArg Host.Outcome.next (onUe_next _ word is)

theorem exec_xacc {k : Fin 8} {va vb : Fin 16} (is : vIs w 0x24 [fVa va, fVb vb, (2, 0, k.val)] = true) :
    exec (.xacc d k va vb) s = .next (xaccGo d k va vb s) := congrArg Host.Outcome.next (onUe_next _ word is)

theorem exec_xrd {sk : Fin 16} {k : Fin 8} (is : vIs w 0x25 [(7, 4, sk.val), (2, 0, k.val)] = true) :
    exec (.xrd d sk k) s = .next (xrdGo d sk k s) := congrArg Host.Outcome.next (onUe_next _ word is)

theorem exec_scal {vd sk : Fin 16} (is : vIs w 0x27 [fVd vd, (3, 0, sk.val)] = true) :
    exec (.scal d vd sk) s = .next (scalGo d vd sk s) := congrArg Host.Outcome.next (onUe_next _ word is)

end

/-! The two outcomes of LDS from the engine's own die. -/

section
variable {vd : Nat} {r : URun} {u : UProg} {q : UStream} {rg : Region} {live : List Nat} {n gen : Nat}

/-- A poisoned sector stops the run (R271). -/
theorem ldsTakes_poisoned {i : Img} {r' : URun} (hi : s.image = some i) (hr : (dieSt s d).ue.run = some r') {l : Nat} (hl : l ∈ live)
    (bad : elemPoisoned s rg q.fmt gen (laneElem r u q l) = true) :
    (dieSt (ldsTakes d vd r u q rg live n gen s) d).ue.run = none ∧ (ldsTakes d vd r u q rg live n gen s).asq.voided = true ∧
      bitOf (reg (ldsTakes d vd r u q rg live n gen s) (.upe d) 0x010) 0 = true := by
  obtain ⟨idle, bit, -⟩ := engineStopped_spec (d := d) 3 0 (n := 0) (by omega) hi hr
  rw [ldsTakes, if_pos (List.any_eq_true.mpr ⟨l, hl, bad⟩)]
  exact ⟨idle, rfl, bit⟩

/-- Clean elements within range come to the register. -/
theorem ldsTakes_clean (clean : ∀ l ∈ live, elemPoisoned s rg q.fmt gen (laneElem r u q l) = false ∧
    (regionElemS s rg q.fmt gen (laneElem r u q l)).2 = false) :
    ldsTakes d vd r u q rg live n gen s = putUeVu d ((ueVu (dieSt s d).ue).put vd fun l =>
      if 256 * r.iter + l < n then regionElem s rg q.fmt gen (laneElem r u q l) else 0) s := by
  have unpoisoned : (live.any fun l => elemPoisoned s rg q.fmt gen (laneElem r u q l)) = false :=
    List.any_eq_false.mpr fun l hl => by simp [(clean l hl).1]
  have inRange : (live.any fun l => (regionElemS s rg q.fmt gen (laneElem r u q l)).2) = false :=
    List.any_eq_false.mpr fun l hl => by simp [(clean l hl).2]
  simp only [ldsTakes, unpoisoned, inRange, Bool.false_eq_true, if_false]

end

section
variable {r : URun} {p : UProg} {w : Nat} (vd : Fin 16) {t : Fin 8} {q : UStream} (word : ueWord s d = some (r, p, w))
  (is : vIs w 0x20 [fVd vd, (2, 0, t.val)] = true) (hq : p.streams[t.val]? = some q)

include word is hq

theorem exec_lds_sums (hr : q.region = none) : exec (.lds d vd ⟨t, []⟩) s =
    .next (putUeVu d ((ueVu (dieSt s d).ue).put vd fun l => if 256 * r.iter + l < groupElems s (r.groups.headD 0) then
      sumElem s (4096 * r.groups.headD 0 + (256 * r.iter + l) / 32) ((256 * r.iter + l) % 32) else 0) s) :=
  (exec_lds word [] is).trans (congrArg Host.Outcome.next (ldsGo_sums vd hq [] hr))

variable {ri : Nat} {i : Img} {rg : Region} (hr : q.region = some ri) (hi : s.image = some i) (hg : regionOf i ri = some rg)

include hr hi hg

theorem exec_lds_far (ho : rg.owner ≠ d) : exec (.lds d vd ⟨t, []⟩) s =
    .next (putUeVu d ((ueVu (dieSt s d).ue).put vd (farLanes s)) { s with fc := s.fc + 256 }) :=
  (exec_lds word [] is).trans (congrArg Host.Outcome.next (ldsGo_far vd hq hr hi hg [] ho))

variable (ho : rg.owner = d) (hf : s.flaws = [])

include ho hf

theorem exec_lds_clean (clean : ∀ l ∈ liveLanes s r,
      elemPoisoned s rg q.fmt (stepNo s + q.nextGen.toNat) (laneElem r p q l) = false ∧
      (regionElemS s rg q.fmt (stepNo s + q.nextGen.toNat) (laneElem r p q l)).2 = false) :
    ∃ x rs, exec (.lds d vd ⟨t, []⟩) s = .next x ∧ VuFrame (.ue d) { s with regs := rs } x ∧ VuWrites (.ue d) vd (fun l =>
      if 256 * r.iter + l < groupElems s (r.groups.headD 0) then
        regionElem s rg q.fmt (stepNo s + q.nextGen.toNat) (laneElem r p q l) else 0) s x := by
  obtain ⟨rs, own⟩ := ldsGo_own vd hq hr hi hg ho hf
  have taken := own.trans (ldsTakes_clean (s := { s with regs := rs }) clean)
  exact ⟨_, rs, (exec_lds word [] is).trans (congrArg Host.Outcome.next taken), vuFrame_putUeVu _, vuWrites_putUeVu vd.val _ _⟩

theorem exec_lds_poisoned {l : Nat} (hl : l ∈ liveLanes s r)
    (bad : elemPoisoned s rg q.fmt (stepNo s + q.nextGen.toNat) (laneElem r p q l) = true) :
    ∃ x, exec (.lds d vd ⟨t, []⟩) s = .next x ∧ (dieSt x d).ue.run = none ∧ x.asq.voided = true ∧
      bitOf (reg x (.upe d) 0x010) 0 = true := by
  obtain ⟨rs, own⟩ := ldsGo_own vd hq hr hi hg ho hf
  exact ⟨_, (exec_lds word [] is).trans (congrArg Host.Outcome.next own),
    ldsTakes_poisoned (s := { s with regs := rs }) hi (ueWord_run word) hl bad⟩

end

/-! STS (09 R283, R292, 10 R306). -/

section
variable {va t : Nat} {r : URun} {u : UProg} {q : UStream} {ri : Nat} {i : Img} {rg : Region} (hq : u.streams[t]? = some q)
  (hr : q.region = some ri) (hi : s.image = some i) (hg : regionOf i ri = some rg)

include hq hr hi hg

theorem stsGo_far (ho : rg.owner ≠ d) : stsGo d va t r u s = ueStepPc d s := by
  simp only [stsGo, hq, hr, hi, Option.bind_some, hg, ne_eq, ho, not_false_eq_true, if_true]

/-- May a SUM_READY program not write a lane, since its block's channel has stopped (10 R306)? -/
def laneShut (s : State) (r : URun) (u : UProg) (l : Nat) : Bool :=
  u.trig = 0 && blockStopped s (4096 * r.groups.headD 0 + (256 * r.iter + l) / 32)

/-- The codes of the lanes inside the group. -/
def laneCodes (s : State) (d : Die) (va : Nat) (r : URun) (q : UStream) : List (Nat × Bool) :=
  (liveLanes s r).map fun l => codeW q.fmt .rne one32 (ueReg s d va l)

/-- STS to the engine's own die, where no code saturates. -/
theorem stsGo_own (ho : rg.owner = d) (exact_ : ∀ c ∈ laneCodes s d va r q, c.2 = false) : stsGo d va t r u s =
    ueStepPc d (if 8 ≤ fmtBits q.fmt && !(liveLanes s r).any (laneShut s r u) then
      regionWrite rg (stepNo s + q.nextGen.toNat) (laneElem r u q 0 * fmtBits q.fmt / 8)
        ((laneCodes s d va r q).flatMap fun c => natLE (fmtBits q.fmt / 8) c.1) s
    else ((laneCodes s d va r q).zipIdx.filter fun c => !laneShut s r u c.2).foldl
      (fun s' c => putRegionCode rg q.fmt (stepNo s + q.nextGen.toNat) (laneElem r u q 0 + c.2) c.1.1 s') s) := by
  have unsaturated : (laneCodes s d va r q).any (·.2) = false := List.any_eq_false.mpr fun c hc => by simp [exact_ c hc]
  unfold laneCodes liveLanes at unsaturated
  simp only [stsGo, hq, hr, hi, Option.bind_some, hg, ne_eq, ho, not_true_eq_false, if_false, unsaturated, Bool.false_eq_true]
  rfl

/-- Every lane's channel has stopped: nothing is written. -/
theorem stsGo_shut (ho : rg.owner = d) (exact_ : ∀ c ∈ laneCodes s d va r q, c.2 = false) (some_ : liveLanes s r ≠ [])
    (shut : ∀ l ∈ liveLanes s r, laneShut s r u l = true) : stsGo d va t r u s = ueStepPc d s := by
  have closed : (liveLanes s r).any (laneShut s r u) = true := by
    obtain ⟨l, hl⟩ := List.exists_mem_of_ne_nil _ some_
    exact List.any_eq_true.mpr ⟨l, hl, shut l hl⟩
  have none_ : ((laneCodes s d va r q).zipIdx.filter fun c => !laneShut s r u c.2) = [] := by
    refine List.filter_eq_nil_iff.mpr fun c hc => ?_
    have inside : c.2 < (liveLanes s r).length := by
      have := List.snd_lt_of_mem_zipIdx hc
      rwa [laneCodes, List.length_map] at this
    rw [liveLanes_range] at inside shut
    simp [shut c.2 (by simpa using inside)]
  rw [stsGo_own hq hr hi hg ho exact_, closed, none_]
  simp

/-- No lane's channel has stopped: the codes of whole bytes are written in their order. -/
theorem stsGo_writes (ho : rg.owner = d) (exact_ : ∀ c ∈ laneCodes s d va r q, c.2 = false) (bytes : 8 ≤ fmtBits q.fmt)
    (opened : ∀ l ∈ liveLanes s r, laneShut s r u l = false) : stsGo d va t r u s =
    ueStepPc d (regionWrite rg (stepNo s + q.nextGen.toNat) (laneElem r u q 0 * fmtBits q.fmt / 8)
      ((liveLanes s r).flatMap fun l => natLE (fmtBits q.fmt / 8) (codeW q.fmt .rne one32 (ueReg s d va l)).1) s) := by
  have unshut : (liveLanes s r).any (laneShut s r u) = false := List.any_eq_false.mpr fun l hl => by simp [opened l hl]
  rw [stsGo_own hq hr hi hg ho exact_, unshut, if_pos (by simp [bytes]), laneCodes, List.flatMap_map]

end

/-! QOUT (09 R285). -/

theorem ledgerOnly_regionWrite (rg : Region) (gen off : Nat) (bs : List Byte) (s : State) : LedgerOnly s (regionWrite rg gen off bs s) := by
  have runs : ∀ (l : List (List Byte × Nat)) (f : List Byte × Nat → State → Nat) (s : State),
      LedgerOnly s (l.foldl (fun s c => hbmWrite (f c s) c.1 s) s) := by
    intro l f
    induction l with
    | nil => exact ledgerOnly_refl
    | cons c l ih => exact fun s => ledgerOnly_trans (ledgerOnly_hbmWrite _ _ s) (ih _)
  exact ledgerOnly_trans (ledgerOnly_hbmWrite _ _ s)
    (runs _ (fun c s => regionAddr (placeNow s) rg gen (off + min bs.length (4096 - off % 4096) + 4096 * c.2)) _)

theorem ledgerOnly_stepNo {a t : State} (h : LedgerOnly a t) : stepNo t = stepNo a := stepIs_ledger (n := stepNo a) rfl h

/-- The reductions completed here hang on the plan and the member number alone. -/
theorem ledgerOnly_redAt {a t : State} (h : LedgerOnly a t) (b : Nat) : redAt t b = redAt a b := by
  obtain ⟨_, _, _, _, _, _, _, _, _, _, _, _, rfl, -⟩ := h
  rfl

/-- Blocks that no reduction covers leave one by one. -/
theorem quantRuns_uncovered {l : List QBlk} (h : ∀ x ∈ l, redAt s x.b = none) : quantRuns s l = l.map ([·]) := by
  induction l with
  | nil => rfl
  | cons x l ih =>
    rw [quantRuns, ih fun y hy => h y (List.mem_cons_of_mem _ hy)]
    cases l with
    | nil => rfl
    | cons y l => simp [h x List.mem_cons_self]

section
variable {rg : Region} {q : UStream} (hb : blockFmt rg q.fmt = false) (hc : rg.chlen = 0)

include hb hc

/-- Without blocks of their own exponent and without channel scales the codes are the values' own. -/
theorem quantBlock_plain (amax amax' : W32) (vs wide wide' : List W32) :
    (quantBlock rg q.fmt amax vs wide).1 = (quantBlock rg q.fmt amax' vs wide').1 ∧ (quantBlock rg q.fmt amax vs wide).2.1 = [] := by
  simp [quantBlock, hb, hc]

/-- Such a block, of finite values and under no reduction, is written to the region. -/
theorem quantSend_plain (ha : rg.arr = false) (amax : Nat → W32) {x : QBlk} (free : redAt s x.b = none)
    (fin : ∀ v ∈ x.vals, isFin (dec32 v) = true) : quantSend rg q amax [x] s =
    regionWrite rg (stepNo s + q.nextGen.toNat) (x.el * fmtBits rg.fmt / 8) (quantBlock rg q.fmt (amax x.chan) x.vals x.wide).1 s := by
  have finite : (x.vals.any fun v => !isFin (dec32 v)) = false := List.any_eq_false.mpr fun v hv => by simp [fin v hv]
  have scales := (quantBlock_plain hb hc (amax x.chan) (amax x.chan) x.vals x.wide x.wide).2
  unfold quantSend
  simp only [List.map_cons, List.map_nil, List.filter_cons, finite, List.filter_nil, forAll, List.foldl_nil, List.foldl_cons, free,
    Bool.false_eq_true, if_false]
  cases s.rdc.plan <;> simp [writeCodes, hc, scales, arrCount, ha]

/-- A list of such blocks. -/
theorem quantSend_all (ha : rg.arr = false) (amax : Nat → W32) {l : List QBlk} {a : State} (h : LedgerOnly s a)
    (free : ∀ x ∈ l, redAt s x.b = none) (fin : ∀ x ∈ l, ∀ v ∈ x.vals, isFin (dec32 v) = true) :
    forAll (l.map ([·])) (quantSend rg q amax) a = l.foldl (fun a x => regionWrite rg (stepNo s + q.nextGen.toNat)
      (x.el * fmtBits rg.fmt / 8) (quantBlock rg q.fmt (amax x.chan) x.vals x.wide).1 a) a := by
  unfold forAll
  induction l generalizing a with
  | nil => rfl
  | cons x l ih =>
    have sent := quantSend_plain hb hc ha amax (s := a) ((ledgerOnly_redAt h x.b).trans (free x List.mem_cons_self))
      (fin x List.mem_cons_self)
    rw [List.map_cons, List.foldl_cons, List.foldl_cons, sent, ledgerOnly_stepNo h]
    exact ih (ledgerOnly_trans h (ledgerOnly_regionWrite ..)) (fun y hy => free y (List.mem_cons_of_mem _ hy))
      fun y hy => fin y (List.mem_cons_of_mem _ hy)

end

section
variable {va t : Nat} {r : URun} {u : UProg} {q : UStream} {ri : Nat} {i : Img} {rg : Region} (hq : u.streams[t]? = some q)
  (hr : q.region = some ri) (hi : s.image = some i) (hg : regionOf i ri = some rg)

/-- The blocks of an iteration that begin inside the group. -/
def liveBlocks (s : State) (r : URun) : List Nat :=
  (List.range 8).filter fun k => 256 * r.iter + 32 * k < groupElems s (r.groups.headD 0)

/-- The values of block `k`. -/
def blockVals (s : State) (d : Die) (va k : Nat) : List W32 := (List.range 32).map fun j => ueReg s d va (32 * k + j)

/-- Block `k` of an iteration, as QOUT sends it. -/
def iterBlock (s : State) (d : Die) (va : Nat) (r : URun) (u : UProg) (q : UStream) (rg : Region) (k : Nat) : QBlk :=
  let z := max 32 (blockSz rg)
  let x := streamIdx u q (r.groups.headD 0) (256 * r.iter + 32 * k)
  { b := 4096 * r.groups.headD 0 + (256 * r.iter + 32 * k) / 32
    el := q.elem0 + x
    chan := if u.chlen = 0 then 0 else x / u.chlen
    vals := blockVals s d va k
    wide := (List.range (min z (groupElems s (r.groups.headD 0) - 256 * r.iter - 32 * k / z * z))).map fun j =>
      ueReg s d va (32 * k / z * z + j) }

include hq hr hi hg

theorem qoutGo_eq : qoutGo d va t r u s = ueStepPc d (forAll (quantRuns s ((liveBlocks s r).map (iterBlock s d va r u q rg)))
    (quantSend rg q (mget 0 (dieSt s d).ue.chmax)) s) := by
  simp only [qoutGo, hq, hr, hi, Option.bind_some, hg]
  rfl

theorem qoutGo_plain (hc : rg.chlen = 0) (hb : blockFmt rg q.fmt = false) (ha : rg.arr = false)
    (h : ∀ k ∈ liveBlocks s r, redAt s (4096 * r.groups.headD 0 + 8 * r.iter + k) = none ∧
      ∀ v ∈ blockVals s d va k, isFin (dec32 v) = true) :
    qoutGo d va t r u s = ueStepPc d ((liveBlocks s r).foldl (fun x k => regionWrite rg (stepNo s + q.nextGen.toNat)
      ((q.elem0 + streamIdx u q (r.groups.headD 0) (256 * r.iter + 32 * k)) * fmtBits rg.fmt / 8)
      (quantBlock rg q.fmt (mget 0 (dieSt s d).ue.chmax 0) (blockVals s d va k) []).1 x) s) := by
  have free : ∀ x ∈ (liveBlocks s r).map (iterBlock s d va r u q rg), redAt s x.b = none := by
    intro x hx
    obtain ⟨k, hk, rfl⟩ := List.mem_map.mp hx
    have at_ : (iterBlock s d va r u q rg k).b = 4096 * r.groups.headD 0 + 8 * r.iter + k := by
      show 4096 * r.groups.headD 0 + (256 * r.iter + 32 * k) / 32 = _
      omega
    rw [at_]
    exact (h k hk).1
  have fin : ∀ x ∈ (liveBlocks s r).map (iterBlock s d va r u q rg), ∀ v ∈ x.vals, isFin (dec32 v) = true := by
    intro x hx
    obtain ⟨k, hk, rfl⟩ := List.mem_map.mp hx
    exact (h k hk).2
  rw [qoutGo_eq hq hr hi hg, quantRuns_uncovered free, quantSend_all hb hc ha _ (ledgerOnly_refl s) free fin, List.foldl_map]
  simp only [(quantBlock_plain hb hc _ (mget 0 (dieSt s d).ue.chmax 0) _ _ []).1]
  rfl

end

/-! AMAX (09 Table 9.8). -/

section
variable {va : Nat}

/-- A lane's magnitude joins the maximum of channel 0, if it is finite. -/
def laneJoin (s : State) (d : Die) (va : Nat) (m : SMap W32) (l : Nat) : SMap W32 :=
  if isFin (dec32 (ueReg s d va l)) && (mget 0 m 0).toNat < (abs32 (ueReg s d va l)).toNat then mput 0 0 (abs32 (ueReg s d va l)) m else m

theorem laneJoin_finite {l : Nat} (h : isFin (dec32 (ueReg s d va l)) = true) (m : SMap W32) :
    laneJoin s d va m l = chanJoin m (0, abs32 (ueReg s d va l)) := by
  simp [laneJoin, chanJoin, h]

theorem laneJoin_other {l : Nat} (h : isFin (dec32 (ueReg s d va l)) = false) (m : SMap W32) : laneJoin s d va m l = m := by
  simp [laneJoin, h]

theorem laneJoin_mono (m : SMap W32) (l : Nat) : (mget 0 m 0).toNat ≤ (mget 0 (laneJoin s d va m l) 0).toNat := by
  cases h : isFin (dec32 (ueReg s d va l)) with
  | true => rw [laneJoin_finite h]; exact chanJoin_mono m _ 0
  | false => rw [laneJoin_other h]

theorem laneJoin_is (m : SMap W32) (l : Nat) : laneJoin s d va m l = m ∨
    isFin (dec32 (ueReg s d va l)) = true ∧ laneJoin s d va m l = mput 0 0 (abs32 (ueReg s d va l)) m := by
  unfold laneJoin
  split
  next h => exact .inr ⟨(Bool.and_eq_true_iff.mp h).1, rfl⟩
  · exact .inl rfl

/-- After all lanes: the maximum is the old one or a lane's, and no other channel changed. -/
theorem laneJoin_all (l : List Nat) (m : SMap W32) :
    (mget 0 (l.foldl (laneJoin s d va) m) 0 = mget 0 m 0 ∨ ∃ k ∈ l, isFin (dec32 (ueReg s d va k)) = true ∧
      mget 0 (l.foldl (laneJoin s d va) m) 0 = abs32 (ueReg s d va k)) ∧
    ∀ c, c ≠ 0 → mget 0 (l.foldl (laneJoin s d va) m) c = mget 0 m c := by
  induction l generalizing m with
  | nil => exact ⟨.inl rfl, fun _ _ => rfl⟩
  | cons x l ih =>
    obtain ⟨is, others⟩ := ih (laneJoin s d va m x)
    rw [List.foldl_cons]
    rcases laneJoin_is (s := s) (d := d) (va := va) m x with same | ⟨fin, put⟩
    · rw [same] at is others ⊢
      exact ⟨is.imp_right fun ⟨k, hk, h⟩ => ⟨k, List.mem_cons_of_mem _ hk, h⟩, others⟩
    · rw [put] at is others ⊢
      refine ⟨.inr ?_, fun c hc => (others c hc).trans (mget_mput_ne _ hc)⟩
      rcases is with first | ⟨k, hk, h⟩
      · exact ⟨x, List.mem_cons_self, fin, first.trans (mget_mput_same ..)⟩
      · exact ⟨k, List.mem_cons_of_mem _ hk, h⟩

theorem laneJoin_covers {l : List Nat} {k : Nat} (hk : k ∈ l) (fin : isFin (dec32 (ueReg s d va k)) = true) (m : SMap W32) :
    (abs32 (ueReg s d va k)).toNat ≤ (mget 0 (l.foldl (laneJoin s d va) m) 0).toNat :=
  (foldl_rises (v := fun m => (mget 0 m 0).toNat) laneJoin_mono l m).2 k hk _ fun b => by
    rw [laneJoin_finite fin]
    exact chanJoin_covers b (0, _)

theorem amaxGo_plain {r : URun} {u : UProg} (hu : u.chlen = 0) : amaxGo d va r u s = ueStepPc d (setDie d { dieSt s d with
    ue := { (dieSt s d).ue with chmax := (liveLanes s r).foldl (laneJoin s d va) (dieSt s d).ue.chmax } } s) := by
  simp only [amaxGo, hu, if_true]
  rfl

/-- The new maximum covers every finite lane and the old one, and is one of them. -/
theorem laneJoin_liveLanes {r : URun} {m m' : SMap W32} (h : m' = (liveLanes s r).foldl (laneJoin s d va) m) :
    let live (l : Nat) : Prop := l < 256 ∧ 256 * r.iter + l < groupElems s (r.groups.headD 0) ∧ isFin (dec32 (ueReg s d va l)) = true
    (∀ l, live l → (abs32 (ueReg s d va l)).toNat ≤ (mget 0 m' 0).toNat) ∧ (mget 0 m 0).toNat ≤ (mget 0 m' 0).toNat ∧
      (mget 0 m' 0 = mget 0 m 0 ∨ ∃ l, live l ∧ mget 0 m' 0 = abs32 (ueReg s d va l)) ∧ ∀ c, c ≠ 0 → mget 0 m' c = mget 0 m c := by
  subst h
  obtain ⟨is, others⟩ := laneJoin_all (s := s) (d := d) (va := va) (liveLanes s r) m
  refine ⟨fun l ⟨hl, inside, fin⟩ => laneJoin_covers (mem_liveLanes.mpr ⟨hl, inside⟩) fin m,
    (foldl_rises (v := fun m => (mget 0 m 0).toNat) laneJoin_mono _ m).1, is.imp_right fun ⟨l, hl, fin, new⟩ => ?_, others⟩
  obtain ⟨hl, inside⟩ := mem_liveLanes.mp hl
  exact ⟨l, ⟨hl, inside, fin⟩, new⟩

end

/-! XACC and XRD (02 R65, R66). -/

/-- Lane `k` with 256 exact products added. -/
def xaccSum (s : State) (d : Die) (k va vb : Nat) : XaLane :=
  (List.range 256).foldl (fun a l => xaAdd a (mulV (dec32 (ueReg s d va l)) (dec32 (ueReg s d vb l)))) (mget XaLane.blank (dieSt s d).ue.acc k)

theorem xaccGo_eq (k va vb : Nat) : xaccGo d k va vb s = ueStepPc d (setDie d { dieSt s d with
    ue := { (dieSt s d).ue with acc := mput XaLane.blank k (xaccSum s d k va vb) (dieSt s d).ue.acc } } s) := rfl

/-- The accumulator after lane `k` was read. -/
def readAcc (m : SMap XaLane) (k : Nat) : SMap XaLane :=
  if (xaRound (mget XaLane.blank m k)).2 then mput XaLane.blank k { mget XaLane.blank m k with sat := true } m else m

theorem mget_readAcc (m : SMap XaLane) (k : Nat) : mget XaLane.blank (readAcc m k) k =
    { mget XaLane.blank m k with sat := (mget XaLane.blank m k).sat || (xaRound (mget XaLane.blank m k)).2 } := by
  unfold readAcc
  cases (xaRound (mget XaLane.blank m k)).2 <;> simp

theorem mget_readAcc_ne (m : SMap XaLane) {j k : Nat} (h : j ≠ k) : mget XaLane.blank (readAcc m k) j = mget XaLane.blank m j := by
  unfold readAcc
  split
  · exact mget_mput_ne _ h
  · rfl

theorem xrdGo_eq (sk k : Nat) : xrdGo d sk k s = ueStepPc d (setDie d { dieSt s d with
    ue := { (dieSt s d).ue with s := mput 0 sk (xaRound (mget XaLane.blank (dieSt s d).ue.acc k)).1 (dieSt s d).ue.s,
                                acc := readAcc (dieSt s d).ue.acc k } } s) := rfl

end

end Sys2Proof.Machine
end

section
namespace Sys2Proof
open Machine

/-- Settles O35, instruction by instruction: LDS by `exec_lds_sums`, `exec_lds_clean`, `exec_lds_poisoned` and `exec_lds_far`, STS by
`stsGo_far`, `stsGo_shut` and `stsGo_writes`, QOUT by `qoutGo_plain`, AMAX by `laneJoin_liveLanes`; XACC, XRD and SCAL write their one map. -/
theorem updateEngineInstructions : Obligations.UpdateEngineInstructions := by
  unfold Obligations.UpdateEngineInstructions
  refine ⟨?_, ?_, ?_, ?_, ?_, ?_, ?_, ?_, ?_⟩
  · exact fun d r p w s vd t q word is hq hr => ⟨_, exec_lds_sums vd word is hq hr, vuFrame_putUeVu _, vuWrites_putUeVu vd.val _ s⟩
  · intro d r p w s vd t q ri i rg word is hq hr hi hg ho hf
    exact ⟨fun clean => exec_lds_clean vd word is hq hr hi hg ho hf fun l hl => clean l (mem_liveLanes.mp hl).1 (mem_liveLanes.mp hl).2,
      fun ⟨l, hl, inside, bad⟩ => exec_lds_poisoned vd word is hq hr hi hg ho hf (mem_liveLanes.mpr ⟨hl, inside⟩) bad⟩
  · exact fun d r p w s vd t q ri i rg word is hq hr hi hg ho =>
      ⟨_, farLanes s, s.fc + 256, exec_lds_far vd word is hq hr hi hg ho, vuFrame_putUeVu _, vuWrites_putUeVu vd.val _ _⟩
  · intro d r p w s va t q ri i rg word is hq hr hi hg
    rw [exec_sts word is]
    refine ⟨fun ho => by rw [stsGo_far hq hr hi hg ho], fun ho bytes exact_ => ?_⟩
    have codes : ∀ c ∈ laneCodes s d va r q, c.2 = false := List.forall_mem_map.mpr exact_
    exact ⟨fun some_ shut => congrArg Host.Outcome.next (stsGo_shut hq hr hi hg ho codes some_ shut),
      fun opened => congrArg Host.Outcome.next (stsGo_writes hq hr hi hg ho codes bytes opened)⟩
  · intro d r p w s va t q ri i rg word is hq hr hi hg _ hc hb _ _ _ ha h
    exact (exec_qout word is).trans (congrArg Host.Outcome.next (qoutGo_plain hq hr hi hg hc hb ha h))
  · intro d r p w s va word is hu
    exact ⟨(liveLanes s r).foldl (laneJoin s d va) (dieSt s d).ue.chmax, (exec_amax word is).trans (congrArg Host.Outcome.next (amaxGo_plain hu)),
      laneJoin_liveLanes rfl⟩
  · intro d r p w s k va vb word is
    exact ⟨mput XaLane.blank k (xaccSum s d k va vb) (dieSt s d).ue.acc, (exec_xacc word is).trans (congrArg Host.Outcome.next (xaccGo_eq k va vb)),
      mget_mput_same k.val (xaccSum s d k va vb), fun j => mget_mput_ne _⟩
  · intro d r p w s sk k word is
    exact ⟨mput 0 sk (xaRound (mget XaLane.blank (dieSt s d).ue.acc k)).1 (dieSt s d).ue.s, readAcc (dieSt s d).ue.acc k,
      (exec_xrd word is).trans (congrArg Host.Outcome.next (xrdGo_eq sk k)), mget_mput_same sk.val _, fun j => mget_mput_ne _,
      mget_readAcc _ _, fun j => mget_readAcc_ne _⟩
  · intro d r p w s vd sk word is
    exact ⟨_, exec_scal word is, vuFrame_putUeVu _, vuWrites_putUeVu vd.val _ s⟩

end Sys2Proof
end

section
namespace Sys2Proof.Machine

/-! The sum area of an adder (10 R295 to R297, R309): what a block adds to its entry does not depend on what came before, and the
residue of an entry follows its lanes. -/

theorem addLanes_eq (a b : List Int) : addLanes a b = List.zipWith (· + ·) a b := List.map_zip_eq_zipWith

theorem length_addLanes (a b : List Int) : (addLanes a b).length = min a.length b.length := by
  rw [addLanes_eq, List.length_zipWith]

theorem addLanes_comm (a b : List Int) : addLanes a b = addLanes b a := by
  rw [addLanes_eq, addLanes_eq, List.zipWith_comm_of_comm Int.add_comm]

theorem addLanes_right_comm (a b c : List Int) : addLanes (addLanes a b) c = addLanes (addLanes a c) b := by
  simp only [addLanes_eq]
  refine List.ext_getElem (by simp only [List.length_zipWith]; omega) fun j _ _ => ?_
  simp only [List.getElem_zipWith]
  exact Int.add_right_comm ..

theorem getD_addLanes {a b : List Int} {n j : Nat} (ha : a.length = n) (hb : b.length = n) (hj : j < n) :
    (addLanes a b).getD j 0 = a.getD j 0 + b.getD j 0 := by
  have h : j < (addLanes a b).length := by rw [length_addLanes]; omega
  rw [List.getD_eq_getElem _ _ h, List.getD_eq_getElem _ _ (ha ▸ hj), List.getD_eq_getElem _ _ (hb ▸ hj)]
  simp only [addLanes_eq, List.getElem_zipWith]

/-! Residues (R296). -/

theorem residue_eq (l : List Int) : residue l = (l.sum % 255).toNat := by rw [residue, List.sum_eq_foldl]

theorem sum_addLanes {a b : List Int} (h : a.length = b.length) : (addLanes a b).sum = a.sum + b.sum := by
  rw [addLanes_eq, List.sum_add_sum_eq_sum_zipWith_of_length_eq a b h]

/-- The residue of a sum is the sum of the residues. -/
theorem residue_addLanes {a b : List Int} (h : a.length = b.length) : residue (addLanes a b) = (residue a + residue b) % 255 := by
  rw [residue_eq, residue_eq, residue_eq, sum_addLanes h]
  omega

/-! Entries. -/

/-- Two blocks of one exponent can come in either order. -/
theorem addEntry_right_comm (part : Bool) (e : Option SumEnt) {g h : GBlock} (hx : g.x = h.x) :
    addEntry part (some (addEntry part e g)) h = addEntry part (some (addEntry part e h)) g := by
  cases e with
  | none => simp only [addEntry, addLanes_comm g.lanes, hx, Nat.add_comm g.r, Nat.max_comm (blockMax part g)]
  | some e =>
    have hr : ((e.r + g.r) % 255 + h.r) % 255 = ((e.r + h.r) % 255 + g.r) % 255 := by omega
    simp only [addEntry, addLanes_right_comm e.lanes g.lanes, hr, Nat.max_right_comm e.p (blockMax part g)]

/-- An entry holds 32 lanes that are `v`, and their residue. -/
structure EntryIs (e : SumEnt) (v : Nat → Int) : Prop where
  length : e.lanes.length = 32
  residue : e.r = residue e.lanes
  lanes : ∀ j, j < 32 → e.lanes.getD j 0 = v j

/-- The first block of a home block makes its entry. -/
theorem entryIs_first (part : Bool) {g : GBlock} (hl : g.lanes.length = 32) (hr : g.r = residue g.lanes) :
    EntryIs (addEntry part none g) fun j => g.lanes.getD j 0 := ⟨hl, hr, fun _ _ => rfl⟩

/-- A further block adds its lanes. -/
theorem entryIs_addEntry (part : Bool) {e : SumEnt} {v : Nat → Int} {g : GBlock} (h : EntryIs e v) (hl : g.lanes.length = 32)
    (hr : g.r = residue g.lanes) : EntryIs (addEntry part (some e) g) fun j => v j + g.lanes.getD j 0 where
  length := by simp only [addEntry, length_addLanes, h.length, hl, Nat.min_self]
  residue := by simp only [addEntry, residue_addLanes (h.length.trans hl.symm), h.residue, hr]
  lanes j hj := by simp only [addEntry, getD_addLanes h.length hl hj, h.lanes j hj]

/-- What an entry holds after the blocks of a list have come, by induction on the list. -/
theorem entryIs_foldl_addEntry (part : Bool) (l : List GBlock) {e y : SumEnt} {v : Nat → Int} (h : EntryIs e v)
    (hl : ∀ g ∈ l, g.lanes.length = 32 ∧ g.r = residue g.lanes)
    (hy : l.foldl (fun a g => some (addEntry part a g)) (some e) = some y) :
    EntryIs y fun j => v j + (l.map fun g => g.lanes.getD j 0).sum := by
  induction l generalizing e v with
  | nil =>
    cases hy
    simpa using h
  | cons g l ih =>
    obtain ⟨⟨length, residue⟩, rest⟩ := List.forall_mem_cons.mp hl
    have := ih (entryIs_addEntry part h length residue) rest hy
    simpa only [List.map_cons, List.sum_cons, Int.add_assoc] using this

end Sys2Proof.Machine
end

section
namespace Sys2Proof
open Machine

/-- Settles O43: the order of arrival by `addEntry_right_comm`, for any two blocks of the list; the lanes and the residue by
`entryIs_foldl_addEntry`, from the entry that the first block makes. -/
theorem sumsDoNotDependOnOrder : Obligations.SumsDoNotDependOnOrder := by
  unfold Obligations.SumsDoNotDependOnOrder
  constructor
  · intro part e l l' perm blocks
    refine perm.foldl_eq' (fun g hg h hh a => congrArg some (addEntry_right_comm part a ?_)) none
    exact (blocks g hg).2.1.trans (blocks h hh).2.1.symm
  · intro part l y blocks hy
    cases l with
    | nil => cases hy
    | cons g l =>
      obtain ⟨⟨length, residue⟩, rest⟩ := List.forall_mem_cons.mp blocks
      have := entryIs_foldl_addEntry part l (entryIs_first part length residue) rest hy
      exact ⟨this.length, this.residue, fun j hj => by rw [this.lanes j hj, List.map_cons, List.sum_cons]⟩

end Sys2Proof
end

section
namespace Sys2Proof
open Machine

/-! Three states in which a clause on reductions fails. Each has a plan of one channel and one reduction. -/

/-- One channel with that home and those shares, with one reduction of one block. -/
def oneRednPlan (home : Nat) (shares : List Share) : Plan := { (default : Plan) with
  chans := [{ (default : Chan) with
    home := home
    nsh := shares.length
    nred := 1
    openN := 1 }]
  shares := shares
  reds := [{ (default : Redn) with nblk := 1 }] }

def oneChan (p : Plan) : Chan := p.chans.headD default
def oneRedn (p : Plan) : Redn := p.reds.headD default

/-! A block that comes when its reduction is complete (10 R297). -/

/-- Members 1 and 2 send the home, member 0, a share each. -/
def homePlan : Plan := oneRednPlan 0 [⟨0, 1, 0xFFFF, 0xFFFF, 0, 0xFFFF⟩, ⟨1, 2, 0xFFFF, 0xFFFF, 0, 0xFFFF⟩]
def homeChan : Chan := oneChan homePlan
def firstShare : Share := homePlan.shares.headD default

/-- The home's reduction is complete. -/
def completed : State := { State.reset with
  run := .run
  image := some default
  rdc := { Rdc.reset with
    plan := some homePlan
    reds := [(0, { RedSt.blank with adds := [(0, { AddSt.blank with
      tE := some 0
      complete := true })] })] } }

/-- A block of zero lanes with a residue of 1. -/
def badResidue : GBlock := ⟨List.replicate 32 0, 0, 1, 0⟩

def badFrame : RFrame := { (default : RFrame) with
  src := 1
  nblk := 1
  blocks := [badResidue] }

theorem runFrom_nil (x n b : Nat) : runFrom [] x n b = [] := by cases n <;> rfl

theorem chanWaits_completed : ChanWaits completed homePlan homeChan where
  plan := rfl
  own := by decide +kernel
  sent _ _ _ _ := runFrom_nil _ _ _
  added _ _ _ _ _ _ := runFrom_nil _ _ _
  noted := by decide +kernel
  holds := by decide +kernel
  passed := by decide +kernel
  open_ := by decide +kernel
  queued _ hf := nomatch hf

/-- The frame passes its checks. -/
theorem badFrame_checks :
    let f := { badFrame with typ := 1 }
    diesRun completed = true ∧ f.epoch = epochNow completed ∧ underWay completed homePlan f false = false ∧
      contribBad completed homePlan f false false = none ∧ roleFor completed homePlan homeChan f = some homeChan.home ∧
      inOpen completed homePlan homeChan homeChan.home f.rseq = true := by
  decide +kernel

/-- The second share is missing. -/
theorem completed_misses : ∃ y ∈ takesOf (sharesOf homePlan homeChan) homeChan.home, y.share ≠ firstShare.share ∧
    shareDone (addSt completed (redKey 0 0) homeChan.home) (oneRedn homePlan) y.share = false := by
  decide +kernel

/-- The block is counted and gone, and no re-send with it (log entry 196). -/
theorem badFrame_fails :
    let f := { badFrame with typ := 1 }
    let k := redKey f.chan f.rseq
    (addSt (contribIn f completed) k homeChan.home).fails = (addSt completed k homeChan.home).fails := by
  decide +kernel

/-- Refutes O42, in the clause on a block whose residue does not match: no premise says that the reduction is not complete, and a
block that fails its checks after that starts nothing over (`completed`: the premises let a reduction with a share missing be marked
complete). -/
theorem not_contributionsAreAdded : ¬ Obligations.ContributionsAreAdded := by
  unfold Obligations.ContributionsAreAdded
  intro h
  obtain ⟨run, epoch, fresh, good, role, opened⟩ := badFrame_checks
  obtain ⟨t, step, -, again, -⟩ :=
    (h .contrib8 1 List.mem_cons_self badFrame badResidue homePlan homeChan (oneRedn homePlan) firstShare completed run epoch
      chanWaits_completed rfl rfl fresh good rfl rfl List.mem_cons_self role opened rfl rfl rfl rfl rfl (by decide) List.not_mem_nil
      rfl rfl completed_misses).2 0 (.inl ⟨by decide, by decide, rfl⟩)
  have is : contribIn { badFrame with typ := 1 } completed = t := Host.Outcome.next.inj step
  rw [← is] at again
  exact again.ne' badFrame_fails

end Sys2Proof
end

section
namespace Sys2Proof
open Machine

/-! A stage frame that waits in the queue of the link to the home (11 R348, R362). -/

/-- An image of one tile with one stage transfer of 64 bytes, to member 1; its SFS is far sett 0 of die 0. -/
def stageImage : Img := { (default : Img) with
  reqU := 1
  reqV := 1
  stagesT := [{ (default : StageEnt) with
    dmemb := 1
    size := 64 }] }

/-- The last frame of that transfer. Member 1 is module 2. -/
def stageFrame : LFrame := { (default : LFrame) with
  ltype := 3
  dst := 2
  body := zeros 80 }

/-- A job runs with that image, and the frame waits at port 0, behind which module 2 is; far sett 0 of die 0 has that count and
relay. -/
def stageWaits (count relay : W32) (x : Rdc) : State := setReg (.fst 0) 0x044 relay (setReg (.fst 0) 0x040 count { State.reset with
  run := .run
  image := some stageImage
  stepBank := [(peerW0Key 0, 0x00020001), (peerW1Key 0, 0x80000000)]
  links := [(0, { LinkSt.blank with
    queue := [stageFrame]
    portUp := true
    nbrIv := 1 })]
  ledger := some (0, 2 ^ 20)
  rdc := x })

/-! RESEND. -/

/-- Member 0 sends the one share to the home, member 1. -/
def senderPlan : Plan := oneRednPlan 1 [⟨0, 0, 0xFFFF, 0xFFFF, 1, 0xFFFF⟩]
def senderChan : Chan := oneChan senderPlan

/-- A sender retains its block. Far sett 0 relays every signal to sett 0 of tile (0, 0). -/
def retaining : State := stageWaits 0x00010000 0xB0000000 { Rdc.reset with
  plan := some senderPlan
  kept := [(0, [{ (default : Kept) with b8 := ⟨List.replicate 32 0, 0, 0, 0⟩ }])] }

def resendFrame : RFrame := { (default : RFrame) with src := 1 }

theorem resendFrame_checks : diesRun retaining = true ∧ resendFrame.epoch = epochNow retaining ∧
    resendFrame.step = stepNo retaining % 2 ^ 32 ∧ sendsOn (sharesOf senderPlan senderChan) (selfM retaining) = true ∧
    selfM retaining ≠ senderChan.home := by
  decide +kernel

/-- With the block the stage frame leaves, and its SFS signals the tile. -/
theorem resendFrame_signals :
    (mget Sett.blank (tile (resendIn { resendFrame with typ := 0x11 } retaining) 0 0).setts 0).count = 1 := by
  decide +kernel

/-- Refutes O44, in the clause that a RESEND leaves the tiles unchanged: the frames that leave take with them what waits in the same
link's queue, and with the last frame of a stage transfer its SFS signals a tile (`retaining`). -/
theorem not_reductionControlFrames : ¬ Obligations.ReductionControlFrames := by
  unfold Obligations.ReductionControlFrames
  rintro ⟨control, -⟩
  obtain ⟨run, epoch, step, sends, other⟩ := resendFrame_checks
  obtain ⟨-, resend, -⟩ :=
    control resendFrame senderPlan senderChan (oneRedn senderPlan) retaining run epoch rfl rfl rfl rfl step rfl
  obtain ⟨t, sent, -, -, tiles, -⟩ := resend sends other (.inl rfl)
  have is : resendIn { resendFrame with typ := 0x11 } retaining = t := Host.Outcome.next.inj sent
  have signal := resendFrame_signals
  rw [is, tile, tiles] at signal
  exact Nat.zero_ne_one signal

/-! RESET. -/

/-- Member 0 is an interior member below the home, member 1: it adds a share of its own and one of member 2. -/
def interiorPlan : Plan := oneRednPlan 1 [⟨0, 0, 0xFFFF, 0xFFFF, 1, 0xFFFF⟩, ⟨1, 2, 0xFFFF, 0xFFFF, 0, 0xFFFF⟩]
def interiorChan : Chan := oneChan interiorPlan

/-- Both shares are omitted and the partial is not sent. The count of far sett 0 stands at its top. -/
def omitting : State := stageWaits 0x0000FFFF 0x80000000 { Rdc.reset with
  plan := some interiorPlan
  reds := [(0, { RedSt.blank with adds := [(0, { AddSt.blank with omitted := [0, 1] })] })] }

theorem omitting_own : ∀ rn ∈ redsOf interiorPlan interiorChan, redOf interiorPlan 0 rn.rseq = some rn := by decide +kernel

/-- No partial is sent before. -/
theorem omitting_unsent : ∀ rn ∈ redsOf interiorPlan interiorChan,
    ∀ role ∈ rolesOf interiorChan (sharesOf interiorPlan interiorChan) (selfM omitting), role ≠ interiorChan.home →
      let a := addSt omitting (redKey 0 rn.rseq) role
      a.complete = true → a.pnext = some (rn.blk0 + rn.nblk) := by
  decide +kernel

/-- With the partial the stage frame leaves; its SFS saturates, and the item of that contract fault goes to the ledger ring. -/
theorem reset_omitting_faults : (barWrite .host (resetChan 0) omitting).hbm ≠ [] := by decide +kernel

/-- Refutes O45, in the clause that a RESET leaves the parameter store unchanged: an interior member sends its partial again, with it
leaves what waits in the same link's queue, and a stage transfer that ends saturates its SFS, whose fault the run ledger in the store
records (`omitting`). -/
theorem not_reductionDeadlines : ¬ Obligations.ReductionDeadlines := by
  unfold Obligations.ReductionDeadlines
  rintro ⟨-, -, reset, -⟩
  have may : MayWrite .host omitting := ⟨by decide +kernel, nofun⟩
  obtain ⟨t, done, -, -, -, rest⟩ := reset .host 0 interiorPlan interiorChan omitting may rfl rfl omitting_own
  obtain ⟨-, store, -⟩ := rest (fun _ _ => rfl) omitting_unsent
  have is : barWrite .host (resetChan 0) omitting = t := Host.Outcome.next.inj done
  exact reset_omitting_faults (is ▸ store)

end Sys2Proof
end

section
namespace Sys2Proof.Machine

/-! A link and its port (11 R334 to R350): what one link's commands leave alone, and how a frame leaves on the port. -/

/-- From `a` to `t` only link `p` and the registers of its page change. -/
structure AtPort (p : Die) (a t : State) : Prop where
  shape : ∃ l r, t = { a with links := l, regs := r }
  links : ∀ q, q ≠ p → linkSt t q = linkSt a q
  regs : ∀ k, ¬ (pageBase (.lnk p) ≤ k ∧ k < pageBase (.lnk p) + 0x1000) → rget t.regs k = rget a.regs k

section
variable {p : Die} {a s t : State}

theorem atPort_refl (p : Die) (a : State) : AtPort p a a := ⟨⟨a.links, a.regs, rfl⟩, fun _ _ => rfl, fun _ _ => rfl⟩

theorem atPort_setLink (x : LinkSt) (h : AtPort p a s) : AtPort p a (setLink p x s) := by
  obtain ⟨⟨l, r, rfl⟩, links, regs⟩ := h
  exact ⟨⟨_, r, rfl⟩, fun q hq => (linkSt_setLink_ne x _ hq).trans (links q hq), regs⟩

theorem atPort_setReg (o : Nat) (v : W32) (h : AtPort p a s) (ho : o < 0x1000 := by omega) :
    AtPort p a (setReg (.lnk p) o v s) := by
  obtain ⟨⟨l, r, rfl⟩, links, regs⟩ := h
  exact ⟨⟨l, _, rfl⟩, links, fun k hk => (rget_rput_ne v _ (by omega)).trans (regs k hk)⟩

theorem atPort_bump (o n : Nat) (h : AtPort p a s) (ho : o < 0x1000 := by omega) : AtPort p a (bump (.lnk p) o s n) := by
  unfold bump
  split
  · exact h
  · exact atPort_setReg o _ h

theorem atPort_countFlits (o n : Nat) (h : AtPort p a s) (ho : o + 4 < 0x1000 := by omega) :
    AtPort p a (countFlits p o n s) := by
  unfold countFlits
  split
  · exact h
  · exact atPort_setReg _ _ (atPort_setReg _ _ h)

/-- The registers of the other pages. -/
theorem AtPort.reg {pg : Page} {o : Nat} (h : AtPort p a t) (hp : pg ≠ .lnk p) (ho : o < 0x1000 := by omega) :
    reg t pg o = reg a pg o := by
  refine h.regs _ fun ⟨lo, hi⟩ => hp ?_
  exact (pageBase_inj (o' := pageBase pg + o - pageBase (.lnk p)) ho (by omega) (by omega)).1

theorem AtPort.out (h : AtPort p a t) : t.out = a.out := by
  obtain ⟨⟨_, _, rfl⟩, -, -⟩ := h
  rfl

theorem AtPort.reg64 {pg : Page} {o : Nat} (h : AtPort p a t) (hp : pg ≠ .lnk p) (ho : o + 4 < 0x1000 := by omega) :
    reg64 t pg o = reg64 a pg o := by
  rw [Machine.reg64, h.reg hp, h.reg hp]
  rfl

/-- The job time is read from nothing that belongs to a link. -/
theorem AtPort.jtime (h : AtPort p a t) : jtime t = jtime a := by
  have offset : Machine.reg64 t .rdc 0x23C = Machine.reg64 a .rdc 0x23C := h.reg64 nofun
  obtain ⟨⟨l, r, rfl⟩, -, -⟩ := h
  unfold Machine.jtime joffNow
  rw [offset]
  rfl

theorem AtPort.isMaster (h : AtPort p a t) : isMaster t = isMaster a := by
  obtain ⟨⟨_, _, rfl⟩, -, -⟩ := h
  rfl

theorem AtPort.tparent (h : AtPort p a t) : tparent t = tparent a := by
  obtain ⟨⟨_, _, rfl⟩, -, -⟩ := h
  rfl

end

/-! Reading a link, and what is read from it. -/

theorem linkSt_congr {s t : State} (h : t.links = s.links) (p : Die) : linkSt t p = linkSt s p := by
  rw [linkSt, h]
  rfl

theorem linkSt_setReg (pg : Page) (o : Nat) (v : W32) (s : State) (p : Die) : linkSt (setReg pg o v s) p = linkSt s p :=
  linkSt_congr (setReg_links ..) p

theorem linkSt_setErr (pg : Page) (n : Nat) (s : State) (p : Die) : linkSt (setErr pg n s) p = linkSt s p :=
  linkSt_congr (setErr_links ..) p

theorem linkSt_bump_setLink (p : Die) (pg : Page) (o : Nat) (x : LinkSt) (s : State) : linkSt (bump pg o (setLink p x s)) p = x := by
  rw [linkSt_congr (bump_links ..), linkSt_setLink_same]

theorem portActive_congr {s t : State} (up : (linkSt t p).portUp = (linkSt s p).portUp) (nbr : (linkSt t p).nbrIv = (linkSt s p).nbrIv)
    (mode : t.isSealed = s.isSealed) (keys : t.linkKeys = s.linkKeys) : portActive t p = portActive s p := by
  unfold portActive bothKeys
  rw [up, nbr, mode, keys]

theorem portUp_of_portActive {p : Die} {s : State} (active : portActive s p = true) : (linkSt s p).portUp = true := by
  unfold portActive at active
  simp only [Bool.and_eq_true] at active
  obtain ⟨⟨up, -⟩, -⟩ := active
  exact up

theorem altPort_congr {s t : State} (p : Die) (h : t.stepBank = s.stepBank) : altPort t p = altPort s p := by
  unfold altPort lnkCfg stepv
  rw [h]

theorem reg_setLnkState_off (q : Die) (v : Nat) (s : State) (p : Die) {o : Nat} (ho : o < 0x1000) (off : o ≠ 0x040) :
    reg (setLnkState q v s) (.lnk p) o = reg s (.lnk p) o := by
  rw [setLnkState, setBits, reg_setReg_ne _ s (by omega) ho fun _ => off]

/-! Counting registers of a link's page. -/

theorem countFlits_shape (p : Die) (o n : Nat) (s : State) : ∃ r, countFlits p o n s = { s with regs := r } := by
  unfold countFlits
  split <;> exact ⟨_, rfl⟩

theorem reg_countFlits_off {p : Die} {o o' : Nat} (n : Nat) (s : State) (low : o' ≠ o) (high : o' ≠ o + 4) :
    reg (countFlits p o n s) (.lnk p) o' = reg s (.lnk p) o' := by
  unfold countFlits
  split
  · rfl
  · exact (reg_setReg_off _ _ _ high).trans (reg_setReg_off _ _ _ low)

theorem reg_prtNoted {s t : State} (h : PrtNoted s t) (p : Die) {o : Nat} (ho : o < 0x1000) : reg t (.lnk p) o = reg s (.lnk p) o := by
  obtain ⟨q, a, rfl, regs⟩ := h
  exact regs _ fun same => absurd (pageBase_inj ho (by omega) same).1 nofun

/-! A frame on a link's own port. -/

/-- Frame `f` left on port `p`, with the link's trailer: nothing is left to report, and flits count (R342). -/
structure SentBy (p : Die) (f : LFrame) (s t : State) : Prop where
  shape : ∃ r a l, t = { s with regs := r, asq := a, links := l, out := .frame p (withTrailer (linkSt s p) f) :: s.out }
  link : linkSt t p = { linkSt s p with report := false }
  links : ∀ q, q ≠ p → linkSt t q = linkSt s q
  regs : ∀ o < 0x1000, o ≠ 0x07C → o ≠ 0x080 → reg t (.lnk p) o = reg s (.lnk p) o

theorem SentBy.out {p : Die} {f : LFrame} {s t : State} (h : SentBy p f s t) :
    t.out = .frame p (withTrailer (linkSt s p) f) :: s.out := by
  obtain ⟨_, _, _, shape⟩ := h.shape
  rw [shape]

theorem sendDirect_sentBy (p : Die) (f : LFrame) (s : State) : SentBy p f s (sendDirect p f s) := by
  unfold sendDirect
  lift_lets
  intro w b l sent
  have noted : PrtNoted s b := by
    unfold b
    split
    exacts [prtNoted_prtEvent s, prtNoted_refl s]
  unfold sent l
  clear_value b
  have kept := fun o (ho : o < 0x1000) => reg_prtNoted noted p ho
  obtain ⟨q, a, rfl, -⟩ := noted
  have counted := fun o (low : o ≠ 0x07C) (high : o ≠ 0x080) => reg_countFlits_off (p := p) f.len
    (setLink p { linkSt s p with report := false } { s with regs := q, asq := { s.asq with prtVals := a } }) low high
  obtain ⟨r, e⟩ := countFlits_shape p 0x07C f.len
    (setLink p { linkSt s p with report := false } { s with regs := q, asq := { s.asq with prtVals := a } })
  refine ⟨⟨r, { s.asq with prtVals := a }, mput LinkSt.blank p.val { linkSt s p with report := false } s.links, ?_⟩, ?_, ?_,
    fun o ho low high => (counted o low high).trans (kept o ho)⟩
  · exact congrArg (emit _) e
  · exact (congrArg (fun t => linkSt (emit _ t) p) e).trans (mget_mput_same _ _)
  · exact fun q hq => (congrArg (fun t => linkSt (emit _ t) q) e).trans (linkSt_setLink_ne _ _ hq)

theorem sendOn_own {p : Die} {s : State} (f : LFrame) (own : (linkSt s p).onAlt = false) : sendOn p f s = sendDirect p f s := by
  unfold sendOn
  simp only [own, Bool.not_false, if_true]

theorem pump_idle {p : Die} {s : State} (queue : (linkSt s p).queue = []) : pump p s = s := by
  unfold pump
  rw [queue]
  rfl

theorem pathUp_own {p : Die} {s : State} (own : (linkSt s p).onAlt = false) (held : (linkSt s p).heldDown = false) :
    pathUp s p = portActive s p := by
  unfold pathUp
  simp only [own, held, Bool.false_eq_true, if_false]

/-! Replay on a link's own port (R343, R344). -/

/-- The frames of a list left on port `p`, each with the link's trailer; the link may have nothing left to report. -/
structure Resent (p : Die) (fs : List LFrame) (s t : State) : Prop where
  link : ∃ b, linkSt t p = { linkSt s p with report := b }
  sent : ∀ g ∈ fs, OutMsg.frame p (withTrailer (linkSt s p) g) ∈ t.out
  out : ∀ m ∈ s.out, m ∈ t.out
  regs : ∀ o < 0x1000, o ≠ 0x07C → o ≠ 0x080 → reg t (.lnk p) o = reg s (.lnk p) o

theorem forAll_sendOn_resent {p : Die} (fs : List LFrame) {s : State} (own : (linkSt s p).onAlt = false) :
    Resent p fs s (forAll fs (fun f s => sendOn p f s) s) := by
  induction fs generalizing s with
  | nil => exact ⟨⟨(linkSt s p).report, rfl⟩, nofun, fun _ h => h, fun _ _ _ _ => rfl⟩
  | cons f fs ih =>
    have first : SentBy p f s (sendOn p f s) := sendOn_own f own ▸ sendDirect_sentBy p f s
    have left := first.out
    obtain ⟨⟨b, link⟩, sent, out, regs⟩ := ih (s := sendOn p f s) (by rw [first.link]; exact own)
    rw [first.link] at link sent
    refine ⟨⟨b, link⟩, fun g hg => ?_, fun m hm => out m (left ▸ List.mem_cons_of_mem _ hm),
      fun o ho low high => (regs o ho low high).trans (first.regs o ho low high)⟩
    rcases List.mem_cons.mp hg with rfl | hg
    · exact out _ (left ▸ List.mem_cons_self ..)
    · exact sent g hg

theorem replayFrom_resent {p : Die} {s : State} (k : Nat) (active : portActive s p = true) (own : (linkSt s p).onAlt = false)
    (held : (linkSt s p).heldDown = false) (queue : (linkSt s p).queue = []) :
    Resent p ((linkSt s p).unacked.drop k) s (replayFrom p k s) := by
  have frames : replayed (linkSt s p) k = (linkSt s p).unacked.drop k := by
    unfold replayed
    simp only [own, Bool.false_eq_true, if_false]
  have resent := forAll_sendOn_resent ((linkSt s p).unacked.drop k) own
  obtain ⟨b, link⟩ := resent.link
  unfold replayFrom
  rw [pathUp_own own held, if_neg (by simp [active]), frames, pump_idle (by rw [link]; exact queue)]
  exact resent

end Sys2Proof.Machine
end

section
namespace Sys2Proof.Machine

/-! A frame arrives on a port (11 R340 to R343). -/

/-- A whole, intact frame arrives on a port that is up, and the link has nothing else to send. -/
structure Arrives (p : Die) (f : LFrame) (s : State) : Prop where
  power : powered s = true
  fitted : portFitted s.code p = true
  up : (linkSt s p).portUp = true
  queue : (linkSt s p).queue = []
  whole : WholeFrame s p f
  ok : frameOk f = true

theorem arrives_of_inOrder {p : Die} {f : LFrame} {s : State} (h : InOrder p f s) : Arrives p f s :=
  ⟨h.power, h.fitted, h.up, h.queue, h.whole, h.ok⟩

/-- The flits of a frame have passed the receiver: what is open, the counts of flits and of the codewords that FEC touched. -/
def flitsCounted (p : Die) (f : LFrame) (s : State) : State :=
  bump (.lnk p) 0x050 (bump (.lnk p) 0x04C
    (countFlits p 0x084 (f.flits.filter fun h => h.kind ≠ .idle).length
      (setLink p { linkSt s p with openB := (frameIn s p f).openB, openC := (frameIn s p f).openC } s)) f.fec.1) f.fec.2

/-- From `s` to `a` flits came in at port `p`: its link is the same but for what is open, and its page but for those counts. -/
structure FlitsIn (p : Die) (s a : State) : Prop where
  port : AtPort p s a
  link : ∃ b c, linkSt a p = { linkSt s p with openB := b, openC := c }
  regs : ∀ o, o ∉ [0x04C, 0x050, 0x084, 0x088] → reg a (.lnk p) o = reg s (.lnk p) o

theorem flitsCounted_flitsIn (p : Die) (f : LFrame) (s : State) : FlitsIn p s (flitsCounted p f s) := by
  refine ⟨atPort_bump _ _ (atPort_bump _ _ (atPort_countFlits _ _ (atPort_setLink _ (atPort_refl p s)))), ?_, fun o ho => ?_⟩
  · have links : (flitsCounted p f s).links =
        (setLink p { linkSt s p with openB := (frameIn s p f).openB, openC := (frameIn s p f).openC } s).links := by
      obtain ⟨r, e⟩ := countFlits_shape p 0x084 (f.flits.filter fun h => h.kind ≠ .idle).length
        (setLink p { linkSt s p with openB := (frameIn s p f).openB, openC := (frameIn s p f).openC } s)
      rw [flitsCounted, bump_links, bump_links, e]
    exact ⟨_, _, (linkSt_congr links p).trans (linkSt_setLink_same ..)⟩
  · simp only [List.mem_cons, List.not_mem_nil, or_false, not_or] at ho
    obtain ⟨fecBad, fecMet, low, high⟩ := ho
    rw [flitsCounted, reg_bump_off _ _ _ fecMet, reg_bump_off _ _ _ fecBad, reg_countFlits_off _ _ low high]
    rfl

section
variable {p : Die} {f : LFrame} {s a : State}

/-- The link written back as it is. -/
theorem FlitsIn.sameLink (h : FlitsIn p s a) : FlitsIn p s (setLink p (linkSt a p) a) :=
  ⟨atPort_setLink _ h.port, by rw [linkSt_setLink_same]; exact h.link, h.regs⟩

theorem FlitsIn.queue (h : FlitsIn p s a) : (linkSt a p).queue = (linkSt s p).queue := by
  obtain ⟨_, _, link⟩ := h.link
  rw [link]

/-! What the trailer lets out (R342). -/

theorem takeTrailer_plain (s : State) (ack : f.ackv = false) (free : f.freev = false) :
    takeTrailer p f s = setLink p (linkSt s p) s := by
  unfold takeTrailer
  simp only [ack, free, Bool.false_eq_true, if_false]

theorem takeTrailer_ack {k : Nat} (s : State) (ack : f.ackv = true) (free : f.freev = false)
    (named : (linkSt s p).unacked.findIdx? (fun g => g.lseq % 4096 = f.ackseq) = some k) :
    takeTrailer p f s = setLink p { linkSt s p with unacked := (linkSt s p).unacked.drop (k + 1), replays := 0 } s := by
  unfold takeTrailer
  simp only [ack, free, named, Bool.false_eq_true, if_false, if_true]

/-! Where an intact frame goes by its type (Table 11.3). -/

theorem rxLink_sequenced (tunnel : LFrame → State → State) (s : State) (ok : frameOk f = true) (typ : f.ltype ∈ [1, 2, 3, 4]) :
    rxLink tunnel p f s = rxSequenced tunnel p f (pump p (takeTrailer p f s)) := by
  unfold rxLink
  simp only [ok, typ, Bool.not_true, Bool.false_eq_true, if_false, decide_true, Bool.true_or, if_true]

theorem rxLink_unsequenced (tunnel : LFrame → State → State) (s : State) (ok : frameOk f = true) (typ : f.ltype ∈ [8, 9, 0x0A]) :
    rxLink tunnel p f s = rxUnsequenced p f (pump p (takeTrailer p f s)) := by
  simp only [List.mem_cons, List.not_mem_nil, or_false] at typ
  unfold rxLink
  rcases typ with typ | typ | typ <;> simp [ok, typ]

theorem rxLink_nak (tunnel : LFrame → State → State) (s : State) (ok : frameOk f = true) (typ : f.ltype = 0x0B) :
    rxLink tunnel p f s = pump p (nakIn p f (takeTrailer p f s)) := by
  unfold rxLink
  simp [ok, typ, rxUnsequenced]

theorem rxFrame_whole (h : Arrives p f s) : rxFrame p f s = rxLink (untunnel p) p f (flitsCounted p f s) := by
  obtain ⟨errs, done⟩ := h.whole
  unfold rxFrame
  rw [if_neg (by simp [h.power, h.fitted, h.up])]
  simp only [errs, done, List.range_zero, List.foldl_nil, if_true]
  rfl

/-- The trailer of a frame that arrives lets nothing more out: the link's queue is empty. -/
theorem pump_takeTrailer_plain (h : Arrives p f s) (ack : f.ackv = false) (free : f.freev = false) :
    ∃ a, FlitsIn p s a ∧ takeTrailer p f (flitsCounted p f s) = a ∧ pump p a = a := by
  have came := (flitsCounted_flitsIn p f s).sameLink
  exact ⟨_, came, takeTrailer_plain _ ack free, pump_idle (came.queue.trans h.queue)⟩

variable (h : Arrives p f s)
include h

theorem rxFrame_sequenced (ack : f.ackv = false) (free : f.freev = false) (typ : f.ltype ∈ [1, 2, 3, 4]) :
    ∃ a, FlitsIn p s a ∧ rxFrame p f s = rxSequenced (untunnel p) p f a := by
  obtain ⟨a, came, taken, idle⟩ := pump_takeTrailer_plain h ack free
  exact ⟨a, came, by rw [rxFrame_whole h, rxLink_sequenced _ _ h.ok typ, taken, idle]⟩

theorem rxFrame_unsequenced (ack : f.ackv = false) (free : f.freev = false) (typ : f.ltype ∈ [8, 9, 0x0A]) :
    ∃ a, FlitsIn p s a ∧ rxFrame p f s = rxUnsequenced p f a := by
  obtain ⟨a, came, taken, idle⟩ := pump_takeTrailer_plain h ack free
  exact ⟨a, came, by rw [rxFrame_whole h, rxLink_unsequenced _ _ h.ok typ, taken, idle]⟩

theorem rxFrame_nak (ack : f.ackv = false) (free : f.freev = false) (typ : f.ltype = 0x0B) :
    ∃ a, FlitsIn p s a ∧ rxFrame p f s = pump p (nakIn p f a) := by
  obtain ⟨a, came, taken, -⟩ := pump_takeTrailer_plain h ack free
  exact ⟨a, came, by rw [rxFrame_whole h, rxLink_nak _ _ h.ok typ, taken]⟩

/-- An ACK does no more than its trailer: it releases the frames up to the one it names. -/
theorem rxFrame_ack {k : Nat} (ack : f.ackv = true) (free : f.freev = false) (typ : f.ltype = 0x0A)
    (named : (linkSt s p).unacked.findIdx? (fun g => g.lseq % 4096 = f.ackseq) = some k) :
    ∃ a, FlitsIn p s a ∧
      rxFrame p f s = setLink p { linkSt a p with unacked := (linkSt s p).unacked.drop (k + 1), replays := 0 } a := by
  have came := flitsCounted_flitsIn p f s
  obtain ⟨_, _, link⟩ := came.link
  have unacked : (linkSt (flitsCounted p f s) p).unacked = (linkSt s p).unacked := by rw [link]
  refine ⟨_, came, ?_⟩
  rw [rxFrame_whole h, rxLink_unsequenced _ _ h.ok (by simp [typ]), takeTrailer_ack _ ack free (unacked ▸ named), unacked,
    pump_idle (by rw [linkSt_setLink_same]; exact came.queue.trans h.queue)]
  simp only [rxUnsequenced, typ]

end

end Sys2Proof.Machine
end

section
namespace Sys2Proof.Machine

/-! What a frame does by its type: it is delivered in this module, or acts on its link (11 R342, R343, R351 to R362). -/

section
variable {p : Die} {f : LFrame} {s a : State}

/-! A frame in order (R342, R347). -/

/-- The link takes the frame: it expects the next and owes an acknowledgement. -/
def orderTaken (p : Die) (s : State) : State :=
  setLink p { linkSt s p with
    rxExp := (linkSt s p).rxExp + 1
    freed := (linkSt s p).rxExp + 1
    report := true
    tagFails := (0, 0) } s

theorem rxSequenced_inOrder {tunnel : LFrame → State → State} (held : (linkSt s p).heldDown = false) (open_ : s.isSealed = false)
    (clear : f.enc = false) (seq : f.lseq % 4096 = (linkSt s p).rxExp % 4096) :
    rxSequenced tunnel p f s = deliverFrame tunnel p f (orderTaken p s) := by
  have opened : openFrame s p f = some f := by
    unfold openFrame
    simp only [open_, clear, Bool.not_false, Bool.false_eq_true, if_true, if_false]
  unfold rxSequenced
  rw [if_neg (by simp [held, open_]), if_pos seq, opened]
  simp only [clear, Bool.false_eq_true, if_false]
  rfl

/-- A frame in order is taken once its flits have come in. -/
theorem FlitsIn.taken (h : FlitsIn p s a) : Taken p s (orderTaken p a) := by
  obtain ⟨shape, links, regs⟩ := atPort_setLink { linkSt a p with
    rxExp := (linkSt a p).rxExp + 1
    freed := (linkSt a p).rxExp + 1
    report := true
    tagFails := (0, 0) } h.port
  obtain ⟨_, _, link⟩ := h.link
  obtain ⟨l, r, e⟩ := shape
  refine ⟨?_, ?_, links, l, r, e, by rw [e] at regs; exact regs⟩ <;> rw [orderTaken, linkSt_setLink_same]
  rw [link]

theorem rxFrame_inOrder (h : InOrder p f s) (typ : f.ltype ∈ [1, 2, 3, 4]) :
    ∃ b, Taken p s b ∧ rxFrame p f s = deliverFrame (untunnel p) p f b := by
  obtain ⟨open_, clear, ack, free⟩ := h.plain
  obtain ⟨a, came, received⟩ := rxFrame_sequenced (arrives_of_inOrder h) ack free typ
  obtain ⟨_, _, link⟩ := came.link
  obtain ⟨_, _, shape⟩ := came.port.shape
  refine ⟨_, came.taken, received.trans (rxSequenced_inOrder ?_ ?_ clear ?_)⟩
  · rw [link]; exact h.held
  · rw [shape]; exact open_
  · rw [link]; exact h.seq

theorem ownId_of_taken {b : State} (h : Taken p s b) : ownId b = ownId s := by
  obtain ⟨_, _, rfl, -⟩ := h.rest
  rfl

theorem ringReach_of_taken {b : State} (h : Taken p s b) (x y : Die) : ringReach b x y = ringReach s x y := by
  obtain ⟨_, _, rfl, -⟩ := h.rest
  rfl

/-! Delivery in this module (R353, 15 R444). -/

section
variable {tunnel : LFrame → State → State} (own : f.dst = ownId s)
include own

theorem deliverFrame_far (typ : f.ltype = 2) : deliverFrame tunnel p f s =
    if ringReach s p (Fin.ofNat 16 (byteAt f.body 6 / 16)) then farIn f s else s := by
  unfold deliverFrame
  simp [typ, own]

theorem deliverFrame_xfer (typ : f.ltype = 3) : deliverFrame tunnel p f s = xferIn p f s := by
  unfold deliverFrame
  simp [typ, own]

theorem deliverFrame_tunnel (typ : f.ltype = 4) : deliverFrame tunnel p f s = tunnel f s := by
  unfold deliverFrame
  simp [typ, own]

end

/-! FAR frames (07 R222) and the parts of a stage transfer (R362). -/

theorem farIn_thisEpoch (same : fieldLE f.body 16 2 = epochNow s) : farIn f s =
    farSignal (Fin.ofNat 16 (byteAt f.body 6 / 16)) (Fin.ofNat 16 (byteAt f.body 6)) f.src ((Config.freeWord s.fc).toNat % 16)
      (freshFree s) := by
  unfold farIn
  simp only [same, ne_eq, not_true_eq_false, if_false]

theorem farIn_otherEpoch (other : fieldLE f.body 16 2 ≠ epochNow s) :
    bitOf (reg (farIn f s) (.fst (Fin.ofNat 16 (byteAt f.body 6 / 16))) 0x010) 1 = true := by
  unfold farIn
  dsimp only
  rw [if_pos other]
  exact setErr_bit _ (by omega) _

theorem xferPart_next {e : StageEnt} {n : Nat} {r : Region} (going : (mget default s.stageSt n).stopped = false)
    (count : fieldLE f.body 4 4 = (mget default s.stageSt n).rxCount) (place : fieldLE f.body 8 8 = (mget default s.stageSt n).rxOff)
    (inside : fieldLE f.body 8 8 + (f.body.drop 16).length < e.size) (whole : (f.body.drop 16).length % 64 = 0)
    (some_ : f.body.drop 16 ≠ []) (most : (f.body.drop 16).length ≤ 2048) :
    let t := regionWrite r (fieldLE f.body 4 4) (fieldLE f.body 8 8) (f.body.drop 16) s
    xferPart p f e n r s = { t with stageSt := mput default n { mget default s.stageSt n with
      rxOff := fieldLE f.body 8 8 + (f.body.drop 16).length } t.stageSt } := by
  unfold xferPart
  dsimp only
  rw [if_neg (by simp [going]), if_neg, if_neg (by omega)]
  simp only [Bool.or_eq_true, decide_eq_true_eq, List.isEmpty_iff, some_, or_false]
  omega

/-! NAK (R343). -/

theorem nakIn_resends {k : Nat} (few : (linkSt s p).replays < 4)
    (named : (linkSt s p).unacked.findIdx? (fun g => g.lseq % 4096 = fieldLE f.body 0 2 % 4096) = some k) :
    nakIn p f s = replayFrom p k (bump (.lnk p) 0x058 (setLink p { linkSt s p with replays := (linkSt s p).replays + 1 } s)) := by
  unfold nakIn
  simp only [named]
  rw [if_neg (by omega)]

/-- A replay from index `k`, after register `o` has counted it: the frames leave again, the link keeps them and has one replay more
(R343, R344). -/
theorem replayFrom_counted {o : Nat} (k : Nat) (active : portActive s p = true) (own : (linkSt s p).onAlt = false)
    (held : (linkSt s p).heldDown = false) (queue : (linkSt s p).queue = []) (ho : o < 0x07C) :
    let t := replayFrom p k (bump (.lnk p) o (setLink p { linkSt s p with replays := (linkSt s p).replays + 1 } s))
    (∃ b, linkSt t p = { linkSt s p with replays := (linkSt s p).replays + 1, report := b }) ∧
      (∀ g ∈ (linkSt s p).unacked.drop k, OutMsg.frame p (withTrailer (linkSt s p) g) ∈ t.out) ∧
      (pageFrz s (.lnk p) = false → reg t (.lnk p) o = satInc (reg s (.lnk p) o)) := by
  have link := linkSt_bump_setLink p (.lnk p) o { linkSt s p with replays := (linkSt s p).replays + 1 } s
  have still : portActive (bump (.lnk p) o (setLink p { linkSt s p with replays := (linkSt s p).replays + 1 } s)) p = true :=
    (portActive_congr (by rw [link]) (by rw [link]) (by rw [bump_isSealed]; rfl) (by rw [bump_linkKeys]; rfl)).trans active
  obtain ⟨kept, sent, -, regs⟩ := replayFrom_resent k still (by rw [link]; exact own) (by rw [link]; exact held)
    (by rw [link]; exact queue)
  rw [link] at kept sent
  refine ⟨kept, sent, fun thawed => (regs o (by omega) (by omega) (by omega)).trans ?_⟩
  exact reg_bump_same o 1 thawed

/-! LNK_STS of the ports (Table 11.6). -/

theorem showActive_eventsAndRegs (s : State) : EventsAndRegs s (showActive s) := by
  unfold showActive
  refine eventsAndRegs_forAll _ (fun q s => ?_) s
  rw [setLnkState, setBits]
  exact eventsAndRegs_setReg _ _ _ (eventsAndRegs_refl s)

/-- The states that are shown leave the other registers of the links' pages. -/
theorem reg_showActive_off (s : State) (p : Die) {o : Nat} (ho : o < 0x1000) (off : o ≠ 0x040) :
    reg (showActive s) (.lnk p) o = reg s (.lnk p) o := by
  unfold showActive forAll
  generalize (fittedPorts s.code).filter _ = ps
  induction ps generalizing s with
  | nil => rfl
  | cons q ps ih =>
    rw [List.foldl_cons, ih]
    exact reg_setLnkState_off q _ s p ho off

theorem linkSt_showActive (s : State) (p : Die) : linkSt (showActive s) p = linkSt s p := by
  refine linkSt_congr ?_ p
  obtain ⟨_, _, _, e⟩ := showActive_eventsAndRegs s
  rw [e]

/-! HELLO (R351, R352). -/

theorem linkSt_setPeer (n : Nat) (x : PeerSt) (s : State) (p : Die) : linkSt (setPeer n x s) p = linkSt s p := rfl

theorem reg_setPeer (n : Nat) (x : PeerSt) (s : State) (pg : Page) (o : Nat) : reg (setPeer n x s) pg o = reg s pg o := rfl

/-- The link and LNK_NBR with the neighbour that a HELLO names. -/
def neighbourSeen (p : Die) (f : LFrame) (s : State) : State :=
  let t := setReg (.lnk p) 0x048 (w32 (fieldLE f.body 0 2 * 65536 + byteAt f.body 2 % 16)) s
  setLink p { linkSt t p with conflict := false, nbrIv := max 1 (byteAt f.body 6), far := fieldLE f.body 0 2 } t

theorem linkSt_neighbourSeen (p : Die) (f : LFrame) (s : State) : linkSt (neighbourSeen p f s) p =
    { linkSt s p with conflict := false, nbrIv := max 1 (byteAt f.body 6), far := fieldLE f.body 0 2 } := by
  unfold neighbourSeen
  rw [linkSt_setLink_same, linkSt_setReg]

theorem reg_neighbourSeen (p : Die) (f : LFrame) (s : State) :
    reg (neighbourSeen p f s) (.lnk p) 0x048 = w32 (fieldLE f.body 0 2 * 65536 + byteAt f.body 2 % 16) :=
  (reg_congr (setLink_regs ..) _ _).trans (reg_setReg_same ..)

section
variable (some_ : fieldLE f.body 0 2 ≠ 0) (one : fieldLE f.body 0 2 ≠ 0xFFFF)
include some_ one

theorem helloIn_known {n : Nat} (other : fieldLE f.body 0 2 ≠ ownId s) (known : peerOf s (fieldLE f.body 0 2) = some n) :
    ∃ x : PeerSt, x.nbr = true ∧ x.hello = s.now ∧ helloIn p f s = pump p (showActive (setPeer n x (neighbourSeen p f s))) := by
  have learnt : learnPeer (fieldLE f.body 0 2) s = some (n, s) := by
    unfold learnPeer
    rw [known]
  unfold helloIn neighbourSeen
  simp only [some_, one, other, learnt, decide_false, Bool.or_self, Bool.false_eq_true, if_false]
  refine ⟨_, rfl, ?_, rfl⟩
  simp only [setLink_now, setReg_now]

/-- The neighbour stands in the link, in LNK_NBR and in its peer entry; a link with an empty queue sends nothing. -/
theorem helloIn_known_shows {n : Nat} (other : fieldLE f.body 0 2 ≠ ownId s) (known : peerOf s (fieldLE f.body 0 2) = some n)
    (queue : (linkSt s p).queue = []) :
    let t := helloIn p f s
    linkSt t p = { linkSt s p with conflict := false, nbrIv := max 1 (byteAt f.body 6), far := fieldLE f.body 0 2 } ∧
      (peerSt t n).nbr = true ∧ (peerSt t n).hello = s.now ∧
      reg t (.lnk p) 0x048 = w32 (fieldLE f.body 0 2 * 65536 + byteAt f.body 2 % 16) := by
  obtain ⟨x, nbr, hello, e⟩ := helloIn_known (p := p) some_ one other known
  have kept := reg_showActive_off (setPeer n x (neighbourSeen p f s)) p (o := 0x048) (by omega) (by omega)
  have link : linkSt (showActive (setPeer n x (neighbourSeen p f s))) p =
      { linkSt s p with conflict := false, nbrIv := max 1 (byteAt f.body 6), far := fieldLE f.body 0 2 } := by
    rw [linkSt_showActive, linkSt_setPeer, linkSt_neighbourSeen]
  have peer : peerSt (showActive (setPeer n x (neighbourSeen p f s))) n = x := by
    obtain ⟨_, _, _, shown⟩ := showActive_eventsAndRegs (setPeer n x (neighbourSeen p f s))
    rw [shown]
    exact mget_mput_same _ _
  dsimp only
  rw [e, pump_idle (by rw [link]; exact queue), peer]
  exact ⟨link, nbr, hello, kept.trans ((reg_setPeer ..).trans (reg_neighbourSeen p f s))⟩

theorem helloIn_conflict (same : fieldLE f.body 0 2 = ownId s) :
    let t := helloIn p f s
    (linkSt t p).conflict = true ∧ (linkSt t p).nbrIv = 0 ∧ bitOf (reg t (.lnk p) 0x010) 4 = true := by
  unfold helloIn
  simp only [some_, one, decide_false, Bool.or_self, Bool.false_eq_true, if_false, if_pos same]
  have link : linkSt (setErr (.lnk p) 4 (setLink p { linkSt s p with conflict := true, nbrIv := 0 } s)) p =
      { linkSt s p with conflict := true, nbrIv := 0 } := by
    rw [linkSt_setErr, linkSt_setLink_same]
  have bit := setErr_bit (.lnk p) (n := 4) (by omega) (setLink p { linkSt s p with conflict := true, nbrIv := 0 } s)
  split
  · rw [link]
    exact ⟨rfl, rfl, bit⟩
  · rw [linkSt_setLnkState, link]
    refine ⟨rfl, rfl, ?_⟩
    rw [reg_setLnkState_off _ _ _ _ (by omega) (by omega)]
    exact bit

end

/-! TSYNC (R359). -/

theorem linkSt_setJoff (j goal : Int) (s : State) (p : Die) : linkSt (setJoff j goal s) p = linkSt s p := rfl

theorem tsyncTake_unasked (other : (linkSt s p).t1 ≠ some (fieldLE f.body 8 8)) : tsyncTake p f s = s := by
  simp only [tsyncTake, if_pos other]

theorem tsyncTake_asked (same : (linkSt s p).t1 = some (fieldLE f.body 8 8)) :
    (linkSt (tsyncTake p f s) p).t1 = none ∧ (isMaster s = false → tparent s = some p → (tsyncTake p f s).tsynced = true) := by
  unfold tsyncTake
  lift_lets
  intro t1 t2 t3 t4 d off rtt own shown rated j
  have seen : AtPort p s shown := atPort_setReg _ _ (atPort_setLink _ (atPort_refl p s))
  have answered : (linkSt shown p).t1 = none := by
    unfold shown
    rw [linkSt_setReg, linkSt_setLink_same]
  clear_value shown
  have kept : ∃ x, rated = { shown with peers := x } := by
    unfold rated
    split
    exacts [⟨_, rfl⟩, ⟨shown.peers, rfl⟩]
  clear_value rated
  obtain ⟨x, rfl⟩ := kept
  have master : isMaster { shown with peers := x } = isMaster s := seen.isMaster
  have parent : tparent { shown with peers := x } = tparent s := seen.tparent
  rw [if_neg (by simp [same, t1]), master, parent]
  split
  next not_ =>
    refine ⟨answered, fun slave parent => ?_⟩
    simp [slave, parent] at not_
  · exact ⟨(linkSt_setJoff ..).symm ▸ answered, fun _ _ => rfl⟩

end

end Sys2Proof.Machine
end

section
namespace Sys2Proof.Machine

section
variable {p : Die} {f : LFrame} {s : State}

/-! The commands (Table 11.3): each one's frame arrives, and goes on by its type. -/

theorem rxFrame_hello (h : Arrives p f s) (ack : f.ackv = false) (free : f.freev = false) (typ : f.ltype = 8) :
    ∃ a, FlitsIn p s a ∧ rxFrame p f s = helloIn p f a := by
  obtain ⟨a, came, received⟩ := rxFrame_unsequenced h ack free (by simp [typ])
  exact ⟨a, came, received.trans (by simp only [rxUnsequenced, typ])⟩

theorem rxFrame_tsync (h : Arrives p f s) (ack : f.ackv = false) (free : f.freev = false) (typ : f.ltype = 9) :
    ∃ a, FlitsIn p s a ∧ rxFrame p f s = if byteAt f.body 0 = 0 then tsyncAnswer p f a else tsyncTake p f a := by
  obtain ⟨a, came, received⟩ := rxFrame_unsequenced h ack free (by simp [typ])
  exact ⟨a, came, received.trans (by simp only [rxUnsequenced, typ])⟩

end

theorem FlitsIn.portActive {p : Die} {s a : State} (h : FlitsIn p s a) : portActive a p = portActive s p := by
  obtain ⟨_, _, link⟩ := h.link
  obtain ⟨_, _, shape⟩ := h.port.shape
  exact portActive_congr (by rw [link]) (by rw [link]) (by rw [shape]) (by rw [shape])

/-- Settles O46, by where a frame that arrives goes: a frame in order is delivered, and each other type acts on the link as its own
rule says. -/
theorem linkFrames : Obligations.LinkFrames := by
  unfold Obligations.LinkFrames
  refine ⟨?_, ?_, ?_, ?_, ?_, ?_, ?_⟩
  · -- Frames in order.
    intro p f s h
    have delivered : f.ltype ∈ [1, 2, 3, 4] → ∃ a, Taken p s a ∧ f.dst = ownId a ∧
        exec (.farFrame p f) s = .next (deliverFrame (untunnel p) p f a) := by
      intro typ
      obtain ⟨a, taken, received⟩ := rxFrame_inOrder h typ
      exact ⟨a, taken, h.dst.trans (ownId_of_taken taken).symm, congrArg Host.Outcome.next received⟩
    refine ⟨fun typ joined => ?_, fun typ apart => ?_, fun typ => ?_, fun typ => ?_⟩ <;>
      obtain ⟨a, taken, own, run⟩ := delivered (by simp [typ]) <;>
      refine ⟨a, taken, run.trans (congrArg _ ?_)⟩
    · rw [deliverFrame_far own typ, ringReach_of_taken taken, joined, if_pos rfl]
    · rw [deliverFrame_far own typ, ringReach_of_taken taken, apart, if_neg Bool.false_ne_true]
    · exact deliverFrame_xfer own typ
    · exact deliverFrame_tunnel own typ
  · -- FAR frames.
    intro f s
    exact ⟨fun same => ⟨_, Nat.mod_lt _ (by omega), farIn_thisEpoch same⟩, fun other => farIn_otherEpoch other⟩
  · -- Parts of a stage transfer.
    intro p f e n r s x off data going count place inside whole some_ most
    refine ⟨_, xferPart_next going count place inside whole some_ most, rfl, ?_⟩
    exact mget_mput_same _ _
  · -- ACK.
    intro p f k s power fitted up queue whole ok typ ack free named
    obtain ⟨a, came, received⟩ := rxFrame_ack ⟨power, fitted, up, queue, whole, ok⟩ ack free typ named
    obtain ⟨_, _, link⟩ := came.link
    obtain ⟨_, _, shape⟩ := came.port.shape
    refine ⟨_, congrArg Host.Outcome.next received, ?_, ?_, ?_, fun q hq => ?_, ?_⟩
    · rw [linkSt_setLink_same]
    · rw [linkSt_setLink_same]
    · rw [linkSt_setLink_same, link]
    · rw [linkSt_setLink_ne _ _ hq, came.port.links q hq]
    · rw [setLink_out, shape]
  · -- NAK.
    intro p f k s power fitted active own held queue whole ok typ ack free few named
    obtain ⟨a, came, received⟩ := rxFrame_nak ⟨power, fitted, portUp_of_portActive active, queue, whole, ok⟩ ack free typ
    obtain ⟨_, _, link⟩ := came.link
    obtain ⟨⟨b, kept⟩, sent, counts⟩ := replayFrom_counted (s := a) (p := p) (o := 0x058) k (came.portActive.trans active)
      (by rw [link]; exact own) (by rw [link]; exact held) (by rw [link]; exact queue) (by omega)
    rw [nakIn_resends (by rw [link]; exact few) (by rw [link]; exact named), pump_idle (by rw [kept, link]; exact queue)] at received
    refine ⟨_, congrArg Host.Outcome.next received, by rw [kept, link], by rw [kept, link], fun g hg => ?_, fun thawed => ?_⟩
    · exact ⟨_, sent g (by rw [link]; exact hg), rfl, rfl, rfl⟩
    · have frz : pageFrz a (.lnk p) = pageFrz s (.lnk p) := congrArg (bitOf · 1) (came.regs 0x008 (by simp))
      rw [counts (frz.trans thawed), came.regs 0x058 (by simp)]
  · -- HELLO.
    intro p f s power fitted up queue whole ok typ ack free id
    obtain ⟨a, came, received⟩ := rxFrame_hello ⟨power, fitted, up, queue, whole, ok⟩ ack free typ
    obtain ⟨_, _, link⟩ := came.link
    obtain ⟨_, _, shape⟩ := came.port.shape
    have self : ownId a = ownId s := by rw [shape]; rfl
    refine ⟨fun n some_ one other known => ?_, fun same some_ one => ?_⟩
    · have known' : peerOf a (fieldLE f.body 0 2) = some n := by rw [shape]; exact known
      obtain ⟨seen, nbr, hello, word⟩ := helloIn_known_shows (p := p) some_ one (self ▸ other) known' (came.queue.trans queue)
      refine ⟨_, congrArg Host.Outcome.next received, ?_, ?_, ?_, nbr, hello.trans (by rw [shape]), word⟩ <;> rw [seen]
    · exact ⟨_, congrArg Host.Outcome.next received, helloIn_conflict some_ one (same.trans self.symm)⟩
  · -- TSYNC.
    intro p f s power fitted up queue whole ok typ ack free
    obtain ⟨a, came, received⟩ := rxFrame_tsync ⟨power, fitted, up, queue, whole, ok⟩ ack free typ
    obtain ⟨_, _, link⟩ := came.link
    have asked : (linkSt a p).t1 = (linkSt s p).t1 := by rw [link]
    refine ⟨fun request => ?_, fun response other => ?_, fun response same => ?_⟩
    · rw [if_pos request, tsyncAnswer, came.port.jtime] at received
      exact ⟨_, _, congrArg Host.Outcome.next received, (sendDirect_sentBy ..).out.trans (by rw [came.port.out]), rfl, rfl, rfl⟩
    · rw [if_neg (by omega), tsyncTake_unasked (asked ▸ other)] at received
      refine ⟨_, congrArg Host.Outcome.next received, came.port.reg64 nofun, ?_⟩
      obtain ⟨_, _, shape⟩ := came.port.shape
      rw [shape]
      exact ⟨rfl, rfl⟩
    · rw [if_neg (by omega)] at received
      obtain ⟨answered, synced⟩ := tsyncTake_asked (s := a) (p := p) (f := f) (asked.trans same)
      refine ⟨_, congrArg Host.Outcome.next received, answered, fun slave parent => synced ?_ ?_⟩
      · exact came.port.isMaster.trans slave
      · exact came.port.tparent.trans parent

end Sys2Proof.Machine
end

section
namespace Sys2Proof.Machine

/-! A port goes down and its link has no alternate (11 R336, R348, 15 R450). -/

theorem outsideLedger_lnk (p : Die) : OutsideLedger (.lnk p) := ⟨nofun, nofun, nofun⟩

section
variable {p : Die} {s t : State}

/-- The FAULT item of a fault without a cause leaves the links, what is in force of their configuration and their pages. -/
theorem uncodedFault_links (cls : Nat) (s : State) : (uncodedFault cls s).links = s.links ∧ (uncodedFault cls s).stepBank = s.stepBank ∧
    ∀ p, PageKept (.lnk p) s (uncodedFault cls s) := by
  have item := ledgerOnly_faultItem cls ((Config.freeWord s.fc).toNat % 256) [] (freshFree s)
  refine ⟨?_, ?_, fun p => pageKept_ledgerItemOf (outsideLedger_lnk p) _ _ _ (pageKept_of (pageKept_refl _ s) rfl)⟩ <;>
    obtain ⟨_, _, _, _, _, _, _, _, _, _, _, _, e, -⟩ := item <;> rw [uncodedFault, e] <;> rfl

/-- From `s` to `t` link `p` and its page stay, and every link keeps to its present path. -/
structure PortStays (p : Die) (s t : State) : Prop where
  link : linkSt t p = linkSt s p
  page : PageKept (.lnk p) s t
  path : ∀ q, (linkSt t q).onAlt = (linkSt s q).onAlt

theorem pathDown_alternate {q : Die} (alt : (linkSt s q).onAlt = true) : pathDown q s =
    if (linkSt s q).heldDown then s else setLnkState q 5 (setLink q { linkSt s q with altDown := true } s) := by
  unfold pathDown
  simp only [alt, if_true]

/-- Another link loses its alternate path. -/
theorem pathDown_portStays {q : Die} (other : q ≠ p) (alt : (linkSt s q).onAlt = true) : PortStays p s (pathDown q s) := by
  rw [pathDown_alternate alt]
  split
  · exact ⟨rfl, pageKept_refl _ s, fun _ => rfl⟩
  · refine ⟨?_, ?_, fun k => ?_⟩
    · rw [linkSt_setLnkState, linkSt_setLink_ne _ _ other.symm]
    · rw [setLnkState, setBits]
      exact pageKept_setReg 0x040 _ (pageKept_of (pageKept_refl _ s) rfl) fun same => other (Page.lnk.inj same).symm
    · rw [linkSt_setLnkState]
      by_cases same : k = q
      · subst same
        rw [linkSt_setLink_same]
      · rw [linkSt_setLink_ne _ _ same]

theorem forAll_pathDown_portStays (qs : List Die) (h : ∀ q ∈ qs, q ≠ p ∧ (linkSt s q).onAlt = true) :
    PortStays p s (forAll qs (fun q s => pathDown q s) s) := by
  unfold forAll
  induction qs generalizing s with
  | nil => exact ⟨rfl, pageKept_refl _ s, fun _ => rfl⟩
  | cons q qs ih =>
    obtain ⟨other, alt⟩ := h q (List.mem_cons_self ..)
    have first := pathDown_portStays other alt
    have rest := ih (s := pathDown q s) fun k hk => by
      rw [first.path]
      exact h k (List.mem_cons_of_mem _ hk)
    exact ⟨rest.link.trans first.link, fun o ho => (rest.page o ho).trans (first.page o ho),
      fun k => (rest.path k).trans (first.path k)⟩

/-- The links that use port `p` as their alternate path lose that. -/
def alternatesLost (p : Die) (s : State) : State :=
  forAll (dies.filter fun q => (linkSt s q).onAlt && altPort s q = some p) (fun q s => pathDown q s) s

theorem alternatesLost_portStays (own : (linkSt s p).onAlt = false) : PortStays p s (alternatesLost p s) := by
  refine forAll_pathDown_portStays _ fun q hq => ?_
  simp only [List.mem_filter, Bool.and_eq_true] at hq
  obtain ⟨-, onAlt, -⟩ := hq
  refine ⟨fun same => ?_, onAlt⟩
  rw [same, own] at onAlt
  exact Bool.false_ne_true onAlt

/-- The port shows that it is down, with no neighbour behind it. -/
def portShownDown (p : Die) (s : State) : State :=
  setLnkState p 5 (setReg (.lnk p) 0x040 0
    (setLink p { linkSt s p with portUp := false, upAll := false, nbrIv := 0, openB := none, openC := none } s))

theorem linkSt_portShownDown (p : Die) (s : State) : linkSt (portShownDown p s) p =
    { linkSt s p with portUp := false, upAll := false, nbrIv := 0, openB := none, openC := none } := by
  rw [portShownDown, linkSt_setLnkState, linkSt_setReg, linkSt_setLink_same]

theorem reg_portShownDown_off (p : Die) (s : State) {o : Nat} (ho : o < 0x1000) (off : o ≠ 0x040) :
    reg (portShownDown p s) (.lnk p) o = reg s (.lnk p) o := by
  rw [portShownDown, reg_setLnkState_off _ _ _ _ ho off, reg_setReg_off _ _ _ off]
  exact reg_congr (setLink_regs ..) _ _

theorem altPort_portShownDown (p : Die) (s : State) : altPort (portShownDown p s) p = altPort s p := by
  refine altPort_congr p ?_
  rw [portShownDown, setLnkState, setBits, setReg_stepBank, setReg_stepBank, setLink_stepBank]

theorem portLost_own (own : (linkSt s p).onAlt = false) : portLost p s = alternatesLost p (pathDown p (portShownDown p s)) := by
  unfold portLost
  simp only [own, Bool.false_eq_true, if_false, portShownDown, alternatesLost]

theorem pathDown_noAlternate (alt : altPort s p = none) (own : (linkSt s p).onAlt = false) (held : (linkSt s p).heldDown = false) :
    pathDown p s = setErr (.lnk p) 2 s := by
  unfold pathDown
  simp only [own, held, alt, Bool.false_eq_true, if_false, Option.isNone_none, if_true]

/-- Without an alternate the link's path is down: error bit 2. -/
theorem portLost_noAlternate (alt : altPort s p = none) (own : (linkSt s p).onAlt = false) (held : (linkSt s p).heldDown = false) :
    linkSt (portLost p s) p =
        { linkSt s p with portUp := false, upAll := false, nbrIv := 0, openB := none, openC := none } ∧
      bitOf (reg (portLost p s) (.lnk p) 0x010) 2 = true ∧
      ∀ n, bitOf (reg s (.lnk p) 0x010) n = true → bitOf (reg (portLost p s) (.lnk p) 0x010) n = true := by
  have link := linkSt_portShownDown p s
  have path : pathDown p (portShownDown p s) = setErr (.lnk p) 2 (portShownDown p s) :=
    pathDown_noAlternate ((altPort_portShownDown p s).trans alt) (by rw [link]; exact own) (by rw [link]; exact held)
  have stays : PortStays p (setErr (.lnk p) 2 (portShownDown p s)) (portLost p s) := by
    rw [portLost_own own, path]
    exact alternatesLost_portStays (by rw [linkSt_setErr, link]; exact own)
  refine ⟨stays.link.trans ((linkSt_setErr ..).trans link), ?_, fun n set => ?_⟩ <;> rw [stays.page 0x010 (by omega)]
  · exact setErr_bit _ (by omega) _
  · refine setErr_keeps_bit _ (by omega) ?_
    rw [reg_portShownDown_off p s (by omega) (by omega)]
    exact set

/-- A port fails whose link has no alternate: error bits 0 and 2 (R336, R348). -/
theorem linkFault_noAlternate (alt : altPort s p = none) (own : (linkSt s p).onAlt = false) (held : (linkSt s p).heldDown = false) :
    linkSt (linkFault p s) p =
        { linkSt s p with portUp := false, upAll := false, nbrIv := 0, openB := none, openC := none } ∧
      bitOf (reg (linkFault p s) (.lnk p) 0x010) 0 = true ∧
      bitOf (reg (linkFault p s) (.lnk p) 0x010) 2 = true := by
  obtain ⟨links, stepBank, page⟩ := uncodedFault_links 5 (setErr (.lnk p) 0 s)
  have link : linkSt (uncodedFault 5 (setErr (.lnk p) 0 s)) p = linkSt s p := (linkSt_congr links p).trans (linkSt_setErr ..)
  have bit : bitOf (reg (uncodedFault 5 (setErr (.lnk p) 0 s)) (.lnk p) 0x010) 0 = true := by
    rw [page p 0x010 (by omega)]
    exact setErr_bit _ (by omega) _
  obtain ⟨lost, cut, errs⟩ := portLost_noAlternate (p := p) (s := uncodedFault 5 (setErr (.lnk p) 0 s))
    (((altPort_congr p stepBank).trans (altPort_congr p (setErr_stepBank ..))).trans alt) (by rw [link]; exact own)
    (by rw [link]; exact held)
  exact ⟨link ▸ lost, errs 0 bit, cut⟩

/-! Neighbours that go (R351, 14 R423). -/

/-- The link and LNK_NBR without a neighbour. -/
def neighbourGone (p : Die) (s : State) : State := setReg (.lnk p) 0x048 0 (setLink p { linkSt s p with nbrIv := 0 } s)

/-- The rest of it goes from the peer's entry. -/
theorem clearNbr_neighbourGone (p : Die) (s : State) :
    (clearNbr p s).links = (neighbourGone p s).links ∧ (clearNbr p s).regs = (neighbourGone p s).regs := by
  unfold clearNbr
  lift_lets
  intro id own cleared
  rw [show neighbourGone p s = cleared from rfl]
  clear_value cleared
  split
  · exact ⟨rfl, rfl⟩
  · dsimp only
    split <;> exact ⟨rfl, rfl⟩

theorem linkSt_clearNbr (p : Die) (s : State) : linkSt (clearNbr p s) p = { linkSt s p with nbrIv := 0 } := by
  rw [linkSt_congr (clearNbr_neighbourGone p s).1, neighbourGone, linkSt_setReg, linkSt_setLink_same]

theorem reg_clearNbr (p : Die) (s : State) : reg (clearNbr p s) (.lnk p) 0x048 = 0 := by
  rw [reg_congr (clearNbr_neighbourGone p s).2, neighbourGone, reg_setReg_same]

/-! The job time's timer (R359). -/

theorem reg64_setJoff_zero (goal : Int) (s : State) : reg64 (setJoff 0 goal s) .rdc 0x23C = 0 := by
  have zero : unsgn 64 0 = 0 := rfl
  unfold setJoff setReg64
  rw [reg64, reg_setReg_off _ _ _ (by omega), reg_setReg_same, reg_setReg_same, zero]
  rfl

/-- What a HELLO says of the module stays where only a link and its page change. -/
theorem helloBody_atPort (h : AtPort p s t) (path : (linkSt t p).onAlt = (linkSt s p).onAlt) : helloBody t p = helloBody s p := by
  have epoch : epochNow t = epochNow s := congrArg (fun w : W32 => fld w.toNat 15 0) (h.reg (pg := .rdc) (o := 0x208) nofun)
  obtain ⟨⟨_, _, rfl⟩, -, -⟩ := h
  unfold helloBody
  rw [path, epoch]
  rfl

end

end Sys2Proof.Machine
end

section
namespace Sys2Proof.Machine

/-! The commands of a port, of its timers and of its cage (11 R336 to R359, 14 R423, 19 R541). -/

section
variable {p : Die} {s : State}

/-! A port trains (R336, R351). -/

/-- The port is up, without a neighbour, and LNK_STS shows it. -/
def trainedUp (p : Die) (pmd : Nat) (s : State) : State :=
  let t := setLink p { linkSt s p with portUp := true, nbrIv := 0, conflict := false } s
  let st := if (linkSt t p).onAlt && !(linkSt t p).altDown then 4 else 2
  setReg (.lnk p) 0x040 (w32 (st + 2 ^ 8 * 15 + 2 ^ 16 * (pmd % 256))) t

theorem trainedUp_atPort (p : Die) (pmd : Nat) (s : State) : AtPort p s (trainedUp p pmd s) :=
  atPort_setReg _ _ (atPort_setLink _ (atPort_refl p s))

theorem linkSt_trainedUp (p : Die) (pmd : Nat) (s : State) :
    linkSt (trainedUp p pmd s) p = { linkSt s p with portUp := true, nbrIv := 0, conflict := false } := by
  rw [trainedUp, linkSt_setReg, linkSt_setLink_same]

theorem reg_trainedUp (pmd : Nat) (own : (linkSt s p).onAlt = false) :
    reg (trainedUp p pmd s) (.lnk p) 0x040 = w32 (2 + 2 ^ 8 * 15 + 2 ^ 16 * (pmd % 256)) := by
  rw [trainedUp, reg_setReg_same, linkSt_setLink_same]
  simp only [own, Bool.false_and, Bool.false_eq_true, if_false]

theorem exec_portTrained (pmd : Nat) (power : powered s = true) (fitted : portFitted s.code p = true) (en : pageEn s (.lnk p) = true)
    (trip : s.tripLatched = false) (down : (linkSt s p).portUp = false) (free : (mget Cage.blank s.cages p.val).held = false) :
    exec (.portTrained p pmd) s = .next (sendHello p (trainedUp p pmd s)) := by
  show execPortTrained p pmd s = _
  rw [execPortTrained, if_neg (by simp [power, fitted, en, trip, down, free])]
  rfl

/-- A HELLO leaves. -/
theorem sendHello_sentBy (p : Die) (s : State) :
    SentBy p (newFrame 8 (linkSt s p).far (ownId s) true (helloBody s p)) s (sendHello p s) := sendDirect_sentBy ..

/-! Timers of a link (R342, R344, R351). -/

theorem exec_neighbourTimeout (power : powered s = true) (known : (linkSt s p).nbrIv ≠ 0) :
    exec (.neighbourTimeout p) s = .next (let t := setErr (.lnk p) 5 (clearNbr p s)
      if (linkSt t p).onAlt || !(linkSt t p).portUp then t else setLnkState p 2 t) := by
  show execNeighbourTimeout p s = _
  rw [execNeighbourTimeout, if_neg (by simp [power, known])]

/-- A neighbour is forgotten: the link, LNK_NBR and error bit 5. -/
theorem neighbourTimedOut (p : Die) (s : State) :
    let t := setErr (.lnk p) 5 (clearNbr p s)
    linkSt t p = { linkSt s p with nbrIv := 0 } ∧ bitOf (reg t (.lnk p) 0x010) 5 = true ∧ reg t (.lnk p) 0x048 = 0 := by
  refine ⟨(linkSt_setErr ..).trans (linkSt_clearNbr p s), setErr_bit _ (by omega) _, ?_⟩
  rw [reg_setErr_off (pg := .lnk p) _ nofun (by omega) (by omega), reg_clearNbr]

theorem exec_ackTimer (power : powered s = true) (owed : (linkSt s p).report = true) (active : portActive s p = true)
    (own : (linkSt s p).onAlt = false) (held : (linkSt s p).heldDown = false) :
    exec (.ackTimer p) s = .next (sendDirect p (newFrame 0x0A (linkSt s p).far (ownId s) true []) s) := by
  show execAckTimer p s = _
  rw [execAckTimer, if_pos (by simp [power, owed, pathUp_own own held, active]), sendOn_own _ own]

section
variable (power : powered s = true) (kept : (linkSt s p).unacked ≠ []) (active : portActive s p = true)
  (own : (linkSt s p).onAlt = false) (held : (linkSt s p).heldDown = false)
include power kept active own held

theorem replayTimeout_resends (few : (linkSt s p).replays < 4) : replayTimeout p s =
    replayFrom p 0 (bump (.lnk p) 0x05C (setLink p { linkSt s p with replays := (linkSt s p).replays + 1 } s)) := by
  unfold replayTimeout
  dsimp only
  rw [if_neg (by simp [power, kept, pathUp_own own held, active]), if_neg (by omega)]

/-- The fifth replay in a row: the port fails. -/
theorem replayTimeout_fails (many : 4 ≤ (linkSt s p).replays) :
    replayTimeout p s = linkFault p (setLink p { linkSt s p with replays := 0 } s) := by
  unfold replayTimeout pathFails
  dsimp only
  rw [if_neg (by simp [power, kept, pathUp_own own held, active]), if_pos many, linkSt_setLink_same]
  simp only [own, Bool.false_eq_true, if_false]

end

/-! The job time's timer (R359). -/

theorem exec_tsyncTimer_master (power : powered s = true) (master : isMaster s = true) :
    exec .tsyncTimer s = .next (setJoff 0 0 s) := by
  show execTsyncTimer s = _
  rw [execTsyncTimer, if_neg (by simp [power]), if_pos master]

/-- The link waits for a response to a request of this moment. -/
def asksTime (p : Die) (s : State) : State := setLink p { linkSt s p with t1 := some (jtime s) } s

theorem exec_tsyncTimer_asks (power : powered s = true) (slave : isMaster s = false) (parent : tparent s = some p)
    (up : (linkSt s p).portUp = true) :
    exec .tsyncTimer s = .next (sendDirect p (newFrame 9 (linkSt (asksTime p s) p).far (ownId (asksTime p s)) true
      (tsyncBody 0 (jtime (asksTime p s)) 0 0)) (asksTime p s)) := by
  show execTsyncTimer s = _
  rw [execTsyncTimer, if_neg (by simp [power]), if_neg (by simp [slave]), parent]
  dsimp only
  rw [if_neg (by simp [up])]
  rfl

/-! The cages (19 R541). -/

/-- A cage takes a state. -/
def setCage (p : Die) (c : Cage) (s : State) : State := { s with cages := mput Cage.blank p.val c s.cages }

theorem cage_setCage (p : Die) (c : Cage) (s : State) : mget Cage.blank (setCage p c s).cages p.val = c := mget_mput_same ..

@[simp] theorem setCage_links (p : Die) (c : Cage) (s : State) : (setCage p c s).links = s.links := rfl

theorem powered_setCage (p : Die) (c : Cage) (s : State) : powered (setCage p c s) = powered s := rfl

theorem linkSt_setCage (p : Die) (c : Cage) (s : State) (q : Die) : linkSt (setCage p c s) q = linkSt s q := rfl

/-- A module is held in its cage where the port is not up. -/
theorem holdCage_down (down : (linkSt s p).portUp = false) :
    holdCage p s = setReg (.lnk p) 0x040 0 (setCage p { mget Cage.blank s.cages p.val with held := true } s) := by
  have stays : ¬ (linkSt (setCage p { mget Cage.blank s.cages p.val with held := true } s) p).portUp = true := by
    simp [linkSt_setCage, down]
  exact congrArg (setReg (.lnk p) 0x040 0) (if_neg stays)

section
variable (fitted : portFitted s.code p = true) (power : powered s = true)
include fitted power

theorem exec_pluggableInsert (w : Nat) (empty : (mget Cage.blank s.cages p.val).plugged = false) :
    exec (.pluggableInsert p w) s = .next (let t := setCage p ⟨true, w, false⟩ s
      if 25 < w then holdCage p t else if pageEn t (.lnk p) && !t.tripLatched then setLnkState p 1 t else t) := by
  show execPluggableInsert p w s = _
  rw [execPluggableInsert, if_neg (by simp [fitted, empty])]
  have on : ¬ (!powered (setCage p ⟨true, w, false⟩ s)) = true := by simp [powered_setCage, power]
  exact congrArg Host.Outcome.next (if_neg on)

theorem exec_cmisTimeout (plugged : (mget Cage.blank s.cages p.val).plugged = true) :
    exec (.cmisTimeout p) s = .next (holdCage p s) := by
  show execCmisTimeout p s = _
  rw [execCmisTimeout, if_neg (by simp [fitted, power, plugged])]

theorem exec_pluggableRemove (down : (linkSt s p).portUp = false) :
    exec (.pluggableRemove p) s = .next (setReg (.lnk p) 0x040 0 (setCage p Cage.blank s)) := by
  show execPluggableRemove p s = _
  have stays : ¬ (powered (setCage p Cage.blank s) && (linkSt (setCage p Cage.blank s) p).portUp) = true := by
    simp [linkSt_setCage, down]
  rw [execPluggableRemove, if_neg (by simp [fitted])]
  exact congrArg Host.Outcome.next ((if_neg stays).trans (if_pos power))

end

/-! Results of MID_CMD (14 R420). -/

theorem reg_midDone (cmd code : Nat) (s : State) : reg (midDone cmd code s) .mid 0x088 = w32 (2 ^ 31 + cmd * 256 + code) :=
  (onlyEvents_reg (onlyEvents_midDone cmd code s) (by simp [onEvc, pageBase])).trans (reg_setReg_same ..)

theorem midRefuse_shows (cmd code : Nat) (idle : s.busy = none) :
    reg (midRefuse cmd code s) .mid 0x088 = w32 (2 ^ 31 + cmd * 256 + code) ∧ bitOf (reg (midRefuse cmd code s) .mid 0x010) 3 = true := by
  unfold midRefuse
  rw [if_neg (by simp [idle])]
  refine ⟨?_, setErr_bit _ (by omega) _⟩
  rw [reg_setErr_off (pg := .mid) _ nofun (by omega) (by omega),
    onlyEvents_reg (onlyEvents_fire (by omega) (onlyEvents_refl _)) (by simp [onEvc, pageBase]), reg_setReg_same]

end

/-! PORT_RESET (14 R423, Table 14.4). -/

section
variable {p : Die} {s : State} {rq : Req}

/-- A port that is not up forgets its neighbour, and shows whether it trains. -/
def portCleared (p : Die) (s : State) : State :=
  let t := clearNbr p s
  if (linkSt t p).onAlt then t else setLnkState p (if pageEn t (.lnk p) && !t.tripLatched then 1 else 0) t

theorem exec_portReset_down (may : MayWrite rq s) (idle : s.busy = none) (fitted : portFitted s.code p = true)
    (down : (linkSt s p).portUp = false) : exec (.portReset rq p) s = .next (midDone 0x0B 0 (portCleared p s)) := by
  show execPortReset rq p s = _
  rw [execPortReset, barWrite_may _ may, portReset, if_neg (by simp [idle]), if_neg (by simp [fitted]), if_neg (by simp [down])]
  rfl

theorem exec_portReset_absent (may : MayWrite rq s) (idle : s.busy = none) (absent : portFitted s.code p = false) :
    exec (.portReset rq p) s = .next (midRefuse 0x0B 8 s) := by
  show execPortReset rq p s = _
  rw [execPortReset, barWrite_may _ may, portReset, if_neg (by simp [idle]), if_pos (by simp [absent])]

theorem linkSt_portReset (cmd code : Nat) (p : Die) (s : State) :
    linkSt (midDone cmd code (portCleared p s)) p = { linkSt s p with nbrIv := 0 } := by
  rw [linkSt_congr (midDone_links ..), portCleared]
  dsimp only
  split
  · exact linkSt_clearNbr p s
  · rw [linkSt_setLnkState, linkSt_clearNbr]

end

/-- Settles O47, command by command: what the port's command leaves of its link, and the frame that leaves where one does. -/
theorem linkPorts : Obligations.LinkPorts := by
  unfold Obligations.LinkPorts
  refine ⟨?_, ?_, ?_, ?_, ?_, ?_, ?_, ?_, ?_⟩
  · -- PORT_TRAINED.
    intro p pmd s power fitted en trip down free
    have trained := trainedUp_atPort p pmd s
    have link := linkSt_trainedUp p pmd s
    have sent := sendHello_sentBy p (trainedUp p pmd s)
    have up := sent.link.trans (congrArg (fun l : LinkSt => { l with report := false }) link)
    have out := sent.out
    rw [trained.out] at out
    refine ⟨_, _, exec_portTrained pmd power fitted en trip down free, by rw [up], by rw [up], out, rfl,
      helloBody_atPort trained (by rw [link]), fun q hq => (sent.links q hq).trans (trained.links q hq), fun own => ?_⟩
    rw [sent.regs 0x040 (by omega) (by omega) (by omega), reg_trainedUp pmd own]
  · -- PORT_DOWN.
    intro p s power up alt own held
    obtain ⟨link, failed, cut⟩ := linkFault_noAlternate alt own held
    refine ⟨linkFault p s, congrArg Host.Outcome.next (if_neg (by simp [power, up])), by rw [link], by rw [link], failed, cut⟩
  · -- HELLO_TIMER.
    intro p s power up
    exact ⟨_, _, congrArg Host.Outcome.next (if_pos (by simp [power, up])), (sendHello_sentBy p s).out, rfl, rfl, rfl⟩
  · -- NEIGHBOUR_TIMEOUT.
    intro p s power known
    obtain ⟨link, bit, word⟩ := neighbourTimedOut p s
    refine ⟨_, exec_neighbourTimeout power known, ?_⟩
    dsimp only
    split
    · exact ⟨by rw [link], bit, word, by rw [link]⟩
    · rw [linkSt_setLnkState, link, reg_setLnkState_off _ _ _ _ (by omega) (by omega), reg_setLnkState_off _ _ _ _ (by omega) (by omega)]
      exact ⟨rfl, bit, word, rfl⟩
  · -- ACK_TIMER.
    intro p s power owed active own held
    have sent := sendDirect_sentBy p (newFrame 0x0A (linkSt s p).far (ownId s) true []) s
    refine ⟨_, _, exec_ackTimer power owed active own held, sent.out, rfl, by rw [sent.link], fun any => ⟨?_, rfl⟩⟩
    exact decide_eq_true any
  · -- REPLAY_TIMEOUT.
    intro p s power kept active own held queue
    refine ⟨fun few => ?_, fun many alt => ?_⟩
    · obtain ⟨⟨b, link⟩, sent, counts⟩ := replayFrom_counted (o := 0x05C) 0 active own held queue (by omega)
      refine ⟨_, congrArg Host.Outcome.next (replayTimeout_resends power kept active own held few), by rw [link], by rw [link], counts,
        fun g hg => ⟨_, sent g hg, rfl, rfl⟩⟩
    · have link := linkSt_setLink_same p { linkSt s p with replays := 0 } s
      obtain ⟨lost, -, cut⟩ := linkFault_noAlternate (p := p) (s := setLink p { linkSt s p with replays := 0 } s)
        ((altPort_congr p (setLink_stepBank ..)).trans alt) (by rw [link]; exact own) (by rw [link]; exact held)
      exact ⟨_, congrArg Host.Outcome.next (replayTimeout_fails power kept active own held many), cut, by rw [lost], by rw [lost, link]⟩
  · -- TSYNC_TIMER.
    intro s power
    refine ⟨fun master => ⟨_, exec_tsyncTimer_master power master, reg64_setJoff_zero 0 s, rfl⟩, fun p slave parent up => ?_⟩
    have asked : AtPort p s (asksTime p s) := atPort_setLink _ (atPort_refl p s)
    have sent := sendDirect_sentBy p (newFrame 9 (linkSt (asksTime p s) p).far (ownId (asksTime p s)) true
      (tsyncBody 0 (jtime (asksTime p s)) 0 0)) (asksTime p s)
    refine ⟨_, _, exec_tsyncTimer_asks power slave parent up, ?_, sent.out, rfl, ?_⟩
    · rw [sent.link, asksTime, linkSt_setLink_same]
    · exact congrArg (tsyncBody 0 · 0 0) asked.jtime
  · -- The cages.
    intro p w s fitted power down
    refine ⟨fun empty => ?_, fun plugged => ?_, ?_⟩
    · refine ⟨_, exec_pluggableInsert fitted power w empty, ?_⟩
      dsimp only
      by_cases hot : 25 < w
      · rw [if_pos hot, holdCage_down ((congrArg LinkSt.portUp (linkSt_setCage ..)).trans down), setReg_cages, setReg_links, cage_setCage,
          cage_setCage, decide_eq_true hot]
        exact ⟨rfl, fun _ => reg_setReg_same .., rfl⟩
      · rw [if_neg hot, decide_eq_false hot]
        refine ⟨?_, fun high => absurd high hot, ?_⟩
        · split
          · rw [setLnkState, setBits, setReg_cages, cage_setCage]
          · rw [cage_setCage]
        · split
          · rw [setLnkState, setBits, setReg_links, setCage_links]
          · rfl
    · rw [exec_cmisTimeout fitted power plugged, holdCage_down down]
      refine ⟨_, rfl, ?_, reg_setReg_same .., ?_⟩
      · rw [setReg_cages, cage_setCage]
      · rw [setReg_links, setCage_links]
    · refine ⟨_, exec_pluggableRemove fitted power down, ?_, reg_setReg_same .., ?_⟩
      · rw [setReg_cages, cage_setCage]
      · rw [setReg_links, setCage_links]
  · -- PORT_RESET.
    intro rq p s may idle
    refine ⟨fun fitted down => ?_, fun absent => ?_⟩
    · refine ⟨_, exec_portReset_down may idle fitted down, ?_, ?_, ?_, ?_, reg_midDone ..⟩ <;> rw [linkSt_portReset]
    · obtain ⟨result, refused⟩ := midRefuse_shows 0x0B 8 idle
      exact ⟨_, exec_portReset_absent may idle absent, result, midRefuse_links .., refused⟩

end Sys2Proof.Machine
end
